-- ==== Sys2Proof/Word.lean ====
section
/-! DEFINITION. The words of the block: bytes, 32-bit registers and the sparse table that memory, registers and tables
of the State are held in. -/

namespace Sys2Proof

/-- A byte of memory. -/
abbrev Byte := BitVec 8

/-- A register word (R7). -/
abbrev Word := BitVec 32

/-- A sparse table: the listed keys rise strictly, and no listed value equals what an unlisted key reads as. -/
abbrev Tbl (α : Type) := List (Nat × α)

end Sys2Proof
end

