-- ==== Sys2Proof/Syntax.lean ====
section
/-! DEFINITION. The commands of the block: one constructor of Instr per row of the table of operations and events
(opcode_table.json), with the operands the row's rule names, and the records those operands are made of. -/

namespace Sys2Proof

/-- Who makes a register or memory access (R188, R384, R435, R449). -/
inductive Requester where
  | pf (f : Fin 5)
  | mgA
  | mgB
  | engine (core : Fin 256)
  | hubFw (gorzel : Bool)
  deriving DecidableEq, Repr

/-- A management port (R442) as the source of an access or a message. -/
inductive MgPort where
  | a
  | b
  deriving DecidableEq, Repr

/-- A transport of the MCTP endpoint (R444). -/
inductive Transport where
  | port
  | i3c
  | pcie
  deriving DecidableEq, Repr

/-- The internal hand-offs of R37. -/
inductive HandoffId where
  | qmCore (core : Fin 256)
  | engStore (core : Fin 256) (e : Fin 3)
  | sxNet (core : Fin 256)
  | netPort (port : Fin 32) (vl : Fin 8)
  | sxStack (core : Fin 256) (stack : Fin 20)
  | dieBureau (die : Fin 4)
  | sensorLerfen
  deriving DecidableEq, Repr

/-- The images that the translator places on one core (R86, R89): an entry of a CORES section and its images. -/
structure CoreImage where
  core    : Fin 256
  bundOff : BitVec 32
  odtOff  : BitVec 32
  nBund   : BitVec 16
  nOdt    : BitVec 16
  entries : List (BitVec 16)
  bundles : List (BitVec 8)
  odt     : List (BitVec 8)
  deriving DecidableEq, Repr

/-- What a patrol read of one granule meets (R138). -/
inductive GranuleRead where
  | clean
  | corrected
  | uncorrected
  | parityOnce
  | parityTwice
  deriving DecidableEq, Repr

/-- The fields that every Dripline frame carries (R211). -/
structure FrameHdr where
  domain : BitVec 16
  src    : BitVec 19
  dst    : BitVec 19
  corr   : BitVec 32
  deriving DecidableEq, Repr

/-- The record of a pace domain (R200). -/
structure DomRecord where
  seq  : BitVec 16
  rung : BitVec 3
  t    : BitVec 48
  wRef : BitVec 48
  pRef : BitVec 48
  deriving DecidableEq, Repr

/-- What one training attempt finds (R220, R221, R223): the good lanes of each direction, the plane and port that the
switch tray reports, the fibre delay in 0.1 ns, and the laser input power in 0.1 dBm and the temperature of the port's
optical engine (R255). -/
structure TrainResult where
  txGood   : BitVec 8
  rxGood   : BitVec 8
  plane    : BitVec 3
  trayPort : BitVec 16
  fibre    : BitVec 16
  laserIn  : BitVec 8
  oeTemp   : BitVec 8
  deriving DecidableEq, Repr

/-- A cell of a link (R225); a control cell carries the item codes of R227 and the TYPEs of its DRIPLINE frames (R211). With
it come the counts of the decoder since the cell before: symbols and codewords corrected, codewords uncorrectable (R220). -/
structure Cell where
  ctrl  : Bool
  first : Bool
  last  : Bool
  vl    : Fin 8
  align : Bool
  fault : Bool
  seq   : BitVec 16
  items : List (BitVec 4)
  frames : List (BitVec 4)
  fecSyms : Nat
  fecCorr : Nat
  fecBad : Nat
  deriving DecidableEq, Repr

/-- A packet (R226) with the virtual lane of its cells; on a link its data is encrypted, and the tag follows it. -/
structure Packet where
  vl     : Fin 8
  kind   : BitVec 4
  hver   : BitVec 4
  tier2  : Bool
  keyIdx : Bool
  dest   : BitVec 19
  src    : BitVec 19
  ivCtr  : BitVec 64
  addr   : BitVec 46
  core   : Fin 256
  seqno  : BitVec 24
  notify : BitVec 46
  kspec  : BitVec 64
  data   : List (BitVec 8)
  tag    : List (BitVec 8)
  deriving DecidableEq, Repr

/-- The tag of a remote instruction (R226): issuing core and instruction number. -/
structure InstrTag where
  core  : Fin 256
  seqno : BitVec 24
  deriving DecidableEq, Repr

/-- A handshake message SESS_INIT or SESS_RESP (R248), with the sender's public identity key and its measurements as the
check of R429 sees them. -/
structure SessMsg where
  src      : BitVec 19
  dst      : BitVec 19
  nonce    : List (BitVec 8)
  ephPub   : List (BitVec 8)
  sig      : List (BitVec 8)
  idKey    : List (BitVec 8)
  manifest : List (BitVec 8)
  chainOk  : Bool
  unlocked : Bool
  sealMask : BitVec 4
  deriving DecidableEq, Repr

/-- The operations of a WRITE message (R305); the last constructor stands for an undefined operation code. -/
inductive GzlOp where
  | entrySet (eid : BitVec 19) (entry : BitVec 64)
  | drainReq (eid : BitVec 19)
  | portMapout (p : Fin 32)
  | portRetrain (p : Fin 32)
  | sliceRow (row : Fin 4) (sliceId : BitVec 16) (size : BitVec 11) (st : BitVec 2)
  | sliceMap (row : Fin 4) (first : BitVec 10) (eids : List (BitVec 19))
  | sliceStop (sliceId : BitVec 16)
  | masterSet (eid : BitVec 19)
  | undefined (code : BitVec 8)
  deriving DecidableEq, Repr

/-- A WRITE message (R301), with the sync state of the sender. -/
structure GzlWrite where
  epoch      : BitVec 32
  sender     : BitVec 19
  seq        : BitVec 32
  sentW      : BitVec 48
  senderSync : BitVec 3
  reserved0  : Bool
  ops        : List GzlOp
  deriving DecidableEq, Repr

/-- A REPORT (R303): the sender's port states, sync state, time-master priority and MGMT state, and whether every port
is UP, or UP_X4 where that is admitted (R312). -/
structure GzlReport where
  eid       : BitVec 19
  portState : List (BitVec 3)
  sync      : BitVec 3
  tmPrio    : BitVec 8
  ctrl      : BitVec 2
  data      : BitVec 2
  mgmt      : BitVec 2
  portsOk   : Bool
  deriving DecidableEq, Repr

/-- A slice row as a reply to CLAIM carries it (R300): SLICE_ID, SIZE, state, the EIDs in the order of their index. -/
structure GzlRowRec where
  sliceId : BitVec 16
  size    : BitVec 11
  st      : BitVec 2
  eids    : List (BitVec 19)
  deriving DecidableEq, Repr

/-- The state record of a reply to CLAIM (R300): link states, slice rows, sync state, last write sequence applied. -/
structure GzlRecord where
  ports : List (BitVec 3)
  rows  : List GzlRowRec
  sync  : BitVec 3
  wseq  : BitVec 32
  deriving DecidableEq, Repr

/-- A reply to a Gorzel message (R303): status, DETAIL, and for CLAIM the state record. -/
structure GzlReplyIn where
  status : BitVec 8
  detail : BitVec 32
  record : Option GzlRecord
  deriving DecidableEq, Repr

/-- The answer to a Gorzel message (R303): its sequence number, and the reply where one has come. -/
structure GzlAnswer where
  seq   : BitVec 32
  reply : Option GzlReplyIn
  deriving DecidableEq, Repr

/-- A measurement of the light of an optical engine (R217, R469): the engine, and its power as FAB_OPTICS.LASER_IN shows it. -/
structure LaserIn where
  engine : Fin 8
  power  : BitVec 8
  deriving DecidableEq, Repr

/-- What cold boot and self-test find (R352 to R356, R373): the PUF, the checks of the bank that is booted, good
physical cores per cluster (bit i of entry 8d + c), cluster stores, stacks, repairs, the drawn BOOT_ID, the stacks and
clusters that fail the read-back of a repeated scrub (R142, R143), and the sources whose fault pairs fail their test (R382);
whether Lerfen reports alive from the first bank, and from the other (R377), and whether firmware that the package did not run
before replaced settings by defaults (R376). -/
structure BootIn where
  pufOk       : Bool
  lerfenAlive : Bool
  otherAlive  : Bool
  goodPhys    : List (BitVec 9)
  cluStoreOk  : BitVec 32
  stackOk     : BitVec 20
  repairNew   : BitVec 16
  bootId      : BitVec 64
  scrubStacks : BitVec 20
  scrubClusters : BitVec 32
  wireBad     : List (BitVec 16)
  defaulted   : Bool
  deriving DecidableEq, Repr

/-- What the end of a reset finds (R142, R355 to R357): cores that failed the known-answer run, good physical cores and
cluster stores after self-test, stacks with a new lane repair, clusters that failed the scrub, and the sources whose fault
pairs fail the wire test (R382). -/
structure ResetIn where
  katFail     : BitVec 256
  goodPhys    : List (BitVec 9)
  cluStoreOk  : BitVec 32
  repairNew   : BitVec 16
  badClusters : BitVec 32
  wireBad     : List (BitVec 16)
  deriving DecidableEq, Repr

/-- What the end of a hub restart finds (R172, R374, R376): newFmt tells that the firmware which starts reads Cabinet images
of another FMT_MAJOR. -/
structure HubRestartIn where
  lerfenAlive : Bool
  defaulted   : Bool
  newFmt      : Bool
  deriving DecidableEq, Repr

/-- A fault as a source reports it (R384, R387). -/
structure FaultIn where
  source : BitVec 16
  code   : BitVec 8
  parts  : BitVec 4
  info0  : BitVec 32
  info1  : BitVec 32
  deriving DecidableEq, Repr

/-- The measured part of a sample record (R401). -/
structure SampleIn where
  kind     : BitVec 3
  pc       : BitVec 16
  opcode   : BitVec 8
  pIssue   : BitVec 48
  d1       : Nat
  d2       : Nat
  d3       : Nat
  d4       : Nat
  d5       : Nat
  conflict : Nat
  status   : BitVec 8
  rungChg  : Bool
  deriving DecidableEq, Repr

/-- A requester of SPDM or PLDM: its transport and its MCTP endpoint ID (R451). -/
structure SpdmId where
  tr  : Transport
  eid : BitVec 8
  deriving DecidableEq, Repr

/-- The way in which a management message arrived (R443, R444). -/
inductive MsgPort where
  | a
  | b
  | i3c
  deriving DecidableEq, Repr

/-- A Cumosta management message as it arrives (R445). -/
structure MgmtMsg where
  port   : MsgPort
  mtype  : BitVec 8
  vendor : BitVec 16
  cls    : BitVec 8
  code   : BitVec 8
  flags  : BitVec 8
  status : BitVec 8
  rsv    : BitVec 32
  seq    : BitVec 32
  sender : BitVec 32
  keyId  : BitVec 64
  bootId : BitVec 64
  detail : BitVec 32
  len    : BitVec 16
  body   : List (BitVec 8)
  mac    : List (BitVec 8)
  deriving DecidableEq, Repr

/-- The commands, in the order of the table. Each docstring gives the rule that governs the row. -/
inductive Instr where
  /-- REGISTER_WRITE (R9). A write to a register field that has no behaviour of its own sets RW fields, clears W1C bits or sets W1S bits, and a misaligned access is dropped. -/
  | registerWrite (r : Requester) (off : BitVec 32) (size : Nat) (val : BitVec 32) (sets : BitVec 32)
  /-- RC_FIELD_READ (R12). A read of an RC field returns the value and clears the field, keeping any event that falls in the same cycle. -/
  | rcFieldRead (r : Requester) (off : BitVec 32) (evHi : Nat) (evLo : Nat)
  /-- DRP_W_LO_READ (R188). A read of DRP_W_LO latches the epoch, W and P from one NCLK edge for this reader. -/
  | drpWLoRead (r : Requester)
  /-- CNT_LIVE_LO_READ (R394). A read of a counter's LIVE_LO register latches LIVE_HI for this reader. -/
  | cntLiveLoRead (r : Requester) (off : BitVec 32)
  /-- CNT_SNAP_LO_READ (R394). A read of a counter's SNAP_LO register latches SNAP_HI for this reader. -/
  | cntSnapLoRead (r : Requester) (off : BitVec 32)
  /-- HANDOFF_ENTRY_SEND (R31). A producer that holds a credit sends one entry to its consumer and spends one credit. -/
  | handoffEntrySend (h : HandoffId) (entry : List (BitVec 8))
  /-- CREDIT_RETURN (R31). The consumer returns one credit when an entry leaves its queue. -/
  | creditReturn (h : HandoffId) (n : Nat)
  /-- BUNDLE_ISSUE (R96). A core issues one bundle to its engines once its wait, its CTRL condition and room in every named engine queue all hold. -/
  | bundleIssue (c : Fin 256)
  /-- NEXT (R97). The CTRL operation NEXT continues with the next bundle. -/
  | next (c : Fin 256)
  /-- SETLC (R97). SETLC sets a loop counter to a count. -/
  | setlc (c : Fin 256) (lc : Fin 8) (count : BitVec 20)
  /-- LOOPEND (R97). LOOPEND decrements a non-zero loop counter and continues at the target index, or else continues with the next bundle. -/
  | loopend (c : Fin 256) (lc : Fin 8) (target : BitVec 16)
  /-- WAIT_SYNC (R97). WAIT_SYNC lets its bundle issue only once the bound sync object has reached the target. -/
  | waitSync (c : Fin 256) (slot : Fin 128) (target : BitVec 32)
  /-- SIGNAL (R97). SIGNAL adds a value to a sync object once every earlier instruction of the core has completed. -/
  | signal (c : Fin 256) (slot : Fin 128) (value : BitVec 32)
  /-- FENCE (R97). FENCE lets its bundle issue only when all four engines are idle. -/
  | fence (c : Fin 256)
  /-- END (R97). END waits until all four engines are idle and then ends the program on the core. -/
  | endProgram (c : Fin 256)
  /-- WAIT_PACE (R97). WAIT_PACE lets its bundle issue only when P has reached the launch pace time plus an offset. -/
  | waitPace (c : Fin 256) (offset : BitVec 39)
  /-- MMA (R66). A matrix engine computes C = A · B or C = C + A · B with exact block sums, rounded once per block into W48, and then drains C. -/
  | mma (c : Fin 256) (e : Fin 2)
  /-- ENGINE_INSTR_COMPLETE (R95). An engine instruction whose results become visible adds 1 to its local event counter if POST_EN is set. -/
  | engineInstrComplete (c : Fin 256) (e : Fin 4)
  /-- ADD (R77). The VX operation ADD adds two vectors lane by lane. -/
  | add (c : Fin 256)
  /-- SUB (R77). The VX operation SUB subtracts two vectors lane by lane. -/
  | sub (c : Fin 256)
  /-- MUL (R77). The VX operation MUL multiplies two vectors lane by lane. -/
  | mul (c : Fin 256)
  /-- FMA (R77). The VX operation FMA computes VA × VB + VC in each lane. -/
  | fma (c : Fin 256)
  /-- MIN (R77). The VX operation MIN takes the lane-wise minimum under IEEE 754-2019. -/
  | min (c : Fin 256)
  /-- MAX (R77). The VX operation MAX takes the lane-wise maximum under IEEE 754-2019. -/
  | max (c : Fin 256)
  /-- CMPEQ (R80). The VX operation CMPEQ compares lanes for equality and sets a lane mask. -/
  | cmpeq (c : Fin 256)
  /-- CMPLT (R80). The VX operation CMPLT compares lanes for less-than and sets a lane mask. -/
  | cmplt (c : Fin 256)
  /-- CMPLE (R80). The VX operation CMPLE compares lanes for less-or-equal and sets a lane mask. -/
  | cmple (c : Fin 256)
  /-- SEL (R77). The VX operation SEL selects each lane from one of two vectors. -/
  | sel (c : Fin 256)
  /-- ACC (R100). The VX operation ACC adds a vector, or another accumulator vector, into an accumulator vector with one RNE rounding per lane. -/
  | acc (c : Fin 256)
  /-- ACC_READ (R100). The VX operation ACC_READ drains an accumulator vector to FMT_OUT. -/
  | accRead (c : Fin 256)
  /-- CVT (R100). The VX operation CVT converts between two formats, W48 and T5 packing included. -/
  | cvt (c : Fin 256)
  /-- QUANT_MX32 (R79). The VX operation QUANT_MX32 quantises to MX32 with E8M0 block scales. -/
  | quantMx32 (c : Fin 256)
  /-- QUANT_G16 (R79). The VX operation QUANT_G16 quantises to G16 with UE4M4 block scales under a tensor scale. -/
  | quantG16 (c : Fin 256)
  /-- RCP (R78). The VX operation RCP computes the F32 reciprocal within 1 ulp. -/
  | rcp (c : Fin 256)
  /-- RSQRT (R78). The VX operation RSQRT computes the F32 reciprocal square root within 1 ulp. -/
  | rsqrt (c : Fin 256)
  /-- EXP2 (R78). The VX operation EXP2 computes the F32 exp2 within 2 ulp. -/
  | exp2 (c : Fin 256)
  /-- LOG2 (R78). The VX operation LOG2 computes the F32 log2 within 2 ulp. -/
  | log2 (c : Fin 256)
  /-- TANH (R78). The VX operation TANH computes the F32 tanh within 2 ulp. -/
  | tanh (c : Fin 256)
  /-- SIGM (R78). The VX operation SIGM computes the F32 sigmoid within 2 ulp. -/
  | sigm (c : Fin 256)
  /-- LSUM (R78). The VX operation LSUM sums across the lanes in a fixed pairwise tree and writes the result into lane 0. -/
  | lsum (c : Fin 256)
  /-- LMAX (R100). The VX operation LMAX takes the maximum across the lanes and writes it into lane 0. -/
  | lmax (c : Fin 256)
  /-- PERM (R100). The VX operation PERM permutes VA by the indices in VB. -/
  | perm (c : Fin 256)
  /-- VX_LOAD (R77). The VX operation LOAD loads one vector register from the own core store or the own cluster store. -/
  | vxLoad (c : Fin 256)
  /-- STORE (R77). The VX operation STORE stores one vector register to the own core store or the own cluster store. -/
  | store (c : Fin 256)
  /-- GATHER (R129). The VX operation GATHER gathers 16 elements by index from the own core store, taking longer on bank conflicts. -/
  | gather (c : Fin 256)
  /-- SCATTER (R129). The VX operation SCATTER scatters 16 elements by index, and the higher index wins on the same byte. -/
  | scatter (c : Fin 256)
  /-- ACLOAD (R100). The VX operation ACLOAD loads 64 W48 values from memory into an accumulator vector. -/
  | acload (c : Fin 256)
  /-- ACADD (R100). The VX operation ACADD adds 64 W48 values from memory into an accumulator vector, rounding each lane once. -/
  | acadd (c : Fin 256)
  /-- ACSTORE (R100). The VX operation ACSTORE stores an accumulator vector to memory as W48. -/
  | acstore (c : Fin 256)
  /-- PUT (R101). The SX operation PUT reads the own store and writes any address, locally or to a remote package. -/
  | put (c : Fin 256)
  /-- GET (R101). The SX operation GET reads any address and writes the own core store or the own cluster store. -/
  | get (c : Fin 256)
  /-- MCAST (R101). The SX operation MCAST writes the same bytes from the own core store into every selected cluster store of the package. -/
  | mcast (c : Fin 256)
  /-- DOORBELL (R107). A doorbell write to QM_DB_PART advances PI, or CI for a completion queue, and stalls the queue on overflow. -/
  | doorbell (r : Requester) (window : Fin 4) (word : BitVec 32)
  /-- COMMAND_DISPATCH (R111). The queue manager fetches a command, checks it and dispatches it once its order condition and the start of the previous command allow. -/
  | commandDispatch (q : BitVec 20)
  /-- COMPLETION_WRITE (R115). A command's completion makes its writes visible, applies the SYNC_EN update, writes the completion and raises MSI-X. -/
  | completionWrite (q : BitVec 20) (idx : BitVec 32)
  /-- NOP (R110). The command NOP completes with OK and does nothing else. -/
  | nop (q : BitVec 20)
  /-- LOAD (R90). The command LOAD checks a program object, translates or places it into the lowest free program slot and returns a handle. -/
  | load (q : BitVec 20)
  /-- LOAD_TRANSLATION_DONE (R87). The hub firmware finishes translating a tile graph and LOAD completes. -/
  | loadTranslationDone (imgs : List CoreImage)
  /-- UNLOAD (R93). The command UNLOAD waits until no instance runs, disarms the program's entries, frees the slot and raises its GEN. -/
  | unload (q : BitVec 20)
  /-- LAUNCH (R112). The command LAUNCH starts a program together on all its cores once they are free and DATA is RUN. -/
  | launch (q : BitVec 20)
  /-- ARM (R119). The command ARM writes a launch-table slot with a pace time on every core of the program. -/
  | arm (q : BitVec 20)
  /-- DISARM (R121). The command DISARM removes an armed launch-table entry. -/
  | disarm (q : BitVec 20)
  /-- COPY (R113). The command COPY moves bytes between slice global addresses on the queue's TARGET core. -/
  | copy (q : BitVec 20)
  /-- FILL (R113). The command FILL writes a 32-bit pattern over a range on the queue's TARGET core. -/
  | fill (q : BitVec 20)
  /-- SYNC_WAIT (R118). The command SYNC_WAIT starts once its sync object has reached TARGET. -/
  | syncWait (q : BitVec 20)
  /-- LAUNCH_ENTRY_FIRE (R120). When P reaches an armed entry's T, its cores issue their first bundle, and LATE_POLICY governs cores that are busy. -/
  | launchEntryFire (c : Fin 256) (slot : Fin 64)
  /-- LATE_CORE_START (R120). A core that was late under RUN_LATE starts the program once it is free. -/
  | lateCoreStart (c : Fin 256)
  /-- PROGRAM_INSTANCE_END (R119). A program instance ends on all its cores, and its LAUNCH or ARM completes. -/
  | programInstanceEnd (inst : Nat)
  /-- INVALIDATE (R124). The queue command INVALIDATE reads a DISABLED queue's descriptor afresh and activates the queue if the descriptor passes its checks. -/
  | invalidate (r : Requester) (q : BitVec 20)
  /-- QUEUE_DRAIN (R124). The queue command DRAIN stops fetching and moves an ACTIVE queue to DRAINING. -/
  | queueDrain (r : Requester) (q : BitVec 20)
  /-- QUEUE_RESET (R124). The queue command RESET moves a queue to DISABLED and completes its unstarted commands with STALLED. -/
  | queueReset (r : Requester) (q : BitVec 20)
  /-- QUEUE_DRAIN_DONE (R109). When the last fetched command of a DRAINING queue completes, the queue becomes DISABLED and its state is written back. -/
  | queueDrainDone (q : BitVec 20)
  /-- SYNC_ADD (R117). An ADD to a sync object applies atomically at its memory controller and re-evaluates every waiter. -/
  | syncAdd (addr : BitVec 46) (val : BitVec 32)
  /-- SYNC_IRQ_ARM (R116). A write of a sync object's word at 0x04 with IRQ_EN set arms the interrupt, which fires at once if the target has already been reached. -/
  | syncIrqArm (r : Requester) (addr : BitVec 46) (word : BitVec 32)
  /-- SRAM_PATROL_READ (R132). SRAM patrol reads one line per bank every 4,096 ECLK cycles and writes back corrected words. -/
  | sramPatrolRead (addr : BitVec 46) (written : Bool)
  /-- MEM_PATROL (R138). Stack patrol reads every granule once in each period of PERIOD_H hours and records errors. -/
  | memPatrol (s : Fin 20) (addr : BitVec 46) (res : GranuleRead)
  /-- CHANNEL_POWER_DOWN (R133). A stack channel that has been idle for 1 µs enters power-down. -/
  | channelPowerDown (s : Fin 20) (ch : Fin 32)
  /-- SCRUB_START (R140). A scrub starts once every engine of the partition is idle and its generation has been retired. -/
  | scrubStart (p : Fin 4)
  /-- SCRUB_DONE (R140). The scrub's write and read-back passes end, failures are fenced and the pending mark is cleared. -/
  | scrubDone (p : Fin 4) (badStacks : BitVec 20) (badClusters : BitVec 32)
  /-- BEGIN (R163). The Cabinet command BEGIN opens the shadow as a copy of the current generation. -/
  | beginTxn (r : Requester)
  /-- STAGE (R164). The Cabinet command STAGE checks an image and writes its sections into the shadow. -/
  | stage (r : Requester)
  /-- COMMIT (R165). The Cabinet command COMMIT validates the shadow, writes HWM and arms the edge or applies it at once. -/
  | commit (r : Requester) (timed : Bool)
  /-- ROLLBACK (R171). The Cabinet command ROLLBACK discards the shadow or disarms an armed commit. -/
  | rollback (r : Requester)
  /-- REVERT (R168). The Cabinet command REVERT makes the previous generation current, at once or at a pace time. -/
  | revert (r : Requester) (timed : Bool)
  /-- CABINET_EDGE (R167). At a commit's edge the package checks quiet, DRIFT and safe state again and applies every section together, or applies nothing. -/
  | cabinetEdge
  /-- REPLICA_COMPARE (R177). Every 1,024 NCLK cycles each die replica is compared with the timebase root, and a difference is a fatal fault. -/
  | replicaCompare (d : Fin 4)
  /-- EPOCH_WRAP (R186). The epoch rises by 1 when W wraps from 0xFFFF_FFFF_FFFF to 0. -/
  | epochWrap
  /-- SYNC_EXCHANGE_START (R192). Every 1 ms on each plane a member sends SYNC_REQ to the master. -/
  | syncExchangeStart (plane : Fin 8) (frac : BitVec 8)
  /-- SYNC_REQ (R192). The master timestamps the arriving SYNC_REQ and answers with SYNC_RESP in hardware. -/
  | syncReq (h : FrameHdr) (exch : BitVec 16) (t1 : BitVec 56) (frac2 frac3 : BitVec 8)
  /-- SYNC_RESP (R195). A member computes an offset from SYNC_RESP, updates its estimate and corrects or steps W and P under its sync state. -/
  | syncResp (h : FrameHdr) (plane : Fin 8) (exch : BitVec 16) (t1 : BitVec 56) (t2 : BitVec 56) (t3 : BitVec 56) (frac : BitVec 8) (reqCorr : BitVec 32) (epoch : BitVec 16)
  /-- ESTIMATE_TIMEOUT (R195). A member in LOCKED that has had no estimate for 4 ms enters HOLDOVER. -/
  | estimateTimeout
  /-- HOLDOVER_EXPIRY (R195). HOLDOVER_MS elapses in HOLDOVER and the package enters RELOCK. -/
  | holdoverExpiry
  /-- RUNG_DECIDE (R202). The keeper decides a new domain rung, sets T and raises SEQ. -/
  | rungDecide
  /-- RUNG_PROPOSE (R203). A member receiving RUNG_PROPOSE arms it and answers RUNG_ACK, or answers RUNG_NAK. -/
  | rungPropose (h : FrameHdr) (seq : BitVec 16) (k : BitVec 3) (t : BitVec 48)
  /-- RUNG_ACK (R202). The keeper receives a member's RUNG_ACK. -/
  | rungAck (h : FrameHdr) (seq : BitVec 16)
  /-- RUNG_NAK (R202). The keeper receives a member's RUNG_NAK and will abort the change. -/
  | rungNak (h : FrameHdr) (seq : BitVec 16) (status : BitVec 8)
  /-- RUNG_ACK_DEADLINE (R202). At 50 µs the keeper sends RUNG_ABORT if any ACK is missing or any NAK has arrived. -/
  | rungAckDeadline
  /-- RUNG_ABORT (R203). A member receiving RUNG_ABORT for its armed SEQ disarms it and lowers any raised voltage. -/
  | rungAbort (h : FrameHdr) (seq : BitVec 16)
  /-- RUNG_SWITCH (R202). When P reaches T, P counts at the new rung and ECLK switches if the package is IN_PACE. -/
  | rungSwitch
  /-- RUNG_REPROPOSE (R202). One ms after an abort, the keeper proposes again with a new SEQ. -/
  | rungRepropose
  /-- RUNG_REQ (R201). The keeper receives a member's ceiling in RUNG_REQ. -/
  | rungReq (h : FrameHdr) (ceil : BitVec 3)
  /-- RUNG_REQ_REPEAT (R201). A member repeats its ceiling every 10 ms. -/
  | rungReqRepeat
  /-- BEACON_SEND (R199). The keeper sends BEACON with its record on every plane every 1 ms. -/
  | beaconSend
  /-- BEACON (R204). A member receiving BEACON compares its record and enters SLIP on a mismatch. -/
  | beacon (h : FrameHdr) (rec : DomRecord)
  /-- KEEPER_TAKEOVER (R199). The backup becomes keeper after 10 ms without BEACON on any plane. -/
  | keeperTakeover
  /-- RECORD_REQ (R199). The keeper answers RECORD_REQ with RECORD. -/
  | recordReq (h : FrameHdr)
  /-- RECORD (R204). A member in SLIP or JOINING recomputes P from RECORD, sets its rung and returns to IN_PACE. -/
  | record (h : FrameHdr) (rec : DomRecord)
  /-- FLOOR_ENTRY (R206). A floor cause switches ECLK to ÷24 on the next edge, enters OUT_OF_PACE and reports ceiling 5. -/
  | floorEntry (cause : Fin 5)
  /-- FLOOR_EXIT (R326). When every floor cause has cleared, the package raises VCORE and returns ECLK to the domain rung on a shared P edge. -/
  | floorExit
  /-- TS_PULSE (R210). TS_PULSE is driven high when W reaches each pulse value and held for 16 × WIDTH ticks. -/
  | tsPulse
  /-- DRP_RUNG_TARGET_WRITE (R214). A write of DRP_RUNG_TARGET is forwarded to the keeper as the domain target. -/
  | drpRungTargetWrite (r : Requester) (val : BitVec 32)
  /-- LINK_TRAIN_ATTEMPT (R221). A port runs one training attempt, choosing width and FEC mode and exchanging TRAIN items. -/
  | linkTrainAttempt (p : Fin 32) (res : TrainResult)
  /-- LINK_TRAIN_END (R222). A training run ends ×8, ×4 or failed, and the port enters UP, UP_X4 or MAPPED_OUT. -/
  | linkTrainEnd (p : Fin 32)
  /-- LINK_FAULT (R222). Loss of lock or too many uncorrectable codewords retrains the port or maps it out, and discards its egress cells. -/
  | linkFault (p : Fin 32)
  /-- LASER_LOW (R217). Laser input below its limit takes every port of the optical engine to MAPPED_OUT within 10 µs. -/
  | laserLow (m : LaserIn)
  /-- LASER_RESTORED (R217). Laser input that has been back within its limit for 100 ms lets the engine's ports take part in retrains again. -/
  | laserRestored (m : LaserIn)
  /-- CELL_SLOT_TX (R228). In each cell slot, the transmitter sends a control cell, a strict-VL cell or a weighted round-robin cell. -/
  | cellSlotTx (p : Fin 32)
  /-- CELL_RX (R225). A received cell is placed in the Sump, and a missing SEQ discards open partial packets. -/
  | cellRx (p : Fin 32) (cell : Cell)
  /-- XON_SEND (R233). Once the headroom is empty and the pair could take 64 KiB more, the package sends XON. -/
  | xonSend (p : Fin 32) (vl : Fin 8)
  /-- FLOW (R229). A received FLOW item pauses or resumes the VLs that its XOFF map names. -/
  | flow (p : Fin 32) (map : BitVec 8)
  /-- PACKET_RX (R241). An arriving packet is checked for tag, source, address and partition, and is then written, NAKed or dropped. -/
  | packetRx (p : Fin 32) (pkt : Packet) (early : Nat)
  /-- GET_REQ (R242). The port read engine at the destination reads LENGTH bytes and returns them as GET_RESP packets. -/
  | getReq (p : Fin 32) (pkt : Packet)
  /-- GET_RESP (R242). The requester writes the returned bytes and completes the GET when all LENGTH bytes are written. -/
  | getResp (p : Fin 32) (pkt : Packet)
  /-- NOTIFY_ADD (R242). The destination adds 1 to the NOTIFY object and acknowledges it. -/
  | notifyAdd (p : Fin 32) (pkt : Packet)
  /-- ACK (R242). The source takes the acknowledgement of packets and completes the instruction once every packet has been acknowledged. -/
  | ack (tags : List (InstrTag × Nat))
  /-- NAK (R243). The source takes a refusal, and the instruction completes with the status of its first NAK. -/
  | nak (tag : InstrTag) (status : BitVec 8) (detail : BitVec 32)
  /-- REMOTE_INSTR_TIMEOUT (R243). One ms after its last packet left, an instruction with packets still unanswered completes with TIMEOUT. -/
  | remoteInstrTimeout (tag : InstrTag)
  /-- ENTRY_SET (R238). A Gorzel write of an endpoint-table entry is accepted or refused under the allowed state transitions. -/
  | entrySet (eid : BitVec 19) (entry : BitVec 64)
  /-- DRAIN_REQ (R245). A drain request waits for every snapshot of the entry and then queues a DRAIN_PROBE on each enabled VL of each used plane. -/
  | drainReq (eid : BitVec 19)
  /-- DRAIN_PROBE (R245). The destination holds a probe until earlier cells of its VL and port are written, and then returns DRAIN_ECHO. -/
  | drainProbe (p : Fin 32) (vl : Fin 8) (src : BitVec 19) (n : BitVec 32)
  /-- DRAIN_ECHO (R245). The source takes an echo, and the drain completes with OK when every echo has arrived. -/
  | drainEcho (src : BitVec 19) (n : BitVec 32)
  /-- DRAIN_TIMEOUT (R246). A drain not completed within 10 ms completes with TIMEOUT, and the entry stays in DRAIN. -/
  | drainTimeout (eid : BitVec 19)
  /-- SESS_INIT (R248). The responder takes a signed SESS_INIT, checks the peer and answers SESS_RESP, or replaces an existing session. -/
  | sessInit (m : SessMsg)
  /-- SESS_RESP (R248). The initiator takes SESS_RESP, derives the keys and sends SESS_DONE. -/
  | sessResp (m : SessMsg)
  /-- SESS_DONE (R248). The responder checks the SESS_DONE HMAC and puts the session in place. -/
  | sessDone (src : BitVec 19) (hmac : List (BitVec 8))
  /-- HANDSHAKE_RETRY (R248). A handshake message with no answer is sent again after 10 ms, and the handshake fails after 3 attempts. -/
  | handshakeRetry (eid : BitVec 19)
  /-- REKEY (R249). A direction rekeys by a new handshake when IV_CTR reaches 2^40 or the key is 24 h old. -/
  | rekey (eid : BitVec 19)
  /-- OLD_KEY_ERASE (R249). Ten ms after a key switch, the receiver erases the old key. -/
  | oldKeyErase (eid : BitVec 19)
  /-- ACTIVATE (R262). The chamber command ACTIVATE checks a descriptor and moves the chamber to READY with CSEQ 0. -/
  | activate (r : Requester) (id : BitVec 12)
  /-- RETIRE (R263). The chamber command RETIRE moves the chamber to RETIRING and ends its requests with STALE_GENERATION. -/
  | retire (r : Requester) (id : BitVec 12)
  /-- CHAMBER_RETIRED (R263). Once no message of the chamber waits for its ACK or NAK, the chamber entry becomes INACTIVE. -/
  | chamberRetired (id : BitVec 12)
  /-- CHAMBER_REQUEST_FETCH (R266). The package fetches one chamber request, checks it and arms step 0 or starts it in credited mode. -/
  | chamberRequestFetch (id : BitVec 12)
  /-- CHAMBER_STEP_START (R278). A step starts when P reaches T_s with the previous step complete, or in credited mode when the previous step completes. -/
  | chamberStepStart (id : BitVec 12)
  /-- CHAMBER_STEP_COMPLETE (R269). A step completes once its messages are handed off and its chunks have arrived and been reduced, and the last step completes the request. -/
  | chamberStepComplete (id : BitVec 12)
  /-- CHAMBER_CHUNK_RX (R275). An arriving chamber packet is checked for generation, sequence and slot, and is then written to its landing slot or to DST. -/
  | chamberChunkRx (p : Fin 32) (pkt : Packet)
  /-- STALL_NOTICE (R285). A received STALL notice with the chamber's own CGEN moves the chamber to STALLED. -/
  | stallNotice (p : Fin 32) (pkt : Packet)
  /-- DONE_TOKEN (R277). A received DONE token returns a landing credit. -/
  | doneToken (p : Fin 32) (pkt : Packet)
  /-- CHAMBER_DEADLINE (R282). A step that is not complete at its deadline ends the request with STALLED and stops the chamber. -/
  | chamberDeadline (id : BitVec 12)
  /-- REGISTER (R297). The arbiter takes an instance's registration and assigns it a role. -/
  | register (role : BitVec 2) (holder : BitVec 19) (preferred : Bool)
  /-- RENEW (R299). The active instance renews its lease with the arbiter every 100 ms. -/
  | renew (answered : Bool) (expiryMs : BitVec 32)
  /-- LEASE_LAPSE (R299). The active instance's own deadline passes, and it stops writing, becomes MEMBER and registers again. -/
  | leaseLapse
  /-- GRANT (R317). A standby granted the lease becomes ACTIVE, claims every package and names the master. -/
  | grant (epoch : BitVec 32) (prevHolder : BitVec 19)
  /-- CLAIM (R300). A package takes a newer epoch and holder from CLAIM, or refuses it with LEASE_EXPIRED. -/
  | claim (epoch : BitVec 32) (holder : BitVec 19)
  /-- GORZEL_WRITE_CHECK (R301). A WRITE message is checked for epoch, holder, age and sequence before its operations are applied in order. -/
  | gorzelWriteCheck (w : GzlWrite)
  /-- PORT_MAPOUT (R305). The WRITE operation PORT_MAPOUT maps a port out with CAUSE FORCED. -/
  | portMapout (p : Fin 32)
  /-- PORT_RETRAIN (R305). The WRITE operation PORT_RETRAIN retrains a mapped-out port in a maintenance window. -/
  | portRetrain (p : Fin 32)
  /-- SLICE_ROW (R313). The WRITE operation SLICE_ROW sets a slice row's ID, size and state. -/
  | sliceRow (row : Fin 4) (sliceId : BitVec 16) (size : BitVec 11) (st : BitVec 2)
  /-- SLICE_MAP (R305). The WRITE operation SLICE_MAP sets the EIDs of up to 16 indices of a slice row. -/
  | sliceMap (row : Fin 4) (first : BitVec 10) (eids : List (BitVec 19))
  /-- SLICE_STOP (R314). The WRITE operation SLICE_STOP moves a slice row to STOPPED, and remote accesses of the partition then fail with FENCED. -/
  | sliceStop (sliceId : BitVec 16)
  /-- MASTER_SET (R310). The WRITE operation MASTER_SET names the time master. -/
  | masterSet (eid : BitVec 19)
  /-- REPORT (R304). The active instance takes a package's REPORT of port, sync and plane states. -/
  | report (rep : GzlReport)
  /-- STATE_COPY (R317). A standby takes a journal copy from the active instance, or refuses it on a version mismatch. -/
  | stateCopy (jseq : BitVec 32) (version : BitVec 32) (recs : List (BitVec 32)) (versionOk : Bool)
  /-- TAKEBACK (R318). A preferred standby with a current journal asks the arbiter for the role back. -/
  | takeback (accepted : Bool)
  /-- YIELD_REQ (R317). The active instance asked to yield waits up to 60 s for a quiet point. -/
  | yieldReq
  /-- QUIET_POINT (R318). At a quiet point, the yielding instance sends its final STATE_COPY and YIELD and becomes YIELDING. -/
  | quietPoint
  /-- YIELD (R318). The arbiter takes YIELD and grants the preferred instance at once with the next epoch. -/
  | yield (newHolder : BitVec 19)
  /-- CARVE (R312). The active instance chooses packages for a new slice, writes their rows and returns a SLICE_ID. -/
  | carve (size : BitVec 32) (rackPref : BitVec 13)
  /-- RELEASE (R313). The active instance writes the rows of a slice FREE. -/
  | release (sliceId : BitVec 16)
  /-- JOB_FAULT (R316). The active instance reports a stopped slice to the rack manager. -/
  | jobFault (sliceId : BitVec 16) (cause : BitVec 8) (eid : BitVec 19) (port : BitVec 8)
  /-- MAINT (R308). The rack manager opens or closes a maintenance window for a list of packages. -/
  | maint (isOpen : Bool) (eids : List (BitVec 19))
  /-- PAUSE_NOTICE (R315). An instance announces an expected MGMT pause, or its end, and writes to it are held. -/
  | pauseNotice (src : BitVec 19) (ms : BitVec 32)
  /-- GORZEL_MSG_RETRY (R303). A Gorzel message with no reply within 20 ms is sent again on the other port, and the sender gives up after 3 attempts. The operand is the reply, where one has come. -/
  | gorzelMsgRetry (m : GzlAnswer)
  /-- PACKAGE_LOST (R315). A missing REPORT or an unanswered CLAIM makes the active instance declare a package lost and react under R316. -/
  | packageLost (eid : BitVec 19)
  /-- FAULT_REACTION (R316). Gorzel stops slices, names a master, rewrites routes and reports the job fault within fixed times. -/
  | faultReaction (eid : BitVec 19) (port : Option (Fin 32))
  /-- ROUTE_INSTALL (R307). Gorzel computes a route's weights and installs it by direct write or by drain and rewrite. -/
  | routeInstall (dst : BitVec 19)
  /-- STEPSTOOL_ADMIT (R328). In each admission interval the Stepstool admits or releases at most one core per die. -/
  | stepstoolAdmit (d : Fin 4)
  /-- CORE_IDLE_RELEASE (R329). An admitted core whose engines have had no instruction for 1,024 ECLK cycles becomes eligible for release. -/
  | coreIdleRelease (c : Fin 256)
  /-- RAMP_ARM (R332). PWR_RAMP_CTL ARM arms a pre-ramp entry with T, N and HOLD_US. -/
  | rampArm (r : Requester) (e : Fin 16) (n : BitVec 7) (holdUs : BitVec 8)
  /-- RAMP_DISARM (R332). PWR_RAMP_CTL DISARM empties a pre-ramp entry at once. -/
  | rampDisarm (r : Requester) (e : Fin 16)
  /-- RAMP_FIRE (R332). When P reaches a pre-ramp entry's T, its partition's dies raise n_d towards N. -/
  | rampFire (e : Fin 16)
  /-- RAMP_HOLD_EXPIRY (R332). HOLD_US after T, cores running only filler become eligible for release, and the entry becomes EMPTY. -/
  | rampHoldExpiry (e : Fin 16)
  /-- RAIL_SAMPLE (R333). Every 1 ms the package reads each rail's voltage and current and updates P_avg. -/
  | railSample (samples : List (Option (Nat × Nat)))
  /-- POWER_CONTROLLER_TICK (R334). Every 10 ms the power controller sets the power ceiling, memory admission and core admission against L. -/
  | powerControllerTick
  /-- CAP_REQ (R335). A cap request sets a new target, moves L towards C_eff and replies with LIMIT_MS and AVG_MS. -/
  | capReq (cap : BitVec 16) (urgent : Bool)
  /-- HB_LOST (R342). Two s after the last heartbeat, HB_LOST is set. -/
  | hbLost
  /-- ORPHAN (R342). Thirty-two s after the last heartbeat, ORPHAN is set and C_eff includes ORPHAN_W. -/
  | orphan
  /-- HEARTBEAT (R448). A heartbeat restarts the timer, clears HB_LOST and ORPHAN and is answered with status registers. -/
  | heartbeat (port : Fin 3)
  /-- COOLING (R448). A cooling report feeds the inlet temperature and starts or clears the FLOW_LOST cause. -/
  | cooling (inlet : BitVec 16) (flow : BitVec 8) (flowLost : Bool)
  /-- THERMAL_SAMPLE (R345). Every 1 ms the thermal engine samples every sensor and acts on hot spots and stacks. -/
  | thermalSample (readings : List (Option Int))
  /-- RTH_ESTIMATE (R349). Every second Lerfen computes R_th and sets or clears COOLING_DEGRADED and C_cool. -/
  | rthEstimate
  /-- THERMTRIP (R346). An analog comparator at 118 °C asserts THERMTRIP_N, stops the compute clocks and enters the safe state. -/
  | thermtrip (d : Fin 5)
  /-- BRAKE_N_ASSERT (R340). BRAKE_N low for 100 ns enters the floor state. -/
  | brakeNAssert (lowNs : Nat)
  /-- BRAKE_N_RELEASE (R339). BRAKE_N high for 1 ms clears the BRAKE_N floor cause. -/
  | brakeNRelease (highUs : Nat)
  /-- COOL_CLEAR (R339). A write of PWR_CTL.COOL_CLEAR clears the COOL_STOP cause if the hot spots are cool enough. -/
  | coolClear (r : Requester)
  /-- PWR_GOOD_LOSS (R322). A PWR_GOOD input deasserted for more than 1 µs makes a whole-package reset. -/
  | pwrGoodLoss (rail : Fin 8) (lowNs : Nat)
  /-- COLD_BOOT (R352). Once all PWR_GOOD inputs are asserted, cold boot locks the PLL, derives keys, verifies firmware and trains stores, stacks and links. -/
  | coldBoot (b : BootIn)
  /-- READY (R352). Cold boot ends with the topology valid, CTRL and DATA RUN and HUB_PLANE_STATUS.READY set. -/
  | ready
  /-- BOOT_FALLBACK (R377). A failed boot attempt boots the other bank and makes it active. -/
  | bootFallback
  /-- ROM_RECOVERY (R378). When both banks fail, the package enters ROM recovery with only PF0 and the management ports. -/
  | romRecovery
  /-- RESET_N (R358). RESET_N low for 1 µs or more makes a whole-package reset. -/
  | resetN (lowNs : Nat)
  /-- CORE (R360). The reset command CORE resets one logical core, advances its generation and stops its program. -/
  | core (r : Requester) (c : Fin 256)
  /-- CLUSTER (R360). The reset command CLUSTER resets eight logical cores and the crossings of the cluster store. -/
  | cluster (r : Requester) (k : Fin 32)
  /-- PARTITION (R361). The reset command PARTITION stops, scrubs, repairs and unloads a partition in 350 ms. -/
  | partition (r : Requester) (p : Fin 4)
  /-- COMPUTE (R362). The reset command COMPUTE pauses DATA, unloads every program and reloads microcode in 120 ms. -/
  | compute (r : Requester)
  /-- PACKAGE (R358). The reset command PACKAGE makes a whole-package reset. -/
  | package (r : Requester)
  /-- RESET_DONE (R358). A reset unit finishes and accepts work again, writing HUB_RESET_STAT. -/
  | resetDone (res : ResetIn)
  /-- CAPTURE (R369). The core command CAPTURE halts a core at the next bundle boundary and writes a 256 B state record. -/
  | capture (r : Requester) (c : Fin 256)
  /-- RESUME (R369). The core command RESUME lets a halted core issue again. -/
  | resume (r : Requester) (c : Fin 256)
  /-- FWU_STAGE (R372). The firmware command STAGE erases the inactive bank and copies an image into it. -/
  | fwuStage (r : Requester)
  /-- FWU_ACTIVATE (R373). The firmware command ACTIVATE activates the staged bank live, by hub restart and compute-part reset as needed. -/
  | fwuActivate (r : Requester)
  /-- ACTIVATE_ON_RESET (R372). The firmware command ACTIVATE_ON_RESET marks the staged bank for the next whole-package reset. -/
  | activateOnReset (r : Requester)
  /-- FWU_CANCEL (R372). The firmware command CANCEL clears a staged or marked bank. -/
  | fwuCancel (r : Requester)
  /-- HUB_RESTART_DONE (R374). The hub restart of an activation ends, and the activation completes or reverts. -/
  | hubRestartDone (res : HubRestartIn)
  /-- FAULT_SIGNAL (R382). A collector samples a fault on a source's dual-rail pair and sends a record to the Bureau. -/
  | faultSignal (src : BitVec 16) (code : BitVec 8) (t : Bool) (c : Bool) (info0 : BitVec 32) (info1 : BitVec 32)
  /-- BUREAU_REACTION (R388). The Bureau logs each record and logs, interrupts, fences, stops the partition or enters the safe state by class. -/
  | bureauReaction (rec : FaultIn)
  /-- BUREAU_SELF (R391). A parity error in the Bureau or a die collector enters the safe state by a separate path. -/
  | bureauSelf (d : Option (Fin 4))
  /-- CLEAR (R393). A write of BUR_ERRN.CLEAR releases ERR_N once its minimum low time has passed. -/
  | clear (r : Requester) (fatalSame : Bool)
  /-- ERR_N_MIN_EXPIRY (R393). The 10 µs minimum low time of ERR_N ends, and a pending CLEAR releases the pin. -/
  | errNMinExpiry
  /-- SNAP_ARM (R399). PERF_SNAP_CTL ARM arms a rack-wide counter snapshot at T_W. -/
  | snapArm (r : Requester)
  /-- SNAP_DISARM (R398). PERF_SNAP_CTL DISARM disarms the snapshot. -/
  | snapDisarm (r : Requester)
  /-- SNAPSHOT (R398). At T_W every counter copies its live count, the record is written to the ring and NOTIFY is added. -/
  | snapshot
  /-- SAMPLE_RECORD (R401). A tagged instruction's 32 B record is written into its partition's sample ring, or dropped and counted. -/
  | sampleRecord (c : Fin 256) (sr : SampleIn)
  /-- BUR_CRAWL_WRITE (R402). A write of BUR_CRAWL selects the Crawlway group, or completes with DENIED where the Crawlway does not work. -/
  | burCrawlWrite (r : Requester) (val : BitVec 32)
  /-- EXTEST (R404). The TAP instruction EXTEST drives the boundary register and stops issue as in the safe state. -/
  | extest (pins : BitVec 64)
  /-- IDCODE (R404). The TAP instruction IDCODE selects the 0x1640_009B identity register. -/
  | idcode
  /-- SAMPLE_PRELOAD (R404). The TAP instruction SAMPLE/PRELOAD samples the CMOS pins, and acts as BYPASS in SEALED. -/
  | samplePreload (pins : BitVec 64)
  /-- CLAMP (R404). The TAP instruction CLAMP holds the outputs, and acts as BYPASS in SEALED. -/
  | clamp
  /-- HIGHZ (R404). The TAP instruction HIGHZ floats the outputs, and acts as BYPASS in SEALED. -/
  | highz
  /-- BYPASS (R404). The TAP instruction BYPASS selects the one-bit bypass register. -/
  | bypass
  /-- UNWRAP (R423). The SEC command UNWRAP checks a bound-key blob and loads the content key into a key slot. -/
  | unwrap (r : Requester) (slot : Fin 16)
  /-- ERASE_SLOT (R424). The SEC command ERASE_SLOT erases a named key slot. -/
  | eraseSlot (r : Requester) (slot : Fin 16)
  /-- DECRYPT (R426). The SEC command DECRYPT decrypts weight records under a loaded key and writes each record's plain text after its tag checks. -/
  | decrypt (r : Requester) (slot : Fin 16)
  /-- NONCE (R415). The SEC command NONCE draws a new 32 B nonce from the TRNG. -/
  | nonce (r : Requester)
  /-- ENROL (R413). The signed SEC command ENROL adds a cabinet key to the lowest free slot. -/
  | enrol (r : Requester)
  /-- REVOKE (R413). The signed SEC command REVOKE removes an enrolled cabinet key. -/
  | revoke (r : Requester)
  /-- PEER_SET (R429). The signed SEC command PEER_SET replaces the peer list and erases the sessions of peers that no longer pass. -/
  | peerSet (r : Requester)
  /-- LC_SEAL (R409). The signed SEC command LC_SEAL moves the lifecycle from OPEN to SEALED. -/
  | lcSeal (r : Requester)
  /-- LC_RETIRE (R410). The signed SEC command LC_RETIRE erases every key and session, scrubs every partition and moves the lifecycle to RETIRED. -/
  | lcRetire (r : Requester)
  /-- UNLOCK (R431). The signed SEC command UNLOCK erases keys, tears down every partition and enables the Crawlway in SEALED. -/
  | unlock (r : Requester)
  /-- COMMIT_SECVER (R430). The signed SEC command COMMIT_SECVER raises FW_SECVER to the active bank's SECVER. -/
  | commitSecver (r : Requester) (force : Bool)
  /-- PROVISION (R415). The signed SEC command PROVISION enrols the PUF in phase 0 and writes the certificate chain in phase 1. -/
  | provision (r : Requester)
  /-- GET_VERSION (R416). The SPDM request GET_VERSION starts or restarts a requester's state. -/
  | getVersion (q : SpdmId)
  /-- GET_CAPABILITIES (R416). The SPDM request GET_CAPABILITIES returns the responder's capabilities. -/
  | getCapabilities (q : SpdmId)
  /-- NEGOTIATE_ALGORITHMS (R416). The SPDM request NEGOTIATE_ALGORITHMS selects P-384 and SHA-384. -/
  | negotiateAlgorithms (q : SpdmId) (p384 : Bool) (sha384 : Bool)
  /-- GET_DIGESTS (R416). The SPDM request GET_DIGESTS returns the digest of the chain in slot 0. -/
  | getDigests (q : SpdmId)
  /-- GET_CERTIFICATE (R416). The SPDM request GET_CERTIFICATE returns the certificate chain of slot 0. -/
  | getCertificate (q : SpdmId) (slot : BitVec 8) (off : BitVec 16) (len : BitVec 16)
  /-- CHALLENGE (R416). The SPDM request CHALLENGE returns a response signed with the identity key. -/
  | challenge (q : SpdmId) (slot : BitVec 8) (nonce : List (BitVec 8))
  /-- GET_MEASUREMENTS (R417). The SPDM request GET_MEASUREMENTS returns the signed measurement blocks. -/
  | getMeasurements (q : SpdmId) (index : BitVec 8) (sign : Bool) (nonce : List (BitVec 8))
  /-- SPDM_UNSUPPORTED_REQUEST (R416). Any other SPDM request receives ERROR with UnsupportedRequest. -/
  | spdmUnsupportedRequest (q : SpdmId) (code : BitVec 8)
  /-- BAR_WRITE (R436). A posted write through BAR0 or BAR2 takes effect in order, or is dropped and counted as a denied access. -/
  | barWrite (f : Fin 5) (bar2 : Bool) (addr : BitVec 64) (data : List (BitVec 8))
  /-- BAR_READ (R436). A read through BAR2 returns memory, or 0 for a denied access, after earlier writes of its function. -/
  | barRead (f : Fin 5) (bar2 : Bool) (addr : BitVec 64) (len : Nat)
  /-- PERST_N (R438). PERST_N low resets the host functions, and its rising edge starts link training. -/
  | perstN (level : Bool) (ns : Nat)
  /-- PCIE_LINK_TRAIN (R434). The host link trains to the highest rate and width that both ends reach and reports it in HOST_LINK. -/
  | pcieLinkTrain (speed : Fin 7) (width : BitVec 5)
  /-- FUNCTION_LEVEL_RESET (R438). A Function Level Reset returns one function's configuration, MSI-X table and latches to reset values. -/
  | functionLevelReset (f : Fin 5)
  /-- MSIX_WRITE (R441). The package issues the MSI-X write of a vector within 200 ns after its cause becomes visible. -/
  | msixWrite (f : Fin 5) (v : Fin 2048)
  /-- MSIX_UNMASK (R441). Unmasking a vector with its pending bit set sends one write. -/
  | msixUnmask (f : Fin 5) (v : Fin 2048)
  /-- MGMT_MESSAGE_CHECK (R447). An arriving management message is checked for format, MAC, BOOT_ID, replay and permission before it is handled. -/
  | mgmtMessageCheck (m : MgmtMsg)
  /-- LOCATION (R295). LOCATION from the tray controller gives the EID and addresses and starts the management ports, link training and registration. -/
  | location (rack : BitVec 13) (tray : BitVec 4) (socket : BitVec 2) (ipA : BitVec 32) (ipB : BitVec 32)
  /-- RUNG_TARGET (R448). The rack message RUNG_TARGET acts as a write of DRP_RUNG_TARGET. -/
  | rungTarget (k : BitVec 3)
  /-- EVENT (R448). The package sends EVENT to the rack manager, merging the firings of 10 ms. -/
  | event
  /-- SAFE_NOTICE (R448). A receiving active Gorzel takes SAFE_NOTICE as a prompt and sends CLAIM at once to the sender. -/
  | safeNotice (src : BitVec 19)
  /-- REG_READ (R449). The management message REG_READ reads 1 to 64 register words. -/
  | regRead (r : MgPort) (off : BitVec 32) (count : BitVec 32)
  /-- REG_WRITE (R449). The management message REG_WRITE writes 1 to 64 register words in ascending order. -/
  | regWrite (r : MgPort) (off : BitVec 32) (words : List (BitVec 32))
  /-- MEM_WRITE (R449). The management message MEM_WRITE writes up to 1,008 B at a local offset with PF0's reach. -/
  | memWrite (r : MgPort) (addr : BitVec 64) (data : List (BitVec 8))
  /-- MEM_READ (R449). The management message MEM_READ reads up to 1,000 B at a local offset with PF0's reach. -/
  | memRead (r : MgPort) (addr : BitVec 64) (len : BitVec 32)
  /-- ENTDAA (R443). The tray controller assigns the I3C dynamic address by ENTDAA. -/
  | entdaa (addr : BitVec 7)
  /-- SET_ENDPOINT_ID (R444). The MCTP command Set Endpoint ID sets the endpoint ID used on every transport. -/
  | setEndpointId (eid : BitVec 8) (overI3c : Bool)
  /-- GET_ENDPOINT_ID (R444). The MCTP command Get Endpoint ID returns the endpoint ID. -/
  | getEndpointId
  /-- GET_MCTP_VERSION_SUPPORT (R444). The MCTP command Get MCTP Version Support returns the supported versions. -/
  | getMctpVersionSupport
  /-- GET_MESSAGE_TYPE_SUPPORT (R444). The MCTP command Get Message Type Support returns the supported message types. -/
  | getMessageTypeSupport (tr : Transport)
  /-- GET_VENDOR_DEFINED_MESSAGE_SUPPORT (R444). The MCTP command Get Vendor Defined Message Support returns the Cumosta vendor support. -/
  | getVendorDefinedMessageSupport (tr : Transport)
  /-- ARP_REQUEST (R442). A management port answers ARP. -/
  | arpRequest (port : MgPort) (ip : BitVec 32)
  /-- ICMP_ECHO (R442). A management port answers ICMP echo. -/
  | icmpEcho (port : MgPort) (ip : BitVec 32) (data : List (BitVec 8))
  /-- GET_TID (R452). The PLDM command GetTID returns the terminus ID. -/
  | getTid
  /-- SET_TID (R452). The PLDM command SetTID sets the terminus ID. -/
  | setTid (tid : BitVec 8)
  /-- GET_PLDM_VERSION (R452). The PLDM command GetPLDMVersion returns the supported versions. -/
  | getPldmVersion (ptype : BitVec 8)
  /-- GET_PLDM_TYPES (R452). The PLDM command GetPLDMTypes returns the supported types. -/
  | getPldmTypes
  /-- GET_PLDM_COMMANDS (R452). The PLDM command GetPLDMCommands returns the supported commands. -/
  | getPldmCommands (ptype : BitVec 8)
  /-- QUERY_DEVICE_IDENTIFIERS (R452). The PLDM command QueryDeviceIdentifiers returns the vendor, device and IDENT identifiers. -/
  | queryDeviceIdentifiers
  /-- GET_FIRMWARE_PARAMETERS (R452). The PLDM command GetFirmwareParameters returns the firmware parameters. -/
  | getFirmwareParameters
  /-- REQUEST_UPDATE (R452). The PLDM command RequestUpdate enters update mode, or is refused while another requester or an FWU command holds it. -/
  | requestUpdate (q : SpdmId)
  /-- PASS_COMPONENT_TABLE (R452). The PLDM command PassComponentTable passes the single bank-image component. -/
  | passComponentTable (q : SpdmId) (ncomp : BitVec 16)
  /-- UPDATE_COMPONENT (R452). The PLDM command UpdateComponent starts the transfer of the bank image. -/
  | updateComponent (q : SpdmId) (size : BitVec 32)
  /-- REQUEST_FIRMWARE_DATA (R452). The package pulls 1,024 B of image data into the inactive bank or the recovery buffer. -/
  | requestFirmwareData (q : SpdmId) (data : List (BitVec 8))
  /-- TRANSFER_COMPLETE (R452). The PLDM step TransferComplete ends the image transfer. -/
  | transferComplete (q : SpdmId)
  /-- VERIFY_COMPLETE (R452). The PLDM step VerifyComplete reports the checks of FWU STAGE. -/
  | verifyComplete (q : SpdmId)
  /-- APPLY_COMPLETE (R452). The PLDM step ApplyComplete reports the image applied to the bank. -/
  | applyComplete (q : SpdmId)
  /-- ACTIVATE_FIRMWARE (R452). The PLDM command ActivateFirmware runs ACTIVATE or ACTIVATE_ON_RESET. -/
  | activateFirmware (q : SpdmId) (selfContained : Bool)
  /-- GET_STATUS (R452). The PLDM command GetStatus returns the update status. -/
  | getStatus (q : SpdmId)
  /-- CANCEL_UPDATE_COMPONENT (R452). The PLDM command CancelUpdateComponent cancels the component transfer. -/
  | cancelUpdateComponent (q : SpdmId)
  /-- CANCEL_UPDATE (R452). The PLDM command CancelUpdate leaves update mode. -/
  | cancelUpdate (q : SpdmId)
  /-- PLDM_IDLE_TIMEOUT (R452). An update with no request for 60 s is cancelled, and the bank reads not staged. -/
  | pldmIdleTimeout
  /-- REFCLK_LOSS (R465). REFCLK absent for more than 10 µs makes a whole-package reset. -/
  | refclkLoss (absentNs : Nat)
  /-- PCIE_REFCLK_LOSS (R465). PCIE_REFCLK absent takes the host link down until the clock has been stable for 100 µs. -/
  | pcieRefclkLoss
  /-- QUIET_POINT_TIMEOUT (R317). An active instance asked to yield that reaches no quiet point within 60 s stays ACTIVE and answers YIELD with DENIED. -/
  | quietPointTimeout
  /-- NOT_LEADER_REPLY (R304). A Gorzel sender that receives a NOT_LEADER reply resends the message to the holder named in DETAIL, and after two such replies in a row asks the arbiter by REGISTER. -/
  | notLeaderReply (seq : BitVec 32) (holder : BitVec 19)
  /-- SETPOINT_ACCEPTED (R326). The VCORE regulator accepts or reaches a requested setpoint, and the package then sends the pending RUNG_ACK or switches ECLK out of the floor state. -/
  | setpointAccepted
  /-- ACTIVATE_WAIT_END (R262). Once 2 ms of W have passed since a chamber ID last became INACTIVE, a waiting ACTIVATE of that ID goes on with its checks. -/
  | activateWaitEnd (id : BitVec 12)
  /-- DESCRIPTOR_CACHE_EMPTY (R166). The queue manager finishes emptying its descriptor cache after a commit that changes QID ranges or TABLE_BASE, CTRL returns to RUN, and doorbells held during the pause take effect. -/
  | descriptorCacheEmpty
  /-- MGMT_PORT_LINK_CHANGE (R442). The 1000BASE-KX link of management port A or B comes up or goes down, and HOST_MGMT.A_UP or B_UP changes. -/
  | mgmtPortLinkChange (port : MgPort) (up : Bool)
  /-- ROOT_PLL_LOCK (R465). With REFCLK present again, a retry of the root PLL lock, made every 100 ms, succeeds and the waiting cold boot proceeds. -/
  | rootPllLock
  deriving DecidableEq, Repr

end Sys2Proof
end

