-- ==== Sys2Proof/Config.lean ====
section
/-! DEFINITION. What the manual leaves open: free values and the functions whose results it does not spell out (the
cryptographic algorithms, the VX functions within their error bounds). None has a body, so no proof can rest on a
value of it. Where the manual or the algorithm gives the length of a result, the constant gives its bytes by their place
and the definition over it the length alone. -/

namespace Sys2Proof

/-- The byte string of a length whose bytes a function gives by their place. -/
def Config.bytes (n : Nat) (f : Nat → BitVec 8) : List (BitVec 8) := (List.range n).map f

/-- A free 32-bit value, applied to the counter State.freeCtr. -/
opaque Config.freeWord : Nat → BitVec 32

/-- A free byte, applied to the counter State.freeCtr and a place. -/
opaque Config.freeByte : Nat → Nat → BitVec 8

/-- Free bytes, applied to the counter State.freeCtr and a length: draws of the TRNG, fields that the manual leaves open. -/
def Config.freeBytes (c n : Nat) : List (BitVec 8) := Config.bytes n (Config.freeByte c)

/-- A byte of the SHA-384 digest of a byte string. -/
opaque Config.sha384Byte : List (BitVec 8) → Nat → BitVec 8

/-- SHA-384 of a byte string: 48 B. -/
def Config.sha384 (l : List (BitVec 8)) : List (BitVec 8) := Config.bytes 48 (Config.sha384Byte l)

/-- A byte of HMAC-SHA-384 under a key. -/
opaque Config.hmacByte : List (BitVec 8) → List (BitVec 8) → Nat → BitVec 8

/-- HMAC-SHA-384 under a key: 48 B. -/
def Config.hmac384 (k l : List (BitVec 8)) : List (BitVec 8) := Config.bytes 48 (Config.hmacByte k l)

/-- A byte of HKDF-SHA-384: secret, salt, label, length. -/
opaque Config.hkdfByte : List (BitVec 8) → List (BitVec 8) → List (BitVec 8) → Nat → Nat → BitVec 8

/-- HKDF-SHA-384: secret, salt, label, length. -/
def Config.hkdf384 (secret salt label : List (BitVec 8)) (n : Nat) : List (BitVec 8) :=
  Config.bytes n (Config.hkdfByte secret salt label n)

/-- ECDSA P-384 verification: public key, digest, signature. -/
opaque Config.ecdsaOk : List (BitVec 8) → List (BitVec 8) → List (BitVec 8) → Bool

/-- A byte of an ECDSA P-384 signature by the private key of the identity given by its public key, over a message. -/
opaque Config.signByte : List (BitVec 8) → List (BitVec 8) → Nat → BitVec 8

/-- An ECDSA P-384 signature: r, then s, 48 B each (R414). -/
def Config.ecdsaSign (k l : List (BitVec 8)) : List (BitVec 8) := Config.bytes 96 (Config.signByte k l)

/-- LMS verification of a firmware image: public key, message, signature. -/
opaque Config.lmsOk : List (BitVec 8) → List (BitVec 8) → List (BitVec 8) → Bool

/-- A byte of the shared secret of ECDH P-384: the private key of the identity or ephemeral key given by its public key, and
a peer's public key. -/
opaque Config.ecdhByte : List (BitVec 8) → List (BitVec 8) → Nat → BitVec 8

/-- ECDH P-384: 48 B. -/
def Config.ecdh (k p : List (BitVec 8)) : List (BitVec 8) := Config.bytes 48 (Config.ecdhByte k p)

/-- A byte of the tag of AES-GCM-256: key, IV, additional data, ciphertext. -/
opaque Config.gcmTagByte : List (BitVec 8) → List (BitVec 8) → List (BitVec 8) → List (BitVec 8) → Nat → BitVec 8

/-- The 16 B tag of AES-GCM-256: key, IV, additional data, ciphertext. -/
def Config.gcmTag (k iv aad c : List (BitVec 8)) : List (BitVec 8) := Config.bytes 16 (Config.gcmTagByte k iv aad c)

/-- The tag of AES-GCM-256 checks: key, IV, additional data, ciphertext, tag. -/
def Config.gcmTagOk (k iv aad c tag : List (BitVec 8)) : Bool := tag == Config.gcmTag k iv aad c

/-- A byte of the key stream of AES-GCM-256: key, IV, place. -/
opaque Config.gcmStream : List (BitVec 8) → List (BitVec 8) → Nat → BitVec 8

/-- AES-GCM-256 adds its key stream to the text; the same addition takes it off again. -/
def Config.gcmCrypt (k iv l : List (BitVec 8)) : List (BitVec 8) := l.zipIdx.map fun x => x.1 ^^^ Config.gcmStream k iv x.2

/-- AES-GCM-256 decryption: key, IV, additional data, ciphertext, tag; none when the tag fails. -/
def Config.gcmOpen (k iv aad c tag : List (BitVec 8)) : Option (List (BitVec 8)) :=
  if Config.gcmTagOk k iv aad c tag then some (Config.gcmCrypt k iv c) else none

/-- A byte of the device secret DS that the fuzzy extractor recovers from the PUF of this package (R411). -/
opaque Config.secretByte : Nat → BitVec 8

/-- The device secret DS: 32 B (R411). No register, debug path or message returns it. -/
def Config.deviceSecret : List (BitVec 8) := Config.bytes 32 Config.secretByte

/-- The label of HKDF for a key that DS yields (R411): 0 the identity key, 1 the binding key, 2 the flash root key. -/
opaque Config.keyLabel : Nat → List (BitVec 8)

/-- A key that DS yields by HKDF-SHA-384 under its label (R411). -/
def Config.deviceKey (i n : Nat) : List (BitVec 8) := Config.hkdf384 Config.deviceSecret [] (Config.keyLabel i) n

/-- A byte of the P-384 public key of a private key. -/
opaque Config.publicByte : List (BitVec 8) → Nat → BitVec 8

/-- The helper data of the fuzzy extractor (R411). -/
opaque Config.helperData : List (BitVec 8)

/-- The Cumosta root CA certificate, whose digest the boot ROM holds (R412). -/
opaque Config.rootCert : List (BitVec 8)

/-- The root key of the flash's counters (R408, R411). -/
def Config.flashRootKey : List (BitVec 8) := Config.deviceKey 2 32

/-- The public identity key of this package: 97 B (R411, R412). -/
def Config.identityKey : List (BitVec 8) := Config.bytes 97 (Config.publicByte (Config.deviceKey 0 48))

/-- The keys that the boot ROM holds, by their use: 0 the Cumosta firmware key for ECDSA, 1 that for LMS, 2 the Cumosta
manufacturing key, 3 the digest of the Cumosta root certificate. -/
opaque Config.cumostaKey : Nat → List (BitVec 8)

/-- A byte of the public identity key of the package with an EID. -/
opaque Config.peerByte : BitVec 19 → Nat → BitVec 8

/-- The public identity key of the package with an EID, as SPDM GET_CERTIFICATE yields it: 97 B (R446). -/
def Config.peerKey (e : BitVec 19) : List (BitVec 8) := Config.bytes 97 (Config.peerByte e)

/-- The time master of the rack that holds the package with an EID; the manual does not say how the master of another rack
learns it (R191). -/
opaque Config.rackMaster : BitVec 19 → BitVec 19

/-- HOME0 of a chamber on the package with an EID; the manual does not say how a receiver of its chunks learns it (R260,
R274). -/
opaque Config.peerHome : BitVec 19 → Nat → Nat

/-- A byte of the SHA-384 digest of the boot ROM. -/
opaque Config.bootRomByte : Nat → BitVec 8

/-- The SHA-384 digest of the boot ROM: 48 B (R370). -/
def Config.bootRom : List (BitVec 8) := Config.bytes 48 Config.bootRomByte

/-- The manifest of the firmware image that the package is shipped with in bank A (R370, R381). -/
opaque Config.factoryManifest : List (BitVec 8)

/-- The public binding key BK: 97 B (R411, R417). -/
def Config.bindingKey : List (BitVec 8) := Config.bytes 97 (Config.publicByte (Config.deviceKey 1 48))

/-- The certificates of PROVISION certify an identity key and chain to the root certificate of a digest (R415). -/
opaque Config.certOk : List (BitVec 8) → List (BitVec 8) → List (BitVec 8) → Bool

/-- The certificate chain that the package is shipped with (R412). -/
opaque Config.factoryChain : List (BitVec 8)

/-- The factory repair record in the flash (R22): the spec gives its size only. -/
opaque Config.repairByte : Nat → BitVec 8

/-- The replay-protected area of the flash (R22): offset, lifecycle state and the monotonic counters it holds; the spec
gives no layout. -/
opaque Config.replayByte : Nat → Nat → BitVec 32 → BitVec 32 → BitVec 8

/-- The VX functions of R78 on an F32 operand, within their error bounds: operation code of the VX slot, operand. -/
opaque Config.vxFun : BitVec 8 → BitVec 32 → BitVec 32

/-- The element size of a GATHER or SCATTER, which the memory form of the VX slot does not name (R77, R100): 0, 1 or 2 for
1, 2 or 4 bytes, applied to the slot word without its post. -/
opaque Config.gatherElem : Nat → Fin 3

/-- The bytes behind a reference of a VECTOR node: the upper half of its slot word, its element count, the reference. A node
names no format (R91). -/
opaque Config.vectorBytes : Nat → Nat → Nat → Nat

/-- The levels of DBG_OBS (R403): group, unit, the signals of the group, NCLK count. -/
opaque Config.crawlObs : Nat → Nat → List Nat → Nat → BitVec 16

/-- The level of DBG_CLK (R402): divider, NCLK count. -/
opaque Config.crawlClk : Nat → Nat → Bool

end Sys2Proof
end

