-- ==== Sys2Proof/Machine/RegMap.lean ====
section
/-! DEFINITION. The register map (R42, R43) and the field tables of every register of the manual: one descriptor per
register with the bits, the access type (R9) and the reset value of each field, one named field constant per field, and
one event constant per W1C bit with its event count (R11) and its MSI-X vector (R439). -/

namespace Sys2Proof.Machine

/-- The kinds of register block (R42, R43). -/
inductive Blk where
  | hub | bur | drp | cab | pwr | perf | sec | fwu | qm | gzl | col | core | clu | die | fab | mem | host
  deriving DecidableEq, Repr

/-- The access types of R9. -/
inductive Acc where
  | ro | rw | w1c | w1s | rc
  deriving DecidableEq, Repr

/-- A field of a register: block offset of the register, highest and lowest bit. -/
structure Fld where
  off : Nat
  hi  : Nat
  lo  : Nat
  deriving DecidableEq, Repr

/-- A W1C bit, its event count (R11) and the MSI-X vector of PF0 that its set events raise (R439). -/
structure Evt where
  bit : Fld
  cnt : Fld
  vec : Option Nat
  deriving DecidableEq, Repr

/-- One field of a register descriptor: bits and access type. -/
structure FieldDesc where
  hi  : Nat
  lo  : Nat
  acc : Acc
  deriving DecidableEq, Repr

/-- A register: block offset, value after a whole-package reset, fields that are not reserved. -/
structure RegDesc where
  off    : Nat
  rst    : Nat
  fields : List FieldDesc
  deriving DecidableEq, Repr

/-! Block HUB. -/

/-- Offset of HUB_PART_ID in its block (R2). -/
abbrev oHUB_PART_ID : Nat := 0x0000
abbrev fHUB_PART_ID_PART : Fld := ⟨oHUB_PART_ID, 31, 16⟩
abbrev fHUB_PART_ID_STEPPING : Fld := ⟨oHUB_PART_ID, 15, 8⟩
abbrev fHUB_PART_ID_VARIANT : Fld := ⟨oHUB_PART_ID, 7, 0⟩

/-- Offset of HUB_TOPOLOGY in its block (R26). -/
abbrev oHUB_TOPOLOGY : Nat := 0x0004
abbrev fHUB_TOPOLOGY_CLUSTERS : Fld := ⟨oHUB_TOPOLOGY, 23, 16⟩
abbrev fHUB_TOPOLOGY_DIES : Fld := ⟨oHUB_TOPOLOGY, 15, 12⟩
abbrev fHUB_TOPOLOGY_OPTICS : Fld := ⟨oHUB_TOPOLOGY, 11, 8⟩
abbrev fHUB_TOPOLOGY_STACKS : Fld := ⟨oHUB_TOPOLOGY, 7, 0⟩

/-- Offset of HUB_CLUSTER_MAP in its block (R26). -/
abbrev oHUB_CLUSTER_MAP : Nat := 0x0008
abbrev fHUB_CLUSTER_MAP_IN_SERVICE : Fld := ⟨oHUB_CLUSTER_MAP, 31, 0⟩

/-- Offset of HUB_SPARE_MAP in its block (R26). -/
abbrev oHUB_SPARE_MAP : Nat := 0x000c
abbrev fHUB_SPARE_MAP_SPARE_USED : Fld := ⟨oHUB_SPARE_MAP, 31, 0⟩

/-- Offset of HUB_PLANE_STATUS in its block (R26). -/
abbrev oHUB_PLANE_STATUS : Nat := 0x0010
abbrev fHUB_PLANE_STATUS_READY : Fld := ⟨oHUB_PLANE_STATUS, 8, 8⟩
abbrev fHUB_PLANE_STATUS_MGMT : Fld := ⟨oHUB_PLANE_STATUS, 5, 4⟩
abbrev fHUB_PLANE_STATUS_DATA : Fld := ⟨oHUB_PLANE_STATUS, 3, 2⟩
abbrev fHUB_PLANE_STATUS_CTRL : Fld := ⟨oHUB_PLANE_STATUS, 1, 0⟩

/-- Offset of HUB_SCRUB in its block (R146). -/
abbrev oHUB_SCRUB : Nat := 0x0040
abbrev fHUB_SCRUB_PENDING : Fld := ⟨oHUB_SCRUB, 7, 4⟩
abbrev fHUB_SCRUB_ACTIVE : Fld := ⟨oHUB_SCRUB, 3, 0⟩

/-- Offset of HUB_RESET_CTL in its block (R379). -/
abbrev oHUB_RESET_CTL : Nat := 0x0050
abbrev fHUB_RESET_CTL_CMD : Fld := ⟨oHUB_RESET_CTL, 31, 28⟩
abbrev fHUB_RESET_CTL_BUSY : Fld := ⟨oHUB_RESET_CTL, 20, 20⟩
abbrev fHUB_RESET_CTL_TARGET : Fld := ⟨oHUB_RESET_CTL, 7, 0⟩

/-- Offset of HUB_RESET_STAT in its block (R379). -/
abbrev oHUB_RESET_STAT : Nat := 0x0054
abbrev fHUB_RESET_STAT_CMD : Fld := ⟨oHUB_RESET_STAT, 31, 28⟩
abbrev fHUB_RESET_STAT_SEQ : Fld := ⟨oHUB_RESET_STAT, 27, 24⟩
abbrev fHUB_RESET_STAT_STATUS : Fld := ⟨oHUB_RESET_STAT, 23, 16⟩
abbrev fHUB_RESET_STAT_TARGET : Fld := ⟨oHUB_RESET_STAT, 7, 0⟩

/-- Offset of HUB_RESET_GEN in its block (R379). -/
abbrev oHUB_RESET_GEN : Nat := 0x0058
abbrev fHUB_RESET_GEN_GEN_P3 : Fld := ⟨oHUB_RESET_GEN, 31, 24⟩
abbrev fHUB_RESET_GEN_GEN_P2 : Fld := ⟨oHUB_RESET_GEN, 23, 16⟩
abbrev fHUB_RESET_GEN_GEN_P1 : Fld := ⟨oHUB_RESET_GEN, 15, 8⟩
abbrev fHUB_RESET_GEN_GEN_P0 : Fld := ⟨oHUB_RESET_GEN, 7, 0⟩

/-- Offset of HUB_RESET_STALE in its block (R379). -/
abbrev oHUB_RESET_STALE : Nat := 0x005c
abbrev fHUB_RESET_STALE_GEN_HUB : Fld := ⟨oHUB_RESET_STALE, 31, 24⟩
abbrev fHUB_RESET_STALE_STALE_CNT : Fld := ⟨oHUB_RESET_STALE, 15, 0⟩

/-- Offset of HUB_BOOT in its block (R379). -/
abbrev oHUB_BOOT : Nat := 0x0060
abbrev fHUB_BOOT_BANK : Fld := ⟨oHUB_BOOT, 31, 31⟩
abbrev fHUB_BOOT_FALLBACK : Fld := ⟨oHUB_BOOT, 30, 30⟩
abbrev fHUB_BOOT_RECOVERY : Fld := ⟨oHUB_BOOT, 29, 29⟩
abbrev fHUB_BOOT_STEP : Fld := ⟨oHUB_BOOT, 27, 24⟩
abbrev fHUB_BOOT_ERROR : Fld := ⟨oHUB_BOOT, 23, 16⟩
abbrev fHUB_BOOT_REPAIR_NEW : Fld := ⟨oHUB_BOOT, 15, 0⟩

/-- Offset of HUB_BOOT_TIME in its block (R379). -/
abbrev oHUB_BOOT_TIME : Nat := 0x0064
abbrev fHUB_BOOT_TIME_MS : Fld := ⟨oHUB_BOOT_TIME, 15, 0⟩


/-- Registers of block HUB, part 1. -/
def regsHub0 : List RegDesc := [
  ⟨0x0000, 0x6400b000, [⟨31, 16, .ro⟩, ⟨15, 8, .ro⟩, ⟨7, 0, .ro⟩]⟩,
  ⟨0x0004, 0x00004800, [⟨23, 16, .ro⟩, ⟨15, 12, .ro⟩, ⟨11, 8, .ro⟩, ⟨7, 0, .ro⟩]⟩,
  ⟨0x0008, 0x00000000, [⟨31, 0, .ro⟩]⟩,
  ⟨0x000c, 0x00000000, [⟨31, 0, .ro⟩]⟩,
  ⟨0x0010, 0x00000000, [⟨8, 8, .ro⟩, ⟨5, 4, .ro⟩, ⟨3, 2, .ro⟩, ⟨1, 0, .ro⟩]⟩,
  ⟨0x0040, 0x00000000, [⟨7, 4, .ro⟩, ⟨3, 0, .ro⟩]⟩,
  ⟨0x0050, 0x00000000, [⟨31, 28, .rw⟩, ⟨20, 20, .ro⟩, ⟨7, 0, .rw⟩]⟩,
  ⟨0x0054, 0x00000000, [⟨31, 28, .ro⟩, ⟨27, 24, .ro⟩, ⟨23, 16, .ro⟩, ⟨7, 0, .ro⟩]⟩,
  ⟨0x0058, 0x01010101, [⟨31, 24, .ro⟩, ⟨23, 16, .ro⟩, ⟨15, 8, .ro⟩, ⟨7, 0, .ro⟩]⟩,
  ⟨0x005c, 0x01000000, [⟨31, 24, .ro⟩, ⟨15, 0, .rc⟩]⟩,
  ⟨0x0060, 0x00000000, [⟨31, 31, .ro⟩, ⟨30, 30, .ro⟩, ⟨29, 29, .ro⟩, ⟨27, 24, .ro⟩, ⟨23, 16, .ro⟩, ⟨15, 0, .ro⟩]⟩,
  ⟨0x0064, 0x00000000, [⟨15, 0, .ro⟩]⟩]

/-- Registers of block HUB. -/
def regsHub : List RegDesc := regsHub0

/-! Block CORE. -/

/-- Offset of CORE_ENG_CFG in its block (R82). -/
abbrev oCORE_ENG_CFG : Nat := 0x0100
abbrev fCORE_ENG_CFG_MODE : Fld := ⟨oCORE_ENG_CFG, 31, 31⟩
abbrev fCORE_ENG_CFG_RND_DFLT : Fld := ⟨oCORE_ENG_CFG, 5, 4⟩
abbrev fCORE_ENG_CFG_SAT_DFLT : Fld := ⟨oCORE_ENG_CFG, 3, 3⟩

/-- Offset of CORE_ENG_FLAGS in its block (R82). -/
abbrev oCORE_ENG_FLAGS : Nat := 0x0104
abbrev fCORE_ENG_FLAGS_SCALE_NAN : Fld := ⟨oCORE_ENG_FLAGS, 4, 4⟩
abbrev fCORE_ENG_FLAGS_T5_BAD : Fld := ⟨oCORE_ENG_FLAGS, 3, 3⟩
abbrev fCORE_ENG_FLAGS_UF : Fld := ⟨oCORE_ENG_FLAGS, 2, 2⟩
abbrev fCORE_ENG_FLAGS_OF : Fld := ⟨oCORE_ENG_FLAGS, 1, 1⟩
abbrev fCORE_ENG_FLAGS_NV : Fld := ⟨oCORE_ENG_FLAGS, 0, 0⟩

/-- Offset of CORE_ENG_CNT0 in its block (R82). -/
abbrev oCORE_ENG_CNT0 : Nat := 0x0108
abbrev fCORE_ENG_CNT0_OF_CNT : Fld := ⟨oCORE_ENG_CNT0, 31, 16⟩
abbrev fCORE_ENG_CNT0_NV_CNT : Fld := ⟨oCORE_ENG_CNT0, 15, 0⟩

/-- Offset of CORE_ENG_CNT1 in its block (R82). -/
abbrev oCORE_ENG_CNT1 : Nat := 0x010c
abbrev fCORE_ENG_CNT1_T5_BAD_CNT : Fld := ⟨oCORE_ENG_CNT1, 31, 16⟩
abbrev fCORE_ENG_CNT1_UF_CNT : Fld := ⟨oCORE_ENG_CNT1, 15, 0⟩

/-- Offset of CORE_ENG_CNT2 in its block (R82). -/
abbrev oCORE_ENG_CNT2 : Nat := 0x0110
abbrev fCORE_ENG_CNT2_SCALE_NAN_CNT : Fld := ⟨oCORE_ENG_CNT2, 15, 0⟩

/-- Offset of CORE_ENG_STATUS in its block (R82). -/
abbrev oCORE_ENG_STATUS : Nat := 0x0114
abbrev fCORE_ENG_STATUS_PHYS : Fld := ⟨oCORE_ENG_STATUS, 11, 8⟩
abbrev fCORE_ENG_STATUS_KAT_PASS : Fld := ⟨oCORE_ENG_STATUS, 7, 7⟩
abbrev fCORE_ENG_STATUS_SX_BUSY : Fld := ⟨oCORE_ENG_STATUS, 3, 3⟩
abbrev fCORE_ENG_STATUS_VX_BUSY : Fld := ⟨oCORE_ENG_STATUS, 2, 2⟩
abbrev fCORE_ENG_STATUS_MX1_BUSY : Fld := ⟨oCORE_ENG_STATUS, 1, 1⟩
abbrev fCORE_ENG_STATUS_MX0_BUSY : Fld := ⟨oCORE_ENG_STATUS, 0, 0⟩

/-- Offset of CORE_PROG_STATUS in its block (R122). -/
abbrev oCORE_PROG_STATUS : Nat := 0x0000
abbrev fCORE_PROG_STATUS_STATE : Fld := ⟨oCORE_PROG_STATUS, 31, 30⟩
abbrev fCORE_PROG_STATUS_SLOT : Fld := ⟨oCORE_PROG_STATUS, 23, 16⟩
abbrev fCORE_PROG_STATUS_PC : Fld := ⟨oCORE_PROG_STATUS, 15, 0⟩

/-- Offset of CORE_PROG_FAULT in its block (R122). -/
abbrev oCORE_PROG_FAULT : Nat := 0x0004
abbrev fCORE_PROG_FAULT_STATUS : Fld := ⟨oCORE_PROG_FAULT, 31, 24⟩
abbrev fCORE_PROG_FAULT_SLOT_KIND : Fld := ⟨oCORE_PROG_FAULT, 18, 16⟩
abbrev fCORE_PROG_FAULT_PC : Fld := ⟨oCORE_PROG_FAULT, 15, 0⟩

/-- Offset of CORE_PROG_ODT in its block (R122). -/
abbrev oCORE_PROG_ODT : Nat := 0x0008
abbrev fCORE_PROG_ODT_BASE : Fld := ⟨oCORE_PROG_ODT, 31, 0⟩

/-- Offset of CORE_LAUNCH_STAT in its block (R122). -/
abbrev oCORE_LAUNCH_STAT : Nat := 0x000c
abbrev fCORE_LAUNCH_STAT_SKIP : Fld := ⟨oCORE_LAUNCH_STAT, 1, 1⟩
abbrev fCORE_LAUNCH_STAT_LATE : Fld := ⟨oCORE_LAUNCH_STAT, 0, 0⟩

/-- Offset of CORE_LAUNCH_CNT in its block (R122). -/
abbrev oCORE_LAUNCH_CNT : Nat := 0x0010
abbrev fCORE_LAUNCH_CNT_SKIP_CNT : Fld := ⟨oCORE_LAUNCH_CNT, 31, 16⟩
abbrev fCORE_LAUNCH_CNT_LATE_CNT : Fld := ⟨oCORE_LAUNCH_CNT, 15, 0⟩

/-- Offset of CORE_PROGRESS in its block (R122). -/
abbrev oCORE_PROGRESS : Nat := 0x0014
abbrev fCORE_PROGRESS_BUNDLES : Fld := ⟨oCORE_PROGRESS, 31, 0⟩

/-- Offset of CORE_STORE_ECC in its block (R144). -/
abbrev oCORE_STORE_ECC : Nat := 0x0200
abbrev fCORE_STORE_ECC_PARTIAL_DROP : Fld := ⟨oCORE_STORE_ECC, 2, 2⟩
abbrev fCORE_STORE_ECC_UE : Fld := ⟨oCORE_STORE_ECC, 1, 1⟩
abbrev fCORE_STORE_ECC_CE : Fld := ⟨oCORE_STORE_ECC, 0, 0⟩

/-- Offset of CORE_STORE_ECC_CNT0 in its block (R144). -/
abbrev oCORE_STORE_ECC_CNT0 : Nat := 0x0204
abbrev fCORE_STORE_ECC_CNT0_UE_CNT : Fld := ⟨oCORE_STORE_ECC_CNT0, 31, 16⟩
abbrev fCORE_STORE_ECC_CNT0_CE_CNT : Fld := ⟨oCORE_STORE_ECC_CNT0, 15, 0⟩

/-- Offset of CORE_STORE_ECC_CNT1 in its block (R144). -/
abbrev oCORE_STORE_ECC_CNT1 : Nat := 0x0208
abbrev fCORE_STORE_ECC_CNT1_PARTIAL_DROP_CNT : Fld := ⟨oCORE_STORE_ECC_CNT1, 15, 0⟩

/-- Offset of CORE_STORE_UE_ADDR in its block (R144). -/
abbrev oCORE_STORE_UE_ADDR : Nat := 0x020c
abbrev fCORE_STORE_UE_ADDR_OFFSET : Fld := ⟨oCORE_STORE_UE_ADDR, 31, 0⟩

/-- Offset of CORE_STORE_WAIT in its block (R144). -/
abbrev oCORE_STORE_WAIT : Nat := 0x0210
abbrev fCORE_STORE_WAIT_CYCLES : Fld := ⟨oCORE_STORE_WAIT, 31, 0⟩

/-- Offset of CORE_RESET_GEN in its block (R380). -/
abbrev oCORE_RESET_GEN : Nat := 0x0300
abbrev fCORE_RESET_GEN_GEN : Fld := ⟨oCORE_RESET_GEN, 31, 24⟩
abbrev fCORE_RESET_GEN_STALE_CNT : Fld := ⟨oCORE_RESET_GEN, 15, 0⟩

/-- Offset of CORE_CAPTURE_LO in its block (R380). -/
abbrev oCORE_CAPTURE_LO : Nat := 0x0304
abbrev fCORE_CAPTURE_LO_ADDR_LO : Fld := ⟨oCORE_CAPTURE_LO, 31, 0⟩

/-- Offset of CORE_CAPTURE_HI in its block (R380). -/
abbrev oCORE_CAPTURE_HI : Nat := 0x0308
abbrev fCORE_CAPTURE_HI_ADDR_HI : Fld := ⟨oCORE_CAPTURE_HI, 13, 0⟩

/-- Offset of CORE_CAPTURE_CTL in its block (R380). -/
abbrev oCORE_CAPTURE_CTL : Nat := 0x030c
abbrev fCORE_CAPTURE_CTL_CMD : Fld := ⟨oCORE_CAPTURE_CTL, 31, 30⟩
abbrev fCORE_CAPTURE_CTL_STATE : Fld := ⟨oCORE_CAPTURE_CTL, 29, 28⟩
abbrev fCORE_CAPTURE_CTL_STATUS : Fld := ⟨oCORE_CAPTURE_CTL, 23, 16⟩

/-- Offset of CORE_SAMPLE_CTL in its block (R406). -/
abbrev oCORE_SAMPLE_CTL : Nat := 0x0600
abbrev fCORE_SAMPLE_CTL_EN : Fld := ⟨oCORE_SAMPLE_CTL, 31, 31⟩
abbrev fCORE_SAMPLE_CTL_LOG2_N : Fld := ⟨oCORE_SAMPLE_CTL, 4, 0⟩

/-- Offset of CORE_SAMPLE_SEED in its block (R406). -/
abbrev oCORE_SAMPLE_SEED : Nat := 0x0604
abbrev fCORE_SAMPLE_SEED_SEED : Fld := ⟨oCORE_SAMPLE_SEED, 23, 0⟩

abbrev eCORE_ENG_FLAGS_SCALE_NAN : Evt := ⟨fCORE_ENG_FLAGS_SCALE_NAN, fCORE_ENG_CNT2_SCALE_NAN_CNT, none⟩
abbrev eCORE_ENG_FLAGS_T5_BAD : Evt := ⟨fCORE_ENG_FLAGS_T5_BAD, fCORE_ENG_CNT1_T5_BAD_CNT, none⟩
abbrev eCORE_ENG_FLAGS_UF : Evt := ⟨fCORE_ENG_FLAGS_UF, fCORE_ENG_CNT1_UF_CNT, none⟩
abbrev eCORE_ENG_FLAGS_OF : Evt := ⟨fCORE_ENG_FLAGS_OF, fCORE_ENG_CNT0_OF_CNT, none⟩
abbrev eCORE_ENG_FLAGS_NV : Evt := ⟨fCORE_ENG_FLAGS_NV, fCORE_ENG_CNT0_NV_CNT, none⟩
abbrev eCORE_LAUNCH_STAT_SKIP : Evt := ⟨fCORE_LAUNCH_STAT_SKIP, fCORE_LAUNCH_CNT_SKIP_CNT, none⟩
abbrev eCORE_LAUNCH_STAT_LATE : Evt := ⟨fCORE_LAUNCH_STAT_LATE, fCORE_LAUNCH_CNT_LATE_CNT, none⟩
abbrev eCORE_STORE_ECC_PARTIAL_DROP : Evt := ⟨fCORE_STORE_ECC_PARTIAL_DROP, fCORE_STORE_ECC_CNT1_PARTIAL_DROP_CNT, none⟩
abbrev eCORE_STORE_ECC_UE : Evt := ⟨fCORE_STORE_ECC_UE, fCORE_STORE_ECC_CNT0_UE_CNT, none⟩
abbrev eCORE_STORE_ECC_CE : Evt := ⟨fCORE_STORE_ECC_CE, fCORE_STORE_ECC_CNT0_CE_CNT, none⟩

/-- Registers of block CORE, part 1. -/
def regsCore0 : List RegDesc := [
  ⟨0x0100, 0x00000008, [⟨31, 31, .rw⟩, ⟨5, 4, .rw⟩, ⟨3, 3, .rw⟩]⟩,
  ⟨0x0104, 0x00000000, [⟨4, 4, .w1c⟩, ⟨3, 3, .w1c⟩, ⟨2, 2, .w1c⟩, ⟨1, 1, .w1c⟩, ⟨0, 0, .w1c⟩]⟩,
  ⟨0x0108, 0x00000000, [⟨31, 16, .rc⟩, ⟨15, 0, .rc⟩]⟩,
  ⟨0x010c, 0x00000000, [⟨31, 16, .rc⟩, ⟨15, 0, .rc⟩]⟩,
  ⟨0x0110, 0x00000000, [⟨15, 0, .rc⟩]⟩,
  ⟨0x0114, 0x00000000, [⟨11, 8, .ro⟩, ⟨7, 7, .ro⟩, ⟨3, 3, .ro⟩, ⟨2, 2, .ro⟩, ⟨1, 1, .ro⟩, ⟨0, 0, .ro⟩]⟩,
  ⟨0x0000, 0x00000000, [⟨31, 30, .ro⟩, ⟨23, 16, .ro⟩, ⟨15, 0, .ro⟩]⟩,
  ⟨0x0004, 0x00000000, [⟨31, 24, .ro⟩, ⟨18, 16, .ro⟩, ⟨15, 0, .ro⟩]⟩,
  ⟨0x0008, 0x00000000, [⟨31, 0, .ro⟩]⟩,
  ⟨0x000c, 0x00000000, [⟨1, 1, .w1c⟩, ⟨0, 0, .w1c⟩]⟩,
  ⟨0x0010, 0x00000000, [⟨31, 16, .rc⟩, ⟨15, 0, .rc⟩]⟩,
  ⟨0x0014, 0x00000000, [⟨31, 0, .ro⟩]⟩]

/-- Registers of block CORE, part 2. -/
def regsCore1 : List RegDesc := [
  ⟨0x0200, 0x00000000, [⟨2, 2, .w1c⟩, ⟨1, 1, .w1c⟩, ⟨0, 0, .w1c⟩]⟩,
  ⟨0x0204, 0x00000000, [⟨31, 16, .rc⟩, ⟨15, 0, .rc⟩]⟩,
  ⟨0x0208, 0x00000000, [⟨15, 0, .rc⟩]⟩,
  ⟨0x020c, 0x00000000, [⟨31, 0, .ro⟩]⟩,
  ⟨0x0210, 0x00000000, [⟨31, 0, .ro⟩]⟩,
  ⟨0x0300, 0x01000000, [⟨31, 24, .ro⟩, ⟨15, 0, .rc⟩]⟩,
  ⟨0x0304, 0x00000000, [⟨31, 0, .rw⟩]⟩,
  ⟨0x0308, 0x00000000, [⟨13, 0, .rw⟩]⟩,
  ⟨0x030c, 0x00000000, [⟨31, 30, .rw⟩, ⟨29, 28, .ro⟩, ⟨23, 16, .ro⟩]⟩,
  ⟨0x0600, 0x00000010, [⟨31, 31, .rw⟩, ⟨4, 0, .rw⟩]⟩,
  ⟨0x0604, 0x00000001, [⟨23, 0, .rw⟩]⟩]

/-- Registers of block CORE. -/
def regsCore : List RegDesc := regsCore0 ++ regsCore1

/-! Block QM. -/

/-- Offset of QM_QCTL in its block (R123). -/
abbrev oQM_QCTL : Nat := 0x0010
abbrev fQM_QCTL_CMD : Fld := ⟨oQM_QCTL, 31, 30⟩
abbrev fQM_QCTL_STATUS : Fld := ⟨oQM_QCTL, 28, 21⟩
abbrev fQM_QCTL_BUSY : Fld := ⟨oQM_QCTL, 20, 20⟩
abbrev fQM_QCTL_QID : Fld := ⟨oQM_QCTL, 19, 0⟩

/-- Offset of QM_DROP in its block (R124). -/
abbrev oQM_DROP : Nat := 0x0014
abbrev fQM_DROP_DENIED_CNT : Fld := ⟨oQM_DROP, 31, 16⟩
abbrev fQM_DROP_INACTIVE_CNT : Fld := ⟨oQM_DROP, 15, 0⟩

/-- Offset of QM_STALL in its block (R124). -/
abbrev oQM_STALL : Nat := 0x0018
abbrev fQM_STALL_STALL : Fld := ⟨oQM_STALL, 31, 31⟩
abbrev fQM_STALL_LAST_QID : Fld := ⟨oQM_STALL, 19, 0⟩

/-- Offset of QM_STALL_CNT in its block (R124). -/
abbrev oQM_STALL_CNT : Nat := 0x001c
abbrev fQM_STALL_CNT_STALL_CNT : Fld := ⟨oQM_STALL_CNT, 15, 0⟩

abbrev eQM_STALL_STALL : Evt := ⟨fQM_STALL_STALL, fQM_STALL_CNT_STALL_CNT, none⟩

/-- Registers of block QM, part 1. -/
def regsQm0 : List RegDesc := [
  ⟨0x0010, 0x00000000, [⟨31, 30, .rw⟩, ⟨28, 21, .ro⟩, ⟨20, 20, .ro⟩, ⟨19, 0, .rw⟩]⟩,
  ⟨0x0014, 0x00000000, [⟨31, 16, .rc⟩, ⟨15, 0, .rc⟩]⟩,
  ⟨0x0018, 0x00000000, [⟨31, 31, .w1c⟩, ⟨19, 0, .ro⟩]⟩,
  ⟨0x001c, 0x00000000, [⟨15, 0, .rc⟩]⟩]

/-- Registers of block QM. -/
def regsQm : List RegDesc := regsQm0

/-! Block MEM. -/

/-- Offset of MEM_STATUS in its block (R145). -/
abbrev oMEM_STATUS : Nat := 0x0000
abbrev fMEM_STATUS_STATE : Fld := ⟨oMEM_STATUS, 31, 30⟩
abbrev fMEM_STATUS_TEMP : Fld := ⟨oMEM_STATUS, 23, 16⟩
abbrev fMEM_STATUS_HOT_REFRESH : Fld := ⟨oMEM_STATUS, 3, 3⟩
abbrev fMEM_STATUS_SCRUBBING : Fld := ⟨oMEM_STATUS, 2, 2⟩

/-- Offset of MEM_ECC in its block (R145). -/
abbrev oMEM_ECC : Nat := 0x0004
abbrev fMEM_ECC_PARITY : Fld := ⟨oMEM_ECC, 2, 2⟩
abbrev fMEM_ECC_UE : Fld := ⟨oMEM_ECC, 1, 1⟩
abbrev fMEM_ECC_CE : Fld := ⟨oMEM_ECC, 0, 0⟩

/-- Offset of MEM_ECC_CNT0 in its block (R145). -/
abbrev oMEM_ECC_CNT0 : Nat := 0x0008
abbrev fMEM_ECC_CNT0_UE_CNT : Fld := ⟨oMEM_ECC_CNT0, 31, 16⟩
abbrev fMEM_ECC_CNT0_CE_CNT : Fld := ⟨oMEM_ECC_CNT0, 15, 0⟩

/-- Offset of MEM_ECC_CNT1 in its block (R145). -/
abbrev oMEM_ECC_CNT1 : Nat := 0x000c
abbrev fMEM_ECC_CNT1_PARITY_CNT : Fld := ⟨oMEM_ECC_CNT1, 15, 0⟩

/-- Offset of MEM_UE_ADDR_LO in its block (R145). -/
abbrev oMEM_UE_ADDR_LO : Nat := 0x0010
abbrev fMEM_UE_ADDR_LO_ADDR_LO : Fld := ⟨oMEM_UE_ADDR_LO, 31, 0⟩

/-- Offset of MEM_UE_ADDR_HI in its block (R145). -/
abbrev oMEM_UE_ADDR_HI : Nat := 0x0014
abbrev fMEM_UE_ADDR_HI_ADDR_HI : Fld := ⟨oMEM_UE_ADDR_HI, 13, 0⟩

/-- Offset of MEM_PATROL in its block (R145). -/
abbrev oMEM_PATROL : Nat := 0x0018
abbrev fMEM_PATROL_MODE : Fld := ⟨oMEM_PATROL, 31, 31⟩
abbrev fMEM_PATROL_PERIOD_H : Fld := ⟨oMEM_PATROL, 7, 0⟩

/-- Offset of MEM_GRANULES in its block (R145). -/
abbrev oMEM_GRANULES : Nat := 0x001c
abbrev fMEM_GRANULES_COUNT : Fld := ⟨oMEM_GRANULES, 31, 0⟩

abbrev eMEM_ECC_PARITY : Evt := ⟨fMEM_ECC_PARITY, fMEM_ECC_CNT1_PARITY_CNT, none⟩
abbrev eMEM_ECC_UE : Evt := ⟨fMEM_ECC_UE, fMEM_ECC_CNT0_UE_CNT, none⟩
abbrev eMEM_ECC_CE : Evt := ⟨fMEM_ECC_CE, fMEM_ECC_CNT0_CE_CNT, none⟩

/-- Registers of block MEM, part 1. -/
def regsMem0 : List RegDesc := [
  ⟨0x0000, 0x00000000, [⟨31, 30, .ro⟩, ⟨23, 16, .ro⟩, ⟨3, 3, .ro⟩, ⟨2, 2, .ro⟩]⟩,
  ⟨0x0004, 0x00000000, [⟨2, 2, .w1c⟩, ⟨1, 1, .w1c⟩, ⟨0, 0, .w1c⟩]⟩,
  ⟨0x0008, 0x00000000, [⟨31, 16, .rc⟩, ⟨15, 0, .rc⟩]⟩,
  ⟨0x000c, 0x00000000, [⟨15, 0, .rc⟩]⟩,
  ⟨0x0010, 0x00000000, [⟨31, 0, .ro⟩]⟩,
  ⟨0x0014, 0x00000000, [⟨13, 0, .ro⟩]⟩,
  ⟨0x0018, 0x00000018, [⟨31, 31, .rw⟩, ⟨7, 0, .rw⟩]⟩,
  ⟨0x001c, 0x00000000, [⟨31, 0, .ro⟩]⟩]

/-- Registers of block MEM. -/
def regsMem : List RegDesc := regsMem0

/-! Block CAB. -/

/-- Offset of CAB_CMD in its block (R173). -/
abbrev oCAB_CMD : Nat := 0x0000
abbrev fCAB_CMD_CMD : Fld := ⟨oCAB_CMD, 31, 28⟩
abbrev fCAB_CMD_TIMED : Fld := ⟨oCAB_CMD, 27, 27⟩
abbrev fCAB_CMD_BUSY : Fld := ⟨oCAB_CMD, 20, 20⟩

/-- Offset of CAB_ARG_P_LO in its block (R173). -/
abbrev oCAB_ARG_P_LO : Nat := 0x0004
abbrev fCAB_ARG_P_LO_P_LO : Fld := ⟨oCAB_ARG_P_LO, 31, 0⟩

/-- Offset of CAB_ARG_P_HI in its block (R173). -/
abbrev oCAB_ARG_P_HI : Nat := 0x0008
abbrev fCAB_ARG_P_HI_P_HI : Fld := ⟨oCAB_ARG_P_HI, 15, 0⟩

/-- Offset of CAB_ARG_SRC_LO in its block (R173). -/
abbrev oCAB_ARG_SRC_LO : Nat := 0x000c
abbrev fCAB_ARG_SRC_LO_SRC_LO : Fld := ⟨oCAB_ARG_SRC_LO, 31, 0⟩

/-- Offset of CAB_ARG_SRC_HI in its block (R173). -/
abbrev oCAB_ARG_SRC_HI : Nat := 0x0010
abbrev fCAB_ARG_SRC_HI_SRC_HI : Fld := ⟨oCAB_ARG_SRC_HI, 13, 0⟩

/-- Offset of CAB_ARG_LEN in its block (R173). -/
abbrev oCAB_ARG_LEN : Nat := 0x0014
abbrev fCAB_ARG_LEN_LEN : Fld := ⟨oCAB_ARG_LEN, 31, 0⟩

/-- Offset of CAB_RESULT in its block (R173). -/
abbrev oCAB_RESULT : Nat := 0x0018
abbrev fCAB_RESULT_CMD : Fld := ⟨oCAB_RESULT, 31, 28⟩
abbrev fCAB_RESULT_SEQ : Fld := ⟨oCAB_RESULT, 27, 24⟩
abbrev fCAB_RESULT_STATUS : Fld := ⟨oCAB_RESULT, 23, 16⟩
abbrev fCAB_RESULT_SECT : Fld := ⟨oCAB_RESULT, 15, 0⟩

/-- Offset of CAB_ERR in its block (R173). -/
abbrev oCAB_ERR : Nat := 0x001c
abbrev fCAB_ERR_OFFSET : Fld := ⟨oCAB_ERR, 31, 0⟩

/-- Offset of CAB_TXN in its block (R173). -/
abbrev oCAB_TXN : Nat := 0x0020
abbrev fCAB_TXN_STATE : Fld := ⟨oCAB_TXN, 31, 30⟩
abbrev fCAB_TXN_LEGACY : Fld := ⟨oCAB_TXN, 29, 29⟩
abbrev fCAB_TXN_REVERTING : Fld := ⟨oCAB_TXN, 28, 28⟩

/-- Offset of CAB_GEN_CUR in its block (R173). -/
abbrev oCAB_GEN_CUR : Nat := 0x0024
abbrev fCAB_GEN_CUR_GEN : Fld := ⟨oCAB_GEN_CUR, 31, 0⟩

/-- Offset of CAB_GEN_PREV in its block (R173). -/
abbrev oCAB_GEN_PREV : Nat := 0x0028
abbrev fCAB_GEN_PREV_GEN : Fld := ⟨oCAB_GEN_PREV, 31, 0⟩

/-- Offset of CAB_GEN_SHADOW in its block (R173). -/
abbrev oCAB_GEN_SHADOW : Nat := 0x002c
abbrev fCAB_GEN_SHADOW_GEN : Fld := ⟨oCAB_GEN_SHADOW, 31, 0⟩

/-- Offset of CAB_GEN_HWM in its block (R173). -/
abbrev oCAB_GEN_HWM : Nat := 0x0030
abbrev fCAB_GEN_HWM_GEN : Fld := ⟨oCAB_GEN_HWM, 31, 0⟩

/-- Offset of CAB_ARMED_P_LO in its block (R173). -/
abbrev oCAB_ARMED_P_LO : Nat := 0x0034
abbrev fCAB_ARMED_P_LO_P_LO : Fld := ⟨oCAB_ARMED_P_LO, 31, 0⟩

/-- Offset of CAB_ARMED_P_HI in its block (R173). -/
abbrev oCAB_ARMED_P_HI : Nat := 0x0038
abbrev fCAB_ARMED_P_HI_P_HI : Fld := ⟨oCAB_ARMED_P_HI, 15, 0⟩

/-- Offset of CAB_SECT_MODE in its block (R173). -/
abbrev oCAB_SECT_MODE : Nat := 0x003c
abbrev fCAB_SECT_MODE_EXPERT : Fld := ⟨oCAB_SECT_MODE, 9, 0⟩

/-- Offset of CAB_EVENT in its block (R173). -/
abbrev oCAB_EVENT : Nat := 0x0040
abbrev fCAB_EVENT_NOT_APPLIED : Fld := ⟨oCAB_EVENT, 2, 2⟩
abbrev fCAB_EVENT_APPLIED : Fld := ⟨oCAB_EVENT, 1, 1⟩
abbrev fCAB_EVENT_CMD_DONE : Fld := ⟨oCAB_EVENT, 0, 0⟩

/-- Offset of CAB_EVENT_CNT in its block (R173). -/
abbrev oCAB_EVENT_CNT : Nat := 0x0044
abbrev fCAB_EVENT_CNT_NOT_APPLIED_CNT : Fld := ⟨oCAB_EVENT_CNT, 31, 16⟩
abbrev fCAB_EVENT_CNT_APPLIED_CNT : Fld := ⟨oCAB_EVENT_CNT, 15, 0⟩

/-- Offset of CAB_EVENT_CNT2 in its block (R173). -/
abbrev oCAB_EVENT_CNT2 : Nat := 0x0048
abbrev fCAB_EVENT_CNT2_CMD_DONE_CNT : Fld := ⟨oCAB_EVENT_CNT2, 15, 0⟩

abbrev eCAB_EVENT_NOT_APPLIED : Evt := ⟨fCAB_EVENT_NOT_APPLIED, fCAB_EVENT_CNT_NOT_APPLIED_CNT, some 1⟩
abbrev eCAB_EVENT_APPLIED : Evt := ⟨fCAB_EVENT_APPLIED, fCAB_EVENT_CNT_APPLIED_CNT, some 1⟩
abbrev eCAB_EVENT_CMD_DONE : Evt := ⟨fCAB_EVENT_CMD_DONE, fCAB_EVENT_CNT2_CMD_DONE_CNT, some 1⟩

/-- Registers of block CAB, part 1. -/
def regsCab0 : List RegDesc := [
  ⟨0x0000, 0x00000000, [⟨31, 28, .rw⟩, ⟨27, 27, .rw⟩, ⟨20, 20, .ro⟩]⟩,
  ⟨0x0004, 0x00000000, [⟨31, 0, .rw⟩]⟩,
  ⟨0x0008, 0x00000000, [⟨15, 0, .rw⟩]⟩,
  ⟨0x000c, 0x00000000, [⟨31, 0, .rw⟩]⟩,
  ⟨0x0010, 0x00000000, [⟨13, 0, .rw⟩]⟩,
  ⟨0x0014, 0x00000000, [⟨31, 0, .rw⟩]⟩,
  ⟨0x0018, 0x00000000, [⟨31, 28, .ro⟩, ⟨27, 24, .ro⟩, ⟨23, 16, .ro⟩, ⟨15, 0, .ro⟩]⟩,
  ⟨0x001c, 0x00000000, [⟨31, 0, .ro⟩]⟩,
  ⟨0x0020, 0x00000000, [⟨31, 30, .ro⟩, ⟨29, 29, .ro⟩, ⟨28, 28, .ro⟩]⟩,
  ⟨0x0024, 0x00000000, [⟨31, 0, .ro⟩]⟩,
  ⟨0x0028, 0x00000000, [⟨31, 0, .ro⟩]⟩,
  ⟨0x002c, 0x00000000, [⟨31, 0, .ro⟩]⟩]

/-- Registers of block CAB, part 2. -/
def regsCab1 : List RegDesc := [
  ⟨0x0030, 0x00000000, [⟨31, 0, .ro⟩]⟩,
  ⟨0x0034, 0x00000000, [⟨31, 0, .ro⟩]⟩,
  ⟨0x0038, 0x00000000, [⟨15, 0, .ro⟩]⟩,
  ⟨0x003c, 0x00000000, [⟨9, 0, .ro⟩]⟩,
  ⟨0x0040, 0x00000000, [⟨2, 2, .w1c⟩, ⟨1, 1, .w1c⟩, ⟨0, 0, .w1c⟩]⟩,
  ⟨0x0044, 0x00000000, [⟨31, 16, .rc⟩, ⟨15, 0, .rc⟩]⟩,
  ⟨0x0048, 0x00000000, [⟨15, 0, .rc⟩]⟩]

/-- Registers of block CAB. -/
def regsCab : List RegDesc := regsCab0 ++ regsCab1

/-! Block DRP. -/

/-- Offset of DRP_STATUS in its block (R214). -/
abbrev oDRP_STATUS : Nat := 0x0000
abbrev fDRP_STATUS_SYNC : Fld := ⟨oDRP_STATUS, 31, 29⟩
abbrev fDRP_STATUS_PACE : Fld := ⟨oDRP_STATUS, 28, 27⟩
abbrev fDRP_STATUS_DRIFT : Fld := ⟨oDRP_STATUS, 26, 26⟩
abbrev fDRP_STATUS_KEEPER : Fld := ⟨oDRP_STATUS, 25, 25⟩
abbrev fDRP_STATUS_DOMAIN_ID : Fld := ⟨oDRP_STATUS, 15, 0⟩

/-- Offset of DRP_W_LO in its block (R214). -/
abbrev oDRP_W_LO : Nat := 0x0008
abbrev fDRP_W_LO_W_LO : Fld := ⟨oDRP_W_LO, 31, 0⟩

/-- Offset of DRP_W_HI in its block (R214). -/
abbrev oDRP_W_HI : Nat := 0x000c
abbrev fDRP_W_HI_EPOCH : Fld := ⟨oDRP_W_HI, 31, 16⟩
abbrev fDRP_W_HI_W_HI : Fld := ⟨oDRP_W_HI, 15, 0⟩

/-- Offset of DRP_P_LO in its block (R214). -/
abbrev oDRP_P_LO : Nat := 0x0010
abbrev fDRP_P_LO_P_LO : Fld := ⟨oDRP_P_LO, 31, 0⟩

/-- Offset of DRP_P_HI in its block (R214). -/
abbrev oDRP_P_HI : Nat := 0x0014
abbrev fDRP_P_HI_P_HI : Fld := ⟨oDRP_P_HI, 15, 0⟩

/-- Offset of DRP_OFFSET in its block (R214). -/
abbrev oDRP_OFFSET : Nat := 0x0018
abbrev fDRP_OFFSET_E_PS : Fld := ⟨oDRP_OFFSET, 31, 0⟩

/-- Offset of DRP_FREQ in its block (R214). -/
abbrev oDRP_FREQ : Nat := 0x001c
abbrev fDRP_FREQ_CORR : Fld := ⟨oDRP_FREQ, 31, 0⟩

/-- Offset of DRP_RUNG in its block (R214). -/
abbrev oDRP_RUNG : Nat := 0x0020
abbrev fDRP_RUNG_SEQ : Fld := ⟨oDRP_RUNG, 31, 16⟩
abbrev fDRP_RUNG_CEILING : Fld := ⟨oDRP_RUNG, 10, 8⟩
abbrev fDRP_RUNG_DOMAIN : Fld := ⟨oDRP_RUNG, 6, 4⟩
abbrev fDRP_RUNG_ARMED : Fld := ⟨oDRP_RUNG, 3, 3⟩
abbrev fDRP_RUNG_CUR : Fld := ⟨oDRP_RUNG, 2, 0⟩

/-- Offset of DRP_RUNG_T_LO in its block (R214). -/
abbrev oDRP_RUNG_T_LO : Nat := 0x0024
abbrev fDRP_RUNG_T_LO_P_LO : Fld := ⟨oDRP_RUNG_T_LO, 31, 0⟩

/-- Offset of DRP_RUNG_T_HI in its block (R214). -/
abbrev oDRP_RUNG_T_HI : Nat := 0x0028
abbrev fDRP_RUNG_T_HI_P_HI : Fld := ⟨oDRP_RUNG_T_HI, 15, 0⟩

/-- Offset of DRP_RUNG_TARGET in its block (R214). -/
abbrev oDRP_RUNG_TARGET : Nat := 0x002c
abbrev fDRP_RUNG_TARGET_TARGET : Fld := ⟨oDRP_RUNG_TARGET, 2, 0⟩

/-- Offset of DRP_CFG in its block (R214). -/
abbrev oDRP_CFG : Nat := 0x0030
abbrev fDRP_CFG_MODE : Fld := ⟨oDRP_CFG, 31, 31⟩
abbrev fDRP_CFG_HOLDOVER_MS : Fld := ⟨oDRP_CFG, 27, 16⟩
abbrev fDRP_CFG_DRIFT_NS : Fld := ⟨oDRP_CFG, 4, 0⟩

/-- Offset of DRP_MASTER in its block (R214). -/
abbrev oDRP_MASTER : Nat := 0x0034
abbrev fDRP_MASTER_MASTER_EID : Fld := ⟨oDRP_MASTER, 18, 0⟩

/-- Offset of DRP_KEEPER in its block (R214). -/
abbrev oDRP_KEEPER : Nat := 0x0038
abbrev fDRP_KEEPER_KEEPER_EID : Fld := ⟨oDRP_KEEPER, 18, 0⟩

/-- Offset of DRP_EVENT in its block (R214). -/
abbrev oDRP_EVENT : Nat := 0x003c
abbrev fDRP_EVENT_EPOCH_WRAP : Fld := ⟨oDRP_EVENT, 6, 6⟩
abbrev fDRP_EVENT_MASTER_CHG : Fld := ⟨oDRP_EVENT, 5, 5⟩
abbrev fDRP_EVENT_RUNG_ABORT : Fld := ⟨oDRP_EVENT, 4, 4⟩
abbrev fDRP_EVENT_RUNG_DONE : Fld := ⟨oDRP_EVENT, 3, 3⟩
abbrev fDRP_EVENT_SLIP : Fld := ⟨oDRP_EVENT, 2, 2⟩
abbrev fDRP_EVENT_HOLDOVER : Fld := ⟨oDRP_EVENT, 1, 1⟩
abbrev fDRP_EVENT_DRIFT : Fld := ⟨oDRP_EVENT, 0, 0⟩

/-- Offset of DRP_EVENT_CNT0 in its block (R214). -/
abbrev oDRP_EVENT_CNT0 : Nat := 0x0040
abbrev fDRP_EVENT_CNT0_HOLDOVER_CNT : Fld := ⟨oDRP_EVENT_CNT0, 31, 16⟩
abbrev fDRP_EVENT_CNT0_DRIFT_CNT : Fld := ⟨oDRP_EVENT_CNT0, 15, 0⟩

/-- Offset of DRP_EVENT_CNT1 in its block (R214). -/
abbrev oDRP_EVENT_CNT1 : Nat := 0x0044
abbrev fDRP_EVENT_CNT1_RUNG_DONE_CNT : Fld := ⟨oDRP_EVENT_CNT1, 31, 16⟩
abbrev fDRP_EVENT_CNT1_SLIP_CNT : Fld := ⟨oDRP_EVENT_CNT1, 15, 0⟩

/-- Offset of DRP_EVENT_CNT2 in its block (R214). -/
abbrev oDRP_EVENT_CNT2 : Nat := 0x0048
abbrev fDRP_EVENT_CNT2_MASTER_CHG_CNT : Fld := ⟨oDRP_EVENT_CNT2, 31, 16⟩
abbrev fDRP_EVENT_CNT2_RUNG_ABORT_CNT : Fld := ⟨oDRP_EVENT_CNT2, 15, 0⟩

/-- Offset of DRP_EVENT_CNT3 in its block (R214). -/
abbrev oDRP_EVENT_CNT3 : Nat := 0x004c
abbrev fDRP_EVENT_CNT3_EPOCH_WRAP_CNT : Fld := ⟨oDRP_EVENT_CNT3, 15, 0⟩

/-- Offset of DRP_PULSE in its block (R214). -/
abbrev oDRP_PULSE : Nat := 0x0050
abbrev fDRP_PULSE_PULSE : Fld := ⟨oDRP_PULSE, 31, 0⟩

abbrev eDRP_EVENT_EPOCH_WRAP : Evt := ⟨fDRP_EVENT_EPOCH_WRAP, fDRP_EVENT_CNT3_EPOCH_WRAP_CNT, some 5⟩
abbrev eDRP_EVENT_MASTER_CHG : Evt := ⟨fDRP_EVENT_MASTER_CHG, fDRP_EVENT_CNT2_MASTER_CHG_CNT, some 5⟩
abbrev eDRP_EVENT_RUNG_ABORT : Evt := ⟨fDRP_EVENT_RUNG_ABORT, fDRP_EVENT_CNT2_RUNG_ABORT_CNT, some 5⟩
abbrev eDRP_EVENT_RUNG_DONE : Evt := ⟨fDRP_EVENT_RUNG_DONE, fDRP_EVENT_CNT1_RUNG_DONE_CNT, some 5⟩
abbrev eDRP_EVENT_SLIP : Evt := ⟨fDRP_EVENT_SLIP, fDRP_EVENT_CNT1_SLIP_CNT, some 5⟩
abbrev eDRP_EVENT_HOLDOVER : Evt := ⟨fDRP_EVENT_HOLDOVER, fDRP_EVENT_CNT0_HOLDOVER_CNT, some 5⟩
abbrev eDRP_EVENT_DRIFT : Evt := ⟨fDRP_EVENT_DRIFT, fDRP_EVENT_CNT0_DRIFT_CNT, some 5⟩

/-- Registers of block DRP, part 1. -/
def regsDrp0 : List RegDesc := [
  ⟨0x0000, 0x04000000, [⟨31, 29, .ro⟩, ⟨28, 27, .ro⟩, ⟨26, 26, .ro⟩, ⟨25, 25, .ro⟩, ⟨15, 0, .ro⟩]⟩,
  ⟨0x0008, 0x00000000, [⟨31, 0, .ro⟩]⟩,
  ⟨0x000c, 0x00000000, [⟨31, 16, .ro⟩, ⟨15, 0, .ro⟩]⟩,
  ⟨0x0010, 0x00000000, [⟨31, 0, .ro⟩]⟩,
  ⟨0x0014, 0x00000000, [⟨15, 0, .ro⟩]⟩,
  ⟨0x0018, 0x00000000, [⟨31, 0, .ro⟩]⟩,
  ⟨0x001c, 0x00000000, [⟨31, 0, .ro⟩]⟩,
  ⟨0x0020, 0x00000000, [⟨31, 16, .ro⟩, ⟨10, 8, .ro⟩, ⟨6, 4, .ro⟩, ⟨3, 3, .ro⟩, ⟨2, 0, .ro⟩]⟩,
  ⟨0x0024, 0x00000000, [⟨31, 0, .ro⟩]⟩,
  ⟨0x0028, 0x00000000, [⟨15, 0, .ro⟩]⟩,
  ⟨0x002c, 0x00000000, [⟨2, 0, .rw⟩]⟩,
  ⟨0x0030, 0x07d00008, [⟨31, 31, .rw⟩, ⟨27, 16, .rw⟩, ⟨4, 0, .rw⟩]⟩]

/-- Registers of block DRP, part 2. -/
def regsDrp1 : List RegDesc := [
  ⟨0x0034, 0x0007ffff, [⟨18, 0, .ro⟩]⟩,
  ⟨0x0038, 0x0007ffff, [⟨18, 0, .ro⟩]⟩,
  ⟨0x003c, 0x00000000, [⟨6, 6, .w1c⟩, ⟨5, 5, .w1c⟩, ⟨4, 4, .w1c⟩, ⟨3, 3, .w1c⟩, ⟨2, 2, .w1c⟩, ⟨1, 1, .w1c⟩, ⟨0, 0, .w1c⟩]⟩,
  ⟨0x0040, 0x00000000, [⟨31, 16, .rc⟩, ⟨15, 0, .rc⟩]⟩,
  ⟨0x0044, 0x00000000, [⟨31, 16, .rc⟩, ⟨15, 0, .rc⟩]⟩,
  ⟨0x0048, 0x00000000, [⟨31, 16, .rc⟩, ⟨15, 0, .rc⟩]⟩,
  ⟨0x004c, 0x00000000, [⟨15, 0, .rc⟩]⟩,
  ⟨0x0050, 0x18100000, [⟨31, 0, .ro⟩]⟩]

/-- Registers of block DRP. -/
def regsDrp : List RegDesc := regsDrp0 ++ regsDrp1

/-! Block FAB. -/

/-- Offset of FAB_STATUS in its block (R255). -/
abbrev oFAB_STATUS : Nat := 0x0000
abbrev fFAB_STATUS_STATE : Fld := ⟨oFAB_STATUS, 31, 29⟩
abbrev fFAB_STATUS_FEC_STD : Fld := ⟨oFAB_STATUS, 28, 28⟩
abbrev fFAB_STATUS_FEC_FORCED : Fld := ⟨oFAB_STATUS, 27, 27⟩
abbrev fFAB_STATUS_PARTNER_FAULT : Fld := ⟨oFAB_STATUS, 26, 26⟩
abbrev fFAB_STATUS_CAUSE : Fld := ⟨oFAB_STATUS, 25, 22⟩
abbrev fFAB_STATUS_PLANE : Fld := ⟨oFAB_STATUS, 18, 16⟩
abbrev fFAB_STATUS_LANES_OK : Fld := ⟨oFAB_STATUS, 15, 8⟩
abbrev fFAB_STATUS_LANES_USED : Fld := ⟨oFAB_STATUS, 7, 0⟩

/-- Offset of FAB_LINK in its block (R255). -/
abbrev oFAB_LINK : Nat := 0x0004
abbrev fFAB_LINK_FIBRE_DLY : Fld := ⟨oFAB_LINK, 31, 16⟩
abbrev fFAB_LINK_TRAY_PORT : Fld := ⟨oFAB_LINK, 15, 0⟩

/-- Offset of FAB_EVENT in its block (R255). -/
abbrev oFAB_EVENT : Nat := 0x0008
abbrev fFAB_EVENT_MISWIRE : Fld := ⟨oFAB_EVENT, 7, 7⟩
abbrev fFAB_EVENT_PARTNER_FAULT : Fld := ⟨oFAB_EVENT, 6, 6⟩
abbrev fFAB_EVENT_UNKNOWN_SRC : Fld := ⟨oFAB_EVENT, 5, 5⟩
abbrev fFAB_EVENT_VL_DROP : Fld := ⟨oFAB_EVENT, 4, 4⟩
abbrev fFAB_EVENT_TAG_FAIL : Fld := ⟨oFAB_EVENT, 3, 3⟩
abbrev fFAB_EVENT_HEADROOM_OVF : Fld := ⟨oFAB_EVENT, 2, 2⟩
abbrev fFAB_EVENT_RETRAIN : Fld := ⟨oFAB_EVENT, 1, 1⟩
abbrev fFAB_EVENT_LINK_DOWN : Fld := ⟨oFAB_EVENT, 0, 0⟩

/-- Offset of FAB_EVENT_CNT0 in its block (R255). -/
abbrev oFAB_EVENT_CNT0 : Nat := 0x000c
abbrev fFAB_EVENT_CNT0_RETRAIN_CNT : Fld := ⟨oFAB_EVENT_CNT0, 31, 16⟩
abbrev fFAB_EVENT_CNT0_LINK_DOWN_CNT : Fld := ⟨oFAB_EVENT_CNT0, 15, 0⟩

/-- Offset of FAB_EVENT_CNT1 in its block (R255). -/
abbrev oFAB_EVENT_CNT1 : Nat := 0x0010
abbrev fFAB_EVENT_CNT1_TAG_FAIL_CNT : Fld := ⟨oFAB_EVENT_CNT1, 31, 16⟩
abbrev fFAB_EVENT_CNT1_HEADROOM_OVF_CNT : Fld := ⟨oFAB_EVENT_CNT1, 15, 0⟩

/-- Offset of FAB_EVENT_CNT2 in its block (R255). -/
abbrev oFAB_EVENT_CNT2 : Nat := 0x0014
abbrev fFAB_EVENT_CNT2_UNKNOWN_SRC_CNT : Fld := ⟨oFAB_EVENT_CNT2, 31, 16⟩
abbrev fFAB_EVENT_CNT2_VL_DROP_CNT : Fld := ⟨oFAB_EVENT_CNT2, 15, 0⟩

/-- Offset of FAB_EVENT_CNT3 in its block (R255). -/
abbrev oFAB_EVENT_CNT3 : Nat := 0x0018
abbrev fFAB_EVENT_CNT3_MISWIRE_CNT : Fld := ⟨oFAB_EVENT_CNT3, 31, 16⟩
abbrev fFAB_EVENT_CNT3_PARTNER_FAULT_CNT : Fld := ⟨oFAB_EVENT_CNT3, 15, 0⟩

/-- Offset of FAB_TX_PKTS in its block (R255). -/
abbrev oFAB_TX_PKTS : Nat := 0x0020
abbrev fFAB_TX_PKTS_COUNT : Fld := ⟨oFAB_TX_PKTS, 31, 0⟩

/-- Offset of FAB_RX_PKTS in its block (R255). -/
abbrev oFAB_RX_PKTS : Nat := 0x0024
abbrev fFAB_RX_PKTS_COUNT : Fld := ⟨oFAB_RX_PKTS, 31, 0⟩

/-- Offset of FAB_FEC_CORR in its block (R255). -/
abbrev oFAB_FEC_CORR : Nat := 0x0028
abbrev fFAB_FEC_CORR_COUNT : Fld := ⟨oFAB_FEC_CORR, 31, 0⟩

/-- Offset of FAB_FEC_UNCORR in its block (R255). -/
abbrev oFAB_FEC_UNCORR : Nat := 0x002c
abbrev fFAB_FEC_UNCORR_COUNT : Fld := ⟨oFAB_FEC_UNCORR, 31, 0⟩

/-- Offset of FAB_STALL_VL0 in its block (R255). -/
abbrev oFAB_STALL_VL0 : Nat := 0x0040
abbrev fFAB_STALL_VL0_CYCLES : Fld := ⟨oFAB_STALL_VL0, 31, 0⟩

/-- Offset of FAB_STALL_VL1 in its block (R255). -/
abbrev oFAB_STALL_VL1 : Nat := 0x0044
abbrev fFAB_STALL_VL1_CYCLES : Fld := ⟨oFAB_STALL_VL1, 31, 0⟩

/-- Offset of FAB_STALL_VL2 in its block (R255). -/
abbrev oFAB_STALL_VL2 : Nat := 0x0048
abbrev fFAB_STALL_VL2_CYCLES : Fld := ⟨oFAB_STALL_VL2, 31, 0⟩

/-- Offset of FAB_STALL_VL3 in its block (R255). -/
abbrev oFAB_STALL_VL3 : Nat := 0x004c
abbrev fFAB_STALL_VL3_CYCLES : Fld := ⟨oFAB_STALL_VL3, 31, 0⟩

/-- Offset of FAB_STALL_VL4 in its block (R255). -/
abbrev oFAB_STALL_VL4 : Nat := 0x0050
abbrev fFAB_STALL_VL4_CYCLES : Fld := ⟨oFAB_STALL_VL4, 31, 0⟩

/-- Offset of FAB_STALL_VL5 in its block (R255). -/
abbrev oFAB_STALL_VL5 : Nat := 0x0054
abbrev fFAB_STALL_VL5_CYCLES : Fld := ⟨oFAB_STALL_VL5, 31, 0⟩

/-- Offset of FAB_STALL_VL6 in its block (R255). -/
abbrev oFAB_STALL_VL6 : Nat := 0x0058
abbrev fFAB_STALL_VL6_CYCLES : Fld := ⟨oFAB_STALL_VL6, 31, 0⟩

/-- Offset of FAB_STALL_VL7 in its block (R255). -/
abbrev oFAB_STALL_VL7 : Nat := 0x005c
abbrev fFAB_STALL_VL7_CYCLES : Fld := ⟨oFAB_STALL_VL7, 31, 0⟩

/-- Offset of FAB_DEPTH_VL0 in its block (R255). -/
abbrev oFAB_DEPTH_VL0 : Nat := 0x0060
abbrev fFAB_DEPTH_VL0_PEAK_KIB : Fld := ⟨oFAB_DEPTH_VL0, 31, 16⟩
abbrev fFAB_DEPTH_VL0_CUR_KIB : Fld := ⟨oFAB_DEPTH_VL0, 15, 0⟩

/-- Offset of FAB_DEPTH_VL1 in its block (R255). -/
abbrev oFAB_DEPTH_VL1 : Nat := 0x0064
abbrev fFAB_DEPTH_VL1_PEAK_KIB : Fld := ⟨oFAB_DEPTH_VL1, 31, 16⟩
abbrev fFAB_DEPTH_VL1_CUR_KIB : Fld := ⟨oFAB_DEPTH_VL1, 15, 0⟩

/-- Offset of FAB_DEPTH_VL2 in its block (R255). -/
abbrev oFAB_DEPTH_VL2 : Nat := 0x0068
abbrev fFAB_DEPTH_VL2_PEAK_KIB : Fld := ⟨oFAB_DEPTH_VL2, 31, 16⟩
abbrev fFAB_DEPTH_VL2_CUR_KIB : Fld := ⟨oFAB_DEPTH_VL2, 15, 0⟩

/-- Offset of FAB_DEPTH_VL3 in its block (R255). -/
abbrev oFAB_DEPTH_VL3 : Nat := 0x006c
abbrev fFAB_DEPTH_VL3_PEAK_KIB : Fld := ⟨oFAB_DEPTH_VL3, 31, 16⟩
abbrev fFAB_DEPTH_VL3_CUR_KIB : Fld := ⟨oFAB_DEPTH_VL3, 15, 0⟩

/-- Offset of FAB_DEPTH_VL4 in its block (R255). -/
abbrev oFAB_DEPTH_VL4 : Nat := 0x0070
abbrev fFAB_DEPTH_VL4_PEAK_KIB : Fld := ⟨oFAB_DEPTH_VL4, 31, 16⟩
abbrev fFAB_DEPTH_VL4_CUR_KIB : Fld := ⟨oFAB_DEPTH_VL4, 15, 0⟩

/-- Offset of FAB_DEPTH_VL5 in its block (R255). -/
abbrev oFAB_DEPTH_VL5 : Nat := 0x0074
abbrev fFAB_DEPTH_VL5_PEAK_KIB : Fld := ⟨oFAB_DEPTH_VL5, 31, 16⟩
abbrev fFAB_DEPTH_VL5_CUR_KIB : Fld := ⟨oFAB_DEPTH_VL5, 15, 0⟩

/-- Offset of FAB_DEPTH_VL6 in its block (R255). -/
abbrev oFAB_DEPTH_VL6 : Nat := 0x0078
abbrev fFAB_DEPTH_VL6_PEAK_KIB : Fld := ⟨oFAB_DEPTH_VL6, 31, 16⟩
abbrev fFAB_DEPTH_VL6_CUR_KIB : Fld := ⟨oFAB_DEPTH_VL6, 15, 0⟩

/-- Offset of FAB_DEPTH_VL7 in its block (R255). -/
abbrev oFAB_DEPTH_VL7 : Nat := 0x007c
abbrev fFAB_DEPTH_VL7_PEAK_KIB : Fld := ⟨oFAB_DEPTH_VL7, 31, 16⟩
abbrev fFAB_DEPTH_VL7_CUR_KIB : Fld := ⟨oFAB_DEPTH_VL7, 15, 0⟩

/-- Offset of FAB_HEADROOM in its block (R255). -/
abbrev oFAB_HEADROOM : Nat := 0x0080
abbrev fFAB_HEADROOM_PEAK_KIB : Fld := ⟨oFAB_HEADROOM, 31, 16⟩
abbrev fFAB_HEADROOM_CUR_KIB : Fld := ⟨oFAB_HEADROOM, 15, 0⟩

/-- Offset of FAB_OPTICS in its block (R255). -/
abbrev oFAB_OPTICS : Nat := 0x0084
abbrev fFAB_OPTICS_LASER_IN : Fld := ⟨oFAB_OPTICS, 31, 24⟩
abbrev fFAB_OPTICS_OE_TEMP : Fld := ⟨oFAB_OPTICS, 23, 16⟩

/-- Offset of FAB_SUMP in its block (R256). -/
abbrev oFAB_SUMP : Nat := 0x8000
abbrev fFAB_SUMP_FREE_KIB : Fld := ⟨oFAB_SUMP, 31, 16⟩
abbrev fFAB_SUMP_USED_PEAK_KIB : Fld := ⟨oFAB_SUMP, 15, 0⟩

/-- Offset of FAB_SESS in its block (R256). -/
abbrev oFAB_SESS : Nat := 0x8004
abbrev fFAB_SESS_ACTIVE : Fld := ⟨oFAB_SESS, 31, 16⟩
abbrev fFAB_SESS_PENDING : Fld := ⟨oFAB_SESS, 15, 0⟩

/-- Offset of FAB_SESS_EVENT in its block (R256). -/
abbrev oFAB_SESS_EVENT : Nat := 0x8008
abbrev fFAB_SESS_EVENT_PEER_REJECTED : Fld := ⟨oFAB_SESS_EVENT, 2, 2⟩
abbrev fFAB_SESS_EVENT_HANDSHAKE_FAIL : Fld := ⟨oFAB_SESS_EVENT, 1, 1⟩
abbrev fFAB_SESS_EVENT_REKEY : Fld := ⟨oFAB_SESS_EVENT, 0, 0⟩

/-- Offset of FAB_SESS_CNT0 in its block (R256). -/
abbrev oFAB_SESS_CNT0 : Nat := 0x800c
abbrev fFAB_SESS_CNT0_HANDSHAKE_FAIL_CNT : Fld := ⟨oFAB_SESS_CNT0, 31, 16⟩
abbrev fFAB_SESS_CNT0_REKEY_CNT : Fld := ⟨oFAB_SESS_CNT0, 15, 0⟩

/-- Offset of FAB_SESS_CNT1 in its block (R256). -/
abbrev oFAB_SESS_CNT1 : Nat := 0x8010
abbrev fFAB_SESS_CNT1_PEER_REJECTED_CNT : Fld := ⟨oFAB_SESS_CNT1, 15, 0⟩

abbrev eFAB_EVENT_MISWIRE : Evt := ⟨fFAB_EVENT_MISWIRE, fFAB_EVENT_CNT3_MISWIRE_CNT, some 8⟩
abbrev eFAB_EVENT_PARTNER_FAULT : Evt := ⟨fFAB_EVENT_PARTNER_FAULT, fFAB_EVENT_CNT3_PARTNER_FAULT_CNT, some 8⟩
abbrev eFAB_EVENT_UNKNOWN_SRC : Evt := ⟨fFAB_EVENT_UNKNOWN_SRC, fFAB_EVENT_CNT2_UNKNOWN_SRC_CNT, some 8⟩
abbrev eFAB_EVENT_VL_DROP : Evt := ⟨fFAB_EVENT_VL_DROP, fFAB_EVENT_CNT2_VL_DROP_CNT, some 8⟩
abbrev eFAB_EVENT_TAG_FAIL : Evt := ⟨fFAB_EVENT_TAG_FAIL, fFAB_EVENT_CNT1_TAG_FAIL_CNT, some 8⟩
abbrev eFAB_EVENT_HEADROOM_OVF : Evt := ⟨fFAB_EVENT_HEADROOM_OVF, fFAB_EVENT_CNT1_HEADROOM_OVF_CNT, some 8⟩
abbrev eFAB_EVENT_RETRAIN : Evt := ⟨fFAB_EVENT_RETRAIN, fFAB_EVENT_CNT0_RETRAIN_CNT, some 8⟩
abbrev eFAB_EVENT_LINK_DOWN : Evt := ⟨fFAB_EVENT_LINK_DOWN, fFAB_EVENT_CNT0_LINK_DOWN_CNT, some 8⟩
abbrev eFAB_SESS_EVENT_PEER_REJECTED : Evt := ⟨fFAB_SESS_EVENT_PEER_REJECTED, fFAB_SESS_CNT1_PEER_REJECTED_CNT, some 8⟩
abbrev eFAB_SESS_EVENT_HANDSHAKE_FAIL : Evt := ⟨fFAB_SESS_EVENT_HANDSHAKE_FAIL, fFAB_SESS_CNT0_HANDSHAKE_FAIL_CNT, some 8⟩
abbrev eFAB_SESS_EVENT_REKEY : Evt := ⟨fFAB_SESS_EVENT_REKEY, fFAB_SESS_CNT0_REKEY_CNT, some 8⟩

/-- Registers of block FAB, part 1. -/
def regsFab0 : List RegDesc := [
  ⟨0x0000, 0x00000000, [⟨31, 29, .ro⟩, ⟨28, 28, .ro⟩, ⟨27, 27, .ro⟩, ⟨26, 26, .ro⟩, ⟨25, 22, .ro⟩, ⟨18, 16, .ro⟩, ⟨15, 8, .ro⟩, ⟨7, 0, .ro⟩]⟩,
  ⟨0x0004, 0x00000000, [⟨31, 16, .ro⟩, ⟨15, 0, .ro⟩]⟩,
  ⟨0x0008, 0x00000000, [⟨7, 7, .w1c⟩, ⟨6, 6, .w1c⟩, ⟨5, 5, .w1c⟩, ⟨4, 4, .w1c⟩, ⟨3, 3, .w1c⟩, ⟨2, 2, .w1c⟩, ⟨1, 1, .w1c⟩, ⟨0, 0, .w1c⟩]⟩,
  ⟨0x000c, 0x00000000, [⟨31, 16, .rc⟩, ⟨15, 0, .rc⟩]⟩,
  ⟨0x0010, 0x00000000, [⟨31, 16, .rc⟩, ⟨15, 0, .rc⟩]⟩,
  ⟨0x0014, 0x00000000, [⟨31, 16, .rc⟩, ⟨15, 0, .rc⟩]⟩,
  ⟨0x0018, 0x00000000, [⟨31, 16, .rc⟩, ⟨15, 0, .rc⟩]⟩,
  ⟨0x0020, 0x00000000, [⟨31, 0, .ro⟩]⟩,
  ⟨0x0024, 0x00000000, [⟨31, 0, .ro⟩]⟩,
  ⟨0x0028, 0x00000000, [⟨31, 0, .ro⟩]⟩,
  ⟨0x002c, 0x00000000, [⟨31, 0, .ro⟩]⟩,
  ⟨0x0040, 0x00000000, [⟨31, 0, .ro⟩]⟩]

/-- Registers of block FAB, part 2. -/
def regsFab1 : List RegDesc := [
  ⟨0x0044, 0x00000000, [⟨31, 0, .ro⟩]⟩,
  ⟨0x0048, 0x00000000, [⟨31, 0, .ro⟩]⟩,
  ⟨0x004c, 0x00000000, [⟨31, 0, .ro⟩]⟩,
  ⟨0x0050, 0x00000000, [⟨31, 0, .ro⟩]⟩,
  ⟨0x0054, 0x00000000, [⟨31, 0, .ro⟩]⟩,
  ⟨0x0058, 0x00000000, [⟨31, 0, .ro⟩]⟩,
  ⟨0x005c, 0x00000000, [⟨31, 0, .ro⟩]⟩,
  ⟨0x0060, 0x00000000, [⟨31, 16, .rc⟩, ⟨15, 0, .ro⟩]⟩,
  ⟨0x0064, 0x00000000, [⟨31, 16, .rc⟩, ⟨15, 0, .ro⟩]⟩,
  ⟨0x0068, 0x00000000, [⟨31, 16, .rc⟩, ⟨15, 0, .ro⟩]⟩,
  ⟨0x006c, 0x00000000, [⟨31, 16, .rc⟩, ⟨15, 0, .ro⟩]⟩,
  ⟨0x0070, 0x00000000, [⟨31, 16, .rc⟩, ⟨15, 0, .ro⟩]⟩]

/-- Registers of block FAB, part 3. -/
def regsFab2 : List RegDesc := [
  ⟨0x0074, 0x00000000, [⟨31, 16, .rc⟩, ⟨15, 0, .ro⟩]⟩,
  ⟨0x0078, 0x00000000, [⟨31, 16, .rc⟩, ⟨15, 0, .ro⟩]⟩,
  ⟨0x007c, 0x00000000, [⟨31, 16, .rc⟩, ⟨15, 0, .ro⟩]⟩,
  ⟨0x0080, 0x00000000, [⟨31, 16, .rc⟩, ⟨15, 0, .ro⟩]⟩,
  ⟨0x0084, 0x80000000, [⟨31, 24, .ro⟩, ⟨23, 16, .ro⟩]⟩,
  ⟨0x8000, 0x00000000, [⟨31, 16, .ro⟩, ⟨15, 0, .rc⟩]⟩,
  ⟨0x8004, 0x00000000, [⟨31, 16, .ro⟩, ⟨15, 0, .ro⟩]⟩,
  ⟨0x8008, 0x00000000, [⟨2, 2, .w1c⟩, ⟨1, 1, .w1c⟩, ⟨0, 0, .w1c⟩]⟩,
  ⟨0x800c, 0x00000000, [⟨31, 16, .rc⟩, ⟨15, 0, .rc⟩]⟩,
  ⟨0x8010, 0x00000000, [⟨15, 0, .rc⟩]⟩]

/-- Registers of block FAB. -/
def regsFab : List RegDesc := regsFab0 ++ regsFab1 ++ regsFab2

/-! Block COL. -/

/-- Offset of COL_CCTL in its block (R292). -/
abbrev oCOL_CCTL : Nat := 0x0000
abbrev fCOL_CCTL_CMD : Fld := ⟨oCOL_CCTL, 31, 30⟩
abbrev fCOL_CCTL_BUSY : Fld := ⟨oCOL_CCTL, 20, 20⟩
abbrev fCOL_CCTL_ID : Fld := ⟨oCOL_CCTL, 11, 0⟩

/-- Offset of COL_CARG_LO in its block (R292). -/
abbrev oCOL_CARG_LO : Nat := 0x0004
abbrev fCOL_CARG_LO_SRC_LO : Fld := ⟨oCOL_CARG_LO, 31, 0⟩

/-- Offset of COL_CARG_HI in its block (R292). -/
abbrev oCOL_CARG_HI : Nat := 0x0008
abbrev fCOL_CARG_HI_SRC_HI : Fld := ⟨oCOL_CARG_HI, 13, 0⟩

/-- Offset of COL_RESULT in its block (R292). -/
abbrev oCOL_RESULT : Nat := 0x000c
abbrev fCOL_RESULT_CMD : Fld := ⟨oCOL_RESULT, 31, 30⟩
abbrev fCOL_RESULT_STATUS : Fld := ⟨oCOL_RESULT, 23, 16⟩
abbrev fCOL_RESULT_ID : Fld := ⟨oCOL_RESULT, 11, 0⟩

/-- Offset of COL_CSEL in its block (R292). -/
abbrev oCOL_CSEL : Nat := 0x0010
abbrev fCOL_CSEL_ID : Fld := ⟨oCOL_CSEL, 11, 0⟩

/-- Offset of COL_CINFO in its block (R292). -/
abbrev oCOL_CINFO : Nat := 0x0014
abbrev fCOL_CINFO_STATE : Fld := ⟨oCOL_CINFO, 31, 29⟩
abbrev fCOL_CINFO_KIND : Fld := ⟨oCOL_CINFO, 28, 26⟩
abbrev fCOL_CINFO_RANK : Fld := ⟨oCOL_CINFO, 25, 16⟩
abbrev fCOL_CINFO_CGEN : Fld := ⟨oCOL_CINFO, 15, 0⟩

/-- Offset of COL_CPOS in its block (R292). -/
abbrev oCOL_CPOS : Nat := 0x0018
abbrev fCOL_CPOS_STEP : Fld := ⟨oCOL_CPOS, 26, 16⟩
abbrev fCOL_CPOS_CSEQ : Fld := ⟨oCOL_CPOS, 15, 0⟩

/-- Offset of COL_ACTIVE in its block (R292). -/
abbrev oCOL_ACTIVE : Nat := 0x001c
abbrev fCOL_ACTIVE_CHAMBERS : Fld := ⟨oCOL_ACTIVE, 28, 16⟩
abbrev fCOL_ACTIVE_BROAD : Fld := ⟨oCOL_ACTIVE, 3, 0⟩

/-- Offset of COL_LATE_STEPS in its block (R292). -/
abbrev oCOL_LATE_STEPS : Nat := 0x0020
abbrev fCOL_LATE_STEPS_COUNT : Fld := ⟨oCOL_LATE_STEPS, 31, 0⟩

/-- Offset of COL_EVENT in its block (R292). -/
abbrev oCOL_EVENT : Nat := 0x0024
abbrev fCOL_EVENT_STALE_MSG : Fld := ⟨oCOL_EVENT, 5, 5⟩
abbrev fCOL_EVENT_OVERFLOW : Fld := ⟨oCOL_EVENT, 4, 4⟩
abbrev fCOL_EVENT_CRC : Fld := ⟨oCOL_EVENT, 3, 3⟩
abbrev fCOL_EVENT_ROLE_MOVED : Fld := ⟨oCOL_EVENT, 2, 2⟩
abbrev fCOL_EVENT_LATE : Fld := ⟨oCOL_EVENT, 1, 1⟩
abbrev fCOL_EVENT_STALL : Fld := ⟨oCOL_EVENT, 0, 0⟩

/-- Offset of COL_EVENT_CNT0 in its block (R292). -/
abbrev oCOL_EVENT_CNT0 : Nat := 0x0028
abbrev fCOL_EVENT_CNT0_LATE_CNT : Fld := ⟨oCOL_EVENT_CNT0, 31, 16⟩
abbrev fCOL_EVENT_CNT0_STALL_CNT : Fld := ⟨oCOL_EVENT_CNT0, 15, 0⟩

/-- Offset of COL_EVENT_CNT1 in its block (R292). -/
abbrev oCOL_EVENT_CNT1 : Nat := 0x002c
abbrev fCOL_EVENT_CNT1_CRC_CNT : Fld := ⟨oCOL_EVENT_CNT1, 31, 16⟩
abbrev fCOL_EVENT_CNT1_ROLE_MOVED_CNT : Fld := ⟨oCOL_EVENT_CNT1, 15, 0⟩

/-- Offset of COL_EVENT_CNT2 in its block (R292). -/
abbrev oCOL_EVENT_CNT2 : Nat := 0x0030
abbrev fCOL_EVENT_CNT2_STALE_MSG_CNT : Fld := ⟨oCOL_EVENT_CNT2, 31, 16⟩
abbrev fCOL_EVENT_CNT2_OVERFLOW_CNT : Fld := ⟨oCOL_EVENT_CNT2, 15, 0⟩

/-- Offset of COL_LAST_STALL in its block (R292). -/
abbrev oCOL_LAST_STALL : Nat := 0x0034
abbrev fCOL_LAST_STALL_STATUS : Fld := ⟨oCOL_LAST_STALL, 31, 24⟩
abbrev fCOL_LAST_STALL_ID : Fld := ⟨oCOL_LAST_STALL, 23, 12⟩
abbrev fCOL_LAST_STALL_RANK : Fld := ⟨oCOL_LAST_STALL, 9, 0⟩

abbrev eCOL_EVENT_STALE_MSG : Evt := ⟨fCOL_EVENT_STALE_MSG, fCOL_EVENT_CNT2_STALE_MSG_CNT, none⟩
abbrev eCOL_EVENT_OVERFLOW : Evt := ⟨fCOL_EVENT_OVERFLOW, fCOL_EVENT_CNT2_OVERFLOW_CNT, none⟩
abbrev eCOL_EVENT_CRC : Evt := ⟨fCOL_EVENT_CRC, fCOL_EVENT_CNT1_CRC_CNT, none⟩
abbrev eCOL_EVENT_ROLE_MOVED : Evt := ⟨fCOL_EVENT_ROLE_MOVED, fCOL_EVENT_CNT1_ROLE_MOVED_CNT, none⟩
abbrev eCOL_EVENT_LATE : Evt := ⟨fCOL_EVENT_LATE, fCOL_EVENT_CNT0_LATE_CNT, none⟩
abbrev eCOL_EVENT_STALL : Evt := ⟨fCOL_EVENT_STALL, fCOL_EVENT_CNT0_STALL_CNT, none⟩

/-- Registers of block COL, part 1. -/
def regsCol0 : List RegDesc := [
  ⟨0x0000, 0x00000000, [⟨31, 30, .rw⟩, ⟨20, 20, .ro⟩, ⟨11, 0, .rw⟩]⟩,
  ⟨0x0004, 0x00000000, [⟨31, 0, .rw⟩]⟩,
  ⟨0x0008, 0x00000000, [⟨13, 0, .rw⟩]⟩,
  ⟨0x000c, 0x00000000, [⟨31, 30, .ro⟩, ⟨23, 16, .ro⟩, ⟨11, 0, .ro⟩]⟩,
  ⟨0x0010, 0x00000000, [⟨11, 0, .rw⟩]⟩,
  ⟨0x0014, 0x00000000, [⟨31, 29, .ro⟩, ⟨28, 26, .ro⟩, ⟨25, 16, .ro⟩, ⟨15, 0, .ro⟩]⟩,
  ⟨0x0018, 0x00000000, [⟨26, 16, .ro⟩, ⟨15, 0, .ro⟩]⟩,
  ⟨0x001c, 0x00000000, [⟨28, 16, .ro⟩, ⟨3, 0, .ro⟩]⟩,
  ⟨0x0020, 0x00000000, [⟨31, 0, .ro⟩]⟩,
  ⟨0x0024, 0x00000000, [⟨5, 5, .w1c⟩, ⟨4, 4, .w1c⟩, ⟨3, 3, .w1c⟩, ⟨2, 2, .w1c⟩, ⟨1, 1, .w1c⟩, ⟨0, 0, .w1c⟩]⟩,
  ⟨0x0028, 0x00000000, [⟨31, 16, .rc⟩, ⟨15, 0, .rc⟩]⟩,
  ⟨0x002c, 0x00000000, [⟨31, 16, .rc⟩, ⟨15, 0, .rc⟩]⟩]

/-- Registers of block COL, part 2. -/
def regsCol1 : List RegDesc := [
  ⟨0x0030, 0x00000000, [⟨31, 16, .rc⟩, ⟨15, 0, .rc⟩]⟩,
  ⟨0x0034, 0x00000000, [⟨31, 24, .ro⟩, ⟨23, 12, .ro⟩, ⟨9, 0, .ro⟩]⟩]

/-- Registers of block COL. -/
def regsCol : List RegDesc := regsCol0 ++ regsCol1

/-! Block GZL. -/

/-- Offset of GZL_ROLE in its block (R320). -/
abbrev oGZL_ROLE : Nat := 0x0000
abbrev fGZL_ROLE_ROLE : Fld := ⟨oGZL_ROLE, 31, 30⟩
abbrev fGZL_ROLE_PREFERRED : Fld := ⟨oGZL_ROLE, 29, 29⟩
abbrev fGZL_ROLE_MAINT : Fld := ⟨oGZL_ROLE, 28, 28⟩

/-- Offset of GZL_EPOCH in its block (R320). -/
abbrev oGZL_EPOCH : Nat := 0x0004
abbrev fGZL_EPOCH_EPOCH : Fld := ⟨oGZL_EPOCH, 31, 0⟩

/-- Offset of GZL_HOLDER in its block (R320). -/
abbrev oGZL_HOLDER : Nat := 0x0008
abbrev fGZL_HOLDER_HOLDER_EID : Fld := ⟨oGZL_HOLDER, 18, 0⟩

/-- Offset of GZL_SELF in its block (R320). -/
abbrev oGZL_SELF : Nat := 0x000c
abbrev fGZL_SELF_RACK : Fld := ⟨oGZL_SELF, 18, 6⟩
abbrev fGZL_SELF_TRAY : Fld := ⟨oGZL_SELF, 5, 2⟩
abbrev fGZL_SELF_SOCKET : Fld := ⟨oGZL_SELF, 1, 0⟩

/-- Offset of GZL_LEASE in its block (R320). -/
abbrev oGZL_LEASE : Nat := 0x0010
abbrev fGZL_LEASE_MISSED : Fld := ⟨oGZL_LEASE, 31, 16⟩
abbrev fGZL_LEASE_REMAIN_MS : Fld := ⟨oGZL_LEASE, 15, 0⟩

/-- Offset of GZL_WSEQ in its block (R320). -/
abbrev oGZL_WSEQ : Nat := 0x0014
abbrev fGZL_WSEQ_SEQ : Fld := ⟨oGZL_WSEQ, 31, 0⟩

/-- Offset of GZL_SLICE_SEL in its block (R320). -/
abbrev oGZL_SLICE_SEL : Nat := 0x0018
abbrev fGZL_SLICE_SEL_ROW : Fld := ⟨oGZL_SLICE_SEL, 1, 0⟩

/-- Offset of GZL_SLICE_ROW in its block (R320). -/
abbrev oGZL_SLICE_ROW : Nat := 0x001c
abbrev fGZL_SLICE_ROW_STATE : Fld := ⟨oGZL_SLICE_ROW, 31, 30⟩
abbrev fGZL_SLICE_ROW_SIZE : Fld := ⟨oGZL_SLICE_ROW, 26, 16⟩
abbrev fGZL_SLICE_ROW_SLICE_ID : Fld := ⟨oGZL_SLICE_ROW, 15, 0⟩

/-- Offset of GZL_EVENT in its block (R320). -/
abbrev oGZL_EVENT : Nat := 0x0020
abbrev fGZL_EVENT_WIRING : Fld := ⟨oGZL_EVENT, 6, 6⟩
abbrev fGZL_EVENT_SLICE_STOP : Fld := ⟨oGZL_EVENT, 5, 5⟩
abbrev fGZL_EVENT_ROLE_CHG : Fld := ⟨oGZL_EVENT, 4, 4⟩
abbrev fGZL_EVENT_NOT_LEADER : Fld := ⟨oGZL_EVENT, 3, 3⟩
abbrev fGZL_EVENT_STALE_WRITE : Fld := ⟨oGZL_EVENT, 2, 2⟩
abbrev fGZL_EVENT_PEER_LOST : Fld := ⟨oGZL_EVENT, 1, 1⟩
abbrev fGZL_EVENT_LAPSED : Fld := ⟨oGZL_EVENT, 0, 0⟩

/-- Offset of GZL_EVENT_CNT0 in its block (R320). -/
abbrev oGZL_EVENT_CNT0 : Nat := 0x0024
abbrev fGZL_EVENT_CNT0_STALE_WRITE_CNT : Fld := ⟨oGZL_EVENT_CNT0, 31, 16⟩
abbrev fGZL_EVENT_CNT0_LAPSED_CNT : Fld := ⟨oGZL_EVENT_CNT0, 15, 0⟩

/-- Offset of GZL_EVENT_CNT1 in its block (R320). -/
abbrev oGZL_EVENT_CNT1 : Nat := 0x0028
abbrev fGZL_EVENT_CNT1_NOT_LEADER_CNT : Fld := ⟨oGZL_EVENT_CNT1, 31, 16⟩
abbrev fGZL_EVENT_CNT1_PEER_LOST_CNT : Fld := ⟨oGZL_EVENT_CNT1, 15, 0⟩

/-- Offset of GZL_EVENT_CNT2 in its block (R320). -/
abbrev oGZL_EVENT_CNT2 : Nat := 0x002c
abbrev fGZL_EVENT_CNT2_SLICE_STOP_CNT : Fld := ⟨oGZL_EVENT_CNT2, 31, 16⟩
abbrev fGZL_EVENT_CNT2_ROLE_CHG_CNT : Fld := ⟨oGZL_EVENT_CNT2, 15, 0⟩

/-- Offset of GZL_EVENT_CNT3 in its block (R320). -/
abbrev oGZL_EVENT_CNT3 : Nat := 0x0030
abbrev fGZL_EVENT_CNT3_WIRING_CNT : Fld := ⟨oGZL_EVENT_CNT3, 15, 0⟩

/-- Offset of GZL_CFG in its block (R320). -/
abbrev oGZL_CFG : Nat := 0x0034
abbrev fGZL_CFG_MODE : Fld := ⟨oGZL_CFG, 31, 31⟩
abbrev fGZL_CFG_TAKEBACK_EN : Fld := ⟨oGZL_CFG, 8, 8⟩
abbrev fGZL_CFG_REPORT_MISS : Fld := ⟨oGZL_CFG, 3, 0⟩

abbrev eGZL_EVENT_WIRING : Evt := ⟨fGZL_EVENT_WIRING, fGZL_EVENT_CNT3_WIRING_CNT, some 6⟩
abbrev eGZL_EVENT_SLICE_STOP : Evt := ⟨fGZL_EVENT_SLICE_STOP, fGZL_EVENT_CNT2_SLICE_STOP_CNT, some 6⟩
abbrev eGZL_EVENT_ROLE_CHG : Evt := ⟨fGZL_EVENT_ROLE_CHG, fGZL_EVENT_CNT2_ROLE_CHG_CNT, some 6⟩
abbrev eGZL_EVENT_NOT_LEADER : Evt := ⟨fGZL_EVENT_NOT_LEADER, fGZL_EVENT_CNT1_NOT_LEADER_CNT, some 6⟩
abbrev eGZL_EVENT_STALE_WRITE : Evt := ⟨fGZL_EVENT_STALE_WRITE, fGZL_EVENT_CNT0_STALE_WRITE_CNT, some 6⟩
abbrev eGZL_EVENT_PEER_LOST : Evt := ⟨fGZL_EVENT_PEER_LOST, fGZL_EVENT_CNT1_PEER_LOST_CNT, some 6⟩
abbrev eGZL_EVENT_LAPSED : Evt := ⟨fGZL_EVENT_LAPSED, fGZL_EVENT_CNT0_LAPSED_CNT, some 6⟩

/-- Registers of block GZL, part 1. -/
def regsGzl0 : List RegDesc := [
  ⟨0x0000, 0x00000000, [⟨31, 30, .ro⟩, ⟨29, 29, .ro⟩, ⟨28, 28, .ro⟩]⟩,
  ⟨0x0004, 0x00000000, [⟨31, 0, .ro⟩]⟩,
  ⟨0x0008, 0x0007ffff, [⟨18, 0, .ro⟩]⟩,
  ⟨0x000c, 0x0007ffff, [⟨18, 6, .ro⟩, ⟨5, 2, .ro⟩, ⟨1, 0, .ro⟩]⟩,
  ⟨0x0010, 0x00000000, [⟨31, 16, .ro⟩, ⟨15, 0, .ro⟩]⟩,
  ⟨0x0014, 0x00000000, [⟨31, 0, .ro⟩]⟩,
  ⟨0x0018, 0x00000000, [⟨1, 0, .rw⟩]⟩,
  ⟨0x001c, 0x00000000, [⟨31, 30, .ro⟩, ⟨26, 16, .ro⟩, ⟨15, 0, .ro⟩]⟩,
  ⟨0x0020, 0x00000000, [⟨6, 6, .w1c⟩, ⟨5, 5, .w1c⟩, ⟨4, 4, .w1c⟩, ⟨3, 3, .w1c⟩, ⟨2, 2, .w1c⟩, ⟨1, 1, .w1c⟩, ⟨0, 0, .w1c⟩]⟩,
  ⟨0x0024, 0x00000000, [⟨31, 16, .rc⟩, ⟨15, 0, .rc⟩]⟩,
  ⟨0x0028, 0x00000000, [⟨31, 16, .rc⟩, ⟨15, 0, .rc⟩]⟩,
  ⟨0x002c, 0x00000000, [⟨31, 16, .rc⟩, ⟨15, 0, .rc⟩]⟩]

/-- Registers of block GZL, part 2. -/
def regsGzl1 : List RegDesc := [
  ⟨0x0030, 0x00000000, [⟨15, 0, .rc⟩]⟩,
  ⟨0x0034, 0x00000103, [⟨31, 31, .rw⟩, ⟨8, 8, .rw⟩, ⟨3, 0, .rw⟩]⟩]

/-- Registers of block GZL. -/
def regsGzl : List RegDesc := regsGzl0 ++ regsGzl1

/-! Block PWR. -/

/-- Offset of PWR_STATUS in its block (R351). -/
abbrev oPWR_STATUS : Nat := 0x0000
abbrev fPWR_STATUS_FLOOR : Fld := ⟨oPWR_STATUS, 31, 31⟩
abbrev fPWR_STATUS_THROTTLED : Fld := ⟨oPWR_STATUS, 30, 30⟩
abbrev fPWR_STATUS_CAPPED : Fld := ⟨oPWR_STATUS, 29, 29⟩
abbrev fPWR_STATUS_MEM_LIMITED : Fld := ⟨oPWR_STATUS, 28, 28⟩
abbrev fPWR_STATUS_COOLING_DEGRADED : Fld := ⟨oPWR_STATUS, 27, 27⟩
abbrev fPWR_STATUS_HB_LOST : Fld := ⟨oPWR_STATUS, 26, 26⟩
abbrev fPWR_STATUS_ORPHAN : Fld := ⟨oPWR_STATUS, 25, 25⟩
abbrev fPWR_STATUS_UNREACHABLE : Fld := ⟨oPWR_STATUS, 24, 24⟩
abbrev fPWR_STATUS_CEIL_THERM : Fld := ⟨oPWR_STATUS, 23, 21⟩
abbrev fPWR_STATUS_CEIL_PWR : Fld := ⟨oPWR_STATUS, 20, 18⟩
abbrev fPWR_STATUS_FLOOR_CAUSE : Fld := ⟨oPWR_STATUS, 12, 8⟩

/-- Offset of PWR_CAP in its block (R351). -/
abbrev oPWR_CAP : Nat := 0x0004
abbrev fPWR_CAP_EFF_W : Fld := ⟨oPWR_CAP, 31, 16⟩
abbrev fPWR_CAP_RACK_W : Fld := ⟨oPWR_CAP, 15, 0⟩

/-- Offset of PWR_LIMIT in its block (R351). -/
abbrev oPWR_LIMIT : Nat := 0x0008
abbrev fPWR_LIMIT_LIMIT_W : Fld := ⟨oPWR_LIMIT, 31, 16⟩
abbrev fPWR_LIMIT_AVG_W : Fld := ⟨oPWR_LIMIT, 15, 0⟩

/-- Offset of PWR_COMPLY in its block (R351). -/
abbrev oPWR_COMPLY : Nat := 0x000c
abbrev fPWR_COMPLY_AVG_MS : Fld := ⟨oPWR_COMPLY, 31, 16⟩
abbrev fPWR_COMPLY_LIMIT_MS : Fld := ⟨oPWR_COMPLY, 15, 0⟩

/-- Offset of PWR_URGENT in its block (R351). -/
abbrev oPWR_URGENT : Nat := 0x0010
abbrev fPWR_URGENT_USED : Fld := ⟨oPWR_URGENT, 26, 16⟩
abbrev fPWR_URGENT_BUDGET : Fld := ⟨oPWR_URGENT, 10, 0⟩

/-- Offset of PWR_MEM in its block (R351). -/
abbrev oPWR_MEM : Nat := 0x0014
abbrev fPWR_MEM_ADMIT : Fld := ⟨oPWR_MEM, 6, 0⟩

/-- Offset of PWR_PRED0 in its block (R351). -/
abbrev oPWR_PRED0 : Nat := 0x0018
abbrev fPWR_PRED0_PRED_W1 : Fld := ⟨oPWR_PRED0, 31, 16⟩
abbrev fPWR_PRED0_PRED_W0 : Fld := ⟨oPWR_PRED0, 15, 0⟩

/-- Offset of PWR_PRED1 in its block (R351). -/
abbrev oPWR_PRED1 : Nat := 0x001c
abbrev fPWR_PRED1_PRED_W3 : Fld := ⟨oPWR_PRED1, 31, 16⟩
abbrev fPWR_PRED1_PRED_W2 : Fld := ⟨oPWR_PRED1, 15, 0⟩

/-- Offset of PWR_PRED2 in its block (R351). -/
abbrev oPWR_PRED2 : Nat := 0x0020
abbrev fPWR_PRED2_PRED_W5 : Fld := ⟨oPWR_PRED2, 31, 16⟩
abbrev fPWR_PRED2_PRED_W4 : Fld := ⟨oPWR_PRED2, 15, 0⟩

/-- Offset of PWR_HOT in its block (R351). -/
abbrev oPWR_HOT : Nat := 0x0024
abbrev fPWR_HOT_HOT_C : Fld := ⟨oPWR_HOT, 31, 24⟩
abbrev fPWR_HOT_HOT_PAIR : Fld := ⟨oPWR_HOT, 23, 16⟩
abbrev fPWR_HOT_STACK_C : Fld := ⟨oPWR_HOT, 15, 8⟩
abbrev fPWR_HOT_STACK : Fld := ⟨oPWR_HOT, 4, 0⟩

/-- Offset of PWR_RTH in its block (R351). -/
abbrev oPWR_RTH : Nat := 0x0028
abbrev fPWR_RTH_RTH : Fld := ⟨oPWR_RTH, 31, 16⟩
abbrev fPWR_RTH_BASE : Fld := ⟨oPWR_RTH, 15, 0⟩

/-- Offset of PWR_INLET in its block (R351). -/
abbrev oPWR_INLET : Nat := 0x002c
abbrev fPWR_INLET_AGE_S : Fld := ⟨oPWR_INLET, 15, 8⟩
abbrev fPWR_INLET_INLET_C : Fld := ⟨oPWR_INLET, 7, 0⟩

/-- Offset of PWR_SFAULT0 in its block (R351). -/
abbrev oPWR_SFAULT0 : Nat := 0x0030
abbrev fPWR_SFAULT0_FAULTY : Fld := ⟨oPWR_SFAULT0, 31, 0⟩

/-- Offset of PWR_SFAULT1 in its block (R351). -/
abbrev oPWR_SFAULT1 : Nat := 0x0034
abbrev fPWR_SFAULT1_FAULTY : Fld := ⟨oPWR_SFAULT1, 31, 0⟩

/-- Offset of PWR_SFAULT2 in its block (R351). -/
abbrev oPWR_SFAULT2 : Nat := 0x0038
abbrev fPWR_SFAULT2_FAULTY : Fld := ⟨oPWR_SFAULT2, 31, 0⟩

/-- Offset of PWR_SFAULT3 in its block (R351). -/
abbrev oPWR_SFAULT3 : Nat := 0x003c
abbrev fPWR_SFAULT3_FAULTY : Fld := ⟨oPWR_SFAULT3, 31, 0⟩

/-- Offset of PWR_EVENT in its block (R351). -/
abbrev oPWR_EVENT : Nat := 0x0040
abbrev fPWR_EVENT_URGENT_EMPTY : Fld := ⟨oPWR_EVENT, 10, 10⟩
abbrev fPWR_EVENT_SENSOR_FAULT : Fld := ⟨oPWR_EVENT, 9, 9⟩
abbrev fPWR_EVENT_ORPHAN : Fld := ⟨oPWR_EVENT, 8, 8⟩
abbrev fPWR_EVENT_HB_LOST : Fld := ⟨oPWR_EVENT, 7, 7⟩
abbrev fPWR_EVENT_STACK_THROTTLE : Fld := ⟨oPWR_EVENT, 6, 6⟩
abbrev fPWR_EVENT_THROTTLE : Fld := ⟨oPWR_EVENT, 5, 5⟩
abbrev fPWR_EVENT_COOL_DEGRADED : Fld := ⟨oPWR_EVENT, 4, 4⟩
abbrev fPWR_EVENT_FLOW_LOST : Fld := ⟨oPWR_EVENT, 3, 3⟩
abbrev fPWR_EVENT_COOL_STOP : Fld := ⟨oPWR_EVENT, 2, 2⟩
abbrev fPWR_EVENT_THERM_FLOOR : Fld := ⟨oPWR_EVENT, 1, 1⟩
abbrev fPWR_EVENT_BRAKE : Fld := ⟨oPWR_EVENT, 0, 0⟩

/-- Offset of PWR_EVENT_CNT0 in its block (R351). -/
abbrev oPWR_EVENT_CNT0 : Nat := 0x0044
abbrev fPWR_EVENT_CNT0_THERM_FLOOR_CNT : Fld := ⟨oPWR_EVENT_CNT0, 31, 16⟩
abbrev fPWR_EVENT_CNT0_BRAKE_CNT : Fld := ⟨oPWR_EVENT_CNT0, 15, 0⟩

/-- Offset of PWR_EVENT_CNT1 in its block (R351). -/
abbrev oPWR_EVENT_CNT1 : Nat := 0x0048
abbrev fPWR_EVENT_CNT1_FLOW_LOST_CNT : Fld := ⟨oPWR_EVENT_CNT1, 31, 16⟩
abbrev fPWR_EVENT_CNT1_COOL_STOP_CNT : Fld := ⟨oPWR_EVENT_CNT1, 15, 0⟩

/-- Offset of PWR_EVENT_CNT2 in its block (R351). -/
abbrev oPWR_EVENT_CNT2 : Nat := 0x004c
abbrev fPWR_EVENT_CNT2_THROTTLE_CNT : Fld := ⟨oPWR_EVENT_CNT2, 31, 16⟩
abbrev fPWR_EVENT_CNT2_COOL_DEGRADED_CNT : Fld := ⟨oPWR_EVENT_CNT2, 15, 0⟩

/-- Offset of PWR_EVENT_CNT3 in its block (R351). -/
abbrev oPWR_EVENT_CNT3 : Nat := 0x0050
abbrev fPWR_EVENT_CNT3_HB_LOST_CNT : Fld := ⟨oPWR_EVENT_CNT3, 31, 16⟩
abbrev fPWR_EVENT_CNT3_STACK_THROTTLE_CNT : Fld := ⟨oPWR_EVENT_CNT3, 15, 0⟩

/-- Offset of PWR_EVENT_CNT4 in its block (R351). -/
abbrev oPWR_EVENT_CNT4 : Nat := 0x0054
abbrev fPWR_EVENT_CNT4_SENSOR_FAULT_CNT : Fld := ⟨oPWR_EVENT_CNT4, 31, 16⟩
abbrev fPWR_EVENT_CNT4_ORPHAN_CNT : Fld := ⟨oPWR_EVENT_CNT4, 15, 0⟩

/-- Offset of PWR_EVENT_CNT5 in its block (R351). -/
abbrev oPWR_EVENT_CNT5 : Nat := 0x0058
abbrev fPWR_EVENT_CNT5_URGENT_EMPTY_CNT : Fld := ⟨oPWR_EVENT_CNT5, 15, 0⟩

/-- Offset of PWR_CTL in its block (R351). -/
abbrev oPWR_CTL : Nat := 0x005c
abbrev fPWR_CTL_COOL_CLEAR : Fld := ⟨oPWR_CTL, 0, 0⟩

/-- Offset of PWR_STEP_HOLD in its block (R351). -/
abbrev oPWR_STEP_HOLD : Nat := 0x0060
abbrev fPWR_STEP_HOLD_CYCLES : Fld := ⟨oPWR_STEP_HOLD, 31, 0⟩

/-- Offset of PWR_STEP_ADMIT in its block (R351). -/
abbrev oPWR_STEP_ADMIT : Nat := 0x0064
abbrev fPWR_STEP_ADMIT_N_D0 : Fld := ⟨oPWR_STEP_ADMIT, 7, 0⟩
abbrev fPWR_STEP_ADMIT_N_D1 : Fld := ⟨oPWR_STEP_ADMIT, 15, 8⟩
abbrev fPWR_STEP_ADMIT_N_D2 : Fld := ⟨oPWR_STEP_ADMIT, 23, 16⟩
abbrev fPWR_STEP_ADMIT_N_D3 : Fld := ⟨oPWR_STEP_ADMIT, 31, 24⟩

/-- Offset of PWR_RAMP_SEL in its block (R351). -/
abbrev oPWR_RAMP_SEL : Nat := 0x0068
abbrev fPWR_RAMP_SEL_ENTRY : Fld := ⟨oPWR_RAMP_SEL, 3, 0⟩

/-- Offset of PWR_RAMP_T_LO in its block (R351). -/
abbrev oPWR_RAMP_T_LO : Nat := 0x006c
abbrev fPWR_RAMP_T_LO_T_LO : Fld := ⟨oPWR_RAMP_T_LO, 31, 0⟩

/-- Offset of PWR_RAMP_T_HI in its block (R351). -/
abbrev oPWR_RAMP_T_HI : Nat := 0x0070
abbrev fPWR_RAMP_T_HI_T_HI : Fld := ⟨oPWR_RAMP_T_HI, 15, 0⟩

/-- Offset of PWR_RAMP_CTL in its block (R351). -/
abbrev oPWR_RAMP_CTL : Nat := 0x0074
abbrev fPWR_RAMP_CTL_CMD : Fld := ⟨oPWR_RAMP_CTL, 31, 30⟩
abbrev fPWR_RAMP_CTL_STATE : Fld := ⟨oPWR_RAMP_CTL, 29, 28⟩
abbrev fPWR_RAMP_CTL_STATUS : Fld := ⟨oPWR_RAMP_CTL, 23, 16⟩
abbrev fPWR_RAMP_CTL_HOLD_US : Fld := ⟨oPWR_RAMP_CTL, 15, 8⟩
abbrev fPWR_RAMP_CTL_N : Fld := ⟨oPWR_RAMP_CTL, 6, 0⟩

/-- Offset of PWR_RAIL0 in its block (R351). -/
abbrev oPWR_RAIL0 : Nat := 0x0080
abbrev fPWR_RAIL0_CURRENT : Fld := ⟨oPWR_RAIL0, 31, 16⟩
abbrev fPWR_RAIL0_VOLTAGE : Fld := ⟨oPWR_RAIL0, 15, 0⟩

/-- Offset of PWR_RAIL1 in its block (R351). -/
abbrev oPWR_RAIL1 : Nat := 0x0084
abbrev fPWR_RAIL1_CURRENT : Fld := ⟨oPWR_RAIL1, 31, 16⟩
abbrev fPWR_RAIL1_VOLTAGE : Fld := ⟨oPWR_RAIL1, 15, 0⟩

/-- Offset of PWR_RAIL2 in its block (R351). -/
abbrev oPWR_RAIL2 : Nat := 0x0088
abbrev fPWR_RAIL2_CURRENT : Fld := ⟨oPWR_RAIL2, 31, 16⟩
abbrev fPWR_RAIL2_VOLTAGE : Fld := ⟨oPWR_RAIL2, 15, 0⟩

/-- Offset of PWR_RAIL3 in its block (R351). -/
abbrev oPWR_RAIL3 : Nat := 0x008c
abbrev fPWR_RAIL3_CURRENT : Fld := ⟨oPWR_RAIL3, 31, 16⟩
abbrev fPWR_RAIL3_VOLTAGE : Fld := ⟨oPWR_RAIL3, 15, 0⟩

/-- Offset of PWR_RAIL4 in its block (R351). -/
abbrev oPWR_RAIL4 : Nat := 0x0090
abbrev fPWR_RAIL4_CURRENT : Fld := ⟨oPWR_RAIL4, 31, 16⟩
abbrev fPWR_RAIL4_VOLTAGE : Fld := ⟨oPWR_RAIL4, 15, 0⟩

/-- Offset of PWR_RAIL5 in its block (R351). -/
abbrev oPWR_RAIL5 : Nat := 0x0094
abbrev fPWR_RAIL5_CURRENT : Fld := ⟨oPWR_RAIL5, 31, 16⟩
abbrev fPWR_RAIL5_VOLTAGE : Fld := ⟨oPWR_RAIL5, 15, 0⟩

/-- Offset of PWR_RAIL6 in its block (R351). -/
abbrev oPWR_RAIL6 : Nat := 0x0098
abbrev fPWR_RAIL6_CURRENT : Fld := ⟨oPWR_RAIL6, 31, 16⟩
abbrev fPWR_RAIL6_VOLTAGE : Fld := ⟨oPWR_RAIL6, 15, 0⟩

/-- Offset of PWR_RAIL7 in its block (R351). -/
abbrev oPWR_RAIL7 : Nat := 0x009c
abbrev fPWR_RAIL7_CURRENT : Fld := ⟨oPWR_RAIL7, 31, 16⟩
abbrev fPWR_RAIL7_VOLTAGE : Fld := ⟨oPWR_RAIL7, 15, 0⟩

abbrev ePWR_EVENT_URGENT_EMPTY : Evt := ⟨fPWR_EVENT_URGENT_EMPTY, fPWR_EVENT_CNT5_URGENT_EMPTY_CNT, some 4⟩
abbrev ePWR_EVENT_SENSOR_FAULT : Evt := ⟨fPWR_EVENT_SENSOR_FAULT, fPWR_EVENT_CNT4_SENSOR_FAULT_CNT, some 4⟩
abbrev ePWR_EVENT_ORPHAN : Evt := ⟨fPWR_EVENT_ORPHAN, fPWR_EVENT_CNT4_ORPHAN_CNT, some 4⟩
abbrev ePWR_EVENT_HB_LOST : Evt := ⟨fPWR_EVENT_HB_LOST, fPWR_EVENT_CNT3_HB_LOST_CNT, some 4⟩
abbrev ePWR_EVENT_STACK_THROTTLE : Evt := ⟨fPWR_EVENT_STACK_THROTTLE, fPWR_EVENT_CNT3_STACK_THROTTLE_CNT, some 4⟩
abbrev ePWR_EVENT_THROTTLE : Evt := ⟨fPWR_EVENT_THROTTLE, fPWR_EVENT_CNT2_THROTTLE_CNT, some 4⟩
abbrev ePWR_EVENT_COOL_DEGRADED : Evt := ⟨fPWR_EVENT_COOL_DEGRADED, fPWR_EVENT_CNT2_COOL_DEGRADED_CNT, some 4⟩
abbrev ePWR_EVENT_FLOW_LOST : Evt := ⟨fPWR_EVENT_FLOW_LOST, fPWR_EVENT_CNT1_FLOW_LOST_CNT, some 4⟩
abbrev ePWR_EVENT_COOL_STOP : Evt := ⟨fPWR_EVENT_COOL_STOP, fPWR_EVENT_CNT1_COOL_STOP_CNT, some 4⟩
abbrev ePWR_EVENT_THERM_FLOOR : Evt := ⟨fPWR_EVENT_THERM_FLOOR, fPWR_EVENT_CNT0_THERM_FLOOR_CNT, some 4⟩
abbrev ePWR_EVENT_BRAKE : Evt := ⟨fPWR_EVENT_BRAKE, fPWR_EVENT_CNT0_BRAKE_CNT, some 4⟩

/-- Registers of block PWR, part 1. -/
def regsPwr0 : List RegDesc := [
  ⟨0x0000, 0x00000000, [⟨31, 31, .ro⟩, ⟨30, 30, .ro⟩, ⟨29, 29, .ro⟩, ⟨28, 28, .ro⟩, ⟨27, 27, .ro⟩, ⟨26, 26, .ro⟩, ⟨25, 25, .ro⟩, ⟨24, 24, .ro⟩, ⟨23, 21, .ro⟩, ⟨20, 18, .ro⟩, ⟨12, 8, .ro⟩]⟩,
  ⟨0x0004, 0x0e100e10, [⟨31, 16, .ro⟩, ⟨15, 0, .ro⟩]⟩,
  ⟨0x0008, 0x0e100000, [⟨31, 16, .ro⟩, ⟨15, 0, .ro⟩]⟩,
  ⟨0x000c, 0x00000000, [⟨31, 16, .ro⟩, ⟨15, 0, .ro⟩]⟩,
  ⟨0x0010, 0x00000040, [⟨26, 16, .ro⟩, ⟨10, 0, .ro⟩]⟩,
  ⟨0x0014, 0x00000040, [⟨6, 0, .ro⟩]⟩,
  ⟨0x0018, 0x00000000, [⟨31, 16, .ro⟩, ⟨15, 0, .ro⟩]⟩,
  ⟨0x001c, 0x00000000, [⟨31, 16, .ro⟩, ⟨15, 0, .ro⟩]⟩,
  ⟨0x0020, 0x00000000, [⟨31, 16, .ro⟩, ⟨15, 0, .ro⟩]⟩,
  ⟨0x0024, 0x00000000, [⟨31, 24, .ro⟩, ⟨23, 16, .ro⟩, ⟨15, 8, .ro⟩, ⟨4, 0, .ro⟩]⟩,
  ⟨0x0028, 0x00000000, [⟨31, 16, .ro⟩, ⟨15, 0, .ro⟩]⟩,
  ⟨0x002c, 0x0000ff00, [⟨15, 8, .ro⟩, ⟨7, 0, .ro⟩]⟩]

/-- Registers of block PWR, part 2. -/
def regsPwr1 : List RegDesc := [
  ⟨0x0030, 0x00000000, [⟨31, 0, .ro⟩]⟩,
  ⟨0x0034, 0x00000000, [⟨31, 0, .ro⟩]⟩,
  ⟨0x0038, 0x00000000, [⟨31, 0, .ro⟩]⟩,
  ⟨0x003c, 0x00000000, [⟨31, 0, .ro⟩]⟩,
  ⟨0x0040, 0x00000000, [⟨10, 10, .w1c⟩, ⟨9, 9, .w1c⟩, ⟨8, 8, .w1c⟩, ⟨7, 7, .w1c⟩, ⟨6, 6, .w1c⟩, ⟨5, 5, .w1c⟩, ⟨4, 4, .w1c⟩, ⟨3, 3, .w1c⟩, ⟨2, 2, .w1c⟩, ⟨1, 1, .w1c⟩, ⟨0, 0, .w1c⟩]⟩,
  ⟨0x0044, 0x00000000, [⟨31, 16, .rc⟩, ⟨15, 0, .rc⟩]⟩,
  ⟨0x0048, 0x00000000, [⟨31, 16, .rc⟩, ⟨15, 0, .rc⟩]⟩,
  ⟨0x004c, 0x00000000, [⟨31, 16, .rc⟩, ⟨15, 0, .rc⟩]⟩,
  ⟨0x0050, 0x00000000, [⟨31, 16, .rc⟩, ⟨15, 0, .rc⟩]⟩,
  ⟨0x0054, 0x00000000, [⟨31, 16, .rc⟩, ⟨15, 0, .rc⟩]⟩,
  ⟨0x0058, 0x00000000, [⟨15, 0, .rc⟩]⟩,
  ⟨0x005c, 0x00000000, [⟨0, 0, .w1s⟩]⟩]

/-- Registers of block PWR, part 3. -/
def regsPwr2 : List RegDesc := [
  ⟨0x0060, 0x00000000, [⟨31, 0, .ro⟩]⟩,
  ⟨0x0064, 0x00000000, [⟨7, 0, .ro⟩, ⟨15, 8, .ro⟩, ⟨23, 16, .ro⟩, ⟨31, 24, .ro⟩]⟩,
  ⟨0x0068, 0x00000000, [⟨3, 0, .rw⟩]⟩,
  ⟨0x006c, 0x00000000, [⟨31, 0, .rw⟩]⟩,
  ⟨0x0070, 0x00000000, [⟨15, 0, .rw⟩]⟩,
  ⟨0x0074, 0x00001400, [⟨31, 30, .rw⟩, ⟨29, 28, .ro⟩, ⟨23, 16, .ro⟩, ⟨15, 8, .rw⟩, ⟨6, 0, .rw⟩]⟩,
  ⟨0x0080, 0x00000000, [⟨31, 16, .ro⟩, ⟨15, 0, .ro⟩]⟩,
  ⟨0x0084, 0x00000000, [⟨31, 16, .ro⟩, ⟨15, 0, .ro⟩]⟩,
  ⟨0x0088, 0x00000000, [⟨31, 16, .ro⟩, ⟨15, 0, .ro⟩]⟩,
  ⟨0x008c, 0x00000000, [⟨31, 16, .ro⟩, ⟨15, 0, .ro⟩]⟩,
  ⟨0x0090, 0x00000000, [⟨31, 16, .ro⟩, ⟨15, 0, .ro⟩]⟩,
  ⟨0x0094, 0x00000000, [⟨31, 16, .ro⟩, ⟨15, 0, .ro⟩]⟩]

/-- Registers of block PWR, part 4. -/
def regsPwr3 : List RegDesc := [
  ⟨0x0098, 0x00000000, [⟨31, 16, .ro⟩, ⟨15, 0, .ro⟩]⟩,
  ⟨0x009c, 0x00000000, [⟨31, 16, .ro⟩, ⟨15, 0, .ro⟩]⟩]

/-- Registers of block PWR. -/
def regsPwr : List RegDesc := regsPwr0 ++ regsPwr1 ++ regsPwr2 ++ regsPwr3

/-! Block FWU. -/

/-- Offset of FWU_CMD in its block (R381). -/
abbrev oFWU_CMD : Nat := 0x0000
abbrev fFWU_CMD_CMD : Fld := ⟨oFWU_CMD, 31, 28⟩
abbrev fFWU_CMD_BUSY : Fld := ⟨oFWU_CMD, 20, 20⟩

/-- Offset of FWU_ARG_SRC_LO in its block (R381). -/
abbrev oFWU_ARG_SRC_LO : Nat := 0x0004
abbrev fFWU_ARG_SRC_LO_SRC_LO : Fld := ⟨oFWU_ARG_SRC_LO, 31, 0⟩

/-- Offset of FWU_ARG_SRC_HI in its block (R381). -/
abbrev oFWU_ARG_SRC_HI : Nat := 0x0008
abbrev fFWU_ARG_SRC_HI_SRC_HI : Fld := ⟨oFWU_ARG_SRC_HI, 13, 0⟩

/-- Offset of FWU_ARG_LEN in its block (R381). -/
abbrev oFWU_ARG_LEN : Nat := 0x000c
abbrev fFWU_ARG_LEN_LEN : Fld := ⟨oFWU_ARG_LEN, 31, 0⟩

/-- Offset of FWU_RESULT in its block (R381). -/
abbrev oFWU_RESULT : Nat := 0x0010
abbrev fFWU_RESULT_CMD : Fld := ⟨oFWU_RESULT, 31, 28⟩
abbrev fFWU_RESULT_SEQ : Fld := ⟨oFWU_RESULT, 27, 24⟩
abbrev fFWU_RESULT_STATUS : Fld := ⟨oFWU_RESULT, 23, 16⟩
abbrev fFWU_RESULT_COMP : Fld := ⟨oFWU_RESULT, 15, 8⟩

/-- Offset of FWU_BANK in its block (R381). -/
abbrev oFWU_BANK : Nat := 0x0014
abbrev fFWU_BANK_ACTIVE : Fld := ⟨oFWU_BANK, 31, 31⟩
abbrev fFWU_BANK_STAGED : Fld := ⟨oFWU_BANK, 30, 30⟩
abbrev fFWU_BANK_MARKED : Fld := ⟨oFWU_BANK, 29, 29⟩
abbrev fFWU_BANK_SECVER : Fld := ⟨oFWU_BANK, 15, 0⟩

/-- Offset of FWU_EVENT in its block (R381). -/
abbrev oFWU_EVENT : Nat := 0x0018
abbrev fFWU_EVENT_DEFAULTED : Fld := ⟨oFWU_EVENT, 3, 3⟩
abbrev fFWU_EVENT_REVERTED : Fld := ⟨oFWU_EVENT, 2, 2⟩
abbrev fFWU_EVENT_FALLBACK : Fld := ⟨oFWU_EVENT, 1, 1⟩
abbrev fFWU_EVENT_DONE : Fld := ⟨oFWU_EVENT, 0, 0⟩

/-- Offset of FWU_EVENT_CNT0 in its block (R381). -/
abbrev oFWU_EVENT_CNT0 : Nat := 0x001c
abbrev fFWU_EVENT_CNT0_FALLBACK_CNT : Fld := ⟨oFWU_EVENT_CNT0, 31, 16⟩
abbrev fFWU_EVENT_CNT0_DONE_CNT : Fld := ⟨oFWU_EVENT_CNT0, 15, 0⟩

/-- Offset of FWU_EVENT_CNT1 in its block (R381). -/
abbrev oFWU_EVENT_CNT1 : Nat := 0x0020
abbrev fFWU_EVENT_CNT1_DEFAULTED_CNT : Fld := ⟨oFWU_EVENT_CNT1, 31, 16⟩
abbrev fFWU_EVENT_CNT1_REVERTED_CNT : Fld := ⟨oFWU_EVENT_CNT1, 15, 0⟩

abbrev eFWU_EVENT_DEFAULTED : Evt := ⟨fFWU_EVENT_DEFAULTED, fFWU_EVENT_CNT1_DEFAULTED_CNT, some 2⟩
abbrev eFWU_EVENT_REVERTED : Evt := ⟨fFWU_EVENT_REVERTED, fFWU_EVENT_CNT1_REVERTED_CNT, some 2⟩
abbrev eFWU_EVENT_FALLBACK : Evt := ⟨fFWU_EVENT_FALLBACK, fFWU_EVENT_CNT0_FALLBACK_CNT, some 2⟩
abbrev eFWU_EVENT_DONE : Evt := ⟨fFWU_EVENT_DONE, fFWU_EVENT_CNT0_DONE_CNT, some 2⟩

/-- Registers of block FWU, part 1. -/
def regsFwu0 : List RegDesc := [
  ⟨0x0000, 0x00000000, [⟨31, 28, .rw⟩, ⟨20, 20, .ro⟩]⟩,
  ⟨0x0004, 0x00000000, [⟨31, 0, .rw⟩]⟩,
  ⟨0x0008, 0x00000000, [⟨13, 0, .rw⟩]⟩,
  ⟨0x000c, 0x00000000, [⟨31, 0, .rw⟩]⟩,
  ⟨0x0010, 0x00000000, [⟨31, 28, .ro⟩, ⟨27, 24, .ro⟩, ⟨23, 16, .ro⟩, ⟨15, 8, .ro⟩]⟩,
  ⟨0x0014, 0x00000000, [⟨31, 31, .ro⟩, ⟨30, 30, .ro⟩, ⟨29, 29, .ro⟩, ⟨15, 0, .ro⟩]⟩,
  ⟨0x0018, 0x00000000, [⟨3, 3, .w1c⟩, ⟨2, 2, .w1c⟩, ⟨1, 1, .w1c⟩, ⟨0, 0, .w1c⟩]⟩,
  ⟨0x001c, 0x00000000, [⟨31, 16, .rc⟩, ⟨15, 0, .rc⟩]⟩,
  ⟨0x0020, 0x00000000, [⟨31, 16, .rc⟩, ⟨15, 0, .rc⟩]⟩]

/-- Registers of block FWU. -/
def regsFwu : List RegDesc := regsFwu0

/-! Block BUR. -/

/-- Offset of BUR_STATUS in its block (R405). -/
abbrev oBUR_STATUS : Nat := 0x0000
abbrev fBUR_STATUS_SAFE : Fld := ⟨oBUR_STATUS, 31, 31⟩
abbrev fBUR_STATUS_STOPPED : Fld := ⟨oBUR_STATUS, 30, 27⟩
abbrev fBUR_STATUS_CARRIED : Fld := ⟨oBUR_STATUS, 26, 26⟩

/-- Offset of BUR_EVENT in its block (R405). -/
abbrev oBUR_EVENT : Nat := 0x0004
abbrev fBUR_EVENT_WIRE : Fld := ⟨oBUR_EVENT, 4, 4⟩
abbrev fBUR_EVENT_FATAL : Fld := ⟨oBUR_EVENT, 3, 3⟩
abbrev fBUR_EVENT_FENCED : Fld := ⟨oBUR_EVENT, 2, 2⟩
abbrev fBUR_EVENT_DEFERRED : Fld := ⟨oBUR_EVENT, 1, 1⟩
abbrev fBUR_EVENT_CORRECTED : Fld := ⟨oBUR_EVENT, 0, 0⟩

/-- Offset of BUR_EVENT_CNT0 in its block (R405). -/
abbrev oBUR_EVENT_CNT0 : Nat := 0x0008
abbrev fBUR_EVENT_CNT0_DEFERRED_CNT : Fld := ⟨oBUR_EVENT_CNT0, 31, 16⟩
abbrev fBUR_EVENT_CNT0_CORRECTED_CNT : Fld := ⟨oBUR_EVENT_CNT0, 15, 0⟩

/-- Offset of BUR_EVENT_CNT1 in its block (R405). -/
abbrev oBUR_EVENT_CNT1 : Nat := 0x000c
abbrev fBUR_EVENT_CNT1_FATAL_CNT : Fld := ⟨oBUR_EVENT_CNT1, 31, 16⟩
abbrev fBUR_EVENT_CNT1_FENCED_CNT : Fld := ⟨oBUR_EVENT_CNT1, 15, 0⟩

/-- Offset of BUR_EVENT_CNT2 in its block (R405). -/
abbrev oBUR_EVENT_CNT2 : Nat := 0x0010
abbrev fBUR_EVENT_CNT2_WIRE_CNT : Fld := ⟨oBUR_EVENT_CNT2, 15, 0⟩

/-- Offset of BUR_LOG_HEAD in its block (R405). -/
abbrev oBUR_LOG_HEAD : Nat := 0x0014
abbrev fBUR_LOG_HEAD_SEQ : Fld := ⟨oBUR_LOG_HEAD, 31, 0⟩

/-- Offset of BUR_FIRST in its block (R405). -/
abbrev oBUR_FIRST : Nat := 0x0018
abbrev fBUR_FIRST_SEQ : Fld := ⟨oBUR_FIRST, 31, 0⟩

/-- Offset of BUR_ERRN in its block (R405). -/
abbrev oBUR_ERRN : Nat := 0x001c
abbrev fBUR_ERRN_PIN : Fld := ⟨oBUR_ERRN, 1, 1⟩
abbrev fBUR_ERRN_CLEAR : Fld := ⟨oBUR_ERRN, 0, 0⟩

/-- Offset of BUR_CFG in its block (R405). -/
abbrev oBUR_CFG : Nat := 0x0020
abbrev fBUR_CFG_MODE : Fld := ⟨oBUR_CFG, 31, 31⟩
abbrev fBUR_CFG_CORR_IRQ : Fld := ⟨oBUR_CFG, 1, 1⟩
abbrev fBUR_CFG_STOP_EN : Fld := ⟨oBUR_CFG, 0, 0⟩

/-- Offset of BUR_CRAWL in its block (R405). -/
abbrev oBUR_CRAWL : Nat := 0x0024
abbrev fBUR_CRAWL_DIV : Fld := ⟨oBUR_CRAWL, 31, 28⟩
abbrev fBUR_CRAWL_UNIT : Fld := ⟨oBUR_CRAWL, 23, 16⟩
abbrev fBUR_CRAWL_GROUP : Fld := ⟨oBUR_CRAWL, 11, 0⟩

abbrev eBUR_EVENT_WIRE : Evt := ⟨fBUR_EVENT_WIRE, fBUR_EVENT_CNT2_WIRE_CNT, some 0⟩
abbrev eBUR_EVENT_FATAL : Evt := ⟨fBUR_EVENT_FATAL, fBUR_EVENT_CNT1_FATAL_CNT, some 0⟩
abbrev eBUR_EVENT_FENCED : Evt := ⟨fBUR_EVENT_FENCED, fBUR_EVENT_CNT1_FENCED_CNT, some 0⟩
abbrev eBUR_EVENT_DEFERRED : Evt := ⟨fBUR_EVENT_DEFERRED, fBUR_EVENT_CNT0_DEFERRED_CNT, some 0⟩
abbrev eBUR_EVENT_CORRECTED : Evt := ⟨fBUR_EVENT_CORRECTED, fBUR_EVENT_CNT0_CORRECTED_CNT, some 0⟩

/-- Registers of block BUR, part 1. -/
def regsBur0 : List RegDesc := [
  ⟨0x0000, 0x00000000, [⟨31, 31, .ro⟩, ⟨30, 27, .ro⟩, ⟨26, 26, .ro⟩]⟩,
  ⟨0x0004, 0x00000000, [⟨4, 4, .w1c⟩, ⟨3, 3, .w1c⟩, ⟨2, 2, .w1c⟩, ⟨1, 1, .w1c⟩, ⟨0, 0, .w1c⟩]⟩,
  ⟨0x0008, 0x00000000, [⟨31, 16, .rc⟩, ⟨15, 0, .rc⟩]⟩,
  ⟨0x000c, 0x00000000, [⟨31, 16, .rc⟩, ⟨15, 0, .rc⟩]⟩,
  ⟨0x0010, 0x00000000, [⟨15, 0, .rc⟩]⟩,
  ⟨0x0014, 0x00000001, [⟨31, 0, .ro⟩]⟩,
  ⟨0x0018, 0x00000000, [⟨31, 0, .ro⟩]⟩,
  ⟨0x001c, 0x00000000, [⟨1, 1, .ro⟩, ⟨0, 0, .w1s⟩]⟩,
  ⟨0x0020, 0x00000001, [⟨31, 31, .rw⟩, ⟨1, 1, .rw⟩, ⟨0, 0, .rw⟩]⟩,
  ⟨0x0024, 0x30000000, [⟨31, 28, .rw⟩, ⟨23, 16, .rw⟩, ⟨11, 0, .rw⟩]⟩]

/-- Registers of block BUR. -/
def regsBur : List RegDesc := regsBur0

/-! Block PERF. -/

/-- Offset of PERF_SNAP_CTL in its block (R406). -/
abbrev oPERF_SNAP_CTL : Nat := 0x0000
abbrev fPERF_SNAP_CTL_CMD : Fld := ⟨oPERF_SNAP_CTL, 31, 30⟩
abbrev fPERF_SNAP_CTL_STATE : Fld := ⟨oPERF_SNAP_CTL, 29, 28⟩
abbrev fPERF_SNAP_CTL_LOG2_PERIOD : Fld := ⟨oPERF_SNAP_CTL, 22, 16⟩
abbrev fPERF_SNAP_CTL_STATUS : Fld := ⟨oPERF_SNAP_CTL, 15, 8⟩
abbrev fPERF_SNAP_CTL_LOG2_SLOTS : Fld := ⟨oPERF_SNAP_CTL, 7, 0⟩

/-- Offset of PERF_SNAP_T_LO in its block (R406). -/
abbrev oPERF_SNAP_T_LO : Nat := 0x0004
abbrev fPERF_SNAP_T_LO_T_LO : Fld := ⟨oPERF_SNAP_T_LO, 31, 0⟩

/-- Offset of PERF_SNAP_T_HI in its block (R406). -/
abbrev oPERF_SNAP_T_HI : Nat := 0x0008
abbrev fPERF_SNAP_T_HI_T_HI : Fld := ⟨oPERF_SNAP_T_HI, 15, 0⟩

/-- Offset of PERF_SNAP_RING_LO in its block (R406). -/
abbrev oPERF_SNAP_RING_LO : Nat := 0x000c
abbrev fPERF_SNAP_RING_LO_BASE_LO : Fld := ⟨oPERF_SNAP_RING_LO, 31, 0⟩

/-- Offset of PERF_SNAP_RING_HI in its block (R406). -/
abbrev oPERF_SNAP_RING_HI : Nat := 0x0010
abbrev fPERF_SNAP_RING_HI_BASE_HI : Fld := ⟨oPERF_SNAP_RING_HI, 13, 0⟩

/-- Offset of PERF_SNAP_NOTIFY_LO in its block (R406). -/
abbrev oPERF_SNAP_NOTIFY_LO : Nat := 0x0014
abbrev fPERF_SNAP_NOTIFY_LO_OBJ_LO : Fld := ⟨oPERF_SNAP_NOTIFY_LO, 31, 0⟩

/-- Offset of PERF_SNAP_NOTIFY_HI in its block (R406). -/
abbrev oPERF_SNAP_NOTIFY_HI : Nat := 0x0018
abbrev fPERF_SNAP_NOTIFY_HI_OBJ_HI : Fld := ⟨oPERF_SNAP_NOTIFY_HI, 13, 0⟩

/-- Offset of PERF_SNAP_SEQ in its block (R406). -/
abbrev oPERF_SNAP_SEQ : Nat := 0x001c
abbrev fPERF_SNAP_SEQ_SEQ : Fld := ⟨oPERF_SNAP_SEQ, 31, 0⟩

/-- Offset of PERF_SRING_SEL in its block (R406). -/
abbrev oPERF_SRING_SEL : Nat := 0x0020
abbrev fPERF_SRING_SEL_PART : Fld := ⟨oPERF_SRING_SEL, 1, 0⟩

/-- Offset of PERF_SRING_LO in its block (R406). -/
abbrev oPERF_SRING_LO : Nat := 0x0024
abbrev fPERF_SRING_LO_BASE_LO : Fld := ⟨oPERF_SRING_LO, 31, 0⟩

/-- Offset of PERF_SRING_HI in its block (R406). -/
abbrev oPERF_SRING_HI : Nat := 0x0028
abbrev fPERF_SRING_HI_EN : Fld := ⟨oPERF_SRING_HI, 31, 31⟩
abbrev fPERF_SRING_HI_LOG2_ENT : Fld := ⟨oPERF_SRING_HI, 30, 26⟩
abbrev fPERF_SRING_HI_BASE_HI : Fld := ⟨oPERF_SRING_HI, 13, 0⟩

/-- Offset of PERF_SRING_STAT in its block (R406). -/
abbrev oPERF_SRING_STAT : Nat := 0x002c
abbrev fPERF_SRING_STAT_DROP_CNT : Fld := ⟨oPERF_SRING_STAT, 31, 16⟩
abbrev fPERF_SRING_STAT_HEAD : Fld := ⟨oPERF_SRING_STAT, 15, 0⟩


/-- Registers of block PERF, part 1. -/
def regsPerf0 : List RegDesc := [
  ⟨0x0000, 0x00000000, [⟨31, 30, .rw⟩, ⟨29, 28, .ro⟩, ⟨22, 16, .rw⟩, ⟨15, 8, .ro⟩, ⟨7, 0, .rw⟩]⟩,
  ⟨0x0004, 0x00000000, [⟨31, 0, .rw⟩]⟩,
  ⟨0x0008, 0x00000000, [⟨15, 0, .rw⟩]⟩,
  ⟨0x000c, 0x00000000, [⟨31, 0, .rw⟩]⟩,
  ⟨0x0010, 0x00000000, [⟨13, 0, .rw⟩]⟩,
  ⟨0x0014, 0x00000000, [⟨31, 0, .rw⟩]⟩,
  ⟨0x0018, 0x00000000, [⟨13, 0, .rw⟩]⟩,
  ⟨0x001c, 0x00000000, [⟨31, 0, .ro⟩]⟩,
  ⟨0x0020, 0x00000000, [⟨1, 0, .rw⟩]⟩,
  ⟨0x0024, 0x00000000, [⟨31, 0, .rw⟩]⟩,
  ⟨0x0028, 0x1c000000, [⟨31, 31, .rw⟩, ⟨30, 26, .rw⟩, ⟨13, 0, .rw⟩]⟩,
  ⟨0x002c, 0x00000000, [⟨31, 16, .rc⟩, ⟨15, 0, .ro⟩]⟩]

/-- Registers of block PERF. -/
def regsPerf : List RegDesc := regsPerf0

/-! Block SEC. -/

/-- Offset of SEC_LC in its block (R432). -/
abbrev oSEC_LC : Nat := 0x0000
abbrev fSEC_LC_STATE : Fld := ⟨oSEC_LC, 31, 30⟩
abbrev fSEC_LC_UNLOCKED : Fld := ⟨oSEC_LC, 29, 29⟩
abbrev fSEC_LC_PEERS_SET : Fld := ⟨oSEC_LC, 28, 28⟩

/-- Offset of SEC_CMD in its block (R432). -/
abbrev oSEC_CMD : Nat := 0x0004
abbrev fSEC_CMD_CMD : Fld := ⟨oSEC_CMD, 31, 28⟩
abbrev fSEC_CMD_FORCE : Fld := ⟨oSEC_CMD, 27, 27⟩
abbrev fSEC_CMD_BUSY : Fld := ⟨oSEC_CMD, 20, 20⟩
abbrev fSEC_CMD_SLOT : Fld := ⟨oSEC_CMD, 3, 0⟩

/-- Offset of SEC_ARG_SRC_LO in its block (R432). -/
abbrev oSEC_ARG_SRC_LO : Nat := 0x0008
abbrev fSEC_ARG_SRC_LO_SRC_LO : Fld := ⟨oSEC_ARG_SRC_LO, 31, 0⟩

/-- Offset of SEC_ARG_SRC_HI in its block (R432). -/
abbrev oSEC_ARG_SRC_HI : Nat := 0x000c
abbrev fSEC_ARG_SRC_HI_SRC_HI : Fld := ⟨oSEC_ARG_SRC_HI, 13, 0⟩

/-- Offset of SEC_ARG_DST_LO in its block (R432). -/
abbrev oSEC_ARG_DST_LO : Nat := 0x0010
abbrev fSEC_ARG_DST_LO_DST_LO : Fld := ⟨oSEC_ARG_DST_LO, 31, 0⟩

/-- Offset of SEC_ARG_DST_HI in its block (R432). -/
abbrev oSEC_ARG_DST_HI : Nat := 0x0014
abbrev fSEC_ARG_DST_HI_DST_HI : Fld := ⟨oSEC_ARG_DST_HI, 13, 0⟩

/-- Offset of SEC_ARG_LEN in its block (R432). -/
abbrev oSEC_ARG_LEN : Nat := 0x0018
abbrev fSEC_ARG_LEN_LEN : Fld := ⟨oSEC_ARG_LEN, 31, 0⟩

/-- Offset of SEC_ARG_REC in its block (R432). -/
abbrev oSEC_ARG_REC : Nat := 0x001c
abbrev fSEC_ARG_REC_REC : Fld := ⟨oSEC_ARG_REC, 31, 0⟩

/-- Offset of SEC_RESULT in its block (R432). -/
abbrev oSEC_RESULT : Nat := 0x0020
abbrev fSEC_RESULT_CMD : Fld := ⟨oSEC_RESULT, 31, 28⟩
abbrev fSEC_RESULT_SEQ : Fld := ⟨oSEC_RESULT, 27, 24⟩
abbrev fSEC_RESULT_STATUS : Fld := ⟨oSEC_RESULT, 23, 16⟩
abbrev fSEC_RESULT_CHECK : Fld := ⟨oSEC_RESULT, 15, 8⟩

/-- Offset of SEC_DETAIL in its block (R432). -/
abbrev oSEC_DETAIL : Nat := 0x0024
abbrev fSEC_DETAIL_DETAIL : Fld := ⟨oSEC_DETAIL, 31, 0⟩

/-- Offset of SEC_SLOT_SEL in its block (R432). -/
abbrev oSEC_SLOT_SEL : Nat := 0x0028
abbrev fSEC_SLOT_SEL_SLOT : Fld := ⟨oSEC_SLOT_SEL, 3, 0⟩

/-- Offset of SEC_SLOT in its block (R432). -/
abbrev oSEC_SLOT : Nat := 0x002c
abbrev fSEC_SLOT_STATE : Fld := ⟨oSEC_SLOT, 31, 30⟩
abbrev fSEC_SLOT_PART : Fld := ⟨oSEC_SLOT, 29, 28⟩
abbrev fSEC_SLOT_NPROG : Fld := ⟨oSEC_SLOT, 27, 24⟩
abbrev fSEC_SLOT_NENT : Fld := ⟨oSEC_SLOT, 10, 0⟩

/-- Offset of SEC_SLOT_KID_LO in its block (R432). -/
abbrev oSEC_SLOT_KID_LO : Nat := 0x0030
abbrev fSEC_SLOT_KID_LO_KID : Fld := ⟨oSEC_SLOT_KID_LO, 31, 0⟩

/-- Offset of SEC_SLOT_KID_HI in its block (R432). -/
abbrev oSEC_SLOT_KID_HI : Nat := 0x0034
abbrev fSEC_SLOT_KID_HI_KID : Fld := ⟨oSEC_SLOT_KID_HI, 31, 0⟩

/-- Offset of SEC_SEAL in its block (R432). -/
abbrev oSEC_SEAL : Nat := 0x0038
abbrev fSEC_SEAL_DIES : Fld := ⟨oSEC_SEAL, 11, 8⟩
abbrev fSEC_SEAL_KEYED : Fld := ⟨oSEC_SEAL, 7, 4⟩
abbrev fSEC_SEAL_SEALED : Fld := ⟨oSEC_SEAL, 3, 0⟩

/-- Offset of SEC_CABKEY in its block (R432). -/
abbrev oSEC_CABKEY : Nat := 0x003c
abbrev fSEC_CABKEY_ENROLLED : Fld := ⟨oSEC_CABKEY, 3, 0⟩

/-- Offset of SEC_PEERS in its block (R432). -/
abbrev oSEC_PEERS : Nat := 0x0040
abbrev fSEC_PEERS_COUNT : Fld := ⟨oSEC_PEERS, 12, 0⟩

/-- Offset of SEC_ANTIRB in its block (R432). -/
abbrev oSEC_ANTIRB : Nat := 0x0044
abbrev fSEC_ANTIRB_FW_SECVER : Fld := ⟨oSEC_ANTIRB, 31, 0⟩

/-- Offset of SEC_NONCE0 in its block (R432). -/
abbrev oSEC_NONCE0 : Nat := 0x0050
abbrev fSEC_NONCE0_NONCE : Fld := ⟨oSEC_NONCE0, 31, 0⟩

/-- Offset of SEC_NONCE1 in its block (R432). -/
abbrev oSEC_NONCE1 : Nat := 0x0054
abbrev fSEC_NONCE1_NONCE : Fld := ⟨oSEC_NONCE1, 31, 0⟩

/-- Offset of SEC_NONCE2 in its block (R432). -/
abbrev oSEC_NONCE2 : Nat := 0x0058
abbrev fSEC_NONCE2_NONCE : Fld := ⟨oSEC_NONCE2, 31, 0⟩

/-- Offset of SEC_NONCE3 in its block (R432). -/
abbrev oSEC_NONCE3 : Nat := 0x005c
abbrev fSEC_NONCE3_NONCE : Fld := ⟨oSEC_NONCE3, 31, 0⟩

/-- Offset of SEC_NONCE4 in its block (R432). -/
abbrev oSEC_NONCE4 : Nat := 0x0060
abbrev fSEC_NONCE4_NONCE : Fld := ⟨oSEC_NONCE4, 31, 0⟩

/-- Offset of SEC_NONCE5 in its block (R432). -/
abbrev oSEC_NONCE5 : Nat := 0x0064
abbrev fSEC_NONCE5_NONCE : Fld := ⟨oSEC_NONCE5, 31, 0⟩

/-- Offset of SEC_NONCE6 in its block (R432). -/
abbrev oSEC_NONCE6 : Nat := 0x0068
abbrev fSEC_NONCE6_NONCE : Fld := ⟨oSEC_NONCE6, 31, 0⟩

/-- Offset of SEC_NONCE7 in its block (R432). -/
abbrev oSEC_NONCE7 : Nat := 0x006c
abbrev fSEC_NONCE7_NONCE : Fld := ⟨oSEC_NONCE7, 31, 0⟩

/-- Offset of SEC_EVENT in its block (R432). -/
abbrev oSEC_EVENT : Nat := 0x0070
abbrev fSEC_EVENT_UNLOCK : Fld := ⟨oSEC_EVENT, 3, 3⟩
abbrev fSEC_EVENT_KEYS_ERASED : Fld := ⟨oSEC_EVENT, 2, 2⟩
abbrev fSEC_EVENT_DECRYPT_FAIL : Fld := ⟨oSEC_EVENT, 1, 1⟩
abbrev fSEC_EVENT_UNWRAP_DENIED : Fld := ⟨oSEC_EVENT, 0, 0⟩

/-- Offset of SEC_EVENT_CNT0 in its block (R432). -/
abbrev oSEC_EVENT_CNT0 : Nat := 0x0074
abbrev fSEC_EVENT_CNT0_DECRYPT_FAIL_CNT : Fld := ⟨oSEC_EVENT_CNT0, 31, 16⟩
abbrev fSEC_EVENT_CNT0_UNWRAP_DENIED_CNT : Fld := ⟨oSEC_EVENT_CNT0, 15, 0⟩

/-- Offset of SEC_EVENT_CNT1 in its block (R432). -/
abbrev oSEC_EVENT_CNT1 : Nat := 0x0078
abbrev fSEC_EVENT_CNT1_UNLOCK_CNT : Fld := ⟨oSEC_EVENT_CNT1, 31, 16⟩
abbrev fSEC_EVENT_CNT1_KEYS_ERASED_CNT : Fld := ⟨oSEC_EVENT_CNT1, 15, 0⟩

abbrev eSEC_EVENT_UNLOCK : Evt := ⟨fSEC_EVENT_UNLOCK, fSEC_EVENT_CNT1_UNLOCK_CNT, some 3⟩
abbrev eSEC_EVENT_KEYS_ERASED : Evt := ⟨fSEC_EVENT_KEYS_ERASED, fSEC_EVENT_CNT1_KEYS_ERASED_CNT, some 3⟩
abbrev eSEC_EVENT_DECRYPT_FAIL : Evt := ⟨fSEC_EVENT_DECRYPT_FAIL, fSEC_EVENT_CNT0_DECRYPT_FAIL_CNT, some 3⟩
abbrev eSEC_EVENT_UNWRAP_DENIED : Evt := ⟨fSEC_EVENT_UNWRAP_DENIED, fSEC_EVENT_CNT0_UNWRAP_DENIED_CNT, some 3⟩

/-- Registers of block SEC, part 1. -/
def regsSec0 : List RegDesc := [
  ⟨0x0000, 0x00000000, [⟨31, 30, .ro⟩, ⟨29, 29, .ro⟩, ⟨28, 28, .ro⟩]⟩,
  ⟨0x0004, 0x00000000, [⟨31, 28, .rw⟩, ⟨27, 27, .rw⟩, ⟨20, 20, .ro⟩, ⟨3, 0, .rw⟩]⟩,
  ⟨0x0008, 0x00000000, [⟨31, 0, .rw⟩]⟩,
  ⟨0x000c, 0x00000000, [⟨13, 0, .rw⟩]⟩,
  ⟨0x0010, 0x00000000, [⟨31, 0, .rw⟩]⟩,
  ⟨0x0014, 0x00000000, [⟨13, 0, .rw⟩]⟩,
  ⟨0x0018, 0x00000000, [⟨31, 0, .rw⟩]⟩,
  ⟨0x001c, 0x00000000, [⟨31, 0, .rw⟩]⟩,
  ⟨0x0020, 0x00000000, [⟨31, 28, .ro⟩, ⟨27, 24, .ro⟩, ⟨23, 16, .ro⟩, ⟨15, 8, .ro⟩]⟩,
  ⟨0x0024, 0x00000000, [⟨31, 0, .ro⟩]⟩,
  ⟨0x0028, 0x00000000, [⟨3, 0, .rw⟩]⟩,
  ⟨0x002c, 0x00000000, [⟨31, 30, .ro⟩, ⟨29, 28, .ro⟩, ⟨27, 24, .ro⟩, ⟨10, 0, .ro⟩]⟩]

/-- Registers of block SEC, part 2. -/
def regsSec1 : List RegDesc := [
  ⟨0x0030, 0x00000000, [⟨31, 0, .ro⟩]⟩,
  ⟨0x0034, 0x00000000, [⟨31, 0, .ro⟩]⟩,
  ⟨0x0038, 0x00000000, [⟨11, 8, .ro⟩, ⟨7, 4, .ro⟩, ⟨3, 0, .ro⟩]⟩,
  ⟨0x003c, 0x00000000, [⟨3, 0, .ro⟩]⟩,
  ⟨0x0040, 0x00000000, [⟨12, 0, .ro⟩]⟩,
  ⟨0x0044, 0x00000000, [⟨31, 0, .ro⟩]⟩,
  ⟨0x0050, 0x00000000, [⟨31, 0, .ro⟩]⟩,
  ⟨0x0054, 0x00000000, [⟨31, 0, .ro⟩]⟩,
  ⟨0x0058, 0x00000000, [⟨31, 0, .ro⟩]⟩,
  ⟨0x005c, 0x00000000, [⟨31, 0, .ro⟩]⟩,
  ⟨0x0060, 0x00000000, [⟨31, 0, .ro⟩]⟩,
  ⟨0x0064, 0x00000000, [⟨31, 0, .ro⟩]⟩]

/-- Registers of block SEC, part 3. -/
def regsSec2 : List RegDesc := [
  ⟨0x0068, 0x00000000, [⟨31, 0, .ro⟩]⟩,
  ⟨0x006c, 0x00000000, [⟨31, 0, .ro⟩]⟩,
  ⟨0x0070, 0x00000000, [⟨3, 3, .w1c⟩, ⟨2, 2, .w1c⟩, ⟨1, 1, .w1c⟩, ⟨0, 0, .w1c⟩]⟩,
  ⟨0x0074, 0x00000000, [⟨31, 16, .rc⟩, ⟨15, 0, .rc⟩]⟩,
  ⟨0x0078, 0x00000000, [⟨31, 16, .rc⟩, ⟨15, 0, .rc⟩]⟩]

/-- Registers of block SEC. -/
def regsSec : List RegDesc := regsSec0 ++ regsSec1 ++ regsSec2

/-! Block HOST. -/

/-- Offset of HOST_LINK in its block (R453). -/
abbrev oHOST_LINK : Nat := 0x0000
abbrev fHOST_LINK_SPEED : Fld := ⟨oHOST_LINK, 31, 29⟩
abbrev fHOST_LINK_FLIT : Fld := ⟨oHOST_LINK, 28, 28⟩
abbrev fHOST_LINK_WIDTH : Fld := ⟨oHOST_LINK, 27, 23⟩

/-- Offset of HOST_MGMT in its block (R453). -/
abbrev oHOST_MGMT : Nat := 0x0004
abbrev fHOST_MGMT_A_UP : Fld := ⟨oHOST_MGMT, 31, 31⟩
abbrev fHOST_MGMT_B_UP : Fld := ⟨oHOST_MGMT, 30, 30⟩
abbrev fHOST_MGMT_I3C_ADDR_OK : Fld := ⟨oHOST_MGMT, 29, 29⟩
abbrev fHOST_MGMT_I3C_ADDR : Fld := ⟨oHOST_MGMT, 28, 22⟩
abbrev fHOST_MGMT_LOCATED : Fld := ⟨oHOST_MGMT, 8, 8⟩
abbrev fHOST_MGMT_MCTP_EID : Fld := ⟨oHOST_MGMT, 7, 0⟩

/-- Offset of HOST_IPV4_A in its block (R453). -/
abbrev oHOST_IPV4_A : Nat := 0x0008
abbrev fHOST_IPV4_A_ADDR : Fld := ⟨oHOST_IPV4_A, 31, 0⟩

/-- Offset of HOST_IPV4_B in its block (R453). -/
abbrev oHOST_IPV4_B : Nat := 0x000c
abbrev fHOST_IPV4_B_ADDR : Fld := ⟨oHOST_IPV4_B, 31, 0⟩

/-- Offset of HOST_BOOT_ID_LO in its block (R453). -/
abbrev oHOST_BOOT_ID_LO : Nat := 0x0010
abbrev fHOST_BOOT_ID_LO_BOOT_ID : Fld := ⟨oHOST_BOOT_ID_LO, 31, 0⟩

/-- Offset of HOST_BOOT_ID_HI in its block (R453). -/
abbrev oHOST_BOOT_ID_HI : Nat := 0x0014
abbrev fHOST_BOOT_ID_HI_BOOT_ID : Fld := ⟨oHOST_BOOT_ID_HI, 31, 0⟩

/-- Offset of HOST_DENIED_PF0 in its block (R453). -/
abbrev oHOST_DENIED_PF0 : Nat := 0x0020
abbrev fHOST_DENIED_PF0_MSIX_DROP_CNT : Fld := ⟨oHOST_DENIED_PF0, 31, 16⟩
abbrev fHOST_DENIED_PF0_CNT : Fld := ⟨oHOST_DENIED_PF0, 15, 0⟩

/-- Offset of HOST_DENIED_PF1 in its block (R453). -/
abbrev oHOST_DENIED_PF1 : Nat := 0x0024
abbrev fHOST_DENIED_PF1_MSIX_DROP_CNT : Fld := ⟨oHOST_DENIED_PF1, 31, 16⟩
abbrev fHOST_DENIED_PF1_CNT : Fld := ⟨oHOST_DENIED_PF1, 15, 0⟩

/-- Offset of HOST_DENIED_PF2 in its block (R453). -/
abbrev oHOST_DENIED_PF2 : Nat := 0x0028
abbrev fHOST_DENIED_PF2_MSIX_DROP_CNT : Fld := ⟨oHOST_DENIED_PF2, 31, 16⟩
abbrev fHOST_DENIED_PF2_CNT : Fld := ⟨oHOST_DENIED_PF2, 15, 0⟩

/-- Offset of HOST_DENIED_PF3 in its block (R453). -/
abbrev oHOST_DENIED_PF3 : Nat := 0x002c
abbrev fHOST_DENIED_PF3_MSIX_DROP_CNT : Fld := ⟨oHOST_DENIED_PF3, 31, 16⟩
abbrev fHOST_DENIED_PF3_CNT : Fld := ⟨oHOST_DENIED_PF3, 15, 0⟩

/-- Offset of HOST_DENIED_PF4 in its block (R453). -/
abbrev oHOST_DENIED_PF4 : Nat := 0x0030
abbrev fHOST_DENIED_PF4_MSIX_DROP_CNT : Fld := ⟨oHOST_DENIED_PF4, 31, 16⟩
abbrev fHOST_DENIED_PF4_CNT : Fld := ⟨oHOST_DENIED_PF4, 15, 0⟩

/-- Offset of HOST_MCNT0 in its block (R453). -/
abbrev oHOST_MCNT0 : Nat := 0x0040
abbrev fHOST_MCNT0_AUTH_FAIL_CNT : Fld := ⟨oHOST_MCNT0, 31, 16⟩
abbrev fHOST_MCNT0_REPLAY_CNT : Fld := ⟨oHOST_MCNT0, 15, 0⟩

/-- Offset of HOST_MCNT1 in its block (R453). -/
abbrev oHOST_MCNT1 : Nat := 0x0044
abbrev fHOST_MCNT1_STALE_BOOT_CNT : Fld := ⟨oHOST_MCNT1, 15, 0⟩


/-- Registers of block HOST, part 1. -/
def regsHost0 : List RegDesc := [
  ⟨0x0000, 0x00000000, [⟨31, 29, .ro⟩, ⟨28, 28, .ro⟩, ⟨27, 23, .ro⟩]⟩,
  ⟨0x0004, 0x00000000, [⟨31, 31, .ro⟩, ⟨30, 30, .ro⟩, ⟨29, 29, .ro⟩, ⟨28, 22, .ro⟩, ⟨8, 8, .ro⟩, ⟨7, 0, .ro⟩]⟩,
  ⟨0x0008, 0x00000000, [⟨31, 0, .ro⟩]⟩,
  ⟨0x000c, 0x00000000, [⟨31, 0, .ro⟩]⟩,
  ⟨0x0010, 0x00000000, [⟨31, 0, .ro⟩]⟩,
  ⟨0x0014, 0x00000000, [⟨31, 0, .ro⟩]⟩,
  ⟨0x0020, 0x00000000, [⟨31, 16, .rc⟩, ⟨15, 0, .rc⟩]⟩,
  ⟨0x0024, 0x00000000, [⟨31, 16, .rc⟩, ⟨15, 0, .rc⟩]⟩,
  ⟨0x0028, 0x00000000, [⟨31, 16, .rc⟩, ⟨15, 0, .rc⟩]⟩,
  ⟨0x002c, 0x00000000, [⟨31, 16, .rc⟩, ⟨15, 0, .rc⟩]⟩,
  ⟨0x0030, 0x00000000, [⟨31, 16, .rc⟩, ⟨15, 0, .rc⟩]⟩,
  ⟨0x0040, 0x00000000, [⟨31, 16, .rc⟩, ⟨15, 0, .rc⟩]⟩]

/-- Registers of block HOST, part 2. -/
def regsHost1 : List RegDesc := [
  ⟨0x0044, 0x00000000, [⟨15, 0, .rc⟩]⟩]

/-- Registers of block HOST. -/
def regsHost : List RegDesc := regsHost0 ++ regsHost1

/-! Block CLU. -/

/-- Offset of CLU_STORE_ECC in its block (R144). -/
abbrev oCLU_STORE_ECC : Nat := 0x0000
abbrev fCLU_STORE_ECC_PARTIAL_DROP : Fld := ⟨oCLU_STORE_ECC, 2, 2⟩
abbrev fCLU_STORE_ECC_UE : Fld := ⟨oCLU_STORE_ECC, 1, 1⟩
abbrev fCLU_STORE_ECC_CE : Fld := ⟨oCLU_STORE_ECC, 0, 0⟩

/-- Offset of CLU_STORE_ECC_CNT0 in its block (R144). -/
abbrev oCLU_STORE_ECC_CNT0 : Nat := 0x0004
abbrev fCLU_STORE_ECC_CNT0_UE_CNT : Fld := ⟨oCLU_STORE_ECC_CNT0, 31, 16⟩
abbrev fCLU_STORE_ECC_CNT0_CE_CNT : Fld := ⟨oCLU_STORE_ECC_CNT0, 15, 0⟩

/-- Offset of CLU_STORE_ECC_CNT1 in its block (R144). -/
abbrev oCLU_STORE_ECC_CNT1 : Nat := 0x0008
abbrev fCLU_STORE_ECC_CNT1_PARTIAL_DROP_CNT : Fld := ⟨oCLU_STORE_ECC_CNT1, 15, 0⟩

/-- Offset of CLU_STORE_UE_ADDR in its block (R144). -/
abbrev oCLU_STORE_UE_ADDR : Nat := 0x000c
abbrev fCLU_STORE_UE_ADDR_OFFSET : Fld := ⟨oCLU_STORE_UE_ADDR, 31, 0⟩

/-- Offset of CLU_STORE_WAIT in its block (R144). -/
abbrev oCLU_STORE_WAIT : Nat := 0x0010
abbrev fCLU_STORE_WAIT_CYCLES : Fld := ⟨oCLU_STORE_WAIT, 31, 0⟩

abbrev eCLU_STORE_ECC_PARTIAL_DROP : Evt := ⟨fCLU_STORE_ECC_PARTIAL_DROP, fCLU_STORE_ECC_CNT1_PARTIAL_DROP_CNT, none⟩
abbrev eCLU_STORE_ECC_UE : Evt := ⟨fCLU_STORE_ECC_UE, fCLU_STORE_ECC_CNT0_UE_CNT, none⟩
abbrev eCLU_STORE_ECC_CE : Evt := ⟨fCLU_STORE_ECC_CE, fCLU_STORE_ECC_CNT0_CE_CNT, none⟩

/-- Registers of block CLU, part 1. -/
def regsClu0 : List RegDesc := [
  ⟨0x0000, 0x00000000, [⟨2, 2, .w1c⟩, ⟨1, 1, .w1c⟩, ⟨0, 0, .w1c⟩]⟩,
  ⟨0x0004, 0x00000000, [⟨31, 16, .rc⟩, ⟨15, 0, .rc⟩]⟩,
  ⟨0x0008, 0x00000000, [⟨15, 0, .rc⟩]⟩,
  ⟨0x000c, 0x00000000, [⟨31, 0, .ro⟩]⟩,
  ⟨0x0010, 0x00000000, [⟨31, 0, .ro⟩]⟩]

/-- Registers of block CLU. -/
def regsClu : List RegDesc := regsClu0

/-- The registers of each block. -/
def regsOf : Blk → List RegDesc
  | .hub => regsHub
  | .bur => regsBur
  | .drp => regsDrp
  | .cab => regsCab
  | .pwr => regsPwr
  | .perf => regsPerf
  | .sec => regsSec
  | .fwu => regsFwu
  | .qm => regsQm
  | .gzl => regsGzl
  | .col => regsCol
  | .core => regsCore
  | .clu => regsClu
  | .die => []
  | .fab => regsFab
  | .mem => regsMem
  | .host => regsHost

end Sys2Proof.Machine
end

