-- ==== Sys2Proof/Machine/State.lean ====
section
/-! DEFINITION. The state of the package as plain data: everything the manual gives the machine, the queue of waiting
commands, what the package has sent, and the state right after a whole-package reset at power-up. -/

namespace Sys2Proof.Machine

/-- Why the block stops with a fault. No command of the table ends in a fault: the type has no case in use. -/
inductive Fault where
  /-- Raised by no meaning of this model. Safe: nothing reaches it. -/
  | none
  deriving DecidableEq, Repr

/-- Why the block refuses a command. -/
inductive Refusal where
  /-- Raised by an arm of exec that has no meaning yet. Safe: the block stops. -/
  | notModelled (mnemonic : String)
  deriving DecidableEq, Repr

/-- The local copies of W, epoch and P on a die (R177). -/
structure Replica where
  w     : BitVec 48
  epoch : BitVec 16
  p     : BitVec 48
  deriving DecidableEq, Repr

/-- The timebase root (R186, R187): W, epoch and P, the phase of P in root cycles, the count of P by
counting alone (R282), the root cycles left of the ECLK cycle under way and its divider (R178), the phase of MCLK, the count
of ECLK edges,
the count of NCLK edges since power-up, the lock of the root PLL and the replicas of the dies. -/
structure Clk where
  w        : BitVec 48
  epoch    : BitVec 16
  p        : BitVec 48
  pFrac    : Nat
  pCount   : Nat
  eLeft    : Nat
  eDiv     : Nat
  mFrac    : Nat
  ecnt     : Nat
  now      : Nat
  locked   : Bool
  replicas : List Replica
  deriving DecidableEq, Repr

/-- A hand-off of R31: the credits that the producer holds, the entries in the queue, and whether the consumer is in
reset (R36). -/
structure Handoff where
  credits : Nat
  entries : List (List Byte)
  inReset : Bool
  deriving DecidableEq, Repr

/-- An engine instruction in the instruction queue of an engine (R96): its slot word, the operand descriptor that was
checked at its issue (R103), the engine settings that it read at its issue (R82), its instruction number, the bundle and
the pace time of its issue, and, once its operation has run, the status with which it ends. -/
structure EngInstr where
  slot  : BitVec 64
  odt   : List Byte
  cfg   : Word
  seqno : BitVec 24
  pc    : Nat
  pIssue : BitVec 48
  done  : Option (BitVec 8)
  deriving DecidableEq, Repr

/-- The program that runs on a core: program slot, instance, launch pace time, SRAM offsets of its images, number of
bundles and of ODT entries, whether it is to stop at the next bundle boundary (R103, R120), and whether it has met its END
(R97). -/
structure RunProg where
  slot    : Nat
  inst    : Nat
  t0      : BitVec 48
  bundOff : Nat
  odtOff  : Nat
  nBund   : Nat
  nOdt    : Nat
  stop    : Bool
  mismatch : Bool
  fin     : Bool
  deriving DecidableEq, Repr

/-- A SIGNAL that waits until every earlier instruction of its core has completed (R97): the sync object, the value, and
how many earlier instructions each engine still has. -/
structure Signal where
  addr  : Nat
  value : Word
  ahead : List Nat
  deriving DecidableEq, Repr

/-- An entry of a core's launch table (R119). -/
structure LaunchEntry where
  t      : BitVec 48
  inst   : Nat
  slot   : Nat
  entry  : Nat
  policy : Nat
  fired  : Bool
  deriving DecidableEq, Repr

/-- One logical core (R23): the running program, loop counters and local event counters (R95, R97), the four instruction
queues MX0, MX1, VX, SX (R96), vector registers (256 B each, byte 256 v + i), accumulator vectors (64 lanes, 64 a + lane),
accumulator banks of MX0 and MX1 (8192 e + 4096 bank + 64 row + column) with the bank in use, launch table, number of the
next instruction (R364), halt of CAPTURE (R369), sampling LFSR and gap (R400), retired generations (R366), the last use of an
engine (R329), in reset, and tagged instructions whose record has not come (R401). -/
structure Core where
  run     : Option RunProg
  lec     : List (BitVec 16)
  lc      : List (BitVec 20)
  q       : List (List EngInstr)
  vreg    : Tbl Byte
  ac      : Tbl (BitVec 48)
  mxAcc   : Tbl (BitVec 48)
  mxBank  : List Bool
  launch  : Tbl (Option LaunchEntry)
  signals : List Signal
  seqno   : BitVec 16
  halted  : Bool
  lfsr    : BitVec 24
  gap     : Nat
  retired : List (Nat × Nat)
  lastUse : Nat
  inReset : Bool
  tags    : Nat
  deriving DecidableEq, Repr

/-- A core of a loaded program (R89). -/
structure ProgCore where
  core    : Nat
  bundOff : Nat
  odtOff  : Nat
  nBund   : Nat
  nOdt    : Nat
  entries : List (BitVec 16)
  deriving DecidableEq, Repr

/-- A loaded program: its partition, its cores, its 128 sync slots (R89) and the digest of its object (R423). -/
structure Program where
  part  : Nat
  cores : List ProgCore
  sync  : List (BitVec 64)
  digest : List Byte
  deriving DecidableEq, Repr

/-- A program slot (R92). -/
structure ProgSlot where
  gen  : Nat
  prog : Option Program
  deriving DecidableEq, Repr

/-- A LOAD whose tile graph the hub firmware translates (R86, R87), with the cores that its nodes name. -/
structure Loading where
  qid  : Nat
  idx  : Nat
  part : Nat
  slot : Nat
  sync : List (BitVec 64)
  digest : List Byte
  cores : List Nat
  deriving DecidableEq, Repr

/-- A program instance started by LAUNCH or ARM (R112, R119): the cores on which it has not started, those on which it
runs, its status and DETAIL, and whether a core stopped under R103. -/
structure Inst where
  id      : Nat
  slot    : Nat
  qid     : Nat
  idx     : Nat
  part    : Nat
  entry   : Nat
  args    : List Byte
  t       : Option (BitVec 48)
  tslot   : Nat
  policy  : Nat
  waiting : List Nat
  running : List Nat
  status  : BitVec 8
  detail  : Word
  stopCore : Option Nat
  deriving DecidableEq, Repr

/-- The state of a queue (R105). -/
inductive QState where
  | disabled
  | active
  | stalled
  | draining
  deriving DecidableEq, Repr

/-- How far a fetched command has come (R111). -/
inductive CmdPhase where
  | dispatched
  | started
  | ended (status : BitVec 8) (detail : Word)
  deriving DecidableEq, Repr

/-- A fetched command: its ring index, its 64 bytes as fetched, how far it has come. -/
structure QCmd where
  idx   : BitVec 32
  gen   : BitVec 8
  bytes : List Byte
  phase : CmdPhase
  deriving DecidableEq, Repr

/-- A queue as the queue manager holds it (R105): the descriptor in force, the pass of its ring that its activation began, and
the fetched commands not yet completed. -/
structure Queue where
  st     : QState
  kind   : BitVec 4
  part   : Nat
  log2   : Nat
  irqEn  : Bool
  vec    : BitVec 16
  gen    : BitVec 8
  ring   : BitVec 64
  pi     : BitVec 32
  ci     : BitVec 32
  cplQid : Nat
  target : BitVec 8
  pass   : Nat
  ciAddr : BitVec 64
  cmds   : List QCmd
  deriving DecidableEq, Repr

/-- A doorbell held while CTRL is PAUSED (R28). -/
structure HeldBell where
  req    : Requester
  window : Fin 4
  word   : Word
  deriving DecidableEq, Repr

/-- A structure of the Cabinet: generation, which sections are EXPERT (R148), LEGACY mark (R172), and the ten section
bodies in the order of R150, as little-endian words. -/
structure CabStruct where
  gen    : Word
  expert : BitVec 10
  legacy : Bool
  sect   : List (List Word)
  deriving DecidableEq, Repr

/-- An armed Cabinet edge (R163): COMMIT or REVERT, with its pace time. -/
structure CabEdge where
  revert : Bool
  t      : BitVec 48
  timed  : Bool
  deriving DecidableEq, Repr

/-- The Cabinet block: current, previous and shadow structure, the generation of an earlier STAGE of the transaction,
the armed edge, and the command that waits while MGMT is PAUSED (R163). -/
structure Cab where
  cur    : CabStruct
  prev   : Option CabStruct
  shadow : Option CabStruct
  staged : Option Word
  edge   : Option CabEdge
  wait   : Option (BitVec 4 × Bool)
  deriving DecidableEq, Repr

/-- A record of the Bureau log (R384); the CRC of a record is computed when it is read. -/
structure LogRec where
  cls    : BitVec 2
  react  : BitVec 3
  code   : BitVec 8
  source : BitVec 16
  parts  : BitVec 4
  repeats : BitVec 16
  info0  : Word
  info1  : Word
  w      : BitVec 48
  epoch  : BitVec 16
  seq    : Word
  deriving DecidableEq, Repr

/-- The fault collectors and the Bureau: the log ring keyed by SEQ mod 1,024 (R386), the last record of each source
(R385), per source the count of NCLK samples with an invalid pair (R382), the NCLK count at which ERR_N may be released
and a CLEAR written before it (R393), the records that wait at the collector of a die for a credit (R35), and how many records
the log took in one NCLK cycle with that cycle (its count plus 1). -/
structure Bureau where
  log     : Tbl (Option LogRec)
  last    : Tbl (Option LogRec)
  invalid : Tbl Nat
  errMin  : Option Nat
  errClr  : Bool
  held    : List (Nat × List Byte)
  cyc     : Nat × Nat
  deriving DecidableEq, Repr

/-- A counter of R394: live count, snapshot, event in force. -/
structure Counter where
  live : BitVec 48
  snap : BitVec 48
  deriving DecidableEq, Repr

/-- The snapshot reader and the sample rings (R398, R399, R406): per partition base, enable, size, number of
records written and drops. -/
structure SRing where
  lo   : Word
  hi   : Word
  head : Nat
  drop : BitVec 16
  deriving DecidableEq, Repr

/-- The central counter reader. -/
structure Perf where
  counters : Tbl Counter
  snapT    : Option (BitVec 48)
  skipped  : Nat
  srings   : List SRing
  deriving DecidableEq, Repr

/-- A frame of the Dripline with its further fields (R211). -/
inductive DripFrame where
  | syncReq (h : FrameHdr) (exch : BitVec 16)
  | syncResp (h : FrameHdr) (exch : BitVec 16) (t1 t2 t3 : BitVec 56) (epoch : BitVec 16)
  | beacon (h : FrameHdr) (rec : DomRecord)
  | rungReq (h : FrameHdr) (ceil : BitVec 3)
  | rungPropose (h : FrameHdr) (seq : BitVec 16) (k : BitVec 3) (t : BitVec 48)
  | rungAck (h : FrameHdr) (seq : BitVec 16)
  | rungNak (h : FrameHdr) (seq : BitVec 16) (status : BitVec 8)
  | rungAbort (h : FrameHdr) (seq : BitVec 16)
  | recordReq (h : FrameHdr)
  | record (h : FrameHdr) (rec : DomRecord)
  deriving DecidableEq, Repr

/-- A change of the domain rung that the keeper runs (R202): what was proposed, when, which members have answered. -/
structure KeeperChange where
  seq  : BitVec 16
  k    : BitVec 3
  t    : BitVec 48
  t0   : Nat
  acks : List (BitVec 19)
  naks : List (BitVec 19)
  deriving DecidableEq, Repr

/-- A proposal armed on this package (R203); acked is false while the regulator has not accepted the setpoint. -/
structure ArmedProp where
  seq    : BitVec 16
  k      : BitVec 3
  t      : BitVec 48
  keeper : BitVec 19
  acked  : Bool
  raised : Bool
  deriving DecidableEq, Repr

/-- The Dripline: latest offset per plane in 1/256 tick and the time it was taken (R192), number of consecutive in-band
estimates, time of the last estimate and of the entry into HOLDOVER (R195), exchanges outstanding and the time of the last
one on each plane, armed proposal, change
run by the keeper, ceilings by member (R201), last sequence number used, pair W_REF and P_REF (R200), times of the last
BEACON and RUNG_REQ, the time master named (R191), times of the last lowering and of the last abort, the end of the
TS_PULSE that is high (R210), the wait of the floor state for its voltage (R326), and the root cycles until the edge on
which ECLK leaves the floor rung (R206). -/
structure Drp where
  offsets   : Tbl (Option (Int × Nat))
  inBand    : Nat
  lastEst   : Option Nat
  holdStart : Nat
  exch      : Tbl (Option (BitVec 16 × BitVec 56))
  exchT     : Tbl (Option Nat)
  exchNo    : BitVec 16
  prop      : Option ArmedProp
  change    : Option KeeperChange
  ceilings  : Tbl (Option (BitVec 3))
  seqLast   : BitVec 16
  wRef      : BitVec 48
  pRef      : BitVec 48
  lastBeacon : Nat
  lastReq   : Option Nat
  master    : BitVec 19
  lastLower : Option Nat
  lastAbort : Option (BitVec 3 × Nat)
  pulseEnd  : Option Nat
  floorWait : Bool
  floorEnd  : Option Nat
  owed      : Bool
  deriving DecidableEq, Repr

/-- What a control cell carries (R227). -/
inductive CtlItem where
  | flow (map : BitVec 8)
  | train (eid : BitVec 19) (port : BitVec 5) (vls : BitVec 8)
  | drip (f : DripFrame)
  | ack (dest : BitVec 19) (tags : List (InstrTag × Nat))
  | nak (dest : BitVec 19) (tag : InstrTag) (status : BitVec 8) (detail : Word)
  | drainEcho (dest : BitVec 19) (n : BitVec 32)
  | session (dest : BitVec 19) (kind : BitVec 2) (bytes : List Byte)
  deriving DecidableEq, Repr

/-- A cell in an egress queue: a payload cell of a packet, or a DRAIN_PROBE in its place (R228). -/
inductive EgCell where
  | payload (first last : Bool) (pkt : Packet)
  | probe (dest : BitVec 19) (n : BitVec 32)
  deriving DecidableEq, Repr

/-- A training run of R221: attempts made, best result so far, and whether it follows a link fault (R222). -/
structure TrainRun where
  attempts : Nat
  best     : Option (TrainResult × Nat × BitVec 8)
  isFault  : Bool
  deriving DecidableEq, Repr

/-- A fabric port (R215 to R233): the training run, the time of the last link fault, the XOFF maps received and sent, the
egress queues by VL and the cells that wait for their credits (R31, R232), waiting control items, cell sequence numbers of
both directions, VLs with an open partial packet and the cells stored of it, the place in the weighted round robin and in
the rounds of broad slots by VL with BROAD_W of the round (R287, R291), cell slots since the last alignment cell, ingress cells by VL in reserve, in shared
space and in the headroom, the times of the last uncorrectable codewords (R220), and the probes held with VL and cells
ahead (R245). -/
structure Port where
  run       : Option TrainRun
  lastFault : Option Nat
  xoffRx    : BitVec 8
  xoffTx    : BitVec 8
  egress    : List (List EgCell)
  backlog   : List (List EgCell)
  items     : List CtlItem
  txSeq     : BitVec 16
  rxSeq     : Option (BitVec 16)
  openVl    : BitVec 8
  inOpen    : List Nat
  rrVl      : Nat
  rrSent    : Nat
  broad     : List (Nat × Nat)
  broadW    : List Nat
  slots     : Nat
  inRes     : List Nat
  inShared  : List Nat
  headroom  : Nat
  inHead    : List Nat
  badCw     : List Nat
  probes    : List (Nat × Nat × BitVec 19 × BitVec 32)
  deriving DecidableEq, Repr

/-- The kind of a remote instruction (R242). -/
inductive RemoteKind where
  | put
  | get (dst : Nat) (left : Nat)
  | notify
  | copyPut (qid : Nat) (idx : BitVec 32) (len : Nat)
  | copyGet (qid : Nat) (idx : BitVec 32) (dst : Nat) (len : Nat) (left : Nat)
  | copyRelay (qid : Nat) (idx : BitVec 32) (dst : Nat) (data : Tbl Byte) (len : Nat) (left : Nat) (deid : BitVec 19)
      (snap : BitVec 64)
  | chamber (id : Nat) (cgen : BitVec 16) (step : Nat) (peer : Nat)
  deriving DecidableEq, Repr

/-- An outstanding remote instruction (R242, R243): its tag, the destination with the snapshot of its entry (R239), the
packets neither acknowledged nor refused, the first NAK, the NOTIFY object, and the time at which its last packet left. -/
structure RemoteInstr where
  tag     : InstrTag
  kind    : RemoteKind
  eid     : BitVec 19
  snap    : BitVec 64
  left    : Nat
  nak     : Option (BitVec 8 × Word)
  notify  : BitVec 46
  tLast   : Nat
  deriving DecidableEq, Repr

/-- A drain that runs (R245): the entry, the time of the request, the probes not yet echoed with their ports, and whether
they have been queued. -/
structure Drain where
  eid    : BitVec 19
  t0     : Nat
  probes : List (BitVec 32 × Nat)
  sent   : Bool
  deriving DecidableEq, Repr

/-- A link session (R247, R249): keys and salts of both directions, key index and invocation counter of the sending
direction and the last counter received, time of the key, end of the acceptance of the old key and that key, and what the peer's measurements showed:
IDENT, SEALED die mask, manifest digest, debug unlock (R429). -/
structure Session where
  keyTx  : List Byte
  keyRx  : List Byte
  idxTx  : Bool
  idxRx  : Bool
  ivCtr  : BitVec 64
  ivRx   : BitVec 64
  tKey   : Nat
  oldEnd : Option Nat
  oldRx  : List Byte
  ident  : List Byte
  sealMask : BitVec 4
  man      : List Byte
  unlocked : Bool
  deriving DecidableEq, Repr

/-- A handshake of R248: the peer, whether this package started it, the message sent last and when, the attempts, the
peer's messages as far as they have arrived, and whether the peer was refused. -/
structure Handshake where
  eid       : BitVec 19
  initiator : Bool
  nonce     : List Byte
  eph       : List Byte
  peer      : Option SessMsg
  sent      : Nat
  attempts  : Nat
  rejected  : Bool
  deriving DecidableEq, Repr

/-- What waits for the end of a pause of MGMT: a handshake message, or a write of an endpoint entry (R252). -/
inductive FabWait where
  | init (m : SessMsg)
  | resp (m : SessMsg)
  | done (src : BitVec 19) (hmac : List Byte)
  | entry (eid : BitVec 19) (w : BitVec 64)
  deriving DecidableEq, Repr

/-- The fabric: ports, which optical engines have too little laser light (R217), the endpoint table (R237), the value that an
entry in DRAIN had before (R245), entries with a completed drain (R238), drains, the last probe number, remote instructions, sessions, handshakes, and what waits for MGMT. -/
structure Fab where
  ports    : List Port
  lasers   : List Bool
  table    : Tbl (BitVec 64)
  was      : Tbl (BitVec 64)
  drained  : List (BitVec 19)
  drains   : List Drain
  probeNo  : BitVec 32
  remote   : List RemoteInstr
  sessions : Tbl (Option Session)
  shakes   : List Handshake
  wait     : List FabWait
  deriving DecidableEq, Repr

/-- The host interface (R433 to R441): PERST_N low, PCIE_REFCLK present, MSI-X Enable of each function, masked vectors and
pending bits (key 2,048 f + v), causes whose MSI-X write has not left. -/
structure HostIf where
  perst  : Bool
  refclk : Bool
  msixEn : List Bool
  masked : Tbl Bool
  pend   : Tbl Bool
  causes : List (Nat × Nat)
  deriving DecidableEq, Repr

/-- A slice row of R311: SLICE_ID, SIZE, state (0 FREE, 1 ACTIVE, 2 STOPPED) and the EID of each index. -/
structure SliceRow where
  sliceId : BitVec 16
  size    : BitVec 11
  st      : BitVec 2
  eids    : Tbl (Option (BitVec 19))
  deriving DecidableEq, Repr

/-- What a Gorzel message carries (R303). -/
inductive GzlBody where
  | register (eid : BitVec 19) (fw : Word) (role : BitVec 2)
  | renew (epoch : Word)
  | claim (epoch : Word) (holder : BitVec 19)
  | write (w : GzlWrite)
  | report (rep : GzlReport)
  | stateCopy (jseq : Word) (recs : List Word)
  | takeback (jseq : Word)
  | yield (jseq : Word) (denied : Bool)
  | jobFault (sliceId : BitVec 16) (cause : BitVec 8) (eid : BitVec 19) (port : BitVec 8)
  | pauseNotice (ms : Word)
  deriving DecidableEq, Repr

/-- A Gorzel message that waits for its reply (R303): sequence number, destination (none: the arbiter, the standby
or the rack manager), contents, attempts, whether the last went out on port B, and when. -/
structure GzlMsg where
  seq   : Word
  dest  : Option (BitVec 19)
  body  : GzlBody
  tries : Nat
  portB : Bool
  t     : Nat
  deriving DecidableEq, Repr

/-- What the active instance knows of a package: its last REPORT and when it came, lost, the end of the 3 s after a
PAUSE_NOTICE, its maintenance window, the last WRITE sequence number sent to it. -/
structure GzlPeer where
  rep   : Option GzlReport
  last  : Nat
  lost  : Bool
  pause : Option Nat
  maint : Bool
  wseq  : Word
  deriving DecidableEq, Repr

/-- A slice of the domain as the active instance holds it: its members in the order of PKG_INDEX, stopped, and the members on
which it stands in a row other than row 0. -/
structure GzlSlice where
  id      : BitVec 16
  members : List (BitVec 19)
  stopped : Bool
  rows    : List (BitVec 19 × Nat)
  deriving DecidableEq, Repr

/-- A WRITE whose DRAIN_REQ has not ended (R301, R305): the entry that drains, the drain's result, the index of the
DRAIN_REQ in the message, and the operations after it. -/
structure GzlCont where
  eid : BitVec 19
  res : Option (BitVec 8)
  idx : Nat
  ops : List GzlOp
  deriving DecidableEq, Repr

/-- A Gorzel message that has arrived at a management port of the package (R302, R303). -/
inductive GzlIn where
  | claim (epoch : Word) (holder : BitVec 19)
  | write (w : GzlWrite)
  | register (role : BitVec 2) (holder : BitVec 19) (pref : Bool)
  | grant (epoch : Word)
  | stateCopy (jseq : Word) (version : Word) (recs : List Word) (versionOk : Bool)
  | yieldReq
  | yield (newHolder : BitVec 19)
  | report (rep : GzlReport)
  | carve (size : Word) (rackPref : BitVec 13)
  | release (sliceId : BitVec 16)
  | maint (isOpen : Bool) (eids : List (BitVec 19))
  | pauseNotice (src : BitVec 19) (ms : Word)
  | safeNotice (src : BitVec 19)
  | notLeader (seq : Word) (holder : BitVec 19)
  | reply (seq : Word) (r : GzlReplyIn)
  deriving DecidableEq, Repr

/-- A CARVE (code 11) or RELEASE (code 12) of the active instance whose WRITEs wait for their replies (R312, R313): the
slice, their sequence numbers, and the first status that was not OK. -/
structure GzlJob where
  code  : Nat
  id    : BitVec 16
  waits : List Word
  st    : BitVec 8
  deriving DecidableEq, Repr

/-- Gorzel (R293 to R320): the slice rows of the package; of its instance the own deadline and the send time of the last
RENEW, the journal (sequence, records, complete), the times of becoming STANDBY, of the last TAKEBACK and of YIELD_REQ, the
holder named in the answer to YIELD, the messages that wait for a reply, the last sequence number, the known packages and
slices, the time masters by rack, the time of the last ENTRY_SET, NOT_LEADER replies in a row, failed drains by
destination with the time of the last failure (key 2^19 (x + 1) + y on another package x), a WRITE that waits for its drain,
the route values that this instance wrote on other packages (key 2^19 x + y: on package x for destination y), the messages
that wait in the ports (R302), the CARVEs and RELEASEs in progress, and the drains of R309 (0 none, 1 running, 2 reported
ready). -/
structure Gzl where
  rows      : List SliceRow
  deadline  : Option Nat
  renewT    : Option Nat
  jseq      : Word
  journal   : List Word
  current   : Bool
  standbyT  : Option Nat
  takeT     : Option Nat
  yieldT    : Option Nat
  yieldTo   : BitVec 19
  msgs      : List GzlMsg
  seqNo     : Word
  peers     : Tbl (Option GzlPeer)
  slices    : List GzlSlice
  masters   : Tbl (Option (BitVec 19))
  entryT    : Option Nat
  notLeader : Nat
  drains    : Tbl (Nat × Nat)
  cont      : Option GzlCont
  routes    : Tbl (BitVec 64)
  wait      : List GzlIn
  jobs      : List GzlJob
  sump      : Nat
  deriving DecidableEq, Repr

/-- A key slot (R423, R424): content key, KEY_ID, the IDENTs of the binding set, accepted manifest digests, permitted
program digests; none while the slot is empty. -/
structure KeySlot where
  key    : List Byte
  kid    : List Byte
  idents : List (List Byte)
  mans   : List (List Byte)
  progs  : List (List Byte)
  deriving DecidableEq, Repr

/-- The peer list (R429): identities, manifest digests and the two flags. -/
structure PeerList where
  idents   : List (List Byte)
  mans     : List (List Byte)
  rejectUnlocked : Bool
  requireSealed  : Bool
  deriving DecidableEq, Repr

/-- The security block (R407 to R432): key slots, peer list, current nonce, debug unlock, the command LC_RETIRE (9) or
UNLOCK (10) whose scrubs have not ended with its requester, and commands that wait. -/
structure Sec where
  slots    : Tbl (Option KeySlot)
  peers    : PeerList
  peersSet : Bool
  nonce    : Option (List Byte)
  unlocked : Bool
  run      : Option (Requester × Nat)
  wait     : List (Requester × Word)
  deriving DecidableEq, Repr

/-- What the flash keeps beside its bytes: the monotonic counters of the replay-protected area (R408; lc is 0 MANUFACTURE,
1 OPEN, 2 SEALED, 3 RETIRED; scrubs is the mask of pending partitions), the enrolled cabinet keys (R413), phase 0 of
PROVISION done, the certificate chain if it was written since shipment (R412), the bank marks (R381: active, staged,
marked), which banks still hold the image that was shipped, the dies of each partition whose scrub is pending (R143), and the
helper data of the PUF and the root key of the counters, if they were written since shipment (R408, R411). -/
structure Nv where
  lc       : Nat
  hwm      : Word
  secver   : Word
  keyset   : Word
  scrubs   : Nat
  cabKeys  : List (Option (List Byte))
  enrolled : Bool
  chain    : Option (List Byte)
  active   : Bool
  staged   : Bool
  marked   : Bool
  shipped  : List Bool
  scrubDies : List Nat
  helper   : Option (List Byte)
  rootKey  : Option (List Byte)
  deriving DecidableEq, Repr

/-- Start-up (R352 to R354, R377, R378): phase 0 inert, 1 cold boot, 2 READY, 3 ROM recovery, 4 stopped before READY; t0;
REFCLK present; what the cold boot that runs, or that waits for the root PLL (R465), finds; the PWR_GOOD inputs (R321). -/
structure Boot where
  phase  : Nat
  t0     : Nat
  refclk : Bool
  wait   : Option BootIn
  good   : BitVec 8
  linkT  : Option Nat
  deriving DecidableEq, Repr

/-- A reset that runs (R358 to R363): unit 1 core, 2 cluster, 3 partition, 4 compute part; its target; its requester, none
for a teardown or an activation; phase 0 waits, 1 stopped, 2 scrubbing, 3 scrubbed; requests for units inside it; the
clusters that its scrub has fenced (R142). -/
structure ResetRun where
  unit   : Nat
  target : Nat
  req    : Option Requester
  phase  : Nat
  joined : List (Nat × Nat × Requester)
  failed : BitVec 32
  deriving DecidableEq, Repr

/-- The resets that run, and retired generations of the partitions (0 to 3) and of the hub (4): domain, value, time of
retirement (R366). -/
structure Rst where
  runs    : List ResetRun
  retired : List (Nat × Nat × Nat)
  deriving DecidableEq, Repr

/-- An activation that runs (R373, R374): phase 1 the hub restart from the staged bank, 2 the restart back to the active
bank, 3 the compute-part reset with the new microcode, 4 that with the old; whether microcode differs; the status and the
component at fault. -/
structure FwAct where
  phase  : Nat
  micro  : Bool
  status : BitVec 8
  comp   : Nat
  deriving DecidableEq, Repr

/-- PLDM update mode (R452): the requester, the step (1 requested, 2 table passed, 3 transfer, 4 transferred, 5 verified,
6 applied), the image size, the bytes received, the time of the last request. -/
structure PldmUpd where
  q    : SpdmId
  step : Nat
  size : Nat
  got  : Nat
  t    : Nat
  deriving DecidableEq, Repr

/-- Firmware update (R372 to R378, R452): the activation that runs, the update
mode, the terminus ID, the 64 KiB recovery buffer. -/
structure Fwu where
  act  : Option FwAct
  upd  : Option PldmUpd
  tid  : BitVec 8
  rbuf : Tbl Byte
  deriving DecidableEq, Repr

/-- The reply to a management message. -/
structure MgmtReply where
  status : BitVec 8
  detail : Word
  body   : List Byte
  deriving DecidableEq, Repr

/-- The last message accepted from a sender under this BOOT_ID, with its reply (R447). -/
structure MgmtPeer where
  sender : Word
  keyId  : BitVec 64
  seq    : Word
  reply  : MgmtReply
  deriving DecidableEq, Repr

/-- What waits in the management ports while MGMT is PAUSED (R450): messages before their checks, and the requests of the
rows that name them directly. -/
inductive MgmtIn where
  | msg (m : MgmtMsg)
  | heartbeat (port : MsgPort)
  | capReq (cap : BitVec 16) (urgent : Bool)
  | cooling (inlet : BitVec 16) (flowLost : Bool)
  | rungTarget (k : BitVec 3)
  | location (rack : BitVec 13) (tray : BitVec 4) (socket : BitVec 2) (ipA ipB : Word)
  | regRead (r : MgPort) (off count : Word)
  | regWrite (r : MgPort) (off : Word) (words : List Word)
  | memWrite (r : MgPort) (addr : BitVec 64) (data : List Byte)
  | memRead (r : MgPort) (addr : BitVec 64) (len : Word)
  deriving DecidableEq, Repr

/-- The management ports and I3C (R442 to R450): the senders, messages that wait while MGMT is PAUSED, the port of the last
HEARTBEAT, the PF0 vectors that have fired since the last EVENT and the time of the first. -/
structure Mgmt where
  peers  : List MgmtPeer
  wait   : List MgmtIn
  hbPort : Option MsgPort
  evBits : Nat
  evT    : Option Nat
  deriving DecidableEq, Repr

/-- A requester of the SPDM responder (R416, R451): how far it has come (1 version, 2 capabilities, 3 algorithms), its last
activity, and the messages so far, which signatures cover. -/
structure SpdmPeer where
  q     : SpdmId
  step  : Nat
  t     : Nat
  trans : List Byte
  deriving DecidableEq, Repr

/-- The SPDM responder: its requesters, and those that were dropped. -/
structure Spdm where
  peers   : List SpdmPeer
  dropped : List SpdmId
  deriving DecidableEq, Repr

/-- The test access port (R404): the instruction register and the boundary register. -/
structure Tap where
  ir    : BitVec 8
  bound : BitVec 64
  deriving DecidableEq, Repr

/-- The Stepstool (R328 to R331): admitted cores in the order of admission, cores that ask in the order of asking, cores
eligible for release (R329), per die the time of its last change, and the cores that asked in one NCLK cycle with that cycle
(its count plus 1). -/
structure Stool where
  admitted : List Nat
  ask      : List Nat
  elig     : List Nat
  last     : List Nat
  askNow   : Nat × List Nat
  deriving DecidableEq, Repr

/-- A pre-ramp entry (R332): state (0 EMPTY, 1 ARMED, 2 RUNNING), T, N, HOLD_US, the last command and its status, and the
time at which P reached T. -/
structure Ramp where
  st     : Nat
  t      : BitVec 48
  n      : BitVec 7
  hold   : BitVec 8
  cmd    : Nat
  status : BitVec 8
  fired  : Nat
  deriving DecidableEq, Repr

/-- Power, heat and coolant beside the PWR registers (R333 to R349). Powers of a sample are in units of 0.1 mW. Newest
first: the samples of the package and of the compute rails (1,000), the samples since the last 10 ms, the power of each
10 ms (25), the time of the last good sample of each rail, the used values of the
pairs (250), T_h (1,000). Then L in 10 mW and its rate in W/s, whether the rack has sent a cap, times of urgent units,
C_cool in W, memory admission set by the controller, admission limits by partition, admission of each stack and the time
of its last change, the pre-ramp entries, the setpoint of VCORE in mV, a lower one that is still to be sent with its time, since when the causes THERMAL and STACK could clear
and T_h has been low, the last change of the thermal ceiling, the last change of each pair, the last heartbeat, cooling
reports (time, inlet), valid R_th (time, value), since when R_th has been good, THERMTRIP_N asserted, and the T_h
samples that wait for a credit towards Lerfen (R35). -/
structure Pwr where
  samples : List (Nat × Nat)
  p10n    : Nat
  p10     : List Nat
  railT   : List Nat
  hist    : List (List Int)
  th      : List Int
  lim     : Nat
  rate    : Nat
  capSent : Bool
  urgent  : List Nat
  coolCap : Nat
  memF    : Nat
  admLim  : List Nat
  stackF  : List Nat
  stackT  : List Nat
  ramps   : List Ramp
  vcore   : Nat
  vcoreDue : Option (Nat × Nat)
  thermOk : Option Nat
  stackOk : Option Nat
  thLow   : Option Nat
  thStep  : Nat
  pairT   : Tbl Nat
  hb      : Option Nat
  inlet   : List (Nat × Nat)
  rth     : List (Nat × Nat)
  rthOk   : Option Nat
  trip    : Bool
  thWait  : List Int
  deriving DecidableEq, Repr

/-- A chunk that arrives at a home core (R274, R275, R279): the request's CSEQ bits, home core index, step and rank of the
sender, the CRC-32C of the whole chunk, the bytes received, the length once the last packet has told it, the bytes, whether the
chunk has passed its check, and the core that sent it. -/
structure ChRx where
  cseq    : BitVec 8
  home    : Nat
  step    : Nat
  rank    : Nat
  crc     : Word
  got     : Nat
  total   : Option Nat
  data    : Tbl Byte
  arrived : Bool
  core    : Nat
  deriving DecidableEq, Repr

/-- The request that a chamber runs (R264, R278): its bytes and ring index, the count of P at which P reaches T_0, the
step, whether it has started and at which count of P, late steps, messages that have not left (home core
index, rank; the own rank stands for the part within the core), the mask of destinations with drops, and the W48 values that each home core holds between reduce steps. -/
structure ChReq where
  bytes  : List Byte
  idx    : BitVec 32
  due0   : Int
  step   : Nat
  going  : Bool
  start  : Nat
  late   : Nat
  unsent : List (Nat × Nat)
  spent  : List Nat
  drops  : Nat
  vals   : List (List (BitVec 48))
  deriving DecidableEq, Repr

/-- An entry of the chamber table (R260, R285): state (0 INACTIVE, 1 READY, 2 TIMED, 3 CREDITED, 4 STALLED, 5 RETIRING),
the 64 B descriptor, partition, rank, CSEQ, time at which it last became INACTIVE, the running request, credits spent
(2 rank + parity), chunks received, and the step that ran last. -/
structure Chamber where
  st      : Nat
  desc    : List Byte
  part    : Nat
  rank    : Nat
  cseq    : BitVec 16
  inactiveAt : Option Nat
  req     : Option ChReq
  spent   : List Nat
  rx      : List ChRx
  last    : Nat
  deriving DecidableEq, Repr

/-- A command of COL_CCTL that waits (R262, R285): ACTIVATE (1) or RETIRE (2), its requester and chamber. -/
structure ColWait where
  cmd : Nat
  req : Requester
  id  : Nat
  deriving DecidableEq, Repr

/-- The chamber table and the command that waits. -/
structure Col where
  chs  : Tbl Chamber
  wait : Option ColWait
  deriving DecidableEq, Repr

/-- A wait on a sync object (R118): the SYNC_WAIT command idx of a queue, or the WAIT_SYNC bundle of a core; woken once
an ADD has brought VALUE to the target. -/
structure Waiter where
  isCore : Bool
  id     : Nat
  idx    : Nat
  addr   : Nat
  target : Word
  woken  : Bool
  deriving DecidableEq, Repr

/-- What the package has sent or answered: the model's own record, oldest first. -/
inductive Out where
  | regData (r : Requester) (off : Nat) (data : Word)
  | barData (f : Nat) (data : List Byte)
  | cell (port : Nat) (seq : BitVec 16) (c : EgCell)
  | ctlCell (port : Nat) (seq : BitVec 16) (align : Bool) (fault : Bool) (items : List CtlItem)
  | drainDone (eid : BitVec 19) (status : BitVec 8)
  | rungTarget (keeper : BitVec 19) (k : Nat)
  | safeNotice (holder : Option (BitVec 19)) (bootId : BitVec 64) (record : List Byte)
  | msix (f v : Nat)
  | gzlSend (m : GzlMsg)
  | gzlTimeout (seq : Word)
  | gzlWiring (port : Nat)
  | gzlReady
  | gzlReply (code : Nat) (status : BitVec 8) (detail : Word)
  | gzlState (status : BitVec 8) (ports : List Nat) (rows : List SliceRow) (sync : Nat) (wseq : Word)
  | mgmtReply (cls code : Nat) (r : MgmtReply)
  | mgmtFrame (port : MsgPort) (bytes : List Byte)
  | event (port : MsgPort) (bits : Nat)
  | spdm (q : SpdmId) (code : Nat) (body : List Byte)
  | pldm (code cc : Nat) (body : List Byte)
  | mctp (code : Nat) (body : List Byte)
  | net (port : MgPort) (arp : Bool) (body : List Byte)
  | tdo (ir : BitVec 8) (data : BitVec 64)
  deriving DecidableEq, Repr

/-- The package: everything that the manual gives it, with the queue of waiting commands. armed holds the sync objects
whose interrupt is armed, with the IRQ_TARGET read at the arming (R116); chans holds, for channel ch of
stack s (key 32 s + ch), the time of its last access and whether it is in power-down (R133). -/
structure State where
  clk      : Clk
  regs     : Tbl Word
  latches  : Tbl Word
  handoffs : Tbl Handoff
  cores    : Tbl Core
  progs    : Tbl ProgSlot
  loading  : Option Loading
  insts    : List Inst
  instNo   : Nat
  queues   : Tbl Queue
  bells    : List HeldBell
  armed    : List (Nat × Word)
  waiters  : List Waiter
  mem      : List Host.Cell
  flash    : List Host.Cell
  ecc      : Tbl Nat
  chans    : Tbl (Nat × Bool)
  cab      : Cab
  bur      : Bureau
  perf     : Perf
  drp      : Drp
  fab      : Fab
  gzl      : Gzl
  sec      : Sec
  stool    : Stool
  pwr      : Pwr
  col      : Col
  host     : HostIf
  nv       : Nv
  boot     : Boot
  rst      : Rst
  fwu      : Fwu
  mgmt     : Mgmt
  spdm     : Spdm
  tap      : Tap
  busyParts : Nat
  computeReset : Bool
  out      : List Out
  freeCtr  : Nat
  pending  : List Instr
  deriving DecidableEq, Repr

/-- The preset of every Cabinet section (R159, R158, R212, R253, R290, R397). -/
def presetSects : List (List Word) :=
  [ [0x0000000F, 0, 0x00100000, 0, 1, 0, 0, 0],
    [0xFC000000, 0x000000EF, 0, 0],
    [],
    [0x0000000F, 0x00000100, 0, 0],
    [0x0000003F, 0],
    [0x08700E10, 0x004004B0, 0x0000695F, 0, 0, 0, 0, 0],
    [0, 0, 0x00000002, 0x00002401, 0x40404040, 0x40404040, 0, 0],
    [0x00000080, 0x0007FFFF, 0x0007FFFF, 0x18100000],
    [0x00010100, 4, 0x11111111, 0,
     0x01010101, 0x10000000, 0, 0, 0x01010101, 0, 0, 0, 0x01010101, 0, 0, 0, 0x01010101, 0, 0, 0],
    [0x12111002, 0x17161413, 0x22212002, 0x00000023, 0x32313002, 0x00000033, 0, 0,
     0x42414002, 0x00454443, 0, 0, 0x52515002, 0x00005453, 0, 0,
     0x62616002, 0x00000063, 0, 0, 0x72717002, 0x00000073, 0x82818002, 0x00000083] ]

/-- The generation 0 structure (R159). -/
def presetStruct : CabStruct := ⟨0, 0, false, presetSects⟩

/-- A port after a whole-package reset (R252). -/
def Port.down : Port :=
  ⟨none, none, 0, 0, List.replicate 8 [], List.replicate 8 [], [], 0, none, 0, List.replicate 8 0, 0, 0,
   List.replicate 8 (7, 0), List.replicate 8 0, 0, List.replicate 8 0, List.replicate 8 0, 0, List.replicate 8 0, [], []⟩

/-- A core after a reset. -/
def Core.idle : Core :=
  ⟨none, List.replicate 16 0, List.replicate 8 0, List.replicate 4 [], [], [], [], [false, false], [], [], 0, false, 1, 0,
   [], 0, false, 0⟩

/-- A queue whose descriptor the queue manager has not activated (R109). -/
def Queue.off : Queue := ⟨.disabled, 0, 0, 0, false, 0, 0, 0, 0, 0, 0, 0, 0, 0, []⟩

/-- An entry of the chamber table that was never active. -/
def Chamber.off : Chamber := ⟨0, [], 0, 0, 0, none, none, [], [], 0⟩

/-- Power, heat and coolant after a whole-package reset: L at the preset cap, every admission whole (R338). -/
def Pwr.atReset : Pwr where
  samples := []
  p10n := 0
  p10 := []
  railT := List.replicate 8 0
  hist := []
  th := []
  lim := 360000
  rate := 1200
  capSent := false
  urgent := []
  coolCap := 3600
  memF := 64
  admLim := List.replicate 4 256
  stackF := List.replicate 20 64
  stackT := List.replicate 20 0
  ramps := List.replicate 16 ⟨0, 0, 0, 0x14, 0, 0, 0⟩
  vcore := 750
  vcoreDue := none
  thermOk := none
  stackOk := none
  thLow := none
  thStep := 0
  pairT := []
  hb := none
  inlet := []
  rth := []
  rthOk := none
  trip := false
  thWait := []

/-- Gorzel after a whole-package reset (R317, R320). -/
def Gzl.atReset : Gzl where
  rows := List.replicate 4 ⟨0, 0, 0, []⟩
  deadline := none
  renewT := none
  jseq := 0
  journal := []
  current := false
  standbyT := none
  takeT := none
  yieldT := none
  yieldTo := 0x7FFFF
  msgs := []
  seqNo := 0
  peers := []
  slices := []
  masters := []
  entryT := none
  notLeader := 0
  drains := []
  cont := none
  routes := []
  wait := []
  jobs := []
  sump := 0

/-- The security block after a whole-package reset. -/
def Sec.atReset : Sec := ⟨[], ⟨[], [], false, false⟩, false, none, false, none, []⟩

/-- The package right after power-up and a whole-package reset: every field at the value the manual states for reset. -/
def State.reset : State where
  clk := ⟨0, 0, 0, 0, 0, 4, 4, 0, 0, 0, false, List.replicate 4 ⟨0, 0, 0⟩⟩
  regs := []
  latches := []
  handoffs := []
  cores := []
  progs := []
  loading := none
  insts := []
  instNo := 0
  queues := []
  bells := []
  armed := []
  waiters := []
  mem := []
  flash := []
  ecc := []
  chans := []
  cab := ⟨presetStruct, none, none, none, none, none⟩
  bur := ⟨[], [], [], none, false, [], (0, 0)⟩
  perf := ⟨[], none, 0, List.replicate 4 ⟨0, 0x1C000000, 0, 0⟩⟩
  drp := ⟨[], 0, none, 0, [], [], 0, none, none, [], 0, 0, 0, 0, none, 0x7FFFF, none, none, none, false, none, false⟩
  fab := ⟨List.replicate 32 Port.down, List.replicate 8 false, [], [], [], [], 0, [], [], [], []⟩
  gzl := Gzl.atReset
  sec := Sec.atReset
  stool := ⟨[], [], [], List.replicate 4 0, (0, [])⟩
  pwr := Pwr.atReset
  col := ⟨[], none⟩
  host := ⟨false, true, List.replicate 5 false, [], [], []⟩
  nv := ⟨1, 0, 0, 0, 0, List.replicate 4 none, true, none, false, false, false, [true, false], List.replicate 4 0, none, none⟩
  boot := ⟨0, 0, true, none, 0xFF, none⟩
  rst := ⟨[], []⟩
  fwu := ⟨none, none, 0, []⟩
  mgmt := ⟨[], [], none, 0, none⟩
  spdm := ⟨[], []⟩
  tap := ⟨1, 0⟩
  busyParts := 0
  computeReset := false
  out := []
  freeCtr := 0
  pending := []

end Sys2Proof.Machine
end

