-- ==== Sys2Proof/Machine/Tbl.lean ====
section
/-! DEFINITION. Sparse tables in canonical form, byte strings and their little-endian numbers, bit fields, modular
comparison (R189) and CRC-32C (R279). -/

namespace Sys2Proof.Machine

/-- The value of a key: what the table lists, or what an unlisted key reads as. -/
def tget {α : Type} (d : Nat → α) : Tbl α → Nat → α
  | [], k => d k
  | (a, x) :: r, k => if a = k then x else tget d r k

/-- The table with an entry put at the place of its key. -/
def tins {α : Type} (k : Nat) (v : α) : Tbl α → Tbl α
  | [] => [(k, v)]
  | (a, x) :: r => if k < a then (k, v) :: (a, x) :: r else if k = a then (k, v) :: r else (a, x) :: tins k v r

/-- The table with one key set, in canonical form: a key set to what an unlisted key reads as is not listed. -/
def tset {α : Type} [DecidableEq α] (d : Nat → α) (k : Nat) (v : α) (t : Tbl α) : Tbl α :=
  if v = d k then t.filter fun c => decide (c.1 ≠ k) else tins k v t

/-- The entries of a table whose keys lie in a range, with keys counted from its start. -/
def tslice {α : Type} (a n : Nat) (t : Tbl α) : Tbl α :=
  (t.filter fun c => decide (a ≤ c.1 ∧ c.1 < a + n)).map fun c => (c.1 - a, c.2)

/-- The table with a range of n keys from a replaced by entries whose keys count from its start. -/
def tput {α : Type} (a n : Nat) (sl t : Tbl α) : Tbl α :=
  t.filter (fun c => decide (c.1 < a)) ++ sl.map (fun c => (c.1 + a, c.2)) ++ t.filter (fun c => decide (a + n ≤ c.1))

/-- The entries of a slice of bytes that are in order, not 0 and between two keys: what a write into memory takes. -/
def tclean (lo hi : Nat) : Tbl Byte → Tbl Byte
  | [] => []
  | (a, x) :: r => if lo ≤ a ∧ a < hi ∧ x ≠ 0 then (a, x) :: tclean (a + 1) hi r else tclean lo hi r

/-- The entries of a byte string that are not 0, keyed by position from i. -/
def sparse : Nat → List Byte → Tbl Byte
  | _, [] => []
  | i, b :: r => if b = 0 then sparse (i + 1) r else (i, b) :: sparse (i + 1) r

/-- Keys rise strictly and lie at or above a bound, and no value is what an unlisted key reads as. -/
def twfFrom {α : Type} [DecidableEq α] (d : Nat → α) : Nat → Tbl α → Bool
  | _, [] => true
  | lo, (a, x) :: r => decide (lo ≤ a) && decide (x ≠ d a) && twfFrom d (a + 1) r

/-- The canonical form of a sparse table. -/
def twf {α : Type} [DecidableEq α] (d : Nat → α) (t : Tbl α) : Bool := twfFrom d 0 t

/-- The little-endian number of a byte string. -/
def leNat : List Byte → Nat
  | [] => 0
  | b :: r => b.toNat + 256 * leNat r

/-- The n little-endian bytes of a number. -/
def leBytes : Nat → Nat → List Byte
  | 0, _ => []
  | n + 1, v => BitVec.ofNat 8 v :: leBytes n (v / 256)

/-- The n big-endian bytes of a number. -/
def beBytes (n v : Nat) : List Byte := (leBytes n v).reverse

/-- The n bytes of a string from position i; positions past its end give 0. -/
def bytesAt (l : List Byte) (i n : Nat) : List Byte := (List.range n).map fun j => l.getD (i + j) 0

/-- The little-endian 16-bit number at position i of a byte string. -/
def le16 (l : List Byte) (i : Nat) : Nat := leNat (bytesAt l i 2)
/-- The little-endian 32-bit number at position i of a byte string. -/
def le32 (l : List Byte) (i : Nat) : Nat := leNat (bytesAt l i 4)
/-- The little-endian 64-bit number at position i of a byte string. -/
def le64 (l : List Byte) (i : Nat) : Nat := leNat (bytesAt l i 8)

/-- Bits hi down to lo of a number. -/
def bitsOf (v hi lo : Nat) : Nat := (v / 2 ^ lo) % 2 ^ (hi + 1 - lo)

/-- One bit of a number. -/
def bitOf (v i : Nat) : Bool := (v / 2 ^ i) % 2 == 1

/-- A number with its bits hi down to lo replaced by the low bits of x. -/
def setBits (v hi lo x : Nat) : Nat :=
  (v / 2 ^ (hi + 1)) * 2 ^ (hi + 1) + (x % 2 ^ (hi + 1 - lo)) * 2 ^ lo + v % 2 ^ lo

/-- A number with one bit written. -/
def setBit (v i : Nat) (b : Bool) : Nat := setBits v i i b.toNat

/-- The byte positions lo to lo + n - 1 are all 0. -/
def zeroBytes (l : List Byte) (i n : Nat) : Bool := (bytesAt l i n).all fun b => b == 0

/-- a has reached b under the modular comparison of W and of P (R189). -/
def reaches48 (a b : BitVec 48) : Bool := decide ((a - b).toNat < 2 ^ 47)

/-- A 32-bit value has reached a target (R116). -/
def reaches32 (a b : BitVec 32) : Bool := decide ((a - b).toNat < 2 ^ 31)

/-- A 16-bit counter has reached a value (R95). -/
def reaches16 (a b : BitVec 16) : Bool := decide ((a - b).toNat < 2 ^ 15)

/-- A sequence number of rung changes is newer (R189). -/
def newer16 (a b : BitVec 16) : Bool := decide (0 < (a - b).toNat ∧ (a - b).toNat < 2 ^ 15)

/-- A generation is newer (R160); generation 0 is never newer. -/
def newer32 (g h : BitVec 32) : Bool := decide (g ≠ 0 ∧ 0 < (g - h).toNat ∧ (g - h).toNat < 2 ^ 31)

/-- One bit step of CRC-32C, reflected polynomial 0x82F6_3B78. -/
def crcBit (c : BitVec 32) : BitVec 32 := if c.getLsbD 0 then (c >>> 1) ^^^ 0x82F63B78#32 else c >>> 1

/-- One byte step of CRC-32C. -/
def crcByte (c : BitVec 32) (b : Byte) : BitVec 32 :=
  crcBit (crcBit (crcBit (crcBit (crcBit (crcBit (crcBit (crcBit (c ^^^ b.setWidth 32))))))))

/-- CRC-32C of a byte string (R279). -/
def crc32c (l : List Byte) : BitVec 32 := (l.foldl crcByte 0xFFFFFFFF#32) ^^^ 0xFFFFFFFF#32

/-- The first element that a test accepts, with its position. -/
def findIdxFrom {α : Type} (p : α → Bool) : Nat → List α → Option (Nat × α)
  | _, [] => none
  | i, x :: r => if p x then some (i, x) else findIdxFrom p (i + 1) r

/-- A list with the element at a position changed. -/
def modAt {α : Type} (i : Nat) (f : α → α) : List α → List α
  | [] => []
  | x :: r => match i with
    | 0 => f x :: r
    | j + 1 => x :: modAt j f r

/-- A list with its oldest entries dropped beyond n. -/
def lastN {α : Type} (n : Nat) (l : List α) : List α := l.drop (l.length - n)

end Sys2Proof.Machine
end

