-- ==== Sys2Proof/Machine/Ops.lean ====
section
/-! DEFINITION. The named operations over registers, events, time, the Cabinet structure in force and the fault log:
the shared steps that every meaning is made of. -/

namespace Sys2Proof.Machine

/-! Status codes (R14). -/

abbrev stOK : BitVec 8 := 0x00
abbrev stLENGTH : BitVec 8 := 0x01
abbrev stWINDOW : BitVec 8 := 0x02
abbrev stFORMAT : BitVec 8 := 0x03
abbrev stSTALE : BitVec 8 := 0x04
abbrev stROLE : BitVec 8 := 0x05
abbrev stLATE : BitVec 8 := 0x06
abbrev stFENCED : BitVec 8 := 0x07
abbrev stCHECK : BitVec 8 := 0x08
abbrev stOVERFLOW : BitVec 8 := 0x09
abbrev stNOTLEADER : BitVec 8 := 0x0A
abbrev stLEASE : BitVec 8 := 0x0B
abbrev stDRAINING : BitVec 8 := 0x0C
abbrev stDENIED : BitVec 8 := 0x0D
abbrev stSTALLED : BitVec 8 := 0x0E
abbrev stTIMEOUT : BitVec 8 := 0x0F

/-- The first status of a list that is not OK, or OK: the order of checks of R17. -/
def firstFail : List (BitVec 8) → BitVec 8
  | [] => stOK
  | x :: r => if x = stOK then firstFail r else x

/-- A status when a condition of failure holds. -/
def failIf (c : Bool) (st : BitVec 8) : BitVec 8 := if c then st else stOK

/-! Register space (R42, R43). -/

abbrev hubB : Nat := 0x00000000
abbrev burB : Nat := 0x00100000
abbrev drpB : Nat := 0x00200000
abbrev cabB : Nat := 0x00300000
abbrev pwrB : Nat := 0x00400000
abbrev perfB : Nat := 0x00500000
abbrev secB : Nat := 0x00600000
abbrev fwuB : Nat := 0x00700000
abbrev qmB : Nat := 0x00800000
abbrev gzlB : Nat := 0x00900000
abbrev colB : Nat := 0x00A00000
abbrev hostB : Nat := 0x04000000

/-- Base of the window of die d. -/
def dieWin (d : Nat) : Nat := 0x01000000 + d * 0x00400000
/-- Base of the window of logical core 64d + 8c + k. -/
def coreB (c : Nat) : Nat := dieWin (c / 64) + (c % 64 / 8) * 0x00080000 + (c % 8) * 0x00008000
/-- Base of the registers of cluster 8d + c. -/
def cluB (k : Nat) : Nat := dieWin (k / 8) + (k % 8) * 0x00080000 + 0x00040000
/-- Base of the registers of die d. -/
def dieB (d : Nat) : Nat := dieWin d + 0x00060000
/-- Base of port p. -/
def fabB (p : Nat) : Nat := 0x02000000 + p * 0x00010000
/-- Base of stack controller s. -/
def memB (s : Nat) : Nat := 0x03000000 + s * 0x00010000

/-- The block of a hub offset, by its 1 MiB window (R42). -/
def hubBlk : Nat → Option Blk
  | 0 => some .hub
  | 1 => some .bur
  | 2 => some .drp
  | 3 => some .cab
  | 4 => some .pwr
  | 5 => some .perf
  | 6 => some .sec
  | 7 => some .fwu
  | 8 => some .qm
  | 9 => some .gzl
  | 10 => some .col
  | _ => none

/-- The block and the base that a register-space offset lies in (R42, R43); none in a reserved range. -/
def regBlock (off : Nat) : Option (Blk × Nat) :=
  if off < 0x01000000 then (hubBlk (off / 0x00100000)).map fun b => (b, off / 0x00100000 * 0x00100000)
  else if off < 0x02000000 then
    let x := (off - 0x01000000) % 0x00080000
    if x < 0x00040000 then some (.core, off - x % 0x00008000)
    else if x < 0x00050000 then some (.clu, off - (x - 0x00040000))
    else if 0x00060000 ≤ x ∧ x < 0x00070000 ∧ (off - 0x01000000) % 0x00400000 < 0x00080000 then
      some (.die, off - (x - 0x00060000))
    else none
  else if off < 0x02200000 then some (.fab, off / 0x00010000 * 0x00010000)
  else if 0x03000000 ≤ off ∧ off < 0x03140000 then some (.mem, off / 0x00010000 * 0x00010000)
  else if 0x04000000 ≤ off ∧ off < 0x04100000 then some (.host, 0x04000000)
  else none

/-- The descriptor of the register at an offset; none where the offset is not defined (R8). The Sump and session
registers lie in the window of port 0 alone (R256). -/
def regDesc (off : Nat) : Option RegDesc :=
  match regBlock off with
  | none => none
  | some (b, base) =>
    if b = .fab ∧ base ≠ fabB 0 ∧ 0x8000 ≤ off - base then none
    else (regsOf b).find? fun d => d.off == off - base

/-- The value of a register after a whole-package reset; FAB_STATUS.PLANE of port p is p mod 8 (R255). -/
def regReset (off : Nat) : Word :=
  match regDesc off with
  | none => 0
  | some d =>
    if 0x02000000 ≤ off ∧ off < 0x02200000 ∧ d.off = oFAB_STATUS then
      BitVec.ofNat 32 (d.rst + (off - 0x02000000) / 0x00010000 % 8 * 0x00010000)
    else BitVec.ofNat 32 d.rst

/-- The stored value of a register. -/
def regGet (off : Nat) (s : State) : Word := tget regReset s.regs off

/-- Writes the stored value of a register. -/
def regSet (off : Nat) (v : Word) (s : State) : State := { s with regs := tset regReset off v s.regs }

/-- A field of a register of the block at base b. -/
def fget (b : Nat) (f : Fld) (s : State) : Nat := bitsOf (regGet (b + f.off) s).toNat f.hi f.lo

/-- Writes a field of a register of the block at base b. -/
def fset (b : Nat) (f : Fld) (v : Nat) (s : State) : State :=
  regSet (b + f.off) (BitVec.ofNat 32 (setBits (regGet (b + f.off) s).toNat f.hi f.lo v)) s

/-- Adds to a field, modulo its width. -/
def fadd (b : Nat) (f : Fld) (v : Nat) (s : State) : State := fset b f (fget b f s + v) s

/-- Adds to a count that saturates at the largest value of its field (R11). -/
def faddSat (b : Nat) (f : Fld) (v : Nat) (s : State) : State :=
  fset b f (Nat.min (fget b f s + v) (2 ^ (f.hi + 1 - f.lo) - 1)) s

/-! MSI-X causes (R439 to R441). -/

/-- A fixed vector of PF0 has fired: the next EVENT carries its bit (R448). -/
def noteFired (f v : Nat) (s : State) : State :=
  if f = 0 ∧ v ≤ 8 then
    { s with mgmt := { s.mgmt with
      evBits := setBit s.mgmt.evBits v true, evT := if s.mgmt.evT.isSome then s.mgmt.evT else some s.clk.now } }
  else s

/-- A cause of vector v of function f: lost while MSI-X Enable is 0, held in the pending bit of a masked vector, else
waiting for its write; a cause that already waits is merged (R441). -/
def raiseMsix (f v : Nat) (s : State) : State :=
  let s := noteFired f v s
  if s.host.msixEn.getD f false = false then s
  else if tget (fun _ => true) s.host.masked (2048 * f + v) then
    { s with host := { s.host with pend := tset (fun _ => false) (2048 * f + v) true s.host.pend } }
  else if s.host.causes.contains (f, v) then s
  else { s with host := { s.host with causes := s.host.causes ++ [(f, v)] } }

/-- The field of HOST_DENIED_PFf that counts dropped MSI-X vectors. -/
def fDeniedMsix (f : Nat) : Fld := ⟨oHOST_DENIED_PF0 + 4 * f, 31, 16⟩
/-- The field of HOST_DENIED_PFf that counts denied accesses. -/
def fDenied (f : Nat) : Fld := ⟨oHOST_DENIED_PF0 + 4 * f, 15, 0⟩

/-- The vector of a queue or a sync object: outside 16 to 2,047 it raises nothing and is counted (R440). -/
def raiseVec (f v : Nat) (s : State) : State :=
  if 16 ≤ v ∧ v ≤ 2047 then raiseMsix f v s else faddSat hostB (fDeniedMsix f) 1 s

/-- A hardware set event of a W1C bit: the bit is set, its count rises (R11), and the vector of PF0 is raised (R439). -/
def evt (b : Nat) (e : Evt) (s : State) : State :=
  let s := faddSat b e.cnt 1 (fset b e.bit 1 s)
  match e.vec with
  | none => s
  | some v => raiseMsix 0 v s

/-- A set event that raises no vector by itself. -/
def evtQuiet (b : Nat) (e : Evt) (s : State) : State := faddSat b e.cnt 1 (fset b e.bit 1 s)

/-- Records something that the package sends or answers. -/
def emit (o : Out) (s : State) : State := { s with out := s.out ++ [o] }

/-- The counter of free values advances: the next free value is a new one. -/
def bumpFree (s : State) : State := { s with freeCtr := s.freeCtr + 1 }

/-! Time. Ticks of W are 0.625 ns, so 1 µs is 1,600 ticks. -/

abbrev ticksUs : Nat := 1600
abbrev ticksMs : Nat := 1600000
abbrev ticksS : Nat := 1600000000

/-- At least d ticks have passed since t. -/
def elapsed (t d : Nat) (s : State) : Bool := decide (t + d ≤ s.clk.now)

/-- The root divider of a rung code (R175). -/
def divider : Nat → Nat
  | 0 => 4
  | 1 => 5
  | 2 => 6
  | 3 => 8
  | 4 => 12
  | _ => 24

/-! Planes (R26, R28): 0 DOWN, 1 RUN, 2 PAUSED, 3 SAFE. -/

def ctrlPlane (s : State) : Nat := fget hubB fHUB_PLANE_STATUS_CTRL s
def dataPlane (s : State) : Nat := fget hubB fHUB_PLANE_STATUS_DATA s
def mgmtPlane (s : State) : Nat := fget hubB fHUB_PLANE_STATUS_MGMT s
def isReady (s : State) : Bool := fget hubB fHUB_PLANE_STATUS_READY s == 1
def isSafe (s : State) : Bool := fget burB fBUR_STATUS_SAFE s == 1

/-- Issue is stopped on the whole package: the safe state (R390), or EXTEST in force (R404). -/
def issueStopped (s : State) : Bool := isSafe s || s.tap.ir == 0

/-- ECLK runs: not in the safe state and not after a thermal trip (R183). -/
def eclkRuns (s : State) : Bool := !isSafe s && !s.pwr.trip

/-- The package is in DRIFT (R196). -/
def inDrift (s : State) : Bool := fget drpB fDRP_STATUS_DRIFT s == 1

/-- The sync state, and DRIFT with it (R195, R196). -/
def setSync (v : Nat) (s : State) : State :=
  let s := fset drpB fDRP_STATUS_SYNC v s
  let pace := fget drpB fDRP_STATUS_PACE s
  fset drpB fDRP_STATUS_DRIFT (if v = 0 ∨ v = 1 ∨ v = 4 ∨ pace = 0 ∨ pace = 3 then 1 else 0) s

/-- The pace state, and DRIFT with it (R196). -/
def setPace (v : Nat) (s : State) : State :=
  let s := fset drpB fDRP_STATUS_PACE v s
  let sync := fget drpB fDRP_STATUS_SYNC s
  fset drpB fDRP_STATUS_DRIFT (if sync = 0 ∨ sync = 1 ∨ sync = 4 ∨ v = 0 ∨ v = 3 then 1 else 0) s

/-! The Cabinet structure (R150 to R159). -/

/-- Word i of section type ty of a structure. -/
def sectW (c : CabStruct) (ty i : Nat) : Nat := ((c.sect.getD (ty - 1) []).getD i 0).toNat

/-- The number of records of n words in section type ty. -/
def sectRecs (c : CabStruct) (ty n : Nat) : Nat := (c.sect.getD (ty - 1) []).length / n

/-- The number of partitions. -/
def nParts (c : CabStruct) : Nat := sectRecs c 1 8
def dieMask (c : CabStruct) (p : Nat) : Nat := bitsOf (sectW c 1 (8 * p)) 3 0
def sealBit (c : CabStruct) (p : Nat) : Bool := bitOf (sectW c 1 (8 * p)) 8
def qidBase (c : CabStruct) (p : Nat) : Nat := bitsOf (sectW c 1 (8 * p + 1)) 19 0
def qidCount (c : CabStruct) (p : Nat) : Nat := bitsOf (sectW c 1 (8 * p + 2)) 20 0
def sliceId (c : CabStruct) (p : Nat) : Nat := bitsOf (sectW c 1 (8 * p + 3)) 31 16
def pkgIndex (c : CabStruct) (p : Nat) : Nat := bitsOf (sectW c 1 (8 * p + 3)) 9 0
def sliceSize (c : CabStruct) (p : Nat) : Nat := bitsOf (sectW c 1 (8 * p + 4)) 10 0

/-- The partitions that exist. -/
def partList (c : CabStruct) : List Nat := List.range (nParts c)
/-- A partition exists. -/
def partExists (c : CabStruct) (p : Nat) : Bool := decide (p < nParts c)
/-- The partition that owns die d (R152). -/
def partOfDie (c : CabStruct) (d : Nat) : Option Nat := (partList c).find? fun p => bitOf (dieMask c p) d
/-- The partition that owns a logical core. -/
def partOfCore (c : CabStruct) (core : Nat) : Option Nat := partOfDie c (core / 64)
/-- The partition whose QID range holds a queue. -/
def partOfQid (c : CabStruct) (q : Nat) : Option Nat :=
  (partList c).find? fun p => decide (qidBase c p ≤ q ∧ q < qidBase c p + qidCount c p)
/-- The base of the queue descriptor table (R153). -/
def tableBase (c : CabStruct) : Nat := sectW c 2 0 + 2 ^ 32 * sectW c 2 1
/-- A virtual lane is enabled (R156). -/
def vlEnabled (c : CabStruct) (v : Nat) : Bool := bitOf (bitsOf (sectW c 4 0) 7 0) v
/-- The rungs allowed (R157). -/
def rungAllowed (c : CabStruct) (k : Nat) : Bool := bitOf (bitsOf (sectW c 5 0) 5 0) k
def domainId (c : CabStruct) : Nat := bitsOf (sectW c 8 0) 31 16

/-- The cores of a partition, in ascending order. -/
def coresOfPart (c : CabStruct) (p : Nat) : List Nat :=
  (List.range 256).filter fun k => partOfCore c k == some p

/-! Units in service. -/

/-- Cluster 8d + c is in service (R26). -/
def cluOk (k : Nat) (s : State) : Bool := bitOf (fget hubB fHUB_CLUSTER_MAP_IN_SERVICE s) k
/-- Stack s is in service (R137, R145). -/
def stackOk (st : Nat) (s : State) : Bool := fget (memB st) fMEM_STATUS_STATE s == 2
/-- The Bureau has stopped partition p (R389). -/
def partStopped (p : Nat) (s : State) : Bool := bitOf (fget burB fBUR_STATUS_STOPPED s) p
/-- Partition p is being scrubbed (R141). -/
def scrubbing (p : Nat) (s : State) : Bool := bitOf (fget hubB fHUB_SCRUB_ACTIVE s) p

/-! Cores, queues and programs as tables. -/

def getCore (c : Nat) (s : State) : Core := tget (fun _ => Core.idle) s.cores c
def setCore (c : Nat) (x : Core) (s : State) : State := { s with cores := tset (fun _ => Core.idle) c x s.cores }
def modCore (c : Nat) (f : Core → Core) (s : State) : State := setCore c (f (getCore c s)) s
def getQueue (q : Nat) (s : State) : Queue := tget (fun _ => Queue.off) s.queues q
def setQueue (q : Nat) (x : Queue) (s : State) : State := { s with queues := tset (fun _ => Queue.off) q x s.queues }
def getSlot (i : Nat) (s : State) : ProgSlot := tget (fun _ => ⟨1, none⟩) s.progs i
def setSlot (i : Nat) (x : ProgSlot) (s : State) : State := { s with progs := tset (fun _ => ⟨1, none⟩) i x s.progs }

/-- A repeated step over a list of units. -/
def forAll {α : Type} (l : List α) (f : α → State → State) (s : State) : State := l.foldl (fun s x => f x s) s

/-! Counters (R394 to R397). A block is given by the base of its registers, the place of its events in the COUNTERS
section and its number of counters. -/

/-- A counting block. -/
structure CtrBlk where
  base : Nat
  evts : Nat
  n    : Nat
  deriving DecidableEq, Repr

def ctrCore (c : Nat) : CtrBlk := ⟨coreB c, 0x00, 8⟩
def ctrClu (k : Nat) : CtrBlk := ⟨cluB k, 0x08, 8⟩
def ctrDie (d : Nat) : CtrBlk := ⟨dieB d, 0x10, 16⟩
def ctrFab (p : Nat) : CtrBlk := ⟨fabB p, 0x20, 16⟩
def ctrMem (st : Nat) : CtrBlk := ⟨memB st, 0x30, 16⟩
abbrev ctrQm : CtrBlk := ⟨qmB, 0x40, 16⟩
abbrev ctrCol : CtrBlk := ⟨colB, 0x50, 8⟩
abbrev ctrPwr : CtrBlk := ⟨pwrB, 0x58, 8⟩

/-- The event of counter i of a block in the structure in force (R397). -/
def ctrEvent (b : CtrBlk) (i : Nat) (s : State) : Nat :=
  bitsOf (sectW s.cab.cur 10 ((b.evts + i) / 4)) (8 * ((b.evts + i) % 4) + 7) (8 * ((b.evts + i) % 4))

def ctrGet (b : CtrBlk) (i : Nat) (s : State) : Counter := tget (fun _ => ⟨0, 0⟩) s.perf.counters (b.base + i)
def ctrSet (b : CtrBlk) (i : Nat) (x : Counter) (s : State) : State :=
  { s with perf := { s.perf with counters := tset (fun _ => ⟨0, 0⟩) (b.base + i) x s.perf.counters } }

/-- Adds to counter i modulo 2^48; a wrap adds 1 to the next counter if its event is CHAIN (R395). -/
def ctrBump (b : CtrBlk) : Nat → Nat → Nat → State → State
  | 0, _, _, s => s
  | fuel + 1, i, n, s =>
    let x := ctrGet b i s
    let s' := ctrSet b i { x with live := x.live + BitVec.ofNat 48 n } s
    if 2 ^ 48 ≤ x.live.toNat + n ∧ i + 1 < b.n ∧ ctrEvent b (i + 1) s = 1 then ctrBump b fuel (i + 1) 1 s' else s'

/-- The counters of a fenced cluster and of a stack out of service do not count (R395). -/
def ctrCounts (b : CtrBlk) (s : State) : Bool :=
  if 0x01000000 ≤ b.base ∧ b.base < 0x02000000 then
    let x := (b.base - 0x01000000) % 0x00400000
    x == 0x00060000 || cluOk (8 * ((b.base - 0x01000000) / 0x00400000) + x / 0x00080000) s
  else if 0x03000000 ≤ b.base ∧ b.base < 0x03140000 then stackOk ((b.base - 0x03000000) / 0x00010000) s
  else true

/-- n occurrences of an event in a block: every counter whose event it is rises (R395, R396). -/
def countEvt (b : CtrBlk) (code n : Nat) (s : State) : State :=
  if !ctrCounts b s then s
  else forAll ((List.range b.n).filter fun i => ctrEvent b i s == code) (fun i => ctrBump b b.n i n) s

/-- The counters of a unit return to 0 (R395). -/
def ctrClear (b : CtrBlk) (s : State) : State := forAll (List.range b.n) (fun i => ctrSet b i ⟨0, 0⟩) s

/-! Fault records (R384 to R387, R475). -/

/-- The class of a fault code: 0 corrected, 1 deferred, 2 fenced, 3 fatal; WIRE by its source (R383, R387). -/
def faultClass (code source : Nat) : Nat :=
  if code = 0x16 then
    (if source / 0x1000 = 1 ∨ source / 0x1000 = 2 ∨ source / 0x1000 = 4 ∨ source / 0x1000 = 5 then 2 else 3)
  else if code = 0x01 ∨ code = 0x02 ∨ code = 0x05 ∨ code = 0x06 ∨ code = 0x0F ∨ code = 0x10 ∨ code = 0x11 ∨ code = 0x13
    then 0
  else if code = 0x03 ∨ code = 0x04 ∨ code = 0x07 ∨ code = 0x0D ∨ code = 0x0E ∨ code = 0x12 then 1
  else if 0x08 ≤ code ∧ code ≤ 0x0C then 2
  else 3

/-- The die of a source that is a core, a cluster, a die or a stack, and so in a partition (R475). -/
def sourceDie (source : Nat) : Option Nat :=
  match source / 0x1000 with
  | 1 => some (source % 256 / 64)
  | 2 => some (source % 256 / 8)
  | 3 => some (source % 256)
  | 5 => some (source % 256 / 5)
  | _ => none

/-- The die whose collector takes the faults of a source: a port sits on a die too (R382, R384). -/
def collectorDie (source : Nat) : Option Nat :=
  if source / 0x1000 = 4 then some (source % 256 / 8) else sourceDie source

/-- A set of partitions as the PARTS field. -/
def partBits (l : List Nat) : Nat := l.foldl (fun a p => setBit a p true) 0

/-- PARTS of a fault of a unit (R475). -/
def sourceParts (source : Nat) (s : State) : Nat :=
  match sourceDie source with
  | some d => partBits (partOfDie s.cab.cur d).toList
  | none => if source / 0x1000 = 4 then partBits (partList s.cab.cur) else 0

/-- The reaction to a class (R388): 0 log, 1 log and interrupt, 2 fence, 3 stop partition, 4 safe state. -/
def faultReact (cls code source : Nat) (s : State) : Nat :=
  match cls with
  | 0 => fget burB fBUR_CFG_CORR_IRQ s
  | 1 => 1
  | 2 => 2
  | _ => if (sourceDie source).isSome ∧ fget burB fBUR_CFG_STOP_EN s = 1 ∧ code ≠ 0x15 ∧ code ≠ 0x17 ∧ code ≠ 0x18
      then 3 else 4

/-- The event of a class in BUR_EVENT. -/
def classEvt : Nat → Evt
  | 0 => ⟨eBUR_EVENT_CORRECTED.bit, eBUR_EVENT_CORRECTED.cnt, none⟩
  | 1 => eBUR_EVENT_DEFERRED
  | 2 => eBUR_EVENT_FENCED
  | _ => eBUR_EVENT_FATAL

/-- The interrupt of a record to PF0 and to PF(p + 1) of each partition of PARTS (R388). -/
def burIrq (parts : Nat) (s : State) : State :=
  forAll ((List.range 4).filter (bitOf parts)) (fun p => raiseMsix (p + 1) 0) (raiseMsix 0 0 s)

/-- A fatal fault drives ERR_N low for at least 10 µs; a pending CLEAR is cancelled (R393). -/
def errNAssert (s : State) : State :=
  let bur := { s.bur with
    errMin := if fget burB fBUR_ERRN_PIN s = 1 then s.bur.errMin else some (s.clk.now + 10 * ticksUs), errClr := false }
  fset burB fBUR_ERRN_PIN 1 { s with bur := bur }

/-- Whether a corrected fault, detected at W, merges into the last record of its source (R385). -/
def mergesInto (r : LogRec) (code : Nat) (w : BitVec 48) : Bool :=
  decide (r.code.toNat = code ∧ r.cls = 0 ∧ (w - r.w).toNat < ticksMs)

/-- The record that the ring holds at the place of a sequence number. -/
def logAt (i : Nat) (s : State) : Option LogRec := tget (fun _ => none) s.bur.log i

/-- Adds 1 to REPEAT of the last record of a source, if the ring still holds it (R385). -/
def repeatRec (r : LogRec) (s : State) : State :=
  match logAt (r.seq.toNat % 1024) s with
  | none => s
  | some x =>
    if x.seq = r.seq then
      let y := { x with repeats := if x.repeats = 0xFFFF then x.repeats else x.repeats + 1 }
      { s with bur := { s.bur with log := tset (fun _ => none) (r.seq.toNat % 1024) (some y) s.bur.log } }
    else s

/-- A sequence number one back; 0 is never used (R384). -/
def seqBack (q : Word) : Word := if q = 1 then 0xFFFFFFFF else q - 1

/-- A record of the log takes another sequence number, and its place. -/
def moveRec (r : LogRec) (q : Word) (s : State) : State :=
  let y : LogRec := { r with seq := q }
  let isLast : Bool := match tget (fun _ => none) s.bur.last r.source.toNat with
    | none => false
    | some x => x.seq == r.seq
  { s with bur := { s.bur with
    log := tset (fun _ => none) (q.toNat % 1024) (some y) s.bur.log,
    last := if isLast then tset (fun _ => none) r.source.toNat (some y) s.bur.last else s.bur.last } }

/-- The record at SEQ q goes before those of the n records ahead of it that have a higher SOURCE (R385). BUR_FIRST goes with
the first fatal record. -/
def sortRec : Nat → Word → State → State
  | 0, _, s => s
  | n + 1, q, s => match logAt ((seqBack q).toNat % 1024) s, logAt (q.toNat % 1024) s with
    | some a, some b =>
      if b.source < a.source then
        let first := regGet (burB + oBUR_FIRST) s
        let s := moveRec b (seqBack q) (moveRec a q s)
        let s := if first = seqBack q ∧ b.cls ≠ 3 then regSet (burB + oBUR_FIRST) q s
          else if first = q then regSet (burB + oBUR_FIRST) (seqBack q) s
          else s
        sortRec n (seqBack q) s
      else s
    | _, _ => s

/-- The number of records that the log has taken in this NCLK cycle. -/
def recsNow (s : State) : Nat := if s.bur.cyc.1 = s.clk.now + 1 then s.bur.cyc.2 else 0

/-- Writes a new record, detected at `tm`, into the ring and raises BUR_LOG_HEAD; SEQ 0 is never used (R384, R386). Records of
one NCLK cycle take SEQ in ascending SOURCE (R385). -/
def newRec (tm : BitVec 48 × BitVec 16) (cls react code source parts info0 info1 : Nat) (s : State) : State :=
  let seq := regGet (burB + oBUR_LOG_HEAD) s
  let n := recsNow s
  let r : LogRec := ⟨BitVec.ofNat 2 cls, BitVec.ofNat 3 react, BitVec.ofNat 8 code, BitVec.ofNat 16 source,
    BitVec.ofNat 4 parts, 0, BitVec.ofNat 32 info0, BitVec.ofNat 32 info1, tm.1, tm.2, seq⟩
  let s := { s with bur := { s.bur with
    log := tset (fun _ => none) (seq.toNat % 1024) (some r) s.bur.log,
    last := tset (fun _ => none) source (some r) s.bur.last, cyc := (s.clk.now + 1, n + 1) } }
  let s := regSet (burB + oBUR_LOG_HEAD) (if seq = 0xFFFFFFFF then 1 else seq + 1) s
  let s := if cls = 3 ∧ fget burB fBUR_FIRST_SEQ s = 0 then regSet (burB + oBUR_FIRST) seq s else s
  sortRec n seq s

/-- Logs a fault detected at `tm`, W and epoch (R384 to R388): merged or new record, event counts, interrupt, ERR_N. The
reaction on the unit is made by Bureau.lean. -/
def logFaultAt (tm : BitVec 48 × BitVec 16) (code source parts info0 info1 : Nat) (s : State) : State :=
  let cls := faultClass code source
  let react := faultReact cls code source s
  let merged := match tget (fun _ => none) s.bur.last source with
    | none => none
    | some r => if cls = 0 ∧ mergesInto r code tm.1 then some r else none
  let s := match merged with
    | some r => repeatRec r s
    | none => newRec tm cls react code source parts info0 info1 s
  let s := evtQuiet burB (classEvt cls) s
  let s := if code = 0x16 then evtQuiet burB eBUR_EVENT_WIRE s else s
  let s := match collectorDie source with
    | some d => countEvt (ctrDie d) 0x33 1 s
    | none => s
  let s := if react = 0 ∨ react = 4 then s else burIrq parts s
  if cls = 3 then errNAssert s else s

/-- Logs a fault that is detected now. -/
def logFault (code source parts info0 info1 : Nat) (s : State) : State :=
  logFaultAt (s.clk.w, s.clk.epoch) code source parts info0 info1 s


/-- The number of a requester in INFO1 of a REG_ACCESS record (R384). -/
def reqNo : Requester → Nat
  | .pf f => f.val
  | .mgA => 5
  | .mgB => 6
  | .engine _ => 7
  | .hubFw _ => 8

/-- SOURCE of a REG_ACCESS record (R475). -/
def reqSource : Requester → Nat
  | .pf _ => 0x6006
  | .mgA => 0x6007
  | .mgB => 0x6007
  | .engine c => 0x1000 + c.val
  | .hubFw g => if g then 0x6008 else 0x6009

/-- PARTS of a REG_ACCESS record (R475). -/
def reqParts (r : Requester) (s : State) : Nat :=
  match r with
  | .pf f => if f.val = 0 then 0 else 2 ^ (f.val - 1)
  | .engine c => partBits (partOfCore s.cab.cur c.val).toList
  | _ => 0

/-- A dropped access, or a command write dropped while BUSY: a corrected REG_ACCESS fault (R7, R475). -/
def regAccessFault (r : Requester) (off : Nat) (s : State) : State :=
  logFault 0x01 (reqSource r) (reqParts r s) off (reqNo r) s

/-- A requester that acts with the reach of PF0. -/
def isPf0 : Requester → Bool
  | .pf f => f.val == 0
  | .mgA => true
  | .mgB => true
  | .hubFw _ => true
  | .engine _ => false

/-- PF0 itself or the hub firmware: the reach of the blocks that the management ports do not reach (R380, R292). -/
def isFn0 : Requester → Bool
  | .pf f => f.val == 0
  | .hubFw _ => true
  | _ => false

/-- The partition that a requester serves: p for PF(p + 1), the owner of the core for an engine. -/
def reqPart (r : Requester) (s : State) : Option Nat :=
  match r with
  | .pf f => if f.val = 0 then none else some (f.val - 1)
  | .engine c => partOfCore s.cab.cur c.val
  | _ => none

/-- The package serves register writes outside ROM recovery: READY and not in the safe state (R354, R390). -/
def serving (s : State) : Bool := isReady s && !isSafe s

/-- A requester may write registers now: no engine may (R41, check 4), and no function whose partition does not exist
(R436). -/
def mayCommand (r : Requester) (s : State) : Bool :=
  serving s && (match r with
    | .pf f => f.val == 0 || partExists s.cab.cur (f.val - 1)
    | .engine _ => false
    | _ => true)

/-- A denied access of a host function is counted (R436). -/
def countDenied (r : Requester) (s : State) : State :=
  match r with
  | .pf f => faddSat hostB (fDenied f.val) 1 s
  | _ => s

end Sys2Proof.Machine
end

