-- ==== Sys2Proof/Machine/Flash.lean ====
section
/-! DEFINITION. The flash (R22): the firmware banks and what their headers hold (R370, R371), the other regions. -/

namespace Sys2Proof.Machine

/-! Banks (R370). -/

abbrev bankSize : Nat := 0x3000000
/-- Base of a bank in the flash; the second bank is B. -/
def bankBase (b : Bool) : Nat := if b then bankSize else 0

/-- A byte of a bank; the image that was shipped is known by its manifest alone. -/
def bankByte (b : Bool) (i : Nat) (s : State) : Byte :=
  if s.nv.shipped.getD b.toNat false then Config.factoryManifest.getD i 0
  else tget (fun _ => 0) s.flash (bankBase b + i)

def bankBytes (b : Bool) (i n : Nat) (s : State) : List Byte := (List.range n).map fun j => bankByte b (i + j) s
def bank16 (b : Bool) (i : Nat) (s : State) : Nat := leNat (bankBytes b i 2 s)
def bank32 (b : Bool) (i : Nat) (s : State) : Nat := leNat (bankBytes b i 4 s)

def bankSecver (b : Bool) (s : State) : Nat := bank32 b 0x0C s
def bankLen (b : Bool) (s : State) : Nat := bank32 b 0x10 s

/-- The manifest: header, component table and compatibility records. -/
def bankManifest (b : Bool) (s : State) : List Byte := bankBytes b 0 (0x6F0 + 64 * 6 + 16 * bank16 b 0x14 s) s
/-- The digest of the manifest (R423). -/
def manDigest (b : Bool) (s : State) : List Byte := Config.sha384 (bankManifest b s)

/-- The place of the entry of a component type in the table. -/
def compAt (b : Bool) (ty : Nat) (s : State) : Option Nat :=
  ((List.range 6).map fun i => 0x6F0 + 64 * i).find? fun o => bank16 b o s == ty

/-- VERSION and digest of a component. -/
def compVersion (b : Bool) (ty : Nat) (s : State) : Nat := ((compAt b ty s).map fun o => bank32 b (o + 4) s).getD 0
def compDigest (b : Bool) (ty : Nat) (s : State) : List Byte := ((compAt b ty s).map fun o => bankBytes b (o + 16) 48 s).getD []

/-! The whole flash (R22). -/

/-- The certificate chain of slot 0 (R412). -/
def certChain (s : State) : List Byte := s.nv.chain.getD Config.factoryChain

/-- A byte of the flash by its offset (R22): banks, factory repair record, certificate chain, replay-protected area; the
reserved rest reads 0 (DESIGN CHOICE, log entry 5). -/
def flashByte (o : Nat) (s : State) : Byte :=
  if o < bankSize then bankByte false o s
  else if o < 2 * bankSize then bankByte true (o - bankSize) s
  else if o < 0x6400000 then Config.repairByte (o - 0x6000000)
  else if o < 0x6500000 then (certChain s).getD (o - 0x6400000) 0
  else if o < 0x6600000 then Config.replayByte (o - 0x6500000) s.nv.lc s.nv.secver s.nv.hwm
  else 0

end Sys2Proof.Machine
end

