-- ==== Sys2Proof/Machine/Handoff.lean ====
section
/-! DEFINITION. The credited hand-offs inside the package (R31 to R37, R184): depths, sending, returning, reset; the die
collectors of faults (R384). -/

namespace Sys2Proof.Machine

/-- The key of a hand-off in its table. -/
def hoKey : HandoffId → Nat
  | .qmCore c => c.val
  | .engStore c e => 256 + 3 * c.val + e.val
  | .sxNet c => 1024 + c.val
  | .netPort p v => 1280 + 8 * p.val + v.val
  | .sxStack c st => 1536 + 20 * c.val + st.val
  | .dieBureau d => 6656 + d.val
  | .sensorLerfen => 6660

/-- The depth of a hand-off (R37), by its key. -/
def hoDepth (k : Nat) : Nat :=
  if k < 256 then 16
  else if k < 1024 then 8
  else if k < 1280 then 32
  else if k < 1536 then 64
  else if k < 6656 then 16
  else if k < 6660 then 64
  else 32

/-- A hand-off that nothing has used: the producer holds every credit (R31). -/
def hoIdle (k : Nat) : Handoff := ⟨hoDepth k, [], false⟩

/-- The logical core on one side of a hand-off (R37): its command intake, the results of its engines, what its SX feeds. -/
def hoCore (k : Nat) : Option Nat :=
  if k < 256 then some k
  else if k < 1024 then some ((k - 256) / 3)
  else if k < 1280 then some (k - 1024)
  else if 1536 ≤ k ∧ k < 6656 then some ((k - 1536) / 20)
  else none

/-- One side of a hand-off is in reset (R36, R184): its core, or Lerfen while the hub restarts. -/
def hoInReset (k : Nat) (s : State) : Bool :=
  (match hoCore k with
    | none => false
    | some c => (getCore c s).inReset) || (k == 6660 && mgmtPlane s == 2)

/-- A hand-off: while one side is in reset it holds no entry and no credit (R36, R184). -/
def getHo (k : Nat) (s : State) : Handoff :=
  if hoInReset k s then ⟨0, [], true⟩ else tget hoIdle s.handoffs k
def setHo (k : Nat) (x : Handoff) (s : State) : State := { s with handoffs := tset hoIdle k x s.handoffs }

/-- HANDOFF_ENTRY_SEND (R31): an entry goes out for one credit; without a credit the producer waits. -/
def hoSend (k : Nat) (entry : List Byte) (s : State) : State :=
  let x := getHo k s
  if x.credits = 0 then s else setHo k { x with credits := x.credits - 1, entries := x.entries ++ [entry] } s

/-- The producer of a hand-off holds a credit (R31). -/
def hoCan (k : Nat) (s : State) : Bool := (getHo k s).credits != 0

/-- An entry leaves a hand-off: its credit returns (R31). An entry that a reset has flushed gives none back (R36). -/
def hoLeave (k : Nat) (entry : List Byte) (s : State) : State :=
  let x := getHo k s
  if x.entries.contains entry then
    setHo k { x with credits := Nat.min (hoDepth k) (x.credits + 1), entries := x.entries.erase entry } s
  else s

/-- The unit that consumes a hand-off, as the source of a fault (R34, R384). -/
def hoConsumer : HandoffId → Nat
  | .qmCore c => 0x1000 + c.val
  | .engStore c _ => 0x1000 + c.val
  | .sxNet c => 0x3000 + c.val / 64
  | .netPort p _ => 0x4000 + p.val
  | .sxStack _ st => 0x5000 + st.val
  | .dieBureau _ => 0x6002
  | .sensorLerfen => 0x6009

/-- The hand-offs that a test selects are flushed: once the reset of their side is done, their producers hold the full depth
(R36, R184). -/
def hoFlush (sel : Nat → Bool) (s : State) : State := { s with handoffs := s.handoffs.filter fun e => !sel e.1 }

/-- The hand-offs with one of these logical cores on one side. -/
def coreHandoffs (cores : List Nat) (k : Nat) : Bool := match hoCore k with
  | none => false
  | some c => cores.contains c

/-! The die collectors (R37, R384). -/

/-- The part of a record that a die collector fills in (R384); the Bureau adds class, reaction, SEQ and CRC. -/
def recBytes (source code parts : Nat) (info0 info1 : Word) (s : State) : List Byte :=
  leBytes 4 (code % 256 * 65536 + source % 65536) ++ leBytes 4 (parts * 2 ^ 28) ++ leBytes 4 info0.toNat
    ++ leBytes 4 info1.toNat ++ leBytes 4 (s.clk.w.toNat % 2 ^ 32)
    ++ leBytes 4 (s.clk.epoch.toNat * 65536 + s.clk.w.toNat / 2 ^ 32) ++ leBytes 8 0

/-- The collector of a die can send a record: it holds a credit, and none waits before it (R31, R35). -/
def collectorFree (d : Nat) (s : State) : Bool := hoCan (6656 + d) s && !(s.bur.held.any fun x => x.1 == d)

/-- A fault of a unit that the package finds itself: the record of a hub unit is written directly; that of a die's unit passes
the credited hand-off of its collector, which takes it and gives it to the Bureau within the same command, or waits there for a
credit (R35, R384, log entry 99). -/
def collected (code source info0 info1 : Nat) (direct : State → State) (s : State) : State :=
  match collectorDie source with
  | none => direct s
  | some d =>
    if collectorFree (d % 4) s then direct s
    else { s with bur := { s.bur with held := s.bur.held ++
      [(d % 4, recBytes source code (sourceParts source s) (BitVec.ofNat 32 info0) (BitVec.ofNat 32 info1) s)] } }

/-- A corrected or deferred fault of a unit, with PARTS by R475. -/
def softFault (code source info0 info1 : Nat) (s : State) : State :=
  collected code source info0 info1 (logFault code source (sourceParts source s) info0 info1) s

end Sys2Proof.Machine
end

