-- ==== Sys2Proof/Machine/Memory.lean ====
section
/-! DEFINITION. Memory: the local offset map (R39, R40, R136), the range checks (R41, R153, R418, R420, R141), reads and
writes with their ECC effects (R131, R138), sync objects (R116 to R118). -/

namespace Sys2Proof.Machine

abbrev stackEnd : Nat := 0x0F000000000
abbrev sramB : Nat := 0x10000000000
abbrev sramEnd : Nat := 0x100C0000000
abbrev cluStoreB : Nat := 0x100A0000000
abbrev regB : Nat := 0x18000000000
abbrev regEnd : Nat := 0x18008000000
abbrev coreStoreSize : Nat := 0xA00000
abbrev cluStoreSize : Nat := 0x1000000
abbrev dieRegion : Nat := 0x3C00000000

/-- The mapped ranges of R39. -/
inductive Region where
  | stack
  | sram
  | reg
  deriving DecidableEq, Repr

/-- The mapped range that holds a local offset. -/
def regionOf (a : Nat) : Option Region :=
  if a < stackEnd then some .stack
  else if sramB ≤ a ∧ a < sramEnd then some .sram
  else if regB ≤ a ∧ a < regEnd then some .reg
  else none

/-- The end of a mapped range. -/
def regionEnd : Region → Nat
  | .stack => stackEnd
  | .sram => sramEnd
  | .reg => regEnd

/-- The base of a core store (R40). -/
def coreStore (c : Nat) : Nat := sramB + c * coreStoreSize
/-- The base of a cluster store (R40). -/
def cluStore (k : Nat) : Nat := cluStoreB + k * cluStoreSize

/-- A range meets another. -/
def meets (a n b m : Nat) : Bool := decide (a < b + m ∧ b < a + n)

/-- A range lies within another. -/
def within (a n b m : Nat) : Bool := decide (b ≤ a ∧ a + n ≤ b + m)

/-- A range lies within the own core store or the own cluster store of a core (R48). -/
def inOwnStores (c a n : Nat) : Bool :=
  within a n (coreStore c) coreStoreSize || within a n (cluStore (c / 8)) cluStoreSize

/-- The cores whose stores a range of SRAM touches. -/
def coresIn (a n : Nat) : List Nat :=
  if n = 0 then [] else (List.range 256).filter fun c => meets a n (coreStore c) coreStoreSize

/-- The clusters whose own store or a core store of which a range touches. -/
def clustersIn (a n : Nat) : List Nat :=
  (List.range 32).filter fun k =>
    meets a n (cluStore k) cluStoreSize || meets a n (coreStore (8 * k)) (8 * coreStoreSize)

/-- The dies whose stacks or SRAM a range touches. -/
def diesIn (a n : Nat) : List Nat :=
  (List.range 4).filter fun d =>
    meets a n (d * dieRegion) dieRegion || meets a n (coreStore (64 * d)) (64 * coreStoreSize)
      || meets a n (cluStore (8 * d)) (8 * cluStoreSize)

/-- The stack of a local offset in the stack range (R136). -/
def stackOf (a : Nat) : Nat := 5 * (a / dieRegion) + (a % dieRegion / 4096) % 5

/-- A range touches a stack (R136): runs of 4 KiB rotate over the five stacks of a die. -/
def touchesStack (a n st : Nat) : Bool :=
  let b := st / 5 * dieRegion
  let lo := Nat.max a b
  let hi := Nat.min (a + n) (b + dieRegion)
  let g0 := (lo - b) / 4096
  let g1 := (hi - 1 - b) / 4096
  decide (lo < hi) && (List.range 5).any fun k => decide (g0 + k ≤ g1 ∧ (g0 + k) % 5 = st % 5)

/-- The stacks that a range touches. -/
def stacksIn (a n : Nat) : List Nat := if stackEnd ≤ a then [] else (List.range 20).filter (touchesStack a n)

/-- The range touches the queue descriptor table (R153). -/
def inTable (a n : Nat) (s : State) : Bool := meets a n (tableBase s.cab.cur) 0x4000000

/-- The partitions whose memory a range touches; an entry none stands for a die of no partition. The descriptor table
belongs to no partition (R153). -/
def ownersIn (a n : Nat) (s : State) : List (Option Nat) :=
  if within a n (tableBase s.cab.cur) 0x4000000 then [] else (diesIn a n).map (partOfDie s.cab.cur)

/-- On whose behalf memory is accessed. -/
inductive Who where
  /-- The work of a partition: its engines, COPY, FILL. -/
  | part (p : Nat)
  /-- The host function PF(p + 1). -/
  | pf (p : Nat)
  /-- PF0, the management ports and the hub firmware. -/
  | pf0
  /-- The queue manager acting for itself. -/
  | qm
  deriving DecidableEq, Repr

/-- A partition is reached by a requester (R418, R420). -/
def reachesPart (w : Who) (o : Option Nat) (s : State) : Bool :=
  match w with
  | .part p => o == some p
  | .pf p => o == some p && !sealBit s.cab.cur p
  | .pf0 => match o with
    | none => true
    | some p => !sealBit s.cab.cur p
  | .qm => true

/-- A doorbell page (R107): register space of the four windows of QM_DB_PART. -/
def inBellPages (a n : Nat) : Bool := within a n (regB + qmB + 0x40000) 0x40000

/-- Check 2 of R41: the range touches an unmapped range or runs from one mapped range into another. -/
def mappedStatus (a n : Nat) : BitVec 8 :=
  match regionOf a with
  | none => stWINDOW
  | some r => failIf (decide (regionEnd r < a + n)) stWINDOW

/-- Check 3 of R41 for a local range: partition isolation (R418, R420) and the descriptor table (R153). -/
def reachStatus (w : Who) (a n : Nat) (s : State) : BitVec 8 :=
  failIf ((ownersIn a n s).any (fun o => !reachesPart w o s)
    || (inTable a n s && (match w with | .pf0 => false | .qm => false | _ => true))) stDENIED

/-- Check 4 of R41: register space outside the doorbell pages. -/
def regSpaceStatus (w : Who) (a n : Nat) : BitVec 8 :=
  failIf (regionOf a == some .reg && !(inBellPages a n && (match w with | .part _ => true | _ => false))) stDENIED

/-- Check 5 of R41: a fenced cluster's SRAM or a stack not in service. -/
def fenceStatus (a n : Nat) (s : State) : BitVec 8 :=
  failIf ((clustersIn a n).any (fun k => !cluOk k s) || (stacksIn a n).any (fun st => !stackOk st s)) stFENCED

/-- The range belongs to a partition that is being scrubbed or reset, or is SRAM under a compute-part reset (R141, R361,
R362). -/
def drainStatus (a n : Nat) (s : State) : BitVec 8 :=
  failIf ((ownersIn a n s).any (fun o => match o with
      | none => false
      | some p => scrubbing p s || bitOf s.busyParts p)
    || (s.computeReset && regionOf a == some .sram)) stDRAINING

/-- Checks 2 to 5 of R41, then R141, for a local range that is not empty. -/
def rangeStatus (w : Who) (a n : Nat) (s : State) : BitVec 8 :=
  firstFail [mappedStatus a n, reachStatus w a n s, regSpaceStatus w a n, fenceStatus a n s, drainStatus a n s]

/-! Plain bytes. -/

/-- The canonical form of the bytes of the memory, and of the flash: offsets rise strictly and no listed byte is 0. -/
def Memory.wf (m : List Host.Cell) : Bool := twf (fun _ => 0) m

/-- The byte at a local offset; memory that nothing has written reads as 0 (R352, R355). -/
def memGet (a : Nat) (s : State) : Byte := tget (fun _ => 0) s.mem a

/-- The n bytes from a local offset. -/
def memBytes (a n : Nat) (s : State) : List Byte := (List.range n).map fun i => memGet (a + i) s

/-- The entries of a range of memory, keyed from its start. -/
def memSlice (a n : Nat) (s : State) : Tbl Byte := tslice a n s.mem

/-- The 32-bit word at a local offset. -/
def memW (a : Nat) (s : State) : Word := BitVec.ofNat 32 (leNat (memBytes a 4 s))

/-- The memory with a range replaced, without any ECC effect. -/
def memSet (a n : Nat) (sl : Tbl Byte) (s : State) : State := { s with mem := tput a n (tclean 0 n sl) s.mem }

/-- Memory answers now: no part of the range is fenced, scrubbed or under a reset (R25, R137, R141, R362). -/
def memOpen (a n : Nat) (s : State) : Bool := fenceStatus a n s == stOK && drainStatus a n s == stOK

/-! Granules moved by the stack controllers (R136, R145). -/

/-- The 64 B granules below granule x of a die region that lie on its stack k. -/
def granulesBelow (k x : Nat) : Nat := x / 320 * 64 + Nat.min 64 (x % 320 - 64 * k)

/-- The granules of a range that lie on a stack. -/
def granulesOn (a n st : Nat) : Nat :=
  let b := st / 5 * dieRegion
  let lo := Nat.max a b
  let hi := Nat.min (a + n) (b + dieRegion)
  if lo < hi then granulesBelow (st % 5) ((hi - 1 - b) / 64 + 1) - granulesBelow (st % 5) ((lo - b) / 64) else 0

/-- The lines of a cluster store that a range touches. -/
def linesOf (a n k : Nat) : Nat :=
  let lo := Nat.max a (cluStore k)
  let hi := Nat.min (a + n) (cluStore k + cluStoreSize)
  if lo < hi then (hi - 1) / 256 - lo / 256 + 1 else 0

/-- A range touches a channel of a stack (R136): bits [11:7] of an offset name the channel. -/
def touchesChan (a n st ch : Nat) : Bool :=
  let b := st / 5 * dieRegion
  let lo := Nat.max a b
  let hi := Nat.min (a + n) (b + dieRegion)
  let g0 := (lo - b) / 4096
  let g1 := (hi - 1 - b) / 4096
  let first := g0 + (st % 5 + 5 - g0 % 5) % 5
  let last := g1 - (g1 % 5 + 5 - st % 5) % 5
  decide (lo < hi ∧ first ≤ g1) &&
    [first, first + 5, last].any fun g => decide (g ≤ g1) && meets lo (hi - lo) (b + 4096 * g + 128 * ch) 128

/-- An access ends the idle time, and the power-down, of every channel that it touches (R133). -/
def noteChannels (a n : Nat) (s : State) : State :=
  forAll (stacksIn a n) (fun st s =>
    forAll ((List.range 32).filter (touchesChan a n st)) (fun ch s =>
      { s with chans := tset (fun _ => (0, false)) (32 * st + ch) (s.clk.now, false) s.chans }) s) s

/-- A read or a write of a range: MEM_GRANULES of every stack that it touches rises (R145), and the counters of granules
and of cluster-store lines count it (R396). -/
def noteAccess (write : Bool) (a n : Nat) (s : State) : State :=
  let s := noteChannels a n s
  let s := forAll ((stacksIn a n).filter fun st => stackOk st s) (fun st s =>
    countEvt (ctrMem st) (if write then 0x51 else 0x50) (granulesOn a n st)
      (regSet (memB st + oMEM_GRANULES) (regGet (memB st + oMEM_GRANULES) s + BitVec.ofNat 32 (granulesOn a n st)) s)) s
  forAll ((List.range 32).filter fun k => linesOf a n k != 0) (fun k =>
    countEvt (ctrClu k) (if write then 0x21 else 0x20) (linesOf a n k)) s

/-! ECC (R131, R138). A mark 1 is a single-bit error, 2 an uncorrectable word; SRAM words are 32 B, granules of the
stacks 64 B. In a stack, mark 3 is a parity error that the retry of the next access does not meet again, and mark 4 one
that it does (R138). -/

/-- Bytes of the protected unit at a local offset. -/
def eccUnit (a : Nat) : Nat := if a < stackEnd then 64 else 32

/-- The marks of the units that a range touches. -/
def marksIn (a n : Nat) (s : State) : Tbl Nat := s.ecc.filter fun c => meets a n c.1 (eccUnit c.1)

/-- Removes or sets the mark of a unit. -/
def setMark (a v : Nat) (s : State) : State := { s with ecc := tset (fun _ => 0) a v s.ecc }

/-- A mark of an uncorrectable unit. -/
def badMark (m : Nat) : Bool := m == 2 || m == 4

/-- The unit at a local offset is uncorrectable. -/
def isUE (a : Nat) (s : State) : Bool := badMark (tget (fun _ => 0) s.ecc (a / eccUnit a * eccUnit a))

/-- The registers, the event fields and the fault source of the store that holds an SRAM offset, with the offset within
the store (R144). -/
def storeRegs (a : Nat) : Nat × (Evt × Evt × Evt × Fld) × Nat × Nat :=
  if a < cluStoreB then
    let c := (a - sramB) / coreStoreSize
    (coreB c, (eCORE_STORE_ECC_CE, eCORE_STORE_ECC_UE, eCORE_STORE_ECC_PARTIAL_DROP, fCORE_STORE_UE_ADDR_OFFSET),
      0x1000 + c, (a - sramB) % coreStoreSize)
  else
    let k := (a - cluStoreB) / cluStoreSize
    (cluB k, (eCLU_STORE_ECC_CE, eCLU_STORE_ECC_UE, eCLU_STORE_ECC_PARTIAL_DROP, fCLU_STORE_UE_ADDR_OFFSET),
      0x2000 + k, (a - cluStoreB) % cluStoreSize)

/-- A single-bit error is corrected in the read path of SRAM (R131); the correction inside a stack is counted by patrol
alone (R138). -/
def noteCE (a : Nat) (s : State) : State :=
  if a < stackEnd then s
  else
    let r := storeRegs a
    softFault 0x02 r.2.2.1 r.2.2.2 0 (evt r.1 r.2.1.1 s)

/-- An uncorrectable word or granule is read (R131, R138). -/
def noteUE (a : Nat) (s : State) : State :=
  if a < stackEnd then
    let b := memB (stackOf a)
    let s := evt b eMEM_ECC_UE s
    let s := fset b fMEM_UE_ADDR_LO_ADDR_LO (a % 2 ^ 32) (fset b fMEM_UE_ADDR_HI_ADDR_HI (a / 2 ^ 32) s)
    softFault 0x07 (0x5000 + stackOf a) (a % 2 ^ 32) (a / 2 ^ 32) s
  else
    let r := storeRegs a
    softFault 0x03 r.2.2.1 r.2.2.2 0 (fset r.1 r.2.1.2.2.2 r.2.2.2 (evt r.1 r.2.1.2.1 s))

/-- A parity error of the stack that holds an offset has caused a retry (R138). -/
def noteParity (a : Nat) (s : State) : State :=
  softFault 0x06 (0x5000 + stackOf a) (a % 2 ^ 32) (a / 2 ^ 32) (evt (memB (stackOf a)) eMEM_ECC_PARITY s)

/-- The effects of an access to a stack granule with a mark (R138): a parity error is retried once, and a second failure
makes the granule uncorrectable. -/
def granuleMark (c : Nat × Nat) (s : State) : State :=
  if c.2 = 2 then noteUE c.1 s
  else if c.2 = 3 then setMark c.1 0 (noteParity c.1 s)
  else if c.2 = 4 then noteUE c.1 (setMark c.1 2 (noteParity c.1 s))
  else noteCE c.1 s

/-- A write of part of an uncorrectable SRAM word is dropped (R131). -/
def notePartial (a : Nat) (s : State) : State :=
  let r := storeRegs a
  softFault 0x04 r.2.2.1 r.2.2.2 0 (evt r.1 r.2.1.2.2.1 s)

/-- The ECC effects of reading a list of marked units. -/
def noteMarks (l : Tbl Nat) (s : State) : State :=
  forAll l (fun c => if c.1 < stackEnd then granuleMark c else if c.2 = 2 then noteUE c.1 else noteCE c.1) s

/-- The ECC effects of reading a whole range, as MX and VX read it (R131), with whether a unit was uncorrectable. -/
def readAll (a n : Nat) (s : State) : State × Bool :=
  (noteMarks (marksIn a n s) (noteAccess false a n s), (marksIn a n s).any fun c => badMark c.2)

/-- The ECC effects of a read by SX, which stops at the first uncorrectable unit (R131): the state and the number of
bytes read before it. -/
def readUpTo (a n : Nat) (s : State) : State × Nat :=
  match (marksIn a n s).find? fun c => badMark c.2 with
  | none => (noteMarks (marksIn a n s) (noteAccess false a n s), n)
  | some u => (noteMarks ((marksIn a n s).filter fun c => decide (c.1 ≤ u.1)) (noteAccess false a (Nat.max u.1 a + 1 - a) s), u.1 - a)

/-- A write's effect on one marked unit: a whole unit clears the mark; part of an uncorrectable SRAM word is dropped;
part of a word with a single-bit error corrects it (R131). -/
def writeMark (a n : Nat) (old : Tbl Byte) (c : Nat × Nat) (s : State) : State :=
  let parity : Bool := decide (c.1 < stackEnd) && decide (3 ≤ c.2)
  let s := if parity then noteParity c.1 s else s
  if within c.1 (eccUnit c.1) a n then setMark c.1 0 s
  else if badMark c.2 then
    (if c.1 < stackEnd then setMark c.1 2 s
     else notePartial c.1 (memSet c.1 (eccUnit c.1) (tslice c.1 (eccUnit c.1) old) s))
  else setMark c.1 0 (noteCE c.1 s)

/-- The function whose MSI-X serves a sync object: that of the partition whose range holds it, or PF0 (R440). -/
def syncPf (a : Nat) (s : State) : Nat :=
  match (ownersIn a 1 s).head? with
  | some (some p) => p + 1
  | _ => 0

/-- The interrupt of a sync object is not armed. -/
def disarmSync (a : Nat) (s : State) : State := { s with armed := s.armed.filter fun x => x.1 != a }

/-- Raises the interrupt of a sync object and disarms it (R116). -/
def fireSync (a : Nat) (s : State) : State := raiseVec (syncPf a s) ((memW (a + 4) s).toNat % 65536) (disarmSync a s)

/-- The effect of a write of the word at 0x04 of a sync object (R116): IRQ_EN arms the interrupt with the IRQ_TARGET that
memory holds now, or raises it at once if VALUE already reaches it; a word without IRQ_EN leaves it disarmed. -/
def syncArm (a : Nat) (s : State) : State :=
  let s := disarmSync a s
  if bitOf (memW (a + 4) s).toNat 31 then
    (if reaches32 (memW a s) (memW (a + 8) s) then fireSync a s
     else { s with armed := (a, memW (a + 8) s) :: s.armed })
  else s

/-- The word at 0x04 of a sync object asks for an interrupt: IRQ_EN is 1 (R116). -/
def armForm (a : Nat) (s : State) : Bool := bitOf (memW (a + 4) s).toNat 31

/-- The objects that a write of n bytes at a arms: it covers their whole word at 0x04 with IRQ_EN set, and their word has not
been kept back as part of an uncorrectable one (R116, R131; log entry 27). -/
def armedBy (a n : Nat) (sl : Tbl Byte) (s : State) : List Nat :=
  (((tclean 0 n sl).filter fun c => decide ((a + c.1) % 16 = 7 ∧ 3 ≤ c.1 ∧ 128 ≤ c.2.toNat)).map fun c =>
    a + c.1 - 7).filter fun o => armForm o s && !isUE o s

/-- A write over the word at 0x04 of an armed object takes its arming away. -/
def disarmIn (a n : Nat) (s : State) : State :=
  { s with armed := s.armed.filter fun x => !within (x.1 + 4) 4 a n || isUE x.1 s }

/-- Writes n bytes, given by their entries that are not 0, with the ECC effects (R131). -/
def memPut (a n : Nat) (sl : Tbl Byte) (s : State) : State :=
  if n = 0 then s else forAll (marksIn a n s) (writeMark a n s.mem) (memSet a n sl (noteAccess true a n s))

/-- Writes n bytes as memPut, with the arming of the interrupts of sync objects (R116). -/
def memStore (a n : Nat) (sl : Tbl Byte) (s : State) : State :=
  let t := memPut a n sl s
  forAll (armedBy a n sl t) syncArm (disarmIn a n t)

/-- Writes a byte string. -/
def memWrite (a : Nat) (l : List Byte) (s : State) : State := memStore a l.length (sparse 0 l) s

/-- Wakes the waiters of a sync object whose target its VALUE reaches (R118). -/
def wake (a : Nat) (s : State) : State :=
  { s with waiters := s.waiters.map fun w =>
      if w.addr = a ∧ reaches32 (memW a s) w.target then { w with woken := true } else w }

/-- The interrupt of a sync object is armed and VALUE reaches the target with which it was armed (R116). -/
def syncDue (a : Nat) (s : State) : Bool := s.armed.any fun x => x.1 == a && reaches32 (memW a s) x.2

/-- ADD to a sync object (R117): not applied in an uncorrectable word; else VALUE rises, and where it changes every waiter
is evaluated again and an armed interrupt fires at its target (R116, R118). -/
def syncAddAt (a : Nat) (v : Word) (s : State) : State :=
  if isUE a s then noteMarks (marksIn a 4 s) (noteAccess false a 4 s)
  else
    let s := memWrite a (leBytes 4 (memW a s + v).toNat) s
    if v = 0 then s
    else
      let s := wake a s
      if syncDue a s then fireSync a s else s

/-- ADD of a completion or of NOTIFY: an offset of 0 names no object. -/
def notifyAt (a : Nat) (v : Word) (s : State) : State := if a = 0 then s else syncAddAt a v s

/-- A wait on a sync object: whether it may go on, and the state with the wait recorded (R118). VALUE is read as the wait
begins, with the ECC effects of a read; in an uncorrectable word it reaches no target (R117, R138). -/
def waitSync (w : Waiter) (s : State) : Bool × State :=
  let mine := fun (x : Waiter) => x.isCore == w.isCore && x.id == w.id && x.idx == w.idx
  match s.waiters.find? mine with
  | some x => if x.woken then (true, { s with waiters := s.waiters.filter fun y => !mine y }) else (false, s)
  | none =>
    let r := readAll w.addr 4 s
    if !r.2 && reaches32 (memW w.addr s) w.target then (true, r.1)
    else (false, { r.1 with waiters := s.waiters ++ [w] })

/-- A valid place of a sync object (R116): aligned to 16 B in SRAM or stack memory. -/
def syncPlaceOk (a : Nat) : Bool :=
  decide (a % 16 = 0) && (regionOf a == some .stack || regionOf a == some .sram)

/-- The check of the place of a sync object that work of partition p names (R41, R116, R418). DESIGN CHOICE (log entry 81):
a place that is not aligned or no memory is DENIED. -/
def syncStatus (p a : Nat) (s : State) : BitVec 8 := firstFail [rangeStatus (.part p) a 16 s, failIf (!syncPlaceOk a) stDENIED]

end Sys2Proof.Machine
end

