-- ==== Sys2Proof/Machine/Num.lean ====
section
/-! DEFINITION. Numbers: exact values, the formats of R53 and W48 (R65), their decoding, and the conversion of R70 and R71
with its flags. -/

namespace Sys2Proof.Machine

/-- An exact value: NaN, an infinity, or (-1)^neg * n / d with d above 0; n = 0 keeps the sign of a zero. -/
inductive Val where
  | nan
  | inf (neg : Bool)
  | fin (neg : Bool) (n d : Nat)
  deriving DecidableEq, Repr

/-! Flags of an instruction, as the bits of CORE_ENG_FLAGS (R82). -/

abbrev flNV : Nat := 1
abbrev flOF : Nat := 2
abbrev flUF : Nat := 4
abbrev flT5 : Nat := 8
abbrev flSN : Nat := 16

/-- The code by which the model names W48 beside the sixteen codes of R53. -/
abbrev fmtW48 : Nat := 16

/-- A floating-point layout: exponent and fraction width, bias, sign bit, and the kind of special values: 0 IEEE 754,
1 E4M3, 2 none. -/
structure FltFmt where
  ew   : Nat
  mw   : Nat
  bias : Nat
  sgn  : Bool
  spec : Nat
  deriving DecidableEq, Repr

/-- The floating-point formats (R53, R65). -/
def fltFmt : Nat → Option FltFmt
  | 0x0 => some ⟨8, 23, 127, true, 0⟩
  | 0x1 => some ⟨8, 7, 127, true, 0⟩
  | 0x2 => some ⟨5, 10, 15, true, 0⟩
  | 0x3 => some ⟨5, 2, 15, true, 0⟩
  | 0x4 => some ⟨4, 3, 7, true, 1⟩
  | 0x5 => some ⟨3, 2, 3, true, 2⟩
  | 0x6 => some ⟨2, 3, 1, true, 2⟩
  | 0x7 => some ⟨2, 1, 1, true, 2⟩
  | 0xF => some ⟨4, 4, 7, false, 2⟩
  | 16 => some ⟨10, 37, 511, true, 0⟩
  | _ => none

/-- The integer formats: width in bits (R53). -/
def intWidth : Nat → Option Nat
  | 0x8 => some 32
  | 0x9 => some 16
  | 0xA => some 8
  | 0xB => some 4
  | 0xC => some 2
  | _ => none

/-- The bits of one element; T5 packs five to a byte and is counted apart. -/
def fmtBits : Nat → Nat
  | 0x0 => 32
  | 0x1 => 16
  | 0x2 => 16
  | 0x3 => 8
  | 0x4 => 8
  | 0x5 => 6
  | 0x6 => 6
  | 0x7 => 4
  | 0x8 => 32
  | 0x9 => 16
  | 0xA => 8
  | 0xB => 4
  | 0xC => 2
  | 0xD => 2
  | 16 => 48
  | _ => 8

/-- The byte length of a packed run of n elements (R59). -/
def packedLen (fmt n : Nat) : Nat :=
  match fmt with
  | 0x5 => 3 * ((n + 3) / 4)
  | 0x6 => 3 * ((n + 3) / 4)
  | 0x7 => (n + 1) / 2
  | 0xB => (n + 1) / 2
  | 0xC => (n + 3) / 4
  | 0xD => (n + 4) / 5
  | f => n * (fmtBits f / 8)

/-- n * 2^x as a fraction. -/
def scaled (neg : Bool) (n : Nat) (x : Int) : Val :=
  if 0 ≤ x then .fin neg (n * 2 ^ x.toNat) 1 else .fin neg n (2 ^ (-x).toNat)

/-- The value of a floating-point encoding (R53). -/
def fltVal (f : FltFmt) (v : Nat) : Val :=
  let m := bitsOf v (f.mw - 1) 0
  let e := bitsOf v (f.ew + f.mw - 1) f.mw
  let neg := f.sgn && bitOf v (f.ew + f.mw)
  if f.spec = 0 ∧ e = 2 ^ f.ew - 1 then (if m = 0 then .inf neg else .nan)
  else if f.spec = 1 ∧ e = 2 ^ f.ew - 1 ∧ m = 2 ^ f.mw - 1 then .nan
  else if e = 0 then scaled neg m (1 - (f.bias : Int) - f.mw)
  else scaled neg (2 ^ f.mw + m) ((e : Int) - f.bias - f.mw)

/-- The value of an integer as a Val. -/
def intVal (i : Int) : Val := .fin (decide (i < 0)) i.natAbs 1

/-- The value of a two's complement number of w bits. -/
def twosVal (w v : Nat) : Int := if v % 2 ^ w < 2 ^ (w - 1) then (v % 2 ^ w : Nat) else (v % 2 ^ w : Nat) - (2 ^ w : Nat)

/-- The weight of digit i of a T5 byte (R55); an invalid byte holds five zeros (R56). -/
def t5Digit (b i : Nat) : Int :=
  if 243 ≤ b then 0 else match b / 3 ^ i % 3 with
    | 0 => 0
    | 1 => 1
    | _ => -1

/-- The value of an element's bits in a format; T5 takes the digit code 0, 1, 2. -/
def decVal (fmt v : Nat) : Val :=
  match fltFmt fmt with
  | some f => fltVal f v
  | none =>
    match intWidth fmt with
    | some w => intVal (twosVal w v)
    | none =>
      if fmt = 0xE then (if v % 256 = 255 then .nan else scaled false 1 ((v % 256 : Nat) - (127 : Int)))
      else intVal (t5Digit (v % 3) 0)

/-! Exact arithmetic. -/

/-- The sign of a value. -/
def Val.isNeg : Val → Bool
  | .nan => false
  | .inf s => s
  | .fin s _ _ => s

/-- A value is a zero. -/
def Val.isZero : Val → Bool
  | .fin _ n _ => n == 0
  | _ => false

/-- A value is NaN. -/
def Val.isNan : Val → Bool
  | .nan => true
  | _ => false

/-- A value is infinite. -/
def Val.isInf : Val → Bool
  | .inf _ => true
  | _ => false

def Val.negate : Val → Val
  | .nan => .nan
  | .inf s => .inf (!s)
  | .fin s n d => .fin (!s) n d

def Val.absVal : Val → Val
  | .nan => .nan
  | .inf _ => .inf false
  | .fin _ n d => .fin false n d

/-- The signed numerator over a common denominator. -/
def signed (s : Bool) (n : Nat) : Int := if s then -(n : Int) else n

/-- The exact sum with its flags: the sum of opposite infinities is NaN and sets NV; an exact zero of unlike signs is +0,
or -0 under RDN (IEEE 754). -/
def vAdd (rdn : Bool) (a b : Val) : Val × Nat :=
  match a, b with
  | .nan, _ => (.nan, 0)
  | _, .nan => (.nan, 0)
  | .inf s, .inf t => if s = t then (.inf s, 0) else (.nan, flNV)
  | .inf s, _ => (.inf s, 0)
  | _, .inf t => (.inf t, 0)
  | .fin s n d, .fin t m e =>
    let l := Nat.lcm d e
    let x := signed s (n * (l / d)) + signed t (m * (l / e))
    if x = 0 then (.fin (if s = t then s else rdn) 0 1, 0) else (.fin (decide (x < 0)) x.natAbs l, 0)

/-- The exact product with its flags: infinity times 0 is NaN and sets NV. -/
def vMul (a b : Val) : Val × Nat :=
  match a, b with
  | .nan, _ => (.nan, 0)
  | _, .nan => (.nan, 0)
  | .inf s, y => if y.isZero then (.nan, flNV) else (.inf (s != y.isNeg), 0)
  | x, .inf t => if x.isZero then (.nan, flNV) else (.inf (x.isNeg != t), 0)
  | .fin s n d, .fin t m e => (.fin (s != t) (n * m) (d * e), 0)

/-- The exact quotient; a divisor of 0 gives 0, infinity by infinity is NaN. -/
def vDiv (a b : Val) : Val :=
  match a, b with
  | .inf _, .inf _ => .nan
  | .inf _, .nan => .nan
  | .fin s n d, .fin t m e => if m = 0 then .fin false 0 1 else .fin (s != t) (n * e) (d * m)
  | .inf s, y => .inf (s != y.isNeg)
  | .fin _ _ _, .inf _ => .fin false 0 1
  | _, _ => .nan

/-- a is less than b; false when either is NaN. -/
def vLt (a b : Val) : Bool :=
  match a, b with
  | .nan, _ => false
  | _, .nan => false
  | .inf s, .inf t => s && !t
  | .inf s, _ => s
  | _, .inf t => !t
  | .fin s n d, .fin t m e => decide (signed s (n * e) < signed t (m * d))

/-- a equals b; false when either is NaN. -/
def vEq (a b : Val) : Bool :=
  match a, b with
  | .nan, _ => false
  | _, .nan => false
  | .inf s, .inf t => s == t
  | .fin s n d, .fin t m e => signed s (n * e) == signed t (m * d)
  | _, _ => false

/-- The IEEE 754-2019 maximum: NaN when either input is NaN, +0 above -0. -/
def vMax (a b : Val) : Val :=
  if a.isNan || b.isNan then .nan
  else if vLt a b then b
  else if vLt b a then a
  else if a.isNeg then b else a

/-- The IEEE 754-2019 minimum: NaN when either input is NaN, -0 below +0. -/
def vMin (a b : Val) : Val :=
  if a.isNan || b.isNan then .nan
  else if vLt a b then a
  else if vLt b a then b
  else if a.isNeg then a else b

/-! Rounding (R70). RND: 0 RNE, 1 RTZ, 2 RDN, 3 RUP. -/

/-- Rounds n / d to a natural number under a mode, for a value of the given sign. -/
def rndNat (rnd : Nat) (neg : Bool) (n d : Nat) : Nat :=
  let q := n / d
  let r := n % d
  match rnd with
  | 0 => if 2 * r > d ∨ (2 * r = d ∧ q % 2 = 1) then q + 1 else q
  | 1 => q
  | 2 => if neg ∧ r ≠ 0 then q + 1 else q
  | _ => if !neg ∧ r ≠ 0 then q + 1 else q

/-- The exponent of the largest power of two at or below n / d, for n above 0. -/
def floorLog2 (n d : Nat) : Int :=
  let l : Int := (Nat.log2 n : Int) - Nat.log2 d
  let below : Bool := if 0 ≤ l then decide (n < d * 2 ^ l.toNat) else decide (n * 2 ^ (-l).toNat < d)
  if below then l - 1 else l

/-- n / d divided by 2^x, as numerator and denominator. -/
def unscale (n d : Nat) (x : Int) : Nat × Nat := if 0 ≤ x then (n, d * 2 ^ x.toNat) else (n * 2 ^ (-x).toNat, d)

/-- A finite value above 0 rounded at quantum 2^x: mantissa and whether it is inexact. -/
def rndAt (rnd : Nat) (neg : Bool) (n d : Nat) (x : Int) : Nat × Bool :=
  let u := unscale n d x
  (rndNat rnd neg u.1 u.2, decide (u.1 % u.2 ≠ 0))

/-- The largest finite encoding of a format, without its sign. -/
def fltMax (f : FltFmt) : Nat :=
  match f.spec with
  | 0 => (2 ^ f.ew - 2) * 2 ^ f.mw + (2 ^ f.mw - 1)
  | 1 => (2 ^ f.ew - 1) * 2 ^ f.mw + (2 ^ f.mw - 2)
  | _ => 2 ^ (f.ew + f.mw) - 1

/-- The encoding of infinity of an IEEE format, without its sign. -/
def fltInf (f : FltFmt) : Nat := (2 ^ f.ew - 1) * 2 ^ f.mw

/-- The canonical NaN (R71). -/
def fltNan (f : FltFmt) : Nat :=
  match f.spec with
  | 0 => (2 ^ f.ew - 1) * 2 ^ f.mw + 2 ^ (f.mw - 1)
  | 1 => 2 ^ (f.ew + f.mw) - 1
  | _ => 0

/-- The sign bit of a format. -/
def fltSign (f : FltFmt) (neg : Bool) : Nat := if neg && f.sgn then 2 ^ (f.ew + f.mw) else 0

/-- The IEEE 754 overflow result for a rounding mode: infinity or the largest finite value. -/
def overflowInf (rnd : Nat) (neg : Bool) : Bool :=
  match rnd with
  | 0 => true
  | 1 => false
  | 2 => neg
  | _ => !neg

/-- The result of a magnitude above the largest finite value (R71). -/
def fltOverflow (f : FltFmt) (rnd : Nat) (sat neg : Bool) : Nat :=
  if sat ∨ f.spec = 2 then fltSign f neg + fltMax f
  else if f.spec = 1 then fltNan f
  else fltSign f neg + (if overflowInf rnd neg then fltInf f else fltMax f)

/-- Rounds a finite value above 0 into a floating-point format, with its flags (R70, R71). -/
def encFin (f : FltFmt) (rnd : Nat) (sat neg : Bool) (n d : Nat) : Nat × Nat :=
  let e := floorLog2 n d
  let emin : Int := 1 - (f.bias : Int)
  let qe : Int := (if e < emin then emin else e) - f.mw
  let r := rndAt rnd neg n d qe
  let carry : Bool := decide (2 ^ (f.mw + 1) ≤ r.1)
  let mant := if carry then r.1 / 2 else r.1
  let q := if carry then qe + 1 else qe
  let ef : Nat := if mant < 2 ^ f.mw then 0 else (q + f.mw + f.bias).toNat
  let code := if mant < 2 ^ f.mw then mant else ef * 2 ^ f.mw + (mant - 2 ^ f.mw)
  let ub := rndAt rnd neg n d (e - f.mw)
  let tiny : Bool := decide (e < emin) && !(decide (2 ^ (f.mw + 1) ≤ ub.1) && decide (e + 1 = emin))
  if fltMax f < code then (fltOverflow f rnd sat neg, flOF)
  else (fltSign f neg + code, if tiny && r.2 then flUF else 0)

/-- Converts a value into a floating-point format (R71). -/
def encFlt (f : FltFmt) (rnd : Nat) (sat : Bool) (v : Val) : Nat × Nat :=
  match v with
  | .nan => (fltNan f, flNV)
  | .inf neg =>
    if !f.sgn then (if neg then 0 else fltMax f, flNV)
    else match f.spec with
      | 0 => (fltSign f neg + fltInf f, 0)
      | 1 => (if sat then fltSign f neg + fltMax f else fltNan f, flNV)
      | _ => (fltSign f neg + fltMax f, flNV)
  | .fin neg n d =>
    if n = 0 then (0, 0)
    else if !f.sgn && neg then (0, flNV)
    else encFin f rnd sat neg n d

/-- Converts a value into a two's complement integer between lo and hi (R70, R71). -/
def encInt (lo hi : Int) (w rnd : Nat) (v : Val) : Nat × Nat :=
  let put (i : Int) : Nat := (i % (2 ^ w : Nat)).toNat
  match v with
  | .nan => (0, flNV)
  | .inf neg => (put (if neg then lo else hi), flNV)
  | .fin neg n d =>
    let i := signed neg (rndNat rnd neg n d)
    if hi < i then (put hi, flOF) else if i < lo then (put lo, flOF) else (put i, 0)

/-- Converts a value into E8M0 (R71). -/
def encE8 (rnd : Nat) (sat : Bool) (v : Val) : Nat × Nat :=
  match v with
  | .nan => (0xFF, flNV)
  | .inf neg => if neg then (0xFF, flNV) else (if sat then 0xFE else 0xFF, flNV)
  | .fin neg n d =>
    if n = 0 then (0, flUF)
    else if neg then (0xFF, flNV)
    else
      let e := floorLog2 n d
      let u := unscale n d e
      let up : Bool := match rnd with
        | 0 => decide (2 * u.1 > 3 * u.2) || (decide (2 * u.1 = 3 * u.2) && decide ((e + 127) % 2 ≠ 0))
        | 3 => decide (u.1 ≠ u.2)
        | _ => false
      let k := if up then e + 1 else e
      if k < -127 then (0, flUF)
      else if 127 < k then (if sat then 0xFE else 0xFF, flOF)
      else ((k + 127).toNat, 0)

/-- Converts a value into a format, with the flags of R71; T5 gives the digit code 0, 1, 2. -/
def encVal (fmt rnd : Nat) (sat : Bool) (v : Val) : Nat × Nat :=
  match fltFmt fmt with
  | some f => encFlt f rnd sat v
  | none =>
    match intWidth fmt with
    | some w => encInt (-(2 ^ (w - 1) : Nat)) ((2 ^ (w - 1) : Nat) - 1) w rnd v
    | none =>
      if fmt = 0xE then encE8 rnd sat v
      else
        let r := encInt (-1) 1 2 rnd v
        (if r.1 = 3 then 2 else r.1, r.2)

/-- Converts a value into a format and keeps the sign of a zero in F32, BF16 and F16, as VX arithmetic does (R71). -/
def encArith (fmt rnd : Nat) (sat : Bool) (v : Val) : Nat × Nat :=
  match v, fltFmt fmt with
  | .fin true 0 _, some f => (fltSign f true, 0)
  | _, _ => encVal fmt rnd sat v

/-- Rounds an accumulator value to W48 (R66, R67): to nearest-even, overflow to infinity, every zero +0, NaN without a
flag of its own. -/
def roundW48 (v : Val) : Nat × Nat :=
  match v with
  | .nan => (0x7FF000000000, 0)
  | _ =>
    let r := encVal fmtW48 0 false v
    (if r.1 % 2 ^ 47 = 0 then 0 else r.1, r.2)

/-! Packed elements (R57). -/

/-- The bits of element i of a packed run; T5 gives its digit code. -/
def elemBits (fmt : Nat) (l : List Byte) (i : Nat) : Nat :=
  match fmt with
  | 0xD => let b := (l.getD (i / 5) 0).toNat; if 243 ≤ b then 0 else b / 3 ^ (i % 5) % 3
  | 0x5 => bitsOf (leNat (bytesAt l (3 * (i / 4)) 3)) (6 * (i % 4) + 5) (6 * (i % 4))
  | 0x6 => bitsOf (leNat (bytesAt l (3 * (i / 4)) 3)) (6 * (i % 4) + 5) (6 * (i % 4))
  | f =>
    let w := fmtBits f
    if w < 8 then bitsOf (l.getD (i * w / 8) 0).toNat (i * w % 8 + w - 1) (i * w % 8)
    else leNat (bytesAt l (i * (w / 8)) (w / 8))

/-- The value of element i of a packed run. -/
def elemVal (fmt : Nat) (l : List Byte) (i : Nat) : Val := decVal fmt (elemBits fmt l i)

/-- Groups of g elements of w bits each, as bytes. -/
def packGroups (g w bytes : Nat) (n : Nat) (l : List Nat) : List Byte :=
  (List.range ((n + g - 1) / g)).flatMap fun j =>
    leBytes bytes ((List.range g).foldl (fun a i => a + (l.getD (g * j + i) 0 % 2 ^ w) * 2 ^ (w * i)) 0)

/-- A run of elements packed (R57). -/
def packElems (fmt : Nat) (l : List Nat) : List Byte :=
  match fmt with
  | 0xD => (List.range ((l.length + 4) / 5)).map fun j =>
      BitVec.ofNat 8 ((List.range 5).foldl (fun a i => a + (l.getD (5 * j + i) 0 % 3) * 3 ^ i) 0)
  | 0x5 => packGroups 4 6 3 l.length l
  | 0x6 => packGroups 4 6 3 l.length l
  | 0x7 => packGroups 2 4 1 l.length l
  | 0xB => packGroups 2 4 1 l.length l
  | 0xC => packGroups 4 2 1 l.length l
  | f => l.flatMap fun v => leBytes (fmtBits f / 8) v

/-- The largest finite magnitude of an element format, as a value (R54, R79). -/
def maxMag (fmt : Nat) : Val :=
  match fltFmt fmt with
  | some f => fltVal f (fltMax f)
  | none =>
    match intWidth fmt with
    | some w => .fin false (2 ^ (w - 1) - 1) 1
    | none => .fin false 1 1

end Sys2Proof.Machine
end

