-- ==== Sys2Proof/Machine/Operands.lean ====
section
/-! DEFINITION. Operand forms: bundle slots (R94 to R101), matrix and stream descriptors with their checks (R47, R60, R64,
R70, R73, R74, R99, R101), the VX slot and its lanes (R77, R100), slice global addresses (R38, R311), shelves (R155). -/

namespace Sys2Proof.Machine

/-! Engines: 0 MX0, 1 MX1, 2 VX, 3 SX. -/

/-- The 64-bit slot of an engine within a bundle of 32 bytes (R94). -/
def bundleSlot (b : List Byte) : Nat → Nat
  | 0 => leNat (bytesAt b 8 4)
  | 1 => leNat (bytesAt b 12 4)
  | 2 => leNat (bytesAt b 16 8)
  | _ => leNat (bytesAt b 24 8)

/-- The operation field of an engine slot; 0 is a NOP (R94). -/
def slotOp (e w : Nat) : Nat :=
  match e with
  | 0 => bitsOf w 31 28
  | 1 => bitsOf w 31 28
  | 2 => bitsOf w 63 56
  | _ => bitsOf w 63 60

/-- POST_EN of an engine slot. -/
def slotPostEn (e w : Nat) : Bool :=
  match e with
  | 0 => bitOf w 27
  | 1 => bitOf w 27
  | 2 => bitOf w 55
  | _ => bitOf w 59

/-- POST_LEC of an engine slot. -/
def slotPostLec (e w : Nat) : Nat :=
  match e with
  | 0 => bitsOf w 26 23
  | 1 => bitsOf w 26 23
  | 2 => bitsOf w 54 51
  | _ => bitsOf w 58 55

/-! Matrix engine (R47, R60, R64, R72 to R74, R99). -/

/-- K_c of a pair of operand formats; none where the pair is refused (R47). -/
def kC (b a : Nat) : Option Nat :=
  let is16 (f : Nat) : Bool := f == 1 || f == 2
  let is8 (f : Nat) : Bool := f == 3 || f == 4 || f == 5 || f == 6 || f == 0xA
  let is4 (f : Nat) : Bool := f == 7 || f == 0xB
  let is2 (f : Nat) : Bool := f == 0xD || f == 0xC
  if b = 0 ∧ a = 0 then some 4
  else if is16 b && is16 a then some 32
  else if is8 b && is8 a then some 64
  else if is8 b && is16 a then some 32
  else if is4 b && is4 a then some 128
  else if is4 b && is8 a then some 64
  else if is4 b && is16 a then some 32
  else if is2 b && (is8 a || is4 a) then some 256
  else if is2 b && is16 a then some 32
  else none

/-- A scaling mode is allowed for an element format (R60). -/
def scaleAllowed (mode f : Nat) : Bool :=
  match mode with
  | 0 => true
  | 1 => f == 3 || f == 4 || f == 5 || f == 6 || f == 7 || f == 0xA || f == 0xB || f == 0xC || f == 0xD
  | 2 => f == 4 || f == 5 || f == 6 || f == 7 || f == 0xA || f == 0xB || f == 0xC || f == 0xD
  | _ => false

/-- The block length of a pair of scaling modes; none where they do not meet R64. -/
def blockLen (am bm a b : Nat) : Option Nat :=
  match am, bm with
  | 0, 0 => some (if a = 0 ∧ b = 0 then 4 else 32)
  | 0, 1 => some 32
  | 0, 2 => some 16
  | 1, 0 => some 32
  | 2, 0 => some 16
  | 1, 1 => some 32
  | 2, 2 => some 16
  | _, _ => none

/-- A matrix descriptor (R99) with its format word (R72) taken apart. -/
structure MxDesc where
  word    : Nat
  aFmt    : Nat
  bFmt    : Nat
  outFmt  : Nat
  aScale  : Nat
  bScale  : Nat
  rnd     : Nat
  sat     : Bool
  accIn   : Bool
  rawOut  : Bool
  aTs     : Bool
  bTs     : Bool
  m       : Nat
  k       : Nat
  aAddr   : Nat
  aPitch  : Nat
  bAddr   : Nat
  cAddr   : Nat
  cPitch  : Nat
  saAddr  : Nat
  sbAddr  : Nat
  taAddr  : Nat
  tbAddr  : Nat
  deriving DecidableEq, Repr

/-- Reads a matrix descriptor; USE_CFG takes RND and SAT from CORE_ENG_CFG (R72). -/
def mxDesc (odt : List Byte) (cfg : Nat) : MxDesc :=
  let w := le32 odt 0
  let use := bitOf w 12
  { word := w, aFmt := bitsOf w 31 28, bFmt := bitsOf w 27 24, outFmt := bitsOf w 23 20,
    aScale := bitsOf w 19 18, bScale := bitsOf w 17 16,
    rnd := if use then bitsOf cfg 5 4 else bitsOf w 15 14, sat := if use then bitOf cfg 3 else bitOf w 13,
    accIn := bitOf w 11, rawOut := bitOf w 10, aTs := bitOf w 9, bTs := bitOf w 8,
    m := bitsOf (le32 odt 4) 31 24, k := bitsOf (le32 odt 4) 23 0,
    aAddr := sramB + le32 odt 0x08, aPitch := le32 odt 0x0C, bAddr := sramB + le32 odt 0x10,
    cAddr := sramB + le32 odt 0x14, cPitch := le32 odt 0x18,
    saAddr := sramB + le32 odt 0x1C, sbAddr := sramB + le32 odt 0x20,
    taAddr := sramB + le32 odt 0x24, tbAddr := sramB + le32 odt 0x28 }

/-- The bytes of one output row of C (R74). -/
def mxOutRow (d : MxDesc) : Nat := if d.rawOut then 384 else 64 * (fmtBits d.outFmt / 8)

/-- The block length of the accumulation (R64). -/
def mxBlock (d : MxDesc) : Nat := (blockLen d.aScale d.bScale d.aFmt d.bFmt).getD 32

/-- The number of blocks along K. -/
def mxBlocks (d : MxDesc) : Nat := (d.k + mxBlock d - 1) / mxBlock d

/-- The ranges that the window check of an MX instruction covers, with their lengths (R74). -/
def mxRanges (d : MxDesc) : List (Nat × Nat) :=
  [(d.aAddr, (d.m - 1) * d.aPitch + packedLen d.aFmt d.k), (d.bAddr, packedLen d.bFmt (d.k * 64)),
   (d.cAddr, (d.m - 1) * d.cPitch + mxOutRow d)]
  ++ (if d.aScale = 0 then [] else [(d.saAddr, d.m * mxBlocks d)])
  ++ (if d.bScale = 0 then [] else [(d.sbAddr, 64 * mxBlocks d)])
  ++ (if d.aTs then [(d.taAddr, 4)] else []) ++ (if d.bTs then [(d.tbAddr, 4)] else [])

/-- Step 1 of R17 for a matrix descriptor (R73, R99). -/
def mxEncodings (d : MxDesc) (odt : List Byte) : BitVec 8 :=
  failIf ((kC d.bFmt d.aFmt).isNone || (blockLen d.aScale d.bScale d.aFmt d.bFmt).isNone
    || !scaleAllowed d.aScale d.aFmt || !scaleAllowed d.bScale d.bFmt
    || (d.aScale == 2 && !d.aTs) || (d.bScale == 2 && !d.bTs)
    || !([0, 1, 2, 3, 4, 8, 9, 0xA].contains d.outFmt) || (d.rawOut && d.outFmt != 0)
    || (d.aScale == 0 && le32 odt 0x1C != 0) || (d.bScale == 0 && le32 odt 0x20 != 0)
    || (!d.aTs && le32 odt 0x24 != 0) || (!d.bTs && le32 odt 0x28 != 0)
    || bitsOf d.word 7 0 != 0 || !zeroBytes odt 0x2C 20) stFORMAT

/-- The check of a matrix descriptor at issue (R17, R18, R41, R48, R73, R74, R103), for a core of partition p. -/
def mxCheck (c p : Nat) (odt : List Byte) (cfg : Nat) (s : State) : BitVec 8 :=
  let d := mxDesc odt cfg
  let e := mxEncodings d odt
  if e ≠ stOK then e
  else if 64 < d.m then stLENGTH
  else if d.m = 0 ∨ d.k = 0 then stOK
  else if 1 < d.m ∧ (d.aPitch < packedLen d.aFmt d.k ∨ d.cPitch < mxOutRow d) then stLENGTH
  else if (mxRanges d).any (fun r => !inOwnStores c r.1 r.2) then stWINDOW
  else firstFail ((mxRanges d).map fun r => rangeStatus (.part p) r.1 r.2 s)

/-! Slice global addresses (R38, R311) and shelves (R155). -/

/-- The slice row whose SLICE_ID is that of a partition (R311). -/
def rowOfPart (p : Nat) (s : State) : Option SliceRow :=
  s.gzl.rows.find? fun r => r.st != 0 && r.sliceId.toNat == sliceId s.cab.cur p

/-- The PKG field names this package for the work of a partition (R38). -/
def isLocalPkg (p g : Nat) (s : State) : Bool := bitsOf g 55 46 == pkgIndex s.cab.cur p

/-- The EID of a package index in the slice of a partition; none where the slice has no such member (R41, R311). -/
def eidOfPkg (p pkg : Nat) (s : State) : Option (BitVec 19) :=
  match rowOfPart p s with
  | none => none
  | some r =>
    if pkg < r.size.toNat then
      match tget (fun _ => none) r.eids pkg with
      | none => none
      | some e => if e = 0x7FFFF then none else some e
    else none

/-- The remote package's row is STOPPED: its accesses are treated as naming an INVALID entry (R314). -/
def rowStopped (p : Nat) (s : State) : Bool := match rowOfPart p s with
  | some r => r.st == 2
  | none => false

/-- Checks 2 to 5 of R41 for a slice global range of the work of partition p. -/
def globalStatus (p g n : Nat) (s : State) : BitVec 8 :=
  let a := bitsOf g 45 0
  if isLocalPkg p g s then rangeStatus (.part p) a n s
  else firstFail [mappedStatus a n, failIf (eidOfPkg p (bitsOf g 55 46) s).isNone stDENIED,
    failIf (regionOf a == some .reg && !inBellPages a n) stDENIED]

/-- A field of shelf record i (R154). -/
def shelfW (c : CabStruct) (i w : Nat) : Nat := sectW c 3 (8 * i + w)

/-- The SOURCE record of a core for a destination that lies whole in the shelf's window (R155): port and VL. -/
def shelfOf (c pkg a n : Nat) (s : State) : Option (Nat × Nat) :=
  let st := s.cab.cur
  ((List.range (sectRecs st 3 8)).find? fun i =>
    bitsOf (shelfW st i 0) 20 19 == 1 && bitsOf (shelfW st i 1) 7 0 == c && bitsOf (shelfW st i 1) 25 16 == pkg
      && within a n (coreStore (bitsOf (shelfW st i 2) 7 0) + shelfW st i 3) (shelfW st i 4)).map fun i =>
    (bitsOf (shelfW st i 2) 12 8, bitsOf (shelfW st i 0) 18 16)

/-- A write is refused at a sink window (R155): it touches one whose peer is another package index or core. -/
def shelfRefuses (pkg core a n : Nat) (s : State) : Bool :=
  let st := s.cab.cur
  (List.range (sectRecs st 3 8)).any fun i =>
    bitsOf (shelfW st i 0) 20 19 == 2
      && meets a n (coreStore (bitsOf (shelfW st i 1) 7 0) + shelfW st i 3) (shelfW st i 4)
      && !(bitsOf (shelfW st i 1) 25 16 == pkg && bitsOf (shelfW st i 2) 7 0 == core)

/-- A range touches a sink window: a write by anything but a core is refused there (R155). -/
def inSink (a n : Nat) (s : State) : Bool :=
  let st := s.cab.cur
  (List.range (sectRecs st 3 8)).any fun i =>
    bitsOf (shelfW st i 0) 20 19 == 2
      && meets a n (coreStore (bitsOf (shelfW st i 1) 7 0) + shelfW st i 3) (shelfW st i 4)

/-- A write by an engine of a core of this package is refused at a sink window. -/
def ownWriteRefused (c a n : Nat) (s : State) : Bool :=
  shelfRefuses ((partOfCore s.cab.cur c).map (pkgIndex s.cab.cur) |>.getD 0) c a n s

/-! Stream engine (R101). -/

/-- A stream descriptor. -/
structure SxDesc where
  sop    : Nat
  vl     : Nat
  len    : Nat
  src    : Nat
  dst    : Nat
  notify : Nat
  mask   : Nat
  deriving DecidableEq, Repr

/-- Reads a stream descriptor. -/
def sxDesc (odt : List Byte) : SxDesc :=
  ⟨bitsOf (le32 odt 0) 31 28, bitsOf (le32 odt 0) 27 25, le32 odt 4, le64 odt 8, le64 odt 0x10, le64 odt 0x18,
   le32 odt 0x20⟩

/-- The clusters that MCAST selects. -/
def mcastClusters (d : SxDesc) : List Nat := (List.range 32).filter (bitOf d.mask)

/-- The virtual lane of a remote transfer is refused: not enabled, or VL0 for a GET (R231). -/
def vlRefused (d : SxDesc) (vl : Nat) (s : State) : Bool := !vlEnabled s.cab.cur vl || (d.sop == 2 && vl == 0)

/-- Step 1 of R17 for a stream descriptor of a core of partition p (R101, R231, R41 check 1). -/
def sxEncodings (c p : Nat) (d : SxDesc) (odt : List Byte) (s : State) : BitVec 8 :=
  let vl := if d.sop = 1 then ((shelfOf c (bitsOf d.dst 55 46) (bitsOf d.dst 45 0) d.len s).map Prod.snd).getD d.vl
    else d.vl
  let far := if d.sop = 1 then !isLocalPkg p d.dst s else if d.sop = 2 then !isLocalPkg p d.src s else false
  failIf (!([1, 2, 3].contains d.sop) || bitsOf (le32 odt 0) 24 0 != 0 || !zeroBytes odt 0x24 28
    || bitsOf d.src 63 56 != 0 || bitsOf d.dst 63 56 != 0 || (far && vlRefused d vl s)) stFORMAT

/-- The own range of an SX instruction lies outside the own stores. -/
def sxOwnWindow (c p : Nat) (d : SxDesc) (s : State) : Bool :=
  match d.sop with
  | 1 => !(isLocalPkg p d.src s && inOwnStores c (bitsOf d.src 45 0) d.len)
  | 2 => !(isLocalPkg p d.dst s && inOwnStores c (bitsOf d.dst 45 0) d.len)
  | _ => !(isLocalPkg p d.src s && within (bitsOf d.src 45 0) d.len (coreStore c) coreStoreSize)
      || decide (cluStoreSize < d.dst + d.len)

/-- The check of the NOTIFY object of a stream descriptor, where it lies on this package (R41, R101, R418). -/
def notifyStatus (p : Nat) (d : SxDesc) (s : State) : BitVec 8 :=
  if d.notify = 0 ∨ (d.sop = 1 ∧ !isLocalPkg p d.dst s) then stOK else syncStatus p d.notify s

/-- The check of a stream descriptor at issue (R17, R18, R41, R103). -/
def sxCheck (c p : Nat) (odt : List Byte) (s : State) : BitVec 8 :=
  let d := sxDesc odt
  let e := sxEncodings c p d odt s
  if e ≠ stOK then e
  else if d.len = 0 then notifyStatus p d s
  else if sxOwnWindow c p d s then stWINDOW
  else
    match d.sop with
    | 1 => firstFail [mappedStatus (bitsOf d.dst 45 0) d.len, globalStatus p d.src d.len s, globalStatus p d.dst d.len s,
        notifyStatus p d s]
    | 2 => firstFail [globalStatus p d.src d.len s, globalStatus p d.dst d.len s, notifyStatus p d s]
    | _ => firstFail (globalStatus p d.src d.len s ::
        ((mcastClusters d).map fun k => rangeStatus (.part p) (cluStore k + d.dst) d.len s) ++ [notifyStatus p d s])

/-! Vector engine (R77, R100). -/

def vxOp (w : Nat) : Nat := bitsOf w 63 56
def vxVD (w : Nat) : Nat := bitsOf w 50 46
def vxVA (w : Nat) : Nat := bitsOf w 45 41
def vxVB (w : Nat) : Nat := bitsOf w 40 36
def vxVC (w : Nat) : Nat := bitsOf w 35 31
def vxFmt (w : Nat) : Nat := bitsOf w 30 27
def vxFmtOut (w : Nat) : Nat := bitsOf w 26 23
def vxRnd (w : Nat) : Nat := bitsOf w 22 21
def vxSat (w : Nat) : Bool := bitOf w 20
def vxAC (w : Nat) : Nat := bitsOf w 19 18
def vxMaskEn (w : Nat) : Bool := bitOf w 17
def vxMaskV (w : Nat) : Nat := bitsOf w 16 12
def vxSrcAc (w : Nat) : Bool := bitOf w 11
def vxDstAc (w : Nat) : Bool := bitOf w 10
def vxACS (w : Nat) : Nat := bitsOf w 9 8
def vxMemAC (w : Nat) : Nat := bitsOf w 33 32
def vxAddr (w : Nat) : Nat := sramB + bitsOf w 31 0

/-- The operation uses the memory form. -/
def vxIsMem (op : Nat) : Bool := decide (0x38 ≤ op ∧ op ≤ 0x3E)

/-- The input format of a register-form operation: FMT, or W48 for SRC_AC and ACC_READ. -/
def vxIn (w : Nat) : Nat := if vxSrcAc w || vxOp w == 0x11 then fmtW48 else vxFmt w

/-- The output format of a register-form operation (R100). -/
def vxOut (w : Nat) : Nat :=
  let op := vxOp w
  if op = 0x10 ∨ vxDstAc w then fmtW48
  else if op = 0x18 ∨ op = 0x19 ∨ op = 0x1A ∨ op = 0x11 ∨ op = 0x28 ∨ op = 0x29 then vxFmtOut w
  else vxFmt w

/-- The elements of a format that a vector register of 2,048 bits holds; W48 has 64 lanes. -/
def fmtLanes : Nat → Nat
  | 16 => 64
  | 0xD => 1280
  | 0x5 => 340
  | 0x6 => 340
  | f => 2048 / fmtBits f

/-- The number of lanes of a register-form instruction (R100). -/
def vxLanes (w : Nat) : Nat := Nat.min (fmtLanes (vxIn w)) (fmtLanes (vxOut w))

/-- The formats of an operation's row in R77. -/
def vxFmtOk (w : Nat) : Bool :=
  let op := vxOp w
  let arith := [0x0, 0x1, 0x2, 0x8, 0x9, 0xA].contains (vxFmt w)
  if 0x01 ≤ op ∧ op ≤ 0x0A then arith
  else if op = 0x10 then vxSrcAc w || vxFmt w == 0
  else if op = 0x11 ∨ op = 0x18 ∨ op = 0x30 then true
  else if op = 0x19 then (vxSrcAc w || vxFmt w == 0 || vxFmt w == 1) && scaleAllowed 1 (vxFmtOut w)
  else if op = 0x1A then (vxSrcAc w || vxFmt w == 0 || vxFmt w == 1) && scaleAllowed 2 (vxFmtOut w)
  else if 0x20 ≤ op ∧ op ≤ 0x25 then vxFmt w == 0
  else if op = 0x28 ∨ op = 0x29 then (vxSrcAc w || vxFmt w == 0) && vxFmtOut w == 0
  else false

/-- Step 1 of R17 for a VX slot (R77, R100). -/
def vxEncodings (w : Nat) : BitVec 8 :=
  let op := vxOp w
  if vxIsMem op then failIf (bitsOf w 40 34 != 0 || (decide (op < 0x3C) && bitsOf w 33 32 != 0)) stFORMAT
  else failIf (!vxFmtOk w || bitsOf w 7 0 != 0
    || (vxSrcAc w && !([0x10, 0x18, 0x19, 0x1A, 0x28, 0x29].contains op)) || (vxDstAc w && op != 0x18)) stFORMAT

/-- The bytes that a memory-form instruction reaches from its address; a gather or scatter is checked at its base. -/
def vxMemLen (op : Nat) : Nat := if op = 0x38 ∨ op = 0x39 then 256 else if 0x3C ≤ op then 384 else 1

/-- The check of a VX slot at issue (R17, R41, R103). -/
def vxCheck (c p w : Nat) (s : State) : BitVec 8 :=
  let op := vxOp w
  let e := vxEncodings w
  if e ≠ stOK then e
  else if !vxIsMem op then stOK
  else
    let a := vxAddr w
    let n := vxMemLen op
    if (op = 0x3A ∨ op = 0x3B) ∧ !within a n (coreStore c) coreStoreSize then stWINDOW
    else if !inOwnStores c a n then stWINDOW
    else rangeStatus (.part p) a n s

end Sys2Proof.Machine
end

