-- ==== Sys2Proof/Machine/Send.lean ====
section
/-! DEFINITION. Sending over the fabric: routes and planes (R237 to R240), packets and cells (R225, R226) and their
encryption (R247, R249), egress queues and their credits (R31, R232), control items (R227), sessions in place (R247) and
bound peers (R427). -/

namespace Sys2Proof.Machine

/-- The EID of this package (R294, R295); before LOCATION the reset value of GZL_SELF. -/
def ownEid (s : State) : BitVec 19 :=
  BitVec.ofNat 19 (fget gzlB fGZL_SELF_RACK s * 64 + fget gzlB fGZL_SELF_TRAY s * 4 + fget gzlB fGZL_SELF_SOCKET s)

/-- The endpoint entry of an EID; EID 0x7_FFFF is always INVALID (R237). -/
def entryOf (e : BitVec 19) (s : State) : BitVec 64 :=
  if e = 0x7FFFF then 0 else tget (fun _ => 0) s.fab.table e.toNat

def entState (w : BitVec 64) : Nat := bitsOf w.toNat 63 62
def entTier2 (w : BitVec 64) : Bool := bitOf w.toNat 60
def entWeight (w : BitVec 64) (q : Nat) : Nat := bitsOf w.toNat (4 * q + 3) (4 * q)

/-- The link state of a port (R255): 0 DOWN, 1 TRAINING, 2 UP, 3 UP_X4, 4 MAPPED_OUT. -/
def portState (p : Nat) (s : State) : Nat := fget (fabB p) fFAB_STATUS_STATE s
def portUp (p : Nat) (s : State) : Bool := portState p s == 2 || portState p s == 3

/-- The port that a core of die d uses on plane q (R240). -/
def portFor (d q : Nat) (s : State) : Option Nat :=
  ([0, 1, 2, 3].map fun i => 8 * ((d + i) % 4) + q).find? fun p => portUp p s

/-- One round of the spread of a core's packets: the ports in order, WEIGHT_q times each (R240). -/
def spreadRound (core : Nat) (w : BitVec 64) (s : State) : List Nat :=
  (List.range 8).flatMap fun i =>
    let q := (core + i) % 8
    match portFor (core / 64) q s with
    | none => []
    | some p => List.replicate (entWeight w q) p

def getSession (e : BitVec 19) (s : State) : Option Session := tget (fun _ => none) s.fab.sessions e.toNat
def setSession (e : BitVec 19) (x : Option Session) (s : State) : State :=
  { s with fab := { s.fab with sessions := tset (fun _ => none) e.toNat x s.fab.sessions } }

/-- The key slots of a partition that are LOADED (R423). -/
def loadedSlots (p : Nat) (s : State) : List KeySlot :=
  (List.range 4).filterMap fun i => tget (fun _ => none) s.sec.slots (4 * p + i)

/-- A remote die passes the bound-peer rule of a partition (R427). -/
def boundOk (p : Nat) (e : BitVec 19) (die : Nat) (s : State) : Bool :=
  let l := loadedSlots p s
  !(sealBit s.cab.cur p) || l.isEmpty ||
    (match getSession e s with
     | none => false
     | some x => l.any (fun k => k.idents.contains x.ident) && bitOf x.sealMask.toNat die)

/-- The die of a local offset: its stack region or the die of its store. -/
def dieOfAddr (a : Nat) : Nat :=
  if a < stackEnd then a / dieRegion
  else if a < cluStoreB then (a - sramB) / coreStoreSize / 64
  else (a - cluStoreB) / cluStoreSize / 8

/-- The lookup of a remote target at issue, in order (R239, R427), for a core's work in partition p. -/
def lookupStatus (p core : Nat) (e : BitVec 19) (die : Nat) (s : State) : BitVec 8 :=
  let w := entryOf e s
  firstFail [failIf (rowStopped p s || entState w == 0 || (spreadRound core w s).isEmpty) stFENCED,
    failIf (entState w == 2) stDRAINING, failIf (getSession e s).isNone stDENIED,
    failIf (!boundOk p e die s) stDENIED]

def getPort (p : Nat) (s : State) : Port := s.fab.ports.getD p Port.down
def modPort (p : Nat) (f : Port → Port) (s : State) : State :=
  { s with fab := { s.fab with ports := modAt p f s.fab.ports } }

/-- The number of cells of a packet with n data bytes (R226). -/
def cellsOf (n : Nat) : Nat := (n + 64 + 255) / 256

/-- The cells of a packet in its egress queue. -/
def pktCells (k : Packet) : List EgCell :=
  let n := cellsOf k.data.length
  (List.range n).map fun i => .payload (i == 0) (i + 1 == n) k

/-- The hand-off of the on-die network to the egress queue of a port and VL (R37). -/
def netHo (p v : Nat) : Nat := 1280 + 8 * p + v

/-- Cells that wait for a port and VL enter its egress queue, one for each credit (R31, R232). -/
def fillEgress (p v : Nat) (s : State) : State :=
  let l := (getPort p s).backlog.getD v []
  let h := getHo (netHo p v) s
  let n := Nat.min l.length h.credits
  if n = 0 then s
  else setHo (netHo p v) { h with credits := h.credits - n, entries := h.entries ++ List.replicate n [] }
    (modPort p (fun x => { x with egress := modAt v (· ++ l.take n) x.egress, backlog := modAt v (List.drop n) x.backlog }) s)

/-- Cells go to a port and VL, behind every cell queued before; a dark port loses them (R218, R244). -/
def queueCells (p v : Nat) (l : List EgCell) (s : State) : State :=
  if portState p s = 0 ∨ portState p s = 4 then s
  else fillEgress p v (modPort p (fun x => { x with backlog := modAt v (· ++ l) x.backlog }) s)

/-- A cell has left an egress queue: its credit returns, and the next cell may enter (R31). -/
def cellLeft (p v : Nat) (s : State) : State := fillEgress p v (hoLeave (netHo p v) [] s)

/-- Queues a packet on a port and VL. -/
def queuePkt (port vl : Nat) (k : Packet) (s : State) : State := queueCells port vl (pktCells k) s

/-- Queues a control item on a port. -/
def queueItem (port : Nat) (i : CtlItem) (s : State) : State := modPort port (fun x => { x with items := x.items ++ [i] }) s

/-- The lowest-numbered port that is up on some plane. -/
def anyPort (s : State) : Option Nat := (List.range 32).find? fun p => portUp p s

/-- Queues a routed control item on the lowest-numbered trained port. -/
def routeItem (i : CtlItem) (s : State) : State :=
  match anyPort s with
  | none => s
  | some p => queueItem p i s

/-! Encryption of packets (R226, R247, R249). -/

/-- The 48 B header of a packet (R226). -/
def pktHeader (k : Packet) : List Byte :=
  leBytes 4 (k.kind.toNat * 2 ^ 28 + k.hver.toNat * 2 ^ 24 + k.tier2.toNat * 2 ^ 23 + k.keyIdx.toNat * 2 ^ 22 + k.dest.toNat)
    ++ leBytes 4 k.src.toNat ++ leBytes 8 k.ivCtr.toNat ++ leBytes 8 k.addr.toNat ++ leBytes 4 k.data.length
    ++ leBytes 4 (k.core.val * 2 ^ 24 + k.seqno.toNat) ++ leBytes 8 k.notify.toNat ++ leBytes 8 k.kspec.toNat

/-- The IV of a packet: the salt of its direction, then IV_CTR (R249). A key of a session is its AES key and its salt. -/
def pktIv (key : List Byte) (k : Packet) : List Byte := key.drop 32 ++ leBytes 8 k.ivCtr.toNat

/-- Encrypts the data of a packet and forms its tag, with the header as additional data (R226, R249). -/
def sealPkt (key : List Byte) (k : Packet) : Packet :=
  let c := { k with data := Config.gcmCrypt (key.take 32) (pktIv key k) k.data }
  { c with tag := Config.gcmTag (key.take 32) (pktIv key k) (pktHeader c) c.data }

/-- The tag of a packet checks under a key (R241). -/
def tagChecks (key : List Byte) (k : Packet) : Bool :=
  Config.gcmTagOk (key.take 32) (pktIv key k) (pktHeader k) k.data k.tag

/-- The packet with its data in clear. -/
def openPkt (key : List Byte) (k : Packet) : Packet :=
  { k with data := Config.gcmCrypt (key.take 32) (pktIv key k) k.data }

/-- A packet in clear as the sender fills it under a session (R226). -/
def mkPkt (kind : BitVec 4) (e : BitVec 19) (tier2 : Bool) (addr : Nat) (tag : InstrTag) (notify : Nat) (kspec : Nat)
    (data : List Byte) (x : Session) (vl : Nat) (s : State) : Packet :=
  ⟨Fin.ofNat 8 vl, kind, 1, tier2, x.idxTx, e, ownEid s, x.ivCtr, BitVec.ofNat 46 addr, tag.core, tag.seqno,
   BitVec.ofNat 46 notify, BitVec.ofNat 64 kspec, data, []⟩

/-- Sends one packet on a port and VL by an entry's value, encrypted under the session's next invocation counter (R249);
none goes without a session. -/
def sendPkt (port vl : Nat) (kind : BitVec 4) (e : BitVec 19) (w : BitVec 64) (addr : Nat) (tag : InstrTag)
    (notify kspec : Nat) (data : List Byte) (s : State) : State :=
  match getSession e s with
  | none => s
  | some x => queuePkt port vl (sealPkt x.keyTx (mkPkt kind e (entTier2 w) addr tag notify kspec data x vl s))
      (setSession e (some { x with ivCtr := x.ivCtr + 1 }) s)

/-- Sends a packet that does not spread, on the first port of a core's round; lost where no port is up (R240, R244). -/
def sendOne (core vl : Nat) (kind : BitVec 4) (e : BitVec 19) (w : BitVec 64) (addr : Nat) (tag : InstrTag)
    (notify kspec : Nat) (s : State) : State :=
  match spreadRound core w s with
  | [] => s
  | p :: _ => sendPkt p vl kind e w addr tag notify kspec [] s

/-- The data of a transfer cut into packets of at most 8,128 B: offset and bytes (R226). -/
def chunksOf (l : List Byte) : List (Nat × List Byte) :=
  (List.range ((l.length + 8127) / 8128)).map fun i => (8128 * i, (l.drop (8128 * i)).take 8128)

/-- Sends data packets spread over the planes of an entry's value, or on a fixed port (R240, R155). -/
def sendData (fixed : Option Nat) (core vl : Nat) (kind : BitVec 4) (e : BitVec 19) (w : BitVec 64) (addr : Nat)
    (tag : InstrTag) (notify kspec : Nat) (l : List Byte) (s : State) : State :=
  let rnd := match fixed with
    | some p => [p]
    | none => spreadRound core w s
  (chunksOf l).zipIdx.foldl (fun s c => match rnd[c.2 % rnd.length]? with
    | none => s
    | some p => sendPkt p vl kind e w (addr + c.1.1) tag notify kspec c.1.2 s) s

/-- Records an outstanding remote instruction (R242, R243). -/
def addRemote (r : RemoteInstr) (s : State) : State := { s with fab := { s.fab with remote := s.fab.remote ++ [r] } }

def findRemote (t : InstrTag) (s : State) : Option RemoteInstr := s.fab.remote.find? fun r => r.tag == t
def dropRemote (t : InstrTag) (s : State) : State :=
  { s with fab := { s.fab with remote := s.fab.remote.filter fun r => !(r.tag == t) } }
def setRemote (r : RemoteInstr) (s : State) : State :=
  { s with fab := { s.fab with remote := s.fab.remote.map fun x => if x.tag = r.tag then r else x } }

/-- The tag of an instruction number: the core's generation and its count (R364). -/
def mkTag (core : Nat) (seqno : BitVec 24) : InstrTag := ⟨Fin.ofNat 256 core, seqno⟩

/-- The next instruction number of a core: generation in [23:16], count in [15:0] (R364). -/
def nextSeqno (c : Nat) (s : State) : BitVec 24 :=
  BitVec.ofNat 24 (fget (coreB c) fCORE_RESET_GEN_GEN s * 65536 + (getCore c s).seqno.toNat)

/-- The count of a core's instructions rises by 1. -/
def bumpSeqno (c : Nat) (s : State) : State := modCore c (fun k => { k with seqno := k.seqno + 1 }) s

end Sys2Proof.Machine
end

