-- ==== Sys2Proof/Machine/Fabric.lean ====
section
/-! DEFINITION. Ports: link states and training (R217 to R224), transmission (R225 to R229), the Sump and flow control
(R232 to R236), the endpoint table and drains (R237, R238, R245, R246), link sessions (R247 to R250, R429). -/

namespace Sys2Proof.Machine

/-! Link states (R222, R255): 0 DOWN, 1 TRAINING, 2 UP, 3 UP_X4, 4 MAPPED_OUT. -/

/-- The source number of a port. -/
abbrev portSource (p : Nat) : Nat := 0x4000 + p

/-- A fault of a port: PARTS names every partition that exists (R475). -/
def portFault (code p info0 : Nat) (s : State) : State := softFault code (portSource p) info0 0 s

/-! The Sump (R232 to R236). Amounts are cells of 256 B, four to a KiB. -/

def reserveCells (s : State) : Nat := 4 * (bitsOf (sectW s.cab.cur 4 1) 15 0 - 16)
def enabledVls (s : State) : List Nat := (List.range 8).filter (vlEnabled s.cab.cur)
/-- Usable shared space (R156, R232). -/
def sharedCells (s : State) : Nat :=
  4 * (65536 - 32 * (enabledVls s).length * bitsOf (sectW s.cab.cur 4 1) 15 0 - 12288)
def shareCap (v : Nat) (s : State) : Nat := 256 * bitsOf (sectW s.cab.cur 7 (4 + v / 4)) (8 * (v % 4) + 7) (8 * (v % 4))
abbrev headCells : Nat := 1536
/-- Usable shared space in use. -/
def sharedUsed (s : State) : Nat := (s.fab.ports.map fun x => x.inShared.sum).sum
def resFree (x : Port) (v : Nat) (s : State) : Nat := reserveCells s - x.inRes.getD v 0
def shareFree (x : Port) (v : Nat) (s : State) : Nat :=
  Nat.min (shareCap v s - x.inShared.getD v 0) (sharedCells s - sharedUsed s)

/-- The pair can take n more cells at steps 1 and 2 of R233. -/
def pairTakes (p v n : Nat) (s : State) : Bool :=
  decide (n ≤ resFree (getPort p s) v s + shareFree (getPort p s) v s)

/-- The registers of the offsets of FAB_DEPTH_VLv. -/
def fDepthCur (v : Nat) : Fld := ⟨oFAB_DEPTH_VL0 + 4 * v, 15, 0⟩
def fDepthPeak (v : Nat) : Fld := ⟨oFAB_DEPTH_VL0 + 4 * v, 31, 16⟩

/-- Writes an occupancy in KiB, and its peak. -/
def noteDepth (b : Nat) (cur peak : Fld) (cells : Nat) (s : State) : State :=
  let k := (cells + 3) / 4
  fset b cur k (fset b peak (Nat.max (fget b peak s) k) s)

/-- The occupancy registers of a pair, of its port's headroom and of the Sump (R255, R256). -/
def sumpRegs (p v : Nat) (s : State) : State :=
  let x := getPort p s
  let s := noteDepth (fabB p) (fDepthCur v) (fDepthPeak v) (x.inRes.getD v 0 + x.inShared.getD v 0) s
  let s := noteDepth (fabB p) fFAB_HEADROOM_CUR_KIB fFAB_HEADROOM_PEAK_KIB x.headroom s
  let u := (sharedUsed s + 3) / 4
  fset (fabB 0) fFAB_SUMP_FREE_KIB ((sharedCells s - sharedUsed s) / 4)
    (fset (fabB 0) fFAB_SUMP_USED_PEAK_KIB (Nat.max (fget (fabB 0) fFAB_SUMP_USED_PEAK_KIB s) u) s)

/-- Sets the XOFF map of a port and sends it in a FLOW item where it changes (R233). -/
def setXoff (p : Nat) (map : BitVec 8) (s : State) : State :=
  if (getPort p s).xoffTx = map then s
  else queueItem p (.flow map) (modPort p (fun x => { x with xoffTx := map }) s)

/-- XOFF for a pair that can take no more, and for every enabled VL while the headroom holds a cell (R233). -/
def updateXoff (p v : Nat) (s : State) : State :=
  let x := getPort p s
  let m := if 0 < x.headroom then (enabledVls s).foldl (fun m w => m ||| BitVec.ofNat 8 (2 ^ w)) x.xoffTx
    else if pairTakes p v 1 s then x.xoffTx else x.xoffTx ||| BitVec.ofNat 8 (2 ^ v)
  if m = x.xoffTx then s else countEvt (ctrFab p) 0x42 1 (setXoff p m s)

/-- XOFF after a cell of a pair has taken space: for the pair, and once the shared space is used up for every pair that it
leaves without space (R233). -/
def noteXoff (p v : Nat) (s : State) : State :=
  if sharedUsed s < sharedCells s then updateXoff p v s
  else forAll ((List.range 32).filter fun q => portUp q s) (fun q => forAll (enabledVls s) (updateXoff q)) s

/-- Takes Sump space for a cell (R233, R234): reserve, shared space, headroom; none where the headroom is full. -/
def takeCell (p v : Nat) (s : State) : Option State :=
  let x := getPort p s
  if 0 < resFree x v s then some (modPort p (fun y => { y with inRes := modAt v (· + 1) y.inRes }) s)
  else if 0 < shareFree x v s then some (modPort p (fun y => { y with inShared := modAt v (· + 1) y.inShared }) s)
  else if x.headroom < headCells then
    some (modPort p (fun y => { y with headroom := y.headroom + 1, inHead := modAt v (· + 1) y.inHead }) s)
  else none

/-- The cells of a pair that the Sump holds. -/
def pairCells (x : Port) (v : Nat) : Nat := x.inHead.getD v 0 + x.inShared.getD v 0 + x.inRes.getD v 0

/-- n cells of a pair have left the Sump: the probes behind them that have no cell before them any more are echoed (R245). -/
def probesGo (p v n : Nat) (s : State) : State :=
  let l := (getPort p s).probes.map fun y => if y.1 = v then (y.1, y.2.1 - n, y.2.2) else y
  let s := modPort p (fun x => { x with probes := l.filter fun y => !(y.1 == v && y.2.1 == 0) }) s
  forAll (l.filter fun y => y.1 == v && y.2.1 == 0) (fun y => routeItem (.drainEcho y.2.2.1 y.2.2.2)) s

/-- Frees n cells of a pair: its cells in the headroom, in shared space, in the reserve, in this order (log entry 43). -/
def freeCells (p v n : Nat) (s : State) : State :=
  let x := getPort p s
  let h := Nat.min n (x.inHead.getD v 0)
  let g := Nat.min (n - h) (x.inShared.getD v 0)
  let r := Nat.min (n - h - g) (x.inRes.getD v 0)
  probesGo p v n (sumpRegs p v (modPort p (fun y => { y with
    headroom := y.headroom - h, inHead := modAt v (· - h) y.inHead, inShared := modAt v (· - g) y.inShared,
    inRes := modAt v (· - r) y.inRes }) s))

/-- A VL has an open partial packet. -/
def vlOpen (x : Port) (v : Nat) : Bool := x.openVl.getLsbD v
/-- A VL has a partial packet of so many stored cells, or none. -/
def setOpen (p v : Nat) (o : Option Nat) (s : State) : State :=
  modPort p (fun x => { x with
    openVl := BitVec.ofNat 8 (setBit x.openVl.toNat v o.isSome), inOpen := modAt v (fun _ => o.getD 0) x.inOpen }) s

/-- The partial packet of a VL is discarded: its cells leave the Sump (R225, R234). -/
def discardVl (p v : Nat) (s : State) : State :=
  let n := (getPort p s).inOpen.getD v 0
  let s := setOpen p v none s
  if n = 0 then s else freeCells p v n s

/-- Every partial packet that is open on a link is discarded. -/
def discardOpen (p : Nat) (s : State) : State := forAll (List.range 8) (discardVl p) s

/-! Drains that end (R246). -/

/-- Gorzel takes the result of a drain: failures in a row (R307), and the WRITE that waits for it (R305). -/
def noteDrain (eid : BitVec 19) (st : BitVec 8) (s : State) : State :=
  let n := (tget (fun _ => (0, 0)) s.gzl.drains eid.toNat).1
  let take (c : GzlCont) : GzlCont := if c.eid = eid then { c with res := some st } else c
  { s with gzl := { s.gzl with
    drains := tset (fun _ => (0, 0)) eid.toNat (if st = stOK then (0, 0) else (n + 1, s.clk.now)) s.gzl.drains,
    cont := s.gzl.cont.map take } }

/-- A drain ends with a status (R246). -/
def endDrain (eid : BitVec 19) (st : BitVec 8) (s : State) : State :=
  noteDrain eid st (emit (.drainDone eid st) { s with fab := { s.fab with
    drains := s.fab.drains.filter fun d => d.eid != eid,
    drained := if st = stOK then eid :: s.fab.drained else s.fab.drained } })

/-- A port leaves UP or UP_X4: its egress cells are discarded with the partial packets it was receiving, and a drain
with a probe outstanding on it ends with FENCED (R222, R246). -/
def portLost (p : Nat) (s : State) : State :=
  let s := modPort p (fun x => { x with
    egress := List.replicate 8 [], backlog := List.replicate 8 [], rxSeq := none, rrSent := 0, badCw := [] }) (discardOpen p s)
  let s := hoFlush (fun k => decide (netHo p 0 ≤ k ∧ k ≤ netHo p 7)) s
  let hit := s.fab.drains.filter fun d => d.probes.any fun q => q.2 == p
  fset (fabB p) fFAB_STATUS_LANES_USED 0 (forAll hit (fun d => endDrain d.eid stFENCED) s)

/-- Entry into MAPPED_OUT with a cause (R222): LINK_DOWN, and a PORT_DOWN fault unless the Bureau has fenced the port. -/
def mapOut (p cause : Nat) (s : State) : State :=
  let s := portLost p (modPort p (fun x => { x with run := none }) s)
  let s := fset (fabB p) fFAB_STATUS_STATE 4 (fset (fabB p) fFAB_STATUS_CAUSE cause s)
  let s := evt (fabB p) eFAB_EVENT_LINK_DOWN s
  if cause = 8 then s else portFault 0x0C p (p + 256 * cause) s

/-- Entry into TRAINING: a new training run (R221). -/
def startTraining (p : Nat) (isFault : Bool) (s : State) : State :=
  fset (fabB p) fFAB_STATUS_STATE 1 (modPort p (fun x => { x with run := some ⟨0, none, isFault⟩ }) s)

/-- The optical engine of a port has too little light (R217). -/
def laserLow (p : Nat) (s : State) : Bool := s.fab.lasers.getD (p / 4) false

/-- The lanes good in both directions and the width of a training attempt: 8, 4 on lanes 0 to 3 or 4 to 7, or 0 (R223). -/
def trainLanes (r : TrainResult) : Nat × BitVec 8 :=
  let g := r.txGood &&& r.rxGood
  if g = 0xFF then (8, 0xFF) else if g &&& 0x0F = 0x0F then (4, 0x0F) else if g &&& 0xF0 = 0xF0 then (4, 0xF0) else (0, 0)

/-- The cause of a map-out during a run: ERRORS in a run that follows a link fault (R222). -/
def runCause (isFault : Bool) (cause : Nat) : Nat := if isFault then 6 else cause

/-- The four ports of an optical engine (R215). -/
def enginePorts (e : Nat) : List Nat := (List.range 4).map fun j => 4 * e + j

/-- The laser input power of an optical engine, at its four ports (R255, R469). -/
def noteLaser (e : Nat) (power : BitVec 8) (s : State) : State :=
  forAll (enginePorts e) (fun p => fset (fabB p) fFAB_OPTICS_LASER_IN power.toNat) s

/-- The temperature of an optical engine, at its four ports (R255). -/
def noteOeTemp (e : Nat) (temp : BitVec 8) (s : State) : State :=
  forAll (enginePorts e) (fun p => fset (fabB p) fFAB_OPTICS_OE_TEMP temp.toNat) s

/-- Records the measurements of an attempt. -/
def noteAttempt (p : Nat) (r : TrainResult) (s : State) : State :=
  let s := fset (fabB p) fFAB_STATUS_PLANE r.plane.toNat (fset (fabB p) fFAB_STATUS_LANES_OK (r.txGood &&& r.rxGood).toNat s)
  let s := fset (fabB p) fFAB_LINK_FIBRE_DLY r.fibre.toNat (fset (fabB p) fFAB_LINK_TRAY_PORT r.trayPort.toNat s)
  let std := bitOf (sectW s.cab.cur 7 0) p
  fset (fabB p) fFAB_STATUS_FEC_STD (if std || decide (500 ≤ r.fibre.toNat) then 1 else 0)
    (fset (fabB p) fFAB_STATUS_FEC_FORCED (if !std && decide (500 ≤ r.fibre.toNat) then 1 else 0) s)

/-- A run is over: an attempt reached ×8, or 3 attempts were made (R221). -/
def runOver (t : TrainRun) : Bool :=
  decide (3 ≤ t.attempts) || (match t.best with
    | none => false
    | some b => b.2.1 == 8)

/-- The TRAIN item that the package sends in an attempt: its EID, port and enabled VLs (R221, R227). -/
def sendTrain (p : Nat) (s : State) : State :=
  emit (.ctlCell p (getPort p s).txSeq false (isSafe s) [.train (ownEid s) (BitVec.ofNat 5 p)
    (BitVec.ofNat 8 ((enabledVls s).map (2 ^ ·)).sum)]) s

/-- LINK_TRAIN_ATTEMPT (R220, R221, R222): the package sends its TRAIN item; a wrong plane or a fibre that is too long maps
the port out; else the best width of the run is kept. With too little laser light the attempt fails. -/
def trainAttempt (p : Nat) (r : TrainResult) (s : State) : State :=
  match (getPort p s).run with
  | none => s
  | some t =>
    if portState p s ≠ 1 ∨ runOver t then s
    else
      let w := if laserLow p s then (0, 0) else trainLanes r
      let best := match t.best with
        | none => if w.1 = 0 then none else some (r, w.1, w.2)
        | some b => if b.2.1 < w.1 then some (r, w.1, w.2) else t.best
      let s := modPort p (fun x => { x with run := some { t with attempts := t.attempts + 1, best := best } }) s
      let s := noteOeTemp (p / 4) r.oeTemp (noteLaser (p / 4) r.laserIn s)
      if w.1 = 0 then fset (fabB p) fFAB_STATUS_LANES_OK (r.txGood &&& r.rxGood).toNat s
      else
        let s := sendTrain p (noteAttempt p r s)
        if r.plane.toNat ≠ p % 8 then evt (fabB p) eFAB_EVENT_MISWIRE (mapOut p (runCause t.isFault 4) s)
        else if 7600 < r.fibre.toNat then mapOut p (runCause t.isFault 5) s
        else s

/-- LINK_TRAIN_END (R222): ×8 to UP; ×4 to UP_X4 where ADMIT_X4 admits it; else MAPPED_OUT. -/
def trainEnd (p : Nat) (s : State) : State :=
  match (getPort p s).run with
  | none => s
  | some t =>
    if portState p s ≠ 1 ∨ !runOver t then s
    else match t.best with
      | none => mapOut p (runCause t.isFault 2) s
      | some b =>
        if b.2.1 = 4 ∧ !bitOf (sectW s.cab.cur 7 1) p then mapOut p (runCause t.isFault 3) s
        else
          let s := fset (fabB p) fFAB_STATUS_STATE (if b.2.1 = 8 then 2 else 3)
            (fset (fabB p) fFAB_STATUS_LANES_USED b.2.2.toNat (noteAttempt p b.1 s))
          modPort p (fun x => { x with run := none, rxSeq := none, txSeq := 0, slots := 0, xoffRx := 0 }) s

/-- A link fault (R222): one retrain in 1 s, else MAPPED_OUT. -/
def linkFaultOp (p : Nat) (s : State) : State :=
  if !portUp p s then s
  else
    let recent := match (getPort p s).lastFault with
      | none => false
      | some t => !elapsed t ticksS s
    let s := modPort p (fun x => { x with lastFault := some s.clk.now }) s
    if recent then mapOut p 6 s
    else evt (fabB p) eFAB_EVENT_RETRAIN (startTraining p true (portLost p s))

/-- A Gorzel retrain request (R222, R224). -/
def retrainOp (p : Nat) (s : State) : State :=
  if portState p s = 4 ∧ !laserLow p s then startTraining p false s else s

/-- LINK_TRAIN_ATTEMPT. -/
def execLinkTrainAttempt (p : Fin 32) (res : TrainResult) (s : State) : Host.Outcome State Fault Refusal :=
  .next (trainAttempt p.val res s)

/-- Too little laser light (R217): the four ports of the engine leave UP or UP_X4, and the power measured is reported
(R469). -/
def laserLost (e : Nat) (power : BitVec 8) (s : State) : State :=
  forAll (enginePorts e) (fun p s => if portUp p s then mapOut p 1 s else s)
    (noteLaser e power { s with fab := { s.fab with lasers := modAt e (fun _ => true) s.fab.lasers } })

/-- LASER_RESTORED (R217): the engine's ports may take part in retrains again. -/
def execLaserRestored (m : LaserIn) (s : State) : Host.Outcome State Fault Refusal :=
  .next (noteLaser m.engine.val m.power { s with fab := { s.fab with lasers := modAt m.engine.val (fun _ => false) s.fab.lasers } })

/-! Transmission (R225 to R229). -/

def isFlow : CtlItem → Bool
  | .flow _ => true
  | _ => false
def isDrip : CtlItem → Bool
  | .drip _ => true
  | _ => false
def isSession : CtlItem → Bool
  | .session _ _ _ => true
  | _ => false

/-- The waiting items in the order in which they leave: FLOW, DRIPLINE, others (R228). -/
def itemOrder (l : List CtlItem) : List CtlItem :=
  l.filter isFlow ++ l.filter isDrip ++ l.filter fun i => !isFlow i && !isDrip i

/-- The items of the next control cell: four slots, of which a SESSION item fills all (R227). -/
def cellItems (l : List CtlItem) : List CtlItem :=
  match itemOrder l with
  | [] => []
  | i :: r => if isSession i then [i] else i :: (r.takeWhile fun x => !isSession x).take 3

/-- The items left after a control cell has taken its items. -/
def itemsLeft (l : List CtlItem) : List CtlItem := (itemOrder l).drop (cellItems l).length

/-- A VL is XON and has a cell ready. -/
def vlReady (x : Port) (v : Nat) : Bool := !x.xoffRx.getLsbD v && !(x.egress.getD v []).isEmpty

def vlStrict (v : Nat) (s : State) : Bool := bitOf (sectW s.cab.cur 7 2) v
def vlWeight (v : Nat) (s : State) : Nat := bitsOf (sectW s.cab.cur 7 3) (4 * v + 3) (4 * v)

/-- The VL of the next payload cell, with the new place in the round robin (R228). -/
def pickVl (x : Port) (s : State) : Option (Nat × Nat × Nat) :=
  match ((List.range 8).reverse).find? fun v => vlStrict v s && vlReady x v with
  | some v => some (v, x.rrVl, x.rrSent)
  | none =>
    let ok (v : Nat) : Bool := !vlStrict v s && vlReady x v
    if ok x.rrVl && decide (x.rrSent < vlWeight x.rrVl s) then some (x.rrVl, x.rrVl, x.rrSent + 1)
    else match ((List.range 8).map fun i => (x.rrVl + 1 + i) % 8).find? fun v => ok v && decide (0 < vlWeight v s) with
      | some v => some (v, v, 1)
      | none => none

/-- Sends a control cell with these items; every 200th cell slot is an alignment cell with the XOFF map (R225, R227). -/
def sendCtl (p : Nat) (align : Bool) (items : List CtlItem) (s : State) : State :=
  emit (.ctlCell p (getPort p s).txSeq align (isSafe s) items) s

/-! Broad chambers (R287). -/

/-- The broad slot of a packet of a BROAD chamber of this package. -/
def broadSlot (k : Packet) (s : State) : Option Nat :=
  let d := (tget (fun _ => Chamber.off) s.col.chs (bitsOf k.kspec.toNat 63 52)).desc
  if k.kind = 4 ∧ bitsOf (le32 d 0) 31 28 = 2 then some (bitsOf (le32 d 0) 23 21) else none

/-- The broad slot of a cell. -/
def cellSlotOf (s : State) : EgCell → Option Nat
  | .payload _ _ k => broadSlot k s
  | .probe _ _ => none

/-- BROAD_W of a slot in the word that holds it (R290). -/
def broadW (b w : Nat) : Nat := bitsOf w (4 * b + 3) (4 * b)

/-- The cells of a packet of which a cell is one. -/
def packetCells : EgCell → Nat
  | .payload _ _ k => cellsOf k.data.length
  | .probe _ _ => 1

/-- The broad slots whose first packet stands whole in a queue, before the next cell of other traffic (R287). -/
def wholeSlots (l : List EgCell) (s : State) : List Nat :=
  let run := l.takeWhile fun c => (cellSlotOf s c).isSome
  (List.range 8).filter fun b =>
    match run.filter fun c => cellSlotOf s c == some b with
    | [] => false
    | c :: r => decide (packetCells c ≤ r.length + 1)

/-- The slot that the round robin of broad chambers serves next on a VL, with its new place; w holds BROAD_W of the round
under way (R287, R291). -/
def pickSlot (l : List EgCell) (place : Nat × Nat) (w : Nat) (s : State) : Option (Nat × Nat × Nat) :=
  let has := wholeSlots l s
  if has.contains place.1 && decide (place.2 < broadW place.1 w) then some (place.1, place.1, place.2 + 1)
  else (((List.range 8).map fun i => (place.1 + 1 + i) % 8).find? has.contains).map fun b => (b, b, 1)

/-- The first packet of a slot is brought to the front of a queue. -/
def slotFirst (b : Nat) (l : List EgCell) (s : State) : List EgCell :=
  let run := l.takeWhile fun c => (cellSlotOf s c).isSome
  let own := run.filter fun c => cellSlotOf s c == some b
  match own with
  | [] => l
  | c :: _ =>
    let n := packetCells c
    own.take n ++ (run.filter fun c => cellSlotOf s c != some b) ++ own.drop n ++ l.drop run.length

/-- The first cell of a packet. -/
def isFirstCell : EgCell → Bool
  | .payload f _ _ => f
  | .probe _ _ => true

/-- At the start of a packet the round robin of broad chambers puts its next packet in front (R287). A round begins as the
turn comes to a slot that is not behind the last one; it takes BROAD_W as it then is (R291). -/
def broadTurn (p v : Nat) (s : State) : State :=
  let x := getPort p s
  let l := x.egress.getD v []
  match l with
  | [] => s
  | c :: _ =>
    if !isFirstCell c then s
    else
      let place := x.broad.getD v (7, 0)
      match pickSlot l place (x.broadW.getD v 0) s with
      | none => s
      | some (b, q) => modPort p (fun y => { y with
          egress := modAt v (fun l => slotFirst b l s) y.egress, broad := modAt v (fun _ => q) y.broad,
          broadW := if q.2 = 1 ∧ b ≤ place.1 then modAt v (fun _ => sectW s.cab.cur 9 2) y.broadW else y.broadW }) s

/-! Timestamps (R193). -/

/-- A timestamp of this package: W, and 8 fraction bits. -/
def stampAt (frac : BitVec 8) (s : State) : BitVec 56 := s.clk.w ++ frac

/-- A Dripline frame leaves its serdes: a SYNC_REQ records t1, a SYNC_RESP carries t3 (R192, R193). The fraction is free. -/
def stampItem (i : CtlItem) (s : State) : CtlItem × State :=
  let now := stampAt (Config.freeByte s.freeCtr 0) s
  match i with
  | .drip (.syncReq h n) =>
    (.drip (.syncReq h n), bumpFree { s with drp := { s.drp with exch := s.drp.exch.map fun e =>
      (e.1, e.2.map fun y => if y.1 = n then (n, now) else y) } })
  | .drip (.syncResp h n t1 t2 _ ep) => (.drip (.syncResp h n t1 t2 now ep), bumpFree s)
  | i => (i, s)

/-- The items of a cell leave. -/
def stampItems : List CtlItem → State → List CtlItem × State
  | [], s => ([], s)
  | i :: r, s =>
    let x := stampItem i s
    let y := stampItems r x.2
    (x.1 :: y.1, y.2)

/-- The instruction whose packet has left is timed from now (R243). -/
def noteSent (k : Packet) (s : State) : State :=
  if k.kind = 3 then s
  else { s with fab := { s.fab with remote := s.fab.remote.map fun r =>
    if r.tag = ⟨k.core, k.seqno⟩ then { r with tLast := s.clk.now } else r } }

/-- A payload cell or a probe leaves on a port and VL: its credit returns (R31), packets sent are counted. -/
def sendCell (p v : Nat) (c : EgCell) (s : State) : State :=
  let s := cellLeft p v s
  let s := emit (.cell p (getPort p s).txSeq c) s
  match c with
  | .payload _ true k => noteSent k (fadd (fabB p) fFAB_TX_PKTS_COUNT 1 s)
  | _ => s

/-! Drains that wait for the snapshots of their entry (R239, R245). -/

/-- A cell belongs to a packet of this package's own instructions to an EID. -/
def ownCell (e : BitVec 19) : EgCell → Bool
  | .payload _ _ k => k.dest == e && k.kind != 3
  | .probe _ _ => false

/-- A snapshot of an entry has not handed its last packet to a port: cells that wait for credits, a PUT whose NOTIFY_ADD is
still to come, a COPY to be passed on (R239, R245). -/
def holdsSnap (e : BitVec 19) (s : State) : Bool :=
  (s.fab.ports.any fun x => x.backlog.any fun l => l.any (ownCell e))
    || s.fab.remote.any fun r => (match r.kind with
        | .put => r.eid == e && r.notify != 0
        | .copyRelay _ _ _ _ _ _ d _ => d == e
        | _ => false)

/-- The probes of a drain: each enabled VL of each plane of non-zero weight, on the port of R240 from die 0. -/
def drainProbes (w : BitVec 64) (s : State) : List (Nat × Nat) :=
  (List.range 8).flatMap fun q =>
    if entWeight w q = 0 then []
    else match portFor 0 q s with
      | none => []
      | some p => (enabledVls s).map fun v => (p, v)

/-- Queues the probes of a drain; one without a probe is over (R245). -/
def startProbes (eid : BitVec 19) (s : State) : State :=
  let l := (drainProbes (tget (fun _ => 0) s.fab.was eid.toNat) s).zipIdx
  let n0 := s.fab.probeNo
  let s := { s with fab := { s.fab with
    drains := s.fab.drains.map fun d => if d.eid = eid then
      { d with sent := true, probes := l.map fun x => (n0 + BitVec.ofNat 32 x.2, x.1.1) } else d,
    probeNo := n0 + BitVec.ofNat 32 l.length } }
  let s := forAll l (fun x => queueCells x.1.1 x.1.2 [.probe eid (n0 + BitVec.ofNat 32 x.2)]) s
  if l.isEmpty then endDrain eid stOK s else s

/-- Drains whose snapshots have all gone start their probes. -/
def drainsGo (s : State) : State :=
  forAll (s.fab.drains.filter fun d => !d.sent) (fun d s => if holdsSnap d.eid s then s else startProbes d.eid s) s

/-- One cell slot of a port that is up (R228): alignment cell, control cell, payload cell or EMPTY. In the safe state
every cell is an EMPTY control cell with FAULT = 1 (R252). -/
def cellSlot (p : Nat) (s : State) : State :=
  let x := getPort p s
  let s := countEvt (ctrFab p) 0x40 1 (modPort p (fun y => { y with slots := (y.slots + 1) % 200, txSeq := y.txSeq + 1 }) s)
  if isSafe s then sendCtl p false [] s
  else if x.slots = 199 then sendCtl p true [.flow x.xoffTx] s
  else if !x.items.isEmpty then
    let r := stampItems (cellItems x.items) (modPort p (fun y => { y with items := itemsLeft y.items }) s)
    sendCtl p false r.1 r.2
  else match pickVl x s with
    | none => sendCtl p false [] s
    | some (v, rv, rs) =>
      let s := broadTurn p v s
      match (getPort p s).egress.getD v [] with
      | [] => sendCtl p false [] s
      | c :: r =>
        drainsGo (sendCell p v c (modPort p (fun y => { y with
          egress := modAt v (fun _ => r) y.egress, rrVl := rv, rrSent := rs }) s))

/-- A payload cell (R225, R231, R233, R234): a cell of a packet that has been discarded is dropped. -/
def payloadCell (p : Nat) (c : Cell) (s : State) : State :=
  let v := c.vl.val
  if !vlEnabled s.cab.cur v then portFault 0x0F p p (evt (fabB p) eFAB_EVENT_VL_DROP s)
  else if !c.first && !vlOpen (getPort p s) v then s
  else
    let s := if c.first then discardVl p v s else s
    let n := (getPort p s).inOpen.getD v 0
    match takeCell p v s with
    | none => portFault 0x0D p p (evt (fabB p) eFAB_EVENT_HEADROOM_OVF (discardVl p v s))
    | some t =>
      let t := setOpen p v (if c.last then none else some (n + 1)) t
      let t := if c.last then fadd (fabB p) fFAB_RX_PKTS_COUNT 1 t else t
      noteXoff p v (sumpRegs p v t)

/-- A control cell: the partner's FAULT flag (R252), items of undefined codes and frames of an undefined TYPE dropped (R211,
R227). -/
def controlCell (p : Nat) (c : Cell) (s : State) : State :=
  let s := if c.fault then
      (if fget (fabB p) fFAB_STATUS_PARTNER_FAULT s = 1 then s
       else evt (fabB p) eFAB_EVENT_PARTNER_FAULT (fset (fabB p) fFAB_STATUS_PARTNER_FAULT 1 s))
    else fset (fabB p) fFAB_STATUS_PARTNER_FAULT 0 s
  let bad := (c.items.filter fun i => decide (8 < i.toNat)) ++ c.frames.filter fun f => decide (f.toNat < 1 ∨ 10 < f.toNat)
  forAll bad (fun _ => evt (fabB p) eFAB_EVENT_UNKNOWN_SRC) s

/-- The decoder's counts that come with a cell (R220, R255, R396): codewords and symbols corrected, codewords uncorrectable
with their times. -/
def noteFec (p : Nat) (c : Cell) (s : State) : State :=
  let s := fadd (fabB p) fFAB_FEC_CORR_COUNT c.fecCorr (fadd (fabB p) fFAB_FEC_UNCORR_COUNT c.fecBad s)
  countEvt (ctrFab p) 0x45 c.fecSyms (modPort p (fun x => { x with
    badCw := (List.replicate (Nat.min c.fecBad 9) s.clk.now ++ x.badCw.filter fun t => !elapsed t ticksMs s).take 9 }) s)

/-- CELL_RX (R220, R225): a missing SEQ discards every partial packet open on the link. More than 8 uncorrectable codewords
within 1 ms are a link fault. In the safe state ingress is dropped. -/
def cellRx (p : Nat) (c : Cell) (s : State) : State :=
  if !portUp p s then s
  else
    let s := noteFec p c s
    if 8 < (getPort p s).badCw.length then linkFaultOp p s
    else
      let x := getPort p s
      let gap := match x.rxSeq with
        | none => false
        | some q => c.seq != q + 1
      let s := countEvt (ctrFab p) 0x41 1 (modPort p (fun y => { y with rxSeq := some c.seq })
        (if gap then discardOpen p s else s))
      if c.ctrl then controlCell p c s else if isSafe s then s else payloadCell p c s

/-- XON_SEND (R233). -/
def xonSendOp (p v : Nat) (s : State) : State :=
  let x := getPort p s
  if x.xoffTx.getLsbD v && x.headroom == 0 && pairTakes p v 256 s then
    setXoff p (BitVec.ofNat 8 (setBit x.xoffTx.toNat v false)) s
  else s

/-- XON_SEND. -/
def execXonSend (p : Fin 32) (vl : Fin 8) (s : State) : Host.Outcome State Fault Refusal :=
  .next (xonSendOp p.val vl.val s)
/-- FLOW (R229): the received XOFF map pauses or resumes the VLs that it names; dropped in the safe state (R252). -/
def execFlow (p : Fin 32) (map : BitVec 8) (s : State) : Host.Outcome State Fault Refusal :=
  .next (if portUp p.val s && !isSafe s then
      (if map = 0 then id else countEvt (ctrFab p.val) 0x43 1) (modPort p.val (fun x => { x with xoffRx := map }) s)
    else s)

/-! Link sessions (R247 to R250, R429). -/

/-- The SEALED die mask of the structure in force (R417). -/
def sealedMask (s : State) : Nat :=
  (partList s.cab.cur).foldl (fun m p => if sealBit s.cab.cur p then m ||| dieMask s.cab.cur p else m) 0

/-- A peer passes the peer list (R429). -/
def peerPasses (l : PeerList) (ident man : List Byte) (chainOk unlocked : Bool) (mask : BitVec 4) : Bool :=
  chainOk && (l.idents.isEmpty || l.idents.contains ident) && (l.mans.isEmpty || l.mans.contains man)
    && !(l.rejectUnlocked && unlocked) && !(l.requireSealed && mask == 0)

/-- IDENT of a peer: the digest of its identity key (R248). -/
def identOf (m : SessMsg) : List Byte := Config.sha384 m.idKey

/-- The bytes of a handshake message that its signature covers. -/
def sessBytes (m : SessMsg) : List Byte :=
  beBytes 4 m.src.toNat ++ beBytes 4 m.dst.toNat ++ m.nonce ++ m.ephPub

/-- A handshake message is accepted: its signature checks over the message and the one before it, and the peer passes. -/
def peerAccepted (m : SessMsg) (before : List Byte) (s : State) : Bool :=
  Config.ecdsaOk m.idKey (Config.sha384 (before ++ sessBytes m)) m.sig
    && peerPasses s.sec.peers (identOf m) m.manifest m.chainOk m.unlocked m.sealMask

/-- A corrected SESSION fault of the security unit, with its event (R248). -/
def sessFault (e : Evt) (s : State) : State := softFault 0x11 0x6005 0 0 (evt (fabB 0) e s)

def dropShake (eid : BitVec 19) (s : State) : State :=
  { s with fab := { s.fab with shakes := s.fab.shakes.filter fun h => h.eid != eid } }
def findShake (eid : BitVec 19) (s : State) : Option Handshake := s.fab.shakes.find? fun h => h.eid == eid
def putShake (h : Handshake) (s : State) : State :=
  { s with fab := { s.fab with shakes := (s.fab.shakes.filter fun x => x.eid != h.eid) ++ [h] } }

/-- The handshakes that run (R248); the others wait. -/
def running (s : State) : Nat := (s.fab.shakes.filter fun h => decide (0 < h.attempts)).length

/-- The message that this package sends in a handshake; bytes before it are those of the peer's message. -/
def ownMsg (h : Handshake) (before : List Byte) (s : State) : List Byte :=
  let body := beBytes 4 (ownEid s).toNat ++ beBytes 4 h.eid.toNat ++ h.nonce ++ h.eph
  body ++ Config.ecdsaSign Config.identityKey (before ++ body)

/-- Sends the message of a handshake: SESS_INIT (0) of an initiator, SESS_RESP (1) of a responder. -/
def sendShake (h : Handshake) (s : State) : State :=
  let s := putShake { h with sent := s.clk.now, attempts := h.attempts + 1 } s
  routeItem (.session h.eid (if h.initiator then 0 else 1)
    (ownMsg h (match h.peer with
      | none => []
      | some m => if h.initiator then [] else sessBytes m ++ m.sig) s)) s

/-- The table holds 4,096 sessions (R247). -/
def sessFull (s : State) : Bool := decide (4096 ≤ (s.fab.sessions.filter fun e => e.2.isSome).length)

/-- Sends the message of a handshake, unless 16 run or MGMT is PAUSED: then it waits (R248, R252). -/
def goShake (h : Handshake) (s : State) : State :=
  if running s < 16 ∧ mgmtPlane s ≠ 2 then sendShake h s else putShake h s

/-- Handshakes that wait go on as far as R248 lets them run. -/
def shakesGo (s : State) : State := forAll (s.fab.shakes.filter fun h => h.attempts == 0) goShake s

/-- No session with a peer can be put in place: the table is full and holds none with it (R247). -/
def noRoomFor (eid : BitVec 19) (s : State) : Bool := sessFull s && (getSession eid s).isNone

/-- Starts a handshake with a peer, unless one waits or runs (R248). -/
def startShake (eid : BitVec 19) (s : State) : State :=
  if (findShake eid s).isSome then s
  else if noRoomFor eid s then sessFault eFAB_SESS_EVENT_HANDSHAKE_FAIL s
  else
    let h : Handshake := ⟨eid, true, Config.freeBytes s.freeCtr 32, Config.freeBytes (s.freeCtr + 1) 49, none, 0, 0, false⟩
    goShake h (bumpFree (bumpFree s))

/-- The secret of a handshake and the salt of its expansion (R248). -/
def shakeSecret (own peerKey : List Byte) : List Byte := Config.ecdh own peerKey

/-- The keys of a session (R248): both directions, each an AES key and an IV salt. -/
def sessKeys (h : Handshake) (m : SessMsg) : List Byte × List Byte :=
  let salt := if h.initiator then h.nonce ++ m.nonce else m.nonce ++ h.nonce
  let k := Config.hkdf384 (shakeSecret h.eph m.ephPub) salt [0] 72
  if h.initiator then (k.take 36, k.drop 36) else (k.drop 36, k.take 36)

/-- A session is due for a rekey (R249): the counter of a direction has reached 2^40, or the key is 24 h old; the two ends put a
session in place at most 30 ms apart (R248, log entry 45). -/
def rekeyDue (x : Session) (s : State) : Bool :=
  decide (2 ^ 40 ≤ x.ivCtr.toNat ∨ 2 ^ 40 ≤ x.ivRx.toNat) || elapsed x.tKey (86400 * ticksS - 30 * ticksMs) s

/-- Puts a session in place (R248 to R250): it replaces one that exists. In a rekey the keys take the other KEY_IDX, and the
old receiving key is accepted for 10 ms more (R249); the session of a peer that rejoins is replaced at once, and both ends
begin at KEY_IDX 0 (R250). -/
def placeSession (h : Handshake) (m : SessMsg) (s : State) : State :=
  let ks := sessKeys h m
  let old := getSession h.eid s
  let keep := old.filter fun x => h.initiator || rekeyDue x s
  let idx := match keep with
    | none => false
    | some x => !x.idxTx
  let n : Session := ⟨ks.1, ks.2, idx, idx, 0, 0, s.clk.now,
    keep.map fun _ => s.clk.now + 10 * ticksMs, (keep.map fun x => x.keyRx).getD [], identOf m, m.sealMask,
    m.manifest, m.unlocked⟩
  let s := dropShake h.eid (setSession h.eid (some n) s)
  if old.isSome then evt (fabB 0) eFAB_SESS_EVENT_REKEY s else s

/-- What waits for the end of a pause of MGMT (R252). -/
def fabWait (w : FabWait) (s : State) : State := { s with fab := { s.fab with wait := s.fab.wait ++ [w] } }

/-- SESS_INIT (R248): of two packages that start together the lower EID's handshake goes on. Session messages are dropped in
the safe state (R28, R252). -/
def sessInitOp (m : SessMsg) (s : State) : State :=
  if m.dst ≠ ownEid s ∨ isSafe s then s
  else if mgmtPlane s = 2 then fabWait (.init m) s
  else
    let mine : Bool := match findShake m.src s with
      | none => false
      | some h => h.initiator
    if mine ∧ (ownEid s).toNat < m.src.toNat then s
    else if !peerAccepted m [] s then sessFault eFAB_SESS_EVENT_PEER_REJECTED (dropShake m.src s)
    else if noRoomFor m.src s then sessFault eFAB_SESS_EVENT_HANDSHAKE_FAIL s
    else
      let h : Handshake := ⟨m.src, false, Config.freeBytes s.freeCtr 32, Config.freeBytes (s.freeCtr + 1) 49, some m, 0, 0,
        false⟩
      goShake h (bumpFree (bumpFree (dropShake m.src s)))

/-- SESS_RESP (R248). The table may have filled since the handshake began: then it fails (R247). -/
def sessRespOp (m : SessMsg) (s : State) : State :=
  match findShake m.src s with
  | none => s
  | some h =>
    if m.dst ≠ ownEid s ∨ !h.initiator ∨ isSafe s then s
    else if mgmtPlane s = 2 then fabWait (.resp m) s
    else
      let mine := ownMsg h [] s
      if !peerAccepted m mine s then sessFault eFAB_SESS_EVENT_PEER_REJECTED (dropShake m.src s)
      else if noRoomFor m.src s then shakesGo (sessFault eFAB_SESS_EVENT_HANDSHAKE_FAIL (dropShake m.src s))
      else
        let mac := Config.hmac384 (shakeSecret h.eph m.ephPub) (mine ++ sessBytes m ++ m.sig)
        shakesGo (placeSession h m (routeItem (.session m.src 2 mac) s))

/-- SESS_DONE (R248): the session is in place once the HMAC over both messages checks. -/
def sessDoneOp (src : BitVec 19) (hmac : List Byte) (s : State) : State :=
  match findShake src s with
  | none => s
  | some h =>
    match h.peer with
    | none => s
    | some m =>
      let before := sessBytes m ++ m.sig
      if h.initiator ∨ isSafe s then s
      else if mgmtPlane s = 2 then fabWait (.done src hmac) s
      else if noRoomFor src s then shakesGo (sessFault eFAB_SESS_EVENT_HANDSHAKE_FAIL (dropShake src s))
      else if hmac = Config.hmac384 (shakeSecret h.eph m.ephPub) (before ++ ownMsg h before s) then
        shakesGo (placeSession h m s)
      else sessFault eFAB_SESS_EVENT_HANDSHAKE_FAIL (dropShake src s)

/-- HANDSHAKE_RETRY (R248): 10 ms without an answer; after 3 attempts the handshake fails. A waiting handshake starts
once fewer than 16 run. -/
def shakeRetry (eid : BitVec 19) (s : State) : State :=
  match findShake eid s with
  | none => s
  | some h =>
    if mgmtPlane s = 2 ∨ isSafe s then s
    else if h.attempts = 0 then goShake h s
    else if !elapsed h.sent (10 * ticksMs) s then s
    else if h.attempts < 3 then sendShake h s
    else shakesGo (sessFault eFAB_SESS_EVENT_HANDSHAKE_FAIL (dropShake eid s))

/-- SESS_INIT. -/
def execSessInit (m : SessMsg) (s : State) : Host.Outcome State Fault Refusal := .next (sessInitOp m s)
/-- SESS_RESP. -/
def execSessResp (m : SessMsg) (s : State) : Host.Outcome State Fault Refusal := .next (sessRespOp m s)
/-- SESS_DONE. -/
def execSessDone (src : BitVec 19) (hmac : List (BitVec 8)) (s : State) : Host.Outcome State Fault Refusal :=
  .next (sessDoneOp src hmac s)
/-- HANDSHAKE_RETRY. -/
def execHandshakeRetry (eid : BitVec 19) (s : State) : Host.Outcome State Fault Refusal := .next (shakeRetry eid s)

/-- REKEY (R249): IV_CTR has reached 2^40, or the key is 24 h old. -/
def execRekey (eid : BitVec 19) (s : State) : Host.Outcome State Fault Refusal :=
  .next (match getSession eid s with
    | none => s
    | some x => if 2 ^ 40 ≤ x.ivCtr.toNat ∨ elapsed x.tKey (86400 * ticksS) s then (if isSafe s then s else startShake eid s) else s)

/-- OLD_KEY_ERASE (R249). -/
def execOldKeyErase (eid : BitVec 19) (s : State) : Host.Outcome State Fault Refusal :=
  .next (match getSession eid s with
    | none => s
    | some x => match x.oldEnd with
      | none => s
      | some t => if t ≤ s.clk.now then setSession eid (some { x with oldEnd := none, oldRx := [] }) s else s)

/-! The endpoint table and drains (R237, R238, R245, R246). -/

/-- A change of an entry is accepted (R238). -/
def entryStatus (eid : BitVec 19) (w : BitVec 64) (s : State) : BitVec 8 :=
  let old := entryOf eid s
  let a := entState old
  let b := entState w
  if b = 3 ∨ bitsOf w.toNat 59 32 ≠ 0 then stFORMAT
  else if eid = 0x7FFFF then stDENIED
  else failIf (!((a == 0 && b != 0) || (a == 1 && (b == 2 || b == 0)) || (a == 1 && b == 1 && w == old)
    || (a == 2 && b == 1 && s.fab.drained.contains eid && !s.fab.drains.any fun d => d.eid == eid) || (a == 2 && (b == 0 || b == 2)) || w == old)) stDENIED

/-- ENTRY_SET (R238, R246, R248): a write to INVALID ends a running drain with FENCED; VALID or DRAIN without a session
starts a handshake. -/
def entrySetOp (eid : BitVec 19) (w : BitVec 64) (s : State) : State × BitVec 8 :=
  let st := entryStatus eid w s
  if st ≠ stOK then (s, st)
  else
    let a := entState (entryOf eid s)
    let b := entState w
    let old := entryOf eid s
    let s := { s with fab := { s.fab with
      table := tset (fun _ => 0) eid.toNat w s.fab.table,
      was := if a = 2 then s.fab.was else tset (fun _ => 0) eid.toNat (if a = 1 then old else w) s.fab.was,
      drained := if b = 2 ∧ a = 2 then s.fab.drained else s.fab.drained.filter fun e => e != eid } }
    let s := if b = 0 ∧ s.fab.drains.any (fun d => d.eid == eid) then endDrain eid stFENCED s else s
    (if b ≠ 0 ∧ (getSession eid s).isNone then startShake eid s else s, stOK)

/-- DRAIN_REQ (R245, R246): once every snapshot of the entry is gone, a probe on each enabled VL of each plane
that the old entry uses; a second request joins a running drain. -/
def drainReqOp (eid : BitVec 19) (s : State) : State × BitVec 8 :=
  if entState (entryOf eid s) ≠ 2 then (s, stDENIED)
  else if s.fab.drains.any fun d => d.eid == eid then (s, stOK)
  else
    let s := { s with fab := { s.fab with drains := s.fab.drains ++ [⟨eid, s.clk.now, [], false⟩] } }
    (if holdsSnap eid s then s else startProbes eid s, stOK)

/-- DRAIN_PROBE (R245): held until every earlier cell of its VL from its port has been written, then echoed. -/
def drainProbeOp (p v : Nat) (src : BitVec 19) (n : BitVec 32) (s : State) : State :=
  let ahead := pairCells (getPort p s) v
  if !portUp p s ∨ isSafe s then s
  else if ahead = 0 then routeItem (.drainEcho src n) s
  else modPort p (fun x => { x with probes := x.probes ++ [(v, ahead, src, n)] }) s

/-- DRAIN_ECHO (R245): a drain whose probes have gone out completes with OK when every echo has arrived; dropped in the safe
state (R252). -/
def drainEchoOp (src : BitVec 19) (n : BitVec 32) (s : State) : State :=
  match s.fab.drains.find? fun d => d.eid == src with
  | none => s
  | some d =>
    let l := d.probes.filter fun q => q.1 != n
    if !d.sent ∨ isSafe s then s
    else if l.isEmpty then endDrain src stOK s
    else { s with fab := { s.fab with drains := s.fab.drains.map fun x => if x.eid = src then { x with probes := l } else x } }

/-- DRAIN_PROBE. -/
def execDrainProbe (p : Fin 32) (vl : Fin 8) (src : BitVec 19) (n : BitVec 32) (s : State) :
    Host.Outcome State Fault Refusal := .next (drainProbeOp p.val vl.val src n s)
/-- The 10 ms of a drain end (R246). -/
def drainLate (eid : BitVec 19) (s : State) : State :=
  match s.fab.drains.find? fun d => d.eid == eid with
  | none => s
  | some d => if elapsed d.t0 (10 * ticksMs) s then endDrain eid stTIMEOUT s else s

/-! The end of a pause of MGMT (R252). -/

/-- One thing that waited is handled. -/
def fabWaited (w : FabWait) (s : State) : State :=
  match w with
  | .init m => sessInitOp m s
  | .resp m => sessRespOp m s
  | .done src hmac => sessDoneOp src hmac s
  | .entry eid e => (entrySetOp eid e s).1

/-- Handshakes, rekeys and table writes that waited go on, in the order of their arrival. -/
def fabResume (s : State) : State :=
  shakesGo (forAll s.fab.wait fabWaited { s with fab := { s.fab with wait := [] } })

end Sys2Proof.Machine
end

