-- ==== Sys2Proof/Machine/Queue.lean ====
section
/-! DEFINITION. The queue manager: descriptors (R104, R105), doorbells (R107, R108), queue states (R109, R124), commands and
completions (R110 to R115). -/

namespace Sys2Proof.Machine

/-! Commands as bytes (R110). -/

def cmdOp (b : List Byte) : Nat := bitsOf (le32 b 0) 31 24
def cmdTag (b : List Byte) : Nat := bitsOf (le32 b 0) 15 0
def cmdCplEn (b : List Byte) : Bool := bitOf (le32 b 0) 23
def cmdSyncEn (b : List Byte) : Bool := bitOf (le32 b 0) 21
def cmdOrder (b : List Byte) : Bool := bitOf (le32 b 0) 20
def cmdHandle (b : List Byte) : Nat := le32 b 0x14
def cmdLen (b : List Byte) : Nat := le32 b 0x28
def cmdSrc (b : List Byte) : Nat := le64 b 0x18
def cmdDst (b : List Byte) : Nat := le64 b 0x20

/-- The operand bytes that an opcode uses, as ranges of the command (R110). -/
def cmdUsed : Nat → List (Nat × Nat)
  | 1 => [(0x18, 12)]
  | 2 => [(0x14, 4)]
  | 3 => [(0x14, 8), (0x1C, 32)]
  | 4 => [(0x14, 8), (0x1C, 32)]
  | 5 => [(0x14, 8)]
  | 6 => [(0x18, 20)]
  | 7 => [(0x20, 16)]
  | 8 => [(0x18, 12)]
  | _ => []

/-- An unused operand byte is not 0 (R110). -/
def cmdUnused (b : List Byte) : Bool :=
  (List.range 44).any fun i =>
    b.getD (0x14 + i) 0 != 0 && !((cmdUsed (cmdOp b)).any fun r => decide (r.1 ≤ 0x14 + i ∧ 0x14 + i < r.1 + r.2))

/-- Step 1 of R17 for a command (R92, R110, R119, R41 check 1). DESIGN CHOICE: a SYNC_WAIT whose OBJ is not aligned to 16 B
is FORMAT_INVALID (log entry 81). -/
def cmdEncodings (b : List Byte) : BitVec 8 :=
  let op := cmdOp b
  failIf (decide (8 < op) || bitOf (le32 b 0) 22 || bitsOf (le32 b 0) 19 16 != 0 || le32 b 4 != 0 || cmdUnused b
    || (decide (2 ≤ op ∧ op ≤ 5) && bitsOf (cmdHandle b) 23 8 != 0)
    || (op == 3 && bitsOf (le32 b 0x18) 31 4 != 0)
    || (op == 4 && (bitsOf (le32 b 0x18) 31 18 != 0 || bitsOf (le32 b 0x18) 7 4 != 0 || bitsOf (le32 b 0x18) 15 14 != 0
        || bitOf (le32 b 0x18) 17 || bitsOf (le32 b 0x20) 31 16 != 0))
    || (op == 5 && bitsOf (le32 b 0x18) 31 6 != 0)
    || (op == 6 && (bitsOf (cmdSrc b) 63 56 != 0 || bitsOf (cmdDst b) 63 56 != 0))
    || (op == 7 && bitsOf (cmdDst b) 63 56 != 0)
    || (op == 8 && cmdSrc b % 16 != 0)) stFORMAT

/-- A handle's slot holds the program that it names (R92): the slot, or the status of the refusal. -/
def handleStatus (part h : Nat) (s : State) : BitVec 8 :=
  let sl := getSlot (h % 256) s
  match sl.prog with
  | none => stSTALE
  | some p => if sl.gen ≠ h / 2 ^ 24 then stSTALE else failIf (p.part != part) stDENIED

/-- A core of a program lies in a fenced cluster (R25). -/
def progFenced (slot : Nat) (s : State) : Bool :=
  match (getSlot slot s).prog with
  | none => false
  | some p => p.cores.any fun c => !cluOk (c.core / 8) s

/-- The cores of the program in a slot. -/
def progCores (slot : Nat) (s : State) : List Nat :=
  match (getSlot slot s).prog with
  | none => []
  | some p => p.cores.map fun e => e.core

/-- The virtual lane of the remote traffic of COPY outside a shelf (R230). -/
abbrev copyVl : Nat := 3

/-- COPY and FILL: limits (R113), the windows of both addresses (R17, R41 check 2), the further checks of R41, TARGET
(R112), virtual lane (R231). -/
def moveStatus (q : Queue) (b : List Byte) (s : State) : BitVec 8 :=
  let n := cmdLen b
  let far (g : Nat) : Bool := !isLocalPkg q.part g s
  let op := cmdOp b
  let sh := shelfOf q.target.toNat (bitsOf (cmdDst b) 55 46) (bitsOf (cmdDst b) 45 0) n s
  if n ≠ 0 ∧ ((op = 6 ∧ far (cmdSrc b) ∧ !vlEnabled s.cab.cur copyVl)
      ∨ (far (cmdDst b) ∧ !vlEnabled s.cab.cur ((sh.map Prod.snd).getD copyVl))) then stFORMAT
  else if n = 0 then failIf (partOfCore s.cab.cur q.target.toNat != some q.part) stDENIED
  else firstFail [
    failIf (op == 6 && bitsOf (cmdSrc b) 55 46 == bitsOf (cmdDst b) 55 46
      && meets (bitsOf (cmdSrc b) 45 0) n (bitsOf (cmdDst b) 45 0) n) stLENGTH,
    failIf (op == 7 && n % 4 != 0) stLENGTH,
    if op = 6 then mappedStatus (bitsOf (cmdSrc b) 45 0) n else stOK,
    mappedStatus (bitsOf (cmdDst b) 45 0) n,
    if op = 6 then globalStatus q.part (cmdSrc b) n s else stOK,
    globalStatus q.part (cmdDst b) n s,
    failIf (partOfCore s.cab.cur q.target.toNat != some q.part) stDENIED,
    failIf (!cluOk (q.target.toNat / 8) s) stFENCED]

/-- The checks that a command passes before its dispatch (R17, R92, R111 to R113); those of LOAD are made by LOAD. DESIGN
CHOICE (log entry 96): FENCED of a program with a core of a fenced cluster stands here, before the checks of R119. -/
def cmdCheck (q : Queue) (b : List Byte) (s : State) : BitVec 8 :=
  let e := cmdEncodings b
  if e ≠ stOK then e
  else match cmdOp b with
    | 2 => handleStatus q.part (cmdHandle b) s
    | 3 => firstFail [handleStatus q.part (cmdHandle b) s, failIf (progFenced (cmdHandle b % 256) s) stFENCED]
    | 4 => firstFail [handleStatus q.part (cmdHandle b) s, failIf (progFenced (cmdHandle b % 256) s) stFENCED]
    | 5 => handleStatus q.part (cmdHandle b) s
    | 6 => moveStatus q b s
    | 7 => moveStatus q b s
    | 8 => syncStatus q.part (cmdSrc b) s
    | _ => stOK

/-! Descriptors (R104, R105). -/

def descAddr (q : Nat) (s : State) : Nat := tableBase s.cab.cur + 64 * q
def descBytes (q : Nat) (s : State) : List Byte := memBytes (descAddr q s) 64 s

/-- The state of a queue as its descriptor codes it. -/
def stateCode : QState → Nat
  | .disabled => 0
  | .active => 1
  | .stalled => 2
  | .draining => 3

/-- Entry size of a queue kind: 64 B, but 16 B in a completion queue. -/
def entrySize (kind : Nat) : Nat := if kind = 2 then 16 else 64

/-- The queue that a descriptor describes, ACTIVE. -/
def descQueue (b : List Byte) (old : List QCmd) : Queue :=
  let w := le32 b 0
  { st := .active, kind := BitVec.ofNat 4 (bitsOf w 31 28), part := bitsOf w 25 24, log2 := bitsOf w 23 19,
    irqEn := bitOf w 18, vec := BitVec.ofNat 16 (bitsOf w 15 0), gen := BitVec.ofNat 8 (le32 b 4),
    ring := BitVec.ofNat 64 (le64 b 8), pi := BitVec.ofNat 32 (le32 b 0x10), ci := BitVec.ofNat 32 (le32 b 0x14),
    cplQid := bitsOf (le32 b 0x18) 19 0, target := BitVec.ofNat 8 (le32 b 0x1C),
    pass := le32 b 0x10 / 2 ^ bitsOf w 23 19, ciAddr := BitVec.ofNat 64 (le64 b 0x20), cmds := old }

def depth (q : Queue) : Nat := 2 ^ q.log2

/-- The address of the ring entry of an index. -/
def ringAddr (q : Queue) (idx : BitVec 32) : Nat := q.ring.toNat + entrySize q.kind.toNat * (idx.toNat % depth q)

/-- A reserved field of a descriptor is not 0 (R105). -/
def descReserved (b : List Byte) : Bool :=
  bitsOf (le32 b 0) 17 16 != 0 || bitsOf (le32 b 4) 31 8 != 0 || bitsOf (le32 b 0x18) 31 20 != 0
    || bitsOf (le32 b 0x1C) 31 8 != 0 || !zeroBytes b 0x28 24

/-- The checks of INVALIDATE of a DISABLED queue, in the order of R124. -/
def invalidateStatus (qid : Nat) (b : List Byte) (s : State) : BitVec 8 :=
  let w := le32 b 0
  let q := descQueue b []
  let n := depth q * entrySize q.kind.toNat
  let cb := descBytes q.cplQid s
  firstFail [
    failIf (bitsOf w 27 26 != 1 || decide (q.kind.toNat = 0 ∨ 3 < q.kind.toNat) || decide (q.log2 < 4 ∨ 20 < q.log2)
      || q.gen == 0 || q.ring.toNat % 4096 != 0 || descReserved b) stFORMAT,
    failIf (decide (depth q < (q.pi - q.ci).toNat)) stLENGTH,
    mappedStatus q.ring.toNat n,
    failIf (partOfQid s.cab.cur qid != some q.part
      || regionOf q.ring.toNat == some .reg || (ownersIn q.ring.toNat n s).any (fun o => o != some q.part)
      || inTable q.ring.toNat n s
      || (q.kind == 1 && (partOfQid s.cab.cur q.cplQid != some q.part || bitsOf (le32 cb 0) 31 28 != 2))) stDENIED]

/-- Writes STATE, PI and CI of a queue back into its descriptor (R109), where its stack is in service (R137). -/
def writeBack (qid : Nat) (s : State) : State :=
  let q := getQueue qid s
  let w := le32 (descBytes qid s) 0
  if fenceStatus (descAddr qid s) 64 s ≠ stOK then s
  else memWrite (descAddr qid s + 0x10) (leBytes 4 q.pi.toNat ++ leBytes 4 q.ci.toNat)
    (memWrite (descAddr qid s) (leBytes 4 (setBits w 27 26 (stateCode q.st))) s)

/-! Requests of chambers (R264, R285): a communication queue's requests complete in the completion queue of its chamber. -/

def getCh (id : Nat) (s : State) : Chamber := tget (fun _ => Chamber.off) s.col.chs id
def setCh (id : Nat) (x : Chamber) (s : State) : State :=
  { s with col := { s.col with chs := tset (fun _ => Chamber.off) id x s.col.chs } }
def modCh (id : Nat) (f : Chamber → Chamber) (s : State) : State := setCh id (f (getCh id s)) s

def chComm (x : Chamber) : Nat := le32 x.desc 0x10
def chCpl (x : Chamber) : Nat := le32 x.desc 0x14

/-- The chamber that a communication queue serves: one that is not INACTIVE before one that was. -/
def chOfQueue (qid : Nat) (s : State) : Option Chamber :=
  let l := (s.col.chs.map Prod.snd).filter fun x => !x.desc.isEmpty && chComm x == qid
  match l.find? fun x => x.st != 0 with
  | some x => some x
  | none => l.head?

/-- The completion queue of a queue's commands; none for a communication queue that no chamber has named. -/
def cplOf (qid : Nat) (s : State) : Option Nat :=
  if (getQueue qid s).kind = 3 then (chOfQueue qid s).map chCpl else some (getQueue qid s).cplQid

/-- DETAIL of a command that has not started: 0; of a request, step 0 and a rank (R284). -/
def unstarted (qid rank : Nat) (s : State) : Word :=
  if (getQueue qid s).kind = 3 then BitVec.ofNat 32 (rank % 1024) else 0

/-- This package's rank in the chamber of a communication queue. -/
def commRank (qid : Nat) (s : State) : Nat := ((chOfQueue qid s).map fun x => x.rank).getD 0

/-! Commands in a queue. -/

def modQueue (qid : Nat) (f : Queue → Queue) (s : State) : State := setQueue qid (f (getQueue qid s)) s

/-- A command has ended; its completion is still to be written. -/
def cmdEnded (c : QCmd) : Bool := match c.phase with
  | .ended _ _ => true
  | _ => false

/-- The cores that take a command through their command intake (R37, R112): those of a LAUNCH's program, the TARGET of a
COPY or FILL that moves bytes. -/
def intakeCores (q : Queue) (b : List Byte) (s : State) : List Nat :=
  match cmdOp b with
  | 3 => progCores (cmdHandle b % 256) s
  | 6 => if cmdLen b = 0 then [] else [q.target.toNat]
  | 7 => if cmdLen b = 0 then [] else [q.target.toNat]
  | _ => []

/-- A command leaves the intake of its cores: the credits return (R31). -/
def leaveIntake (q : Queue) (b : List Byte) (s : State) : State :=
  match cmdOp b with
  | 3 => forAll (List.range 256) (fun k => hoLeave k b) s
  | 6 => hoLeave q.target.toNat b s
  | 7 => hoLeave q.target.toNat b s
  | _ => s

/-- Changes the phase of a fetched command that has not ended; one that was dispatched leaves the intake of its cores. -/
def setPhase (qid : Nat) (idx : BitVec 32) (p : CmdPhase) (s : State) : State :=
  let q := getQueue qid s
  let s := match q.cmds.find? fun c => c.idx == idx && !cmdEnded c with
    | none => s
    | some c => if c.phase = .dispatched then leaveIntake q c.bytes s else s
  setQueue qid { q with cmds := q.cmds.map fun c => if c.idx = idx ∧ !cmdEnded c then { c with phase := p } else c } s

/-- A command ends with a status and DETAIL; its completion is written by COMPLETION_WRITE (R115). -/
def endCmd (qid : Nat) (idx : BitVec 32) (st : BitVec 8) (detail : Word) (s : State) : State :=
  setPhase qid idx (.ended st detail) s

/-- The command of a queue that is dispatched and has not started, where its opcode is op. -/
def waitingCmd (qid op : Nat) (s : State) : Option QCmd :=
  (getQueue qid s).cmds.find? fun c => c.phase == .dispatched && cmdOp c.bytes == op

/-- The step of a waiting command of a queue; without one, or in the safe state (R28), nothing happens. -/
def withCmd (qid op : Nat) (f : Queue → QCmd → State → State) (s : State) : State :=
  match waitingCmd qid op s with
  | none => s
  | some c => if isSafe s then s else f (getQueue qid s) c s

/-- The indices from CI to PI whose ring entries can be read: memory that is fenced, out of service or being scrubbed
gives none (R25, R137, R141, R142). -/
def unfetchedIdx (q : Queue) (s : State) : List (BitVec 32) :=
  ((List.range (q.pi - q.ci).toNat).map fun i => q.ci + BitVec.ofNat 32 i).filter fun i =>
    fenceStatus (ringAddr q i) 64 s == stOK && !(ownersIn (ringAddr q i) 64 s).any fun o => o.any fun p => scrubbing p s

/-- The ring entries from CI to PI, as commands that ended with a status without starting. -/
def unfetched (q : Queue) (st : BitVec 8) (detail : Word) (s : State) : List QCmd :=
  (unfetchedIdx q s).map fun i => ⟨i, q.gen, memBytes (ringAddr q i) 64 s, .ended st detail⟩

/-- Every command of a command or communication queue that has not started completes with a status, the entries from CI to
PI among them, once; PI and CI are kept (R109). rank is the one that DETAIL of a request names (R284). -/
def flushCmds (qid : Nat) (st : BitVec 8) (rank : Nat) (s : State) : State :=
  let q := getQueue qid s
  let s := { s with waiters := s.waiters.filter fun w => w.isCore || !(w.id == qid) }
  if q.kind = 1 ∨ q.kind = 3 then
    let live := q.st == .active || q.st == .draining
    let rest := if live then unfetched q st (unstarted qid rank s) s else []
    let s := if live then forAll (unfetchedIdx q s) (fun i s => (readAll (ringAddr q i) 64 s).1) s else s
    setQueue qid { q with
      cmds := (q.cmds.map fun c => if c.phase = .dispatched then { c with phase := .ended st (unstarted qid rank s) } else c) ++ rest }
      (forAll (q.cmds.filter fun c => c.phase == .dispatched) (fun c => leaveIntake q c.bytes) s)
  else s

/-- A queue becomes DISABLED, as RESET does, with the status of the commands not yet started (R109). -/
def disableQueue (st : BitVec 8) (qid : Nat) (s : State) : State :=
  if (getQueue qid s).st = .disabled then s
  else
    let s := flushCmds qid st (commRank qid s) s
    writeBack qid (modQueue qid (fun q => { q with st := .disabled }) s)

/-- A queue enters STALLED by a cause that a rank of its chamber raised (R109, R284). -/
def stallQueueBy (qid rank : Nat) (s : State) : State :=
  let s := modQueue qid (fun q => { q with st := .stalled }) (flushCmds qid stSTALLED rank s)
  fset qmB fQM_STALL_LAST_QID qid (evt qmB eQM_STALL_STALL s)

/-- A queue enters STALLED (R109). -/
def stallQueue (qid : Nat) (s : State) : State := stallQueueBy qid (commRank qid s) s

/-- The queues of a partition that are not DISABLED. -/
def liveQueues (p : Nat) (s : State) : List Nat :=
  (s.queues.filter fun e => e.2.st != .disabled && partOfQid s.cab.cur e.1 == some p).map Prod.fst

/-! Doorbells (R107 to R109). -/

/-- A doorbell word at the window of partition w takes effect (R107, R108). -/
def ringBell (w : Nat) (word : Word) (s : State) : State :=
  let qid := bitsOf word.toNat 31 12
  let low := BitVec.ofNat 12 word.toNat
  let q := getQueue qid s
  if partOfQid s.cab.cur qid ≠ some w then faddSat qmB fQM_DROP_DENIED_CNT 1 s
  else if q.st ≠ .active then faddSat qmB fQM_DROP_INACTIVE_CNT 1 s
  else if q.kind = 2 then
    let delta := (low - q.ci.setWidth 12).toNat
    if (q.pi - q.ci).toNat < delta then faddSat qmB fQM_DROP_DENIED_CNT 1 s
    else setQueue qid { q with ci := q.ci + BitVec.ofNat 32 delta } s
  else
    let delta := (low - q.pi.setWidth 12).toNat
    let pi := q.pi + BitVec.ofNat 32 delta
    if delta = 0 then s
    else if depth q < (pi - q.ci).toNat then stallQueue qid s
    else setQueue qid { q with pi := pi } s

/-- A doorbell write: held while CTRL is PAUSED (R28), denied until READY (R354). -/
def doorbellOp (r : Requester) (w : Fin 4) (word : Word) (s : State) : State :=
  if !serving s then countDenied r s
  else if ctrlPlane s = 2 then { s with bells := s.bells ++ [⟨r, w, word⟩] }
  else ringBell w.val word (countEvt ctrQm 0x60 1 s)

/-- A requester reaches the doorbell window of a partition (R107, R418): PF0, the management ports and engines reach
every window, PF(p + 1) its own. -/
def bellReach (r : Requester) (w : Nat) (s : State) : Bool :=
  match r with
  | .pf f => f.val == 0 || (f.val == w + 1 && partExists s.cab.cur w)
  | _ => true

/-- DOORBELL (R107). -/
def execDoorbell (r : Requester) (w : Fin 4) (word : BitVec 32) (s : State) : Host.Outcome State Fault Refusal :=
  .next (if bellReach r w.val s then doorbellOp r w word s else countDenied r s)

/-! Dispatch and completion (R111, R115). -/

/-- The ring entry can be read and CI written now: neither place is fenced, scrubbed or under a reset (R25, R137, R141,
R362). -/
def ringOpen (q : Queue) (s : State) : Bool :=
  memOpen (ringAddr q q.ci) 64 s && (q.ciAddr == 0 || drainStatus q.ciAddr.toNat 4 s == stOK)

/-- The next command of a queue may be dispatched: the queue is ACTIVE with an entry that can be read, CTRL is RUN, the
previous command has started, under ORDER every earlier command has completed, and each core that takes it has a credit
for its command intake (R31, R109, R111). -/
def mayDispatch (q : Queue) (b : List Byte) (s : State) : Bool :=
  q.st == .active && q.kind == 1 && q.pi != q.ci && ctrlPlane s == 1 && q.cmds.all (fun c => c.phase != .dispatched)
    && (!cmdOrder b || q.cmds.isEmpty) && ringOpen q s && (cmdCheck q b s != stOK || (intakeCores q b s).all (hoCan · s))

/-- The index write of a queue after a fetch. DESIGN CHOICE (log entry 82): a CI_ADDR outside the memory that the partition
reaches, fenced or not in service takes no byte; nor does a sink window (R155). -/
def writeCi (q : Queue) (s : State) : State :=
  let a := q.ciAddr.toNat
  if a = 0 ∨ regionOf a = some .reg ∨ rangeStatus (.part q.part) a 4 s ≠ stOK ∨ inSink a 4 s then s
  else memWrite a (leBytes 4 (q.ci + 1).toNat) s

/-- COMMAND_DISPATCH (R111): fetch, check, dispatch; a command that fails its checks ends at once (R115). -/
def dispatchCmd (qid : Nat) (s : State) : State :=
  let q := getQueue qid s
  let b := memBytes (ringAddr q q.ci) 64 s
  if mayDispatch q b s then
    let st := cmdCheck q b s
    let c : QCmd := ⟨q.ci, q.gen, b, if st = stOK then .dispatched else .ended st 0⟩
    let s := if st = stOK then forAll (intakeCores q b s) (fun k => hoSend k b) s else s
    let s := countEvt ctrQm 0x61 1 (readAll (ringAddr q q.ci) 64 s).1
    writeCi q (setQueue qid { q with ci := q.ci + 1, cmds := q.cmds ++ [c] } s)
  else s

/-- COMMAND_DISPATCH. -/
def execCommandDispatch (q : BitVec 20) (s : State) : Host.Outcome State Fault Refusal := .next (dispatchCmd q.toNat s)

/-- A valid place of a sync object of a partition's work (R116, R418). DESIGN CHOICE (log entry 81): a SYNC_ADDR that is none
takes no ADD, and no status reports it. -/
def syncOk (p a : Nat) (s : State) : Bool := syncStatus p a s == stOK

/-! Completions (R114, R115). -/

/-- What a completion needs from the bytes of a command or of a request: tag, completion wanted, sync object and value. -/
def cplTag (kind : Nat) (b : List Byte) : Nat := if kind = 3 then le16 b 4 else cmdTag b
def cplWanted (kind : Nat) (b : List Byte) : Bool := kind == 3 || cmdCplEn b
def cplSync (kind : Nat) (b : List Byte) : Option (Nat × Nat) :=
  if kind = 3 then (if le64 b 0x20 = 0 then none else some (le64 b 0x20, le32 b 0x28))
  else if cmdSyncEn b then some (le64 b 8, le32 b 0x10) else none

/-- The 16 bytes of a completion (R114); PHASE is 1 on the pass of the ring on which the queue was activated. -/
def completionBytes (kind qid : Nat) (c : QCmd) (cq : Queue) (st : BitVec 8) (detail : Word) (s : State) : List Byte :=
  let phase := if (cq.pi.toNat / depth cq + cq.pass) % 2 = 0 then 1 else 0
  leBytes 4 (cmdOp c.bytes * 2 ^ 24 + st.toNat * 2 ^ 16 + cplTag kind c.bytes)
  ++ leBytes 4 (phase * 2 ^ 31 + c.gen.toNat * 2 ^ 20 + qid) ++ leBytes 4 detail.toNat ++ leBytes 4 (s.clk.w.toNat % 2 ^ 32)

/-- Writes a completion into a completion queue and raises its vector (R114, R115, R440). DESIGN CHOICE (log entry 82): a
completion for a queue that is DISABLED or no completion queue is dropped, and one whose ring entry is fenced or not in
service, or lies in a sink window, moves no byte (R25, R137, R155). -/
def writeCompletion (cqid : Nat) (bytes : List Byte) (s : State) : State :=
  let cq := getQueue cqid s
  if cq.st ≠ .disabled ∧ cq.kind = 2 then
    let s := countEvt ctrQm 0x62 1 (if memOpen (ringAddr cq cq.pi) 16 s && !inSink (ringAddr cq cq.pi) 16 s then
      memPut (ringAddr cq cq.pi) bytes.length (sparse 0 bytes) s else s)
    let s := setQueue cqid { cq with pi := cq.pi + 1 } s
    if cq.irqEn then raiseVec (cq.part + 1) cq.vec.toNat s else s
  else s

/-- A full completion queue holds back the completion write (R109). -/
def cplFull (qid : Nat) (b : List Byte) (s : State) : Bool :=
  match cplOf qid s with
  | none => false
  | some k =>
    let cq := getQueue k s
    cplWanted (getQueue qid s).kind.toNat b && cq.st != .disabled && cq.kind == 2 && (cq.pi - cq.ci).toNat == depth cq

/-- While SRAM is under a compute-part reset, a completion or a sync update that touches it waits (R362). -/
def cplWaits (qid : Nat) (b : List Byte) (s : State) : Bool :=
  s.computeReset &&
    ((match cplSync (getQueue qid s).kind.toNat b with
      | none => false
      | some x => regionOf x.1 == some .sram)
     || (match cplOf qid s with
      | none => false
      | some k => cplWanted (getQueue qid s).kind.toNat b && (getQueue k s).st != .disabled
          && regionOf (getQueue k s).ring.toNat == some .sram))

/-- COMPLETION_WRITE (R115): sync update, completion, MSI-X, in this order; nothing in the safe state (R28). -/
def completeCmd (qid : Nat) (idx : BitVec 32) (s : State) : State :=
  let q := getQueue qid s
  match q.cmds.find? fun c => c.idx == idx && cmdEnded c with
  | none => s
  | some c => match c.phase with
    | .ended st detail =>
      if isSafe s || cplFull qid c.bytes s || cplWaits qid c.bytes s then s
      else
        let kind := q.kind.toNat
        let s := match cplSync kind c.bytes with
          | none => s
          | some x => if syncOk q.part x.1 s then syncAddAt x.1 (BitVec.ofNat 32 x.2) s else s
        let s := match cplOf qid s with
          | none => s
          | some k => if cplWanted kind c.bytes then
              writeCompletion k (completionBytes kind qid c (getQueue k s) st detail s) s else s
        modQueue qid (fun q => { q with cmds := q.cmds.erase c }) s
    | _ => s

/-- COMPLETION_WRITE. -/
def execCompletionWrite (q : BitVec 20) (idx : BitVec 32) (s : State) : Host.Outcome State Fault Refusal :=
  .next (completeCmd q.toNat idx s)

/-- NOP completes with OK (R110). -/
def execNop (q : BitVec 20) (s : State) : Host.Outcome State Fault Refusal :=
  .next (withCmd q.toNat 0 (fun _ c s => endCmd q.toNat c.idx stOK 0 s) s)

/-- SYNC_WAIT starts, and ends, once its object has reached TARGET (R111, R118); its place is checked as every access is, also
where it has closed since the dispatch (R25, R137, R141). -/
def execSyncWait (q : BitVec 20) (s : State) : Host.Outcome State Fault Refusal :=
  .next (withCmd q.toNat 8 (fun x c s =>
    let st := syncStatus x.part (cmdSrc c.bytes) s
    if st ≠ stOK then endCmd q.toNat c.idx st 0 s
    else
      let w := waitSync ⟨false, q.toNat, c.idx.toNat, cmdSrc c.bytes, BitVec.ofNat 32 (le32 c.bytes 0x20), false⟩ s
      if w.1 then endCmd q.toNat c.idx stOK 0 w.2 else w.2) s)

/-! QM_QCTL (R123, R124). -/

/-- PF0 may command any QID, PF(p + 1) the QIDs of partition p (R124). -/
def qctlReach (r : Requester) (qid : Nat) (s : State) : Bool := isPf0 r || partOfQid s.cab.cur qid == reqPart r s

/-- Ends a command of QM_QCTL: its status is written and BUSY reads 0 (R124). -/
def qctlEnd (cmd qid : Nat) (st : BitVec 8) (s : State) : State :=
  fset qmB fQM_QCTL_CMD cmd (fset qmB fQM_QCTL_QID qid (fset qmB fQM_QCTL_BUSY 0 (fset qmB fQM_QCTL_STATUS st.toNat s)))

/-- INVALIDATE (R109, R124); a descriptor in a stack that is not in service is not read (R137). -/
def invalidateOp (r : Requester) (qid : Nat) (s : State) : State :=
  let b := descBytes qid s
  let q := getQueue qid s
  if !qctlReach r qid s then qctlEnd 1 qid stDENIED s
  else if q.st ≠ .disabled then qctlEnd 1 qid stDENIED s
  else if fenceStatus (descAddr qid s) 64 s ≠ stOK then qctlEnd 1 qid stFENCED s
  else
    let st := invalidateStatus qid b s
    let s := (readAll (descAddr qid s) 64 s).1
    if bitsOf (le32 b 0) 27 26 = 0 then
      qctlEnd 1 qid stOK (setQueue qid { Queue.off with cmds := q.cmds, cplQid := q.cplQid, part := q.part } s)
    else qctlEnd 1 qid st (if st = stOK then setQueue qid (descQueue b q.cmds) s else s)

/-- DRAIN (R109, R124). -/
def drainOp (r : Requester) (qid : Nat) (s : State) : State :=
  if !qctlReach r qid s then qctlEnd 2 qid stDENIED s
  else match (getQueue qid s).st with
    | .active => qctlEnd 2 qid stOK (modQueue qid (fun q => { q with st := .draining }) s)
    | .stalled => qctlEnd 2 qid stDENIED s
    | _ => qctlEnd 2 qid stOK s

/-- RESET (R109, R124). -/
def resetQueueOp (r : Requester) (qid : Nat) (s : State) : State :=
  if !qctlReach r qid s then qctlEnd 3 qid stDENIED s else qctlEnd 3 qid stOK (disableQueue stSTALLED qid s)

/-- The gate of QM_QCTL: its write is dropped and logged while BUSY is 1 (R123). -/
def qctlGate (r : Requester) (f : State → State) (s : State) : State :=
  if !mayCommand r s then countDenied r s
  else if fget qmB fQM_QCTL_BUSY s = 1 then regAccessFault r (qmB + oQM_QCTL) s
  else f s

def execInvalidate (r : Requester) (q : BitVec 20) (s : State) : Host.Outcome State Fault Refusal :=
  .next (qctlGate r (invalidateOp r q.toNat) s)
def execQueueDrain (r : Requester) (q : BitVec 20) (s : State) : Host.Outcome State Fault Refusal :=
  .next (qctlGate r (drainOp r q.toNat) s)
def execQueueReset (r : Requester) (q : BitVec 20) (s : State) : Host.Outcome State Fault Refusal :=
  .next (qctlGate r (resetQueueOp r q.toNat) s)

/-- QUEUE_DRAIN_DONE: the last fetched command of a DRAINING queue has completed (R109). -/
def execQueueDrainDone (q : BitVec 20) (s : State) : Host.Outcome State Fault Refusal :=
  .next (if (getQueue q.toNat s).st = .draining ∧ (getQueue q.toNat s).cmds.isEmpty ∧ !isSafe s then
      writeBack q.toNat (modQueue q.toNat (fun x => { x with st := .disabled }) s)
    else s)

/-- SYNC_ADD: an ADD applies to a sync object (R117, R118); a fenced, scrubbed or resetting place takes none (R25, R137,
R141, R362), and none applies in the safe state (R28). -/
def execSyncAdd (addr : BitVec 46) (val : BitVec 32) (s : State) : Host.Outcome State Fault Refusal :=
  .next (if syncPlaceOk addr.toNat && memOpen addr.toNat 16 s && !isSafe s then syncAddAt addr.toNat val s else s)

/-- On whose behalf a requester reaches memory (R418, R420, R436). -/
def reqWho (r : Requester) (s : State) : Who :=
  match r with
  | .pf f => if f.val = 0 then .pf0 else .pf (f.val - 1)
  | .engine c => .part ((partOfCore s.cab.cur c.val).getD 0)
  | _ => .pf0

/-- A write of a requester is refused at a sink window (R155). -/
def sinkRefuses (r : Requester) (a n : Nat) (s : State) : Bool :=
  match r with
  | .engine c => ownWriteRefused c.val a n s
  | _ => inSink a n s

/-- A requester may write memory now: an engine, or a function or port that the package serves. -/
def mayStore (r : Requester) (s : State) : Bool :=
  match r with
  | .engine _ => !isSafe s
  | _ => mayCommand r s

/-- SYNC_IRQ_ARM: a write of the word at 0x04 of a sync object (R116): IRQ_EN arms its interrupt, unless the word lies in an
uncorrectable one and the write is dropped (R131). -/
def execSyncIrqArm (r : Requester) (addr : BitVec 46) (word : BitVec 32) (s : State) :
    Host.Outcome State Fault Refusal :=
  .next (if mayStore r s && syncPlaceOk addr.toNat && rangeStatus (reqWho r s) addr.toNat 16 s == stOK
      && !sinkRefuses r (addr.toNat + 4) 4 s then
      let t := memPut (addr.toNat + 4) 4 (sparse 0 (leBytes 4 word.toNat)) s
      if isUE addr.toNat t then t else syncArm addr.toNat t
    else countDenied r s)

end Sys2Proof.Machine
end

