-- ==== Sys2Proof/Machine/Plan.lean ====
section
/-! DEFINITION. The shape of a slice and the membership of chambers (R257 to R261), the steps of requests (R264, R265, R267,
R268), when a step is due or complete (R269, R277, R278), and the engines that a chamber holds (R270). -/

namespace Sys2Proof.Machine

/-! Shape and membership. -/

/-- Extent of axis a of the slice of a partition (R257, R290). -/
def axExt (c : CabStruct) (p a : Nat) : Nat := bitsOf (sectW c 9 (4 + 4 * p)) (8 * a + 7) (8 * a)
/-- Level of an axis. -/
def axLevel (c : CabStruct) (p a : Nat) : Nat := bitsOf (sectW c 9 (6 + 4 * p)) (2 * a + 1) (2 * a)
def chBase (c : CabStruct) (p : Nat) : Nat := bitsOf (sectW c 9 (5 + 4 * p)) 11 0
def chCount (c : CabStruct) (p : Nat) : Nat := bitsOf (sectW c 9 (5 + 4 * p)) 28 16

/-- The partition whose chamber range holds a chamber ID (R290). -/
def partOfCh (c : CabStruct) (id : Nat) : Option Nat :=
  (partList c).find? fun p => decide (chBase c p ≤ id ∧ id < chBase c p + chCount c p)

/-- Fields of a chamber descriptor (R260). -/
def dKind (d : List Byte) : Nat := bitsOf (le32 d 0) 31 28
def dRing (d : List Byte) : Bool := bitsOf (le32 d 0) 27 24 == 2
def dBslot (d : List Byte) : Nat := bitsOf (le32 d 0) 23 21
def dVl (d : List Byte) : Nat := bitsOf (le32 d 0) 18 16
def dCgen (d : List Byte) : Nat := bitsOf (le32 d 0) 15 0
def dAxis (d : List Byte) (a : Nat) : Bool := bitOf (le32 d 4) a
def dOrg (d : List Byte) (a : Nat) : Nat := (d.getD (8 + a) 0).toNat
def dSpan (d : List Byte) (a : Nat) : Nat := (d.getD (12 + a) 0).toNat
def dHome0 (d : List Byte) : Nat := bitsOf (le32 d 0x18) 15 8
def dHomes (d : List Byte) : Nat := 2 ^ bitsOf (le32 d 0x18) 1 0
def dCap (d : List Byte) : Nat := le32 d 0x1C
def dLandOff (d : List Byte) : Nat := le32 d 0x20
def dLandLen (d : List Byte) : Nat := le32 d 0x24

def axes (d : List Byte) : List Nat := (List.range 4).filter (dAxis d)

/-- The coordinates of a package index (R257). -/
def coordsOf (c : CabStruct) (p i : Nat) : List Nat :=
  let e0 := axExt c p 0
  let e1 := axExt c p 1
  let e2 := axExt c p 2
  [i % e0, i / e0 % e1, i / (e0 * e1) % e2, i / (e0 * e1 * e2)]

/-- The package index of coordinates. -/
def indexOf (c : CabStruct) (p : Nat) (x : List Nat) : Nat :=
  x.getD 0 0 + axExt c p 0 * (x.getD 1 0 + axExt c p 1 * (x.getD 2 0 + axExt c p 2 * x.getD 3 0))

/-- The mixed-radix value over a list of axes, the first changing fastest (R258). -/
def radix (d : List Byte) (x : List Nat) : List Nat → Nat
  | [] => 0
  | a :: r => (x.getD a 0 - dOrg d a) + dSpan d a * radix d x r

/-- Coordinates with the mixed-radix value v over a list of axes. -/
def unradix (d : List Byte) (x : List Nat) : List Nat → Nat → List Nat
  | [], _ => x
  | a :: r, v => unradix d (modAt a (fun _ => dOrg d a + v % dSpan d a) x) r (v / dSpan d a)

/-- The number of members (R258). -/
def memberCount (d : List Byte) : Nat := ((axes d).map (dSpan d)).prod

/-- The coordinates of a member, given this package's own. -/
def memberCoords (d : List Byte) (own : List Nat) (rank : Nat) : List Nat := unradix d own (axes d) rank

/-- The axes of a level that vary. -/
def levelAxes (c : CabStruct) (p : Nat) (d : List Byte) (l : Nat) : List Nat :=
  (axes d).filter fun a => axLevel c p a == l

/-- The spanned levels, from the innermost outwards (R259). -/
def spanned (c : CabStruct) (p : Nat) (d : List Byte) : List Nat :=
  [0, 1, 2].filter fun l => (levelAxes c p d l).any fun a => decide (1 < dSpan d a)

/-- The group size of a level (R259). -/
def groupSize (c : CabStruct) (p : Nat) (d : List Byte) (l : Nat) : Nat := ((levelAxes c p d l).map (dSpan d)).prod

/-- The ranks of the level group of this package, in level-rank order (R259). -/
def groupRanks (c : CabStruct) (p : Nat) (d : List Byte) (own : List Nat) (l : Nat) : List Nat :=
  (List.range (groupSize c p d l)).map fun q => radix d (unradix d own (levelAxes c p d l) q) (axes d)

/-- The landing area that a chamber needs (R261). -/
def landNeed (c : CabStruct) (p : Nat) (d : List Byte) : Nat :=
  2 * dCap d * ((spanned c p d).map fun l => groupSize c p d l - 1).sum

/-- The home cores (R260). -/
def homesOf (d : List Byte) : List Nat := (List.range (dHomes d)).map fun i => dHome0 d + i

/-- The home core of index i, counted from HOME0 (R260, R273). -/
def homeOf (d : List Byte) (i : Nat) : Nat := dHome0 d + i

/-- This package's coordinates in the slice of a partition. -/
def ownCoords (p : Nat) (s : State) : List Nat := coordsOf s.cab.cur p (pkgIndex s.cab.cur p)

/-- The other members of a chamber. -/
def peersOf (x : Chamber) : List Nat := (List.range (memberCount x.desc)).filter fun r => r != x.rank

/-- The chambers that are not INACTIVE. -/
def liveChs (s : State) : List (Nat × Chamber) := s.col.chs.filter fun e => e.2.st != 0

/-- A chamber is READY, TIMED or CREDITED. -/
def chRuns (x : Chamber) : Bool := x.st == 1 || x.st == 2 || x.st == 3

/-! Requests (R264 to R266). -/

def rqOp (b : List Byte) : Nat := bitsOf (le32 b 0) 31 24
def rqRop (b : List Byte) : Nat := bitsOf (le32 b 0) 23 20
def rqIn (b : List Byte) : Nat := bitsOf (le32 b 0) 19 16
def rqOut (b : List Byte) : Nat := bitsOf (le32 b 0) 15 12
def rqRnd (b : List Byte) : Nat := bitsOf (le32 b 0) 11 10
def rqSat (b : List Byte) : Bool := bitOf (le32 b 0) 9
def rqTimed (b : List Byte) : Bool := bitOf (le32 b 0) 8
def rqRoot (b : List Byte) : Nat := bitsOf (le32 b 4) 25 16
def rqSrc (b : List Byte) : Nat := le32 b 8
def rqDst (b : List Byte) : Nat := le32 b 0xC
def rqCount (b : List Byte) : Nat := bitsOf (le32 b 0x10) 23 0
def rqT0 (b : List Byte) : BitVec 48 := BitVec.ofNat 48 (le32 b 0x14 + 2 ^ 32 * bitsOf (le32 b 0x18) 15 0)
def rqSlot (b : List Byte) : Nat := le32 b 0x1C
def rqSizes (b : List Byte) : Nat := le32 b 0x2C
def rqDrops (b : List Byte) : Nat := le32 b 0x30

/-- The kinds of a step. -/
inductive StepOp where
  | reduce
  | gather
  | ringReduce
  | segments
  deriving DecidableEq, Repr

/-- A step that reduces. -/
def isReduce (o : StepOp) : Bool := o == .reduce || o == .ringReduce

/-- A step of a request: its kind, the format of its chunks and whether it carries MX32 scales, the peers that it sends to
and expects chunks from, each with its range (elements, or bytes of ALL_TO_ALL), the range kept at this member, and the
first element of the values at hand. -/
structure ChPlan where
  op    : StepOp
  fmt   : Nat
  mx    : Bool
  sends : List (Nat × Nat × Nat)
  recvs : List (Nat × Nat × Nat)
  own   : Nat × Nat
  base  : Nat
  deriving DecidableEq, Repr

/-- Chunk q of an element range divided among n members (R267). -/
def chunkOf (lo hi n q : Nat) (mx : Bool) : Nat × Nat :=
  let e := hi - lo
  let c := (e + n - 1) / n
  let c := if mx then (c + 31) / 32 * 32 else c
  (lo + Nat.min (q * c) e, lo + Nat.min ((q + 1) * c) e)

/-- The format of a level (R271, R290). -/
def levelFmt (c : CabStruct) (l : Nat) : Nat × Bool :=
  let w := bitsOf (sectW c 9 0) (8 * l + 7) (8 * l)
  (bitsOf w 4 0, bitsOf w 6 5 == 1)

/-- The element range at hand before level j of the spanned levels (R267). -/
def levelRange (c : CabStruct) (p : Nat) (d : List Byte) (own : List Nat) : List Nat → Nat × Nat → Nat × Nat
  | [], r => r
  | l :: ls, r =>
    levelRange c p d own ls
      (chunkOf r.1 r.2 (groupSize c p d l) (radix d own (levelAxes c p d l)) (levelFmt c l).2)

/-- The reduce-scatter or all-gather step of spanned level j under DIRECT (R267). -/
def levelStep (c : CabStruct) (x : Chamber) (own : List Nat) (b : List Byte) (j : Nat) (gather : Bool) : ChPlan :=
  let p := x.part
  let d := x.desc
  let ls := spanned c p d
  let l := ls.getD j 0
  let n := groupSize c p d l
  let f := levelFmt c l
  let r := levelRange c p d own (ls.take j) (0, rqCount b)
  let me := radix d own (levelAxes c p d l)
  let g := ((groupRanks c p d own l).zipIdx.filter fun y => y.2 != me)
  let mine := chunkOf r.1 r.2 n me f.2
  if gather then
    ⟨.gather, rqOut b, false, g.map fun y => (y.1, mine), g.map fun y => (y.1, chunkOf r.1 r.2 n y.2 f.2), mine, r.1⟩
  else
    ⟨.reduce, f.1, f.2, g.map fun y => (y.1, chunkOf r.1 r.2 n y.2 f.2), g.map fun y => (y.1, mine), mine, r.1⟩

/-- A step under RING (R268): chunk indices of the chunk sent and of the chunk received. -/
def ringStep (x : Chamber) (b : List Byte) (step : Nat) : ChPlan :=
  let n := memberCount x.desc
  let r := x.rank
  let nxt := (r + 1) % n
  let prv := (r + n - 1) % n
  let whole (q : Nat) : Nat × Nat := if rqOp b = 3 then (q * rqCount b, (q + 1) * rqCount b) else chunkOf 0 (rqCount b) n q false
  let red : Bool := rqOp b != 3 && decide (step < n - 1)
  let k := if rqOp b = 3 then step else if red then step + 1 else step - (n - 1)
  let snd := whole ((r + 2 * n - k) % n)
  let rcv := whole ((prv + 2 * n - k) % n)
  ⟨if red then .ringReduce else .gather, if red then fmtW48 else rqOut b, false, [(nxt, snd)], [(prv, rcv)],
   if red then rcv else snd, snd.1⟩

/-- The number of steps of a request (R267, R268). -/
def stepCount (c : CabStruct) (x : Chamber) (b : List Byte) : Nat :=
  let m := (spanned c x.part x.desc).length
  let n := memberCount x.desc
  match rqOp b with
  | 1 => if dRing x.desc then 2 * n - 2 else 2 * m
  | 2 => if dRing x.desc then n - 1 else m
  | 3 => if dRing x.desc then n - 1 else 1
  | _ => 1

/-- The plan of a step. -/
def planOf (c : CabStruct) (x : Chamber) (own : List Nat) (b : List Byte) (step : Nat) : ChPlan :=
  let m := (spanned c x.part x.desc).length
  let cnt := rqCount b
  let peers := peersOf x
  if dRing x.desc then ringStep x b step
  else match rqOp b with
    | 1 => if step < m then levelStep c x own b step false else levelStep c x own b (2 * m - 1 - step) true
    | 2 => levelStep c x own b step false
    | 3 => ⟨.gather, rqIn b, false, peers.map fun r => (r, x.rank * cnt, (x.rank + 1) * cnt),
        peers.map fun r => (r, r * cnt, (r + 1) * cnt), (x.rank * cnt, (x.rank + 1) * cnt), 0⟩
    | 4 => ⟨.segments, 0, false, peers.map fun r => (r, r * dCap x.desc, (r + 1) * dCap x.desc),
        peers.map fun r => (r, r * dCap x.desc, (r + 1) * dCap x.desc),
        (x.rank * dCap x.desc, (x.rank + 1) * dCap x.desc), 0⟩
    | 5 => ⟨.gather, rqIn b, false, if x.rank = rqRoot b then peers.map fun r => (r, 0, cnt) else [],
        if x.rank = rqRoot b then [] else [(rqRoot b, 0, cnt)], (0, if x.rank = rqRoot b then cnt else 0), 0⟩
    | _ => ⟨.gather, 0, false, peers.map fun r => (r, 0, 0), peers.map fun r => (r, 0, 0), (0, 0), 0⟩

/-- The plan of a step of the request that runs. -/
def curPlan (id : Nat) (r : ChReq) (step : Nat) (s : State) : ChPlan :=
  planOf s.cab.cur (getCh id s) (ownCoords (getCh id s).part s) r.bytes step

/-- The bytes of a chunk of n elements (R272). -/
def wireLen (fmt : Nat) (mx : Bool) (n : Nat) : Nat := packedLen fmt n + (if mx then (n + 31) / 32 else 0)

/-- The credit of a parity towards a peer is there (R277); spent holds 2 rank + parity. -/
def credited (x : Chamber) (peer : Nat) : Bool := !x.spent.contains (2 * peer + x.cseq.toNat % 2)

/-- The count of P at which P reaches T_s (R264, R280). -/
def dueAt (r : ChReq) (step : Nat) : Int := r.due0 + (step * rqSlot r.bytes : Nat)

/-- P has reached T_s, and whether it did so in this NCLK cycle (R278). -/
def dueNow (r : ChReq) (step : Nat) (s : State) : Bool := decide (dueAt r step ≤ (s.clk.pCount : Int))
def dueJust (r : ChReq) (step : Nat) (s : State) : Bool :=
  let d : Int := divider (fget drpB fDRP_RUNG_DOMAIN s)
  decide (((s.clk.pCount : Int) - dueAt r step) * d + s.clk.pFrac < 6)

/-- Every chunk that a step expects has arrived at every home core (R269). -/
def allArrived (x : Chamber) (pl : ChPlan) (step : Nat) : Bool :=
  (List.range (dHomes x.desc)).all fun i => pl.recvs.all fun y =>
    x.rx.any fun c => c.arrived && c.cseq == x.cseq.setWidth 8 && c.home == i && c.step == step && c.rank == y.1

/-! Engines that a chamber holds (R270). -/

/-- A running chamber takes engine e of a core, VX (2) or SX (3): both for a step that may start, SX for a message that has its
landing credit, VX for a reduction of which every chunk has arrived. -/
def chTakes (id : Nat) (x : Chamber) (c e : Nat) (s : State) : Bool :=
  (x.st == 2 || x.st == 3) && (homesOf x.desc).contains c && (match x.req with
    | none => false
    | some r =>
      if !r.going then !rqTimed r.bytes || dueNow r r.step s
      else if e = 3 then r.unsent.any fun m => homeOf x.desc m.1 == c && (r.spent.contains m.2 || credited x m.2)
      else
        let pl := curPlan id r r.step s
        isReduce pl.op && r.unsent.isEmpty && allArrived x pl r.step)

/-- An engine of a core that a chamber holds or takes as soon as the instructions in its queue have completed: program
bundles that name it wait (R96, R270). -/
def chHolds (c e : Nat) (s : State) : Bool := decide (2 ≤ e) && (liveChs s).any fun y => chTakes y.1 y.2 c e s

end Sys2Proof.Machine
end

