-- ==== Sys2Proof/Machine/Flags.lean ====
section
/-! DEFINITION. Flag computations: the flags of an engine instruction become set events of CORE_ENG_FLAGS, once for each
instruction (R67, R82, R83). -/

namespace Sys2Proof.Machine

/-- The event of one flag bit. -/
def flagEvt : Nat → Evt
  | 0 => eCORE_ENG_FLAGS_NV
  | 1 => eCORE_ENG_FLAGS_OF
  | 2 => eCORE_ENG_FLAGS_UF
  | 3 => eCORE_ENG_FLAGS_T5_BAD
  | _ => eCORE_ENG_FLAGS_SCALE_NAN

/-- Raises the flags of one instruction of a core: one set event for each flag (R83). -/
def raiseFlags (c fl : Nat) (s : State) : State :=
  forAll ((List.range 5).filter (bitOf fl)) (fun i => evt (coreB c) (flagEvt i)) s

/-- The union of two sets of flags. -/
def orFlags (a b : Nat) : Nat := a ||| b

/-- The union of the flags of a list of results, beside the results. -/
def collectFlags (l : List (Nat × Nat)) : List Nat × Nat := (l.map Prod.fst, l.foldl (fun a r => orFlags a r.2) 0)

end Sys2Proof.Machine
end

