-- ==== Sys2Proof/Machine/Engine.lean ====
section
/-! DEFINITION. Engine instructions: the head of an engine's instruction queue, its end (R95, R96, R131), and the memory
that MX and VX read and write. -/

namespace Sys2Proof.Machine

/-- The instruction at the head of an engine's queue: engines run their instructions in order (R96). -/
def headOf (c e : Nat) (s : State) : Option EngInstr := ((getCore c s).q.getD e []).head?

/-- Replaces the head of an engine's queue. -/
def setHead (c e : Nat) (x : EngInstr) (s : State) : State :=
  modCore c (fun k => { k with q := modAt e (fun l => x :: l.tail) k.q }) s

/-- The engine's queue without its head. -/
def popHead (c e : Nat) (s : State) : State := modCore c (fun k => { k with q := modAt e List.tail k.q }) s

/-- The head has done its operation and ends with a status. -/
def finish (c e : Nat) (x : EngInstr) (st : BitVec 8) (s : State) : State := setHead c e { x with done := some st } s

/-- The status of the program that runs on a core becomes CHECK_MISMATCH, unless another status has been set (R56, R131). -/
def markMismatch (c : Nat) (st : BitVec 8) (s : State) : State :=
  if st = stOK then s
  else match (getCore c s).run with
    | none => s
    | some r => { s with insts := s.insts.map fun i =>
        if i.id = r.inst ∧ i.status = stOK then { i with status := st } else i }

/-- Engine e of a core may run: not in the safe state (R28), and a matrix or vector engine only while it holds a credit for
its results (R31, R37). -/
def engMayRun (c e : Nat) (s : State) : Bool := !isSafe s && (e == 3 || hoCan (256 + 3 * c + e) s)

/-- The operation of the head of engine e of core c, where it is a waiting instruction that a test accepts: f gives the
state after the operation and the status with which the instruction ends. Where there is no such head, or the engine may
not run, nothing runs. -/
def runHead (c e : Nat) (accept : EngInstr → Bool) (f : EngInstr → State → State × BitVec 8) (s : State) : State :=
  match headOf c e s with
  | none => s
  | some x =>
    if x.done.isNone ∧ accept x ∧ engMayRun c e s then
      let r := f x s
      markMismatch c r.2 (finish c e x r.2 r.1)
    else s

/-- Reads ranges as MX and VX read them: the ECC effects, and whether a unit was uncorrectable (R131). -/
def readRanges (l : List (Nat × Nat)) (s : State) : State × Bool :=
  l.foldl (fun a r => let x := readAll r.1 r.2 a.1; (x.1, a.2 || x.2)) (s, false)

/-- A write by MX or VX of core c: refused at a sink window (R155). -/
def engWrite (c a : Nat) (l : List Byte) (s : State) : State × BitVec 8 :=
  if ownWriteRefused c a l.length s then (s, stDENIED) else (memWrite a l s, stOK)

/-- Writes several ranges; the first status that is not OK is kept. -/
def engWrites (c : Nat) (l : List (Nat × List Byte)) (s : State) : State × BitVec 8 :=
  l.foldl (fun a r => let x := engWrite c r.1 r.2 a.1; (x.1, firstFail [a.2, x.2])) (s, stOK)

end Sys2Proof.Machine
end

