-- ==== Sys2Proof/Machine/Stream.lean ====
section
/-! DEFINITION. The stream engine (R81, R101, R102, R239 to R242) and the completion of an engine instruction (R95). -/

namespace Sys2Proof.Machine

/-- The partition for which a core works. -/
def corePart (c : Nat) (s : State) : Nat := (partOfCore s.cab.cur c).getD 0

/-- The SX of a core holds the credits that a move of n bytes between these slice global addresses needs (R31, R37): for the
on-die network, and for every stack of this package that it touches. -/
def sxCredits (c p : Nat) (l : List Nat) (n : Nat) (s : State) : Bool :=
  hoCan (1024 + c) s && l.all fun g =>
    !isLocalPkg p g s || (stacksIn (bitsOf g 45 0) n).all fun st => hoCan (1536 + 20 * c + st) s

/-- The SX of a core holds the credits of an instruction. -/
def sxCan (c : Nat) (d : SxDesc) (s : State) : Bool :=
  sxCredits c (corePart c s) (if d.sop = 3 then [d.src] else [d.src, d.dst]) d.len s

/-- The waiting SX instruction at the head of the SX queue of a core, with its descriptor, where it has this SOP, is
not already under way on the fabric and has its credits; none in the safe state (R28). -/
def sxHead (c sop : Nat) (s : State) : Option (EngInstr × SxDesc) :=
  match headOf c 3 s with
  | none => none
  | some x =>
    if x.done.isNone ∧ (sxDesc x.odt).sop = sop ∧ (findRemote (mkTag c x.seqno) s).isNone ∧ !isSafe s
        ∧ sxCan c (sxDesc x.odt) s then some (x, sxDesc x.odt)
    else none

/-- An SX instruction ends with a status; a failure becomes the status of the program (R131, R239). -/
def sxEnd (c : Nat) (x : EngInstr) (st : BitVec 8) (s : State) : State := markMismatch c st (finish c 3 x st s)

/-- A write of an engine into a doorbell page: every aligned word is a doorbell (R107); a word that is not aligned or not
whole is a dropped access (R7). -/
def bellWrites (c dst : Nat) (l : List Byte) (s : State) : State :=
  if dst % 4 = 0 ∧ l.length % 4 = 0 then
    forAll (List.range (l.length / 4)) (fun i =>
      doorbellOp (.engine (Fin.ofNat 256 c)) (Fin.ofNat 4 ((dst + 4 * i - (regB + qmB + 0x40000)) / 0x10000))
        (BitVec.ofNat 32 (le32 l (4 * i)))) s
  else regAccessFault (.engine (Fin.ofNat 256 c)) (dst - regB) s

/-- A write of n bytes by core c at a local offset: doorbells, a refusal at a sink window (R155), or memory. -/
def localWrite (c dst n : Nat) (sl : Tbl Byte) (s : State) : State × BitVec 8 :=
  if inBellPages dst n then (bellWrites c dst ((List.range n).map (tget (fun _ => 0) sl)) s, stOK)
  else if ownWriteRefused c dst n s then (s, stDENIED)
  else (memStore dst n sl s, stOK)

/-- A range is fenced, out of service, scrubbed or under a reset when it is accessed (R25, R137, R141, R362). -/
def accessStatus (a n : Nat) (s : State) : BitVec 8 := firstFail [fenceStatus a n s, drainStatus a n s]

/-- A move within the package: the bytes before an uncorrectable unit of the source are written (R131). -/
def localMove (c src dst n : Nat) (s : State) : State × BitVec 8 :=
  let st := firstFail [accessStatus src n s, accessStatus dst n s]
  if n = 0 then (s, stOK)
  else if st ≠ stOK then (s, st)
  else
    let r := readUpTo src n s
    let w := localWrite c dst r.2 (memSlice src r.2 r.1) r.1
    (w.1, firstFail [w.2, failIf (r.2 != n) stCHECK])

/-- Records an outstanding remote instruction whose packets have been queued by the value of an entry (R239, R242, R243). -/
def outstanding (tag : InstrTag) (kind : RemoteKind) (e : BitVec 19) (w : BitVec 64) (left notify : Nat) (s : State) :
    State :=
  addRemote ⟨tag, kind, e, w, left, none, BitVec.ofNat 46 notify, s.clk.now⟩ s

/-- An outstanding remote write of which only the bytes before an uncorrectable unit go out: it ends with CHECK_MISMATCH and
adds to no NOTIFY object (R131). -/
def outstandingCut (tag : InstrTag) (kind : RemoteKind) (e : BitVec 19) (w : BitVec 64) (left : Nat) (s : State) : State :=
  addRemote ⟨tag, kind, e, w, left, some (stCHECK, 0), 0, s.clk.now⟩ s

/-- A remote PUT of LENGTH 0 moves no byte; its NOTIFY_ADD goes to the destination package (R18, R242). Without a NOTIFY
object, or with a PKG that is no member of the slice, it ends with OK at once. -/
def remoteNotify (c p : Nat) (x : EngInstr) (d : SxDesc) (s : State) : State :=
  match eidOfPkg p (bitsOf d.dst 55 46) s with
  | none => sxEnd c x stOK s
  | some e =>
    let st := lookupStatus p c e (dieOfAddr (bitsOf d.dst 45 0)) s
    if d.notify = 0 then sxEnd c x stOK s
    else if st ≠ stOK then sxEnd c x st s
    else
      let tag := mkTag c x.seqno
      let w := entryOf e s
      outstanding tag .notify e w 1 d.notify (sendOne c 0 5 e w 0 tag d.notify 0 s)

/-- PUT to a remote package (R239, R240, R242): the packets are queued on the shelf's port or spread over the planes; of a
source with an uncorrectable unit only the bytes before it go (R131). -/
def remotePut (c p : Nat) (x : EngInstr) (d : SxDesc) (s : State) : State :=
  let pkg := bitsOf d.dst 55 46
  let a := bitsOf d.dst 45 0
  match eidOfPkg p pkg s with
  | none => sxEnd c x stDENIED s
  | some e =>
    let st := lookupStatus p c e (dieOfAddr a) s
    if st ≠ stOK then sxEnd c x st s
    else
      let r := readUpTo (bitsOf d.src 45 0) d.len s
      if r.2 = 0 then sxEnd c x stCHECK r.1
      else
        let l := memBytes (bitsOf d.src 45 0) r.2 s
        let sh := shelfOf c pkg a d.len s
        let tag := mkTag c x.seqno
        let w := entryOf e s
        let t := sendData (sh.map Prod.fst) c ((sh.map Prod.snd).getD d.vl) 1 e w a tag d.notify 0 l r.1
        if r.2 = d.len then outstanding tag .put e w (chunksOf l).length d.notify t
        else outstandingCut tag .put e w (chunksOf l).length t

/-- GET from a remote package (R242): one GET_REQ. -/
def remoteGet (c p : Nat) (x : EngInstr) (d : SxDesc) (s : State) : State :=
  match eidOfPkg p (bitsOf d.src 55 46) s with
  | none => sxEnd c x stDENIED s
  | some e =>
    let st := lookupStatus p c e (dieOfAddr (bitsOf d.src 45 0)) s
    if st ≠ stOK then sxEnd c x st s
    else
      let tag := mkTag c x.seqno
      let w := entryOf e s
      let t := sendOne c d.vl 2 e w (bitsOf d.src 45 0) tag (bitsOf d.dst 45 0) d.len s
      outstanding tag (.get (bitsOf d.dst 45 0) d.len) e w 1 d.notify t

/-- PUT (R101): from the own stores to any address. -/
def putOp (c : Nat) (s : State) : State :=
  match sxHead c 1 s with
  | none => s
  | some (x, d) =>
    let p := corePart c s
    if d.len = 0 ∧ !isLocalPkg p d.dst s then remoteNotify c p x d s
    else if isLocalPkg p d.dst s then
      let r := localMove c (bitsOf d.src 45 0) (bitsOf d.dst 45 0) d.len s
      sxEnd c x r.2 r.1
    else remotePut c p x d s

/-- GET (R101): from any address to the own stores. -/
def getOp (c : Nat) (s : State) : State :=
  match sxHead c 2 s with
  | none => s
  | some (x, d) =>
    let p := corePart c s
    if d.len = 0 ∨ isLocalPkg p d.src s then
      let r := localMove c (bitsOf d.src 45 0) (bitsOf d.dst 45 0) d.len s
      sxEnd c x r.2 r.1
    else remoteGet c p x d s

/-- MCAST (R101): the store is read once and its bytes are written into every selected cluster store. -/
def mcastOp (c : Nat) (s : State) : State :=
  match sxHead c 3 s with
  | none => s
  | some (x, d) =>
    if d.len = 0 then sxEnd c x stOK s
    else
      let src := bitsOf d.src 45 0
      let bad := firstFail (accessStatus src d.len s :: (mcastClusters d).map fun k => accessStatus (cluStore k + d.dst) d.len s)
      if bad ≠ stOK then sxEnd c x bad s
      else
      let r := readUpTo src d.len s
      let sl := memSlice src r.2 s
      let t := forAll (mcastClusters d) (fun k s =>
        countEvt (ctrClu k) 0x23 (linesOf (cluStore k + d.dst) r.2 k) (memStore (cluStore k + d.dst) r.2 sl s)) r.1
      sxEnd c x (failIf (r.2 != d.len) stCHECK) t

/-- PUT. -/
def execPut (c : Fin 256) (s : State) : Host.Outcome State Fault Refusal := .next (putOp c.val s)
/-- GET. -/
def execGet (c : Fin 256) (s : State) : Host.Outcome State Fault Refusal := .next (getOp c.val s)
/-- MCAST. -/
def execMcast (c : Fin 256) (s : State) : Host.Outcome State Fault Refusal := .next (mcastOp c.val s)

/-! Completion (R95, R97, R102). -/

/-- The ADD of a SIGNAL: none where the place of the bound slot has become closed since the SIGNAL issued (log entry 81). -/
def signalAt (c a : Nat) (v : Word) (s : State) : State := if syncOk (corePart c s) a s then notifyAt a v s else s

/-- The SIGNALs of a core whose earlier instructions have all completed apply, in order (R97). -/
def fireSignals (c : Nat) (s : State) : State :=
  let ready := (getCore c s).signals.filter fun g => g.ahead.all (· == 0)
  forAll ready (fun g => signalAt c g.addr g.value)
    (modCore c (fun k => { k with signals := k.signals.filter fun g => !(g.ahead.all (· == 0)) }) s)

/-- An instruction of engine e has completed: every SIGNAL behind it has one less to wait for. -/
def countSignals (c e : Nat) (s : State) : State :=
  fireSignals c (modCore c (fun k => { k with signals := k.signals.map fun g =>
    { g with ahead := modAt e (fun n => n - 1) g.ahead } }) s)

/-- The post of an engine slot: LEC[POST_LEC] rises by 1 if POST_EN is set (R95). -/
def postLec (c e : Nat) (w : BitVec 64) (s : State) : State :=
  if slotPostEn e w.toNat then
    modCore c (fun k => { k with lec := modAt (slotPostLec e w.toNat) (· + 1) k.lec }) s
  else s

/-- NOTIFY of an SX instruction that has ended with OK and whose NOTIFY object lies on this package: 1, or 1 for each
cluster store of MCAST (R102). The object of a remote PUT is added to at its destination (R242). A NOTIFY object that has
become closed takes no ADD, and the program takes the status of R25, R137 or R141. -/
def notifyOf (c : Nat) (x : EngInstr) (s : State) : State :=
  let d := sxDesc x.odt
  let p := corePart c s
  let n := if d.sop = 3 then (mcastClusters d).length
    else if d.sop = 1 ∧ !isLocalPkg p d.dst s then 0 else 1
  if d.notify = 0 ∨ n = 0 then s
  else if syncOk p d.notify s then syncAddAt d.notify (BitVec.ofNat 32 n) s
  else markMismatch c (syncStatus p d.notify s) s

/-- All four engines of a core are idle. -/
def enginesIdle (c : Nat) (s : State) : Bool := (getCore c s).q.all fun l => l.isEmpty

/-- CORE_PROG_STATUS.STATE: 0 IDLE, 1 RUN, 2 WAIT, 3 STOPPED (R122). -/
def setProgState (c v : Nat) (s : State) : State := fset (coreB c) fCORE_PROG_STATUS_STATE v s

/-- A program ends on a core: the core is free (R97). -/
def freeCore (c : Nat) (s : State) : State :=
  match (getCore c s).run with
  | none => s
  | some r =>
    let s := { s with insts := s.insts.map fun i =>
      if i.id = r.inst then { i with running := i.running.erase c } else i }
    setProgState c 0 (modCore c (fun k => { k with run := none }) s)

/-- END (R97, R115): the program ends on a core once the engine instructions of its last bundle have completed. -/
def endCore (c : Nat) (s : State) : State :=
  if enginesIdle c s then freeCore c s
  else modCore c (fun k => { k with run := k.run.map fun r => { r with fin := true } }) s

/-- A core whose program has met its END is free once its engines are idle. -/
def endIdle (c : Nat) (s : State) : State :=
  if (getCore c s).run.any (·.fin) then endCore c s else s

/-- ENGINE_INSTR_COMPLETE: the head of the engine's queue has run; its results are visible, NOTIFY is added, the counter
is posted, SIGNALs behind it advance, and a program that has met its END ends with its last one; nothing in the safe state
(R28). -/
def completeEng (c e : Nat) (s : State) : State :=
  match headOf c e s with
  | none => s
  | some x =>
    match x.done with
    | none => s
    | some st =>
      if isSafe s then s
      else
      let s := popHead c e s
      let s := if e = 3 ∧ st = stOK then notifyOf c x s else s
      let s := postLec c e x.slot s
      endIdle c (countSignals c e (modCore c (fun k => { k with lastUse := s.clk.ecnt }) s))

/-- ENGINE_INSTR_COMPLETE. -/
def execEngineInstrComplete (c : Fin 256) (e : Fin 4) (s : State) : Host.Outcome State Fault Refusal :=
  .next (completeEng c.val e.val s)

end Sys2Proof.Machine
end

