-- ==== Sys2Proof/Machine/Control.lean ====
section
/-! DEFINITION. Bundles: issue (R94 to R98, R101, R103) and the control operations (R97). -/

namespace Sys2Proof.Machine

def progPc (c : Nat) (s : State) : Nat := fget (coreB c) fCORE_PROG_STATUS_PC s
def setPc (c v : Nat) (s : State) : State := fset (coreB c) fCORE_PROG_STATUS_PC v s

/-- The program of a core that may issue: not stopped, not halted by CAPTURE, not in reset, admitted by the Stepstool
(R328), with DATA in RUN, outside the safe state and outside a stopped partition (R389, R390). -/
def issuing (c : Nat) (s : State) : Option RunProg :=
  let k := getCore c s
  if k.halted || k.inReset || !s.stool.admitted.contains c || dataPlane s != 1 || issueStopped s
    || partStopped (corePart c s) s then none
  else match k.run with
    | none => none
    | some r => if r.stop || r.fin then none else some r

/-- The cores that have asked for admission in this NCLK cycle. -/
def askedNow (s : State) : List Nat := if s.stool.askNow.1 = s.clk.now + 1 then s.stool.askNow.2 else []

/-- The order of asking with core c behind the cores that asked in earlier cycles, and among those of this cycle (`same`) in
ascending index (R328). -/
def askInsert (c : Nat) (same l : List Nat) : List Nat :=
  let early := l.takeWhile fun x => !same.contains x
  let late := l.drop early.length
  early ++ late.takeWhile (fun x => decide (x < c)) ++ c :: late.dropWhile (fun x => decide (x < c))

/-- A core asks the Stepstool for admission (R328). -/
def askAdmit (c : Nat) (s : State) : State :=
  if s.stool.admitted.contains c ∨ s.stool.ask.contains c then s
  else { s with stool := { s.stool with
    ask := askInsert c (askedNow s) s.stool.ask, askNow := (s.clk.now + 1, c :: askedNow s) } }

/-- The sync object bound to a sync slot of a program; 0 when unbound (R89). LOAD does not check the offset; WAIT_SYNC and
SIGNAL do (R25, R41, R418). -/
def syncSlot (r : RunProg) (i : Nat) (s : State) : Nat :=
  match (getSlot r.slot s).prog with
  | none => 0
  | some p => (p.sync.getD i 0).toNat

def modInst (id : Nat) (f : Inst → Inst) (s : State) : State :=
  { s with insts := s.insts.map fun i => if i.id = id then f i else i }
def getInst (id : Nat) (s : State) : Option Inst := s.insts.find? fun i => i.id == id
def dropInst (id : Nat) (s : State) : State := { s with insts := s.insts.filter fun i => i.id != id }

def setEntry (c i : Nat) (e : Option LaunchEntry) (s : State) : State :=
  modCore c (fun k => { k with launch := tset (fun _ => none) i e k.launch }) s

/-- Removes the entries of an instance from every launch table; cores that it has started run on. -/
def dropEntries (id : Nat) (s : State) : State :=
  match getInst id s with
  | none => s
  | some i => modInst id (fun x => { x with waiting := [] })
      (forAll i.waiting (fun c s => setEntry c i.tslot none s) s)

/-- R103: a core stops with a status at a bundle and slot; every other core of the instance stops at its next bundle
boundary, and one that has not started does not start; the instance takes the status of the failing core of the lowest
index, and that of a LAUNCH the bundle index as DETAIL (R110). -/
def stopProg (c pc kind : Nat) (st : BitVec 8) (r : RunProg) (s : State) : State :=
  let s := fset (coreB c) fCORE_PROG_FAULT_STATUS st.toNat
    (fset (coreB c) fCORE_PROG_FAULT_SLOT_KIND kind (fset (coreB c) fCORE_PROG_FAULT_PC pc s))
  let cores := (s.insts.filter fun i => i.id == r.inst).flatMap fun i => i.running
  let s := forAll (c :: cores) (fun k s => setProgState k 3
    (modCore k (fun x => { x with run := x.run.map fun y => { y with stop := true } }) s)) s
  let s := dropEntries r.inst s
  { s with insts := s.insts.map fun i =>
      if i.id = r.inst then
        (if (match i.stopCore with
            | none => true
            | some k => decide (c < k)) then
          { i with stopCore := some c, status := st, detail := if i.t.isSome then i.detail else BitVec.ofNat 32 pc }
         else i)
      else i }

/-! The control operations (R97): condition and effect. -/

/-- The check of the sync object of WAIT_SYNC or SIGNAL: an unbound slot is FORMAT_INVALID (log entry 16), and the place of a
bound one is checked as every access of the core is (R25, R41, R137, R141, R418). -/
def slotStatus (c a : Nat) (s : State) : BitVec 8 :=
  if a = 0 then stFORMAT else syncStatus (corePart c s) a s

/-- DESIGN CHOICE (log entry 15): bits of ARG that SETLC and LOOPEND do not name are ignored. Whether a control operation may
issue: its status, whether its condition holds, and the state with a wait recorded. -/
def ctrlCond (c pc : Nat) (r : RunProg) (cop arg : Nat) (s : State) : BitVec 8 × Bool × State :=
  match cop with
  | 0 => (failIf (arg != 0) stFORMAT, true, s)
  | 1 => (stOK, true, s)
  | 2 => (stOK, true, s)
  | 3 =>
    let a := syncSlot r (bitsOf arg 38 32) s
    let st := slotStatus c a s
    if st ≠ stOK then (st, false, s)
    else (stOK, waitSync ⟨true, c, pc, a, BitVec.ofNat 32 (bitsOf arg 31 0), false⟩ s)
  | 4 => (slotStatus c (syncSlot r (bitsOf arg 38 32) s) s, true, s)
  | 5 => (failIf (arg != 0) stFORMAT, enginesIdle c s, s)
  | 6 => (failIf (arg != 0) stFORMAT, enginesIdle c s, s)
  | 7 => (stOK, reaches48 s.clk.p (r.t0 + BitVec.ofNat 48 arg), s)
  | _ => (stFORMAT, false, s)

/-- SETLC. -/
def setLoop (c lc count : Nat) (s : State) : State :=
  modCore c (fun k => { k with lc := modAt lc (fun _ => BitVec.ofNat 20 count) k.lc }) s

/-- LOOPEND: the next bundle index, and the loop counter decremented where it is not 0. -/
def loopEnd (c lc target pc : Nat) (s : State) : State :=
  if (getCore c s).lc.getD lc 0 = 0 then setPc c (pc + 1) s
  else setPc c target (modCore c (fun k => { k with lc := modAt lc (fun x => x - 1) k.lc }) s)

/-- SIGNAL: the ADD waits for the instructions that each engine holds at this moment. -/
def addSignal (c a : Nat) (v : Word) (ahead : List Nat) (s : State) : State :=
  fireSignals c (modCore c (fun k => { k with signals := k.signals ++ [⟨a, v, ahead⟩] }) s)

/-- The effect of a control operation of the bundle at pc; ahead holds the instructions of the earlier bundles. -/
def ctrlEffect (c pc : Nat) (r : RunProg) (cop arg : Nat) (ahead : List Nat) (s : State) : State :=
  match cop with
  | 1 => setPc c (pc + 1) (setLoop c (bitsOf arg 38 36) (bitsOf arg 19 0) s)
  | 2 => loopEnd c (bitsOf arg 38 36) (bitsOf arg 35 20) pc s
  | 4 => setPc c (pc + 1) (addSignal c (syncSlot r (bitsOf arg 38 32) s) (BitVec.ofNat 32 (bitsOf arg 31 0)) ahead s)
  | 6 => endCore c (setPc c (pc + 1) s)
  | _ => setPc c (pc + 1) s

/-! Issue (R96, R98, R103). -/

/-- The operand descriptor of an MX or SX slot in the core store. -/
def odtAddr (c : Nat) (r : RunProg) (w : Nat) : Nat := coreStore c + r.odtOff + 64 * bitsOf w 11 0
def odtOf (c : Nat) (r : RunProg) (w : Nat) (s : State) : List Byte := memBytes (odtAddr c r w) 64 s

/-- The check of an engine slot at issue (R17, R98, R100, R101, R103). -/
def slotCheck (c e w : Nat) (r : RunProg) (s : State) : BitVec 8 :=
  let p := corePart c s
  if slotOp e w = 0 then stOK
  else match e with
    | 2 => vxCheck c p w s
    | 3 => if slotOp 3 w ≠ 1 ∨ bitsOf w 54 12 ≠ 0 ∨ r.nOdt ≤ bitsOf w 11 0 then stFORMAT
        else sxCheck c p (odtOf c r w s) s
    | _ => if slotOp e w ≠ 1 ∨ bitsOf w 22 12 ≠ 0 ∨ r.nOdt ≤ bitsOf w 11 0 then stFORMAT
        else mxCheck c p (odtOf c r w s) (regGet (coreB c + oCORE_ENG_CFG) s).toNat s

/-- The first slot whose check fails, in the order MX0, MX1, VX, SX. -/
def firstBad (c : Nat) (l : List (Nat × Nat)) (r : RunProg) (s : State) : Option (Nat × BitVec 8) :=
  (l.map fun x => (x.1, slotCheck c x.1 x.2 r s)).find? fun x => x.2 != stOK

/-- One shift of the sampling LFSR, polynomial x^24 + x^23 + x^22 + x^17 + 1 (R400). -/
def lfsrShift (x : BitVec 24) : BitVec 24 :=
  (x <<< 1) ||| (BitVec.ofBool (x.getLsbD 23 ^^ x.getLsbD 22 ^^ x.getLsbD 21 ^^ x.getLsbD 16)).setWidth 24

/-- The next value that the LFSR draws: 24 shifts. -/
def lfsrDraw (x : BitVec 24) : BitVec 24 := (List.range 24).foldl (fun y _ => lfsrShift y) x

/-- The mean gap N of the sampling of a core. -/
def sampleN (c : Nat) (s : State) : Nat := 2 ^ Nat.max 4 (Nat.min 24 (fget (coreB c) fCORE_SAMPLE_CTL_LOG2_N s))

/-- A new gap is drawn (R400). -/
def drawGap (c : Nat) (s : State) : State :=
  let n := sampleN c s
  modCore c (fun k => { k with lfsr := lfsrDraw k.lfsr, gap := n / 2 + (lfsrDraw k.lfsr).toNat % n }) s

/-- An engine instruction issues on a core that samples: it is tagged when the gap has run out; in a sealed partition
sampling is off (R400, R420). -/
def sampleTag (c : Nat) (s : State) : State :=
  if fget (coreB c) fCORE_SAMPLE_CTL_EN s = 0 ∨ sealBit s.cab.cur (corePart c s) then s
  else if 1 < (getCore c s).gap then modCore c (fun k => { k with gap := k.gap - 1 }) s
  else countEvt (ctrCore c) 0x19 1 (modCore c (fun k => { k with tags := k.tags + 1 }) (drawGap c s))

/-- An engine of a core has an instruction now: the core is not eligible for release (R329). -/
def touchCore (c : Nat) (s : State) : State :=
  modCore c (fun k => { k with lastUse := s.clk.ecnt }) { s with stool := { s.stool with elig := s.stool.elig.erase c } }

/-- Hands an engine slot to its engine. -/
def pushEng (c pc e w : Nat) (r : RunProg) (s : State) : State :=
  if slotOp e w = 0 then s
  else
    let x : EngInstr := ⟨BitVec.ofNat 64 w, if e = 2 then [] else odtOf c r w s, regGet (coreB c + oCORE_ENG_CFG) s,
      nextSeqno c s, pc, s.clk.p, none⟩
    sampleTag c (bumpSeqno c (touchCore c (modCore c (fun k => { k with q := modAt e (fun l => l ++ [x]) k.q }) s)))

/-- Every engine that a slot names has room: its queue holds fewer than 4 instructions (R96), and no chamber holds it
(R270). -/
def roomOk (c : Nat) (l : List (Nat × Nat)) (s : State) : Bool :=
  l.all fun x => slotOp x.1 x.2 == 0 || (decide (((getCore c s).q.getD x.1 []).length < 4) && !chHolds c x.1 s)

/-- WAIT_EN: LEC[WAIT_LEC] has reached WAIT_VAL (R96). -/
def lecOk (c ctrl : Nat) (s : State) : Bool :=
  !bitOf ctrl 59 || reaches16 ((getCore c s).lec.getD (bitsOf ctrl 58 55) 0) (BitVec.ofNat 16 (bitsOf ctrl 54 39))

/-- Issues a bundle with this control slot and these engine slots on a core that may issue: it stops the program, waits,
or issues whole (R96, R97, R103). -/
def issueWith (c : Nat) (r : RunProg) (ctrl : Nat) (l : List (Nat × Nat)) (s : State) : State :=
  let pc := progPc c s
  if !(lecOk c ctrl s && roomOk c l s) then setProgState c 2 s
  else
    let g := ctrlCond c pc r (bitsOf ctrl 63 60) (bitsOf ctrl 38 0) s
    if g.1 ≠ stOK then stopProg c pc 0 g.1 r s
    else if !g.2.1 then setProgState c 2 g.2.2
    else match firstBad c l r g.2.2 with
      | some b => stopProg c pc (b.1 + 1) b.2 r g.2.2
      | none =>
        let ahead := (getCore c s).q.map List.length
        let s := countEvt (ctrCore c) 0x10 1 (fadd (coreB c) fCORE_PROGRESS_BUNDLES 1 (setProgState c 1 g.2.2))
        let s := forAll l (fun x => pushEng c pc x.1 x.2 r) s
        ctrlEffect c pc r (bitsOf ctrl 63 60) (bitsOf ctrl 38 0) ahead s

/-- A control word of an operation with no wait on a counter. -/
def ctrlWord (cop arg : Nat) : Nat := cop * 2 ^ 60 + arg

/-- The bundle at an address, with the ECC effects of reading it and the descriptors that it names (R131). -/
def readBundle (c a : Nat) (r : RunProg) (s : State) : List (Nat × Nat) × Nat × State :=
  let b := memBytes a 32 s
  let l := (List.range 4).map fun e => (e, bundleSlot b e)
  let odts := (l.filter fun x => x.1 != 2 && slotOp x.1 x.2 != 0).map fun x => (odtAddr c r x.2, 64)
  let m := readRanges ((a, 32) :: odts) s
  (l, leNat (bytesAt b 0 8), if m.2 then markMismatch c stCHECK m.1 else m.1)

/-- A core has a bundle ready (R96, R328): the one at PC would issue, or stop the program, if the core were admitted. -/
def bundleReady (c : Nat) (s : State) : Bool :=
  match (getCore c s).run with
  | none => false
  | some r =>
    let b := memBytes (coreStore c + r.bundOff + 32 * progPc c s) 32 s
    let ctrl := leNat (bytesAt b 0 8)
    let g := ctrlCond c (progPc c s) r (bitsOf ctrl 63 60) (bitsOf ctrl 38 0) s
    !r.stop && !r.fin && (decide (r.nBund ≤ progPc c s) || (lecOk c ctrl s
      && roomOk c ((List.range 4).map fun e => (e, bundleSlot b e)) s && (g.1 != stOK || g.2.1)))

/-- A core that may not issue: one with a bundle ready that is not admitted asks for admission and waits (R328, R331). -/
def blockedCore (c : Nat) (s : State) : State :=
  if bundleReady c s && !s.stool.admitted.contains c then setProgState c 2 (askAdmit c s) else s

/-- BUNDLE_ISSUE (R96): the bundle at PC issues whole or not at all; a PC past the image stops the program. -/
def bundleIssueOp (c : Nat) (s : State) : State :=
  match issuing c s with
  | none => blockedCore c s
  | some r =>
    if r.nBund ≤ progPc c s then stopProg c (progPc c s) 0 stFORMAT r s
    else
      let b := readBundle c (coreStore c + r.bundOff + 32 * progPc c s) r s
      issueWith c r b.2.1 b.1 b.2.2

/-- A bundle of one control operation and no engine slot. -/
def ctrlRow (c cop arg : Nat) (s : State) : State :=
  match issuing c s with
  | none => blockedCore c s
  | some r => issueWith c r (ctrlWord cop arg) [] s

/-- BUNDLE_ISSUE. -/
def execBundleIssue (c : Fin 256) (s : State) : Host.Outcome State Fault Refusal := .next (bundleIssueOp c.val s)
/-- NEXT. -/
def execNext (c : Fin 256) (s : State) : Host.Outcome State Fault Refusal := .next (ctrlRow c.val 0 0 s)
/-- SETLC. -/
def execSetlc (c : Fin 256) (lc : Fin 8) (count : BitVec 20) (s : State) : Host.Outcome State Fault Refusal :=
  .next (ctrlRow c.val 1 (lc.val * 2 ^ 36 + count.toNat) s)
/-- LOOPEND. -/
def execLoopend (c : Fin 256) (lc : Fin 8) (target : BitVec 16) (s : State) : Host.Outcome State Fault Refusal :=
  .next (ctrlRow c.val 2 (lc.val * 2 ^ 36 + target.toNat * 2 ^ 20) s)
/-- WAIT_SYNC. -/
def execWaitSync (c : Fin 256) (slot : Fin 128) (target : BitVec 32) (s : State) : Host.Outcome State Fault Refusal :=
  .next (ctrlRow c.val 3 (slot.val * 2 ^ 32 + target.toNat) s)
/-- SIGNAL. -/
def execSignal (c : Fin 256) (slot : Fin 128) (value : BitVec 32) (s : State) : Host.Outcome State Fault Refusal :=
  .next (ctrlRow c.val 4 (slot.val * 2 ^ 32 + value.toNat) s)
/-- FENCE. -/
def execFence (c : Fin 256) (s : State) : Host.Outcome State Fault Refusal := .next (ctrlRow c.val 5 0 s)
/-- END. -/
def execEndProgram (c : Fin 256) (s : State) : Host.Outcome State Fault Refusal := .next (ctrlRow c.val 6 0 s)
/-- WAIT_PACE. -/
def execWaitPace (c : Fin 256) (offset : BitVec 39) (s : State) : Host.Outcome State Fault Refusal :=
  .next (ctrlRow c.val 7 offset.toNat s)

end Sys2Proof.Machine
end

