-- ==== Sys2Proof/Machine/Programs.lean ====
section
/-! DEFINITION. Program objects (R85 to R93, R425), launches and launch tables (R112, R119 to R121), COPY and FILL (R112,
R113, R242). -/

namespace Sys2Proof.Machine

/-! Program objects (R88 to R91). -/

/-- The entry size of a section type (R89); none for an undefined type. -/
def sectEntry : Nat → Option Nat
  | 1 => some 48
  | 2 => some 32
  | 3 => some 64
  | 4 => some 1024
  | 5 => some 64
  | 6 => some 16
  | _ => none

/-- The section types that a level requires and allows (R89). -/
def sectNeeded (level : Nat) : List Nat := if level = 1 then [1, 2, 3] else [5, 6]
def sectAllowed (level : Nat) : List Nat := 4 :: sectNeeded level

/-- The section table: type, offset, length and reserved word of each section. -/
def sectTable (o : List Byte) : List (Nat × Nat × Nat × Nat) :=
  (List.range (le16 o 0x12)).map fun i =>
    (le32 o (0x40 + 16 * i), le32 o (0x44 + 16 * i), le32 o (0x48 + 16 * i), le32 o (0x4C + 16 * i))

/-- Offset and length of the section of a type; an absent section is empty. -/
def sectOf (o : List Byte) (ty : Nat) : Nat × Nat :=
  match (sectTable o).find? fun e => e.1 == ty with
  | none => (0, 0)
  | some e => (e.2.1, e.2.2.1)

def hasSect (o : List Byte) (ty : Nat) : Bool := (sectTable o).any fun e => e.1 == ty

/-- No two ranges of a list of offsets and lengths overlap. -/
def noOverlap : List (Nat × Nat) → Bool
  | [] => true
  | x :: r => r.all (fun y => x.2 == 0 || y.2 == 0 || !meets x.1 x.2 y.1 y.2) && noOverlap r

/-- The header and the section table are as R88 to R90 ask. -/
def headerOk (o : List Byte) : Bool :=
  let level := (o.getD 6 0).toNat
  let tbl := sectTable o
  let tabEnd := 0x40 + 16 * le16 o 0x12
  le32 o 0 == 0x4F475250 && le16 o 4 == 1 && decide (level ≤ 1) && o.getD 7 0 == 0
    && le32 o 8 == (if level = 1 then 0x6400B000 else 0) && zeroBytes o 0x14 44
    && decide (1 ≤ le16 o 0x10 ∧ le16 o 0x10 ≤ 256) && decide (1 ≤ le16 o 0x12 ∧ le16 o 0x12 ≤ 8)
    && decide (tabEnd ≤ le32 o 0xC)
    && tbl.all (fun e => (sectAllowed level).contains e.1 && e.2.2.2 == 0 && decide (e.2.1 + e.2.2.1 ≤ le32 o 0xC)
        && (match sectEntry e.1 with
          | none => false
          | some n => if e.1 = 4 then e.2.2.1 == 1024 else e.2.2.1 % n == 0))
    && (sectNeeded level).all (hasSect o) && decide (tbl.map Prod.fst).Nodup
    && noOverlap ((0, tabEnd) :: tbl.map fun e => (e.2.1, e.2.2.1))

/-- An entry of the CORES section (R89). -/
def coreEntry (o : List Byte) (i : Nat) : ProgCore × Bool :=
  let a := (sectOf o 1).1 + 48 * i
  let n := le16 o (a + 12)
  (⟨le16 o a, le32 o (a + 4), le32 o (a + 8), if n = 0 then 65536 else n, le16 o (a + 14),
    (List.range 16).map fun j => BitVec.ofNat 16 (le16 o (a + 16 + 2 * j))⟩, le16 o (a + 2) == 0)

def coreEntries (o : List Byte) : List (ProgCore × Bool) := (List.range ((sectOf o 1).2 / 48)).map (coreEntry o)

/-- The CORES, BUNDLES and ODT sections agree (R90). -/
def coresOk (o : List Byte) : Bool :=
  let l := coreEntries o
  l.length == le16 o 0x10
    && l.all (fun e => e.2 && decide (e.1.core < 256) && e.1.bundOff % 32 == 0 && e.1.odtOff % 64 == 0)
    && decide (l.map fun e => e.1.core).Nodup
    && (sectOf o 2).2 == 32 * (l.map fun e => e.1.nBund).sum && (sectOf o 3).2 == 64 * (l.map fun e => e.1.nOdt).sum

/-! Tile graphs (R91). -/

/-- A field of node i. -/
def nodeW (o : List Byte) (i f : Nat) : Nat := le32 o ((sectOf o 5).1 + 64 * i + f)
def nNodes (o : List Byte) : Nat := (sectOf o 5).2 / 64
def nodeKind (o : List Byte) (i : Nat) : Nat := bitsOf (nodeW o i 0) 31 24
def nodeCores (o : List Byte) : List Nat := ((List.range (nNodes o)).map fun i => bitsOf (nodeW o i 4) 15 0).eraseDups

/-- The operand references of a node that are not none: buffer and byte offset. -/
def nodeRefs (o : List Byte) (i : Nat) : List (Nat × Nat) :=
  ((List.range 8).map fun j => nodeW o i (0x14 + 4 * j)).filterMap fun r =>
    if r = 0xFFFFFFFF then none else some (bitsOf r 31 20, 16 * bitsOf r 19 0)

def nBufs (o : List Byte) : Nat := (sectOf o 6).2 / 16
def bufW (o : List Byte) (i f : Nat) : Nat := le32 o ((sectOf o 6).1 + 16 * i + f)

/-- The local offset of a buffer: its place and its BASE. -/
def bufAddr (o : List Byte) (i : Nat) : Nat :=
  let p := bufW o i 0
  (match bitsOf p 31 28 with
   | 0 => coreStore (bitsOf p 15 0)
   | 1 => cluStore (bitsOf p 15 0)
   | _ => 0) + bufW o i 4

/-- The encodings of a buffer record; every operand is aligned to 16 B, so its BASE is too. -/
def bufOk (o : List Byte) (i : Nat) : Bool :=
  let p := bufW o i 0
  bitsOf p 27 16 == 0 && bufW o i 12 == 0 && bufW o i 4 % 16 == 0
    && (match bitsOf p 31 28 with
        | 0 => decide (bitsOf p 15 0 < 256)
        | 1 => decide (bitsOf p 15 0 < 32)
        | 2 => true
        | _ => false)

/-- The matrix descriptor of a MATMUL node: its format word, M and K. DESIGN CHOICE (log entry 83): a node has no pitches, so
the rows of A and of C stand packed behind each other. -/
def nodeMx (o : List Byte) (i : Nat) : MxDesc :=
  let d := mxDesc (leBytes 4 (nodeW o i 8) ++ List.replicate 60 0) 0
  { d with m := nodeW o i 0xC, k := nodeW o i 0x10, aPitch := packedLen d.aFmt (nodeW o i 0x10), cPitch := mxOutRow d }

/-- The bytes behind each of the eight references of a MATMUL node (R74); none for an operand that it does not have. -/
def mxNodeLens (d : MxDesc) : List (Option Nat) :=
  let has (c : Bool) (n : Nat) : Option Nat := if c then some n else none
  [some ((d.m - 1) * d.aPitch + packedLen d.aFmt d.k), some (packedLen d.bFmt (d.k * 64)),
   some ((d.m - 1) * d.cPitch + mxOutRow d), has (d.aScale != 0) (d.m * mxBlocks d), has (d.bScale != 0) (64 * mxBlocks d),
   has d.aTs 4, has d.bTs 4, none]

/-- The operation of a VX slot word is defined (NOP is one), and the fields of the memory form that the upper half holds are 0 as R100
asks; FMT and FMT_OUT stand in the lower half, which a node does not give. -/
def nodeVxOk (hi : Nat) : Bool :=
  let op := bitsOf hi 31 24
  if vxIsMem op then bitsOf hi 8 2 == 0 && (decide (0x3C ≤ op) || bitsOf hi 1 0 == 0)
  else decide (op ≤ 0x0A) || [0x10, 0x11, 0x18, 0x19, 0x1A, 0x28, 0x29, 0x30].contains op
    || decide (0x20 ≤ op ∧ op ≤ 0x25)

/-- Reference j of a node. -/
def nodeRef (o : List Byte) (i j : Nat) : Option (Nat × Nat) :=
  let r := nodeW o i (0x14 + 4 * j)
  if r = 0xFFFFFFFF then none else some (bitsOf r 31 20, 16 * bitsOf r 19 0)

/-- The encodings of a node (R73, R91); a MATMUL has exactly the operands that its format word names. -/
def nodeOk (o : List Byte) (i : Nat) : Bool :=
  let k := nodeKind o i
  let fmt := nodeW o i 8
  let d := nodeMx o i
  decide (1 ≤ k ∧ k ≤ 7) && bitsOf (nodeW o i 0) 23 0 == 0 && bitsOf (nodeW o i 4) 31 16 == 0
    && decide (bitsOf (nodeW o i 4) 15 0 < 256)
    && (if k = 1 then mxEncodings d (List.replicate 64 0) == stOK
          && (mxNodeLens d).zipIdx.all (fun e => e.1.isSome == (nodeRef o i e.2).isSome)
        else if k = 2 then nodeVxOk fmt else fmt == 0)
    && (k == 1 || k == 2 || nodeW o i 0x10 == 0)
    && (nodeRefs o i).all (fun r => decide (r.1 < nBufs o))
    && ([0x34, 0x38, 0x3C].all fun f => nodeW o i f == 0xFFFFFFFF || decide (nodeW o i f < nNodes o))

/-- A tile graph's encodings, NCORES among them (R90). -/
def graphOk (o : List Byte) : Bool :=
  (List.range (nNodes o)).all (nodeOk o) && (List.range (nBufs o)).all (bufOk o)
    && (nodeCores o).length == le16 o 0x10

/-- The counts of the MATMUL nodes lie within R74, M at most 64, and K and the element count of a VECTOR are counts of 24
bits (R16). -/
def graphCounts (o : List Byte) : Bool :=
  (List.range (nNodes o)).all fun i =>
    match nodeKind o i with
    | 1 => decide (nodeW o i 0xC ≤ 64 ∧ nodeW o i 0x10 < 2 ^ 24)
    | 2 => decide (nodeW o i 0x10 < 2 ^ 24)
    | _ => true

/-- The bytes behind reference j of a node: those of R74 for a MATMUL of counts above 0, the elements of a VECTOR, the length
of a MOVE, and the first byte for the others, whose lengths the node does not give. The element size of a VECTOR is free, at
most 4 B (log entry 83). -/
def refLen (o : List Byte) (i j : Nat) : Nat :=
  match nodeKind o i with
  | 1 => if nodeW o i 0xC = 0 ∨ nodeW o i 0x10 = 0 then 0 else ((mxNodeLens (nodeMx o i)).getD j none).getD 0
  | 2 => if nodeW o i 0x10 = 0 then 0
    else Nat.max 1 (Nat.min (4 * nodeW o i 0x10) (Config.vectorBytes (nodeW o i 8) (nodeW o i 0x10) j))
  | 3 => nodeW o i 0xC
  | _ => 1

/-- A reference lies outside its buffer, or is an operand of a MATMUL outside the own stores of its core (R48). -/
def refOutside (o : List Byte) (i j : Nat) : Bool :=
  match nodeRef o i j with
  | none => false
  | some r =>
    let n := refLen o i j
    let c := bitsOf (nodeW o i 4) 15 0
    decide (0 < n) && (decide (bufW o r.1 8 < r.2 + n)
      || (nodeKind o i == 1 && !inOwnStores c (bufAddr o r.1 + r.2) n))

/-- Every operand of a graph lies in its buffer, and every buffer in its place (R17, R48, R86). -/
def graphWindows (o : List Byte) : BitVec 8 :=
  failIf ((List.range (nNodes o)).any (fun i => (List.range 8).any (refOutside o i))
    || (List.range (nBufs o)).any (fun i => match bitsOf (bufW o i 0) 31 28 with
        | 0 => decide (coreStoreSize < bufW o i 4 + bufW o i 8)
        | 1 => decide (cluStoreSize < bufW o i 4 + bufW o i 8)
        | _ => false)) stWINDOW

/-! LOAD (R87, R90, R92, R425). -/

/-- The lowest free program slot (R92). -/
def freeSlot (s : State) : Option Nat := (List.range 256).find? fun i => (getSlot i s).prog.isNone

/-- Where a core of a program of partition p may be placed (R90). -/
def placeStatus (p core : Nat) (s : State) : BitVec 8 :=
  firstFail [failIf (partOfCore s.cab.cur core != some p) stDENIED, failIf (!cluOk (core / 8) s) stFENCED,
    failIf (scrubbing p s || bitOf s.busyParts p || s.computeReset) stDRAINING]

/-- A program digest is refused by a LOADED key slot with permitted programs (R425). -/
def digestRefused (p : Nat) (d : List Byte) (s : State) : Bool :=
  (loadedSlots p s).any fun k => !k.progs.isEmpty && !k.progs.contains d

/-- An image of a core lies in a sink window (R155). -/
def imageSunk (e : ProgCore) (s : State) : Bool :=
  (e.nBund != 0 && inSink (coreStore e.core + e.bundOff) (32 * e.nBund) s)
    || (e.nOdt != 0 && inSink (coreStore e.core + e.odtOff) (64 * e.nOdt) s)

/-- The status of a LOAD, check by check (R17, R41, R90, R92, R425). DESIGN CHOICE (log entry 97): the encodings of an object
that cannot be read are those of the bytes that memory lists there, so that FORMAT_INVALID stands before the status of its
range. -/
def loadStatus (p addr len : Nat) (o : List Byte) (s : State) : BitVec 8 :=
  if !headerOk o then stFORMAT
  else
    let bundles := (o.getD 6 0).toNat == 1
    let l := (coreEntries o).map Prod.fst
    if !(if bundles then coresOk o else graphOk o) then stFORMAT
    else if le32 o 0xC ≠ len ∨ (bundles ∧ l.any fun e => decide (4096 < e.nOdt
        || coreStoreSize < e.bundOff + 32 * e.nBund || coreStoreSize < e.odtOff + 64 * e.nOdt))
        ∨ (!bundles ∧ !graphCounts o)
        ∨ (freeSlot s).isNone then stLENGTH
    else firstFail ([if bundles then stOK else graphWindows o, rangeStatus (.part p) addr len s]
      ++ (if bundles then l.map fun e => placeStatus p e.core s
          else (nodeCores o).map (fun c => placeStatus p c s)
            ++ (List.range (nBufs o)).map fun i =>
              if bufW o i 8 = 0 then stOK else rangeStatus (.part p) (bufAddr o i) (bufW o i 8) s)
      ++ (if bundles then l.map fun e => failIf (imageSunk e s) stDENIED else [])
      ++ [failIf (digestRefused p (Config.sha384 o) s) stDENIED])

/-- The handle of a program slot (R92). -/
def handleOf (i : Nat) (s : State) : Word := BitVec.ofNat 32 ((getSlot i s).gen * 2 ^ 24 + i)

/-- Places the bundle and ODT images of a bundle object, core after core (R90). -/
def placeImages (o : List Byte) : List ProgCore → Nat → Nat → State → State
  | [], _, _, s => s
  | e :: r, b, d, s =>
    placeImages o r (b + 32 * e.nBund) (d + 64 * e.nOdt)
      (memWrite (coreStore e.core + e.odtOff) (bytesAt o d (64 * e.nOdt))
        (memWrite (coreStore e.core + e.bundOff) (bytesAt o b (32 * e.nBund)) s))

/-- The sync slots of an object (R89). -/
def objSync (o : List Byte) : List (BitVec 64) :=
  if hasSect o 4 then (List.range 128).map fun i => BitVec.ofNat 64 (le64 o ((sectOf o 4).1 + 8 * i))
  else List.replicate 128 0

/-- LOAD: checks, then the placement of a bundle object, or the start of a translation (R86, R87). One LOAD runs at a
time, and a LOAD waits while MGMT is PAUSED. -/
def loadOp (qid : Nat) (s : State) : State :=
  withCmd qid 1 (fun q c s =>
    if s.loading.isSome then s
    else
      let addr := cmdSrc c.bytes
      let len := le32 c.bytes 0x20
      let o := memBytes addr (Nat.max len 64) s
      let graph := (o.getD 6 0).toNat == 0
      if mgmtPlane s = 2 then s
      else
        let st := loadStatus q.part addr len o s
        let s := if rangeStatus (.part q.part) addr len s = stOK then (readAll addr len s).1 else s
        match freeSlot s with
        | none => endCmd qid c.idx (firstFail [st, stLENGTH]) 0 s
        | some i =>
          if st ≠ stOK then endCmd qid c.idx st 0 s
          else if graph then
            setPhase qid c.idx .started
              { s with loading := some ⟨qid, c.idx.toNat, q.part, i, objSync o, Config.sha384 o, nodeCores o⟩ }
          else
            let l := (coreEntries o).map Prod.fst
            let s := placeImages o l (sectOf o 2).1 (sectOf o 3).1 s
            let s := setSlot i { getSlot i s with prog := some ⟨q.part, l, objSync o, Config.sha384 o⟩ } s
            endCmd qid c.idx stOK (handleOf i s) s) s

/-- The core of a translated image. -/
def imageCore (m : CoreImage) : ProgCore :=
  ⟨m.core.val, m.bundOff.toNat, m.odtOff.toNat, if m.nBund = 0 then 65536 else m.nBund.toNat, m.nOdt.toNat, m.entries⟩

/-- The control slot of bundle i of a translated image is not refused at run time: its operation and ARG are defined, the
sync slot that it names is bound to a valid place, and the bundle after it lies in the image (R86, R97). -/
def ctrlFits (l : Loading) (n i ctrl : Nat) : Bool :=
  let cop := bitsOf ctrl 63 60
  let arg := bitsOf ctrl 38 0
  let slot := (l.sync.getD (bitsOf arg 38 32) 0).toNat
  decide (cop ≤ 7) && (cop == 6 || decide (i + 1 < n))
    && (match cop with
      | 2 => decide (bitsOf arg 35 20 < n)
      | 3 => slot != 0 && syncPlaceOk slot
      | 4 => slot != 0 && syncPlaceOk slot
      | 1 => true
      | 7 => true
      | _ => arg == 0)

/-- No instruction of a bundle that the translator made is refused at run time for its encoding, a length or a window
(R86). -/
def bundleFits (p : Nat) (m : CoreImage) (b : List Byte) (s : State) : Bool :=
  (List.range 4).all fun e =>
    let w := bundleSlot b e
    let odt := bytesAt m.odt (64 * bitsOf w 11 0) 64
    let st := if slotOp e w = 0 then stOK
      else match e with
        | 2 => vxCheck m.core.val p w s
        | 3 => if slotOp 3 w ≠ 1 ∨ bitsOf w 54 12 ≠ 0 ∨ m.nOdt.toNat ≤ bitsOf w 11 0 then stFORMAT else sxCheck m.core.val p odt s
        | _ => if slotOp e w ≠ 1 ∨ bitsOf w 22 12 ≠ 0 ∨ m.nOdt.toNat ≤ bitsOf w 11 0 then stFORMAT else mxCheck m.core.val p odt 0 s
    st != stFORMAT && st != stLENGTH && st != stWINDOW

/-- The images that a translation gives: one for each core that the nodes name, of the lengths that it states, within the
core stores, and with bundles that do not fail at run time (R86, R90). -/
def imagesFit (l : Loading) (imgs : List CoreImage) (s : State) : Bool :=
  (imgs.map fun m => m.core.val).length == l.cores.length && l.cores.all (imgs.map fun m => m.core.val).contains
    && imgs.all fun m =>
      let e := imageCore m
      m.bundles.length == 32 * e.nBund && m.odt.length == 64 * e.nOdt && e.bundOff % 32 == 0 && e.odtOff % 64 == 0
        && decide (e.nOdt ≤ 4096 ∧ e.bundOff + 32 * e.nBund ≤ coreStoreSize ∧ e.odtOff + 64 * e.nOdt ≤ coreStoreSize)
        && m.entries.all (fun x => decide (x.toNat < e.nBund))
        && (List.range e.nBund).all fun i =>
          let b := bytesAt m.bundles (32 * i) 32
          ctrlFits l e.nBund i (leNat (bytesAt b 0 8)) && bundleFits l.part m b s

/-- LOAD_TRANSLATION_DONE (R86, R87): the images that the translator made are placed and the LOAD ends with its handle;
not while MGMT is PAUSED, nor with images that no translation gives. -/
def translationDone (imgs : List CoreImage) (s : State) : State :=
  match s.loading with
  | none => s
  | some l =>
    if mgmtPlane s = 2 ∨ s.computeReset ∨ isSafe s ∨ !imagesFit l imgs s then s
    else if imgs.any fun m => imageSunk (imageCore m) s then
      endCmd l.qid (BitVec.ofNat 32 l.idx) stDENIED 0 { s with loading := none }
    else
      let s := forAll imgs (fun m s =>
        memWrite (coreStore m.core.val + m.odtOff.toNat) m.odt
          (memWrite (coreStore m.core.val + m.bundOff.toNat) m.bundles s)) s
      let s := setSlot l.slot { getSlot l.slot s with prog := some ⟨l.part, imgs.map imageCore, l.sync, l.digest⟩ } s
      endCmd l.qid (BitVec.ofNat 32 l.idx) stOK (handleOf l.slot s) { s with loading := none }

/-! Starting a program on a core. -/

/-- A COPY or FILL over the fabric occupies its TARGET core: it runs as a one-instruction program (R112). -/
def coreMoving (c : Nat) (s : State) : Bool :=
  s.fab.remote.any fun r => r.tag.core.val == c && (match r.kind with
    | .copyPut _ _ _ => true
    | .copyGet _ _ _ _ _ => true
    | .copyRelay _ _ _ _ _ _ _ _ => true
    | _ => false)

/-- A program runs on a core. -/
def coreRuns (c : Nat) (s : State) : Bool := (getCore c s).run.isSome || coreMoving c s

/-- A core is taken: a program runs on it, or CAPTURE has halted it (R369). -/
def coreTaken (c : Nat) (s : State) : Bool := coreRuns c s || (getCore c s).halted

/-- A core is free to take a program: none runs on it, it is not halted or in reset, and DATA is RUN. -/
def coreFree (c : Nat) (s : State) : Bool :=
  !coreTaken c s && !(getCore c s).inReset && dataPlane s == 1

/-- A core that has started a program is not eligible for release (R329), and asks for admission if its first bundle is ready
(R328). -/
def startAsks (c : Nat) (s : State) : State :=
  let s := touchCore c s
  if bundleReady c s then askAdmit c s else s

/-- Starts an instance on a core: LEC 0, PC at the entry point, arguments in ODT entry 0 (R95, R112). -/
def startOn (i : Inst) (c : Nat) (s : State) : State :=
  match (getSlot i.slot s).prog with
  | none => s
  | some p =>
    match p.cores.find? fun e => e.core == c with
    | none => s
    | some e =>
      let s := if e.nOdt = 0 then s else memWrite (coreStore c + e.odtOff) i.args s
      let s := modCore c (fun k => { k with
        run := some ⟨i.slot, i.id, s.clk.p, e.bundOff, e.odtOff, e.nBund, e.nOdt, false, false, false⟩,
        lec := List.replicate 16 0 })
        { s with waiters := s.waiters.filter fun w => !(w.isCore && w.id == c) }
      let s := match i.t with
        | none => s
        | some t => modCore c (fun k => { k with run := k.run.map fun r => { r with t0 := t } }) s
      let s := setPc c (e.entries.getD i.entry 0).toNat (setProgState c 1 (fset (coreB c) fCORE_PROG_STATUS_SLOT i.slot s))
      startAsks c (regSet (coreB c + oCORE_PROG_ODT) (BitVec.ofNat 32 (coreStore c - sramB + e.odtOff)) s)

/-- The program slot of a command's handle. -/
def cmdSlot (c : QCmd) : Nat := cmdHandle c.bytes % 256

/-- P of the replica on the die of a core, which its timed launches use (R177). -/
def diePace (c : Nat) (s : State) : BitVec 48 := (s.clk.replicas.getD (c / 64) ⟨s.clk.w, s.clk.epoch, s.clk.p⟩).p

/-- A launch-table entry of a core is due: P has reached its T and it has not fired. -/
def dueEntry (c i : Nat) (s : State) : Option LaunchEntry :=
  match tget (fun _ => none) (getCore c s).launch i with
  | none => none
  | some e => if !e.fired && reaches48 (diePace c s) e.t then some e else none

/-- The late entry of a core that starts first: the earliest T, then the lowest slot. -/
def lateEntry (c : Nat) (s : State) : Option (Nat × LaunchEntry) :=
  let l := (List.range 64).filterMap fun i => match tget (fun _ => none) (getCore c s).launch i with
    | none => none
    | some e => if e.fired then some (i, e) else none
  l.foldl (fun a x => match a with
    | none => some x
    | some y => if reaches48 x.2.t y.2.t then a else some x) none

/-- No timed entry of a core is due or late: only then may untimed work take the core (R120, R121). -/
def noneDue (c : Nat) (s : State) : Bool :=
  (lateEntry c s).isNone && (List.range 64).all fun i => (dueEntry c i s).isNone

/-- LAUNCH (R112): the program starts on all of its cores together, once every core is free, DATA is RUN and no timed
entry is due or late on a core (R120, R121). -/
def launchOp (qid : Nat) (s : State) : State :=
  withCmd qid 3 (fun q c s =>
    let st := handleStatus q.part (cmdHandle c.bytes) s
    let cores := progCores (cmdSlot c) s
    if st ≠ stOK then endCmd qid c.idx st 0 s
    else if cores.any (fun k => !cluOk (k / 8) s) then endCmd qid c.idx stFENCED 0 s
    else if cores.all (fun k => coreFree k s && noneDue k s) then
      let i : Inst := ⟨s.instNo, cmdSlot c, qid, c.idx.toNat, q.part, bitsOf (le32 c.bytes 0x18) 3 0,
        bytesAt c.bytes 0x1C 32, none, 0, 0, [], cores, stOK, 0, none⟩
      let s := { s with insts := s.insts ++ [i], instNo := s.instNo + 1 }
      setPhase qid c.idx .started (forAll cores (startOn i) s)
    else s) s

/-! Launch tables (R119 to R121). -/

/-- The pace time of an ARM command. -/
def armTime (b : List Byte) : BitVec 48 := BitVec.ofNat 48 (le32 b 0x1C + 2 ^ 32 * bitsOf (le32 b 0x20) 15 0)
def armSlot (b : List Byte) : Nat := bitsOf (le32 b 0x18) 13 8
def armPolicy (b : List Byte) : Nat := bitsOf (le32 b 0x18) 17 16

/-- T lies further than 2^40 from P on either side (R119). -/
def armRange (t p : BitVec 48) : Bool :=
  let d := (t - p).toNat
  decide ((2 ^ 47 ≤ d ∧ d < 2 ^ 48 - 2 ^ 40) ∨ (2 ^ 40 < d ∧ d < 2 ^ 47))

/-- T lies in the past, or is now (R119). -/
def armPast (t p : BitVec 48) : Bool := decide (2 ^ 47 ≤ (t - p).toNat)

/-- The checks of ARM after its encoding, in order (R119). -/
def armStatus (q : Queue) (c : QCmd) (s : State) : BitVec 8 :=
  let cores := progCores (cmdSlot c) s
  firstFail [handleStatus q.part (cmdHandle c.bytes) s, failIf (inDrift s) stDENIED,
    failIf (cores.any fun k => (tget (fun _ => none) (getCore k s).launch (armSlot c.bytes)).isSome) stDENIED,
    failIf (armRange (armTime c.bytes) s.clk.p) stLENGTH, failIf (cores.any fun k => !cluOk (k / 8) s) stFENCED]

/-- An instance that is over ends its command with its status and DETAIL. -/
def finishInst (i : Inst) (s : State) : State :=
  endCmd i.qid (BitVec.ofNat 32 i.idx) i.status i.detail (dropInst i.id s)

/-- DESIGN CHOICE (log entry 84): DETAIL of an instance that ends so stays 0, under LATE too. An armed instance is not run, or
not on all of its cores: its entries go, started cores stop at their next bundle
boundary, and it ends with a status once no core runs it. -/
def cancelInst (id : Nat) (st : BitVec 8) (s : State) : State :=
  let s := modInst id (fun x => { x with status := st }) (dropEntries id s)
  match getInst id s with
  | none => s
  | some i =>
    if i.running.isEmpty then finishInst i s
    else forAll i.running (fun c s => setProgState c 3
      (modCore c (fun k => { k with run := k.run.map fun r => { r with stop := true } }) s)) s

/-- ARM (R119): the entry is written on every core of the program; a time in the past is late at once (R120). -/
def armOp (qid : Nat) (s : State) : State :=
  withCmd qid 4 (fun q c s =>
    let st := armStatus q c s
    if st ≠ stOK then endCmd qid c.idx st 0 s
    else
      let b := c.bytes
      let cores := progCores (cmdSlot c) s
      let past := armPast (armTime b) s.clk.p
      let i : Inst := ⟨s.instNo, cmdSlot c, qid, c.idx.toNat, q.part, bitsOf (le32 b 0x18) 3 0, bytesAt b 0x24 24,
        some (armTime b), armSlot b, armPolicy b, cores, [], stOK, 0, none⟩
      let s := { s with insts := s.insts ++ [i], instNo := s.instNo + 1 }
      let s := forAll cores (fun k => setEntry k (armSlot b)
        (some ⟨armTime b, i.id, cmdSlot c, i.entry, armPolicy b, past⟩)) s
      let s := setPhase qid c.idx .started s
      if past ∧ armPolicy b = 1 then
        cancelInst i.id stLATE (forAll cores (fun k => evt (coreB k) eCORE_LAUNCH_STAT_SKIP) s)
      else s) s

/-- A core's entry leaves its table and the instance starts on it. -/
def fireOn (c slot : Nat) (i : Inst) (s : State) : State :=
  let s := setEntry c slot none s
  let s := modInst i.id (fun x => { x with waiting := x.waiting.erase c, running := x.running ++ [c] }) s
  startOn i c s

/-- Lateness on a core in ECLK cycles of P, saturating at 32 bits. -/
def lateness (c : Nat) (t : BitVec 48) (s : State) : Word := BitVec.ofNat 32 (Nat.min (diePace c s - t).toNat (2 ^ 32 - 1))

/-- Another entry of a core is due before the one in a slot: one of an earlier T, or of the same T in a lower slot (R121). -/
def dueBefore (c slot : Nat) (e : LaunchEntry) (s : State) : Bool :=
  (List.range 64).any fun j => match dueEntry c j s with
    | none => false
    | some x => if x.t = e.t then decide (j < slot) else reaches48 e.t x.t

/-- LAUNCH_ENTRY_FIRE (R120, R121): a due entry, none being due before it on its core, fires; in DRIFT it does not fire
and its ARM completes with LATE; on a core that still runs another program or is halted (R369), or that a late entry takes first, its policy
decides; on a core in reset, or while DATA is PAUSED, it waits (log entry 84). -/
def entryFire (c slot : Nat) (s : State) : State :=
  match dueEntry c slot s with
  | none => s
  | some e =>
    if dueBefore c slot e s ∨ isSafe s then s
    else if inDrift s then cancelInst e.inst stLATE s
    else match getInst e.inst s with
      | none => setEntry c slot none s
      | some i =>
        if !coreTaken c s ∧ (lateEntry c s).isNone then (if coreFree c s then fireOn c slot i s else s)
        else if e.policy = 0 then setEntry c slot (some { e with fired := true }) s
        else cancelInst e.inst stLATE (evt (coreB c) eCORE_LAUNCH_STAT_SKIP s)

/-- LATE_CORE_START (R120): a late core under RUN_LATE starts as soon as it is free. -/
def lateStart (c : Nat) (s : State) : State :=
  match lateEntry c s with
  | none => s
  | some (slot, e) =>
    if !coreFree c s then s
    else match getInst e.inst s with
      | none => setEntry c slot none s
      | some i =>
        let d := lateness c e.t s
        let s := evt (coreB c) eCORE_LAUNCH_STAT_LATE (fireOn c slot i s)
        modInst i.id (fun x => { x with detail := if x.detail.toNat < d.toNat then d else x.detail }) s

/-- A core that runs an instance has stopped and its in-flight instructions have finished (R103). -/
def coreStopped (id c : Nat) (s : State) : Bool :=
  match (getCore c s).run with
  | none => true
  | some r => r.inst != id || (r.stop && enginesIdle c s)

/-- PROGRAM_INSTANCE_END: no core waits for the instance, and every core that it started has ended or stopped. -/
def instanceEnd (id : Nat) (s : State) : State :=
  match getInst id s with
  | none => s
  | some i =>
    if i.waiting.isEmpty ∧ i.running.all (fun c => coreStopped id c s) ∧ !isSafe s then
      finishInst i (forAll i.running (fun c s => modCore c (fun k => { k with run := k.run.filter fun r => r.inst != id }) s) s)
    else s

/-- The instances of a program slot. -/
def instsOf (slot : Nat) (s : State) : List Inst := s.insts.filter fun i => i.slot == slot

/-- DISARM (R121): the armed instance of the slot ends with DENIED; an empty slot changes nothing. -/
def disarmOp (qid : Nat) (s : State) : State :=
  withCmd qid 5 (fun q c s =>
    let st := handleStatus q.part (cmdHandle c.bytes) s
    if st ≠ stOK then endCmd qid c.idx st 0 s
    else
      let slot := bitsOf (le32 c.bytes 0x18) 5 0
      let l := (instsOf (cmdSlot c) s).filter fun i => i.t.isSome && i.tslot == slot && !i.waiting.isEmpty
      endCmd qid c.idx stOK 0 (forAll l (fun i => cancelInst i.id stDENIED) s)) s

/-- Frees a program slot: GEN rises, 255 to 1 (R92, R93). -/
def freeProg (i : Nat) (s : State) : State :=
  setSlot i ⟨if (getSlot i s).gen = 255 then 1 else (getSlot i s).gen + 1, none⟩ s

/-- An instance runs: a core of it runs, or some of its cores have started and others wait for their launch time. -/
def instRuns (i : Inst) (s : State) : Bool :=
  !i.running.isEmpty || (!i.waiting.isEmpty && decide (i.waiting.length < (progCores i.slot s).length))

/-- UNLOAD ends an instance that does not run: an armed one is disarmed (R121), one whose cores have all ended ends. -/
def unloadInst (i : Inst) (s : State) : State := if i.waiting.isEmpty then finishInst i s else cancelInst i.id stDENIED s

/-- UNLOAD (R93): waits until no instance of the program runs, disarms its entries and frees its slot. -/
def unloadOp (qid : Nat) (s : State) : State :=
  withCmd qid 2 (fun q c s =>
    let st := handleStatus q.part (cmdHandle c.bytes) s
    if st ≠ stOK then endCmd qid c.idx st 0 s
    else if (instsOf (cmdSlot c) s).any fun i => instRuns i s then s
    else endCmd qid c.idx stOK 0 (freeProg (cmdSlot c) (forAll (instsOf (cmdSlot c) s) unloadInst s))) s

/-! COPY and FILL (R112, R113): work of the TARGET core for the queue's partition. -/

/-- The TARGET core can take the one-instruction program, no timed entry being due or late on it (R120). -/
def targetReady (q : Queue) (s : State) : Bool :=
  let c := q.target.toNat
  coreFree c s && noneDue c s && enginesIdle c s && s.stool.admitted.contains c && !issueStopped s
    && !partStopped q.part s

/-- Sends bytes to a remote package for COPY or FILL by the value of its entry, on the port and VL of a shelf that takes
them (R155, R230); whole is false where an uncorrectable unit of the source has cut them (R131). -/
def moveBy (qid : Nat) (q : Queue) (c : QCmd) (e : BitVec 19) (w : BitVec 64) (dst n : Nat) (l : List Byte) (whole : Bool)
    (s : State) : State :=
  let core := q.target.toNat
  let a := bitsOf dst 45 0
  let sh := shelfOf core (bitsOf dst 55 46) a n s
  let tag := mkTag core (nextSeqno core s)
  let s := sendData (sh.map Prod.fst) core ((sh.map Prod.snd).getD copyVl) 1 e w a tag 0 0 l (bumpSeqno core s)
  let kind := RemoteKind.copyPut qid c.idx l.length
  setPhase qid c.idx .started (if whole then outstanding tag kind e w (chunksOf l).length 0 s
    else outstandingCut tag kind e w (chunksOf l).length s)

/-- The lookup of a remote end of a COPY or FILL at its issue (R239): the EID, or the status that refuses it. -/
def moveLookup (q : Queue) (g : Nat) (s : State) : BitVec 19 × BitVec 8 :=
  match eidOfPkg q.part (bitsOf g 55 46) s with
  | none => (0x7FFFF, stDENIED)
  | some e => (e, lookupStatus q.part q.target.toNat e (dieOfAddr (bitsOf g 45 0)) s)

/-- Sends the bytes of a COPY or FILL to a remote package after the lookup. -/
def moveOut (qid : Nat) (q : Queue) (c : QCmd) (dst n : Nat) (l : List Byte) (whole : Bool) (s : State) : State :=
  let r := moveLookup q dst s
  if r.2 ≠ stOK then endCmd qid c.idx r.2 0 s else moveBy qid q c r.1 (entryOf r.1 s) dst n l whole s

/-- Asks a remote package for the source bytes of a COPY; a remote destination is looked up at the issue too (R239). -/
def moveIn (qid : Nat) (q : Queue) (c : QCmd) (src dst n : Nat) (s : State) : State :=
  let core := q.target.toNat
  let far := !isLocalPkg q.part dst s
  let r := moveLookup q src s
  let d := moveLookup q dst s
  let st := firstFail [r.2, if far then d.2 else stOK]
  if st ≠ stOK then endCmd qid c.idx st 0 s
  else
    let tag := mkTag core (nextSeqno core s)
    let w := entryOf r.1 s
    let s' := sendOne core copyVl 2 r.1 w (bitsOf src 45 0) tag (if far then 0 else bitsOf dst 45 0) n (bumpSeqno core s)
    let kind := if far then RemoteKind.copyRelay qid c.idx dst [] n n d.1 (entryOf d.1 s)
      else .copyGet qid c.idx (bitsOf dst 45 0) n n
    setPhase qid c.idx .started (outstanding tag kind r.1 w 1 0 s')

/-- COPY (R113). -/
def copyOp (qid : Nat) (s : State) : State :=
  withCmd qid 6 (fun q c s =>
    let b := c.bytes
    let n := cmdLen b
    if n = 0 then endCmd qid c.idx stOK 0 s
    else if !targetReady q s then askAdmit q.target.toNat s
    else if !sxCredits q.target.toNat q.part [cmdSrc b, cmdDst b] n s then s
    else
      let st := moveStatus q b s
      if st ≠ stOK then endCmd qid c.idx st 0 s
      else if !isLocalPkg q.part (cmdSrc b) s then moveIn qid q c (cmdSrc b) (cmdDst b) n s
      else if isLocalPkg q.part (cmdDst b) s then
        let r := localMove q.target.toNat (bitsOf (cmdSrc b) 45 0) (bitsOf (cmdDst b) 45 0) n s
        let moved := (readUpTo (bitsOf (cmdSrc b) 45 0) n s).2
        endCmd qid c.idx r.2 (if r.2 = stDENIED then 0 else BitVec.ofNat 32 moved) r.1
      else
        let r := readUpTo (bitsOf (cmdSrc b) 45 0) n s
        if r.2 = 0 then endCmd qid c.idx stCHECK 0 r.1
        else moveOut qid q c (cmdDst b) n (memBytes (bitsOf (cmdSrc b) 45 0) r.2 s) (r.2 == n) r.1) s

/-- The bytes of a FILL: the pattern repeated. -/
def fillBytes (pat n : Nat) : List Byte := (List.replicate (n / 4) (leBytes 4 pat)).flatten
/-- The entries of the bytes of a FILL that are not 0. -/
def fillTbl (pat n : Nat) : Tbl Byte := if pat = 0 then [] else sparse 0 (fillBytes pat n)

/-- FILL (R113). -/
def fillOp (qid : Nat) (s : State) : State :=
  withCmd qid 7 (fun q c s =>
    let b := c.bytes
    let n := cmdLen b
    if n = 0 then endCmd qid c.idx stOK 0 s
    else if !targetReady q s then askAdmit q.target.toNat s
    else if !sxCredits q.target.toNat q.part [cmdDst b] n s then s
    else
      let st := moveStatus q b s
      if st ≠ stOK then endCmd qid c.idx st 0 s
      else if isLocalPkg q.part (cmdDst b) s then
        let r := localWrite q.target.toNat (bitsOf (cmdDst b) 45 0) n (fillTbl (le32 b 0x2C) n) s
        endCmd qid c.idx r.2 (if r.2 = stOK then BitVec.ofNat 32 n else 0) r.1
      else moveOut qid q c (cmdDst b) n (fillBytes (le32 b 0x2C) n) true s) s

/-- LOAD. -/
def execLoad (q : BitVec 20) (s : State) : Host.Outcome State Fault Refusal := .next (loadOp q.toNat s)
/-- LOAD_TRANSLATION_DONE. -/
def execLoadTranslationDone (imgs : List CoreImage) (s : State) : Host.Outcome State Fault Refusal :=
  .next (translationDone imgs s)
/-- UNLOAD. -/
def execUnload (q : BitVec 20) (s : State) : Host.Outcome State Fault Refusal := .next (unloadOp q.toNat s)
/-- LAUNCH. -/
def execLaunch (q : BitVec 20) (s : State) : Host.Outcome State Fault Refusal := .next (launchOp q.toNat s)
/-- ARM. -/
def execArm (q : BitVec 20) (s : State) : Host.Outcome State Fault Refusal := .next (armOp q.toNat s)
/-- DISARM. -/
def execDisarm (q : BitVec 20) (s : State) : Host.Outcome State Fault Refusal := .next (disarmOp q.toNat s)
/-- COPY. -/
def execCopy (q : BitVec 20) (s : State) : Host.Outcome State Fault Refusal := .next (copyOp q.toNat s)
/-- FILL. -/
def execFill (q : BitVec 20) (s : State) : Host.Outcome State Fault Refusal := .next (fillOp q.toNat s)
/-- LATE_CORE_START. -/
def execLateCoreStart (c : Fin 256) (s : State) : Host.Outcome State Fault Refusal := .next (lateStart c.val s)
/-- PROGRAM_INSTANCE_END. -/
def execProgramInstanceEnd (inst : Nat) (s : State) : Host.Outcome State Fault Refusal := .next (instanceEnd inst s)

end Sys2Proof.Machine
end

