-- ==== Sys2Proof/Machine/Exact.lean ====
section
/-! DEFINITION. The functions of VX on F32 (R78): their exact results, within 2^-64 of the value, and the error bound in units
in the last place. -/

namespace Sys2Proof.Machine

/-- The fixed point of the evaluation: numbers are multiples of 2^-fixB. -/
abbrev fixB : Nat := 200

/-- ln 2 in fixed point: 2 atanh (1/3) as a sum of 1 / ((2k + 1) 3^(2k + 1)). -/
def fixLn2 : Nat := (List.range 70).foldl (fun a k => a + 2 * 2 ^ fixB / ((2 * k + 1) * 3 ^ (2 * k + 1))) 0

/-- 2^f for f below 1, both in fixed point: the sum of (f ln 2)^k / k!. -/
def fixPow2 (f : Nat) : Nat :=
  let y := f * fixLn2 / 2 ^ fixB
  ((List.range 60).foldl (fun (a : Nat × Nat) k => (a.1 + a.2, a.2 * y / 2 ^ fixB / (k + 1))) (0, 2 ^ fixB)).1

/-- 2^v for a value v in fixed point, as a value. -/
def pow2Val (v : Int) : Val := scaled false (fixPow2 (v % (2 ^ fixB : Nat)).toNat) (v / (2 ^ fixB : Nat) - fixB)

/-- A value in fixed point, rounded down. -/
def toFix (neg : Bool) (n d : Nat) : Int := signed neg (n * 2 ^ fixB) / d

/-- e^-v for v at or above 0. -/
def expNeg (n d : Nat) : Val := pow2Val (toFix true n d * (2 ^ fixB : Nat) / fixLn2)

/-- log2 of n / d above 0, in fixed point: the exponent, and 2 atanh ((m - 1) / (m + 1)) / ln 2 of the mantissa m, which lies
between 3/4 and 3/2. -/
def fixLog2 (n d : Nat) : Int :=
  let e0 := floorLog2 n d
  let u0 := unscale n d e0
  let e := if 3 * u0.2 ≤ 2 * u0.1 then e0 + 1 else e0
  let u := unscale n d e
  let z : Int := ((u.1 : Int) - u.2) * (2 ^ fixB : Nat) / ((u.1 : Int) + u.2)
  let z2 := z * z / (2 ^ fixB : Nat)
  let s := ((List.range 60).foldl (fun (a : Int × Int) k => (a.1 + a.2 / (2 * k + 1 : Nat), a.2 * z2 / (2 ^ fixB : Nat))) (0, z)).1
  e * (2 ^ fixB : Nat) + 2 * s * (2 ^ fixB : Nat) / fixLn2

/-- A number in fixed point as a value. -/
def ofFix (v : Int) : Val := .fin (decide (v < 0)) v.natAbs (2 ^ fixB)

/-- 1 / (1 + t) or t / (1 + t). -/
def sigmVal (low : Bool) (t : Val) : Val :=
  match t with
  | .fin _ n d => if low then .fin false n (n + d) else .fin false d (n + d)
  | v => v

/-- tanh of n / d with its sign: by its series below 2^-24, else (1 - t) / (1 + t) with t = e^-2v. -/
def tanhVal (neg : Bool) (n d : Nat) : Val :=
  if n * 2 ^ 24 < d then .fin neg (3 * n * d * d - n * n * n) (3 * d * d * d)
  else match expNeg (2 * n) d with
    | .fin _ a b => .fin neg (b - a) (b + a)
    | v => v

/-- The exact result of a function of R78 on an infinity: its limit; NaN where there is none. -/
def vxLimit (op : Nat) (neg : Bool) : Val :=
  match op with
  | 0x20 => .fin neg 0 1
  | 0x21 => if neg then .nan else .fin false 0 1
  | 0x22 => if neg then .fin false 0 1 else .inf false
  | 0x23 => if neg then .nan else .inf false
  | 0x24 => .fin neg 1 1
  | 0x25 => if neg then .fin false 0 1 else .fin false 1 1
  | _ => .nan

/-- The exact result of a function of R78 on the bits of an F32, where the manual states one; NaN where it does not: for a
NaN, 1/0, and a square root or logarithm of a value that is not above 0. Past an argument of 150 an exponential lies so far
outside F32 that 2^-300 or 2^300 stands for it. -/
def vxExact (op x : Nat) : Val :=
  match decVal 0 x with
  | .fin neg n d =>
    match op with
    | 0x20 => if n = 0 then .nan else .fin neg d n
    | 0x21 => if n = 0 ∨ neg then .nan else .fin false (Nat.sqrt (d * n * 2 ^ (2 * fixB))) (n * 2 ^ fixB)
    | 0x22 => if 150 * d ≤ n then scaled false 1 (if neg then -300 else 300) else pow2Val (toFix neg n d)
    | 0x23 => if n = 0 ∨ neg then .nan else ofFix (fixLog2 n d)
    | 0x24 => if n = 0 then .fin neg 0 1 else if 100 * d ≤ n then .fin neg 1 1 else tanhVal neg n d
    | 0x25 => if 150 * d ≤ n then (if neg then scaled false 1 (-300) else .fin false 1 1) else sigmVal neg (expNeg n d)
    | _ => .nan
  | .inf neg => vxLimit op neg
  | .nan => .nan

/-- The largest error of a function in units in the last place (R78). -/
def vxUlps (op : Nat) : Nat := if op = 0x20 ∨ op = 0x21 then 1 else 2

/-- A result lies within k units in the last place of F32 of an exact value, and the 2^-20 of a unit that the evaluation may
be off. -/
def withinUlps (k : Nat) (r v : Val) : Bool :=
  match r, v with
  | .fin s n d, .fin t m e =>
    let ex := if floorLog2 m e < -126 then -149 else floorLog2 m e - 23
    let ulp := scaled false (k * 2 ^ 20 + 1) (ex - 20)
    let diff := (vAdd false (.fin s n d) (.fin (!t) m e)).1.absVal
    !vLt ulp diff
  | _, _ => false

end Sys2Proof.Machine
end

