-- ==== Sys2Proof/Machine/Vector.lean ====
section
/-! DEFINITION. The vector engine: lanes, masks, the register-form and memory-form operations of R77 to R80 and R100. -/

namespace Sys2Proof.Machine

/-- The 256 bytes of a vector register. -/
def vregBytes (k : Core) (v : Nat) : List Byte := (List.range 256).map fun i => tget (fun _ => 0) k.vreg (256 * v + i)

/-- Writes bytes of a vector register from byte 0; the bytes beyond keep their values (R100). -/
def vregPut (k : Core) (v : Nat) (l : List Byte) : Core :=
  { k with vreg := tput (256 * v) l.length (sparse 0 l) k.vreg }

/-- The 64 lanes of an accumulator vector, as W48 bits. -/
def acLanes (k : Core) (a : Nat) : List Nat :=
  (List.range 64).map fun i => (tget (fun _ => 0) k.ac (64 * a + i)).toNat

/-- Writes the 64 lanes of an accumulator vector. -/
def acPut (k : Core) (a : Nat) (l : List Nat) : Core :=
  let sl : Tbl (BitVec 48) := (l.zipIdx.filter fun v => v.1 != 0).map fun v => (v.2, BitVec.ofNat 48 v.1)
  { k with ac := tput (64 * a) 64 sl k.ac }

/-- The lane mask that a vector register holds: bit i of its bytes for lane i. -/
def maskBit (k : Core) (v i : Nat) : Bool := bitOf ((vregBytes k v).getD (i / 8) 0).toNat (i % 8)

/-- A lane is active: no mask, or its mask bit is 1 (R80). -/
def laneOn (k : Core) (w i : Nat) : Bool := !vxMaskEn w || maskBit k (vxMaskV w) i

/-- The n lanes of the first source: VA in FMT, or ACS as W48 under SRC_AC (R100). -/
def srcLanes (k : Core) (w n : Nat) : List Val :=
  if vxSrcAc w then (acLanes k (vxACS w)).map (decVal fmtW48)
  else (List.range n).map (elemVal (vxFmt w) (vregBytes k (vxVA w)))

/-- The n lanes of a vector register in FMT. -/
def regLanes (k : Core) (w v n : Nat) : List Val := (List.range n).map (elemVal (vxFmt w) (vregBytes k v))

/-- Writes n results into VD in a format; lanes that the mask leaves out keep their elements. -/
def putLanes (k : Core) (w fmt : Nat) (res : List Nat) : Core :=
  let old := vregBytes k (vxVD w)
  vregPut k (vxVD w) (packElems fmt (res.zipIdx.map fun r => if laneOn k w r.2 then r.1 else elemBits fmt old r.2))

/-- Flags of the lanes that the mask leaves in. -/
def laneFlags (k : Core) (w : Nat) (l : List (Nat × Nat)) : Nat :=
  l.zipIdx.foldl (fun a r => if laneOn k w r.2 then orFlags a r.1.2 else a) 0

/-- A lane-wise operation with its result in VD (R77): g gives the exact value of lane i with its flags. DESIGN CHOICE (log
entry 14): a NaN operand of arithmetic sets NV as one of a conversion does (R71). -/
def vxLaneOp (c w : Nat) (g : Core → Nat → Val × Nat) (s : State) : State × BitVec 8 :=
  let k := getCore c s
  let n := vxLanes w
  let fmt := vxOut w
  let res := (List.range n).map fun i =>
    let v := g k i
    let r := encArith fmt (vxRnd w) (vxSat w) v.1
    (r.1, orFlags v.2 r.2)
  (raiseFlags c (laneFlags k w res) (setCore c (putLanes k w fmt (res.map Prod.fst)) s), stOK)

/-- Lane i of VA, VB or VC. -/
def laneOf (w v : Nat) (k : Core) (i : Nat) : Val := elemVal (vxFmt w) (vregBytes k v) i

/-- ADD (R77). -/
def vxAdd (c w : Nat) : State → State × BitVec 8 :=
  vxLaneOp c w fun k i => vAdd (vxRnd w == 2) (laneOf w (vxVA w) k i) (laneOf w (vxVB w) k i)

/-- SUB (R77). -/
def vxSub (c w : Nat) : State → State × BitVec 8 :=
  vxLaneOp c w fun k i => vAdd (vxRnd w == 2) (laneOf w (vxVA w) k i) (laneOf w (vxVB w) k i).negate

/-- MUL (R77). -/
def vxMul (c w : Nat) : State → State × BitVec 8 :=
  vxLaneOp c w fun k i => vMul (laneOf w (vxVA w) k i) (laneOf w (vxVB w) k i)

/-- FMA: VA * VB + VC, rounded once (R77, R100). -/
def vxFma (c w : Nat) : State → State × BitVec 8 :=
  vxLaneOp c w fun k i =>
    let m := vMul (laneOf w (vxVA w) k i) (laneOf w (vxVB w) k i)
    let r := vAdd (vxRnd w == 2) m.1 (laneOf w (vxVC w) k i)
    (r.1, orFlags m.2 r.2)

/-- MIN (R71, R77). -/
def vxMin (c w : Nat) : State → State × BitVec 8 :=
  vxLaneOp c w fun k i => (vMin (laneOf w (vxVA w) k i) (laneOf w (vxVB w) k i), 0)

/-- MAX (R71, R77). -/
def vxMax (c w : Nat) : State → State × BitVec 8 :=
  vxLaneOp c w fun k i => (vMax (laneOf w (vxVA w) k i) (laneOf w (vxVB w) k i), 0)

/-- SEL: each lane from VA where the mask bit of MASK_V is 1, else from VB (R77). DESIGN CHOICE (log entry 14): MASK_V is
the selector whatever MASK_EN says, and every lane is written. -/
def vxSel (c w : Nat) (s : State) : State × BitVec 8 :=
  let k := getCore c s
  let n := vxLanes w
  let a := vregBytes k (vxVA w)
  let b := vregBytes k (vxVB w)
  let res := (List.range n).map fun i =>
    if maskBit k (vxMaskV w) i then elemBits (vxFmt w) a i else elemBits (vxFmt w) b i
  (setCore c (vregPut k (vxVD w) (packElems (vxFmt w) res)) s, stOK)

/-- Bits packed eight to a byte, lowest first. -/
def packBits (l : List Bool) : List Byte := packGroups 8 1 1 l.length (l.map Bool.toNat)

/-- A comparison sets a lane mask in VD: bit i for lane i (R80); lanes that the mask leaves out keep their bits. -/
def vxCompare (c w : Nat) (rel : Val → Val → Bool) (s : State) : State × BitVec 8 :=
  let k := getCore c s
  let bits := (List.range (vxLanes w)).map fun i =>
    if laneOn k w i then rel (laneOf w (vxVA w) k i) (laneOf w (vxVB w) k i) else maskBit k (vxVD w) i
  (setCore c (vregPut k (vxVD w) (packBits bits)) s, stOK)

/-- Writes the lanes of an accumulator vector; lanes that the mask leaves out keep their values. -/
def putAc (c w a : Nat) (res : List (Nat × Nat)) (s : State) : State × BitVec 8 :=
  let k := getCore c s
  let old := acLanes k a
  let l := res.zipIdx.map fun r => if laneOn k w r.2 then r.1.1 else old.getD r.2 0
  (raiseFlags c (laneFlags k w res) (setCore c (acPut k a l) s), stOK)

/-- ACC: AC += VA, or AC += ACS, each lane rounded once to nearest-even (R100). -/
def vxAcc (c w : Nat) (s : State) : State × BitVec 8 :=
  let k := getCore c s
  let old := acLanes k (vxAC w)
  putAc c w (vxAC w) ((srcLanes k w 64).zipIdx.map fun v => accAddV (old.getD v.2 0) v.1) s
where
  accAddV (acc : Nat) (x : Val) : Nat × Nat :=
    let r := vAdd false (decVal fmtW48 acc) x
    let w := roundW48 r.1
    (w.1, orFlags r.2 w.2)

/-- A conversion of lanes into VD under RND and SAT (R71). -/
def convLanes (c w fmt : Nat) (vals : List Val) (s : State) : State × BitVec 8 :=
  let k := getCore c s
  let res := vals.map (encVal fmt (vxRnd w) (vxSat w))
  (raiseFlags c (laneFlags k w res) (setCore c (putLanes k w fmt (res.map Prod.fst)) s), stOK)

/-- ACC_READ: VD = AC drained to FMT_OUT (R100). -/
def vxAccRead (c w : Nat) (s : State) : State × BitVec 8 :=
  convLanes c w (vxFmtOut w) (((acLanes (getCore c s) (vxAC w)).take (vxLanes w)).map (decVal fmtW48)) s

/-- A T5 source holds a byte from 243 to 255 (R56). -/
def srcT5Bad (k : Core) (w n : Nat) : Bool :=
  !vxSrcAc w && vxFmt w == 0xD && ((vregBytes k (vxVA w)).take (packedLen 0xD n)).any fun b => decide (243 ≤ b.toNat)

/-- CVT: between any two formats and W48, T5 packing included (R71, R77, R100); DST_AC writes AC rounded to nearest-even. -/
def vxCvt (c w : Nat) (s : State) : State × BitVec 8 :=
  let k := getCore c s
  let n := vxLanes w
  let vals := (srcLanes k w n).take n
  let r := if vxDstAc w then putAc c w (vxAC w) (vals.map (encVal fmtW48 0 (vxSat w))) s
    else convLanes c w (vxFmtOut w) vals s
  if srcT5Bad k w n then (raiseFlags c flT5 r.1, stCHECK) else r

/-- The exponent of the largest normal value of an element format under MX32 (R79). -/
def quantEmax (fmt : Nat) : Int :=
  match fmt with
  | 0xA => 0
  | f => match maxMag f with
    | .fin _ n d => floorLog2 n d
    | _ => 0

/-- The largest magnitude of a block, over the elements that are not NaN. -/
def amax (l : List Val) : Val := l.foldl (fun a v => if v.isNan then a else vMax a v.absVal) (.fin false 0 1)

/-- An element of a quantised block: I8 under MX32 counts units of 2^-6 (R61, R79). DESIGN CHOICE (log entry 86): a NaN
element converts as a NaN where the divisor is 0 too. -/
def quantElem (mx : Bool) (w : Nat) (x div : Val) : Nat × Nat :=
  if x.isNan || div.isNan then encVal (vxFmtOut w) (vxRnd w) (vxSat w) .nan
  else if div.isZero then (0, 0)
  else
    let q := vDiv x div
    encVal (vxFmtOut w) (vxRnd w) (vxSat w)
      (if mx && vxFmtOut w == 0xA then (vMul q (.fin false 64 1)).1 else q)

/-- One block under MX32: scale byte, elements, flags (R79). -/
def quantMx (w : Nat) (l : List Val) : Nat × List Nat × Nat :=
  if l.any fun v => v.isNan || v.isInf then (0xFF, l.map fun _ => 0, flNV)
  else
    let e : Int := match amax l with
      | .fin _ n d => if n = 0 then -127 else floorLog2 n d - quantEmax (vxFmtOut w)
      | _ => -127
    let ec : Int := if e < -127 then -127 else if 127 < e then 127 else e
    let r := collectFlags (l.map fun x => quantElem true w x (scaled false 1 ec))
    ((ec + 127).toNat, r.1, orFlags r.2 (if 127 < e then flOF else 0))

/-- The smallest UE4M4 code whose value is at or above a value, for a value at most 496. -/
def ue4Above (v : Val) : Nat :=
  ((List.range 256).find? fun x => !vLt (decVal 0xF x) v).getD 255

/-- One block under G16: scale byte, elements, flags (R79). DESIGN CHOICE (log entry 86): a NaN element of a block of scale
0x00 converts as NaN, and a NaN tensor scale gives the scale 496 even where amax is 0. -/
def quantG (w : Nat) (ts : Val) (l : List Val) : Nat × List Nat × Nat :=
  let am := amax l
  let q := vDiv am (vMul (maxMag (vxFmtOut w)) ts.absVal).1
  let sc : Nat × Nat :=
    if ts.isNan then (255, flNV)
    else if am.isZero then (0, 0)
    else if am.isInf || ts.isZero then (255, flOF)
    else if vLt (decVal 0xF 255) q then (255, flOF)
    else (ue4Above q, 0)
  let div := (vMul (decVal 0xF sc.1) ts).1
  let r := collectFlags (l.map fun x =>
    if x.isNan then quantElem false w x div
    else if sc.1 = 0 then (0, 0)
    else quantElem false w x div)
  (sc.1, r.1, orFlags r.2 sc.2)

/-- Quantisation of the lanes in blocks: elements into VD, scale bytes into VC from byte 0 (R79). DESIGN CHOICE (log entry 14):
masked-off lanes count in the largest magnitude of a block and raise their flags. -/
def vxQuant (c w blk : Nat) (f : List Val → Nat × List Nat × Nat) (s : State) : State × BitVec 8 :=
  let k := getCore c s
  let n := vxLanes w
  let vals := (srcLanes k w n).take n
  let blocks := (List.range ((n + blk - 1) / blk)).map fun j => f ((vals.drop (blk * j)).take blk)
  let k := putLanes k w (vxFmtOut w) (blocks.flatMap fun b => b.2.1)
  let k := vregPut k (vxVC w) (blocks.map fun b => BitVec.ofNat 8 b.1)
  (raiseFlags c (blocks.foldl (fun a b => orFlags a b.2.2) 0) (setCore c k s), stOK)

/-- QUANT_MX32 (R79). -/
def vxQuantMx32 (c w : Nat) (s : State) : State × BitVec 8 := vxQuant c w 32 (quantMx w) s

/-- QUANT_G16. DESIGN CHOICE (log entry 14): the tensor scale is the F32 in lane 0 of VB (R79). -/
def vxQuantG16 (c w : Nat) (s : State) : State × BitVec 8 :=
  vxQuant c w 16 (quantG w (elemVal 0 (vregBytes (getCore c s) (vxVB w)) 0)) s

/-- The result of a function of R78 on an F32: the free value of the package where it lies within the error bound, else the
exact result rounded to nearest-even. Where the manual gives no exact result (a NaN, 1/0, a logarithm of 0), it is free. -/
def vxResult (op x : Nat) : Nat :=
  let r := (Config.vxFun (BitVec.ofNat 8 op) (BitVec.ofNat 32 x)).toNat
  match vxExact op x with
  | .fin neg n d =>
    if n = 0 then (if (decVal 0 r).isZero then r else 0)
    else if withinUlps (vxUlps op) (decVal 0 r) (.fin neg n d) then r else (encVal 0 0 false (.fin neg n d)).1
  | .inf neg => (encVal 0 0 false (.inf neg)).1
  | .nan => r

/-- A function of R78 on every lane; a NaN result sets NV (R71). DESIGN CHOICE (log entry 11): RND and SAT are not used, and
no result sets OF or UF. -/
def vxFunc (c w : Nat) (s : State) : State × BitVec 8 :=
  let k := getCore c s
  let a := vregBytes k (vxVA w)
  let res := (List.range (vxLanes w)).map fun i =>
    let r := vxResult (vxOp w) (elemBits 0 a i)
    if (decVal 0 r).isNan then (fltNan ⟨8, 23, 127, true, 0⟩, flNV) else (r, 0)
  (raiseFlags c (laneFlags k w res) (setCore c (putLanes k w 0 (res.map Prod.fst)) s), stOK)

/-- One level of the pairwise tree of a sum across lanes, each addition rounded to nearest-even in its format (R78). DESIGN
CHOICE (log entry 85): an addition in F32 that overflows gives infinity whatever SAT says. -/
def sumLevel (fmt : Nat) : List Nat → List Nat × Nat
  | a :: b :: r =>
    let v := vAdd false (decVal fmt a) (decVal fmt b)
    let x := if fmt = fmtW48 then roundW48 v.1 else encArith fmt 0 false v.1
    let y := sumLevel fmt r
    (x.1 :: y.1, orFlags (orFlags v.2 x.2) y.2)
  | l => (l, 0)

/-- The pairwise tree over 64 lanes (R78). -/
def sumTree (fmt : Nat) : Nat → List Nat × Nat → List Nat × Nat
  | 0, l => l
  | n + 1, l => let r := sumLevel fmt l.1; sumTree fmt n (r.1, orFlags l.2 r.2)

/-- Writes one value, converted to FMT_OUT, into lane 0 of VD (R100). DESIGN CHOICE (log entry 14): a lane mask changes
nothing of LSUM and LMAX. -/
def putLane0 (c w fl : Nat) (v : Val) (s : State) : State × BitVec 8 :=
  let r := encVal (vxFmtOut w) (vxRnd w) (vxSat w) v
  let k := getCore c s
  (raiseFlags c (orFlags fl r.2) (setCore c (vregPut k (vxVD w) (packElems (vxFmtOut w) [r.1])) s), stOK)

/-- The bits of the 64 lanes that a reduction takes, in F32 or W48. -/
def redLanes (k : Core) (w : Nat) : List Nat :=
  if vxSrcAc w then acLanes k (vxACS w) else (List.range 64).map (elemBits 0 (vregBytes k (vxVA w)))

/-- LSUM (R78, R100). -/
def vxLsum (c w : Nat) (s : State) : State × BitVec 8 :=
  let fmt := if vxSrcAc w then fmtW48 else 0
  let r := sumTree fmt 6 (redLanes (getCore c s) w, 0)
  putLane0 c w r.2 (decVal fmt (r.1.getD 0 0)) s

/-- LMAX (R100). -/
def vxLmax (c w : Nat) (s : State) : State × BitVec 8 :=
  let fmt := if vxSrcAc w then fmtW48 else 0
  let l := (redLanes (getCore c s) w).map (decVal fmt)
  putLane0 c w 0 (l.tail.foldl vMax (l.headD .nan)) s

/-- PERM: lane i takes the lane of VA that lane i of VB names (R100). DESIGN CHOICE (log entry 13): an index is the raw bits of
a lane of VB in the width of FMT, taken modulo the number of lanes. A T5 byte from 243 to 255 in VA or VB is checked (R56). -/
def vxPerm (c w : Nat) (s : State) : State × BitVec 8 :=
  let k := getCore c s
  let n := vxLanes w
  let a := vregBytes k (vxVA w)
  let b := vregBytes k (vxVB w)
  let res := (List.range n).map fun i => elemBits (vxFmt w) a (elemBits (vxFmt w) b i % n)
  let bad := vxFmt w == 0xD && (a ++ b).any fun x => decide (243 ≤ x.toNat)
  let t := setCore c (putLanes k w (vxFmt w) res) s
  if bad then (raiseFlags c flT5 t, stCHECK) else (t, stOK)

/-! Memory form (R100). -/

/-- LOAD of one vector register. -/
def vxLoadOp (c w : Nat) (s : State) : State × BitVec 8 :=
  let r := readRanges [(vxAddr w, 256)] s
  let l := memBytes (vxAddr w) 256 s
  (modCore c (fun k => vregPut k (vxVD w) l) r.1, failIf r.2 stCHECK)

/-- STORE of one vector register. -/
def vxStoreOp (c w : Nat) (s : State) : State × BitVec 8 :=
  engWrite c (vxAddr w) (vregBytes (getCore c s) (vxVD w)) s

/-- The bytes of one element of a gather or scatter: 1, 2 or 4, which the slot does not name, as a free value of the slot
word without its post (R52, R77, R100; log entry 12). -/
def gatherBytes (w : Nat) : Nat := 2 ^ (Config.gatherElem (setBits w 55 51 0)).val

/-- The local offset of element i of a gather or scatter: the address plus the 32-bit byte index i of VA (R129). -/
def gatherAddr (k : Core) (w i : Nat) : Nat := vxAddr w + le32 (vregBytes k (vxVA w)) (4 * i)

/-- An element of n bytes lies in the own core store (R77). -/
def gatherOk (c : Nat) (k : Core) (w n i : Nat) : Bool := within (gatherAddr k w i) n (coreStore c) coreStoreSize

/-- GATHER of 16 elements from the own core store (R129); an element outside it reads free bytes. -/
def vxGather (c w : Nat) (s : State) : State × BitVec 8 :=
  let k := getCore c s
  let n := gatherBytes w
  let idx := List.range 16
  let r := readRanges ((idx.filter (gatherOk c k w n)).map fun i => (gatherAddr k w i, n)) s
  let l := idx.flatMap fun i =>
    if gatherOk c k w n i then memBytes (gatherAddr k w i) n s
    else bytesAt (Config.freeBytes (s.freeCtr + i) n) 0 n
  ({ modCore c (fun k => vregPut k (vxVD w) l) r.1 with freeCtr := s.freeCtr + 16 }, failIf r.2 stCHECK)

/-- SCATTER of 16 elements to the own core store: the higher index wins on the same byte (R129); an element outside it
is not written. -/
def vxScatter (c w : Nat) (s : State) : State × BitVec 8 :=
  let k := getCore c s
  let n := gatherBytes w
  let l := vregBytes k (vxVD w)
  engWrites c (((List.range 16).filter (gatherOk c k w n)).map fun i => (gatherAddr k w i, bytesAt l (i * n) n)) (bumpFree s)

/-- The 64 W48 values of 384 bytes (R65). -/
def w48List (l : List Byte) : List Nat := (List.range 64).map fun i => leNat (bytesAt l (6 * i) 6)

/-- ACLOAD: AC = 64 W48 values from memory (R100). -/
def vxAcload (c w : Nat) (s : State) : State × BitVec 8 :=
  let r := readRanges [(vxAddr w, 384)] s
  (modCore c (fun k => acPut k (vxMemAC w) (w48List (memBytes (vxAddr w) 384 s))) r.1, failIf r.2 stCHECK)

/-- ACADD: AC += 64 W48 values from memory, each lane rounded once (R100). -/
def vxAcadd (c w : Nat) (s : State) : State × BitVec 8 :=
  let r := readRanges [(vxAddr w, 384)] s
  let l := w48List (memBytes (vxAddr w) 384 s)
  let old := acLanes (getCore c s) (vxMemAC w)
  let res := l.zipIdx.map fun v => vxAcc.accAddV (old.getD v.2 0) (decVal fmtW48 v.1)
  (raiseFlags c (collectFlags res).2 (modCore c (fun k => acPut k (vxMemAC w) (res.map Prod.fst)) r.1),
    failIf r.2 stCHECK)

/-- ACSTORE: memory = AC as W48 (R100). -/
def vxAcstore (c w : Nat) (s : State) : State × BitVec 8 :=
  engWrite c (vxAddr w) ((acLanes (getCore c s) (vxMemAC w)).flatMap (leBytes 6)) s

/-- The VX instruction at the head of the queue of core c, where its operation code is op. -/
def vxRow (c : Fin 256) (op : Nat) (f : Nat → Nat → State → State × BitVec 8) (s : State) :
    Host.Outcome State Fault Refusal :=
  .next (runHead c.val 2 (fun i => vxOp i.slot.toNat == op) (fun i => f c.val i.slot.toNat) s)

def execAdd (c : Fin 256) (s : State) : Host.Outcome State Fault Refusal := vxRow c 0x01 vxAdd s
def execSub (c : Fin 256) (s : State) : Host.Outcome State Fault Refusal := vxRow c 0x02 vxSub s
def execMul (c : Fin 256) (s : State) : Host.Outcome State Fault Refusal := vxRow c 0x03 vxMul s
def execFma (c : Fin 256) (s : State) : Host.Outcome State Fault Refusal := vxRow c 0x04 vxFma s
def execMin (c : Fin 256) (s : State) : Host.Outcome State Fault Refusal := vxRow c 0x05 vxMin s
def execMax (c : Fin 256) (s : State) : Host.Outcome State Fault Refusal := vxRow c 0x06 vxMax s
def execCmpeq (c : Fin 256) (s : State) : Host.Outcome State Fault Refusal :=
  vxRow c 0x07 (fun c w => vxCompare c w vEq) s
def execCmplt (c : Fin 256) (s : State) : Host.Outcome State Fault Refusal :=
  vxRow c 0x08 (fun c w => vxCompare c w vLt) s
def execCmple (c : Fin 256) (s : State) : Host.Outcome State Fault Refusal :=
  vxRow c 0x09 (fun c w => vxCompare c w fun a b => vLt a b || vEq a b) s
def execSel (c : Fin 256) (s : State) : Host.Outcome State Fault Refusal := vxRow c 0x0A vxSel s
def execAcc (c : Fin 256) (s : State) : Host.Outcome State Fault Refusal := vxRow c 0x10 vxAcc s
def execAccRead (c : Fin 256) (s : State) : Host.Outcome State Fault Refusal := vxRow c 0x11 vxAccRead s
def execCvt (c : Fin 256) (s : State) : Host.Outcome State Fault Refusal := vxRow c 0x18 vxCvt s
def execQuantMx32 (c : Fin 256) (s : State) : Host.Outcome State Fault Refusal := vxRow c 0x19 vxQuantMx32 s
def execQuantG16 (c : Fin 256) (s : State) : Host.Outcome State Fault Refusal := vxRow c 0x1A vxQuantG16 s
def execRcp (c : Fin 256) (s : State) : Host.Outcome State Fault Refusal := vxRow c 0x20 vxFunc s
def execRsqrt (c : Fin 256) (s : State) : Host.Outcome State Fault Refusal := vxRow c 0x21 vxFunc s
def execExp2 (c : Fin 256) (s : State) : Host.Outcome State Fault Refusal := vxRow c 0x22 vxFunc s
def execLog2 (c : Fin 256) (s : State) : Host.Outcome State Fault Refusal := vxRow c 0x23 vxFunc s
def execTanh (c : Fin 256) (s : State) : Host.Outcome State Fault Refusal := vxRow c 0x24 vxFunc s
def execSigm (c : Fin 256) (s : State) : Host.Outcome State Fault Refusal := vxRow c 0x25 vxFunc s
def execLsum (c : Fin 256) (s : State) : Host.Outcome State Fault Refusal := vxRow c 0x28 vxLsum s
def execLmax (c : Fin 256) (s : State) : Host.Outcome State Fault Refusal := vxRow c 0x29 vxLmax s
def execPerm (c : Fin 256) (s : State) : Host.Outcome State Fault Refusal := vxRow c 0x30 vxPerm s
def execVxLoad (c : Fin 256) (s : State) : Host.Outcome State Fault Refusal := vxRow c 0x38 vxLoadOp s
def execStore (c : Fin 256) (s : State) : Host.Outcome State Fault Refusal := vxRow c 0x39 vxStoreOp s
def execGather (c : Fin 256) (s : State) : Host.Outcome State Fault Refusal := vxRow c 0x3A vxGather s
def execScatter (c : Fin 256) (s : State) : Host.Outcome State Fault Refusal := vxRow c 0x3B vxScatter s
def execAcload (c : Fin 256) (s : State) : Host.Outcome State Fault Refusal := vxRow c 0x3C vxAcload s
def execAcadd (c : Fin 256) (s : State) : Host.Outcome State Fault Refusal := vxRow c 0x3D vxAcadd s
def execAcstore (c : Fin 256) (s : State) : Host.Outcome State Fault Refusal := vxRow c 0x3E vxAcstore s

end Sys2Proof.Machine
end

