-- ==== Sys2Proof/Machine/Chambers.lean ====
section
/-! DEFINITION. Chambers: ACTIVATE and RETIRE (R262, R263), requests (R266), steps (R267 to R272, R278 to R282, R286),
messages (R274 to R277), stalls (R283 to R285). -/

namespace Sys2Proof.Machine

/-! Events and registers of the COL block (R292). -/

/-- A COL event of a chamber raises vector 4 of its partition's function (R439). -/
def colEvt (e : Evt) (p : Nat) (s : State) : State := raiseMsix (p + 1) 4 (evt colB e s)

/-- COL_ACTIVE follows the chamber table. -/
def noteActive (s : State) : State :=
  let l := liveChs s
  fset colB fCOL_ACTIVE_CHAMBERS l.length (fset colB fCOL_ACTIVE_BROAD (l.filter fun e => dKind e.2.desc == 2).length s)

/-! ACTIVATE. -/

/-- Check 1 of R262. -/
def actFormat (d : List Byte) (p : Nat) (s : State) : Bool :=
  !(dKind d == 1 || dKind d == 2) || !(bitsOf (le32 d 0) 27 24 == 1 || dRing d) || (dKind d == 1 && dBslot d != 0)
    || bitsOf (le32 d 0) 20 19 != 0 || dCgen d == 0 || bitsOf (le32 d 4) 31 4 != 0 || (axes d).isEmpty
    || (List.range 4).any (fun a => if dAxis d a then dSpan d a == 0 else dSpan d a != 0 || dOrg d a != 0)
    || bitsOf (le32 d 0x10) 31 20 != 0 || bitsOf (le32 d 0x14) 31 20 != 0 || bitsOf (le32 d 0x18) 31 16 != 0
    || bitsOf (le32 d 0x18) 7 2 != 0 || !zeroBytes d 0x28 24
    || (dRing d && decide (1 < (spanned s.cab.cur p d).length)) || dVl d == 0 || !vlEnabled s.cab.cur (dVl d)

/-- Check 2 of R262. -/
def actRange (d : List Byte) (p : Nat) (s : State) : Bool :=
  let broad := (liveChs s).filter fun e => dKind e.2.desc == 2
  (axes d).any (fun a => decide (axExt s.cab.cur p a < dOrg d a + dSpan d a))
    || decide (memberCount d < 2 ∨ 1024 < memberCount d)
    || dCap d % 256 != 0 || decide (dCap d < 256 ∨ 0x100000 < dCap d) || dLandOff d % 256 != 0
    || decide (8 < dHome0 d % 8 + dHomes d) || decide (dLandLen d < landNeed s.cab.cur p d)
    || decide (4096 ≤ (liveChs s).length)
    || (dKind d == 2 && (decide (8 ≤ broad.length) || broad.any fun e => dBslot e.2.desc == dBslot d))

/-- A queue of a partition has a kind in its descriptor. -/
def queueIs (p qid kind : Nat) (s : State) : Bool :=
  partOfQid s.cab.cur qid == some p && bitsOf (le32 (descBytes qid s) 0) 31 28 == kind

/-- Check 4 of R262. -/
def actDenied (d : List Byte) (id p : Nat) (s : State) : Bool :=
  partOfCh s.cab.cur id != some p || (getCh id s).st != 0
    || (axes d).any (fun a => decide ((ownCoords p s).getD a 0 < dOrg d a ∨ dOrg d a + dSpan d a ≤ (ownCoords p s).getD a 0))
    || (homesOf d).any (fun c => partOfCore s.cab.cur c != some p)
    || !queueIs p (le32 d 0x10) 3 s || !queueIs p (le32 d 0x14) 2 s

/-- The local offset of the descriptor that COL_CARG names. -/
def cargAddr (s : State) : Nat := fget colB fCOL_CARG_LO_SRC_LO s + 2 ^ 32 * fget colB fCOL_CARG_HI_SRC_HI s

/-- The checks of ACTIVATE, in order (R262); the descriptor must lie in memory that its partition reaches (R41). -/
def actStatus (d : List Byte) (id p : Nat) (s : State) : BitVec 8 :=
  if cargAddr s % 64 ≠ 0 then stFORMAT
  else firstFail [rangeStatus (.part p) (cargAddr s) 64 s, failIf (actFormat d p s) stFORMAT,
    failIf (actRange d p s) stLENGTH, failIf (decide (coreStoreSize < dLandOff d + dLandLen d)) stWINDOW,
    failIf (actDenied d id p s) stDENIED, failIf ((homesOf d).any fun c => !cluOk (c / 8) s) stFENCED]

/-- Ends a command of COL_CCTL (R292). -/
def cctlEnd (cmd id : Nat) (st : BitVec 8) (s : State) : State :=
  let s := { s with col := { s.col with wait := none } }
  fset colB fCOL_CCTL_BUSY 0 (fset colB fCOL_RESULT_CMD cmd (fset colB fCOL_RESULT_STATUS st.toNat
    (fset colB fCOL_RESULT_ID id s)))

/-- ACTIVATE after its wait (R262). The descriptor is read with the effects of every read (R131, R138, R145), where its range
may be read; one in an uncorrectable unit ends the command with CHECK_MISMATCH (log entry 17). -/
def activateNow (id p : Nat) (s : State) : State :=
  let d := memBytes (cargAddr s) 64 s
  let open' : Bool := cargAddr s % 64 == 0 && rangeStatus (.part p) (cargAddr s) 64 s == stOK
  let got := if open' then readAll (cargAddr s) 64 s else (s, false)
  let st := if got.2 then stCHECK else actStatus d id p s
  let s := got.1
  let s := if st = stOK then
      noteActive (setCh id { Chamber.off with
        st := 1, desc := d, part := p, rank := radix d (ownCoords p s) (axes d), inactiveAt := (getCh id s).inactiveAt } s)
    else s
  cctlEnd 1 id st s

/-- A message of a chamber still waits for its ACK or NAK (R263). -/
def chWaits (id : Nat) (s : State) : Bool :=
  s.fab.remote.any fun r => match r.kind with
    | .chamber i g _ _ => i == id && g.toNat == dCgen (getCh id s).desc
    | _ => false

/-- The entry becomes INACTIVE (R263, R285). -/
def chInactive (id : Nat) (s : State) : State :=
  noteActive (modCh id (fun x => { x with st := 0, req := none, rx := [], spent := [], inactiveAt := some s.clk.now }) s)

/-! Messages (R274, R276, R277). -/

/-- KSPEC of a chamber packet. -/
def chSpec (id cgen rank step : Nat) (isLast : Bool) (cseq : Nat) : Nat :=
  id * 2 ^ 52 + cgen * 2 ^ 36 + rank * 2 ^ 26 + step * 2 ^ 15 + isLast.toNat * 2 ^ 14 + cseq % 256

/-- The packets of a chunk: an empty chunk is one packet. -/
def chPackets (l : List Byte) : List (Nat × List Byte) := if l.isEmpty then [(0, [])] else chunksOf l

/-- Sends a chunk to a peer from home core i of a chamber: its status, and the state with the packets queued (R239,
R274, R279). -/
def chSend (id i peer step : Nat) (cseq : BitVec 16) (l : List Byte) (s : State) : BitVec 8 × State :=
  let x := getCh id s
  let core := homeOf x.desc i
  match eidOfPkg x.part (indexOf s.cab.cur x.part (memberCoords x.desc (ownCoords x.part s) peer)) s with
  | none => (stDENIED, s)
  | some e =>
    let st := lookupStatus x.part core e (core / 64) s
    if st ≠ stOK then (st, s)
    else
      let w := entryOf e s
      let rnd := spreadRound core w s
      let pk := (chPackets l).zipIdx
      let tag := mkTag core (nextSeqno core s)
      let crc := (crc32c l).toNat
      let t := pk.foldl (fun s c =>
        sendPkt (rnd.getD (c.2 % rnd.length) 0) (dVl x.desc) 4 e w c.1.1 tag crc
          (chSpec id (dCgen x.desc) x.rank step (c.2 + 1 == pk.length) cseq.toNat) c.1.2 s) (bumpSeqno core s)
      (stOK, outstanding tag (.chamber id (BitVec.ofNat 16 (dCgen x.desc)) step peer) e w pk.length 0 t)

/-- A STALL notice to every other member (R276). -/
def stallNotices (id : Nat) (s : State) : State :=
  forAll (peersOf (getCh id s)) (fun r s => (chSend id 0 r 0x7FE (getCh id s).cseq [] s).2) s

/-- DETAIL of a request that failed: the step at which it ended and the rank that raised it (R284). -/
def failDetail (step rank : Nat) : Word := BitVec.ofNat 32 (step % 2048 * 2 ^ 21 + rank % 1024)

/-- The step that runs or ran last (COL_CPOS). -/
def chStep (x : Chamber) : Nat := match x.req with
  | none => x.last
  | some r => r.step

/-- The running request ends with a status; its completion is written by COMPLETION_WRITE (R115). -/
def endReq (id : Nat) (st : BitVec 8) (detail : Word) (s : State) : State :=
  let x := getCh id s
  match x.req with
  | none => s
  | some r => modCh id (fun y => { y with req := none, last := r.step }) (endCmd (chComm x) r.idx st detail s)

/-- A chamber stops (R283, R285): the running request ends with the status, the notice is sent, the chamber and its queue
move to STALLED. -/
def chStall (id : Nat) (st : BitVec 8) (detail : Word) (raiser : Nat) (notice : Bool) (s : State) : State :=
  let x := getCh id s
  let s := endReq id st detail s
  let s := if notice then stallNotices id s else s
  let s := colEvt eCOL_EVENT_STALL x.part (modCh id (fun y => { y with st := 4 }) s)
  let s := fset colB fCOL_LAST_STALL_STATUS st.toNat (fset colB fCOL_LAST_STALL_ID id
    (fset colB fCOL_LAST_STALL_RANK raiser s))
  if (getQueue (chComm x) s).st = .active ∨ (getQueue (chComm x) s).st = .draining then
    stallQueueBy (chComm x) raiser s
  else s

/-- A chamber stops by a cause of this member. -/
def chFail (id : Nat) (st : BitVec 8) (s : State) : State :=
  let x := getCh id s
  chStall id st (failDetail (chStep x) x.rank) x.rank true s

/-- The running request of a RETIRING chamber stops at a step boundary: it completes with STALE_GENERATION, and the notice is
sent (R263). -/
def retireReq (id : Nat) (s : State) : State :=
  let x := getCh id s
  stallNotices id (endReq id stSTALE (failDetail (chStep x) x.rank) s)

/-- Step 1 of R266. -/
def rqFormat (x : Chamber) (b : List Byte) : Bool :=
  let op := rqOp b
  let red : Bool := op == 1 || op == 2
  decide (op < 1 ∨ 6 < op) || decide (2 < rqRop b) || (!red && (rqRop b != 0 || rqRnd b != 0 || rqSat b))
    || decide (2 < rqIn b ∨ 2 < rqOut b) || ((op == 3 || op == 5) && rqIn b != rqOut b)
    || ((op == 4 || op == 6) && (rqIn b != 0 || rqOut b != 0 || rqCount b != 0))
    || (decide (4 ≤ op) && dRing x.desc) || (rqTimed b && dKind x.desc == 2) || (!rqTimed b && rqT0 b != 0)
    || bitsOf (le32 b 0) 7 0 != 0 || bitsOf (le32 b 4) 31 26 != 0 || (op != 5 && rqRoot b != 0)
    || bitsOf (le32 b 0x10) 31 24 != 0 || bitsOf (le32 b 0x18) 31 16 != 0 || !zeroBytes b 0x34 12

/-- T lies further than 2^40 from P on either side, as ARM refuses it (R119). -/
def paceTooFar (t p : BitVec 48) : Bool := decide (2 ^ 40 < (t - p).toNat ∧ (t - p).toNat < 2 ^ 48 - 2 ^ 40)

/-- Step 2 of R266. -/
def rqRange (x : Chamber) (b : List Byte) (s : State) : Bool :=
  let own := ownCoords x.part s
  (rqOp b != 4 && (List.range (stepCount s.cab.cur x b)).any fun i =>
      let pl := planOf s.cab.cur x own b i
      (pl.sends ++ pl.recvs).any fun y => decide (dCap x.desc < wireLen pl.fmt pl.mx (y.2.2 - y.2.1)))
    || decide (rqSlot b < 64) || decide (memberCount x.desc ≤ rqRoot b) || (rqTimed b && paceTooFar (rqT0 b) s.clk.p)

/-- The ranges of a request within a home core's store (R265, R286). -/
def rqSpans (x : Chamber) (b : List Byte) (s : State) : List (Nat × Nat) :=
  let n := memberCount x.desc
  let cnt := rqCount b
  let src := (rqSrc b, packedLen (rqIn b) cnt)
  match rqOp b with
  | 1 => [src, (rqDst b, packedLen (rqOut b) cnt)]
  | 2 =>
    let o := (planOf s.cab.cur x (ownCoords x.part s) b (stepCount s.cab.cur x b - 1)).own
    [src, (rqDst b, packedLen (rqOut b) (o.2 - o.1))]
  | 3 => [src, (rqDst b, packedLen (rqOut b) (n * cnt))]
  | 4 => [(rqSrc b, n * dCap x.desc), (rqDst b, n * dCap x.desc), (rqSizes b, 8 * n), (rqDrops b, 128 + 4 * n)]
  | 5 => [if x.rank = rqRoot b then src else (0, 0), (rqDst b, packedLen (rqOut b) cnt)]
  | _ => []

/-- The checks of a request at its fetch, in order (R266). -/
def rqStatus (x : Chamber) (b : List Byte) (s : State) : BitVec 8 :=
  if rqFormat x b then stFORMAT
  else firstFail ([failIf (rqRange x b s) stLENGTH,
    failIf ((rqSpans x b s).any fun y => decide (y.2 ≠ 0 ∧ coreStoreSize < y.1 + y.2)) stWINDOW,
    if le64 b 0x20 = 0 then stOK else mappedStatus (le64 b 0x20) 16]
    ++ ((homesOf x.desc).flatMap fun c => (rqSpans x b s).map fun y =>
      if y.2 = 0 then stOK else rangeStatus (.part x.part) (coreStore c + y.1) y.2 s)
    ++ [if le64 b 0x20 = 0 then stOK else rangeStatus (.part x.part) (le64 b 0x20) 16 s])

/-- The signed distance from P to T. -/
def paceAhead (t p : BitVec 48) : Int := (t - p).toInt

/-! Elements on the wire (R271, R272). -/

/-- A W48 value. -/
def w48Val (v : BitVec 48) : Val := decVal fmtW48 v.toNat
def toW48 (v : Val) : BitVec 48 := BitVec.ofNat 48 (roundW48 v).1

/-- The VX word under which a chunk is quantised: the format as FMT_OUT, RNE, SAT = 1. -/
def wireWord (fmt : Nat) : Nat := fmt * 2 ^ 23 + 2 ^ 20

/-- The bytes of a chunk of values in a level format: RNE, SAT = 1; under MX32 elements and then scale bytes. -/
def toWire (fmt : Nat) (mx : Bool) (l : List Val) : List Byte :=
  if mx then
    let bl := (List.range ((l.length + 31) / 32)).map fun j => quantMx (wireWord fmt) ((l.drop (32 * j)).take 32)
    packElems fmt (bl.flatMap fun b => b.2.1) ++ bl.map fun b => BitVec.ofNat 8 b.1
  else packElems fmt (l.map fun v => (encVal fmt 0 true v).1)

/-- The flags of those conversions (R71, R79). -/
def wireFlags (fmt : Nat) (mx : Bool) (l : List Val) : Nat :=
  if mx then (List.range ((l.length + 31) / 32)).foldl (fun a j =>
    orFlags a (quantMx (wireWord fmt) ((l.drop (32 * j)).take 32)).2.2) 0
  else (collectFlags (l.map (encVal fmt 0 true))).2

/-- The flag of a chunk that arrives with a NaN scale (R61). -/
def scaleFlags (fmt : Nat) (mx : Bool) (l : List Byte) (n : Nat) : Nat :=
  if mx && (List.range ((n + 31) / 32)).any fun j => (l.getD (packedLen fmt n + j) 0).toNat == 0xFF then flSN else 0

/-- The values of a chunk of n elements as it arrives. -/
def fromWire (fmt : Nat) (mx : Bool) (l : List Byte) (n : Nat) : List Val :=
  (List.range n).map fun i =>
    if mx then (vMul (elemVal fmt l i) (decVal 0xE (l.getD (packedLen fmt n + i / 32) 0).toNat)).1 else elemVal fmt l i

/-- Combines two contributions (R271), with the flags: SUM rounds once to W48; MAX and MIN are exact. -/
def combine (rop : Nat) (a : Val × Nat) (v : Val) : Val × Nat :=
  match rop with
  | 0 =>
    let x := vAdd false a.1 v
    let r := roundW48 x.1
    (w48Val (BitVec.ofNat 48 r.1), orFlags a.2 (orFlags x.2 r.2))
  | 1 => (vMax a.1 v, a.2)
  | _ => (vMin a.1 v, a.2)

/-- One element of a reduction under DIRECT: SUM starts from +0, MAX and MIN from the first contribution. -/
def reduceElem (rop : Nat) (l : List Val) : Val × Nat :=
  match l with
  | [] => (.fin false 0 1, 0)
  | v :: r => if rop = 0 then l.foldl (combine rop) (.fin false 0 1, 0) else r.foldl (combine rop) (v, 0)

/-- The flags of a list of elements. -/
def elemFlags (l : List (Val × Nat)) : Nat := l.foldl (fun a v => orFlags a v.2) 0

/-! Steps. -/

/-- Reads bytes of the store of a home core as a step's SX and VX read them, with the ECC effects. -/
def homeRead (core off n : Nat) (s : State) : List Byte × State :=
  (memBytes (coreStore core + off) n s, (readAll (coreStore core + off) n s).1)

/-- Ranges of a home core's store hold an uncorrectable unit (R131). -/
def homeBad (core : Nat) (l : List (Nat × Nat)) (s : State) : Bool :=
  l.any fun y => (marksIn (coreStore core + y.1) y.2 s).any fun c => badMark c.2

/-- A copy within the store of a home core by its SX: the bytes before an uncorrectable unit are written (R131); whether all
of them were. -/
def homeCopy (core src dst n : Nat) (s : State) : Bool × State :=
  let r := readUpTo (coreStore core + src) n s
  (r.2 == n, if r.2 = 0 then r.1 else memWrite (coreStore core + dst) (memBytes (coreStore core + src) r.2 r.1) r.1)

/-- The W48 values that home core i holds, over the range of a step. -/
def valsOf (r : ChReq) (i : Nat) : List (BitVec 48) := r.vals.getD i []

def valsIn (r : ChReq) (i base lo hi : Nat) : List Val := (((valsOf r i).drop (lo - base)).take (hi - lo)).map w48Val

/-- The format in which DST and its contents are laid out. -/
def dstFmt (b : List Byte) : Nat := rqOut b

/-- The offset in DST at which a range starts (R265). -/
def dstAt (b : List Byte) (lo : Nat) : Nat := rqDst b + packedLen (dstFmt b) lo

/-- The offset of the result of the last reduce step: REDUCE_SCATTER's at DST (R265). -/
def resultAt (b : List Byte) (pl : ChPlan) : Nat := if rqOp b = 2 then rqDst b else dstAt b pl.own.1

/-- The bytes that entry j of the sizes array lets this member send (R286). -/
def segLen (x : Chamber) (core : Nat) (b : List Byte) (j : Nat) (s : State) : Nat :=
  Nat.min (memW (coreStore core + rqSizes b + 4 * j) s).toNat (dCap x.desc)

/-- The ranges that SX of home core i reads for the chunk to a peer. -/
def chunkReads (id i : Nat) (r : ChReq) (pl : ChPlan) (y : Nat × Nat × Nat) (s : State) : List (Nat × Nat) :=
  let x := getCh id s
  match pl.op with
  | .gather => [(dstAt r.bytes y.2.1, packedLen pl.fmt y.2.2 - packedLen pl.fmt y.2.1)]
  | .segments => [(rqSrc r.bytes + y.2.1, segLen x (homeOf x.desc i) r.bytes y.1 s)]
  | _ => []

/-- The bytes of the chunk that home core i sends to a peer in a step. -/
def chunkBytes (id i : Nat) (r : ChReq) (pl : ChPlan) (y : Nat × Nat × Nat) (s : State) : List Byte × State :=
  let x := getCh id s
  let core := homeOf x.desc i
  match pl.op with
  | .reduce =>
    let l := valsIn r i pl.base y.2.1 y.2.2
    (toWire pl.fmt pl.mx l, raiseFlags core (wireFlags pl.fmt pl.mx l) s)
  | .ringReduce => ((((valsOf r i).drop (y.2.1 - pl.base)).take (y.2.2 - y.2.1)).flatMap fun v => leBytes 6 v.toNat, s)
  | .gather => homeRead core (dstAt r.bytes y.2.1) (packedLen pl.fmt y.2.2 - packedLen pl.fmt y.2.1) s
  | .segments => homeRead core (rqSrc r.bytes + y.2.1) (segLen x core r.bytes y.1 s) s

/-- The values of elements lo to hi - 1 of SRC. -/
def srcVals (core : Nat) (b : List Byte) (lo hi : Nat) (s : State) : List (BitVec 48) × State :=
  let f := rqIn b
  let h := homeRead core (rqSrc b + packedLen f lo) (packedLen f hi - packedLen f lo) s
  ((List.range (hi - lo)).map fun i => toW48 (elemVal f h.1 i), h.2)

/-- The elements at hand of a home core when step 0 of a reduction starts (R267, R268). -/
def firstRange (r : ChReq) (pl : ChPlan) : Nat × Nat :=
  if pl.op = .ringReduce then ((pl.sends.headD (0, 0, 0)).2) else (0, rqCount r.bytes)

/-- The ranges of its own store to which home core i writes in step 0 of an operation without a reduction (R267, R286). -/
def ownRanges (x : Chamber) (i : Nat) (r : ChReq) (pl : ChPlan) (s : State) : List (Nat × Nat) :=
  let b := r.bytes
  let n := memberCount x.desc
  match rqOp b with
  | 3 => [(dstAt b pl.own.1, packedLen (rqIn b) pl.own.2 - packedLen (rqIn b) pl.own.1)]
  | 4 => [(rqDrops b, 128 + 4 * n), (rqDst b + pl.own.1, segLen x (homeOf x.desc i) b x.rank s),
      (rqSizes b + 4 * n + 4 * x.rank, 4)]
  | 5 => [(dstAt b pl.own.1, packedLen (rqIn b) pl.own.2 - packedLen (rqIn b) pl.own.1)]
  | _ => []

/-- A write of a home core into its own store meets a sink window of another peer (R155). -/
def homeRefused (x : Chamber) (f : Nat → List (Nat × Nat)) (s : State) : Bool :=
  (List.range (dHomes x.desc)).any fun i => (f i).any fun y =>
    y.2 != 0 && ownWriteRefused (homeOf x.desc i) (coreStore (homeOf x.desc i) + y.1) y.2 s

/-- What step 0 of an operation without a reduction does within this member on home core i: its own data into DST, and the
drop record of ALL_TO_ALL; the answer is the mask of destinations with drops, and whether every byte was read (R267, R286,
R131). -/
def ownPart (x : Chamber) (i : Nat) (r : ChReq) (pl : ChPlan) (s : State) : Nat × Bool × State :=
  let b := r.bytes
  let core := homeOf x.desc i
  let n := memberCount x.desc
  if rqOp b = 3 ∨ rqOp b = 5 then
    (0, homeCopy core (rqSrc b) (dstAt b pl.own.1) (packedLen (rqIn b) pl.own.2 - packedLen (rqIn b) pl.own.1) s)
  else if rqOp b = 4 then
    let sizes := (List.range n).map fun j => (memW (coreStore core + rqSizes b + 4 * j) s).toNat
    let whole : Bool := !homeBad core [(rqSizes b, 4 * n)] s
    let s := (readAll (coreStore core + rqSizes b) (4 * n) s).1
    let drops := sizes.map fun v => v - dCap x.desc
    let mask := drops.zipIdx.foldl (fun m d => if d.1 = 0 then m else m + 2 ^ d.2) 0
    let s := memWrite (coreStore core + rqDrops b) (leBytes 128 mask ++ drops.flatMap (leBytes 4)) s
    let len := segLen x core b x.rank s
    let h := homeCopy core (rqSrc b + pl.own.1) (rqDst b + pl.own.1) len s
    (mask, whole && h.1, memWrite (coreStore core + rqSizes b + 4 * n + 4 * x.rank) (leBytes 4 len) h.2)
  else (0, true, s)

/-- SX of a home core has no instruction ahead of the chamber's sends (R270). -/
def sxFree (core : Nat) (s : State) : Bool := ((getCore core s).q.getD 3 []).isEmpty

/-- A message of the running step may leave now: SX of its home core is free, with a credit for the on-die network (R31), the
part of the step within that core has been done, and the landing credit of the peer is there or already spent (R270, R277).
The entry of the own rank stands for the part within a home core, which needs its SX alone. -/
def mayLeave (x : Chamber) (q : ChReq) (m : Nat × Nat) (s : State) : Bool :=
  let core := homeOf x.desc m.1
  sxFree core s && (m.2 == x.rank || (hoCan (1024 + core) s && !q.unsent.contains (m.1, x.rank)
    && (q.spent.contains m.2 || credited x m.2)))

/-- The part of step 0 within home core i (R267): the values at hand of a reduction, or its own data into DST. An uncorrectable
unit ends the request with CHECK_MISMATCH (R131, log entry 98). -/
def ownStep (id i : Nat) (r : ChReq) (pl : ChPlan) (s : State) : State :=
  let x := getCh id s
  let core := homeOf x.desc i
  if isReduce pl.op then
    let rg := firstRange r pl
    let src := (rqSrc r.bytes + packedLen (rqIn r.bytes) rg.1, packedLen (rqIn r.bytes) rg.2 - packedLen (rqIn r.bytes) rg.1)
    let v := srcVals core r.bytes rg.1 rg.2 s
    if homeBad core [src] s then chFail id stCHECK v.2
    else modCh id (fun z => { z with req := z.req.map fun w => { w with
      unsent := w.unsent.erase (i, x.rank), vals := modAt i (fun _ => v.1) w.vals } }) v.2
  else
    let o := ownPart x i r pl s
    if !o.2.1 then chFail id stCHECK o.2.2
    else modCh id (fun z => { z with req := z.req.map fun w => { w with
      unsent := w.unsent.erase (i, x.rank), drops := w.drops ||| o.1 } }) o.2.2

/-- A message of the running step leaves, by its plan entry. A lookup that fails stops the chamber (R285), as an uncorrectable
unit of the chunk does (R131, log entry 98). -/
def sendMsg (id : Nat) (q : ChReq) (pl : ChPlan) (m : Nat × Nat) (y : Nat × Nat × Nat) (s : State) : State :=
  let x := getCh id s
  let c := chunkBytes id m.1 q pl y s
  if homeBad (homeOf x.desc m.1) (chunkReads id m.1 q pl y s) s then chFail id stCHECK c.2
  else
    let snd := chSend id m.1 m.2 q.step x.cseq c.1 c.2
    if snd.1 ≠ stOK then chFail id snd.1 snd.2
    else modCh id (fun z => { z with
      req := z.req.map fun w => { w with
        unsent := w.unsent.erase m, spent := if w.spent.contains m.2 then w.spent else m.2 :: w.spent },
      spent := if q.spent.contains m.2 then z.spent else (2 * m.2 + x.cseq.toNat % 2) :: z.spent }) snd.2

/-- Sends the messages of the running step that may leave; the others wait (R270, R277, R35). -/
def sendStep (id : Nat) (s : State) : State :=
  match (getCh id s).req with
  | none => s
  | some r =>
    if !r.going then s
    else
      let pl := curPlan id r r.step s
      r.unsent.foldl (fun s m =>
        let x := getCh id s
        match x.req with
        | none => s
        | some q =>
          if !mayLeave x q m s then s
          else if m.2 = x.rank then ownStep id m.1 q pl s
          else match pl.sends.find? fun y => y.1 == m.2 with
            | none => s
            | some y => sendMsg id q pl m y s) s

/-- The request changes to credited mode for its remaining steps (R278, R280). -/
def toCredited (id : Nat) (s : State) : State :=
  colEvt eCOL_EVENT_LATE (getCh id s).part (modCh id (fun x => { x with st := 3 }) s)

/-- DRIFT is entered: every TIMED chamber goes on in credited mode (R280, R285). -/
def chDrift (s : State) : State :=
  forAll ((s.col.chs.filter fun e => e.2.st == 2).map Prod.fst) toCredited s

/-- A step may start on the home cores (R270, R278, R331): for step 0 SX of at least one of them is free, the cores are admitted, DATA is in
RUN, and no other chamber's step runs on one of them; of steps that fall due together the lower chamber ID goes first. Each
core's part waits for its own engines (mayLeave, vxFree). -/
def homesFree (id : Nat) (r : ChReq) (s : State) : Bool :=
  let x := getCh id s
  let hs := homesOf x.desc
  dataPlane s == 1 && !issueStopped s && !partStopped x.part s && (r.step != 0 || hs.any (sxFree · s))
    && hs.all (fun c => !(getCore c s).inReset && s.stool.admitted.contains c)
    && (liveChs s).all fun e => e.1 == id || !((homesOf e.2.desc).any hs.contains) || (match e.2.req with
        | none => true
        | some q => !q.going && !(decide (e.1 < id) && rqTimed q.bytes && rqTimed r.bytes
            && decide (dueAt q q.step = dueAt r r.step)))

/-- An engine that a chamber uses is busy on one of its home cores: step 0 is then late (R278). -/
def homesBusy (x : Chamber) (s : State) : Bool :=
  (homesOf x.desc).any fun c => !sxFree c s || !((getCore c s).q.getD 2 []).isEmpty

/-- A step that starts now starts after its T_s, or is a step 0 whose engines are still busy (R278). -/
def startsLate (id : Nat) (r : ChReq) (s : State) : Bool :=
  !dueJust r r.step s || (r.step == 0 && homesBusy (getCh id s) s)

/-- A step starts on every home core: its own part, then its messages (R267, R278). -/
def startStep (id : Nat) (r : ChReq) (late : Bool) (s : State) : State :=
  let x := getCh id s
  let pl := curPlan id r r.step s
  if r.step = 0 && homeRefused x (fun i => ownRanges x i r pl s) s then chFail id stDENIED s
  else
  let homes := List.range (dHomes x.desc)
  let own := if r.step = 0 then homes.map fun i => (i, x.rank) else []
  let msgs := pl.sends.flatMap fun y => homes.map fun i => (i, y.1)
  let r' : ChReq := { r with
    going := true, start := s.clk.pCount, late := r.late + late.toNat, unsent := own ++ msgs
    vals := if r.step = 0 then homes.map fun _ => [] else r.vals }
  let s := forAll (homesOf x.desc) touchCore (modCh id (fun y => { y with req := some r' }) s)
  let s := if late then fadd colB fCOL_LATE_STEPS_COUNT 1 (countEvt ctrCol 0x71 1 s) else s
  sendStep id (countEvt ctrCol 0x70 1 s)

/-- CHAMBER_STEP_START (R278, R280). A step that completes in the NCLK cycle in which P reaches the next T_s keeps TIMED
mode: only from the next cycle on is the next step late. -/
def stepStartOp (id : Nat) (s : State) : State :=
  let x := getCh id s
  match x.req with
  | none => s
  | some r =>
    if isSafe s then s
    else if x.st = 2 then
      if r.going then
        (if dueNow r (r.step + 1) s ∧ !dueJust r (r.step + 1) s ∧ r.step + 1 < stepCount s.cab.cur x r.bytes then toCredited id s
         else s)
      else if !dueNow r r.step s then s
      else if homesFree id r s then
        startStep id r (startsLate id r s) (if r.step = 0 ∧ startsLate id r s then toCredited id s else s)
      else forAll (homesOf x.desc) askAdmit (toCredited id s)
    else if x.st = 3 ∧ !r.going ∧ (!rqTimed r.bytes ∨ dueNow r r.step s) then
      (if homesFree id r s then startStep id r (rqTimed r.bytes && startsLate id r s) s
       else forAll (homesOf x.desc) askAdmit s)
    else s

/-! Arrivals (R269, R275, R279). -/

/-- The landing slot of a chunk of a reduce step within a half (R261). -/
def landSlot (c : CabStruct) (x : Chamber) (own : List Nat) (step rank : Nat) : Nat :=
  if dRing x.desc then step
  else
    let ls := spanned c x.part x.desc
    let before := ((ls.take step).map fun l => groupSize c x.part x.desc l - 1).sum
    let g := (groupRanks c x.part x.desc own (ls.getD step 0)).filter fun r => r != x.rank
    before + (g.findIdx fun r => r == rank)

/-- The place in the core store to which bytes of a chunk are written (R261, R275): the landing slot of a reduce step, or
DST; ALL_TO_ALL's segment. -/
def landAt (id : Nat) (r : ChReq) (pl : ChPlan) (rx : ChRx) (s : State) : Nat :=
  let x := getCh id s
  match pl.op with
  | .gather =>
    rqDst r.bytes + packedLen pl.fmt (((pl.recvs.find? fun y => y.1 == rx.rank).map fun y => y.2.1).getD 0)
  | .segments => rqDst r.bytes + rx.rank * dCap x.desc
  | _ => dLandOff x.desc + (x.cseq.toNat % 2) * (dLandLen x.desc / 2)
      + dCap x.desc * landSlot s.cab.cur x (ownCoords x.part s) rx.step rx.rank

/-- A step expects a chunk of a rank. -/
def hasSlot (id : Nat) (r : ChReq) (step rank : Nat) (s : State) : Bool :=
  decide (step < stepCount s.cab.cur (getCh id s) r.bytes) && (curPlan id r step s).recvs.any fun y => y.1 == rank

/-- The bytes of a chunk that have arrived are written to their place (R275), and the length of a whole chunk of ALL_TO_ALL
into the sizes array, by the home core: not into a sink window of another (R155, R286). -/
def placeChunk (id : Nat) (r : ChReq) (rx : ChRx) (off n : Nat) (s : State) : State :=
  let x := getCh id s
  let core := homeOf x.desc rx.home
  let pl := curPlan id r rx.step s
  let s := memStore (coreStore core + landAt id r pl rx s + off) n (tslice off n rx.data) s
  let size := coreStore core + rqSizes r.bytes + 4 * memberCount x.desc + 4 * rx.rank
  if pl.op = .segments ∧ rx.arrived ∧ !ownWriteRefused core size 4 s then memWrite size (leBytes 4 rx.got) s else s

/-- The package index that a peer of a chamber has in its slice. -/
def peerPkg (x : Chamber) (rank : Nat) (s : State) : Nat :=
  indexOf s.cab.cur x.part (memberCoords x.desc (ownCoords x.part s) rank)

/-- The place of a chunk that arrived before its request meets a sink window of another peer (R155). -/
def rxSunk (id : Nat) (r : ChReq) (rx : ChRx) (s : State) : Bool :=
  let x := getCh id s
  rx.got != 0 && shelfRefuses (peerPkg x rx.rank s) rx.core
    (coreStore (homeOf x.desc rx.home) + landAt id r (curPlan id r rx.step s) rx s) rx.got s

/-- The values of a chunk that a reduce step received. -/
def gotVals (id i : Nat) (r : ChReq) (pl : ChPlan) (rank n : Nat) (s : State) : List Val × State :=
  let x := getCh id s
  let core := homeOf x.desc i
  let rx : ChRx := ⟨x.cseq.setWidth 8, i, r.step, rank, 0, 0, none, [], false, 0⟩
  let h := homeRead core (landAt id r pl rx s) (wireLen pl.fmt pl.mx n) s
  (fromWire pl.fmt pl.mx h.1 n, raiseFlags core (scaleFlags pl.fmt pl.mx h.1 n) h.2)

/-- The reduction of a DIRECT step on home core i: the kept chunk as W48 values, in ascending level rank (R271). -/
def reduceOn (id i : Nat) (r : ChReq) (pl : ChPlan) (s : State) : List Val × State :=
  let x := getCh id s
  let n := pl.own.2 - pl.own.1
  let own := valsIn r i pl.base pl.own.1 pl.own.2
  let s := raiseFlags (homeOf x.desc i) (wireFlags pl.fmt pl.mx own) s
  let mine := fromWire pl.fmt pl.mx (toWire pl.fmt pl.mx own) n
  let ranks := ((pl.recvs.map fun y => y.1) ++ [x.rank]).mergeSort
  let c := ranks.foldl (fun a k =>
    if k = x.rank then (a.1 ++ [mine], a.2) else let g := gotVals id i r pl k n a.2; (a.1 ++ [g.1], g.2)) ([], s)
  let z := (List.range n).map fun e => reduceElem (rqRop r.bytes) (c.1.map fun l => l.getD e .nan)
  (z.map Prod.fst, raiseFlags (homeOf x.desc i) (elemFlags z) c.2)

/-- A RING reduce step on home core i: the own elements are added to those that arrived (R268, R272). -/
def ringOn (id i : Nat) (r : ChReq) (pl : ChPlan) (s : State) : List Val × State :=
  let x := getCh id s
  let n := pl.own.2 - pl.own.1
  let g := gotVals id i r pl ((pl.recvs.headD (0, 0, 0)).1) n s
  let o := srcVals (homeOf x.desc i) r.bytes pl.own.1 pl.own.2 g.2
  let z := (List.range n).map fun e => combine (rqRop r.bytes) (g.1.getD e .nan, 0) (w48Val (o.1.getD e 0))
  (z.map Prod.fst, raiseFlags (homeOf x.desc i) (elemFlags z) o.2)

/-- The ranges that VX of home core i reads for the reduction of a step: the chunks that landed, and SRC under RING. -/
def reduceReads (id i : Nat) (r : ChReq) (pl : ChPlan) (s : State) : List (Nat × Nat) :=
  let x := getCh id s
  let n := pl.own.2 - pl.own.1
  let land (rank : Nat) : Nat × Nat :=
    (landAt id r pl ⟨x.cseq.setWidth 8, i, r.step, rank, 0, 0, none, [], false, 0⟩ s, wireLen pl.fmt pl.mx n)
  let f := rqIn r.bytes
  (pl.recvs.map fun y => land y.1)
    ++ if pl.op = .ringReduce then [(rqSrc r.bytes + packedLen f pl.own.1, packedLen f pl.own.2 - packedLen f pl.own.1)] else []

/-- The result of a reduce step: drained to DST after the outermost level, else kept (R271). -/
def keepResult (id i : Nat) (r : ChReq) (pl : ChPlan) (final : Bool) (v : List Val) (s : State) : State :=
  let x := getCh id s
  let b := r.bytes
  if final then
    let e := collectFlags (v.map (encVal (rqOut b) (rqRnd b) (rqSat b)))
    memWrite (coreStore (homeOf x.desc i) + resultAt b pl) (packElems (rqOut b) e.1)
      (raiseFlags (homeOf x.desc i) e.2 s)
  else modCh id (fun y => { y with req := y.req.map fun q => { q with vals := q.vals ++ [v.map toW48] } }) s

/-- A reduce step ends on every home core. -/
def finishReduce (id : Nat) (r : ChReq) (pl : ChPlan) (final : Bool) (s : State) : State :=
  let s := modCh id (fun y => { y with req := y.req.map fun q => { q with vals := [] } }) s
  forAll (List.range (dHomes (getCh id s).desc)) (fun i s =>
    let s := touchCore (homeOf (getCh id s).desc i) s
    let v := if pl.op = .ringReduce then ringOn id i r pl s else reduceOn id i r pl s
    keepResult id i r pl final v.1 v.2) s

/-- The last step is complete (R277, R284 to R286): the completion, DONE tokens to every peer that sent a chunk, CSEQ + 1. -/
def finishReq (id : Nat) (r : ChReq) (s : State) : State :=
  let x := getCh id s
  let d := Nat.min ((List.range 1024).filter (bitOf r.drops)).length 0x7FF
  let st := if d = 0 then stOK else stOVERFLOW
  let detail := Nat.min r.late 0x7FF * 2 ^ 21 + d / 32 * 2 ^ 10 + d % 32 * 2 ^ 16
  let from' := ((List.range (stepCount s.cab.cur x r.bytes)).flatMap fun i =>
    (curPlan id r i s).recvs.map fun y => y.1).eraseDups
  let s := endReq id st (BitVec.ofNat 32 detail) s
  let s := if d = 0 then s else colEvt eCOL_EVENT_OVERFLOW x.part s
  let s := modCh id (fun y => { y with
    st := 1, cseq := y.cseq + 1, rx := y.rx.filter fun c => c.cseq != x.cseq.setWidth 8 }) s
  forAll from' (fun p s => (chSend id 0 p 0x7FF x.cseq [] s).2) s

/-- VX of every home core is free for a reduction (R270), with a credit for its results (R31). -/
def vxFree (x : Chamber) (s : State) : Bool :=
  (homesOf x.desc).all fun c => ((getCore c s).q.getD 2 []).isEmpty && hoCan (258 + 3 * c) s

/-- The next step waits for its start. In TIMED mode, one whose T_s has passed in an earlier NCLK cycle changes the request to
credited mode (R278). -/
def nextStep (id : Nat) (r : ChReq) (s : State) : State :=
  let s := modCh id (fun y => { y with req := y.req.map fun q => { q with step := r.step + 1, going := false } }) s
  if (getCh id s).st = 2 ∧ dueNow r (r.step + 1) s ∧ !dueJust r (r.step + 1) s then toCredited id s else s

/-- The running step is complete: its reduction is done and written, then the next step, the end of the request, or its end in
a RETIRING chamber (R263, R269, R285). Where VX has read an uncorrectable unit, the request then ends with CHECK_MISMATCH
(R131, log entry 98). -/
def stepDone (id : Nat) (r : ChReq) (pl : ChPlan) (s : State) : State :=
  let x := getCh id s
  let last : Bool := decide (stepCount s.cab.cur x r.bytes ≤ r.step + 1)
  let final : Bool := last || !isReduce (curPlan id r (r.step + 1) s).op
  let out : List (Nat × Nat) := if isReduce pl.op && final then
      [(resultAt r.bytes pl, packedLen (rqOut r.bytes) (pl.own.2 - pl.own.1))] else []
  if homeRefused x (fun _ => out) s then chFail id stDENIED s
  else
    let cut : Bool := isReduce pl.op && (List.range (dHomes x.desc)).any fun i =>
      homeBad (homeOf x.desc i) (reduceReads id i r pl s) s
    let s := if isReduce pl.op then finishReduce id r pl final s else s
    if cut then chFail id stCHECK s
    else if x.st = 5 then retireReq id s else if last then finishReq id r s else nextStep id r s

/-- Cells of a step's messages still wait for room in an egress queue: they have not been handed to their ports (R269). -/
def chBacklog (id step : Nat) (s : State) : Bool :=
  let own : EgCell → Bool
    | .payload _ _ k => k.kind == 4 && bitsOf k.kspec.toNat 63 52 == id && bitsOf k.kspec.toNat 25 15 == step
    | .probe _ _ => false
  s.fab.ports.any fun x => x.backlog.any fun l => l.any own

/-- The running step can be completed now (R269, R270): every message is handed to its ports, every chunk has arrived, and VX is
free for a reduction. -/
def stepReady (id : Nat) (r : ChReq) (s : State) : Bool :=
  let x := getCh id s
  let pl := curPlan id r r.step s
  r.going && r.unsent.isEmpty && !chBacklog id r.step s && allArrived x pl r.step && (!isReduce pl.op || vxFree x s)

/-- CHAMBER_STEP_COMPLETE (R269): every message handed off, every chunk arrived, the reduction done. -/
def stepCompleteOp (id : Nat) (s : State) : State :=
  if isSafe s then s
  else
    let s := sendStep id s
    match (getCh id s).req with
    | none => s
    | some r =>
      if stepReady id r s then stepDone id r (curPlan id r r.step s) s else s

/-- The last step of the running request can be completed now. -/
def lastReady (id : Nat) (s : State) : Bool :=
  match (getCh id s).req with
  | none => false
  | some r => decide (stepCount s.cab.cur (getCh id s) r.bytes ≤ r.step + 1) && stepReady id r s

/-- Before an event that stands lower in the table of R285, a request whose last step is complete ends. -/
def finishLast (id : Nat) (s : State) : State :=
  if lastReady id s ∧ chRuns (getCh id s) then stepCompleteOp id s else s

/-- CHAMBER_REQUEST_FETCH (R266, R285): chunks of the request that arrived before it are placed; one without a slot, or
whose place lies in a sink window of another peer, is dropped (R155, R275, log entry 48). -/
def fetchReq (id : Nat) (s : State) : State :=
  let x := getCh id s
  let q := getQueue (chComm x) s
  if x.st ≠ 1 ∨ x.req.isSome ∨ q.st ≠ .active ∨ q.kind ≠ 3 ∨ q.pi = q.ci ∨ ctrlPlane s ≠ 1 ∨ isSafe s ∨ !memOpen (ringAddr q q.ci) 64 s then s
  else
    let b := memBytes (ringAddr q q.ci) 64 s
    let st := rqStatus x b s
    let s := countEvt ctrQm 0x61 1 (readAll (ringAddr q q.ci) 64 s).1
    let s := setQueue (chComm x) { q with ci := q.ci + 1, cmds := q.cmds ++ [⟨q.ci, q.gen, b, .started⟩] } s
    let ahead := paceAhead (rqT0 b) s.clk.p
    let r : ChReq := ⟨b, q.ci, (s.clk.pCount : Int) + ahead, 0, false, 0, 0, [], [], 0, []⟩
    let s := modCh id (fun y => { y with req := some r }) s
    if st ≠ stOK then chFail id st s
    else
      let timed : Bool := rqTimed b && !inDrift s && decide (0 < ahead)
      let s := modCh id (fun y => { y with st := if timed then 2 else 3 }) s
      let s := if rqTimed b ∧ !timed then colEvt eCOL_EVENT_LATE x.part s else s
      let mine (c : ChRx) : Bool := c.cseq == x.cseq.setWidth 8
      let ok (c : ChRx) : Bool := hasSlot id r c.step c.rank s && !rxSunk id r c s
      forAll (x.rx.filter fun c => mine c && ok c) (fun c => placeChunk id r c 0 c.got)
        (modCh id (fun y => { y with rx := y.rx.filter fun c => !mine c || ok c }) s)

/-- The deadline of the running step, as a count of P (R282); none while a step without a planned time has not started. -/
def deadlineOf (r : ChReq) (s : State) : Option Int :=
  let dl : Int := (bitsOf (sectW s.cab.cur 9 1) 4 0 * rqSlot r.bytes : Nat)
  if rqTimed r.bytes ∧ !inDrift s then some (dueAt r r.step + dl)
  else if r.going then some ((r.start : Int) + dl) else none

/-- P has reached a count in this NCLK cycle. -/
def justReached (t : Int) (s : State) : Bool :=
  decide (((s.clk.pCount : Int) - t) * (divider (fget drpB fDRP_RUNG_DOMAIN s) : Int) + s.clk.pFrac < 6)

/-- CHAMBER_DEADLINE (R282): the deadline has passed and the step is not complete. A chunk of the NCLK cycle of the deadline
counts as arrived, so the request stops in a later cycle; one whose step can be completed goes on (R285). -/
def deadlineOp (id : Nat) (s : State) : State :=
  let x := getCh id s
  match x.req with
  | none => s
  | some r => match deadlineOf r s with
    | none => s
    | some t =>
      if t ≤ (s.clk.pCount : Int) ∧ !justReached t s ∧ !stepReady id r s ∧ (x.st = 2 ∨ x.st = 3) ∧ !isSafe s then
        chFail id stSTALLED s
      else s

/-! RETIRE and the commands of COL_CCTL. -/

/-- The requests in the ring of a communication queue complete with a status, and CI moves past them (log entry 48). -/
def dropRequests (qid : Nat) (st : BitVec 8) (rank : Nat) (s : State) : State :=
  modQueue qid (fun q => if q.kind = 3 ∧ (q.st = .active ∨ q.st = .draining) then { q with ci := q.pi } else q)
    (flushCmds qid st rank s)

/-- RETIRE (R263, R285): requests not started complete with STALE_GENERATION; a running one stops at its next step boundary;
one whose last step is complete ends before. -/
def retireNow (id : Nat) (s : State) : State :=
  let s := finishLast id s
  let x := getCh id s
  if x.st = 0 ∨ x.st = 5 then cctlEnd 2 id stOK s
  else
    let s := dropRequests (chComm x) stSTALE x.rank (modCh id (fun y => { y with st := 5 }) s)
    cctlEnd 2 id stOK (match x.req with
      | none => s
      | some r => if r.going then s else retireReq id s)

/-- The running step of a RETIRING chamber can end no more: chunks that it lacks are refused now, and no message of it may
still leave (R263, R275). -/
def chStuck (id : Nat) (r : ChReq) (s : State) : Bool :=
  let x := getCh id s
  let may (m : Nat × Nat) : Bool := m.2 == x.rank || r.spent.contains m.2 || credited x m.2
  !r.unsent.any may && (!r.unsent.isEmpty || !allArrived x (curPlan id r r.step s) r.step)

/-- CHAMBER_RETIRED (R263). A step under way that can end no more ends here, once every message of the chamber has been
answered; the notice is then answered first (log entry 48). -/
def retiredOp (id : Nat) (s : State) : State :=
  let x := getCh id s
  if x.st = 5 ∧ !chWaits id s ∧ !isSafe s then (match x.req with
    | none => chInactive id s
    | some r => if !r.going ∨ chStuck id r s then retireReq id s else s)
  else s

/-- The wait of ACTIVATE of an ID is over (R262). -/
def actWaitOver (id : Nat) (s : State) : Bool :=
  match (getCh id s).inactiveAt with
  | none => true
  | some t => elapsed t (2 * ticksMs) s

/-- The partition under which ACTIVATE is checked: that of the function that commands it, for PF0 the one whose range holds the
ID. DESIGN CHOICE (log entry 48): for PF0 and an ID in no range, the partition of home core HOME0. -/
def actPart (w : ColWait) (s : State) : Nat :=
  if isPf0 w.req then
    match partOfCh s.cab.cur w.id with
    | some p => p
    | none => (partOfCore s.cab.cur (dHome0 (memBytes (cargAddr s) 64 s))).getD 0
  else (reqPart w.req s).getD 0

/-- A command of COL_CCTL goes on: not while MGMT is PAUSED or in the safe state, ACTIVATE not before its wait is over. -/
def colResume (s : State) : State :=
  match s.col.wait with
  | none => s
  | some w =>
    if mgmtPlane s = 2 ∨ isSafe s then s
    else if w.cmd = 1 then (if actWaitOver w.id s then activateNow w.id (actPart w s) s else s)
    else match partOfCh s.cab.cur w.id with
      | none => cctlEnd w.cmd w.id stDENIED s
      | some p =>
        if !isPf0 w.req ∧ reqPart w.req s ≠ some p then cctlEnd w.cmd w.id stDENIED s else retireNow w.id s

/-- The COL block is reached from PF0 and from the PF of each partition (R292). -/
def colReach (r : Requester) (s : State) : Bool :=
  mayCommand r s && (match r with
    | .pf _ => true
    | r => isFn0 r)

/-- A write of COL_CCTL that starts a command; dropped and logged while BUSY is 1 (R292). -/
def cctlOp (r : Requester) (cmd id : Nat) (s : State) : State :=
  if !colReach r s then countDenied r s
  else if fget colB fCOL_CCTL_BUSY s = 1 ∨ cmd = 3 then regAccessFault r (colB + oCOL_CCTL) s
  else
    let s := fset colB fCOL_CCTL_CMD cmd (fset colB fCOL_CCTL_ID id s)
    if cmd = 0 then s
    else colResume (fset colB fCOL_CCTL_BUSY 1 { s with col := { s.col with wait := some ⟨cmd, r, id⟩ } })

/-! Resets and stops (R285, R389). -/

/-- A home core or its cluster is reset, or the compute part (R285). -/
def chResetCores (cores : List Nat) (st : BitVec 8) (s : State) : State :=
  forAll ((s.col.chs.filter fun e => (chRuns e.2 || e.2.st == 5) && (homesOf e.2.desc).any cores.contains).map Prod.fst)
    (fun id => chFail id st) s

/-- The chambers of a partition are stopped with a status. -/
def chStopPart (p : Nat) (st : BitVec 8) (s : State) : State :=
  forAll ((s.col.chs.filter fun e => chRuns e.2 && e.2.part == p).map Prod.fst) (fun id => chFail id st) s

/-- A partition reset (R285): its chambers become INACTIVE, a running request completes with STALE_GENERATION. -/
def chPartReset (p : Nat) (s : State) : State :=
  forAll ((s.col.chs.filter fun e => e.2.st != 0 && e.2.part == p).map Prod.fst) (fun id s =>
    let x := getCh id s
    chInactive id (endReq id stSTALE (failDetail (chStep x) x.rank) s)) s

/-- ACTIVATE (R262). -/
def execActivate (r : Requester) (id : BitVec 12) (s : State) : Host.Outcome State Fault Refusal :=
  .next (cctlOp r 1 id.toNat s)
/-- RETIRE (R263). -/
def execRetire (r : Requester) (id : BitVec 12) (s : State) : Host.Outcome State Fault Refusal :=
  .next (cctlOp r 2 id.toNat s)
/-- ACTIVATE_WAIT_END (R262): a waiting ACTIVATE of this ID goes on. -/
def execActivateWaitEnd (id : BitVec 12) (s : State) : Host.Outcome State Fault Refusal :=
  .next (match s.col.wait with
    | none => s
    | some w => if w.id = id.toNat ∧ w.cmd = 1 then colResume s else s)
/-- CHAMBER_RETIRED (R263). -/
def execChamberRetired (id : BitVec 12) (s : State) : Host.Outcome State Fault Refusal := .next (retiredOp id.toNat s)
/-- CHAMBER_REQUEST_FETCH (R266). -/
def execChamberRequestFetch (id : BitVec 12) (s : State) : Host.Outcome State Fault Refusal := .next (fetchReq id.toNat s)
/-- CHAMBER_STEP_START (R278). -/
def execChamberStepStart (id : BitVec 12) (s : State) : Host.Outcome State Fault Refusal := .next (stepStartOp id.toNat s)
/-- CHAMBER_STEP_COMPLETE (R269). -/
def execChamberStepComplete (id : BitVec 12) (s : State) : Host.Outcome State Fault Refusal :=
  .next (stepCompleteOp id.toNat s)
/-- CHAMBER_DEADLINE (R282). -/
def execChamberDeadline (id : BitVec 12) (s : State) : Host.Outcome State Fault Refusal := .next (deadlineOp id.toNat s)

end Sys2Proof.Machine
end

