-- ==== Sys2Proof/Machine/Arrival.lean ====
section
/-! DEFINITION. Packets that arrive (R241), remote operations end to end (R242, R243), generations of replies (R365), and
the messages of chambers (R275 to R277, R279). -/

namespace Sys2Proof.Machine

/-! The source's side (R242, R243). -/

/-- The SX instruction with a tag ends with a status. -/
def endTagged (t : InstrTag) (st : BitVec 8) (s : State) : State :=
  match headOf t.core.val 3 s with
  | none => s
  | some x => if x.seqno = t.seqno ∧ x.done.isNone then sxEnd t.core.val x st s else s

/-- A NAK of a chamber message stops its chamber (R285), after a request whose last step is complete has ended: DETAIL of
ROLE_MOVED is that of the NAK (R284). -/
def chNak (id : Nat) (cgen : BitVec 16) (peer : Nat) (st : BitVec 8) (detail : Word) (s : State) : State :=
  let s := finishLast id s
  let x := getCh id s
  if chRuns x ∧ dCgen x.desc = cgen.toNat then
    chStall id st (if st = stROLE then detail else failDetail (chStep x) peer) peer true s
  else s

/-- The second half of a COPY between two remote packages: the bytes go out under a new tag, by the snapshot that the COPY
took at its issue (R239). Where the source ended in an uncorrectable word, those before it go out (R131). -/
def relayOut (qid : Nat) (idx : BitVec 32) (dst len : Nat) (data : Tbl Byte) (e : BitVec 19) (w : BitVec 64) (whole : Bool)
    (s : State) : State :=
  match (getQueue qid s).cmds.find? fun c => c.idx == idx with
  | none => s
  | some c => moveBy qid (getQueue qid s) c e w dst len ((List.range len).map (tget (fun _ => 0) data)) whole s

/-- A remote instruction of which every packet has been answered, or whose time is up, goes on to its NOTIFY_ADD or ends
(R242, R243); everything that it sends goes by its snapshot (R239, R246). -/
def settleKind (r : RemoteInstr) (st : BitVec 8) (s : State) : State :=
  let s' := dropRemote r.tag s
  match r.kind with
  | .put =>
    if st = stOK ∧ r.notify ≠ 0 then
      setRemote { r with kind := .notify, left := 1, tLast := s.clk.now }
        (sendOne r.tag.core.val 0 5 r.eid r.snap 0 r.tag r.notify.toNat 0 s)
    else endTagged r.tag st s'
  | .notify => endTagged r.tag st s'
  | .get _ _ => endTagged r.tag st s'
  | .copyPut qid idx len => endCmd qid idx st (if st = stOK then BitVec.ofNat 32 len else 0) s'
  | .copyGet qid idx _ len _ => endCmd qid idx st (if st = stOK then BitVec.ofNat 32 len else 0) s'
  | .copyRelay qid idx dst data len left e w =>
    if st = stOK then relayOut qid idx dst len data e w true s'
    else if st = stCHECK ∧ left < len then relayOut qid idx dst (len - left) data e w false s'
    else endCmd qid idx st 0 s'
  | .chamber _ _ _ _ => s'

/-- A remote instruction goes on or ends; drains that waited for its snapshot start (R245). -/
def settle (r : RemoteInstr) (st : BitVec 8) (s : State) : State := drainsGo (settleKind r st s)

/-- Whether an instruction still waits for an answer or for data. -/
def stillOpen (r : RemoteInstr) : Bool :=
  decide (0 < r.left) || (r.nak.isNone && (match r.kind with
    | .get _ n => decide (0 < n)
    | .copyGet _ _ _ _ n => decide (0 < n)
    | .copyRelay _ _ _ _ _ n _ _ => decide (0 < n)
    | _ => false))

/-- Settles an instruction whose last answer has come, with the status of its first NAK. -/
def settleIf (t : InstrTag) (s : State) : State :=
  match findRemote t s with
  | none => s
  | some r => if stillOpen r then s else settle r ((r.nak.map Prod.fst).getD stOK) s

/-- A reply with the generation of a reset that has passed is counted (R365). -/
def staleTag (t : InstrTag) (s : State) : Bool :=
  t.seqno.toNat / 65536 != fget (coreB t.core.val) fCORE_RESET_GEN_GEN s

def countStale (t : InstrTag) (s : State) : State := faddSat (coreB t.core.val) fCORE_RESET_GEN_STALE_CNT 1 s

/-- ACK of n packets of an instruction (R242). -/
def ackOne (t : InstrTag) (n : Nat) (s : State) : State :=
  if staleTag t s then countStale t s
  else match findRemote t s with
    | none => s
    | some r => match r.kind with
      | .get _ _ => s
      | .copyGet _ _ _ _ _ => s
      | .copyRelay _ _ _ _ _ _ _ _ => s
      | _ => settleIf t (setRemote { r with left := r.left - n } s)

/-- The status that a NAK brings: a code that no package writes is read as FORMAT_INVALID (R15, log entry 44). -/
def nakStatus (st : BitVec 8) : BitVec 8 := if 0x0F < st.toNat then stFORMAT else st

/-- NAK of a packet of an instruction (R243). -/
def nakOne (t : InstrTag) (code : BitVec 8) (detail : Word) (s : State) : State :=
  let st := nakStatus code
  if staleTag t s then countStale t s
  else match findRemote t s with
    | none => s
    | some r =>
      let s := setRemote { r with left := r.left - 1, nak := some (r.nak.getD (st, detail)) } s
      settleIf t (match r.kind with
        | .chamber id g _ p => chNak id g p st detail s
        | _ => s)

/-- ACK. -/
def execAck (tags : List (InstrTag × Nat)) (s : State) : Host.Outcome State Fault Refusal :=
  .next (if isSafe s then s else forAll tags (fun t => ackOne t.1 t.2) s)
/-- NAK. -/
def execNak (tag : InstrTag) (status : BitVec 8) (detail : BitVec 32) (s : State) : Host.Outcome State Fault Refusal :=
  .next (if isSafe s then s else nakOne tag status detail s)
/-- A packet of an instruction still waits in an egress queue, or for one (R243). -/
def stillQueued (t : InstrTag) (s : State) : Bool :=
  let own : EgCell → Bool
    | .payload _ _ k => k.kind != 3 && k.core == t.core && k.seqno == t.seqno
    | .probe _ _ => false
  s.fab.ports.any fun x => x.egress.any (fun l => l.any own) || x.backlog.any fun l => l.any own

/-- REMOTE_INSTR_TIMEOUT (R243): 1 ms after the last packet has left. -/
def execRemoteInstrTimeout (tag : InstrTag) (s : State) : Host.Outcome State Fault Refusal :=
  .next (match findRemote tag s with
    | none => s
    | some r => if elapsed r.tLast ticksMs s ∧ !stillQueued tag s ∧ !isSafe s then settle r stTIMEOUT s else s)

/-! The destination's side. -/

/-- Answers a packet with an ACK. -/
def ackPkt (k : Packet) (s : State) : State := routeItem (.ack k.src [(⟨k.core, k.seqno⟩, 1)]) s
/-- Answers a packet with a NAK. -/
def nakPkt (k : Packet) (st : BitVec 8) (detail : Word) (s : State) : State :=
  routeItem (.nak k.src ⟨k.core, k.seqno⟩ st detail) s

/-- A packet that fails a check of R241 with a status is refused; the NAK counts in FAB_EVENT of the port on which its cells
came. DESIGN CHOICE (log entry 44): as UNKNOWN_SRC. -/
def refusePkt (p : Nat) (k : Packet) (st : BitVec 8) (s : State) : State :=
  nakPkt k st 0 (evt (fabB p) eFAB_EVENT_UNKNOWN_SRC s)

/-- The key under which a session reads a key index (R249): the old one only within its 10 ms. -/
def rxKey (x : Session) (idx : Bool) (s : State) : Option (List Byte) :=
  if idx = x.idxRx then some x.keyRx
  else match x.oldEnd with
    | none => none
    | some t => if s.clk.now < t then some x.oldRx else none

/-- Check 1 of R241: session, key index, tag. The packet with its data in clear, where it passes. -/
def pktOpened (k : Packet) (s : State) : Option Packet :=
  match getSession k.src s with
  | none => none
  | some x => match rxKey x k.keyIdx s with
    | none => none
    | some key => if tagChecks key k then some (openPkt key k) else none

/-- The receiving counter of a session follows the packets under its key (R249). -/
def noteIv (k : Packet) (s : State) : State :=
  match getSession k.src s with
  | none => s
  | some x => if k.keyIdx = x.idxRx then setSession k.src (some { x with ivRx := k.ivCtr + 1 }) s else s

/-- The slice of a partition holds an EID (R311). -/
def sliceHolds (p : Nat) (e : BitVec 19) (s : State) : Bool :=
  match rowOfPart p s with
  | none => false
  | some r => r.eids.any fun x => x.2 == some e && decide (x.1 < r.size.toNat)

/-- The package index of an EID in the slice of a partition. -/
def pkgOfEid (p : Nat) (e : BitVec 19) (s : State) : Nat :=
  match rowOfPart p s with
  | none => 0
  | some r => ((r.eids.find? fun x => x.2 == some e).map Prod.fst).getD 0

/-- Checks 3 to 5 of R241 and that of R427 for a range of local memory. -/
def pktRange (k : Packet) (a n : Nat) (s : State) : BitVec 8 :=
  let m := Nat.max n 1
  let own := (ownersIn a m s).filterMap id
  firstFail [
    failIf (mappedStatus a m != stOK || regionOf a == some .reg || own.isEmpty || own.any (fun p => !sliceHolds p k.src s))
      stDENIED,
    failIf (fenceStatus a m s != stOK || own.any fun p => partStopped p s) stFENCED,
    drainStatus a m s, failIf (own.any fun p => !boundOk p k.src (k.core.val / 64) s) stDENIED]

/-- The partition of a packet's range. -/
def pktPart (a : Nat) (s : State) : Nat := ((ownersIn a 1 s).filterMap id).headD 0

/-- PUT (R235, R242): the data is written and acknowledged; a sink window takes it from its own peer alone (R155). -/
def rxPut (q : Nat) (k : Packet) (s : State) : State :=
  let a := k.addr.toNat
  let st := pktRange k a k.data.length s
  let p := pktPart a s
  if st ≠ stOK then refusePkt q k st s
  else if shelfRefuses (pkgOfEid p k.src s) k.core.val a k.data.length s then nakPkt k stDENIED 0 s
  else ackPkt k (memWrite a k.data s)

/-- NOTIFY_ADD (R242): the object rises by 1. -/
def rxNotify (q : Nat) (k : Packet) (s : State) : State :=
  let a := k.notify.toNat
  let st := firstFail [failIf (!syncPlaceOk a) stDENIED, pktRange k a 16 s]
  if st = stOK then ackPkt k (syncAddAt a 1 s) else refusePkt q k st s

/-- GET_REQ (R242): the bytes go back as GET_RESP packets on VL0; an uncorrectable unit ends them with a NAK (R131). -/
def rxGetReq (q : Nat) (k : Packet) (s : State) : State :=
  let a := k.addr.toNat
  let n := k.kspec.toNat % 2 ^ 32
  let st := pktRange k a n s
  if st ≠ stOK then refusePkt q k st s
  else
    let r := readUpTo a n s
    let l := memBytes a r.2 s
    let t := sendData none (k.core.val) 0 3 k.src (entryOf k.src s) k.notify.toNat ⟨k.core, k.seqno⟩ 0 0 l r.1
    if r.2 = n then t else nakPkt k stCHECK 0 t

/-- Bytes of a GET_RESP go to the destination of a GET or COPY; a write refused at a sink window ends the instruction with
DENIED (R155). -/
def landResp (t : InstrTag) (r : RemoteInstr) (kind : RemoteKind) (a : Nat) (l : List Byte) (s : State) : State :=
  let w := localWrite t.core.val a l.length (sparse 0 l) s
  settleIf t (setRemote { r with
    kind := kind, left := 0, nak := if w.2 = stOK then r.nak else some (r.nak.getD (w.2, 0)) } w.1)

/-- GET_RESP (R242): the bytes of an outstanding GET or COPY. -/
def rxGetResp (p : Nat) (k : Packet) (s : State) : State :=
  let t : InstrTag := ⟨k.core, k.seqno⟩
  if staleTag t s then countStale t s
  else match findRemote t s with
    | none => s
    | some r =>
      let n := k.data.length
      let a := k.addr.toNat
      match r.kind with
      | .get d m =>
        let st := pktRange k a n s
        if st ≠ stOK then refusePkt p k st s else landResp t r (.get d (m - n)) a k.data s
      | .copyGet q i d len m =>
        let st := pktRange k a n s
        if st ≠ stOK then refusePkt p k st s else landResp t r (.copyGet q i d len (m - n)) a k.data s
      | .copyRelay q i d data len m e w =>
        settleIf t (setRemote { r with
          kind := .copyRelay q i d (tput a n (sparse 0 k.data) data) len (m - n) e w, left := 0 } s)
      | _ => s

/-! Chamber packets (R274, R275). -/

def kId (k : Packet) : Nat := bitsOf k.kspec.toNat 63 52
def kCgen (k : Packet) : Nat := bitsOf k.kspec.toNat 51 36
def kRank (k : Packet) : Nat := bitsOf k.kspec.toNat 35 26
def kStep (k : Packet) : Nat := bitsOf k.kspec.toNat 25 15
def kLast (k : Packet) : Bool := bitOf k.kspec.toNat 14
def kSeq (k : Packet) : BitVec 8 := BitVec.ofNat 8 k.kspec.toNat

/-- Checks 3 to 5 of R241 for a chamber packet, and that of R427. -/
def chPktStatus (k : Packet) (s : State) : BitVec 8 :=
  match partOfCh s.cab.cur (kId k) with
  | none => stDENIED
  | some p =>
    let x := getCh (kId k) s
    firstFail [failIf (!sliceHolds p k.src s) stDENIED,
      failIf (partStopped p s || (x.st != 0 && (homesOf x.desc).any fun c => !cluOk (c / 8) s)) stFENCED,
      failIf (scrubbing p s || bitOf s.busyParts p || s.computeReset) stDRAINING,
      failIf (!boundOk p k.src (k.core.val / 64) s) stDENIED]

/-- The index of the home core from which a packet came, counted from the sender's HOME0 (R260, R273). DESIGN CHOICE (log entry
46): the packet names the core, and how a receiver knows the sender's HOME0 is left open. -/
def homeIx (x : Chamber) (k : Packet) : Nat :=
  if dHomes x.desc ≤ 1 then 0 else (k.core.val + 256 - Config.peerHome k.src (kId k) % 256) % 256 % dHomes x.desc

/-- The record of the chunk to which a packet belongs, new where this is its first packet. -/
def rxOf (x : Chamber) (k : Packet) : ChRx :=
  let home := homeIx x k
  let same (c : ChRx) : Bool := c.cseq == kSeq k && c.home == home && c.step == kStep k && c.rank == kRank k
  (x.rx.find? same).getD ⟨kSeq k, home, kStep k, kRank k, k.notify.setWidth 32, 0, none, [], false, k.core.val⟩

/-- The chamber's table of chunks with one record put in place. -/
def putRx (l : List ChRx) (c : ChRx) : List ChRx :=
  (l.filter fun y => !(y.cseq == c.cseq && y.home == c.home && y.step == c.step && y.rank == c.rank)) ++ [c]

/-- A chunk whose CRC does not match (R279): the request that runs ends, whether the chunk was of it or of the next one
(R285). -/
def chunkBad (id : Nat) (k : Packet) (c : ChRx) (s : State) : State :=
  let x := getCh id s
  let s := nakPkt k stCHECK 0 (colEvt eCOL_EVENT_CRC x.part s)
  let s := softFault 0x12 (0x1000 + homeOf x.desc c.home) 0 0 s
  let s := modCh id (fun y => { y with rx := y.rx.filter fun z => z != c }) s
  if x.req.isSome ∧ chRuns x then chFail id stCHECK s else s

/-- Check 6 of R275: the packet's bytes are written; the last byte of a chunk brings its check (R279). Chunks of a request
not yet fetched are placed at its fetch. -/
def chunkIn (id : Nat) (k : Packet) (s : State) : State :=
  let x := getCh id s
  let n := k.data.length
  let a := k.addr.toNat
  let old := rxOf x k
  let c : ChRx := { old with
    got := old.got + n, data := tput a n (sparse 0 k.data) old.data, total := if kLast k then some (a + n) else old.total }
  let whole : Bool := c.total == some c.got
  let good : Bool := whole && crc32c ((List.range c.got).map (tget (fun _ => 0) c.data)) == c.crc
  let c : ChRx := { c with arrived := good }
  let now : Bool := x.req.isSome && kSeq k == x.cseq.setWidth 8
  let s := modCh id (fun y => { y with rx := putRx y.rx c }) s
  let s := match x.req with
    | none => s
    | some r => if now then placeChunk id r c a n s else s
  if whole && !good then chunkBad id k c s
  else ackPkt k (if good then countEvt ctrCol 0x73 ((c.got + 255) / 256) (countEvt ctrCol 0x72 1 s) else s)

/-- A landing credit comes back, and messages that waited for it leave (R277). -/
def tokenIn (id : Nat) (k : Packet) (s : State) : State :=
  ackPkt k (sendStep id (modCh id (fun y => { y with
    spent := y.spent.filter fun v => v != 2 * kRank k + (kSeq k).toNat % 2 }) s))

/-- A STALL notice (R285): the chamber stops with STALLED, after a request whose last step is complete has ended, and sends no
notice of its own. -/
def noticeIn (id : Nat) (k : Packet) (s : State) : State :=
  let s := finishLast id (ackPkt k s)
  let x := getCh id s
  if chRuns x then chStall id stSTALLED (failDetail (chStep x) (kRank k)) (kRank k) false s else s

/-- The place of a chunk's packet meets a sink window of another peer (R155). -/
def chunkSunk (id : Nat) (k : Packet) (s : State) : Bool :=
  let x := getCh id s
  match x.req with
  | none => false
  | some r => kSeq k == x.cseq.setWidth 8 && shelfRefuses (pkgOfEid x.part k.src s) k.core.val
      (coreStore (homeOf x.desc (homeIx x k)) + landAt id r (curPlan id r (kStep k) s) (rxOf x k) s + k.addr.toNat)
      k.data.length s

/-- A chamber packet (R241, R275). Check 2 takes a STALL notice of the request before, and a DONE token of one of the two
requests before, whose credit it returns (R277, log entry 48). -/
def rxChamber (q : Nat) (k : Packet) (s : State) : State :=
  let st := chPktStatus k s
  if st ≠ stOK then refusePkt q k st s
  else
    let id := kId k
    let x := getCh id s
    let p := (partOfCh s.cab.cur id).getD 0
    let ahead := (kSeq k - x.cseq.setWidth 8).toNat
    let control : Bool := decide (0x7FE ≤ kStep k)
    if x.st = 0 ∨ x.st = 5 ∨ kCgen k ≠ dCgen x.desc then
      let on : Bool := x.st != 0
      let s := colEvt eCOL_EVENT_ROLE_MOVED p s
      if control then s
      else nakPkt k stROLE (BitVec.ofNat 32 ((if on then dCgen x.desc else 0) * 2 ^ 16 + (if on then x.rank else 0))) s
    else if 1 < ahead ∧ !(kStep k = 0x7FE ∧ ahead = 0xFF) ∧ !(kStep k = 0x7FF ∧ 0xFE ≤ ahead) then
      colEvt eCOL_EVENT_STALE_MSG p s
    else if kStep k = 0x7FE then noticeIn id k s
    else if kStep k = 0x7FF then tokenIn id k s
    else
      let noSlot : Bool := match x.req with
        | none => false
        | some r => decide (ahead = 0) && !hasSlot id r (kStep k) (kRank k) s
      let noSlot : Bool := noSlot || kRank k == x.rank || decide (memberCount x.desc ≤ kRank k)
      if noSlot ∨ dCap x.desc < k.addr.toNat + k.data.length then nakPkt k stLENGTH 0 s
      else if chunkSunk id k s then nakPkt k stDENIED 0 s
      else chunkIn id k s

/-! PACKET_RX (R241). -/

/-- A packet that has passed check 1 goes on through check 2 and by its kind (R226, R241). -/
def pktKind (p : Nat) (k : Packet) (s : State) : State :=
  if entState (entryOf k.src s) = 0 then portFault 0x10 p p (evt (fabB p) eFAB_EVENT_UNKNOWN_SRC s)
  else match k.kind.toNat with
    | 1 => rxPut p k s
    | 2 => rxGetReq p k s
    | 3 => rxGetResp p k s
    | 4 => rxChamber p k s
    | 5 => rxNotify p k s
    | _ => portFault 0x10 p p (evt (fabB p) eFAB_EVENT_UNKNOWN_SRC s)

/-- The data of a PUT or GET_RESP would be written, by the checks 2 to 5 of R241 and the guard of R155. -/
def dataLands (c : Packet) (s : State) : Bool :=
  let a := c.addr.toNat
  let n := c.data.length
  entState (entryOf c.src s) != 0 && pktRange c a n s == stOK
    && ((c.kind == 1 && !shelfRefuses (pkgOfEid (pktPart a s) c.src s) c.core.val a n s) || (c.kind == 3 && !inSink a n s))

/-- The first bytes of the data, which were written as the cells arrived, before the tag was there (R235, R241). DESIGN CHOICE
(log entry 90): how many is an operand, and a packet without a key, or of another kind, writes none. -/
def writeEarly (k : Packet) (n : Nat) (s : State) : State :=
  match (getSession k.src s).bind fun x => rxKey x k.keyIdx s with
  | none => s
  | some key =>
    let c := openPkt key k
    if dataLands c s then memWrite c.addr.toNat (c.data.take n) s else s

/-- A packet whose cells are in the Sump (R235, R241): they leave it, and the packet is decrypted and checked. Of one that
fails check 1, early bytes may have been written. -/
def pktIn (p : Nat) (k : Packet) (early : Nat) (s : State) : State :=
  let n := cellsOf k.data.length
  if (!portUp p s && decide (pairCells (getPort p s) k.vl.val < n)) || isSafe s then s
  else
    let s := freeCells p k.vl.val n s
    match pktOpened k s with
    | none => portFault 0x0E p p (evt (fabB p) eFAB_EVENT_TAG_FAIL (writeEarly k early s))
    | some c => pktKind p c (noteIv k s)

/-- A packet of one kind. -/
def pktOfKind (p : Nat) (k : Packet) (ok : Bool) (s : State) : State := if ok then pktIn p k 0 s else s

/-- PACKET_RX. -/
def execPacketRx (p : Fin 32) (pkt : Packet) (early : Nat) (s : State) : Host.Outcome State Fault Refusal :=
  .next (pktIn p.val pkt early s)
/-- GET_REQ. -/
def execGetReq (p : Fin 32) (pkt : Packet) (s : State) : Host.Outcome State Fault Refusal :=
  .next (pktOfKind p.val pkt (pkt.kind == 2) s)
/-- GET_RESP. -/
def execGetResp (p : Fin 32) (pkt : Packet) (s : State) : Host.Outcome State Fault Refusal :=
  .next (pktOfKind p.val pkt (pkt.kind == 3) s)
/-- NOTIFY_ADD. -/
def execNotifyAdd (p : Fin 32) (pkt : Packet) (s : State) : Host.Outcome State Fault Refusal :=
  .next (pktOfKind p.val pkt (pkt.kind == 5) s)
/-- CHAMBER_CHUNK_RX (R275). -/
def execChamberChunkRx (p : Fin 32) (pkt : Packet) (s : State) : Host.Outcome State Fault Refusal :=
  .next (pktOfKind p.val pkt (pkt.kind == 4 && decide (kStep pkt < 0x7FE)) s)
/-- STALL_NOTICE (R285). -/
def execStallNotice (p : Fin 32) (pkt : Packet) (s : State) : Host.Outcome State Fault Refusal :=
  .next (pktOfKind p.val pkt (pkt.kind == 4 && kStep pkt == 0x7FE) s)
/-- DONE_TOKEN (R277). -/
def execDoneToken (p : Fin 32) (pkt : Packet) (s : State) : Host.Outcome State Fault Refusal :=
  .next (pktOfKind p.val pkt (pkt.kind == 4 && kStep pkt == 0x7FF) s)

end Sys2Proof.Machine
end

