-- ==== Sys2Proof/Machine/Stepstool.lean ====
section
/-! DEFINITION. The Stepstool: admission of cores (R328 to R331), the limits of the floor state (R339) and the pre-ramp
entries (R332, R351). -/

namespace Sys2Proof.Machine

/-- The dynamic current of a die at a rung, in A (R324). -/
def dieAmps : Nat → Nat
  | 0 => 720
  | 1 => 528
  | 2 => 420
  | 3 => 292
  | 4 => 180
  | _ => 88

/-- The admission interval at a rung, in NCLK cycles (R328). -/
def stoolTicks : Nat → Nat
  | 0 => 100
  | 1 => 74
  | 2 => 58
  | 3 => 40
  | 4 => 25
  | _ => 12

/-- The rung of the package's ECLK, and the rung of its domain (R214). -/
def curRung (s : State) : Nat := fget drpB fDRP_RUNG_CUR s
def domRung (s : State) : Nat := fget drpB fDRP_RUNG_DOMAIN s

/-- The package is in the floor state (R339). -/
def inFloor (s : State) : Bool := fget pwrB fPWR_STATUS_FLOOR s == 1

def coresOfDie (d : Nat) : List Nat := (List.range 64).map fun i => 64 * d + i
def admittedOn (d : Nat) (s : State) : List Nat := s.stool.admitted.filter fun c => c / 64 == d
/-- n_d (R328). -/
def nDie (d : Nat) (s : State) : Nat := (admittedOn d s).length

/-- PWR_STEP_ADMIT follows n_d. -/
def noteAdmit (s : State) : State :=
  forAll [0, 1, 2, 3] (fun d s => fset pwrB ⟨oPWR_STEP_ADMIT, 8 * d + 7, 8 * d⟩ (nDie d s) s) s

/-- A core is admitted: it no longer asks. -/
def admitCore (c : Nat) (s : State) : State :=
  noteAdmit { s with stool := { s.stool with
    admitted := s.stool.admitted ++ [c], ask := s.stool.ask.erase c, elig := s.stool.elig.erase c } }

/-- A core is released. -/
def release (c : Nat) (s : State) : State :=
  noteAdmit { s with stool := { s.stool with
    admitted := s.stool.admitted.erase c, ask := s.stool.ask.erase c, elig := s.stool.elig.erase c } }

/-- A core is released while it has work: it asks again, before every other core (R330). -/
def holdCore (c : Nat) (s : State) : State :=
  let t := release c s
  if (getCore c s).run.isSome then { t with stool := { t.stool with ask := c :: t.stool.ask } } else t

/-- The cores of a fenced cluster are never admitted (R328). -/
def admissible (c : Nat) (s : State) : Bool := cluOk (c / 8) s && !(getCore c s).inReset

/-- The engines of a core hold no instruction. -/
def coreQuiet (c : Nat) (s : State) : Bool := (getCore c s).q.all fun l => l.isEmpty

/-- None of the engines of a core has had an instruction for 1,024 ECLK cycles (R329). -/
def coreIdle (c : Nat) (s : State) : Bool := coreQuiet c s && decide ((getCore c s).lastUse + 1024 ≤ s.clk.ecnt)

/-- A running pre-ramp entry of the partition of die d: its N (R332). -/
def rampN (d : Nat) (s : State) : Option Nat :=
  match partOfDie s.cab.cur d with
  | none => none
  | some p => (((List.range 4).map fun i => s.pwr.ramps.getD (4 * p + i) ⟨0, 0, 0, 0, 0, 0, 0⟩).filter
      fun r => r.st == 2).foldl (fun a r => some (Nat.max (a.getD 0) r.n.toNat)) none

/-- A running pre-ramp entry keeps the cores of die d admitted. -/
def rampKeeps (d : Nat) (s : State) : Bool := match rampN d s with
  | none => false
  | some n => decide (nDie d s ≤ n)

/-- Eligible cores of die d that may be released, the longest-idle first (R329). -/
def releasable (d : Nat) (s : State) : Option Nat :=
  let l := s.stool.elig.filter fun c => c / 64 == d && s.stool.admitted.contains c && coreQuiet c s
    && ((getCore c s).run.isNone || coreIdle c s)
  l.foldl (fun a c => match a with
    | none => some c
    | some x => if (getCore c s).lastUse < (getCore x s).lastUse then some c else a) none

/-- The cores in the floor state's order of preference (R339): home cores of chambers in TIMED or CREDITED, in ascending
chamber ID, then the cores of the partition of the highest PART_PRIO (of equal ones the lowest), in ascending index. -/
def floorPref (s : State) : List Nat :=
  let homes := (s.col.chs.filter fun e => e.2.st == 2 || e.2.st == 3).flatMap fun e => homesOf e.2.desc
  let prio (p : Nat) : Nat := bitsOf (sectW s.cab.cur 6 3) (2 * p + 1) (2 * p)
  let best := (partList s.cab.cur).foldl (fun a p => match a with
    | none => some p
    | some x => if prio x < prio p then some p else a) none
  (homes ++ (match best with
    | none => []
    | some p => coresOfPart s.cab.cur p)).eraseDups

/-- The limit that a proposal to a slower rung puts on n_d before its T (R330). -/
def slowLimit (s : State) : Option Nat :=
  match s.drp.prop with
  | none => none
  | some a =>
    if inFloor s ∨ a.k.toNat ≤ curRung s then none else some (64 * dieAmps a.k.toNat / dieAmps (curRung s))

/-- NCLK cycles until P reaches the T of the armed proposal. -/
def ticksToT (s : State) : Nat :=
  match s.drp.prop with
  | none => 0
  | some a => if reaches48 s.clk.p a.t then 0 else (a.t - s.clk.p).toNat * divider (domRung s) / 6

/-- The Stepstool must release a core of die d now to be at the limit at T, and may take none in (R330). -/
def mustRelease (d : Nat) (s : State) : Bool := match slowLimit s with
  | none => false
  | some n => decide (n < nDie d s ∧ ticksToT s ≤ (nDie d s - n) * stoolTicks (curRung s))
def mayNotAdmit (d : Nat) (s : State) : Bool := match slowLimit s with
  | none => false
  | some n => decide (ticksToT s < (nDie d s + 1 - n) * stoolTicks (curRung s))

/-- The partition of die d holds more admitted cores than its admission limit, or as many (R334, step 4). -/
def partAdmitted (p : Nat) (s : State) : Nat :=
  (s.stool.admitted.filter fun c => partOfCore s.cab.cur c == some p).length
def overLimit (d : Nat) (s : State) : Bool := match partOfDie s.cab.cur d with
  | none => false
  | some p => decide (s.pwr.admLim.getD p 256 < partAdmitted p s)
def atLimit (d : Nat) (s : State) : Bool := match partOfDie s.cab.cur d with
  | none => false
  | some p => decide (s.pwr.admLim.getD p 256 ≤ partAdmitted p s)

/-- The core of die d that a forced release takes: one that may be released, else the core admitted last. -/
def victim (d : Nat) (s : State) : Option Nat := match releasable d s with
  | some c => some c
  | none => (admittedOn d s).getLast?

/-- A core that asks has work that waits for its admission (R328): a bundle that is ready, a chamber step, or a COPY or FILL on
a core without a program. -/
def coreWants (c : Nat) (s : State) : Bool :=
  (getCore c s).run.isNone || bundleReady c s || (liveChs s).any fun y => chTakes y.1 y.2 c 3 s

/-- The first core of die d that asks, has work ready and may be admitted. -/
def nextAsk (d : Nat) (s : State) : Option Nat :=
  s.stool.ask.find? fun c => c / 64 == d && admissible c s && coreWants c s

/-- A core of die d that a pre-ramp entry admits to run filler: the lowest that is not admitted. -/
def nextFiller (d : Nat) (s : State) : Option Nat :=
  (coresOfDie d).find? fun c => !s.stool.admitted.contains c && admissible c s

/-- Admission in the floor state: at most 8 cores of the package, by preference (R339). -/
def floorStool (d : Nat) (s : State) : Option State :=
  let pref := floorPref s
  let keep := (pref.filter s.stool.admitted.contains).take 8
  match (admittedOn d s).reverse.find? fun c => decide (8 < s.stool.admitted.length) && !keep.contains c with
  | some c => some (holdCore c s)
  | none =>
    match pref.find? fun c => s.stool.ask.contains c && admissible c s && coreWants c s with
    | some c => if c / 64 = d ∧ s.stool.admitted.length < 8 then some (admitCore c s)
        else (releasable d s).map fun x => release x s
    | none => (releasable d s).map fun x => release x s

/-- The release of an eligible core of die d (R329), unless a pre-ramp entry keeps the die's cores. -/
def idleRelease (d : Nat) (s : State) : Option State :=
  if rampKeeps d s then none else (releasable d s).map fun c => release c s

/-- Admission outside the floor state: one change at most (R328 to R330, R332). -/
def runStool (d : Nat) (s : State) : Option State :=
  if mustRelease d s || overLimit d s then (victim d s).map fun c => holdCore c s
  else
    let ramp : Bool := match rampN d s with
      | none => false
      | some n => decide (nDie d s < n)
    let cand := match nextAsk d s with
      | some c => some c
      | none => if ramp then nextFiller d s else none
    match cand with
    | some c => if mayNotAdmit d s || atLimit d s then idleRelease d s else some (admitCore c s)
    | none => idleRelease d s

/-- STEPSTOOL_ADMIT (R328): at most one core of a die per admission interval. -/
def stoolStep (d : Nat) (s : State) : State :=
  if isSafe s ∨ !elapsed (s.stool.last.getD d 0) (stoolTicks (curRung s)) s then s
  else match if inFloor s then floorStool d s else runStool d s with
    | none => s
    | some t => { t with stool := { t.stool with last := modAt d (fun _ => s.clk.now) t.stool.last } }

/-- n_d on the edge of a rung switch (R330). -/
def switchN (n r r' : Nat) : Nat := n * dieAmps r / dieAmps r'

/-- Die d on the edge of a switch from rung r to rung r' (R330): dropped cores are held; cores admitted on the edge are
those that ask, then idle ones, which run filler. -/
def switchDie (r r' d : Nat) (s : State) : State :=
  let n := nDie d s
  let m := switchN n r r'
  if m ≤ n then forAll ((admittedOn d s).drop m).reverse holdCore s
  else forAll (List.range (m - n)) (fun _ s => match nextAsk d s with
    | some c => admitCore c s
    | none => match nextFiller d s with
      | some c => admitCore c s
      | none => s) s

/-- The edge of a rung switch on every die. -/
def stoolSwitch (r r' : Nat) (s : State) : State := if r = r' then s else forAll [0, 1, 2, 3] (switchDie r r') s

/-- STEPSTOOL_ADMIT. -/
def execStepstoolAdmit (d : Fin 4) (s : State) : Host.Outcome State Fault Refusal := .next (stoolStep d.val s)

/-- CORE_IDLE_RELEASE (R329). -/
def execCoreIdleRelease (c : Fin 256) (s : State) : Host.Outcome State Fault Refusal :=
  .next (if s.stool.admitted.contains c.val ∧ !s.stool.elig.contains c.val ∧ coreIdle c.val s ∧ !rampKeeps (c.val / 64) s
    then { s with stool := { s.stool with elig := s.stool.elig ++ [c.val] } } else s)

/-! Pre-ramp entries (R332, R351). -/

def getRamp (e : Nat) (s : State) : Ramp := s.pwr.ramps.getD e ⟨0, 0, 0, 0, 0, 0, 0⟩
def setRamp (e : Nat) (x : Ramp) (s : State) : State :=
  { s with pwr := { s.pwr with ramps := modAt e (fun _ => x) s.pwr.ramps } }

/-- The requester reaches a pre-ramp entry (R351). -/
def rampReach (r : Requester) (e : Nat) (s : State) : Bool := isPf0 r || reqPart r s == some (e / 4)

/-- The checks of ARM of an entry (R332, R351). -/
def rampStatus (r : Requester) (e n hold : Nat) (s : State) : BitVec 8 :=
  firstFail [failIf (!rampReach r e s) stDENIED, failIf (decide (64 < n ∨ hold < 1 ∨ 20 < hold)) stLENGTH,
    failIf ((getRamp e s).st != 0 || !partExists s.cab.cur (e / 4) || inDrift s) stDENIED,
    failIf (armRange (getRamp e s).t s.clk.p) stLENGTH]

/-- RAMP_ARM: T as the entry's T registers hold it. N and HOLD_US of an EMPTY entry hold what was written; of an entry that
is ARMED or RUNNING nothing changes but the status of the command (R332). -/
def rampArmOp (r : Requester) (e n hold : Nat) (s : State) : State :=
  if !mayCommand r s then countDenied r s
  else
  let st := rampStatus r e n hold s
  let x : Ramp := { getRamp e s with cmd := 1, status := st }
  if !rampReach r e s || x.st != 0 then setRamp e x s
  else
    let y := { x with n := BitVec.ofNat 7 n, hold := BitVec.ofNat 8 hold }
    if st ≠ stOK then setRamp e y s
    else
      let gone := armPast x.t s.clk.p
      setRamp e { y with st := (if gone then 2 else 1), fired := s.clk.now } s

/-- Cores of the entry's dies that run only filler become eligible for release (R332). -/
def rampRelease (e : Nat) (s : State) : State :=
  let l := s.stool.admitted.filter fun c =>
    !s.stool.elig.contains c && partOfCore s.cab.cur c == some (e / 4) && coreQuiet c s && (getCore c s).run.isNone
  { s with stool := { s.stool with elig := s.stool.elig ++ l } }

/-- RAMP_DISARM. -/
def rampDisarmOp (r : Requester) (e : Nat) (s : State) : State :=
  let x := getRamp e s
  if !mayCommand r s then countDenied r s
  else if !rampReach r e s then setRamp e { x with cmd := 2, status := stDENIED } s
  else
    let t := setRamp e { x with cmd := 2, status := stOK, st := 0 } s
    if x.st = 2 then rampRelease e t else t

/-- RAMP_ARM. -/
def execRampArm (r : Requester) (e : Fin 16) (n : BitVec 7) (holdUs : BitVec 8) (s : State) :
    Host.Outcome State Fault Refusal := .next (rampArmOp r e.val n.toNat holdUs.toNat s)
/-- RAMP_DISARM. -/
def execRampDisarm (r : Requester) (e : Fin 16) (s : State) : Host.Outcome State Fault Refusal :=
  .next (rampDisarmOp r e.val s)

/-- RAMP_FIRE (R332). -/
def execRampFire (e : Fin 16) (s : State) : Host.Outcome State Fault Refusal :=
  .next (let x := getRamp e.val s
    if x.st = 1 ∧ reaches48 s.clk.p x.t then setRamp e.val { x with st := 2, fired := s.clk.now } s else s)

/-- RAMP_HOLD_EXPIRY (R332). -/
def execRampHoldExpiry (e : Fin 16) (s : State) : Host.Outcome State Fault Refusal :=
  .next (let x := getRamp e.val s
    if x.st = 2 ∧ elapsed x.fired (ticksUs * x.hold.toNat) s then rampRelease e.val (setRamp e.val { x with st := 0 } s)
    else s)

end Sys2Proof.Machine
end

