-- ==== Sys2Proof/Machine/Dripline.lean ====
section
/-! DEFINITION. Clocks and the Dripline: W, P and ECLK (R174 to R190), synchronisation (R191 to R197), pace domains and
rung changes (R198 to R208), the floor rung (R206, R326, R339), TS_PULSE (R210), the frames (R211). -/

namespace Sys2Proof.Machine

/-! Sync and pace states: SYNC 0 FREE, 1 ACQUIRE, 2 LOCKED, 3 HOLDOVER, 4 RELOCK, 5 MASTER; PACE 0 JOINING, 1 IN_PACE,
2 OUT_OF_PACE, 3 SLIP (R214). -/

def syncState (s : State) : Nat := fget drpB fDRP_STATUS_SYNC s
def paceState (s : State) : Nat := fget drpB fDRP_STATUS_PACE s

/-- A change that enters DRIFT sends every TIMED chamber on in credited mode (R280). -/
def driftEdge (f : State → State) (s : State) : State :=
  let t := f s
  if !inDrift s && inDrift t then chDrift t else t

/-- Moves the sync state. -/
def goSync (v : Nat) (s : State) : State := driftEdge (setSync v) s
/-- Moves the pace state. -/
def goPace (v : Nat) (s : State) : State := driftEdge (setPace v) s

/-- The pace state of a package that has joined: OUT_OF_PACE in the floor state. -/
def paceHome (s : State) : Nat := if inFloor s then 2 else 1

/-- DRP_MASTER: the named master, 0x7_FFFF while FREE (R214). -/
def noteMaster (s : State) : State :=
  fset drpB fDRP_MASTER_MASTER_EID (if syncState s = 0 then 0x7FFFF else s.drp.master.toNat) s

/-! The record of the domain and the keeper (R198 to R200). -/

def keeperCfg (s : State) : Nat := bitsOf (sectW s.cab.cur 8 1) 18 0
def backupCfg (s : State) : Nat := bitsOf (sectW s.cab.cur 8 2) 18 0
def keeperReg (s : State) : Nat := fget drpB fDRP_KEEPER_KEEPER_EID s

/-- This package is pace keeper: of a domain of its own, or named by the keeper in force (R198, R199). -/
def isKeeper (s : State) : Bool :=
  domainId s.cab.cur == 0 || keeperReg s == 0x7FFFF || keeperReg s == (ownEid s).toNat

/-- T of the last applied change. -/
def rungT (s : State) : BitVec 48 :=
  BitVec.ofNat 48 (fget drpB fDRP_RUNG_T_LO_P_LO s + 2 ^ 32 * fget drpB fDRP_RUNG_T_HI_P_HI s)
def setRungT (t : BitVec 48) (s : State) : State :=
  fset drpB fDRP_RUNG_T_LO_P_LO (t.toNat % 2 ^ 32) (fset drpB fDRP_RUNG_T_HI_P_HI (t.toNat / 2 ^ 32) s)
def rungSeq (s : State) : BitVec 16 := BitVec.ofNat 16 (fget drpB fDRP_RUNG_SEQ s)

/-- The record (R200). -/
def ownRecord (s : State) : DomRecord :=
  ⟨rungSeq s, BitVec.ofNat 3 (domRung s), rungT s, s.drp.wRef, s.drp.pRef⟩

/-! Frames (R211). -/

def frameHdr (dst : BitVec 19) (s : State) : FrameHdr := ⟨BitVec.ofNat 16 (domainId s.cab.cur), ownEid s, dst, 0⟩

/-- The lowest-numbered trained port of a plane (R192). -/
def planePort (q : Nat) (s : State) : Option Nat := (List.range 32).find? fun p => p % 8 == q && portUp p s

/-- Sends a frame on one plane. -/
def dripOn (q : Nat) (f : DripFrame) (s : State) : State :=
  match planePort q s with
  | none => s
  | some p => queueItem p (.drip f) s

/-- Sends a frame on every plane. -/
def dripAll (f : DripFrame) (s : State) : State := forAll (List.range 8) (fun q => dripOn q f) s

/-- The packages of the slices that hold this package: they belong to its domain (R198). -/
def sliceEids (s : State) : List (BitVec 19) :=
  (s.gzl.rows.filter fun r => r.st == 1).flatMap fun r => r.eids.filterMap fun e =>
    if e.1 < r.size.toNat then e.2 else none

/-- The members of the domain that this package knows, without itself: those that it has heard from (R201) and those of its
slices (R198, log entry 40). -/
def members (s : State) : List (BitVec 19) :=
  if domainId s.cab.cur = 0 then []
  else ((((s.drp.ceilings.filter fun e => e.2.isSome).map fun e => BitVec.ofNat 19 e.1) ++ sliceEids s).eraseDups).filter
    fun e => e != ownEid s

/-- Sends a frame to every member, on every plane. -/
def toMembers (f : FrameHdr → DripFrame) (s : State) : State :=
  forAll (members s) (fun e s => dripAll (f (frameHdr e s)) s) s

/-- The EID of the keeper in force. -/
def keeperEid (s : State) : BitVec 19 := if isKeeper s then ownEid s else BitVec.ofNat 19 (keeperReg s)

/-- A frame of this package's own domain (R211); in the safe state it is dropped (R28, R252). -/
def ownFrame (h : FrameHdr) (s : State) : Bool :=
  h.domain.toNat == domainId s.cab.cur && h.dst == ownEid s && h.src != ownEid s && s.clk.locked && !isSafe s

/-! Voltage (R324, R326) and the edge of ECLK (R178, R330). -/

/-- VCORE of a rung, in mV (R324). -/
def rungMv : Nat → Nat
  | 0 => 850
  | 1 => 780
  | 2 => 740
  | 3 => 680
  | 4 => 620
  | _ => 580

/-- The setpoint of a rung goes to the regulator. -/
def setVcore (k : Nat) (s : State) : State := { s with pwr := { s.pwr with vcore := rungMv k, vcoreDue := none } }

/-- The setpoint of a slower rung goes to the regulator 10 µs from now (R326). -/
def laterVcore (k : Nat) (s : State) : State :=
  { s with pwr := { s.pwr with vcoreDue := some (s.clk.now + 10 * ticksUs, rungMv k) } }

/-- The setpoint that has waited its 10 µs is sent. -/
def vcoreTick (s : State) : State :=
  match s.pwr.vcoreDue with
  | none => s
  | some x => if x.1 ≤ s.clk.now then { s with pwr := { s.pwr with vcore := x.2, vcoreDue := none } } else s

/-- The setpoint around a switch of ECLK from rung r to rung k: the one of a faster rung stands before the switch, the one of
a slower rung follows 10 µs later (R326). -/
def switchVcore (r k : Nat) (s : State) : State :=
  if k < r then setVcore k s else if r < k then laterVcore k s else s

/-- ECLK switches to a rung. The ECLK cycle under way is not cut: the first cycle at the new rung begins at its end (R178). -/
def eclkSwitch (k : Nat) (s : State) : State :=
  let r := curRung s
  stoolSwitch r k (switchVcore r k (fset drpB fDRP_RUNG_CUR k s))

/-- The root cycles until the next edge of P. -/
def pLeft (s : State) : Nat := divider (domRung s) - s.clk.pFrac

/-- The ECLK cycle under way ends on the first edge of P at or after its own end: ECLK edges fall on P edges (R178, R187). -/
def eclkAlign (s : State) : State :=
  let d := divider (domRung s)
  { s with clk := { s.clk with eLeft := s.clk.eLeft + (pLeft s + d - s.clk.eLeft % d) % d } }

/-- ECLK of a package in pace runs at the domain rung, on the edges of P. -/
def eclkInPace (k : Nat) (s : State) : State := eclkAlign (eclkSwitch k s)

/-- ECLK is high: the first ⌈d / 2⌉ root cycles of a cycle of d, and what stretches it (R178). -/
def eclkHigh (s : State) : Bool := eclkRuns s && decide (s.clk.eDiv - s.clk.eLeft < (s.clk.eDiv + 1) / 2)

/-- The last root edge on which W and P both advanced, with the values of both (R200). Where P has no edge in common with NCLK,
the pair of this NCLK edge (log entry 40). -/
def lastPair (s : State) : BitVec 48 × BitVec 48 :=
  let d := divider (domRung s)
  match (List.range d).find? fun j => decide (6 * j % d = s.clk.pFrac ∧ s.clk.pFrac ≤ 6 * j) with
  | none => (s.clk.w, s.clk.p)
  | some j => (s.clk.w - BitVec.ofNat 48 j, s.clk.p - BitVec.ofNat 48 ((6 * j - s.clk.pFrac) / d))

def notePair (s : State) : State := { s with drp := { s.drp with wRef := (lastPair s).1, pRef := (lastPair s).2 } }

/-- The root cycles until ECLK leaves the floor rung (R206): the first root edge that begins a ÷24 cycle and is an edge of P.
Where there is none, the first edge of P at or after the end of the ÷24 cycle under way (log entry 40). -/
def floorLeft (s : State) : Nat :=
  let d := divider (domRung s)
  let e := s.clk.eLeft
  match (List.range d).find? fun j => decide ((e + 24 * j + s.clk.pFrac) % d = 0) with
  | some j => e + 24 * j
  | none => (eclkAlign s).clk.eLeft

/-- ECLK that waits to leave the floor rung follows a change of the edges of P. -/
def noteFloorEnd (s : State) : State :=
  { s with drp := { s.drp with floorEnd := s.drp.floorEnd.map fun _ => floorLeft s } }

/-- P and its phase take new values, on the root and on every replica. -/
def setP (q : BitVec 48) (frac : Nat) (s : State) : State :=
  let delta := q - s.clk.p
  { s with clk := { s.clk with p := q, pFrac := frac,
                               replicas := s.clk.replicas.map fun r => { r with p := r.p + delta } } }

/-- A rung change is recorded (R200, R202): SEQ, RUNG and T, and P counts at the rung from now on. -/
def recordRung (seq : BitVec 16) (k : Nat) (t : BitVec 48) (s : State) : State :=
  let slower : Bool := decide (domRung s < k)
  let s := { s with drp := { s.drp with
    prop := none, seqLast := seq, lastLower := if slower then some s.clk.now else s.drp.lastLower } }
  fset drpB fDRP_RUNG_DOMAIN k (fset drpB fDRP_RUNG_SEQ seq.toNat (setRungT t (fset drpB fDRP_RUNG_ARMED 0 s)))

/-- Sends BEACON to every member. -/
def sendBeacon (s : State) : State :=
  toMembers (fun h => .beacon h (ownRecord s)) { s with drp := { s.drp with lastBeacon := s.clk.now } }

/-- The switch of a rung change has been made: ECLK follows if IN_PACE, the event is set, the keeper's change is over, and the
keeper sends BEACON with the new record (R202, R203). -/
def rungDone (k : Nat) (s : State) : State :=
  let s := notePair (noteFloorEnd (if paceState s = 1 then eclkInPace k s else s))
  let s := evt drpB eDRP_EVENT_RUNG_DONE { s with drp := { s.drp with change := none } }
  if isKeeper s then sendBeacon s else s

/-- The cycles that P has counted at the old rung since T are counted again at rung k, from cycle T on (R202); ECLK, if IN_PACE,
with them. -/
def recount (k : Nat) (t : BitVec 48) (s : State) : State :=
  let n := (s.clk.p - t).toNat
  let x := n * divider (domRung s) + s.clk.pFrac
  let d := divider k
  let move (c : Nat) : Nat := c - n + x / d
  let s := { s with clk := { s.clk with
    pCount := move s.clk.pCount,
    ecnt := if paceState s = 1 then move s.clk.ecnt else s.clk.ecnt,
    eLeft := if paceState s = 1 then d - x % d else s.clk.eLeft,
    eDiv := if paceState s = 1 then d else s.clk.eDiv } }
  setP (t + BitVec.ofNat 48 (x / d)) (x % d) s

/-- The switch at T of the armed proposal (R202, R203). -/
def applyProp (a : ArmedProp) (s : State) : State :=
  rungDone a.k.toNat (recordRung a.seq a.k.toNat a.t (recount a.k.toNat a.t s))

/-- The proposal that a step of P has passed is applied on the edge of the step (R190). -/
def passProp (a : ArmedProp) (s : State) : State :=
  let d := divider a.k.toNat
  rungDone a.k.toNat (setP (s.clk.p + BitVec.ofNat 48 (s.clk.pFrac / d)) (s.clk.pFrac % d)
    (recordRung a.seq a.k.toNat a.t s))

/-- An armed proposal whose T P has reached is applied (R202, R208). -/
def dueRung (s : State) : State :=
  match s.drp.prop with
  | none => s
  | some a => if reaches48 s.clk.p a.t ∧ !isSafe s then applyProp a s else s

/-! Steps of W and P (R190). -/

/-- A forward step of P from p to q passes t. -/
def stepsPast (p q t : BitVec 48) : Bool := reaches48 q p && !reaches48 p t && reaches48 q t

/-- P steps (R190): armed entries that it passes do not fire and end with LATE; a proposal that it passes is applied. While
IN_PACE, the edges of ECLK follow those of P. -/
def stepP (q : BitVec 48) (frac : Nat) (s : State) : State :=
  let p := s.clk.p
  let s := { s with clk := { s.clk with p := q, pFrac := frac,
                                        replicas := s.clk.replicas.map fun r => { r with p := q } } }
  let late := s.insts.filter fun i => !i.waiting.isEmpty && (match i.t with
    | none => false
    | some t => stepsPast p q t)
  let s := noteFloorEnd (forAll late (fun i => cancelInst i.id stLATE) s)
  let s := if paceState s = 1 then eclkAlign s else s
  match s.drp.prop with
  | none => s
  | some a => if stepsPast p q a.t then passProp a s else s

/-- P after so many root cycles of the domain rung from a value and phase. -/
def pAfter (p : BitVec 48) (frac : Int) (root : Int) (k : Nat) : BitVec 48 × Nat :=
  let x := frac + root
  (p + BitVec.ofInt 48 (x / (divider k : Int)), (x % (divider k : Int)).toNat)

/-- W and the epoch step by e, in 1/256 tick. -/
def stepW (e : Int) (s : State) : State :=
  let v := (s.clk.epoch.toNat : Int) * 2 ^ 48 + s.clk.w.toNat + e / 256
  let w := BitVec.ofInt 48 v
  let ep := BitVec.ofInt 16 (v / 2 ^ 48)
  { s with clk := { s.clk with w := w, epoch := ep,
                               replicas := s.clk.replicas.map fun r => { r with w := w, epoch := ep } } }

/-- W and P step by the estimate (R192, R195); offsets taken before the step are void. -/
def stepBoth (e : Int) (s : State) : State :=
  let s := stepW e { s with drp := { s.drp with offsets := [], inBand := 0 } }
  let q := pAfter s.clk.p s.clk.pFrac (e * 6 / 256) (domRung s)
  notePair (stepP q.1 q.2 s)

/-! Rung requests and ceilings (R201, R208). -/

/-- The ceiling that this package reports: 5 in the floor state, else the fastest allowed rung that the power and thermal
ceilings allow, and slower than a rung that is no longer allowed. -/
def ownCeiling (s : State) : Nat :=
  if inFloor s then 5
  else
    let m := Nat.max (fget pwrB fPWR_STATUS_CEIL_PWR s) (fget pwrB fPWR_STATUS_CEIL_THERM s)
    let m := if rungAllowed s.cab.cur (curRung s) then m else Nat.max m (curRung s + 1)
    ((List.range 6).find? fun k => decide (m ≤ k) && rungAllowed s.cab.cur k).getD 5

def noteCeilOf (eid : BitVec 19) (k : Nat) (s : State) : State :=
  { s with drp := { s.drp with ceilings := tset (fun _ => none) eid.toNat (some (BitVec.ofNat 3 k)) s.drp.ceilings } }

/-- Reports the ceiling to the keeper. -/
def sendCeiling (s : State) : State :=
  let k := fget drpB fDRP_RUNG_CEILING s
  let s := { s with drp := { s.drp with lastReq := some s.clk.now } }
  if isKeeper s then noteCeilOf (ownEid s) k s else dripAll (.rungReq (frameHdr (keeperEid s) s) (BitVec.ofNat 3 k)) s

/-- The ceiling follows its causes, and a change is reported at once (R201). -/
def noteCeiling (s : State) : State :=
  let k := ownCeiling s
  if k = fget drpB fDRP_RUNG_CEILING s then s else sendCeiling (fset drpB fDRP_RUNG_CEILING k s)

/-! Joining (R205). -/

/-- The DRP registers that show the DRIPLINE section in force. -/
def noteDomain (s : State) : State :=
  let s := fset drpB fDRP_STATUS_DOMAIN_ID (domainId s.cab.cur) s
  let s := fset drpB fDRP_KEEPER_KEEPER_EID (if domainId s.cab.cur = 0 then 0x7FFFF else keeperCfg s) s
  let s := fset drpB fDRP_STATUS_KEEPER (isKeeper s).toNat s
  fset drpB fDRP_PULSE_PULSE (sectW s.cab.cur 8 3) s

def askRecord (s : State) : State := dripAll (.recordReq (frameHdr (keeperEid s) s)) s

/-- The package joins the domain of the keeper in force: JOINING until it has the record; a domain of its own is joined at once
(R205). -/
def rejoin (s : State) : State :=
  let s := goPace 0 s
  if isKeeper s then
    let s := goPace (paceHome s) (notePair s)
    if inFloor s then s else eclkInPace (domRung s) s
  else askRecord s

/-- The package joins the domain that the DRIPLINE section in force names (R205). -/
def joinDomain (s : State) : State := rejoin (noteDomain s)

/-! Time (R174, R186, R187). -/

/-- The registers that count NCLK cycles of a virtual lane held by XOFF, and held core-cycles of ECLK. -/
def stallTick (s : State) : State :=
  forAll ((List.range 32).filter fun p => portUp p s) (fun p s =>
    let x := getPort p s
    forAll ((List.range 8).filter fun v => x.xoffRx.getLsbD v && !(x.egress.getD v []).isEmpty)
      (fun v => fadd (fabB p) ⟨oFAB_STALL_VL0 + 4 * v, 31, 0⟩ 1) s) s

/-- A core is clocked (R183, R323): in service, out of reset and not idle. DESIGN CHOICE (log entry 88): idle is a core that
runs no program and holds no instruction. -/
def coreClocked (c : Nat) (s : State) : Bool :=
  cluOk (c / 8) s && !(getCore c s).inReset && ((getCore c s).run.isSome || !coreQuiet c s)

/-- The counters of one core over e edges (R396): the cycles in which an engine holds an instruction, and those with a bundle
that a wait holds. -/
def busyTick (e c : Nat) (s : State) : State :=
  let k := getCore c s
  let s := forAll ((List.range 4).filter fun i => !(k.q.getD i []).isEmpty) (fun i => countEvt (ctrCore c) (0x11 + i) e) s
  if k.run.isSome && fget (coreB c) fCORE_PROG_STATUS_STATE s == 2 && !s.stool.ask.contains c then
    countEvt (ctrCore c) 0x16 e s
  else s

/-- The counters of CYCLES (R396): e edges of ECLK at the cores and clusters that are clocked, m of MCLK, one of NCLK; cycles of
a core that the Stepstool holds, and of a port with a virtual lane held by XOFF. -/
def cycleTick (e m : Nat) (s : State) : State :=
  let on := (List.range 256).filter fun c => coreClocked c s
  let s := forAll on (fun c => countEvt (ctrCore c) 0x02 e) s
  let s := forAll ((on.map (· / 8)).eraseDups) (fun k => countEvt (ctrClu k) 0x02 e) s
  let s := forAll (List.range 4) (fun d => countEvt (ctrDie d) 0x02 1) s
  let s := forAll (List.range 32) (fun p => countEvt (ctrFab p) 0x02 1) s
  let s := forAll (List.range 20) (fun st => countEvt (ctrMem st) 0x02 m) s
  let s := forAll ((List.range 32).filter fun p => (getPort p s).xoffRx != 0) (fun p => countEvt (ctrFab p) 0x44 1) s
  let s := forAll (s.stool.ask.filter (coreWants · s)) (fun c => countEvt (ctrCore c) 0x17 e) s
  let s := forAll ((s.cores.map Prod.fst).filter fun c => coreClocked c s) (busyTick e) s
  countEvt ctrQm 0x02 1 (countEvt ctrCol 0x02 1 s)

/-- The memory admission in force (R334, R339): 1/64 in the floor state. -/
def noteMem (s : State) : State :=
  let f := if inFloor s then 1 else s.pwr.memF
  fset pwrB fPWR_STATUS_MEM_LIMITED (if f < 64 then 1 else 0) (fset pwrB fPWR_MEM_ADMIT f s)

/-- ECLK leaves the floor rung within the next NCLK cycle, n root cycles from here (R206): the floor state ends, IN_PACE. A package
that still lacks the record of its domain goes on JOINING (R205, log entry 40). -/
def floorSwitch (n : Nat) (s : State) : State :=
  let s := fset pwrB fPWR_STATUS_FLOOR 0 { s with
    clk := { s.clk with eLeft := n }, drp := { s.drp with floorWait := false, floorEnd := none } }
  let s := eclkSwitch (domRung s) s
  let s := if paceState s = 2 then goPace (if s.drp.owed then 0 else 1) s else s
  noteCeiling (noteMem { s with drp := { s.drp with owed := false } })

/-- The wait for the edge on which the floor state ends goes on. -/
def floorTick (s : State) : State :=
  match s.drp.floorEnd with
  | none => s
  | some n => if n ≤ 6 then floorSwitch n s else { s with drp := { s.drp with floorEnd := some (n - 6) } }

/-- The edges of ECLK in six root cycles, and the root cycles then left of its cycle (R178). -/
def eclkEdges (left d : Nat) : Nat × Nat :=
  if 6 < left then (0, left - 6) else (1 + (6 - left) / d, d - (6 - left) % d)

/-- The clocks advance over one NCLK cycle (R174, R186, R187): W, the epoch, P at the domain rung, ECLK at its own rung, the
replicas; the number of ECLK edges. -/
def clockTick (s : State) : Nat × State :=
  let d := divider (domRung s)
  let c := divider (curRung s)
  let x := s.clk.pFrac + 6
  let y := eclkEdges s.clk.eLeft c
  let edges := if eclkRuns s then y.1 else 0
  let w := s.clk.w + 1
  let ep := if w = 0 then s.clk.epoch + 1 else s.clk.epoch
  (edges, { s with clk := { s.clk with
    now := s.clk.now + 1, w := w, epoch := ep, p := s.clk.p + BitVec.ofNat 48 (x / d), pFrac := x % d,
    pCount := s.clk.pCount + x / d, eLeft := if eclkRuns s then y.2 else s.clk.eLeft,
    eDiv := if edges = 0 then s.clk.eDiv else c, mFrac := (s.clk.mFrac + 6) % 8, ecnt := s.clk.ecnt + edges,
    replicas := s.clk.replicas.map fun (r : Replica) => ⟨r.w + 1, if r.w + 1 = 0 then r.epoch + 1 else r.epoch,
      r.p + BitVec.ofNat 48 (x / d)⟩ } })

/-- One NCLK edge (R174, R186, R187), once the root PLL has locked. A ceiling that samples or the controller have changed since the
last edge is reported once, the slower of the two (R337). -/
def tickOp (s : State) : State :=
  if !s.clk.locked then s
  else
    let m := (s.clk.mFrac + 6) / 8
    let r := clockTick (noteCeiling (floorTick s))
    let edges := r.1
    let s := vcoreTick r.2
    let s := if s.clk.pFrac = 0 then { s with drp := { s.drp with wRef := s.clk.w, pRef := s.clk.p } } else s
    let s := match s.drp.pulseEnd with
      | none => s
      | some t => if t ≤ s.clk.now then { s with drp := { s.drp with pulseEnd := none } } else s
    let s := if s.clk.w = 0 then evt drpB eDRP_EVENT_EPOCH_WRAP s else s
    let held := (s.stool.ask.filter (coreWants · s)).length
    let s := if held = 0 then s else fadd pwrB fPWR_STEP_HOLD_CYCLES (edges * held) s
    cycleTick edges m (stallTick s)

/-- What the block does while no command waits: one NCLK edge passes, once the root PLL has locked (R174). -/
def idleOp (s : State) : State := tickOp s

/-- EPOCH_WRAP (R186): the NCLK edge on which W passes to 0. -/
def execEpochWrap (s : State) : Host.Outcome State Fault Refusal :=
  .next (if s.clk.w = 0xFFFFFFFFFFFF then tickOp s else s)

/-! Synchronisation (R191 to R197). -/

/-- The time master is named (R191, R195, R310). -/
def nameMaster (eid : BitVec 19) (s : State) : State :=
  let named : Bool := s.drp.master == eid
  let s := { s with drp := { s.drp with master := eid } }
  if eid = ownEid s then
    if syncState s = 5 then s
    else noteMaster (fset drpB fDRP_OFFSET_E_PS 0 (goSync 5 (evt drpB eDRP_EVENT_MASTER_CHG s)))
  else if syncState s = 5 then
    let s := { s with drp := { s.drp with holdStart := s.clk.now, offsets := [], inBand := 0 } }
    noteMaster (goSync 3 (evt drpB eDRP_EVENT_HOLDOVER (evt drpB eDRP_EVENT_MASTER_CHG s)))
  else if named then noteMaster s
  else noteMaster (evt drpB eDRP_EVENT_MASTER_CHG s)

/-- The rack of an EID (R295). -/
def rackOf (e : BitVec 19) : Nat := e.toNat / 64

/-- The package with which this one exchanges time (R191, R192): a member its master; the master of a rack, in a domain whose
keeper lies in another rack, the master of the keeper's rack. -/
def syncPeer (s : State) : Option (BitVec 19) :=
  let k := keeperEid s
  if s.drp.master = 0x7FFFF then none
  else if syncState s ≠ 5 then (if s.drp.master = ownEid s then none else some s.drp.master)
  else if domainId s.cab.cur = 0 ∨ rackOf k = rackOf (ownEid s) then none
  else some (Config.rackMaster k)

/-- SYNC_EXCHANGE_START (R192): every 1 ms on a plane; t1 is stamped as the frame departs (R193). -/
def exchStart (q : Nat) (frac : BitVec 8) (s : State) : State :=
  let due : Bool := match tget (fun _ => none) s.drp.exchT q with
    | none => true
    | some t => elapsed t ticksMs s
  match syncPeer s with
  | none => s
  | some m =>
    if !s.clk.locked ∨ !due ∨ (planePort q s).isNone ∨ isSafe s then s
    else
      let n := s.drp.exchNo + 1
      dripOn q (.syncReq (frameHdr m s) n) { s with drp := { s.drp with
        exchNo := n, exch := tset (fun _ => none) q (some (n, stampAt frac s)) s.drp.exch,
        exchT := tset (fun _ => none) q (some s.clk.now) s.drp.exchT } }

/-- SYNC_REQ (R192, R193): the master stamps the arrival; the departure of its answer is stamped as the frame leaves. -/
def syncReqOp (h : FrameHdr) (exch : BitVec 16) (t1 : BitVec 56) (frac2 frac3 : BitVec 8) (s : State) : State :=
  if syncState s ≠ 5 ∨ h.dst ≠ ownEid s ∨ isSafe s then s
  else routeItem (.drip (.syncResp (frameHdr h.src s) exch t1 (stampAt frac2 s) (stampAt frac3 s) s.clk.epoch)) s

/-- The signed difference of two timestamps. -/
def tsDiff (a b : BitVec 56) : Int := (a - b).toInt

/-- The offset of one exchange, in 1/256 tick (R192). -/
def exchOffset (t1 t2 t3 t4 : BitVec 56) (c1 c2 : BitVec 32) : Int :=
  ((tsDiff t2 t1 - c1.toNat) - (tsDiff t4 t3 - c2.toNat)) / 2

/-- The median of a list of offsets; of an even number the mean of the middle two. -/
def median (l : List Int) : Int :=
  let m := l.mergeSort
  let n := m.length
  if n % 2 = 1 then m.getD (n / 2) 0 else (m.getD (n / 2 - 1) 0 + m.getD (n / 2) 0) / 2

/-- An offset in 1/256 tick is at most so many ns; a tick is 0.625 ns. -/
def withinNs (e : Int) (ns : Nat) : Bool := decide (e.natAbs * 5 ≤ ns * 2048)

/-- DRIFT_NS and HOLDOVER_MS as they act (R214). -/
def driftNs (s : State) : Nat := Nat.min 16 (Nat.max 4 (fget drpB fDRP_CFG_DRIFT_NS s))
def holdoverMs (s : State) : Nat := Nat.min 2000 (fget drpB fDRP_CFG_HOLDOVER_MS s)

/-- The package enters RELOCK. -/
def toRelock (s : State) : State :=
  goSync 4 (evt drpB eDRP_EVENT_DRIFT { s with drp := { s.drp with inBand := 0 } })

/-- The correction of the servo after an estimate: within the limit of the sync state (R195), higher where e is positive, so that
the clocks run faster, lower where it is negative (R192); its size is a free value. -/
def servo (e : Int) (s : State) : State :=
  let lim : Int := if syncState s = 1 ∨ syncState s = 4 then 100000000 else 1000000
  let cur : Int := max (-lim) (min lim (regGet (drpB + oDRP_FREQ) s).toInt)
  let f : Int := ((Config.freeWord s.freeCtr).toNat : Int)
  let v := if 0 < e ∧ cur < lim then cur + 1 + f % (lim - cur)
    else if e < 0 ∧ -lim < cur then cur - 1 - f % (cur + lim)
    else cur
  regSet (drpB + oDRP_FREQ) (BitVec.ofInt 32 v) (bumpFree s)

/-- An estimate in ACQUIRE or RELOCK: a step beyond 1 µs, LOCKED once 16 in a row were in band. At the end of ACQUIRE the package
joins under the keeper in force, a take-over by the backup included (R199, R205). -/
def acquire (e : Int) (s : State) : State :=
  if !withinNs e 1000 then noteCeiling (stepBoth e s)
  else
    let n := if withinNs e 4 then s.drp.inBand + 1 else 0
    let s := { s with drp := { s.drp with inBand := n } }
    if n < 16 then s
    else
      let was := syncState s
      let s := goSync 2 s
      if was = 1 then rejoin s else s

/-- The first estimate in FREE (R195): W and the epoch take the master's values. -/
def firstEstimate (e : Int) (t3 : BitVec 56) (epoch : BitVec 16) (s : State) : State :=
  let s := stepW e { s with drp := { s.drp with offsets := [], inBand := 0 } }
  let m : BitVec 48 := BitVec.ofNat 48 (t3.toNat / 256)
  let ep := if s.clk.w.toNat < m.toNat ∧ reaches48 s.clk.w m then epoch + 1 else epoch
  noteMaster (goSync 1 { s with clk := { s.clk with epoch := ep,
                                                    replicas := s.clk.replicas.map fun r => { r with epoch := ep } } })

/-- An estimate acts by the table of R195; E_PS reads 0 in MASTER (R214). -/
def estimate (e : Int) (t3 : BitVec 56) (epoch : BitVec 16) (s : State) : State :=
  let s := regSet (drpB + oDRP_OFFSET) (if syncState s = 5 then 0 else BitVec.ofInt 32 (e * 5000 / 2048))
    { s with drp := { s.drp with lastEst := some s.clk.now } }
  let s := match syncState s with
    | 0 => firstEstimate e t3 epoch s
    | 1 => acquire e s
    | 4 => acquire e s
    | 2 => if withinNs e (driftNs s) then s else toRelock s
    | 3 => if withinNs e (driftNs s) then goSync 2 s else toRelock s
    | _ => s
  servo e s

/-- SYNC_RESP (R192, R195). -/
def syncRespOp (h : FrameHdr) (q : Nat) (exch : BitVec 16) (t2 t3 : BitVec 56) (frac : BitVec 8) (reqCorr : BitVec 32)
    (epoch : BitVec 16) (s : State) : State :=
  match tget (fun _ => none) s.drp.exch q with
  | none => s
  | some x =>
    if x.1 ≠ exch ∨ h.dst ≠ ownEid s ∨ some h.src ≠ syncPeer s ∨ !s.clk.locked ∨ isSafe s then s
    else
      let o := exchOffset x.2 t2 t3 (stampAt frac s) reqCorr h.corr
      let s := { s with drp := { s.drp with
        exch := tset (fun _ => none) q none s.drp.exch,
        offsets := tset (fun _ => none) q (some (o, s.clk.now)) s.drp.offsets } }
      let l := (List.range 8).filterMap fun i => match tget (fun _ => none) s.drp.offsets i with
        | none => none
        | some y => if elapsed y.2 (4 * ticksMs) s then none else some y.1
      estimate (median l) t3 epoch s

/-- SYNC_EXCHANGE_START. -/
def execSyncExchangeStart (plane : Fin 8) (frac : BitVec 8) (s : State) : Host.Outcome State Fault Refusal :=
  .next (exchStart plane.val frac s)
/-- SYNC_REQ. -/
def execSyncReq (h : FrameHdr) (exch : BitVec 16) (t1 : BitVec 56) (frac2 frac3 : BitVec 8) (s : State) :
    Host.Outcome State Fault Refusal := .next (syncReqOp h exch t1 frac2 frac3 s)
/-- SYNC_RESP: t1 is the member's own record of the exchange. -/
def execSyncResp (h : FrameHdr) (plane : Fin 8) (exch : BitVec 16) (_t1 t2 t3 : BitVec 56) (frac : BitVec 8)
    (reqCorr : BitVec 32) (epoch : BitVec 16) (s : State) : Host.Outcome State Fault Refusal :=
  .next (syncRespOp h plane.val exch t2 t3 frac reqCorr epoch s)

/-- ESTIMATE_TIMEOUT (R195). -/
def execEstimateTimeout (s : State) : Host.Outcome State Fault Refusal :=
  .next (let late : Bool := match s.drp.lastEst with
      | none => true
      | some t => elapsed t (4 * ticksMs) s
    if syncState s = 2 ∧ late then
      goSync 3 (evt drpB eDRP_EVENT_HOLDOVER { s with drp := { s.drp with holdStart := s.clk.now } })
    else s)

/-- HOLDOVER_EXPIRY (R195). -/
def execHoldoverExpiry (s : State) : Host.Outcome State Fault Refusal :=
  .next (if syncState s = 3 ∧ elapsed s.drp.holdStart (holdoverMs s * ticksMs) s then toRelock s else s)

/-! Rung changes (R201 to R203, R207). -/

/-- The least lead of a proposal, in counts of P at the current rung: 48,000 at ÷4 (R203). -/
def minLead (s : State) : Nat := 192000 / divider (domRung s)

/-- The status with which a member refuses a proposal, or OK. -/
def propStatus (k : BitVec 3) (t : BitVec 48) (s : State) : BitVec 8 :=
  let lead := (t - s.clk.p).toNat
  firstFail [failIf (!rungAllowed s.cab.cur k.toNat || decide (5 < k.toNat)) stDENIED,
    failIf (decide (lead < minLead s)) stLATE, failIf (mgmtPlane s != 1) stDRAINING]

/-- The keeper's change takes an acknowledgement or a refusal of a member. -/
def noteAck (eid : BitVec 19) (seq : BitVec 16) (s : State) : State :=
  let f (c : KeeperChange) : KeeperChange :=
    if c.seq = seq ∧ !c.acks.contains eid then { c with acks := eid :: c.acks } else c
  { s with drp := { s.drp with change := s.drp.change.map f } }
def noteNak (eid : BitVec 19) (seq : BitVec 16) (s : State) : State :=
  let f (c : KeeperChange) : KeeperChange := if c.seq = seq then { c with naks := eid :: c.naks } else c
  { s with drp := { s.drp with change := s.drp.change.map f } }

/-- An acknowledgement or refusal reaches the keeper: this package's own change, or a frame. -/
def answerAck (keeper : BitVec 19) (seq : BitVec 16) (s : State) : State :=
  if keeper = ownEid s then noteAck keeper seq s else dripAll (.rungAck (frameHdr keeper s) seq) s
def answerNak (keeper : BitVec 19) (seq : BitVec 16) (st : BitVec 8) (s : State) : State :=
  if keeper = ownEid s then noteNak keeper seq s else dripAll (.rungNak (frameHdr keeper s) seq st) s

/-- A member takes a proposal (R203): a faster rung waits for the regulator before its RUNG_ACK. -/
def takeProp (keeper : BitVec 19) (seq : BitVec 16) (k : BitVec 3) (t : BitVec 48) (s : State) : State :=
  if s.drp.prop.isSome ∨ !newer16 seq (rungSeq s) then s
  else
    let st := propStatus k t s
    if st ≠ stOK then answerNak keeper seq st s
    else
      let up : Bool := decide (k.toNat < domRung s)
      let s := fset drpB fDRP_RUNG_ARMED 1 { s with drp := { s.drp with
        prop := some ⟨seq, k, t, keeper, !up, up⟩, seqLast := seq } }
      if up then s else answerAck keeper seq s

/-- An armed proposal is aborted before its T (R203, R330). -/
def dropProp (seq : BitVec 16) (s : State) : State :=
  match s.drp.prop with
  | none => s
  | some a =>
    if a.seq ≠ seq ∨ reaches48 s.clk.p a.t then s
    else
      let s := fset drpB fDRP_RUNG_ARMED 0 { s with drp := { s.drp with prop := none } }
      let s := if a.raised ∧ a.acked then
          laterVcore (if s.drp.floorWait || s.drp.floorEnd.isSome then domRung s else curRung s) s
        else s
      evt drpB eDRP_EVENT_RUNG_ABORT s

/-- The domain rung that the keeper wants: the slowest of the target and the ceilings (R201). -/
def wantedRung (s : State) : Nat :=
  (s.drp.ceilings.filterMap Prod.snd).foldl (fun m c => Nat.max m c.toNat)
    (Nat.max (fget drpB fDRP_RUNG_TARGET_TARGET s) (ownCeiling s))

/-- The keeper may propose: no change in flight, no raise within 10 ms of a lowering, 1 ms after an abort. -/
def mayPropose (k : Nat) (s : State) : Bool :=
  let ok (o : Option Nat) (d : Nat) : Bool := match o with
    | none => true
    | some t => elapsed t d s
  isKeeper s && s.drp.change.isNone && s.drp.prop.isNone && mgmtPlane s == 1 && s.clk.locked && !isSafe s
    && paceState s != 0 && paceState s != 3
    && (decide (domRung s ≤ k) || ok s.drp.lastLower (10 * ticksMs)) && ok (s.drp.lastAbort.map Prod.snd) ticksMs

/-- The keeper proposes a rung (R202): T lies 80 µs ahead at the current rung. -/
def propose (k : Nat) (s : State) : State :=
  let seq := s.drp.seqLast + 1
  let t := s.clk.p + BitVec.ofNat 48 (768000 / divider (domRung s))
  let s := { s with drp := { s.drp with
    seqLast := seq, change := some ⟨seq, BitVec.ofNat 3 k, t, s.clk.now, [], []⟩, lastAbort := none } }
  takeProp (ownEid s) seq (BitVec.ofNat 3 k) t (toMembers (fun h => .rungPropose h seq (BitVec.ofNat 3 k) t) s)

/-- RUNG_DECIDE (R201, R202). -/
def execRungDecide (s : State) : Host.Outcome State Fault Refusal :=
  .next (let k := wantedRung s
    if k ≠ domRung s ∧ mayPropose k s then propose k s else s)

/-- RUNG_REPROPOSE (R202): 1 ms after an abort, with a new SEQ; the rung is decided afresh. -/
def execRungRepropose (s : State) : Host.Outcome State Fault Refusal :=
  .next (if s.drp.lastAbort.isNone then s
    else
      let k := wantedRung s
      if !mayPropose k s then s
      else if k = domRung s then { s with drp := { s.drp with lastAbort := none } } else propose k s)

/-- RUNG_PROPOSE. -/
def execRungPropose (h : FrameHdr) (seq : BitVec 16) (k : BitVec 3) (t : BitVec 48) (s : State) :
    Host.Outcome State Fault Refusal :=
  .next (if ownFrame h s ∧ h.src = keeperEid s then takeProp h.src seq k t s else s)

/-- RUNG_ACK. -/
def execRungAck (h : FrameHdr) (seq : BitVec 16) (s : State) : Host.Outcome State Fault Refusal :=
  .next (if ownFrame h s then noteAck h.src seq s else s)

/-- RUNG_NAK. -/
def execRungNak (h : FrameHdr) (seq : BitVec 16) (_status : BitVec 8) (s : State) : Host.Outcome State Fault Refusal :=
  .next (if ownFrame h s then noteNak h.src seq s else s)

/-- RUNG_ACK_DEADLINE (R202): at 50 µs a missing RUNG_ACK or a RUNG_NAK aborts the change, in three copies. -/
def ackDeadline (s : State) : State :=
  match s.drp.change with
  | none => s
  | some c =>
    if !elapsed c.t0 (50 * ticksUs) s then s
    else if c.naks.isEmpty ∧ (ownEid s :: members s).all c.acks.contains then s
    else
      let s := { s with drp := { s.drp with change := none, lastAbort := some (c.k, s.clk.now) } }
      dropProp c.seq (forAll [1, 2, 3] (fun _ => toMembers fun h => .rungAbort h c.seq) s)

/-- RUNG_ACK_DEADLINE. -/
def execRungAckDeadline (s : State) : Host.Outcome State Fault Refusal := .next (ackDeadline s)

/-- RUNG_ABORT (R203). -/
def execRungAbort (h : FrameHdr) (seq : BitVec 16) (s : State) : Host.Outcome State Fault Refusal :=
  .next (if ownFrame h s ∧ h.src = keeperEid s then dropProp seq s else s)

/-- RUNG_SWITCH (R202): P has reached T. -/
def execRungSwitch (s : State) : Host.Outcome State Fault Refusal :=
  .next (match s.drp.prop with
    | none => s
    | some a =>
      if !reaches48 s.clk.p a.t ∨ isSafe s then s else noteCeiling (dueRung s))

/-- RUNG_REQ (R201). -/
def execRungReq (h : FrameHdr) (ceil : BitVec 3) (s : State) : Host.Outcome State Fault Refusal :=
  .next (if ownFrame h s ∧ isKeeper s ∧ ceil.toNat ≤ 5 then noteCeilOf h.src ceil.toNat s else s)

/-- RUNG_REQ_REPEAT (R201): every 10 ms. -/
def execRungReqRepeat (s : State) : Host.Outcome State Fault Refusal :=
  .next (let due : Bool := match s.drp.lastReq with
      | none => true
      | some t => elapsed t (10 * ticksMs) s
    if due ∧ s.clk.locked then sendCeiling s else s)

/-! BEACON and the record (R199, R204). -/

/-- BEACON_SEND (R199): every 1 ms. -/
def execBeaconSend (s : State) : Host.Outcome State Fault Refusal :=
  .next (if isKeeper s ∧ s.clk.locked ∧ elapsed s.drp.lastBeacon ticksMs s ∧ !isSafe s then sendBeacon s else s)

/-- A BEACON from the keeper in force, or from the backup that has taken over, is compared with the own record (R204). -/
def beaconOp (h : FrameHdr) (rec : DomRecord) (s : State) : State :=
  if !ownFrame h s ∨ isKeeper s ∨ !(h.src = keeperEid s ∨ h.src.toNat = backupCfg s) then s
  else
    let s := fset drpB fDRP_KEEPER_KEEPER_EID h.src.toNat { s with drp := { s.drp with lastBeacon := s.clk.now } }
    let armed : Bool := match s.drp.prop with
      | none => false
      | some a => a.seq == rec.seq
    if paceState s = 0 ∨ paceState s = 3 ∨ s.drp.owed then askRecord s
    else if (rec.seq = rungSeq s ∧ rec.rung.toNat = domRung s) ∨ armed then s
    else askRecord (goPace 3 (evt drpB eDRP_EVENT_SLIP s))

/-- BEACON. -/
def execBeacon (h : FrameHdr) (rec : DomRecord) (s : State) : Host.Outcome State Fault Refusal := .next (beaconOp h rec s)

/-- The backup becomes keeper (R199): its own record is then the domain's, so that in JOINING or SLIP it is in pace at once
(R205, log entry 40). -/
def takeOver (s : State) : State :=
  let s := fset drpB fDRP_STATUS_KEEPER 1 (fset drpB fDRP_KEEPER_KEEPER_EID (ownEid s).toNat s)
  sendBeacon (if paceState s = 0 ∨ paceState s = 3 then rejoin s else s)

/-- KEEPER_TAKEOVER (R199): the backup, 10 ms after the last BEACON. -/
def execKeeperTakeover (s : State) : Host.Outcome State Fault Refusal :=
  .next (if !isKeeper s ∧ backupCfg s = (ownEid s).toNat ∧ s.clk.locked ∧ elapsed s.drp.lastBeacon (10 * ticksMs) s ∧ !isSafe s
    then takeOver s else s)

/-- RECORD_REQ (R199). -/
def execRecordReq (h : FrameHdr) (s : State) : Host.Outcome State Fault Refusal :=
  .next (if ownFrame h s ∧ isKeeper s then dripAll (.record (frameHdr h.src s) (ownRecord s)) s else s)

/-- The package has asked for the record of its domain and has none yet: in JOINING, in SLIP, and in the floor state that it
entered from there (R204 to R206). -/
def owesRecord (s : State) : Bool := paceState s == 0 || paceState s == 3 || s.drp.owed

/-- The record of the domain is taken: SEQ, RUNG, T and the pair; P takes the value that the pair gives (R204). -/
def takeDomRecord (rec : DomRecord) (s : State) : State :=
  let s := { s with drp := { s.drp with
    wRef := rec.wRef, pRef := rec.pRef, seqLast := if newer16 rec.seq s.drp.seqLast then rec.seq else s.drp.seqLast } }
  fset drpB fDRP_RUNG_DOMAIN rec.rung.toNat (fset drpB fDRP_RUNG_SEQ rec.seq.toNat (setRungT rec.t s))

/-- RECORD in SLIP or JOINING (R204, R205): P steps to the value that the pair gives (R190), the rung is taken, ECLK follows on
an edge of P, the package is back in pace. A proposal that the step passes stands where it is newer than the record. -/
def recordOp (h : FrameHdr) (rec : DomRecord) (s : State) : State :=
  if !ownFrame h s ∨ h.src ≠ keeperEid s ∨ !owesRecord s ∨ 5 < rec.rung.toNat then s
  else
    let q := pAfter rec.pRef 0 (6 * (s.clk.w - rec.wRef).toNat : Nat) rec.rung.toNat
    let s := stepP q.1 q.2 (takeDomRecord rec s)
    let s := if newer16 (rungSeq s) rec.seq then s else noteFloorEnd (setP q.1 q.2 (takeDomRecord rec s))
    let s := if inFloor s then s else eclkInPace (domRung s) s
    noteCeiling (goPace (paceHome s) { s with drp := { s.drp with owed := false } })

/-- RECORD. -/
def execRecord (h : FrameHdr) (rec : DomRecord) (s : State) : Host.Outcome State Fault Refusal := .next (recordOp h rec s)

/-! The floor state (R206, R326, R339). -/

/-- The bit of a floor cause, 0 BRAKE_N, 1 THERMAL, 2 STACK, 3 COOL_STOP, 4 FLOW_LOST. -/
def causeBits (s : State) : Nat := fget pwrB fPWR_STATUS_FLOOR_CAUSE s

/-- The event of a floor cause (R351). -/
def floorEvt : Nat → Evt
  | 0 => ePWR_EVENT_BRAKE
  | 1 => ePWR_EVENT_THERM_FLOOR
  | 2 => ePWR_EVENT_THERM_FLOOR
  | 3 => ePWR_EVENT_COOL_STOP
  | _ => ePWR_EVENT_FLOW_LOST

/-- Entry into the floor state by a cause (R206, R326, R339): ECLK at ÷24 from its next edge with n_d kept, OUT_OF_PACE, memory admission
1/64, 0.580 V, ceiling 5. A further cause is added; one that comes while the exit waits sends 0.580 V again (R326, R340). -/
def floorEnter (cause : Nat) (s : State) : State :=
  if bitOf (causeBits s) cause then s
  else
    let was := inFloor s
    let leaving : Bool := s.drp.floorWait || s.drp.floorEnd.isSome
    let s := fset pwrB fPWR_STATUS_FLOOR_CAUSE (setBit (causeBits s) cause true) (evt pwrB (floorEvt cause) s)
    let s := { s with drp := { s.drp with floorWait := false, floorEnd := none } }
    if was then (if leaving then setVcore 5 s else s)
    else
      let s := fset pwrB fPWR_STATUS_FLOOR 1 (fset drpB fDRP_RUNG_CUR 5 s)
      let s := goPace 2 { s with drp := { s.drp with owed := paceState s == 0 || paceState s == 3 } }
      noteCeiling (noteMem (setVcore 5 s))

/-- A floor cause clears. -/
def floorClear (cause : Nat) (s : State) : State :=
  fset pwrB fPWR_STATUS_FLOOR_CAUSE (setBit (causeBits s) cause false) s

/-- FLOOR_ENTRY (R206). -/
def execFloorEntry (cause : Fin 5) (s : State) : Host.Outcome State Fault Refusal := .next (floorEnter cause.val s)

/-- The rung whose setpoint stands at the exit from the floor state: the domain rung, or that of a faster change for which the
regulator has accepted the higher voltage (R326). -/
def exitRung (s : State) : Nat :=
  match s.drp.prop with
  | none => domRung s
  | some a => if a.raised && a.acked then Nat.min a.k.toNat (domRung s) else domRung s

/-- FLOOR_EXIT (R326): with every cause cleared, the setpoint of the domain rung is sent; the exit waits until it is
reached. -/
def execFloorExit (s : State) : Host.Outcome State Fault Refusal :=
  .next (if inFloor s ∧ causeBits s = 0 ∧ !s.drp.floorWait ∧ s.drp.floorEnd.isNone then
      setVcore (exitRung s) { s with drp := { s.drp with floorWait := true } } else s)

/-- The floor state may end: the voltage is reached, and ECLK waits for its edge (R206, R326). -/
def floorLeave (s : State) : State :=
  { s with drp := { s.drp with floorWait := false, floorEnd := some (floorLeft s) } }

/-- SETPOINT_ACCEPTED (R203, R326): a faster proposal is acknowledged, or else the floor state ends. -/
def setpointOp (s : State) : State :=
  let floor (s : State) : State :=
    if s.drp.floorWait ∧ inFloor s ∧ causeBits s = 0 then floorLeave s else s
  match s.drp.prop with
  | none => floor s
  | some a =>
    if a.acked then floor s
    else answerAck a.keeper a.seq
      (setVcore a.k.toNat { s with drp := { s.drp with prop := some { a with acked := true } } })

/-- SETPOINT_ACCEPTED. -/
def execSetpointAccepted (s : State) : Host.Outcome State Fault Refusal := .next (setpointOp s)

/-! TS_PULSE (R210) and the domain target (R214). -/

/-- TS_PULSE (R210). -/
def execTsPulse (s : State) : Host.Outcome State Fault Refusal :=
  .next (let c := sectW s.cab.cur 8 3
    let off := 16 * bitsOf c 15 0
    if bitOf c 31 ∧ syncState s ≠ 0 ∧ (s.clk.w - BitVec.ofNat 48 off).toNat % 2 ^ bitsOf c 28 24 = 0 then
      { s with drp := { s.drp with pulseEnd := some (s.clk.now + 16 * bitsOf c 23 16) } }
    else s)

/-- A write of DRP_RUNG_TARGET (R201, R214): codes 6 and 7 are dropped and logged; else it is forwarded to the keeper. -/
def rungTargetOp (r : Requester) (v : Nat) (s : State) : State :=
  let k := bitsOf v 2 0
  if 5 < k then regAccessFault r (drpB + oDRP_RUNG_TARGET) s
  else
    let s := fset drpB fDRP_RUNG_TARGET_TARGET k s
    if isKeeper s then s else emit (.rungTarget (keeperEid s) k) s

/-- DRP_RUNG_TARGET_WRITE: PF0 and the management ports reach the block. -/
def execDrpRungTargetWrite (r : Requester) (val : BitVec 32) (s : State) : Host.Outcome State Fault Refusal :=
  .next (if isPf0 r && mayCommand r s then rungTargetOp r val.toNat s else countDenied r s)

end Sys2Proof.Machine
end

