-- ==== Sys2Proof/Machine/Power.lean ====
section
/-! DEFINITION. Power, heat and coolant: samples and the cap (R333 to R338), heartbeat (R342), temperatures (R343 to R345),
coolant (R348, R349), the pins and writes that clear floor causes (R339, R340). -/

namespace Sys2Proof.Machine

/-! Samples (R333, R460, R462). Powers are in units of 0.1 mW, the limit L in units of 10 mW. -/

def fRailI (r : Nat) : Fld := ⟨oPWR_RAIL0 + 4 * r, 31, 16⟩
def fRailV (r : Nat) : Fld := ⟨oPWR_RAIL0 + 4 * r, 15, 0⟩

/-- Nominal voltage in mV and peak current in 0.1 A of a rail (R321, R460). -/
def railPeak (r : Nat) (s : State) : Nat × Nat :=
  match r with
  | 4 => (750, 2400)
  | 5 => (1050, 7000)
  | 6 => (900, 4800)
  | 7 => (1800, 150)
  | _ => (s.pwr.vcore, 10000)

/-- The power of a rail in this sample, with its registers: a silent regulator counts as its last good sample for 10 ms,
then as its peak current (R462). -/
def railSampleOp (r : Nat) (x : Option (Nat × Nat)) (s : State) : Nat × State :=
  match x with
  | some (v, i) =>
    (v * i, fset pwrB (fRailV r) v (fset pwrB (fRailI r) i
      { s with pwr := { s.pwr with railT := modAt r (fun _ => s.clk.now) s.pwr.railT } }))
  | none =>
    if elapsed (s.pwr.railT.getD r 0) (10 * ticksMs + 1) s then
      ((railPeak r s).1 * (railPeak r s).2, fset pwrB (fRailI r) 0xFFFF s)
    else (fget pwrB (fRailV r) s * fget pwrB (fRailI r) s, s)

/-- The mean of a list; 0 of an empty one. -/
def mean (l : List Nat) : Nat := if l.isEmpty then 0 else l.sum / l.length

/-- P_avg in 0.1 mW (R333). -/
def pAvg (s : State) : Nat := mean (s.pwr.samples.map Prod.fst)

/-- Counts the ms of the PWR counters (R396). -/
def countMs (e : Nat) (f : Fld) (s : State) : State :=
  if fget pwrB f s = 1 then countEvt ctrPwr e 1 s else s

/-- RAIL_SAMPLE (R333): the samples of the eight rails. -/
def railSamplesOp (l : List (Option (Nat × Nat))) (s : State) : State :=
  let a := (List.range 8).foldl (fun (a : List Nat × State) r =>
    let x := railSampleOp r (l.getD r none) a.2
    (a.1 ++ [x.1], x.2)) ([], s)
  let s := a.2
  let smp := ((a.1.sum, (a.1.take 4).sum) :: s.pwr.samples).take 1000
  let full : Bool := decide (10 ≤ s.pwr.p10n + 1)
  let s := { s with pwr := { s.pwr with
    samples := smp, p10n := if full then 0 else s.pwr.p10n + 1,
    p10 := if full then (mean ((smp.take 10).map Prod.fst) :: s.pwr.p10).take 25 else s.pwr.p10 } }
  let s := fset pwrB fPWR_LIMIT_AVG_W (Nat.min (pAvg s / 10000) 0xFFFF) s
  let s := countEvt ctrPwr 0x02 1 (countEvt ctrPwr 0x83 (a.1.sum / 10000) s)
  countMs 0x80 fPWR_STATUS_FLOOR (countMs 0x81 fPWR_STATUS_CAPPED (countMs 0x82 fPWR_STATUS_THROTTLED s))

/-- The package is inert: a PWR_GOOD input is down, or cold boot has not started (R322, R465). -/
def inert (s : State) : Bool := s.boot.phase == 0

/-- RAIL_SAMPLE. -/
def execRailSample (samples : List (Option (Nat × Nat))) (s : State) : Host.Outcome State Fault Refusal :=
  .next (if inert s then s else railSamplesOp samples s)

/-! The cap (R334 to R338). -/

def capRack (s : State) : Nat := fget pwrB fPWR_CAP_RACK_W s
def followWps (s : State) : Nat := bitsOf (sectW s.cab.cur 6 1) 15 0
def orphanW (s : State) : Nat := bitsOf (sectW s.cab.cur 6 0) 31 16
def capW (c : CabStruct) : Nat := bitsOf (sectW c 6 0) 15 0
def urgentBudget (c : CabStruct) : Nat := bitsOf (sectW c 6 1) 31 16
def throttleC (s : State) : Int := bitsOf (sectW s.cab.cur 6 2) 7 0
def floorC (s : State) : Int := bitsOf (sectW s.cab.cur 6 2) 15 8
def partPrio (p : Nat) (s : State) : Nat := bitsOf (sectW s.cab.cur 6 3) (2 * p + 1) (2 * p)

/-- C_eff in W (R337). -/
def capEff (s : State) : Nat :=
  let c := if fget pwrB fPWR_STATUS_COOLING_DEGRADED s = 1 then Nat.min (capRack s) s.pwr.coolCap else capRack s
  if fget pwrB fPWR_STATUS_ORPHAN s = 1 then Nat.min c (orphanW s) else c

/-- The registers of the cap and the limit follow. -/
def noteCap (s : State) : State := fset pwrB fPWR_CAP_EFF_W (capEff s) (fset pwrB fPWR_LIMIT_LIMIT_W (s.pwr.lim / 100) s)

/-- PWR_COMPLY as software sees it: AVG_MS is 0xFFFF while UNREACHABLE is set (R336, R351). -/
def complyWord (s : State) : Word :=
  let v := regGet (pwrB + oPWR_COMPLY) s
  if fget pwrB fPWR_STATUS_UNREACHABLE s = 1 then BitVec.ofNat 32 (setBits v.toNat 31 16 0xFFFF) else v

/-- L goes on towards C_eff at FOLLOW_WPS (R337, R342, R349). -/
def followCap (s : State) : State := noteCap { s with pwr := { s.pwr with rate := followWps s } }

/-- The urgent units used in the last 24 h of W (R335). -/
def urgentUsed (s : State) : Nat := (s.pwr.urgent.filter fun t => !elapsed t (86400 * ticksS) s).length
def noteUrgent (s : State) : State :=
  fset pwrB fPWR_URGENT_USED (urgentUsed s)
    { s with pwr := { s.pwr with urgent := s.pwr.urgent.filter fun t => !elapsed t (86400 * ticksS) s } }

/-- The distance of two numbers. -/
def dist (a b : Nat) : Nat := if a ≤ b then b - a else a - b

/-- CAP_REQ (R335, R336): status, URGENT_EMPTY, LIMIT_MS, AVG_MS and the state. -/
def capOp (c : Nat) (urgent : Bool) (s : State) : BitVec 8 × Bool × Nat × Nat × State :=
  if c < 900 ∨ 3600 < c then (stLENGTH, false, 0, 0, s)
  else
    let old := capEff s
    let s := noteUrgent (fset pwrB fPWR_CAP_RACK_W c { s with pwr := { s.pwr with capSent := true } })
    let eff := capEff s
    let far : Bool := decide (10000 ≤ dist s.pwr.lim (100 * eff))
    let unit : Bool := decide (urgentUsed s < fget pwrB fPWR_URGENT_BUDGET s)
    let fast := urgent && fget pwrB fPWR_URGENT_BUDGET s != 0 && (!far || unit)
    let empty := urgent && far && !unit
    let rate := if fast then 100000 else followWps s
    let above : Bool := decide (100 * eff < s.pwr.lim)
    let hi := Nat.max (100 * eff) (pAvg s / 100)
    let lim := if eff < old ∧ hi < s.pwr.lim then hi else s.pwr.lim
    let s := { s with pwr := { s.pwr with
      lim := lim, rate := rate, urgent := if fast && far then s.clk.now :: s.pwr.urgent else s.pwr.urgent } }
    let s := if empty then evt pwrB ePWR_EVENT_URGENT_EMPTY s else s
    let limMs := (10 * dist lim (100 * eff) + rate - 1) / rate + 10
    let avgMs := if above then limMs + 1000 else 0
    let s := fset pwrB fPWR_COMPLY_LIMIT_MS (Nat.min limMs 0xFFFF) (fset pwrB fPWR_COMPLY_AVG_MS (Nat.min avgMs 0xFFFF) s)
    (stOK, empty, Nat.min limMs 0xFFFF, bitsOf (complyWord s).toNat 31 16, noteUrgent (noteCap s))

/-- The reply to CAP_REQ (R448). -/
def capReply (c : Nat) (urgent : Bool) (s : State) : MgmtReply × State :=
  let r := capOp c urgent s
  (⟨r.1, if r.2.1 then 1 else 0, if r.1 = stOK then leBytes 2 r.2.2.1 ++ leBytes 2 r.2.2.2.1 else []⟩, r.2.2.2.2)

/-- Compute power of a rung in W (R324). -/
def rungW : Nat → Nat
  | 0 => 2480
  | 1 => 1697
  | 2 => 1294
  | 3 => 843
  | 4 => 495
  | _ => 255

/-- P10 and C10 (R334). -/
def p10Of (s : State) : Nat := mean ((s.pwr.samples.take 10).map Prod.fst)
def c10Of (s : State) : Nat := mean ((s.pwr.samples.take 10).map Prod.snd)

/-- P_pred of a rung in 0.1 mW (R334, step 1). -/
def pPred (r : Nat) (s : State) : Nat := p10Of s - c10Of s + c10Of s * rungW r / rungW (curRung s)

/-- The power of the stacks' rail in the last sample. -/
def stackPower (s : State) : Nat := fget pwrB (fRailV 5) s * fget pwrB (fRailI 5) s

/-- The memory admission that keeps the predicted package power at ÷24 within L, in 64ths, at least 1 (R334, step 3): the
stack power scales with the admission. -/
def memAdmit (s : State) : Nat :=
  let sp := stackPower s
  let cur := fget pwrB fPWR_MEM_ADMIT s
  let ok (f : Nat) : Bool := decide (pPred 5 s - sp + sp * f / Nat.max cur 1 ≤ 100 * s.pwr.lim)
  (((List.range 64).map fun i => 64 - i).find? ok).getD 1

/-- The fastest allowed rung (R337). -/
def fastest (s : State) : Nat := ((List.range 6).find? fun k => rungAllowed s.cab.cur k).getD 5

/-- THROTTLED and CAPPED under the rungs allowed now (R351). -/
def noteLimits (s : State) : State :=
  fset pwrB fPWR_STATUS_THROTTLED (if fastest s < fget pwrB fPWR_STATUS_CEIL_THERM s then 1 else 0)
    (fset pwrB fPWR_STATUS_CAPPED (if fastest s < fget pwrB fPWR_STATUS_CEIL_PWR s then 1 else 0) s)

/-- The partitions in the order in which their admission is lowered (R334, step 4). -/
def prioOrder (s : State) : List Nat :=
  let l := (partList s.cab.cur).reverse
  [0, 1, 2, 3].flatMap fun v => l.filter fun p => partPrio p s == v

/-- Step 4 of R334: one partition more is lowered to the floor-state limit while the package exceeds L; UNREACHABLE once
all are; the steps are undone in reverse order. -/
def admitStep (tooMuch fits : Bool) (s : State) : State :=
  let low := (prioOrder s).filter fun p => s.pwr.admLim.getD p 256 == 8
  let setLim (p v : Nat) (s : State) : State := { s with pwr := { s.pwr with admLim := modAt p (fun _ => v) s.pwr.admLim } }
  if tooMuch then
    match (prioOrder s).find? fun p => s.pwr.admLim.getD p 256 != 8 with
    | some p => setLim p 8 s
    | none => fset pwrB fPWR_STATUS_UNREACHABLE 1 s
  else
    let s := fset pwrB fPWR_STATUS_UNREACHABLE 0 s
    if fits then (match low.getLast? with
      | some p => setLim p 256 s
      | none => s) else s

/-- L moves towards C_eff by the rate of 10 ms. -/
def moveLimit (s : State) : State :=
  let t := 100 * capEff s
  let l := s.pwr.lim
  noteCap { s with pwr := { s.pwr with lim := if l ≤ t then Nat.min t (l + s.pwr.rate) else Nat.max t (l - s.pwr.rate) } }

/-- POWER_CONTROLLER_TICK (R334). The steps are undone one by one: partitions whose limit is lowered get it back before memory
admission rises, and the ceiling rises only in a tick that finds memory at 64/64. L, the ceiling and memory admission hold while
MGMT is PAUSED (R29). The next NCLK edge reports a changed ceiling, together with a thermal one that changes before it (R337). -/
def powerTick (s : State) : State :=
  if mgmtPlane s ≠ 1 then s
  else
    let s := moveLimit (noteUrgent s)
    let pr (r : Nat) : Nat := Nat.min (pPred r s / 10000) 0xFFFF
    let ceil := ((List.range 6).find? fun k => rungAllowed s.cab.cur k && decide (pPred k s ≤ 100 * s.pwr.lim)).getD 5
    let low : Bool := (prioOrder s).any fun p => s.pwr.admLim.getD p 256 == 8
    let f := if 100 * s.pwr.lim < pPred 5 s then memAdmit s else 64
    let f := if low then Nat.min f s.pwr.memF else f
    let ceil := if low then 5 else if s.pwr.memF = 64 then ceil else Nat.max ceil (fget pwrB fPWR_STATUS_CEIL_PWR s)
    let tooMuch : Bool := decide (100 * s.pwr.lim < p10Of s ∧ 100 * s.pwr.lim < pPred 5 s ∧ f = 1 ∧ curRung s = 5)
    let s := regSet (pwrB + oPWR_PRED0) (BitVec.ofNat 32 (pr 0 + 65536 * pr 1))
      (regSet (pwrB + oPWR_PRED1) (BitVec.ofNat 32 (pr 2 + 65536 * pr 3))
      (regSet (pwrB + oPWR_PRED2) (BitVec.ofNat 32 (pr 4 + 65536 * pr 5)) s))
    let s := fset pwrB fPWR_STATUS_CEIL_PWR ceil (fset pwrB fPWR_STATUS_CAPPED (if fastest s < ceil then 1 else 0) s)
    let fits : Bool := decide (pPred 5 s ≤ 100 * s.pwr.lim)
    admitStep tooMuch fits (noteMem { s with pwr := { s.pwr with memF := f } })

/-- POWER_CONTROLLER_TICK. -/
def execPowerControllerTick (s : State) : Host.Outcome State Fault Refusal := .next (powerTick s)

/-- The POWER section changes at a Cabinet edge (R338), once the new generation is current: a new FOLLOW_WPS is for the next
movement of L. A movement under way keeps its rate while its target stays. -/
def powerEdge (old new : CabStruct) (s : State) : State :=
  let was := capEff { s with cab := { s.cab with cur := old } }
  let s := fset pwrB fPWR_URGENT_BUDGET (urgentBudget new)
    (if capW old ≠ capW new ∧ !s.pwr.capSent then fset pwrB fPWR_CAP_RACK_W (capW new) s else s)
  if capEff s ≠ was ∨ s.pwr.lim = 100 * was then followCap s else noteCap s

/-! Heartbeat (R342, R448). -/

/-- HB_LOST: 2 s after the last heartbeat; the timer does not run while MGMT is PAUSED. -/
def hbAge (d : Nat) (s : State) : Bool :=
  mgmtPlane s == 1 && (match s.pwr.hb with
    | none => false
    | some t => elapsed t d s)

def execHbLost (s : State) : Host.Outcome State Fault Refusal :=
  .next (if hbAge (2 * ticksS) s ∧ fget pwrB fPWR_STATUS_HB_LOST s = 0 then
      evt pwrB ePWR_EVENT_HB_LOST (fset pwrB fPWR_STATUS_HB_LOST 1 s) else s)

/-- ORPHAN: 32 s after the last heartbeat. -/
def execOrphan (s : State) : Host.Outcome State Fault Refusal :=
  .next (if hbAge (32 * ticksS) s ∧ fget pwrB fPWR_STATUS_ORPHAN s = 0 then
      followCap (evt pwrB ePWR_EVENT_ORPHAN (fset pwrB fPWR_STATUS_ORPHAN 1 s)) else s)

/-- A heartbeat restarts the timer and clears HB_LOST and ORPHAN; its reply carries six status registers. -/
def heartbeatOp (port : MsgPort) (s : State) : MgmtReply × State :=
  let s := { s with pwr := { s.pwr with hb := some s.clk.now }, mgmt := { s.mgmt with hbPort := some port } }
  let s := fset pwrB fPWR_STATUS_HB_LOST 0 s
  let s := if fget pwrB fPWR_STATUS_ORPHAN s = 1 then followCap (fset pwrB fPWR_STATUS_ORPHAN 0 s) else s
  let regs := [regGet (pwrB + oPWR_STATUS) s, regGet (pwrB + oPWR_CAP) s, regGet (pwrB + oPWR_LIMIT) s, complyWord s,
    regGet (drpB + oDRP_STATUS) s, regGet (hubB + oHUB_PLANE_STATUS) s]
  (⟨stOK, regGet (cabB + oCAB_GEN_CUR) s, regs.flatMap fun v => leBytes 4 v.toNat⟩, s)

/-! Temperature (R343 to R345). Used values and T_h are in half degrees. -/

def tHot (s : State) : Int :=
  let used := s.pwr.hist.headD []
  used.foldl max (used.headD 0)

/-- The FAULTY bit of a sensor (R351). -/
def fFaulty (i : Nat) : Fld := ⟨oPWR_SFAULT0 + 4 * (i / 32), i % 32, i % 32⟩
def sensorFaulty (i : Nat) (s : State) : Bool := fget pwrB (fFaulty i) s == 1

/-- A reading that is valid: the sensor answers within its range and is not faulty (R344). -/
def validRead (l : List (Option Int)) (i : Nat) (s : State) : Option Int :=
  match l.getD i none with
  | none => none
  | some t => if sensorFaulty i s || decide (t < -20 ∨ 150 < t) then none else some t

/-- A sensor is declared faulty: event and corrected fault (R344). -/
def declareFaulty (i : Nat) (s : State) : State :=
  if sensorFaulty i s then s
  else softFault 0x13 0x6004 0 0 (evt pwrB ePWR_EVENT_SENSOR_FAULT (fset pwrB (fFaulty i) 1 s))

/-- The group of a pair: its die, or 4 for the hub. -/
def pairGroup (k : Nat) : Nat := k / 12

/-- The used value of a pair whose sensors do not disagree by more than 10 °C. -/
def pairPlain (a b : Option Int) (thr : Int) : Option Int :=
  match a, b with
  | some x, some y =>
    if (x - y).natAbs ≤ 3 then some (x + y) else if (x - y).natAbs ≤ 10 then some (2 * max x y) else none
  | some x, none => some (2 * x + 6)
  | none, some y => some (2 * y + 6)
  | none, none => some (2 * thr)

/-- The used value of a pair, and which of its two sensors is declared faulty (R344): of two that disagree by more than
10 °C the one farther from the median of the other pairs of its die or hub, at equal distance the lower reading. -/
def pairUsed (l : List (Option Int)) (k : Nat) (s : State) : Int × List Nat :=
  let a := validRead l (2 * k) s
  let b := validRead l (2 * k + 1) s
  match pairPlain a b (throttleC s) with
  | some v => (v, (if a.isNone then [2 * k] else []) ++ (if b.isNone then [2 * k + 1] else []))
  | none =>
    let x := a.getD 0
    let y := b.getD 0
    let others := ((List.range 52).filter fun j => pairGroup j == pairGroup k && j != k).filterMap fun j =>
      pairPlain (validRead l (2 * j) s) (validRead l (2 * j + 1) s) (throttleC s)
    let m := median others
    let da := (2 * x - m).natAbs
    let db := (2 * y - m).natAbs
    let dropA : Bool := if others.isEmpty || da == db then decide (x < y) else decide (db < da)
    if dropA then (2 * y + 6, [2 * k]) else (2 * x + 6, [2 * k + 1])

/-- The pairs of a sample: used values, faulty sensors declared, the time of each pair's last change. -/
def samplePairs (l : List (Option Int)) (s : State) : List Int × State :=
  let r := (List.range 52).map fun k => pairUsed l k s
  let s := forAll (List.range 52) (fun k s =>
    let bad := (r.getD k (0, [])).2.filter fun i => !sensorFaulty i s
    if bad.isEmpty then s
    else forAll bad declareFaulty { s with pwr := { s.pwr with pairT := tset (fun _ => 0) k (s.clk.now + 1) s.pwr.pairT } }) s
  (r.map Prod.fst, s)

/-- The temperature of a stack in °C: 95 with a faulty sensor (R344). -/
def stackTemp (l : List (Option Int)) (st : Nat) (s : State) : Int × State :=
  match validRead l (104 + st) s with
  | some t => (t, s)
  | none => (95, declareFaulty (104 + st) s)

/-- A stack's registers and its admission (R133, R345). -/
def stackHeat (st : Nat) (t : Int) (s : State) : State :=
  let s := fset (memB st) fMEM_STATUS_TEMP (BitVec.ofInt 8 t).toNat
    (fset (memB st) fMEM_STATUS_HOT_REFRESH (if 85 < t then 1 else 0) s)
  let f := s.pwr.stackF.getD st 64
  let last := s.pwr.stackT.getD st 0
  let put (v : Nat) (s : State) : State := { s with pwr := { s.pwr with
    stackF := modAt st (fun _ => v) s.pwr.stackF, stackT := modAt st (fun _ => s.clk.now) s.pwr.stackT } }
  if 95 < t ∧ elapsed last (10 * ticksMs) s ∧ 1 < f then evt pwrB ePWR_EVENT_STACK_THROTTLE (put (Nat.max 1 (f / 2)) s)
  else if t < 92 ∧ f < 64 ∧ elapsed last (100 * ticksMs) s then put (Nat.min 64 (2 * f)) s
  else s

/-- Sets the thermal ceiling. -/
def setTherm (k : Nat) (s : State) : State :=
  fset pwrB fPWR_STATUS_CEIL_THERM k (fset pwrB fPWR_STATUS_THROTTLED (if fastest s < k then 1 else 0)
    { s with pwr := { s.pwr with thStep := s.clk.now } })

/-- The thermal ceiling after a sample (R345). -/
def thermStep (s : State) : State :=
  let t := tHot s
  let thr := 2 * throttleC s
  let k := fget pwrB fPWR_STATUS_CEIL_THERM s
  if thr < t then
    let s := { s with pwr := { s.pwr with thLow := none } }
    if k < 5 ∧ elapsed s.pwr.thStep (10 * ticksMs) s then evt pwrB ePWR_EVENT_THROTTLE (setTherm (k + 1) s) else s
  else if t < thr - 6 then
    match s.pwr.thLow with
    | none => { s with pwr := { s.pwr with thLow := some s.clk.now } }
    | some w => if 0 < k ∧ elapsed w (100 * ticksMs) s ∧ elapsed s.pwr.thStep (100 * ticksMs) s then setTherm (k - 1) s
        else s
  else { s with pwr := { s.pwr with thLow := none } }

/-- Since when a condition has held: kept while it holds, gone where it fails. -/
def since (ok : Bool) (old : Option Nat) (s : State) : Option Nat :=
  if ok then some (old.getD s.clk.now) else none

/-- A condition has held for so many ticks. -/
def heldFor (o : Option Nat) (d : Nat) (s : State) : Bool := match o with
  | none => false
  | some t => elapsed t d s

/-- The floor causes THERMAL and STACK (R339, R345). -/
def thermFloor (hotStack : Int) (s : State) : State :=
  let s := { s with pwr := { s.pwr with
    thermOk := since (decide (tHot s < 2 * (throttleC s - 5))) s.pwr.thermOk s,
    stackOk := since (decide (hotStack < 90)) s.pwr.stackOk s } }
  let s := if 2 * floorC s ≤ tHot s then floorEnter 1 s else if heldFor s.pwr.thermOk ticksS s then floorClear 1 s else s
  if 105 ≤ hotStack then floorEnter 2 s else if heldFor s.pwr.stackOk ticksS s then floorClear 2 s else s

/-- Every 10 ms power sample of the last 250 ms lies within ±5 % of their mean (R348). -/
def powerSteady (s : State) : Bool :=
  s.pwr.p10.all fun p => decide (20 * dist p (mean s.pwr.p10) ≤ mean s.pwr.p10)

/-- A pair has risen by more than 6 °C within 250 ms, and its sensors have not changed state in that time (R348). -/
def pairRises (k : Nat) (s : State) : Bool :=
  let v := s.pwr.hist.map fun r => r.getD k 0
  let c := tget (fun _ => 0) s.pwr.pairT k
  (c == 0 || elapsed (c - 1) (250 * ticksMs) s) && v.any fun x => decide (12 < v.headD 0 - x)

/-- T_h samples that wait for a credit of the hand-off to Lerfen go out once the thermal engine holds one (R31, R35). -/
def sendHot (s : State) : State :=
  if hoCan 6660 s then { s with pwr := { s.pwr with th := (s.pwr.thWait ++ s.pwr.th).take 1000, thWait := [] } } else s

/-- THERMAL_SAMPLE (R343 to R345, R348): one sample of the 124 sensors, in °C. The thermal engine acts on it by itself; for
R349 Lerfen takes T_h through its hand-off. The next NCLK edge reports a changed ceiling (R337). -/
def thermalOp (l : List (Option Int)) (s : State) : State :=
  let a := samplePairs l s
  let used := a.1
  let hot := used.foldl max (used.headD 0)
  let b := (List.range 20).foldl (fun (b : List Int × State) st =>
    let x := stackTemp l st b.2
    (b.1 ++ [x.1], stackHeat st x.1 x.2)) ([], a.2)
  let hs := b.1.foldl max (b.1.headD 0)
  let s := b.2
  let s := sendHot { s with pwr := { s.pwr with hist := (used :: s.pwr.hist).take 251, thWait := hot :: s.pwr.thWait } }
  let s := fset pwrB fPWR_HOT_HOT_C (BitVec.ofInt 8 (hot / 2)).toNat
    (fset pwrB fPWR_HOT_HOT_PAIR (used.findIdx fun x => x == hot)
    (fset pwrB fPWR_HOT_STACK_C (BitVec.ofInt 8 hs).toNat (fset pwrB fPWR_HOT_STACK (b.1.findIdx fun x => x == hs) s)))
  let s := thermFloor hs (thermStep s)
  if powerSteady s && (List.range 52).any (fun k => pairRises k s) then floorEnter 3 s else s

/-- THERMAL_SAMPLE. -/
def execThermalSample (readings : List (Option Int)) (s : State) : Host.Outcome State Fault Refusal :=
  .next (if inert s then s else thermalOp readings s)

/-! Coolant (R339, R349, R448). -/

/-- The COOL_STOP cause clears while the hottest hot spot is cool enough (R339). -/
def coolClearOp (s : State) : State := if tHot s < 2 * (throttleC s - 5) then floorClear 3 s else s

/-- A cooling report (R448). -/
def coolingOp (inlet : BitVec 16) (flowLost : Bool) (s : State) : State :=
  let t := inlet.toInt
  let s := { s with pwr := { s.pwr with
    inlet := ((s.clk.now, inlet.toNat) :: s.pwr.inlet).filter fun x => !elapsed x.1 (60 * ticksS) s } }
  let s := fset pwrB fPWR_INLET_INLET_C (BitVec.ofInt 8 (t / 10)).toNat s
  if flowLost then floorEnter 4 s else coolClearOp (floorClear 4 s)

/-- An estimate of R_th is valid (R349): P_avg of 1,000 W, a report of the last 5 s, an inlet change within 5 °C. -/
def rthValid (s : State) : Bool :=
  let l := (s.pwr.inlet.filter fun x => !elapsed x.1 (60 * ticksS) s).map fun x => (BitVec.ofNat 16 x.2).toInt
  decide (10000000 ≤ pAvg s) && (match s.pwr.inlet.head? with
    | none => false
    | some x => !elapsed x.1 (5 * ticksS + 1) s)
    && decide (l.foldl max (l.headD 0) - l.foldl min (l.headD 0) ≤ 50)

/-- R_th in units of 10⁻⁵ K/W (R349). -/
def rthNow (s : State) : Nat :=
  let inlet := match s.pwr.inlet.head? with
    | none => 0
    | some x => (BitVec.ofNat 16 x.2).toInt
  let n : Int := s.pwr.th.length
  let sum : Int := s.pwr.th.foldl (· + ·) 0
  ((sum * 5 * 100000000 / (max n 1) - inlet * 100000000) / (max (pAvg s) 1 : Nat)).toNat

/-- COOLING_DEGRADED is in force. -/
def degraded (s : State) : Bool := fget pwrB fPWR_STATUS_COOLING_DEGRADED s == 1

/-- C_cool from B and R_th, never above C_rack. L follows it at FOLLOW_WPS; a movement that a cap request has begun keeps the
rate of that request (R337). -/
def setCool (r b : Nat) (s : State) : State :=
  let moving : Bool := degraded s && s.pwr.lim != 100 * capEff s
  let s := { s with pwr := { s.pwr with coolCap := Nat.min (capRack s) (capRack s * b / Nat.max r 1) } }
  if moving then noteCap s else followCap s

/-- RTH_ESTIMATE (R349). -/
def rthOp (s : State) : State :=
  let s := sendHot s
  if mgmtPlane s ≠ 1 ∨ !rthValid s then s
  else
    let r := rthNow s
    let old := s.pwr.rth.filter fun x => !elapsed x.1 (60 * ticksS) s
    let b := if degraded s then fget pwrB fPWR_RTH_BASE s
      else (old.map Prod.snd).foldl Nat.min ((old.map Prod.snd).headD r)
    let s := { s with pwr := { s.pwr with rth := (s.clk.now, r) :: old } }
    let s := fset pwrB fPWR_RTH_RTH (Nat.min r 0xFFFF) (fset pwrB fPWR_RTH_BASE (Nat.min b 0xFFFF) s)
    if degraded s then
      let s := { s with pwr := { s.pwr with rthOk := since (decide (10 * r ≤ 11 * b)) s.pwr.rthOk s } }
      if heldFor s.pwr.rthOk (60 * ticksS) s then
        followCap (fset pwrB fPWR_STATUS_COOLING_DEGRADED 0 { s with pwr := { s.pwr with rthOk := none } })
      else setCool r b s
    else if 5 * b < 4 * r then
      evt pwrB ePWR_EVENT_COOL_DEGRADED (followCap (fset pwrB fPWR_STATUS_COOLING_DEGRADED 1 (setCool r b s)))
    else s

/-- RTH_ESTIMATE. -/
def execRthEstimate (s : State) : Host.Outcome State Fault Refusal := .next (rthOp s)

/-! Pins and the COOL_CLEAR write (R339, R340). -/

/-- BRAKE_N low for 100 ns. -/
def execBrakeNAssert (lowNs : Nat) (s : State) : Host.Outcome State Fault Refusal :=
  .next (if 100 ≤ lowNs && !inert s then floorEnter 0 s else s)
/-- BRAKE_N high for 1 ms. -/
def execBrakeNRelease (highUs : Nat) (s : State) : Host.Outcome State Fault Refusal :=
  .next (if 1000 ≤ highUs && !inert s then floorClear 0 s else s)
/-- COOL_CLEAR: PF0 and the management ports only (R351). -/
def execCoolClear (r : Requester) (s : State) : Host.Outcome State Fault Refusal :=
  .next (if isPf0 r && mayCommand r s then coolClearOp s else countDenied r s)

end Sys2Proof.Machine
end

