-- ==== Sys2Proof/Machine/Bureau.lean ====
section
/-! DEFINITION. The credited hand-offs (R31 to R37) and the Bureau: fault signals (R382, R383), reactions (R388 to R392),
the safe state (R390), ERR_N (R393), the comparison of the timebase replicas (R177) and THERMTRIP_N (R346). -/

namespace Sys2Proof.Machine

/-! Hand-offs (R31 to R37). -/

/-- A hand-off between units of the compute clocks stands while ECLK does, in the package or in a fenced cluster: nothing moves,
and nothing is lost (R183). -/
def hoStands (h : HandoffId) (s : State) : Bool :=
  (hoCore (hoKey h)).any fun c => !eclkRuns s || !cluOk (c / 8) s

/-- HANDOFF_ENTRY_SEND. -/
def execHandoffEntrySend (h : HandoffId) (entry : List (BitVec 8)) (s : State) : Host.Outcome State Fault Refusal :=
  .next (if hoStands h s then s else hoSend (hoKey h) entry s)

/-! Fences and stops (R388, R389). -/

/-- HUB_TOPOLOGY reports the clusters and the stacks in service (R26, R137). -/
def noteTopology (s : State) : State :=
  fset hubB fHUB_TOPOLOGY_CLUSTERS ((List.range 32).filter fun k => cluOk k s).length
    (fset hubB fHUB_TOPOLOGY_STACKS ((List.range 20).filter fun st => stackOk st s).length s)

/-- The program that runs on a core stops with a status, and its engines empty. -/
def killCore (c : Nat) (st : BitVec 8) (s : State) : State :=
  let s := match (getCore c s).run with
    | none => s
    | some r => stopProg c (progPc c s) 0 st r s
  let s := modCore c (fun k => { k with q := List.replicate 4 [], signals := [] }) s
  { s with
    waiters := s.waiters.filter fun w => !(w.isCore && w.id == c),
    fab := { s.fab with remote := s.fab.remote.filter fun r => r.tag.core.val != c },
    stool := { s.stool with admitted := s.stool.admitted.erase c, ask := s.stool.ask.erase c,
                            elig := s.stool.elig.erase c } }

/-- The instances that wait for their launch time on one of these cores end with a status. -/
def killArmed (cores : List Nat) (st : BitVec 8) (s : State) : State :=
  forAll (s.insts.filter fun i => i.waiting.any cores.contains) (fun i => cancelInst i.id st) s

def coresOfCluster (k : Nat) : List Nat := (List.range 8).map fun i => 8 * k + i

/-- A cluster is fenced (R25): it leaves the map; its programs, armed instances and chambers end with FENCED. -/
def fenceCluster (k : Nat) (s : State) : State :=
  if !cluOk k s then s
  else
    let m := fget hubB fHUB_CLUSTER_MAP_IN_SERVICE s
    let s := noteTopology (fset hubB fHUB_CLUSTER_MAP_IN_SERVICE (setBit m k false) s)
    let s := killArmed (coresOfCluster k) stFENCED s
    let s := forAll (coresOfCluster k) (fun c => killCore c stFENCED) s
    noteAdmit (chResetCores (coresOfCluster k) stFENCED s)

/-- A stack is taken out of service (R137). -/
def fenceStack (st : Nat) (s : State) : State := noteTopology (fset (memB st) fMEM_STATUS_STATE 3 s)

/-- The fence of the unit of a fault (R388). -/
def fenceUnit (source : Nat) (s : State) : State :=
  match source / 0x1000 with
  | 1 => fenceCluster (source % 256 / 8) s
  | 2 => fenceCluster (source % 32) s
  | 4 => if portState (source % 32) s = 4 then s else mapOut (source % 32) 8 s
  | 5 => fenceStack (source % 32) s
  | _ => s

/-- A partition is in reset. -/
def partInReset (p : Nat) (s : State) : Bool := s.rst.runs.any fun r => r.unit == 3 && r.target == p

/-- The Bureau stops a partition (R389); a stop that arrives during its reset is dropped (R392). -/
def stopPart (p : Nat) (s : State) : State :=
  if partInReset p s || partStopped p s then s
  else
    let s := fset burB fBUR_STATUS_STOPPED (setBit (fget burB fBUR_STATUS_STOPPED s) p true) s
    let s := forAll (s.insts.filter fun i => i.part == p) (fun i => cancelInst i.id stFENCED) s
    chStopPart p stFENCED (forAll (liveQueues p s) stallQueue s)

/-- A record of the Bureau log as its 32 bytes (R384). -/
def logBytes (x : LogRec) : List Byte :=
  let b := leBytes 4 (x.cls.toNat * 2 ^ 30 + x.react.toNat * 2 ^ 27 + x.code.toNat * 2 ^ 16 + x.source.toNat)
    ++ leBytes 4 (x.parts.toNat * 2 ^ 28 + x.repeats.toNat) ++ leBytes 4 x.info0.toNat ++ leBytes 4 x.info1.toNat
    ++ leBytes 4 (x.w.toNat % 2 ^ 32) ++ leBytes 4 (x.epoch.toNat * 65536 + x.w.toNat / 2 ^ 32) ++ leBytes 4 x.seq.toNat
  b ++ leBytes 4 (crc32c b).toNat

/-- BOOT_ID of this package (R446). -/
def bootIdOf (s : State) : Nat := (regGet (hostB + oHOST_BOOT_ID_LO) s).toNat + 2 ^ 32 * (regGet (hostB + oHOST_BOOT_ID_HI) s).toNat

/-- The record of BUR_FIRST as the log window shows it: zeros where the place of its SEQ is empty. -/
def firstRecord (s : State) : List Byte :=
  match logAt (fget burB fBUR_FIRST_SEQ s % 1024) s with
  | none => List.replicate 32 0
  | some r => logBytes r

/-- One SAFE_NOTICE: to a package, or to the rack manager (none). -/
def noticeTo (dst : Option (BitVec 19)) (s : State) : State :=
  emit (.safeNotice dst (BitVec.ofNat 64 (bootIdOf s)) (firstRecord s)) s

/-- SAFE_NOTICE (R390, R448): to the recorded Gorzel holder and to the rack manager, with the package's own BOOT_ID, the
record of BUR_FIRST as its body, and a MAC of zeros. -/
def sendNotice (s : State) : State :=
  noticeTo none (noticeTo (some (BitVec.ofNat 19 (fget gzlB fGZL_HOLDER_HOLDER_EID s))) s)

/-- The safe state (R390, R28, R30): planes SAFE, armed work discarded, the notice sent. -/
def safeState (s : State) : State :=
  if isSafe s then s
  else
    let s := fset burB fBUR_STATUS_SAFE 1 s
    let s := fset hubB fHUB_PLANE_STATUS_CTRL 3 (fset hubB fHUB_PLANE_STATUS_DATA 3 (fset hubB fHUB_PLANE_STATUS_MGMT 3 s))
    let s := forAll (s.insts.filter fun i => !i.waiting.isEmpty) (fun i => dropEntries i.id) s
    let s := fset drpB fDRP_RUNG_ARMED 0 { s with
      drp := { s.drp with prop := none, change := none }, cab := { s.cab with edge := none } }
    sendNotice s

/-- A fault of the same unit in the same NCLK cycle has already led to the safe state, the strongest reaction (R392). -/
def reacted (tm : BitVec 48 × BitVec 16) (source : Nat) (s : State) : Bool :=
  isSafe s && (tget (fun _ => none) s.bur.last source).any fun r => r.react == 4#3 && r.w == tm.1 && r.epoch == tm.2

/-- The Bureau logs a fault detected at `tm` and reacts by its class (R388, R392): a weaker reaction than one that the unit has
had in this cycle is left out. -/
def raiseFaultAt (tm : BitVec 48 × BitVec 16) (code source parts info0 info1 : Nat) (s : State) : State :=
  let react := if reacted tm source s then 4 else faultReact (faultClass code source) code source s
  let s := logFaultAt tm code source parts info0 info1 s
  match react with
  | 2 => fenceUnit source s
  | 3 => match (sourceDie source).bind (partOfDie s.cab.cur) with
    | some p => stopPart p s
    | none => s
  | 4 => safeState s
  | _ => s

/-- The Bureau takes a fault that is detected now. -/
def raiseFault (code source parts info0 info1 : Nat) (s : State) : State :=
  raiseFaultAt (s.clk.w, s.clk.epoch) code source parts info0 info1 s

/-- A fault of a unit, with PARTS by R475. -/
def unitFault (code source : Nat) (s : State) : State :=
  collected code source 0 0 (raiseFault code source (sourceParts source s) 0 0) s

/-- A fault that reaches the Bureau by a path of its own (R346, R391). -/
def directFault (code source : Nat) (s : State) : State := raiseFault code source (sourceParts source s) 0 0 s

/-- A parity error, or a credit overflow, in the Bureau or a die collector (R391): it does not pass through a collector. -/
def bureauSelf (d : Option Nat) (s : State) : State :=
  directFault 0x17 (match d with
    | some k => 0x3000 + k
    | none => 0x6002) s

/-- Records that wait at the collector of a die go out as far as its credits reach (R31, R35). -/
def sendHeld (d : Nat) (s : State) : State :=
  forAll (s.bur.held.filter fun e => e.1 == d) (fun e s =>
    if hoCan (6656 + d) s then
      hoSend (6656 + d) e.2 { s with bur := { s.bur with held := s.bur.held.erase e } }
    else s) s

/-- A record goes from the collector of a die to the Bureau; without a credit, or behind another that waits, it waits
(R35). -/
def sendRecord (d : Nat) (e : List Byte) (s : State) : State :=
  if collectorFree d s then hoSend (6656 + d) e s
  else { s with bur := { s.bur with held := s.bur.held ++ [(d, e)] } }

/-- CREDIT_RETURN (R31 to R34, R36, R391): with the count above the depth the consumer has a fatal fault. -/
def creditReturn (h : HandoffId) (n : Nat) (s : State) : State :=
  let k := hoKey h
  let x := getHo k s
  if x.inReset || hoStands h s then s
  else
    let t := setHo k { x with credits := Nat.min (hoDepth k) (x.credits + n), entries := x.entries.drop n } s
    match h with
    | .dieBureau d => if x.credits + n ≤ hoDepth k then sendHeld d.val t else bureauSelf none t
    | _ => if x.credits + n ≤ hoDepth k then t else unitFault 0x14 (hoConsumer h) t

/-- CREDIT_RETURN. -/
def execCreditReturn (h : HandoffId) (n : Nat) (s : State) : Host.Outcome State Fault Refusal := .next (creditReturn h n s)

/-! Fault signals (R382 to R384). -/

/-- A detected fault reaches the Bureau: through the hand-off of its die collector, or directly from a hub source. -/
def sendFault (source code : Nat) (info0 info1 : Word) (s : State) : State :=
  match collectorDie source with
  | some d => sendRecord (d % 4) (recBytes source code (sourceParts source s) info0 info1 s) s
  | none => raiseFault code source (sourceParts source s) info0.toNat info1.toNat s

def setInvalid (source n : Nat) (s : State) : State :=
  { s with bur := { s.bur with invalid := tset (fun _ => 0) source n s.bur.invalid } }

/-- FAULT_SIGNAL (R382): one NCLK sample of a dual-rail pair; the fourth invalid sample in a row is a WIRE fault. -/
def faultSample (src : BitVec 16) (code : BitVec 8) (t c : Bool) (info0 info1 : Word) (s : State) : State :=
  let n := tget (fun _ => 0) s.bur.invalid src.toNat
  match t, c with
  | false, true => setInvalid src.toNat 0 s
  | true, false => sendFault src.toNat code.toNat info0 info1 (setInvalid src.toNat 0 s)
  | _, _ =>
    if n = 3 then sendFault src.toNat 0x16 0 0 (setInvalid src.toNat 4 s)
    else if n < 3 then setInvalid src.toNat (n + 1) s else s

/-- A record of a die collector is the one of a fault. -/
def isRecord (x : FaultIn) (e : List Byte) : Bool :=
  le32 e 0 == x.code.toNat * 65536 + x.source.toNat && le32 e 8 == x.info0.toNat && le32 e 12 == x.info1.toNat

/-- The record of a fault at the head of the queue of its die collector. -/
def headRecord (x : FaultIn) (s : State) : Option (List Byte) :=
  (collectorDie x.source.toNat).bind fun d => (getHo (6656 + d % 4) s).entries.head?.filter (isRecord x)

/-- W and epoch at the detection of a fault (R384): as its record holds them, or now for a hub source, which writes its record
directly. -/
def detectTime (x : FaultIn) (s : State) : BitVec 48 × BitVec 16 :=
  match headRecord x s with
  | none => (s.clk.w, s.clk.epoch)
  | some e => (BitVec.ofNat 48 (le32 e 16 + le32 e 20 % 65536 * 2 ^ 32), BitVec.ofNat 16 (le32 e 20 / 65536))

/-- A record leaves the queue of its die collector: its credit returns (R31). -/
def takeRecord (x : FaultIn) (s : State) : State :=
  match collectorDie x.source.toNat, headRecord x s with
  | some d, some _ =>
    let h := getHo (6656 + d % 4) s
    sendHeld (d % 4) (setHo (6656 + d % 4) { h with credits := h.credits + 1, entries := h.entries.drop 1 } s)
  | _, _ => s

/-- BUREAU_REACTION (R388): a record reaches the Bureau. -/
def bureauReaction (x : FaultIn) (s : State) : State :=
  raiseFaultAt (detectTime x s) x.code.toNat x.source.toNat x.parts.toNat x.info0.toNat x.info1.toNat (takeRecord x s)

/-- BUREAU_SELF (R391). -/
def execBureauSelf (d : Option (Fin 4)) (s : State) : Host.Outcome State Fault Refusal :=
  .next (bureauSelf (d.map Fin.val) s)

/-! ERR_N (R393). -/

/-- ERR_N is released. -/
def errNRelease (s : State) : State :=
  fset burB fBUR_ERRN_PIN 0 { s with bur := { s.bur with errMin := none, errClr := false } }

/-- The minimum low time of ERR_N still runs. -/
def errNHeld (s : State) : Bool := match s.bur.errMin with
  | none => false
  | some t => decide (s.clk.now < t)

/-- A write of BUR_ERRN.CLEAR; a fatal fault in the same NCLK cycle wins. -/
def errNClear (fatalSame : Bool) (s : State) : State :=
  if isSafe s || fatalSame || fget burB fBUR_ERRN_PIN s == 0 then s
  else if errNHeld s then { s with bur := { s.bur with errClr := true } }
  else errNRelease s

/-- CLEAR (R393, R405): PF0 and the management ports write BUR_ERRN. -/
def execClear (r : Requester) (fatalSame : Bool) (s : State) : Host.Outcome State Fault Refusal :=
  .next (if isPf0 r && mayCommand r s then errNClear fatalSame s else countDenied r s)

/-- ERR_N_MIN_EXPIRY (R393): the 10 µs end, and a pending CLEAR releases the pin. -/
def errNExpiry (s : State) : State :=
  if fget burB fBUR_ERRN_PIN s = 0 ∨ errNHeld s then s
  else if s.bur.errClr && !isSafe s then errNRelease s
  else { s with bur := { s.bur with errMin := none } }

/-- ERR_N_MIN_EXPIRY. -/
def execErrNMinExpiry (s : State) : Host.Outcome State Fault Refusal := .next (errNExpiry s)

/-! Timebase and thermal trip. -/

/-- The replica of a die differs from the timebase root. -/
def replicaDiffers (d : Nat) (s : State) : Bool :=
  match s.clk.replicas[d]? with
  | none => false
  | some r => !(r == ⟨s.clk.w, s.clk.epoch, s.clk.p⟩)

/-- REPLICA_COMPARE (R177): a difference is a fatal fault of the die. -/
def execReplicaCompare (d : Fin 4) (s : State) : Host.Outcome State Fault Refusal :=
  .next (if replicaDiffers d.val s then unitFault 0x15 (0x3000 + d.val) s else s)

/-- THERMTRIP (R346): the comparator of a compute die or of the hub (4) trips; the pin is held, the compute clocks stop, and
the package enters the safe state. -/
def thermTrip (d : Nat) (s : State) : State :=
  let s := { s with pwr := { s.pwr with trip := true } }
  directFault 0x18 (if d < 4 then 0x3000 + d else 0x6004) s

/-- THERMTRIP. -/
def execThermtrip (d : Fin 5) (s : State) : Host.Outcome State Fault Refusal := .next (thermTrip d.val s)

end Sys2Proof.Machine
end

