-- ==== Sys2Proof/Machine/Reset.lean ====
section
/-! DEFINITION. Resets and scrubs: generations (R364 to R366), the reset units (R358 to R363, R367), scrubs (R139 to R143),
self-test and spare assignment (R23, R355 to R357), the whole-package reset (R252, R386), CAPTURE and RESUME (R369). -/

namespace Sys2Proof.Machine

/-! Generations (R364 to R366). -/

/-- The generation after another: 0xFF is followed by 0x01. -/
def nextGen (g : Nat) : Nat := if g = 255 then 1 else g + 1

def coreGen (c : Nat) (s : State) : Nat := fget (coreB c) fCORE_RESET_GEN_GEN s
/-- The field of HUB_RESET_GEN of a partition. -/
def fPartGen (p : Nat) : Fld := ⟨oHUB_RESET_GEN, 8 * p + 7, 8 * p⟩

/-- The next generation of a core is not withheld (R366). -/
def coreGenFree (c : Nat) (s : State) : Bool :=
  (getCore c s).retired.all fun x => x.1 != nextGen (coreGen c s) || elapsed x.2 (2 * ticksMs) s

/-- The next generation of a partition (0 to 3) or of the hub (4) is not withheld. -/
def domGenFree (d : Nat) (s : State) : Bool :=
  let g := nextGen (if d = 4 then fget hubB fHUB_RESET_STALE_GEN_HUB s else fget hubB (fPartGen d) s)
  s.rst.retired.all fun x => x.1 != d || x.2.1 != g || elapsed x.2.2 (64 * ticksUs) s

/-- The generation of a core advances. -/
def advanceCore (c : Nat) (s : State) : State :=
  let g := coreGen c s
  let s := modCore c (fun k => { k with
    retired := (g, s.clk.now) :: k.retired.filter fun x => !elapsed x.2 (2 * ticksMs) s }) s
  fset (coreB c) fCORE_RESET_GEN_GEN (nextGen g) s

def retireDom (d g : Nat) (s : State) : State :=
  { s with rst := { s.rst with
    retired := (d, g, s.clk.now) :: s.rst.retired.filter fun x => !elapsed x.2.2 (64 * ticksUs) s } }

def advancePart (p : Nat) (s : State) : State :=
  let g := fget hubB (fPartGen p) s
  fset hubB (fPartGen p) (nextGen g) (retireDom p g s)

def advanceHub (s : State) : State :=
  let g := fget hubB fHUB_RESET_STALE_GEN_HUB s
  fset hubB fHUB_RESET_STALE_GEN_HUB (nextGen g) (retireDom 4 g s)

/-! Cores in reset. -/

/-- The registers of a core that a reset of the core returns to their reset values (R84, R122, R144, R367). -/
def coreResetRegs : List Nat :=
  [oCORE_ENG_FLAGS, oCORE_ENG_CNT0, oCORE_ENG_CNT1, oCORE_ENG_CNT2, oCORE_PROG_STATUS, oCORE_PROG_FAULT, oCORE_PROG_ODT,
   oCORE_LAUNCH_STAT, oCORE_LAUNCH_CNT, oCORE_PROGRESS, oCORE_STORE_ECC, oCORE_STORE_ECC_CNT0, oCORE_STORE_ECC_CNT1,
   oCORE_STORE_UE_ADDR, oCORE_STORE_WAIT]

/-- The flags and event counts of a stack (R133, R145, R367). -/
def memResetRegs : List Nat := [oMEM_ECC, oMEM_ECC_CNT0, oMEM_ECC_CNT1, oMEM_UE_ADDR_LO, oMEM_UE_ADDR_HI]

def cluResetRegs : List Nat :=
  [oCLU_STORE_ECC, oCLU_STORE_ECC_CNT0, oCLU_STORE_ECC_CNT1, oCLU_STORE_UE_ADDR, oCLU_STORE_WAIT]

/-- Registers of a block return to their reset values. -/
def clearRegs (b : Nat) (l : List Nat) (s : State) : State := forAll l (fun o => regSet (b + o) (regReset (b + o))) s

/-- A command whose work runs on one of these cores: its remote half ends with a status (R367). -/
def endMoves (cores : List Nat) (st : BitVec 8) (s : State) : State :=
  drainsGo <| forAll (s.fab.remote.filter fun r => cores.contains r.tag.core.val) (fun r s =>
    let s := dropRemote r.tag s
    match r.kind with
    | .copyPut qid idx _ => endCmd qid idx st 0 s
    | .copyGet qid idx _ _ _ => endCmd qid idx st 0 s
    | .copyRelay qid idx _ _ _ _ _ _ => endCmd qid idx st 0 s
    | _ => s) s

/-- The instances that run on these cores, and the armed instances of their programs, end with STALE_GENERATION (R360). -/
def endInsts (cores : List Nat) (s : State) : State :=
  let run := s.insts.filter fun i => i.running.any cores.contains
  let slots := run.map fun i => i.slot
  let s := forAll (s.insts.filter fun i => slots.contains i.slot && !i.waiting.isEmpty)
    (fun i => cancelInst i.id stSTALE) s
  forAll run (fun i => cancelInst i.id stSTALE) s

/-- A core enters reset: its queues, counters and crossings empty (R358, R360). -/
def coreToReset (c : Nat) (s : State) : State :=
  let s := advanceCore c s
  let s := modCore c (fun k => { k with
    run := none, lec := Core.idle.lec, lc := Core.idle.lc, q := Core.idle.q, signals := [], halted := false,
    inReset := true, tags := 0 }) s
  let s := fset (coreB c) fCORE_CAPTURE_CTL_STATE 0 (ctrClear (ctrCore c) (clearRegs (coreB c) coreResetRegs s))
  { s with
    waiters := s.waiters.filter fun w => !(w.isCore && w.id == c),
    stool := { s.stool with admitted := s.stool.admitted.erase c, ask := s.stool.ask.erase c,
                            elig := s.stool.elig.erase c } }

/-- These cores enter reset (R360). -/
def coresToReset (cores : List Nat) (s : State) : State :=
  let s := endMoves cores stSTALE (endInsts cores s)
  noteAdmit (hoFlush (coreHandoffs cores) (forAll cores coreToReset s))

/-- These cores leave reset with the result of the known-answer run; a core that failed fences its cluster (R357). -/
def coresFromReset (cores : List Nat) (katFail : BitVec 256) (s : State) : State :=
  let s := forAll cores (fun c s =>
    fset (coreB c) fCORE_ENG_STATUS_KAT_PASS (if katFail.getLsbD c then 0 else 1)
      (modCore c (fun k => { k with inReset := false }) s)) s
  forAll (cores.filter fun c => katFail.getLsbD c && cluOk (c / 8) s) (fun c s => unitFault 0x09 (0x1000 + c) (fenceCluster (c / 8) s)) s

/-! Key slots (R421, R423, R424). -/

/-- A LOADED slot is erased, with KEYS_ERASED. -/
def eraseKey (i : Nat) (s : State) : State :=
  if (tget (fun _ => none) s.sec.slots i).isNone then s
  else evt secB eSEC_EVENT_KEYS_ERASED
    { s with sec := { s.sec with slots := tset (fun _ => none) i none s.sec.slots } }

/-! Latches and copies of one reader (R188, R394, R432). -/

def latchKey (r : Requester) (off : Nat) : Nat := reqNo r * 2 ^ 32 + off
def getLatch (r : Requester) (off : Nat) (s : State) : Word := tget (fun _ => 0) s.latches (latchKey r off)
def setLatch (r : Requester) (off : Nat) (v : Word) (s : State) : State :=
  { s with latches := tset (fun _ => 0) (latchKey r off) v s.latches }

/-! Each requester's copy of SEC_CMD, its arguments, SEC_RESULT and SEC_DETAIL (R432). -/

def secGet (r : Requester) (f : Fld) (s : State) : Nat := bitsOf (getLatch r (secB + f.off) s).toNat f.hi f.lo
def secSet (r : Requester) (f : Fld) (v : Nat) (s : State) : State :=
  setLatch r (secB + f.off) (BitVec.ofNat 32 (setBits (getLatch r (secB + f.off) s).toNat f.hi f.lo v)) s

/-- What a command ends with: status, failing check, detail. -/
abbrev SecRes : Type := BitVec 8 × Nat × Nat

/-- A command ends (R432, R439): result, BUSY, interrupt of a host function. -/
def secEnd (r : Requester) (cmd : Nat) (x : SecRes) (s : State) : State :=
  let s := secSet r fSEC_RESULT_CMD cmd (secSet r fSEC_RESULT_STATUS x.1.toNat (secSet r fSEC_RESULT_CHECK x.2.1
    (secSet r fSEC_RESULT_SEQ (secGet r fSEC_RESULT_SEQ s + 1) s)))
  let s := secSet r fSEC_DETAIL_DETAIL x.2.2 (secSet r fSEC_CMD_BUSY 0 s)
  match r with
  | .pf f => if f.val = 0 then raiseMsix 0 3 s else raiseMsix f.val 2 s
  | _ => s

/-- A waiting command is an UNWRAP or DECRYPT of a partition. -/
def tornCmd (p : Nat) (x : Requester × Word) : Bool :=
  (bitsOf x.2.toNat 31 28 == 1 || bitsOf x.2.toNat 31 28 == 3) && bitsOf x.2.toNat 3 0 / 4 == p

/-- At the teardown of a partition its slots are erased, and its UNWRAP and DECRYPT commands that wait end with
STALE_GENERATION (R421). -/
def eraseKeysOf (p : Nat) (s : State) : State :=
  let s := forAll (List.range 4) (fun i => eraseKey (4 * p + i)) s
  forAll (s.sec.wait.filter (tornCmd p)) (fun x => secEnd x.1 (bitsOf x.2.toNat 31 28) (stSTALE, 0, 0))
    { s with sec := { s.sec with wait := s.sec.wait.filter fun x => !tornCmd p x } }

/-! Programs unloaded by a reset (R361, R362). -/

/-- The slots whose program belongs to one of these partitions. -/
def slotsOf (parts : List Nat) (s : State) : List Nat :=
  (List.range 256).filter fun i => match (getSlot i s).prog with
    | none => false
    | some p => parts.contains p.part

/-- Every program of these partitions is unloaded, and a translation for one of them ends. -/
def unloadParts (parts : List Nat) (s : State) : State :=
  let s := match s.loading with
    | none => s
    | some l => if parts.contains l.part then endCmd l.qid (BitVec.ofNat 32 l.idx) stSTALE 0 { s with loading := none } else s
  forAll (slotsOf parts s) freeProg s

/-! Self-test, repair and spares (R23, R355, R356). -/

/-- The good physical cores of a cluster, in ascending order. -/
def goodCores (good : List (BitVec 9)) (k : Nat) : List Nat :=
  (List.range 9).filter fun i => (good.getD k 0).getLsbD i

/-- Self-test of a cluster: eight good cores are assigned, or the cluster is fenced with CLUSTER_SHORT. -/
def assignCluster (good : List (BitVec 9)) (storeOk ok : Bool) (k : Nat) (s : State) : State :=
  let l := goodCores good k
  let fit : Bool := ok && storeOk && decide (8 ≤ l.length)
  let map := fget hubB fHUB_CLUSTER_MAP_IN_SERVICE s
  let s := fset hubB fHUB_CLUSTER_MAP_IN_SERVICE (setBit map k fit) s
  let s := fset hubB fHUB_SPARE_MAP_SPARE_USED (setBit (fget hubB fHUB_SPARE_MAP_SPARE_USED s) k
    (fit && (l.take 8).contains 8)) s
  let s := forAll (List.range 8) (fun i s =>
    fset (coreB (8 * k + i)) fCORE_ENG_STATUS_PHYS (if fit then l.getD i 0 else i)
      (fset (coreB (8 * k + i)) fCORE_ENG_STATUS_KAT_PASS fit.toNat s)) s
  if fit || !ok then s else unitFault 0x0A (0x2000 + k) s

/-- The clusters of the dies of a partition. -/
def clustersOfPart (p : Nat) (s : State) : List Nat := (List.range 32).filter fun k => partOfDie s.cab.cur (k / 8) == some p
/-- The dies of a partition. -/
def diesOfPart (p : Nat) (s : State) : List Nat := (List.range 4).filter fun d => partOfDie s.cab.cur d == some p
/-- The stacks of the dies of a partition. -/
def stacksOfPart (p : Nat) (s : State) : List Nat := (List.range 20).filter fun st => partOfDie s.cab.cur (st / 5) == some p

/-! Scrubs (R139 to R143). -/

/-- The queue identifiers whose descriptors a scrub of a partition zeroes. -/
def partQids (p : Nat) (s : State) : Nat × Nat := (qidBase s.cab.cur p, qidCount s.cab.cur p)

/-- A byte that a scrub of a partition with these dies covers (R139): its stores, its stacks in service outside the descriptor
table, and its own descriptors in the table. -/
def scrubCoversOn (dies : List Nat) (p a : Nat) (s : State) : Bool :=
  let t := tableBase s.cab.cur
  let q := partQids p s
  if t ≤ a ∧ a < t + 0x4000000 then decide (t + 64 * q.1 ≤ a ∧ a < t + 64 * (q.1 + q.2))
  else if a < stackEnd then dies.contains (a / dieRegion) && stackOk (stackOf a) s
  else dies.contains (dieOfAddr a)

/-- A byte that a scrub of a partition covers. -/
def scrubCovers (p a : Nat) (s : State) : Bool := scrubCoversOn (diesOfPart p s) p a s

/-- Writes zeros over everything that a scrub covers; the marks of errors there go. -/
def scrubZero (dies : List Nat) (p : Nat) (s : State) : State :=
  { s with
    mem := s.mem.filter fun c => !scrubCoversOn dies p c.1 s,
    ecc := s.ecc.filter fun c => !scrubCoversOn dies p c.1 s,
    armed := s.armed.filter fun a => !scrubCoversOn dies p a.1 s }

/-- Zeroes the descriptors of a range of queues, with valid check bits (R139). -/
def zeroDescs (q0 n : Nat) (s : State) : State :=
  let t := tableBase s.cab.cur
  let out (a : Nat) : Bool := !decide (t + 64 * q0 ≤ a ∧ a < t + 64 * (q0 + n))
  { s with
    mem := s.mem.filter fun c => out c.1, ecc := s.ecc.filter fun c => out c.1, armed := s.armed.filter fun x => out x.1 }

/-- The stack ranges that a scrub of a partition writes and reads back: the regions of its dies without the descriptor
table, and its own descriptors (R139). -/
def scrubRanges (dies : List Nat) (p : Nat) (s : State) : List (Nat × Nat) :=
  let t := tableBase s.cab.cur
  let q := partQids p s
  (t + 64 * q.1, 64 * q.2) :: dies.flatMap fun d =>
    let b := d * dieRegion
    if b ≤ t ∧ t < b + dieRegion then [(b, t - b), (t + 0x4000000, b + dieRegion - (t + 0x4000000))] else [(b, dieRegion)]

/-- A pass of a scrub over the stacks: its granules are counted and keep the channels awake (R133, R145). -/
def scrubPass (write : Bool) (dies : List Nat) (p : Nat) (s : State) : State :=
  forAll ((scrubRanges dies p s).filter fun r => r.2 != 0) (fun r => noteAccess write r.1 r.2) s

/-- The scrub of a partition is marked pending in the flash, with its dies, or the mark is cleared (R140, R143). -/
def setScrubPending (p : Nat) (b : Bool) (s : State) : State :=
  let m := setBit s.nv.scrubs p b
  let dies := if b then ((diesOfPart p s).map fun d => 2 ^ d).sum else 0
  fset hubB fHUB_SCRUB_PENDING m { s with nv := { s.nv with scrubs := m, scrubDies := modAt p (fun _ => dies) s.nv.scrubDies } }

/-- The dies that a pending scrub of a partition covers, whatever Cabinet is in force now (R143). -/
def pendingDies (p : Nat) (s : State) : List Nat := (List.range 4).filter fun d => bitOf (s.nv.scrubDies.getD p 0) d

def setScrubActive (dies : List Nat) (p : Nat) (b : Bool) (s : State) : State :=
  let s := fset hubB fHUB_SCRUB_ACTIVE (setBit (fget hubB fHUB_SCRUB_ACTIVE s) p b) s
  forAll ((List.range 20).filter fun st => dies.contains (st / 5) && (stackOk st s || !b)) (fun st => fset (memB st) fMEM_STATUS_SCRUBBING b.toNat) s

/-- The partition reset of a partition that is at a phase. -/
def partRun (p ph : Nat) (s : State) : Bool := s.rst.runs.any fun r => r.unit == 3 && r.target == p && r.phase == ph
def setPartPhase (p ph : Nat) (s : State) : State :=
  { s with rst := { s.rst with runs := s.rst.runs.map fun r => if r.unit = 3 ∧ r.target = p then { r with phase := ph } else r } }

/-- The engines of every core of a partition are idle. -/
def partIdle (p : Nat) (s : State) : Bool := (coresOfPart s.cab.cur p).all fun c => enginesIdle c s

/-- SCRUB_START (R140). -/
def scrubStart (p : Nat) (s : State) : State :=
  if partRun p 1 s && partIdle p s && !isSafe s then
    let dies := diesOfPart p s
    scrubPass true dies p (setPartPhase p 2 (setScrubActive dies p true (setScrubPending p true s)))
  else s

/-- SCRUB_START. -/
def execScrubStart (p : Fin 4) (s : State) : Host.Outcome State Fault Refusal := .next (scrubStart p.val s)

/-- The units of a partition that failed the read-back are fenced with SCRUB_FAIL (R142); the clusters stay fenced when its
reset ends. -/
def scrubFails (dies : List Nat) (p : Nat) (badStacks : BitVec 20) (badClusters : BitVec 32) (s : State) : State :=
  let s := forAll ((List.range 20).filter fun st => dies.contains (st / 5) && badStacks.getLsbD st && stackOk st s)
    (fun st s => unitFault 0x08 (0x5000 + st) (fenceStack st s)) s
  let s := { s with rst := { s.rst with runs := s.rst.runs.map fun r =>
    if r.unit = 3 ∧ r.target = p then { r with failed := badClusters } else r } }
  forAll ((List.range 32).filter fun k => dies.contains (k / 8) && badClusters.getLsbD k)
    (fun k s => unitFault 0x08 (0x2000 + k) (fenceCluster k s)) s

/-- SCRUB_DONE (R140 to R142). -/
def scrubDone (p : Nat) (badStacks : BitVec 20) (badClusters : BitVec 32) (s : State) : State :=
  if partRun p 2 s && !isSafe s then
    let dies := diesOfPart p s
    setPartPhase p 3 (scrubFails dies p badStacks badClusters (setScrubPending p false (setScrubActive dies p false
      (scrubPass false dies p (scrubZero dies p s)))))
  else s

/-- SCRUB_DONE. -/
def execScrubDone (p : Fin 4) (badStacks : BitVec 20) (badClusters : BitVec 32) (s : State) :
    Host.Outcome State Fault Refusal := .next (scrubDone p.val badStacks badClusters s)

/-! Start of a reset (R360 to R362). -/

/-- The cores inside a unit: core, cluster, partition, compute part. -/
def unitCores (unit target : Nat) (s : State) : List Nat :=
  match unit with
  | 1 => [target]
  | 2 => coresOfCluster target
  | 3 => coresOfPart s.cab.cur target
  | _ => List.range 256

/-- No generation that the reset would give is withheld (R366). -/
def gensFree (unit target : Nat) (s : State) : Bool :=
  (unitCores unit target s).all (fun c => coreGenFree c s) && (unit != 3 || domGenFree target s)

/-- A partition reset begins (R361): its queues DISABLED, chambers INACTIVE, accesses refused with DRAINING; its stop ends
(R363) and its stacks return to service for the scrub (R388). -/
def partToReset (p : Nat) (s : State) : State :=
  let s := fset burB fBUR_STATUS_STOPPED (setBit (fget burB fBUR_STATUS_STOPPED s) p false) s
  let s := eraseKeysOf p s
  let s := forAll (s.insts.filter fun i => i.part == p) (fun i => cancelInst i.id stSTALE) s
  let s := coresToReset (coresOfPart s.cab.cur p) s
  let s := chPartReset p (forAll (liveQueues p s) (disableQueue stSTALE) s)
  let s := forAll (coresOfPart s.cab.cur p) (fun c => clearRegs (coreB c) [oCORE_ENG_CFG]) s
  let s := forAll (clustersOfPart p s) (fun k s => ctrClear (ctrClu k) (clearRegs (cluB k) cluResetRegs s)) s
  let s := forAll (stacksOfPart p s) (fun st s => ctrClear (ctrMem st) (clearRegs (memB st) memResetRegs s)) s
  let s := forAll ((stacksOfPart p s).filter fun st => fget (memB st) fMEM_STATUS_STATE s == 3)
    (fun st => fset (memB st) fMEM_STATUS_STATE 2) s
  advancePart p { s with busyParts := setBit s.busyParts p true }

/-- A compute-part reset begins (R362): DATA PAUSED, instances and armed entries end, chambers stop, programs unload. -/
def computeToReset (s : State) : State :=
  let s := fset hubB fHUB_PLANE_STATUS_DATA 2 { s with computeReset := true }
  let s := forAll s.insts (fun i => cancelInst i.id stSTALE) s
  let s := chResetCores (List.range 256) stSTALE (coresToReset (List.range 256) s)
  let s := unloadParts [0, 1, 2, 3] s
  forAll (List.range 32) (fun k s => ctrClear (ctrClu k) (clearRegs (cluB k) cluResetRegs s)) s

/-- The effects of the start of a reset. -/
def enterReset (unit target : Nat) (s : State) : State :=
  match unit with
  | 1 => chResetCores [target] stSTALE (coresToReset [target] s)
  | 2 => ctrClear (ctrClu target) (clearRegs (cluB target) cluResetRegs
      (chResetCores (coresOfCluster target) stSTALE (coresToReset (coresOfCluster target) s)))
  | 3 => partToReset target s
  | _ => computeToReset s

/-- BUSY follows the resets that run. -/
def noteBusy (s : State) : State := fset hubB fHUB_RESET_CTL_BUSY (if s.rst.runs.isEmpty then 0 else 1) s

/-- A reset may start now: its generations are free, and MGMT is not PAUSED for a partition or the compute part (R359). -/
def mayReset (unit target : Nat) (s : State) : Bool := gensFree unit target s && (decide (unit < 3) || mgmtPlane s != 2)

/-- A reset is accepted; it starts at once or waits. -/
def beginReset (unit target : Nat) (req : Option Requester) (s : State) : State :=
  let go := mayReset unit target s
  let s := { s with rst := { s.rst with runs := s.rst.runs ++ [⟨unit, target, req, if go then 1 else 0, [], 0⟩] } }
  noteBusy (if go then enterReset unit target s else s)

/-- Every waiting reset that may start now does (R359, R366). -/
def resumeResets (s : State) : State :=
  forAll (s.rst.runs.filter fun r => r.phase == 0) (fun r s =>
    if mayReset r.unit r.target s then
      let go (x : ResetRun) : ResetRun := if x.unit = r.unit ∧ x.target = r.target then { x with phase := 1 } else x
      enterReset r.unit r.target { s with rst := { s.rst with runs := s.rst.runs.map go } }
    else s) s

/-! HUB_RESET_CTL (R358, R359, R363, R379). -/

/-- Writes HUB_RESET_STAT for a request and raises its interrupts (R379, R439). -/
def resetStat (cmd target : Nat) (st : BitVec 8) (r : Requester) (s : State) : State :=
  let s := fset hubB fHUB_RESET_STAT_CMD cmd (fset hubB fHUB_RESET_STAT_TARGET target
    (fset hubB fHUB_RESET_STAT_STATUS st.toNat (fadd hubB fHUB_RESET_STAT_SEQ 1 s)))
  let s := raiseMsix 0 7 s
  match r with
  | .pf f => if f.val = 0 then s else raiseMsix f.val 1 s
  | _ => s

/-- A unit lies inside another (R358): the compute part holds no stack range, queue or chamber, so no partition lies in it. -/
def unitInside (u t u' t' : Nat) (s : State) : Bool :=
  (unitCores u t s).all ((unitCores u' t' s).contains ·) && decide (u ≤ u') && !(u == 3 && u' == 4)

/-- A request's status before it starts (R359). -/
def resetStatus (r : Requester) (unit target : Nat) (s : State) : BitVec 8 :=
  let top := match unit with
    | 1 => 256
    | 2 => 32
    | 3 => 4
    | _ => 256
  if top ≤ target then stFORMAT
  else if unit = 3 ∧ !partExists s.cab.cur target then stDENIED
  else if isPf0 r then stOK
  else match reqPart r s with
    | none => stDENIED
    | some p => failIf (match unit with
      | 1 => partOfCore s.cab.cur target != some p
      | 2 => partOfDie s.cab.cur (target / 8) != some p
      | 3 => target != p
      | _ => true) stDENIED

/-- The command fields of HUB_RESET_CTL keep what was written. -/
def noteResetCmd (cmd target : Nat) (s : State) : State :=
  fset hubB fHUB_RESET_CTL_CMD cmd (fset hubB fHUB_RESET_CTL_TARGET target s)

/-- A reset request (R363), with the TARGET field as it was written (R379): BUSY drops a request for another unit; one inside
the running unit joins it. -/
def resetRequest (r : Requester) (unit target shown : Nat) (s : State) : State :=
  if !mayCommand r s then countDenied r s
  else
    let st := resetStatus r unit target s
    match s.rst.runs with
    | [] =>
      let s := noteResetCmd unit shown s
      if st ≠ stOK then resetStat unit target st r s else beginReset unit target (some r) s
    | run =>
      if st = stOK ∧ run.any (fun x => unitInside unit target x.unit x.target s) then
        let add (x : ResetRun) : ResetRun :=
          if unitInside unit target x.unit x.target s then { x with joined := x.joined ++ [(unit, target, r)] } else x
        noteResetCmd unit shown { s with rst := { s.rst with runs := run.map add } }
      else regAccessFault r (hubB + oHUB_RESET_CTL) s

/-- CORE (R360). -/
def execCore (r : Requester) (c : Fin 256) (s : State) : Host.Outcome State Fault Refusal :=
  .next (resetRequest r 1 c.val c.val s)
/-- CLUSTER (R360). -/
def execCluster (r : Requester) (k : Fin 32) (s : State) : Host.Outcome State Fault Refusal :=
  .next (resetRequest r 2 k.val k.val s)
/-- PARTITION (R361). -/
def execPartition (r : Requester) (p : Fin 4) (s : State) : Host.Outcome State Fault Refusal :=
  .next (resetRequest r 3 p.val p.val s)
/-- COMPUTE (R362). -/
def execCompute (r : Requester) (s : State) : Host.Outcome State Fault Refusal :=
  .next (resetRequest r 4 0 0 s)

/-! The end of a reset. -/

/-- A partition reset ends (R361): self-test, spares, programs unloaded, the partition accepts work; a cluster that the scrub
has fenced stays so (R142). -/
def partFromReset (p : Nat) (failed : BitVec 32) (res : ResetIn) (s : State) : State :=
  let s := forAll (clustersOfPart p s) (fun k =>
    assignCluster res.goodPhys (res.cluStoreOk.getLsbD k) (!(res.badClusters ||| failed).getLsbD k) k) s
  let cores := coresOfPart s.cab.cur p
  let s := forAll cores (fun c => modCore c (fun k => { k with inReset := false })) s
  let s := noteTopology (unloadParts [p] (fset hubB fHUB_BOOT_REPAIR_NEW res.repairNew.toNat s))
  raiseMsix (p + 1) 1 { s with busyParts := setBit s.busyParts p false }

/-- The compute-part reset ends (R362): known-answer runs, CORE_ENG_CFG, DATA back to RUN. -/
def computeFromReset (res : ResetIn) (s : State) : State :=
  let s := coresFromReset (List.range 256) res.katFail s
  let s := forAll (List.range 256) (fun c => clearRegs (coreB c) [oCORE_ENG_CFG]) s
  let s := { s with computeReset := false }
  if dataPlane s = 2 then fset hubB fHUB_PLANE_STATUS_DATA 1 s else s

def leaveReset (x : ResetRun) (res : ResetIn) (s : State) : State :=
  match x.unit with
  | 3 => partFromReset x.target x.failed res s
  | 4 => computeFromReset res s
  | u => coresFromReset (unitCores u x.target s) res.katFail s

/-- A reset that has done its work: a partition reset after its scrub, any other at once. -/
def resetReady (x : ResetRun) : Bool := if x.unit = 3 then x.phase == 3 else x.phase == 1

/-- A fault source lies in a unit that is reset (R382). -/
def sourceInUnit (unit target source : Nat) (s : State) : Bool :=
  match source / 0x1000 with
  | 1 => (unitCores unit target s).contains (source % 256)
  | 2 => unit != 1 && (unitCores unit target s).contains (8 * (source % 32))
  | 3 => unit == 4
  | 5 => unit == 3 && (stacksOfPart target s).contains (source % 32)
  | _ => false

/-- The collectors test the fault pairs of the sources in the unit: one that fails is a WIRE fault (R382). -/
def wireTest (x : ResetRun) (l : List (BitVec 16)) (s : State) : State :=
  forAll (l.filter fun w => sourceInUnit x.unit x.target w.toNat s) (fun w => sendFault w.toNat 0x16 0 0) s

/-- The first reset that is ready ends: its requester, and those that joined it, receive OK. HUB_RESET_STAT is written at the
end of every partition reset, also of one that a teardown began (R361). -/
def finishReset (res : ResetIn) (s : State) : Option (ResetRun × State) :=
  match s.rst.runs.find? resetReady with
  | none => none
  | some x =>
    let s := { s with rst := { s.rst with runs := s.rst.runs.filter fun y => !(y.unit == x.unit && y.target == x.target) } }
    let s := noteBusy (wireTest x res.wireBad (leaveReset x res s))
    let s := match x.req with
      | none => if x.unit = 3 then resetStat 3 x.target stOK (.hubFw false) s else s
      | some r => resetStat x.unit x.target stOK r s
    some (x, forAll x.joined (fun j => resetStat j.1 j.2.1 stOK j.2.2) s)

/-! The whole-package reset (R358, R252, R386). -/

/-- A whole-package reset: everything returns to its reset value but the flash, what the pins show, the count of time, and,
while every PWR_GOOD input stays asserted, the Bureau log (R386). -/
def packageReset (powerLost : Bool) (s : State) : State :=
  let z := { State.reset with
    clk := { State.reset.clk with now := s.clk.now },
    flash := s.flash, nv := s.nv, out := s.out, freeCtr := s.freeCtr, pending := s.pending,
    host := { State.reset.host with perst := s.host.perst, refclk := s.host.refclk },
    fab := { State.reset.fab with lasers := s.fab.lasers },
    boot := { State.reset.boot with refclk := s.boot.refclk, good := s.boot.good },
    pwr := { Pwr.atReset with trip := s.pwr.trip && !powerLost } }
  if powerLost then { z with tap := State.reset.tap }
  else
    let head := regGet (burB + oBUR_LOG_HEAD) s
    let z := { z with bur := { z.bur with log := s.bur.log }, tap := s.tap }
    fset burB fBUR_STATUS_CARRIED 1 (regSet (burB + oBUR_LOG_HEAD) head z)

/-- A whole-package reset request (R358, R359): of PF0 or a management port, at once, in ROM recovery too (R378); any other is
refused. -/
def packageRequest (r : Requester) (shown : Nat) (s : State) : State :=
  if isPf0 r && s.boot.phase == 3 then packageReset false s
  else if !mayCommand r s then countDenied r s
  else if isPf0 r then packageReset false s
  else if s.rst.runs.isEmpty then resetStat 5 0 stDENIED r (noteResetCmd 5 shown s)
  else regAccessFault r (hubB + oHUB_RESET_CTL) s

/-- PACKAGE. -/
def execPackage (r : Requester) (s : State) : Host.Outcome State Fault Refusal := .next (packageRequest r 0 s)

/-- The whole-package reset of a pin: the log is lost where a PWR_GOOD input is down (R386); THERMTRIP_N stays as it is (R346). -/
def pinReset (s : State) : State :=
  let t := packageReset (s.boot.good != 0xFF) s
  { t with pwr := { t.pwr with trip := s.pwr.trip } }

/-- RESET_N low for 1 µs or more (R358, R466). -/
def execResetN (lowNs : Nat) (s : State) : Host.Outcome State Fault Refusal :=
  .next (if 1000 ≤ lowNs then pinReset s else s)

/-- PWR_GOOD_LOSS (R322, R466): more than 1 µs. A loss of VAUX releases THERMTRIP_N (R346). -/
def execPwrGoodLoss (rail : Fin 8) (lowNs : Nat) (s : State) : Host.Outcome State Fault Refusal :=
  .next (if lowNs ≤ 1000 then s
    else
      let t := packageReset true s
      { t with pwr := { t.pwr with trip := s.pwr.trip && rail.val != 7 },
               boot := { t.boot with good := t.boot.good &&& ~~~(1#8 <<< rail.val) } })

/-- REFCLK_LOSS (R465): more than 10 µs; cold boot then waits for lock. -/
def execRefclkLoss (absentNs : Nat) (s : State) : Host.Outcome State Fault Refusal :=
  .next (if absentNs ≤ 10000 then s
    else
      let t := pinReset s
      { t with boot := { t.boot with refclk := false } })

/-! CAPTURE and RESUME (R369, R380). -/

def busyBit (c e : Nat) (s : State) : Nat := if ((getCore c s).q.getD e []).isEmpty then 0 else 2 ^ e

/-- The queued instructions of an engine in a CAPTURE record: four entries of 8 B. -/
def captureQueue (c e : Nat) (s : State) : List Byte :=
  (List.range 4).flatMap fun i => leBytes 8 ((((getCore c s).q.getD e []).map fun x => x.slot.toNat).getD i 0)

/-- The 256 B record of CAPTURE (R369). -/
def captureRec (c : Nat) (s : State) : List Byte :=
  let k := getCore c s
  let reg (o : Nat) := leBytes 4 (regGet (coreB c + o) s).toNat
  let handle := match k.run with
    | none => 0
    | some r => (handleOf r.slot s).toNat
  let ctrl := match k.run with
    | none => 0
    | some r => leNat (memBytes (coreStore c + r.bundOff + 32 * progPc c s) 8 s)
  let depths := (List.range 4).map fun e => (k.q.getD e []).length * 2 ^ (8 + 8 * e)
  let armedSlots := ((List.range 64).filter fun i => match tget (fun _ => none) k.launch i with
    | none => false
    | some e => !e.fired).map fun i => 2 ^ i
  reg oCORE_PROG_STATUS ++ reg oCORE_PROG_FAULT ++ reg oCORE_PROGRESS ++ leBytes 4 handle
    ++ (List.range 16).flatMap (fun i => leBytes 2 (k.lec.getD i 0).toNat)
    ++ (List.range 8).flatMap (fun i => leBytes 4 (k.lc.getD i 0).toNat)
    ++ leBytes 8 ctrl ++ leBytes 8 (((List.range 4).map fun e => busyBit c e s).sum + depths.sum)
    ++ (List.range 4).flatMap (fun e => captureQueue c e s)
    ++ leBytes 8 armedSlots.sum ++ leBytes 8 (s.clk.epoch.toNat * 2 ^ 48 + s.clk.w.toNat) ++ List.replicate 16 0

def captureAddr (c : Nat) (s : State) : Nat :=
  fget (coreB c) fCORE_CAPTURE_LO_ADDR_LO s + 2 ^ 32 * fget (coreB c) fCORE_CAPTURE_HI_ADDR_HI s

/-- The status of CAPTURE (R369, R41); a core of a sealed partition is refused (R420), and a record in a sink window (R155). -/
def captureStatus (c : Nat) (s : State) : BitVec 8 :=
  let a := captureAddr c s
  firstFail [failIf (sealBit s.cab.cur (corePart c s)) stDENIED, mappedStatus a 256, failIf (a % 256 != 0) stWINDOW,
    rangeStatus (.part (corePart c s)) a 256 s, failIf (regionOf a == some .reg) stDENIED,
    failIf (inSink a 256 s) stDENIED]

/-- A function reaches the registers of a core (R380): PF0 and the PF of its partition, while the core is in service. -/
def coreReach (r : Requester) (c : Nat) (s : State) : Bool :=
  mayCommand r s && cluOk (c / 8) s && (isFn0 r || (match r with
    | .pf _ => reqPart r s == partOfCore s.cab.cur c
    | _ => false))

def captureEnd (c cmd : Nat) (st : BitVec 8) (s : State) : State :=
  fset (coreB c) fCORE_CAPTURE_CTL_CMD cmd (fset (coreB c) fCORE_CAPTURE_CTL_STATUS st.toNat s)

/-- CAPTURE (R369). -/
def captureOp (r : Requester) (c : Nat) (s : State) : State :=
  if !coreReach r c s then countDenied r s
  else
    let st := captureStatus c s
    if st ≠ stOK then captureEnd c 1 st s
    else
      let l := captureRec c s
      let s := match (getCore c s).run with
        | none => s
        | some r => (readAll (coreStore c + r.bundOff + 32 * progPc c s) 8 s).1
      let s := memWrite (captureAddr c s) l s
      captureEnd c 1 stOK (fset (coreB c) fCORE_CAPTURE_CTL_STATE 1 (modCore c (fun k => { k with halted := true }) s))

/-- RESUME (R369). -/
def resumeOp (r : Requester) (c : Nat) (s : State) : State :=
  if !coreReach r c s then countDenied r s
  else captureEnd c 2 stOK (fset (coreB c) fCORE_CAPTURE_CTL_STATE 0 (modCore c (fun k => { k with halted := false }) s))

/-- CAPTURE. -/
def execCapture (r : Requester) (c : Fin 256) (s : State) : Host.Outcome State Fault Refusal := .next (captureOp r c.val s)
/-- RESUME. -/
def execResume (r : Requester) (c : Fin 256) (s : State) : Host.Outcome State Fault Refusal := .next (resumeOp r c.val s)

end Sys2Proof.Machine
end

