-- ==== Sys2Proof/Machine/Cabinet.lean ====
section
/-! DEFINITION. The Cabinet: image format (R149 to R151), the checks of STAGE (R164) and of COMMIT and REVERT (R165, R166),
the edge (R167 to R169), transactions and their commands (R163, R171 to R173). -/

namespace Sys2Proof.Machine

/-- A failed check: status, section type at fault, offset in the image or record index (R173). -/
abbrev CabErr := BitVec 8 × Nat × Nat

/-- The first failed check of a list. -/
def firstErr (l : List (Option CabErr)) : Option CabErr := l.findSome? id

/-- A check that fails when a condition holds. -/
def errIf (c : Bool) (st : BitVec 8) (sect off : Nat) : Option CabErr := if c then some (st, sect, off) else none

/-! Sections (R150, R152 to R158, R212, R253, R290, R397). -/

/-- The number of words of a section's body, or of one record of PARTITIONS and SHELVES. -/
def recWords : Nat → Nat
  | 1 => 8
  | 2 => 4
  | 3 => 8
  | 4 => 4
  | 5 => 2
  | 6 => 8
  | 7 => 8
  | 8 => 4
  | 9 => 20
  | _ => 24

/-- A body length of a section type (R150). -/
def bodyLenOk (ty len : Nat) : Bool :=
  match ty with
  | 1 => len % 32 == 0 && decide (32 ≤ len ∧ len ≤ 128)
  | 3 => len % 32 == 0 && decide (len ≤ 32768)
  | t => len == 4 * recWords t

/-- The bits of word i of a record or body that must be 0. -/
def rsvMask (ty i : Nat) : Nat :=
  match ty with
  | 1 => match i with
    | 0 => 0xFFFFFEF0
    | 1 => 0xFFF00000
    | 2 => 0xFFE00000
    | 3 => 0x0000FC00
    | 4 => 0xFFFFF800
    | _ => 0xFFFFFFFF
  | 2 => if i < 2 then 0 else 0xFFFFFFFF
  | 3 => match i with
    | 0 => 0xFFE0F000
    | 1 => 0xFC00FF00
    | 2 => 0xFFFFE000
    | 3 => 0
    | 4 => 0
    | _ => 0xFFFFFFFF
  | 4 => match i with
    | 0 => 0xFFFFFF00
    | 1 => 0xFFFF0000
    | _ => 0xFFFFFFFF
  | 5 => if i = 0 then 0xFFFFFFC0 else 0xFFFFFFFF
  | 6 => match i with
    | 0 => 0
    | 1 => 0
    | 2 => 0xFFFF0000
    | 3 => 0xFFFFFF00
    | _ => 0xFFFFFFFF
  | 7 => match i with
    | 2 => 0xFFFFFF00
    | 6 => 0xFFFFFFFF
    | 7 => 0xFFFFFFFF
    | _ => 0
  | 8 => match i with
    | 0 => 0x0000FF00
    | 3 => 0x60000000
    | _ => 0xFFF80000
  | 9 =>
    if i = 0 then 0xFF808080
    else if i = 1 then 0xFFFFFFE0
    else if i = 2 then 0
    else if i = 3 then 0xFFFFFFFF
    else match i % 4 with
      | 0 => 0
      | 1 => 0xE000F000
      | 2 => 0xFFFFFF00
      | _ => 0xFFFFFFFF
  | _ => 0

/-- The lowest byte of a word that is not 0. -/
def lowByte (v : Nat) : Nat :=
  if v % 2 ^ 8 ≠ 0 then 0 else if v % 2 ^ 16 ≠ 0 then 1 else if v % 2 ^ 24 ≠ 0 then 2 else 3

/-- The own event codes of the counting block at a byte of the COUNTERS section, and whether the byte is its counter 0
(R396, R397). -/
def ctrCodes (i : Nat) : Nat × Nat × Bool :=
  if i < 0x08 then (0x10, 0x19, i == 0)
  else if i < 0x10 then (0x20, 0x23, i == 0x08)
  else if i < 0x20 then (0x30, 0x33, i == 0x10)
  else if i < 0x30 then (0x40, 0x45, i == 0x20)
  else if i < 0x40 then (0x50, 0x54, i == 0x30)
  else if i < 0x50 then (0x60, 0x63, i == 0x40)
  else if i < 0x58 then (0x70, 0x73, i == 0x50)
  else (0x80, 0x83, i == 0x58)

/-- A code that a counter may carry. -/
def ctrCodeOk (i v : Nat) : Bool :=
  let c := ctrCodes i
  v == 0 || v == 2 || (v == 1 && !c.2.2) || (decide (c.1 ≤ v ∧ v ≤ c.2.1) && v != 0x15)

/-- Check 5 of R164 on a record or body, as byte offset and validity: reserved fields, then encodings. -/
def encRules (ty : Nat) (w : List Nat) : List (Nat × Bool) :=
  let f (i : Nat) := w.getD i 0
  ((List.range (recWords ty)).map fun i => (4 * i + lowByte (f i &&& rsvMask ty i), f i &&& rsvMask ty i == 0))
  ++ match ty with
    | 3 => [(2, bitsOf (f 0) 20 19 == 1 || bitsOf (f 0) 20 19 == 2),
            (9, bitsOf (f 0) 20 19 == 1 || bitsOf (f 2) 12 8 == 0)]
    | 9 => (List.range 3).map fun l =>
        (l, decide (bitsOf (f 0) (8 * l + 6) (8 * l + 5) ≤ 1 ∧ bitsOf (f 0) (8 * l + 4) (8 * l) ≤ 0x10))
    | 10 => (List.range 96).map fun i => (i, ctrCodeOk i (bitsOf (f (i / 4)) (8 * (i % 4) + 7) (8 * (i % 4))))
    | _ => []

/-- A value lies in a range. -/
def inRange (v lo hi : Nat) : Bool := decide (lo ≤ v ∧ v ≤ hi)

/-- A level's format and scale are allowed (R271). -/
def levelOk (v : Nat) : Bool :=
  let fmt := bitsOf v 4 0
  if bitsOf v 6 5 = 1 then fmt == 3 || fmt == 4 else fmt == 0x10 || decide (fmt ≤ 2)

/-- Check 6 of R164 on a record or body, as byte offset and validity. -/
def rangeRules (ty : Nat) (w : List Nat) : List (Nat × Bool) :=
  let f (i : Nat) := w.getD i 0
  match ty with
  | 1 => [(0, bitsOf (f 0) 3 0 != 0), (8, inRange (f 2) 1 0x100000), (0x10, inRange (f 4) 1 1024)]
  | 2 => [(0, f 0 % 0x4000000 == 0 && decide (f 0 + 2 ^ 32 * f 1 < stackEnd))]
  | 3 => [(0xC, f 3 % 256 == 0), (0x10, f 4 % 256 == 0 && inRange (f 4) 256 coreStoreSize),
      (0xC, decide (f 3 + f 4 ≤ coreStoreSize))]
  | 4 => [(0, bitOf (f 0) 0), (4, inRange (f 1) 256 2048 && f 1 % 64 == 0)]
  | 5 => [(0, bitOf (f 0) 5)]
  | 6 => [(2, inRange (bitsOf (f 0) 31 16) 900 3600), (0, inRange (bitsOf (f 0) 15 0) 900 3600),
      (6, decide (bitsOf (f 1) 31 16 ≤ 1024)), (4, inRange (bitsOf (f 1) 15 0) 100 1200),
      (8, inRange (bitsOf (f 2) 7 0) 70 95), (9, inRange (bitsOf (f 2) 15 8) (bitsOf (f 2) 7 0 + 5) 105)]
  | 8 =>
    let l := bitsOf (f 3) 28 24
    [(0xF, decide (16 ≤ l)), (0xE, bitsOf (f 3) 23 16 != 0 && decide (16 * bitsOf (f 3) 23 16 < 2 ^ l)),
      (0xC, decide (16 * bitsOf (f 3) 15 0 < 2 ^ l))]
  | 9 =>
    ((List.range 3).map fun l => (l, levelOk (bitsOf (f 0) (8 * l + 7) (8 * l))))
    ++ [(4, inRange (f 1) 2 16)]
    ++ ((List.range 8).map fun b => (8 + b / 2, bitsOf (f 2) (4 * b + 3) (4 * b) != 0))
    ++ (List.range 4).flatMap fun p =>
      ((List.range 4).map fun a => (0x10 + 16 * p + a, bitsOf (f (4 + 4 * p)) (8 * a + 7) (8 * a) != 0))
      ++ [(0x16 + 16 * p, decide (bitsOf (f (5 + 4 * p)) 28 16 ≤ 4096))]
      ++ (List.range 4).map fun a => (0x18 + 16 * p, decide (bitsOf (f (6 + 4 * p)) (2 * a + 1) (2 * a) ≤ 2))
  | _ => []

/-! Image format (R149, R151). -/

/-- An entry of the section table: index, type, mode, body offset, body length. -/
structure CabEntry where
  i    : Nat
  ty   : Nat
  mode : Nat
  off  : Nat
  len  : Nat
  deriving DecidableEq, Repr

def imgSect (o : List Byte) : Nat := le16 o 6

def imgEntry (o : List Byte) (i : Nat) : CabEntry :=
  ⟨i, le16 o (0xA0 + 16 * i), (o.getD (0xA2 + 16 * i) 0).toNat, le32 o (0xA4 + 16 * i), le32 o (0xA8 + 16 * i)⟩

def imgEntries (o : List Byte) : List CabEntry := (List.range (imgSect o)).map (imgEntry o)

/-- Check 2 of R164 on the header. -/
def headerErr (o : List Byte) (cur : CabStruct) : Option CabErr :=
  firstErr [
    errIf (bytesAt o 0 4 != [0x43, 0x42, 0x4E, 0x54]) stFORMAT 0 0,
    errIf (o.getD 4 0 != 1) stFORMAT 0 4,
    errIf (o.getD 5 0 != 0) stFORMAT 0 5,
    errIf (!inRange (imgSect o) 1 16) stFORMAT 0 6,
    errIf (le32 o 8 == 0) stFORMAT 0 8,
    errIf (cur.legacy && le32 o 0xC != 0) stFORMAT 0 0xC,
    errIf (le32 o 0x10 != 0x6400B000) stFORMAT 0 0x10,
    errIf (!inRange (le32 o 0x14) 0x240 0x1000000) stFORMAT 0 0x14,
    errIf (!zeroBytes o 0x20 32) stFORMAT 0 0x20]

/-- Check 2 of R164 on one entry of the section table. -/
def entryErr (o : List Byte) (e : CabEntry) : Option CabErr :=
  let at0 := 0xA0 + 16 * e.i
  firstErr [
    errIf (!inRange e.ty 1 10 || (imgEntries o).any fun x => decide (x.i < e.i) && x.ty == e.ty) stFORMAT e.ty at0,
    errIf (decide (1 < e.mode)) stFORMAT e.ty (at0 + 2),
    errIf (o.getD (at0 + 3) 0 != 0) stFORMAT e.ty (at0 + 3),
    errIf (e.mode == 1 && (e.off % 64 != 0 || decide (e.off < 0xA0 + 16 * imgSect o) || decide (le32 o 0x14 < e.off + e.len)
      || (imgEntries o).any fun x => x.i != e.i && x.mode == 1 && meets e.off e.len x.off x.len)) stFORMAT e.ty (at0 + 4),
    errIf (e.mode == 1 && !bodyLenOk e.ty e.len) stFORMAT e.ty (at0 + 8),
    errIf (!zeroBytes o (at0 + 12) 4) stFORMAT e.ty (at0 + 12)]

/-- KEY_ID of a public key: the first 8 B of its SHA-384 digest (R149, R415). -/
def keyIdOf (k : List Byte) : List Byte := (Config.sha384 k).take 8

/-- The enrolled cabinet key of a KEY_ID (R413). -/
def cabKey (kid : List Byte) (s : State) : Option (List Byte) :=
  s.nv.cabKeys.findSome? fun k => match k with
    | none => none
    | some x => if keyIdOf x = kid then some x else none

/-- The lifecycle admits unsigned images and commands: MANUFACTURE and OPEN (R151, R407). -/
def unsignedOk (s : State) : Bool := decide (s.nv.lc ≤ 1)

/-- Check 3 of R164: the key and the signature (R149, R151). -/
def signedErr (o : List Byte) (s : State) : Option CabErr :=
  let sig := bytesAt o 0x40 96
  let free : Bool := unsignedOk s && zeroBytes o 0x18 8 && sig.all fun b => b == 0
  let body := (o.take (le32 o 0x14)).take 0x40 ++ List.replicate 96 0 ++ (o.take (le32 o 0x14)).drop 0xA0
  match cabKey (bytesAt o 0x18 8) s with
  | none => errIf (!free) stDENIED 0 0x18
  | some k => errIf (!free && !Config.ecdsaOk k (Config.sha384 body) sig) stDENIED 0 0x40

/-- Check 4 of R164: generations (R161). -/
def genErr (o : List Byte) (s : State) : Option CabErr :=
  let g : Word := BitVec.ofNat 32 (le32 o 8)
  firstErr [
    errIf (!(newer32 g s.nv.hwm || (g == s.nv.hwm && s.cab.cur.gen == 0))) stSTALE 0 8,
    errIf (match s.cab.staged with
      | none => false
      | some x => x != g) stSTALE 0 8,
    errIf (le32 o 0xC != 0 && le32 o 0xC != s.cab.cur.gen.toNat) stSTALE 0 0xC]

/-- The words of a byte string. -/
def wordsOf (o : List Byte) (off n : Nat) : List Nat := (List.range n).map fun i => le32 o (off + 4 * i)

/-- A rule list applied to every record of a body. -/
def bodyErr (rules : Nat → List Nat → List (Nat × Bool)) (st : BitVec 8) (o : List Byte) (e : CabEntry) : Option CabErr :=
  let n := recWords e.ty
  (List.range (e.len / (4 * n))).findSome? fun r =>
    ((rules e.ty (wordsOf o (e.off + 4 * n * r) n)).find? fun x => !x.2).map fun x => (st, e.ty, e.off + 4 * n * r + x.1)

/-- Checks 5 and 6 of R164 on every section. -/
def bodiesErr (o : List Byte) : Option CabErr :=
  let l := imgEntries o
  firstErr [
    l.findSome? fun e =>
      if e.mode = 0 then errIf (e.len != 0) stFORMAT e.ty (0xA8 + 16 * e.i) else bodyErr encRules stFORMAT o e,
    l.findSome? fun e => if e.mode = 0 then none else bodyErr rangeRules stLENGTH o e]

/-- The check of a range that STAGE reads (R164): register space is refused too. -/
def stageRange (a n : Nat) (s : State) : BitVec 8 :=
  firstFail [rangeStatus .pf0 a n s, failIf (regionOf a == some .reg) stDENIED]

/-- The checks of STAGE in order (R164). SIZE is compared where the source can be read; a source that cannot holds no SIZE, so the
check of its range answers. -/
def stageErr (a len : Nat) (o : List Byte) (s : State) : Option CabErr :=
  firstErr [
    errIf (a % 64 != 0) stFORMAT 0 0,
    errIf (decide (0x1000000 < len) || (stageRange a 0x18 s == stOK && len != le32 o 0x14)) stLENGTH 0 0x14,
    match stageRange a len s with
      | 0 => none
      | st => some (st, 0, 0),
    errIf (len != le32 o 0x14) stLENGTH 0 0x14,
    headerErr o s.cab.cur, (imgEntries o).findSome? (entryErr o), signedErr o s, genErr o s, bodiesErr o]

/-- The structure that an image makes of the shadow (R148, R164). -/
def mergeImage (o : List Byte) (base : CabStruct) : CabStruct :=
  let start : CabStruct := if le32 o 0xC = 0 then presetStruct else base
  let put (c : CabStruct) (e : CabEntry) : CabStruct :=
    let body := if e.mode = 0 then presetSects.getD (e.ty - 1) []
      else (wordsOf o e.off (e.len / 4)).map (BitVec.ofNat 32)
    { c with sect := modAt (e.ty - 1) (fun _ => body) c.sect,
             expert := BitVec.ofNat 10 (setBit c.expert.toNat (e.ty - 1) (e.mode == 1)) }
  { (imgEntries o).foldl put start with gen := BitVec.ofNat 32 (le32 o 8), legacy := false }

/-! Validation (R165). -/

/-- The records of SHELVES, as words. -/
def shelves (c : CabStruct) : List (List Word) :=
  (List.range (sectRecs c 3 8)).map fun i => ((c.sect.getD 2 []).drop (8 * i)).take 8

def shW (x : List Word) (i : Nat) : Nat := (x.getD i 0).toNat
def shSink (x : List Word) : Bool := bitsOf (shW x 0) 20 19 == 2
def shCore (x : List Word) : Nat := bitsOf (shW x 1) 7 0

/-- The first index of a list that breaks a rule. -/
def firstBadIdx (n : Nat) (ok : Nat → Bool) : Option Nat := (List.range n).find? fun i => !ok i

/-- Check 2 of R165: the rules across fields and sections of R152 to R158, R253 and R290. -/
def crossErr (c : CabStruct) : Option CabErr :=
  let np := nParts c
  let rule (sect n : Nat) (ok : Nat → Bool) : Option CabErr := (firstBadIdx n ok).map fun i => (stLENGTH, sect, i)
  let before (i : Nat) (f : Nat → Bool) : Bool := (List.range i).all f
  firstErr [
    rule 1 np fun p => dieMask c p != 0 && before p (fun q => dieMask c p &&& dieMask c q == 0)
      && decide (qidBase c p + qidCount c p ≤ 0x100000)
      && before p (fun q => !meets (qidBase c p) (qidCount c p) (qidBase c q) (qidCount c q))
      && decide (pkgIndex c p < sliceSize c p),
    errIf ((List.range 4).any fun d => (partOfDie c d).isNone) stLENGTH 1 (np - 1),
    rule 3 (shelves c).length fun i =>
      let x := (shelves c).getD i []
      !shSink x || before i (fun j =>
        let y := (shelves c).getD j []
        !shSink y || shCore x != shCore y || !meets (shW x 3) (shW x 4) (shW y 3) (shW y 4)),
    errIf (decide (65536 < 16384 + 32 * ((List.range 8).filter (vlEnabled c)).length * bitsOf (sectW c 4 1) 15 0))
      stLENGTH 4 0,
    errIf ((List.range 8).any fun v => vlEnabled c v && !bitOf (sectW c 7 2) v
      && bitsOf (sectW c 7 3) (4 * v + 3) (4 * v) == 0) stLENGTH 7 0,
    rule 9 4 fun p => decide (chBase c p + chCount c p ≤ 4096)
      && before p (fun q => chCount c p == 0 || chCount c q == 0
          || !meets (chBase c p) (chCount c p) (chBase c q) (chCount c q))
      && decide (axLevel c p 0 ≤ axLevel c p 1 ∧ axLevel c p 1 ≤ axLevel c p 2 ∧ axLevel c p 2 ≤ axLevel c p 3)
      && (decide (np ≤ p) || axExt c p 0 * axExt c p 1 * axExt c p 2 * axExt c p 3 == sliceSize c p)]

/-- Check 3 of R165. -/
def fencedErr (c : CabStruct) (s : State) : Option CabErr :=
  firstErr [
    (firstBadIdx (shelves c).length fun i => cluOk (shCore ((shelves c).getD i []) / 8) s).map fun i => (stFENCED, 3, i),
    (firstBadIdx (nParts c) fun p => (List.range 32).any fun k => bitOf (dieMask c p) (k / 8) && cluOk k s).map
      fun p => (stFENCED, 1, p)]

/-! Quiet resources (R166, R213, R291). -/

/-- The partitions, old and new, between which a die moves. -/
def movedParts (old new : CabStruct) : List Nat :=
  (List.range 4).filter fun p => (List.range 4).any fun d =>
    partOfDie old d != partOfDie new d && (partOfDie old d == some p || partOfDie new d == some p)

/-- A program runs on a core of a partition. -/
def partRuns (p : Nat) (s : State) : Bool := s.insts.any fun i => i.part == p && !i.running.isEmpty

/-- A queue that is not DISABLED lies in a range. -/
def liveIn (base n : Nat) (s : State) : Bool :=
  s.queues.any fun e => e.2.st != .disabled && decide (base ≤ e.1 ∧ e.1 < base + n)

/-- The fields of a PARTITIONS record that make up its place in the slice, and SEAL. -/
def sliceKey (c : CabStruct) (p : Nat) : Nat × Nat × Nat × Bool := (sliceId c p, pkgIndex c p, sliceSize c p, sealBit c p)

/-- The fields of DRIPLINE that name the pace domain. -/
def domKey (c : CabStruct) : Nat × Nat × Nat := (domainId c, bitsOf (sectW c 8 1) 18 0, bitsOf (sectW c 8 2) 18 0)

/-- The CHAMBERS record of a partition. -/
def chKey (c : CabStruct) (p : Nat) : List Nat := (List.range 4).map fun i => sectW c 9 (4 + 4 * p + i)

/-- A chamber of a range of identifiers is not INACTIVE. -/
def chLive (base n : Nat) (s : State) : Bool := (liveChs s).any fun e => decide (base ≤ e.1 ∧ e.1 < base + n)

/-- A launch-table entry is armed on the package. -/
def anyArmed (s : State) : Bool := s.insts.any fun i => !i.waiting.isEmpty

/-- A chamber runs a request with TIMED = 1, in state TIMED or CREDITED. -/
def timedRequest (s : State) : Bool :=
  s.col.chs.any fun e => (match e.2.req with
    | none => false
    | some r => rqTimed r.bytes)

/-- The first resource that a change touches and that is not quiet: section and record (R166). -/
def quietErr (new : CabStruct) (s : State) : Option CabErr :=
  let old := s.cab.cur
  let busy (sect : Nat) (i : Option Nat) : Option CabErr := i.map fun x => (stDRAINING, sect, x)
  firstErr [
    busy 1 ((movedParts old new).find? fun p => partRuns p s || liveIn (qidBase old p) (qidCount old p) s
      || liveIn (qidBase new p) (qidCount new p) s),
    busy 1 ((s.queues.find? fun e => e.2.st != .disabled && partOfQid old e.1 != partOfQid new e.1).map fun e =>
      ((partOfQid new e.1).orElse fun _ => partOfQid old e.1).getD 0),
    busy 1 ((List.range (nParts new)).find? fun p => decide (p < nParts old) && sliceKey old p != sliceKey new p && partRuns p s),
    errIf (tableBase old != tableBase new && s.queues.any fun e => e.2.st != .disabled) stDRAINING 2 0,
    busy 3 (firstBadIdx (shelves new).length fun i =>
      let x := (shelves new).getD i []
      (shelves old).contains x || (getCore (shCore x) s).run.isNone),
    busy 3 (firstBadIdx (shelves old).length fun i =>
      let x := (shelves old).getD i []
      (shelves new).contains x || (getCore (shCore x) s).run.isNone),
    errIf (old.sect.getD 3 [] != new.sect.getD 3 [] && s.fab.ports.any fun x =>
      x.headroom != 0 || x.inRes.sum != 0 || x.inShared.sum != 0
        || x.egress.any (fun l => !l.isEmpty) || x.backlog.any fun l => !l.isEmpty) stDRAINING 4 0,
    errIf (domKey old != domKey new && (anyArmed s || timedRequest s)) stDRAINING 8 0,
    errIf ((sectW old 9 0 != sectW new 9 0 || sectW old 9 1 != sectW new 9 1)
      && s.col.chs.any fun e => e.2.st == 2 || e.2.st == 3) stDRAINING 9 0,
    busy 9 ((List.range 4).find? fun p => chKey old p != chKey new p
      && (chLive (chBase old p) (chCount old p) s || chLive (chBase new p) (chCount new p) s))]

/-- Checks 2 to 8 of R165 on the structure that would become current. -/
def validate (new : CabStruct) (timed : Bool) (t : BitVec 48) (s : State) : Option CabErr :=
  firstErr [crossErr new, fencedErr new s, errIf (!rungAllowed new (curRung s)) stDENIED 5 0, quietErr new s,
    errIf (timed && inDrift s) stDENIED 0 0, errIf (timed && armRange t s.clk.p) stLENGTH 0 0,
    errIf (timed && reaches48 s.clk.p t) stLATE 0 0]

/-! The edge (R166 to R169). -/

/-- The SEALED die mask of a structure (R427). -/
def sealedDies (c : CabStruct) : Nat :=
  partBits ((List.range 4).filter fun d => match partOfDie c d with
    | none => false
    | some p => sealBit c p)

/-- The partitions that an edge tears down: a die moves, or SEAL changes (R421). -/
def tornParts (old new : CabStruct) : List Nat :=
  (List.range 4).filter fun p => (movedParts old new).contains p
    || (partExists old p && partExists new p && sealBit old p != sealBit new p)

/-- What a teardown does under the old structure: work ends, queues close, keys go, own descriptors are zeroed (R139). -/
def tearOld (p : Nat) (s : State) : State :=
  if !partExists s.cab.cur p then s
  else
    let s := forAll (s.insts.filter fun i => i.part == p) (fun i => cancelInst i.id stSTALE) (eraseKeysOf p s)
    let s := chPartReset p (forAll (liveQueues p s) (disableQueue stSTALE) s)
    zeroDescs (qidBase s.cab.cur p) (qidCount s.cab.cur p) (unloadParts [p] s)

/-- A teardown under the new structure: the reset of the partition (R166, R361). -/
def tearNew (p : Nat) (s : State) : State :=
  if !partExists s.cab.cur p then s
  else if partInReset p s then setPartPhase p 1 s
  else beginReset 3 p none s

/-- The blocks of a counter of the COUNTERS section. -/
def ctrBlocks (i : Nat) : List CtrBlk :=
  if i < 0x08 then (List.range 256).map ctrCore
  else if i < 0x10 then (List.range 32).map ctrClu
  else if i < 0x20 then (List.range 4).map ctrDie
  else if i < 0x30 then (List.range 32).map ctrFab
  else if i < 0x40 then (List.range 20).map ctrMem
  else if i < 0x50 then [ctrQm]
  else if i < 0x58 then [ctrCol]
  else [ctrPwr]

/-- The event at a byte of the COUNTERS section. -/
def ctrByte (c : CabStruct) (i : Nat) : Nat := bitsOf (sectW c 10 (i / 4)) (8 * (i % 4) + 7) (8 * (i % 4))

/-- Counters whose event changes return to 0 (R395). -/
def countersEdge (old new : CabStruct) (s : State) : State :=
  forAll ((List.range 96).filter fun i => ctrByte old i != ctrByte new i) (fun i =>
    forAll (ctrBlocks i) (fun b => ctrSet b (i - b.evts) ⟨0, 0⟩)) s

/-- The DRIPLINE section at an edge (R205, R213); the keeper in force stays where the edge names no other domain, keeper or
backup (R199, R214). -/
def domainEdge (old new : CabStruct) (s : State) : State :=
  if domKey old = domKey new then fset drpB fDRP_PULSE_PULSE (sectW s.cab.cur 8 3) s
  else
    let s := match s.drp.prop with
      | none => s
      | some a => dropProp a.seq s
    joinDomain { s with drp := { s.drp with change := none, ceilings := [] } }

/-- CTRL pauses while the queue manager empties its descriptor cache (R28, R166). -/
def cacheEdge (old new : CabStruct) (s : State) : State :=
  let moved : Bool := tableBase old != tableBase new
    || (List.range 4).any fun p => qidBase old p != qidBase new p || qidCount old p != qidCount new p
  if moved && ctrlPlane s == 1 then fset hubB fHUB_PLANE_STATUS_CTRL 2 s else s

/-- A change of the SEALED die mask replaces every session (R427). -/
def sessionsEdge (old new : CabStruct) (s : State) : State :=
  if sealedDies old = sealedDies new then s
  else forAll ((s.fab.sessions.filter fun e => e.2.isSome).map fun e => BitVec.ofNat 19 e.1) startShake s

/-- The new Sump division and XOFF caps take effect (R166, R236). -/
def sumpEdge (s : State) : State :=
  forAll (List.range 32) (fun p => forAll (List.range 8) (fun v s => updateXoff p v (sumpRegs p v s))) s

/-- The CAB registers that show the structures (R173). -/
def noteCab (s : State) : State :=
  let gen (c : Option CabStruct) : Word := (c.map fun x => x.gen).getD 0
  let s := regSet (cabB + oCAB_GEN_CUR) s.cab.cur.gen (regSet (cabB + oCAB_GEN_PREV) (gen s.cab.prev)
    (regSet (cabB + oCAB_GEN_SHADOW) (gen s.cab.shadow) (regSet (cabB + oCAB_GEN_HWM) s.nv.hwm s)))
  fset cabB fCAB_TXN_LEGACY s.cab.cur.legacy.toNat (fset cabB fCAB_SECT_MODE_EXPERT s.cab.cur.expert.toNat s)

def txnState (s : State) : Nat := fget cabB fCAB_TXN_STATE s
def setTxn (v : Nat) (s : State) : State := fset cabB fCAB_TXN_STATE v s

/-- A generation becomes current with all its effects together (R166 to R168). -/
def applyStruct (new : CabStruct) (prev : Option CabStruct) (s : State) : State :=
  let old := s.cab.cur
  let torn := tornParts old new
  let s := forAll torn tearOld s
  let s := noteCab { s with cab := { s.cab with cur := new, prev := prev } }
  let s := countersEdge old new (domainEdge old new (powerEdge old new s))
  let s := sessionsEdge old new (cacheEdge old new (noteCeiling (noteLimits (sumpEdge s))))
  forAll torn tearNew s

/-- Writes CAB_RESULT and CAB_ERR (R173). -/
def cabResult (cmd : Nat) (e : Option CabErr) (s : State) : State :=
  let x : CabErr := e.getD (stOK, 0, 0)
  let s := fset cabB fCAB_RESULT_CMD cmd (fset cabB fCAB_RESULT_STATUS x.1.toNat (fset cabB fCAB_RESULT_SECT x.2.1
    (fadd cabB fCAB_RESULT_SEQ 1 s)))
  regSet (cabB + oCAB_ERR) (BitVec.ofNat 32 x.2.2) s

/-- A command ends (R163). -/
def cabEnd (cmd : Nat) (e : Option CabErr) (s : State) : State :=
  evt cabB eCAB_EVENT_CMD_DONE (fset cabB fCAB_CMD_BUSY 0 (cabResult cmd e s))

/-- The structure that an edge would make current. -/
def edgeStruct (isRevert : Bool) (s : State) : Option CabStruct := if isRevert then s.cab.prev else s.cab.shadow

/-- The edge of a COMMIT or REVERT (R167 to R169): everything applies, or nothing does; the state and what CAB_RESULT
reports. DESIGN CHOICE (log entry 102): an armed REVERT whose previous generation is gone by then (R172) ends with OK and sets
neither APPLIED nor NOT_APPLIED. -/
def edgeApply (isRevert timed : Bool) (s : State) : Option CabErr × State :=
  let s := fset cabB fCAB_TXN_REVERTING 0 { s with cab := { s.cab with edge := none } }
  match edgeStruct isRevert s with
  | none => (none, setTxn 0 s)
  | some new =>
    match firstErr [quietErr new s, errIf (timed && inDrift s) stLATE 0 0] with
    | some e => (some e, evt cabB eCAB_EVENT_NOT_APPLIED (setTxn (if isRevert then 0 else 1) s))
    | none =>
      let prev := if isRevert ∨ s.cab.cur.gen = 0 then none else some s.cab.cur
      let s := if isRevert then s else { s with cab := { s.cab with shadow := none, staged := none } }
      (none, evt cabB eCAB_EVENT_APPLIED (setTxn 0 (applyStruct new prev s)))

/-- The command code of an edge. -/
def edgeCmd (isRevert : Bool) : Nat := if isRevert then 5 else 3

/-- An armed rung change that is due at t or before comes first (R208). -/
def rungFirst (t : BitVec 48) (s : State) : State :=
  match s.drp.prop with
  | none => s
  | some a => if reaches48 t a.t then dueRung s else s

/-- The armed edge when P has reached T; the second report of R163 (R169). A rung change due by then comes first (R208). -/
def timedEdge (s : State) : State :=
  match s.cab.edge with
  | none => s
  | some x =>
    if reaches48 s.clk.p x.t ∧ !isSafe s then
      let r := edgeApply x.revert true (rungFirst x.t s)
      cabResult (edgeCmd x.revert) r.1 r.2
    else s

/-- What is due at t or before a launch-table entry of that T fires (R208): the rung change, then the Cabinet edge. -/
def dueFirst (t : BitVec 48) (s : State) : State :=
  let s := rungFirst t s
  match s.cab.edge with
  | none => s
  | some x => if reaches48 t x.t then timedEdge s else s

/-- LAUNCH_ENTRY_FIRE (R120, R208). -/
def execLaunchEntryFire (c : Fin 256) (slot : Fin 64) (s : State) : Host.Outcome State Fault Refusal :=
  .next (match dueEntry c.val slot.val s with
    | none => s
    | some e => entryFire c.val slot.val (dueFirst e.t s))

/-! Commands (R163, R171). -/

/-- BEGIN. -/
def cabBegin (s : State) : State :=
  if txnState s ≠ 0 then cabEnd 1 (some (stDENIED, 0, 0)) s
  else cabEnd 1 none (noteCab (setTxn 1 { s with cab := { s.cab with shadow := some s.cab.cur, staged := none } }))

def cabSrc (s : State) : Nat := fget cabB fCAB_ARG_SRC_LO_SRC_LO s + 2 ^ 32 * fget cabB fCAB_ARG_SRC_HI_SRC_HI s

/-- STAGE (R164). -/
def cabStage (s : State) : State :=
  if txnState s ≠ 1 then cabEnd 2 (some (stDENIED, 0, 0)) s
  else
    let len := fget cabB fCAB_ARG_LEN_LEN s
    let o := memBytes (cabSrc s) (Nat.max 0x240 (Nat.min len 0x1000000)) s
    let err := stageErr (cabSrc s) len o s
    let s := if cabSrc s % 64 = 0 ∧ len ≤ 0x1000000 ∧ stageRange (cabSrc s) len s = stOK then (readAll (cabSrc s) len s).1 else s
    match err with
    | some e => cabEnd 2 (some e) s
    | none =>
      let new := mergeImage o (s.cab.shadow.getD s.cab.cur)
      cabEnd 2 none (noteCab { s with
        cab := { s.cab with shadow := some new, staged := some new.gen } })

/-- The pace time of CAB_ARG_P. -/
def cabT (s : State) : BitVec 48 :=
  BitVec.ofNat 48 (fget cabB fCAB_ARG_P_LO_P_LO s + 2 ^ 32 * fget cabB fCAB_ARG_P_HI_P_HI s)

/-- A COMMIT or REVERT that has passed validation: armed, or applied at once with a single report. -/
def cabGo (isRevert timed : Bool) (s : State) : State :=
  if timed then
    let s := { s with cab := { s.cab with edge := some ⟨isRevert, cabT s, true⟩ } }
    let s := fset cabB fCAB_ARMED_P_LO_P_LO ((cabT s).toNat % 2 ^ 32) (fset cabB fCAB_ARMED_P_HI_P_HI ((cabT s).toNat / 2 ^ 32)
      (fset cabB fCAB_TXN_REVERTING isRevert.toNat (setTxn 2 s)))
    cabEnd (edgeCmd isRevert) none s
  else
    let r := edgeApply isRevert false s
    cabEnd (edgeCmd isRevert) r.1 r.2

/-- COMMIT (R162, R165). -/
def cabCommit (timed : Bool) (s : State) : State :=
  match s.cab.shadow with
  | none => cabEnd 3 (some (stDENIED, 0, 0)) s
  | some new =>
    if txnState s ≠ 1 ∨ s.cab.staged.isNone then cabEnd 3 (some (stDENIED, 0, 0)) s
    else match validate new timed (cabT s) s with
      | some e => cabEnd 3 (some e) s
      | none => cabGo false timed (noteCab { s with nv := { s.nv with hwm := new.gen } })

/-- REVERT (R165, R168). -/
def cabRevert (timed : Bool) (s : State) : State :=
  match s.cab.prev with
  | none => cabEnd 5 (some (stDENIED, 0, 0)) s
  | some new =>
    if txnState s ≠ 0 then cabEnd 5 (some (stDENIED, 0, 0)) s
    else match validate new timed (cabT s) s with
      | some e => cabEnd 5 (some e) s
      | none => cabGo true timed s

/-- The transaction is discarded: shadow gone, edge disarmed. -/
def cabDiscard (s : State) : State :=
  noteCab (fset cabB fCAB_TXN_REVERTING 0 (setTxn 0 { s with cab := { s.cab with shadow := none, staged := none, edge := none } }))

/-- ROLLBACK (R171): an edge that is due is handled first, and LATE tells that it applied. -/
def cabRollback (s : State) : State :=
  let due : Bool := match s.cab.edge with
    | none => false
    | some x => reaches48 s.clk.p x.t
  let t := if due then timedEdge s else s
  let applied : Bool := due && fget cabB fCAB_RESULT_STATUS t == 0
  cabEnd 4 (if applied then some (stLATE, 0, 0) else none) (cabDiscard t)

/-- A command of CAB_CMD runs (R163); in RETIRED every command is refused (R407). -/
def cabRun (cmd : Nat) (timed : Bool) (s : State) : State :=
  if s.nv.lc = 3 ∧ inRange cmd 1 5 then cabEnd cmd (some (stDENIED, 0, 0)) s
  else match cmd with
    | 1 => cabBegin s
    | 2 => cabStage s
    | 3 => cabCommit timed s
    | 4 => cabRollback s
    | 5 => cabRevert timed s
    | c => cabEnd c (some (stFORMAT, 0, 0)) s

/-- A write of CAB_CMD (R163): refused unless PF0, a management port or the firmware writes it; dropped while BUSY; waiting
while MGMT is PAUSED. -/
def cabWrite (r : Requester) (cmd : Nat) (timed : Bool) (s : State) : State :=
  if !isPf0 r || !mayCommand r s then countDenied r s
  else if fget cabB fCAB_CMD_BUSY s = 1 then regAccessFault r (cabB + oCAB_CMD) s
  else
    let s := fset cabB fCAB_CMD_CMD cmd (fset cabB fCAB_CMD_TIMED timed.toNat s)
    if mgmtPlane s = 2 then
      fset cabB fCAB_CMD_BUSY 1 { s with cab := { s.cab with wait := some (BitVec.ofNat 4 cmd, timed) } }
    else cabRun cmd timed s

/-- The command that waited for the end of the pause of MGMT starts (R171). -/
def cabResume (s : State) : State :=
  match s.cab.wait with
  | none => s
  | some x => cabRun x.1.toNat x.2 { s with cab := { s.cab with wait := none } }

/-- A hub firmware activation discards an OPEN transaction (R171). -/
def cabHubRestart (s : State) : State := if txnState s = 1 then cabDiscard s else s

/-- A hub firmware of a new FMT_MAJOR has been activated (R172): the current generation is LEGACY, the previous one becomes 0,
and an edge that would revert to it has none. -/
def cabNewFmt (s : State) : State :=
  noteCab { s with cab := { s.cab with cur := { s.cab.cur with legacy := true }, prev := none } }


/-- DESCRIPTOR_CACHE_EMPTY (R28, R166): CTRL returns to RUN and held doorbells take effect in order. -/
def cacheEmpty (s : State) : State :=
  if ctrlPlane s ≠ 2 then s
  else
    let l := s.bells
    forAll l (fun b s => ringBell b.window.val b.word (countEvt ctrQm 0x60 1 s))
      (fset hubB fHUB_PLANE_STATUS_CTRL 1 { s with bells := [] })

/-- DESCRIPTOR_CACHE_EMPTY. -/
def execDescriptorCacheEmpty (s : State) : Host.Outcome State Fault Refusal := .next (cacheEmpty s)

end Sys2Proof.Machine
end

