-- ==== Sys2Proof/Machine/Patrol.lean ====
section
/-! DEFINITION. Patrol of SRAM (R132) and of the stacks (R138, R145), and power-down of idle stack channels
(R133). -/

namespace Sys2Proof.Machine

/-- The bytes of an SRAM line that one patrol read covers. -/
abbrev lineBytes : Nat := 256

/-- SRAM patrol runs on the line at an offset: not in a fenced cluster, not under a scrub, not while ECLK stands (R132). -/
def patrolRuns (a : Nat) (s : State) : Bool :=
  regionOf a == some .sram && eclkRuns s && (clustersIn a 1).all (fun k => cluOk k s)
    && (ownersIn a 1 s).all (fun o => match o with
      | none => true
      | some p => !scrubbing p s)

/-- The marks of a line go where patrol corrected a word and writes it back. -/
def patrolWriteBack (a : Nat) (s : State) : State :=
  forAll ((marksIn a lineBytes s).filter fun c => c.2 == 1) (fun c => setMark c.1 0) s

/-- SRAM_PATROL_READ (R132): errors are noted as on any read; corrected words are written back unless a port has written
the line since. -/
def sramPatrol (a : Nat) (written : Bool) (s : State) : State :=
  let a := a / lineBytes * lineBytes
  if patrolRuns a s then
    let t := noteMarks (marksIn a lineBytes s) s
    if written then t else patrolWriteBack a t
  else s

/-- SRAM_PATROL_READ. -/
def execSramPatrolRead (addr : BitVec 46) (written : Bool) (s : State) : Host.Outcome State Fault Refusal :=
  .next (sramPatrol addr.toNat written s)

/-- The granule at an offset is uncorrectable: recorded, and read so from then on (R138). -/
def patrolUE (a : Nat) (s : State) : State := noteUE a (setMark a 2 s)

/-- MEM_PATROL (R138): the read of one granule of a stack in service that no scrub runs on (R140). -/
def memPatrolOp (st a : Nat) (res : GranuleRead) (s : State) : State :=
  let a := a / 64 * 64
  if stackEnd ≤ a ∨ stackOf a ≠ st ∨ !stackOk st s ∨ isSafe s ∨ fget (memB st) fMEM_STATUS_SCRUBBING s = 1 ∨ fget (memB st) fMEM_PATROL_PERIOD_H s = 0 then s
  else
    let s := noteAccess false a 64 s
    if 2 ≤ tget (fun _ => 0) s.ecc a then noteMarks (marksIn a 64 s) s
    else match res with
    | .clean => s
    | .corrected => softFault 0x05 (0x5000 + st) (a % 2 ^ 32) (a / 2 ^ 32) (evt (memB st) eMEM_ECC_CE s)
    | .uncorrected => patrolUE a s
    | .parityOnce => noteParity a s
    | .parityTwice => patrolUE a (noteParity a s)

/-- MEM_PATROL. -/
def execMemPatrol (st : Fin 20) (addr : BitVec 46) (res : GranuleRead) (s : State) : Host.Outcome State Fault Refusal :=
  .next (memPatrolOp st.val addr.toNat res s)

/-- CHANNEL_POWER_DOWN (R133): a channel of a stack in service that has been idle for 1 µs; under a scrub none is. -/
def channelDown (st ch : Nat) (s : State) : State :=
  let x := tget (fun _ => (0, false)) s.chans (32 * st + ch)
  if stackOk st s ∧ elapsed x.1 ticksUs s ∧ fget (memB st) fMEM_STATUS_SCRUBBING s = 0 then
    { s with chans := tset (fun _ => (0, false)) (32 * st + ch) (x.1, true) s.chans }
  else s

/-- CHANNEL_POWER_DOWN. -/
def execChannelPowerDown (st : Fin 20) (ch : Fin 32) (s : State) : Host.Outcome State Fault Refusal :=
  .next (channelDown st.val ch.val s)

end Sys2Proof.Machine
end

