-- ==== Sys2Proof/Machine/Gorzel.lean ====
section
/-! DEFINITION. Gorzel (R293 to R320): the package's side (claims, writes and their operations, slice rows), the roles of its
instance and its lease, messages and their retries, and the managing work of the active instance. -/

namespace Sys2Proof.Machine

/-! The instance and its messages. -/

/-- The instance works: MGMT is RUN (R302), and the package knows its EID (R295). -/
def gzUp (s : State) : Bool := mgmtPlane s == 1 && fget hostB fHOST_MGMT_LOCATED s == 1

/-- The instance handles a message: one at a time, so not while a WRITE waits for its drain (R302). -/
def gzOn (s : State) : Bool := gzUp s && s.gzl.cont.isNone

/-- The role: 0 MEMBER, 1 STANDBY, 2 ACTIVE, 3 YIELDING (R297). -/
def gzRole (s : State) : Nat := fget gzlB fGZL_ROLE_ROLE s
/-- The instance is ACTIVE and its own deadline has not passed (R299). -/
def gzActive (s : State) : Bool :=
  gzUp s && gzRole s == 2 && (match s.gzl.deadline with
    | none => false
    | some t => decide (s.clk.now < t))

def gzSetRole (r : Nat) (s : State) : State :=
  if gzRole s = r then s else evt gzlB eGZL_EVENT_ROLE_CHG (fset gzlB fGZL_ROLE_ROLE r s)

/-- The holder that the package records; 0x7_FFFF for none (R320). -/
def gzHolder (s : State) : BitVec 19 := BitVec.ofNat 19 (fget gzlB fGZL_HOLDER_HOLDER_EID s)

def gzPeer (e : BitVec 19) (s : State) : Option GzlPeer := tget (fun _ => none) s.gzl.peers e.toNat
def setGzPeer (e : BitVec 19) (x : GzlPeer) (s : State) : State :=
  { s with gzl := { s.gzl with peers := tset (fun _ => none) e.toNat (some x) s.gzl.peers } }

def isWrite : GzlBody → Bool
  | .write _ => true
  | _ => false
def isClaim : GzlBody → Bool
  | .claim _ _ => true
  | _ => false
def isReport : GzlBody → Bool
  | .report _ => true
  | _ => false
def isRegister : GzlBody → Bool
  | .register _ _ _ => true
  | _ => false
def isCopy : GzlBody → Bool
  | .stateCopy _ _ => true
  | _ => false
/-- Messages that only the ACTIVE instance sends (R297, R299). -/
def ofHolder (b : GzlBody) : Bool := isWrite b || isClaim b

/-- A WRITE to a package that has announced a pause is held (R315). -/
def gzHeld (dest : Option (BitVec 19)) (b : GzlBody) (s : State) : Bool :=
  isWrite b && (match dest.bind fun e => gzPeer e s with
    | none => false
    | some p => p.pause.isSome)

/-- The time of the last ENTRY_SET (R318). -/
def noteEntry (s : State) : State := { s with gzl := { s.gzl with entryT := some s.clk.now } }

/-- A message that goes out with an ENTRY_SET. -/
def noteSets (b : GzlBody) (s : State) : State :=
  match b with
  | .write w => if w.ops.any (fun o => match o with
      | .entrySet _ _ => true
      | _ => false) then noteEntry s else s
  | _ => s

/-- Sends a message, which then waits for its reply (R303); one that is held goes out later. -/
def gzSend (dest : Option (BitVec 19)) (body : GzlBody) (s : State) : State :=
  let held := gzHeld dest body s
  let m : GzlMsg := ⟨s.gzl.seqNo + 1, dest, body, if held then 0 else 1, false, s.clk.now⟩
  let s := { s with gzl := { s.gzl with seqNo := s.gzl.seqNo + 1, msgs := s.gzl.msgs ++ [m] } }
  if held then s else noteSets body (emit (.gzlSend m) s)

/-- A message goes out again: to a destination, over a port (R303, R304). -/
def gzResend (m : GzlMsg) (s : State) : State :=
  noteSets m.body (emit (.gzlSend m) { s with gzl := { s.gzl with msgs := s.gzl.msgs.map fun x => if x.seq = m.seq then m else x } })

def gzDrop (seq : Word) (s : State) : State :=
  { s with gzl := { s.gzl with msgs := s.gzl.msgs.filter fun x => x.seq != seq } }

def gzReply (code : Nat) (st : BitVec 8) (detail : Nat) (s : State) : State :=
  emit (.gzlReply code st (BitVec.ofNat 32 detail)) s

/-- NOT_LEADER, with the holder in DETAIL: the new holder that the arbiter named after YIELD, else the recorded one
(R304). -/
def notLeader (code : Nat) (s : State) : State :=
  let h := if s.gzl.yieldTo = 0x7FFFF then gzHolder s else s.gzl.yieldTo
  evt gzlB eGZL_EVENT_NOT_LEADER (gzReply code stNOTLEADER h.toNat s)

/-- The 20 ms of a message's reply are not over (R303). -/
def gzWaits (m : GzlMsg) (s : State) : Bool := !elapsed m.t (20 * ticksMs) s

/-- The WRITEs and CLAIMs of an instance that is no longer ACTIVE are not sent again (R297, R299), and its jobs end. -/
def dropHolder (s : State) : State :=
  { s with gzl := { s.gzl with msgs := s.gzl.msgs.filter fun m => !ofHolder m.body, jobs := [] } }

/-- The instance registers with the arbiter (R293, R295, R303): EID, version of its firmware, role. -/
def gzRegister (s : State) : State :=
  gzSend none (.register (ownEid s) (BitVec.ofNat 32 (compVersion s.nv.active 3 s)) (BitVec.ofNat 2 (gzRole s))) s

/-! The REPORT of this package (R303). -/

/-- Every port is UP, or UP_X4 where that is admitted (R312). -/
def portsWhole (s : State) : Bool :=
  (List.range 32).all fun p => portState p s == 2 || (portState p s == 3 && bitOf (sectW s.cab.cur 7 1) p)

def ownReport (s : State) : GzlReport :=
  ⟨ownEid s, (List.range 32).map fun p => BitVec.ofNat 3 (portState p s), BitVec.ofNat 3 (fget drpB fDRP_STATUS_SYNC s),
    BitVec.ofNat 8 (bitsOf (sectW s.cab.cur 8 0) 7 0), BitVec.ofNat 2 (ctrlPlane s), BitVec.ofNat 2 (dataPlane s),
    BitVec.ofNat 2 (mgmtPlane s), portsWhole s⟩

/-! The package's side of a slice row (R311 to R314). -/

def gzRow (i : Nat) (s : State) : SliceRow := s.gzl.rows.getD i ⟨0, 0, 0, []⟩
def setGzRow (i : Nat) (r : SliceRow) (s : State) : State :=
  { s with gzl := { s.gzl with rows := modAt i (fun _ => r) s.gzl.rows } }

/-- The partitions that belong to a slice. -/
def partsOfSlice (id : Nat) (s : State) : List Nat := (partList s.cab.cur).filter fun p => sliceId s.cab.cur p == id

/-- A partition has a program running, or a chamber that is not INACTIVE (R313). -/
def partBusy (p : Nat) (s : State) : Bool :=
  s.insts.any (fun i => i.part == p && !i.running.isEmpty) || s.col.chs.any (fun x => x.2.part == p && x.2.st != 0)

/-- A row that is in use while its partitions have work (R313). -/
def rowBusy (r : SliceRow) (s : State) : Bool := r.st != 0 && (partsOfSlice r.sliceId.toNat s).any fun p => partBusy p s

/-- A row enters STOPPED (R314). -/
def rowStopped' (id : Nat) (s : State) : State :=
  forAll (partsOfSlice id s) (fun p => raiseMsix (p + 1) 3) (evt gzlB eGZL_EVENT_SLICE_STOP s)

/-- SLICE_ROW (R311, R313). -/
def sliceRowOp (i : Nat) (id : BitVec 16) (size : BitVec 11) (st : BitVec 2) (s : State) : State × BitVec 8 :=
  let r := gzRow i s
  if rowBusy r s then (s, stDRAINING)
  else if s.gzl.rows.all fun x => x.st != 0 && x.sliceId != id then (s, stDENIED)
  else if st = 0 then (setGzRow i ⟨0, 0, 0, []⟩ s, stOK)
  else
    let eids := if r.sliceId = id ∧ r.st ≠ 0 then r.eids.filter fun x => decide (x.1 < size.toNat) else []
    let t := setGzRow i ⟨id, size, st, eids⟩ s
    (if st = 2 ∧ r.st ≠ 2 then rowStopped' id.toNat t else t, stOK)

/-- SLICE_MAP (R305, R313). -/
def sliceMapOp (i first : Nat) (eids : List (BitVec 19)) (s : State) : State × BitVec 8 :=
  let r := gzRow i s
  if rowBusy r s then (s, stDRAINING)
  else if r.size.toNat < first + eids.length then (s, stLENGTH)
  else
    let put (t : Tbl (Option (BitVec 19))) (x : BitVec 19 × Nat) := tset (fun _ => none) (first + x.2) (some x.1) t
    (setGzRow i { r with eids := eids.zipIdx.foldl put r.eids } s, stOK)

/-- SLICE_STOP (R314): OK also when no row holds the slice. -/
def sliceStopOp (id : BitVec 16) (s : State) : State :=
  if s.gzl.rows.any fun r => r.st == 1 && r.sliceId == id then
    rowStopped' id.toNat { s with gzl := { s.gzl with
      rows := s.gzl.rows.map fun r => if r.st = 1 ∧ r.sliceId = id then { r with st := 2 } else r } }
  else s

/-- Every training run is over, and no port is up. -/
def noLink (s : State) : Bool := (List.range 32).all fun p => !portUp p s && portState p s != 1

/-- A located package without a trained link becomes master of itself (R191). -/
def selfMaster (s : State) : State :=
  if noLink s ∧ fget hostB fHOST_MGMT_LOCATED s = 1 ∧ s.drp.master ≠ ownEid s ∧ bitsOf (sectW s.cab.cur 8 0) 7 0 ≠ 0 then
    nameMaster (ownEid s) s
  else s

/-- PORT_MAPOUT (R222, R305): a port that is up; a package without a link is master of itself (R191). -/
def portMapoutOp (p : Nat) (s : State) : State := if portUp p s then selfMaster (mapOut p 7 s) else s

/-- PORT_RETRAIN (R224, R305): DENIED outside a maintenance window. -/
def portRetrainOp (p : Nat) (s : State) : State × BitVec 8 :=
  if fget gzlB fGZL_ROLE_MAINT s = 1 then (retrainOp p s, stOK) else (s, stDENIED)

/-! WRITE (R301, R305). -/

/-- One operation of a WRITE, but for the end of a DRAIN_REQ. -/
def gzOp (o : GzlOp) (s : State) : State × BitVec 8 :=
  match o with
  | .entrySet eid entry => entrySetOp eid entry s
  | .drainReq eid => drainReqOp eid s
  | .portMapout p => (portMapoutOp p.val s, stOK)
  | .portRetrain p => portRetrainOp p.val s
  | .sliceRow row id size st => sliceRowOp row.val id size st s
  | .sliceMap row first eids => sliceMapOp row.val first.toNat eids s
  | .sliceStop id => (sliceStopOp id s, stOK)
  | .masterSet eid => (nameMaster eid s, stOK)
  | .undefined _ => (s, stFORMAT)

/-- The entry whose drain an operation has started and that still runs. -/
def drainOf (o : GzlOp) (s : State) : Option (BitVec 19) :=
  match o with
  | .drainReq eid => if s.fab.drains.any fun d => d.eid == eid then some eid else none
  | _ => none

/-- The operations of a WRITE in order, from index i: the first that fails ends the message; a drain that runs holds the
rest until it ends. -/
def gzOps : Nat → List GzlOp → State → State
  | _, [], s => gzReply 5 stOK 0 s
  | i, o :: r, s =>
    let x := gzOp o s
    if x.2 ≠ stOK then gzReply 5 x.2 i x.1
    else match drainOf o x.1 with
      | none => gzOps (i + 1) r x.1
      | some eid => { x.1 with gzl := { x.1.gzl with cont := some ⟨eid, none, i, r⟩ } }

/-- A WRITE that waited for its drain goes on, or ends with the drain's result (R246, R305). -/
def resumeWrite (s : State) : State :=
  match s.gzl.cont with
  | none => s
  | some c => match c.res with
    | none => s
    | some st =>
      let s := { s with gzl := { s.gzl with cont := none } }
      if st = stOK then gzOps (c.idx + 1) c.ops s else gzReply 5 st c.idx s

/-- An operation is well formed (R301, check 1). -/
def gzOpOk : GzlOp → Bool
  | .undefined _ => false
  | .sliceRow _ _ size st => st != 3 && (st == 0 || decide (1 ≤ size.toNat ∧ size.toNat ≤ 1024))
  | .sliceMap _ _ eids => decide (1 ≤ eids.length ∧ eids.length ≤ 16)
  | _ => true

/-- A sync state of a WRITE's age check: LOCKED, HOLDOVER or MASTER. -/
def timed3 (v : Nat) : Bool := v == 2 || v == 3 || v == 5

/-- Checks 2 and 3 of R301. -/
def writeStale (w : GzlWrite) (s : State) : Bool :=
  let ep := regGet (gzlB + oGZL_EPOCH) s
  w.epoch != ep || ep == 0 || w.sender != gzHolder s
    || (timed3 w.senderSync.toNat && timed3 (fget drpB fDRP_STATUS_SYNC s)
      && decide (50 * ticksMs < (s.clk.w - w.sentW).toNat))

/-- GORZEL_WRITE_CHECK (R301). -/
def gzWriteOp (w : GzlWrite) (s : State) : State :=
  let ep := regGet (gzlB + oGZL_EPOCH) s
  if !w.reserved0 || !decide (1 ≤ w.ops.length ∧ w.ops.length ≤ 64) || !w.ops.all gzOpOk then gzReply 5 stFORMAT 0 s
  else if writeStale w s then evt gzlB eGZL_EVENT_STALE_WRITE (gzReply 5 stLEASE ep.toNat s)
  else if !newer32 w.seq (regGet (gzlB + oGZL_WSEQ) s) then gzReply 5 stOK 0 s
  else gzOps 0 w.ops (regSet (gzlB + oGZL_WSEQ) w.seq s)

/-- PORT_RETRAIN (R305). -/
def execPortRetrain (p : Fin 32) (s : State) : Host.Outcome State Fault Refusal :=
  .next (if mgmtPlane s = 1 then (portRetrainOp p.val s).1 else s)
/-- SLICE_ROW (R313). -/
def execSliceRow (row : Fin 4) (sliceId : BitVec 16) (size : BitVec 11) (st : BitVec 2) (s : State) :
    Host.Outcome State Fault Refusal :=
  .next (if mgmtPlane s = 1 && gzOpOk (.sliceRow row sliceId size st) then (sliceRowOp row.val sliceId size st s).1 else s)
/-- SLICE_MAP (R305). -/
def execSliceMap (row : Fin 4) (first : BitVec 10) (eids : List (BitVec 19)) (s : State) :
    Host.Outcome State Fault Refusal :=
  .next (if mgmtPlane s = 1 && gzOpOk (.sliceMap row first eids) then (sliceMapOp row.val first.toNat eids s).1 else s)
/-- SLICE_STOP (R314). -/
def execSliceStop (sliceId : BitVec 16) (s : State) : Host.Outcome State Fault Refusal :=
  .next (if mgmtPlane s = 1 then sliceStopOp sliceId s else s)
/-- MASTER_SET (R310). -/
def execMasterSet (eid : BitVec 19) (s : State) : Host.Outcome State Fault Refusal :=
  .next (if mgmtPlane s = 1 then nameMaster eid s else s)

/-! CLAIM (R300). -/

/-- The state record of the reply to CLAIM. -/
def gzRecord (st : BitVec 8) (s : State) : State :=
  emit (.gzlState st ((List.range 32).map fun p => portState p s) s.gzl.rows (fget drpB fDRP_STATUS_SYNC s)
    (regGet (gzlB + oGZL_WSEQ) s)) s

/-- REPORTs that wait for an active instance go to the holder (R304). -/
def aimReports (h : BitVec 19) (s : State) : State :=
  forAll (s.gzl.msgs.filter fun m => isReport m.body && m.dest != some h) (fun m =>
    gzResend { m with dest := some h, tries := 1, t := s.clk.now }) s

/-- CLAIM: the package takes an epoch and its holder, or refuses. -/
def claimOp (epoch : Word) (holder : BitVec 19) (s : State) : State :=
  let c := regGet (gzlB + oGZL_EPOCH) s
  if c = 0 ∨ newer32 epoch c then
    let s := regSet (gzlB + oGZL_EPOCH) epoch (fset gzlB fGZL_HOLDER_HOLDER_EID holder.toNat (regSet (gzlB + oGZL_WSEQ) 0 s))
    gzRecord stOK (aimReports holder { s with gzl := { s.gzl with yieldTo := 0x7FFFF } })
  else if c = epoch ∧ gzHolder s = holder then gzRecord stOK s
  else evt gzlB eGZL_EVENT_STALE_WRITE (gzRecord stLEASE s)

/-! Roles and the lease (R297 to R299, R317, R318). -/

/-- The arbiter answers REGISTER (R297, R317): the role assigned, the holder, and whether this instance is preferred. -/
def registerOp (role : Nat) (holder : BitVec 19) (pref : Bool) (s : State) : State :=
  let s := { s with gzl := { s.gzl with msgs := s.gzl.msgs.filter fun m => !isRegister m.body, notLeader := 0 } }
  let s := fset gzlB fGZL_ROLE_PREFERRED pref.toNat s
  let s := if holder = 0x7FFFF then s else aimReports holder s
  if role = 1 ∧ gzRole s = 0 then
    gzSetRole 1 { s with gzl := { s.gzl with standbyT := none, current := false } }
  else if role = 0 ∧ gzRole s = 1 then gzSetRole 0 s
  else s

/-- RENEW (R299): every 100 ms on both ports; an answer moves the own deadline to 450 ms after the sending. -/
def renewOp (answered : Bool) (s : State) : State :=
  let due : Bool := match s.gzl.renewT with
    | none => true
    | some t => elapsed t (100 * ticksMs) s
  if !gzActive s || !due then s
  else
    let n := s.gzl.seqNo + 1
    let body := GzlBody.renew (regGet (gzlB + oGZL_EPOCH) s)
    let s := emit (.gzlSend ⟨n, none, body, 1, true, s.clk.now⟩) (emit (.gzlSend ⟨n, none, body, 1, false, s.clk.now⟩) s)
    let s := { s with gzl := { s.gzl with
      seqNo := n, renewT := some s.clk.now,
      deadline := if answered then some (s.clk.now + 450 * ticksMs) else s.gzl.deadline } }
    if answered then fset gzlB fGZL_LEASE_MISSED 0 s else faddSat gzlB fGZL_LEASE_MISSED 1 s

/-- LEASE_LAPSE (R299). -/
def lapseOp (s : State) : State :=
  match s.gzl.deadline with
  | none => s
  | some t =>
    if gzRole s ≠ 2 ∨ s.clk.now < t then s
    else
      let s := dropHolder { s with gzl := { s.gzl with deadline := none, renewT := none, yieldT := none } }
      gzRegister (gzSetRole 0 (evt gzlB eGZL_EVENT_LAPSED s))

/-- LEASE_LAPSE. -/
def execLeaseLapse (s : State) : Host.Outcome State Fault Refusal := .next (lapseOp s)

/-- The journal goes to the standby (R297, R317); a copy that still waits for its reply is overtaken. -/
def sendCopy (s : State) : State :=
  gzSend none (.stateCopy s.gzl.jseq s.gzl.journal)
    { s with gzl := { s.gzl with msgs := s.gzl.msgs.filter fun m => !isCopy m.body } }

/-- The version of another instance is within one minor version of the own one (R375), VERSION holding major [31:24] and minor
[23:16] (R370); the row's operand answers for the image that was shipped, whose manifest the model does not know. -/
def versionNear (v : Word) (ok : Bool) (s : State) : Bool :=
  if s.nv.shipped.getD s.nv.active.toNat false then ok
  else
    let own := compVersion s.nv.active 3 s
    v.toNat / 2 ^ 24 == own / 2 ^ 24 && decide (v.toNat / 2 ^ 16 ≤ own / 2 ^ 16 + 1 ∧ own / 2 ^ 16 ≤ v.toNat / 2 ^ 16 + 1)

/-- STATE_COPY (R317): a standby takes the journal, or refuses its version. DESIGN CHOICE (log entry 101): an instance of another
role answers DENIED. -/
def stateCopyOp (jseq : Word) (version : Word) (recs : List Word) (versionOk : Bool) (s : State) : State :=
  if gzRole s ≠ 1 then gzReply 7 stDENIED s.gzl.jseq.toNat s
  else if !versionNear version versionOk s then gzReply 7 stFORMAT s.gzl.jseq.toNat s
  else
    let since := if s.gzl.current then s.gzl.standbyT else some s.clk.now
    gzReply 7 stOK jseq.toNat { s with gzl := { s.gzl with
      jseq := jseq, journal := recs, current := true, standbyT := since } }

/-- TAKEBACK is due (R318): preferred, STANDBY with its journal current for 60 s, enabled, 10 min after a refusal. -/
def takebackDue (s : State) : Bool :=
  gzRole s == 1 && s.gzl.current && fget gzlB fGZL_ROLE_PREFERRED s == 1 && fget gzlB fGZL_CFG_TAKEBACK_EN s == 1
    && (match s.gzl.standbyT with
      | none => false
      | some t => elapsed t (60 * ticksS) s)
    && (match s.gzl.takeT with
      | none => true
      | some t => elapsed t (600 * ticksS) s)

/-- TAKEBACK (R318). -/
def execTakeback (accepted : Bool) (s : State) : Host.Outcome State Fault Refusal :=
  .next (if gzOn s && takebackDue s then
      gzSend none (.takeback s.gzl.jseq)
        { s with gzl := { s.gzl with takeT := if accepted then s.gzl.takeT else some s.clk.now } }
    else s)

/-- YIELD_REQ (R317). DESIGN CHOICE (log entry 101): an instance that is not ACTIVE answers DENIED. -/
def yieldReqOp (s : State) : State :=
  if gzActive s then
    gzReply 9 stOK 0 { s with gzl := { s.gzl with yieldT := if s.gzl.yieldT.isSome then s.gzl.yieldT else some s.clk.now } }
  else gzReply 9 stDENIED 0 s

/-- The arbiter's answer to YIELD names the new holder (R317, R318). -/
def yieldOp (newHolder : BitVec 19) (s : State) : State :=
  if gzRole s = 3 then
    gzSetRole 1 { s with gzl := { s.gzl with yieldTo := newHolder, standbyT := none, current := false } }
  else s

/-- A quiet point (R318): no WRITE unanswered, no drain running, no CARVE, RELEASE or SLICE_STOP in progress, every REPORT
handled, 1 s since the last ENTRY_SET. -/
def quietPoint (s : State) : Bool :=
  s.fab.drains.isEmpty && s.gzl.jobs.isEmpty && s.gzl.wait.isEmpty && s.gzl.msgs.all (fun m => !isWrite m.body)
    && (match s.gzl.entryT with
      | none => true
      | some t => elapsed t ticksS s)

/-- QUIET_POINT (R317, R318). -/
def execQuietPoint (s : State) : Host.Outcome State Fault Refusal :=
  .next (if gzActive s && s.gzl.yieldT.any (fun t => !elapsed t (60 * ticksS) s) && quietPoint s then
      let t := gzSend none (.yield s.gzl.jseq false) (sendCopy s)
      gzSetRole 3 { dropHolder t with gzl := { (dropHolder t).gzl with yieldT := none, deadline := none, renewT := none, yieldTo := 0x7FFFF } }
    else s)

/-- QUIET_POINT_TIMEOUT (R317): YIELD with DENIED, and the role stays. -/
def execQuietPointTimeout (s : State) : Host.Outcome State Fault Refusal :=
  .next (match s.gzl.yieldT with
    | none => s
    | some t =>
      if gzActive s && elapsed t (60 * ticksS) s then
        gzSend none (.yield s.gzl.jseq true) { s with gzl := { s.gzl with yieldT := none } }
      else s)

/-! The managing work of the active instance (R306 to R316). -/

/-- The packages that the instance knows: those that have reported, those of its journal, its own. -/
def domainEids (s : State) : List (BitVec 19) :=
  let l := (s.gzl.peers.map fun x => BitVec.ofNat 19 x.1) ++ s.gzl.journal.map (fun r => r.setWidth 19) ++ [ownEid s]
  l.dedup

/-- The last REPORT of a package; none while it is lost. -/
def repOf (e : BitVec 19) (s : State) : Option GzlReport :=
  if e = ownEid s then some (ownReport s)
  else match gzPeer e s with
    | none => none
    | some p => if p.lost then none else p.rep

/-- The own instance applies operations on its own package in order, up to the first that fails. -/
def gzOwn (ops : List GzlOp) (s : State) : State × BitVec 8 :=
  ops.foldl (fun x o => if x.2 = stOK then gzOp o x.1 else x) (s, stOK)

/-- What the instance keeps of a package that it did not know. -/
def newPeer (s : State) : GzlPeer := ⟨none, s.clk.now, false, none, false, 0⟩

/-- A WRITE with the present epoch, time and sync state (R301). -/
def writeOf (q : Word) (ops : List GzlOp) (s : State) : GzlWrite :=
  ⟨regGet (gzlB + oGZL_EPOCH) s, ownEid s, q, s.clk.w, BitVec.ofNat 3 (fget drpB fDRP_STATUS_SYNC s), true, ops⟩

/-- The next WRITE sequence number of a package. -/
def nextWseq (x : BitVec 19) (s : State) : Word × State :=
  let p := (gzPeer x s).getD (newPeer s)
  (p.wseq + 1, setGzPeer x { p with wseq := p.wseq + 1 } s)

/-- Writes operations on a package: on its own at once, on another by WRITE (R301, R308); at most 64 in a message. -/
def gzWriteSt (x : BitVec 19) (ops : List GzlOp) (s : State) : State × BitVec 8 :=
  if x = ownEid s then gzOwn ops s
  else
    let send (ops : List GzlOp) (s : State) : State :=
      let r := nextWseq x s
      gzSend (some x) (.write (writeOf r.1 ops r.2)) r.2
    (if ops.length ≤ 64 then send ops s else send (ops.drop 64) (send (ops.take 64) s), stOK)

/-- A message goes out for the first time: a WRITE that was held, or that repeats a drain, takes the next sequence number, and
the present epoch, time and sync state (R301). -/
def gzLaunch (m : GzlMsg) (s : State) : State :=
  match m.body, m.dest with
  | .write w, some x =>
    let r := nextWseq x s
    gzResend { m with body := .write (writeOf r.1 w.ops r.2), tries := 1, t := s.clk.now } r.2
  | _, _ => gzResend { m with tries := 1, t := s.clk.now } s

def gzWrite (x : BitVec 19) (ops : List GzlOp) (s : State) : State := (gzWriteSt x ops s).1

/-- The TM_PRIO of a package in the journal: a record holds the EID in [18:0] and TM_PRIO in [26:19] (log entry 100). -/
def journalPrio (e : BitVec 19) (s : State) : BitVec 8 :=
  match s.gzl.journal.find? fun r => r.setWidth 19 == e with
  | none => 0
  | some r => (r >>> 19).setWidth 8

/-- The TM_PRIO of a package: that of its last REPORT, else that of the journal; none while it is lost. -/
def prioOf (e : BitVec 19) (s : State) : Nat :=
  match repOf e s with
  | some r => r.tmPrio.toNat
  | none => if (gzPeer e s).any (·.lost) then 0 else (journalPrio e s).toNat

/-- The time master of a rack (R191, R310): the highest TM_PRIO, then the lowest EID; a TM_PRIO of 0 never. -/
def chooseMaster (rack : Nat) (s : State) : Option (BitVec 19) :=
  let prio (e : BitVec 19) : Nat := prioOf e s
  let better (a b : BitVec 19) : Bool := decide (prio b < prio a ∨ (prio a = prio b ∧ a.toNat < b.toNat))
  ((domainEids s).filter fun e => rackOf e == rack && prio e != 0).foldl
    (fun m e => match m with
      | none => some e
      | some x => if better e x then some e else some x) none

/-- Names the time master of a rack by MASTER_SET on every package of the rack (R310). -/
def setMaster (rack : Nat) (s : State) : State :=
  match chooseMaster rack s with
  | none => s
  | some m =>
    let s := { s with gzl := { s.gzl with masters := tset (fun _ => none) rack (some m) s.gzl.masters } }
    forAll ((domainEids s).filter fun e => rackOf e == rack) (fun e => gzWrite e [.masterSet m]) s

/-- A change of what the active instance manages goes into the journal, and the standby gets it (R297). -/
def gzJournal (s : State) : State :=
  sendCopy { s with gzl := { s.gzl with
    jseq := s.gzl.jseq + 1,
    journal := (domainEids s).map fun e => BitVec.ofNat 32 (e.toNat + 2 ^ 19 * prioOf e s) } }

/-- A slice that row i of a package names joins those of the domain (R300). -/
def adoptRow (e : BitVec 19) (r : GzlRowRec) (i : Nat) (s : State) : State :=
  if r.st = 0 then s
  else
    let putRow (l : List (BitVec 19 × Nat)) : List (BitVec 19 × Nat) :=
      if i = 0 then l else (e, i) :: l.filter (fun x => x.1 != e)
    if s.gzl.slices.any fun x => x.id == r.sliceId then
      let note (x : GzlSlice) : GzlSlice :=
        if x.id = r.sliceId then { x with stopped := x.stopped || r.st == 2, rows := putRow x.rows } else x
      { s with gzl := { s.gzl with slices := s.gzl.slices.map note } }
    else { s with gzl := { s.gzl with slices := s.gzl.slices ++ [⟨r.sliceId, r.eids, r.st == 2, putRow []⟩] } }

/-- A row of this package in the form of a state record. -/
def rowRec (r : SliceRow) : GzlRowRec := ⟨r.sliceId, r.size, r.st, r.eids.filterMap fun x => x.2⟩

/-- The holder's view of a package follows the state record of its reply to CLAIM (R300); it can be carved once its next
REPORT has come (R312, R316), and a route that the instance has not written counts as unknown. WRITEs of this epoch that are out
already keep their numbers. -/
def adoptRecord (e : BitVec 19) (x : GzlRecord) (s : State) : State :=
  let p := (gzPeer e s).getD (newPeer s)
  let rep : GzlReport := match p.rep with
    | some r => { r with portState := x.ports, sync := x.sync, portsOk := false }
    | none => ⟨e, x.ports, x.sync, journalPrio e s, 1, 1, 1, false⟩
  let s := setGzPeer e { p with
    rep := some rep, last := s.clk.now, wseq := if newer32 p.wseq x.wseq then p.wseq else x.wseq } s
  forAll x.rows.zipIdx (fun r => adoptRow e r.1 r.2) s

/-- CLAIM to a package with the epoch in force. -/
def sendClaim (e : BitVec 19) (s : State) : State :=
  gzSend (some e) (.claim (regGet (gzlB + oGZL_EPOCH) s) (ownEid s)) s

/-! Routes (R306, R307). -/

/-- Ports of plane q of a REPORT: 2 for UP, 1 for UP_X4. -/
def planeCount (r : GzlReport) (q : Nat) : Nat :=
  ((List.range 4).map fun i => match (r.portState.getD (8 * i + q) 0).toNat with
    | 2 => 2
    | 3 => 1
    | _ => 0).sum

/-- The same entry in DRAIN. -/
def inDrain (w : BitVec 64) : BitVec 64 := BitVec.ofNat 64 (2 ^ 63 + w.toNat % 2 ^ 62)

/-- The entry for the route from x to y; 0, INVALID, where no plane serves it or a package is lost. -/
def routeEntry (x y : BitVec 19) (s : State) : BitVec 64 :=
  match repOf x s, repOf y s with
  | some a, some b =>
    let c := (List.range 8).map fun q => Nat.min (planeCount a q) (planeCount b q)
    let g := c.foldl Nat.gcd 0
    if g = 0 then 0
    else BitVec.ofNat 64 (2 ^ 62 + (if rackOf x = rackOf y then 0 else 2 ^ 61)
      + (c.zipIdx.map fun p => p.1 / g * 2 ^ (4 * p.2)).sum)
  | _, _ => 0

/-- The entry that is to stand: in DRAIN on and for the own package before the edge of a commit that changes SUMP (R309). -/
def routeWant (x y : BitVec 19) (s : State) : BitVec 64 :=
  let v := routeEntry x y s
  if s.gzl.sump ≠ 0 ∧ (x = ownEid s ∨ y = ownEid s) ∧ v ≠ 0 then inDrain v else v

/-- Failed drains in a row of the entry for y on package x, with the time of the last (R307). -/
def failKey (x y : BitVec 19) : Nat := 2 ^ 19 * (x.toNat + 1) + y.toNat
def setFails (k : Nat) (v : Nat × Nat) (s : State) : State :=
  { s with gzl := { s.gzl with drains := tset (fun _ => (0, 0)) k v s.gzl.drains } }

/-- The failed drains of a destination count from none again. -/
def clearFails (y : BitVec 19) (s : State) : State := setFails y.toNat (0, 0) s

/-- A route on this package (R307): INVALID to VALID at once; a changed value by drain and rewrite; a failed drain is
repeated 10 ms later, up to 3 times, and then the destination is lost. An entry that is to stay in DRAIN is not rewritten. -/
def routeOwn (y : BitVec 19) (v : BitVec 64) (s : State) : State :=
  let old := entryOf y s
  let fails := tget (fun _ => (0, 0)) s.gzl.drains y.toNat
  if v = old ∧ (entState v ≠ 2 ∨ s.fab.drained.contains y) then s
  else if v = 0 then clearFails y (noteEntry (entrySetOp y v s).1)
  else if entState v = 2 ∧ (entState old = 0 ∨ s.fab.drained.contains y) then s
  else if entState old = 0 then noteEntry (entrySetOp y v s).1
  else if entState old = 1 then (drainReqOp y (noteEntry (entrySetOp y (inDrain old) s).1)).1
  else if s.fab.drains.any fun d => d.eid == y then s
  else if s.fab.drained.contains y then noteEntry (entrySetOp y v s).1
  else if 3 ≤ fails.1 then clearFails y (noteEntry (entrySetOp y 0 s).1)
  else if elapsed fails.2 (10 * ticksMs) s then (drainReqOp y s).1
  else s

/-- The operations that bring an entry from old to v (R307). -/
def routeOps (y : BitVec 19) (old v : BitVec 64) : List GzlOp :=
  if v = 0 ∨ entState old ≠ 1 then [.entrySet y v]
  else [.entrySet y (inDrain old), .drainReq y] ++ (if entState v = 2 then [] else [.entrySet y v])

/-- What the instance notes of a route that it has written on another package: 1 for INVALID, and 0 stays for one that it has
not written in this term. -/
def routeNote (v : BitVec 64) : BitVec 64 := if v = 0 then 1 else v

/-- A route on another package, by WRITE. -/
def routeOther (x y : BitVec 19) (v : BitVec 64) (s : State) : State :=
  let k := 2 ^ 19 * x.toNat + y.toNat
  let old := tget (fun _ => 0) s.gzl.routes k
  if routeNote v = old ∨ (entState v = 2 ∧ entState old ≠ 1) then s
  else gzWrite x (routeOps y old v) { s with gzl := { s.gzl with routes := tset (fun _ => 0) k (routeNote v) s.gzl.routes } }

/-- The route to y on package x. -/
def routeTo (y x : BitVec 19) (s : State) : State :=
  if x = ownEid s then routeOwn y (routeWant x y s) s else routeOther x y (routeWant x y s) s

/-- ROUTE_INSTALL (R306 to R308): the routes to a destination on every package that the instance knows. -/
def routeOp (y : BitVec 19) (s : State) : State :=
  forAll ((domainEids s).filter fun x => x != y) (fun x => routeTo y x) s

/-- Every route that names a package: those to it, and those on it. -/
def routesOf (x : BitVec 19) (s : State) : State :=
  forAll ((domainEids s).filter fun y => y != x) (fun y => routeTo y x) (routeOp x s)

/-- A port of a REPORT has come up since the last one: a retrain has ended (R308). -/
def portsCameUp (old new : GzlReport) : Bool :=
  (List.range 32).any fun p => old.portState.getD p 0 != new.portState.getD p 0
    && ((new.portState.getD p 0) == 2 || (new.portState.getD p 0) == 3)

/-- The active instance takes a REPORT (R304, R308, R310): a package that joins is claimed, and it or a new TM_PRIO renames
the master; after a retrain, and when a lost package returns, the routes that name the package are worked out anew. -/
def takeReport (r : GzlReport) (s : State) : State :=
  let old := gzPeer r.eid s
  let p := old.getD (newPeer s)
  let joins : Bool := p.lost || p.rep.isNone
  let prio : Bool := match p.rep with
    | none => true
    | some q => q.tmPrio != r.tmPrio
  let up : Bool := match p.rep with
    | none => false
    | some q => !p.lost && portsCameUp q r
  let s := gzReply 6 stOK 0 (setGzPeer r.eid { p with rep := some r, last := s.clk.now, lost := false } s)
  let s := if joins && r.eid != ownEid s then sendClaim r.eid s else s
  let s := if joins || prio then gzJournal s else s
  let s := if joins || prio then setMaster (rackOf r.eid) s else s
  if up || p.lost then routesOf r.eid s else s

/-- What the instance kept of a package in an earlier term: the package has not been silent yet in this one, no WRITE of this
epoch has gone to it, and it cannot be carved before its next REPORT. -/
def freshPeer (s : State) (p : GzlPeer) : GzlPeer :=
  { p with rep := p.rep.map fun r => { r with portsOk := false }, last := s.clk.now, wseq := 0 }

/-- GRANT (R317): the standby becomes ACTIVE, claims every package, names the masters, and takes the REPORTs of its own that
waited for a holder. Its view starts from its own rows; what it knew of routes written on others is no record (R300). -/
def grantOp (epoch : Word) (s : State) : State :=
  let own := s.gzl.msgs.filterMap fun m => match m.body with
    | .report r => some r
    | _ => none
  let s := { s with gzl := { s.gzl with
    deadline := some (s.clk.now + 450 * ticksMs), renewT := none, slices := [], jobs := [], routes := [],
    msgs := s.gzl.msgs.filter (fun m => !isReport m.body), peers := s.gzl.peers.map fun x => (x.1, x.2.map (freshPeer s)) } }
  let s := gzSetRole 2 (fset gzlB fGZL_LEASE_MISSED 0 s)
  let s := claimOp epoch (ownEid s) (gzReply 3 stOK 0 s)
  let s := forAll (s.gzl.rows.map rowRec).zipIdx (fun r => adoptRow (ownEid s) r.1 r.2) s
  let s := forAll ((domainEids s).filter fun e => e != ownEid s) sendClaim s
  forAll own (fun r => takeReport r) (forAll ((domainEids s).map rackOf).dedup setMaster s)

/-- Sends this package's REPORT to the holder; those that no active instance has acknowledged wait beside it (R304). -/
def sendReport (s : State) : State :=
  if !gzUp s then s
  else if gzActive s then takeReport (ownReport s) s
  else gzSend (some (gzHolder s)) (.report (ownReport s)) s

/-- REPORT (R303, R304): of another package, taken or answered NOT_LEADER; of this package, sent. -/
def reportOp (r : GzlReport) (s : State) : State :=
  if r.eid = ownEid s then sendReport s
  else if gzActive s then takeReport r s
  else notLeader 6 s

/-! Slices (R312, R313). -/

/-- The packages that CARVE may choose (R312). -/
def carvable (s : State) : List (BitVec 19) :=
  ((domainEids s).filter fun e => (match repOf e s with
      | none => false
      | some r => r.portsOk)
    && (e == ownEid s || (match gzPeer e s with
      | none => false
      | some p => !elapsed p.last (300 * ticksMs + 1) s))
    && s.gzl.slices.all fun x => !x.members.contains e).mergeSort fun a b => decide (a.toNat ≤ b.toNat)

/-- Racks in the order of the list, k of them at most, that hold the packages needed (R312). -/
def pickRacks : Nat → Nat → List (Nat × Nat) → List Nat
  | _, _, [] => []
  | k, need, x :: r =>
    let rest := ((r.map fun y => y.2).mergeSort fun a b => decide (b ≤ a)).take (k - 1)
    if need = 0 ∨ k = 0 then []
    else if need ≤ x.2 + rest.sum then x.1 :: pickRacks (k - 1) (need - x.2) r
    else pickRacks k need r

/-- The racks of a slice: as few as hold the size; among those the preferred one, then in ascending number (R312). -/
def carveRacks (l : List (BitVec 19)) (size pref : Nat) : List Nat :=
  let count (r : Nat) : Nat := (l.filter fun e => rackOf e == r).length
  let racks := ((l.map rackOf).dedup.mergeSort fun a b => decide (a = pref ∨ (b ≠ pref ∧ a ≤ b))).map fun r => (r, count r)
  let most := (racks.map fun x => x.2).mergeSort fun a b => decide (b ≤ a)
  let k := ((List.range (most.length + 1)).find? fun k => decide (size ≤ (most.take k).sum)).getD most.length
  pickRacks k size racks

/-- The lowest SLICE_ID that is not in use (R312). -/
def freshSlice (s : State) : Nat :=
  ((List.range (s.gzl.slices.length + 1)).map (· + 1)).find? (fun i => s.gzl.slices.all fun x => x.id.toNat != i)
    |>.getD 0xFFFF

/-- Groups of 16 with their first index. -/
def chunks16 : Nat → Nat → List (BitVec 19) → List (Nat × List (BitVec 19))
  | 0, _, _ => []
  | fuel + 1, i, l => if l.isEmpty then [] else (i, l.take 16) :: chunks16 fuel (i + 16) (l.drop 16)

/-- A WRITE of a CARVE or RELEASE has ended, and what is complete is answered (R312, R313): a slice is released once every
member has given up its row. -/
def jobEnd (j : GzlJob) (s : State) : State :=
  if j.code = 11 then gzReply 11 j.st (if j.st = stOK then j.id.toNat else 0) s
  else if j.st = stOK then
    gzReply 12 stOK 0 (gzJournal { s with gzl := { s.gzl with slices := s.gzl.slices.filter fun y => y.id != j.id } })
  else gzReply 12 j.st 0 s

/-- The jobs with no WRITE left end. -/
def jobsGo (s : State) : State :=
  forAll (s.gzl.jobs.filter fun j => j.waits.isEmpty) jobEnd
    { s with gzl := { s.gzl with jobs := s.gzl.jobs.filter fun j => !j.waits.isEmpty } }

/-- A WRITE has ended with a status. -/
def jobWrote (seq : Word) (st : BitVec 8) (s : State) : State :=
  let note (j : GzlJob) : GzlJob :=
    if j.waits.contains seq then
      { j with waits := j.waits.filter fun x => x != seq, st := if j.st = stOK then st else j.st }
    else j
  jobsGo { s with gzl := { s.gzl with jobs := s.gzl.jobs.map note } }

/-- Writes operations on every member of a slice; the reply to the job follows the replies to the WRITEs. -/
def jobStart (code : Nat) (id : BitVec 16) (members : List (BitVec 19)) (ops : BitVec 19 → List GzlOp) (s : State) : State :=
  let n0 := s.gzl.seqNo
  let r := members.foldl (fun (x : State × BitVec 8) e =>
    let y := gzWriteSt e (ops e) x.1
    (y.1, if x.2 = stOK then y.2 else x.2)) (s, stOK)
  let waits := (List.range (r.1.gzl.seqNo - n0).toNat).map fun i => n0 + 1 + BitVec.ofNat 32 i
  jobsGo { r.1 with gzl := { r.1.gzl with jobs := r.1.gzl.jobs ++ [⟨code, id, waits, r.2⟩] } }

/-- CARVE (R312). -/
def carveOp (size pref : Nat) (s : State) : State :=
  if size = 0 ∨ 1024 < size then gzReply 11 stLENGTH 0 s
  else
    let l := carvable s
    if l.length < size then gzReply 11 stDENIED l.length s
    else
      let racks := carveRacks l size pref
      let m := (l.filter fun e => racks.contains (rackOf e)).take size
      let id := BitVec.ofNat 16 (freshSlice s)
      let ops := GzlOp.sliceRow 0 id (BitVec.ofNat 11 size) 1 ::
        (chunks16 64 0 m).map fun c => .sliceMap 0 (BitVec.ofNat 10 c.1) c.2
      jobStart 11 id m (fun _ => ops) (gzJournal { s with gzl := { s.gzl with slices := s.gzl.slices ++ [⟨id, m, false, []⟩] } })

/-- The row of a member in which a slice stands. -/
def rowOn (x : GzlSlice) (e : BitVec 19) : Fin 4 := Fin.ofNat 4 ((x.rows.find? fun r => r.1 == e).map Prod.snd |>.getD 0)

/-- RELEASE (R313): rows FREE; while a member's row answers DRAINING the slice stays. -/
def releaseOp (id : BitVec 16) (s : State) : State :=
  match s.gzl.slices.find? fun x => x.id == id with
  | none => gzReply 12 stDENIED 0 s
  | some x => jobStart 12 id x.members (fun e => [.sliceRow (rowOn x e) id 0 0]) s

/-- JOB_FAULT (R303, R316): a stopped slice is reported to the rack manager. -/
def jobFaultOp (id : BitVec 16) (cause : BitVec 8) (eid : BitVec 19) (port : BitVec 8) (s : State) : State :=
  if s.gzl.slices.any fun x => x.id == id && x.stopped then gzSend none (.jobFault id cause eid port) s else s

/-- JOB_FAULT. -/
def execJobFault (sliceId : BitVec 16) (cause : BitVec 8) (eid : BitVec 19) (port : BitVec 8) (s : State) :
    Host.Outcome State Fault Refusal := .next (if gzActive s then jobFaultOp sliceId cause eid port s else s)

/-- In an open window the active instance has the mapped-out ports of a package retrained (R308, R319). -/
def maintRetrain (e : BitVec 19) (s : State) : State :=
  match repOf e s with
  | none => s
  | some r =>
    let l := (List.finRange 32).filter fun p => r.portState.getD p.val 0 == 4
    if l.isEmpty then s else gzWrite e (l.map .portRetrain) s

/-- MAINT (R308): the windows of the packages named; GZL_ROLE.MAINT shows that of this package. -/
def maintOp (isOpen : Bool) (eids : List (BitVec 19)) (s : State) : State :=
  let s := if eids.contains (ownEid s) then fset gzlB fGZL_ROLE_MAINT isOpen.toNat s else s
  if gzActive s then
    let s := gzReply 14 stOK 0 (forAll (eids.filter fun e => (gzPeer e s).isSome) (fun e s =>
      match gzPeer e s with
      | none => s
      | some p => setGzPeer e { p with maint := isOpen } s) s)
    if isOpen then forAll (eids.filter fun e => e == ownEid s || (gzPeer e s).isSome) maintRetrain s else s
  else notLeader 14 s

/-- PAUSE_NOTICE (R315): writes to the sender are held for up to 3 s; at "resumed" they go out. -/
def pauseNoticeOp (src : BitVec 19) (ms : Word) (s : State) : State :=
  if !gzActive s then notLeader 15 s
  else
    let p := (gzPeer src s).getD (newPeer s)
    let s := gzReply 15 stOK 0 (setGzPeer src { p with
      pause := if ms = 0 then none else some (s.clk.now + 3 * ticksS) } s)
    if ms = 0 then
      forAll (s.gzl.msgs.filter fun m => m.dest == some src && m.tries == 0)
        gzLaunch s
    else s

/-- GORZEL_MSG_RETRY with no reply (R303): after 20 ms again on the other port; after 3 attempts the sender gives up with
TIMEOUT, but keeps a REPORT (R304) and the failure of a CLAIM (R315). Only the ACTIVE instance sends WRITEs and CLAIMs
(R297, R299); a WRITE whose failed drain is to be repeated goes out 10 ms or more later (R307). -/
def msgRetryOp (seq : Word) (s : State) : State :=
  match s.gzl.msgs.find? fun m => m.seq == seq with
  | none => s
  | some m =>
    if gzWaits m s ∨ 3 < m.tries ∨ gzHeld m.dest m.body s ∨ (ofHolder m.body ∧ !gzActive s) then s
    else if m.tries = 0 then gzLaunch m s
    else if m.tries < 3 then gzResend { m with tries := m.tries + 1, portB := !m.portB, t := s.clk.now } s
    else if isReport m.body then gzResend { m with tries := 1, portB := !m.portB, t := s.clk.now } s
    else if isClaim m.body then
      emit (.gzlTimeout seq) { s with gzl := { s.gzl with msgs := s.gzl.msgs.map fun x => if x.seq = seq then { x with tries := 4 } else x } }
    else
      let s := emit (.gzlTimeout seq) (gzDrop seq s)
      if isWrite m.body then jobWrote seq stTIMEOUT s else s

/-- NOT_LEADER_REPLY (R304): again to the holder named; after two in a row the arbiter is asked. -/
def notLeaderOp (seq : Word) (holder : BitVec 19) (s : State) : State :=
  match s.gzl.msgs.find? fun m => m.seq == seq with
  | none => s
  | some m =>
    if s.gzl.notLeader + 1 < 2 then
      gzResend { m with dest := some holder, tries := 1, t := s.clk.now }
        { s with gzl := { s.gzl with notLeader := s.gzl.notLeader + 1 } }
    else gzRegister { s with gzl := { s.gzl with notLeader := 0 } }

/-! Faults of packages (R315, R316). -/

/-- Missed reports before a package is lost, 2 to 15. -/
def reportMiss (s : State) : Nat := Nat.max 2 (fget gzlB fGZL_CFG_REPORT_MISS s)

/-- A package is to be declared lost (R315): its REPORT is missing, or a CLAIM to it was given up; not for 3 s after it has
announced a pause. -/
def peerGone (e : BitVec 19) (s : State) : Bool :=
  let claimed := s.gzl.msgs.any fun m => isClaim m.body && m.dest == some e && m.tries == 4
  match gzPeer e s with
  | none => claimed
  | some p =>
    let paused : Bool := match p.pause with
      | none => false
      | some t => decide (s.clk.now < t)
    !paused && (claimed || (p.rep.isSome && !p.lost && elapsed p.last (reportMiss s * 100 * ticksMs) s))

/-- SLICE_STOP on every member of every slice that holds a package (R316). -/
def stopSlices (x : BitVec 19) (s : State) : State :=
  let mark (i : GzlSlice) : GzlSlice := if i.members.contains x then { i with stopped := true } else i
  forAll (s.gzl.slices.filter fun i => i.members.contains x && !i.stopped)
    (fun i => forAll i.members (fun e => gzWrite e [.sliceStop i.id]))
    { s with gzl := { s.gzl with slices := s.gzl.slices.map mark } }

/-- The reaction to a fault at package x (R316): slices stopped, the master renamed, routes rewritten, the jobs' fault
reported. Cause 0 is a lost package, 1 a port mapped out. -/
def reactTo (x : BitVec 19) (port : Option Nat) (s : State) : State :=
  let hit := (s.gzl.slices.filter fun i => i.members.contains x && !i.stopped).map fun i => i.id
  let s := stopSlices x s
  let s := if port.isNone ∧ tget (fun _ => none) s.gzl.masters (rackOf x) = some x then setMaster (rackOf x) s else s
  let s := if port.isSome then routesOf x s else routeOp x s
  forAll hit (fun i => jobFaultOp i (if port.isNone then 0 else 1) x (BitVec.ofNat 8 (port.getD 0xFF))) s

/-- PACKAGE_LOST (R315, R316): the routes on the package count as unknown until it returns. -/
def packageLostOp (e : BitVec 19) (s : State) : State :=
  let p := (gzPeer e s).getD (newPeer s)
  let gone := s.gzl.msgs.filter fun m => m.dest == some e && isWrite m.body
  let s := { s with gzl := { s.gzl with msgs := s.gzl.msgs.filter fun m => m.dest != some e } }
  let s := forAll gone (fun m => jobWrote m.seq stTIMEOUT) s
  let s := { s with gzl := { s.gzl with routes := s.gzl.routes.filter fun r => r.1 / 2 ^ 19 != e.toNat } }
  reactTo e none (evt gzlB eGZL_EVENT_PEER_LOST (setGzPeer e { p with lost := true } s))

/-- Three drains of the own entry for a destination have failed (R307): the destination is treated as lost. -/
def drainDead (y : BitVec 19) (s : State) : Bool :=
  entState (entryOf y s) == 2 && !(s.fab.drains.any fun d => d.eid == y) && !s.fab.drained.contains y
    && decide (3 ≤ (tget (fun _ => (0, 0)) s.gzl.drains y.toNat).1)

/-- PACKAGE_LOST. -/
def execPackageLost (eid : BitVec 19) (s : State) : Host.Outcome State Fault Refusal :=
  .next (if gzActive s && eid != ownEid s && peerGone eid s then packageLostOp eid s else s)

/-- The active instance claims the sender of a SAFE_NOTICE at once (R448, R315). -/
def safeNoticeOp (src : BitVec 19) (s : State) : State :=
  if gzActive s && src != ownEid s then sendClaim src s else s

/-- FAULT_REACTION (R316): to a lost package, or to a port that its last REPORT shows in MAPPED_OUT. -/
def faultReactionOp (e : BitVec 19) (port : Option Nat) (s : State) : State :=
  match port with
  | none => match gzPeer e s with
    | none => s
    | some p => if p.lost then reactTo e none s else s
  | some q => match repOf e s with
    | none => s
    | some r => if (r.portState.getD q 0).toNat = 4 then reactTo e (some q) s else s

/-- FAULT_REACTION. -/
def execFaultReaction (eid : BitVec 19) (port : Option (Fin 32)) (s : State) : Host.Outcome State Fault Refusal :=
  .next (if gzActive s then faultReactionOp eid (port.map Fin.val) s else s)

end Sys2Proof.Machine
end

