-- ==== Sys2Proof/Machine/Inbox.lean ====
section
/-! DEFINITION. The Gorzel messages that arrive, handled one at a time and in order (R302); the replies to those that the
instance sent (R300, R301, R303, R307); the drains before a commit that changes SUMP (R309). -/

namespace Sys2Proof.Machine

/-! Before and after the edge of a commit that changes the own SUMP section (R309). -/

/-- An edge to come changes the SUMP section: the one that is armed, or the commit of the structure that is staged. -/
def sumpHold (s : State) : Bool :=
  let moves (c : Option CabStruct) : Bool := match c with
    | none => false
    | some x => x.sect.getD 3 [] != s.cab.cur.sect.getD 3 []
  match s.cab.edge with
  | some e => moves (edgeStruct e.revert s)
  | none => s.cab.staged.isSome && moves s.cab.shadow

/-- The destinations that the table of this package names. -/
def entryEids (s : State) : List (BitVec 19) := s.fab.table.map fun x => BitVec.ofNat 19 x.1

/-- Every entry of the package is INVALID, or in DRAIN with its drain completed, and no WRITE is unanswered. -/
def sumpDrained (s : State) : Bool :=
  s.gzl.msgs.all (fun m => !isWrite m.body) && s.fab.drains.isEmpty
    && (entryEids s).all fun y => entState (entryOf y s) == 0
      || (entState (entryOf y s) == 2 && s.fab.drained.contains y)

/-- The package is reported ready once its drains are complete; a failed one is repeated under R307 before that. -/
def sumpReady (s : State) : State :=
  if s.gzl.sump = 1 ∧ sumpDrained s then emit .gzlReady { s with gzl := { s.gzl with sump := 2 } } else s

/-- The entry in VALID again. -/
def outDrain (w : BitVec 64) : BitVec 64 := BitVec.ofNat 64 (2 ^ 62 + w.toNat % 2 ^ 62)

/-- The entries on the package go into DRAIN, or VALID again: the ACTIVE instance works out every route that names the package, and
another instance, which writes the entries of its own package alone (R308), takes those that stand. -/
def sumpRoutes (back : Bool) (s : State) : State :=
  if gzActive s then routesOf (ownEid s) s
  else forAll ((entryEids s).filter fun y => entState (entryOf y s) != 0) (fun y s =>
    routeOwn y (if back then outDrain (entryOf y s) else inDrain (entryOf y s)) s) s

/-- The instance of the package takes its entries through DRAIN before the edge, and writes them VALID after it (R308, R309). -/
def sumpStep (s : State) : State :=
  if !gzUp s then s
  else if sumpHold s then
    sumpReady (sumpRoutes false (if s.gzl.sump = 0 then { s with gzl := { s.gzl with sump := 1 } } else s))
  else if s.gzl.sump = 0 then s
  else
    let s := sumpRoutes true s
    if gzActive s || (entryEids s).all (fun y => entState (entryOf y s) != 2) then { s with gzl := { s.gzl with sump := 0 } } else s

/-! Replies (R303). -/

/-- A message is to go out anew with contents that follow the present state. -/
def gzRequeue (m : GzlMsg) (s : State) : State := { s with gzl := { s.gzl with msgs := s.gzl.msgs ++ [m] } }

/-- A WRITE again, with the next sequence number of its package. -/
def rewrite (m : GzlMsg) (x : BitVec 19) (ops : List GzlOp) (tries : Nat) (s : State) : State :=
  let r := nextWseq x s
  let m := { m with body := .write (writeOf r.1 ops r.2), tries := tries, t := s.clk.now }
  if tries = 0 then gzRequeue m r.2 else noteSets m.body (emit (.gzlSend m) (gzRequeue m r.2))

/-- A DRAIN_REQ on another package has failed (R307): again 10 ms later, up to 3 times; then the destination is lost. -/
def drainFailed (m : GzlMsg) (x y : BitVec 19) (ops : List GzlOp) (s : State) : State :=
  let k := failKey x y
  let n := (tget (fun _ => (0, 0)) s.gzl.drains k).1 + 1
  if 3 ≤ n then packageLostOp y (setFails k (0, 0) s) else rewrite m x ops 0 (setFails k (n, s.clk.now) s)

/-- The reply to a WRITE (R301, R305, R307): with LEASE_EXPIRED the holder claims again and repeats it; a failed drain is
repeated; a refused route is taken through DRAIN; else the job that it belongs to goes on. A status that R14 does not name is read
as FORMAT_INVALID (R15). -/
def writeReplied (m : GzlMsg) (x : BitVec 19) (w : GzlWrite) (r : GzlReplyIn) (s : State) : State :=
  let r := { r with status := nakStatus r.status }
  let ops := w.ops.drop r.detail.toNat
  if r.status = stLEASE then (if gzActive s then rewrite m x w.ops 1 (sendClaim x s) else s)
  else match ops.head? with
    | some (.drainReq y) =>
      if (r.status = stTIMEOUT ∨ r.status = stFENCED) ∧ gzActive s then drainFailed m x y ops s else jobWrote m.seq r.status s
    | some (.entrySet y v) =>
      if r.status = stDENIED ∧ w.ops.length = 1 ∧ gzActive s then gzWrite x (routeOps y (BitVec.ofNat 64 (2 ^ 62 + v.toNat % 2 ^ 62)) v) s
      else jobWrote m.seq r.status s
    | _ => jobWrote m.seq r.status s

/-- A reply has come: its message waits no longer (R303). -/
def gzReplied (seq : Word) (r : GzlReplyIn) (s : State) : State :=
  match s.gzl.msgs.find? fun m => m.seq == seq with
  | none => s
  | some m =>
    if r.status = stNOTLEADER then notLeaderOp seq (r.detail.setWidth 19) s
    else
      let t := gzDrop seq { s with gzl := { s.gzl with notLeader := 0 } }
      match m.body, m.dest with
      | .claim _ _, some e => match r.record with
        | none => t
        | some x => if gzActive t then adoptRecord e x t else t
      | .write w, some x => writeReplied m x w r t
      | .register _ _ _, _ =>
        registerOp (r.detail.toNat / 2 ^ 30) (r.detail.setWidth 19) (fget gzlB fGZL_ROLE_PREFERRED s == 1) t
      | .yield _ denied, _ => if denied then t else yieldOp (r.detail.setWidth 19) t
      | _, _ => t

/-! Arrival (R302). -/

/-- A port has entered MAPPED_OUT between s and t: REPORT (R315). -/
def reportOut (s t : State) : State :=
  if (List.range 32).any fun p => portState p s != 4 && portState p t == 4 then sendReport t else t

/-- One message is handled. DESIGN CHOICE (log entry 101): GRANT to an instance that is not STANDBY is answered DENIED. -/
def gzHandle (m : GzlIn) (s : State) : State :=
  match m with
  | .claim e h => claimOp e h s
  | .write w => reportOut s (gzWriteOp w s)
  | .register role h pref => registerOp role.toNat h pref s
  | .grant e => if gzRole s = 1 then grantOp e s else gzReply 3 stDENIED 0 s
  | .stateCopy j v recs ok => stateCopyOp j v recs ok s
  | .yieldReq => yieldReqOp s
  | .yield h => yieldOp h s
  | .report r => reportOp r s
  | .carve size pref => if gzActive s then carveOp size.toNat pref.toNat s else notLeader 11 s
  | .release id => if gzActive s then releaseOp id s else notLeader 12 s
  | .maint o eids => maintOp o eids s
  | .pauseNotice src ms => pauseNoticeOp src ms s
  | .safeNotice src => safeNoticeOp src s
  | .notLeader seq h => notLeaderOp seq h s
  | .reply seq r => gzReplied seq r s

/-- Messages in their order, until one cannot be handled: it waits with those behind it. -/
def gzHandleAll : List GzlIn → State → State
  | [], s => s
  | m :: r, s =>
    if gzOn s then gzHandleAll r (gzHandle m s) else { s with gzl := { s.gzl with wait := s.gzl.wait ++ m :: r } }

/-- A WRITE whose drain has ended goes on; then the messages that waited are handled. -/
def gzGoOn (s : State) : State :=
  let s := if gzUp s then reportOut s (resumeWrite s) else s
  if gzOn s then gzHandleAll s.gzl.wait { s with gzl := { s.gzl with wait := [] } } else s

/-- A message arrives (R302): behind those that wait. A package that has no address, or that has not started or is safe,
receives none. -/
def gzTake (m : GzlIn) (s : State) : State :=
  if fget hostB fHOST_MGMT_LOCATED s ≠ 1 ∨ (mgmtPlane s ≠ 1 ∧ mgmtPlane s ≠ 2) then s
  else gzGoOn { s with gzl := { s.gzl with wait := s.gzl.wait ++ [m] } }

/-! The rows. -/

/-- GORZEL_WRITE_CHECK (R301). -/
def execGorzelWriteCheck (w : GzlWrite) (s : State) : Host.Outcome State Fault Refusal := .next (gzTake (.write w) s)
/-- CLAIM (R300). -/
def execClaim (epoch : BitVec 32) (holder : BitVec 19) (s : State) : Host.Outcome State Fault Refusal :=
  .next (gzTake (.claim epoch holder) s)
/-- REGISTER (R297, R317). -/
def execRegister (role : BitVec 2) (holder : BitVec 19) (preferred : Bool) (s : State) :
    Host.Outcome State Fault Refusal := .next (gzTake (.register role holder preferred) s)
/-- GRANT (R317). -/
def execGrant (epoch : BitVec 32) (_prevHolder : BitVec 19) (s : State) : Host.Outcome State Fault Refusal :=
  .next (gzTake (.grant epoch) s)
/-- STATE_COPY (R317). -/
def execStateCopy (jseq : BitVec 32) (version : BitVec 32) (recs : List (BitVec 32)) (versionOk : Bool) (s : State) :
    Host.Outcome State Fault Refusal := .next (gzTake (.stateCopy jseq version recs versionOk) s)
/-- YIELD_REQ (R317). -/
def execYieldReq (s : State) : Host.Outcome State Fault Refusal := .next (gzTake .yieldReq s)
/-- YIELD (R317, R318): the arbiter's answer. -/
def execYield (newHolder : BitVec 19) (s : State) : Host.Outcome State Fault Refusal := .next (gzTake (.yield newHolder) s)
/-- REPORT (R303, R304): of another package, taken; of this package, sent. -/
def execReport (rep : GzlReport) (s : State) : Host.Outcome State Fault Refusal :=
  .next (if rep.eid = ownEid s then sendReport s else gzTake (.report rep) s)
/-- CARVE (R312). -/
def execCarve (size : BitVec 32) (rackPref : BitVec 13) (s : State) : Host.Outcome State Fault Refusal :=
  .next (gzTake (.carve size rackPref) s)
/-- RELEASE (R313). -/
def execRelease (sliceId : BitVec 16) (s : State) : Host.Outcome State Fault Refusal := .next (gzTake (.release sliceId) s)
/-- MAINT (R308). -/
def execMaint (isOpen : Bool) (eids : List (BitVec 19)) (s : State) : Host.Outcome State Fault Refusal :=
  .next (gzTake (.maint isOpen eids) s)
/-- PAUSE_NOTICE (R315). -/
def execPauseNotice (src : BitVec 19) (ms : BitVec 32) (s : State) : Host.Outcome State Fault Refusal :=
  .next (gzTake (.pauseNotice src ms) s)
/-- SAFE_NOTICE (R448). -/
def execSafeNotice (src : BitVec 19) (s : State) : Host.Outcome State Fault Refusal := .next (gzTake (.safeNotice src) s)
/-- NOT_LEADER_REPLY (R304). -/
def execNotLeaderReply (seq : BitVec 32) (holder : BitVec 19) (s : State) : Host.Outcome State Fault Refusal :=
  .next (gzTake (.notLeader seq holder) s)
/-- GORZEL_MSG_RETRY (R303): the reply to a message has come, or none has. -/
def execGorzelMsgRetry (m : GzlAnswer) (s : State) : Host.Outcome State Fault Refusal :=
  .next (sumpStep (match m.reply with
    | some r => gzTake (.reply m.seq r) s
    | none => if gzUp s then msgRetryOp m.seq s else s))
/-- RENEW (R299); the instance goes on with its own work. -/
def execRenew (answered : Bool) (_expiryMs : BitVec 32) (s : State) : Host.Outcome State Fault Refusal :=
  .next (sumpStep (gzGoOn (renewOp answered s)))
/-- ROUTE_INSTALL (R306 to R309). -/
def execRouteInstall (dst : BitVec 19) (s : State) : Host.Outcome State Fault Refusal :=
  .next (if gzActive s then sumpStep (if drainDead dst s then packageLostOp dst s else routeOp dst s) else s)

/-- ENTRY_SET (R238); it waits while MGMT is PAUSED (R252). -/
def execEntrySet (eid : BitVec 19) (entry : BitVec 64) (s : State) : Host.Outcome State Fault Refusal :=
  .next (if mgmtPlane s = 2 then fabWait (.entry eid entry) s
    else if mgmtPlane s = 1 then gzGoOn (entrySetOp eid entry s).1 else s)
/-- DRAIN_REQ (R245). -/
def execDrainReq (eid : BitVec 19) (s : State) : Host.Outcome State Fault Refusal :=
  .next (if mgmtPlane s = 1 then gzGoOn (drainReqOp eid s).1 else s)
/-- DRAIN_ECHO (R245). -/
def execDrainEcho (src : BitVec 19) (n : BitVec 32) (s : State) : Host.Outcome State Fault Refusal :=
  .next (sumpStep (gzGoOn (drainEchoOp src n s)))
/-- DRAIN_TIMEOUT (R246). -/
def execDrainTimeout (eid : BitVec 19) (s : State) : Host.Outcome State Fault Refusal :=
  .next (sumpStep (gzGoOn (drainLate eid s)))

/-- CABINET_EDGE (R169); the entries of R309 follow it. -/
def execCabinetEdge (s : State) : Host.Outcome State Fault Refusal := .next (sumpStep (timedEdge s))
/-- BEGIN. -/
def execBeginTxn (r : Requester) (s : State) : Host.Outcome State Fault Refusal := .next (cabWrite r 1 false s)
/-- STAGE. -/
def execStage (r : Requester) (s : State) : Host.Outcome State Fault Refusal := .next (sumpStep (cabWrite r 2 false s))
/-- COMMIT. -/
def execCommit (r : Requester) (timed : Bool) (s : State) : Host.Outcome State Fault Refusal :=
  .next (sumpStep (cabWrite r 3 timed s))
/-- ROLLBACK. -/
def execRollback (r : Requester) (s : State) : Host.Outcome State Fault Refusal := .next (sumpStep (cabWrite r 4 false s))
/-- REVERT. -/
def execRevert (r : Requester) (timed : Bool) (s : State) : Host.Outcome State Fault Refusal :=
  .next (sumpStep (cabWrite r 5 timed s))

end Sys2Proof.Machine
end

