-- ==== Sys2Proof/Machine/Ports.lean ====
section
/-! DEFINITION. The check of the wiring (R296), and the rows of ports that end with what the package's own Gorzel instance does
as its ports change: the master of a package without a link (R191), a WRITE whose drain has ended. -/

namespace Sys2Proof.Machine

/-- The switch-tray port that the rack wiring gives a port (R296). -/
def wiredTo (p : Nat) (s : State) : Nat := 64 * (p / 8) + 4 * fget gzlB fGZL_SELF_TRAY s + fget gzlB fGZL_SELF_SOCKET s

/-- Gorzel's check of the wiring of a port that is up (R296): mapped out, and reported to the rack manager. -/
def wiringCheck (p : Nat) (s : State) : State :=
  if portUp p s ∧ fget (fabB p) fFAB_LINK_TRAY_PORT s ≠ wiredTo p s then evt gzlB eGZL_EVENT_WIRING (emit (.gzlWiring p) (mapOut p 7 s)) else s

/-- No port trains (R221, R352). -/
def linksDone (s : State) : Bool := (List.range 32).all fun p => portState p s != 1

/-- The end of link training during cold boot: the time-lock wait starts (R353). -/
def linksEnd (s t : State) : State :=
  if s.boot.phase == 1 && !linksDone s && linksDone t then { t with boot := { t.boot with linkT := some t.clk.now } } else t

/-- What follows a change of the ports' states from s to t. -/
def portsMoved (s t : State) : State := gzGoOn (reportOut s (selfMaster (linksEnd s t)))

/-- The same after a row that need not touch a port: with every port in its state nothing follows. -/
def portsFollow (s t : State) : State := if (List.range 32).all fun p => portState p s == portState p t then t else portsMoved s t

/-- LINK_TRAIN_END (R222, R296, R191). -/
def execLinkTrainEnd (p : Fin 32) (s : State) : Host.Outcome State Fault Refusal :=
  .next (portsMoved s (wiringCheck p.val (trainEnd p.val s)))

/-- LINK_FAULT (R222). -/
def execLinkFault (p : Fin 32) (s : State) : Host.Outcome State Fault Refusal := .next (portsMoved s (linkFaultOp p.val s))

/-- CELL_RX (R225, R233): its codewords may be a link fault (R220). -/
def execCellRx (p : Fin 32) (cell : Cell) (s : State) : Host.Outcome State Fault Refusal :=
  .next (portsMoved s (cellRx p.val cell s))

/-- LASER_LOW (R217, R469). -/
def execLaserLow (m : LaserIn) (s : State) : Host.Outcome State Fault Refusal :=
  .next (portsMoved s (laserLost m.engine.val m.power s))

/-- FAULT_SIGNAL (R382): the Bureau may fence a port. -/
def execFaultSignal (src : BitVec 16) (code : BitVec 8) (t : Bool) (c : Bool) (info0 : BitVec 32) (info1 : BitVec 32)
    (s : State) : Host.Outcome State Fault Refusal := .next (portsFollow s (faultSample src code t c info0 info1 s))

/-- BUREAU_REACTION (R388): the Bureau may fence a port. -/
def execBureauReaction (rec : FaultIn) (s : State) : Host.Outcome State Fault Refusal :=
  .next (portsFollow s (bureauReaction rec s))

/-- After a row that may have ended a drain for which a WRITE waits: the WRITE goes on (R305). -/
def drainFollow (s t : State) : State := if t.gzl.cont = s.gzl.cont then t else gzGoOn t

/-- CELL_SLOT_TX. -/
def execCellSlotTx (p : Fin 32) (s : State) : Host.Outcome State Fault Refusal :=
  .next (if portUp p.val s then drainFollow s (cellSlot p.val s) else s)

/-- PORT_MAPOUT (R305). -/
def execPortMapout (p : Fin 32) (s : State) : Host.Outcome State Fault Refusal :=
  .next (if mgmtPlane s = 1 then portsMoved s (portMapoutOp p.val s) else s)

end Sys2Proof.Machine
end

