-- ==== Sys2Proof/Machine/Startup.lean ====
section
/-! DEFINITION. The checks of firmware banks (R370, R371, R373), cold boot, READY, fall-back and ROM recovery (R352 to
R357, R377, R378, R465). -/

namespace Sys2Proof.Machine

/-- The checks of STAGE on a header (R372): MAGIC, FMT, TARGET, NCOMP and SIZE against the bytes at hand. -/
def headerStatus (b : Bool) (len : Nat) (s : State) : BitVec 8 :=
  firstFail [failIf (bankBytes b 0 4 s != [0x46, 0x57, 0x4D, 0x4E] || bank16 b 4 s != 1 || bank32 b 8 s != 0x6400B000
      || bank16 b 6 s != 6) stFORMAT,
    failIf (decide (len < bankLen b s ∨ bankSize < bankLen b s)) stLENGTH]

/-- The first compatibility record that the components do not meet: its component B (R370). -/
def compatFail (b : Bool) (s : State) : Option Nat :=
  (List.range (bank16 b 0x14 s)).findSome? fun i =>
    let o := 0x6F0 + 64 * 6 + 16 * i
    let v := compVersion b (bank16 b (o + 2) s) s
    if bank32 b (o + 4) s ≤ v ∧ v ≤ bank32 b (o + 8) s then none else some (bank16 b (o + 2) s)

/-- The first component whose digest differs from its entry. -/
def digestFail (b : Bool) (s : State) : Option Nat :=
  ((List.range 6).map fun i => 0x6F0 + 64 * i).findSome? fun o =>
    if bank16 b o s = 1 ∨ Config.sha384 (bankBytes b (bank32 b (o + 8) s) (bank32 b (o + 12) s) s) = bankBytes b (o + 16) 48 s
      then none else some (bank16 b o s)

/-- Both signatures over the image with its signature bytes taken as zero (R371). -/
def bankSigned (b : Bool) (s : State) : Bool :=
  let n := bankLen b s
  let d := Config.sha384 (bankBytes b 0 0x40 s ++ List.replicate 0x6B0 0 ++ bankBytes b 0x6F0 (n - 0x6F0) s)
  Config.ecdsaOk (Config.cumostaKey 0) d (bankBytes b 0x40 96 s) && Config.lmsOk (Config.cumostaKey 1) d (bankBytes b 0xA0 1612 s)

/-- The checks of R373 on a bank: status and component at fault. The image that was shipped passes them, but for its SECVER. -/
def bankStatus (b : Bool) (s : State) : BitVec 8 × Nat :=
  let old : Bool := s.nv.secver != 0 && decide (bankSecver b s < s.nv.secver.toNat)
  if s.nv.shipped.getD b.toNat false then (if old then (stSTALE, 0) else (stOK, 0))
  else if headerStatus b bankSize s ≠ stOK then (headerStatus b bankSize s, 0)
  else if !bankSigned b s then (stCHECK, 0)
  else match digestFail b s with
    | some c => (stCHECK, c)
    | none =>
      if old then (stSTALE, 0)
      else if compDigest b 1 s ≠ Config.bootRom then (stDENIED, 1)
      else match compatFail b s with
        | some c => (stDENIED, c)
        | none => (stOK, 0)

/-- FWU_BANK follows the marks (R381). -/
def noteBank (s : State) : State :=
  fset fwuB fFWU_BANK_ACTIVE s.nv.active.toNat (fset fwuB fFWU_BANK_STAGED s.nv.staged.toNat
    (fset fwuB fFWU_BANK_MARKED s.nv.marked.toNat (fset fwuB fFWU_BANK_SECVER (bankSecver s.nv.active s) s)))

/-! Cold boot (R352, R355, R356). -/

/-- A boot attempt has failed: HUB_BOOT names the step and the status. -/
def bootFails (step : Nat) (st : BitVec 8) (s : State) : State :=
  fset hubB fHUB_BOOT_STEP step (fset hubB fHUB_BOOT_ERROR st.toNat s)

/-- A pending scrub is repeated before READY (R143): it is ACTIVE from here. -/
def bootScrubStart (s : State) : State :=
  forAll ((List.range 4).filter fun p => bitOf s.nv.scrubs p) (fun p s => setScrubActive (pendingDies p s) p true s) s

/-- The steps after the hub firmware runs: self-test, spares, known-answer runs; the training of the stacks begins,
the fault pairs are tested (R382), and FREE_KIB shows the empty Sump (R232, R256). -/
def bootUnits (b : BootIn) (s : State) : State :=
  let s := forAll (List.range 32) (fun k => assignCluster b.goodPhys (b.cluStoreOk.getLsbD k) true k) s
  let s := forAll (List.range 20) (fun st => fset (memB st) fMEM_STATUS_STATE 1) s
  let s := noteTopology (fset hubB fHUB_BOOT_REPAIR_NEW b.repairNew.toNat (sumpRegs 0 0 (bootScrubStart s)))
  forAll b.wireBad (fun x => sendFault x.toNat 0x16 0 0) s

/-- The training of the stacks ends (R134, R352): a stack that fails stays out of service. -/
def stacksTrained (b : BootIn) (s : State) : State :=
  let s := forAll (List.range 20) (fun st => fset (memB st) fMEM_STATUS_STATE 2) s
  forAll ((List.range 20).filter fun st => !b.stackOk.getLsbD st) (fun st s => unitFault 0x0B (0x5000 + st) (fenceStack st s)) s

/-- A boot attempt of a bank (R352, R377): the checks of R373, then the hub firmware, then the units. With MGMT in RUN the
package writes the setpoint of VCORE, which the regulators held at 0.750 V until then (R324, R462; log entry 53). Firmware of
another bank may replace settings by defaults (R376). -/
def bootBank (bank alive : Bool) (b : BootIn) (s : State) : State :=
  let s := fset hubB fHUB_BOOT_BANK bank.toNat s
  let st := (bankStatus bank s).1
  if st ≠ stOK then bootFails 2 st s
  else if !alive then bootFails 3 stTIMEOUT s
  else
    let s := if b.defaulted then evt fwuB eFWU_EVENT_DEFAULTED s else s
    let s := noteBank { s with nv := { s.nv with active := bank, staged := false, marked := false } }
    let s := fset hubB fHUB_PLANE_STATUS_MGMT 1 { s with pwr := { s.pwr with hb := some s.clk.now } }
    bootUnits b (fset hubB fHUB_BOOT_STEP 7 (setVcore (curRung s) s))

/-- The bank that cold boot tries first: a marked one, else the active one (R377). -/
def firstBank (s : State) : Bool := if s.nv.marked then !s.nv.active else s.nv.active

/-- Cold boot from the lock of the root PLL (R352): the PUF, the replay-protected area, then the bank. -/
def bootRun (b : BootIn) (s : State) : State :=
  let s := { s with clk := { s.clk with locked := true },
                    boot := { s.boot with phase := 1, t0 := s.clk.now, wait := some b } }
  let s := regSet (hostB + oHOST_BOOT_ID_LO) (b.bootId.setWidth 32)
    (regSet (hostB + oHOST_BOOT_ID_HI) ((b.bootId >>> 32).setWidth 32) s)
  if !b.pufOk then
    bootFails 1 stCHECK { s with boot := { s.boot with phase := 4 } }
  else
    let s := fset hubB fHUB_SCRUB_PENDING s.nv.scrubs (noteCab s)
    bootBank (firstBank s) b.lerfenAlive b (joinDomain s)

/-- COLD_BOOT (R352, R465): every PWR_GOOD input is asserted. From the inert package, unless THERMTRIP_N is held; without
REFCLK it waits for lock. -/
def coldBootOp (b : BootIn) (s : State) : State :=
  let s := { s with boot := { s.boot with good := 0xFF } }
  if s.boot.phase ≠ 0 ∨ s.pwr.trip then s
  else if !s.boot.refclk then { s with boot := { s.boot with wait := some b } }
  else bootRun b s

/-- COLD_BOOT. -/
def execColdBoot (b : BootIn) (s : State) : Host.Outcome State Fault Refusal := .next (coldBootOp b s)

/-- ROOT_PLL_LOCK (R465). -/
def pllLockOp (s : State) : State :=
  let s := { s with boot := { s.boot with refclk := true } }
  match s.boot.wait with
  | none => s
  | some b => if s.boot.phase = 0 ∧ !s.pwr.trip then bootRun b s else s

/-- ROOT_PLL_LOCK. -/
def execRootPllLock (s : State) : Host.Outcome State Fault Refusal := .next (pllLockOp s)

/-- The hub firmware runs and the units have been tested. -/
def booted (s : State) : Bool := s.boot.phase == 1 && decide (7 ≤ fget hubB fHUB_BOOT_STEP s)

/-- The sync state is LOCKED, or the package is the master, or the time-lock wait has ended: 2,000 ms after the end of link training. Without
LOCATION nothing is waited for (R353). -/
def timeReady (s : State) : Bool :=
  let sync := fget drpB fDRP_STATUS_SYNC s
  fget hostB fHOST_MGMT_LOCATED s == 0 || sync == 2 || sync == 5 || (match s.boot.linkT with
    | none => true
    | some t => elapsed t (2000 * ticksMs) s)

/-- HUB_BOOT.STEP (R352, R379): the row in progress. The rows up to the load of the optics firmware are one command; those of
links, registration and time go on while the package waits, and the training of the stacks ends with READY. -/
def bootStep (s : State) : Nat :=
  if !booted s then fget hubB fHUB_BOOT_STEP s
  else if !linksDone s then 8
  else if fget hostB fHOST_MGMT_LOCATED s == 1 && s.drp.master == 0x7FFFF then 9
  else if !timeReady s then 10
  else 11

/-- A repeated scrub ends (R143): zeros over the dies of the mark, the read-back with its fences (R142), the mark cleared. -/
def bootScrubs (b : BootIn) (s : State) : State :=
  forAll ((List.range 4).filter fun p => bitOf s.nv.scrubs p) (fun p s =>
    let dies := pendingDies p s
    scrubFails dies p b.scrubStacks b.scrubClusters (setScrubPending p false (setScrubActive dies p false
      (scrubPass false dies p (scrubPass true dies p (scrubZero dies p s)))))) s

/-- READY (R352, R353): the stacks are trained and pending scrubs repeated, the topology is valid, CTRL and DATA are RUN. Link
training has ended by then, and the sync state is LOCKED or the time-lock wait is over. -/
def readyOp (s : State) : State :=
  if !booted s || isSafe s || !linksDone s || !timeReady s then s
  else
    let s := match s.boot.wait with
      | none => s
      | some b => bootScrubs b (stacksTrained b s)
    let s := noteTopology s
    let s := fset hubB fHUB_PLANE_STATUS_CTRL 1 (fset hubB fHUB_PLANE_STATUS_DATA 1 (fset hubB fHUB_PLANE_STATUS_READY 1 s))
    let ms := (s.clk.now - s.boot.t0) / ticksMs
    fset hubB fHUB_BOOT_TIME_MS (Nat.min ms 0xFFFF) (fset hubB fHUB_BOOT_STEP 15
      { s with boot := { s.boot with phase := 2, wait := none } })

/-- READY. -/
def execReady (s : State) : Host.Outcome State Fault Refusal := .next (readyOp s)

/-- The time by which READY is due: 20 s from t0, and 20 s more after a fall-back (R377). -/
def bootLimit (s : State) : Nat := if fget hubB fHUB_BOOT_FALLBACK s = 1 then 40 * ticksS else 20 * ticksS

/-- The boot attempt in progress has failed (R377): a check, Lerfen, or no READY in time. -/
def attemptFailed (s : State) : Bool :=
  s.boot.phase == 1 && (decide (fget hubB fHUB_BOOT_STEP s < 7) || elapsed s.boot.t0 (bootLimit s) s)

/-- The bank that a fall-back boots. -/
def otherBank (s : State) : Bool := fget hubB fHUB_BOOT_BANK s == 0

/-- A fall-back can be made: none was, and the other bank's header passes (R377). -/
def canFallBack (s : State) : Bool :=
  fget hubB fHUB_BOOT_FALLBACK s == 0
    && (s.nv.shipped.getD (otherBank s).toNat false || headerStatus (otherBank s) bankSize s == stOK)

/-- BOOT_FALLBACK (R377): the other bank is booted and becomes the active one. -/
def fallBackOp (s : State) : State :=
  match s.boot.wait with
  | none => s
  | some b =>
    if !attemptFailed s || !canFallBack s then s
    else
      let s := if booted s then bootFails (bootStep s) stTIMEOUT s else s
      let bank := otherBank s
      let s := { s with nv := { s.nv with active := bank, staged := false, marked := false } }
      bootBank bank b.otherAlive b (evt fwuB eFWU_EVENT_FALLBACK (fset hubB fHUB_BOOT_FALLBACK 1 (noteBank s)))

/-- BOOT_FALLBACK. -/
def execBootFallback (s : State) : Host.Outcome State Fault Refusal := .next (fallBackOp s)

/-- ROM_RECOVERY (R378): both banks have failed. -/
def recoveryOp (s : State) : State :=
  if attemptFailed s && !canFallBack s then
    fset hubB fHUB_PLANE_STATUS_MGMT 0 (fset hubB fHUB_BOOT_RECOVERY 1
      { s with boot := { s.boot with phase := 3, wait := none } })
  else s

/-- ROM_RECOVERY. -/
def execRomRecovery (s : State) : Host.Outcome State Fault Refusal := .next (recoveryOp s)

end Sys2Proof.Machine
end

