-- ==== Sys2Proof/Machine/Observe.lean ====
section
/-! DEFINITION. Observation: counter pages and their latches (R394, R395), rack-wide snapshots (R398, R399), sample records
(R400, R401), the Crawlway (R402) and boundary scan (R404). -/

namespace Sys2Proof.Machine

/-! Counter pages (R394). -/

/-- The counting block at a block base. -/
def ctrBlock (b : Blk) (base : Nat) : Option CtrBlk :=
  match b with
  | .core => some ⟨base, 0x00, 8⟩
  | .clu => some ⟨base, 0x08, 8⟩
  | .die => some ⟨base, 0x10, 16⟩
  | .fab => some ⟨base, 0x20, 16⟩
  | .mem => some ⟨base, 0x30, 16⟩
  | .qm => some ctrQm
  | .col => some ctrCol
  | .pwr => some ctrPwr
  | _ => none

/-- The block, the counter and the word (0 LIVE_LO, 1 LIVE_HI, 2 SNAP_LO, 3 SNAP_HI) of a counter page register. -/
def ctrReg (off : Nat) : Option (CtrBlk × Nat × Nat) :=
  match regBlock off with
  | none => none
  | some (b, base) => match ctrBlock b base with
    | none => none
    | some x =>
      let o := off - base
      if 0x400 ≤ o ∧ o < 0x400 + 16 * x.n ∧ o % 4 = 0 then some (x, (o - 0x400) / 16, o % 16 / 4) else none

/-- The read of a counter page register, with the latch that a LO word sets for this reader. -/
def ctrRead (r : Requester) (off : Nat) (x : CtrBlk × Nat × Nat) (s : State) : Word × State :=
  let c := ctrGet x.1 x.2.1 s
  match x.2.2 with
  | 0 => (c.live.setWidth 32, setLatch r (off + 4) ((c.live >>> 32).setWidth 32) s)
  | 1 => (BitVec.ofNat 32 (ctrEvent x.1 x.2.1 s * 2 ^ 24) ||| getLatch r off s, s)
  | 2 => (c.snap.setWidth 32, setLatch r (off + 4) ((c.snap >>> 32).setWidth 32) s)
  | _ => (getLatch r off s, s)

/-! Snapshots (R398, R399). -/

/-- The counting blocks in the order of a snapshot record. -/
def snapBlocks : List CtrBlk :=
  (List.range 256).map ctrCore ++ (List.range 32).map ctrClu ++ (List.range 4).map ctrDie ++ (List.range 32).map ctrFab
    ++ (List.range 20).map ctrMem ++ [ctrQm, ctrCol, ctrPwr]

/-- The block of a port that the Bureau has fenced (R388). -/
def portFenced (b : CtrBlk) (s : State) : Bool :=
  (List.range 32).any fun p => b == ctrFab p && portState p s == 4 && fget (fabB p) fFAB_STATUS_CAUSE s == 8

/-- An entry of a snapshot record; a unit fenced or out of service gives 0xFFFF and a count of 0. -/
def snapEntry (b : CtrBlk) (i : Nat) (s : State) : List Byte :=
  if ctrCounts b s && !portFenced b s then leBytes 8 ((ctrGet b i s).snap.toNat + 2 ^ 48 * ctrEvent b i s) else leBytes 8 (0xFFFF * 2 ^ 48)

/-- The epoch at a wall time that W has reached: the one before, where W has wrapped since. -/
def epochAt (t : BitVec 48) (s : State) : BitVec 16 := if s.clk.w < t then s.clk.epoch - 1 else s.clk.epoch

/-- P at a wall time that W has reached, counted back at the domain rung (log entry 92). -/
def paceAt (t : BitVec 48) (s : State) : BitVec 48 :=
  (pAfter s.clk.p s.clk.pFrac (-(6 * ((s.clk.w - t).toNat : Int))) (domRung s)).1

/-- A snapshot record (R398): the epoch and P are those at T_W. -/
def snapRecord (seq skipped : Nat) (t : BitVec 48) (s : State) : List Byte :=
  [0x53, 0x4E, 0x41, 0x50] ++ leBytes 2 1 ++ leBytes 2 3232 ++ leBytes 4 seq ++ leBytes 4 skipped
    ++ leBytes 8 ((epochAt t s).toNat * 2 ^ 48 + t.toNat) ++ leBytes 8 (paceAt t s).toNat ++ List.replicate 32 0
    ++ snapBlocks.flatMap fun b => (List.range b.n).flatMap fun i => snapEntry b i s

def snapBase (s : State) : Nat :=
  fget perfB fPERF_SNAP_RING_LO_BASE_LO s + 2 ^ 32 * fget perfB fPERF_SNAP_RING_HI_BASE_HI s
def snapObj (s : State) : Nat :=
  fget perfB fPERF_SNAP_NOTIFY_LO_OBJ_LO s + 2 ^ 32 * fget perfB fPERF_SNAP_NOTIFY_HI_OBJ_HI s
def snapTime (s : State) : BitVec 48 :=
  BitVec.ofNat 48 (fget perfB fPERF_SNAP_T_LO_T_LO s + 2 ^ 32 * fget perfB fPERF_SNAP_T_HI_T_HI s)
def snapSlots (s : State) : Nat := 2 ^ fget perfB fPERF_SNAP_CTL_LOG2_SLOTS s

/-- Every counter copies its live count (R398). -/
def copyCounters (s : State) : State :=
  { s with perf := { s.perf with counters :=
      (s.perf.counters.map fun (x : Nat × Counter) => (x.1, { x.2 with snap := x.2.live })).filter fun x => x.2 != ⟨0, 0⟩ } }

/-- Takes the snapshot of time t: copies, record, NOTIFY (R398). Memory that is fenced, out of service or scrubbed takes neither
(R137, R141). -/
def takeSnap (t : BitVec 48) (s : State) : State :=
  let s := fadd perfB fPERF_SNAP_SEQ_SEQ 1 (copyCounters s)
  let seq := fget perfB fPERF_SNAP_SEQ_SEQ s
  let a := snapBase s + 0x8000 * ((seq - 1) % snapSlots s)
  let rec' := snapRecord seq s.perf.skipped t s
  let s := { s with perf := { s.perf with skipped := 0 } }
  if rangeStatus .pf0 a rec'.length s = stOK then
    let s := memWrite a rec' s
    if memOpen (snapObj s) 4 s then notifyAt (snapObj s) 1 s else s
  else s

/-- After the snapshot of time t: the next of the period, with those that fell due meanwhile counted as skipped; or idle. -/
def nextSnap (t : BitVec 48) (s : State) : State :=
  let lp := fget perfB fPERF_SNAP_CTL_LOG2_PERIOD s
  if lp = 0 then fset perfB fPERF_SNAP_CTL_STATE 0 { s with perf := { s.perf with snapT := none } }
  else
    let n := (s.clk.w - t).toNat / 2 ^ lp
    { s with perf := { s.perf with
      snapT := some (t + BitVec.ofNat 48 ((n + 1) * 2 ^ lp)), skipped := s.perf.skipped + n } }

/-- SNAPSHOT (R398): W has reached T_W. -/
def snapshotOp (s : State) : State :=
  match s.perf.snapT with
  | none => s
  | some t => if reaches48 s.clk.w t ∧ !isSafe s then nextSnap t (takeSnap t s) else s

/-- SNAPSHOT. -/
def execSnapshot (s : State) : Host.Outcome State Fault Refusal := .next (snapshotOp s)

/-- T_W lies more than 2^47 ticks ahead of W (R399, log entry 92): of the 2^48 values of T_W, those far ahead that W has not passed in
this epoch. A smaller value than W is one that W has passed, or reaches after it wraps. -/
def snapFar (s : State) : Bool := decide (2 ^ 47 < (snapTime s - s.clk.w).toNat ∧ s.clk.w < snapTime s)

/-- The status of ARM (R399). -/
def snapStatus (s : State) : BitVec 8 :=
  let sync := fget drpB fDRP_STATUS_SYNC s
  let lp := fget perfB fPERF_SNAP_CTL_LOG2_PERIOD s
  firstFail [failIf (decide (sync = 0 ∨ sync = 1 ∨ sync = 4)) stDENIED,
    failIf (decide (stackEnd ≤ snapBase s)) stDENIED,
    failIf (snapFar s || decide (8 < fget perfB fPERF_SNAP_CTL_LOG2_SLOTS s) || !(lp == 0 || decide (20 ≤ lp ∧ lp ≤ 40))) stLENGTH,
    failIf (snapBase s % 0x8000 != 0) stWINDOW]

/-- PERF is reached by PF0 and the management ports while the package serves writes (R406). -/
def perfReach (r : Requester) (s : State) : Bool := isPf0 r && mayCommand r s

/-- ARM (R399): a time that is past takes the snapshot at once. -/
def snapArmOp (r : Requester) (s : State) : State :=
  if !perfReach r s then countDenied r s
  else
    let st := snapStatus s
    let s := fset perfB fPERF_SNAP_CTL_CMD 1 (fset perfB fPERF_SNAP_CTL_STATUS st.toNat s)
    if st ≠ stOK then s
    else snapshotOp (fset perfB fPERF_SNAP_CTL_STATE 1 { s with perf := { s.perf with snapT := some (snapTime s), skipped := 0 } })

/-- DISARM (R398). -/
def snapDisarmOp (r : Requester) (s : State) : State :=
  if !perfReach r s then countDenied r s
  else fset perfB fPERF_SNAP_CTL_CMD 2 (fset perfB fPERF_SNAP_CTL_STATUS 0 (fset perfB fPERF_SNAP_CTL_STATE 0
    { s with perf := { s.perf with snapT := none } }))

/-- SNAP_ARM. -/
def execSnapArm (r : Requester) (s : State) : Host.Outcome State Fault Refusal := .next (snapArmOp r s)
/-- SNAP_DISARM. -/
def execSnapDisarm (r : Requester) (s : State) : Host.Outcome State Fault Refusal := .next (snapDisarmOp r s)

/-! Sample records (R401). -/

def getSRing (p : Nat) (s : State) : SRing := s.perf.srings.getD p ⟨0, 0, 0, 0⟩
def setSRing (p : Nat) (x : SRing) (s : State) : State :=
  { s with perf := { s.perf with srings := modAt p (fun _ => x) s.perf.srings } }

/-- A delta of a record, saturating. -/
def sat16 (n : Nat) : Nat := Nat.min n 0xFFFF

/-- The 32 B record of a tagged instruction (R401). -/
def sampleBytes (c : Nat) (x : SampleIn) (s : State) : List Byte :=
  let slot := match (getCore c s).run with
    | none => 0
    | some r => r.slot
  let d := [x.d1, x.d2, x.d3, x.d4, x.d5]
  let full := (d.any fun n => decide (0xFFFF < n)).toNat
  leBytes 4 (c * 2 ^ 24 + x.kind.toNat * 2 ^ 21 + x.pc.toNat) ++ leBytes 4 (slot * 2 ^ 24 + x.opcode.toNat * 2 ^ 16)
    ++ leBytes 8 x.pIssue.toNat ++ d.flatMap (fun n => leBytes 2 (sat16 n)) ++ leBytes 2 (sat16 x.conflict)
    ++ leBytes 4 ((nakStatus x.status).toNat + 2 ^ 8 * full + 2 ^ 9 * x.rungChg.toNat)

/-- The place of the next record of a ring, and its status. -/
def sringAddr (x : SRing) : Nat :=
  let ent := Nat.max 7 (Nat.min 20 (bitsOf x.hi.toNat 30 26))
  (x.lo.toNat / 4096 * 4096 + 2 ^ 32 * bitsOf x.hi.toNat 13 0) + 32 * (x.head % 2 ^ ent)

/-- SAMPLE_RECORD (R401): the record of an instruction that the core has tagged goes into the ring of the core's partition, or is dropped and counted. -/
def sampleOp (c : Nat) (x : SampleIn) (s : State) : State :=
  let p := corePart c s
  if (getCore c s).tags = 0 ∨ sealBit s.cab.cur p ∨ isSafe s then s
  else
    let s := modCore c (fun k => { k with tags := k.tags - 1 }) s
    let r := getSRing p s
    let a := sringAddr r
    if bitOf r.hi.toNat 31 ∧ regionOf a = some .stack ∧ rangeStatus (.part p) a 32 s = stOK then
      setSRing p { r with head := r.head + 1 } (memWrite a (sampleBytes c x s) s)
    else setSRing p { r with drop := if r.drop = 0xFFFF then r.drop else r.drop + 1 } s

/-- SAMPLE_RECORD. -/
def execSampleRecord (c : Fin 256) (sr : SampleIn) (s : State) : Host.Outcome State Fault Refusal :=
  .next (sampleOp c.val sr s)

/-! The Crawlway (R402). -/

/-- The Crawlway works: in MANUFACTURE and OPEN, and in SEALED once the scrubs of a debug unlock have ended. -/
def crawlWorks (s : State) : Bool := decide (s.nv.lc < 2) || (s.nv.lc == 2 && s.sec.unlocked && s.sec.run.isNone)

/-- A write of BUR_CRAWL. -/
def crawlOp (r : Requester) (v : Word) (s : State) : State :=
  if isPf0 r && mayCommand r s && crawlWorks s then
    fset burB fBUR_CRAWL_DIV (bitsOf v.toNat 31 28) (fset burB fBUR_CRAWL_UNIT (bitsOf v.toNat 23 16)
      (fset burB fBUR_CRAWL_GROUP (bitsOf v.toNat 11 0) s))
  else countDenied r s

/-- BUR_CRAWL_WRITE. -/
def execBurCrawlWrite (r : Requester) (val : BitVec 32) (s : State) : Host.Outcome State Fault Refusal :=
  .next (crawlOp r val s)

/-! Boundary scan (R404). -/

/-- An instruction is loaded into the instruction register, and its data register is shifted out. -/
def tapLoad (ir : BitVec 8) (bound data : BitVec 64) (s : State) : State :=
  emit (.tdo ir data) { s with tap := ⟨ir, bound⟩ }

def tapBypass (s : State) : State := tapLoad 0xFF s.tap.bound 0 s

/-- EXTEST: in every lifecycle state. -/
def execExtest (pins : BitVec 64) (s : State) : Host.Outcome State Fault Refusal := .next (tapLoad 0x00 pins pins s)
/-- IDCODE. -/
def execIdcode (s : State) : Host.Outcome State Fault Refusal := .next (tapLoad 0x01 s.tap.bound 0x1640009B s)
/-- SAMPLE/PRELOAD: as BYPASS in SEALED. -/
def execSamplePreload (pins : BitVec 64) (s : State) : Host.Outcome State Fault Refusal :=
  .next (if s.nv.lc = 2 then tapBypass s else tapLoad 0x02 pins pins s)
/-- CLAMP: as BYPASS in SEALED. -/
def execClamp (s : State) : Host.Outcome State Fault Refusal :=
  .next (if s.nv.lc = 2 then tapBypass s else tapLoad 0x03 s.tap.bound 0 s)
/-- HIGHZ: as BYPASS in SEALED. -/
def execHighz (s : State) : Host.Outcome State Fault Refusal :=
  .next (if s.nv.lc = 2 then tapBypass s else tapLoad 0x04 s.tap.bound 0 s)
/-- BYPASS. -/
def execBypass (s : State) : Host.Outcome State Fault Refusal := .next (tapBypass s)

end Sys2Proof.Machine
end

