-- ==== Sys2Proof/Machine/Security.lean ====
section
/-! DEFINITION. The security block: signed commands (R413 to R415), lifecycle (R407 to R410), bound keys and DECRYPT (R422
to R426), the peer list (R429), anti-rollback (R430), debug unlock (R431), and each requester's copy of SEC_CMD (R432). -/

namespace Sys2Proof.Machine

/-! Arguments of SEC_CMD, and its checks (R432). -/

def secSrc (r : Requester) (s : State) : Nat :=
  secGet r fSEC_ARG_SRC_LO_SRC_LO s + 2 ^ 32 * secGet r fSEC_ARG_SRC_HI_SRC_HI s
def secDst (r : Requester) (s : State) : Nat :=
  secGet r fSEC_ARG_DST_LO_DST_LO s + 2 ^ 32 * secGet r fSEC_ARG_DST_HI_DST_HI s
def secLen (r : Requester) (s : State) : Nat := secGet r fSEC_ARG_LEN_LEN s

abbrev secOk : SecRes := (stOK, 0, 0)

/-- The first check of a list that fails, numbered from 1. -/
def firstCheck : Nat → List (BitVec 8) → SecRes
  | _, [] => secOk
  | i, x :: r => if x = stOK then firstCheck (i + 1) r else (x, i, 0)

/-! Reach of the security block in memory. -/

/-- Checks of R41 on a range that a command for partition p reads or writes: within the reach of its requester, or within
the partition. -/
def secRange (r : Requester) (p : Option Nat) (a n : Nat) (s : State) : BitVec 8 :=
  let own := match p with
    | none => stDENIED
    | some q => reachStatus (.part q) a n s
  let req := match r with
    | .pf f => if f.val = 0 then reachStatus .pf0 a n s else reachStatus (.pf (f.val - 1)) a n s
    | _ => reachStatus .pf0 a n s
  firstFail [mappedStatus a n, failIf (own != stOK && req != stOK) stDENIED, regSpaceStatus .pf0 a n, fenceStatus a n s,
    drainStatus a n s]

/-! Key slots (R422 to R426). -/

/-- IDENT of this package (R412). -/
def ownIdent : List Byte := Config.sha384 Config.identityKey

def getKey (i : Nat) (s : State) : Option KeySlot := tget (fun _ => none) s.sec.slots i
def setKey (i : Nat) (k : Option KeySlot) (s : State) : State :=
  { s with sec := { s.sec with slots := tset (fun _ => none) i k s.sec.slots } }

/-- A key slot belongs to a sealed partition that the requester serves (R423, R432). -/
def slotServed (r : Requester) (slot : Nat) (s : State) : Bool :=
  partExists s.cab.cur (slot / 4) && sealBit s.cab.cur (slot / 4) && (isPf0 r || reqPart r s == some (slot / 4))

def blobNent (b : List Byte) : Nat := le16 b 6
def blobNman (b : List Byte) : Nat := (b.getD 0x10 0).toNat
def blobNprog (b : List Byte) : Nat := (b.getD 0x11 0).toNat
/-- The end of the program digests: the additional authenticated data end there (R422). -/
def blobHead (b : List Byte) : Nat := 0x60 + 48 * (blobNman b + blobNprog b)
def blobSize (b : List Byte) : Nat := blobHead b + 96 * blobNent b
/-- n records of 48 B from an offset. -/
def digests (b : List Byte) (o n stride : Nat) : List (List Byte) := (List.range n).map fun i => bytesAt b (o + stride * i) 48

/-- Check 1 of R423. -/
def blobOk (b : List Byte) : Bool :=
  b.take 4 == [0x42, 0x4B, 0x45, 0x59] && le16 b 4 == 1 && decide (1 ≤ blobNent b ∧ blobNent b ≤ 1024)
    && decide (1 ≤ blobNman b ∧ blobNman b ≤ 4) && decide (blobNprog b ≤ 8) && zeroBytes b 0x12 2 && zeroBytes b 0x1C 4
    && zeroBytes b 0x51 15

/-- The entry of this package, by its place in the blob. -/
def blobEntry (b : List Byte) : Option Nat :=
  ((List.range (blobNent b)).map fun i => blobHead b + 96 * i).find? fun o => bytesAt b o 48 == ownIdent

/-- The content key of the entry at an offset; none when its tag fails (R422). -/
def blobKey (b : List Byte) (o : Nat) : Option (List Byte) :=
  let wrap := Config.hkdf384 (Config.ecdh Config.bindingKey (bytesAt b 0x20 49)) (bytesAt b 8 8) [] 32
  Config.gcmOpen wrap (List.replicate 12 0) (b.take (blobHead b)) (bytesAt b (o + 48) 32) (bytesAt b (o + 80) 16)

/-- The programs loaded in a partition whose digest a policy does not list. -/
def strangers (p : Nat) (l : List (List Byte)) (s : State) : Bool :=
  (slotsOf [p] s).any fun i => match (getSlot i s).prog with
    | none => false
    | some x => !l.contains x.digest

/-- UNWRAP (R423). -/
def unwrapOp (r : Requester) (slot : Nat) (s : State) : SecRes × State :=
  let a := secSrc r s
  let h := memBytes a 0x60 s
  let b := memBytes a (blobSize h) s
  let progs := digests b (0x60 + 48 * blobNman b) (blobNprog b) 48
  let mans := digests b 0x60 (blobNman b) 48
  let x := firstCheck 1 [failIf (!blobOk h) stFORMAT,
    failIf (le32 h 0x14 != blobSize h || secLen r s != blobSize h) stLENGTH,
    secRange r (some (slot / 4)) a (blobSize h) s,
    failIf (s.nv.lc != 2 || s.sec.unlocked || !slotServed r slot s || (getKey slot s).isSome) stDENIED,
    failIf (blobEntry b).isNone stDENIED,
    failIf (!mans.contains (manDigest s.nv.active s) || decide (bankSecver s.nv.active s < le32 b 0x18)) stDENIED,
    failIf (blobNprog b != 0 && strangers (slot / 4) progs s) stDENIED]
  let s := if x.2.1 = 0 ∨ 3 < x.2.1 then (readAll a (blobSize h) s).1 else s
  if x.1 ≠ stOK then (x, if 4 ≤ x.2.1 then evt secB eSEC_EVENT_UNWRAP_DENIED s else s)
  else match (blobEntry b).bind (blobKey b) with
    | none => ((stCHECK, 8, 0), evt secB eSEC_EVENT_UNWRAP_DENIED s)
    | some k =>
      (secOk, setKey slot (some ⟨k, bytesAt b 8 8, digests b (blobHead b) (blobNent b) 96, mans, progs⟩) s)

/-- The slot of an ERASE_SLOT or DECRYPT is one of the requester's (R432). -/
def slotOwn (r : Requester) (slot : Nat) (s : State) : Bool := isPf0 r || reqPart r s == some (slot / 4)

/-- ERASE_SLOT (R424). -/
def eraseSlotOp (r : Requester) (slot : Nat) (s : State) : SecRes × State :=
  if slotOwn r slot s then (secOk, setKey slot none s) else ((stDENIED, 0, 0), s)

abbrev recFull : Nat := 65552

/-- A valid run of records (R426). -/
def runOk (n : Nat) : Bool := n % recFull == 0 || decide (17 ≤ n % recFull)
/-- The plain text of a run of records. -/
def plainLen (n : Nat) : Nat := n / recFull * 65536 + (n % recFull - 16)

/-- DECRYPT of the records of n bytes at a, from record index rec, to d: the result and the record at which it ends. -/
def decryptFrom : Nat → KeySlot → Nat → Nat → Nat → Nat → State → SecRes × State
  | 0, _, _, _, _, _, s => (secOk, s)
  | fuel + 1, k, a, n, d, r, s =>
    if n = 0 then (secOk, s)
    else
      let m := Nat.min n recFull
      let s := (readAll a m s).1
      match Config.gcmOpen k.key (beBytes 12 r) (k.kid ++ leBytes 8 r) (memBytes a (m - 16) s) (memBytes (a + m - 16) 16 s) with
      | none => ((stCHECK, 0, r), evt secB eSEC_EVENT_DECRYPT_FAIL s)
      | some p => decryptFrom fuel k (a + m) (n - m) (d + (m - 16)) (r + 1) (memWrite d (bytesAt p 0 (m - 16)) s)

/-- DECRYPT (R426). A sink window takes no plain text (R155). -/
def decryptOp (r : Requester) (slot : Nat) (s : State) : SecRes × State :=
  let a := secSrc r s
  let d := secDst r s
  let n := secLen r s
  let p := slot / 4
  if !slotOwn r slot s then ((stDENIED, 0, 0), s)
  else if n = 0 then (secOk, s)
  else
    let st := firstFail [secRange r (some p) a n s, secRange r (some p) d (Nat.max 1 (plainLen n)) s,
      failIf ((getKey slot s).isNone || reachStatus (.part p) a n s != stOK
        || reachStatus (.part p) d (Nat.max 1 (plainLen n)) s != stOK) stDENIED,
      failIf (inSink d (Nat.max 1 (plainLen n)) s) stDENIED,
      failIf (!runOk n || (a != d && meets a n d (plainLen n))) stLENGTH]
    match st, getKey slot s with
    | 0, some k => decryptFrom (n / recFull + 1) k a n d (secGet r fSEC_ARG_REC_REC s) s
    | st, _ => ((st, 0, 0), s)

/-- NONCE (R415): 32 B from the TRNG. -/
def nonceOp (s : State) : SecRes × State :=
  (secOk, bumpFree { s with sec := { s.sec with nonce := some (bytesAt (Config.freeBytes s.freeCtr 32) 0 32) } })

/-! Signed commands (R414, R415). -/

/-- The payload of a record, by offset. -/
def payByte (b : List Byte) (i : Nat) : Nat := (b.getD (0x60 + i) 0).toNat

/-- The reserved fields of a payload. -/
def payReserved (cmd : Nat) (b : List Byte) : Bool :=
  match cmd with
  | 5 => zeroBytes b (0x60 + 0x61) 3
  | 7 => zeroBytes b (0x60 + 4) 4 && decide (payByte b 3 < 4)
  | 12 => zeroBytes b (0x60 + 1) 3 && decide (payByte b 0 ≤ 1)
  | _ => true

/-- PAYLOAD_LEN of a command (R415). -/
def payLen (cmd : Nat) (b : List Byte) : Nat :=
  match cmd with
  | 5 => 100
  | 6 => 8
  | 7 => 8 + 48 * (payByte b 2 + le16 b 0x60)
  | 11 => 4
  | 12 => 8 + (if payByte b 0 = 0 then 0 else le32 b (0x60 + 4))
  | _ => 0

/-- The counts of a payload are within their ranges. -/
def payCounts (cmd : Nat) (b : List Byte) : Bool :=
  match cmd with
  | 7 => decide (le16 b 0x60 ≤ 4096 ∧ payByte b 2 ≤ 8)
  | 12 => payByte b 0 == 1 || le32 b (0x60 + 4) == 0
  | _ => true

/-- The manufacturing key's KEY_ID (R415). -/
def mfgKeyId : List Byte := (Config.sha384 (Config.cumostaKey 2)).take 8

/-- Check 5 of R414. -/
def signedOk (cmd : Nat) (b : List Byte) (s : State) : Bool :=
  let n := 0x60 + le32 b 4
  let kid := bytesAt b 8 8
  let sig := bytesAt b n 96
  let d := Config.sha384 (b.take n)
  if cmd = 12 then kid == mfgKeyId && Config.ecdsaOk (Config.cumostaKey 2) d sig
  else if unsignedOk s && kid.all (· == 0) && sig.all (· == 0) then true
  else match cabKey kid s with
    | none => false
    | some k => Config.ecdsaOk k d sig

/-- The checks of R414 on a record, after the range of the record (R17, R41). -/
def signedCheck (cmd : Nat) (r : Requester) (b : List Byte) (s : State) : SecRes :=
  let st := secRange r none (secSrc r s) (secLen r s) s
  let phase0 := cmd == 12 && payByte b 0 == 0
  let ident := bytesAt b 0x30 48
  match firstCheck 1 [
    failIf ((b.getD 0 0).toNat != cmd || !zeroBytes b 1 3 || !payReserved cmd b) stFORMAT,
    failIf (secLen r s != 0x60 + le32 b 4 + 96 || le32 b 4 != payLen cmd b || !payCounts cmd b) stLENGTH] with
  | (0, _, _) =>
    if st ≠ stOK then (st, 0, 0)
    else firstCheck 3 [
      failIf (match s.sec.nonce with
        | none => true
        | some n => n != bytesAt b 0x10 32) stSTALE,
      failIf (!(if phase0 then ident.all (· == 0) else ident == ownIdent)) stDENIED,
      failIf (!signedOk cmd b s) stDENIED]
  | x => x

/-- A monotonic counter of the flash rises by 1; it never falls, so it stays at its largest value (R408). -/
def raiseCount (k : Word) : Word := if k = 0xFFFFFFFF then k else k + 1

/-- ENROL (R413, R415): the lowest free slot takes the key, and KEYSET rises. -/
def enrolOp (b : List Byte) (s : State) : BitVec 8 × State :=
  let k := bytesAt b 0x60 97
  if (cabKey (keyIdOf k) s).isSome then (stDENIED, s)
  else match (List.range 4).find? fun i => (s.nv.cabKeys.getD i none).isNone with
    | none => (stLENGTH, s)
    | some i =>
      (stOK, { s with nv := { s.nv with cabKeys := modAt i (fun _ => some k) s.nv.cabKeys, keyset := raiseCount s.nv.keyset } })

/-- REVOKE (R413, R415). -/
def revokeOp (b : List Byte) (s : State) : BitVec 8 × State :=
  let kid := bytesAt b 0x60 8
  let keep (k : Option (List Byte)) : Option (List Byte) := k.bind fun x => if keyIdOf x = kid then none else some x
  let left := s.nv.cabKeys.map keep
  if (cabKey kid s).isNone ∨ (s.nv.lc = 2 ∧ left.all fun k => k.isNone) then (stDENIED, s)
  else (stOK, { s with nv := { s.nv with cabKeys := left, keyset := raiseCount s.nv.keyset } })

/-- The sessions whose peers do not pass the list go, each with PEER_REJECTED (R429). -/
def dropPeers (s : State) : State :=
  forAll (s.fab.sessions.filter fun e => match e.2 with
    | none => false
    | some x => !peerPasses s.sec.peers x.ident x.man true x.unlocked x.sealMask)
    (fun e s => sessFault eFAB_SESS_EVENT_PEER_REJECTED (setSession (BitVec.ofNat 19 e.1) none s)) s

/-- PEER_SET (R429). -/
def peerSetOp (b : List Byte) (s : State) : BitVec 8 × State :=
  let nm := payByte b 2
  let l : PeerList := ⟨digests b (0x68 + 48 * nm) (le16 b 0x60) 48, digests b 0x68 nm 48, bitOf (payByte b 3) 0,
    bitOf (payByte b 3) 1⟩
  (stOK, dropPeers { s with sec := { s.sec with peers := l, peersSet := true } })

/-- LC_SEAL (R409): from OPEN, with a cabinet key enrolled. The Crawlway works no longer, so its outputs are low (R402). -/
def sealOp (s : State) : BitVec 8 × State :=
  if s.nv.lc = 1 ∧ s.nv.cabKeys.any fun k => k.isSome then
    (stOK, { s with nv := { s.nv with lc := 2 } })
  else (stDENIED, s)

/-- Every key slot is erased, each LOADED one with KEYS_ERASED, and every session (R410, R431). -/
def eraseAll (s : State) : State :=
  let s := forAll (List.range 16) eraseKey s
  { s with fab := { s.fab with sessions := [] } }

/-- Every partition is torn down (R421). -/
def tearAll (s : State) : State :=
  forAll (partList s.cab.cur) (fun p s => if partInReset p s then s else beginReset 3 p none s) s

/-- LC_RETIRE (R409, R410): the scrub marks are written before LC. -/
def retireLc (s : State) : BitVec 8 × State :=
  if s.nv.lc = 1 ∨ s.nv.lc = 2 then
    let s := forAll (partList s.cab.cur) (fun p => setScrubPending p true) (eraseAll s)
    (stOK, tearAll { s with nv := { s.nv with lc := 3 } })
  else (stDENIED, s)

/-- UNLOCK (R431): in SEALED. -/
def unlockOp (s : State) : BitVec 8 × State :=
  if s.nv.lc = 2 then
    let s := eraseAll s
    (stOK, tearAll (evt secB eSEC_EVENT_UNLOCK { s with sec := { s.sec with unlocked := true } }))
  else (stOK, s)

/-- COMMIT_SECVER (R415, R430). -/
def commitSecver (force : Bool) (b : List Byte) (s : State) : BitVec 8 × State :=
  let v := bankSecver s.nv.active s
  let o := !s.nv.active
  if le32 b 0x60 ≠ v then (stSTALE, s)
  else if !force && headerStatus o bankSize s == stOK && decide (bankSecver o s < v) then (stDENIED, s)
  else (stOK, { s with nv := { s.nv with secver := BitVec.ofNat 32 (Nat.max s.nv.secver.toNat v) } })

/-- The bytes of the first DER value of a list. -/
def derLen (l : List Byte) : Nat :=
  let n := (l.getD 1 0).toNat
  if n < 128 then 2 + n else 2 + (n - 128) + (bytesAt l 2 (n - 128)).foldl (fun v b => 256 * v + b.toNat) 0

/-- The certificate-chain region (R412): the root CA that the boot ROM's digest names, then the product CA and the DeviceID
certificate, which PROVISION brings in the other order (R415). -/
def chainOf (c : List Byte) : List Byte := Config.rootCert ++ c.drop (derLen c) ++ c.take (derLen c)

/-- PROVISION (R409, R415). Phase 0 enrols the PUF: helper data, and the flash root key, which is written once. -/
def provisionOp (r : Requester) (b : List Byte) (s : State) : BitVec 8 × State :=
  if s.nv.lc ≠ 0 then (stDENIED, s)
  else if payByte b 0 = 0 then
    let st := secRange r none (secDst r s) 97 s
    if s.nv.enrolled then (stDENIED, s)
    else if st ≠ stOK then (st, s)
    else if inSink (secDst r s) 97 s then (stDENIED, s)
    else (stOK, memWrite (secDst r s) (bytesAt Config.identityKey 0 97) { s with nv := { s.nv with
      enrolled := true, helper := some Config.helperData, rootKey := some (s.nv.rootKey.getD Config.flashRootKey) } })
  else
    let c := bytesAt b 0x68 (le32 b 0x64)
    if s.nv.enrolled && Config.certOk c Config.identityKey (Config.cumostaKey 3) then
      (stOK, { s with nv := { s.nv with chain := some (chainOf c), lc := 1 } })
    else (stCHECK, s)

/-- A signed command that has passed its checks. -/
def signedRun (cmd : Nat) (r : Requester) (force : Bool) (b : List Byte) (s : State) : BitVec 8 × State :=
  match cmd with
  | 5 => enrolOp b s
  | 6 => revokeOp b s
  | 7 => peerSetOp b s
  | 8 => sealOp s
  | 9 => retireLc s
  | 10 => unlockOp s
  | 11 => commitSecver force b s
  | _ => provisionOp r b s

/-- A signed command (R414): the attempt consumes the nonce. -/
def signedOp (cmd : Nat) (r : Requester) (force : Bool) (s : State) : SecRes × State :=
  let b := memBytes (secSrc r s) (secLen r s) s
  let x := signedCheck cmd r b s
  let s := { s with sec := { s.sec with nonce := none } }
  let s := if secRange r none (secSrc r s) (secLen r s) s = stOK then (readAll (secSrc r s) (secLen r s) s).1 else s
  if x.1 ≠ stOK then (x, s)
  else
    let y := signedRun cmd r force b s
    ((y.1, 0, 0), y.2)

/-! SEC_CMD (R432). -/

/-- A command by its code (R415): in RETIRED every command is refused (R407); PF(p + 1) may issue the first three. -/
def secRun (r : Requester) (cmd slot : Nat) (force : Bool) (s : State) : SecRes × State :=
  if s.nv.lc = 3 then ((stDENIED, 0, 0), s)
  else match cmd with
    | 1 => unwrapOp r slot s
    | 2 => eraseSlotOp r slot s
    | 3 => decryptOp r slot s
    | c =>
      if c = 0 ∨ 12 < c then ((stFORMAT, 0, 0), s)
      else if !isPf0 r then ((stDENIED, 0, 0), s)
      else if c = 4 then nonceOp s
      else signedOp c r force s

/-- Resets of partitions run: the scrubs of a teardown have not ended. -/
def tearing (s : State) : Bool := s.rst.runs.any fun x => x.unit == 3

/-- A command starts; LC_RETIRE and UNLOCK end when their scrubs have ended. -/
def secStart (r : Requester) (w : Word) (s : State) : State :=
  let cmd := bitsOf w.toNat 31 28
  let x := secRun r cmd (bitsOf w.toNat 3 0) (bitOf w.toNat 27) s
  if (cmd = 9 ∨ cmd = 10) ∧ x.1.1 = stOK ∧ tearing x.2 then { x.2 with sec := { x.2.sec with run := some (r, cmd) } }
  else secEnd r cmd x.1 x.2

/-- The commands that wait start one after the other, while none runs and MGMT is not PAUSED. -/
def secNext : Nat → State → State
  | 0, s => s
  | fuel + 1, s =>
    if s.sec.run.isSome ∨ mgmtPlane s = 2 then s
    else match s.sec.wait with
      | [] => s
      | x :: l => secNext fuel (secStart x.1 x.2 { s with sec := { s.sec with wait := l } })

def secResume (s : State) : State := secNext s.sec.wait.length s

/-- The scrubs of LC_RETIRE or UNLOCK have ended. -/
def secScrubbed (s : State) : State :=
  match s.sec.run with
  | none => s
  | some x => if tearing s then s else secResume (secEnd x.1 x.2 secOk { s with sec := { s.sec with run := none } })

/-- A write of SEC_CMD (R432): dropped while BUSY; commands run one at a time in the order of the writes. -/
def secWrite (r : Requester) (w : Word) (s : State) : State :=
  if !mayCommand r s then countDenied r s
  else if secGet r fSEC_CMD_BUSY s = 1 then regAccessFault r (secB + oSEC_CMD) s
  else
    let s := setLatch r (secB + oSEC_CMD) (w &&& 0xF800000F#32) s
    secResume (secSet r fSEC_CMD_BUSY 1 { s with sec := { s.sec with wait := s.sec.wait ++ [(r, w)] } })

/-- The word of SEC_CMD. -/
def secWord (cmd : Nat) (force : Bool) (slot : Nat) : Word := BitVec.ofNat 32 (cmd * 2 ^ 28 + force.toNat * 2 ^ 27 + slot)

/-- A command from a host function or a management port; no other requester reaches the block. -/
def secCmd (r : Requester) (cmd : Nat) (force : Bool) (slot : Nat) (s : State) : State :=
  match r with
  | .engine _ => s
  | _ => secWrite r (secWord cmd force slot) s

/-- UNWRAP. -/
def execUnwrap (r : Requester) (slot : Fin 16) (s : State) : Host.Outcome State Fault Refusal :=
  .next (secCmd r 1 false slot.val s)
/-- ERASE_SLOT. -/
def execEraseSlot (r : Requester) (slot : Fin 16) (s : State) : Host.Outcome State Fault Refusal :=
  .next (secCmd r 2 false slot.val s)
/-- DECRYPT. -/
def execDecrypt (r : Requester) (slot : Fin 16) (s : State) : Host.Outcome State Fault Refusal :=
  .next (secCmd r 3 false slot.val s)
/-- NONCE. -/
def execNonce (r : Requester) (s : State) : Host.Outcome State Fault Refusal := .next (secCmd r 4 false 0 s)
/-- ENROL. -/
def execEnrol (r : Requester) (s : State) : Host.Outcome State Fault Refusal := .next (secCmd r 5 false 0 s)
/-- REVOKE. -/
def execRevoke (r : Requester) (s : State) : Host.Outcome State Fault Refusal := .next (secCmd r 6 false 0 s)
/-- PEER_SET. -/
def execPeerSet (r : Requester) (s : State) : Host.Outcome State Fault Refusal := .next (secCmd r 7 false 0 s)
/-- LC_SEAL. -/
def execLcSeal (r : Requester) (s : State) : Host.Outcome State Fault Refusal := .next (secCmd r 8 false 0 s)
/-- LC_RETIRE. -/
def execLcRetire (r : Requester) (s : State) : Host.Outcome State Fault Refusal := .next (secCmd r 9 false 0 s)
/-- UNLOCK. -/
def execUnlock (r : Requester) (s : State) : Host.Outcome State Fault Refusal := .next (secCmd r 10 false 0 s)
/-- COMMIT_SECVER. -/
def execCommitSecver (r : Requester) (force : Bool) (s : State) : Host.Outcome State Fault Refusal :=
  .next (secCmd r 11 force 0 s)
/-- PROVISION. -/
def execProvision (r : Requester) (s : State) : Host.Outcome State Fault Refusal := .next (secCmd r 12 false 0 s)

/-! The registers that show the block (R432). -/

/-- The read of a SEC register by a requester. -/
def secRead (r : Requester) (o : Nat) (s : State) : Word :=
  let i := bitsOf (getLatch r (secB + oSEC_SLOT_SEL) s).toNat 3 0
  let k := getKey i s
  let kid (j : Nat) : Nat := match k with
    | none => 0
    | some x => le32 x.kid j
  let parts := partList s.cab.cur
  if o = oSEC_LC then
    BitVec.ofNat 32 (s.nv.lc * 2 ^ 30 + s.sec.unlocked.toNat * 2 ^ 29 + s.sec.peersSet.toNat * 2 ^ 28)
  else if o = oSEC_SLOT then
    BitVec.ofNat 32 (k.isSome.toNat * 2 ^ 30 + i / 4 * 2 ^ 28 + (match k with
      | none => 0
      | some x => x.progs.length % 16 * 2 ^ 24 + x.idents.length))
  else if o = oSEC_SLOT_KID_LO then BitVec.ofNat 32 (kid 0)
  else if o = oSEC_SLOT_KID_HI then BitVec.ofNat 32 (kid 4)
  else if o = oSEC_SEAL then
    BitVec.ofNat 32 (sealedMask s * 2 ^ 8 + partBits (parts.filter fun p => !(loadedSlots p s).isEmpty) * 2 ^ 4
      + partBits (parts.filter fun p => sealBit s.cab.cur p))
  else if o = oSEC_CABKEY then
    BitVec.ofNat 32 (partBits ((List.range 4).filter fun i => (s.nv.cabKeys.getD i none).isSome))
  else if o = oSEC_PEERS then BitVec.ofNat 32 s.sec.peers.idents.length
  else if o = oSEC_ANTIRB then s.nv.secver
  else if oSEC_NONCE0 ≤ o ∧ o ≤ oSEC_NONCE7 then
    (match s.sec.nonce with
      | none => 0
      | some n => BitVec.ofNat 32 (le32 n (o - oSEC_NONCE0)))
  else if oSEC_EVENT ≤ o then regGet (secB + o) s
  else getLatch r (secB + o) s

end Sys2Proof.Machine
end

