-- ==== Sys2Proof/Machine/Firmware.lean ====
section
/-! DEFINITION. The FWU commands (R372 to R374, R378, R381): STAGE, ACTIVATE up to the start of the hub restart,
ACTIVATE_ON_RESET and CANCEL. -/

namespace Sys2Proof.Machine

/-- FWU accepts commands: READY and outside the safe state, or in ROM recovery (R354, R378, R390). -/
def fwuServes (s : State) : Bool := serving s || s.boot.phase == 3

/-- A command ends (R381): FWU_RESULT, FWU_BANK, DONE. -/
def fwuEnd (cmd : Nat) (st : BitVec 8) (comp : Nat) (s : State) : State :=
  let s := fset fwuB fFWU_RESULT_CMD cmd (fset fwuB fFWU_RESULT_STATUS st.toNat (fset fwuB fFWU_RESULT_COMP comp
    (fadd fwuB fFWU_RESULT_SEQ 1 s)))
  evt fwuB eFWU_EVENT_DONE (noteBank (fset fwuB fFWU_CMD_BUSY 0 s))

/-- The bank that the package does not run from. -/
def idleBank (s : State) : Bool := !s.nv.active

def setStaged (b : Bool) (s : State) : State := { s with nv := { s.nv with staged := b, marked := false } }

/-- A bank is erased. -/
def eraseBank (b : Bool) (s : State) : State :=
  { s with flash := tput (bankBase b) bankSize [] s.flash, nv := { s.nv with shipped := modAt b.toNat (fun _ => false) s.nv.shipped } }

/-- Entries go into a bank from an offset. -/
def putBank (b : Bool) (off n : Nat) (sl : Tbl Byte) (s : State) : State :=
  { s with flash := tput (bankBase b + off) n (tclean 0 n sl) s.flash }

def fwuSrc (s : State) : Nat := fget fwuB fFWU_ARG_SRC_LO_SRC_LO s + 2 ^ 32 * fget fwuB fFWU_ARG_SRC_HI_SRC_HI s
def fwuLen (s : State) : Nat := fget fwuB fFWU_ARG_LEN_LEN s

/-- STAGE (R372): the inactive bank is erased, the image copied, its header checked. -/
def fwuStageMem (s : State) : State :=
  let a := fwuSrc s
  let n := fwuLen s
  let st := firstFail [failIf (decide (bankSize < n)) stLENGTH, if n = 0 then stOK else rangeStatus .pf0 a n s]
  let s := setStaged false s
  if st ≠ stOK then fwuEnd 1 st 0 s
  else
    let b := idleBank s
    let s := putBank b 0 n (memSlice a n s) (eraseBank b (readAll a n s).1)
    let st := headerStatus b n s
    fwuEnd 1 st 0 (setStaged (st == stOK) s)

abbrev rbufSize : Nat := 0x10000

/-- The image that was shipped in a bank stands as bytes, so that a part of it can be overwritten. -/
def unship (b : Bool) (s : State) : State :=
  if s.nv.shipped.getD b.toNat false then
    let l := Config.factoryManifest.take bankSize
    putBank b 0 l.length (sparse 0 l) (eraseBank b s)
  else s

/-- STAGE in ROM recovery (R378, R430): the recovery buffer goes into bank A; with offset 0 the bank is erased first. -/
def fwuStageRom (s : State) : State :=
  let o := fget fwuB fFWU_ARG_SRC_LO_SRC_LO s
  let n := fwuLen s
  let st := firstFail [failIf (decide (rbufSize < n ∨ bankSize < o + n)) stLENGTH, failIf (o % rbufSize != 0) stWINDOW]
  let s := setStaged false s
  if st ≠ stOK then fwuEnd 1 st 0 s
  else
    let s := { s with nv := { s.nv with active := true } }
    let s := putBank false o n (tslice 0 n s.fwu.rbuf) (if o = 0 then eraseBank false s else unship false s)
    let st := firstFail [headerStatus false bankSize s, failIf (decide (bankSecver false s < s.nv.secver.toNat)) stSTALE]
    fwuEnd 1 st 0 (setStaged (st == stOK) s)

/-- The component types whose entries differ between the banks (R373). -/
def compsDiffer (s : State) : List Nat :=
  [1, 2, 3, 4, 5, 6].filter fun ty =>
    compVersion false ty s != compVersion true ty s || compDigest false ty s != compDigest true ty s

/-- PAUSE_NOTICE to the holder that the package records (R315, R317). -/
def pauseNotice (ms : Nat) (s : State) : State :=
  if fget hostB fHOST_MGMT_LOCATED s = 1 ∧ gzHolder s ≠ 0x7FFFF ∧ gzHolder s ≠ ownEid s then
    gzSend (some (gzHolder s)) (.pauseNotice (BitVec.ofNat 32 ms)) s
  else s

/-- The hub goes into its restart (R28, R36): the commands that it holds, and the samples on their way to Lerfen. -/
def hubToReset (s : State) : State := cabHubRestart (hoFlush (fun k => k == 6660) s)

/-- The hub restarts from the staged bank: MGMT is PAUSED and the hub generation advances (R28, R364, R373). -/
def hubRestart (s : State) : State :=
  match s.fwu.act with
  | none => s
  | some a =>
    if a.phase = 0 ∧ domGenFree 4 s then
      hubToReset (advanceHub (fset hubB fHUB_PLANE_STATUS_MGMT 2 { s with fwu := { s.fwu with act := some { a with phase := 1 } } }))
    else s

/-- ACTIVATE (R373); ROM recovery runs no firmware that could be restarted (R378). -/
def fwuActivateRun (s : State) : State :=
  let l := compsDiffer s
  if s.boot.phase == 3 || !s.nv.staged || l.any (fun ty => ty == 5 || ty == 6) then fwuEnd 2 stDENIED 0 s
  else if l.isEmpty then fwuEnd 2 stOK 0 s
  else hubRestart (pauseNotice 2600 (fset fwuB fFWU_CMD_BUSY 1
    { s with fwu := { s.fwu with act := some ⟨0, l.contains 4, stOK, 0⟩ } }))

/-- ACTIVATE_ON_RESET (R372). -/
def fwuMark (s : State) : State :=
  if s.nv.staged then fwuEnd 3 stOK 0 { s with nv := { s.nv with marked := true } } else fwuEnd 3 stDENIED 0 s

/-- A command runs (R372); in RETIRED every command is refused. -/
def fwuRun (cmd : Nat) (s : State) : State :=
  if s.nv.lc = 3 then fwuEnd cmd stDENIED 0 s
  else match cmd with
    | 1 => if s.boot.phase = 3 then fwuStageRom s else fwuStageMem s
    | 2 => fwuActivateRun s
    | 3 => fwuMark s
    | 4 => fwuEnd 4 stOK 0 (setStaged false s)
    | c => fwuEnd c stFORMAT 0 s

/-- A write of FWU_CMD (R372, R381, R452). -/
def fwuWrite (r : Requester) (cmd : Nat) (s : State) : State :=
  if !isPf0 r || !fwuServes s then countDenied r s
  else if fget fwuB fFWU_CMD_BUSY s = 1 then regAccessFault r (fwuB + oFWU_CMD) s
  else
    let s := fset fwuB fFWU_CMD_CMD cmd s
    if s.fwu.upd.isSome then fwuEnd cmd stDENIED 0 s else fwuRun cmd s

/-- STAGE. -/
def execFwuStage (r : Requester) (s : State) : Host.Outcome State Fault Refusal := .next (fwuWrite r 1 s)
/-- ACTIVATE. -/
def execFwuActivate (r : Requester) (s : State) : Host.Outcome State Fault Refusal := .next (fwuWrite r 2 s)
/-- ACTIVATE_ON_RESET. -/
def execActivateOnReset (r : Requester) (s : State) : Host.Outcome State Fault Refusal := .next (fwuWrite r 3 s)
/-- CANCEL. -/
def execFwuCancel (r : Requester) (s : State) : Host.Outcome State Fault Refusal := .next (fwuWrite r 4 s)

end Sys2Proof.Machine
end

