-- ==== Sys2Proof/Machine/Attest.lean ====
section
/-! DEFINITION. The SPDM responder (R416, R417, R451), the MCTP control commands (R444), the dynamic address of I3C (R443),
and the network side of the management ports (R442). -/

namespace Sys2Proof.Machine

/-! The SPDM responder. -/

/-- SPDM requests are answered once MGMT is RUN (R354). -/
def spdmOn (s : State) : Bool := mgmtPlane s == 1

def spdmPeer (q : SpdmId) (s : State) : Option SpdmPeer := s.spdm.peers.find? fun x => x.q == q

/-- The requester's state is replaced. -/
def putSpdm (x : SpdmPeer) (s : State) : State :=
  { s with spdm := { s.spdm with peers := x :: s.spdm.peers.filter fun y => y.q != x.q } }

/-- The least recently active requester. -/
def oldestSpdm : List SpdmPeer → Option SpdmPeer
  | [] => none
  | x :: r => match oldestSpdm r with
    | none => some x
    | some y => if y.t < x.t then some y else some x

/-- Room for one more requester: beyond eight, the least recently active one is dropped (R451). -/
def spdmRoom (s : State) : State :=
  if s.spdm.peers.length < 8 then s
  else match oldestSpdm s.spdm.peers with
    | none => s
    | some x => { s with spdm := ⟨s.spdm.peers.filter fun y => y.q != x.q, x.q :: s.spdm.dropped.erase x.q⟩ }

/-- ERROR with a code. -/
def spdmError (q : SpdmId) (err : Nat) (s : State) : State := emit (.spdm q 0x7F [BitVec.ofNat 8 err]) s

/-- A response with its request enters the messages that signatures cover. -/
def spdmReply (x : SpdmPeer) (step : Nat) (req : List Byte) (code : Nat) (body : List Byte) (s : State) : State :=
  emit (.spdm x.q code body) (putSpdm { x with
    step := step, t := s.clk.now, trans := x.trans ++ req ++ BitVec.ofNat 8 code :: body } s)

/-- A request other than GET_VERSION (R451): RequestResynch for a dropped requester, UnexpectedRequest out of order, else
its answer. -/
def spdmAsk (q : SpdmId) (need : Nat) (f : SpdmPeer → State → State) (s : State) : State :=
  if !spdmOn s then s
  else match spdmPeer q s with
    | some x => if need ≤ x.step then f x s else spdmError q 0x04 (putSpdm { x with t := s.clk.now } s)
    | none =>
      if s.spdm.dropped.contains q then spdmError q 0x43 { s with spdm := { s.spdm with dropped := s.spdm.dropped.erase q } }
      else spdmError q 0x04 s

/-- GET_VERSION (R416): versions 1.3 and 1.2; the requester's state starts anew. -/
def getVersionOp (q : SpdmId) (s : State) : State :=
  if !spdmOn s then s
  else
    let s := { s with spdm := ⟨s.spdm.peers.filter fun y => y.q != q, s.spdm.dropped.erase q⟩ }
    spdmReply ⟨q, 1, s.clk.now, []⟩ 1 [0x84] 0x04 [0x13, 0x12] (spdmRoom s)

/-- GET_VERSION. -/
def execGetVersion (q : SpdmId) (s : State) : Host.Outcome State Fault Refusal := .next (getVersionOp q s)

/-- GET_CAPABILITIES (R416): certificates, challenges and signed measurements; no sessions. -/
def execGetCapabilities (q : SpdmId) (s : State) : Host.Outcome State Fault Refusal :=
  .next (spdmAsk q 1 (fun x s => spdmReply x (Nat.max 2 x.step) [0xE1] 0x61 (leBytes 4 0x16) s) s)

/-- NEGOTIATE_ALGORITHMS (R416): P-384 and SHA-384 alone. -/
def execNegotiateAlgorithms (q : SpdmId) (p384 sha384 : Bool) (s : State) : Host.Outcome State Fault Refusal :=
  .next (spdmAsk q 2 (fun x s =>
    if p384 && sha384 then spdmReply x 3 [0xE3] 0x63 [0x80, 0x02] s
    else spdmError q 0x01 (putSpdm { x with t := s.clk.now } s)) s)

/-- GET_DIGESTS (R416). -/
def execGetDigests (q : SpdmId) (s : State) : Host.Outcome State Fault Refusal :=
  .next (spdmAsk q 3 (fun x s => spdmReply x 3 [0x81] 0x01 (Config.sha384 (certChain s)) s) s)

/-- GET_CERTIFICATE (R416): a portion of the chain, its length and what is left. -/
def getCertificateOp (slot : BitVec 8) (off len : Nat) (x : SpdmPeer) (s : State) : State :=
  let c := certChain s
  if slot ≠ 0 ∨ c.length ≤ off then spdmError x.q 0x01 (putSpdm { x with t := s.clk.now } s)
  else
    let n := Nat.min len (c.length - off)
    spdmReply x 3 (0x82 :: leBytes 2 off ++ leBytes 2 len) 0x02
      (leBytes 2 n ++ leBytes 2 (c.length - off - n) ++ bytesAt c off n) s

/-- GET_CERTIFICATE. -/
def execGetCertificate (q : SpdmId) (slot : BitVec 8) (off len : BitVec 16) (s : State) : Host.Outcome State Fault Refusal :=
  .next (spdmAsk q 3 (getCertificateOp slot off.toNat len.toNat) s)

/-- A response that the identity key signs over every message so far: a fresh nonce, then the signature. -/
def spdmSigned (x : SpdmPeer) (req : List Byte) (code : Nat) (body : List Byte) (s : State) : State :=
  let b := body ++ bytesAt (Config.freeBytes s.freeCtr 32) 0 32
  let sig := Config.ecdsaSign Config.identityKey (x.trans ++ req ++ BitVec.ofNat 8 code :: b)
  spdmReply x 3 req code (b ++ bytesAt sig 0 96) (bumpFree s)

/-- CHALLENGE (R416). -/
def execChallenge (q : SpdmId) (slot : BitVec 8) (nonce : List (BitVec 8)) (s : State) : Host.Outcome State Fault Refusal :=
  .next (spdmAsk q 3 (fun x s =>
    if slot ≠ 0 then spdmError q 0x01 (putSpdm { x with t := s.clk.now } s)
    else spdmSigned x (0x83 :: slot :: nonce) 0x03 (Config.sha384 (certChain s)) s) s)

/-! The measurement blocks (R417). -/

/-- The bytes of the PARTITIONS section in force. -/
def partBytes (s : State) : List Byte := ((s.cab.cur.sect.getD 0 []).map fun w => leBytes 4 w.toNat).flatten

/-- Block 9. -/
def measPartitions (s : State) : List Byte :=
  let m (p : Nat) : Nat := if partExists s.cab.cur p then dieMask s.cab.cur p else 0
  leBytes 4 s.cab.cur.gen.toNat
    ++ [BitVec.ofNat 8 (m 0 + 16 * m 1), BitVec.ofNat 8 (m 2 + 16 * m 3), BitVec.ofNat 8 (sealedMask s), 0]
    ++ Config.sha384 (partBytes s)

/-- Block 10. -/
def measSlots (s : State) : List Byte :=
  (List.range 16).flatMap fun i => match getKey i s with
    | none => List.replicate 9 0
    | some k => 1 :: bytesAt k.kid 0 8

/-- The value of a measurement block. -/
def measurement (i : Nat) (s : State) : List Byte :=
  if i = 1 then Config.bootRom
  else if i = 2 then leBytes 4 (bankSecver s.nv.active s) ++ manDigest s.nv.active s
  else if i ≤ 7 then compDigest s.nv.active (i - 1) s
  else if i = 8 then leBytes 4 (s.nv.lc + 4 * s.sec.unlocked.toNat)
  else if i = 9 then measPartitions s
  else if i = 10 then measSlots s
  else bytesAt Config.bindingKey 0 97

/-- The form of a block (R417): 0 a digest, 0x80 raw, as the measurement format of SPDM writes it (log entry 103). -/
def measForm (i : Nat) : Byte := if i ≤ 7 then 0 else 0x80

/-- A block with its index, form and length. -/
def measBlock (s : State) (i : Nat) : List Byte :=
  BitVec.ofNat 8 i :: measForm i :: leBytes 2 (measurement i s).length ++ measurement i s

/-- GET_MEASUREMENTS (R417): index 0 asks for the number of blocks, 0xFF for all of them. -/
def measOp (i : Nat) (sign : Bool) (nonce : List Byte) (x : SpdmPeer) (s : State) : State :=
  let req := 0xE0 :: BitVec.ofNat 8 i :: nonce
  let body := if i = 0 then [11] else if i = 0xFF then (List.range 11).flatMap fun j => measBlock s (j + 1) else measBlock s i
  if 11 < i ∧ i ≠ 0xFF then spdmError x.q 0x01 (putSpdm { x with t := s.clk.now } s)
  else if sign then spdmSigned x req 0x60 body s
  else spdmReply x 3 req 0x60 body s

/-- GET_MEASUREMENTS. -/
def execGetMeasurements (q : SpdmId) (index : BitVec 8) (sign : Bool) (nonce : List (BitVec 8)) (s : State) :
    Host.Outcome State Fault Refusal := .next (spdmAsk q 3 (measOp index.toNat sign nonce) s)

/-- A request that is not supported (R416): ERROR with UnsupportedRequest, whatever the package keeps of its requester; one that
was dropped hears RequestResynch first (R451). -/
def execSpdmUnsupportedRequest (q : SpdmId) (_code : BitVec 8) (s : State) : Host.Outcome State Fault Refusal :=
  .next (match spdmPeer q s with
    | some _ => spdmAsk q 0 (fun x s => spdmError q 0x07 (putSpdm { x with t := s.clk.now } s)) s
    | none => if s.spdm.dropped.contains q then spdmAsk q 0 (fun _ s => s) s else if spdmOn s then spdmError q 0x07 s else s)

/-! MCTP (R444). -/

/-- The package answers MCTP commands: MGMT is RUN, or the boot ROM runs the ports (R378). -/
def mgmtUp (s : State) : Bool := mgmtPlane s == 1 || s.boot.phase == 3

def mctpReply (code : Nat) (cc : Byte) (body : List Byte) (s : State) : State := emit (.mctp code (cc :: body)) s

/-- Set Endpoint ID: accepted over I3C, for an assignable ID. -/
def setEidOp (eid : BitVec 8) (overI3c : Bool) (s : State) : State :=
  if !overI3c then mctpReply 1 0x01 [] s
  else if eid = 0 ∨ eid = 0xFF then mctpReply 1 0x02 [] s
  else mctpReply 1 0 [eid] (fset hostB fHOST_MGMT_MCTP_EID eid.toNat s)

/-- Set Endpoint ID. -/
def execSetEndpointId (eid : BitVec 8) (overI3c : Bool) (s : State) : Host.Outcome State Fault Refusal :=
  .next (if mgmtUp s then setEidOp eid overI3c s else s)

/-- Get Endpoint ID. -/
def execGetEndpointId (s : State) : Host.Outcome State Fault Refusal :=
  .next (if mgmtUp s then mctpReply 2 0 [BitVec.ofNat 8 (fget hostB fHOST_MGMT_MCTP_EID s)] s else s)

/-- Get MCTP Version Support: the manual names no version numbers. -/
def execGetMctpVersionSupport (s : State) : Host.Outcome State Fault Refusal :=
  .next (if mgmtUp s then mctpReply 4 0 (Config.freeBytes s.freeCtr 4) (bumpFree s) else s)

/-- The message types of a transport (R444): PLDM, SPDM, vendor-defined with a PCI vendor ID. -/
def mctpTypes : Transport → List Byte
  | .pcie => [0x01, 0x05]
  | _ => [0x01, 0x05, 0x7E]

/-- Get Message Type Support. -/
def execGetMessageTypeSupport (tr : Transport) (s : State) : Host.Outcome State Fault Refusal :=
  .next (if mgmtUp s then mctpReply 5 0 (mctpTypes tr) s else s)

/-- Get Vendor Defined Message Support: vendor 0x1EC5, except over PCI Express. -/
def execGetVendorDefinedMessageSupport (tr : Transport) (s : State) : Host.Outcome State Fault Refusal :=
  .next (if !mgmtUp s then s else if tr = .pcie then mctpReply 6 0x01 [] s else mctpReply 6 0 [0, 0x1E, 0xC5] s)

/-- ENTDAA (R443): the dynamic address that the tray controller assigns. -/
def execEntdaa (addr : BitVec 7) (s : State) : Host.Outcome State Fault Refusal :=
  .next (if mgmtUp s then fset hostB fHOST_MGMT_I3C_ADDR addr.toNat (fset hostB fHOST_MGMT_I3C_ADDR_OK 1 s) else s)

/-! The network of ports A and B (R442). -/

def fPortUp : MgPort → Fld
  | .a => fHOST_MGMT_A_UP
  | .b => fHOST_MGMT_B_UP
def fPortIp : MgPort → Nat
  | .a => oHOST_IPV4_A
  | .b => oHOST_IPV4_B

/-- The MAC address of a port. -/
def portMac (p : MgPort) : List Byte :=
  let last := (ownIdent.getD 4 0).toNat / 2 * 2
  0x02 :: ownIdent.take 4 ++ [BitVec.ofNat 8 (last + (if p = .b then 1 else 0))]

/-- A frame for an address of this port, whose link is up. -/
def portHears (p : MgPort) (ip : Word) (s : State) : Bool :=
  fget hostB (fPortUp p) s == 1 && ip != 0 && regGet (hostB + fPortIp p) s == ip

/-- An ARP request is answered with the port's MAC address. -/
def execArpRequest (port : MgPort) (ip : BitVec 32) (s : State) : Host.Outcome State Fault Refusal :=
  .next (if portHears port ip s then emit (.net port true (portMac port)) s else s)

/-- An ICMP echo is answered with its data. -/
def execIcmpEcho (port : MgPort) (ip : BitVec 32) (data : List (BitVec 8)) (s : State) : Host.Outcome State Fault Refusal :=
  .next (if portHears port ip s then emit (.net port false data) s else s)

/-- The link of a management port comes up or goes down; the ports are started by LOCATION (R295) or by the boot ROM in
recovery (R378). -/
def execMgmtPortLinkChange (port : MgPort) (up : Bool) (s : State) : Host.Outcome State Fault Refusal :=
  .next (if up && fget hostB fHOST_MGMT_LOCATED s == 0 && s.boot.phase != 3 then s else fset hostB (fPortUp port) up.toNat s)

end Sys2Proof.Machine
end

