-- ==== Sys2Proof/Machine/Pldm.lean ====
section
/-! DEFINITION. PLDM base and PLDM for Firmware Update (R452): the terminus, the identifiers, the update mode. -/

namespace Sys2Proof.Machine

/-- A PLDM response: the type and the command code, the completion code, the data. -/
def pldmReply (ty cmd cc : Nat) (body : List Byte) (s : State) : State := emit (.pldm (256 * ty + cmd) cc body) s

def pldmGate (f : State → State) (s : State) : State := if mgmtUp s then f s else s

/-- GetTID. -/
def execGetTid (s : State) : Host.Outcome State Fault Refusal :=
  .next (pldmGate (fun s => pldmReply 0 0x02 0 [s.fwu.tid] s) s)

/-- SetTID. -/
def execSetTid (tid : BitVec 8) (s : State) : Host.Outcome State Fault Refusal :=
  .next (pldmGate (fun s =>
    if tid = 0 ∨ tid = 0xFF then pldmReply 0 0x01 2 [] s
    else pldmReply 0 0x01 0 [] { s with fwu := { s.fwu with tid := tid } }) s)

/-- GetPLDMVersion of type 0 or 5; the manual names no version numbers. -/
def execGetPldmVersion (ptype : BitVec 8) (s : State) : Host.Outcome State Fault Refusal :=
  .next (pldmGate (fun s =>
    if ptype = 0 ∨ ptype = 5 then pldmReply 0 0x03 0 (Config.freeBytes s.freeCtr 4) (bumpFree s)
    else pldmReply 0 0x03 0x83 [] s) s)

/-- GetPLDMTypes: base and firmware update. -/
def execGetPldmTypes (s : State) : Host.Outcome State Fault Refusal :=
  .next (pldmGate (pldmReply 0 0x04 0 (leBytes 8 0x21)) s)

/-- The commands of a type, as a bitmap. -/
def pldmCmds (ptype : BitVec 8) : List Byte :=
  let l := if ptype = 0 then [1, 2, 3, 4, 5] else [0x01, 0x02, 0x10, 0x13, 0x14, 0x15, 0x16, 0x17, 0x18, 0x1A, 0x1B, 0x1C, 0x1D]
  leBytes 32 (l.foldl (fun a b => a + 2 ^ b) 0)

/-- GetPLDMCommands. -/
def execGetPldmCommands (ptype : BitVec 8) (s : State) : Host.Outcome State Fault Refusal :=
  .next (pldmGate (fun s =>
    if ptype = 0 ∨ ptype = 5 then pldmReply 0 0x05 0 (pldmCmds ptype) s else pldmReply 0 0x05 0x83 [] s) s)

/-- QueryDeviceIdentifiers: PCI vendor and device, and the first 16 B of IDENT. -/
def execQueryDeviceIdentifiers (s : State) : Host.Outcome State Fault Refusal :=
  .next (pldmGate (pldmReply 5 0x01 0 (leBytes 2 0x1EC5 ++ leBytes 2 0x6400 ++ bytesAt ownIdent 0 16)) s)

/-- GetFirmwareParameters: one component, the bank image; the manual does not spell out its version string. -/
def execGetFirmwareParameters (s : State) : Host.Outcome State Fault Refusal :=
  .next (pldmGate (fun s => pldmReply 5 0x02 0 (leBytes 2 1 ++ Config.freeBytes s.freeCtr 32) (bumpFree s)) s)

/-! Update mode. -/

/-- The bank that an update writes: the inactive one, in recovery bank A (R378). -/
def updBank (s : State) : Bool := if s.boot.phase = 3 then false else idleBank s

def setUpd (u : Option PldmUpd) (s : State) : State := { s with fwu := { s.fwu with upd := u } }

/-- RequestUpdate (R452). -/
def requestUpdateOp (q : SpdmId) (s : State) : State :=
  if s.fwu.upd.isSome then pldmReply 5 0x10 0x81 [] s
  else if fget fwuB fFWU_CMD_BUSY s = 1 then pldmReply 5 0x10 0x8E [] s
  else if s.nv.lc = 3 ∨ !fwuServes s then pldmReply 5 0x10 0x8A [] s
  else pldmReply 5 0x10 0 [] (setUpd (some ⟨q, 1, 0, 0, s.clk.now⟩) s)

/-- RequestUpdate. -/
def execRequestUpdate (q : SpdmId) (s : State) : Host.Outcome State Fault Refusal := .next (pldmGate (requestUpdateOp q) s)

/-- A command of update mode, from the requester that holds it and at a step that allows it. -/
def inUpdate (q : SpdmId) (cmd : Nat) (ok : PldmUpd → Bool) (f : PldmUpd → State → State) (s : State) : State :=
  pldmGate (fun s => match s.fwu.upd with
    | none => pldmReply 5 cmd 0x80 [] s
    | some u =>
      if u.q ≠ q then pldmReply 5 cmd 0x80 [] s
      else if ok u then f { u with t := s.clk.now } s
      else pldmReply 5 cmd 0x84 [] (setUpd (some { u with t := s.clk.now }) s)) s

/-- PassComponentTable: the single component. -/
def execPassComponentTable (q : SpdmId) (ncomp : BitVec 16) (s : State) : Host.Outcome State Fault Refusal :=
  .next (inUpdate q 0x13 (fun u => u.step == 1) (fun u s =>
    if ncomp = 1 then pldmReply 5 0x13 0 [] (setUpd (some { u with step := 2 }) s)
    else pldmReply 5 0x13 2 [] (setUpd (some u) s)) s)

/-- UpdateComponent: the bank is erased, as by STAGE. -/
def updateComponentOp (size : Nat) (u : PldmUpd) (s : State) : State :=
  if size = 0 ∨ bankSize < size then pldmReply 5 0x14 2 [] (setUpd (some u) s)
  else
    let s := if s.boot.phase = 3 then { s with nv := { s.nv with active := true } } else s
    pldmReply 5 0x14 0 [] (noteBank (eraseBank (updBank s) (setStaged false
      (setUpd (some { u with step := 3, size := size, got := 0 }) s))))

/-- UpdateComponent. -/
def execUpdateComponent (q : SpdmId) (size : BitVec 32) (s : State) : Host.Outcome State Fault Refusal :=
  .next (inUpdate q 0x14 (fun u => u.step == 2) (updateComponentOp size.toNat) s)

/-- A piece of the image arrives: into the inactive bank; in recovery into the recovery buffer, whose contents go into the
bank as it fills. -/
def takePiece (u : PldmUpd) (data : List Byte) (s : State) : State :=
  let n := Nat.min 1024 (u.size - u.got)
  let sl := sparse 0 (bytesAt data 0 n)
  let s := setUpd (some { u with got := u.got + n }) s
  if s.boot.phase ≠ 3 then putBank (updBank s) u.got n sl s
  else
    let s := { s with fwu := { s.fwu with rbuf := tput (u.got % rbufSize) n sl s.fwu.rbuf } }
    putBank false (u.got / rbufSize * rbufSize) (u.got % rbufSize + n) (tslice 0 (u.got % rbufSize + n) s.fwu.rbuf) s

/-- RequestFirmwareData: the package pulls the next 1,024 B, or what is left. -/
def execRequestFirmwareData (q : SpdmId) (data : List (BitVec 8)) (s : State) : Host.Outcome State Fault Refusal :=
  .next (inUpdate q 0x15 (fun u => u.step == 3 && decide (u.got < u.size)) (fun u s =>
    if data.length < Nat.min 1024 (u.size - u.got) then s else takePiece u data s) s)

/-- TransferComplete: the whole image has arrived. -/
def execTransferComplete (q : SpdmId) (s : State) : Host.Outcome State Fault Refusal :=
  .next (inUpdate q 0x16 (fun u => u.step == 3 && u.got == u.size) (fun u s =>
    pldmReply 5 0x16 0 [] (setUpd (some { u with step := 4 }) s)) s)

/-- The checks of STAGE on the image that arrived (R372), with the floor of R430 in recovery. -/
def updStatus (u : PldmUpd) (s : State) : BitVec 8 :=
  firstFail [headerStatus (updBank s) u.size s,
    failIf (s.boot.phase == 3 && decide (bankSecver false s < s.nv.secver.toNat)) stSTALE]

/-- VerifyComplete: an image that fails sends the update back to its components. -/
def execVerifyComplete (q : SpdmId) (s : State) : Host.Outcome State Fault Refusal :=
  .next (inUpdate q 0x17 (fun u => u.step == 4) (fun u s =>
    let st := updStatus u s
    pldmReply 5 0x17 st.toNat [] (setUpd (some { u with step := if st = stOK then 5 else 2 }) s)) s)

/-- ApplyComplete: the bank reads staged. -/
def execApplyComplete (q : SpdmId) (s : State) : Host.Outcome State Fault Refusal :=
  .next (inUpdate q 0x18 (fun u => u.step == 5) (fun u s =>
    pldmReply 5 0x18 0 [] (noteBank (setStaged true (setUpd (some { u with step := 6 }) s)))) s)

/-- ActivateFirmware: ACTIVATE or ACTIVATE_ON_RESET; update mode ends. -/
def execActivateFirmware (q : SpdmId) (selfContained : Bool) (s : State) : Host.Outcome State Fault Refusal :=
  .next (inUpdate q 0x1A (fun u => u.step == 6) (fun _ s =>
    fwuRun (if selfContained then 2 else 3) (pldmReply 5 0x1A 0 [] (setUpd none s))) s)

/-- GetStatus: the step of the update, 0 outside update mode. -/
def execGetStatus (_q : SpdmId) (s : State) : Host.Outcome State Fault Refusal :=
  .next (pldmGate (fun s => pldmReply 5 0x1B 0 [BitVec.ofNat 8 ((s.fwu.upd.map fun u => u.step).getD 0)] s) s)

/-- CancelUpdateComponent: the transfer is given up. -/
def execCancelUpdateComponent (q : SpdmId) (s : State) : Host.Outcome State Fault Refusal :=
  .next (inUpdate q 0x1C (fun u => decide (3 ≤ u.step ∧ u.step ≤ 5)) (fun u s =>
    pldmReply 5 0x1C 0 [] (noteBank (setStaged false (setUpd (some { u with step := 2 }) s)))) s)

/-- Update mode ends, and the bank reads not staged. -/
def leaveUpdate (s : State) : State := noteBank (setStaged false (setUpd none s))

/-- CancelUpdate. -/
def execCancelUpdate (q : SpdmId) (s : State) : Host.Outcome State Fault Refusal :=
  .next (inUpdate q 0x1D (fun _ => true) (fun _ s => pldmReply 5 0x1D 0 [] (leaveUpdate s)) s)

/-- PLDM_IDLE_TIMEOUT: 60 s without a request. -/
def execPldmIdleTimeout (s : State) : Host.Outcome State Fault Refusal :=
  .next (match s.fwu.upd with
    | none => s
    | some u => if elapsed u.t (60 * ticksS) s then leaveUpdate s else s)

end Sys2Proof.Machine
end

