-- ==== Sys2Proof/Machine/Access.lean ====
section
/-! DEFINITION. Accesses to the register space (R7 to R12, R42): who reaches which register (R354, R378, R390, R436 and the
rules of the blocks), the values that reads return, the effects of reads of RC fields and latches (R12, R188, R394), the
mode registers (R147), and the writes that start commands. -/

namespace Sys2Proof.Machine

/-! Who reaches which register. -/

/-- The blocks that are served now, for reads and for writes: in ROM recovery HUB and FWU (R378), in the safe state reads of
HUB and BUR (R390), until READY reads of HUB and FWU once MGMT runs (R354). -/
def blkServed (b : Blk) (write : Bool) (s : State) : Bool :=
  if s.boot.phase = 3 then b == .hub || b == .fwu
  else if isSafe s then !write && (b == .hub || b == .bur)
  else if isReady s then true
  else !write && (b == .hub || b == .fwu) && mgmtPlane s != 0

/-- PF(p + 1) reaches the partition of a die. -/
def ownDie (p d : Nat) (s : State) : Bool := partOfDie s.cab.cur d == some p

/-- The die of a core, cluster or die register block. -/
def winDie (base : Nat) : Nat := (base - 0x01000000) / 0x00400000

/-- The cluster of a core or cluster register block. -/
def winClu (base : Nat) : Nat := 8 * winDie base + (base - 0x01000000) % 0x00400000 / 0x00080000

/-- What PF(p + 1) reaches, by block and register (R26, R107, R214, R292, R351, R379, R380, R405, R406, R432, R453). -/
def pfReach (p : Nat) (b : Blk) (base o : Nat) (write : Bool) (s : State) : Bool :=
  match b with
  | .hub =>
    if o = oHUB_RESET_CTL ∨ o = oHUB_RESET_STAT then true
    else !write && (decide (o ≤ oHUB_SCRUB) || o == oHUB_BOOT || o == oHUB_BOOT_TIME)
  | .bur => !write && (o == oBUR_STATUS || decide (0x10000 ≤ o ∧ o < 0x18000))
  | .drp => !write
  | .cab => false
  | .pwr => decide (o = oPWR_STATUS ∨ o = oPWR_STEP_HOLD ∨ oPWR_RAMP_SEL ≤ o ∧ o ≤ oPWR_RAMP_CTL)
  | .perf =>
    decide (oPERF_SRING_LO ≤ o ∧ o ≤ oPERF_SRING_STAT) && fget perfB fPERF_SRING_SEL_PART s == p
      && !(write && sealBit s.cab.cur p)
  | .sec => !write || decide (o < oSEC_EVENT)
  | .fwu => false
  | .qm => if 0x40000 ≤ o ∧ o < 0x80000 then (o - 0x40000) / 0x10000 == p else true
  | .gzl => false
  | .col => true
  | .core => ownDie p (winDie base) s
  | .clu => ownDie p (winDie base) s
  | .die => ownDie p (winDie base) s
  | .fab => !write
  | .mem => ownDie p ((base - 0x03000000) / 0x00010000 / 5) s
  | .host => !write && (o == oHOST_LINK || o == oHOST_DENIED_PF0 + 4 * (p + 1))

/-- The management ports reach what PF0 reaches, but not the chambers (R292) nor the reset registers of the cores (R380). -/
def portReach (b : Blk) (o : Nat) : Bool :=
  match b with
  | .col => false
  | .core => !decide (oCORE_RESET_GEN ≤ o ∧ o ≤ oCORE_CAPTURE_CTL)
  | _ => true

/-- The status of a naturally aligned access to a register-space offset. BUR_CRAWL takes no write while the Crawlway does not work
(R402). -/
def regStatus (r : Requester) (off : Nat) (write : Bool) (s : State) : BitVec 8 :=
  match regBlock off with
  | none => failIf (isSafe s || (!blkServed .hub write s && !blkServed .qm write s)) stDENIED
  | some (b, base) =>
    let o := off - base
    let reach : Bool := match r with
      | .pf f => f.val == 0 || (if partExists s.cab.cur (f.val - 1) then pfReach (f.val - 1) b base o write s
          else !write && off == hubB + oHUB_PART_ID)
      | .engine _ => false
      | .hubFw _ => true
      | _ => portReach b o
    let rescue : Bool := s.boot.phase != 3 || isPf0 r
    let crawl : Bool := b == .bur && o == oBUR_CRAWL && write && !crawlWorks s
    firstFail [failIf (!blkServed b write s || !reach || !rescue || crawl) stDENIED,
      failIf ((b == .core || b == .clu) && !cluOk (winClu base) s) stFENCED]

/-! Values of reads. -/

/-- A word of the log window (R386, R405): for PF(p + 1) a record without bit p in PARTS shows its SEQ alone. -/
def logWord (r : Requester) (o : Nat) (s : State) : Word :=
  match logAt (o / 32) s with
  | none => 0
  | some x =>
    let hidden : Bool := match reqPart r s with
      | none => false
      | some p => !x.parts.getLsbD p
    if hidden && o % 32 != 24 then 0 else BitVec.ofNat 32 (le32 (logBytes x) (o % 32))

/-- COL_CINFO and COL_CPOS of the chamber that COL_CSEL names (R292). -/
def colWord (o : Nat) (s : State) : Word :=
  let x := getCh (fget colB fCOL_CSEL_ID s) s
  if o = oCOL_CINFO then
    (if x.st = 0 then 0
     else BitVec.ofNat 32 (x.st * 2 ^ 29 + dKind x.desc % 8 * 2 ^ 26 + x.rank % 1024 * 2 ^ 16 + dCgen x.desc))
  else BitVec.ofNat 32 (chStep x % 2048 * 2 ^ 16 + x.cseq.toNat)

/-- The milliseconds to the own deadline of an ACTIVE instance (R299, R320). -/
def remainMs (s : State) : Nat :=
  match s.gzl.deadline with
  | none => 0
  | some t => if gzRole s = 2 then (t - s.clk.now) / ticksMs else 0

/-- The slice row that GZL_SLICE_SEL names (R320). -/
def sliceWord (s : State) : Word :=
  let x := gzRow (fget gzlB fGZL_SLICE_SEL_ROW s) s
  if x.st = 0 then BitVec.ofNat 32 x.sliceId.toNat
  else BitVec.ofNat 32 (x.st.toNat * 2 ^ 30 + x.size.toNat * 2 ^ 16 + x.sliceId.toNat)

/-- The pre-ramp entry that PWR_RAMP_SEL names (R351). -/
def rampSel (s : State) : Nat := fget pwrB fPWR_RAMP_SEL_ENTRY s
/-- The ramp registers of the selected entry; a function sees of another partition's entry the command and its status alone. -/
def rampWord (r : Requester) (o : Nat) (s : State) : Word :=
  let x := getRamp (rampSel s) s
  if o = oPWR_RAMP_T_LO then x.t.setWidth 32
  else if o = oPWR_RAMP_T_HI then (x.t >>> 32).setWidth 32
  else if !rampReach r (rampSel s) s then BitVec.ofNat 32 (x.cmd * 2 ^ 30 + x.status.toNat * 2 ^ 16)
  else BitVec.ofNat 32 (x.cmd * 2 ^ 30 + x.st * 2 ^ 28 + x.status.toNat * 2 ^ 16 + x.hold.toNat * 2 ^ 8 + x.n.toNat)

/-- The age of the last cooling report in seconds (R351). -/
def inletAge (s : State) : Nat :=
  match s.pwr.inlet.head? with
  | none => 255
  | some x => Nat.min 255 ((s.clk.now - x.1) / ticksS)

/-- The sample ring that PERF_SRING_SEL names (R406). -/
def sringSel (s : State) : Nat := fget perfB fPERF_SRING_SEL_PART s
def sringWord (o : Nat) (s : State) : Word :=
  let x := getSRing (sringSel s) s
  if o = oPERF_SRING_LO then x.lo
  else if o = oPERF_SRING_HI then x.hi
  else BitVec.ofNat 32 (x.drop.toNat * 2 ^ 16 + x.head % 2 ^ 16)

/-- The busy bits of CORE_ENG_STATUS (R82). -/
def coreBusy (c : Nat) (s : State) : Nat := ((List.range 4).map fun e => busyBit c e s).sum

/-- The logical core of a core register block. -/
def winCore (base : Nat) : Nat := 8 * winClu base + (base - 0x01000000) % 0x00080000 / 0x00008000

/-- The value of the register o of a block as a requester reads it. -/
def regView (r : Requester) (b : Blk) (base o : Nat) (s : State) : Word :=
  let v := regGet (base + o) s
  match b with
  | .core => if o = oCORE_ENG_STATUS then v ||| BitVec.ofNat 32 (coreBusy (winCore base) s) else v
  | .drp =>
    if o = oDRP_W_LO then s.clk.w.setWidth 32
    else if o = oDRP_W_HI ∨ o = oDRP_P_LO ∨ o = oDRP_P_HI then getLatch r (base + o) s
    else v
  | .pwr =>
    if o = oPWR_RAMP_T_LO ∨ o = oPWR_RAMP_T_HI ∨ o = oPWR_RAMP_CTL then rampWord r o s
    else if o = oPWR_INLET then BitVec.ofNat 32 (setBits v.toNat 15 8 (inletAge s))
    else if o = oPWR_COMPLY then complyWord s
    else v
  | .perf => if o = oPERF_SRING_LO ∨ o = oPERF_SRING_HI ∨ o = oPERF_SRING_STAT then sringWord o s else v
  | .sec => secRead r o s
  | .gzl =>
    if o = oGZL_LEASE then BitVec.ofNat 32 (setBits v.toNat 15 0 (remainMs s))
    else if o = oGZL_SLICE_ROW then sliceWord s
    else v
  | .col => if o = oCOL_CINFO ∨ o = oCOL_CPOS then colWord o s else v
  | .fab =>
    if o = oFAB_SESS ∧ base = fabB 0 then
      BitVec.ofNat 32 ((s.fab.sessions.filter fun e => e.2.isSome).length * 2 ^ 16 + s.fab.shakes.length)
    else v
  | .hub => if o = oHUB_BOOT then BitVec.ofNat 32 (setBits v.toNat 27 24 (bootStep s)) else v
  | .bur => if 0x10000 ≤ o ∧ o < 0x18000 then logWord r (o - 0x10000) s else v
  | .fwu =>
    if 0x10000 ≤ o ∧ o < 0x20000 then
      BitVec.ofNat 32 (leNat ((List.range 4).map fun i => tget (fun _ => 0) s.fwu.rbuf (o - 0x10000 + i)))
    else v
  | _ => v

/-- The read of DRP_W_LO latches the epoch, W and P of one NCLK edge for this reader (R188). -/
def latchTime (r : Requester) (s : State) : State :=
  setLatch r (drpB + oDRP_W_HI) (BitVec.ofNat 32 (s.clk.epoch.toNat * 2 ^ 16 + s.clk.w.toNat / 2 ^ 32))
    (setLatch r (drpB + oDRP_P_LO) (s.clk.p.setWidth 32) (setLatch r (drpB + oDRP_P_HI) ((s.clk.p >>> 32).setWidth 32) s))

/-- The RC fields of a register return to 0 (R9). -/
def clearRc (off : Nat) (s : State) : State :=
  match regDesc off with
  | none => s
  | some d => forAll (d.fields.filter fun f => f.acc == .rc) (fun f s =>
      regSet off (BitVec.ofNat 32 (setBits (regGet off s).toNat f.hi f.lo 0)) s) s

/-- The highest occupancy since a read of a peak register of a port's window is at first the one at that read (R255,
R256). -/
def peakAgain (base o : Nat) (s : State) : State :=
  let v := (o - oFAB_DEPTH_VL0) / 4
  if o = fFAB_HEADROOM_PEAK_KIB.off then fset base fFAB_HEADROOM_PEAK_KIB (fget base fFAB_HEADROOM_CUR_KIB s) s
  else if oFAB_DEPTH_VL0 ≤ o ∧ v < 8 then fset base (fDepthPeak v) (fget base (fDepthCur v) s) s
  else if o = fFAB_SUMP_USED_PEAK_KIB.off ∧ base = fabB 0 then
    fset base fFAB_SUMP_USED_PEAK_KIB ((sharedUsed s + 3) / 4) s
  else s

/-- The effects of a read. -/
def readEffect (r : Requester) (b : Blk) (base o : Nat) (s : State) : State :=
  if b = .drp ∧ o = oDRP_W_LO then latchTime r s
  else if b = .perf ∧ o = oPERF_SRING_STAT then setSRing (sringSel s) { getSRing (sringSel s) s with drop := 0 } s
  else
    let s := clearRc (base + o) s
    if b = .fab then peakAgain base o s else s

/-- PF(p + 1) sees only its own chambers through COL_CSEL (R292). -/
def cselOk (r : Requester) (id : Nat) (s : State) : Bool :=
  match reqPart r s with
  | none => true
  | some p => partOfCh s.cab.cur id == some p

/-- PF(p + 1) sees T of its own pre-ramp entries alone (R351). -/
def rampSelOk (r : Requester) (b : Blk) (o : Nat) (s : State) : Bool :=
  !(b == .pwr && decide (oPWR_RAMP_T_LO ≤ o ∧ o < oPWR_RAMP_CTL)) || rampReach r (rampSel s) s

/-- The status of a read beyond the reach of the block. -/
def readExtra (r : Requester) (b : Blk) (o : Nat) (s : State) : Bool :=
  rampSelOk r b o s && !(b == .col && (o == oCOL_CINFO || o == oCOL_CPOS) && !cselOk r (fget colB fCOL_CSEL_ID s) s)

/-- An aligned read of a register: status, data, state. A refused read returns 0 and is counted (R436). -/
def readWord (r : Requester) (off : Nat) (s : State) : BitVec 8 × Word × State :=
  let st := regStatus r off false s
  if st ≠ stOK then (st, 0, countDenied r s)
  else match ctrReg off with
    | some x => (stOK, ctrRead r off x s)
    | none => match regBlock off with
      | none => (stOK, 0, s)
      | some (b, base) =>
        if !readExtra r b (off - base) s then (stDENIED, 0, countDenied r s)
        else (stOK, regView r b base (off - base) s, readEffect r b base (off - base) s)

/-- A read of any size and place (R7): only a naturally aligned 32-bit access is performed. -/
def readReg (r : Requester) (off size : Nat) (s : State) : BitVec 8 × Word × State :=
  if size ≠ 4 ∨ off % 4 ≠ 0 then (stFORMAT, 0, regAccessFault r off s) else readWord r off s

/-! Writes. -/

/-- The W1C bits of a block with their counts and vectors. -/
def blkEvts : Blk → List Evt
  | .core => [eCORE_ENG_FLAGS_SCALE_NAN, eCORE_ENG_FLAGS_T5_BAD, eCORE_ENG_FLAGS_UF, eCORE_ENG_FLAGS_OF,
      eCORE_ENG_FLAGS_NV, eCORE_LAUNCH_STAT_SKIP, eCORE_LAUNCH_STAT_LATE, eCORE_STORE_ECC_PARTIAL_DROP,
      eCORE_STORE_ECC_UE, eCORE_STORE_ECC_CE]
  | .qm => [eQM_STALL_STALL]
  | .mem => [eMEM_ECC_PARITY, eMEM_ECC_UE, eMEM_ECC_CE]
  | .cab => [eCAB_EVENT_NOT_APPLIED, eCAB_EVENT_APPLIED, eCAB_EVENT_CMD_DONE]
  | .drp => [eDRP_EVENT_EPOCH_WRAP, eDRP_EVENT_MASTER_CHG, eDRP_EVENT_RUNG_ABORT, eDRP_EVENT_RUNG_DONE,
      eDRP_EVENT_SLIP, eDRP_EVENT_HOLDOVER, eDRP_EVENT_DRIFT]
  | .fab => [eFAB_EVENT_MISWIRE, eFAB_EVENT_PARTNER_FAULT, eFAB_EVENT_UNKNOWN_SRC, eFAB_EVENT_VL_DROP,
      eFAB_EVENT_TAG_FAIL, eFAB_EVENT_HEADROOM_OVF, eFAB_EVENT_RETRAIN, eFAB_EVENT_LINK_DOWN,
      eFAB_SESS_EVENT_PEER_REJECTED, eFAB_SESS_EVENT_HANDSHAKE_FAIL, eFAB_SESS_EVENT_REKEY]
  | .col => [eCOL_EVENT_STALE_MSG, eCOL_EVENT_OVERFLOW, eCOL_EVENT_CRC, eCOL_EVENT_ROLE_MOVED, eCOL_EVENT_LATE,
      eCOL_EVENT_STALL]
  | .gzl => [eGZL_EVENT_WIRING, eGZL_EVENT_SLICE_STOP, eGZL_EVENT_ROLE_CHG, eGZL_EVENT_NOT_LEADER,
      eGZL_EVENT_STALE_WRITE, eGZL_EVENT_PEER_LOST, eGZL_EVENT_LAPSED]
  | .pwr => [ePWR_EVENT_URGENT_EMPTY, ePWR_EVENT_SENSOR_FAULT, ePWR_EVENT_ORPHAN, ePWR_EVENT_HB_LOST,
      ePWR_EVENT_STACK_THROTTLE, ePWR_EVENT_THROTTLE, ePWR_EVENT_COOL_DEGRADED, ePWR_EVENT_FLOW_LOST,
      ePWR_EVENT_COOL_STOP, ePWR_EVENT_THERM_FLOOR, ePWR_EVENT_BRAKE]
  | .fwu => [eFWU_EVENT_DEFAULTED, eFWU_EVENT_REVERTED, eFWU_EVENT_FALLBACK, eFWU_EVENT_DONE]
  | .bur => [eBUR_EVENT_WIRE, eBUR_EVENT_FATAL, eBUR_EVENT_FENCED, eBUR_EVENT_DEFERRED, eBUR_EVENT_CORRECTED]
  | .sec => [eSEC_EVENT_UNLOCK, eSEC_EVENT_KEYS_ERASED, eSEC_EVENT_DECRYPT_FAIL, eSEC_EVENT_UNWRAP_DENIED]
  | .clu => [eCLU_STORE_ECC_PARTIAL_DROP, eCLU_STORE_ECC_UE, eCLU_STORE_ECC_CE]
  | _ => []

/-- The value of a register after a write by the access types of its fields (R9): RW fields take the word, a 1 clears a W1C
bit and sets a W1S bit, everything else stays. -/
def writeFields (fs : List FieldDesc) (old v : Nat) : Nat :=
  fs.foldl (fun a f =>
    match f.acc with
    | .rw => setBits a f.hi f.lo (bitsOf v f.hi f.lo)
    | .w1c => if bitOf v f.lo then setBits a f.hi f.lo 0 else a
    | .w1s => if bitOf v f.lo then setBits a f.hi f.lo 1 else a
    | _ => a) old

/-- A plain write of a register. -/
def writePlain (off : Nat) (v : Word) (s : State) : State :=
  match regDesc off with
  | none => s
  | some d => regSet off (BitVec.ofNat 32 (writeFields d.fields (regGet off s).toNat v.toNat)) s

/-- A write of a mode register (R147): EXPERT takes every field of the word, BASIC restores the presets. -/
def writeMode (off : Nat) (v : Word) (s : State) : State :=
  if bitOf v.toNat 31 then writePlain off v s else regSet off (regReset off) s

/-- A write of CORE_ENG_CFG (R82, R147, R400). -/
def writeEngCfg (base : Nat) (v : Word) (s : State) : State :=
  let s := writeMode (base + oCORE_ENG_CFG) v s
  if bitOf v.toNat 31 then s else clearRegs base [oCORE_SAMPLE_CTL, oCORE_SAMPLE_SEED] s

/-- A write of an expert field of the core block outside its mode register (R147, R400): when sampling starts, the LFSR
takes its seed and the first gap is drawn. -/
def writeSample (base o : Nat) (v : Word) (s : State) : State :=
  let was := fget base fCORE_SAMPLE_CTL_EN s
  let s := fset base fCORE_ENG_CFG_MODE 1 (writePlain (base + o) v s)
  if was = 0 ∧ fget base fCORE_SAMPLE_CTL_EN s = 1 then
    let seed := fget base fCORE_SAMPLE_SEED_SEED s
    let seeded := BitVec.ofNat 24 (if seed = 0 then 1 else seed)
    drawGap (winCore base) (modCore (winCore base) (fun k => { k with lfsr := seeded }) s)
  else s

/-- A write of HUB_RESET_CTL (R379). -/
def writeResetCtl (r : Requester) (v : Nat) (s : State) : State :=
  let cmd := bitsOf v 31 28
  if cmd = 5 then packageRequest r (bitsOf v 7 0) s
  else if 1 ≤ cmd ∧ cmd ≤ 4 then resetRequest r cmd (if cmd = 4 then 0 else bitsOf v 7 0) (bitsOf v 7 0) s
  else regAccessFault r (hubB + oHUB_RESET_CTL) s

/-- A write of CORE_CAPTURE_CTL (R380). -/
def writeCapture (r : Requester) (c v : Nat) (s : State) : State :=
  match bitsOf v 31 30 with
  | 1 => captureOp r c s
  | 2 => resumeOp r c s
  | 3 => regAccessFault r (coreB c + oCORE_CAPTURE_CTL) s
  | _ => fset (coreB c) fCORE_CAPTURE_CTL_CMD 0 s

/-- A write of QM_QCTL (R123). -/
def writeQctl (r : Requester) (v : Nat) (s : State) : State :=
  let q := bitsOf v 19 0
  match bitsOf v 31 30 with
  | 1 => qctlGate r (invalidateOp r q) s
  | 2 => qctlGate r (drainOp r q) s
  | 3 => qctlGate r (resetQueueOp r q) s
  | _ => qctlGate r (fun s => fset qmB fQM_QCTL_CMD 0 (fset qmB fQM_QCTL_QID q s)) s

/-- A write of the T or CTL register of the pre-ramp entry in PWR_RAMP_SEL (R332, R351). -/
def writeRamp (r : Requester) (o : Nat) (v : Word) (s : State) : State :=
  let e := rampSel s
  let x := getRamp e s
  if o = oPWR_RAMP_CTL then
    match bitsOf v.toNat 31 30 with
    | 1 => rampArmOp r e (bitsOf v.toNat 6 0) (bitsOf v.toNat 15 8) s
    | 2 =>
      let s := rampDisarmOp r e s
      if rampReach r e s && mayCommand r s then setRamp e { getRamp e s with
        n := BitVec.ofNat 7 v.toNat, hold := BitVec.ofNat 8 (bitsOf v.toNat 15 8) } s else s
    | 3 => regAccessFault r (pwrB + oPWR_RAMP_CTL) s
    | _ =>
      let y := { x with cmd := 0, n := BitVec.ofNat 7 v.toNat, hold := BitVec.ofNat 8 (bitsOf v.toNat 15 8) }
      setRamp e (if rampReach r e s then y else { x with status := stDENIED }) s
  else if !rampReach r e s then countDenied r s
  else if o = oPWR_RAMP_T_LO then
    setRamp e { x with t := BitVec.ofNat 48 (setBits x.t.toNat 31 0 v.toNat) } s
  else setRamp e { x with t := BitVec.ofNat 48 (setBits x.t.toNat 47 32 v.toNat) } s

/-- A write of PERF_SNAP_CTL (R406). -/
def writeSnapCtl (r : Requester) (v : Nat) (s : State) : State :=
  if bitsOf v 31 30 = 3 then regAccessFault r (perfB + oPERF_SNAP_CTL) s
  else
    let s := fset perfB fPERF_SNAP_CTL_CMD (bitsOf v 31 30) (fset perfB fPERF_SNAP_CTL_LOG2_PERIOD (bitsOf v 22 16)
      (fset perfB fPERF_SNAP_CTL_LOG2_SLOTS (bitsOf v 7 0) s))
    match bitsOf v 31 30 with
    | 1 => snapArmOp r s
    | 2 => snapDisarmOp r s
    | _ => s

/-- A write of a PERF_SRING register (R406): for a partition's function the ring base must lie in its stack ranges. -/
def writeSring (r : Requester) (o : Nat) (v : Word) (s : State) : State :=
  let p := sringSel s
  let x := getSRing p s
  let x := if o = oPERF_SRING_LO then { x with lo := v } else { x with hi := v &&& 0xFC003FFF#32 }
  let a := x.lo.toNat / 4096 * 4096 + 2 ^ 32 * bitsOf x.hi.toNat 13 0
  let own : Bool := isPf0 r || (regionOf a == some .stack && (ownersIn a 1 s).all fun q => q == some p)
  if sealBit s.cab.cur p ∨ !own then countDenied r s else setSRing p x s

/-- A write of the SEC block (R432). -/
def writeSec (r : Requester) (o : Nat) (v : Word) (s : State) : State :=
  if o = oSEC_CMD then secWrite r v s
  else if (oSEC_ARG_SRC_LO ≤ o ∧ o ≤ oSEC_ARG_REC) ∨ o = oSEC_SLOT_SEL then
    (match regDesc (secB + o) with
      | none => s
      | some d => setLatch r (secB + o) (BitVec.ofNat 32 (writeFields d.fields 0 v.toNat)) s)
  else writePlain (secB + o) v s

/-- A write of the recovery buffer (R378). -/
def writeRbuf (o : Nat) (v : Word) (s : State) : State :=
  { s with fwu := { s.fwu with rbuf := tput o 4 (sparse 0 (leBytes 4 v.toNat)) s.fwu.rbuf } }

/-- An aligned write that its requester may make, by block and register. -/
def writeBlk (r : Requester) (b : Blk) (base o : Nat) (v : Word) (s : State) : State :=
  match b with
  | .hub => if o = oHUB_RESET_CTL then writeResetCtl r v.toNat s else writePlain (base + o) v s
  | .bur =>
    if o = oBUR_ERRN then (if bitOf v.toNat 0 then errNClear false s else s)
    else if o = oBUR_CFG then writeMode (base + o) v s
    else if o = oBUR_CRAWL then crawlOp r v s
    else writePlain (base + o) v s
  | .drp =>
    if o = oDRP_RUNG_TARGET then rungTargetOp r v.toNat s
    else if o = oDRP_CFG then writeMode (base + o) v s
    else writePlain (base + o) v s
  | .cab =>
    if o = oCAB_CMD then cabWrite r (bitsOf v.toNat 31 28) (bitOf v.toNat 27) s else writePlain (base + o) v s
  | .pwr =>
    if o = oPWR_CTL then (if bitOf v.toNat 0 then coolClearOp s else s)
    else if o = oPWR_RAMP_T_LO ∨ o = oPWR_RAMP_T_HI ∨ o = oPWR_RAMP_CTL then writeRamp r o v s
    else writePlain (base + o) v s
  | .perf =>
    if o = oPERF_SNAP_CTL then writeSnapCtl r v.toNat s
    else if o = oPERF_SRING_LO ∨ o = oPERF_SRING_HI then writeSring r o v s
    else writePlain (base + o) v s
  | .sec => writeSec r o v s
  | .fwu =>
    if o = oFWU_CMD then fwuWrite r (bitsOf v.toNat 31 28) s
    else if 0x10000 ≤ o ∧ o < 0x20000 then writeRbuf (o - 0x10000) v s
    else writePlain (base + o) v s
  | .qm =>
    if o = oQM_QCTL then writeQctl r v.toNat s
    else if 0x40000 ≤ o ∧ o < 0x80000 then doorbellOp r (Fin.ofNat 4 ((o - 0x40000) / 0x10000)) v s
    else writePlain (base + o) v s
  | .gzl => if o = oGZL_CFG then writeMode (base + o) v s else writePlain (base + o) v s
  | .col =>
    if o = oCOL_CCTL then cctlOp r (bitsOf v.toNat 31 30) (bitsOf v.toNat 11 0) s
    else if o = oCOL_CSEL ∧ !cselOk r (bitsOf v.toNat 11 0) s then countDenied r s
    else writePlain (base + o) v s
  | .core =>
    if o = oCORE_ENG_CFG then writeEngCfg base v s
    else if o = oCORE_CAPTURE_CTL then writeCapture r (winCore base) v.toNat s
    else if o = oCORE_SAMPLE_CTL ∨ o = oCORE_SAMPLE_SEED then writeSample base o v s
    else writePlain (base + o) v s
  | .mem => if o = oMEM_PATROL then writeMode (base + o) v s else writePlain (base + o) v s
  | .clu => writePlain (base + o) v s
  | .die => writePlain (base + o) v s
  | .fab => writePlain (base + o) v s
  | .host => writePlain (base + o) v s

/-- An aligned write: its status and the state. A refused write is dropped and counted (R436). -/
def writeWord (r : Requester) (off : Nat) (v : Word) (s : State) : BitVec 8 × State :=
  let st := regStatus r off true s
  if st ≠ stOK then (st, countDenied r s)
  else match regBlock off with
    | none => (stOK, s)
    | some (b, base) => (stOK, writeBlk r b base (off - base) v s)

/-- A write of any size and place (R7). -/
def writeReg (r : Requester) (off size : Nat) (v : Word) (s : State) : BitVec 8 × State :=
  if size ≠ 4 ∨ off % 4 ≠ 0 then (stFORMAT, regAccessFault r off s) else writeWord r off v s

/-- The set events of the W1C bits of a register that the mask names. -/
def setEvents (off : Nat) (sets : Word) (s : State) : State :=
  match regBlock off with
  | none => s
  | some (b, base) =>
    forAll ((blkEvts b).filter fun e => e.bit.off == off - base && bitOf sets.toNat e.bit.lo) (evt base) s

/-- n set events that the count field at bits [lo + 15 : lo] of a register counts; a field without a W1C bit counts them
alone, and DROP of a sample ring lies in the ring (R406). -/
def countEvents (off lo n : Nat) (s : State) : State :=
  if off = perfB + oPERF_SRING_STAT then
    (if lo = 16 then
      let x := getSRing (sringSel s) s
      setSRing (sringSel s) { x with drop := BitVec.ofNat 16 (Nat.min (x.drop.toNat + n) 0xFFFF) } s
     else s)
  else match regBlock off with
  | none => s
  | some (b, base) =>
    match (blkEvts b).find? fun e => e.cnt.off == off - base && e.cnt.lo == lo with
    | some e => forAll (List.range n) (fun _ => evt base e) s
    | none => match regDesc off with
      | none => s
      | some d =>
        if d.fields.any fun f => f.acc == .rc && f.lo == lo then faddSat base ⟨off - base, lo + 15, lo⟩ n s else s

/-! The rows. -/

/-- REGISTER_WRITE (R9, R10): sets names the W1C bits that hardware sets in the same cycle; set wins. -/
def execRegisterWrite (r : Requester) (off : BitVec 32) (size : Nat) (val sets : BitVec 32) (s : State) :
    Host.Outcome State Fault Refusal := .next (setEvents off.toNat sets (writeReg r off.toNat size val s).2)

/-- RC_FIELD_READ (R12): evHi and evLo events fall in the same cycle; the read returns the value before them. -/
def execRcFieldRead (r : Requester) (off : BitVec 32) (evHi evLo : Nat) (s : State) : Host.Outcome State Fault Refusal :=
  .next (let x := readReg r off.toNat 4 s
    countEvents off.toNat 16 evHi (countEvents off.toNat 0 evLo (emit (.regData r off.toNat x.2.1) x.2.2)))

/-- DRP_W_LO_READ (R188). -/
def execDrpWLoRead (r : Requester) (s : State) : Host.Outcome State Fault Refusal :=
  .next (let x := readReg r (drpB + oDRP_W_LO) 4 s
    emit (.regData r (drpB + oDRP_W_LO) x.2.1) x.2.2)

/-- CNT_LIVE_LO_READ (R394): at the offset of a LIVE_LO register. -/
def execCntLiveLoRead (r : Requester) (off : BitVec 32) (s : State) : Host.Outcome State Fault Refusal :=
  .next (match ctrReg off.toNat with
    | some (_, _, 0) => let x := readReg r off.toNat 4 s
      emit (.regData r off.toNat x.2.1) x.2.2
    | _ => s)

/-- CNT_SNAP_LO_READ (R394): at the offset of a SNAP_LO register. -/
def execCntSnapLoRead (r : Requester) (off : BitVec 32) (s : State) : Host.Outcome State Fault Refusal :=
  .next (match ctrReg off.toNat with
    | some (_, _, 2) => let x := readReg r off.toNat 4 s
      emit (.regData r off.toNat x.2.1) x.2.2
    | _ => s)

end Sys2Proof.Machine
end

