-- ==== Sys2Proof/Machine/Hostlink.lean ====
section
/-! DEFINITION. The host interface: the link and its resets (R434, R438, R465), accesses through BAR0 and BAR2 (R435 to
R437), Function Level Reset, and MSI-X writes (R439 to R441). -/

namespace Sys2Proof.Machine

/-! The link. -/

/-- HOST_LINK returns to its reset value. -/
def linkDown (s : State) : State := regSet (hostB + oHOST_LINK) 0 s

/-- A function answers the host: the link is up, and in ROM recovery only PF0 is presented (R438). -/
def hostUp (f : Nat) (s : State) : Bool :=
  fget hostB fHOST_LINK_SPEED s != 0 && (s.boot.phase != 3 || f == 0)

/-- PERST_N (R438, R466): low for 1 µs resets the host functions; the training that follows its rising edge is the row
PCIE_LINK_TRAIN. -/
def perstOp (level : Bool) (ns : Nat) (s : State) : State :=
  if level then { s with host := { s.host with perst := false } }
  else if ns < 1000 then s
  else
    let s := { s with host := { s.host with
      perst := true, msixEn := List.replicate 5 false, masked := [], pend := [], causes := [] } }
    forAll (List.range 5) (fun f => regSet (hostB + oHOST_DENIED_PF0 + 4 * f) 0) (linkDown s)

/-- PERST_N. -/
def execPerstN (level : Bool) (ns : Nat) (s : State) : Host.Outcome State Fault Refusal := .next (perstOp level ns s)

/-- The link trains to a rate and a width (R434, R453); rate 0 is a link that stays down. -/
def linkTrainOp (speed width : Nat) (s : State) : State :=
  if s.host.perst || s.boot.phase == 0 || !([1, 2, 4, 8, 16].contains width) then s
  else if speed = 0 then linkDown s
  else
    let s := { s with host := { s.host with refclk := true } }
    fset hostB fHOST_LINK_SPEED speed (fset hostB fHOST_LINK_FLIT (if speed = 6 then 1 else 0)
      (fset hostB fHOST_LINK_WIDTH width s))

/-- PCIE_LINK_TRAIN. -/
def execPcieLinkTrain (speed : Fin 7) (width : BitVec 5) (s : State) : Host.Outcome State Fault Refusal :=
  .next (linkTrainOp speed.val width.toNat s)

/-- PCIE_REFCLK_LOSS (R465): the host link goes down; nothing else changes. -/
def execPcieRefclkLoss (s : State) : Host.Outcome State Fault Refusal :=
  .next (linkDown { s with host := { s.host with refclk := false } })

/-! Accesses through a BAR. -/

/-- Bytes of BAR0 and BAR2 (R435). -/
abbrev bar0Size : Nat := 2 ^ 27
abbrev bar2Size : Nat := 2 ^ 41

/-- An access of a function through BAR2 that no rule refuses (R436). -/
def barAllowed (f : Fin 5) (a n : Nat) (s : State) : Bool :=
  mayCommand (.pf f) s && rangeStatus (reqWho (.pf f) s) a n s == stOK

/-- A posted write through BAR2; one into a sink window is dropped (R155). -/
def bar2Write (f : Fin 5) (a : Nat) (data : List Byte) (s : State) : State :=
  if !barAllowed f a data.length s then countDenied (.pf f) s
  else if inSink a data.length s then s else memWrite a data s

/-- BAR_WRITE (R435 to R437); beyond the end of its BAR, or of no bytes, it is no access. -/
def barWriteOp (f : Fin 5) (bar2 : Bool) (a : Nat) (data : List Byte) (s : State) : State :=
  if !hostUp f.val s || data.isEmpty || decide ((if bar2 then bar2Size else bar0Size) < a + data.length) then s
  else if bar2 then bar2Write f a data s
  else (writeReg (.pf f) a data.length (BitVec.ofNat 32 (leNat data)) s).2

/-- BAR_WRITE. -/
def execBarWrite (f : Fin 5) (bar2 : Bool) (addr : BitVec 64) (data : List (BitVec 8)) (s : State) :
    Host.Outcome State Fault Refusal := .next (barWriteOp f bar2 addr.toNat data s)

/-- The data of a read through BAR2; a denied read returns zeros. -/
def bar2Read (f : Fin 5) (a n : Nat) (s : State) : State :=
  if barAllowed f a n s then
    emit (.barData f.val (memBytes a n s)) (readAll a n s).1
  else emit (.barData f.val (List.replicate n 0)) (countDenied (.pf f) s)

/-- BAR_READ. -/
def barReadOp (f : Fin 5) (bar2 : Bool) (a n : Nat) (s : State) : State :=
  if !hostUp f.val s || n == 0 || decide ((if bar2 then bar2Size else bar0Size) < a + n) then s
  else if bar2 then bar2Read f a n s
  else
    let x := readReg (.pf f) a n s
    emit (.barData f.val (leBytes n x.2.1.toNat)) x.2.2

/-- BAR_READ. -/
def execBarRead (f : Fin 5) (bar2 : Bool) (addr : BitVec 64) (len : Nat) (s : State) : Host.Outcome State Fault Refusal :=
  .next (barReadOp f bar2 addr.toNat len s)

/-! Function Level Reset and MSI-X. -/

/-- Entries of a table of vectors that belong to a function go. -/
def dropVecs {α : Type} (f : Nat) (t : Tbl α) : Tbl α := t.filter fun c => c.1 / 2048 != f

/-- A SEC command that a function started runs on, and its result is discarded (R438). -/
def orphanSec (f : Nat) (s : State) : State :=
  let own (r : Requester) : Bool := reqNo r == f
  { s with sec := { s.sec with
    run := s.sec.run.map fun x => if own x.1 then (.hubFw false, x.2) else x
    wait := s.sec.wait.map fun x => if own x.1 then (.hubFw false, x.2) else x } }

/-- FUNCTION_LEVEL_RESET (R438, R453). -/
def flrOp (f : Nat) (s : State) : State :=
  let s := { s with
    latches := s.latches.filter fun c => c.1 / 2 ^ 32 != f
    host := { s.host with
      msixEn := modAt f (fun _ => false) s.host.msixEn, masked := dropVecs f s.host.masked
      pend := dropVecs f s.host.pend, causes := s.host.causes.filter fun x => x.1 != f } }
  regSet (hostB + oHOST_DENIED_PF0 + 4 * f) 0 (orphanSec f s)

/-- FUNCTION_LEVEL_RESET. -/
def execFunctionLevelReset (f : Fin 5) (s : State) : Host.Outcome State Fault Refusal :=
  .next (if hostUp f.val s then flrOp f.val s else s)

/-- MSIX_WRITE (R441): the write of a cause that waits leaves the package. -/
def execMsixWrite (f : Fin 5) (v : Fin 2048) (s : State) : Host.Outcome State Fault Refusal :=
  .next (if hostUp f.val s && s.host.causes.contains (f.val, v.val) then
      emit (.msix f.val v.val) { s with host := { s.host with causes := s.host.causes.filter fun x => x != (f.val, v.val) } }
    else s)

/-- MSIX_UNMASK (R441): the host enables the function's MSI-X and unmasks a vector; a set pending bit sends one write. -/
def unmaskOp (f v : Nat) (s : State) : State :=
  let k := 2048 * f + v
  let was := tget (fun _ => false) s.host.pend k
  let s := { s with host := { s.host with
    msixEn := modAt f (fun _ => true) s.host.msixEn
    masked := tset (fun _ => true) k false s.host.masked
    pend := tset (fun _ => false) k false s.host.pend } }
  if was then emit (.msix f v) s else s

/-- MSIX_UNMASK. -/
def execMsixUnmask (f : Fin 5) (v : Fin 2048) (s : State) : Host.Outcome State Fault Refusal :=
  .next (if hostUp f.val s then unmaskOp f.val v.val s else s)

end Sys2Proof.Machine
end

