-- ==== Sys2Proof/Machine/Matrix.lean ====
section
/-! DEFINITION. The matrix engines: block sums, accumulation, drain (R56 to R71) and the command MMA. -/

namespace Sys2Proof.Machine

/-- The value of an element under its scaling mode; I8 under MX32 is read as MXINT8, integer * 2^-6 (R61). -/
def scaledElem (mode fmt : Nat) (l : List Byte) (i : Nat) : Val :=
  let v := elemVal fmt l i
  if mode = 1 ∧ fmt = 0xA then (vMul v (.fin false 1 64)).1 else v

/-- The value of a block scale: 1 in mode NONE, E8M0 under MX32, UE4M4 under G16 (R60). -/
def scaleVal (mode : Nat) (b : Byte) : Val :=
  match mode with
  | 1 => decVal 0xE b.toNat
  | 2 => decVal 0xF b.toNat
  | _ => .fin false 1 1

/-- The exact sum of the products of one block, with its flags (R66, R67). DESIGN CHOICE (log entry 85): beside a NaN
product, opposite infinities set NV only where they meet before it, in ascending order of K. -/
def blockSum (prods : List (Val × Val)) : Val × Nat :=
  prods.foldl (fun a p =>
    let m := vMul p.1 p.2
    let r := vAdd false a.1 m.1
    (r.1, orFlags a.2 (orFlags m.2 r.2))) (.fin false 0 1, 0)

/-- A block's contribution: its sum times both block scales. A UE4M4 scale of 0 makes the block zero (R62); a sum that is
NaN stays NaN, and an infinite one times 0 is NaN and sets NV (R67). -/
def blockTerm (prods : List (Val × Val)) (sa sb : Val) : Val × Nat :=
  let b := blockSum prods
  let x := vMul sa sb
  let r := vMul b.1 x.1
  (r.1, orFlags b.2 (orFlags x.2 r.2))

/-- One addition into the accumulator, rounded once to nearest-even to W48 (R66, R67). -/
def accAdd (acc : Nat) (x : Val) : Nat × Nat :=
  let r := vAdd false (decVal fmtW48 acc) x
  let w := roundW48 r.1
  (w.1, orFlags r.2 w.2)

/-- A matrix product's operands as bytes: the rows of A, the panel of B, the scale arrays, the prior C. -/
structure MxIn where
  a  : List (List Byte)
  b  : List Byte
  sa : List Byte
  sb : List Byte
  ta : Val
  tb : Val
  c  : List (List Byte)
  deriving DecidableEq, Repr

/-- The products of block j for row r and column n; positions past K are zeros (R60, R66). -/
def blockProds (d : MxDesc) (x : MxIn) (r n j : Nat) : List (Val × Val) :=
  (List.range (Nat.min (mxBlock d) (d.k - j * mxBlock d))).map fun i =>
    let k := j * mxBlock d + i
    (scaledElem d.aScale d.aFmt (x.a.getD r []) k, scaledElem d.bScale d.bFmt x.b (k * 64 + n))

/-- The accumulator of one result element after every block, in ascending block order (R66), with its flags. -/
def mxElem (d : MxDesc) (x : MxIn) (r n : Nat) : Nat × Nat :=
  let prior : Nat := if d.accIn then
      (if d.rawOut then
        let w := elemBits fmtW48 (x.c.getD r []) n
        if w % 2 ^ 47 = 0 then 0 else w
       else (roundW48 (elemVal d.outFmt (x.c.getD r []) n)).1)
    else 0
  (List.range (mxBlocks d)).foldl (fun acc j =>
    let t := blockTerm (blockProds d x r n j) (scaleVal d.aScale (x.sa.getD (r * mxBlocks d + j) 0))
      (scaleVal d.bScale (x.sb.getD (j * 64 + n) 0))
    let y := accAdd acc.1 t.1
    (y.1, orFlags acc.2 (orFlags t.2 y.2))) (prior, 0)

/-- The drain of one accumulator: raw, or times both per-tensor scales and rounded once (R70). -/
def mxDrain (d : MxDesc) (x : MxIn) (acc : Nat) : Nat × Nat :=
  if d.rawOut then (acc, 0)
  else
    let p := vMul (decVal fmtW48 acc) x.ta
    let q := vMul p.1 x.tb
    let r := encVal d.outFmt d.rnd d.sat q.1
    (r.1, orFlags p.2 (orFlags q.2 r.2))

/-- The format of C in memory. -/
def mxCFmt (d : MxDesc) : Nat := if d.rawOut then fmtW48 else d.outFmt

/-- A T5 byte from 243 to 255 was read (R56). -/
def t5Bad (fmt : Nat) (l : List Byte) : Bool := fmt == 0xD && l.any fun b => decide (243 ≤ b.toNat)

/-- An MX32 scale of 0xFF was read (R61). -/
def scaleNan (d : MxDesc) (x : MxIn) : Bool :=
  (d.aScale == 1 && x.sa.any fun b => b == 0xFF) || (d.bScale == 1 && x.sb.any fun b => b == 0xFF)

/-- The operands of a descriptor as they stand in memory. -/
def mxRead (d : MxDesc) (s : State) : MxIn :=
  { a := (List.range d.m).map fun r => memBytes (d.aAddr + r * d.aPitch) (packedLen d.aFmt d.k) s,
    b := memBytes d.bAddr (packedLen d.bFmt (d.k * 64)) s,
    sa := if d.aScale = 0 then [] else memBytes d.saAddr (d.m * mxBlocks d) s,
    sb := if d.bScale = 0 then [] else memBytes d.sbAddr (64 * mxBlocks d) s,
    ta := if d.aTs then decVal 0 (leNat (memBytes d.taAddr 4 s)) else .fin false 1 1,
    tb := if d.bTs then decVal 0 (leNat (memBytes d.tbAddr 4 s)) else .fin false 1 1,
    c := if d.accIn then (List.range d.m).map fun r => memBytes (d.cAddr + r * d.cPitch) (mxOutRow d) s else [] }

/-- The ranges that the instruction reads (R74); a raw spill reads no per-tensor scale (R70). -/
def mxReadRanges (d : MxDesc) : List (Nat × Nat) :=
  ((List.range d.m).map fun r => (d.aAddr + r * d.aPitch, packedLen d.aFmt d.k))
  ++ [(d.bAddr, packedLen d.bFmt (d.k * 64))]
  ++ (if d.aScale = 0 then [] else [(d.saAddr, d.m * mxBlocks d)])
  ++ (if d.bScale = 0 then [] else [(d.sbAddr, 64 * mxBlocks d)])
  ++ (if d.aTs && !d.rawOut then [(d.taAddr, 4)] else []) ++ (if d.bTs && !d.rawOut then [(d.tbAddr, 4)] else [])
  ++ (if d.accIn then (List.range d.m).map fun r => (d.cAddr + r * d.cPitch, mxOutRow d) else [])

/-- The accumulators of every result element, rows of 64, with their flags. -/
def mxAccs (d : MxDesc) (x : MxIn) : List (Nat × Nat) :=
  (List.range d.m).flatMap fun r => (List.range 64).map fun n => mxElem d x r n

/-- The accumulators stand in a bank of the engine, and the other bank is next (Matrix engines). -/
def mxBankSet (c e : Nat) (accs : List Nat) (s : State) : State :=
  modCore c (fun k =>
    let bank := (k.mxBank.getD e false).toNat
    let sl : Tbl (BitVec 48) := (accs.zipIdx.filter fun v => v.1 != 0).map fun v => (v.2, BitVec.ofNat 48 v.1)
    { k with mxAcc := tput (8192 * e + 4096 * bank) accs.length sl k.mxAcc, mxBank := modAt e not k.mxBank }) s

/-- The operation of an MX instruction (R56, R66 to R71): results, flags, the status with which it ends. -/
def mxRun (c e : Nat) (i : EngInstr) (s : State) : State × BitVec 8 :=
  let d := mxDesc i.odt i.cfg.toNat
  if d.m = 0 ∨ d.k = 0 then (s, stOK)
  else
    let x := mxRead d s
    let rd := readRanges (mxReadRanges d) s
    let accs := collectFlags (mxAccs d x)
    let outs := collectFlags (accs.1.map (mxDrain d x))
    let rows := (List.range d.m).map fun r =>
      (d.cAddr + r * d.cPitch, packElems (mxCFmt d) ((List.range 64).map fun n => outs.1.getD (64 * r + n) 0))
    let w := engWrites c rows (mxBankSet c e accs.1 rd.1)
    let bad := t5Bad d.bFmt x.b
    let fl := orFlags (orFlags accs.2 outs.2)
      (orFlags (if bad then flT5 else 0) (if scaleNan d x then flSN else 0))
    (raiseFlags c fl w.1, firstFail [w.2, failIf (bad || rd.2) stCHECK])

/-- MMA (R66): the matrix instruction at the head of engine e of core c computes C. -/
def execMma (c : Fin 256) (e : Fin 2) (s : State) : Host.Outcome State Fault Refusal :=
  .next (runHead c.val e.val (fun i => slotOp e.val i.slot.toNat == 1) (mxRun c.val e.val) s)

end Sys2Proof.Machine
end

