-- ==== Sys2Proof/Machine/Mgmt.lean ====
section
/-! DEFINITION. The Cumosta management messages (R445 to R450): the check of an arriving message (R447), LOCATION (R294,
R295), the rack class (R448), and the register and memory class (R449). -/

namespace Sys2Proof.Machine

/-! LOCATION (R294, R295). -/

/-- The place that GZL_SELF and the addresses of the ports show. -/
def sameLocation (rack tray socket : Nat) (ipA ipB : Word) (s : State) : Bool :=
  fget gzlB fGZL_SELF_RACK s == rack && fget gzlB fGZL_SELF_TRAY s == tray && fget gzlB fGZL_SELF_SOCKET s == socket
    && regGet (hostB + oHOST_IPV4_A) s == ipA && regGet (hostB + oHOST_IPV4_B) s == ipB

/-- A located package trains its ports that are DOWN; one with too little light maps out (R217, R221, R222, R224). -/
def startPorts (s : State) : State :=
  portsMoved s (forAll (List.range 32) (fun p s =>
    if portState p s ≠ 0 then s else if laserLow p s then mapOut p 1 s else startTraining p false s) s)

/-- The first LOCATION of a boot (R295): EID and addresses, ports A and B, link training, registration. In ROM recovery no
firmware trains or registers (R378). -/
def takeLocation (rack tray socket : Nat) (ipA ipB : Word) (s : State) : State :=
  let s := fset gzlB fGZL_SELF_RACK rack (fset gzlB fGZL_SELF_TRAY tray (fset gzlB fGZL_SELF_SOCKET socket s))
  let s := regSet (hostB + oHOST_IPV4_A) ipA (regSet (hostB + oHOST_IPV4_B) ipB s)
  let s := fset hostB fHOST_MGMT_A_UP 1 (fset hostB fHOST_MGMT_B_UP 1 (fset hostB fHOST_MGMT_LOCATED 1 s))
  if s.boot.phase = 3 then s else gzRegister (startPorts s)

/-- LOCATION (R448): rack 8,191 is reserved (R294); a second LOCATION with other values is DENIED. -/
def locationOp (rack tray socket : Nat) (ipA ipB : Word) (s : State) : MgmtReply × State :=
  if rack = 8191 then (⟨stFORMAT, 0, []⟩, s)
  else if fget hostB fHOST_MGMT_LOCATED s = 1 then
    (⟨failIf (!sameLocation rack tray socket ipA ipB s) stDENIED, 0, []⟩, s)
  else (⟨stOK, 0, []⟩, takeLocation rack tray socket ipA ipB s)

/-- An operation with its reply, answered. -/
def answer (cls code : Nat) (x : MgmtReply × State) : State := emit (.mgmtReply cls code x.1) x.2

/-! RUNG_TARGET and EVENT (R448). -/

/-- RUNG_TARGET: codes 6 and 7 fail the check of the format; else as a write of DRP_RUNG_TARGET. -/
def rackRungOp (r : Requester) (k : Nat) (s : State) : MgmtReply × State :=
  if 5 < k then (⟨stFORMAT, 0, []⟩, s)
  else if serving s then (⟨stOK, 0, []⟩, rungTargetOp r k s)
  else (⟨stDENIED, 0, []⟩, s)

/-- EVENT: the firings of 10 ms go out on the port of the last HEARTBEAT. -/
def eventOp (s : State) : State :=
  match s.mgmt.evT, s.mgmt.hbPort with
  | some t, some p =>
    if mgmtPlane s = 1 ∧ elapsed t (10 * ticksMs) s then
      emit (.event p s.mgmt.evBits) { s with mgmt := { s.mgmt with evBits := 0, evT := none } }
    else s
  | _, _ => s

/-- EVENT. -/
def execEvent (s : State) : Host.Outcome State Fault Refusal := .next (eventOp s)

/-! The register and memory class (R449). -/

/-- The requester of an access that a management port makes. -/
def portReq : MgPort → Requester
  | .a => .mgA
  | .b => .mgB

/-- n words from an offset, in ascending order, until one is refused: DETAIL is its index. -/
def readWords (r : Requester) : Nat → Nat → Nat → List Byte → State → MgmtReply × State
  | 0, _, _, l, s => (⟨stOK, 0, l⟩, s)
  | n + 1, off, i, l, s =>
    let x := readReg r off 4 s
    if x.1 = stOK then readWords r n (off + 4) (i + 1) (l ++ leBytes 4 x.2.1.toNat) x.2.2
    else (⟨x.1, BitVec.ofNat 32 i, l⟩, x.2.2)

/-- REG_READ (R449). -/
def regReadOp (r : Requester) (off n : Nat) (s : State) : MgmtReply × State :=
  if n = 0 ∨ 64 < n then (⟨stLENGTH, 0, []⟩, s) else readWords r n off 0 [] s

/-- Words to ascending offsets, until one is refused. A whole-package reset among them ends the message. -/
def writeWords (r : Requester) : List Word → Nat → Nat → State → MgmtReply × State
  | [], _, _, s => (⟨stOK, 0, []⟩, s)
  | w :: l, off, i, s =>
    let x := writeReg r off 4 w s
    if x.1 ≠ stOK then (⟨x.1, BitVec.ofNat 32 i, []⟩, x.2)
    else if x.2.boot.phase = 0 then (⟨stOK, 0, []⟩, x.2)
    else writeWords r l (off + 4) (i + 1) x.2

/-- REG_WRITE (R449). -/
def regWriteOp (r : Requester) (off : Nat) (l : List Word) (s : State) : MgmtReply × State :=
  if l.isEmpty ∨ 64 < l.length then (⟨stLENGTH, 0, []⟩, s) else writeWords r l off 0 s

/-- The status of a memory message on a range (R449, R436, R41). -/
def memMsgStatus (r : Requester) (a n : Nat) (s : State) : BitVec 8 :=
  if mayCommand r s then rangeStatus .pf0 a n s else stDENIED

/-- MEM_WRITE (R449). -/
def memWriteOp (r : Requester) (a : Nat) (data : List Byte) (s : State) : MgmtReply × State :=
  if data.isEmpty ∨ 1008 < data.length then (⟨stLENGTH, 0, []⟩, s)
  else
    let st := firstFail [memMsgStatus r a data.length s, failIf (inSink a data.length s) stDENIED]
    (⟨st, 0, []⟩, if st = stOK then memWrite a data s else s)

/-- MEM_READ (R449). -/
def memReadOp (r : Requester) (a n : Nat) (s : State) : MgmtReply × State :=
  if n = 0 ∨ 1000 < n then (⟨stLENGTH, 0, []⟩, s)
  else
    let st := memMsgStatus r a n s
    if st = stOK then (⟨stOK, 0, memBytes a n s⟩, (readAll a n s).1)
    else (⟨st, 0, []⟩, s)

/-- Messages of this class are handled on a port: its link is up, and MGMT is neither DOWN nor PAUSED, or the boot ROM runs
the ports (R354, R378, R390, R450). -/
def portServes (p : MgPort) (s : State) : Bool :=
  fget hostB (fPortUp p) s == 1 && (mgmtPlane s == 1 || mgmtPlane s == 3 || s.boot.phase == 3)

/-- An answer, unless a whole-package reset has swept the message away. -/
def answerPort (code : Nat) (x : MgmtReply × State) : State := if x.2.boot.phase = 0 then x.2 else answer 3 code x

/-! The check of an arriving message (R447). -/

/-- The kind of the sender: 0 package, 1 rack manager, 2 arbiter, 3 job controller, 4 tray controller. -/
def msgKind (m : MgmtMsg) : Nat := bitsOf m.sender.toNat 31 28
def msgEid (m : MgmtMsg) : BitVec 19 := BitVec.ofNat 19 m.sender.toNat

/-- CLASS and CODE are defined (R303, R448, R449). -/
def codeKnown (m : MgmtMsg) : Bool :=
  (m.cls == 1 && decide (1 ≤ m.code.toNat ∧ m.code.toNat ≤ 15))
    || (m.cls == 2 && decide (1 ≤ m.code.toNat ∧ m.code.toNat ≤ 7))
    || (m.cls == 3 && decide (1 ≤ m.code.toNat ∧ m.code.toNat ≤ 4))

/-- Reserved bits of the bodies of R448, and the rung codes 6 and 7. -/
def bodyReserved (m : MgmtMsg) : Bool :=
  let w := le32 m.body 0
  if m.cls ≠ 2 then false
  else if m.code = 2 then bitsOf w 31 17 != 0
  else if m.code = 3 then bitsOf w 31 25 != 0
  else if m.code = 4 then decide (5 < w)
  else if m.code = 5 then bitsOf w 15 13 != 0 || bitsOf w 23 20 != 0 || bitsOf w 31 26 != 0
  else false

/-- Check 1: TYPE, VENDOR, CLASS and CODE, reserved fields, the sender. -/
def formatBad (m : MgmtMsg) : Bool :=
  m.mtype != 0x7E || m.vendor != 0x1EC5 || !codeKnown m || bitsOf m.flags.toNat 7 1 != 0 || m.status != 0 || m.rsv != 0
    || m.detail != 0 || decide (4 < msgKind m) || bitsOf m.sender.toNat 27 19 != 0
    || (msgKind m != 0 && msgEid m != 0) || bodyReserved m

/-- The lengths of the bodies of R448 and R449. -/
def bodyLengthOk (m : MgmtMsg) : Bool :=
  let n := m.body.length
  if m.cls = 2 then n == [0, 0, 4, 4, 4, 12, 4, 32].getD m.code.toNat 0
  else if m.cls = 3 then
    (match m.code.toNat with
      | 1 => n == 8 && decide (1 ≤ le32 m.body 4 ∧ le32 m.body 4 ≤ 64)
      | 2 => decide (1 ≤ le32 m.body 4 ∧ le32 m.body 4 ≤ 64) && n == 8 + 4 * le32 m.body 4
      | 3 => decide (9 ≤ n ∧ n ≤ 1016)
      | _ => n == 12 && decide (1 ≤ le32 m.body 8 ∧ le32 m.body 8 ≤ 1000))
  else true

/-- Check 2: LEN. -/
def lengthBad (m : MgmtMsg) : Bool :=
  decide (1024 < m.len.toNat) || m.len.toNat != m.body.length || !bodyLengthOk m

/-- The bytes that the MAC covers (R445). -/
def msgBytes (m : MgmtMsg) : List Byte :=
  [m.mtype] ++ beBytes 2 m.vendor.toNat ++ [m.cls, m.code, m.flags, m.status, BitVec.ofNat 8 m.rsv.toNat]
    ++ leBytes 4 m.seq.toNat ++ leBytes 4 m.sender.toNat ++ leBytes 8 m.keyId.toNat ++ leBytes 8 m.bootId.toNat
    ++ leBytes 4 m.detail.toNat ++ leBytes 2 m.len.toNat ++ leBytes 2 (m.rsv.toNat / 256) ++ m.body

/-- Byte strings in ascending order. -/
def bytesLe : List Byte → List Byte → Bool
  | [], _ => true
  | _ :: _, [] => false
  | a :: r, b :: t => if a = b then bytesLe r t else decide (a.toNat < b.toNat)

/-- The label "CMM". -/
abbrev cmmLabel : List Byte := [0x43, 0x4D, 0x4D]

/-- The MAC key of two packages (R446). -/
def packageKey (eid : BitVec 19) : List Byte :=
  let peer := Config.peerKey eid
  let id := Config.sha384 peer
  let salt := if bytesLe ownIdent id then ownIdent ++ id else id ++ ownIdent
  Config.hkdf384 (Config.ecdh Config.identityKey peer) salt cmmLabel 48

/-- The MAC key of a rack party (R446). -/
def rackKey (key : List Byte) : List Byte :=
  Config.hkdf384 (Config.ecdh Config.identityKey key) ownIdent cmmLabel 48

def macZero (m : MgmtMsg) : Bool := m.mac.length == 16 && m.mac.all fun b => b == 0
def macOk (key : List Byte) (m : MgmtMsg) : Bool := bytesAt (Config.hmac384 key (msgBytes m)) 0 16 == m.mac

/-- A SAFE_NOTICE with a MAC of zeros. -/
def safeMsg (m : MgmtMsg) : Bool := m.cls == 2 && m.code == 7 && macZero m

/-- Check 3: the MAC, under the key of the sender (R446, R429). -/
def authOk (m : MgmtMsg) (s : State) : Bool :=
  match msgKind m with
  | 0 => safeMsg m || (macOk (packageKey (msgEid m)) m
      && (s.sec.peers.idents.isEmpty || s.sec.peers.idents.contains (Config.sha384 (Config.peerKey (msgEid m)))))
  | 4 => m.port == .i3c
  | _ => (unsignedOk s && m.keyId == 0 && macZero m) || (match cabKey (leBytes 8 m.keyId.toNat) s with
      | none => false
      | some k => macOk (rackKey k) m)

/-- The last message accepted from the sender of a message. -/
def lastPeer (m : MgmtMsg) (s : State) : Option MgmtPeer :=
  s.mgmt.peers.find? fun x => x.sender == m.sender && x.keyId == m.keyId

/-- The sender that a message of the Gorzel class comes from (R303): the direction of each code; a code that goes to another
party has none. -/
def gorzelFrom : Nat → Option Nat
  | 3 => some 2
  | 4 => some 0
  | 5 => some 0
  | 6 => some 0
  | 7 => some 0
  | 9 => some 2
  | 11 => some 3
  | 12 => some 3
  | 14 => some 1
  | 15 => some 0
  | _ => none

/-- Check 7: the sender, the transport (R444), recovery and the safe state (R378, R390). -/
def senderAllowed (m : MgmtMsg) (s : State) : Bool :=
  let k := msgKind m
  let c := m.code.toNat
  let net : Bool := m.port != .i3c
  if m.cls = 3 then (k == 1 || k == 3) && net
  else if s.boot.phase = 3 then m.cls == 2 && c == 5 && k == 4 && !net
  else if isSafe s then false
  else if m.cls = 1 then gorzelFrom c == some k && net
  else if c ≤ 3 then k == 1
  else if c = 4 then k == 1 && net
  else if c = 5 then k == 4 && !net
  else c == 7 && k == 0 && net

/-- Check 8: the message is handled. What a Gorzel message carries has no byte layout in the manual: the Gorzel rows of the
table act on it. -/
def handleMsg (m : MgmtMsg) (s : State) : MgmtReply × State :=
  let w := le32 m.body 0
  let r : Requester := if m.port = .b then .mgB else .mgA
  let ok : MgmtReply := ⟨stOK, 0, []⟩
  match m.cls.toNat, m.code.toNat with
  | 2, 1 => heartbeatOp m.port s
  | 2, 2 => capReply (bitsOf w 15 0) (bitOf w 16) s
  | 2, 3 => (ok, coolingOp (BitVec.ofNat 16 w) (bitOf w 24) s)
  | 2, 4 => rackRungOp r w s
  | 2, 5 => locationOp (bitsOf w 12 0) (bitsOf w 19 16) (bitsOf w 25 24) (BitVec.ofNat 32 (le32 m.body 4))
      (BitVec.ofNat 32 (le32 m.body 8)) s
  | 2, 7 => (ok, gzTake (.safeNotice (msgEid m)) s)
  | 3, 1 => regReadOp r w (le32 m.body 4) s
  | 3, 2 => regWriteOp r w ((List.range (le32 m.body 4)).map fun i => BitVec.ofNat 32 (le32 m.body (8 + 4 * i))) s
  | 3, 3 => memWriteOp r (le64 m.body 0) (m.body.drop 8) s
  | 3, 4 => memReadOp r (le64 m.body 0) (le32 m.body 8) s
  | _, _ => (ok, s)

/-- The reply to a message, without its MAC (R445): RESP, the status and DETAIL, the SEQ and the key of the request, and the
EID and BOOT_ID of this package. -/
def replyMsg (m : MgmtMsg) (r : MgmtReply) (s : State) : MgmtMsg :=
  ⟨m.port, 0x7E, 0x1EC5, m.cls, m.code, 1, r.status, 0, m.seq, (ownEid s).setWidth 32, m.keyId, BitVec.ofNat 64 (bootIdOf s),
    r.detail, BitVec.ofNat 16 r.body.length, r.body, []⟩

/-- The key of the MAC of a reply (R446): that of the two packages, or of the rack party that KEY_ID names; the tray controller
has none, and neither has an unsigned rack party. -/
def replyKey (m : MgmtMsg) (s : State) : Option (List Byte) :=
  match msgKind m with
  | 0 => some (packageKey (msgEid m))
  | 4 => none
  | _ => (cabKey (leBytes 8 m.keyId.toNat) s).map rackKey

/-- The reply to a message as the bytes on its port (R445); a MAC of zeros without a key (log entry 94). -/
def replyFrame (m : MgmtMsg) (r : MgmtReply) (s : State) : List Byte :=
  let b := msgBytes (replyMsg m r s)
  b ++ match replyKey m s with
    | none => List.replicate 16 0
    | some k => bytesAt (Config.hmac384 k b) 0 16

/-- A reply leaves on the port of its message. -/
def sendFrame (m : MgmtMsg) (r : MgmtReply) (s : State) : State := emit (.mgmtFrame m.port (replyFrame m r s)) s

/-- The reply leaves: SAFE_NOTICE has none, and the Gorzel rows answer their own messages. -/
def sendReply (m : MgmtMsg) (r : MgmtReply) (s : State) : State :=
  if m.cls = 1 ∧ r.status = stOK ∨ m.cls = 2 ∧ m.code = 7 ∧ r.status = stOK then s
  else sendFrame m r s

/-- Checks 7 and 8; the SEQ and the reply of an accepted message are kept. -/
def acceptMsg (m : MgmtMsg) (s : State) : State :=
  let x := if senderAllowed m s then handleMsg m s else (⟨stDENIED, 0, []⟩, s)
  if x.2.boot.phase = 0 then x.2
  else
    let keep : MgmtPeer := ⟨m.sender, m.keyId, m.seq, x.1⟩
    let t := { x.2 with mgmt := { x.2.mgmt with
      peers := keep :: x.2.mgmt.peers.filter fun y => !(y.sender == m.sender && y.keyId == m.keyId) } }
    sendReply m x.1 t

/-- Checks 4 to 6. -/
def freshMsg (m : MgmtMsg) (s : State) : State :=
  if m.bootId.toNat ≠ bootIdOf s then
    sendFrame m ⟨stSTALE, 0, []⟩ (faddSat hostB fHOST_MCNT1_STALE_BOOT_CNT 1 s)
  else match lastPeer m s with
    | none => acceptMsg m s
    | some x =>
      if m.seq = x.seq then sendReply m x.reply s
      else if newer32 m.seq x.seq then acceptMsg m s
      else faddSat hostB fHOST_MCNT0_REPLAY_CNT 1 s

/-- The checks of R447 in their order. -/
def checkMsg (m : MgmtMsg) (s : State) : State :=
  if formatBad m then sendFrame m ⟨stFORMAT, 0, []⟩ s
  else if lengthBad m then sendFrame m ⟨stLENGTH, 0, []⟩ s
  else if !authOk m s then faddSat hostB fHOST_MCNT0_AUTH_FAIL_CNT 1 s
  else if safeMsg m then (if senderAllowed m s then gzTake (.safeNotice (msgEid m)) s else s)
  else freshMsg m s

/-- The port of a message receives: ports A and B with their link up, I3C with its address (R442, R443). -/
def msgHeard (m : MgmtMsg) (s : State) : Bool :=
  match m.port with
  | .a => fget hostB fHOST_MGMT_A_UP s == 1
  | .b => fget hostB fHOST_MGMT_B_UP s == 1
  | .i3c => fget hostB fHOST_MGMT_I3C_ADDR_OK s == 1

/-- A message is heard: a reply asks for nothing here. -/
def messageOp (m : MgmtMsg) (s : State) : State :=
  if !msgHeard m s || bitOf m.flags.toNat 0 || (mgmtPlane s == 0 && s.boot.phase != 3) then s else checkMsg m s

/-! Arrival, and the end of a pause (R450). -/

/-- An answer of class 2 while MGMT is RUN. -/
def whileRun (code : Nat) (f : State → MgmtReply × State) (s : State) : State :=
  if mgmtPlane s = 1 then answer 2 code (f s) else s

/-- An answer of class 3 on a port that serves. -/
def onPort (r : MgPort) (code : Nat) (f : State → MgmtReply × State) (s : State) : State :=
  if portServes r s then answerPort code (f s) else s

/-- One request is handled. -/
def mgHandle (x : MgmtIn) (s : State) : State :=
  match x with
  | .msg m => messageOp m s
  | .heartbeat p => whileRun 1 (heartbeatOp p) s
  | .capReq c urgent => whileRun 2 (capReply c.toNat urgent) s
  | .cooling inlet lost => whileRun 3 (fun s => (⟨stOK, 0, []⟩, coolingOp inlet lost s)) s
  | .rungTarget k => whileRun 4 (rackRungOp .mgA k.toNat) s
  | .location rack tray socket ipA ipB =>
    if mgmtUp s then answer 2 5 (locationOp rack.toNat tray.toNat socket.toNat ipA ipB s) else s
  | .regRead r off n => onPort r 1 (regReadOp (portReq r) off.toNat n.toNat) s
  | .regWrite r off l => onPort r 2 (regWriteOp (portReq r) off.toNat l) s
  | .memWrite r a data => onPort r 3 (memWriteOp (portReq r) a.toNat data) s
  | .memRead r a n => onPort r 4 (memReadOp (portReq r) a.toNat n.toNat) s

/-- A request arrives: while MGMT is PAUSED it waits, in the order of arrival across the ports (R450). -/
def mgTake (x : MgmtIn) (s : State) : State :=
  if mgmtPlane s = 2 then { s with mgmt := { s.mgmt with wait := s.mgmt.wait ++ [x] } } else mgHandle x s

/-- The requests that waited for the end of the pause are handled in order (R450); one may end the package's life. -/
def msgsResume (s : State) : State :=
  forAll s.mgmt.wait mgTake { s with mgmt := { s.mgmt with wait := [] } }

/-- The management port of a number. -/
def msgPort : Nat → MsgPort
  | 0 => .a
  | 1 => .b
  | _ => .i3c

/-- MGMT_MESSAGE_CHECK (R447). -/
def execMgmtMessageCheck (m : MgmtMsg) (s : State) : Host.Outcome State Fault Refusal := .next (mgTake (.msg m) s)
/-- HEARTBEAT (R342). -/
def execHeartbeat (port : Fin 3) (s : State) : Host.Outcome State Fault Refusal :=
  .next (mgTake (.heartbeat (msgPort port.val)) s)
/-- CAP_REQ (R335, R337). -/
def execCapReq (cap : BitVec 16) (urgent : Bool) (s : State) : Host.Outcome State Fault Refusal :=
  .next (mgTake (.capReq cap urgent) s)
/-- COOLING (R349). -/
def execCooling (inlet : BitVec 16) (_flow : BitVec 8) (flowLost : Bool) (s : State) : Host.Outcome State Fault Refusal :=
  .next (mgTake (.cooling inlet flowLost) s)
/-- RUNG_TARGET (R448). -/
def execRungTarget (k : BitVec 3) (s : State) : Host.Outcome State Fault Refusal := .next (mgTake (.rungTarget k) s)
/-- LOCATION (R294, R448). -/
def execLocation (rack : BitVec 13) (tray : BitVec 4) (socket : BitVec 2) (ipA ipB : BitVec 32) (s : State) :
    Host.Outcome State Fault Refusal := .next (mgTake (.location rack tray socket ipA ipB) s)
/-- REG_READ (R449). -/
def execRegRead (r : MgPort) (off count : BitVec 32) (s : State) : Host.Outcome State Fault Refusal :=
  .next (mgTake (.regRead r off count) s)
/-- REG_WRITE (R449). -/
def execRegWrite (r : MgPort) (off : BitVec 32) (words : List (BitVec 32)) (s : State) : Host.Outcome State Fault Refusal :=
  .next (mgTake (.regWrite r off words) s)
/-- MEM_WRITE (R449). -/
def execMemWrite (r : MgPort) (addr : BitVec 64) (data : List (BitVec 8)) (s : State) : Host.Outcome State Fault Refusal :=
  .next (mgTake (.memWrite r addr data) s)
/-- MEM_READ (R449). -/
def execMemRead (r : MgPort) (addr : BitVec 64) (len : BitVec 32) (s : State) : Host.Outcome State Fault Refusal :=
  .next (mgTake (.memRead r addr len) s)

end Sys2Proof.Machine
end

