-- ==== Sys2Proof/Machine/Pins.lean ====
section
/-! DEFINITION. The output pins as the state of the package shows them (R457), and the signals that the Crawlway brings to
DBG_OBS and DBG_CLK (R402, R403). -/

namespace Sys2Proof.Machine

/-- The condition of the package that the columns of R457 name. -/
inductive PinCond where
  | auxDown
  | notGood
  | reset
  | boot
  | running
  | safe
  deriving DecidableEq, Repr

/-- The condition of the package: PWR_GOOD bit 7 is VAUX (R321). -/
def pinCond (s : State) : PinCond :=
  if !s.boot.good.getLsbD 7 then .auxDown
  else if s.boot.good ≠ 0xFF then .notGood
  else if s.boot.phase = 0 then .reset
  else if isSafe s then .safe
  else if s.boot.phase = 2 then .running
  else .boot

/-- What a pin shows: high impedance, a level, an open drain that is released, driven by its interface, undriven, or electrical
idle. -/
inductive Pin where
  | highZ
  | low
  | high
  | released
  | driven
  | undriven
  | idle
  deriving DecidableEq, Repr

/-- The supplies of the pins are up. -/
def pinsUp (s : State) : Bool := match pinCond s with
  | .auxDown => false
  | .notGood => false
  | _ => true

/-- TS_PULSE (R210). -/
def pinTsPulse (s : State) : Pin :=
  if !pinsUp s then .highZ
  else if pinCond s = .reset then .low
  else if s.drp.pulseEnd.isSome then .high else .low

/-- ERR_N (R393, R390). -/
def pinErrN (s : State) : Pin := match pinCond s with
  | .safe => .low
  | .boot => if fget burB fBUR_ERRN_PIN s = 1 then .low else .released
  | .running => if fget burB fBUR_ERRN_PIN s = 1 then .low else .released
  | _ => .released

/-- THERMTRIP_N (R346). -/
def pinThermtripN (s : State) : Pin :=
  if pinCond s = .auxDown then .released else if s.pwr.trip then .low else .released

/-- AVS_CLK, AVS_MDATA, PMB_SCL and PMB_SDA: from MGMT RUN on. -/
def pinBuses (s : State) : Pin := match pinCond s with
  | .boot => if mgmtPlane s = 1 then .driven else .highZ
  | .running => .driven
  | .safe => .driven
  | _ => .highZ

/-- I3C_SDA as a target: from MGMT RUN on, and in ROM recovery (R378). -/
def pinI3cSda (s : State) : Pin := match pinCond s with
  | .boot => if mgmtUp s then .driven else .highZ
  | .running => .driven
  | .safe => .driven
  | _ => .highZ

/-- The PE_TX pairs (R438). -/
def pinPeTx (s : State) : Pin := match pinCond s with
  | .boot => if s.host.perst then .undriven else .driven
  | .running => if s.host.perst then .undriven else .driven
  | .safe => .idle
  | _ => .undriven

/-- The PE_RX termination is present. -/
def peRxTerm (s : State) : Bool := match pinCond s with
  | .boot => s.clk.locked && !s.host.perst
  | .running => true
  | .safe => true
  | _ => false

/-- The transmitters of the management ports: from MGMT RUN on, and in ROM recovery (R378). -/
def pinMgTx (s : State) : Pin := match pinCond s with
  | .boot => if mgmtUp s then .driven else .undriven
  | .running => .driven
  | .safe => .driven
  | _ => .undriven

/-- The transmit lanes of a port are lit (R218, R221, R222, R252). -/
def lanesLit (p : Nat) (s : State) : Bool := match pinCond s with
  | .boot => portState p s != 0 && portState p s != 4
  | .running => portState p s != 0 && portState p s != 4
  | .safe => portState p s != 0 && portState p s != 4
  | _ => false

/-- The Crawlway brings signals out: it works, and the package is past its reset. -/
def crawlOut (s : State) : Bool := crawlWorks s && (match pinCond s with
  | .boot => true
  | .running => true
  | .safe => true
  | _ => false)

/-- The signals of a Crawlway group that the state holds (R403). -/
def crawlSignals (group unit : Nat) (s : State) : List Nat :=
  match group with
  | 0 => [ctrlPlane s, dataPlane s, mgmtPlane s, fget hubB fHUB_PLANE_STATUS_READY s, (isSafe s).toNat,
      fget burB fBUR_ERRN_PIN s]
  | 1 => [s.clk.pFrac, s.clk.w.toNat % 1024, s.drp.pulseEnd.isSome.toNat, (inDrift s).toNat, curRung s]
  | 2 => [nDie (unit % 4) s, s.stool.last.getD (unit % 4) 0]
  | 4 => [portState (unit % 32) s, (getPort (unit % 32) s).xoffRx.toNat]
  | _ => []

/-- DBG_OBS (R402, R403): low while the Crawlway does not work, 0 for a reserved group. The manual does not say which signal
lies on which pin: a free value of the signals of the group (log entry 93). -/
def dbgObs (s : State) : BitVec 16 :=
  let g := fget burB fBUR_CRAWL_GROUP s
  let u := fget burB fBUR_CRAWL_UNIT s
  if !crawlOut s ∨ 5 < g then 0 else Config.crawlObs g u (crawlSignals g u s) s.clk.now

/-- DBG_CLK: low while the Crawlway does not work; else a divided clock, whose level at a moment the manual does not give. -/
def dbgClk (s : State) : Bool := crawlOut s && Config.crawlClk (fget burB fBUR_CRAWL_DIV s) s.clk.now

/-- DBG_OBS and DBG_CLK as pins are in high impedance while the supplies are down. -/
def pinDbg (level : Bool) (s : State) : Pin := if !pinsUp s then .highZ else if level then .high else .low

end Sys2Proof.Machine
end

