-- ==== Sys2Proof/Machine/Resume.lean ====
section
/-! DEFINITION. The ends of hub restarts and of resets (R28, R29, R171, R358, R373, R374, R424): MGMT back to RUN, an
activation that completes or reverts. -/

namespace Sys2Proof.Machine

/-- MGMT returns to RUN (R28, R29): the heartbeat timer starts anew, and everything that waited goes on in its order. -/
def mgmtResume (s : State) : State :=
  if mgmtPlane s ≠ 2 then s
  else
    let s := fset hubB fHUB_PLANE_STATUS_MGMT 1 { s with pwr := { s.pwr with hb := some s.clk.now } }
    pauseNotice 0 (sumpStep (gzGoOn (fabResume (msgsResume (secResume (colResume (resumeResets (cabResume s))))))))

def setAct (a : Option FwAct) (s : State) : State := { s with fwu := { s.fwu with act := a } }

/-- The partitions with a key slot whose list lacks the new manifest (R424). -/
def partsUnlisted (man : List Byte) (s : State) : List Nat :=
  (List.range 4).filter fun p => (List.range 4).any fun i => match getKey (4 * p + i) s with
    | none => false
    | some k => !k.mans.contains man

/-- The activation completes (R374): the staged bank becomes the active one, and partitions whose slots do not list it are
reset (R424). -/
def activationDone (s : State) : State :=
  let s := setAct none { s with nv := { s.nv with active := !s.nv.active, staged := false, marked := false } }
  let s := forAll (partsUnlisted (manDigest s.nv.active s) s) (fun p s =>
    let s := eraseKeysOf p s
    if s.rst.runs.any fun x => x.unit == 3 && x.target == p then s else beginReset 3 p none s) s
  fwuEnd 2 stOK 0 s

/-- The activation was undone (R374). -/
def activationUndone (a : FwAct) (s : State) : State := fwuEnd 2 a.status a.comp (setAct none s)

/-- The compute-part reset that loads a microcode (R362, R373); one that is accepted already serves. -/
def loadMicro (s : State) : State :=
  if s.rst.runs.any fun x => x.unit == 4 then s else beginReset 4 0 none s

/-- What the checks of R373 and the start of Lerfen give for the staged bank. -/
def restartStatus (res : HubRestartIn) (s : State) : BitVec 8 × Nat :=
  let st := bankStatus (idleBank s) s
  if st.1 ≠ stOK then st else if res.lerfenAlive then (stOK, 0) else (stTIMEOUT, 2)

/-- Settings that the new firmware replaced by defaults (R376). -/
def noteDefaults (res : HubRestartIn) (s : State) : State := if res.defaulted then evt fwuB eFWU_EVENT_DEFAULTED s else s

/-- The hub restart of an activation ends, from the staged bank (phase 1) or back on the active bank (phase 2). -/
def restartDone (res : HubRestartIn) (a : FwAct) (s : State) : State :=
  if a.phase = 0 then hubRestart s
  else if a.phase = 1 then
    let st := restartStatus res s
    if st.1 ≠ stOK then setAct (some { a with phase := 2, micro := false, status := st.1, comp := st.2 }) s
    else
      let s := mgmtResume (noteDefaults res (if res.newFmt then cabNewFmt s else s))
      if a.micro then loadMicro (setAct (some { a with phase := 3 }) s) else activationDone s
  else if a.phase = 2 then
    let s := evt fwuB eFWU_EVENT_REVERTED (mgmtResume s)
    if a.micro then loadMicro (setAct (some { a with phase := 4 }) s) else activationUndone a s
  else s

/-- HUB_RESTART_DONE. -/
def execHubRestartDone (res : HubRestartIn) (s : State) : Host.Outcome State Fault Refusal :=
  .next (match s.fwu.act with
    | none => s
    | some a => if isSafe s then s else restartDone res a s)

/-- The clusters in service. -/
def cluCount (s : State) : Nat := ((List.range 32).filter fun k => cluOk k s).length

/-- The new microcode has failed (R374): PAUSE_NOTICE (R317), and the hub restarts from the old bank, with MGMT PAUSED again. -/
def microFailed (a : FwAct) (s : State) : State :=
  hubToReset (fset hubB fHUB_PLANE_STATUS_MGMT 2 (pauseNotice 2600
    (setAct (some { a with phase := 2, micro := true, status := stCHECK, comp := 4 }) s)))

/-- A compute-part reset of an activation has ended; before tells how many clusters were in service. -/
def microLoaded (before : Nat) (s : State) : State :=
  match s.fwu.act with
  | none => s
  | some a =>
    if a.phase = 3 then (if cluCount s + 4 < before then microFailed a s else activationDone s)
    else if a.phase = 4 then activationUndone a s
    else s

/-- RESET_DONE (R358): the reset that has done its work ends, then the ones that wait may start; with none at an end, the
ones that wait are tried. -/
def resetDoneOp (res : ResetIn) (s : State) : State :=
  match finishReset res s with
  | none => resumeResets s
  | some (x, t) =>
    let t := if x.unit = 4 then microLoaded (cluCount s) t else t
    secScrubbed (resumeResets t)

/-- RESET_DONE. -/
def execResetDone (res : ResetIn) (s : State) : Host.Outcome State Fault Refusal :=
  .next (if isSafe s then s else resetDoneOp res s)

end Sys2Proof.Machine
end

