-- ==== Sys2Proof/Machine/Dispatch.lean ====
section
/-! DEFINITION. One arm per command: each calls its meaning, or is rejected by name. -/

namespace Sys2Proof.Machine

def exec (i : Instr) (s : State) : Host.Outcome State Fault Refusal :=
  match i with
  | .registerWrite r off size val sets => Sys2Proof.Machine.execRegisterWrite r off size val sets s
  | .rcFieldRead r off evHi evLo => Sys2Proof.Machine.execRcFieldRead r off evHi evLo s
  | .drpWLoRead r => Sys2Proof.Machine.execDrpWLoRead r s
  | .cntLiveLoRead r off => Sys2Proof.Machine.execCntLiveLoRead r off s
  | .cntSnapLoRead r off => Sys2Proof.Machine.execCntSnapLoRead r off s
  | .handoffEntrySend h entry => Sys2Proof.Machine.execHandoffEntrySend h entry s
  | .creditReturn h n => Sys2Proof.Machine.execCreditReturn h n s
  | .bundleIssue c => Sys2Proof.Machine.execBundleIssue c s
  | .next c => Sys2Proof.Machine.execNext c s
  | .setlc c lc count => Sys2Proof.Machine.execSetlc c lc count s
  | .loopend c lc target => Sys2Proof.Machine.execLoopend c lc target s
  | .waitSync c slot target => Sys2Proof.Machine.execWaitSync c slot target s
  | .signal c slot value => Sys2Proof.Machine.execSignal c slot value s
  | .fence c => Sys2Proof.Machine.execFence c s
  | .endProgram c => Sys2Proof.Machine.execEndProgram c s
  | .waitPace c offset => Sys2Proof.Machine.execWaitPace c offset s
  | .mma c e => Sys2Proof.Machine.execMma c e s
  | .engineInstrComplete c e => Sys2Proof.Machine.execEngineInstrComplete c e s
  | .add c => Sys2Proof.Machine.execAdd c s
  | .sub c => Sys2Proof.Machine.execSub c s
  | .mul c => Sys2Proof.Machine.execMul c s
  | .fma c => Sys2Proof.Machine.execFma c s
  | .min c => Sys2Proof.Machine.execMin c s
  | .max c => Sys2Proof.Machine.execMax c s
  | .cmpeq c => Sys2Proof.Machine.execCmpeq c s
  | .cmplt c => Sys2Proof.Machine.execCmplt c s
  | .cmple c => Sys2Proof.Machine.execCmple c s
  | .sel c => Sys2Proof.Machine.execSel c s
  | .acc c => Sys2Proof.Machine.execAcc c s
  | .accRead c => Sys2Proof.Machine.execAccRead c s
  | .cvt c => Sys2Proof.Machine.execCvt c s
  | .quantMx32 c => Sys2Proof.Machine.execQuantMx32 c s
  | .quantG16 c => Sys2Proof.Machine.execQuantG16 c s
  | .rcp c => Sys2Proof.Machine.execRcp c s
  | .rsqrt c => Sys2Proof.Machine.execRsqrt c s
  | .exp2 c => Sys2Proof.Machine.execExp2 c s
  | .log2 c => Sys2Proof.Machine.execLog2 c s
  | .tanh c => Sys2Proof.Machine.execTanh c s
  | .sigm c => Sys2Proof.Machine.execSigm c s
  | .lsum c => Sys2Proof.Machine.execLsum c s
  | .lmax c => Sys2Proof.Machine.execLmax c s
  | .perm c => Sys2Proof.Machine.execPerm c s
  | .vxLoad c => Sys2Proof.Machine.execVxLoad c s
  | .store c => Sys2Proof.Machine.execStore c s
  | .gather c => Sys2Proof.Machine.execGather c s
  | .scatter c => Sys2Proof.Machine.execScatter c s
  | .acload c => Sys2Proof.Machine.execAcload c s
  | .acadd c => Sys2Proof.Machine.execAcadd c s
  | .acstore c => Sys2Proof.Machine.execAcstore c s
  | .put c => Sys2Proof.Machine.execPut c s
  | .get c => Sys2Proof.Machine.execGet c s
  | .mcast c => Sys2Proof.Machine.execMcast c s
  | .doorbell r window word => Sys2Proof.Machine.execDoorbell r window word s
  | .commandDispatch q => Sys2Proof.Machine.execCommandDispatch q s
  | .completionWrite q idx => Sys2Proof.Machine.execCompletionWrite q idx s
  | .nop q => Sys2Proof.Machine.execNop q s
  | .load q => Sys2Proof.Machine.execLoad q s
  | .loadTranslationDone imgs => Sys2Proof.Machine.execLoadTranslationDone imgs s
  | .unload q => Sys2Proof.Machine.execUnload q s
  | .launch q => Sys2Proof.Machine.execLaunch q s
  | .arm q => Sys2Proof.Machine.execArm q s
  | .disarm q => Sys2Proof.Machine.execDisarm q s
  | .copy q => Sys2Proof.Machine.execCopy q s
  | .fill q => Sys2Proof.Machine.execFill q s
  | .syncWait q => Sys2Proof.Machine.execSyncWait q s
  | .launchEntryFire c slot => Sys2Proof.Machine.execLaunchEntryFire c slot s
  | .lateCoreStart c => Sys2Proof.Machine.execLateCoreStart c s
  | .programInstanceEnd inst => Sys2Proof.Machine.execProgramInstanceEnd inst s
  | .invalidate r q => Sys2Proof.Machine.execInvalidate r q s
  | .queueDrain r q => Sys2Proof.Machine.execQueueDrain r q s
  | .queueReset r q => Sys2Proof.Machine.execQueueReset r q s
  | .queueDrainDone q => Sys2Proof.Machine.execQueueDrainDone q s
  | .syncAdd addr val => Sys2Proof.Machine.execSyncAdd addr val s
  | .syncIrqArm r addr word => Sys2Proof.Machine.execSyncIrqArm r addr word s
  | .sramPatrolRead addr written => Sys2Proof.Machine.execSramPatrolRead addr written s
  | .memPatrol st addr res => Sys2Proof.Machine.execMemPatrol st addr res s
  | .channelPowerDown st ch => Sys2Proof.Machine.execChannelPowerDown st ch s
  | .scrubStart p => Sys2Proof.Machine.execScrubStart p s
  | .scrubDone p badStacks badClusters => Sys2Proof.Machine.execScrubDone p badStacks badClusters s
  | .beginTxn r => Sys2Proof.Machine.execBeginTxn r s
  | .stage r => Sys2Proof.Machine.execStage r s
  | .commit r timed => Sys2Proof.Machine.execCommit r timed s
  | .rollback r => Sys2Proof.Machine.execRollback r s
  | .revert r timed => Sys2Proof.Machine.execRevert r timed s
  | .cabinetEdge => Sys2Proof.Machine.execCabinetEdge s
  | .replicaCompare d => Sys2Proof.Machine.execReplicaCompare d s
  | .epochWrap => Sys2Proof.Machine.execEpochWrap s
  | .syncExchangeStart plane frac => Sys2Proof.Machine.execSyncExchangeStart plane frac s
  | .syncReq h exch t1 frac2 frac3 => Sys2Proof.Machine.execSyncReq h exch t1 frac2 frac3 s
  | .syncResp h plane exch t1 t2 t3 frac reqCorr epoch => Sys2Proof.Machine.execSyncResp h plane exch t1 t2 t3 frac reqCorr epoch s
  | .estimateTimeout => Sys2Proof.Machine.execEstimateTimeout s
  | .holdoverExpiry => Sys2Proof.Machine.execHoldoverExpiry s
  | .rungDecide => Sys2Proof.Machine.execRungDecide s
  | .rungPropose h seq k t => Sys2Proof.Machine.execRungPropose h seq k t s
  | .rungAck h seq => Sys2Proof.Machine.execRungAck h seq s
  | .rungNak h seq status => Sys2Proof.Machine.execRungNak h seq status s
  | .rungAckDeadline => Sys2Proof.Machine.execRungAckDeadline s
  | .rungAbort h seq => Sys2Proof.Machine.execRungAbort h seq s
  | .rungSwitch => Sys2Proof.Machine.execRungSwitch s
  | .rungRepropose => Sys2Proof.Machine.execRungRepropose s
  | .rungReq h ceil => Sys2Proof.Machine.execRungReq h ceil s
  | .rungReqRepeat => Sys2Proof.Machine.execRungReqRepeat s
  | .beaconSend => Sys2Proof.Machine.execBeaconSend s
  | .beacon h rec => Sys2Proof.Machine.execBeacon h rec s
  | .keeperTakeover => Sys2Proof.Machine.execKeeperTakeover s
  | .recordReq h => Sys2Proof.Machine.execRecordReq h s
  | .record h rec => Sys2Proof.Machine.execRecord h rec s
  | .floorEntry cause => Sys2Proof.Machine.execFloorEntry cause s
  | .floorExit => Sys2Proof.Machine.execFloorExit s
  | .tsPulse => Sys2Proof.Machine.execTsPulse s
  | .drpRungTargetWrite r val => Sys2Proof.Machine.execDrpRungTargetWrite r val s
  | .linkTrainAttempt p res => Sys2Proof.Machine.execLinkTrainAttempt p res s
  | .linkTrainEnd p => Sys2Proof.Machine.execLinkTrainEnd p s
  | .linkFault p => Sys2Proof.Machine.execLinkFault p s
  | .laserLow m => Sys2Proof.Machine.execLaserLow m s
  | .laserRestored m => Sys2Proof.Machine.execLaserRestored m s
  | .cellSlotTx p => Sys2Proof.Machine.execCellSlotTx p s
  | .cellRx p cell => Sys2Proof.Machine.execCellRx p cell s
  | .xonSend p vl => Sys2Proof.Machine.execXonSend p vl s
  | .flow p map => Sys2Proof.Machine.execFlow p map s
  | .packetRx p pkt early => Sys2Proof.Machine.execPacketRx p pkt early s
  | .getReq p pkt => Sys2Proof.Machine.execGetReq p pkt s
  | .getResp p pkt => Sys2Proof.Machine.execGetResp p pkt s
  | .notifyAdd p pkt => Sys2Proof.Machine.execNotifyAdd p pkt s
  | .ack tags => Sys2Proof.Machine.execAck tags s
  | .nak tag status detail => Sys2Proof.Machine.execNak tag status detail s
  | .remoteInstrTimeout tag => Sys2Proof.Machine.execRemoteInstrTimeout tag s
  | .entrySet eid entry => Sys2Proof.Machine.execEntrySet eid entry s
  | .drainReq eid => Sys2Proof.Machine.execDrainReq eid s
  | .drainProbe p vl src n => Sys2Proof.Machine.execDrainProbe p vl src n s
  | .drainEcho src n => Sys2Proof.Machine.execDrainEcho src n s
  | .drainTimeout eid => Sys2Proof.Machine.execDrainTimeout eid s
  | .sessInit m => Sys2Proof.Machine.execSessInit m s
  | .sessResp m => Sys2Proof.Machine.execSessResp m s
  | .sessDone src hmac => Sys2Proof.Machine.execSessDone src hmac s
  | .handshakeRetry eid => Sys2Proof.Machine.execHandshakeRetry eid s
  | .rekey eid => Sys2Proof.Machine.execRekey eid s
  | .oldKeyErase eid => Sys2Proof.Machine.execOldKeyErase eid s
  | .activate r id => Sys2Proof.Machine.execActivate r id s
  | .activateWaitEnd id => Sys2Proof.Machine.execActivateWaitEnd id s
  | .retire r id => Sys2Proof.Machine.execRetire r id s
  | .chamberRetired id => Sys2Proof.Machine.execChamberRetired id s
  | .chamberRequestFetch id => Sys2Proof.Machine.execChamberRequestFetch id s
  | .chamberStepStart id => Sys2Proof.Machine.execChamberStepStart id s
  | .chamberStepComplete id => Sys2Proof.Machine.execChamberStepComplete id s
  | .chamberChunkRx p pkt => Sys2Proof.Machine.execChamberChunkRx p pkt s
  | .stallNotice p pkt => Sys2Proof.Machine.execStallNotice p pkt s
  | .doneToken p pkt => Sys2Proof.Machine.execDoneToken p pkt s
  | .chamberDeadline id => Sys2Proof.Machine.execChamberDeadline id s
  | .register role holder preferred => Sys2Proof.Machine.execRegister role holder preferred s
  | .renew answered expiryMs => Sys2Proof.Machine.execRenew answered expiryMs s
  | .leaseLapse => Sys2Proof.Machine.execLeaseLapse s
  | .grant epoch prevHolder => Sys2Proof.Machine.execGrant epoch prevHolder s
  | .claim epoch holder => Sys2Proof.Machine.execClaim epoch holder s
  | .gorzelWriteCheck w => Sys2Proof.Machine.execGorzelWriteCheck w s
  | .portMapout p => Sys2Proof.Machine.execPortMapout p s
  | .portRetrain p => Sys2Proof.Machine.execPortRetrain p s
  | .sliceRow row sliceId size st => Sys2Proof.Machine.execSliceRow row sliceId size st s
  | .sliceMap row first eids => Sys2Proof.Machine.execSliceMap row first eids s
  | .sliceStop sliceId => Sys2Proof.Machine.execSliceStop sliceId s
  | .masterSet eid => Sys2Proof.Machine.execMasterSet eid s
  | .report rep => Sys2Proof.Machine.execReport rep s
  | .stateCopy jseq version recs versionOk => Sys2Proof.Machine.execStateCopy jseq version recs versionOk s
  | .takeback accepted => Sys2Proof.Machine.execTakeback accepted s
  | .yieldReq => Sys2Proof.Machine.execYieldReq s
  | .quietPoint => Sys2Proof.Machine.execQuietPoint s
  | .quietPointTimeout => Sys2Proof.Machine.execQuietPointTimeout s
  | .yield newHolder => Sys2Proof.Machine.execYield newHolder s
  | .carve size rackPref => Sys2Proof.Machine.execCarve size rackPref s
  | .release sliceId => Sys2Proof.Machine.execRelease sliceId s
  | .jobFault sliceId cause eid port => Sys2Proof.Machine.execJobFault sliceId cause eid port s
  | .maint isOpen eids => Sys2Proof.Machine.execMaint isOpen eids s
  | .pauseNotice src ms => Sys2Proof.Machine.execPauseNotice src ms s
  | .gorzelMsgRetry m => Sys2Proof.Machine.execGorzelMsgRetry m s
  | .packageLost eid => Sys2Proof.Machine.execPackageLost eid s
  | .faultReaction eid port => Sys2Proof.Machine.execFaultReaction eid port s
  | .routeInstall dst => Sys2Proof.Machine.execRouteInstall dst s
  | .notLeaderReply seq holder => Sys2Proof.Machine.execNotLeaderReply seq holder s
  | .stepstoolAdmit d => Sys2Proof.Machine.execStepstoolAdmit d s
  | .coreIdleRelease c => Sys2Proof.Machine.execCoreIdleRelease c s
  | .rampArm r e n holdUs => Sys2Proof.Machine.execRampArm r e n holdUs s
  | .rampDisarm r e => Sys2Proof.Machine.execRampDisarm r e s
  | .rampFire e => Sys2Proof.Machine.execRampFire e s
  | .rampHoldExpiry e => Sys2Proof.Machine.execRampHoldExpiry e s
  | .railSample samples => Sys2Proof.Machine.execRailSample samples s
  | .powerControllerTick => Sys2Proof.Machine.execPowerControllerTick s
  | .capReq cap urgent => Sys2Proof.Machine.execCapReq cap urgent s
  | .hbLost => Sys2Proof.Machine.execHbLost s
  | .orphan => Sys2Proof.Machine.execOrphan s
  | .heartbeat port => Sys2Proof.Machine.execHeartbeat port s
  | .cooling inlet flow flowLost => Sys2Proof.Machine.execCooling inlet flow flowLost s
  | .thermalSample readings => Sys2Proof.Machine.execThermalSample readings s
  | .rthEstimate => Sys2Proof.Machine.execRthEstimate s
  | .thermtrip d => Sys2Proof.Machine.execThermtrip d s
  | .brakeNAssert lowNs => Sys2Proof.Machine.execBrakeNAssert lowNs s
  | .brakeNRelease highUs => Sys2Proof.Machine.execBrakeNRelease highUs s
  | .coolClear r => Sys2Proof.Machine.execCoolClear r s
  | .setpointAccepted => Sys2Proof.Machine.execSetpointAccepted s
  | .pwrGoodLoss rail lowNs => Sys2Proof.Machine.execPwrGoodLoss rail lowNs s
  | .coldBoot b => Sys2Proof.Machine.execColdBoot b s
  | .ready => Sys2Proof.Machine.execReady s
  | .bootFallback => Sys2Proof.Machine.execBootFallback s
  | .romRecovery => Sys2Proof.Machine.execRomRecovery s
  | .resetN lowNs => Sys2Proof.Machine.execResetN lowNs s
  | .refclkLoss absentNs => Sys2Proof.Machine.execRefclkLoss absentNs s
  | .pcieRefclkLoss => Sys2Proof.Machine.execPcieRefclkLoss s
  | .rootPllLock => Sys2Proof.Machine.execRootPllLock s
  | .core r c => Sys2Proof.Machine.execCore r c s
  | .cluster r k => Sys2Proof.Machine.execCluster r k s
  | .partition r p => Sys2Proof.Machine.execPartition r p s
  | .compute r => Sys2Proof.Machine.execCompute r s
  | .package r => Sys2Proof.Machine.execPackage r s
  | .resetDone res => Sys2Proof.Machine.execResetDone res s
  | .capture r c => Sys2Proof.Machine.execCapture r c s
  | .resume r c => Sys2Proof.Machine.execResume r c s
  | .fwuStage r => Sys2Proof.Machine.execFwuStage r s
  | .fwuActivate r => Sys2Proof.Machine.execFwuActivate r s
  | .activateOnReset r => Sys2Proof.Machine.execActivateOnReset r s
  | .fwuCancel r => Sys2Proof.Machine.execFwuCancel r s
  | .hubRestartDone res => Sys2Proof.Machine.execHubRestartDone res s
  | .faultSignal src code t c info0 info1 => Sys2Proof.Machine.execFaultSignal src code t c info0 info1 s
  | .bureauReaction rec => Sys2Proof.Machine.execBureauReaction rec s
  | .bureauSelf d => Sys2Proof.Machine.execBureauSelf d s
  | .clear r fatalSame => Sys2Proof.Machine.execClear r fatalSame s
  | .errNMinExpiry => Sys2Proof.Machine.execErrNMinExpiry s
  | .snapArm r => Sys2Proof.Machine.execSnapArm r s
  | .snapDisarm r => Sys2Proof.Machine.execSnapDisarm r s
  | .snapshot => Sys2Proof.Machine.execSnapshot s
  | .sampleRecord c sr => Sys2Proof.Machine.execSampleRecord c sr s
  | .burCrawlWrite r val => Sys2Proof.Machine.execBurCrawlWrite r val s
  | .extest pins => Sys2Proof.Machine.execExtest pins s
  | .idcode => Sys2Proof.Machine.execIdcode s
  | .samplePreload pins => Sys2Proof.Machine.execSamplePreload pins s
  | .clamp => Sys2Proof.Machine.execClamp s
  | .highz => Sys2Proof.Machine.execHighz s
  | .bypass => Sys2Proof.Machine.execBypass s
  | .unwrap r slot => Sys2Proof.Machine.execUnwrap r slot s
  | .eraseSlot r slot => Sys2Proof.Machine.execEraseSlot r slot s
  | .decrypt r slot => Sys2Proof.Machine.execDecrypt r slot s
  | .nonce r => Sys2Proof.Machine.execNonce r s
  | .enrol r => Sys2Proof.Machine.execEnrol r s
  | .revoke r => Sys2Proof.Machine.execRevoke r s
  | .peerSet r => Sys2Proof.Machine.execPeerSet r s
  | .lcSeal r => Sys2Proof.Machine.execLcSeal r s
  | .lcRetire r => Sys2Proof.Machine.execLcRetire r s
  | .unlock r => Sys2Proof.Machine.execUnlock r s
  | .commitSecver r force => Sys2Proof.Machine.execCommitSecver r force s
  | .provision r => Sys2Proof.Machine.execProvision r s
  | .getVersion q => Sys2Proof.Machine.execGetVersion q s
  | .getCapabilities q => Sys2Proof.Machine.execGetCapabilities q s
  | .negotiateAlgorithms q p384 sha384 => Sys2Proof.Machine.execNegotiateAlgorithms q p384 sha384 s
  | .getDigests q => Sys2Proof.Machine.execGetDigests q s
  | .getCertificate q slot off len => Sys2Proof.Machine.execGetCertificate q slot off len s
  | .challenge q slot nonce => Sys2Proof.Machine.execChallenge q slot nonce s
  | .getMeasurements q index sign nonce => Sys2Proof.Machine.execGetMeasurements q index sign nonce s
  | .spdmUnsupportedRequest q code => Sys2Proof.Machine.execSpdmUnsupportedRequest q code s
  | .barWrite f bar2 addr data => Sys2Proof.Machine.execBarWrite f bar2 addr data s
  | .barRead f bar2 addr len => Sys2Proof.Machine.execBarRead f bar2 addr len s
  | .perstN level ns => Sys2Proof.Machine.execPerstN level ns s
  | .pcieLinkTrain speed width => Sys2Proof.Machine.execPcieLinkTrain speed width s
  | .functionLevelReset f => Sys2Proof.Machine.execFunctionLevelReset f s
  | .msixWrite f v => Sys2Proof.Machine.execMsixWrite f v s
  | .msixUnmask f v => Sys2Proof.Machine.execMsixUnmask f v s
  | .mgmtMessageCheck m => Sys2Proof.Machine.execMgmtMessageCheck m s
  | .location rack tray socket ipA ipB => Sys2Proof.Machine.execLocation rack tray socket ipA ipB s
  | .rungTarget k => Sys2Proof.Machine.execRungTarget k s
  | .event => Sys2Proof.Machine.execEvent s
  | .safeNotice src => Sys2Proof.Machine.execSafeNotice src s
  | .regRead r off count => Sys2Proof.Machine.execRegRead r off count s
  | .regWrite r off words => Sys2Proof.Machine.execRegWrite r off words s
  | .memWrite r addr data => Sys2Proof.Machine.execMemWrite r addr data s
  | .memRead r addr len => Sys2Proof.Machine.execMemRead r addr len s
  | .entdaa addr => Sys2Proof.Machine.execEntdaa addr s
  | .setEndpointId eid overI3c => Sys2Proof.Machine.execSetEndpointId eid overI3c s
  | .getEndpointId => Sys2Proof.Machine.execGetEndpointId s
  | .getMctpVersionSupport => Sys2Proof.Machine.execGetMctpVersionSupport s
  | .getMessageTypeSupport tr => Sys2Proof.Machine.execGetMessageTypeSupport tr s
  | .getVendorDefinedMessageSupport tr => Sys2Proof.Machine.execGetVendorDefinedMessageSupport tr s
  | .arpRequest port ip => Sys2Proof.Machine.execArpRequest port ip s
  | .icmpEcho port ip data => Sys2Proof.Machine.execIcmpEcho port ip data s
  | .mgmtPortLinkChange port up => Sys2Proof.Machine.execMgmtPortLinkChange port up s
  | .descriptorCacheEmpty => Sys2Proof.Machine.execDescriptorCacheEmpty s
  | .getTid => Sys2Proof.Machine.execGetTid s
  | .setTid tid => Sys2Proof.Machine.execSetTid tid s
  | .getPldmVersion ptype => Sys2Proof.Machine.execGetPldmVersion ptype s
  | .getPldmTypes => Sys2Proof.Machine.execGetPldmTypes s
  | .getPldmCommands ptype => Sys2Proof.Machine.execGetPldmCommands ptype s
  | .queryDeviceIdentifiers => Sys2Proof.Machine.execQueryDeviceIdentifiers s
  | .getFirmwareParameters => Sys2Proof.Machine.execGetFirmwareParameters s
  | .requestUpdate q => Sys2Proof.Machine.execRequestUpdate q s
  | .passComponentTable q ncomp => Sys2Proof.Machine.execPassComponentTable q ncomp s
  | .updateComponent q size => Sys2Proof.Machine.execUpdateComponent q size s
  | .requestFirmwareData q data => Sys2Proof.Machine.execRequestFirmwareData q data s
  | .transferComplete q => Sys2Proof.Machine.execTransferComplete q s
  | .verifyComplete q => Sys2Proof.Machine.execVerifyComplete q s
  | .applyComplete q => Sys2Proof.Machine.execApplyComplete q s
  | .activateFirmware q selfContained => Sys2Proof.Machine.execActivateFirmware q selfContained s
  | .getStatus q => Sys2Proof.Machine.execGetStatus q s
  | .cancelUpdateComponent q => Sys2Proof.Machine.execCancelUpdateComponent q s
  | .cancelUpdate q => Sys2Proof.Machine.execCancelUpdate q s
  | .pldmIdleTimeout => Sys2Proof.Machine.execPldmIdleTimeout s

end Sys2Proof.Machine
end

