-- ==== Sys2Proof/WellFormed.lean ====
section
/-! DEFINITION. The commands that can be sent: the lengths of the byte strings and lists that the manual fixes, and the
values that an operand of a wider type can take. What the block itself checks and answers is no matter of this file. -/

namespace Sys2Proof

/-- Bytes of an access: one PCI Express payload at most (R433). -/
def sizeOk (n : Nat) : Bool := decide (1 ≤ n ∧ n ≤ 512)

/-- Bytes of an entry of a hand-off (R37). -/
def entrySize : HandoffId → Nat
  | .qmCore _ => 64
  | .engStore _ _ => 256
  | .sxNet _ => 256
  | .netPort _ _ => 256
  | .sxStack _ _ => 64
  | .dieBureau _ => 32
  | .sensorLerfen => 16

/-- The images of a core have the sizes that their counts give (R89): 32 B a bundle, 64 B an ODT entry; a count of 0
bundles stands for 65,536. -/
def imageOk (m : CoreImage) : Bool :=
  m.bundles.length == 32 * (if m.nBund = 0 then 65536 else m.nBund.toNat) && m.odt.length == 64 * m.nOdt.toNat

/-- A packet carries at most 8,128 B and a tag of 16 B (R226). -/
def packetOk (p : Packet) : Bool := decide (p.data.length ≤ 8128) && p.tag.length == 16

/-- A state record names the states of 32 ports (R300). -/
def replyOk (reply : Option GzlReplyIn) : Bool :=
  match reply.bind (·.record) with
  | none => true
  | some x => x.ports.length == 32

/-- A handshake message has a nonce of 32 B, a compressed point of 49 B and a signature of 96 B (R248). -/
def sessOk (m : SessMsg) : Bool := m.nonce.length == 32 && m.ephPub.length == 49 && m.sig.length == 96

/-- The command can be sent. -/
def Instr.wellFormed (i : Instr) : Bool :=
  match i with
  | .registerWrite _ _ size _ _ => sizeOk size
  | .rcFieldRead _ _ _ _ => true
  | .drpWLoRead _ => true
  | .cntLiveLoRead _ _ => true
  | .cntSnapLoRead _ _ => true
  | .handoffEntrySend h entry => entry.length == entrySize h
  | .creditReturn _ _ => true
  | .bundleIssue _ => true
  | .next _ => true
  | .setlc _ _ _ => true
  | .loopend _ _ _ => true
  | .waitSync _ _ _ => true
  | .signal _ _ _ => true
  | .fence _ => true
  | .endProgram _ => true
  | .waitPace _ _ => true
  | .mma _ _ => true
  | .engineInstrComplete _ _ => true
  | .add _ => true
  | .sub _ => true
  | .mul _ => true
  | .fma _ => true
  | .min _ => true
  | .max _ => true
  | .cmpeq _ => true
  | .cmplt _ => true
  | .cmple _ => true
  | .sel _ => true
  | .acc _ => true
  | .accRead _ => true
  | .cvt _ => true
  | .quantMx32 _ => true
  | .quantG16 _ => true
  | .rcp _ => true
  | .rsqrt _ => true
  | .exp2 _ => true
  | .log2 _ => true
  | .tanh _ => true
  | .sigm _ => true
  | .lsum _ => true
  | .lmax _ => true
  | .perm _ => true
  | .vxLoad _ => true
  | .store _ => true
  | .gather _ => true
  | .scatter _ => true
  | .acload _ => true
  | .acadd _ => true
  | .acstore _ => true
  | .put _ => true
  | .get _ => true
  | .mcast _ => true
  | .doorbell _ _ _ => true
  | .commandDispatch _ => true
  | .completionWrite _ _ => true
  | .nop _ => true
  | .load _ => true
  | .loadTranslationDone imgs => imgs.all imageOk
  | .unload _ => true
  | .launch _ => true
  | .arm _ => true
  | .disarm _ => true
  | .copy _ => true
  | .fill _ => true
  | .syncWait _ => true
  | .launchEntryFire _ _ => true
  | .lateCoreStart _ => true
  | .programInstanceEnd _ => true
  | .invalidate _ _ => true
  | .queueDrain _ _ => true
  | .queueReset _ _ => true
  | .queueDrainDone _ => true
  | .syncAdd _ _ => true
  | .syncIrqArm _ _ _ => true
  | .sramPatrolRead _ _ => true
  | .memPatrol _ _ _ => true
  | .channelPowerDown _ _ => true
  | .scrubStart _ => true
  | .scrubDone _ _ _ => true
  | .beginTxn _ => true
  | .stage _ => true
  | .commit _ _ => true
  | .rollback _ => true
  | .revert _ _ => true
  | .cabinetEdge => true
  | .replicaCompare _ => true
  | .epochWrap => true
  | .syncExchangeStart _ _ => true
  | .syncReq _ _ _ _ _ => true
  | .syncResp _ _ _ _ _ _ _ _ _ => true
  | .estimateTimeout => true
  | .holdoverExpiry => true
  | .rungDecide => true
  | .rungPropose _ _ _ _ => true
  | .rungAck _ _ => true
  | .rungNak _ _ _ => true
  | .rungAckDeadline => true
  | .rungAbort _ _ => true
  | .rungSwitch => true
  | .rungRepropose => true
  | .rungReq _ _ => true
  | .rungReqRepeat => true
  | .beaconSend => true
  | .beacon _ _ => true
  | .keeperTakeover => true
  | .recordReq _ => true
  | .record _ _ => true
  | .floorEntry _ => true
  | .floorExit => true
  | .tsPulse => true
  | .drpRungTargetWrite _ _ => true
  | .linkTrainAttempt _ _ => true
  | .linkTrainEnd _ => true
  | .linkFault _ => true
  | .laserLow _ => true
  | .laserRestored _ => true
  | .cellSlotTx _ => true
  | .cellRx _ _ => true
  | .xonSend _ _ => true
  | .flow _ _ => true
  | .packetRx _ pkt _ => packetOk pkt
  | .getReq _ pkt => packetOk pkt
  | .getResp _ pkt => packetOk pkt
  | .notifyAdd _ pkt => packetOk pkt
  | .ack _ => true
  | .nak _ _ _ => true
  | .remoteInstrTimeout _ => true
  | .entrySet _ _ => true
  | .drainReq _ => true
  | .drainProbe _ _ _ _ => true
  | .drainEcho _ _ => true
  | .drainTimeout _ => true
  | .sessInit m => sessOk m
  | .sessResp m => sessOk m
  | .sessDone _ hmac => hmac.length == 48
  | .handshakeRetry _ => true
  | .rekey _ => true
  | .oldKeyErase _ => true
  | .activate _ _ => true
  | .activateWaitEnd _ => true
  | .retire _ _ => true
  | .chamberRetired _ => true
  | .chamberRequestFetch _ => true
  | .chamberStepStart _ => true
  | .chamberStepComplete _ => true
  | .chamberChunkRx _ pkt => packetOk pkt
  | .stallNotice _ pkt => packetOk pkt
  | .doneToken _ pkt => packetOk pkt
  | .chamberDeadline _ => true
  | .register _ _ _ => true
  | .renew _ _ => true
  | .leaseLapse => true
  | .grant _ _ => true
  | .claim _ _ => true
  | .gorzelWriteCheck _ => true
  | .portMapout _ => true
  | .portRetrain _ => true
  | .sliceRow _ _ _ _ => true
  | .sliceMap _ _ eids => decide (1 ≤ eids.length ∧ eids.length ≤ 16)
  | .sliceStop _ => true
  | .masterSet _ => true
  | .report rep => rep.portState.length == 32
  | .stateCopy _ _ _ _ => true
  | .takeback _ => true
  | .yieldReq => true
  | .quietPoint => true
  | .quietPointTimeout => true
  | .yield _ => true
  | .carve _ _ => true
  | .release _ => true
  | .jobFault _ _ _ _ => true
  | .maint _ _ => true
  | .pauseNotice _ _ => true
  | .gorzelMsgRetry m => replyOk m.reply
  | .packageLost _ => true
  | .faultReaction _ _ => true
  | .routeInstall _ => true
  | .notLeaderReply _ _ => true
  | .stepstoolAdmit _ => true
  | .coreIdleRelease _ => true
  | .rampArm _ _ _ _ => true
  | .rampDisarm _ _ => true
  | .rampFire _ => true
  | .rampHoldExpiry _ => true
  | .railSample samples => samples.length == 8
  | .powerControllerTick => true
  | .capReq _ _ => true
  | .hbLost => true
  | .orphan => true
  | .heartbeat _ => true
  | .cooling _ _ _ => true
  | .thermalSample readings => readings.length == 124
  | .rthEstimate => true
  | .thermtrip _ => true
  | .brakeNAssert _ => true
  | .brakeNRelease _ => true
  | .coolClear _ => true
  | .setpointAccepted => true
  | .pwrGoodLoss _ _ => true
  | .coldBoot b => b.goodPhys.length == 32
  | .ready => true
  | .bootFallback => true
  | .romRecovery => true
  | .resetN _ => true
  | .refclkLoss _ => true
  | .pcieRefclkLoss => true
  | .rootPllLock => true
  | .core _ _ => true
  | .cluster _ _ => true
  | .partition _ _ => true
  | .compute _ => true
  | .package _ => true
  | .resetDone res => res.goodPhys.length == 32
  | .capture _ _ => true
  | .resume _ _ => true
  | .fwuStage _ => true
  | .fwuActivate _ => true
  | .activateOnReset _ => true
  | .fwuCancel _ => true
  | .hubRestartDone _ => true
  | .faultSignal _ _ _ _ _ _ => true
  | .bureauReaction _ => true
  | .bureauSelf _ => true
  | .clear _ _ => true
  | .errNMinExpiry => true
  | .snapArm _ => true
  | .snapDisarm _ => true
  | .snapshot => true
  | .sampleRecord _ _ => true
  | .burCrawlWrite _ _ => true
  | .extest _ => true
  | .idcode => true
  | .samplePreload _ => true
  | .clamp => true
  | .highz => true
  | .bypass => true
  | .unwrap _ _ => true
  | .eraseSlot _ _ => true
  | .decrypt _ _ => true
  | .nonce _ => true
  | .enrol _ => true
  | .revoke _ => true
  | .peerSet _ => true
  | .lcSeal _ => true
  | .lcRetire _ => true
  | .unlock _ => true
  | .commitSecver _ _ => true
  | .provision _ => true
  | .getVersion _ => true
  | .getCapabilities _ => true
  | .negotiateAlgorithms _ _ _ => true
  | .getDigests _ => true
  | .getCertificate _ _ _ _ => true
  | .challenge _ _ nc => nc.length == 32
  | .getMeasurements _ _ sign nc => nc.length == (if sign then 32 else 0)
  | .spdmUnsupportedRequest _ _ => true
  | .barWrite _ _ _ data => decide (1 ≤ data.length ∧ data.length ≤ 512)
  | .barRead _ _ _ len => decide (1 ≤ len ∧ len ≤ 4096)
  | .perstN _ _ => true
  | .pcieLinkTrain _ width => [1, 2, 4, 8, 16].contains width.toNat
  | .functionLevelReset _ => true
  | .msixWrite _ _ => true
  | .msixUnmask _ _ => true
  | .mgmtMessageCheck m => m.mac.length == 16 || m.mac.isEmpty
  | .location _ _ _ _ _ => true
  | .rungTarget _ => true
  | .event => true
  | .safeNotice _ => true
  | .regRead _ _ _ => true
  | .regWrite _ _ _ => true
  | .memWrite _ _ _ => true
  | .memRead _ _ _ => true
  | .entdaa _ => true
  | .setEndpointId _ _ => true
  | .getEndpointId => true
  | .getMctpVersionSupport => true
  | .getMessageTypeSupport _ => true
  | .getVendorDefinedMessageSupport _ => true
  | .arpRequest _ _ => true
  | .icmpEcho _ _ data => decide (data.length ≤ 1472)
  | .mgmtPortLinkChange _ _ => true
  | .descriptorCacheEmpty => true
  | .getTid => true
  | .setTid _ => true
  | .getPldmVersion _ => true
  | .getPldmTypes => true
  | .getPldmCommands _ => true
  | .queryDeviceIdentifiers => true
  | .getFirmwareParameters => true
  | .requestUpdate _ => true
  | .passComponentTable _ _ => true
  | .updateComponent _ _ => true
  | .requestFirmwareData _ _ => true
  | .transferComplete _ => true
  | .verifyComplete _ => true
  | .applyComplete _ => true
  | .activateFirmware _ _ => true
  | .getStatus _ => true
  | .cancelUpdateComponent _ => true
  | .cancelUpdate _ => true
  | .pldmIdleTimeout => true

end Sys2Proof
end

