-- ==== Sys2Proof/Safety.lean ====
section
/-! DEFINITION. What a safe run of the block is, and what a command leaves alone, in the terms that the statements use. -/

namespace Sys2Proof.Machine

/-- A step that goes on: neither a fault nor a refusal. -/
def goesOn : Host.Outcome State Fault Refusal → Bool
  | .next _ => true
  | _ => false

/-- The invariant of the block: the memory and the flash keep their canonical form, so that equal contents are equal
data, and the lifecycle state is one of the four of R408. -/
def Inv (s : State) : Bool := Memory.wf s.mem && Memory.wf s.flash && decide (s.nv.lc ≤ 3)

/-- A command can be sent, and the block is in a state of the invariant. -/
def sendable (i : Instr) (s : State) : Bool := i.wellFormed && Inv s

/-- The command answers a next state, of which P holds. -/
def Goes (i : Instr) (s : State) (P : State → Prop) : Prop := ∃ t, exec i s = .next t ∧ P t

/-- Every register outside the list keeps its stored value. -/
def RegsKept (l : List Nat) (s t : State) : Prop := ∀ o, o ∉ l → regGet o t = regGet o s

/-- Every register outside a range keeps its stored value. -/
def RegsOutside (a n : Nat) (s t : State) : Prop := ∀ o, o < a ∨ a + n ≤ o → regGet o t = regGet o s

/-- Every register of the block at a base keeps its stored value. -/
def RegsKeptIn (b : Nat) (s t : State) : Prop := ∀ o, b ≤ o → o < b + 0x10000 → regGet o t = regGet o s

/-- Every byte of memory outside a range reads as before. -/
def MemOutside (a n : Nat) (s t : State) : Prop := ∀ x, x < a ∨ a + n ≤ x → memGet x t = memGet x s

/-- Every core but one is as before. -/
def OtherCores (c : Nat) (s t : State) : Prop := ∀ k, k ≠ c → getCore k t = getCore k s

/-- The registers whose writes do nothing but what the access types of their fields say: no command, mode, selection or
window. -/
def plainReg : Blk → Nat → Bool
  | .hub, o => o != oHUB_RESET_CTL
  | .bur, o => !([oBUR_ERRN, oBUR_CFG, oBUR_CRAWL].contains o)
  | .drp, o => !([oDRP_RUNG_TARGET, oDRP_CFG].contains o)
  | .cab, o => o != oCAB_CMD
  | .pwr, o => !([oPWR_CTL, oPWR_RAMP_T_LO, oPWR_RAMP_T_HI, oPWR_RAMP_CTL].contains o)
  | .perf, o => !([oPERF_SNAP_CTL, oPERF_SRING_LO, oPERF_SRING_HI].contains o)
  | .sec, o => o == oSEC_EVENT
  | .fwu, o => o != oFWU_CMD && decide (o < 0x10000)
  | .qm, o => o != oQM_QCTL && decide (o < 0x40000)
  | .gzl, o => o != oGZL_CFG
  | .col, o => !([oCOL_CCTL, oCOL_CSEL].contains o)
  | .core, o => !([oCORE_ENG_CFG, oCORE_CAPTURE_CTL, oCORE_SAMPLE_CTL, oCORE_SAMPLE_SEED].contains o)
  | .mem, o => o != oMEM_PATROL
  | .clu, _ => true
  | .die, _ => true
  | .fab, _ => true
  | .host, _ => true

/-- The value of a field of an access type after a write that offers it v (R9). -/
def fieldAfter (a : Acc) (old v : Nat) : Nat :=
  match a with
  | .rw => v
  | .w1c => if v % 2 = 1 then 0 else old
  | .w1s => if v % 2 = 1 then 1 else old
  | _ => old

/-- The fields of a port's window that hold an occupancy now and its peak since the last read (R255). -/
def peakFields : List (Fld × Fld) :=
  (fFAB_HEADROOM_CUR_KIB, fFAB_HEADROOM_PEAK_KIB) :: (List.range 8).map fun v => (fDepthCur v, fDepthPeak v)

/-- The registers that count the granules of the stacks that have moved (R145). -/
def granRegs : List Nat := (List.range 20).map fun k => memB k + oMEM_GRANULES

/-- A bundle of core c issues with an effect on the control state alone: the bundle counts, the core is in RUN, and the next
bundle index is v; no register changes but those of the core and those of a list. -/
def Issued (c v : Nat) (l : List Nat) (s t : State) : Prop :=
  progPc c t = v % 65536 ∧ fget (coreB c) fCORE_PROG_STATUS_STATE t = 1 ∧
  fget (coreB c) fCORE_PROG_STATUS_SLOT t = fget (coreB c) fCORE_PROG_STATUS_SLOT s ∧
  fget (coreB c) fCORE_PROGRESS_BUNDLES t = (fget (coreB c) fCORE_PROGRESS_BUNDLES s + 1) % 2 ^ 32 ∧
  RegsKept ((coreB c + oCORE_PROG_STATUS) :: (coreB c + oCORE_PROGRESS) :: l) s t

/-- An instruction of the vector or a matrix engine of core c has run: the head of the queue ends with a status and nothing
has left the queue. -/
def Ended (c e : Nat) (x : EngInstr) (st : BitVec 8) (s t : State) : Prop :=
  (getCore c t).q = modAt e (fun l => { x with done := some st } :: l.tail) (getCore c s).q

/-- The registers that the flags of an engine instruction set (R82). -/
def flagRegs (c : Nat) : List Nat :=
  [coreB c + oCORE_ENG_FLAGS, coreB c + oCORE_ENG_CNT0, coreB c + oCORE_ENG_CNT1, coreB c + oCORE_ENG_CNT2]

/-- What a VX or MX instruction of core c that has run with a status leaves: the head of its queue is marked with the status,
no other core changes, and nothing of the package but the cores and the flag registers of the core. -/
def EngFrame (c e : Nat) (x : EngInstr) (st : BitVec 8) (s t : State) : Prop :=
  Ended c e x st s t ∧ OtherCores c s t ∧ RegsKept (flagRegs c) s t ∧ t = { s with cores := t.cores, regs := t.regs }

/-- The register VD of a VX slot holds these bytes from byte 0, its bytes beyond them are as before, and so is every other
vector register. -/
def VdHolds (c w : Nat) (l : List Byte) (s t : State) : Prop :=
  (∀ j < 256, (vregBytes (getCore c t) (vxVD w)).getD j 0 =
    if j < l.length then l.getD j 0 else (vregBytes (getCore c s) (vxVD w)).getD j 0) ∧
  ∀ v, v ≠ vxVD w → vregBytes (getCore c t) v = vregBytes (getCore c s) v

/-- The lanes that a masked operation leaves in VD: g where the mask lets the lane in, else the element as before (R80). -/
def maskedLanes (k : Core) (w fmt n : Nat) (g : Nat → Nat) : List Nat :=
  (List.range n).map fun j => if laneOn k w j then g j else elemBits fmt (vregBytes k (vxVD w)) j

/-- The flags of a core after an instruction: a flag is set if it was or if some active lane raised it (R67, R83). -/
def FlagsRise (c w n : Nat) (fl : Nat → Nat) (s t : State) : Prop :=
  ∀ f < 5, fget (coreB c) (flagEvt f).bit t = 1 ↔
    fget (coreB c) (flagEvt f).bit s = 1 ∨ ∃ j < n, laneOn (getCore c s) w j = true ∧ bitOf (fl j) f = true

/-- Command i runs the VX instruction of operation code op that waits at the head of the queue of core c: of its slot word w
and the state s, P tells the state that exec answers. In the safe state, or without a credit for its results, the engine
waits and nothing changes (R28, R31). -/
def VxRuns (c : Nat) (i : Instr) (op : Nat) (P : EngInstr → Nat → State → State → Prop) : Prop :=
  ∀ (x : EngInstr) (s : State), headOf c 2 s = some x → x.done = none → vxOp x.slot.toNat = op →
    vxEncodings x.slot.toNat = stOK →
    (engMayRun c 2 s = true → Goes i s (P x x.slot.toNat s)) ∧ (engMayRun c 2 s = false → Goes i s fun t => t = s)

/-- A lane-wise operation of R77: lane j takes g, converted to the format under RND and SAT, and its flags are those of g and
of the conversion. -/
def VxLanewise (c : Nat) (g : Nat → Core → Nat → Val × Nat) (x : EngInstr) (w : Nat) (s t : State) : Prop :=
  let k := getCore c s
  let r := fun j => encArith (vxOut w) (vxRnd w) (vxSat w) (g w k j).1
  EngFrame c 2 x stOK s t ∧ FlagsRise c w (vxLanes w) (fun j => orFlags (g w k j).2 (r j).2) s t ∧
  (∀ j < vxLanes w, elemBits (vxOut w) (vregBytes (getCore c t) (vxVD w)) j =
    if laneOn k w j then (r j).1 % 2 ^ fmtBits (vxOut w) else elemBits (vxOut w) (vregBytes k (vxVD w)) j) ∧
  ∀ v, v ≠ vxVD w → vregBytes (getCore c t) v = vregBytes k v

/-- A comparison of R77: mask bit j of VD says whether lane j of VA stands in the relation to lane j of VB. -/
def VxCompares (c : Nat) (rel : Val → Val → Bool) (x : EngInstr) (w : Nat) (s t : State) : Prop :=
  let k := getCore c s
  EngFrame c 2 x stOK s t ∧ RegsKept [] s t ∧
  (∀ j < vxLanes w, maskBit (getCore c t) (vxVD w) j =
    if laneOn k w j then rel (laneOf w (vxVA w) k j) (laneOf w (vxVB w) k j) else maskBit k (vxVD w) j) ∧
  ∀ v, v ≠ vxVD w → vregBytes (getCore c t) v = vregBytes k v

/-- A function of R78: lane j takes the value that the package computes, any NaN as the canonical one with NV. Where the
manual gives an exact result, the value is 0 with it, or lies within the manual's error bound, or is the exact result rounded
to nearest-even. -/
def VxFunction (c : Nat) (x : EngInstr) (w : Nat) (s t : State) : Prop :=
  let k := getCore c s
  let y := fun j => vxResult (vxOp w) (elemBits 0 (vregBytes k (vxVA w)) j)
  (∀ j neg n d, vxExact (vxOp w) (elemBits 0 (vregBytes k (vxVA w)) j) = .fin neg n d →
    (n = 0 → (decVal 0 (y j)).isZero = true) ∧
    (n ≠ 0 → withinUlps (vxUlps (vxOp w)) (decVal 0 (y j)) (.fin neg n d) = true ∨
      y j = (encVal 0 0 false (.fin neg n d)).1)) ∧
  EngFrame c 2 x stOK s t ∧ FlagsRise c w (vxLanes w) (fun j => if (decVal 0 (y j)).isNan then flNV else 0) s t ∧
  VdHolds c w (packElems 0 (maskedLanes k w 0 (vxLanes w) fun j => if (decVal 0 (y j)).isNan then 0x7FC00000 else y j)) s t

/-- A fetched command of a queue that had not ended has come to a phase; the queue is otherwise as before, and so is every
other queue. -/
def PhaseSet (q : Nat) (idx : BitVec 32) (p : CmdPhase) (s t : State) : Prop :=
  getQueue q t = { getQueue q s with
    cmds := (getQueue q s).cmds.map fun x => if x.idx = idx ∧ !cmdEnded x then { x with phase := p } else x } ∧
  ∀ j, j ≠ q → getQueue j t = getQueue j s

/-- QM_QCTL shows the end of a command with a status (R124). -/
def QctlSays (cmd q : Nat) (st : BitVec 8) (t : State) : Prop :=
  fget qmB fQM_QCTL_CMD t = cmd ∧ fget qmB fQM_QCTL_QID t = q ∧ fget qmB fQM_QCTL_BUSY t = 0 ∧
  fget qmB fQM_QCTL_STATUS t = st.toNat

/-- QM_QCTL shows the end of a command with a status, and no other register changes (R124). -/
def QctlShows (cmd q : Nat) (st : BitVec 8) (s t : State) : Prop := QctlSays cmd q st t ∧ RegsKept [qmB + oQM_QCTL] s t

/-- QM_QCTL shows the end of a command with a status, and no other register changes but the stacks' counts of granules that
have moved (R124, R145). -/
def QctlRead (cmd q : Nat) (st : BitVec 8) (s t : State) : Prop :=
  QctlSays cmd q st t ∧ RegsKept ((qmB + oQM_QCTL) :: granRegs) s t

/-- The images of a program object stand in the core stores of its cores: the ODT image, and the bundle image where the ODT
image does not overlap it (R90). -/
def ImagesPlaced (o : List Byte) (l : List ProgCore) (t : State) : Prop :=
  ∀ n e, l[n]? = some e →
    let b := (sectOf o 2).1 + 32 * ((l.take n).map fun x => x.nBund).sum
    let d := (sectOf o 3).1 + 64 * ((l.take n).map fun x => x.nOdt).sum
    (∀ i < 64 * e.nOdt, memGet (coreStore e.core + e.odtOff + i) t = o.getD (d + i) 0) ∧
    ∀ i < 32 * e.nBund, e.bundOff + i < e.odtOff ∨ e.odtOff + 64 * e.nOdt ≤ e.bundOff + i →
      memGet (coreStore e.core + e.bundOff + i) t = o.getD (b + i) 0

/-- The state with a command word written into CAB_CMD (R163). -/
def cabWritten (cmd : Nat) (timed : Bool) (s : State) : State :=
  fset cabB fCAB_CMD_CMD cmd (fset cabB fCAB_CMD_TIMED timed.toNat s)

/-- A Cabinet command has ended with a status: CAB_RESULT, CAB_CMD.BUSY and the event show it (R163, R173). -/
def CabShows (cmd : Nat) (st : BitVec 8) (s t : State) : Prop :=
  fget cabB fCAB_RESULT_CMD t = cmd ∧ fget cabB fCAB_RESULT_STATUS t = st.toNat ∧
  fget cabB fCAB_RESULT_SEQ t = (fget cabB fCAB_RESULT_SEQ s + 1) % 2 ^ (fCAB_RESULT_SEQ.hi + 1 - fCAB_RESULT_SEQ.lo) ∧
  fget cabB fCAB_CMD_BUSY t = 0 ∧ fget cabB fCAB_EVENT_CMD_DONE t = 1

/-- A control item waits on a port. -/
def ItemOn (p : Nat) (i : CtlItem) (t : State) : Prop := ∃ x, t.fab.ports[p]? = some x ∧ i ∈ x.items

/-- A frame has gone to every plane with a trained port (R211). -/
def DripSent (f : DripFrame) (s t : State) : Prop :=
  ∀ q < 8, ∀ p, planePort q s = some p → p < s.fab.ports.length → ItemOn p (.drip f) t

/-- One control item more waits on a port, and nothing else of the fabric changes. -/
def ItemQueued (p : Nat) (i : CtlItem) (s t : State) : Prop :=
  t.fab = { s.fab with ports := modAt p (fun x => { x with items := x.items ++ [i] }) s.fab.ports }

/-- The estimate after an exchange on plane q with offset o: the median over the planes whose offset is at most 4 ms old
(R192). -/
def estimateOf (q : Nat) (o : Int) (s : State) : Int :=
  median ((List.range 8).filterMap fun i =>
    match tget (fun _ => none) (tset (fun _ => none) q (some (o, s.clk.now)) s.drp.offsets) i with
    | none => none
    | some y => if elapsed y.2 (4 * ticksMs) s then none else some y.1)

/-- The sync state after an estimate (R195). -/
def nextSync (e : Int) (s : State) : Nat :=
  match syncState s with
  | 0 => 1
  | 1 => if withinNs e 4 ∧ 16 ≤ s.drp.inBand + 1 then 2 else 1
  | 4 => if withinNs e 4 ∧ 16 ≤ s.drp.inBand + 1 then 2 else 4
  | 2 => if withinNs e (driftNs s) then 2 else 4
  | 3 => if withinNs e (driftNs s) then 2 else 4
  | v => v

/-- The armed proposal is gone before its T, with its event, and the setpoint that it raised returns 10 µs later (R203,
R326). -/
def Aborted (a : ArmedProp) (s t : State) : Prop :=
  t.drp.prop = none ∧ fget drpB fDRP_RUNG_ARMED t = 0 ∧ fget drpB fDRP_EVENT_RUNG_ABORT t = 1 ∧
  t.pwr = if a.raised = true ∧ a.acked = true
    then { s.pwr with vcoreDue := some (s.clk.now + 10 * ticksUs,
      rungMv (if s.drp.floorWait || s.drp.floorEnd.isSome then domRung s else curRung s)) } else s.pwr

/-- The setpoint of VCORE around a switch from rung r to rung k (R326): that of a faster rung stands at once, that of a slower
one is due in 10 µs. -/
def VcoreSwitched (r k : Nat) (s t : State) : Prop :=
  (k < r → t.pwr.vcore = rungMv k ∧ t.pwr.vcoreDue = none) ∧
  (r < k → t.pwr.vcore = s.pwr.vcore ∧ t.pwr.vcoreDue = some (s.clk.now + 10 * ticksUs, rungMv k)) ∧
  (r = k → t.pwr.vcore = s.pwr.vcore ∧ t.pwr.vcoreDue = s.pwr.vcoreDue)

/-- The keeper has proposed rung k: a change in flight under the next SEQ with T 80 µs ahead, sent to every member (R202). -/
def Proposed (k : Nat) (s t : State) : Prop :=
  let seq := s.drp.seqLast + 1
  let T := s.clk.p + BitVec.ofNat 48 (768000 / divider (domRung s))
  (∃ c, t.drp.change = some c ∧ c.seq = seq ∧ c.k = BitVec.ofNat 3 k ∧ c.t = T ∧ c.t0 = s.clk.now) ∧
  t.drp.seqLast = seq ∧ t.drp.lastAbort = none ∧
  (∀ m ∈ members s, DripSent (.rungPropose (frameHdr m s) seq (BitVec.ofNat 3 k) T) s t) ∧
  t = { s with drp := t.drp, regs := t.regs, fab := t.fab }

/-- The power of a rail in a sample, in 0.1 mW (R462). -/
def railPower (l : List (Option (Nat × Nat))) (r : Nat) (s : State) : Nat :=
  match l.getD r none with
  | some x => x.1 * x.2
  | none => if elapsed (s.pwr.railT.getD r 0) (10 * ticksMs + 1) s then (railPeak r s).1 * (railPeak r s).2
    else fget pwrB (fRailV r) s * fget pwrB (fRailI r) s

/-- The limit L after 10 ms (R337). -/
def nextLimit (s : State) : Nat :=
  if s.pwr.lim ≤ 100 * capEff s then Nat.min (100 * capEff s) (s.pwr.lim + s.pwr.rate)
  else Nat.max (100 * capEff s) (s.pwr.lim - s.pwr.rate)

/-- An entry of the pre-ramp table is replaced, and nothing else changes. -/
def RampIs (e : Nat) (x : Ramp) (s t : State) : Prop :=
  t = { s with pwr := { s.pwr with ramps := modAt e (fun _ => x) s.pwr.ramps } }

/-- The Stepstool has acted on die d: its time is noted, PWR_STEP_ADMIT follows the admitted cores, nothing else changes. -/
def StoolMoved (d : Nat) (s t : State) : Prop :=
  t.stool.last = modAt d (fun _ => s.clk.now) s.stool.last ∧
  (∀ k < 4, fget pwrB ⟨oPWR_STEP_ADMIT, 8 * k + 7, 8 * k⟩ t = nDie k t % 256) ∧
  RegsKept [pwrB + oPWR_STEP_ADMIT] s t ∧ t = { s with regs := t.regs, stool := t.stool }

/-- A whole-package reset has happened (R252, R358, R386): every register, store and queue is as at power-up; the flash, the
record of what was sent and the waiting commands stay, and so does the fault log unless power was lost. -/
def PackageReset (lost : Bool) (s t : State) : Prop :=
  (∀ off, off ≠ burB + oBUR_STATUS → off ≠ burB + oBUR_LOG_HEAD → regGet off t = regReset off) ∧
  (lost = true → (∀ off, regGet off t = regReset off) ∧ t.bur = State.reset.bur) ∧
  (lost = false → fget burB fBUR_STATUS_CARRIED t = 1 ∧
    regGet (burB + oBUR_LOG_HEAD) t = regGet (burB + oBUR_LOG_HEAD) s ∧ t.bur = { State.reset.bur with log := s.bur.log }) ∧
  t.mem = [] ∧ t.cores = [] ∧ t.queues = [] ∧ t.cab = State.reset.cab ∧ t.sec = Sec.atReset ∧ t.gzl = Gzl.atReset ∧
  t.col = State.reset.col ∧ t.fwu = State.reset.fwu ∧ t.drp = State.reset.drp ∧ t.boot.phase = 0 ∧
  t.flash = s.flash ∧ t.nv = s.nv ∧ t.out = s.out ∧ t.pending = s.pending ∧
  t.clk = { State.reset.clk with now := s.clk.now }

/-- The hub firmware runs from a bank and has tested the clusters, and the stacks train (R352, R355). MGMT is RUN unless a
fault pair that reports for no die has failed. -/
def HubRuns (bank : Bool) (b : BootIn) (t : State) : Prop :=
  ((∀ w ∈ b.wireBad, (collectorDie w.toNat).isSome = true) → mgmtPlane t = 1) ∧
  fget hubB fHUB_BOOT_STEP t = 7 ∧ fget hubB fHUB_BOOT_BANK t = bank.toNat ∧ t.nv.active = bank ∧ t.nv.staged = false ∧
  (∀ k < 32, cluOk k t = (b.cluStoreOk.getLsbD k && decide (8 ≤ (goodCores b.goodPhys k).length))) ∧
  ∀ st < 20, fget (memB st) fMEM_STATUS_STATE t = 1

/-- Command i asks for a reset of the unit (1 core, 2 cluster, 3 partition, 4 compute part) with number n. -/
def ResetCmd (r : Requester) (u n : Nat) (i : Instr) : Prop :=
  (∃ c, i = .core r c ∧ u = 1 ∧ n = c.val) ∨ (∃ k, i = .cluster r k ∧ u = 2 ∧ n = k.val) ∨
  (∃ p, i = .partition r p ∧ u = 3 ∧ n = p.val) ∨ (i = .compute r ∧ u = 4 ∧ n = 0)

/-- An FWU command has ended with a status (R381). -/
def FwuShows (cmd : Nat) (st : BitVec 8) (s t : State) : Prop :=
  fget fwuB fFWU_RESULT_CMD t = cmd ∧ fget fwuB fFWU_RESULT_STATUS t = st.toNat ∧
  fget fwuB fFWU_RESULT_SEQ t = (fget fwuB fFWU_RESULT_SEQ s + 1) % 2 ^ (fFWU_RESULT_SEQ.hi + 1 - fFWU_RESULT_SEQ.lo) ∧
  fget fwuB fFWU_CMD_BUSY t = 0 ∧ fget fwuB fFWU_EVENT_DONE t = 1 ∧
  fget fwuB fFWU_BANK_ACTIVE t = t.nv.active.toNat ∧ fget fwuB fFWU_BANK_STAGED t = t.nv.staged.toNat

/-- A command of the security block may start: its requester may command, nothing of it waits or runs, MGMT is not paused
(R432). -/
def SecReady (r : Requester) (s : State) : Prop :=
  mayCommand r s = true ∧ secGet r fSEC_CMD_BUSY s = 0 ∧ s.sec.wait = [] ∧ s.sec.run = none ∧ mgmtPlane s ≠ 2

/-- The commands of the security block by their codes (R415). -/
def secCommands (r : Requester) (slot : Fin 16) (force : Bool) : List (Nat × Instr) :=
  [(1, .unwrap r slot), (2, .eraseSlot r slot), (3, .decrypt r slot), (4, .nonce r), (5, .enrol r), (6, .revoke r),
   (7, .peerSet r), (8, .lcSeal r), (9, .lcRetire r), (10, .unlock r), (11, .commitSecver r force), (12, .provision r)]

/-- The requester's own SEC_RESULT and SEC_DETAIL show the end of a command (R432). -/
def SecShows (r : Requester) (cmd : Nat) (x : SecRes) (s t : State) : Prop :=
  secGet r fSEC_RESULT_CMD t = cmd ∧ secGet r fSEC_RESULT_STATUS t = x.1.toNat ∧ secGet r fSEC_RESULT_CHECK t = x.2.1 ∧
  secGet r fSEC_RESULT_SEQ t = (secGet r fSEC_RESULT_SEQ s + 1) % 16 ∧ secGet r fSEC_DETAIL_DETAIL t = x.2.2 ∧
  secGet r fSEC_CMD_BUSY t = 0

/-- Every key slot but one is as before. -/
def OtherKeys (slot : Nat) (s t : State) : Prop := ∀ j, j ≠ slot → getKey j t = getKey j s

/-- The responder has answered a request of q: the answer is sent, q has come to a step, and request and answer stand among
the messages that signatures cover (R416, R451). -/
def SpdmSays (x : SpdmPeer) (step : Nat) (req : List Byte) (code : Nat) (body : List Byte) (s t : State) : Prop :=
  t.out = s.out ++ [.spdm x.q code body] ∧
  spdmPeer x.q t = some { x with step := step, t := s.clk.now, trans := x.trans ++ req ++ BitVec.ofNat 8 code :: body }

/-- The other requesters are as before, and nothing outside the responder changes. -/
def SpdmFrame (q : SpdmId) (s t : State) : Prop :=
  (∀ y, y ≠ q → spdmPeer y t = spdmPeer y s) ∧
  t = { s with spdm := { s.spdm with peers := t.spdm.peers }, out := t.out, freeCtr := t.freeCtr }

/-- The responder has answered ERROR, and its requester has come no further. -/
def SpdmRefuses (q : SpdmId) (err : Nat) (s t : State) : Prop :=
  t.out = s.out ++ [.spdm q 0x7F [BitVec.ofNat 8 err]] ∧ (spdmPeer q t).map SpdmPeer.step = (spdmPeer q s).map SpdmPeer.step

/-- The firmware update of a requester is at a step. -/
def Updating (q : SpdmId) (u : PldmUpd) (step : Nat) (s : State) : Prop :=
  mgmtUp s = true ∧ s.fwu.upd = some u ∧ u.q = q ∧ u.step = step

/-- A PLDM firmware-update answer: command, completion code, the update mode after it. -/
def PldmSays (cmd cc : Nat) (u : Option PldmUpd) (s t : State) : Prop :=
  t.out = s.out ++ [.pldm (256 * 5 + cmd) cc []] ∧ t.fwu = { s.fwu with upd := u }

/-- The staged bank changes and FWU_BANK shows it; nothing else but the update, the answers and the flash. -/
def BankFrame (staged : Bool) (s t : State) : Prop :=
  t.nv.staged = staged ∧ t.nv.marked = false ∧ fget fwuB fFWU_BANK_STAGED t = staged.toNat ∧
  RegsKept [fwuB + oFWU_BANK] s t ∧ t = { s with regs := t.regs, nv := t.nv, fwu := t.fwu, flash := t.flash, out := t.out }

/-- A request of a management port waits for the end of the pause of MGMT (R450). -/
def MgmtWaits (x : MgmtIn) (s t : State) : Prop := t = { s with mgmt := { s.mgmt with wait := s.mgmt.wait ++ [x] } }

/-- A management message is heard and asks for something, and is handled now (R442, R443, R447, R450). -/
def MsgHandled (m : MgmtMsg) (s : State) : Prop :=
  msgHeard m s = true ∧ bitOf m.flags.toNat 0 = false ∧ mgmtPlane s ≠ 2 ∧ (mgmtPlane s ≠ 0 ∨ s.boot.phase = 3)

/-- A management message that passes checks 1 to 3 and carries a MAC of its own. -/
def MsgKnown (m : MgmtMsg) (s : State) : Prop :=
  MsgHandled m s ∧ formatBad m = false ∧ lengthBad m = false ∧ authOk m s = true ∧ safeMsg m = false

/-- The state with one more answer sent. -/
def withOut (o : Out) (s : State) : State := { s with out := s.out ++ [o] }

/-- No Gorzel message and no WRITE waits, so a change of a port leaves none to be handled (R302, R315). -/
def GzQuiet (s : State) : Prop := s.gzl.wait = [] ∧ s.gzl.cont = none

/-- The package's instance has nothing to do for a change of its SUMP section (R309): it does not work, or no drain runs and
none is to start. -/
def sumpIdle (s : State) : Bool := !gzUp s || (!sumpHold s && s.gzl.sump == 0)

/-- Something of the link sessions waits for the end of the pause of MGMT (R252). -/
def FabWaits (x : FabWait) (s t : State) : Prop := t = { s with fab := { s.fab with wait := s.fab.wait ++ [x] } }

/-- The times of the uncorrectable codewords of the last 1 ms on a port after a cell with n of them (R220). -/
def badAfter (x : Port) (n : Nat) (s : State) : List Nat :=
  (List.replicate (Nat.min n 9) s.clk.now ++ x.badCw.filter fun t => !elapsed t ticksMs s).take 9

/-- A cell of an egress queue has left on a port: the cells behind it follow, the round robin stands at v (R228). -/
def CellSent (p v rv rs : Nat) (x : Port) (c : EgCell) (l : List EgCell) (s t : State) : Prop :=
  let y := getPort p t
  (∃ o, t.out = s.out ++ .cell p (x.txSeq + 1) c :: o) ∧ (∃ more, y.egress.getD v [] = l ++ more) ∧
  y.slots = (x.slots + 1) % 200 ∧ y.txSeq = x.txSeq + 1 ∧ y.rrVl = rv ∧ y.rrSent = rs ∧
  fget (fabB p) fFAB_TX_PKTS_COUNT t = (match c with
    | .payload _ true _ => (fget (fabB p) fFAB_TX_PKTS_COUNT s + 1) % 2 ^ 32
    | _ => fget (fabB p) fFAB_TX_PKTS_COUNT s) ∧
  t.mem = s.mem ∧ t.cores = s.cores

/-- A packet can be taken from a port (R222, R252): the port is up, or its cells are in the Sump; the package is not safe. -/
def pktHere (p : Nat) (k : Packet) (s : State) : Bool :=
  (portUp p s || decide (cellsOf k.data.length ≤ pairCells (getPort p s) k.vl.val)) && !isSafe s

/-- A packet reaches the destination's checks 3 and on: it can be taken, its key and tag check, it reads in clear as c, and its
source's entry is not INVALID (R241). -/
def PktIn (p : Nat) (k c : Packet) (s : State) : Prop :=
  pktHere p k s = true ∧ pktOpened k s = some c ∧ entState (entryOf k.src s) ≠ 0

/-- The cells of a packet have left the Sump, from its pair's headroom, shared space and reserve in this order (R235). -/
def PktFreed (p : Nat) (k : Packet) (s t : State) : Prop :=
  let x := getPort p s
  let n := cellsOf k.data.length
  let h := Nat.min n (x.inHead.getD k.vl.val 0)
  let g := Nat.min (n - h) (x.inShared.getD k.vl.val 0)
  let r := Nat.min (n - h - g) (x.inRes.getD k.vl.val 0)
  (getPort p t).headroom = x.headroom - h ∧ (getPort p t).inHead = modAt k.vl.val (· - h) x.inHead ∧
  (getPort p t).inShared = modAt k.vl.val (· - g) x.inShared ∧
  (getPort p t).inRes = modAt k.vl.val (· - r) x.inRes

/-- An outstanding SX instruction has ended with a status (R242, R243). -/
def RemoteEnds (tag : InstrTag) (x : EngInstr) (st : BitVec 8) (s t : State) : Prop :=
  findRemote tag t = none ∧ Ended tag.core.val 3 x st s t ∧ OtherCores tag.core.val s t

/-- Every entry of the chamber table but one is as before. -/
def OtherChs (id : Nat) (s t : State) : Prop := ∀ j, j ≠ id → getCh j t = getCh j s

/-- COL_RESULT shows the end of a command of COL_CCTL, and nothing waits (R292). -/
def ColShows (cmd id : Nat) (st : BitVec 8) (t : State) : Prop :=
  fget colB fCOL_RESULT_CMD t = cmd ∧ fget colB fCOL_RESULT_STATUS t = st.toNat ∧ fget colB fCOL_RESULT_ID t = id ∧
  fget colB fCOL_CCTL_BUSY t = 0 ∧ t.col.wait = none

/-- The running request of a chamber, if there is one, has ended in its communication queue with a status and DETAIL. -/
def ReqEnds (id : Nat) (st : BitVec 8) (detail : Word) (s t : State) : Prop :=
  ∀ r, (getCh id s).req = some r → ∀ c ∈ (getQueue (chComm (getCh id s)) s).cmds, c.idx = r.idx →
    c.phase = .started → { c with phase := .ended st detail } ∈ (getQueue (chComm (getCh id s)) t).cmds

/-- A chamber has stopped (R283, R285): it is STALLED with no request, COL_EVENT and COL_LAST_STALL say so, its running
request has ended, its queue does not stay ACTIVE, and no byte of memory and no other chamber changes. -/
def ChStalled (id : Nat) (st : BitVec 8) (detail : Word) (raiser : Nat) (s t : State) : Prop :=
  (getCh id t).st = 4 ∧ (getCh id t).req = none ∧ (getCh id t).desc = (getCh id s).desc ∧
  (getCh id t).cseq = (getCh id s).cseq ∧ OtherChs id s t ∧ ReqEnds id st detail s t ∧
  (getQueue (chComm (getCh id s)) t).st ≠ .active ∧
  fget colB fCOL_EVENT_STALL t = 1 ∧ fget colB fCOL_LAST_STALL_STATUS t = st.toNat ∧
  fget colB fCOL_LAST_STALL_ID t = id ∧ fget colB fCOL_LAST_STALL_RANK t = raiser % 1024 ∧ t.mem = s.mem

/-- A step of a request has started (R267, R277, R278): it counts as late or not, a late step 0 in TIMED mode goes on in credited
mode, and no message that has not left may leave; or a send failed and the chamber stopped. No other chamber changes. -/
def StepStarted (id : Nat) (r : ChReq) (late : Bool) (s t : State) : Prop :=
  OtherChs id s t ∧
  fget colB fCOL_LATE_STEPS_COUNT t = (fget colB fCOL_LATE_STEPS_COUNT s + late.toNat) % 2 ^ 32 ∧
  (((getCh id t).st = 4 ∧ (getCh id t).req = none) ∨
    ((getCh id t).st = (if (getCh id s).st = 2 ∧ r.step = 0 ∧ late = true then 3 else (getCh id s).st) ∧ ∃ q, (getCh id t).req = some q ∧ q.bytes = r.bytes ∧ q.idx = r.idx ∧
      q.step = r.step ∧ q.going = true ∧ q.start = s.clk.pCount ∧ q.late = r.late + late.toNat ∧
      ∀ m ∈ q.unsent, mayLeave (getCh id t) q m t = false))

/-- The instance handles a Gorzel message when it arrives: nothing waits before it (R302). -/
def gzFree (s : State) : Bool := gzOn s && s.gzl.wait.isEmpty

/-- A Gorzel message that arrives waits: MGMT is PAUSED, or a WRITE waits for its drain (R302, R315). -/
def gzBusy (s : State) : Bool :=
  fget hostB fHOST_MGMT_LOCATED s == 1 && (mgmtPlane s == 2 || (mgmtPlane s == 1 && (match s.gzl.cont with
    | none => false
    | some c => c.res.isNone)))

/-- No Gorzel message is received: the package has no address, or MGMT neither runs nor pauses. -/
def gzDeaf (s : State) : Bool :=
  fget hostB fHOST_MGMT_LOCATED s != 1 || (mgmtPlane s != 1 && mgmtPlane s != 2)

/-- A Gorzel message waits behind those that wait (R302). -/
def GzWaits (m : GzlIn) (s t : State) : Prop := t = { s with gzl := { s.gzl with wait := s.gzl.wait ++ [m] } }

/-- A Gorzel message waits for its reply, and has gone out unless it is a WRITE whose destination has announced a pause (R303,
R315). -/
def GzSent (dest : Option (BitVec 19)) (body : GzlBody) (s t : State) : Prop :=
  ∃ m ∈ t.gzl.msgs, m.dest = dest ∧ m.body = body ∧ (gzHeld dest body s = false → .gzlSend m ∈ t.out)

/-- A WRITE of these operations goes to a package under the epoch in force (R301). -/
def GzWritten (e : BitVec 19) (ops : List GzlOp) (s t : State) : Prop :=
  ∃ w : GzlWrite, GzSent (some e) (.write w) s t ∧ w.ops = ops ∧ w.epoch = regGet (gzlB + oGZL_EPOCH) s ∧
    w.sender = ownEid s ∧ w.reserved0 = true

/-- The state record that answers CLAIM (R300). -/
def gzRecordOf (st : BitVec 8) (s : State) : Out :=
  .gzlState st ((List.range 32).map fun p => portState p s) s.gzl.rows (fget drpB fDRP_STATUS_SYNC s)
    (regGet (gzlB + oGZL_WSEQ) s)

/-- The instance has answered NOT_LEADER with the holder that it knows, and done nothing else (R304). -/
def GzNotLeader (code : Nat) (s t : State) : Prop :=
  t.out = s.out ++ [.gzlReply code stNOTLEADER
    (BitVec.ofNat 32 (if s.gzl.yieldTo = 0x7FFFF then gzHolder s else s.gzl.yieldTo).toNat)] ∧
  fget gzlB fGZL_EVENT_NOT_LEADER t = 1 ∧ t.gzl = s.gzl ∧ t.mem = s.mem ∧ t.cores = s.cores ∧ t.fab = s.fab

/-- The reaction to a fault at package x (R316): every slice that holds it is stopped, SLICE_STOP goes to the members of
those that were not, and their jobs' fault is reported. -/
def GzReacted (x : BitVec 19) (cause port : BitVec 8) (s t : State) : Prop :=
  ∀ i ∈ s.gzl.slices, x ∈ i.members → { i with stopped := true } ∈ t.gzl.slices ∧
    (i.stopped = false → GzSent none (.jobFault i.id cause x port) s t ∧
      ∀ y ∈ i.members, y ≠ ownEid s → GzWritten y [.sliceStop i.id] s t)

end Sys2Proof.Machine
end

