-- ==== Sys2Proof/Certificates/Slice0/Obligations.lean ====
section
/-! DEFINITION. The statements about the model, in the order of OBLIGATIONS.json: the machine as a whole, then the commands
family by family in the order of the opcode table. Each says of every command that it names that exec answers a next state,
which one, and what stays as it was. -/

open Sys2Proof Sys2Proof.Machine

/-- A step takes the command at the front of the queue and runs it with the queue's rest (log entry 2). -/
def Obligations.StepRunsFront : Prop :=
  ∀ (c : Instr) (s : State), step { s with pending := c :: s.pending } = exec c s

/-- With no command waiting, one NCLK edge passes once the root PLL has locked; that an empty queue lets time pass is the
model's choice (log entry 2). -/
def Obligations.EmptyQueueTick : Prop :=
  ∀ s : State, s.pending = [] → ∃ t, step s = .next t ∧ (s.clk.locked = false → t = s) ∧
    (s.clk.locked = true →
      t.clk.now = s.clk.now + 1 ∧ t.clk.w = s.clk.w + 1 ∧
      t.clk.epoch = (if s.clk.w = 0xFFFFFFFFFFFF then s.clk.epoch + 1 else s.clk.epoch) ∧
      t.clk.p = s.clk.p + BitVec.ofNat 48 ((s.clk.pFrac + 6) / divider (domRung s)) ∧
      t.clk.pFrac = (s.clk.pFrac + 6) % divider (domRung s) ∧
      ((∀ n, s.drp.floorEnd = some n → 6 < n) →
        t = { s with clk := t.clk, regs := t.regs, perf := t.perf, drp := t.drp, host := t.host, mgmt := t.mgmt, pwr := t.pwr,
                     fab := t.fab } ∧
        fget drpB fDRP_RUNG_CEILING t = ownCeiling s ∧ (ownCeiling s = fget drpB fDRP_RUNG_CEILING s → t.fab = s.fab) ∧
        curRung t = curRung s ∧ (s.pwr.vcoreDue = none → t.pwr = s.pwr) ∧
        ∀ x, s.pwr.vcoreDue = some x → t.pwr = (if x.1 ≤ s.clk.now + 1 then { s.pwr with vcore := x.2, vcoreDue := none }
          else s.pwr)) ∧
      (∀ n, s.drp.floorEnd = some n → n ≤ 6 → fget pwrB fPWR_STATUS_FLOOR t = 0 ∧ curRung t = domRung s ∧
        t.drp.floorEnd = none ∧ t.mem = s.mem))

/-- The state after reset, as the manual gives it. -/
def Obligations.ResetValues : Prop :=
  (∀ off, regGet off State.reset = regReset off) ∧
  regGet (hubB + oHUB_PART_ID) State.reset = 0x6400B000 ∧ regGet (hubB + oHUB_RESET_GEN) State.reset = 0x01010101 ∧
  ctrlPlane State.reset = 0 ∧ dataPlane State.reset = 0 ∧ mgmtPlane State.reset = 0 ∧
  State.reset.cab.cur = presetStruct ∧ State.reset.cab.cur.expert = 0 ∧ State.reset.cab.cur.gen = 0 ∧
  State.reset.cab.prev = none ∧ State.reset.cab.shadow = none ∧
  (∀ p < 32, portState p State.reset = 0 ∧ fget (fabB p) fFAB_STATUS_PLANE State.reset = p % 8) ∧
  (∀ e, entState (entryOf e State.reset) = 0) ∧ (∀ q, (getQueue q State.reset).st = .disabled) ∧
  (∀ f, State.reset.host.msixEn.getD f false = false) ∧ (∀ i, (getSlot i State.reset).prog = none) ∧
  State.reset.pending = []

/-- The invariant holds of the state after reset. -/
def Obligations.ResetInv : Prop := Inv State.reset = true

/-- Every step goes on and keeps the invariant, from every state that has it. -/
def Obligations.StepKeepsInv : Prop := ∀ s : State, Inv s = true → ∃ t, step s = .next t ∧ Inv t = true

/-- R408: LC, FW_SECVER and KEYSET never fall, over all commands; KEYSET stays at its largest value by the model's choice. -/
def Obligations.CountersNeverFall : Prop :=
  ∀ s : State, ∃ t, step s = .next t ∧
    s.nv.lc ≤ t.nv.lc ∧ s.nv.secver.toNat ≤ t.nv.secver.toNat ∧ s.nv.keyset.toNat ≤ t.nv.keyset.toNat

/-- Every command answers a next state; the queue is as before, what was sent stays sent, time does not run back. -/
def Obligations.CommandFrame : Prop :=
  ∀ (i : Instr) (s : State), Goes i s fun t =>
    t.pending = s.pending ∧ (∃ l, t.out = s.out ++ l) ∧ s.clk.now ≤ t.clk.now

/-! Registers (R7 to R12, R188, R394). -/

/-- REGISTER_WRITE by the access types of the fields (R8, R9). -/
def Obligations.RegisterWriteByAccess : Prop :=
  ∀ (r : Requester) (off val : BitVec 32) (b : Blk) (base : Nat) (d : RegDesc) (f : FieldDesc) (s : State),
    regBlock off.toNat = some (b, base) → plainReg b (off.toNat - base) = true → regDesc off.toNat = some d →
    f ∈ d.fields → off.toNat % 4 = 0 → regStatus r off.toNat true s = stOK →
    Goes (.registerWrite r off 4 val 0) s fun t =>
      fget base ⟨off.toNat - base, f.hi, f.lo⟩ t =
        fieldAfter f.acc (fget base ⟨off.toNat - base, f.hi, f.lo⟩ s) (bitsOf val.toNat f.hi f.lo) ∧
      RegsKept [off.toNat] s t ∧ t = { s with regs := t.regs }

/-- R10, with the count of R11: hardware sets a W1C bit in the cycle of a write of its register. -/
def Obligations.SetWins : Prop :=
  ∀ (r : Requester) (b : Blk) (base : Nat) (e : Evt) (off val sets : BitVec 32) (s : State),
    regBlock off.toNat = some (b, base) → e ∈ blkEvts b → off.toNat = base + e.bit.off →
    bitOf sets.toNat e.bit.lo = true → regStatus r off.toNat true s = stOK →
    Goes (.registerWrite r off 4 val sets) s fun t =>
      fget base e.bit t = 1 ∧ fget base e.cnt t = Nat.min (fget base e.cnt s + 1) 0xFFFF

/-- R7: a dropped access has no effect, reads 0, and is logged as a corrected REG_ACCESS fault of its requester. -/
def Obligations.MisalignedAccess : Prop :=
  ∀ (r : Requester) (off val : BitVec 32) (size : Nat) (s : State),
    (size ≠ 4 ∨ off.toNat % 4 ≠ 0 →
      Goes (.registerWrite r off size val 0) s fun t =>
        RegsOutside burB 0x100000 s t ∧
        t = { s with regs := t.regs, bur := t.bur, perf := t.perf, host := t.host, mgmt := t.mgmt } ∧
        fget burB fBUR_EVENT_CORRECTED t = 1 ∧
        fget burB eBUR_EVENT_CORRECTED.cnt t = Nat.min (fget burB eBUR_EVENT_CORRECTED.cnt s + 1) 0xFFFF ∧
        ∃ x, tget (fun _ => none) t.bur.last (reqSource r) = some x ∧ x.code = 0x01 ∧ x.cls = 0) ∧
    (off.toNat % 4 ≠ 0 → Goes (.rcFieldRead r off 0 0) s fun t => t.out = s.out ++ [.regData r off.toNat 0])

/-- R12, R255, R256: RC_FIELD_READ with n events for the low and m for the high field in the same cycle; a peak starts again at
the occupancy of that time. -/
def Obligations.RcFieldRead : Prop :=
  (∀ (r : Requester) (off : BitVec 32) (b : Blk) (base : Nat) (d : RegDesc) (n m : Nat) (s : State),
    regBlock off.toNat = some (b, base) → regDesc off.toNat = some d → (d.fields.any fun f => f.acc == .rc) = true →
    off.toNat ≠ perfB + oPERF_SRING_STAT → (b = .fab → off.toNat - base ∉ oFAB_SUMP :: peakFields.map fun x => x.2.off) →
    off.toNat % 4 = 0 → regStatus r off.toNat false s = stOK →
    Goes (.rcFieldRead r off m n) s fun t =>
      t.out = s.out ++ [.regData r off.toNat (regGet off.toNat s)] ∧
      (∀ f ∈ d.fields, f.acc = .rc → fget base ⟨off.toNat - base, f.hi, f.lo⟩ t = Nat.min (if f.lo = 0 then n else m) 0xFFFF) ∧
      RegsKept (off.toNat :: (blkEvts b).map fun e => base + e.bit.off) s t) ∧
  (∀ (r : Requester) (p : Fin 32) (cur peak : Fld) (s : State), (cur, peak) ∈ peakFields →
    let off : BitVec 32 := BitVec.ofNat 32 (fabB p.val + peak.off)
    regStatus r off.toNat false s = stOK →
    Goes (.rcFieldRead r off 0 0) s fun t =>
      t.out = s.out ++ [.regData r off.toNat (regGet off.toNat s)] ∧
      fget (fabB p.val) peak t = fget (fabB p.val) cur s ∧ RegsKept [off.toNat] s t) ∧
  (∀ (r : Requester) (s : State),
    let off : BitVec 32 := BitVec.ofNat 32 (fabB 0 + oFAB_SUMP)
    regStatus r off.toNat false s = stOK →
    Goes (.rcFieldRead r off 0 0) s fun t =>
      t.out = s.out ++ [.regData r off.toNat (regGet off.toNat s)] ∧
      fget (fabB 0) fFAB_SUMP_USED_PEAK_KIB t =
        (sharedUsed s + 3) / 4 % 2 ^ (fFAB_SUMP_USED_PEAK_KIB.hi + 1 - fFAB_SUMP_USED_PEAK_KIB.lo) ∧
      RegsKept [off.toNat] s t) ∧
  (∀ (r : Requester) (m : Nat) (s : State),
    let off : BitVec 32 := BitVec.ofNat 32 (perfB + oPERF_SRING_STAT)
    regStatus r off.toNat false s = stOK →
    Goes (.rcFieldRead r off m 0) s fun t =>
      t.out = s.out ++ [.regData r off.toNat (sringWord oPERF_SRING_STAT s)] ∧
      (getSRing (sringSel s) t).drop.toNat = Nat.min m 0xFFFF)

/-- R188 and R394: the reads that latch. -/
def Obligations.LatchedReads : Prop :=
  (∀ (r : Requester) (s : State), regStatus r (drpB + oDRP_W_LO) false s = stOK →
    Goes (.drpWLoRead r) s fun t =>
      t = { s with latches := t.latches, out := s.out ++ [.regData r (drpB + oDRP_W_LO) (s.clk.w.setWidth 32)] } ∧
      getLatch r (drpB + oDRP_W_HI) t = BitVec.ofNat 32 (s.clk.epoch.toNat * 2 ^ 16 + s.clk.w.toNat / 2 ^ 32) ∧
      getLatch r (drpB + oDRP_P_LO) t = s.clk.p.setWidth 32 ∧
      getLatch r (drpB + oDRP_P_HI) t = (s.clk.p >>> 32).setWidth 32 ∧
      ∀ r' o, o < 2 ^ 32 → reqNo r' ≠ reqNo r → getLatch r' o t = getLatch r' o s) ∧
  (∀ (r : Requester) (off : BitVec 32) (b : CtrBlk) (i : Nat) (s : State),
    ctrReg off.toNat = some (b, i, 0) → off.toNat % 4 = 0 → regStatus r off.toNat false s = stOK →
    Goes (.cntLiveLoRead r off) s fun t =>
      t = { s with latches := t.latches, out := s.out ++ [.regData r off.toNat ((ctrGet b i s).live.setWidth 32)] } ∧
      getLatch r (off.toNat + 4) t = ((ctrGet b i s).live >>> 32).setWidth 32 ∧
      ∀ r' o, o < 2 ^ 32 → reqNo r' ≠ reqNo r → getLatch r' o t = getLatch r' o s) ∧
  (∀ (r : Requester) (off : BitVec 32) (b : CtrBlk) (i : Nat) (s : State),
    ctrReg off.toNat = some (b, i, 2) → off.toNat % 4 = 0 → regStatus r off.toNat false s = stOK →
    Goes (.cntSnapLoRead r off) s fun t =>
      t = { s with latches := t.latches, out := s.out ++ [.regData r off.toNat ((ctrGet b i s).snap.setWidth 32)] } ∧
      getLatch r (off.toNat + 4) t = ((ctrGet b i s).snap >>> 32).setWidth 32 ∧
      ∀ r' o, o < 2 ^ 32 → reqNo r' ≠ reqNo r → getLatch r' o t = getLatch r' o s)

/-! Hand-offs (R31 to R36). -/

/-- R31, R34 to R36, R183: the credits of a hand-off. -/
def Obligations.HandoffCredits : Prop :=
  ∀ (h : HandoffId) (entry : List (BitVec 8)) (n : Nat) (s : State),
    let k := hoKey h
    let x := getHo k s
    let Only : State → Prop := fun t => t = { s with handoffs := t.handoffs } ∧ ∀ j, j ≠ k → getHo j t = getHo j s
    (hoStands h s = true → (Goes (.handoffEntrySend h entry) s fun t => t = s) ∧ Goes (.creditReturn h n) s fun t => t = s) ∧
    (x.credits = 0 → Goes (.handoffEntrySend h entry) s fun t => t = s) ∧
    (x.inReset = true → Goes (.creditReturn h n) s fun t => t = s) ∧
    (hoStands h s = false →
      (x.credits ≠ 0 → Goes (.handoffEntrySend h entry) s fun t => Only t ∧
        getHo k t = { x with credits := x.credits - 1, entries := x.entries ++ [entry] }) ∧
      (x.inReset = false → x.credits + n ≤ hoDepth k →
        ((∀ e ∈ s.bur.held, k ≠ 6656 + e.1) → Goes (.creditReturn h n) s fun t => Only t ∧
          getHo k t = { x with credits := x.credits + n, entries := x.entries.drop n }) ∧
        (∀ d, h = .dieBureau d →
          let l := (s.bur.held.filter fun e => e.1 == d.val).map Prod.snd
          let m := Nat.min l.length (x.credits + n)
          Goes (.creditReturn h n) s fun t =>
            getHo k t = { x with credits := x.credits + n - m, entries := x.entries.drop n ++ l.take m } ∧
            (t.bur.held.filter fun e => e.1 == d.val).map Prod.snd = l.drop m ∧
            t = { s with handoffs := t.handoffs, bur := { s.bur with held := t.bur.held } })) ∧
      (x.inReset = false → hoDepth k < x.credits + n → fget burB fBUR_CFG_STOP_EN s = 0 →
        (∀ d, collectorDie (hoConsumer h) = some d → collectorFree (d % 4) s = true) →
        Goes (.creditReturn h n) s fun t =>
          (getHo k t).credits = hoDepth k ∧ fget burB fBUR_EVENT_FATAL t = 1 ∧ isSafe t = true))

/-! Bundles and control operations (R94 to R97). -/

/-- R97: NEXT, SETLC, LOOPEND, WAIT_SYNC, FENCE and WAIT_PACE on a core that may issue. -/
def Obligations.ControlOperations : Prop :=
  ∀ (c : Fin 256) (r : RunProg) (s : State), issuing c.val s = some r →
    let pc := progPc c.val s
    let k := getCore c.val s
    let mine := fun w : Waiter => w.isCore == true && w.id == c.val && w.idx == pc
    (Goes (.next c) s fun t => Issued c.val (pc + 1) [] s t ∧ t = { s with regs := t.regs, perf := t.perf }) ∧
    (∀ (lc : Fin 8) (n : BitVec 20), Goes (.setlc c lc n) s fun t =>
      Issued c.val (pc + 1) [] s t ∧ OtherCores c.val s t ∧
      getCore c.val t = { k with lc := modAt lc.val (fun _ => n) k.lc } ∧
      t = { s with regs := t.regs, perf := t.perf, cores := t.cores }) ∧
    (∀ (lc : Fin 8) (target : BitVec 16),
      (k.lc.getD lc.val 0 = 0 → Goes (.loopend c lc target) s fun t =>
        Issued c.val (pc + 1) [] s t ∧ t = { s with regs := t.regs, perf := t.perf }) ∧
      (k.lc.getD lc.val 0 ≠ 0 → Goes (.loopend c lc target) s fun t =>
        Issued c.val target.toNat [] s t ∧ OtherCores c.val s t ∧
        getCore c.val t = { k with lc := modAt lc.val (fun x => x - 1) k.lc } ∧
        t = { s with regs := t.regs, perf := t.perf, cores := t.cores })) ∧
    (∀ (slot : Fin 128) (target : BitVec 32), let a := syncSlot r slot.val s
      slotStatus c.val a s = stOK →
      ((∀ w ∈ s.waiters, mine w = false) → marksIn a 4 s = [] → reaches32 (memW a s) target = true →
        Goes (.waitSync c slot target) s fun t =>
          Issued c.val (pc + 1) granRegs s t ∧ t = { s with regs := t.regs, perf := t.perf, chans := t.chans }) ∧
      (∀ w, s.waiters.find? mine = some w → w.woken = true → Goes (.waitSync c slot target) s fun t =>
        Issued c.val (pc + 1) [] s t ∧
        t = { s with regs := t.regs, perf := t.perf, waiters := s.waiters.filter fun y => !mine y })) ∧
    (enginesIdle c.val s = true → Goes (.fence c) s fun t =>
      Issued c.val (pc + 1) [] s t ∧ t = { s with regs := t.regs, perf := t.perf }) ∧
    (∀ offset : BitVec 39, reaches48 s.clk.p (r.t0 + offset.setWidth 48) = true → Goes (.waitPace c offset) s fun t =>
      Issued c.val (pc + 1) [] s t ∧ t = { s with regs := t.regs, perf := t.perf })

/-- R96, R97: the bundle does not issue until the condition of its control operation holds. A sync slot whose place cannot be
used stops the program with the status of the range check (R25, R41), an unbound one with FORMAT_INVALID and one that is no
place of an object with DENIED by the model's choice (log entries 16 and 81). -/
def Obligations.ControlWaits : Prop :=
  ∀ (c : Fin 256) (r : RunProg) (s : State), issuing c.val s = some r →
    let pc := progPc c.val s
    let mine := fun w : Waiter => w.isCore == true && w.id == c.val && w.idx == pc
    let Waits : State → Prop := fun t =>
      progPc c.val t = pc ∧ fget (coreB c.val) fCORE_PROG_STATUS_STATE t = 2 ∧
      RegsKept [coreB c.val + oCORE_PROG_STATUS] s t
    (enginesIdle c.val s = false →
      (Goes (.fence c) s fun t => Waits t ∧ t = { s with regs := t.regs }) ∧
      (Goes (.endProgram c) s fun t => Waits t ∧ t = { s with regs := t.regs })) ∧
    (∀ offset : BitVec 39, reaches48 s.clk.p (r.t0 + offset.setWidth 48) = false → Goes (.waitPace c offset) s fun t =>
      Waits t ∧ t = { s with regs := t.regs }) ∧
    (∀ (slot : Fin 128) (target : BitVec 32), let a := syncSlot r slot.val s
      slotStatus c.val a s = stOK →
      ((∀ w ∈ s.waiters, mine w = false) →
        (marksIn a 4 s = [] → reaches32 (memW a s) target = false → Goes (.waitSync c slot target) s fun t =>
          progPc c.val t = pc ∧ fget (coreB c.val) fCORE_PROG_STATUS_STATE t = 2 ∧
          RegsKept ((coreB c.val + oCORE_PROG_STATUS) :: granRegs) s t ∧
          t = { s with regs := t.regs, perf := t.perf, chans := t.chans,
                       waiters := s.waiters ++ [⟨true, c.val, pc, a, target, false⟩] }) ∧
        ((readAll a 4 s).2 = true → Goes (.waitSync c slot target) s fun t =>
          progPc c.val t = pc ∧ fget (coreB c.val) fCORE_PROG_STATUS_STATE t = 2 ∧ t.mem = s.mem ∧ t.cores = s.cores ∧
          t.waiters = s.waiters ++ [⟨true, c.val, pc, a, target, false⟩])) ∧
      (∀ w, s.waiters.find? mine = some w → w.woken = false → Goes (.waitSync c slot target) s fun t =>
        Waits t ∧ t = { s with regs := t.regs })) ∧
    (∀ (slot : Fin 128) (v : BitVec 32), let st := slotStatus c.val (syncSlot r slot.val s) s
      st ≠ stOK →
      let Stops : State → Prop := fun t => progPc c.val t = pc ∧ fget (coreB c.val) fCORE_PROG_STATUS_STATE t = 3 ∧
        fget (coreB c.val) fCORE_PROG_FAULT_STATUS t = st.toNat ∧ fget (coreB c.val) fCORE_PROG_FAULT_PC t = pc ∧
        t.mem = s.mem
      Goes (.waitSync c slot v) s Stops ∧ Goes (.signal c slot v) s Stops)

/-- R96: a bundle issues whole or not at all. -/
def Obligations.BundleIssueWhole : Prop :=
  ∀ (c : Fin 256) (r : RunProg) (s : State), issuing c.val s = some r → progPc c.val s < r.nBund →
    let a := coreStore c.val + r.bundOff + 32 * progPc c.val s
    let b := memBytes a 32 s
    let l := (List.range 4).map fun e => (e, bundleSlot b e)
    let ctrl := leNat (bytesAt b 0 8)
    let k := getCore c.val s
    marksIn a 32 s = [] → (∀ x ∈ l, x.1 ≠ 2 → slotOp x.1 x.2 ≠ 0 → marksIn (odtAddr c.val r x.2) 64 s = []) →
    bitsOf ctrl 63 60 = 0 → bitsOf ctrl 38 0 = 0 →
    (lecOk c.val ctrl s = true → roomOk c.val l s = true → (∀ x ∈ l, slotCheck c.val x.1 x.2 r s = stOK) →
      Goes (.bundleIssue c) s fun t =>
        progPc c.val t = (progPc c.val s + 1) % 65536 ∧ fget (coreB c.val) fCORE_PROG_STATUS_STATE t = 1 ∧
        fget (coreB c.val) fCORE_PROGRESS_BUNDLES t = (fget (coreB c.val) fCORE_PROGRESS_BUNDLES s + 1) % 2 ^ 32 ∧
        (∀ e < 4, e < k.q.length →
          (slotOp e (bundleSlot b e) = 0 → (getCore c.val t).q.getD e [] = k.q.getD e []) ∧
          (slotOp e (bundleSlot b e) ≠ 0 → ∃ x : EngInstr, (getCore c.val t).q.getD e [] = k.q.getD e [] ++ [x] ∧
            x.slot = BitVec.ofNat 64 (bundleSlot b e) ∧ x.pc = progPc c.val s ∧ x.done = none ∧
            (e ≠ 2 → x.odt = odtOf c.val r (bundleSlot b e) s))) ∧
        t.mem = s.mem ∧ OtherCores c.val s t) ∧
    (lecOk c.val ctrl s && roomOk c.val l s = false →
      Goes (.bundleIssue c) s fun t =>
        progPc c.val t = progPc c.val s ∧ fget (coreB c.val) fCORE_PROG_STATUS_STATE t = 2 ∧
        (getCore c.val t).q = k.q ∧ t.mem = s.mem ∧ OtherCores c.val s t) ∧
    (lecOk c.val ctrl s && roomOk c.val l s = true → ∀ b, firstBad c.val l r s = some b →
      Goes (.bundleIssue c) s fun t =>
        progPc c.val t = progPc c.val s ∧ fget (coreB c.val) fCORE_PROG_STATUS_STATE t = 3 ∧
        fget (coreB c.val) fCORE_PROG_FAULT_STATUS t = b.2.toNat ∧ fget (coreB c.val) fCORE_PROG_FAULT_PC t = progPc c.val s ∧
        (getCore c.val t).q = k.q ∧ t.mem = s.mem)

/-- R97: SIGNAL and END, with the engines idle. -/
def Obligations.SignalAndEnd : Prop :=
  ∀ (c : Fin 256) (r : RunProg) (s : State), issuing c.val s = some r → enginesIdle c.val s = true →
    (∀ (slot : Fin 128) (value : BitVec 32), let a := syncSlot r slot.val s
      Memory.wf s.mem = true → (getCore c.val s).signals = [] → slotStatus c.val a s = stOK →
      isUE a s = false → marksIn a 4 s = [] →
        Goes (.signal c slot value) s fun t =>
          memW a t = memW a s + value ∧ MemOutside a 4 s t ∧ progPc c.val t = (progPc c.val s + 1) % 65536 ∧
          (getCore c.val t).signals = [] ∧ OtherCores c.val s t) ∧
    Goes (.endProgram c) s fun t =>
      (getCore c.val t).run = none ∧ fget (coreB c.val) fCORE_PROG_STATUS_STATE t = 0 ∧
      t.insts = s.insts.map (fun i => if i.id = r.inst then { i with running := i.running.erase c.val } else i) ∧
      t.mem = s.mem ∧ OtherCores c.val s t ∧
      RegsKept [coreB c.val + oCORE_PROG_STATUS, coreB c.val + oCORE_PROGRESS] s t

/-- R28, R95, R97, R102 and R115: the end of an engine instruction, with its NOTIFY and the end of a program whose END waits for
it. A NOTIFY object that has closed meanwhile takes no ADD, and the program takes the status of the range check by the model's
choice (log entry 81). -/
def Obligations.EngineInstrComplete : Prop :=
  ∀ (c : Fin 256) (e : Fin 4) (x : EngInstr) (st : BitVec 8) (s : State),
    headOf c.val e.val s = some x → x.done = some st → (getCore c.val s).signals = [] →
    let k := getCore c.val s
    let p := corePart c.val s
    let d := sxDesc x.odt
    let n := if d.sop = 3 then (mcastClusters d).length else if d.sop = 1 ∧ isLocalPkg p d.dst s = false then 0 else 1
    let wants : Bool := e.val == 3 && st == stOK && d.notify != 0 && n != 0
    let Posted : State → Prop := fun t =>
      (getCore c.val t).q = modAt e.val List.tail k.q ∧
      (getCore c.val t).lec = (if slotPostEn e.val x.slot.toNat then
        modAt (slotPostLec e.val x.slot.toNat) (· + 1) k.lec else k.lec) ∧ OtherCores c.val s t
    (isSafe s = true → Goes (.engineInstrComplete c e) s fun t => t = s) ∧
    (isSafe s = false →
      ((∀ r, k.run = some r → r.fin = false) →
        (wants = false → Goes (.engineInstrComplete c e) s fun t =>
          Posted t ∧ (getCore c.val t).run = k.run ∧ t = { s with cores := t.cores }) ∧
        (wants = true → syncOk p d.notify s = false → Goes (.engineInstrComplete c e) s fun t =>
          Posted t ∧ t = { s with cores := t.cores, insts := t.insts } ∧
          ∀ r, k.run = some r → t.insts = s.insts.map fun i =>
            if i.id = r.inst ∧ i.status = stOK then { i with status := syncStatus p d.notify s } else i) ∧
        (wants = true → syncOk p d.notify s = true → Memory.wf s.mem = true → isUE d.notify s = false →
          marksIn d.notify 4 s = [] → Goes (.engineInstrComplete c e) s fun t =>
            Posted t ∧ memW d.notify t = memW d.notify s + BitVec.ofNat 32 n ∧ MemOutside d.notify 4 s t)) ∧
      (∀ r, k.run = some r → r.fin = true → wants = false →
        ((modAt e.val List.tail k.q).all (fun l => l.isEmpty) = false → Goes (.engineInstrComplete c e) s fun t =>
          Posted t ∧ (getCore c.val t).run = some r ∧ t = { s with cores := t.cores }) ∧
        ((modAt e.val List.tail k.q).all (fun l => l.isEmpty) = true → Goes (.engineInstrComplete c e) s fun t =>
          Posted t ∧ (getCore c.val t).run = none ∧ fget (coreB c.val) fCORE_PROG_STATUS_STATE t = 0 ∧
          RegsKept [coreB c.val + oCORE_PROG_STATUS] s t ∧
          t.insts = s.insts.map (fun i => if i.id = r.inst then { i with running := i.running.erase c.val } else i) ∧
          t = { s with cores := t.cores, insts := t.insts, regs := t.regs })))

/-! The matrix engines, the vector engine and the stream engine (R47 to R81, R98 to R102). -/

/-- MMA (R66): the accumulators and the bytes of C. -/
def Obligations.MatrixProduct : Prop :=
  ∀ (c : Fin 256) (e : Fin 2) (x : EngInstr) (s : State), headOf c.val e.val s = some x → x.done = none →
    slotOp e.val x.slot.toNat = 1 →
    let d := mxDesc x.odt x.cfg.toNat
    let k := getCore c.val s
    (engMayRun c.val e.val s = false → Goes (.mma c e) s fun t => t = s) ∧
    (engMayRun c.val e.val s = true →
    ((d.m = 0 ∨ d.k = 0) → Goes (.mma c e) s fun t => EngFrame c.val e.val x stOK s t ∧ RegsKept [] s t) ∧
    (d.m ≠ 0 → d.k ≠ 0 → d.m ≤ 64 → (d.m = 1 ∨ mxOutRow d ≤ d.cPitch) → Memory.wf s.mem = true →
      (∀ g ∈ mxReadRanges d, marksIn g.1 g.2 s = []) →
      (∀ r < d.m, marksIn (d.cAddr + r * d.cPitch) (mxOutRow d) s = [] ∧
        ownWriteRefused c.val (d.cAddr + r * d.cPitch) (mxOutRow d) s = false) →
      [0, 1, 2, 3, 4, 8, 9, 0xA].contains d.outFmt = true →
      let m := mxRead d s
      let bank := (k.mxBank.getD e.val false).toNat
      Goes (.mma c e) s fun t =>
        Ended c.val e.val x (if t5Bad d.bFmt m.b then stCHECK else stOK) s t ∧ OtherCores c.val s t ∧
        (getCore c.val t).mxBank = modAt e.val not k.mxBank ∧
        (∀ r < d.m, ∀ n < 64, tget (fun _ => 0) (getCore c.val t).mxAcc (8192 * e.val + 4096 * bank + 64 * r + n) =
          BitVec.ofNat 48 (mxElem d m r n).1) ∧
        (∀ r < d.m, ∀ i < mxOutRow d, memGet (d.cAddr + r * d.cPitch + i) t =
          (packElems (mxCFmt d) ((List.range 64).map fun n => (mxDrain d m (mxElem d m r n).1).1)).getD i 0) ∧
        ∀ a, (∀ r < d.m, a < d.cAddr + r * d.cPitch ∨ d.cAddr + r * d.cPitch + mxOutRow d ≤ a) → memGet a t = memGet a s))

/-- R77: the lane-wise arithmetic of the vector engine. -/
def Obligations.VxArithmetic : Prop :=
  ∀ c : Fin 256,
    VxRuns c.val (.add c) 0x01 (VxLanewise c.val fun w k j =>
      vAdd (vxRnd w == 2) (laneOf w (vxVA w) k j) (laneOf w (vxVB w) k j)) ∧
    VxRuns c.val (.sub c) 0x02 (VxLanewise c.val fun w k j =>
      vAdd (vxRnd w == 2) (laneOf w (vxVA w) k j) (laneOf w (vxVB w) k j).negate) ∧
    VxRuns c.val (.mul c) 0x03 (VxLanewise c.val fun w k j =>
      vMul (laneOf w (vxVA w) k j) (laneOf w (vxVB w) k j)) ∧
    VxRuns c.val (.fma c) 0x04 (VxLanewise c.val fun w k j =>
      let m := vMul (laneOf w (vxVA w) k j) (laneOf w (vxVB w) k j)
      let a := vAdd (vxRnd w == 2) m.1 (laneOf w (vxVC w) k j)
      (a.1, orFlags m.2 a.2)) ∧
    VxRuns c.val (.min c) 0x05 (VxLanewise c.val fun w k j =>
      (vMin (laneOf w (vxVA w) k j) (laneOf w (vxVB w) k j), 0)) ∧
    VxRuns c.val (.max c) 0x06 (VxLanewise c.val fun w k j =>
      (vMax (laneOf w (vxVA w) k j) (laneOf w (vxVB w) k j), 0))

/-- R56, R77, R80: comparisons, SEL and PERM. The model's choices: SEL goes by MASK_V whatever MASK_EN says (log entry 14), and
PERM takes an index modulo the lanes, as raw bits (log entry 13). -/
def Obligations.VxCompareSelectPermute : Prop :=
  ∀ c : Fin 256,
    VxRuns c.val (.cmpeq c) 0x07 (VxCompares c.val vEq) ∧
    VxRuns c.val (.cmplt c) 0x08 (VxCompares c.val vLt) ∧
    VxRuns c.val (.cmple c) 0x09 (VxCompares c.val fun a b => vLt a b || vEq a b) ∧
    VxRuns c.val (.sel c) 0x0A (fun x w s t =>
      let k := getCore c.val s
      EngFrame c.val 2 x stOK s t ∧ RegsKept [] s t ∧
      (∀ j < vxLanes w, elemBits (vxFmt w) (vregBytes (getCore c.val t) (vxVD w)) j =
        elemBits (vxFmt w) (vregBytes k (if maskBit k (vxMaskV w) j then vxVA w else vxVB w)) j) ∧
      ∀ v, v ≠ vxVD w → vregBytes (getCore c.val t) v = vregBytes k v) ∧
    VxRuns c.val (.perm c) 0x30 (fun x w s t =>
      let k := getCore c.val s
      let bad := vxFmt w == 0xD && (vregBytes k (vxVA w) ++ vregBytes k (vxVB w)).any fun y => decide (243 ≤ y.toNat)
      (bad = false → EngFrame c.val 2 x stOK s t ∧ RegsKept [] s t) ∧
      (bad = true → Ended c.val 2 x stCHECK s t ∧ OtherCores c.val s t ∧ t.mem = s.mem ∧
        fget (coreB c.val) fCORE_ENG_FLAGS_T5_BAD t = 1) ∧
      VdHolds c.val w (packElems (vxFmt w) (maskedLanes k w (vxFmt w) (vxLanes w) fun j =>
        elemBits (vxFmt w) (vregBytes k (vxVA w)) (elemBits (vxFmt w) (vregBytes k (vxVB w)) j % vxLanes w))) s t)

/-- R79, R100: accumulation, conversion and quantisation. -/
def Obligations.VxConversions : Prop :=
  ∀ c : Fin 256,
    let srcs := fun (k : Core) (w : Nat) => (srcLanes k w (vxLanes w)).take (vxLanes w)
    let Quantises := fun (blk : Nat) (f : Nat → Core → List Val → Nat × List Nat × Nat)
        (x : EngInstr) (w : Nat) (s t : State) =>
      let k := getCore c.val s
      let bs := (List.range ((vxLanes w + blk - 1) / blk)).map fun j => f w k (((srcs k w).drop (blk * j)).take blk)
      let es := packElems (vxFmtOut w) ((bs.flatMap fun b => b.2.1).zipIdx.map fun r =>
        if laneOn k w r.2 then r.1 else elemBits (vxFmtOut w) (vregBytes k (vxVD w)) r.2)
      EngFrame c.val 2 x stOK s t ∧
      (∀ j < bs.length, (vregBytes (getCore c.val t) (vxVC w)).getD j 0 = (bs.map fun b => BitVec.ofNat 8 b.1).getD j 0) ∧
      (∀ j < es.length, vxVC w ≠ vxVD w ∨ bs.length ≤ j →
        (vregBytes (getCore c.val t) (vxVD w)).getD j 0 = es.getD j 0) ∧
      ∀ v, v ≠ vxVD w → v ≠ vxVC w → vregBytes (getCore c.val t) v = vregBytes k v
    VxRuns c.val (.acc c) 0x10 (fun x w s t =>
      let k := getCore c.val s
      EngFrame c.val 2 x stOK s t ∧
      (∀ j < 64, (acLanes (getCore c.val t) (vxAC w)).getD j 0 =
        if laneOn k w j then (roundW48 (vAdd false (decVal fmtW48 ((acLanes k (vxAC w)).getD j 0))
          ((srcLanes k w 64).getD j .nan)).1).1 % 2 ^ 48 else (acLanes k (vxAC w)).getD j 0) ∧
      ∀ a, a ≠ vxAC w → acLanes (getCore c.val t) a = acLanes k a) ∧
    VxRuns c.val (.accRead c) 0x11 (fun x w s t =>
      let k := getCore c.val s
      EngFrame c.val 2 x stOK s t ∧
      VdHolds c.val w (packElems (vxFmtOut w) (maskedLanes k w (vxFmtOut w) (vxLanes w) fun j =>
        (encVal (vxFmtOut w) (vxRnd w) (vxSat w) (decVal fmtW48 ((acLanes k (vxAC w)).getD j 0))).1)) s t) ∧
    VxRuns c.val (.cvt c) 0x18 (fun x w s t =>
      let k := getCore c.val s
      OtherCores c.val s t ∧ t.mem = s.mem ∧
      Ended c.val 2 x (if srcT5Bad k w (vxLanes w) then stCHECK else stOK) s t ∧
      (vxDstAc w = false → VdHolds c.val w (packElems (vxFmtOut w) (maskedLanes k w (vxFmtOut w) (vxLanes w) fun j =>
        (encVal (vxFmtOut w) (vxRnd w) (vxSat w) ((srcs k w).getD j .nan)).1)) s t) ∧
      (vxDstAc w = true → ∀ j < 64, j < vxLanes w → (acLanes (getCore c.val t) (vxAC w)).getD j 0 =
        if laneOn k w j then (encVal fmtW48 0 (vxSat w) ((srcs k w).getD j .nan)).1 % 2 ^ 48
        else (acLanes k (vxAC w)).getD j 0)) ∧
    VxRuns c.val (.quantMx32 c) 0x19 (Quantises 32 fun w _ => quantMx w) ∧
    VxRuns c.val (.quantG16 c) 0x1A (Quantises 16 fun w k => quantG w (elemVal 0 (vregBytes k (vxVB w)) 0))

/-- R78, R100: the functions, whose values are free values of the model, and the reductions. -/
def Obligations.VxFunctionsAndReductions : Prop :=
  ∀ c : Fin 256,
    VxRuns c.val (.rcp c) 0x20 (VxFunction c.val) ∧ VxRuns c.val (.rsqrt c) 0x21 (VxFunction c.val) ∧
    VxRuns c.val (.exp2 c) 0x22 (VxFunction c.val) ∧ VxRuns c.val (.log2 c) 0x23 (VxFunction c.val) ∧
    VxRuns c.val (.tanh c) 0x24 (VxFunction c.val) ∧ VxRuns c.val (.sigm c) 0x25 (VxFunction c.val) ∧
    VxRuns c.val (.lsum c) 0x28 (fun x w s t =>
      let fmt := if vxSrcAc w then fmtW48 else 0
      let l := (sumTree fmt 6 (redLanes (getCore c.val s) w, 0)).1
      EngFrame c.val 2 x stOK s t ∧ VdHolds c.val w (packElems (vxFmtOut w)
        [(encVal (vxFmtOut w) (vxRnd w) (vxSat w) (decVal fmt (l.getD 0 0))).1]) s t) ∧
    VxRuns c.val (.lmax c) 0x29 (fun x w s t =>
      let l := (redLanes (getCore c.val s) w).map (decVal (if vxSrcAc w then fmtW48 else 0))
      EngFrame c.val 2 x stOK s t ∧ VdHolds c.val w (packElems (vxFmtOut w)
        [(encVal (vxFmtOut w) (vxRnd w) (vxSat w) (l.tail.foldl vMax (l.headD .nan))).1]) s t)

/-- R100, R129: the memory form of the vector engine; the bytes of an element of GATHER and SCATTER are a free value of the
slot word (log entry 12). -/
def Obligations.VxMemory : Prop :=
  ∀ c : Fin 256,
    VxRuns c.val (.vxLoad c) 0x38 (fun x w s t => marksIn (vxAddr w) 256 s = [] →
      Ended c.val 2 x stOK s t ∧ OtherCores c.val s t ∧ t.mem = s.mem ∧
      VdHolds c.val w (memBytes (vxAddr w) 256 s) s t) ∧
    VxRuns c.val (.store c) 0x39 (fun x w s t => Memory.wf s.mem = true → marksIn (vxAddr w) 256 s = [] →
      OtherCores c.val s t ∧ (getCore c.val t).vreg = (getCore c.val s).vreg ∧
      (ownWriteRefused c.val (vxAddr w) 256 s = true → Ended c.val 2 x stDENIED s t ∧ t.mem = s.mem) ∧
      (ownWriteRefused c.val (vxAddr w) 256 s = false → Ended c.val 2 x stOK s t ∧ MemOutside (vxAddr w) 256 s t ∧
        ∀ j < 256, memGet (vxAddr w + j) t = (vregBytes (getCore c.val s) (vxVD w)).getD j 0)) ∧
    VxRuns c.val (.gather c) 0x3A (fun x w s t =>
      let k := getCore c.val s
      let n := gatherBytes w
      (∀ i < 16, gatherOk c.val k w n i = true → marksIn (gatherAddr k w i) n s = []) →
      Ended c.val 2 x stOK s t ∧ OtherCores c.val s t ∧ t.mem = s.mem ∧
      ∀ i < 16, gatherOk c.val k w n i = true → ∀ j < n,
        (vregBytes (getCore c.val t) (vxVD w)).getD (i * n + j) 0 = memGet (gatherAddr k w i + j) s) ∧
    VxRuns c.val (.scatter c) 0x3B (fun x w s t =>
      let k := getCore c.val s
      let n := gatherBytes w
      Memory.wf s.mem = true →
      (∀ i < 16, gatherOk c.val k w n i = true → marksIn (gatherAddr k w i) n s = [] ∧
        ownWriteRefused c.val (gatherAddr k w i) n s = false) →
      Ended c.val 2 x stOK s t ∧ OtherCores c.val s t ∧
      (∀ i < 16, gatherOk c.val k w n i = true → ∀ j < n,
        (∀ h < 16, i < h → gatherOk c.val k w n h = true →
          gatherAddr k w i + j < gatherAddr k w h ∨ gatherAddr k w h + n ≤ gatherAddr k w i + j) →
        memGet (gatherAddr k w i + j) t = (vregBytes k (vxVD w)).getD (i * n + j) 0) ∧
      ∀ a, (∀ i < 16, gatherOk c.val k w n i = true → a < gatherAddr k w i ∨ gatherAddr k w i + n ≤ a) →
        memGet a t = memGet a s) ∧
    VxRuns c.val (.acload c) 0x3C (fun x w s t => marksIn (vxAddr w) 384 s = [] →
      Ended c.val 2 x stOK s t ∧ OtherCores c.val s t ∧ t.mem = s.mem ∧
      (∀ j < 64, (acLanes (getCore c.val t) (vxMemAC w)).getD j 0 = leNat (memBytes (vxAddr w + 6 * j) 6 s)) ∧
      ∀ a, a ≠ vxMemAC w → acLanes (getCore c.val t) a = acLanes (getCore c.val s) a) ∧
    VxRuns c.val (.acadd c) 0x3D (fun x w s t => marksIn (vxAddr w) 384 s = [] →
      Ended c.val 2 x stOK s t ∧ OtherCores c.val s t ∧ t.mem = s.mem ∧
      (∀ j < 64, (acLanes (getCore c.val t) (vxMemAC w)).getD j 0 =
        (roundW48 (vAdd false (decVal fmtW48 ((acLanes (getCore c.val s) (vxMemAC w)).getD j 0))
          (decVal fmtW48 (leNat (memBytes (vxAddr w + 6 * j) 6 s)))).1).1 % 2 ^ 48) ∧
      ∀ a, a ≠ vxMemAC w → acLanes (getCore c.val t) a = acLanes (getCore c.val s) a) ∧
    VxRuns c.val (.acstore c) 0x3E (fun x w s t => Memory.wf s.mem = true → marksIn (vxAddr w) 384 s = [] →
      OtherCores c.val s t ∧
      (ownWriteRefused c.val (vxAddr w) 384 s = true → Ended c.val 2 x stDENIED s t ∧ t.mem = s.mem) ∧
      (ownWriteRefused c.val (vxAddr w) 384 s = false → Ended c.val 2 x stOK s t ∧ MemOutside (vxAddr w) 384 s t ∧
        ∀ j < 64, leNat (memBytes (vxAddr w + 6 * j) 6 t) = (acLanes (getCore c.val s) (vxMemAC w)).getD j 0))

/-- R101, R242: the stream engine. -/
def Obligations.StreamMoves : Prop :=
  ∀ (c : Fin 256) (x : EngInstr) (d : SxDesc) (s : State), Memory.wf s.mem = true →
    let p := corePart c.val s
    let src := bitsOf d.src 45 0
    let dst := bitsOf d.dst 45 0
    let Ends : BitVec 8 → State → Prop := fun st t => Ended c.val 3 x st s t ∧ OtherCores c.val s t
    let Copied : Nat → State → Prop := fun a t => ∀ i < d.len, memGet (a + i) t = memGet (src + i) s
    let Moves : Instr → Prop := fun i =>
      let st := firstFail [accessStatus src d.len s, accessStatus dst d.len s]
      (d.len = 0 → Goes i s fun t => Ends stOK t ∧ t.mem = s.mem) ∧
      (d.len ≠ 0 → st ≠ stOK → Goes i s fun t => Ends st t ∧ t.mem = s.mem) ∧
      (d.len ≠ 0 → st = stOK → marksIn src d.len s = [] → inBellPages dst d.len = false →
        (ownWriteRefused c.val dst d.len s = true → Goes i s fun t => Ends stDENIED t ∧ t.mem = s.mem) ∧
        (ownWriteRefused c.val dst d.len s = false → marksIn dst d.len s = [] → Goes i s fun t =>
          Ends stOK t ∧ Copied dst t ∧ MemOutside dst d.len s t))
    let Sends : Instr → Nat → Nat → RemoteKind → Nat → Prop := fun i pkg a kind n =>
      (eidOfPkg p pkg s = none → Goes i s fun t => Ends stDENIED t ∧ t.mem = s.mem) ∧
      (∀ e, eidOfPkg p pkg s = some e →
        (lookupStatus p c.val e (dieOfAddr a) s ≠ stOK → Goes i s fun t =>
          Ends (lookupStatus p c.val e (dieOfAddr a) s) t ∧ t.mem = s.mem) ∧
        (lookupStatus p c.val e (dieOfAddr a) s = stOK → marksIn src d.len s = [] ∨ kind ≠ .put → Goes i s fun t =>
          t.mem = s.mem ∧ t.cores = s.cores ∧ t.fab.remote = s.fab.remote ++
            [⟨mkTag c.val x.seqno, kind, e, entryOf e s, n, none, BitVec.ofNat 46 d.notify, s.clk.now⟩]))
    (sxHead c.val 1 s = some (x, d) → isLocalPkg p d.dst s = true → Moves (.put c)) ∧
    (sxHead c.val 2 s = some (x, d) → isLocalPkg p d.src s = true → Moves (.get c)) ∧
    (sxHead c.val 3 s = some (x, d) → d.len ≠ 0 → d.dst + d.len ≤ cluStoreSize → marksIn src d.len s = [] →
      accessStatus src d.len s = stOK →
      (∀ k ∈ mcastClusters d, marksIn (cluStore k + d.dst) d.len s = [] ∧
        accessStatus (cluStore k + d.dst) d.len s = stOK) → Goes (.mcast c) s fun t =>
        Ends stOK t ∧ (∀ k ∈ mcastClusters d, Copied (cluStore k + d.dst) t) ∧
        ∀ a, (∀ k ∈ mcastClusters d, a < cluStore k + d.dst ∨ cluStore k + d.dst + d.len ≤ a) → memGet a t = memGet a s) ∧
    (sxHead c.val 1 s = some (x, d) → isLocalPkg p d.dst s = false → d.len ≠ 0 →
      Sends (.put c) (bitsOf d.dst 55 46) dst .put ((d.len + 8127) / 8128)) ∧
    (sxHead c.val 2 s = some (x, d) → isLocalPkg p d.src s = false → d.len ≠ 0 →
      Sends (.get c) (bitsOf d.src 55 46) src (.get dst d.len) 1)

/-! Queues, programs and launches (R85 to R125). -/

/-- R107 to R109: doorbells. -/
def Obligations.Doorbells : Prop :=
  ∀ (r : Requester) (w : Fin 4) (word : BitVec 32) (s : State), bellReach r w.val s = true → serving s = true →
    let qid := bitsOf word.toNat 31 12
    let low := BitVec.ofNat 12 word.toNat
    let q := getQueue qid s
    let Others : State → Prop := fun t => ∀ j, j ≠ qid → getQueue j t = getQueue j s
    (ctrlPlane s = 2 → Goes (.doorbell r w word) s fun t => t = { s with bells := s.bells ++ [⟨r, w, word⟩] }) ∧
    (ctrlPlane s ≠ 2 → partOfQid s.cab.cur qid ≠ some w.val → Goes (.doorbell r w word) s fun t =>
      t = { s with regs := t.regs, perf := t.perf } ∧
      fget qmB fQM_DROP_DENIED_CNT t = Nat.min (fget qmB fQM_DROP_DENIED_CNT s + 1) 0xFFFF ∧
      RegsKept [qmB + oQM_DROP] s t) ∧
    (ctrlPlane s ≠ 2 → partOfQid s.cab.cur qid = some w.val →
      (q.st ≠ .active → Goes (.doorbell r w word) s fun t =>
        t = { s with regs := t.regs, perf := t.perf } ∧
        fget qmB fQM_DROP_INACTIVE_CNT t = Nat.min (fget qmB fQM_DROP_INACTIVE_CNT s + 1) 0xFFFF ∧
        RegsKept [qmB + oQM_DROP] s t) ∧
      (let delta := (low - q.pi.setWidth 12).toNat
       let pi := q.pi + BitVec.ofNat 32 delta
       q.st = .active → q.kind ≠ 2 →
        ((pi - q.ci).toNat ≤ depth q → Goes (.doorbell r w word) s fun t =>
          getQueue qid t = { q with pi := pi } ∧ Others t ∧ t = { s with queues := t.queues, perf := t.perf }) ∧
        (delta ≠ 0 → depth q < (pi - q.ci).toNat → Goes (.doorbell r w word) s fun t =>
          (getQueue qid t).st = .stalled ∧ Others t ∧ fget qmB fQM_STALL_STALL t = 1 ∧
          fget qmB fQM_STALL_LAST_QID t = qid ∧ t.mem = s.mem ∧
          (s.ecc = [] → RegsKept ((qmB + oQM_STALL) :: (qmB + oQM_STALL_CNT) :: granRegs) s t))) ∧
      (let delta := (low - q.ci.setWidth 12).toNat
       q.st = .active → q.kind = 2 → delta ≤ (q.pi - q.ci).toNat → Goes (.doorbell r w word) s fun t =>
        getQueue qid t = { q with ci := q.ci + BitVec.ofNat 32 delta } ∧ Others t ∧
        t = { s with queues := t.queues, perf := t.perf }))

/-- R111, R114, R115: dispatch and completion. That a CI_ADDR outside the partition's memory and a ring entry that is
not open take no byte is the model's choice (log entry 82). -/
def Obligations.DispatchAndCompletion : Prop :=
  ∀ (q : BitVec 20) (s : State), Memory.wf s.mem = true → s.ecc = [] →
    let x := getQueue q.toNat s
    let b := memBytes (ringAddr x x.ci) 64 s
    let ci := x.ciAddr.toNat
    (mayDispatch x b s = true → Goes (.commandDispatch q) s fun t =>
      getQueue q.toNat t = { x with ci := x.ci + 1, cmds := x.cmds ++
        [⟨x.ci, x.gen, b, if cmdCheck x b s = stOK then .dispatched else .ended (cmdCheck x b s) 0⟩] } ∧
      (∀ j, j ≠ q.toNat → getQueue j t = getQueue j s) ∧
      (ci = 0 ∨ regionOf ci = some .reg ∨ rangeStatus (.part x.part) ci 4 s ≠ stOK ∨ inSink ci 4 s = true → t.mem = s.mem) ∧
      (ci ≠ 0 → regionOf ci ≠ some .reg → rangeStatus (.part x.part) ci 4 s = stOK → inSink ci 4 s = false →
        memW ci t = x.ci + 1 ∧ MemOutside ci 4 s t)) ∧
    (mayDispatch x b s = false → Goes (.commandDispatch q) s fun t => t = s) ∧
    (∀ (idx : BitVec 32) (c : QCmd) (st : BitVec 8) (detail : Word) (k : Nat),
      (x.cmds.find? fun y => y.idx == idx && cmdEnded y) = some c → c.phase = .ended st detail → cplOf q.toNat s = some k →
      (isSafe s || cplFull q.toNat c.bytes s || cplWaits q.toNat c.bytes s → Goes (.completionWrite q idx) s fun t => t = s) ∧
      (isSafe s = false → cplFull q.toNat c.bytes s = false → cplWaits q.toNat c.bytes s = false →
        cplSync x.kind.toNat c.bytes = none → cplWanted x.kind.toNat c.bytes = true → k ≠ q.toNat →
        (getQueue k s).st ≠ .disabled → (getQueue k s).kind = 2 →
        let cq := getQueue k s
        let y := completionBytes x.kind.toNat q.toNat c cq st detail s
        let opened : Bool := memOpen (ringAddr cq cq.pi) 16 s && !inSink (ringAddr cq cq.pi) 16 s
        Goes (.completionWrite q idx) s fun t =>
          (opened = true → (∀ i < 16, memGet (ringAddr cq cq.pi + i) t = y.getD i 0) ∧
            MemOutside (ringAddr cq cq.pi) 16 s t) ∧
          (opened = false → t.mem = s.mem) ∧
          getQueue k t = { cq with pi := cq.pi + 1 } ∧
          getQueue q.toNat t = { x with cmds := x.cmds.erase c } ∧
          ∀ j, j ≠ q.toNat → j ≠ k → getQueue j t = getQueue j s))

/-- R109, R123, R124: the control of a queue. -/
def Obligations.QueueControl : Prop :=
  ∀ (r : Requester) (q : BitVec 20) (s : State), Memory.wf s.mem = true → s.ecc = [] →
    let x := getQueue q.toNat s
    let a := descAddr q.toNat s
    let b := descBytes q.toNat s
    let Others : State → Prop := fun t => ∀ j, j ≠ q.toNat → getQueue j t = getQueue j s
    let Back : State → Prop := fun t =>
      bitsOf (memW a t).toNat 27 26 = 0 ∧ memW (a + 0x10) t = x.pi ∧ memW (a + 0x14) t = x.ci ∧ MemOutside a 64 s t
    (mayCommand r s = true → fget qmB fQM_QCTL_BUSY s = 0 → qctlReach r q.toNat s = true →
      (x.st ≠ .disabled → Goes (.invalidate r q) s fun t =>
        QctlShows 1 q.toNat stDENIED s t ∧ t = { s with regs := t.regs }) ∧
      (x.st = .disabled → fenceStatus a 64 s ≠ stOK → Goes (.invalidate r q) s fun t =>
        QctlShows 1 q.toNat stFENCED s t ∧ t = { s with regs := t.regs }) ∧
      (x.st = .disabled → fenceStatus a 64 s = stOK → bitsOf (le32 b 0) 27 26 = 0 → Goes (.invalidate r q) s fun t =>
        QctlRead 1 q.toNat stOK s t ∧ (getQueue q.toNat t).st = .disabled ∧ Others t ∧ t.mem = s.mem) ∧
      (x.st = .disabled → fenceStatus a 64 s = stOK → bitsOf (le32 b 0) 27 26 ≠ 0 → Goes (.invalidate r q) s fun t =>
        QctlRead 1 q.toNat (invalidateStatus q.toNat b s) s t ∧ Others t ∧ t.mem = s.mem ∧
        getQueue q.toNat t = (if invalidateStatus q.toNat b s = stOK then descQueue b x.cmds else x)) ∧
      (x.st = .active → Goes (.queueDrain r q) s fun t =>
        QctlShows 2 q.toNat stOK s t ∧ getQueue q.toNat t = { x with st := .draining } ∧ Others t ∧
        t = { s with regs := t.regs, queues := t.queues }) ∧
      (x.st ≠ .disabled → fenceStatus a 64 s = stOK → Goes (.queueReset r q) s fun t =>
        (getQueue q.toNat t).st = .disabled ∧ (getQueue q.toNat t).pi = x.pi ∧ (getQueue q.toNat t).ci = x.ci ∧
        Others t ∧ Back t ∧ QctlSays 3 q.toNat stOK t ∧
        (x.kind = 1 → (getQueue q.toNat t).cmds =
          (x.cmds.map fun c => if c.phase = .dispatched then { c with phase := .ended stSTALLED 0 } else c) ++
            if x.st = .active ∨ x.st = .draining then unfetched x stSTALLED 0 s else []))) ∧
    (x.st = .draining → x.cmds = [] → isSafe s = false → fenceStatus a 64 s = stOK →
      Goes (.queueDrainDone q) s fun t => getQueue q.toNat t = { x with st := .disabled } ∧ Others t ∧ Back t)

/-- R110, R116 to R118: sync objects, NOP and SYNC_WAIT. -/
def Obligations.SyncObjects : Prop :=
  (∀ (addr : BitVec 46) (val : BitVec 32) (s : State), let a := addr.toNat
    ((syncPlaceOk a && memOpen a 16 s && !isSafe s) = false → Goes (.syncAdd addr val) s fun t => t = s) ∧
    (Memory.wf s.mem = true → s.ecc = [] → syncPlaceOk a = true → memOpen a 16 s = true → isSafe s = false →
      Goes (.syncAdd addr val) s fun t =>
      memW a t = memW a s + val ∧ MemOutside a 4 s t ∧ t.cores = s.cores ∧
      t.queues = s.queues ∧ t.waiters = s.waiters.map fun w =>
        if val ≠ 0 ∧ w.addr = a ∧ reaches32 (memW a s + val) w.target then { w with woken := true } else w) ∧
    (isUE a s = true → Goes (.syncAdd addr val) s fun t => t.mem = s.mem ∧ t.waiters = s.waiters)) ∧
  (∀ (r : Requester) (addr : BitVec 46) (word : BitVec 32) (s : State), let a := addr.toNat
    let Unarmed := s.armed.filter fun x => x.1 != a
    Memory.wf s.mem = true → s.ecc = [] → mayStore r s = true → syncPlaceOk a = true →
    rangeStatus (reqWho r s) a 16 s = stOK → sinkRefuses r (a + 4) 4 s = false → Goes (.syncIrqArm r addr word) s fun t =>
      memW (a + 4) t = word ∧ MemOutside (a + 4) 4 s t ∧ t.cores = s.cores ∧ t.queues = s.queues ∧
      (word.getLsbD 31 = false → t.armed = Unarmed) ∧
      (word.getLsbD 31 = true → reaches32 (memW a s) (memW (a + 8) s) = false →
        t.armed = (a, memW (a + 8) s) :: Unarmed) ∧
      (reaches32 (memW a s) (memW (a + 8) s) = true → t.armed = Unarmed)) ∧
  (∀ (q : BitVec 20) (c : QCmd) (s : State), isSafe s = false →
    (waitingCmd q.toNat 0 s = some c → Goes (.nop q) s fun t =>
      PhaseSet q.toNat c.idx (.ended stOK 0) s t ∧ t = { s with queues := t.queues }) ∧
    (let a := cmdSrc c.bytes
     let target := BitVec.ofNat 32 (le32 c.bytes 0x20)
     let st := syncStatus (getQueue q.toNat s).part a s
     let mine := fun w : Waiter => w.isCore == false && w.id == q.toNat && w.idx == c.idx.toNat
     let Ends : BitVec 8 → State → Prop := fun st t => PhaseSet q.toNat c.idx (.ended st 0) s t
     waitingCmd q.toNat 8 s = some c →
      (st ≠ stOK → Goes (.syncWait q) s fun t => Ends st t ∧ t = { s with queues := t.queues }) ∧
      (st = stOK → (∀ w ∈ s.waiters, mine w = false) → marksIn a 4 s = [] →
        (reaches32 (memW a s) target = true → Goes (.syncWait q) s fun t =>
          Ends stOK t ∧ RegsKept granRegs s t ∧
          t = { s with queues := t.queues, regs := t.regs, perf := t.perf, chans := t.chans }) ∧
        (reaches32 (memW a s) target = false → Goes (.syncWait q) s fun t => RegsKept granRegs s t ∧
          t = { s with waiters := s.waiters ++ [⟨false, q.toNat, c.idx.toNat, a, target, false⟩],
                       regs := t.regs, perf := t.perf, chans := t.chans })) ∧
      (∀ w, st = stOK → s.waiters.find? mine = some w →
        (w.woken = true → Goes (.syncWait q) s fun t => Ends stOK t ∧
          t = { s with queues := t.queues, waiters := s.waiters.filter fun y => !mine y }) ∧
        (w.woken = false → Goes (.syncWait q) s fun t => t = s))))

/-- R86, R87, R90, R92, R93: LOAD, LOAD_TRANSLATION_DONE and UNLOAD. -/
def Obligations.LoadAndUnload : Prop :=
  ∀ s : State, Memory.wf s.mem = true → s.ecc = [] → isSafe s = false →
    let SlotsBut : Nat → State → Prop := fun i t => ∀ j, j ≠ i → getSlot j t = getSlot j s
    (∀ (q : BitVec 20) (c : QCmd), waitingCmd q.toNat 1 s = some c → s.loading = none → mgmtPlane s ≠ 2 →
      let x := getQueue q.toNat s
      let addr := cmdSrc c.bytes
      let len := le32 c.bytes 0x20
      let o := memBytes addr (Nat.max len 64) s
      let l := (coreEntries o).map Prod.fst
      let st := loadStatus x.part addr len o s
      (st ≠ stOK → Goes (.load q) s fun t =>
        PhaseSet q.toNat c.idx (.ended st 0) s t ∧ t.mem = s.mem ∧ t.progs = s.progs) ∧
      (∀ i, freeSlot s = some i → st = stOK →
        (o.getD 6 0 ≠ 0 → Goes (.load q) s fun t =>
          getSlot i t = ⟨(getSlot i s).gen, some ⟨x.part, l, objSync o, Config.sha384 o⟩⟩ ∧ SlotsBut i t ∧
          PhaseSet q.toNat c.idx (.ended stOK (BitVec.ofNat 32 ((getSlot i s).gen * 2 ^ 24 + i))) s t ∧ ImagesPlaced o l t ∧
          ∀ a, (∀ e ∈ l, (a < coreStore e.core + e.bundOff ∨ coreStore e.core + e.bundOff + 32 * e.nBund ≤ a) ∧
              (a < coreStore e.core + e.odtOff ∨ coreStore e.core + e.odtOff + 64 * e.nOdt ≤ a)) →
            memGet a t = memGet a s) ∧
        (o.getD 6 0 = 0 → Goes (.load q) s fun t =>
          PhaseSet q.toNat c.idx .started s t ∧ t.mem = s.mem ∧ t.progs = s.progs ∧
          t.loading = some ⟨q.toNat, c.idx.toNat, x.part, i, objSync o, Config.sha384 o, nodeCores o⟩))) ∧
    (∀ (imgs : List CoreImage) (y : Loading), s.loading = some y → mgmtPlane s ≠ 2 → s.computeReset = false →
      imagesFit y imgs s = true →
      ((imgs.any fun m => imageSunk (imageCore m) s) = true → Goes (.loadTranslationDone imgs) s fun t =>
        t.loading = none ∧ t.progs = s.progs ∧ t.mem = s.mem ∧
        PhaseSet y.qid (BitVec.ofNat 32 y.idx) (.ended stDENIED 0) s t) ∧
      ((imgs.any fun m => imageSunk (imageCore m) s) = false → Goes (.loadTranslationDone imgs) s fun t =>
        t.loading = none ∧ SlotsBut y.slot t ∧
        getSlot y.slot t = ⟨(getSlot y.slot s).gen, some ⟨y.part, imgs.map imageCore, y.sync, y.digest⟩⟩ ∧
        PhaseSet y.qid (BitVec.ofNat 32 y.idx)
          (.ended stOK (BitVec.ofNat 32 ((getSlot y.slot s).gen * 2 ^ 24 + y.slot))) s t ∧
        ((imgs.map fun m => m.core.val).Nodup → ∀ m ∈ imgs, ∀ i < m.odt.length,
          memGet (coreStore m.core.val + m.odtOff.toNat + i) t = m.odt.getD i 0))) ∧
    (∀ (q : BitVec 20) (c : QCmd), waitingCmd q.toNat 2 s = some c →
      handleStatus (getQueue q.toNat s).part (cmdHandle c.bytes) s = stOK →
      let i := cmdSlot c
      (instsOf i s = [] → Goes (.unload q) s fun t =>
        getSlot i t = ⟨if (getSlot i s).gen = 255 then 1 else (getSlot i s).gen + 1, none⟩ ∧ SlotsBut i t ∧
        PhaseSet q.toNat c.idx (.ended stOK 0) s t ∧ t = { s with progs := t.progs, queues := t.queues }) ∧
      ((instsOf i s).any (fun x => instRuns x s) = true → Goes (.unload q) s fun t => t = s))

/-- R112, R119, R121: LAUNCH, ARM and DISARM. -/
def Obligations.LaunchAndArm : Prop :=
  ∀ (q : BitVec 20) (c : QCmd) (s : State), s.ecc = [] →
    let x := getQueue q.toNat s
    let i := cmdSlot c
    let cores := progCores i s
    isSafe s = false → handleStatus x.part (cmdHandle c.bytes) s = stOK → (∀ k ∈ cores, k < 256) →
    (waitingCmd q.toNat 3 s = some c → cores.any (fun k => !cluOk (k / 8) s) = false →
      cores.all (fun k => coreFree k s && noneDue k s) = true →
      Goes (.launch q) s fun t =>
        (∃ y : Inst, t.insts = s.insts ++ [y] ∧ y.id = s.instNo ∧ y.slot = i ∧ y.running = cores ∧ y.waiting = [] ∧
          y.qid = q.toNat ∧ y.idx = c.idx.toNat ∧ y.status = stOK) ∧ t.instNo = s.instNo + 1 ∧
        PhaseSet q.toNat c.idx .started s t ∧
        (∀ p, (getSlot i s).prog = some p → ∀ k ∈ cores, ∀ e, (p.cores.find? fun e => e.core == k) = some e →
          (getCore k t).run = some ⟨i, s.instNo, s.clk.p, e.bundOff, e.odtOff, e.nBund, e.nOdt, false, false, false⟩ ∧
          (getCore k t).lec = List.replicate 16 0 ∧ fget (coreB k) fCORE_PROG_STATUS_STATE t = 1 ∧
          progPc k t = (e.entries.getD (bitsOf (le32 c.bytes 0x18) 3 0) 0).toNat) ∧
        (∀ k, k ∉ cores → getCore k t = getCore k s) ∧ t.clk = s.clk ∧ t.progs = s.progs) ∧
    (waitingCmd q.toNat 4 s = some c → armStatus x c s = stOK → armPast (armTime c.bytes) s.clk.p = false →
      Goes (.arm q) s fun t =>
        (∃ y : Inst, t.insts = s.insts ++ [y] ∧ y.id = s.instNo ∧ y.slot = i ∧ y.waiting = cores ∧ y.running = [] ∧
          y.t = some (armTime c.bytes)) ∧ t.instNo = s.instNo + 1 ∧ PhaseSet q.toNat c.idx .started s t ∧
        (∀ k ∈ cores, ∃ e : LaunchEntry, tget (fun _ => none) (getCore k t).launch (armSlot c.bytes) = some e ∧
          e.t = armTime c.bytes ∧ e.inst = s.instNo ∧ e.policy = armPolicy c.bytes ∧ e.fired = false) ∧
        (∀ k, k ∉ cores → getCore k t = getCore k s) ∧
        t = { s with insts := t.insts, instNo := t.instNo, cores := t.cores, queues := t.queues }) ∧
    (waitingCmd q.toNat 5 s = some c →
      let l := (instsOf i s).filter fun y =>
        y.t.isSome && y.tslot == bitsOf (le32 c.bytes 0x18) 5 0 && !y.waiting.isEmpty
      (l = [] → Goes (.disarm q) s fun t =>
        PhaseSet q.toNat c.idx (.ended stOK 0) s t ∧ t = { s with queues := t.queues }) ∧
      (∀ y, l = [y] → y.running = [] → (∀ z ∈ s.insts, z.id = y.id → z = y) →
        y.qid ≠ q.toNat ∨ BitVec.ofNat 32 y.idx ≠ c.idx → Goes (.disarm q) s fun t =>
        t.insts = (s.insts.filter fun z => z.id != y.id) ∧
        (∀ k ∈ y.waiting, tget (fun _ => none) (getCore k t).launch y.tslot = none) ∧
        (∀ z ∈ x.cmds, z.idx = c.idx → cmdEnded z = false →
          { z with phase := .ended stOK 0 } ∈ (getQueue q.toNat t).cmds) ∧
        (∀ z ∈ (getQueue y.qid s).cmds, z.idx = BitVec.ofNat 32 y.idx → cmdEnded z = false →
          { z with phase := .ended stDENIED y.detail } ∈ (getQueue y.qid t).cmds) ∧
        t = { s with insts := t.insts, cores := t.cores, queues := t.queues, handoffs := t.handoffs }))

/-- R120, R121: LAUNCH_ENTRY_FIRE, LATE_CORE_START, and the end of an instance. -/
def Obligations.TimedStarts : Prop :=
  (∀ (c : Fin 256) (slot : Fin 64) (e : LaunchEntry) (i : Inst) (s : State), dueEntry c.val slot.val s = some e →
    (∀ a, s.drp.prop = some a → reaches48 e.t a.t = false) → (∀ x, s.cab.edge = some x → reaches48 e.t x.t = false) →
    (dueBefore c.val slot.val e s || isSafe s = true → Goes (.launchEntryFire c slot) s fun t => t = s) ∧
    (dueBefore c.val slot.val e s = false → isSafe s = false → getInst e.inst s = some i →
    (∀ (p : Program) (k : ProgCore), inDrift s = false → coreFree c.val s = true → lateEntry c.val s = none →
      (getSlot i.slot s).prog = some p → (p.cores.find? fun e => e.core == c.val) = some k →
      Goes (.launchEntryFire c slot) s fun t =>
        tget (fun _ => none) (getCore c.val t).launch slot.val = none ∧
        (getCore c.val t).run = some ⟨i.slot, i.id, i.t.getD s.clk.p, k.bundOff, k.odtOff, k.nBund, k.nOdt, false, false, false⟩ ∧
        fget (coreB c.val) fCORE_PROG_STATUS_STATE t = 1 ∧ OtherCores c.val s t ∧
        t.insts = s.insts.map fun x =>
          if x.id = i.id then { x with waiting := x.waiting.erase c.val, running := x.running ++ [c.val] } else x) ∧
    (inDrift s = false → coreTaken c.val s || (lateEntry c.val s).isSome = true → e.policy = 0 →
      Goes (.launchEntryFire c slot) s fun t =>
        tget (fun _ => none) (getCore c.val t).launch slot.val = some { e with fired := true } ∧
        OtherCores c.val s t ∧ t = { s with cores := t.cores }) ∧
    (inDrift s = true → i.running = [] → Goes (.launchEntryFire c slot) s fun t =>
      t.insts = (s.insts.filter fun x => x.id != e.inst) ∧
      (∀ k ∈ i.waiting, tget (fun _ => none) (getCore k t).launch i.tslot = none) ∧
      PhaseSet i.qid (BitVec.ofNat 32 i.idx) (.ended stLATE i.detail) s t ∧
      t = { s with insts := t.insts, cores := t.cores, queues := t.queues, handoffs := t.handoffs }))) ∧
  (∀ (c : Fin 256) (slot : Nat) (e : LaunchEntry) (i : Inst) (p : Program) (k : ProgCore) (s : State),
    lateEntry c.val s = some (slot, e) → coreFree c.val s = true → getInst e.inst s = some i →
    (getSlot i.slot s).prog = some p → (p.cores.find? fun e => e.core == c.val) = some k →
    Goes (.lateCoreStart c) s fun t =>
      tget (fun _ => none) (getCore c.val t).launch slot = none ∧ (getCore c.val t).run.isSome = true ∧
      fget (coreB c.val) fCORE_LAUNCH_STAT_LATE t = 1 ∧
      fget (coreB c.val) eCORE_LAUNCH_STAT_LATE.cnt t = Nat.min (fget (coreB c.val) eCORE_LAUNCH_STAT_LATE.cnt s + 1) 0xFFFF ∧
      OtherCores c.val s t ∧ ∀ x ∈ t.insts, x.id = i.id → (lateness c.val e.t s).toNat ≤ x.detail.toNat) ∧
  (∀ (id : Nat) (i : Inst) (s : State), getInst id s = some i → i.waiting = [] → isSafe s = false →
    i.running.all (fun c => coreStopped id c s) = true → Goes (.programInstanceEnd id) s fun t =>
      t.insts = (s.insts.filter fun x => x.id != i.id) ∧
      (∀ c ∈ i.running, getCore c t = { getCore c s with run := (getCore c s).run.filter fun r => r.inst != id }) ∧
      (∀ c, c ∉ i.running → getCore c t = getCore c s) ∧
      PhaseSet i.qid (BitVec.ofNat 32 i.idx) (.ended i.status i.detail) s t ∧
      t = { s with insts := t.insts, cores := t.cores, queues := t.queues, handoffs := t.handoffs })

/-- R112, R113: COPY and FILL. -/
def Obligations.CopyAndFill : Prop :=
  ∀ (q : BitVec 20) (c : QCmd) (s : State), Memory.wf s.mem = true → s.ecc = [] → isSafe s = false →
    let x := getQueue q.toNat s
    let b := c.bytes
    let n := cmdLen b
    let src := bitsOf (cmdSrc b) 45 0
    let dst := bitsOf (cmdDst b) 45 0
    let can6 := sxCredits x.target.toNat x.part [cmdSrc b, cmdDst b] n s
    let can7 := sxCredits x.target.toNat x.part [cmdDst b] n s
    (n = 0 →
      (waitingCmd q.toNat 6 s = some c → Goes (.copy q) s fun t =>
        PhaseSet q.toNat c.idx (.ended stOK 0) s t ∧ t = { s with queues := t.queues, handoffs := t.handoffs }) ∧
      (waitingCmd q.toNat 7 s = some c → Goes (.fill q) s fun t =>
        PhaseSet q.toNat c.idx (.ended stOK 0) s t ∧ t = { s with queues := t.queues, handoffs := t.handoffs })) ∧
    (n ≠ 0 → targetReady x s = false →
      (waitingCmd q.toNat 6 s = some c → Goes (.copy q) s fun t => t = { s with stool := t.stool }) ∧
      (waitingCmd q.toNat 7 s = some c → Goes (.fill q) s fun t => t = { s with stool := t.stool })) ∧
    (n ≠ 0 → targetReady x s = true →
      (waitingCmd q.toNat 6 s = some c → can6 = false → Goes (.copy q) s fun t => t = s) ∧
      (waitingCmd q.toNat 7 s = some c → can7 = false → Goes (.fill q) s fun t => t = s)) ∧
    (n ≠ 0 → targetReady x s = true → moveStatus x b s ≠ stOK →
      (waitingCmd q.toNat 6 s = some c → can6 = true → Goes (.copy q) s fun t =>
        PhaseSet q.toNat c.idx (.ended (moveStatus x b s) 0) s t ∧ t.mem = s.mem ∧ t.cores = s.cores) ∧
      (waitingCmd q.toNat 7 s = some c → can7 = true → Goes (.fill q) s fun t =>
        PhaseSet q.toNat c.idx (.ended (moveStatus x b s) 0) s t ∧ t.mem = s.mem ∧ t.cores = s.cores)) ∧
    (n ≠ 0 → targetReady x s = true → moveStatus x b s = stOK → isLocalPkg x.part (cmdDst b) s = true →
      inBellPages dst n = false → ownWriteRefused x.target.toNat dst n s = false →
      (waitingCmd q.toNat 6 s = some c → can6 = true → isLocalPkg x.part (cmdSrc b) s = true → Goes (.copy q) s fun t =>
        (∀ i < n, memGet (dst + i) t = memGet (src + i) s) ∧ MemOutside dst n s t ∧ t.cores = s.cores ∧
        PhaseSet q.toNat c.idx (.ended stOK (BitVec.ofNat 32 n)) s t) ∧
      (waitingCmd q.toNat 7 s = some c → can7 = true → Goes (.fill q) s fun t =>
        (∀ i < n, memGet (dst + i) t = BitVec.ofNat 8 (le32 b 0x2C / 2 ^ (8 * (i % 4)))) ∧ MemOutside dst n s t ∧
        t.cores = s.cores ∧ PhaseSet q.toNat c.idx (.ended stOK (BitVec.ofNat 32 n)) s t))

/-! Patrol, scrubs and the stacks (R131 to R146). -/

/-- R131 to R133, R138, R145: patrol and channel power-down; R140 to R142: scrubs. -/
def Obligations.PatrolsAndScrubs : Prop :=
  ((∀ (addr : BitVec 46) (written : Bool) (s : State),
     let a := addr.toNat / lineBytes * lineBytes
     patrolRuns a s = true →
     (marksIn a lineBytes s = [] → Goes (.sramPatrolRead addr written) s fun t => t = s) ∧
     (∀ x, marksIn a lineBytes s = [(x, 1)] → Goes (.sramPatrolRead addr written) s fun t =>
       fget (storeRegs x).1 (storeRegs x).2.1.1.bit t = 1 ∧ t.mem = s.mem ∧ t.cores = s.cores ∧
       (written = false → tget (fun _ => 0) t.ecc x = 0) ∧ (written = true → t.ecc = s.ecc)) ∧
     (∀ x, marksIn a lineBytes s = [(x, 2)] → Goes (.sramPatrolRead addr written) s fun t =>
       fget (storeRegs x).1 (storeRegs x).2.1.2.1.bit t = 1 ∧ t.mem = s.mem ∧ t.cores = s.cores ∧ t.ecc = s.ecc)) ∧
   (∀ (st : Fin 20) (addr : BitVec 46) (res : GranuleRead) (s : State),
     let a := addr.toNat / 64 * 64
     a < stackEnd → stackOf a = st.val → stackOk st.val s = true → isSafe s = false →
     fget (memB st.val) fMEM_PATROL_PERIOD_H s ≠ 0 → fget (memB st.val) fMEM_STATUS_SCRUBBING s = 0 →
     tget (fun _ => 0) s.ecc a < 2 → Goes (.memPatrol st addr res) s fun t =>
       t.mem = s.mem ∧ t.cores = s.cores ∧ t.queues = s.queues ∧
       (res = .clean ∨ res = .corrected ∨ res = .parityOnce → t.ecc = s.ecc) ∧
       (res = .corrected → fget (memB st.val) fMEM_ECC_CE t = 1) ∧
       (res = .parityOnce ∨ res = .parityTwice → fget (memB st.val) fMEM_ECC_PARITY t = 1) ∧
       (res = .uncorrected ∨ res = .parityTwice → isUE a t = true ∧ fget (memB st.val) fMEM_ECC_UE t = 1 ∧
         fget (memB st.val) fMEM_UE_ADDR_LO_ADDR_LO t = a % 2 ^ 32)) ∧
   (∀ (st : Fin 20) (ch : Fin 32) (s : State), let x := tget (fun _ => (0, false)) s.chans (32 * st.val + ch.val)
     stackOk st.val s = true → elapsed x.1 ticksUs s = true → fget (memB st.val) fMEM_STATUS_SCRUBBING s = 0 →
     Goes (.channelPowerDown st ch) s fun t =>
       tget (fun _ => (0, false)) t.chans (32 * st.val + ch.val) = (x.1, true) ∧ t = { s with chans := t.chans })) ∧
  (∀ (p : Fin 4) (s : State),
     isSafe s = false →
     (partRun p.val 1 s = true → partIdle p.val s = true → Goes (.scrubStart p) s fun t =>
       scrubbing p.val t = true ∧ bitOf t.nv.scrubs p.val = true ∧ partRun p.val 2 t = true ∧
       t.nv.scrubDies = modAt p.val (fun _ => ((diesOfPart p.val s).map fun d => 2 ^ d).sum) s.nv.scrubDies ∧
       t = { s with regs := t.regs, nv := { s.nv with scrubs := t.nv.scrubs, scrubDies := t.nv.scrubDies }, rst := t.rst,
                    chans := t.chans, perf := t.perf }) ∧
     (∀ badStacks : BitVec 20, partRun p.val 2 s = true → Goes (.scrubDone p badStacks 0) s fun t =>
       (∀ a, memGet a t = if scrubCovers p.val a s then 0 else memGet a s) ∧ scrubbing p.val t = false ∧
       bitOf t.nv.scrubs p.val = false ∧ partRun p.val 3 t = true ∧ t.cores = s.cores ∧ t.queues = s.queues ∧
       ∀ st ∈ stacksOfPart p.val s, badStacks.getLsbD st = true → stackOk st s = true → stackOk st t = false))

/-! The Cabinet (R147 to R173). -/

/-- R163, R164, R171: BEGIN, STAGE, ROLLBACK. -/
def Obligations.CabinetTransaction : Prop :=
  ∀ (r : Requester) (s : State), isPf0 r = true → mayCommand r s = true → fget cabB fCAB_CMD_BUSY s = 0 →
    mgmtPlane s ≠ 2 → s.nv.lc ≠ 3 →
    let Same : State → Prop := fun t =>
      t.cab.cur = s.cab.cur ∧ t.cab.prev = s.cab.prev ∧ t.nv = s.nv ∧ t.mem = s.mem ∧ t.cores = s.cores
    (txnState s = 0 → Goes (.beginTxn r) s fun t =>
      CabShows 1 stOK s t ∧ txnState t = 1 ∧ t.cab.shadow = some s.cab.cur ∧ t.cab.staged = none ∧ Same t) ∧
    (txnState s ≠ 0 → Goes (.beginTxn r) s fun t => CabShows 1 stDENIED s t ∧ t.cab = s.cab ∧ Same t) ∧
    (let u := cabWritten 2 false s
     let len := fget cabB fCAB_ARG_LEN_LEN u
     let o := memBytes (cabSrc u) (Nat.max 0x240 (Nat.min len 0x1000000)) u
     txnState u = 1 →
      (stageErr (cabSrc u) len o u = none → Goes (.stage r) s fun t =>
        CabShows 2 stOK s t ∧ t.cab.shadow = some (mergeImage o (s.cab.shadow.getD s.cab.cur)) ∧
        t.cab.staged = some (BitVec.ofNat 32 (le32 o 8)) ∧ Same t) ∧
      (∀ e, stageErr (cabSrc u) len o u = some e → Goes (.stage r) s fun t =>
        CabShows 2 e.1 s t ∧ t.cab = s.cab ∧ Same t)) ∧
    ((∀ x, s.cab.edge = some x → reaches48 s.clk.p x.t = false) → Goes (.rollback r) s fun t =>
      CabShows 4 stOK s t ∧ txnState t = 0 ∧ t.cab.shadow = none ∧ t.cab.staged = none ∧ t.cab.edge = none ∧ Same t)

/-- R162, R165 to R168: COMMIT and REVERT; R163, R166, R169: the armed edge; R28: the end of the pause of CTRL. -/
def Obligations.CabinetCommitAndEdge : Prop :=
  (∀ (r : Requester) (timed : Bool) (new : CabStruct) (s : State), isPf0 r = true → mayCommand r s = true →
     fget cabB fCAB_CMD_BUSY s = 0 → mgmtPlane s ≠ 2 → s.nv.lc ≠ 3 →
     (let u := cabWritten 3 timed s
      s.cab.shadow = some new → s.cab.staged.isSome = true → txnState u = 1 →
       (∀ e, validate new timed (cabT u) u = some e → Goes (.commit r timed) s fun t =>
         CabShows 3 e.1 s t ∧ t.cab = s.cab ∧ t.nv = s.nv) ∧
       (validate new timed (cabT u) u = none → timed = false → Goes (.commit r timed) s fun t =>
         t.cab.cur = new ∧ t.cab.prev = (if s.cab.cur.gen = 0 then none else some s.cab.cur) ∧ t.cab.shadow = none ∧
         t.cab.staged = none ∧ txnState t = 0 ∧
         t.nv.hwm = new.gen ∧ CabShows 3 stOK s t) ∧
       (validate new timed (cabT u) u = none → timed = true → Goes (.commit r timed) s fun t =>
         t.cab = { s.cab with edge := some ⟨false, cabT u, true⟩ } ∧ txnState t = 2 ∧ t.nv = { s.nv with hwm := new.gen } ∧
         CabShows 3 stOK s t)) ∧
     (let u := cabWritten 5 timed s
      s.cab.prev = some new → txnState u = 0 →
       (∀ e, validate new timed (cabT u) u = some e → Goes (.revert r timed) s fun t =>
         CabShows 5 e.1 s t ∧ t.cab = s.cab ∧ t.nv = s.nv) ∧
       (validate new timed (cabT u) u = none → timed = false → Goes (.revert r timed) s fun t =>
         t.cab.cur = new ∧ t.cab.prev = none ∧ t.cab.shadow = s.cab.shadow ∧ txnState t = 0 ∧
         t.nv.hwm = s.nv.hwm ∧ CabShows 5 stOK s t) ∧
       (validate new timed (cabT u) u = none → timed = true → Goes (.revert r timed) s fun t =>
         t.cab = { s.cab with edge := some ⟨true, cabT u, true⟩ } ∧ txnState t = 2 ∧ t.nv = s.nv ∧ CabShows 5 stOK s t))) ∧
  ((∀ (x : CabEdge) (s : State), s.cab.edge = some x →
     (reaches48 s.clk.p x.t = false ∨ isSafe s = true → Goes .cabinetEdge s fun t =>
       t.cab = s.cab ∧ t.nv = s.nv ∧ t.mem = s.mem ∧ t.cores = s.cores ∧ t.clk = s.clk ∧ RegsKeptIn cabB s t ∧
       (sumpIdle s = true → t = s)) ∧
     (∀ new, edgeStruct x.revert s = some new → reaches48 s.clk.p x.t = true → isSafe s = false →
       (∀ a, s.drp.prop = some a → reaches48 x.t a.t = false) →
       (quietErr new s = none → inDrift s = false → Goes .cabinetEdge s fun t =>
         t.cab.cur = new ∧ t.cab.edge = none ∧ txnState t = 0 ∧ fget cabB fCAB_EVENT_APPLIED t = 1 ∧
         fget cabB fCAB_RESULT_STATUS t = 0 ∧ fget cabB fCAB_RESULT_CMD t = edgeCmd x.revert ∧
         (x.revert = false → t.cab.prev = (if s.cab.cur.gen = 0 then none else some s.cab.cur) ∧ t.cab.shadow = none) ∧
         (x.revert = true → t.cab.prev = none)) ∧
       (∀ e, quietErr new s = some e → Goes .cabinetEdge s fun t =>
         t.cab = { s.cab with edge := none } ∧ t.nv = s.nv ∧ t.mem = s.mem ∧ t.cores = s.cores ∧
         fget cabB fCAB_EVENT_NOT_APPLIED t = 1 ∧ fget cabB fCAB_RESULT_STATUS t = e.1.toNat) ∧
       (quietErr new s = none → inDrift s = true → Goes .cabinetEdge s fun t =>
         t.cab = { s.cab with edge := none } ∧ t.nv = s.nv ∧ t.mem = s.mem ∧ t.cores = s.cores ∧
         fget cabB fCAB_EVENT_NOT_APPLIED t = 1 ∧ fget cabB fCAB_RESULT_STATUS t = stLATE.toNat))) ∧
   (∀ s : State, ctrlPlane s = 2 → Goes .descriptorCacheEmpty s fun t =>
     ctrlPlane t = 1 ∧ t.bells = [] ∧ t.mem = s.mem ∧ t.cores = s.cores ∧ t.cab = s.cab))

/-! Clocks and the Dripline (R174 to R214, R326). -/

/-- R177, R186, R192, R195, R210: time, synchronisation, pulse and replicas. -/
def Obligations.SyncAndTime : Prop :=
  (∀ s : State, s.clk.locked = true → s.clk.w = 0xFFFFFFFFFFFF → (∀ n, s.drp.floorEnd = some n → 6 < n) →
    Goes .epochWrap s fun t =>
    t.clk.w = 0 ∧ t.clk.epoch = s.clk.epoch + 1 ∧ t.clk.now = s.clk.now + 1 ∧ fget drpB fDRP_EVENT_EPOCH_WRAP t = 1 ∧
    t = { s with clk := t.clk, regs := t.regs, perf := t.perf, drp := t.drp, host := t.host, mgmt := t.mgmt, pwr := t.pwr,
                 fab := t.fab }) ∧
  (∀ (q : Fin 8) (frac : BitVec 8) (m : BitVec 19) (p : Nat) (s : State), s.clk.locked = true → isSafe s = false → syncPeer s = some m →
    planePort q.val s = some p →
    (∀ x, tget (fun _ => none) s.drp.exchT q.val = some x → elapsed x ticksMs s = true) →
    Goes (.syncExchangeStart q frac) s fun t =>
      let n := s.drp.exchNo + 1
      t.drp.exchNo = n ∧ tget (fun _ => none) t.drp.exch q.val = some (n, stampAt frac s) ∧
      tget (fun _ => none) t.drp.exchT q.val = some s.clk.now ∧
      ItemQueued p (.drip (.syncReq (frameHdr m s) n)) s t ∧ t = { s with drp := t.drp, fab := t.fab }) ∧
  (∀ (h : FrameHdr) (exch : BitVec 16) (t1 : BitVec 56) (frac2 frac3 : BitVec 8) (p : Nat) (s : State), syncState s = 5 →
    isSafe s = false → h.dst = ownEid s → anyPort s = some p → Goes (.syncReq h exch t1 frac2 frac3) s fun t =>
      ItemQueued p (.drip (.syncResp (frameHdr h.src s) exch t1 (stampAt frac2 s) (stampAt frac3 s) s.clk.epoch)) s t ∧
      t = { s with fab := t.fab }) ∧
  (∀ (h : FrameHdr) (q : Fin 8) (exch epoch : BitVec 16) (t1 u1 t2 t3 : BitVec 56) (frac : BitVec 8) (c : BitVec 32)
      (s : State),
    tget (fun _ => none) s.drp.exch q.val = some (exch, u1) → h.dst = ownEid s → syncPeer s = some h.src →
    s.clk.locked = true → isSafe s = false →
    let e := estimateOf q.val (exchOffset u1 t2 t3 (stampAt frac s) c h.corr) s
    Goes (.syncResp h q exch t1 t2 t3 frac c epoch) s fun t =>
      let lim : Int := if syncState t = 1 ∨ syncState t = 4 then 100000000 else 1000000
      let cur : Int := max (-lim) (min lim (regGet (drpB + oDRP_FREQ) s).toInt)
      let f : Int := (regGet (drpB + oDRP_FREQ) t).toInt
      syncState t = nextSync e s ∧ t.drp.lastEst = some s.clk.now ∧
      regGet (drpB + oDRP_OFFSET) t = (if syncState s = 5 then 0 else BitVec.ofInt 32 (e * 5000 / 2048)) ∧
      -lim ≤ f ∧ f ≤ lim ∧ (0 < e → cur < lim → cur < f) ∧ (e < 0 → -lim < cur → f < cur) ∧ (e = 0 → f = cur) ∧
      t.clk.w = (if syncState s = 0 ∨ ((syncState s = 1 ∨ syncState s = 4) ∧ withinNs e 1000 = false)
        then s.clk.w + BitVec.ofInt 48 (e / 256) else s.clk.w)) ∧
  (∀ s : State, syncState s = 2 → (∀ x, s.drp.lastEst = some x → elapsed x (4 * ticksMs) s = true) →
    Goes .estimateTimeout s fun t => syncState t = 3 ∧ t.drp = { s.drp with holdStart := s.clk.now } ∧
      fget drpB fDRP_EVENT_HOLDOVER t = 1 ∧ t.mem = s.mem ∧ t.clk = s.clk ∧ t.cores = s.cores) ∧
  (∀ s : State, syncState s = 3 → elapsed s.drp.holdStart (holdoverMs s * ticksMs) s = true →
    Goes .holdoverExpiry s fun t => syncState t = 4 ∧ inDrift t = true ∧ t.drp = { s.drp with inBand := 0 } ∧
      fget drpB fDRP_EVENT_DRIFT t = 1 ∧ t.mem = s.mem ∧ t.clk = s.clk ∧ t.cores = s.cores) ∧
  (∀ s : State, let c := sectW s.cab.cur 8 3
    bitOf c 31 = true → syncState s ≠ 0 →
    (s.clk.w - BitVec.ofNat 48 (16 * bitsOf c 15 0)).toNat % 2 ^ bitsOf c 28 24 = 0 → Goes .tsPulse s fun t =>
      t = { s with drp := { s.drp with pulseEnd := some (s.clk.now + 16 * bitsOf c 23 16) } }) ∧
  (∀ (d : Fin 4) (s : State), replicaDiffers d.val s = true → collectorFree d.val s = true → Goes (.replicaCompare d) s fun t =>
    isSafe t = true ∧ fget burB fBUR_EVENT_FATAL t = 1 ∧ fget burB fBUR_ERRN_PIN t = 1 ∧ t.mem = s.mem ∧ t.fab = s.fab)

/-- R201 to R203: a change of the domain rung. -/
def Obligations.RungChange : Prop :=
  (∀ s : State, let k := wantedRung s
    mayPropose k s = true → k ≠ domRung s →
      Goes .rungDecide s (Proposed k s) ∧ (s.drp.lastAbort ≠ none → Goes .rungRepropose s (Proposed k s))) ∧
  (∀ (h : FrameHdr) (seq : BitVec 16) (k : BitVec 3) (T : BitVec 48) (s : State), ownFrame h s = true →
    h.src = keeperEid s → s.drp.prop = none → newer16 seq (rungSeq s) = true →
    (propStatus k T s ≠ stOK → Goes (.rungPropose h seq k T) s fun t =>
      DripSent (.rungNak (frameHdr h.src s) seq (propStatus k T s)) s t ∧ t = { s with fab := t.fab }) ∧
    (propStatus k T s = stOK → domRung s ≤ k.toNat → Goes (.rungPropose h seq k T) s fun t =>
      t.drp = { s.drp with prop := some ⟨seq, k, T, h.src, true, false⟩, seqLast := seq } ∧
      fget drpB fDRP_RUNG_ARMED t = 1 ∧ DripSent (.rungAck (frameHdr h.src s) seq) s t ∧
      RegsKept [drpB + oDRP_RUNG] s t ∧ t = { s with regs := t.regs, drp := t.drp, fab := t.fab }) ∧
    (propStatus k T s = stOK → k.toNat < domRung s → Goes (.rungPropose h seq k T) s fun t =>
      t.drp = { s.drp with prop := some ⟨seq, k, T, h.src, false, true⟩, seqLast := seq } ∧
      fget drpB fDRP_RUNG_ARMED t = 1 ∧ RegsKept [drpB + oDRP_RUNG] s t ∧ t = { s with regs := t.regs, drp := t.drp })) ∧
  (∀ (h : FrameHdr) (seq : BitVec 16) (st : BitVec 8) (c : KeeperChange) (s : State), ownFrame h s = true →
    s.drp.change = some c → c.seq = seq →
      (Goes (.rungAck h seq) s fun t => t = { s with drp := { s.drp with
        change := some { c with acks := if h.src ∈ c.acks then c.acks else h.src :: c.acks } } }) ∧
      Goes (.rungNak h seq st) s fun t => t = { s with drp := { s.drp with
        change := some { c with naks := h.src :: c.naks } } }) ∧
  (∀ (c : KeeperChange) (s : State), s.drp.change = some c → elapsed c.t0 (50 * ticksUs) s = true →
    (c.naks = [] → (∀ m ∈ ownEid s :: members s, m ∈ c.acks) → Goes .rungAckDeadline s fun t => t = s) ∧
    (c.naks ≠ [] ∨ (∃ m ∈ ownEid s :: members s, m ∉ c.acks) → Goes .rungAckDeadline s fun t =>
      t.drp.change = none ∧ t.drp.lastAbort = some (c.k, s.clk.now) ∧
      (∀ m ∈ members s, DripSent (.rungAbort (frameHdr m s) c.seq) s t) ∧
      (∀ a, s.drp.prop = some a → a.seq = c.seq → reaches48 s.clk.p a.t = false → Aborted a s t))) ∧
  (∀ (h : FrameHdr) (a : ArmedProp) (s : State), ownFrame h s = true → h.src = keeperEid s → s.drp.prop = some a →
    reaches48 s.clk.p a.t = false → Goes (.rungAbort h a.seq) s fun t => Aborted a s t ∧
      t.drp = { s.drp with prop := none } ∧ RegsOutside drpB 0x100000 s t ∧ t.mem = s.mem ∧ t.cores = s.cores) ∧
  (∀ (a : ArmedProp) (s : State), s.drp.prop = some a → reaches48 s.clk.p a.t = true → isSafe s = false →
    Goes .rungSwitch s fun t =>
      t.drp.prop = none ∧ t.drp.change = none ∧ domRung t = a.k.toNat ∧ rungSeq t = a.seq ∧ rungT t = a.t ∧
      fget drpB fDRP_RUNG_ARMED t = 0 ∧ fget drpB fDRP_EVENT_RUNG_DONE t = 1 ∧ t.clk.w = s.clk.w ∧
      t.clk.p = a.t + BitVec.ofNat 48 (((s.clk.p - a.t).toNat * divider (domRung s) + s.clk.pFrac) / divider a.k.toNat) ∧
      curRung t = (if paceState s = 1 then a.k.toNat else curRung s) ∧
      (paceState s = 1 → VcoreSwitched (curRung s) a.k.toNat s t) ∧ (paceState s ≠ 1 → t.pwr.vcore = s.pwr.vcore) ∧
      t.mem = s.mem ∧ t.cores = s.cores) ∧
  (∀ (h : FrameHdr) (k : BitVec 3) (s : State), ownFrame h s = true → isKeeper s = true → k.toNat ≤ 5 →
    Goes (.rungReq h k) s fun t =>
      tget (fun _ => none) t.drp.ceilings h.src.toNat = some k ∧
      (∀ e, e ≠ h.src.toNat → tget (fun _ => none) t.drp.ceilings e = tget (fun _ => none) s.drp.ceilings e) ∧
      t = { s with drp := { s.drp with ceilings := t.drp.ceilings } }) ∧
  (∀ s : State, (∀ x, s.drp.lastReq = some x → elapsed x (10 * ticksMs) s = true) → s.clk.locked = true →
    let k := BitVec.ofNat 3 (fget drpB fDRP_RUNG_CEILING s)
    Goes .rungReqRepeat s fun t => t.drp.lastReq = some s.clk.now ∧ t = { s with drp := t.drp, fab := t.fab } ∧
      (isKeeper s = true → tget (fun _ => none) t.drp.ceilings (ownEid s).toNat = some k) ∧
      (isKeeper s = false → DripSent (.rungReq (frameHdr (keeperEid s) s) k) s t)) ∧
  (∀ (r : Requester) (v : BitVec 32) (s : State), isPf0 r = true → mayCommand r s = true → let k := bitsOf v.toNat 2 0
    (k ≤ 5 → Goes (.drpRungTargetWrite r v) s fun t =>
      fget drpB fDRP_RUNG_TARGET_TARGET t = k ∧ RegsKept [drpB + oDRP_RUNG_TARGET] s t ∧
      t = { s with regs := t.regs, out := if isKeeper s then s.out else s.out ++ [.rungTarget (keeperEid s) k] }) ∧
    (5 < k → Goes (.drpRungTargetWrite r v) s fun t =>
      RegsOutside burB 0x100000 s t ∧ fget burB fBUR_EVENT_CORRECTED t = 1 ∧
      t = { s with regs := t.regs, bur := t.bur, perf := t.perf, host := t.host, mgmt := t.mgmt }))

/-- R199, R204, R205: keeper and record; R203, R206, R326, R339: the floor state and the setpoint (after RECORD the
model's choice, log entry 91). -/
def Obligations.KeeperAndFloor : Prop :=
  ((∀ s : State, isKeeper s = true → s.clk.locked = true → isSafe s = false → elapsed s.drp.lastBeacon ticksMs s = true →
     Goes .beaconSend s fun t => t.drp = { s.drp with lastBeacon := s.clk.now } ∧
       (∀ m ∈ members s, DripSent (.beacon (frameHdr m s) (ownRecord s)) s t) ∧ t = { s with drp := t.drp, fab := t.fab }) ∧
   (∀ (h : FrameHdr) (rec : DomRecord) (s : State), ownFrame h s = true → isKeeper s = false → h.src ≠ 0x7FFFF →
     (h.src = keeperEid s ∨ h.src.toNat = backupCfg s) →
     (owesRecord s = true → Goes (.beacon h rec) s fun t => keeperReg t = h.src.toNat ∧ paceState t = paceState s ∧
       DripSent (.recordReq (frameHdr h.src s)) s t ∧ t = { s with regs := t.regs, drp := t.drp, fab := t.fab }) ∧
     (owesRecord s = false → rec.seq = rungSeq s → rec.rung.toNat = domRung s → Goes (.beacon h rec) s fun t =>
       t.drp = { s.drp with lastBeacon := s.clk.now } ∧ keeperReg t = h.src.toNat ∧ RegsKept [drpB + oDRP_KEEPER] s t ∧
       t = { s with regs := t.regs, drp := t.drp }) ∧
     (owesRecord s = false → (rec.seq ≠ rungSeq s ∨ rec.rung.toNat ≠ domRung s) → (∀ a, s.drp.prop = some a → a.seq ≠ rec.seq) →
       Goes (.beacon h rec) s fun t =>
         paceState t = 3 ∧ inDrift t = true ∧ fget drpB fDRP_EVENT_SLIP t = 1 ∧ keeperReg t = h.src.toNat ∧
         DripSent (.recordReq (frameHdr h.src s)) s t ∧ t.clk = s.clk ∧ t.mem = s.mem ∧ t.cores = s.cores)) ∧
   (∀ s : State, isKeeper s = false → backupCfg s = (ownEid s).toNat → s.clk.locked = true → isSafe s = false →
     elapsed s.drp.lastBeacon (10 * ticksMs) s = true →
     ((paceState s = 0 ∨ paceState s = 3) → Goes .keeperTakeover s fun t =>
       isKeeper t = true ∧ keeperReg t = (ownEid s).toNat ∧ fget drpB fDRP_STATUS_KEEPER t = 1 ∧
       (inFloor s = false → paceState t = 1 ∧ curRung t = domRung s) ∧ (inFloor s = true → paceState t = 2) ∧
       t.mem = s.mem ∧ t.cores = s.cores) ∧
     (paceState s ≠ 0 → paceState s ≠ 3 → Goes .keeperTakeover s fun t =>
       isKeeper t = true ∧ keeperReg t = (ownEid s).toNat ∧ fget drpB fDRP_STATUS_KEEPER t = 1 ∧
       t.drp = { s.drp with lastBeacon := s.clk.now } ∧ (∀ m ∈ members s, DripSent (.beacon (frameHdr m s) (ownRecord s)) s t) ∧
       RegsKept [drpB + oDRP_KEEPER, drpB + oDRP_STATUS] s t ∧ t = { s with regs := t.regs, drp := t.drp, fab := t.fab })) ∧
   (∀ (h : FrameHdr) (s : State), ownFrame h s = true → isKeeper s = true → Goes (.recordReq h) s fun t =>
     DripSent (.record (frameHdr h.src s) (ownRecord s)) s t ∧ t = { s with fab := t.fab }) ∧
   (∀ (h : FrameHdr) (rec : DomRecord) (s : State), ownFrame h s = true → h.src = keeperEid s →
     owesRecord s = true → rec.rung.toNat ≤ 5 → s.drp.prop = none → Goes (.record h rec) s fun t => t.drp.owed = false ∧
       t.clk.p = (pAfter rec.pRef 0 (6 * (s.clk.w - rec.wRef).toNat : Nat) rec.rung.toNat).1 ∧ t.clk.w = s.clk.w ∧
       domRung t = rec.rung.toNat ∧ rungSeq t = rec.seq ∧ rungT t = rec.t ∧ t.drp.wRef = rec.wRef ∧ t.drp.pRef = rec.pRef ∧
       (inFloor s = false → paceState t = 1 ∧ curRung t = rec.rung.toNat ∧ VcoreSwitched (curRung s) rec.rung.toNat s t) ∧
       (inFloor s = true → paceState t = 2 ∧ curRung t = curRung s ∧ t.pwr.vcore = s.pwr.vcore))) ∧
  ((let In : Nat → State → State → Prop := fun c s t =>
       causeBits t = setBit (causeBits s) c true ∧ inFloor t = true ∧ fget pwrB (floorEvt c).bit t = 1 ∧
       domRung t = domRung s ∧ t.stool = s.stool ∧ t.mem = s.mem ∧ t.cores = s.cores ∧ t.clk.w = s.clk.w ∧ t.clk.p = s.clk.p ∧
       (inFloor s = false → curRung t = 5 ∧ t.pwr.vcore = 580 ∧ t.pwr.vcoreDue = none ∧ fget pwrB fPWR_MEM_ADMIT t = 1 ∧
         fget drpB fDRP_RUNG_CEILING t = 5 ∧ paceState t = 2 ∧ t.drp.owed = (paceState s == 0 || paceState s == 3)) ∧
       (inFloor s = true → RegsOutside pwrB 0x100000 s t ∧ t.clk = s.clk ∧ t.drp.floorWait = false ∧ t.drp.floorEnd = none ∧
         t.pwr = if s.drp.floorWait || s.drp.floorEnd.isSome then { s.pwr with vcore := 580, vcoreDue := none } else s.pwr)
     ∀ s : State,
       (∀ c : Fin 5, (bitOf (causeBits s) c.val = false → Goes (.floorEntry c) s (In c.val s)) ∧
         (bitOf (causeBits s) c.val = true → Goes (.floorEntry c) s fun t => t = s)) ∧
       (∀ n, (100 ≤ n → inert s = false → bitOf (causeBits s) 0 = false → Goes (.brakeNAssert n) s (In 0 s)) ∧
         (n < 100 ∨ inert s = true → Goes (.brakeNAssert n) s fun t => t = s)) ∧
       (∀ n, (1000 ≤ n → inert s = false → Goes (.brakeNRelease n) s fun t => causeBits t = setBit (causeBits s) 0 false ∧
           RegsKept [pwrB + oPWR_STATUS] s t ∧ t = { s with regs := t.regs }) ∧
         (n < 1000 ∨ inert s = true → Goes (.brakeNRelease n) s fun t => t = s))) ∧
   (∀ s : State, inFloor s = true → causeBits s = 0 →
     (s.drp.floorWait = false → s.drp.floorEnd = none → Goes .floorExit s fun t => t = { s with
       pwr := { s.pwr with vcore := rungMv (exitRung s), vcoreDue := none }, drp := { s.drp with floorWait := true } }) ∧
     (s.drp.floorWait = true → (∀ a, s.drp.prop = some a → a.acked = true) → Goes .setpointAccepted s fun t =>
       t = { s with drp := { s.drp with floorWait := false, floorEnd := some (floorLeft s) } })) ∧
   (∀ (a : ArmedProp) (s : State), s.drp.prop = some a → a.acked = false →
     Goes .setpointAccepted s fun t =>
       t.drp.prop = some { a with acked := true } ∧ t.pwr = { s.pwr with vcore := rungMv a.k.toNat, vcoreDue := none } ∧
       (a.keeper ≠ ownEid s → DripSent (.rungAck (frameHdr a.keeper s) a.seq) s t) ∧
       t = { s with drp := t.drp, fab := t.fab, pwr := t.pwr }))

/-! Power, heat and coolant (R328 to R351). -/

/-- R328 to R332, R339, R351: admission and pre-ramp. -/
def Obligations.StepstoolAndRamps : Prop :=
  (∀ (d : Fin 4) (s : State), elapsed (s.stool.last.getD d.val 0) (stoolTicks (curRung s)) s = false →
    Goes (.stepstoolAdmit d) s fun t => t = s) ∧
  (∀ (d : Fin 4) (c : Nat) (s : State), isSafe s = false →
    elapsed (s.stool.last.getD d.val 0) (stoolTicks (curRung s)) s = true →
    (inFloor s = false → (mustRelease d.val s || overLimit d.val s) = true → victim d.val s = some c →
      Goes (.stepstoolAdmit d) s fun t => StoolMoved d.val s t ∧ t.stool.admitted = s.stool.admitted.erase c ∧
        t.stool.ask = (if (getCore c s).run.isSome then c :: s.stool.ask.erase c else s.stool.ask.erase c) ∧
        t.stool.elig = s.stool.elig.erase c) ∧
    (inFloor s = false → (mustRelease d.val s || overLimit d.val s) = false → nextAsk d.val s = some c →
      (mayNotAdmit d.val s || atLimit d.val s) = false → Goes (.stepstoolAdmit d) s fun t => StoolMoved d.val s t ∧
        t.stool.admitted = s.stool.admitted ++ [c] ∧ t.stool.ask = s.stool.ask.erase c ∧
        t.stool.elig = s.stool.elig.erase c) ∧
    (inFloor s = false → (mustRelease d.val s || overLimit d.val s) = false → nextAsk d.val s = none →
      rampN d.val s = none → releasable d.val s = some c → Goes (.stepstoolAdmit d) s fun t => StoolMoved d.val s t ∧
        t.stool.admitted = s.stool.admitted.erase c ∧ t.stool.ask = s.stool.ask.erase c ∧
        t.stool.elig = s.stool.elig.erase c) ∧
    (∀ k, inFloor s = false → (mustRelease d.val s || overLimit d.val s) = false → nextAsk d.val s = some k →
      (mayNotAdmit d.val s || atLimit d.val s) = true → rampKeeps d.val s = false → releasable d.val s = some c →
      Goes (.stepstoolAdmit d) s fun t => StoolMoved d.val s t ∧
        t.stool.admitted = s.stool.admitted.erase c ∧ t.stool.ask = s.stool.ask.erase c ∧
        t.stool.elig = s.stool.elig.erase c) ∧
    (inFloor s = true → s.stool.admitted.length < 8 → c / 64 = d.val →
      ((floorPref s).find? fun k => s.stool.ask.contains k && admissible k s && coreWants k s) = some c →
      Goes (.stepstoolAdmit d) s fun t => StoolMoved d.val s t ∧
        t.stool.admitted = s.stool.admitted ++ [c] ∧ t.stool.ask = s.stool.ask.erase c)) ∧
  (∀ (c : Fin 256) (s : State), c.val ∉ s.stool.admitted →
    let Held : State → Prop := fun t => fget (coreB c.val) fCORE_PROG_STATUS_STATE t = 2 ∧
      RegsKept [coreB c.val + oCORE_PROG_STATUS] s t ∧ t = { s with regs := t.regs, stool := t.stool }
    (bundleReady c.val s = false → Goes (.bundleIssue c) s fun t => t = s) ∧
    (bundleReady c.val s = true → c.val ∉ s.stool.ask →
      (askedNow s = [] → Goes (.bundleIssue c) s fun t => Held t ∧
        t.stool = { s.stool with ask := s.stool.ask ++ [c.val], askNow := (s.clk.now + 1, [c.val]) }) ∧
      (∀ l d, askedNow s = [d] → s.stool.ask = l ++ [d] → d ∉ l → c.val < d → Goes (.bundleIssue c) s fun t => Held t ∧
        t.stool.ask = l ++ [c.val, d]))) ∧
  (∀ (c : Fin 256) (s : State), c.val ∈ s.stool.admitted → c.val ∉ s.stool.elig → coreIdle c.val s = true →
    rampKeeps (c.val / 64) s = false → Goes (.coreIdleRelease c) s fun t =>
      t = { s with stool := { s.stool with elig := s.stool.elig ++ [c.val] } }) ∧
  (∀ (r : Requester) (e : Fin 16) (n : BitVec 7) (hold : BitVec 8) (s : State), mayCommand r s = true →
    let x := getRamp e.val s
    let st := rampStatus r e.val n.toNat hold.toNat s
    (rampReach r e.val s = false ∨ x.st ≠ 0 → Goes (.rampArm r e n hold) s (RampIs e.val { x with cmd := 1, status := st } s)) ∧
    (rampReach r e.val s = true → x.st = 0 → st ≠ stOK →
      Goes (.rampArm r e n hold) s (RampIs e.val { x with cmd := 1, status := st, n := n, hold := hold } s)) ∧
    (rampReach r e.val s = true → x.st = 0 → st = stOK →
      Goes (.rampArm r e n hold) s (RampIs e.val { x with
        cmd := 1, status := stOK, n := n, hold := hold, st := if armPast x.t s.clk.p then 2 else 1, fired := s.clk.now } s)) ∧
    (rampReach r e.val s = false → Goes (.rampDisarm r e) s (RampIs e.val { x with cmd := 2, status := stDENIED } s)) ∧
    (rampReach r e.val s = true → Goes (.rampDisarm r e) s fun t =>
      t.pwr = { s.pwr with ramps := modAt e.val (fun _ => { x with cmd := 2, status := stOK, st := 0 }) s.pwr.ramps } ∧
      t.stool.admitted = s.stool.admitted ∧ (x.st ≠ 2 → t.stool = s.stool) ∧ t = { s with pwr := t.pwr, stool := t.stool })) ∧
  (∀ (e : Fin 16) (s : State), let x := getRamp e.val s
    (x.st = 1 → reaches48 s.clk.p x.t = true → Goes (.rampFire e) s (RampIs e.val { x with st := 2, fired := s.clk.now } s)) ∧
    (x.st = 1 → reaches48 s.clk.p x.t = false → Goes (.rampFire e) s fun t => t = s) ∧
    (x.st = 2 → elapsed x.fired (ticksUs * x.hold.toNat) s = true → Goes (.rampHoldExpiry e) s fun t =>
      t.pwr = { s.pwr with ramps := modAt e.val (fun _ => { x with st := 0 }) s.pwr.ramps } ∧
      t.stool.admitted = s.stool.admitted ∧ t = { s with pwr := t.pwr, stool := t.stool }) ∧
    (x.st = 2 → elapsed x.fired (ticksUs * x.hold.toNat) s = false → Goes (.rampHoldExpiry e) s fun t => t = s))

/-- R333 to R337, R342, R448, R462: samples, controller, cap, heartbeat. -/
def Obligations.PowerAndCap : Prop :=
  (∀ (l : List (Option (Nat × Nat))) (s : State), inert s = true → Goes (.railSample l) s fun t => t = s) ∧
  (∀ (l : List (Option (Nat × Nat))) (s : State), inert s = false → Goes (.railSample l) s fun t =>
    let all := ((List.range 8).map fun r => railPower l r s).sum
    let cmp := ((List.range 4).map fun r => railPower l r s).sum
    t.pwr.samples = ((all, cmp) :: s.pwr.samples).take 1000 ∧
    fget pwrB fPWR_LIMIT_AVG_W t = Nat.min (pAvg t / 10000) 0xFFFF ∧
    (∀ r < 8, ∀ v i, l.getD r none = some (v, i) → fget pwrB (fRailV r) t = v % 65536 ∧ fget pwrB (fRailI r) t = i % 65536) ∧
    (∀ r < 8, l.getD r none = none → elapsed (s.pwr.railT.getD r 0) (10 * ticksMs + 1) s = true →
      fget pwrB (fRailI r) t = 0xFFFF) ∧
    RegsOutside pwrB 0x100000 s t ∧ t = { s with regs := t.regs, pwr := t.pwr, perf := t.perf }) ∧
  (∀ s : State, mgmtPlane s ≠ 1 → Goes .powerControllerTick s fun t => t = s) ∧
  (∀ s : State, mgmtPlane s = 1 →
    let L := nextLimit s
    let low := (prioOrder s).any fun p => s.pwr.admLim.getD p 256 == 8
    let top := ((List.range 6).find? fun k => rungAllowed s.cab.cur k && decide (pPred k s ≤ 100 * L)).getD 5
    let adm := if 100 * L < pPred 5 s then memAdmit { s with pwr := { s.pwr with lim := L } } else 64
    let ceil := if low then 5 else if s.pwr.memF = 64 then top else Nat.max top (fget pwrB fPWR_STATUS_CEIL_PWR s)
    let f := if low then Nat.min adm s.pwr.memF else adm
    Goes .powerControllerTick s fun t =>
      t.pwr.lim = L ∧ fget pwrB fPWR_LIMIT_LIMIT_W t = L / 100 % 65536 ∧ fget pwrB fPWR_STATUS_CEIL_PWR t = ceil ∧
      (fget pwrB fPWR_STATUS_CAPPED t = 1 ↔ fastest s < ceil) ∧ t.pwr.memF = f ∧
      fget pwrB fPWR_PRED0_PRED_W0 t = Nat.min (pPred 0 s / 10000) 0xFFFF ∧
      fget pwrB fPWR_PRED2_PRED_W5 t = Nat.min (pPred 5 s / 10000) 0xFFFF ∧
      t.mem = s.mem ∧ t.cores = s.cores ∧ t.clk = s.clk ∧ t.stool = s.stool ∧
      (100 * L < p10Of s → 100 * L < pPred 5 s → f = 1 → curRung s = 5 →
        (∀ p, ((prioOrder s).find? fun p => s.pwr.admLim.getD p 256 != 8) = some p →
          t.pwr.admLim = modAt p (fun _ => 8) s.pwr.admLim) ∧
        (((prioOrder s).find? fun p => s.pwr.admLim.getD p 256 != 8) = none →
          t.pwr.admLim = s.pwr.admLim ∧ fget pwrB fPWR_STATUS_UNREACHABLE t = 1))) ∧
  (∀ (c : BitVec 16) (u : Bool) (s : State),
    (mgmtPlane s ≠ 1 → mgmtPlane s ≠ 2 → Goes (.capReq c u) s fun t => t = s) ∧
    (mgmtPlane s = 2 → Goes (.capReq c u) s (MgmtWaits (.capReq c u) s)) ∧
    (mgmtPlane s = 1 → c.toNat < 900 ∨ 3600 < c.toNat → Goes (.capReq c u) s fun t =>
      t = { s with out := s.out ++ [.mgmtReply 2 2 ⟨stLENGTH, 0, []⟩] }) ∧
    (mgmtPlane s = 1 → 900 ≤ c.toNat → c.toNat ≤ 3600 → Goes (.capReq c u) s fun t =>
      let far := 10000 ≤ Sys2Proof.Machine.dist s.pwr.lim (100 * capEff t)
      let budget := fget pwrB fPWR_URGENT_BUDGET s
      capRack t = c.toNat ∧ fget pwrB fPWR_CAP_EFF_W t = capEff t ∧ t.pwr.capSent = true ∧
      (capEff t < capEff s → t.pwr.lim ≤ Nat.max (100 * capEff t) (pAvg s / 100)) ∧
      (capEff s ≤ capEff t → t.pwr.lim = s.pwr.lim) ∧
      (u = false → t.pwr.rate = followWps s) ∧
      (u = true → far → urgentUsed s < budget → t.pwr.rate = 100000 ∧ s.clk.now ∈ t.pwr.urgent) ∧
      (u = true → far → budget ≤ urgentUsed s → t.pwr.rate = followWps s ∧ fget pwrB fPWR_EVENT_URGENT_EMPTY t = 1) ∧
      (∃ body, t.out = s.out ++ [.mgmtReply 2 2
        ⟨stOK, if u = true ∧ far ∧ budget ≤ urgentUsed s then 1 else 0, body⟩] ∧ body.length = 4) ∧
      RegsOutside pwrB 0x100000 s t ∧
      t = { s with regs := t.regs, pwr := t.pwr, host := t.host, mgmt := t.mgmt, out := t.out })) ∧
  (∀ s : State,
    (hbAge (2 * ticksS) s = true → fget pwrB fPWR_STATUS_HB_LOST s = 0 → Goes .hbLost s fun t =>
      fget pwrB fPWR_STATUS_HB_LOST t = 1 ∧ fget pwrB fPWR_EVENT_HB_LOST t = 1 ∧ RegsOutside pwrB 0x100000 s t ∧
      t = { s with regs := t.regs, host := t.host, mgmt := t.mgmt }) ∧
    (hbAge (32 * ticksS) s = true → fget pwrB fPWR_STATUS_ORPHAN s = 0 → Goes .orphan s fun t =>
      fget pwrB fPWR_STATUS_ORPHAN t = 1 ∧ fget pwrB fPWR_EVENT_ORPHAN t = 1 ∧ t.pwr = { s.pwr with rate := followWps s } ∧
      fget pwrB fPWR_CAP_EFF_W t = capEff t ∧ RegsOutside pwrB 0x100000 s t ∧
      t = { s with regs := t.regs, pwr := t.pwr, host := t.host, mgmt := t.mgmt })) ∧
  (∀ (p : Fin 3) (s : State), mgmtPlane s = 2 → Goes (.heartbeat p) s (MgmtWaits (.heartbeat (msgPort p.val)) s)) ∧
  (∀ (p : Fin 3) (s : State), mgmtPlane s = 1 → Goes (.heartbeat p) s fun t =>
    t.pwr.hb = some s.clk.now ∧ t.mgmt = { s.mgmt with hbPort := some (msgPort p.val) } ∧
    fget pwrB fPWR_STATUS_HB_LOST t = 0 ∧ fget pwrB fPWR_STATUS_ORPHAN t = 0 ∧ RegsOutside pwrB 0x100000 s t ∧
    t.out = s.out ++ [.mgmtReply 2 1 ⟨stOK, regGet (cabB + oCAB_GEN_CUR) t,
      [regGet (pwrB + oPWR_STATUS) t, regGet (pwrB + oPWR_CAP) t, regGet (pwrB + oPWR_LIMIT) t, complyWord t,
        regGet (drpB + oDRP_STATUS) t, regGet (hubB + oHUB_PLANE_STATUS) t].flatMap fun v => leBytes 4 v.toNat⟩] ∧
    t = { s with regs := t.regs, pwr := t.pwr, mgmt := t.mgmt, out := t.out })

/-- R339, R343 to R346, R349, R351: heat and coolant. -/
def Obligations.HeatAndCoolant : Prop :=
  (∀ (inlet : BitVec 16) (flow : BitVec 8) (lost : Bool) (s : State),
    (mgmtPlane s ≠ 1 → mgmtPlane s ≠ 2 → Goes (.cooling inlet flow lost) s fun t => t = s) ∧
    (mgmtPlane s = 2 → Goes (.cooling inlet flow lost) s (MgmtWaits (.cooling inlet lost) s)) ∧
    (mgmtPlane s = 1 → Goes (.cooling inlet flow lost) s fun t =>
      t.out = s.out ++ [.mgmtReply 2 3 ⟨stOK, 0, []⟩] ∧
      t.pwr.inlet = (s.clk.now, inlet.toNat) :: s.pwr.inlet.filter (fun x => !elapsed x.1 (60 * ticksS) s) ∧
      fget pwrB fPWR_INLET_INLET_C t = (BitVec.ofInt 8 (inlet.toInt / 10)).toNat ∧
      bitOf (causeBits t) 4 = lost ∧ (lost = true → bitOf (causeBits s) 4 = false → inFloor t = true) ∧
      (lost = false → bitOf (causeBits t) 3 = (bitOf (causeBits s) 3 && decide (2 * (throttleC s - 5) ≤ tHot s)) ∧
        inFloor t = inFloor s) ∧ t.mem = s.mem ∧ t.cores = s.cores ∧ t.stool = s.stool)) ∧
  (∀ (l : List (Option Int)) (s : State), inert s = true → Goes (.thermalSample l) s fun t => t = s) ∧
  (∀ (l : List (Option Int)) (s : State), inert s = false →
    let used := (List.range 52).map fun k => (pairUsed l k s).1
    let hot := used.foldl max (used.headD 0)
    Goes (.thermalSample l) s fun t =>
      t.pwr.th = (if hoCan 6660 s then (hot :: s.pwr.thWait ++ s.pwr.th).take 1000 else s.pwr.th) ∧
      t.pwr.thWait = (if hoCan 6660 s then [] else hot :: s.pwr.thWait) ∧ t.pwr.hist = (used :: s.pwr.hist).take 251 ∧
      fget pwrB fPWR_HOT_HOT_C t = (BitVec.ofInt 8 (hot / 2)).toNat ∧
      (∀ st < 20, fget (memB st) fMEM_STATUS_TEMP t = (BitVec.ofInt 8 ((validRead l (104 + st) s).getD 95)).toNat) ∧
      (∀ k < 52, ∀ i ∈ (pairUsed l k s).2, sensorFaulty i t = true) ∧
      (∀ st < 20, validRead l (104 + st) s = none → sensorFaulty (104 + st) t = true) ∧
      (2 * floorC s ≤ hot → bitOf (causeBits t) 1 = true) ∧
      (2 * throttleC s < hot → fget pwrB fPWR_STATUS_CEIL_THERM s < 5 → elapsed s.pwr.thStep (10 * ticksMs) s = true →
        fget pwrB fPWR_STATUS_CEIL_THERM t = fget pwrB fPWR_STATUS_CEIL_THERM s + 1 ∧ fget pwrB fPWR_EVENT_THROTTLE t = 1) ∧
      (2 * throttleC s < hot → elapsed s.pwr.thStep (10 * ticksMs) s = false →
        fget pwrB fPWR_STATUS_CEIL_THERM t = fget pwrB fPWR_STATUS_CEIL_THERM s) ∧
      t.mem = s.mem ∧ t.cores = s.cores ∧ t.stool = s.stool) ∧
  (∀ s : State, mgmtPlane s = 1 → rthValid (sendHot s) = true →
    let r := rthNow (sendHot s)
    let old := s.pwr.rth.filter fun x => !elapsed x.1 (60 * ticksS) s
    let low := (old.map Prod.snd).foldl Nat.min ((old.map Prod.snd).headD r)
    let base := fget pwrB fPWR_RTH_BASE s
    Goes .rthEstimate s fun t =>
      t.pwr.rth = (s.clk.now, r) :: old ∧ fget pwrB fPWR_RTH_RTH t = Nat.min r 0xFFFF ∧ RegsOutside pwrB 0x100000 s t ∧
      t = { s with regs := t.regs, pwr := t.pwr, host := t.host, mgmt := t.mgmt } ∧
      (degraded s = false → 5 * low < 4 * r → degraded t = true ∧ fget pwrB fPWR_EVENT_COOL_DEGRADED t = 1 ∧
        t.pwr.coolCap = Nat.min (capRack s) (capRack s * low / Nat.max r 1) ∧ t.pwr.rate = followWps s ∧
        fget pwrB fPWR_CAP_EFF_W t = capEff t) ∧
      (degraded s = false → 4 * r ≤ 5 * low → degraded t = false ∧ t.pwr.coolCap = s.pwr.coolCap) ∧
      (degraded s = true → 11 * base < 10 * r → degraded t = true ∧ t.pwr.rthOk = none ∧
        t.pwr.coolCap = Nat.min (capRack s) (capRack s * base / Nat.max r 1)) ∧
      (degraded s = true → 10 * r ≤ 11 * base → heldFor s.pwr.rthOk (60 * ticksS) s = true → degraded t = false)) ∧
  (∀ (d : Fin 5) (s : State), Goes (.thermtrip d) s fun t =>
    t.pwr = { s.pwr with trip := true } ∧ eclkRuns t = false ∧ isSafe t = true ∧ fget burB fBUR_EVENT_FATAL t = 1 ∧
    fget burB fBUR_ERRN_PIN t = 1 ∧ t.mem = s.mem ∧ t.fab = s.fab) ∧
  (∀ (r : Requester) (s : State), isPf0 r = true → mayCommand r s = true →
    (tHot s < 2 * (throttleC s - 5) → Goes (.coolClear r) s fun t => causeBits t = setBit (causeBits s) 3 false ∧
      RegsKept [pwrB + oPWR_STATUS] s t ∧ t = { s with regs := t.regs }) ∧
    (2 * (throttleC s - 5) ≤ tHot s → Goes (.coolClear r) s fun t => t = s))

/-! Start-up, resets and firmware (R352 to R381). -/

/-- R352, R377, R378: start-up; R252, R322, R358, R386, R465: the whole-package reset; R457: the pins after it (the levels of
PWR_GOOD are the model's choice, log entry 93). -/
def Obligations.StartUp : Prop :=
  (∀ (b : BootIn) (s : State),
    (s.pwr.trip = true → Goes (.coldBoot b) s fun t => t = { s with boot := { s.boot with good := 0xFF } }) ∧
    (s.boot.phase = 0 → s.pwr.trip = false → s.boot.refclk = false → Goes (.coldBoot b) s fun t =>
      t = { s with boot := { s.boot with wait := some b, good := 0xFF } }) ∧
    (s.boot.phase = 0 → s.pwr.trip = false → s.boot.refclk = true → Goes (.coldBoot b) s fun t =>
      t.clk.locked = true ∧ t.boot.t0 = s.clk.now ∧ t.mem = s.mem ∧ t.flash = s.flash ∧
      regGet (hostB + oHOST_BOOT_ID_LO) t = b.bootId.setWidth 32 ∧
      (b.pufOk = false → t.boot.phase = 4 ∧ fget hubB fHUB_BOOT_STEP t = 1 ∧ fget hubB fHUB_BOOT_ERROR t = stCHECK.toNat ∧
        t.nv = s.nv) ∧
      (b.pufOk = true → t.boot.phase = 1 ∧
        ((bankStatus (firstBank s) s).1 ≠ stOK → fget hubB fHUB_BOOT_STEP t = 2 ∧ t.nv = s.nv ∧
          fget hubB fHUB_BOOT_ERROR t = (bankStatus (firstBank s) s).1.toNat) ∧
        ((bankStatus (firstBank s) s).1 = stOK → b.lerfenAlive = false → fget hubB fHUB_BOOT_STEP t = 3 ∧ t.nv = s.nv ∧
          fget hubB fHUB_BOOT_ERROR t = stTIMEOUT.toNat) ∧
        ((bankStatus (firstBank s) s).1 = stOK → b.lerfenAlive = true → HubRuns (firstBank s) b t)))) ∧
  (∀ s : State, (s.boot.wait = none → Goes .rootPllLock s fun t => t = { s with boot := { s.boot with refclk := true } }) ∧
    (∀ b, s.boot.wait = some b → s.boot.phase = 0 → s.pwr.trip = false → Goes .rootPllLock s fun t =>
      t.clk.locked = true ∧ t.boot.refclk = true ∧ t.boot.t0 = s.clk.now ∧ t.boot.phase = if b.pufOk then 1 else 4)) ∧
  (∀ s : State, booted s = true → isSafe s = false → linksDone s = true → timeReady s = false → Goes .ready s fun t => t = s) ∧
  (∀ s : State, booted s = true → isSafe s = false → (∀ p < 32, portState p s ≠ 1) → timeReady s = true → Goes .ready s fun t =>
    isReady t = true ∧ ctrlPlane t = 1 ∧ dataPlane t = 1 ∧ t.boot.phase = 2 ∧ fget hubB fHUB_BOOT_STEP t = 15 ∧
    fget hubB fHUB_BOOT_TIME_MS t = Nat.min ((s.clk.now - s.boot.t0) / ticksMs) 0xFFFF ∧
    (s.boot.wait = none → t.mem = s.mem ∧ t.nv = s.nv) ∧
    ∀ b, s.boot.wait = some b →
      let u := stacksTrained b s
      (∀ p < 4, bitOf t.nv.scrubs p = false) ∧
      (∀ st < 20, b.stackOk.getLsbD st = false → stackOk st t = false) ∧
      (∀ st < 20, b.stackOk.getLsbD st = true → b.scrubStacks.getLsbD st = false → stackOk st t = true) ∧
      (∀ a, (∃ p < 4, bitOf s.nv.scrubs p = true ∧ scrubCoversOn (pendingDies p s) p a u = true) → memGet a t = 0) ∧
      ∀ a, (∀ p < 4, bitOf s.nv.scrubs p = true → scrubCoversOn (pendingDies p s) p a u = false) → memGet a t = memGet a s) ∧
  (∀ (b : BootIn) (s : State), s.boot.wait = some b → attemptFailed s = true → canFallBack s = true →
    Goes .bootFallback s fun t => t.nv.active = otherBank s ∧ fget hubB fHUB_BOOT_FALLBACK t = 1 ∧
      fget fwuB fFWU_EVENT_FALLBACK t = 1 ∧ ((bankStatus (otherBank s) s).1 = stOK → b.otherAlive = true → HubRuns (otherBank s) b t)) ∧
  (∀ s : State, attemptFailed s = true → canFallBack s = false → Goes .romRecovery s fun t =>
    t.boot = { s.boot with phase := 3, wait := none } ∧ fget hubB fHUB_BOOT_RECOVERY t = 1 ∧ mgmtPlane t = 0 ∧
    RegsKept [hubB + oHUB_BOOT, hubB + oHUB_PLANE_STATUS] s t ∧ t = { s with regs := t.regs, boot := t.boot }) ∧
  (∀ (n : Nat) (s : State),
    (1000 ≤ n → Goes (.resetN n) s fun t => PackageReset (s.boot.good != 0xFF) s t ∧ t.boot.good = s.boot.good ∧
      t.pwr = { Pwr.atReset with trip := s.pwr.trip } ∧
      (s.boot.good = 0xFF → pinTsPulse t = .low ∧ pinErrN t = .released ∧ pinBuses t = .highZ ∧ pinPeTx t = .undriven ∧
        pinMgTx t = .undriven ∧ (∀ p < 32, lanesLit p t = false) ∧ dbgObs t = 0 ∧ dbgClk t = false)) ∧ (n < 1000 → Goes (.resetN n) s fun t => t = s) ∧
    (10000 < n → Goes (.refclkLoss n) s fun t => PackageReset (s.boot.good != 0xFF) s t ∧
      t.pwr = { Pwr.atReset with trip := s.pwr.trip } ∧ t.boot.refclk = false) ∧
    (n ≤ 10000 → Goes (.refclkLoss n) s fun t => t = s) ∧
    ∀ rail : Fin 8, (1000 < n → Goes (.pwrGoodLoss rail n) s fun t => PackageReset true s t ∧
        t.pwr = { Pwr.atReset with trip := s.pwr.trip && rail.val != 7 } ∧
        t.boot.good = s.boot.good &&& ~~~(1#8 <<< rail.val) ∧ pinTsPulse t = .highZ ∧ pinErrN t = .released ∧
        pinBuses t = .highZ ∧ pinPeTx t = .undriven ∧ peRxTerm t = false ∧ (∀ p < 32, lanesLit p t = false) ∧
        dbgObs t = 0 ∧ (rail.val = 7 → pinThermtripN t = .released)) ∧
      (n ≤ 1000 → Goes (.pwrGoodLoss rail n) s fun t => t = s)) ∧
  (∀ (r : Requester) (s : State), isPf0 r = true → s.boot.phase = 3 → Goes (.package r) s (PackageReset false s)) ∧
  (∀ (r : Requester) (s : State), mayCommand r s = true →
    (isPf0 r = true → Goes (.package r) s (PackageReset false s)) ∧
    (isPf0 r = false → s.rst.runs = [] → Goes (.package r) s fun t =>
      fget hubB fHUB_RESET_STAT_STATUS t = stDENIED.toNat ∧ RegsKept [hubB + oHUB_RESET_CTL, hubB + oHUB_RESET_STAT] s t ∧
      t = { s with regs := t.regs, host := t.host, mgmt := t.mgmt }))

/-- R358 to R364: reset units; R369: CAPTURE and RESUME. -/
def Obligations.UnitResets : Prop :=
  (∀ (r : Requester) (u n : Nat) (i : Instr) (s : State), ResetCmd r u n i → mayCommand r s = true →
    let st := resetStatus r u n s
    (s.rst.runs = [] → st ≠ stOK → Goes i s fun t =>
      fget hubB fHUB_RESET_STAT_CMD t = u ∧ fget hubB fHUB_RESET_STAT_TARGET t = n ∧
      fget hubB fHUB_RESET_STAT_STATUS t = st.toNat ∧ RegsKept [hubB + oHUB_RESET_CTL, hubB + oHUB_RESET_STAT] s t ∧
      t = { s with regs := t.regs, host := t.host, mgmt := t.mgmt }) ∧
    (s.rst.runs = [] → st = stOK → mayReset u n s = false → Goes i s fun t =>
      t.rst = { s.rst with runs := [⟨u, n, some r, 0, [], 0⟩] } ∧ fget hubB fHUB_RESET_CTL_BUSY t = 1 ∧
      RegsKept [hubB + oHUB_RESET_CTL] s t ∧ t = { s with regs := t.regs, rst := t.rst }) ∧
    (s.rst.runs = [] → st = stOK → mayReset u n s = true → Goes i s fun t =>
      t.rst.runs = [⟨u, n, some r, 1, [], 0⟩] ∧ fget hubB fHUB_RESET_CTL_BUSY t = 1 ∧
      (∀ c ∈ unitCores u n s, (getCore c t).inReset = true ∧ (getCore c t).run = none ∧
        coreGen c t = nextGen (coreGen c s)) ∧
      (u = 3 → fget hubB (fPartGen n) t = nextGen (fget hubB (fPartGen n) s) ∧ (∀ j < 4, getKey (4 * n + j) t = none) ∧
        t.sec.wait = s.sec.wait.filter (fun w => !tornCmd n w) ∧
        ∀ w ∈ s.sec.wait, tornCmd n w = true → secGet w.1 fSEC_RESULT_STATUS t = stSTALE.toNat ∧
          secGet w.1 fSEC_CMD_BUSY t = 0) ∧ (u = 4 → dataPlane t = 2)) ∧
    (∀ x, s.rst.runs = [x] → st = stOK → unitInside u n x.unit x.target s = true → Goes i s fun t =>
      t.rst = { s.rst with runs := [{ x with joined := x.joined ++ [(u, n, r)] }] } ∧
      RegsKept [hubB + oHUB_RESET_CTL] s t ∧ t = { s with regs := t.regs, rst := t.rst }) ∧
    (∀ x, s.rst.runs = [x] → unitInside u n x.unit x.target s = false → Goes i s fun t =>
      fget burB fBUR_EVENT_CORRECTED t = 1 ∧ RegsOutside burB 0x100000 s t ∧
      t = { s with regs := t.regs, bur := t.bur, perf := t.perf, host := t.host, mgmt := t.mgmt })) ∧
  (∀ (res : ResetIn) (x : ResetRun) (s : State), isSafe s = false → s.rst.runs = [x] → resetReady x = true →
    x.joined = [] → s.fwu.act = none → s.sec.run = none → Goes (.resetDone res) s fun t =>
      t.rst.runs = [] ∧ fget hubB fHUB_RESET_CTL_BUSY t = 0 ∧
      (x.req.isSome = true ∨ x.unit = 3 → fget hubB fHUB_RESET_STAT_STATUS t = 0) ∧
      (∀ c ∈ unitCores x.unit x.target s, (getCore c t).inReset = false) ∧
      (x.unit = 3 → bitOf t.busyParts x.target = false) ∧
      (x.unit = 4 → t.computeReset = false ∧ (dataPlane s = 2 → dataPlane t = 1))) ∧
  (∀ (r : Requester) (c : Fin 256) (s : State), coreReach r c.val s = true →
    let a := captureAddr c.val s
    (captureStatus c.val s ≠ stOK → Goes (.capture r c) s fun t =>
      fget (coreB c.val) fCORE_CAPTURE_CTL_STATUS t = (captureStatus c.val s).toNat ∧
      RegsKept [coreB c.val + oCORE_CAPTURE_CTL] s t ∧ t = { s with regs := t.regs }) ∧
    (captureStatus c.val s = stOK → Memory.wf s.mem = true → s.ecc = [] → Goes (.capture r c) s fun t =>
      (∀ j < 256, memGet (a + j) t = (captureRec c.val s).getD j 0) ∧ MemOutside a 256 s t ∧
      getCore c.val t = { getCore c.val s with halted := true } ∧ OtherCores c.val s t ∧
      fget (coreB c.val) fCORE_CAPTURE_CTL_STATE t = 1 ∧ fget (coreB c.val) fCORE_CAPTURE_CTL_STATUS t = 0) ∧
    (Goes (.resume r c) s fun t =>
      getCore c.val t = { getCore c.val s with halted := false } ∧ OtherCores c.val s t ∧
      fget (coreB c.val) fCORE_CAPTURE_CTL_STATE t = 0 ∧ fget (coreB c.val) fCORE_CAPTURE_CTL_STATUS t = 0 ∧
      RegsKept [coreB c.val + oCORE_CAPTURE_CTL] s t ∧ t = { s with regs := t.regs, cores := t.cores }))

/-- R372 to R374, R378, R381: firmware update, with nothing else waiting for MGMT. -/
def Obligations.FirmwareUpdate : Prop :=
  (∀ (r : Requester) (s : State), isPf0 r = true → fwuServes s = true → fget fwuB fFWU_CMD_BUSY s = 0 → s.fwu.upd = none →
    (s.nv.lc = 3 → ∀ x ∈ [(1, Instr.fwuStage r), (2, .fwuActivate r), (3, .activateOnReset r), (4, .fwuCancel r)],
      Goes x.2 s fun t => FwuShows x.1 stDENIED s t ∧ t.nv = s.nv ∧ t.flash = s.flash ∧ t.mem = s.mem) ∧
    (s.nv.lc ≠ 3 →
      (let a := fwuSrc s
       let n := fwuLen s
       let b := idleBank s
       let st := firstFail [failIf (decide (bankSize < n)) stLENGTH, if n = 0 then stOK else rangeStatus .pf0 a n s]
       s.boot.phase ≠ 3 →
        (st ≠ stOK → Goes (.fwuStage r) s fun t => FwuShows 1 st s t ∧
          t.nv = { s.nv with staged := false, marked := false } ∧ t.flash = s.flash ∧ t.mem = s.mem) ∧
        (st = stOK → Memory.wf s.mem = true → s.ecc = [] → Goes (.fwuStage r) s fun t =>
          FwuShows 1 (headerStatus b n t) s t ∧ t.nv.staged = (headerStatus b n t == stOK) ∧ t.nv.active = s.nv.active ∧
          (∀ j < n, tget (fun _ => 0) t.flash (bankBase b + j) = memGet (a + j) s) ∧
          (∀ j < bankSize, bankByte s.nv.active j t = bankByte s.nv.active j s) ∧ t.mem = s.mem)) ∧
      (let o := fget fwuB fFWU_ARG_SRC_LO_SRC_LO s
       let n := fwuLen s
       let bad := firstFail [failIf (decide (rbufSize < n ∨ bankSize < o + n)) stLENGTH, failIf (o % rbufSize != 0) stWINDOW]
       s.boot.phase = 3 →
        (bad ≠ stOK → Goes (.fwuStage r) s fun t => FwuShows 1 bad s t ∧
          t.nv = { s.nv with staged := false, marked := false } ∧ t.flash = s.flash ∧ t.mem = s.mem) ∧
        (bad = stOK → Goes (.fwuStage r) s fun t =>
          let st := firstFail [headerStatus false bankSize t, failIf (decide (bankSecver false t < s.nv.secver.toNat)) stSTALE]
          FwuShows 1 st s t ∧ t.nv.active = true ∧ t.nv.staged = (st == stOK) ∧ t.mem = s.mem)) ∧
      (let l := compsDiffer s
       let no := s.boot.phase = 3 ∨ s.nv.staged = false ∨ 5 ∈ l ∨ 6 ∈ l
       (no → Goes (.fwuActivate r) s fun t => FwuShows 2 stDENIED s t ∧ t.nv = s.nv ∧ t.mem = s.mem) ∧
       (¬no → l = [] → Goes (.fwuActivate r) s fun t => FwuShows 2 stOK s t ∧ t.nv = s.nv ∧ t.mem = s.mem) ∧
       (¬no → l ≠ [] → domGenFree 4 s = true → Goes (.fwuActivate r) s fun t =>
        t.fwu = { s.fwu with act := some ⟨1, l.contains 4, stOK, 0⟩ } ∧ mgmtPlane t = 2 ∧ fget fwuB fFWU_CMD_BUSY t = 1 ∧
        fget hubB fHUB_RESET_STALE_GEN_HUB t = nextGen (fget hubB fHUB_RESET_STALE_GEN_HUB s) ∧
        (txnState s = 1 → txnState t = 0 ∧ t.cab.shadow = none) ∧ t.nv = s.nv ∧ t.mem = s.mem ∧ t.cores = s.cores)) ∧
      (s.nv.staged = true → Goes (.activateOnReset r) s fun t => FwuShows 3 stOK s t ∧ t.nv = { s.nv with marked := true } ∧
        RegsOutside fwuB 0x100000 s t ∧ t = { s with regs := t.regs, nv := t.nv, host := t.host, mgmt := t.mgmt }) ∧
      (s.nv.staged = false → Goes (.activateOnReset r) s fun t => FwuShows 3 stDENIED s t ∧
        RegsOutside fwuB 0x100000 s t ∧ t = { s with regs := t.regs, host := t.host, mgmt := t.mgmt }) ∧
      Goes (.fwuCancel r) s fun t => FwuShows 4 stOK s t ∧ t.nv = { s.nv with staged := false, marked := false } ∧
        RegsOutside fwuB 0x100000 s t ∧ t = { s with regs := t.regs, nv := t.nv, host := t.host, mgmt := t.mgmt })) ∧
  (∀ (res : HubRestartIn) (a : FwAct) (s : State), s.fwu.act = some a → isSafe s = false → mgmtPlane s = 2 →
    s.cab.wait = none → s.col.wait = none → s.sec.wait = [] → s.mgmt.wait = [] → s.rst.runs = [] →
    s.fab.wait = [] → s.gzl.wait = [] → s.gzl.cont = none →
    let st := restartStatus res s
    (a.phase = 1 → st.1 ≠ stOK → Goes (.hubRestartDone res) s fun t => t = { s with fwu := { s.fwu with
      act := some { a with phase := 2, micro := false, status := st.1, comp := st.2 } } }) ∧
    (a.phase = 1 → st.1 = stOK → a.micro = true → Goes (.hubRestartDone res) s fun t =>
      mgmtPlane t = 1 ∧ t.fwu.act = some { a with phase := 3 } ∧ (t.rst.runs.any fun x => x.unit == 4) = true ∧
      t.nv = s.nv) ∧
    (a.phase = 1 → st.1 = stOK → a.micro = false → Goes (.hubRestartDone res) s fun t =>
      mgmtPlane t = 1 ∧ t.fwu.act = none ∧ FwuShows 2 stOK s t ∧
      t.nv = { s.nv with active := !s.nv.active, staged := false, marked := false }) ∧
    (a.phase = 2 → a.micro = false → Goes (.hubRestartDone res) s fun t =>
      mgmtPlane t = 1 ∧ t.fwu.act = none ∧ FwuShows 2 a.status s t ∧ fget fwuB fFWU_EVENT_REVERTED t = 1 ∧ t.nv = s.nv))

/-! Faults, the Bureau and observation (R382 to R404). -/

/-- R382 to R386: fault signals and records (how the model orders the records of one NCLK cycle: log entry 95); R388 to R391:
reactions; R393: ERR_N. -/
def Obligations.FaultsAndErrN : Prop :=
  (∀ (src : BitVec 16) (code : BitVec 8) (i0 i1 : BitVec 32) (s : State),
    let inv := fun (t : State) => tget (fun _ => 0) t.bur.invalid src.toNat
    let OtherInv := fun (t : State) => (∀ k, k ≠ src.toNat → tget (fun _ => 0) t.bur.invalid k = tget (fun _ => 0) s.bur.invalid k) ∧
      t.bur = { s.bur with invalid := t.bur.invalid }
    let Sent := fun (d cd : Nat) (a b : Word) (t : State) =>
      getHo (6656 + d % 4) t = { getHo (6656 + d % 4) s with
        credits := (getHo (6656 + d % 4) s).credits - 1
        entries := (getHo (6656 + d % 4) s).entries ++ [recBytes src.toNat cd (sourceParts src.toNat s) a b s] } ∧
      ∀ k, k ≠ 6656 + d % 4 → getHo k t = getHo k s
    (Goes (.faultSignal src code false true i0 i1) s fun t => inv t = 0 ∧ OtherInv t ∧ t = { s with bur := t.bur }) ∧
    (∀ d, collectorDie src.toNat = some d →
      ((getHo (6656 + d % 4) s).credits = 0 ∨ ∃ x ∈ s.bur.held, x.1 = d % 4) →
      let Held := fun (cd : Nat) (a b : Word) (n : Nat) (t : State) => inv t = n ∧
        (∀ k, k ≠ src.toNat → tget (fun _ => 0) t.bur.invalid k = tget (fun _ => 0) s.bur.invalid k) ∧
        t.bur = { s.bur with
          invalid := t.bur.invalid
          held := s.bur.held ++ [(d % 4, recBytes src.toNat cd (sourceParts src.toNat s) a b s)] } ∧ t = { s with bur := t.bur }
      (Goes (.faultSignal src code true false i0 i1) s (Held code.toNat i0 i1 0)) ∧
      (inv s = 3 → ∀ b, Goes (.faultSignal src code b b i0 i1) s (Held 0x16 0 0 4))) ∧
    (∀ d, collectorDie src.toNat = some d → (getHo (6656 + d % 4) s).credits ≠ 0 → (∀ x ∈ s.bur.held, x.1 ≠ d % 4) →
      (Goes (.faultSignal src code true false i0 i1) s fun t =>
        Sent d code.toNat i0 i1 t ∧ inv t = 0 ∧ OtherInv t ∧ t = { s with bur := t.bur, handoffs := t.handoffs }) ∧
      (inv s = 3 → ∀ b, Goes (.faultSignal src code b b i0 i1) s fun t =>
        Sent d 0x16 0 0 t ∧ inv t = 4 ∧ OtherInv t ∧ t = { s with bur := t.bur, handoffs := t.handoffs })) ∧
    (collectorDie src.toNat = none → Goes (.faultSignal src code true false i0 i1) s fun t =>
      fget burB (classEvt (faultClass code.toNat src.toNat)).bit t = 1) ∧
    (inv s < 3 → ∀ b, Goes (.faultSignal src code b b i0 i1) s fun t =>
      inv t = inv s + 1 ∧ OtherInv t ∧ t = { s with bur := t.bur }) ∧
    (3 < inv s → ∀ b, Goes (.faultSignal src code b b i0 i1) s fun t => t = s)) ∧
  (∀ (x : FaultIn) (s : State),
    let src := x.source.toNat
    let code := x.code.toNat
    let cls := faultClass code src
    let tm := detectTime x s
    let react := if reacted tm src s then 4 else faultReact cls code src s
    let seq := regGet (burB + oBUR_LOG_HEAD) s
    let last : Option LogRec := tget (fun _ => none) s.bur.last src
    (src / 0x1000 ≠ 4 ∨ GzQuiet s → Goes (.bureauReaction x) s fun t => fget burB (classEvt cls).bit t = 1 ∧ (cls = 3 → fget burB fBUR_ERRN_PIN t = 1)) ∧
    (react = 0 ∨ react = 1 ∨ (react = 4 ∧ s.insts = []) →
      (∀ r, last = some r → cls = 0 → mergesInto r code tm.1 = false) → recsNow s = 0 →
      Goes (.bureauReaction x) s fun t =>
        (∃ r, logAt (seq.toNat % 1024) t = some r ∧ r.cls.toNat = cls ∧ r.react.toNat = react ∧ r.code = x.code ∧
          r.source = x.source ∧ r.parts = x.parts ∧ r.info0 = x.info0 ∧ r.info1 = x.info1 ∧ r.seq = seq ∧ r.repeats = 0 ∧
          r.w = tm.1 ∧ r.epoch = tm.2) ∧
        (∀ i, i ≠ seq.toNat % 1024 → logAt i t = logAt i s) ∧
        regGet (burB + oBUR_LOG_HEAD) t = (if seq = 0xFFFFFFFF then 1 else seq + 1)) ∧
    (react = 0 ∨ react = 1 ∨ (react = 4 ∧ s.insts = []) →
      (∀ r, last = some r → cls = 0 → mergesInto r code tm.1 = false) →
      ∀ a, recsNow s = 1 → logAt ((seqBack seq).toNat % 1024) s = some a → x.source < a.source →
      Goes (.bureauReaction x) s fun t => logAt (seq.toNat % 1024) t = some { a with seq := seq } ∧
        ∃ r, logAt ((seqBack seq).toNat % 1024) t = some r ∧ r.source = x.source ∧ r.code = x.code ∧ r.seq = seqBack seq) ∧
    (∀ r, last = some r → cls = 0 → mergesInto r code tm.1 = true → logAt (r.seq.toNat % 1024) s = some r →
      r.repeats ≠ 0xFFFF → Goes (.bureauReaction x) s fun t =>
        logAt (r.seq.toNat % 1024) t = some { r with repeats := r.repeats + 1 } ∧ regGet (burB + oBUR_LOG_HEAD) t = seq) ∧
    (react = 0 ∨ react = 1 → Goes (.bureauReaction x) s fun t => RegsOutside burB 0x100000 s t ∧
      t = { s with regs := t.regs, bur := t.bur, perf := t.perf, host := t.host, mgmt := t.mgmt, handoffs := t.handoffs }) ∧
    (react = 1 → s.host.msixEn.getD 0 false = true → tget (fun _ => true) s.host.masked 0 = false →
      Goes (.bureauReaction x) s fun t => (0, 0) ∈ t.host.causes) ∧
    (react = 2 → src / 0x1000 ≠ 4 ∨ GzQuiet s → Goes (.bureauReaction x) s fun t =>
      (src / 0x1000 = 1 → cluOk (src % 256 / 8) t = false) ∧ (src / 0x1000 = 2 → cluOk (src % 32) t = false) ∧
      (src / 0x1000 = 4 → portState (src % 32) t = 4) ∧ (src / 0x1000 = 5 → stackOk (src % 32) t = false)) ∧
    (∀ d p, react = 3 → sourceDie src = some d → partOfDie s.cab.cur d = some p → p < 4 → partInReset p s = false →
      Goes (.bureauReaction x) s fun t => partStopped p t = true) ∧
    (react = 4 → isSafe s = false → Goes (.bureauReaction x) s fun t =>
      isSafe t = true ∧ ctrlPlane t = 3 ∧ dataPlane t = 3 ∧ mgmtPlane t = 3 ∧ t.cab.edge = none ∧ t.drp.prop = none ∧
      .safeNotice (some (gzHolder s)) (BitVec.ofNat 64 (bootIdOf s)) (firstRecord t) ∈ t.out ∧
      .safeNotice none (BitVec.ofNat 64 (bootIdOf s)) (firstRecord t) ∈ t.out ∧ t.mem = s.mem)) ∧
  (∀ (d : Option (Fin 4)) (s : State), isSafe s = false → Goes (.bureauSelf d) s fun t =>
    isSafe t = true ∧ ctrlPlane t = 3 ∧ dataPlane t = 3 ∧ mgmtPlane t = 3 ∧ fget burB fBUR_ERRN_PIN t = 1 ∧
    fget burB eBUR_EVENT_FATAL.bit t = 1 ∧ t.mem = s.mem) ∧
  (∀ (r : Requester) (f : Bool) (s : State), isPf0 r = true → mayCommand r s = true →
    (fget burB fBUR_ERRN_PIN s = 1 → errNHeld s = false → Goes (.clear r false) s fun t =>
      fget burB fBUR_ERRN_PIN t = 0 ∧ RegsKept [burB + oBUR_ERRN] s t ∧
      t = { s with regs := t.regs, bur := { s.bur with errMin := none, errClr := false } }) ∧
    (fget burB fBUR_ERRN_PIN s = 1 → errNHeld s = true → Goes (.clear r false) s fun t =>
      t = { s with bur := { s.bur with errClr := true } }) ∧
    (f = true ∨ fget burB fBUR_ERRN_PIN s = 0 → Goes (.clear r f) s fun t => t = s)) ∧
  (∀ s : State,
    (fget burB fBUR_ERRN_PIN s = 1 → errNHeld s = false → s.bur.errClr = true → isSafe s = false →
      Goes .errNMinExpiry s fun t => fget burB fBUR_ERRN_PIN t = 0 ∧ RegsKept [burB + oBUR_ERRN] s t ∧
        t = { s with regs := t.regs, bur := { s.bur with errMin := none, errClr := false } }) ∧
    (fget burB fBUR_ERRN_PIN s = 1 → errNHeld s = false → (s.bur.errClr = false ∨ isSafe s = true) →
      Goes .errNMinExpiry s fun t => t = { s with bur := { s.bur with errMin := none } }) ∧
    (fget burB fBUR_ERRN_PIN s = 0 ∨ errNHeld s = true → Goes .errNMinExpiry s fun t => t = s))

/-- R398, R399: snapshots; R400, R401: samples; R402: the Crawlway; R404: boundary scan. -/
def Obligations.Observation : Prop :=
  (∀ (r : Requester) (s : State), perfReach r s = true →
    (snapStatus s ≠ stOK → Goes (.snapArm r) s fun t =>
      fget perfB fPERF_SNAP_CTL_CMD t = 1 ∧ fget perfB fPERF_SNAP_CTL_STATUS t = (snapStatus s).toNat ∧
      RegsKept [perfB + oPERF_SNAP_CTL] s t ∧ t = { s with regs := t.regs }) ∧
    (snapStatus s = stOK → reaches48 s.clk.w (snapTime s) = false → Goes (.snapArm r) s fun t =>
      fget perfB fPERF_SNAP_CTL_CMD t = 1 ∧ fget perfB fPERF_SNAP_CTL_STATUS t = 0 ∧ fget perfB fPERF_SNAP_CTL_STATE t = 1 ∧
      RegsKept [perfB + oPERF_SNAP_CTL] s t ∧
      t = { s with regs := t.regs, perf := { s.perf with snapT := some (snapTime s), skipped := 0 } }) ∧
    (Goes (.snapDisarm r) s fun t =>
      fget perfB fPERF_SNAP_CTL_CMD t = 2 ∧ fget perfB fPERF_SNAP_CTL_STATUS t = 0 ∧ fget perfB fPERF_SNAP_CTL_STATE t = 0 ∧
      RegsKept [perfB + oPERF_SNAP_CTL] s t ∧ t = { s with regs := t.regs, perf := { s.perf with snapT := none } })) ∧
  (∀ s : State, (s.perf.snapT = none → Goes .snapshot s fun t => t = s) ∧
    ∀ T, s.perf.snapT = some T →
      (reaches48 s.clk.w T = false ∨ isSafe s = true → Goes .snapshot s fun t => t = s) ∧
      (reaches48 s.clk.w T = true → isSafe s = false → Goes .snapshot s fun t =>
        fget perfB fPERF_SNAP_SEQ_SEQ t = (fget perfB fPERF_SNAP_SEQ_SEQ s + 1) % 2 ^ 32 ∧
        t.cores = s.cores ∧ t.queues = s.queues ∧ t.cab = s.cab ∧ t.clk = s.clk) ∧
      (let u := fadd perfB fPERF_SNAP_SEQ_SEQ 1 (copyCounters s)
       let seq := fget perfB fPERF_SNAP_SEQ_SEQ u
       let a := snapBase s + 0x8000 * ((seq - 1) % snapSlots s)
       let rec' := snapRecord seq s.perf.skipped T u
       let lp := fget perfB fPERF_SNAP_CTL_LOG2_PERIOD s
       reaches48 s.clk.w T = true → isSafe s = false → snapObj s = 0 → Memory.wf s.mem = true → s.ecc = [] →
        rangeStatus .pf0 a 25920 s = stOK → Goes .snapshot s fun t =>
          rec'.length = 25920 ∧ (∀ j < 25920, memGet (a + j) t = rec'.getD j 0) ∧ MemOutside a 25920 s t ∧
          (∀ b i, (ctrGet b i s).live ≠ 0 → (ctrGet b i u).snap = (ctrGet b i s).live) ∧
          (lp = 0 → t.perf.snapT = none ∧ fget perfB fPERF_SNAP_CTL_STATE t = 0) ∧
          (lp ≠ 0 → t.perf.skipped = (s.clk.w - T).toNat / 2 ^ lp ∧
            t.perf.snapT = some (T + BitVec.ofNat 48 ((t.perf.skipped + 1) * 2 ^ lp))))) ∧
  (∀ (c : Fin 256) (x : SampleIn) (s : State),
    let p := corePart c.val s
    let r := getSRing p s
    let Taken := fun (t : State) => getCore c.val t = { getCore c.val s with tags := (getCore c.val s).tags - 1 } ∧
      OtherCores c.val s t
    ((getCore c.val s).tags = 0 ∨ sealBit s.cab.cur p = true ∨ isSafe s = true → Goes (.sampleRecord c x) s fun t => t = s) ∧
    ((getCore c.val s).tags ≠ 0 → sealBit s.cab.cur p = false → isSafe s = false →
      (bitOf r.hi.toNat 31 = true → regionOf (sringAddr r) = some .stack →
        rangeStatus (.part p) (sringAddr r) 32 s = stOK → Memory.wf s.mem = true → s.ecc = [] →
        Goes (.sampleRecord c x) s fun t =>
          (∀ j < 32, memGet (sringAddr r + j) t = (sampleBytes c.val x s).getD j 0) ∧ MemOutside (sringAddr r) 32 s t ∧
          t.perf.srings = modAt p (fun _ => { r with head := r.head + 1 }) s.perf.srings ∧
          Taken t ∧ t.queues = s.queues) ∧
      (bitOf r.hi.toNat 31 = false → Goes (.sampleRecord c x) s fun t => Taken t ∧
        t = { s with cores := t.cores, perf := { s.perf with srings := modAt p (fun _ =>
          { r with drop := if r.drop = 0xFFFF then r.drop else r.drop + 1 }) s.perf.srings } }))) ∧
  (∀ (r : Requester) (v : BitVec 32) (s : State),
    (isPf0 r = true → mayCommand r s = true → crawlWorks s = true → Goes (.burCrawlWrite r v) s fun t =>
      fget burB fBUR_CRAWL_DIV t = bitsOf v.toNat 31 28 ∧ fget burB fBUR_CRAWL_UNIT t = bitsOf v.toNat 23 16 ∧
      fget burB fBUR_CRAWL_GROUP t = bitsOf v.toNat 11 0 ∧ RegsKept [burB + oBUR_CRAWL] s t ∧ t = { s with regs := t.regs }) ∧
    (crawlWorks s = false → Goes (.burCrawlWrite r v) s fun t =>
      RegsOutside hostB 0x100000 s t ∧ t = { s with regs := t.regs })) ∧
  ∀ (pins : BitVec 64) (s : State),
    let By := fun (t : State) => t = { s with tap := ⟨0xFF, s.tap.bound⟩, out := s.out ++ [.tdo 0xFF 0] }
    (Goes (.extest pins) s fun t => t = { s with tap := ⟨0x00, pins⟩, out := s.out ++ [.tdo 0x00 pins] }) ∧
    (Goes .idcode s fun t => t = { s with tap := ⟨0x01, s.tap.bound⟩, out := s.out ++ [.tdo 0x01 0x1640009B] }) ∧
    Goes .bypass s By ∧
    (s.nv.lc = 2 → Goes (.samplePreload pins) s By ∧ Goes .clamp s By ∧ Goes .highz s By) ∧
    (s.nv.lc ≠ 2 →
      (Goes (.samplePreload pins) s fun t => t = { s with tap := ⟨0x02, pins⟩, out := s.out ++ [.tdo 0x02 pins] }) ∧
      (Goes .clamp s fun t => t = { s with tap := ⟨0x03, s.tap.bound⟩, out := s.out ++ [.tdo 0x03 0] }) ∧
      Goes .highz s fun t => t = { s with tap := ⟨0x04, s.tap.bound⟩, out := s.out ++ [.tdo 0x04 0] })

/-! The security block, attestation and firmware update over PLDM (R407 to R432, R451, R452). -/

/-- R432: results; R423, R424, R426: keys; R414, R415: signed commands; R409, R410, R431: lifecycle. -/
def Obligations.SecurityCommands : Prop :=
  ∀ (r : Requester) (slot : Fin 16) (force : Bool) (s : State), SecReady r s →
    let a := secSrc r s
    let n := secLen r s
    (∀ x ∈ secCommands r slot force, s.nv.lc = 3 ∨ (4 ≤ x.1 ∧ isPf0 r = false) → Goes x.2 s fun t =>
      SecShows r x.1 (stDENIED, 0, 0) s t ∧ t = { s with latches := t.latches, host := t.host, mgmt := t.mgmt }) ∧
    (s.nv.lc ≠ 3 →
      (let h := memBytes a 0x60 s
       let b := memBytes a (blobSize h) s
       let progs := digests b (0x60 + 48 * blobNman b) (blobNprog b) 48
       let mans := digests b 0x60 (blobNman b) 48
       let k := (blobEntry b).bind (blobKey b)
       let x : SecRes := if (blobEntry b).isNone then (stDENIED, 5, 0)
         else if !mans.contains (manDigest s.nv.active s) || decide (bankSecver s.nv.active s < le32 b 0x18) then (stDENIED, 6, 0)
         else if blobNprog b != 0 && strangers (slot.val / 4) progs s then (stDENIED, 7, 0)
         else if k.isNone then (stCHECK, 8, 0) else secOk
       (blobOk h = false → Goes (.unwrap r slot) s fun t =>
        SecShows r 1 (stFORMAT, 1, 0) s t ∧ t.sec = s.sec ∧ t.mem = s.mem ∧ t.nv = s.nv) ∧
       (blobOk h = true → le32 h 0x14 = blobSize h → n = blobSize h →
        secRange r (some (slot.val / 4)) a (blobSize h) s = stOK → s.nv.lc = 2 → s.sec.unlocked = false →
        slotServed r slot.val s = true → getKey slot.val s = none → Goes (.unwrap r slot) s fun t =>
          SecShows r 1 x s t ∧ OtherKeys slot.val s t ∧ t.mem = s.mem ∧ t.nv = s.nv ∧
          (∀ key, x = secOk → k = some key → getKey slot.val t =
            some ⟨key, bytesAt b 8 8, digests b (blobHead b) (blobNent b) 96, mans, progs⟩) ∧
          (x ≠ secOk → getKey slot.val t = none ∧ fget secB fSEC_EVENT_UNWRAP_DENIED t = 1))) ∧
      (slotOwn r slot.val s = true → Goes (.eraseSlot r slot) s fun t =>
        SecShows r 2 secOk s t ∧ getKey slot.val t = none ∧ OtherKeys slot.val s t ∧
        t = { s with latches := t.latches, sec := { s.sec with slots := t.sec.slots }, host := t.host, mgmt := t.mgmt }) ∧
      (slotOwn r slot.val s = false → ∀ x ∈ [(2, Instr.eraseSlot r slot), (3, .decrypt r slot)], Goes x.2 s fun t =>
        SecShows r x.1 (stDENIED, 0, 0) s t ∧ t = { s with latches := t.latches, host := t.host, mgmt := t.mgmt }) ∧
      (let d := secDst r s
       let rec' := secGet r fSEC_ARG_REC_REC s
       ∀ k, 17 ≤ n → n ≤ 65552 → slotOwn r slot.val s = true → getKey slot.val s = some k →
        secRange r (some (slot.val / 4)) a n s = stOK → secRange r (some (slot.val / 4)) d (n - 16) s = stOK →
        reachStatus (.part (slot.val / 4)) a n s = stOK → reachStatus (.part (slot.val / 4)) d (n - 16) s = stOK →
        inSink d (n - 16) s = false → (a = d ∨ meets a n d (n - 16) = false) → Memory.wf s.mem = true → s.ecc = [] → Goes (.decrypt r slot) s fun t =>
          let p := Config.gcmOpen k.key (beBytes 12 rec') (k.kid ++ leBytes 8 rec') (memBytes a (n - 16) s)
            (memBytes (a + n - 16) 16 s)
          (p = none → SecShows r 3 (stCHECK, 0, rec') s t ∧ t.mem = s.mem ∧ fget secB fSEC_EVENT_DECRYPT_FAIL t = 1) ∧
          (∀ l, p = some l → SecShows r 3 secOk s t ∧ (∀ j < n - 16, memGet (d + j) t = l.getD j 0) ∧
            MemOutside d (n - 16) s t) ∧ t.sec = s.sec ∧ t.nv = s.nv)) ∧
    (s.nv.lc ≠ 3 → isPf0 r = true →
      let b := memBytes a n s
      let ok := fun cmd => (signedCheck cmd r b s).1 = stOK
      (Goes (.nonce r) s fun t => SecShows r 4 secOk s t ∧
        t.sec = { s.sec with nonce := some (bytesAt (Config.freeBytes s.freeCtr 32) 0 32) } ∧ t.freeCtr = s.freeCtr + 1 ∧
        t = { s with latches := t.latches, sec := t.sec, freeCtr := t.freeCtr, host := t.host, mgmt := t.mgmt }) ∧
      (∀ x ∈ secCommands r slot force, 5 ≤ x.1 → Goes x.2 s fun t => t.sec.nonce = none ∧
        (¬ok x.1 → SecShows r x.1 (signedCheck x.1 r b s) s t ∧ t.mem = s.mem ∧ t.nv = s.nv ∧
          (s.ecc = [] → RegsKept granRegs s t ∧ t = { s with
            latches := t.latches, sec := { s.sec with nonce := none }, host := t.host, mgmt := t.mgmt, regs := t.regs
            perf := t.perf, chans := t.chans }))) ∧
      (Goes (.enrol r) s fun t => ok 5 →
        let key := bytesAt b 0x60 97
        let free := (List.range 4).find? fun i => (s.nv.cabKeys.getD i none).isNone
        ((cabKey (keyIdOf key) s).isSome = true → SecShows r 5 (stDENIED, 0, 0) s t ∧ t.nv = s.nv) ∧
        ((cabKey (keyIdOf key) s).isSome = false → free = none → SecShows r 5 (stLENGTH, 0, 0) s t ∧ t.nv = s.nv) ∧
        (∀ i, (cabKey (keyIdOf key) s).isSome = false → free = some i → SecShows r 5 secOk s t ∧ t.nv = { s.nv with
          cabKeys := modAt i (fun _ => some key) s.nv.cabKeys, keyset := raiseCount s.nv.keyset })) ∧
      (Goes (.revoke r) s fun t => ok 6 →
        let kid := bytesAt b 0x60 8
        let left := s.nv.cabKeys.map fun k => k.bind fun y => if keyIdOf y = kid then none else some y
        let no := (cabKey kid s).isNone = true ∨ (s.nv.lc = 2 ∧ ∀ k ∈ left, k = none)
        (no → SecShows r 6 (stDENIED, 0, 0) s t ∧ t.nv = s.nv) ∧
        (¬no → SecShows r 6 secOk s t ∧ t.nv = { s.nv with cabKeys := left, keyset := raiseCount s.nv.keyset })) ∧
      (Goes (.peerSet r) s fun t => ok 7 → SecShows r 7 secOk s t ∧ t.sec.peersSet = true ∧
        t.sec.peers.idents = digests b (0x68 + 48 * payByte b 2) (le16 b 0x60) 48 ∧
        t.sec.peers.mans = digests b 0x68 (payByte b 2) 48 ∧ t.nv = s.nv ∧
        ∀ e y, getSession e t = some y → getSession e s = some y ∧
          peerPasses t.sec.peers y.ident y.man true y.unlocked y.sealMask = true) ∧
      (Goes (.lcSeal r) s fun t => ok 8 →
        (s.nv.lc = 1 → (∃ k ∈ s.nv.cabKeys, k ≠ none) → SecShows r 8 secOk s t ∧ t.nv = { s.nv with lc := 2 } ∧
          (s.sec.unlocked = false → crawlWorks t = false)) ∧
        (s.nv.lc ≠ 1 ∨ (∀ k ∈ s.nv.cabKeys, k = none) → SecShows r 8 (stDENIED, 0, 0) s t ∧ t.nv = s.nv)) ∧
      (∀ x ∈ [(9, Instr.lcRetire r), (10, .unlock r)], Goes x.2 s fun t => ok x.1 →
        (s.nv.lc = 2 ∨ (s.nv.lc = 1 ∧ x.1 = 9) →
          (∀ j < 16, getKey j t = none) ∧ t.fab.sessions = [] ∧ (∀ p ∈ partList s.cab.cur, partInReset p t = true) ∧
          t.nv.lc = (if x.1 = 9 then 3 else s.nv.lc) ∧ (x.1 = 10 → t.sec.unlocked = true ∧ fget secB fSEC_EVENT_UNLOCK t = 1) ∧
          (x.1 = 9 → ∀ p ∈ partList s.cab.cur, bitOf t.nv.scrubs p = true) ∧
          (partList s.cab.cur ≠ [] → t.sec.run = some (r, x.1) ∧ secGet r fSEC_CMD_BUSY t = 1)) ∧
        (s.nv.lc = 0 ∨ (s.nv.lc = 1 ∧ x.1 = 10) → tearing s = false → SecShows r x.1 (if x.1 = 9 then stDENIED else stOK, 0, 0) s t ∧ t.nv = s.nv ∧
          t.sec.slots = s.sec.slots ∧ t.sec.unlocked = s.sec.unlocked)) ∧
      (Goes (.commitSecver r force) s fun t => ok 11 →
        let v := bankSecver s.nv.active s
        let o := !s.nv.active
        (le32 b 0x60 ≠ v → SecShows r 11 (stSTALE, 0, 0) s t ∧ t.nv = s.nv) ∧
        (le32 b 0x60 = v → force = false → headerStatus o bankSize s = stOK → bankSecver o s < v →
          SecShows r 11 (stDENIED, 0, 0) s t ∧ t.nv = s.nv) ∧
        (le32 b 0x60 = v → (force = true ∨ headerStatus o bankSize s ≠ stOK ∨ v ≤ bankSecver o s) →
          SecShows r 11 secOk s t ∧ t.nv = { s.nv with secver := BitVec.ofNat 32 (Nat.max s.nv.secver.toNat v) })) ∧
      Goes (.provision r) s fun t => ok 12 →
        let d := secDst r s
        let c := bytesAt b 0x68 (le32 b 0x64)
        (s.nv.lc ≠ 0 → SecShows r 12 (stDENIED, 0, 0) s t ∧ t.nv = s.nv ∧ t.mem = s.mem) ∧
        (s.nv.lc = 0 → payByte b 0 = 0 → s.nv.enrolled = false → secRange r none d 97 s = stOK → inSink d 97 s = true →
          SecShows r 12 (stDENIED, 0, 0) s t ∧ t.nv = s.nv ∧ t.mem = s.mem) ∧
        (s.nv.lc = 0 → payByte b 0 = 0 → s.nv.enrolled = false → secRange r none d 97 s = stOK → inSink d 97 s = false →
          Memory.wf s.mem = true → s.ecc = [] → SecShows r 12 secOk s t ∧ t.nv = { s.nv with
            enrolled := true, helper := some Config.helperData, rootKey := some (s.nv.rootKey.getD Config.flashRootKey) } ∧
            (∀ j < 97, memGet (d + j) t = Config.identityKey.getD j 0) ∧ MemOutside d 97 s t) ∧
        (s.nv.lc = 0 → payByte b 0 ≠ 0 →
          ((s.nv.enrolled && Config.certOk c Config.identityKey (Config.cumostaKey 3)) = true →
            SecShows r 12 secOk s t ∧ t.nv = { s.nv with chain := some (chainOf c), lc := 1 } ∧ t.mem = s.mem) ∧
          ((s.nv.enrolled && Config.certOk c Config.identityKey (Config.cumostaKey 3)) = false →
            SecShows r 12 (stCHECK, 0, 0) s t ∧ t.nv = s.nv ∧ t.mem = s.mem)))

/-- R416, R417, R451: SPDM; R452: PLDM. Codes and body layouts that R416 and R452 leave to DMTF's documents are the model's
(log entry on SPDM, MCTP and PLDM). -/
def Obligations.Attestation : Prop :=
  (∀ (q : SpdmId) (slot idx cd : BitVec 8) (off len : BitVec 16) (nonce : List (BitVec 8)) (sign p384 sha : Bool) (s : State),
    let later : List (Nat × Instr) := [(1, .getCapabilities q), (2, .negotiateAlgorithms q p384 sha), (3, .getDigests q),
      (3, .getCertificate q slot off len), (3, .challenge q slot nonce), (3, .getMeasurements q idx sign nonce),
      (0, .spdmUnsupportedRequest q cd)]
    (mgmtPlane s ≠ 1 → Goes (.getVersion q) s (fun t => t = s) ∧ ∀ i ∈ later, Goes i.2 s fun t => t = s) ∧
    (mgmtPlane s = 1 →
      (Goes (.getVersion q) s fun t =>
        t.out = s.out ++ [.spdm q 0x04 [0x13, 0x12]] ∧ spdmPeer q t = some ⟨q, 1, s.clk.now, [0x84, 0x04, 0x13, 0x12]⟩ ∧
        ((s.spdm.peers.filter fun y => y.q != q).length < 8 → ∀ y, y ≠ q → spdmPeer y t = spdmPeer y s) ∧
        t = { s with spdm := t.spdm, out := t.out }) ∧
      (spdmPeer q s = none → s.spdm.dropped.contains q = true → ∀ i ∈ later, Goes i.2 s fun t =>
        t = { s with spdm := { s.spdm with dropped := s.spdm.dropped.erase q }, out := s.out ++ [.spdm q 0x7F [0x43]] }) ∧
      (spdmPeer q s = none → s.spdm.dropped.contains q = false → ∀ i ∈ later, Goes i.2 s fun t =>
        t = { s with out := s.out ++ [.spdm q 0x7F [if i.1 = 0 then 0x07 else 0x04]] }) ∧
      ∀ x, spdmPeer q s = some x →
        (∀ i ∈ later, x.step < i.1 → Goes i.2 s fun t => SpdmRefuses q 0x04 s t ∧ SpdmFrame q s t) ∧
        (Goes (.spdmUnsupportedRequest q cd) s fun t => SpdmRefuses q 0x07 s t ∧ SpdmFrame q s t) ∧
        (1 ≤ x.step → Goes (.getCapabilities q) s fun t =>
          SpdmSays x (Nat.max 2 x.step) [0xE1] 0x61 (leBytes 4 0x16) s t ∧ SpdmFrame q s t) ∧
        (2 ≤ x.step → Goes (.negotiateAlgorithms q true true) s fun t =>
          SpdmSays x 3 [0xE3] 0x63 [0x80, 0x02] s t ∧ SpdmFrame q s t) ∧
        (2 ≤ x.step → (p384 && sha) = false → Goes (.negotiateAlgorithms q p384 sha) s fun t =>
          SpdmRefuses q 0x01 s t ∧ SpdmFrame q s t) ∧
        (3 ≤ x.step →
          (Goes (.getDigests q) s fun t => SpdmSays x 3 [0x81] 0x01 (Config.sha384 (certChain s)) s t ∧ SpdmFrame q s t) ∧
          (∀ c, s.nv.chain = some c → slot = 0 → off.toNat < c.length → Goes (.getCertificate q slot off len) s fun t =>
            let n := Nat.min len.toNat (c.length - off.toNat)
            SpdmSays x 3 (0x82 :: leBytes 2 off.toNat ++ leBytes 2 len.toNat) 0x02
              (leBytes 2 n ++ leBytes 2 (c.length - off.toNat - n) ++ (c.drop off.toNat).take n) s t ∧ SpdmFrame q s t) ∧
          (slot ≠ 0 → ∀ i ∈ [Instr.getCertificate q slot off len, .challenge q slot nonce], Goes i s fun t =>
            SpdmRefuses q 0x01 s t ∧ SpdmFrame q s t) ∧
          (let n := bytesAt (Config.freeBytes s.freeCtr 32) 0 32
           let Signed := fun (req : List Byte) (code : Nat) (body : List Byte) (t : State) =>
            let sig := Config.ecdsaSign Config.identityKey (x.trans ++ req ++ BitVec.ofNat 8 code :: (body ++ n))
            SpdmSays x 3 req code (body ++ n ++ bytesAt sig 0 96) s t ∧ SpdmFrame q s t ∧ t.freeCtr = s.freeCtr + 1
           let body := if idx = 0 then [11]
            else if idx = 0xFF then (List.range 11).flatMap fun j => measBlock s (j + 1) else measBlock s idx.toNat
           (slot = 0 → Goes (.challenge q slot nonce) s
              (Signed (0x83 :: slot :: nonce) 0x03 (Config.sha384 (certChain s)))) ∧
           (idx.toNat ≤ 11 ∨ idx = 0xFF →
              Goes (.getMeasurements q idx true nonce) s (Signed (0xE0 :: idx :: nonce) 0x60 body) ∧
              Goes (.getMeasurements q idx false nonce) s fun t =>
                SpdmSays x 3 (0xE0 :: idx :: nonce) 0x60 body s t ∧ SpdmFrame q s t) ∧
           (11 < idx.toNat → idx ≠ 0xFF → Goes (.getMeasurements q idx sign nonce) s fun t =>
              SpdmRefuses q 0x01 s t ∧ SpdmFrame q s t))))) ∧
  (∀ (q : SpdmId) (tid pt : BitVec 8) (s : State), mgmtUp s = true →
    let Says := fun (i : Instr) (code cc : Nat) (body : List Byte) =>
      Goes i s fun t => t = { s with out := s.out ++ [.pldm code cc body] }
    Says .getTid 0x02 0 [s.fwu.tid] ∧ Says .getPldmTypes 0x04 0 (leBytes 8 0x21) ∧
    Says .queryDeviceIdentifiers 0x501 0 (leBytes 2 0x1EC5 ++ leBytes 2 0x6400 ++ bytesAt ownIdent 0 16) ∧
    Says (.getStatus q) 0x51B 0 [BitVec.ofNat 8 ((s.fwu.upd.map fun u => u.step).getD 0)] ∧
    (tid ≠ 0 → tid ≠ 0xFF → Goes (.setTid tid) s fun t =>
      t = { s with fwu := { s.fwu with tid := tid }, out := s.out ++ [.pldm 0x01 0 []] }) ∧
    (tid = 0 ∨ tid = 0xFF → Says (.setTid tid) 0x01 2 []) ∧
    (pt = 0 ∨ pt = 5 → Says (.getPldmCommands pt) 0x05 0 (pldmCmds pt) ∧ Goes (.getPldmVersion pt) s fun t =>
      t = { s with freeCtr := s.freeCtr + 1, out := s.out ++ [.pldm 0x03 0 (Config.freeBytes s.freeCtr 4)] }) ∧
    (pt ≠ 0 → pt ≠ 5 → Says (.getPldmCommands pt) 0x05 0x83 [] ∧ Says (.getPldmVersion pt) 0x03 0x83 []) ∧
    (Goes .getFirmwareParameters s fun t => t = { s with
      freeCtr := s.freeCtr + 1, out := s.out ++ [.pldm 0x502 0 (leBytes 2 1 ++ Config.freeBytes s.freeCtr 32)] }) ∧
    (s.fwu.upd.isSome = true → Says (.requestUpdate q) 0x510 0x81 []) ∧
    (s.fwu.upd = none → fget fwuB fFWU_CMD_BUSY s = 1 → Says (.requestUpdate q) 0x510 0x8E []) ∧
    (s.fwu.upd = none → fget fwuB fFWU_CMD_BUSY s = 0 → (s.nv.lc = 3 ∨ fwuServes s = false) →
      Says (.requestUpdate q) 0x510 0x8A []) ∧
    (s.fwu.upd = none → fget fwuB fFWU_CMD_BUSY s = 0 → s.nv.lc ≠ 3 → fwuServes s = true → Goes (.requestUpdate q) s fun t =>
      PldmSays 0x10 0 (some ⟨q, 1, 0, 0, s.clk.now⟩) s t ∧ t = { s with fwu := t.fwu, out := t.out })) ∧
  (∀ (q : SpdmId) (nc : BitVec 16) (size : BitVec 32) (data : List (BitVec 8)) (self : Bool) (u : PldmUpd) (s : State),
    let v := { u with t := s.clk.now }
    let inMode : List (Nat × List Nat × Instr) := [(0x13, [1], .passComponentTable q nc), (0x14, [2], .updateComponent q size),
      (0x16, [3], .transferComplete q), (0x17, [4], .verifyComplete q), (0x18, [5], .applyComplete q),
      (0x1A, [6], .activateFirmware q self), (0x1C, [3, 4, 5], .cancelUpdateComponent q)]
    let Alone := fun (t : State) => t = { s with fwu := t.fwu, out := t.out }
    (mgmtUp s = true → (s.fwu.upd = none ∨ (s.fwu.upd = some u ∧ u.q ≠ q)) → ∀ i ∈ inMode, Goes i.2.2 s fun t =>
      t = { s with out := s.out ++ [.pldm (0x500 + i.1) 0x80 []] }) ∧
    (∀ n, Updating q u n s → ∀ i ∈ inMode, n ∉ i.2.1 → Goes i.2.2 s fun t => PldmSays i.1 0x84 (some v) s t ∧ Alone t) ∧
    (Updating q u 1 s → nc = 1 → Goes (.passComponentTable q nc) s fun t =>
      PldmSays 0x13 0 (some { v with step := 2 }) s t ∧ Alone t) ∧
    (Updating q u 1 s → nc ≠ 1 → Goes (.passComponentTable q nc) s fun t => PldmSays 0x13 2 (some v) s t ∧ Alone t) ∧
    (Updating q u 2 s → size = 0 ∨ bankSize < size.toNat → Goes (.updateComponent q size) s fun t =>
      PldmSays 0x14 2 (some v) s t ∧ Alone t) ∧
    (Updating q u 2 s → size ≠ 0 → size.toNat ≤ bankSize → Goes (.updateComponent q size) s fun t =>
      PldmSays 0x14 0 (some { v with step := 3, size := size.toNat, got := 0 }) s t ∧ BankFrame false s t ∧
      ∀ a, tget (fun _ => 0) t.flash a = if bankBase (updBank s) ≤ a ∧ a < bankBase (updBank s) + bankSize then 0
        else tget (fun _ => 0) s.flash a) ∧
    (Updating q u 3 s → u.got < u.size → Nat.min 1024 (u.size - u.got) ≤ data.length →
      let n := Nat.min 1024 (u.size - u.got)
      let a := bankBase (updBank s) + u.got
      Goes (.requestFirmwareData q data) s fun t =>
        t.fwu.upd = some { v with got := u.got + n } ∧ t = { s with fwu := t.fwu, flash := t.flash } ∧
        (s.boot.phase ≠ 3 → (∀ j < n, tget (fun _ => 0) t.flash (a + j) = data.getD j 0) ∧
          (∀ x, x < a ∨ a + n ≤ x → tget (fun _ => 0) t.flash x = tget (fun _ => 0) s.flash x) ∧ t.fwu.rbuf = s.fwu.rbuf) ∧
        (s.boot.phase = 3 → ∀ j < n, tget (fun _ => 0) t.fwu.rbuf (u.got % rbufSize + j) = data.getD j 0)) ∧
    (Updating q u 3 s → u.got = u.size → Goes (.transferComplete q) s fun t =>
      PldmSays 0x16 0 (some { v with step := 4 }) s t ∧ Alone t) ∧
    (Updating q u 4 s → Goes (.verifyComplete q) s fun t =>
      PldmSays 0x17 (updStatus u s).toNat (some { v with step := if updStatus u s = stOK then 5 else 2 }) s t ∧ Alone t) ∧
    (Updating q u 5 s → Goes (.applyComplete q) s fun t =>
      PldmSays 0x18 0 (some { v with step := 6 }) s t ∧ BankFrame true s t ∧ t.flash = s.flash) ∧
    (Updating q u 6 s → s.nv.lc ≠ 3 → Goes (.activateFirmware q self) s fun t =>
      t.fwu.upd = none ∧ .pldm 0x51A 0 [] ∈ t.out ∧
      (self = false → s.nv.staged = true → FwuShows 3 stOK s t ∧ t.nv = { s.nv with marked := true }) ∧
      (self = false → s.nv.staged = false → FwuShows 3 stDENIED s t ∧ t.nv = s.nv) ∧
      (self = true → s.boot.phase ≠ 3 → s.nv.staged = true → compsDiffer s = [] → FwuShows 2 stOK s t ∧ t.nv = s.nv) ∧
      (self = true → s.boot.phase ≠ 3 → s.nv.staged = true → compsDiffer s ≠ [] → 5 ∉ compsDiffer s → 6 ∉ compsDiffer s →
        domGenFree 4 s = true → t.fwu.act = some ⟨1, (compsDiffer s).contains 4, stOK, 0⟩ ∧ mgmtPlane t = 2 ∧ t.nv = s.nv)) ∧
    (∀ n, Updating q u n s → 3 ≤ n → n ≤ 5 → Goes (.cancelUpdateComponent q) s fun t =>
      PldmSays 0x1C 0 (some { v with step := 2 }) s t ∧ BankFrame false s t ∧ t.flash = s.flash) ∧
    (∀ n, Updating q u n s → Goes (.cancelUpdate q) s fun t =>
      PldmSays 0x1D 0 none s t ∧ BankFrame false s t ∧ t.flash = s.flash)) ∧
  ∀ (u : PldmUpd) (s : State), s.fwu.upd = some u →
    (elapsed u.t (60 * ticksS) s = true → Goes .pldmIdleTimeout s fun t =>
      t.fwu = { s.fwu with upd := none } ∧ BankFrame false s t ∧ t.flash = s.flash ∧ t.out = s.out) ∧
    (elapsed u.t (60 * ticksS) s = false → Goes .pldmIdleTimeout s fun t => t = s)

/-! The host interface and the management ports (R433 to R452). -/

/-- R435 to R438, R441, R465: the host interface; R442 to R444: MCTP and the network. -/
def Obligations.HostAndPorts : Prop :=
  (∀ (f : Fin 5) (addr : BitVec 64) (data : List (BitVec 8)) (len : Nat) (s : State),
    let a := addr.toNat
    let n := data.length
    let Counted := fun (t : State) =>
      fget hostB (fDenied f.val) t = Nat.min (fget hostB (fDenied f.val) s + 1) 65535 ∧
      RegsKept [hostB + oHOST_DENIED_PF0 + 4 * f.val] s t
    (∀ b, hostUp f.val s = false → Goes (.barWrite f b addr data) s (fun t => t = s) ∧
      Goes (.barRead f b addr len) s fun t => t = s) ∧
    (∀ b, (if b then bar2Size else bar0Size) < a + n → Goes (.barWrite f b addr data) s fun t => t = s) ∧
    (hostUp f.val s = true → data ≠ [] → a + n ≤ bar0Size → Goes (.barWrite f false addr data) s fun t =>
      exec (.registerWrite (.pf f) (addr.setWidth 32) n (BitVec.ofNat 32 (leNat data)) 0) s = .next t) ∧
    (hostUp f.val s = true → a + 4 ≤ bar0Size → Goes (.barRead f false addr 4) s fun t =>
      t = withOut (.barData f.val (leBytes 4 (readReg (.pf f) a 4 s).2.1.toNat)) (readReg (.pf f) a 4 s).2.2) ∧
    (hostUp f.val s = true → data ≠ [] → a + n ≤ bar2Size → barAllowed f a n s = true → inSink a n s = true →
      Goes (.barWrite f true addr data) s fun t => t = s) ∧
    (hostUp f.val s = true → data ≠ [] → a + n ≤ bar2Size → barAllowed f a n s = true → inSink a n s = false →
      Memory.wf s.mem = true → s.ecc = [] →
      Goes (.barWrite f true addr data) s fun t =>
        (∀ j < n, memGet (a + j) t = data.getD j 0) ∧ MemOutside a n s t ∧ t.cores = s.cores ∧ t.queues = s.queues ∧
        t.cab = s.cab ∧ t.nv = s.nv ∧ t.fab = s.fab) ∧
    (hostUp f.val s = true → data ≠ [] → a + n ≤ bar2Size → barAllowed f a n s = false →
      Goes (.barWrite f true addr data) s fun t => Counted t ∧ t = { s with regs := t.regs }) ∧
    (hostUp f.val s = true → 0 < len → a + len ≤ bar2Size → barAllowed f a len s = true → s.ecc = [] →
      Goes (.barRead f true addr len) s fun t => t.out = s.out ++ [.barData f.val (memBytes a len s)] ∧
        t = { s with regs := t.regs, perf := t.perf, chans := t.chans, out := t.out }) ∧
    (hostUp f.val s = true → 0 < len → a + len ≤ bar2Size → barAllowed f a len s = false →
      Goes (.barRead f true addr len) s fun t => Counted t ∧
        t = { s with regs := t.regs, out := s.out ++ [.barData f.val (List.replicate len 0)] })) ∧
  (∀ (ns : Nat) (speed : Fin 7) (width : BitVec 5) (s : State),
    (Goes (.perstN true ns) s fun t => t = { s with host := { s.host with perst := false } }) ∧
    (ns < 1000 → Goes (.perstN false ns) s fun t => t = s) ∧
    (1000 ≤ ns → Goes (.perstN false ns) s fun t =>
      t.host = { s.host with perst := true, msixEn := List.replicate 5 false, masked := [], pend := [], causes := [] } ∧
      regGet (hostB + oHOST_LINK) t = 0 ∧ (∀ f < 5, regGet (hostB + oHOST_DENIED_PF0 + 4 * f) t = 0) ∧
      RegsKept ((hostB + oHOST_LINK) :: (List.range 5).map fun f => hostB + oHOST_DENIED_PF0 + 4 * f) s t ∧
      t = { s with regs := t.regs, host := t.host }) ∧
    (s.host.perst = true ∨ s.boot.phase = 0 ∨ width.toNat ∉ [1, 2, 4, 8, 16] →
      Goes (.pcieLinkTrain speed width) s fun t => t = s) ∧
    (s.host.perst = false → s.boot.phase ≠ 0 → width.toNat ∈ [1, 2, 4, 8, 16] →
      (speed ≠ 0 → Goes (.pcieLinkTrain speed width) s fun t =>
        fget hostB fHOST_LINK_SPEED t = speed.val ∧ fget hostB fHOST_LINK_WIDTH t = width.toNat ∧
        fget hostB fHOST_LINK_FLIT t = (if speed.val = 6 then 1 else 0) ∧ RegsKept [hostB + oHOST_LINK] s t ∧
        t = { s with regs := t.regs, host := { s.host with refclk := true } }) ∧
      (speed = 0 → Goes (.pcieLinkTrain speed width) s fun t =>
        regGet (hostB + oHOST_LINK) t = 0 ∧ RegsKept [hostB + oHOST_LINK] s t ∧ t = { s with regs := t.regs })) ∧
    (Goes .pcieRefclkLoss s fun t => regGet (hostB + oHOST_LINK) t = 0 ∧ RegsKept [hostB + oHOST_LINK] s t ∧
      t = { s with regs := t.regs, host := { s.host with refclk := false } })) ∧
  (∀ (f : Fin 5) (v : Fin 2048) (s : State),
    let k := 2048 * f.val + v.val
    (hostUp f.val s = false → ∀ i ∈ [Instr.functionLevelReset f, .msixWrite f v, .msixUnmask f v], Goes i s fun t => t = s) ∧
    (hostUp f.val s = true →
      (Goes (.functionLevelReset f) s fun t =>
        t.host.msixEn = modAt f.val (fun _ => false) s.host.msixEn ∧
        (∀ w < 2048, tget (fun _ => true) t.host.masked (2048 * f.val + w) = true ∧
          tget (fun _ => false) t.host.pend (2048 * f.val + w) = false) ∧
        (∀ w, w / 2048 ≠ f.val → tget (fun _ => true) t.host.masked w = tget (fun _ => true) s.host.masked w ∧
          tget (fun _ => false) t.host.pend w = tget (fun _ => false) s.host.pend w) ∧
        (∀ c, c ∈ t.host.causes ↔ c ∈ s.host.causes ∧ c.1 ≠ f.val) ∧
        (∀ off < 2 ^ 32, getLatch (.pf f) off t = 0) ∧ regGet (hostB + oHOST_DENIED_PF0 + 4 * f.val) t = 0 ∧
        RegsKept [hostB + oHOST_DENIED_PF0 + 4 * f.val] s t ∧
        (∀ cmd, s.sec.run = some (.pf f, cmd) → t.sec.run = some (.hubFw false, cmd)) ∧
        t = { s with regs := t.regs, latches := t.latches, host := t.host, sec := t.sec }) ∧
      ((f.val, v.val) ∈ s.host.causes → Goes (.msixWrite f v) s fun t => t.out = s.out ++ [.msix f.val v.val] ∧
        (∀ c, c ∈ t.host.causes ↔ c ∈ s.host.causes ∧ c ≠ (f.val, v.val)) ∧
        t = { s with host := { s.host with causes := t.host.causes }, out := t.out }) ∧
      ((f.val, v.val) ∉ s.host.causes → Goes (.msixWrite f v) s fun t => t = s) ∧
      (Goes (.msixUnmask f v) s fun t =>
        t.host = { s.host with
          msixEn := modAt f.val (fun _ => true) s.host.msixEn, masked := tset (fun _ => true) k false s.host.masked
          pend := tset (fun _ => false) k false s.host.pend } ∧
        t.out = (if tget (fun _ => false) s.host.pend k then s.out ++ [.msix f.val v.val] else s.out) ∧
        t = { s with host := t.host, out := t.out }))) ∧
  (∀ (a7 : BitVec 7) (eid : BitVec 8) (tr : Transport) (s : State),
    (mgmtUp s = false → ∀ i ∈ [Instr.entdaa a7, .setEndpointId eid true, .getEndpointId, .getMctpVersionSupport,
      .getMessageTypeSupport tr, .getVendorDefinedMessageSupport tr], Goes i s fun t => t = s) ∧
    (mgmtUp s = true →
      (Goes (.entdaa a7) s fun t => fget hostB fHOST_MGMT_I3C_ADDR t = a7.toNat ∧ fget hostB fHOST_MGMT_I3C_ADDR_OK t = 1 ∧
        RegsKept [hostB + oHOST_MGMT] s t ∧ t = { s with regs := t.regs }) ∧
      (eid ≠ 0 → eid ≠ 0xFF → Goes (.setEndpointId eid true) s fun t => fget hostB fHOST_MGMT_MCTP_EID t = eid.toNat ∧
        RegsKept [hostB + oHOST_MGMT] s t ∧ t = { s with regs := t.regs, out := s.out ++ [.mctp 1 [0, eid]] }) ∧
      (eid = 0 ∨ eid = 0xFF → Goes (.setEndpointId eid true) s fun t => t = withOut (.mctp 1 [2]) s) ∧
      (Goes (.setEndpointId eid false) s fun t => t = withOut (.mctp 1 [1]) s) ∧
      (Goes .getEndpointId s fun t => t = withOut (.mctp 2 [0, BitVec.ofNat 8 (fget hostB fHOST_MGMT_MCTP_EID s)]) s) ∧
      (Goes .getMctpVersionSupport s fun t =>
        t = { s with freeCtr := s.freeCtr + 1, out := s.out ++ [.mctp 4 (0 :: Config.freeBytes s.freeCtr 4)] }) ∧
      (Goes (.getMessageTypeSupport tr) s fun t =>
        t = withOut (.mctp 5 (0 :: if tr = .pcie then [0x01, 0x05] else [0x01, 0x05, 0x7E])) s) ∧
      Goes (.getVendorDefinedMessageSupport tr) s fun t =>
        t = withOut (.mctp 6 (if tr = .pcie then [1] else [0, 0, 0x1E, 0xC5])) s)) ∧
  ∀ (p : MgPort) (ip : BitVec 32) (data : List (BitVec 8)) (s : State),
    (portHears p ip s = true → (Goes (.arpRequest p ip) s fun t => t = withOut (.net p true (portMac p)) s) ∧
      Goes (.icmpEcho p ip data) s fun t => t = withOut (.net p false data) s) ∧
    (portHears p ip s = false → ∀ i ∈ [Instr.arpRequest p ip, .icmpEcho p ip data], Goes i s fun t => t = s) ∧
    (Goes (.mgmtPortLinkChange p false) s fun t => fget hostB (fPortUp p) t = 0 ∧ RegsKept [hostB + oHOST_MGMT] s t ∧
      t = { s with regs := t.regs }) ∧
    (fget hostB fHOST_MGMT_LOCATED s = 1 ∨ s.boot.phase = 3 → Goes (.mgmtPortLinkChange p true) s fun t =>
      fget hostB (fPortUp p) t = 1 ∧ RegsKept [hostB + oHOST_MGMT] s t ∧ t = { s with regs := t.regs })

/-- R447, R450: the checks; R294, R295, R448: the rack class; R449: registers and memory. -/
def Obligations.ManagementMessages : Prop :=
  (∀ (m : MgmtMsg) (s : State),
    let Says := fun (r : MgmtReply) (t : State) => Out.mgmtFrame m.port (replyFrame m r t)
    (mgmtPlane s ≠ 2 → (msgHeard m s = false ∨ bitOf m.flags.toNat 0 = true) → Goes (.mgmtMessageCheck m) s fun t => t = s) ∧
    (mgmtPlane s = 2 → Goes (.mgmtMessageCheck m) s (MgmtWaits (.msg m) s)) ∧
    (mgmtPlane s = 0 → s.boot.phase ≠ 3 → Goes (.mgmtMessageCheck m) s fun t => t = s) ∧
    (MsgHandled m s → formatBad m = true → Goes (.mgmtMessageCheck m) s fun t => t = withOut (Says ⟨stFORMAT, 0, []⟩ t) s) ∧
    (MsgHandled m s → formatBad m = false → lengthBad m = true → Goes (.mgmtMessageCheck m) s fun t =>
      t = withOut (Says ⟨stLENGTH, 0, []⟩ t) s) ∧
    (MsgHandled m s → formatBad m = false → lengthBad m = false → authOk m s = false → Goes (.mgmtMessageCheck m) s fun t =>
      fget hostB fHOST_MCNT0_AUTH_FAIL_CNT t = Nat.min (fget hostB fHOST_MCNT0_AUTH_FAIL_CNT s + 1) 65535 ∧
      RegsKept [hostB + oHOST_MCNT0] s t ∧ t = { s with regs := t.regs }) ∧
    (MsgKnown m s → m.bootId.toNat ≠ bootIdOf s → Goes (.mgmtMessageCheck m) s fun t =>
      fget hostB fHOST_MCNT1_STALE_BOOT_CNT t = Nat.min (fget hostB fHOST_MCNT1_STALE_BOOT_CNT s + 1) 65535 ∧
      RegsKept [hostB + oHOST_MCNT1] s t ∧ t = withOut (Says ⟨stSTALE, 0, []⟩ t) { s with regs := t.regs }) ∧
    (MsgKnown m s → m.bootId.toNat = bootIdOf s →
      (∀ x, lastPeer m s = some x → m.seq = x.seq → m.cls = 2 → m.code ≠ 7 → Goes (.mgmtMessageCheck m) s fun t =>
        t = withOut (Says x.reply t) s) ∧
      (∀ x, lastPeer m s = some x → m.seq ≠ x.seq → newer32 m.seq x.seq = false → Goes (.mgmtMessageCheck m) s fun t =>
        fget hostB fHOST_MCNT0_REPLAY_CNT t = Nat.min (fget hostB fHOST_MCNT0_REPLAY_CNT s + 1) 65535 ∧
        RegsKept [hostB + oHOST_MCNT0] s t ∧ t = { s with regs := t.regs }) ∧
      ((∀ x, lastPeer m s = some x → m.seq ≠ x.seq ∧ newer32 m.seq x.seq = true) → m.cls = 2 → m.code ≠ 7 →
        s.boot.phase ≠ 0 →
        (senderAllowed m s = false → Goes (.mgmtMessageCheck m) s fun t =>
          lastPeer m t = some ⟨m.sender, m.keyId, m.seq, ⟨stDENIED, 0, []⟩⟩ ∧
          t = withOut (Says ⟨stDENIED, 0, []⟩ t) { s with mgmt := { s.mgmt with peers := t.mgmt.peers } }) ∧
        (senderAllowed m s = true → Goes (.mgmtMessageCheck m) s fun t =>
          let x := handleMsg m s
          lastPeer m t = some ⟨m.sender, m.keyId, m.seq, x.1⟩ ∧
          t = withOut (Says x.1 t) { x.2 with mgmt := { x.2.mgmt with peers := t.mgmt.peers } })))) ∧
  (∀ (rack : BitVec 13) (tray : BitVec 4) (socket : BitVec 2) (ipA ipB : BitVec 32) (s : State),
    let same := sameLocation rack.toNat tray.toNat socket.toNat ipA ipB s
    let go := Goes (.location rack tray socket ipA ipB) s
    (mgmtPlane s = 2 → go (MgmtWaits (.location rack tray socket ipA ipB) s)) ∧
    (mgmtUp s = false → mgmtPlane s ≠ 2 → go fun t => t = s) ∧
    (mgmtUp s = true → mgmtPlane s ≠ 2 → rack = 8191 → go fun t => t = withOut (.mgmtReply 2 5 ⟨stFORMAT, 0, []⟩) s) ∧
    (mgmtUp s = true → mgmtPlane s ≠ 2 → rack ≠ 8191 → fget hostB fHOST_MGMT_LOCATED s = 1 → go fun t =>
      t = withOut (.mgmtReply 2 5 ⟨if same then stOK else stDENIED, 0, []⟩) s) ∧
    (mgmtUp s = true → mgmtPlane s ≠ 2 → rack ≠ 8191 → fget hostB fHOST_MGMT_LOCATED s = 0 → go fun t =>
      .mgmtReply 2 5 ⟨stOK, 0, []⟩ ∈ t.out ∧ fget gzlB fGZL_SELF_RACK t = rack.toNat ∧
      fget gzlB fGZL_SELF_TRAY t = tray.toNat ∧ fget gzlB fGZL_SELF_SOCKET t = socket.toNat ∧
      regGet (hostB + oHOST_IPV4_A) t = ipA ∧ regGet (hostB + oHOST_IPV4_B) t = ipB ∧
      fget hostB fHOST_MGMT_LOCATED t = 1 ∧ fget hostB fHOST_MGMT_A_UP t = 1 ∧ fget hostB fHOST_MGMT_B_UP t = 1 ∧
      (s.boot.phase ≠ 3 → s.gzl.wait = [] → s.gzl.cont = none → ∀ p < 32, portState p t =
        if portState p s ≠ 0 then portState p s else if laserLow p s then 4 else 1) ∧
      (s.boot.phase = 3 → t = { s with regs := t.regs, out := t.out }))) ∧
  (∀ (k : BitVec 3) (src : BitVec 19) (s : State),
    (mgmtPlane s = 2 → Goes (.rungTarget k) s (MgmtWaits (.rungTarget k) s)) ∧
    (mgmtPlane s = 1 → 5 < k.toNat → Goes (.rungTarget k) s fun t => t = withOut (.mgmtReply 2 4 ⟨stFORMAT, 0, []⟩) s) ∧
    (mgmtPlane s = 1 → k.toNat ≤ 5 → serving s = false → Goes (.rungTarget k) s fun t =>
      t = withOut (.mgmtReply 2 4 ⟨stDENIED, 0, []⟩) s) ∧
    (mgmtPlane s = 1 → k.toNat ≤ 5 → serving s = true → Goes (.rungTarget k) s fun t =>
      fget drpB fDRP_RUNG_TARGET_TARGET t = k.toNat ∧ RegsKept [drpB + oDRP_RUNG_TARGET] s t ∧
      t = withOut (.mgmtReply 2 4 ⟨stOK, 0, []⟩) { s with
        regs := t.regs, out := if isKeeper s then s.out else s.out ++ [.rungTarget (keeperEid s) k.toNat] }) ∧
    (∀ T p, s.mgmt.evT = some T → s.mgmt.hbPort = some p → mgmtPlane s = 1 → elapsed T (10 * ticksMs) s = true →
      Goes .event s fun t =>
        t = withOut (.event p s.mgmt.evBits) { s with mgmt := { s.mgmt with evBits := 0, evT := none } }) ∧
    (s.mgmt.evT = none → Goes .event s fun t => t = s) ∧
    (gzFree s = true →
      (gzActive s = true → src ≠ ownEid s → Goes (.safeNotice src) s
        (GzSent (some src) (.claim (regGet (gzlB + oGZL_EPOCH) s) (ownEid s)) s)) ∧
      (gzActive s = false ∨ src = ownEid s → Goes (.safeNotice src) s fun t => t = s)) ∧
    (gzBusy s = true → Goes (.safeNotice src) s (GzWaits (.safeNotice src) s)) ∧
    (gzDeaf s = true → Goes (.safeNotice src) s fun t => t = s)) ∧
  ∀ (p : MgPort) (off n : BitVec 32) (w : BitVec 32) (addr : BitVec 64) (data : List (BitVec 8)) (s : State),
    let a := addr.toNat
    (mgmtPlane s = 2 → ∀ i ∈ [(Instr.regRead p off n, MgmtIn.regRead p off n), (.regWrite p off [w], .regWrite p off [w]),
      (.memWrite p addr data, .memWrite p addr data), (.memRead p addr n, .memRead p addr n)], Goes i.1 s (MgmtWaits i.2 s)) ∧
    (portServes p s = false → mgmtPlane s ≠ 2 → ∀ i ∈ [Instr.regRead p off n, .regWrite p off [w], .memWrite p addr data,
      .memRead p addr n], Goes i s fun t => t = s) ∧
    (portServes p s = true → mgmtPlane s ≠ 2 → s.boot.phase ≠ 0 →
      (n = 0 ∨ 64 < n.toNat → Goes (.regRead p off n) s fun t => t = withOut (.mgmtReply 3 1 ⟨stLENGTH, 0, []⟩) s) ∧
      (let x := readReg (portReq p) off.toNat 4 s
       n = 1 → x.1 = stOK → Goes (.regRead p off n) s fun t =>
        t = withOut (.mgmtReply 3 1 ⟨stOK, 0, leBytes 4 x.2.1.toNat⟩) x.2.2) ∧
      (let x := writeReg (portReq p) off.toNat 4 w s
       x.2.boot.phase ≠ 0 → Goes (.regWrite p off [w]) s fun t => t = withOut (.mgmtReply 3 2 ⟨x.1, 0, []⟩) x.2) ∧
      (data = [] ∨ 1008 < data.length → Goes (.memWrite p addr data) s fun t =>
        t = withOut (.mgmtReply 3 3 ⟨stLENGTH, 0, []⟩) s) ∧
      (data ≠ [] → data.length ≤ 1008 → memMsgStatus (portReq p) a data.length s ≠ stOK → Goes (.memWrite p addr data) s
        fun t => t = withOut (.mgmtReply 3 3 ⟨memMsgStatus (portReq p) a data.length s, 0, []⟩) s) ∧
      (data ≠ [] → data.length ≤ 1008 → memMsgStatus (portReq p) a data.length s = stOK → inSink a data.length s = true →
        Goes (.memWrite p addr data) s fun t => t = withOut (.mgmtReply 3 3 ⟨stDENIED, 0, []⟩) s) ∧
      (data ≠ [] → data.length ≤ 1008 → memMsgStatus (portReq p) a data.length s = stOK → inSink a data.length s = false →
        Memory.wf s.mem = true → s.ecc = [] → Goes (.memWrite p addr data) s fun t =>
          (∀ j < data.length, memGet (a + j) t = data.getD j 0) ∧ MemOutside a data.length s t ∧
          t.out = s.out ++ [.mgmtReply 3 3 ⟨stOK, 0, []⟩] ∧ t.cores = s.cores ∧ t.queues = s.queues ∧ t.cab = s.cab) ∧
      (0 < n.toNat → n.toNat ≤ 1000 → memMsgStatus (portReq p) a n.toNat s = stOK → s.ecc = [] →
        Goes (.memRead p addr n) s fun t =>
          t.out = s.out ++ [.mgmtReply 3 4 ⟨stOK, 0, memBytes a n.toNat s⟩] ∧
          t = { s with regs := t.regs, perf := t.perf, chans := t.chans, out := t.out }) ∧
      (0 < n.toNat → n.toNat ≤ 1000 → memMsgStatus (portReq p) a n.toNat s ≠ stOK → Goes (.memRead p addr n) s fun t =>
        t = withOut (.mgmtReply 3 4 ⟨memMsgStatus (portReq p) a n.toNat s, 0, []⟩) s))

/-! Links, cells and the Sump (R215 to R236). -/

/-- R217, R220 to R223, R296: links; R225, R228, R252, R287: cells; R229, R232, R233: the Sump. -/
def Obligations.LinksAndCells : Prop :=
  (∀ (p : Fin 32) (r : TrainResult) (x : Port) (T : TrainRun) (s : State), s.fab.ports[p.val]? = some x → x.run = some T →
    portState p.val s = 1 →
    let w := if laserLow p.val s then (0, 0) else trainLanes r
    let better : Option (TrainResult × Nat × BitVec 8) := match T.best with
      | none => some (r, w.1, w.2)
      | some b => if b.2.1 < w.1 then some (r, w.1, w.2) else T.best
    let b := fabB p.val
    let out := fun (cause : Nat) (t : State) => portState p.val t = 4 ∧ fget b fFAB_STATUS_CAUSE t = cause ∧
      fget b eFAB_EVENT_LINK_DOWN.bit t = 1 ∧ fget b fFAB_STATUS_LANES_USED t = 0
    let optics := fun (t : State) =>
      fget b fFAB_OPTICS_LASER_IN t = r.laserIn.toNat ∧ fget b fFAB_OPTICS_OE_TEMP t = r.oeTemp.toNat
    (runOver T = false → w.1 = 0 → Goes (.linkTrainAttempt p r) s fun t =>
      t.fab.ports = modAt p.val (fun _ => { x with run := some { T with attempts := T.attempts + 1 } }) s.fab.ports ∧
      portState p.val t = 1 ∧ optics t ∧ t = { s with regs := t.regs, fab := { s.fab with ports := t.fab.ports } }) ∧
    (runOver T = false → w.1 ≠ 0 → r.plane.toNat = p.val % 8 → r.fibre.toNat ≤ 7600 → Goes (.linkTrainAttempt p r) s fun t =>
      t.fab.ports = modAt p.val (fun _ => { x with run := some { T with attempts := T.attempts + 1, best := better } })
        s.fab.ports ∧
      portState p.val t = 1 ∧ fget b fFAB_STATUS_LANES_OK t = (r.txGood &&& r.rxGood).toNat ∧
      fget b fFAB_LINK_FIBRE_DLY t = r.fibre.toNat ∧ fget b fFAB_LINK_TRAY_PORT t = r.trayPort.toNat ∧ optics t ∧
      t.out = s.out ++ [.ctlCell p.val x.txSeq false (isSafe s) [.train (ownEid s) (BitVec.ofNat 5 p.val)
        (BitVec.ofNat 8 ((enabledVls s).map (2 ^ ·)).sum)]] ∧
      t = { s with regs := t.regs, fab := { s.fab with ports := t.fab.ports }, out := t.out }) ∧
    (runOver T = false → w.1 ≠ 0 → r.plane.toNat ≠ p.val % 8 → Goes (.linkTrainAttempt p r) s fun t =>
      out (if T.isFault then 6 else 4) t ∧ fget b eFAB_EVENT_MISWIRE.bit t = 1 ∧ fget b fFAB_STATUS_PLANE t = r.plane.toNat) ∧
    (runOver T = false → w.1 ≠ 0 → r.plane.toNat = p.val % 8 → 7600 < r.fibre.toNat → Goes (.linkTrainAttempt p r) s
      (out (if T.isFault then 6 else 5))) ∧
    (runOver T = true → Goes (.linkTrainAttempt p r) s fun t => t = s) ∧
    (GzQuiet s → runOver T = true → T.best = none → Goes (.linkTrainEnd p) s (out (if T.isFault then 6 else 2))) ∧
    (∀ y, GzQuiet s → runOver T = true → T.best = some y → y.2.1 = 4 → bitOf (sectW s.cab.cur 7 1) p.val = false →
      Goes (.linkTrainEnd p) s (out (if T.isFault then 6 else 3))) ∧
    (∀ y, GzQuiet s → runOver T = true → T.best = some y → (y.2.1 = 4 → bitOf (sectW s.cab.cur 7 1) p.val = true) →
      (y.1.trayPort.toNat = wiredTo p.val s → Goes (.linkTrainEnd p) s fun t =>
        portState p.val t = (if y.2.1 = 8 then 2 else 3) ∧ fget b fFAB_STATUS_LANES_USED t = y.2.2.toNat ∧
        t.fab.ports = modAt p.val (fun _ => { x with run := none, rxSeq := none, txSeq := 0, slots := 0, xoffRx := 0 })
          s.fab.ports ∧ t.mem = s.mem ∧ t.cores = s.cores) ∧
      (y.1.trayPort.toNat ≠ wiredTo p.val s → Goes (.linkTrainEnd p) s fun t =>
        out 7 t ∧ fget gzlB eGZL_EVENT_WIRING.bit t = 1 ∧ .gzlWiring p.val ∈ t.out))) ∧
  (∀ (p : Fin 32) (x : Port) (s : State), s.fab.ports[p.val]? = some x → portUp p.val s = true → GzQuiet s →
    let recent := ∃ T, x.lastFault = some T ∧ elapsed T ticksS s = false
    (recent → Goes (.linkFault p) s fun t => portState p.val t = 4 ∧ fget (fabB p.val) fFAB_STATUS_CAUSE t = 6 ∧
      (getPort p.val t).lastFault = some s.clk.now) ∧
    (¬recent → Goes (.linkFault p) s fun t => portState p.val t = 1 ∧ fget (fabB p.val) eFAB_EVENT_RETRAIN.bit t = 1 ∧
      (getPort p.val t).egress = List.replicate 8 [] ∧ (getPort p.val t).lastFault = some s.clk.now ∧
      (getPort p.val t).run = some ⟨0, none, true⟩ ∧ t.mem = s.mem)) ∧
  (∀ (e : Fin 8) (power : BitVec 8) (s : State),
    let ports := (List.range 4).map fun j => fabB (4 * e.val + j) + oFAB_OPTICS
    let shown := fun (t : State) => ∀ j < 4, fget (fabB (4 * e.val + j)) fFAB_OPTICS_LASER_IN t = power.toNat
    (GzQuiet s → Goes (.laserLow ⟨e, power⟩) s fun t => t.fab.lasers = modAt e.val (fun _ => true) s.fab.lasers ∧
      (∀ j < 4, portUp (4 * e.val + j) s = true →
        portState (4 * e.val + j) t = 4 ∧ fget (fabB (4 * e.val + j)) fFAB_STATUS_CAUSE t = 1) ∧
      (∀ p < 32, (p / 4 ≠ e.val ∨ portUp p s = false) → portState p t = portState p s) ∧ shown t) ∧
    (Goes (.laserRestored ⟨e, power⟩) s fun t => shown t ∧ RegsKept ports s t ∧
      t = { s with regs := t.regs, fab := { s.fab with lasers := modAt e.val (fun _ => false) s.fab.lasers } })) ∧
  (∀ (p : Fin 32) (x : Port) (s : State), s.fab.ports[p.val]? = some x →
    let n := x.txSeq + 1
    let Sent := fun (f : Port → Port) (o : Out) (t : State) =>
      t.fab.ports = modAt p.val (fun _ => f { x with slots := (x.slots + 1) % 200, txSeq := n }) s.fab.ports ∧
      t.out = s.out ++ [o] ∧ t = { s with
        regs := t.regs, perf := t.perf, fab := { s.fab with ports := t.fab.ports }, out := t.out, freeCtr := t.freeCtr,
        drp := { s.drp with exch := t.drp.exch } }
    let go := Goes (.cellSlotTx p) s
    (portUp p.val s = false → go fun t => t = s) ∧
    (portUp p.val s = true → isSafe s = true → go (Sent id (.ctlCell p.val n false true []))) ∧
    (portUp p.val s = true → isSafe s = false →
      (x.slots = 199 → go (Sent id (.ctlCell p.val n true false [.flow x.xoffTx]))) ∧
      (x.slots ≠ 199 → x.items ≠ [] → go (Sent (fun y => { y with items := itemsLeft x.items })
        (.ctlCell p.val n false false (stampItems (cellItems x.items) s).1))) ∧
      (x.slots ≠ 199 → x.items = [] → pickVl x s = none → go (Sent id (.ctlCell p.val n false false []))) ∧
      (∀ v rv rs c l, x.slots ≠ 199 → x.items = [] → GzQuiet s → pickVl x s = some (v, rv, rs) →
        let turn := pickSlot (x.egress.getD v []) (x.broad.getD v (7, 0)) (x.broadW.getD v 0) s
        (x.egress.getD v [] = c :: l → (isFirstCell c = false ∨ turn = none) →
          go (CellSent p.val v rv rs x c l s)) ∧
        (∀ c0 l0 k q, x.egress.getD v [] = c0 :: l0 → isFirstCell c0 = true → turn = some (k, q) →
          slotFirst k (x.egress.getD v []) s = c :: l → go (CellSent p.val v rv rs x c l s))))) ∧
  (∀ (p : Fin 32) (c : Cell) (x : Port) (s : State), s.fab.ports[p.val]? = some x → GzQuiet s →
    let gap := ∃ q, x.rxSeq = some q ∧ c.seq ≠ q + 1
    let v := c.vl.val
    let b := fabB p.val
    let go := Goes (.cellRx p c) s
    let Seen := fun (t : State) => (getPort p.val t).rxSeq = some c.seq ∧ t.mem = s.mem ∧ t.cores = s.cores ∧
      fget b fFAB_FEC_UNCORR_COUNT t =
        (fget b fFAB_FEC_UNCORR_COUNT s + c.fecBad) % 2 ^ (fFAB_FEC_UNCORR_COUNT.hi + 1 - fFAB_FEC_UNCORR_COUNT.lo)
    let Space := fun (t : State) => ((getPort p.val t).inRes, (getPort p.val t).inShared, (getPort p.val t).headroom)
    (portUp p.val s = false → go fun t => t = s) ∧
    (portUp p.val s = true → 8 < (badAfter x c.fecBad s).length → go fun t => portUp p.val t = false ∧
      (getPort p.val t).lastFault = some s.clk.now ∧ t.mem = s.mem ∧ t.cores = s.cores) ∧
    (portUp p.val s = true → (badAfter x c.fecBad s).length ≤ 8 → ∀ u, (gap → u = discardOpen p.val s) → (¬gap → u = s) →
      let w := if c.first then discardVl p.val v u else u
      let z := getPort p.val w
      let fits := c.first = true ∨ vlOpen (getPort p.val u) v = true
      let room := decide (0 < resFree z v w)
      let share := decide (0 < shareFree z v w)
      (c.ctrl = true → go fun t => Seen t ∧ (gap → (getPort p.val t).openVl = 0) ∧
        fget b fFAB_STATUS_PARTNER_FAULT t = c.fault.toNat ∧ Space t = Space u) ∧
      (c.ctrl = false → isSafe s = true → go fun t => Seen t ∧ Space t = Space u) ∧
      (c.ctrl = false → isSafe s = false →
        (vlEnabled s.cab.cur v = false → go fun t => Seen t ∧ fget b eFAB_EVENT_VL_DROP.bit t = 1 ∧ Space t = Space u) ∧
        (vlEnabled s.cab.cur v = true → ¬fits → go fun t => Seen t ∧ Space t = Space u) ∧
        (vlEnabled s.cab.cur v = true → fits →
          (room = true → go fun t => Seen t ∧ Space t = (modAt v (· + 1) z.inRes, z.inShared, z.headroom) ∧
            vlOpen (getPort p.val t) v = !c.last) ∧
          (room = false → share = true → go fun t => Seen t ∧
            Space t = (z.inRes, modAt v (· + 1) z.inShared, z.headroom) ∧ vlOpen (getPort p.val t) v = !c.last) ∧
          (room = false → share = false → z.headroom < headCells → go fun t => Seen t ∧
            Space t = (z.inRes, z.inShared, z.headroom + 1) ∧ vlOpen (getPort p.val t) v = !c.last) ∧
          (room = false → share = false → headCells ≤ z.headroom → go fun t => Seen t ∧
            fget b eFAB_EVENT_HEADROOM_OVF.bit t = 1 ∧ vlOpen (getPort p.val t) v = false ∧
            Space t = Space (discardVl p.val v w)))))) ∧
  ∀ (p : Fin 32) (vl : Fin 8) (map : BitVec 8) (x : Port) (s : State), s.fab.ports[p.val]? = some x →
    let can := x.xoffTx.getLsbD vl.val = true ∧ x.headroom = 0 ∧ pairTakes p.val vl.val 256 s = true
    let m := BitVec.ofNat 8 (setBit x.xoffTx.toNat vl.val false)
    (can → Goes (.xonSend p vl) s fun t => m.getLsbD vl.val = false ∧ t = { s with fab := { s.fab with
      ports := modAt p.val (fun _ => { x with xoffTx := m, items := x.items ++ [.flow m] }) s.fab.ports } }) ∧
    (¬can → Goes (.xonSend p vl) s fun t => t = s) ∧
    (portUp p.val s = true → isSafe s = false → Goes (.flow p map) s fun t =>
      t = { s with perf := t.perf, fab := { s.fab with
        ports := modAt p.val (fun _ => { x with xoffRx := map }) s.fab.ports } }) ∧
    (portUp p.val s = false ∨ isSafe s = true → Goes (.flow p map) s fun t => t = s)

/-! Remote operations, the endpoint table, drains and sessions (R237 to R250, R365). -/

/-- R235, R241, R242: packets at the destination; R242, R243, R365: replies at the source. -/
def Obligations.RemoteOperations : Prop :=
  (∀ (p : Fin 32) (k : Packet) (early : Nat) (s : State),
    (pktHere p.val k s = false → ∀ i ∈ [Instr.packetRx p k early, .getReq p k, .getResp p k, .notifyAdd p k,
      .chamberChunkRx p k, .stallNotice p k, .doneToken p k], Goes i s fun t => t = s) ∧
    (k.kind ≠ 2 → Goes (.getReq p k) s fun t => t = s) ∧ (k.kind ≠ 3 → Goes (.getResp p k) s fun t => t = s) ∧
    (k.kind ≠ 5 → Goes (.notifyAdd p k) s fun t => t = s) ∧
    (pktHere p.val k s = true →
      (pktOpened k s = none → Goes (.packetRx p k early) s fun t =>
        fget (fabB p.val) eFAB_EVENT_TAG_FAIL.bit t = 1 ∧ PktFreed p.val k s t ∧ t.cores = s.cores ∧
        (early = 0 ∨ getSession k.src s = none ∨ (k.kind ≠ 1 ∧ k.kind ≠ 3) → t.mem = s.mem) ∧
        (Memory.wf s.mem = true → s.ecc = [] → MemOutside k.addr.toNat early s t)) ∧
      (pktOpened k s ≠ none → entState (entryOf k.src s) = 0 ∨ k.kind = 0 ∨ 5 < k.kind.toNat →
        Goes (.packetRx p k early) s fun t =>
          fget (fabB p.val) eFAB_EVENT_UNKNOWN_SRC.bit t = 1 ∧ PktFreed p.val k s t ∧ t.mem = s.mem ∧ t.cores = s.cores))) ∧
  (∀ (p : Fin 32) (k c : Packet) (early q : Nat) (y : Port) (s : State), PktIn p.val k c s → anyPort s = some q →
    s.fab.ports[q]? = some y →
    let a := k.addr.toNat
    let o := k.notify.toNat
    let n := c.data.length
    let tag : InstrTag := ⟨k.core, k.seqno⟩
    let Acked := fun (t : State) => ItemOn q (.ack k.src [(tag, 1)]) t ∧ PktFreed p.val k s t ∧ t.cores = s.cores
    let Naked := fun (st : BitVec 8) (t : State) =>
      ItemOn q (.nak k.src tag st 0) t ∧ PktFreed p.val k s t ∧ t.mem = s.mem ∧ t.cores = s.cores
    let Refused := fun (st : BitVec 8) (t : State) => Naked st t ∧ fget (fabB p.val) eFAB_EVENT_UNKNOWN_SRC.bit t = 1
    (k.kind = 1 →
      (pktRange c a n s = stOK → shelfRefuses (pkgOfEid (pktPart a s) k.src s) k.core.val a n s = false →
        Memory.wf s.mem = true → s.ecc = [] → Goes (.packetRx p k early) s fun t =>
          Acked t ∧ (∀ j < n, memGet (a + j) t = c.data.getD j 0) ∧ MemOutside a n s t) ∧
      (pktRange c a n s = stOK → shelfRefuses (pkgOfEid (pktPart a s) k.src s) k.core.val a n s = true →
        Goes (.packetRx p k early) s (Naked stDENIED)) ∧
      (pktRange c a n s ≠ stOK → Goes (.packetRx p k early) s (Refused (pktRange c a n s)))) ∧
    (k.kind = 2 → ∀ i ∈ [Instr.packetRx p k early, .getReq p k],
      let m := k.kspec.toNat % 2 ^ 32
      (pktRange c a m s ≠ stOK → Goes i s (Refused (pktRange c a m s))) ∧
      (∀ r0 l z e es b bs x, pktRange c a m s = stOK → 0 < m → m ≤ 8128 → s.ecc = [] →
        spreadRound k.core.val (entryOf k.src s) s = r0 :: l → s.fab.ports[r0]? = some z → z.egress = e :: es →
        z.backlog = b :: bs → getSession k.src s = some x →
        let resp := sealPkt x.keyTx (mkPkt 3 k.src (entTier2 (entryOf k.src s)) o tag 0 0 (memBytes a m s) x 0 s)
        Goes i s fun t => PktFreed p.val k s t ∧ t.mem = s.mem ∧ t.cores = s.cores ∧
          (getPort r0 t).egress.getD 0 [] ++ (getPort r0 t).backlog.getD 0 [] = e ++ b ++ pktCells resp)) ∧
    (k.kind = 5 → ∀ i ∈ [Instr.packetRx p k early, .notifyAdd p k],
      (syncPlaceOk o = false → Goes i s (Refused stDENIED)) ∧
      (syncPlaceOk o = true → pktRange c o 16 s ≠ stOK → Goes i s (Refused (pktRange c o 16 s))) ∧
      (syncPlaceOk o = true → pktRange c o 16 s = stOK → Memory.wf s.mem = true → s.ecc = [] → Goes i s fun t =>
        Acked t ∧ memW o t = memW o s + 1 ∧ MemOutside o 4 s t))) ∧
  (∀ (p : Fin 32) (k c : Packet) (r : RemoteInstr) (d m q : Nat) (y : Port) (x : EngInstr) (s : State),
    PktIn p.val k c s → k.kind = 3 →
    let tag : InstrTag := ⟨k.core, k.seqno⟩
    let a := k.addr.toNat
    let n := c.data.length
    let mine := headOf k.core.val 3 s = some x ∧ x.seqno = k.seqno ∧ x.done = none
    (staleTag tag s = true → Goes (.getResp p k) s fun t =>
      fget (coreB k.core.val) fCORE_RESET_GEN_STALE_CNT t =
        Nat.min (fget (coreB k.core.val) fCORE_RESET_GEN_STALE_CNT s + 1)
          (2 ^ (fCORE_RESET_GEN_STALE_CNT.hi + 1 - fCORE_RESET_GEN_STALE_CNT.lo) - 1) ∧
      t.mem = s.mem ∧ t.cores = s.cores ∧ t.fab.remote = s.fab.remote) ∧
    (staleTag tag s = false → findRemote tag s = some r → r.kind = .get d m → r.nak = none →
      (pktRange c a n s ≠ stOK → anyPort s = some q → s.fab.ports[q]? = some y → Goes (.getResp p k) s fun t =>
        ItemOn q (.nak k.src tag (pktRange c a n s) 0) t ∧ t.mem = s.mem ∧ t.cores = s.cores ∧
        t.fab.remote = s.fab.remote) ∧
      (pktRange c a n s = stOK → ownWriteRefused k.core.val a n s = true → mine → Goes (.getResp p k) s fun t =>
        RemoteEnds tag x stDENIED s t ∧ t.mem = s.mem) ∧
      (pktRange c a n s = stOK → ownWriteRefused k.core.val a n s = false → Memory.wf s.mem = true → s.ecc = [] →
        (m ≤ n → mine) → Goes (.getResp p k) s fun t =>
          (∀ j < n, memGet (a + j) t = c.data.getD j 0) ∧ MemOutside a n s t ∧
          (n < m → findRemote tag t = some { r with kind := .get d (m - n), left := 0 } ∧ t.cores = s.cores) ∧
          (m ≤ n → RemoteEnds tag x stOK s t)))) ∧
  (∀ (tag : InstrTag) (n : Nat) (code : BitVec 8) (detail : BitVec 32) (r : RemoteInstr) (x : EngInstr) (s : State),
    let st := nakStatus code
    (isSafe s = true → Goes (.ack [(tag, n)]) s (fun t => t = s) ∧ Goes (.nak tag code detail) s fun t => t = s) ∧
    (isSafe s = false → staleTag tag s = true → ∀ i ∈ [Instr.ack [(tag, n)], .nak tag code detail], Goes i s fun t =>
      fget (coreB tag.core.val) fCORE_RESET_GEN_STALE_CNT t =
        Nat.min (fget (coreB tag.core.val) fCORE_RESET_GEN_STALE_CNT s + 1)
          (2 ^ (fCORE_RESET_GEN_STALE_CNT.hi + 1 - fCORE_RESET_GEN_STALE_CNT.lo) - 1) ∧
      RegsKept [coreB tag.core.val + oCORE_RESET_GEN] s t ∧ t = { s with regs := t.regs }) ∧
    (isSafe s = false → staleTag tag s = false → findRemote tag s = none →
      ∀ i ∈ [Instr.ack [(tag, n)], .nak tag code detail], Goes i s fun t => t = s) ∧
    (isSafe s = false → staleTag tag s = false → findRemote tag s = some r → r.kind = .put →
      headOf tag.core.val 3 s = some x → x.seqno = tag.seqno → x.done = none →
      (n < r.left → Goes (.ack [(tag, n)]) s fun t => findRemote tag t = some { r with left := r.left - n } ∧
        t = { s with fab := { s.fab with remote := t.fab.remote } }) ∧
      (r.left ≤ n → ((∃ y, r.nak = some y ∧ y.1 ≠ stOK) ∨ r.notify = 0) → Goes (.ack [(tag, n)]) s
        (RemoteEnds tag x ((r.nak.map Prod.fst).getD stOK) s)) ∧
      (r.left ≤ n → r.nak = none → r.notify ≠ 0 → Goes (.ack [(tag, n)]) s fun t =>
        findRemote tag t = some { r with kind := .notify, left := 1, tLast := s.clk.now } ∧ t.cores = s.cores ∧ t.mem = s.mem) ∧
      (1 < r.left → Goes (.nak tag code detail) s fun t =>
        findRemote tag t = some { r with left := r.left - 1, nak := some (r.nak.getD (st, detail)) } ∧
        t = { s with fab := { s.fab with remote := t.fab.remote } }) ∧
      (r.left ≤ 1 → st ≠ stOK → r.nak = none → Goes (.nak tag code detail) s (RemoteEnds tag x st s)) ∧
      (elapsed r.tLast ticksMs s = true → stillQueued tag s = false → Goes (.remoteInstrTimeout tag) s
        (RemoteEnds tag x stTIMEOUT s))) ∧
    (findRemote tag s = none ∨ isSafe s = true ∨ stillQueued tag s = true ∨
        (findRemote tag s = some r ∧ elapsed r.tLast ticksMs s = false) →
      Goes (.remoteInstrTimeout tag) s fun t => t = s))

/-- R237, R238: entries; R245, R246: drains; R247 to R250, R429: sessions. -/
def Obligations.DrainsAndSessions : Prop :=
  (∀ (eid : BitVec 19) (w : BitVec 64) (s : State), mgmtPlane s = 2 → Goes (.entrySet eid w) s (FabWaits (.entry eid w) s)) ∧
  (∀ (eid : BitVec 19) (w : BitVec 64) (s : State), mgmtPlane s = 1 → GzQuiet s →
    (entryStatus eid w s ≠ stOK → Goes (.entrySet eid w) s fun t => t = s) ∧
    (entryStatus eid w s = stOK → Goes (.entrySet eid w) s fun t => entryOf eid t = w ∧
      (∀ e, e ≠ eid → entryOf e t = entryOf e s) ∧ t.mem = s.mem ∧ t.cores = s.cores ∧ t.nv = s.nv) ∧
    (entryStatus eid w s = stOK → entState w = 0 → (∃ d ∈ s.fab.drains, d.eid = eid) → Goes (.entrySet eid w) s fun t =>
      .drainDone eid stFENCED ∈ t.out ∧ ∀ d ∈ t.fab.drains, d.eid ≠ eid) ∧
    (entryStatus eid w s = stOK → entState w ≠ 0 → getSession eid s = none → findShake eid s = none → sessFull s = false →
      Goes (.entrySet eid w) s fun t => ∃ h, findShake eid t = some h ∧ h.initiator = true)) ∧
  (∀ (eid : BitVec 19) (s : State), mgmtPlane s = 1 → GzQuiet s →
    let l := (drainProbes (tget (fun _ => 0) s.fab.was eid.toNat) s).zipIdx
    (entState (entryOf eid s) ≠ 2 ∨ (∃ d ∈ s.fab.drains, d.eid = eid) → Goes (.drainReq eid) s fun t => t = s) ∧
    (entState (entryOf eid s) = 2 → (∀ d ∈ s.fab.drains, d.eid ≠ eid) → holdsSnap eid s = true → Goes (.drainReq eid) s fun t =>
      t = { s with fab := { s.fab with drains := s.fab.drains ++ [⟨eid, s.clk.now, [], false⟩] } }) ∧
    (entState (entryOf eid s) = 2 → (∀ d ∈ s.fab.drains, d.eid ≠ eid) → holdsSnap eid s = false →
      (l = [] → Goes (.drainReq eid) s fun t => .drainDone eid stOK ∈ t.out ∧ (∀ d ∈ t.fab.drains, d.eid ≠ eid) ∧
        eid ∈ t.fab.drained) ∧
      (l ≠ [] → Goes (.drainReq eid) s fun t =>
        t.fab.drains = s.fab.drains ++
          [⟨eid, s.clk.now, l.map fun x => (s.fab.probeNo + BitVec.ofNat 32 x.2, x.1.1), true⟩] ∧
        t.fab.probeNo = s.fab.probeNo + BitVec.ofNat 32 l.length ∧
        (∀ x ∈ l, ∀ y, s.fab.ports[x.1.1]? = some y → x.1.2 < y.egress.length → x.1.2 < y.backlog.length →
          .probe eid (s.fab.probeNo + BitVec.ofNat 32 x.2) ∈
            (getPort x.1.1 t).egress.getD x.1.2 [] ++ (getPort x.1.1 t).backlog.getD x.1.2 []) ∧
        t = { s with handoffs := t.handoffs, fab := { s.fab with
          drains := t.fab.drains, probeNo := t.fab.probeNo, ports := t.fab.ports } }))) ∧
  (∀ (p : Fin 32) (vl : Fin 8) (src : BitVec 19) (n : BitVec 32) (q : Nat) (s : State),
    let ahead := pairCells (getPort p.val s) vl.val
    (portUp p.val s = true → isSafe s = false → ahead = 0 → anyPort s = some q → Goes (.drainProbe p vl src n) s
      (ItemQueued q (.drainEcho src n) s)) ∧
    (portUp p.val s = true → isSafe s = false → ahead ≠ 0 → Goes (.drainProbe p vl src n) s fun t =>
      t = { s with fab := { s.fab with
        ports := modAt p.val (fun x => { x with probes := x.probes ++ [(vl.val, ahead, src, n)] }) s.fab.ports } }) ∧
    (portUp p.val s = false ∨ isSafe s = true → Goes (.drainProbe p vl src n) s fun t => t = s)) ∧
  (∀ (eid : BitVec 19) (n : BitVec 32) (d : Drain) (s : State), GzQuiet s → sumpIdle s = true →
    (s.fab.drains.find? fun d => d.eid == eid) = some d →
    let l := d.probes.filter fun q => q.1 != n
    let Over := fun (st : BitVec 8) (t : State) => t.out = s.out ++ [.drainDone eid st] ∧
      (∀ d ∈ t.fab.drains, d.eid ≠ eid) ∧ (st = stOK → eid ∈ t.fab.drained) ∧
      (tget (fun _ => (0, 0)) t.gzl.drains eid.toNat).1 =
        (if st = stOK then 0 else (tget (fun _ => (0, 0)) s.gzl.drains eid.toNat).1 + 1) ∧
      t = { s with
        fab := { s.fab with drains := t.fab.drains, drained := t.fab.drained }
        gzl := { s.gzl with drains := t.gzl.drains }
        out := t.out }
    (d.sent = false ∨ isSafe s = true → Goes (.drainEcho eid n) s fun t => t = s) ∧
    (d.sent = true → isSafe s = false → l = [] → Goes (.drainEcho eid n) s (Over stOK)) ∧
    (d.sent = true → isSafe s = false → l ≠ [] → Goes (.drainEcho eid n) s fun t =>
      (t.fab.drains.find? fun d => d.eid == eid) = some { d with probes := l } ∧
      t = { s with fab := { s.fab with drains := t.fab.drains } }) ∧
    (elapsed d.t0 (10 * ticksMs) s = true → Goes (.drainTimeout eid) s (Over stTIMEOUT)) ∧
    (elapsed d.t0 (10 * ticksMs) s = false → Goes (.drainTimeout eid) s fun t => t = s)) ∧
  (∀ (m : SessMsg) (s : State),
    let mine := ∃ h, findShake m.src s = some h ∧ h.initiator = true ∧ (ownEid s).toNat < m.src.toNat
    let full := sessFull s = true ∧ getSession m.src s = none
    (mgmtPlane s = 2 → isSafe s = false → m.dst = ownEid s → Goes (.sessInit m) s (FabWaits (.init m) s)) ∧
    (m.dst ≠ ownEid s ∨ isSafe s = true ∨ (mgmtPlane s ≠ 2 ∧ mine) → Goes (.sessInit m) s fun t => t = s) ∧
    (mgmtPlane s ≠ 2 → isSafe s = false → m.dst = ownEid s → ¬mine → Goes (.sessInit m) s fun t =>
      (peerAccepted m [] s = false → findShake m.src t = none ∧ fget (fabB 0) eFAB_SESS_EVENT_PEER_REJECTED.bit t = 1) ∧
      (peerAccepted m [] s = true → full → fget (fabB 0) eFAB_SESS_EVENT_HANDSHAKE_FAIL.bit t = 1) ∧
      (peerAccepted m [] s = true → ¬full → ∃ h, findShake m.src t = some h ∧ h.initiator = false ∧ h.peer = some m ∧
        (running (dropShake m.src s) < 16 → h.sent = s.clk.now ∧ h.attempts = 1) ∧
        (16 ≤ running (dropShake m.src s) → h.attempts = 0)) ∧
      t.fab.sessions = s.fab.sessions ∧ t.mem = s.mem ∧ t.cores = s.cores) ∧
    (∀ h, findShake m.src s = some h → mgmtPlane s = 2 → isSafe s = false → m.dst = ownEid s → h.initiator = true →
      Goes (.sessResp m) s (FabWaits (.resp m) s)) ∧
    (∀ h, findShake m.src s = some h → mgmtPlane s ≠ 2 → isSafe s = false → m.dst = ownEid s → h.initiator = true →
      Goes (.sessResp m) s fun t => findShake m.src t = none ∧ t.mem = s.mem ∧ t.cores = s.cores ∧
        (peerAccepted m (ownMsg h [] s) s = false → t.fab.sessions = s.fab.sessions ∧
          fget (fabB 0) eFAB_SESS_EVENT_PEER_REJECTED.bit t = 1) ∧
        (peerAccepted m (ownMsg h [] s) s = true → full → t.fab.sessions = s.fab.sessions ∧
          fget (fabB 0) eFAB_SESS_EVENT_HANDSHAKE_FAIL.bit t = 1) ∧
        (peerAccepted m (ownMsg h [] s) s = true → ¬full → ∃ y, getSession m.src t = some y ∧ y.keyTx = (sessKeys h m).1 ∧
          y.keyRx = (sessKeys h m).2 ∧ y.ivCtr = 0 ∧ y.tKey = s.clk.now ∧ y.ident = identOf m ∧ y.sealMask = m.sealMask ∧
          ∀ o, getSession h.eid s = some o → y.idxTx = !o.idxTx ∧ y.oldRx = o.keyRx)) ∧
    (findShake m.src s = none ∨ isSafe s = true ∨ m.dst ≠ ownEid s → Goes (.sessResp m) s fun t => t = s)) ∧
  (∀ (src : BitVec 19) (mac : List (BitVec 8)) (h : Handshake) (m : SessMsg) (s : State), findShake src s = some h →
    h.peer = some m →
    (isSafe s = true ∨ h.initiator = true → Goes (.sessDone src mac) s fun t => t = s) ∧
    (isSafe s = false → mgmtPlane s = 2 → h.initiator = false → Goes (.sessDone src mac) s (FabWaits (.done src mac) s))) ∧
  (∀ (src : BitVec 19) (mac : List (BitVec 8)) (h : Handshake) (m : SessMsg) (s : State), findShake src s = some h →
    h.peer = some m → isSafe s = false → mgmtPlane s ≠ 2 → h.initiator = false →
    let full := sessFull s = true ∧ getSession src s = none
    let before := sessBytes m ++ m.sig
    let right := mac = Config.hmac384 (shakeSecret h.eph m.ephPub) (before ++ ownMsg h before s)
    Goes (.sessDone src mac) s fun t => findShake src t = none ∧ t.mem = s.mem ∧ t.cores = s.cores ∧
      (full → t.fab.sessions = s.fab.sessions ∧ fget (fabB 0) eFAB_SESS_EVENT_HANDSHAKE_FAIL.bit t = 1) ∧
      (¬full → right → ∃ y, getSession src t = some y ∧ y.keyTx = (sessKeys h m).1 ∧ y.keyRx = (sessKeys h m).2 ∧
        y.tKey = s.clk.now ∧ y.ident = identOf m ∧
        (∀ o, getSession src s = some o →
          (rekeyDue o s = true → y.idxTx = !o.idxTx ∧ y.oldRx = o.keyRx ∧ y.oldEnd = some (s.clk.now + 10 * ticksMs)) ∧
          (rekeyDue o s = false → y.idxTx = false ∧ y.oldRx = [] ∧ y.oldEnd = none)) ∧
        (getSession src s = none → y.idxTx = false ∧ y.oldEnd = none)) ∧
      (¬right → t.fab.sessions = s.fab.sessions ∧ fget (fabB 0) eFAB_SESS_EVENT_HANDSHAKE_FAIL.bit t = 1)) ∧
  (∀ (eid : BitVec 19) (h : Handshake) (s : State), findShake eid s = some h →
    (mgmtPlane s = 2 ∨ isSafe s = true → Goes (.handshakeRetry eid) s fun t => t = s) ∧
    (mgmtPlane s ≠ 2 → isSafe s = false → h.attempts = 0 → running s < 16 → Goes (.handshakeRetry eid) s fun t =>
      findShake eid t = some { h with sent := s.clk.now, attempts := 1 } ∧ t = { s with fab := t.fab })) ∧
  (∀ (eid : BitVec 19) (h : Handshake) (s : State), findShake eid s = some h → mgmtPlane s ≠ 2 → isSafe s = false →
    0 < h.attempts →
    (elapsed h.sent (10 * ticksMs) s = false → Goes (.handshakeRetry eid) s fun t => t = s) ∧
    (elapsed h.sent (10 * ticksMs) s = true → h.attempts < 3 → Goes (.handshakeRetry eid) s fun t =>
      findShake eid t = some { h with sent := s.clk.now, attempts := h.attempts + 1 } ∧ t = { s with fab := t.fab }) ∧
    (elapsed h.sent (10 * ticksMs) s = true → 3 ≤ h.attempts → Goes (.handshakeRetry eid) s fun t =>
      findShake eid t = none ∧ fget (fabB 0) eFAB_SESS_EVENT_HANDSHAKE_FAIL.bit t = 1)) ∧
  ∀ (eid : BitVec 19) (x : Session) (s : State), getSession eid s = some x →
    let due := 2 ^ 40 ≤ x.ivCtr.toNat ∨ elapsed x.tKey (86400 * ticksS) s = true
    (¬due ∨ isSafe s = true → Goes (.rekey eid) s fun t => t = s) ∧
    (due → isSafe s = false → findShake eid s = none → Goes (.rekey eid) s fun t =>
      ∃ h, findShake eid t = some h ∧ h.initiator = true ∧ h.eid = eid) ∧
    (∀ e, x.oldEnd = some e → e ≤ s.clk.now → Goes (.oldKeyErase eid) s fun t =>
      getSession eid t = some { x with oldEnd := none, oldRx := [] } ∧
      (∀ y, y ≠ eid → getSession y t = getSession y s) ∧
      t = { s with fab := { s.fab with sessions := t.fab.sessions } }) ∧
    (x.oldEnd = none ∨ (∃ e, x.oldEnd = some e ∧ s.clk.now < e) → Goes (.oldKeyErase eid) s fun t => t = s)

/-! Chambers (R257 to R292). -/

/-- R262, R263, R285, R292: the commands of COL_CCTL. -/
def Obligations.ChamberControl : Prop :=
  (∀ (r : Requester) (id : BitVec 12) (s : State),
    let n := id.toNat
    let x := getCh n s
    let d := memBytes (cargAddr s) 64 s
    let p := actPart ⟨1, r, n⟩ s
    let st := actStatus d n p s
    let q := getQueue (chComm x) s
    let Free := colReach r s = true ∧ fget colB fCOL_CCTL_BUSY s = 0
    let Mine := ∃ p, partOfCh s.cab.cur n = some p ∧ (isPf0 r = true ∨ reqPart r s = some p)
    let Kept := fun (t : State) => t.col.chs = s.col.chs ∧ RegsKept [colB + oCOL_CCTL, colB + oCOL_RESULT] s t ∧
      t = { s with regs := t.regs, col := t.col }
    let Read := fun (l : List Nat) (t : State) => RegsKept (l ++ granRegs) s t ∧
      t = { s with regs := t.regs, col := t.col, perf := t.perf, chans := t.chans }
    let Waits := fun (c : Nat) (t : State) => t.col = { s.col with wait := some ⟨c, r, n⟩ } ∧
      fget colB fCOL_CCTL_BUSY t = 1 ∧
      RegsKept [colB + oCOL_CCTL] s t ∧ t = { s with regs := t.regs, col := t.col }
    (colReach r s = false ∨ fget colB fCOL_CCTL_BUSY s = 1 → ∀ i ∈ [Instr.activate r id, .retire r id], Goes i s fun t =>
      t.col = s.col ∧ regGet (colB + oCOL_CCTL) t = regGet (colB + oCOL_CCTL) s ∧ t.mem = s.mem ∧ t.cores = s.cores) ∧
    (Free → mgmtPlane s = 2 → Goes (.activate r id) s (Waits 1) ∧ Goes (.retire r id) s (Waits 2)) ∧
    (mgmtPlane s ≠ 2 →
      (∀ i, (i = .activate r id ∧ Free) ∨
          (i = .activateWaitEnd id ∧ s.col.wait = some ⟨1, r, n⟩ ∧ fget colB fCOL_CCTL_BUSY s = 1) →
        (actWaitOver n s = false → Goes i s (Waits 1)) ∧
        (actWaitOver n s = true → isSafe s = false → s.ecc = [] → st ≠ stOK → Goes i s fun t => ColShows 1 n st t ∧
          t.col.chs = s.col.chs ∧ Read [colB + oCOL_CCTL, colB + oCOL_RESULT] t) ∧
        (actWaitOver n s = true → isSafe s = false → s.ecc = [] → st = stOK → Goes i s fun t =>
          ColShows 1 n stOK t ∧ OtherChs n s t ∧
          getCh n t = { Chamber.off with
            st := 1, desc := d, part := p, rank := radix d (ownCoords p s) (axes d), inactiveAt := x.inactiveAt } ∧
          fget colB fCOL_ACTIVE_CHAMBERS t = (liveChs t).length % 2 ^ 13 ∧
          Read [colB + oCOL_CCTL, colB + oCOL_RESULT, colB + oCOL_ACTIVE] t)) ∧
      (Free → ¬Mine → Goes (.retire r id) s fun t => ColShows 2 n stDENIED t ∧ Kept t) ∧
      (Free → Mine → (x.st = 0 ∨ x.st = 5 → Goes (.retire r id) s fun t => ColShows 2 n stOK t ∧ Kept t) ∧
        (lastReady n s = true → chRuns x = true → Goes (.retire r id) s fun t =>
          ColShows 2 n stOK t ∧ OtherChs n s t ∧ (getCh n t).st = 5 ∧ (getCh n t).req = none) ∧
        (x.st ≠ 0 → x.st ≠ 5 → (lastReady n s && chRuns x) = false → Goes (.retire r id) s fun t =>
          ColShows 2 n stOK t ∧ OtherChs n s t ∧ t.mem = s.mem ∧
          ((∀ v, x.req = some v → v.going = true) → getCh n t = { x with st := 5 }) ∧
          (∀ v, x.req = some v → v.going = false → getCh n t = { x with st := 5, req := none, last := v.step } ∧
            ReqEnds n stSTALE (failDetail v.step x.rank) s t) ∧
          (q.kind = 3 →
            (getQueue (chComm x) t).ci = (if q.st = .active ∨ q.st = .draining then q.pi else q.ci) ∧
            (∀ c ∈ (getQueue (chComm x) t).cmds, c.phase ≠ .dispatched) ∧
            ∀ c ∈ q.cmds, c.phase = .dispatched →
              { c with phase := .ended stSTALE (BitVec.ofNat 32 (x.rank % 1024)) } ∈ (getQueue (chComm x) t).cmds))))) ∧
  (∀ (id : BitVec 12) (s : State),
    let x := getCh id.toNat s
    let answered := x.st = 5 ∧ chWaits id.toNat s = false ∧ isSafe s = false
    ((∀ w, s.col.wait = some w → w.id ≠ id.toNat ∨ w.cmd ≠ 1) → Goes (.activateWaitEnd id) s fun t => t = s) ∧
    (answered → x.req = none → Goes (.chamberRetired id) s fun t => OtherChs id.toNat s t ∧
      getCh id.toNat t = { x with
        st := 0, req := none, rx := [], spent := [], inactiveAt := some s.clk.now } ∧
      RegsKept [colB + oCOL_ACTIVE] s t ∧ t = { s with regs := t.regs, col := t.col }) ∧
    (answered → ∀ v, x.req = some v → v.going = true → chStuck id.toNat v s = false →
      Goes (.chamberRetired id) s fun t => t = s) ∧
    (answered → ∀ v, x.req = some v → (v.going = false ∨ chStuck id.toNat v s = true) → Goes (.chamberRetired id) s fun t => OtherChs id.toNat s t ∧ t.mem = s.mem ∧
      getCh id.toNat t = { x with req := none, last := v.step } ∧
      ReqEnds id.toNat stSTALE (failDetail v.step x.rank) s t) ∧
    (¬answered → Goes (.chamberRetired id) s fun t => t = s))

/-- R155, R266 to R271, R277 to R285: requests and steps. -/
def Obligations.ChamberSteps : Prop :=
  ∀ (id : BitVec 12) (s : State), Memory.wf s.mem = true → s.ecc = [] →
    let n := id.toNat
    let x := getCh n s
    let q := getQueue (chComm x) s
    let b := memBytes (ringAddr q q.ci) 64 s
    let fetches := x.st = 1 ∧ x.req = none ∧ q.st = .active ∧ q.kind = 3 ∧ q.pi ≠ q.ci ∧ ctrlPlane s = 1 ∧ isSafe s = false ∧
      memOpen (ringAddr q q.ci) 64 s = true
    let timed : Bool := rqTimed b && !inDrift s && decide (0 < paceAhead (rqT0 b) s.clk.p)
    let fresh : ChReq := ⟨b, q.ci, (s.clk.pCount : Int) + paceAhead (rqT0 b) s.clk.p, 0, false, 0, 0, [], [], 0, []⟩
    (¬fetches → Goes (.chamberRequestFetch id) s fun t => t = s) ∧
    (fetches → rqStatus x b s ≠ stOK → Goes (.chamberRequestFetch id) s fun t =>
      (getCh n t).st = 4 ∧ (getCh n t).req = none ∧ OtherChs n s t ∧ t.mem = s.mem ∧
      (∃ c ∈ (getQueue (chComm x) t).cmds, c.idx = q.ci ∧ c.bytes = b ∧
        c.phase = .ended (rqStatus x b s) (failDetail 0 x.rank)) ∧
      (getQueue (chComm x) t).st = .stalled ∧ fget colB fCOL_EVENT_STALL t = 1 ∧
      fget colB fCOL_LAST_STALL_STATUS t = (rqStatus x b s).toNat) ∧
    (fetches → rqStatus x b s = stOK → Goes (.chamberRequestFetch id) s fun t =>
      OtherChs n s t ∧ (∀ j, j ≠ chComm x → getQueue j t = getQueue j s) ∧
      getQueue (chComm x) t = { q with ci := q.ci + 1, cmds := q.cmds ++ [⟨q.ci, q.gen, b, .started⟩] } ∧
      getCh n t = { x with
        st := if timed then 2 else 3
        req := some fresh
        rx := x.rx.filter fun c =>
          c.cseq != x.cseq.setWidth 8 || (hasSlot n fresh c.step c.rank s && !rxSunk n fresh c s) } ∧
      (rqTimed b = true → timed = false → fget colB fCOL_EVENT_LATE t = 1) ∧
      ((∀ c ∈ x.rx, c.cseq ≠ x.cseq.setWidth 8) → t.mem = s.mem)) ∧
    (x.req = none ∨ isSafe s = true →
      ∀ i ∈ [Instr.chamberStepStart id, .chamberStepComplete id, .chamberDeadline id], Goes i s fun t => t = s) ∧
    ∀ r, x.req = some r → isSafe s = false →
      let pl := curPlan n r r.step s
      let due := dueNow r r.step s
      let free := homesFree n r s
      let last := stepCount s.cab.cur x r.bytes ≤ r.step + 1
      let final := last ∨ isReduce (curPlan n r (r.step + 1) s).op = false
      let begins := r.going = false ∧ free = true ∧
        ((x.st = 2 ∧ due = true) ∨ (x.st = 3 ∧ (rqTimed r.bytes = false ∨ due = true)))
      let late := (decide (x.st = 2) || rqTimed r.bytes) && startsLate n r s
      let shut := r.step = 0 ∧ homeRefused x (fun i => ownRanges x i r pl s) s = true
      let whole := stepReady n r s = true
      let nextLate := dueNow r (r.step + 1) s = true ∧ dueJust r (r.step + 1) s = false ∧
        r.step + 1 < stepCount s.cab.cur x r.bytes
      let sunk := isReduce pl.op = true ∧ final ∧ homeRefused x
        (fun _ => [(resultAt r.bytes pl, packedLen (rqOut r.bytes) (pl.own.2 - pl.own.1))]) s = true
      (begins → shut → Goes (.chamberStepStart id) s (ChStalled n stDENIED (failDetail r.step x.rank) x.rank s)) ∧
      (begins → ¬shut → Goes (.chamberStepStart id) s fun t => StepStarted n r late s t ∧
        (pl.sends = [] → (r.step = 0 → ∀ c ∈ homesOf x.desc, sxFree c s = true) →
          (getCh n t).req.map ChReq.unsent = some []) ∧
        (0 < r.step ∨ rqOp r.bytes = 1 ∨ rqOp r.bytes = 2 ∨ rqOp r.bytes = 6 → t.mem = s.mem) ∧
        (r.step = 0 → rqOp r.bytes = 3 ∨ rqOp r.bytes = 5 → dHomes x.desc = 1 →
          let a := coreStore (homeOf x.desc 0)
          let k := packedLen (rqIn r.bytes) pl.own.2 - packedLen (rqIn r.bytes) pl.own.1
          (∀ j < k, memGet (a + dstAt r.bytes pl.own.1 + j) t = memGet (a + rqSrc r.bytes + j) s) ∧
          MemOutside (a + dstAt r.bytes pl.own.1) k s t)) ∧
      (x.st = 2 → r.going = false → due = false → Goes (.chamberStepStart id) s fun t => t = s) ∧
      (x.st = 3 → r.going = false → rqTimed r.bytes = true → due = false → Goes (.chamberStepStart id) s fun t => t = s) ∧
      (x.st ≠ 2 → x.st ≠ 3 ∨ r.going = true → Goes (.chamberStepStart id) s fun t => t = s) ∧
      ((x.st = 2 ∧ r.going = false ∧ due = true ∧ free = false) ∨
        (x.st = 2 ∧ r.going = true ∧ nextLate) →
        Goes (.chamberStepStart id) s fun t => getCh n t = { x with st := 3 } ∧ OtherChs n s t ∧
          fget colB fCOL_EVENT_LATE t = 1 ∧ t.mem = s.mem ∧ t.cores = s.cores ∧ t.queues = s.queues) ∧
      (x.st = 2 → r.going = true → ¬nextLate → Goes (.chamberStepStart id) s fun t => t = s) ∧
      (x.st = 3 → r.going = false → free = false → Goes (.chamberStepStart id) s fun t =>
        t = { s with stool := t.stool }) ∧
      (r.going = false ∨ (r.unsent ≠ [] ∧ ∀ m ∈ r.unsent, mayLeave x r m s = false) ∨ (r.unsent = [] ∧ ¬whole) →
        Goes (.chamberStepComplete id) s fun t => t = s) ∧
      (whole →
        (sunk → Goes (.chamberStepComplete id) s (ChStalled n stDENIED (failDetail r.step x.rank) x.rank s)) ∧
        (¬sunk → Goes (.chamberStepComplete id) s fun t =>
          OtherChs n s t ∧ (isReduce pl.op = false ∨ ¬final → t.mem = s.mem) ∧
          (isReduce pl.op = true → final → dHomes x.desc = 1 →
            let v := (if pl.op = .ringReduce then ringOn n 0 r pl s else reduceOn n 0 r pl s).1
            let l := packElems (rqOut r.bytes) (v.map fun z => (encVal (rqOut r.bytes) (rqRnd r.bytes) (rqSat r.bytes) z).1)
            let a := coreStore (homeOf x.desc 0) + resultAt r.bytes pl
            (∀ j < l.length, memGet (a + j) t = l.getD j 0) ∧ MemOutside a l.length s t) ∧
          (x.st = 5 → getCh n t = { x with req := none, last := r.step } ∧
            ReqEnds n stSTALE (failDetail r.step x.rank) s t) ∧
          (x.st ≠ 5 → ¬last →
            let late := x.st = 2 ∧ dueNow r (r.step + 1) s = true ∧ dueJust r (r.step + 1) s = false
            (∃ v, getCh n t = { x with
              st := if late then 3 else x.st
              req := some { r with step := r.step + 1, going := false, vals := v } }) ∧
            (late → fget colB fCOL_EVENT_LATE t = 1) ∧ t.queues = s.queues) ∧
          (x.st ≠ 5 → last → (getCh n t).st = 1 ∧ (getCh n t).req = none ∧ (getCh n t).cseq = x.cseq + 1 ∧
            (getCh n t).last = r.step ∧ (getCh n t).spent = x.spent ∧
            let d := Nat.min ((List.range 1024).filter (bitOf r.drops)).length 0x7FF
            ReqEnds n (if d = 0 then stOK else stOVERFLOW)
              (BitVec.ofNat 32 (Nat.min r.late 0x7FF * 2 ^ 21 + d / 32 * 2 ^ 10 + d % 32 * 2 ^ 16)) s t))) ∧
      (∀ d, deadlineOf r s = some d → d ≤ (s.clk.pCount : Int) → justReached d s = false → ¬whole → x.st = 2 ∨ x.st = 3 →
        Goes (.chamberDeadline id) s (ChStalled n stSTALLED (failDetail r.step x.rank) x.rank s)) ∧
      (deadlineOf r s = none ∨ (∃ d, deadlineOf r s = some d ∧ ((s.clk.pCount : Int) < d ∨ justReached d s = true)) ∨ whole ∨
          (x.st ≠ 2 ∧ x.st ≠ 3) →
        Goes (.chamberDeadline id) s fun t => t = s)

/-- R155, R274 to R279, R285: chamber packets. -/
def Obligations.ChamberMessages : Prop :=
  ∀ (p : Fin 32) (k c : Packet) (early q : Nat) (y : Port) (s : State), PktIn p.val k c s → anyPort s = some q →
    s.fab.ports[q]? = some y → k.kind = 4 → Memory.wf s.mem = true → s.ecc = [] →
    let id := kId k
    let x := getCh id s
    let st := chPktStatus c s
    let m := c.data.length
    let a := k.addr.toNat
    let tag : InstrTag := ⟨k.core, k.seqno⟩
    let ahead := (kSeq k - x.cseq.setWidth 8).toNat
    let other := x.st = 0 ∨ x.st = 5 ∨ kCgen k ≠ dCgen x.desc
    let old := 1 < ahead ∧ ¬(kStep k = 0x7FE ∧ ahead = 0xFF) ∧ ¬(kStep k = 0x7FF ∧ 0xFE ≤ ahead)
    let Naked := fun (st : BitVec 8) (detail : Word) (t : State) => ItemOn q (.nak k.src tag st detail) t
    let Acked := fun (t : State) => ItemOn q (.ack k.src [(tag, 1)]) t
    let Same := fun (t : State) => t.col = s.col ∧ t.mem = s.mem ∧ t.cores = s.cores ∧ t.queues = s.queues
    let own := if kStep k = 0x7FE then Instr.stallNotice p k else if kStep k = 0x7FF then .doneToken p k
      else .chamberChunkRx p k
    ∀ i ∈ [Instr.packetRx p k early, own],
      (st ≠ stOK → Goes i s fun t => Naked st 0 t ∧ fget (fabB p.val) fFAB_EVENT_UNKNOWN_SRC t = 1 ∧ Same t ∧
        PktFreed p.val k s t) ∧
      (st = stOK → other → Goes i s fun t =>
        (kStep k < 0x7FE → Naked stROLE (BitVec.ofNat 32 (if x.st = 0 then 0 else dCgen x.desc * 2 ^ 16 + x.rank)) t) ∧
        fget colB fCOL_EVENT_ROLE_MOVED t = 1 ∧ Same t ∧ PktFreed p.val k s t) ∧
      (st = stOK → ¬other → old → Goes i s fun t =>
        fget colB fCOL_EVENT_STALE_MSG t = 1 ∧ Same t ∧ PktFreed p.val k s t) ∧
      (st = stOK → ¬other → ¬old → kStep k < 0x7FE →
        let noSlot := (∃ r, x.req = some r ∧ ahead = 0 ∧ hasSlot id r (kStep k) (kRank k) s = false) ∨ kRank k = x.rank ∨
          memberCount x.desc ≤ kRank k
        let o := rxOf x k
        let got := o.got + m
        let data := tput a m (sparse 0 c.data) o.data
        let total := if kLast k then some (a + m) else o.total
        let whole := total = some got
        let right := crc32c ((List.range got).map (tget (fun _ => 0) data)) = o.crc
        let rec' : ChRx := { o with got := got, data := data, total := total, arrived := decide (whole ∧ right) }
        (noSlot ∨ dCap x.desc < a + m → Goes i s fun t => Naked stLENGTH 0 t ∧ Same t) ∧
        (¬noSlot → a + m ≤ dCap x.desc → chunkSunk id c s = true → Goes i s fun t => Naked stDENIED 0 t ∧ Same t) ∧
        (¬noSlot → a + m ≤ dCap x.desc → chunkSunk id c s = false →
          (¬(whole ∧ ¬right) → Goes i s fun t => Acked t ∧ OtherChs id s t ∧ t.cores = s.cores ∧ t.queues = s.queues ∧
            getCh id t = { x with rx := putRx x.rx rec' } ∧
            (x.req = none ∨ ahead ≠ 0 → t.mem = s.mem) ∧
            (∀ r, x.req = some r → ahead = 0 →
              let pl := curPlan id r (kStep k) s
              let w := coreStore (homeOf x.desc o.home) + landAt id r pl rec' s + a
              pl.op ≠ .segments → (∀ j < m, memGet (w + j) t = c.data.getD j 0) ∧ MemOutside w m s t)) ∧
          (whole → ¬right → Goes i s fun t => Naked stCHECK 0 t ∧ fget colB fCOL_EVENT_CRC t = 1 ∧ OtherChs id s t ∧
            (∀ r, x.req = some r → chRuns x = true →
              (getCh id t).st = 4 ∧ (getCh id t).req = none ∧ fget colB fCOL_LAST_STALL_STATUS t = stCHECK.toNat ∧
              ReqEnds id stCHECK (failDetail r.step x.rank) s t) ∧
            (x.req = none ∨ ahead ≠ 0 → t.mem = s.mem) ∧
            (x.req = none ∨ chRuns x = false → (getCh id t).st = x.st ∧ (getCh id t).req = x.req)))) ∧
      (st = stOK → ¬other → ¬old → kStep k = 0x7FE →
        (chRuns x = true → lastReady id s = true → Goes i s fun t => Acked t ∧ OtherChs id s t ∧
          (getCh id t).req = none ∧ ((getCh id t).st = 1 ∨ (getCh id t).st = 4)) ∧
        (chRuns x = true → lastReady id s = false → Goes i s fun t => Acked t ∧
          ChStalled id stSTALLED (failDetail (chStep x) (kRank k)) (kRank k) s t) ∧
        (chRuns x = false → Goes i s fun t => Acked t ∧ Same t)) ∧
      (st = stOK → ¬other → ¬old → kStep k = 0x7FF → (∀ r, x.req = some r → r.going = false ∨ r.unsent = []) →
        Goes i s fun t =>
        Acked t ∧ OtherChs id s t ∧ t.mem = s.mem ∧ t.cores = s.cores ∧ t.queues = s.queues ∧
        getCh id t = { x with spent := x.spent.filter fun v => v != 2 * kRank k + (kSeq k).toNat % 2 })

/-! Gorzel (R293 to R320). -/

/-- R300 to R305, R307, R308, R311 to R314: the package's side. -/
def Obligations.GorzelPackage : Prop :=
  (∀ (w : GzlWrite) (epoch : BitVec 32) (holder : BitVec 19) (rep : GzlReport) (seq : BitVec 32) (r : GzlReplyIn)
      (s : State),
    let ep := regGet (gzlB + oGZL_EPOCH) s
    let formed := w.reserved0 = true ∧ 1 ≤ w.ops.length ∧ w.ops.length ≤ 64 ∧ ∀ o ∈ w.ops, gzOpOk o = true
    let u := regSet (gzlB + oGZL_WSEQ) w.seq s
    let own := rep.eid = ownEid s
    let arrivals := [(Instr.gorzelWriteCheck w, GzlIn.write w), (.claim epoch holder, .claim epoch holder),
      (.notLeaderReply seq holder, .notLeader seq holder)] ++ if own then [] else [(Instr.report rep, GzlIn.report rep)]
    (gzDeaf s = true → ∀ x ∈ arrivals, Goes x.1 s fun t => t = s) ∧
    (gzBusy s = true → ∀ x ∈ arrivals, Goes x.1 s (GzWaits x.2 s)) ∧
    (gzFree s = true →
      (¬formed → Goes (.gorzelWriteCheck w) s fun t => t = withOut (.gzlReply 5 stFORMAT 0) s) ∧
      (formed → writeStale w s = true → Goes (.gorzelWriteCheck w) s fun t =>
        t.out = s.out ++ [.gzlReply 5 stLEASE ep] ∧ fget gzlB fGZL_EVENT_STALE_WRITE t = 1 ∧ t.gzl = s.gzl ∧
        regGet (gzlB + oGZL_EPOCH) t = ep ∧ t.mem = s.mem ∧ t.cores = s.cores ∧ t.fab = s.fab) ∧
      (formed → writeStale w s = false → newer32 w.seq (regGet (gzlB + oGZL_WSEQ) s) = false →
        Goes (.gorzelWriteCheck w) s fun t => t = withOut (.gzlReply 5 stOK 0) s) ∧
      (formed → writeStale w s = false → newer32 w.seq (regGet (gzlB + oGZL_WSEQ) s) = true → ∀ o l, w.ops = o :: l →
        let x := gzOp o u
        (x.2 ≠ stOK → Goes (.gorzelWriteCheck w) s fun t => t = reportOut s (withOut (.gzlReply 5 x.2 0) x.1)) ∧
        (∀ eid, x.2 = stOK → drainOf o x.1 = some eid → Goes (.gorzelWriteCheck w) s fun t =>
          t = { x.1 with gzl := { x.1.gzl with cont := some ⟨eid, none, 0, l⟩ } }) ∧
        (x.2 = stOK → drainOf o x.1 = none → l = [] → Goes (.gorzelWriteCheck w) s fun t =>
          t = reportOut s (withOut (.gzlReply 5 stOK 0) x.1))) ∧
      (let taken := ep = 0 ∨ newer32 epoch ep = true
       let again := epoch = ep ∧ gzHolder s = holder
       (taken → Goes (.claim epoch holder) s fun t =>
        regGet (gzlB + oGZL_EPOCH) t = epoch ∧ gzHolder t = holder ∧ regGet (gzlB + oGZL_WSEQ) t = 0 ∧
        gzRecordOf stOK t ∈ t.out ∧ t.gzl.rows = s.gzl.rows ∧
        RegsKept [gzlB + oGZL_EPOCH, gzlB + oGZL_HOLDER, gzlB + oGZL_WSEQ] s t ∧
        t = { s with regs := t.regs, gzl := { s.gzl with msgs := t.gzl.msgs, yieldTo := 0x7FFFF }, out := t.out }) ∧
       (¬taken → again → Goes (.claim epoch holder) s fun t => t = withOut (gzRecordOf stOK s) s) ∧
       (¬taken → ¬again → Goes (.claim epoch holder) s fun t =>
        t.out = s.out ++ [gzRecordOf stLEASE s] ∧ fget gzlB fGZL_EVENT_STALE_WRITE t = 1 ∧
        regGet (gzlB + oGZL_EPOCH) t = ep ∧ gzHolder t = gzHolder s ∧ t.gzl = s.gzl ∧ t.mem = s.mem ∧ t.cores = s.cores)) ∧
      (gzActive s = false → ¬own → Goes (.report rep) s (GzNotLeader 6 s)) ∧
      ((s.gzl.msgs.find? fun m => m.seq == seq) = none → Goes (.notLeaderReply seq holder) s fun t => t = s) ∧
      (∀ m, (s.gzl.msgs.find? fun m => m.seq == seq) = some m →
        (s.gzl.notLeader = 0 → Goes (.notLeaderReply seq holder) s fun t => t.gzl.notLeader = 1 ∧
          .gzlSend { m with dest := some holder, tries := 1, t := s.clk.now } ∈ t.out ∧
          t = { s with gzl := { s.gzl with msgs := t.gzl.msgs, notLeader := 1, entryT := t.gzl.entryT }, out := t.out }) ∧
        (s.gzl.notLeader ≠ 0 → Goes (.notLeaderReply seq holder) s fun t => t.gzl.notLeader = 0 ∧
          GzSent none (.register (ownEid s) (BitVec.ofNat 32 (compVersion s.nv.active 3 s)) (BitVec.ofNat 2 (gzRole s))) s t ∧
          t = { s with gzl := { s.gzl with msgs := t.gzl.msgs, seqNo := s.gzl.seqNo + 1, notLeader := 0 }, out := t.out }))) ∧
    (own → gzUp s = false → Goes (.report rep) s fun t => t = s) ∧
    (own → gzUp s = true → gzActive s = false → Goes (.report rep) s fun t =>
      GzSent (some (gzHolder s)) (.report (ownReport s)) s t ∧
      (∀ m ∈ s.gzl.msgs, m ∈ t.gzl.msgs) ∧
      t = { s with gzl := { s.gzl with msgs := t.gzl.msgs, seqNo := s.gzl.seqNo + 1 }, out := t.out }) ∧
    (sumpIdle s = true →
      let found := s.gzl.msgs.find? fun m => m.seq == seq
      (gzUp s = false ∨ found = none → Goes (.gorzelMsgRetry ⟨seq, none⟩) s fun t => t = s) ∧
      (gzDeaf s = true ∨ (gzFree s = true ∧ found = none) → Goes (.gorzelMsgRetry ⟨seq, some r⟩) s fun t => t = s) ∧
      (gzBusy s = true → Goes (.gorzelMsgRetry ⟨seq, some r⟩) s (GzWaits (.reply seq r) s)) ∧
      (∀ m, found = some m →
        let Again := fun (n : GzlMsg) (u t : State) => t = noteSets n.body (withOut (.gzlSend n) { u with
          gzl := { u.gzl with msgs := u.gzl.msgs.map fun x => if x.seq = seq then n else x } })
        let rest := s.gzl.msgs.filter fun x => x.seq != seq
        let holds := elapsed m.t (20 * ticksMs) s = false ∨ 3 < m.tries ∨ gzHeld m.dest m.body s = true ∨
          ((isWrite m.body = true ∨ isClaim m.body = true) ∧ gzActive s = false)
        let alone := ∀ j ∈ s.gzl.jobs, j.waits ≠ [] ∧ seq ∉ j.waits
        (gzUp s = true →
          (holds → Goes (.gorzelMsgRetry ⟨seq, none⟩) s fun t => t = s) ∧
          (¬holds → m.tries = 0 → ∀ v d, m.body = .write v → m.dest = some d →
            let n := nextWseq d s
            Goes (.gorzelMsgRetry ⟨seq, none⟩) s
              (Again { m with body := .write (writeOf n.1 v.ops n.2), tries := 1, t := s.clk.now } n.2)) ∧
          (¬holds → 0 < m.tries → m.tries < 3 → Goes (.gorzelMsgRetry ⟨seq, none⟩) s
            (Again { m with tries := m.tries + 1, portB := !m.portB, t := s.clk.now } s)) ∧
          (¬holds → m.tries = 3 → isReport m.body = true → Goes (.gorzelMsgRetry ⟨seq, none⟩) s
            (Again { m with tries := 1, portB := !m.portB, t := s.clk.now } s)) ∧
          (¬holds → m.tries = 3 → isClaim m.body = true → Goes (.gorzelMsgRetry ⟨seq, none⟩) s fun t =>
            t = withOut (.gzlTimeout seq) { s with
              gzl := { s.gzl with msgs := s.gzl.msgs.map fun x => if x.seq = seq then { x with tries := 4 } else x } }) ∧
          (¬holds → m.tries = 3 → isReport m.body = false → isClaim m.body = false → isWrite m.body = false ∨ alone →
            Goes (.gorzelMsgRetry ⟨seq, none⟩) s fun t =>
              t = withOut (.gzlTimeout seq) { s with gzl := { s.gzl with msgs := rest } })) ∧
        (gzFree s = true → r.status ≠ stNOTLEADER →
          let told := { s with gzl := { s.gzl with msgs := rest, notLeader := 0 } }
          (isWrite m.body = false → isClaim m.body = false → isRegister m.body = false → (∀ j d, m.body ≠ .yield j d) →
            Goes (.gorzelMsgRetry ⟨seq, some r⟩) s fun t => t = told) ∧
          (∀ e h d, m.body = .claim e h → m.dest = some d →
            (r.record = none ∨ gzActive s = false → Goes (.gorzelMsgRetry ⟨seq, some r⟩) s fun t => t = told) ∧
            (∀ x, r.record = some x → gzActive s = true →
              let sent := ((gzPeer d s).map GzlPeer.wseq).getD 0
              Goes (.gorzelMsgRetry ⟨seq, some r⟩) s fun t =>
              (∃ p q, gzPeer d t = some p ∧ p.wseq = (if newer32 sent x.wseq then sent else x.wseq) ∧ p.last = s.clk.now ∧
                p.rep = some q ∧ q.sync = x.sync ∧ q.portState = x.ports) ∧ (∀ d', d' ≠ d → gzPeer d' t = gzPeer d' s) ∧
              (∀ y ∈ x.rows, y.st ≠ 0 → ∃ z ∈ t.gzl.slices, z.id = y.sliceId) ∧
              t = { told with gzl := { told.gzl with peers := t.gzl.peers, slices := t.gzl.slices } })) ∧
          (∀ w' d, m.body = .write w' → m.dest = some d →
            (r.status = stLEASE → gzActive s = true → Goes (.gorzelMsgRetry ⟨seq, some r⟩) s fun t =>
              GzSent (some d) (.claim ep (ownEid s)) s t ∧ ∃ v, v.ops = w'.ops ∧ v.epoch = ep ∧ v.sender = ownEid s ∧
                .gzlSend { m with body := .write v, tries := 1, t := s.clk.now } ∈ t.out) ∧
            (r.status = stLEASE → gzActive s = false → Goes (.gorzelMsgRetry ⟨seq, some r⟩) s fun t => t = told) ∧
            (r.status = stOK → alone → Goes (.gorzelMsgRetry ⟨seq, some r⟩) s fun t => t = told))))) ) ∧
  ∀ (p : Fin 32) (row : Fin 4) (id : BitVec 16) (size : BitVec 11) (st : BitVec 2) (first : BitVec 10)
    (eids : List (BitVec 19)) (eid : BitVec 19) (s : State), row.val < s.gzl.rows.length → GzQuiet s →
    let r := gzRow row.val s
    let full := ∀ x ∈ s.gzl.rows, x.st ≠ 0 ∧ x.sliceId ≠ id
    let kept := if r.sliceId = id ∧ r.st ≠ 0 then r.eids.filter fun x => decide (x.1 < size.toNat) else []
    let new : SliceRow := if st = 0 then ⟨0, 0, 0, []⟩ else ⟨id, size, st, kept⟩
    let RowIs := fun (x : SliceRow) (t : State) => t.gzl = { s.gzl with rows := modAt row.val (fun _ => x) s.gzl.rows }
    (mgmtPlane s ≠ 1 → ∀ i ∈ [Instr.portMapout p, .portRetrain p, .sliceRow row id size st, .sliceMap row first eids,
      .sliceStop id, .masterSet eid], Goes i s fun t => t = s) ∧
    (mgmtPlane s = 1 →
      (gzOpOk (.sliceRow row id size st) = false ∨ rowBusy r s = true ∨ full → Goes (.sliceRow row id size st) s fun t =>
        t = s) ∧
      (gzOpOk (.sliceRow row id size st) = true → rowBusy r s = false → ¬full → Goes (.sliceRow row id size st) s fun t =>
        RowIs new t ∧ (st ≠ 2 ∨ r.st = 2 → t = { s with gzl := t.gzl }) ∧
        (st = 2 → r.st ≠ 2 → fget gzlB fGZL_EVENT_SLICE_STOP t = 1 ∧ t.mem = s.mem ∧ t.cores = s.cores ∧ t.fab = s.fab)) ∧
      (gzOpOk (.sliceMap row first eids) = false ∨ rowBusy r s = true ∨ r.size.toNat < first.toNat + eids.length →
        Goes (.sliceMap row first eids) s fun t => t = s) ∧
      (gzOpOk (.sliceMap row first eids) = true → rowBusy r s = false → first.toNat + eids.length ≤ r.size.toNat →
        Goes (.sliceMap row first eids) s fun t =>
          (∃ e, RowIs { r with eids := e } t ∧
            ∀ j, tget (fun _ => none) e j = if first.toNat ≤ j ∧ j < first.toNat + eids.length then eids[j - first.toNat]?
              else tget (fun _ => none) r.eids j) ∧ t = { s with gzl := t.gzl }) ∧
      ((∃ x ∈ s.gzl.rows, x.st = 1 ∧ x.sliceId = id) → Goes (.sliceStop id) s fun t =>
        t.gzl = { s.gzl with
          rows := s.gzl.rows.map fun x => if x.st = 1 ∧ x.sliceId = id then { x with st := 2 } else x } ∧
        fget gzlB fGZL_EVENT_SLICE_STOP t = 1 ∧ t.mem = s.mem ∧ t.cores = s.cores ∧ t.fab = s.fab) ∧
      ((∀ x ∈ s.gzl.rows, x.st = 1 → x.sliceId ≠ id) → Goes (.sliceStop id) s fun t => t = s) ∧
      (portUp p.val s = true → Goes (.portMapout p) s fun t => portState p.val t = 4 ∧
        fget (fabB p.val) fFAB_STATUS_CAUSE t = 7 ∧ fget (fabB p.val) eFAB_EVENT_LINK_DOWN.bit t = 1 ∧
        (∀ q < 32, q ≠ p.val → portState q t = portState q s) ∧ t.mem = s.mem ∧ t.cores = s.cores) ∧
      (portUp p.val s = false → noLink s = false → Goes (.portMapout p) s fun t => t = s) ∧
      (fget gzlB fGZL_ROLE_MAINT s = 1 → portState p.val s = 4 → laserLow p.val s = false → Goes (.portRetrain p) s fun t =>
        portState p.val t = 1 ∧ RegsKept [fabB p.val + oFAB_STATUS] s t ∧
        t = { s with regs := t.regs, fab := { s.fab with ports := t.fab.ports } }) ∧
      (fget gzlB fGZL_ROLE_MAINT s = 0 ∨ portState p.val s ≠ 4 ∨ laserLow p.val s = true → Goes (.portRetrain p) s fun t =>
        t = s) ∧
      (Goes (.masterSet eid) s fun t => t.drp.master = eid ∧ t.mem = s.mem ∧ t.gzl = s.gzl ∧
        syncState t = (if eid = ownEid s then 5 else if syncState s = 5 then 3 else syncState s) ∧
        (eid = ownEid s → syncState s ≠ 5 → fget drpB fDRP_MASTER_MASTER_EID t = eid.toNat) ∧
        (eid ≠ ownEid s → syncState s = 5 → fget drpB fDRP_EVENT_HOLDOVER t = 1 ∧ t.drp.holdStart = s.clk.now)))

/-- R297, R299, R317, R318: roles, the lease, fail-over and takeback. -/
def Obligations.GorzelRoles : Prop :=
  (∀ (role : BitVec 2) (holder : BitVec 19) (pref : Bool) (epoch jseq version : BitVec 32) (recs : List (BitVec 32))
      (s : State),
    let arrivals := [(Instr.register role holder pref, GzlIn.register role holder pref), (.grant epoch holder, .grant epoch),
      (.stateCopy jseq version recs pref, .stateCopy jseq version recs pref), (.yield holder, .yield holder), (.yieldReq, .yieldReq)]
    (gzDeaf s = true → ∀ x ∈ arrivals, Goes x.1 s fun t => t = s) ∧
    (gzBusy s = true → ∀ x ∈ arrivals, Goes x.1 s (GzWaits x.2 s)) ∧
    (gzActive s = false → ∀ i ∈ [Instr.quietPoint, .quietPointTimeout], Goes i s fun t => t = s) ∧
    (gzActive s = false → GzQuiet s → sumpIdle s = true → Goes (.renew pref epoch) s fun t => t = s) ∧
    (gzOn s = false ∨ takebackDue s = false → Goes (.takeback pref) s fun t => t = s) ∧
    (gzOn s = true → takebackDue s = true → Goes (.takeback pref) s fun t => GzSent none (.takeback s.gzl.jseq) s t ∧
        t.gzl.takeT = (if pref then s.gzl.takeT else some s.clk.now) ∧
        t = { s with gzl := { s.gzl with msgs := t.gzl.msgs, seqNo := s.gzl.seqNo + 1, takeT := t.gzl.takeT }, out := t.out }) ∧
    (gzFree s = true →
      (gzActive s = false → Goes .yieldReq s fun t => t = withOut (.gzlReply 9 stDENIED 0) s) ∧
      (Goes (.register role holder pref) s fun t =>
        let new := if role = 1 ∧ gzRole s = 0 then 1 else if role = 0 ∧ gzRole s = 1 then 0 else gzRole s
        gzRole t = new ∧ (new ≠ gzRole s → fget gzlB fGZL_EVENT_ROLE_CHG t = 1) ∧
        fget gzlB fGZL_ROLE_PREFERRED t = pref.toNat ∧ (∀ m ∈ t.gzl.msgs, isRegister m.body = false) ∧
        t.gzl.notLeader = 0 ∧ (role = 1 → gzRole s = 0 → t.gzl.current = false) ∧
        t.mem = s.mem ∧ t.cores = s.cores ∧ t.fab = s.fab) ∧
      (gzRole s ≠ 1 → (Goes (.grant epoch holder) s fun t => t = withOut (.gzlReply 3 stDENIED 0) s) ∧
        Goes (.stateCopy jseq version recs pref) s fun t => t = withOut (.gzlReply 7 stDENIED s.gzl.jseq) s) ∧
      (gzRole s = 1 →
        (Goes (.grant epoch holder) s fun t =>
          gzRole t = 2 ∧ fget gzlB fGZL_EVENT_ROLE_CHG t = 1 ∧ fget gzlB fGZL_LEASE_MISSED t = 0 ∧
          t.gzl.deadline = some (s.clk.now + 450 * ticksMs) ∧ .gzlReply 3 stOK 0 ∈ t.out ∧
          (regGet (gzlB + oGZL_EPOCH) s = 0 ∨ newer32 epoch (regGet (gzlB + oGZL_EPOCH) s) = true →
            regGet (gzlB + oGZL_EPOCH) t = epoch ∧ gzHolder t = ownEid s) ∧
          (∀ e ∈ domainEids s, e ≠ ownEid s → GzSent (some e) (.claim (regGet (gzlB + oGZL_EPOCH) t) (ownEid s)) s t) ∧
          (∀ x ∈ s.gzl.rows, x.st ≠ 0 → ∃ y ∈ t.gzl.slices, y.id = x.sliceId) ∧
          ∀ y ∈ t.gzl.slices, ∃ x ∈ s.gzl.rows, x.st ≠ 0 ∧ x.sliceId = y.id) ∧
        (versionNear version pref s = false → Goes (.stateCopy jseq version recs pref) s fun t =>
          t = withOut (.gzlReply 7 stFORMAT s.gzl.jseq) s) ∧
        (versionNear version pref s = true → Goes (.stateCopy jseq version recs pref) s fun t => t = withOut (.gzlReply 7 stOK jseq) { s with
          gzl := { s.gzl with
            jseq := jseq
            journal := recs
            current := true
            standbyT := if s.gzl.current then s.gzl.standbyT else some s.clk.now } })) ∧
      (gzRole s ≠ 3 → Goes (.yield holder) s fun t => t = s) ∧
      (gzRole s = 3 → Goes (.yield holder) s fun t => gzRole t = 1 ∧ fget gzlB fGZL_EVENT_ROLE_CHG t = 1 ∧
        t.gzl = { s.gzl with yieldTo := holder, standbyT := none, current := false } ∧ t.mem = s.mem ∧ t.cores = s.cores))) ∧
  (∀ s : State, gzActive s = true →
    (gzFree s = true → Goes .yieldReq s fun t => t = withOut (.gzlReply 9 stOK 0) { s with
      gzl := { s.gzl with yieldT := if s.gzl.yieldT.isSome then s.gzl.yieldT else some s.clk.now } }) ∧
    (s.gzl.yieldT = none ∨ quietPoint s = false → Goes .quietPoint s fun t => t = s) ∧
    (∀ T, s.gzl.yieldT = some T → elapsed T (60 * ticksS) s = true → Goes .quietPoint s fun t => t = s) ∧
    (∀ T, s.gzl.yieldT = some T → elapsed T (60 * ticksS) s = false → quietPoint s = true → Goes .quietPoint s fun t =>
      gzRole t = 3 ∧ fget gzlB fGZL_EVENT_ROLE_CHG t = 1 ∧ GzSent none (.stateCopy s.gzl.jseq s.gzl.journal) s t ∧
      GzSent none (.yield s.gzl.jseq false) s t ∧ t.gzl.yieldT = none ∧ t.gzl.deadline = none ∧
      (∀ m ∈ t.gzl.msgs, isWrite m.body = false ∧ isClaim m.body = false) ∧ t.mem = s.mem ∧
      t.cores = s.cores ∧ t.fab = s.fab) ∧
    (∀ T, s.gzl.yieldT = some T →
      (elapsed T (60 * ticksS) s = true → Goes .quietPointTimeout s fun t => GzSent none (.yield s.gzl.jseq true) s t ∧
        t = { s with gzl := { s.gzl with msgs := t.gzl.msgs, seqNo := s.gzl.seqNo + 1, yieldT := none }, out := t.out }) ∧
      (elapsed T (60 * ticksS) s = false → Goes .quietPointTimeout s fun t => t = s)) ∧
    (GzQuiet s → sumpIdle s = true → ∀ (ok : Bool) (ms : BitVec 32),
      let due := s.gzl.renewT = none ∨ ∃ T, s.gzl.renewT = some T ∧ elapsed T (100 * ticksMs) s = true
      let m : GzlMsg := ⟨s.gzl.seqNo + 1, none, .renew (regGet (gzlB + oGZL_EPOCH) s), 1, false, s.clk.now⟩
      (¬due → Goes (.renew ok ms) s fun t => t = s) ∧
      (due → Goes (.renew ok ms) s fun t =>
        t.out = s.out ++ [.gzlSend m, .gzlSend { m with portB := true }] ∧ t.gzl = { s.gzl with
          seqNo := s.gzl.seqNo + 1
          renewT := some s.clk.now
          deadline := if ok then some (s.clk.now + 450 * ticksMs) else s.gzl.deadline } ∧
        fget gzlB fGZL_LEASE_MISSED t = (if ok then 0 else Nat.min (fget gzlB fGZL_LEASE_MISSED s + 1) 65535) ∧
        RegsKept [gzlB + oGZL_LEASE] s t ∧ t = { s with regs := t.regs, gzl := t.gzl, out := t.out }))) ∧
  (∀ (T : Nat) (s : State), s.gzl.deadline = some T →
    (gzRole s = 2 → T ≤ s.clk.now → Goes .leaseLapse s fun t => gzRole t = 0 ∧ fget gzlB fGZL_EVENT_LAPSED t = 1 ∧
      fget gzlB fGZL_EVENT_ROLE_CHG t = 1 ∧ t.gzl.deadline = none ∧ t.gzl.yieldT = none ∧
      (∀ m ∈ t.gzl.msgs, isWrite m.body = false ∧ isClaim m.body = false) ∧
      GzSent none (.register (ownEid s) (BitVec.ofNat 32 (compVersion s.nv.active 3 s)) 0) s t ∧
      t.mem = s.mem ∧ t.cores = s.cores ∧ t.fab = s.fab) ∧
    (gzRole s ≠ 2 ∨ s.clk.now < T → Goes .leaseLapse s fun t => t = s)) ∧
  ∀ s : State, s.gzl.deadline = none → Goes .leaseLapse s fun t => t = s

/-- R304 to R308, R312 to R316: the work of the active instance. -/
def Obligations.GorzelManaging : Prop :=
  (∀ (size : BitVec 32) (pref : BitVec 13) (id : BitVec 16) (src eid : BitVec 19) (ms : BitVec 32) (cause port : BitVec 8)
      (q : Option (Fin 32)) (isOpen : Bool) (eids : List (BitVec 19)) (s : State),
    let arrivals := [(Instr.carve size pref, GzlIn.carve size pref), (.release id, .release id),
      (.pauseNotice src ms, .pauseNotice src ms), (.maint isOpen eids, .maint isOpen eids)]
    (gzDeaf s = true → ∀ x ∈ arrivals, Goes x.1 s fun t => t = s) ∧
    (gzBusy s = true → ∀ x ∈ arrivals, Goes x.1 s (GzWaits x.2 s)) ∧
    (gzFree s = true → gzActive s = false →
      Goes (.carve size pref) s (GzNotLeader 11 s) ∧ Goes (.release id) s (GzNotLeader 12 s) ∧
      Goes (.pauseNotice src ms) s (GzNotLeader 15 s)) ∧
    (gzActive s = false → ∀ i ∈ [Instr.jobFault id cause eid port, .packageLost eid, .faultReaction eid q,
      .routeInstall eid], Goes i s fun t => t = s) ∧
    (gzFree s = true → Goes (.maint isOpen eids) s fun t =>
      fget gzlB fGZL_ROLE_MAINT t = (if ownEid s ∈ eids then isOpen.toNat else fget gzlB fGZL_ROLE_MAINT s) ∧
      gzRole t = gzRole s ∧ t.mem = s.mem ∧ t.cores = s.cores ∧
      (gzActive s = true → .gzlReply 14 stOK 0 ∈ t.out ∧
        (isOpen = false → t.out = s.out ++ [.gzlReply 14 stOK 0] ∧ t.fab = s.fab) ∧
        (∀ e, (gzPeer e t).map GzlPeer.maint = if e ∈ eids then (gzPeer e s).map fun _ => isOpen
          else (gzPeer e s).map GzlPeer.maint) ∧
        (isOpen = true → ∀ e ∈ eids, e ≠ ownEid s → ∀ r, repOf e s = some r →
          let l := (List.finRange 32).filter fun p => r.portState.getD p.val 0 == 4
          l ≠ [] → GzWritten e (l.map .portRetrain) s t)) ∧
      (gzActive s = false → t.gzl = s.gzl ∧ t.fab = s.fab ∧ fget gzlB fGZL_EVENT_NOT_LEADER t = 1))) ∧
  (∀ (r0 : GzlReport) (s : State), (r0.eid = ownEid s ∨ gzFree s = true) → gzActive s = true → Goes (.report r0) s fun t =>
    let r := if r0.eid = ownEid s then ownReport s else r0
    .gzlReply 6 stOK 0 ∈ t.out ∧ (∃ p, gzPeer r.eid t = some p ∧ p.rep = some r ∧ p.last = s.clk.now ∧ p.lost = false) ∧
    (r.eid ≠ ownEid s → (∀ p, gzPeer r.eid s = some p → p.lost = true ∨ p.rep = none) →
      GzSent (some r.eid) (.claim (regGet (gzlB + oGZL_EPOCH) s) (ownEid s)) s t)) ∧
  (∀ (size : BitVec 32) (pref : BitVec 13) (s : State), gzFree s = true → gzActive s = true →
    let n := size.toNat
    let l := carvable s
    (n = 0 ∨ 1024 < n → Goes (.carve size pref) s fun t => t = withOut (.gzlReply 11 stLENGTH 0) s) ∧
    (0 < n → n ≤ 1024 → l.length < n → Goes (.carve size pref) s fun t =>
      t = withOut (.gzlReply 11 stDENIED (BitVec.ofNat 32 l.length)) s) ∧
    (0 < n → n ≤ 1024 → n ≤ l.length → s.gzl.slices.length < 65535 → (∀ j ∈ s.gzl.jobs, j.waits ≠ []) →
      Goes (.carve size pref) s fun t =>
      ∃ id m, t.gzl.slices = s.gzl.slices ++ [⟨id, m, false, []⟩] ∧
        m.length = n ∧ (∀ e ∈ m, e ∈ l) ∧ id ≠ 0 ∧ (∀ x ∈ s.gzl.slices, x.id ≠ id) ∧
        (∀ e ∈ m, e ≠ ownEid s → ∃ ops, GzWritten e (.sliceRow 0 id (BitVec.ofNat 11 n) 1 :: ops) s t) ∧
        ((∃ e ∈ m, e ≠ ownEid s) → ∃ j ∈ t.gzl.jobs, j.code = 11 ∧ j.id = id ∧ j.waits ≠ []) ∧
        ((∀ e ∈ m, e = ownEid s) → ∃ st v, .gzlReply 11 st v ∈ t.out ∧ (st = stOK → v = id.setWidth 32)))) ∧
  (∀ (id : BitVec 16) (s : State), gzFree s = true → gzActive s = true → (∀ j ∈ s.gzl.jobs, j.waits ≠ []) →
    ((∀ x ∈ s.gzl.slices, x.id ≠ id) → Goes (.release id) s fun t => t = withOut (.gzlReply 12 stDENIED 0) s) ∧
    (∀ x, (s.gzl.slices.find? fun x => x.id == id) = some x →
      let works := ownEid s ∈ x.members ∧ rowBusy (gzRow (rowOn x (ownEid s)).val s) s = true
      ((∃ e ∈ x.members, e ≠ ownEid s) → Goes (.release id) s fun t => t.gzl.slices = s.gzl.slices ∧
        (∀ e ∈ x.members, e ≠ ownEid s → GzWritten e [.sliceRow (rowOn x e) id 0 0] s t) ∧
        ∃ j ∈ t.gzl.jobs, j.code = 12 ∧ j.id = id ∧ j.waits ≠ [] ∧ (works → j.st = stDRAINING)) ∧
      ((∀ e ∈ x.members, e = ownEid s) → works → Goes (.release id) s fun t => t.gzl.slices = s.gzl.slices ∧
        .gzlReply 12 stDRAINING 0 ∈ t.out) ∧
      ((∀ e ∈ x.members, e = ownEid s) → ¬works → (∃ y ∈ s.gzl.rows, y.st = 0 ∨ y.sliceId = id) →
        Goes (.release id) s fun t => t.gzl.slices = s.gzl.slices.filter (fun y => y.id != id) ∧
          .gzlReply 12 stOK 0 ∈ t.out))) ∧
  (∀ (seq : BitVec 32) (m : GzlMsg) (w : GzlWrite) (d : BitVec 19) (j : GzlJob) (r : GzlReplyIn) (s : State),
    gzFree s = true → gzActive s = true → sumpIdle s = true → (s.gzl.msgs.find? fun m => m.seq == seq) = some m →
    m.body = .write w → m.dest = some d → r.status ≠ stLEASE → r.status ≠ stNOTLEADER →
    (∃ a b c f, w.ops.drop r.detail.toNat = [.sliceRow a b c f]) → s.gzl.jobs = [j] → j.waits = [seq] →
    let st := if j.st = stOK then nakStatus r.status else j.st
    (j.code = 11 → Goes (.gorzelMsgRetry ⟨seq, some r⟩) s fun t => t.gzl.jobs = [] ∧ t.gzl.slices = s.gzl.slices ∧
      .gzlReply 11 st (if st = stOK then j.id.setWidth 32 else 0) ∈ t.out) ∧
    (j.code = 12 → Goes (.gorzelMsgRetry ⟨seq, some r⟩) s fun t => t.gzl.jobs = [] ∧ .gzlReply 12 st 0 ∈ t.out ∧
      t.gzl.slices = if st = stOK then s.gzl.slices.filter (fun y => y.id != j.id) else s.gzl.slices)) ∧
  (∀ (id : BitVec 16) (cause port : BitVec 8) (eid src : BitVec 19) (ms : BitVec 32) (s : State), gzActive s = true →
    ((∃ x ∈ s.gzl.slices, x.id = id ∧ x.stopped = true) → Goes (.jobFault id cause eid port) s fun t =>
      GzSent none (.jobFault id cause eid port) s t ∧
      t = { s with gzl := { s.gzl with msgs := t.gzl.msgs, seqNo := s.gzl.seqNo + 1 }, out := t.out }) ∧
    ((∀ x ∈ s.gzl.slices, x.id = id → x.stopped = false) → Goes (.jobFault id cause eid port) s fun t => t = s) ∧
    (gzFree s = true → Goes (.pauseNotice src ms) s fun t => .gzlReply 15 stOK 0 ∈ t.out ∧
      (gzPeer src t).map GzlPeer.pause = some (if ms = 0 then none else some (s.clk.now + 3 * ticksS)) ∧
      (∀ e, e ≠ src → gzPeer e t = gzPeer e s) ∧
      (ms = 0 → ∀ m ∈ s.gzl.msgs, m.dest = some src → m.tries = 0 →
        (isWrite m.body = false → .gzlSend { m with tries := 1, t := s.clk.now } ∈ t.out) ∧
        ∀ w, m.body = .write w → ∃ v, v.ops = w.ops ∧ v.epoch = regGet (gzlB + oGZL_EPOCH) s ∧ v.sentW = s.clk.w ∧
          .gzlSend { m with body := .write v, tries := 1, t := s.clk.now } ∈ t.out) ∧
      (ms ≠ 0 → t.out = s.out ++ [.gzlReply 15 stOK 0]) ∧
      t = { s with gzl := { s.gzl with peers := t.gzl.peers, msgs := t.gzl.msgs, entryT := t.gzl.entryT }, out := t.out })) ∧
  (∀ (e : BitVec 19) (s : State), gzActive s = true → (∀ j ∈ s.gzl.jobs, j.waits ≠ []) →
    let Lost := fun (t : State) => (gzPeer e t).map GzlPeer.lost = some true ∧ fget gzlB fGZL_EVENT_PEER_LOST t = 1 ∧
      GzReacted e 0 0xFF s t ∧ (entryStatus e 0 s = stOK → entState (entryOf e t) = 0)
    (e = ownEid s ∨ peerGone e s = false → Goes (.packageLost e) s fun t => t = s) ∧
    (e ≠ ownEid s → peerGone e s = true → Goes (.packageLost e) s Lost) ∧
    (e ≠ ownEid s → drainDead e s = true → sumpIdle s = true → Goes (.routeInstall e) s Lost) ∧
    (∀ p, gzPeer e s = some p → p.lost = false → Goes (.faultReaction e none) s fun t => t = s) ∧
    (∀ p, gzPeer e s = some p → p.lost = true → e ≠ ownEid s → Goes (.faultReaction e none) s (GzReacted e 0 0xFF s)) ∧
    (∀ (q : Fin 32) (r : GzlReport), repOf e s = some r →
      (r.portState.getD q.val 0 ≠ 4 → Goes (.faultReaction e (some q)) s fun t => t = s) ∧
      (r.portState.getD q.val 0 = 4 → Goes (.faultReaction e (some q)) s (GzReacted e 1 (BitVec.ofNat 8 q.val) s)))) ∧
  ∀ (y : BitVec 19) (s : State), gzActive s = true → drainDead y s = false → sumpIdle s = true →
    Goes (.routeInstall y) s fun t =>
    (∀ x ∈ domainEids s, x ≠ y → x ≠ ownEid s →
      let v := routeEntry x y s
      let old := tget (fun _ => 0) s.gzl.routes (2 ^ 19 * x.toNat + y.toNat)
      tget (fun _ => 0) t.gzl.routes (2 ^ 19 * x.toNat + y.toNat) = routeNote v ∧
      (routeNote v ≠ old → GzWritten x (if v = 0 ∨ entState old ≠ 1 then [.entrySet y v]
        else [.entrySet y (inDrain old), .drainReq y, .entrySet y v]) s t)) ∧
    (y ≠ ownEid s →
      let v := routeEntry (ownEid s) y s
      let old := entryOf y s
      (v = old → entryOf y t = old) ∧
      (v ≠ old → entState old = 0 ∨ v = 0 → entryStatus y v s = stOK → entryOf y t = v) ∧
      (v ≠ old → v ≠ 0 → entState old = 1 → entryStatus y (inDrain old) s = stOK → entryOf y t = inDrain old)) ∧
    t.mem = s.mem ∧ t.cores = s.cores
end

