-- ==== Sys2Proof/Laws/Tbl.lean ====
section
/-! SUPPORT. Laws of sparse tables: reads after writes, and the canonical form that every write keeps. -/

namespace Sys2Proof.Machine

theorem tget_tins_same {α : Type} (d : Nat → α) (k : Nat) (v : α) (t : Tbl α) : tget d (tins k v t) k = v := by
  induction t with
  | nil => simp [tins, tget]
  | cons c r ih =>
    obtain ⟨a, x⟩ := c
    unfold tins
    split
    · simp [tget]
    · split
      · simp [tget]
      · simp [tget, show a ≠ k by omega, ih]

theorem tget_tins_ne {α : Type} (d : Nat → α) {k j : Nat} (h : j ≠ k) (v : α) (t : Tbl α) :
    tget d (tins k v t) j = tget d t j := by
  induction t with
  | nil => simp [tins, tget, h.symm]
  | cons c r ih =>
    obtain ⟨a, x⟩ := c
    unfold tins
    split
    · simp [tget, h.symm]
    · split
      · next hk => subst hk; simp [tget, h.symm]
      · simp only [tget, ih]

theorem tget_drop_same {α : Type} (d : Nat → α) (k : Nat) (t : Tbl α) :
    tget d (t.filter fun c => decide (c.1 ≠ k)) k = d k := by
  induction t with
  | nil => rfl
  | cons c r ih =>
    by_cases hc : c.1 = k
    · simpa [List.filter, hc] using ih
    · simpa [List.filter, hc, tget] using ih

theorem tget_drop_ne {α : Type} (d : Nat → α) {k j : Nat} (h : j ≠ k) (t : Tbl α) :
    tget d (t.filter fun c => decide (c.1 ≠ k)) j = tget d t j := by
  induction t with
  | nil => rfl
  | cons c r ih =>
    by_cases hc : c.1 = k
    · simpa [List.filter, hc, tget, h.symm] using ih
    · simpa [List.filter, hc, tget, h] using by rw [← ih]; simp

/-- A read of a key just written gives the value written. -/
@[simp] theorem tget_tset_same {α : Type} [DecidableEq α] (d : Nat → α) (k : Nat) (v : α) (t : Tbl α) :
    tget d (tset d k v t) k = v := by
  unfold tset
  split
  · next h => rw [tget_drop_same, h]
  · exact tget_tins_same d k v t

/-- A write leaves every other key alone. -/
theorem tget_tset_ne {α : Type} [DecidableEq α] (d : Nat → α) {k j : Nat} (h : j ≠ k) (v : α) (t : Tbl α) :
    tget d (tset d k v t) j = tget d t j := by
  unfold tset
  split
  · exact tget_drop_ne d h t
  · exact tget_tins_ne d h v t

/-- A read after a write, at any key. -/
theorem tget_tset {α : Type} [DecidableEq α] (d : Nat → α) (k j : Nat) (v : α) (t : Tbl α) :
    tget d (tset d k v t) j = if j = k then v else tget d t j := by
  by_cases h : j = k
  · simp [h]
  · simp [h, tget_tset_ne d h]

theorem twfFrom_mono {α : Type} [DecidableEq α] (d : Nat → α) {lo lo' : Nat} (h : lo' ≤ lo) {t : Tbl α}
    (ht : twfFrom d lo t = true) : twfFrom d lo' t = true := by
  cases t with
  | nil => rfl
  | cons c r =>
    simp only [twfFrom, Bool.and_eq_true, decide_eq_true_eq] at ht ⊢
    exact ⟨⟨by omega, ht.1.2⟩, ht.2⟩

theorem twfFrom_tins {α : Type} [DecidableEq α] (d : Nat → α) {k : Nat} {v : α} (hv : v ≠ d k) :
    ∀ (t : Tbl α) (lo : Nat), lo ≤ k → twfFrom d lo t = true → twfFrom d lo (tins k v t) = true
  | [], lo, hk, _ => by simp [tins, twfFrom, hv, hk]
  | (a, x) :: r, lo, hk, ht => by
    simp only [twfFrom, Bool.and_eq_true, decide_eq_true_eq] at ht
    unfold tins
    split
    · simp only [twfFrom, Bool.and_eq_true, decide_eq_true_eq]
      exact ⟨⟨hk, hv⟩, ⟨by omega, ht.1.2⟩, ht.2⟩
    · split
      · next h => subst h; simp only [twfFrom, Bool.and_eq_true, decide_eq_true_eq]; exact ⟨⟨hk, hv⟩, ht.2⟩
      · simp only [twfFrom, Bool.and_eq_true, decide_eq_true_eq]
        exact ⟨ht.1, twfFrom_tins d hv r (a + 1) (by omega) ht.2⟩

/-- Dropping entries keeps the canonical form. -/
theorem twfFrom_filter {α : Type} [DecidableEq α] (d : Nat → α) (p : Nat × α → Bool) :
    ∀ (t : Tbl α) (lo : Nat), twfFrom d lo t = true → twfFrom d lo (t.filter p) = true
  | [], _, _ => rfl
  | c :: r, lo, ht => by
    simp only [twfFrom, Bool.and_eq_true, decide_eq_true_eq] at ht
    have ih := twfFrom_filter d p r (c.1 + 1) ht.2
    by_cases hc : p c = true
    · simp only [List.filter, hc, twfFrom, Bool.and_eq_true, decide_eq_true_eq]
      exact ⟨ht.1, ih⟩
    · simp only [List.filter, hc]
      exact twfFrom_mono d (by omega) ih

/-- Setting a key keeps the canonical form. -/
theorem twf_tset {α : Type} [DecidableEq α] (d : Nat → α) (k : Nat) (v : α) {t : Tbl α} (ht : twf d t = true) :
    twf d (tset d k v t) = true := by
  unfold tset twf
  split
  · exact twfFrom_filter d _ t 0 ht
  · next h => exact twfFrom_tins d h t 0 (Nat.zero_le k) ht

/-- Joining two tables whose keys lie below and above a bound keeps the canonical form. -/
theorem twfFrom_append {α : Type} [DecidableEq α] (d : Nat → α) {m : Nat} {u : Tbl α} (hu : twfFrom d m u = true) :
    ∀ (t : Tbl α) (lo : Nat), lo ≤ m → twfFrom d lo t = true → (∀ c ∈ t, c.1 < m) → twfFrom d lo (t ++ u) = true
  | [], _, hm, _, _ => twfFrom_mono d hm hu
  | c :: r, lo, _, ht, hk => by
    simp only [twfFrom, Bool.and_eq_true, decide_eq_true_eq, List.cons_append] at ht ⊢
    have hc : c.1 < m := hk c (by simp)
    exact ⟨ht.1, twfFrom_append d hu r (c.1 + 1) hc ht.2 fun x hx => hk x (by simp [hx])⟩

/-- A cleaned slice, moved to its place, is canonical there. -/
theorem twfFrom_tclean (a hi : Nat) : ∀ (t : Tbl Byte) (lo : Nat),
    twfFrom (fun _ => (0 : Byte)) (a + lo) ((tclean lo hi t).map fun c => (c.1 + a, c.2)) = true
  | [], _ => rfl
  | (k, x) :: r, lo => by
    unfold tclean
    split
    · next h =>
      simp only [List.map_cons, twfFrom, Bool.and_eq_true, decide_eq_true_eq]
      refine ⟨⟨by omega, h.2.2⟩, ?_⟩
      have := twfFrom_tclean a hi r (k + 1)
      rwa [show a + (k + 1) = k + a + 1 by omega] at this
    · exact twfFrom_tclean a hi r lo

theorem mem_tclean_lt {hi : Nat} : ∀ {t : Tbl Byte} {lo : Nat} {c : Nat × Byte}, c ∈ tclean lo hi t → c.1 < hi
  | [], _, _, h => by simp [tclean] at h
  | (k, x) :: r, lo, c, h => by
    unfold tclean at h
    split at h
    · next hk =>
      rcases List.mem_cons.1 h with rfl | h
      · exact hk.2.1
      · exact mem_tclean_lt h
    · exact mem_tclean_lt h

/-- Dropping the entries below a bound gives a table canonical from that bound. -/
theorem twfFrom_above {α : Type} [DecidableEq α] (d : Nat → α) (m : Nat) : ∀ (t : Tbl α) (lo : Nat),
    twfFrom d lo t = true → twfFrom d m (t.filter fun c => decide (m ≤ c.1)) = true
  | [], _, _ => rfl
  | c :: r, lo, ht => by
    simp only [twfFrom, Bool.and_eq_true, decide_eq_true_eq] at ht
    by_cases hc : m ≤ c.1
    · simp only [List.filter, hc, decide_true, twfFrom, Bool.and_eq_true, decide_eq_true_eq]
      exact ⟨⟨trivial, ht.1.2⟩, twfFrom_filter d _ r _ ht.2⟩
    · simp only [List.filter, hc, decide_false]
      exact twfFrom_above d m r _ ht.2

/-- Putting a cleaned slice into a table of bytes keeps the canonical form. -/
theorem twf_tput (a n : Nat) (sl : Tbl Byte) {t : Tbl Byte} (ht : twf (fun _ => 0) t = true) :
    twf (fun _ => 0) (tput a n (tclean 0 n sl) t) = true := by
  unfold twf at ht ⊢
  unfold tput
  have h1 := twfFrom_above (fun _ => (0 : Byte)) (a + n) t 0 ht
  have h2 := twfFrom_append _ h1 _ a (by omega) (twfFrom_tclean a n sl 0) (by
    intro c hc
    obtain ⟨x, hx, rfl⟩ := List.mem_map.1 hc
    have := mem_tclean_lt hx
    show x.1 + a < a + n
    omega)
  rw [List.append_assoc]
  exact twfFrom_append _ h2 _ 0 (Nat.zero_le a) (twfFrom_filter _ _ t 0 ht) (by
    intro c hc; simpa using (List.mem_filter.1 hc).2)

/-- Clearing a range of a table keeps the canonical form. -/
theorem twf_tput_nil (a n : Nat) {t : Tbl Byte} (ht : twf (fun _ => 0) t = true) :
    twf (fun _ => 0) (tput a n [] t) = true := by
  have := twf_tput a n [] ht
  simpa [tclean] using this

end Sys2Proof.Machine
end

