-- ==== Sys2Proof/Laws/State.lean ====
section
/-! SUPPORT. What the plain updates of the state leave alone: one lemma per field and update. -/

namespace Sys2Proof.Machine

@[simp] theorem regSet_clk (off : Nat) (v : Word) (s : State) : (regSet off v s).clk = s.clk := rfl
@[simp] theorem regSet_latches (off : Nat) (v : Word) (s : State) : (regSet off v s).latches = s.latches := rfl
@[simp] theorem regSet_handoffs (off : Nat) (v : Word) (s : State) : (regSet off v s).handoffs = s.handoffs := rfl
@[simp] theorem regSet_cores (off : Nat) (v : Word) (s : State) : (regSet off v s).cores = s.cores := rfl
@[simp] theorem regSet_progs (off : Nat) (v : Word) (s : State) : (regSet off v s).progs = s.progs := rfl
@[simp] theorem regSet_loading (off : Nat) (v : Word) (s : State) : (regSet off v s).loading = s.loading := rfl
@[simp] theorem regSet_insts (off : Nat) (v : Word) (s : State) : (regSet off v s).insts = s.insts := rfl
@[simp] theorem regSet_instNo (off : Nat) (v : Word) (s : State) : (regSet off v s).instNo = s.instNo := rfl
@[simp] theorem regSet_queues (off : Nat) (v : Word) (s : State) : (regSet off v s).queues = s.queues := rfl
@[simp] theorem regSet_bells (off : Nat) (v : Word) (s : State) : (regSet off v s).bells = s.bells := rfl
@[simp] theorem regSet_armed (off : Nat) (v : Word) (s : State) : (regSet off v s).armed = s.armed := rfl
@[simp] theorem regSet_waiters (off : Nat) (v : Word) (s : State) : (regSet off v s).waiters = s.waiters := rfl
@[simp] theorem regSet_mem (off : Nat) (v : Word) (s : State) : (regSet off v s).mem = s.mem := rfl
@[simp] theorem regSet_flash (off : Nat) (v : Word) (s : State) : (regSet off v s).flash = s.flash := rfl
@[simp] theorem regSet_ecc (off : Nat) (v : Word) (s : State) : (regSet off v s).ecc = s.ecc := rfl
@[simp] theorem regSet_chans (off : Nat) (v : Word) (s : State) : (regSet off v s).chans = s.chans := rfl
@[simp] theorem regSet_cab (off : Nat) (v : Word) (s : State) : (regSet off v s).cab = s.cab := rfl
@[simp] theorem regSet_bur (off : Nat) (v : Word) (s : State) : (regSet off v s).bur = s.bur := rfl
@[simp] theorem regSet_perf (off : Nat) (v : Word) (s : State) : (regSet off v s).perf = s.perf := rfl
@[simp] theorem regSet_drp (off : Nat) (v : Word) (s : State) : (regSet off v s).drp = s.drp := rfl
@[simp] theorem regSet_fab (off : Nat) (v : Word) (s : State) : (regSet off v s).fab = s.fab := rfl
@[simp] theorem regSet_gzl (off : Nat) (v : Word) (s : State) : (regSet off v s).gzl = s.gzl := rfl
@[simp] theorem regSet_sec (off : Nat) (v : Word) (s : State) : (regSet off v s).sec = s.sec := rfl
@[simp] theorem regSet_stool (off : Nat) (v : Word) (s : State) : (regSet off v s).stool = s.stool := rfl
@[simp] theorem regSet_pwr (off : Nat) (v : Word) (s : State) : (regSet off v s).pwr = s.pwr := rfl
@[simp] theorem regSet_col (off : Nat) (v : Word) (s : State) : (regSet off v s).col = s.col := rfl
@[simp] theorem regSet_host (off : Nat) (v : Word) (s : State) : (regSet off v s).host = s.host := rfl
@[simp] theorem regSet_nv (off : Nat) (v : Word) (s : State) : (regSet off v s).nv = s.nv := rfl
@[simp] theorem regSet_boot (off : Nat) (v : Word) (s : State) : (regSet off v s).boot = s.boot := rfl
@[simp] theorem regSet_rst (off : Nat) (v : Word) (s : State) : (regSet off v s).rst = s.rst := rfl
@[simp] theorem regSet_fwu (off : Nat) (v : Word) (s : State) : (regSet off v s).fwu = s.fwu := rfl
@[simp] theorem regSet_mgmt (off : Nat) (v : Word) (s : State) : (regSet off v s).mgmt = s.mgmt := rfl
@[simp] theorem regSet_spdm (off : Nat) (v : Word) (s : State) : (regSet off v s).spdm = s.spdm := rfl
@[simp] theorem regSet_tap (off : Nat) (v : Word) (s : State) : (regSet off v s).tap = s.tap := rfl
@[simp] theorem regSet_busyParts (off : Nat) (v : Word) (s : State) : (regSet off v s).busyParts = s.busyParts := rfl
@[simp] theorem regSet_computeReset (off : Nat) (v : Word) (s : State) : (regSet off v s).computeReset = s.computeReset := rfl
@[simp] theorem regSet_out (off : Nat) (v : Word) (s : State) : (regSet off v s).out = s.out := rfl
@[simp] theorem regSet_freeCtr (off : Nat) (v : Word) (s : State) : (regSet off v s).freeCtr = s.freeCtr := rfl
@[simp] theorem regSet_pending (off : Nat) (v : Word) (s : State) : (regSet off v s).pending = s.pending := rfl

@[simp] theorem fset_clk (b : Nat) (f : Fld) (v : Nat) (s : State) : (fset b f v s).clk = s.clk := rfl
@[simp] theorem fset_latches (b : Nat) (f : Fld) (v : Nat) (s : State) : (fset b f v s).latches = s.latches := rfl
@[simp] theorem fset_handoffs (b : Nat) (f : Fld) (v : Nat) (s : State) : (fset b f v s).handoffs = s.handoffs := rfl
@[simp] theorem fset_cores (b : Nat) (f : Fld) (v : Nat) (s : State) : (fset b f v s).cores = s.cores := rfl
@[simp] theorem fset_progs (b : Nat) (f : Fld) (v : Nat) (s : State) : (fset b f v s).progs = s.progs := rfl
@[simp] theorem fset_loading (b : Nat) (f : Fld) (v : Nat) (s : State) : (fset b f v s).loading = s.loading := rfl
@[simp] theorem fset_insts (b : Nat) (f : Fld) (v : Nat) (s : State) : (fset b f v s).insts = s.insts := rfl
@[simp] theorem fset_instNo (b : Nat) (f : Fld) (v : Nat) (s : State) : (fset b f v s).instNo = s.instNo := rfl
@[simp] theorem fset_queues (b : Nat) (f : Fld) (v : Nat) (s : State) : (fset b f v s).queues = s.queues := rfl
@[simp] theorem fset_bells (b : Nat) (f : Fld) (v : Nat) (s : State) : (fset b f v s).bells = s.bells := rfl
@[simp] theorem fset_armed (b : Nat) (f : Fld) (v : Nat) (s : State) : (fset b f v s).armed = s.armed := rfl
@[simp] theorem fset_waiters (b : Nat) (f : Fld) (v : Nat) (s : State) : (fset b f v s).waiters = s.waiters := rfl
@[simp] theorem fset_mem (b : Nat) (f : Fld) (v : Nat) (s : State) : (fset b f v s).mem = s.mem := rfl
@[simp] theorem fset_flash (b : Nat) (f : Fld) (v : Nat) (s : State) : (fset b f v s).flash = s.flash := rfl
@[simp] theorem fset_ecc (b : Nat) (f : Fld) (v : Nat) (s : State) : (fset b f v s).ecc = s.ecc := rfl
@[simp] theorem fset_chans (b : Nat) (f : Fld) (v : Nat) (s : State) : (fset b f v s).chans = s.chans := rfl
@[simp] theorem fset_cab (b : Nat) (f : Fld) (v : Nat) (s : State) : (fset b f v s).cab = s.cab := rfl
@[simp] theorem fset_bur (b : Nat) (f : Fld) (v : Nat) (s : State) : (fset b f v s).bur = s.bur := rfl
@[simp] theorem fset_perf (b : Nat) (f : Fld) (v : Nat) (s : State) : (fset b f v s).perf = s.perf := rfl
@[simp] theorem fset_drp (b : Nat) (f : Fld) (v : Nat) (s : State) : (fset b f v s).drp = s.drp := rfl
@[simp] theorem fset_fab (b : Nat) (f : Fld) (v : Nat) (s : State) : (fset b f v s).fab = s.fab := rfl
@[simp] theorem fset_gzl (b : Nat) (f : Fld) (v : Nat) (s : State) : (fset b f v s).gzl = s.gzl := rfl
@[simp] theorem fset_sec (b : Nat) (f : Fld) (v : Nat) (s : State) : (fset b f v s).sec = s.sec := rfl
@[simp] theorem fset_stool (b : Nat) (f : Fld) (v : Nat) (s : State) : (fset b f v s).stool = s.stool := rfl
@[simp] theorem fset_pwr (b : Nat) (f : Fld) (v : Nat) (s : State) : (fset b f v s).pwr = s.pwr := rfl
@[simp] theorem fset_col (b : Nat) (f : Fld) (v : Nat) (s : State) : (fset b f v s).col = s.col := rfl
@[simp] theorem fset_host (b : Nat) (f : Fld) (v : Nat) (s : State) : (fset b f v s).host = s.host := rfl
@[simp] theorem fset_nv (b : Nat) (f : Fld) (v : Nat) (s : State) : (fset b f v s).nv = s.nv := rfl
@[simp] theorem fset_boot (b : Nat) (f : Fld) (v : Nat) (s : State) : (fset b f v s).boot = s.boot := rfl
@[simp] theorem fset_rst (b : Nat) (f : Fld) (v : Nat) (s : State) : (fset b f v s).rst = s.rst := rfl
@[simp] theorem fset_fwu (b : Nat) (f : Fld) (v : Nat) (s : State) : (fset b f v s).fwu = s.fwu := rfl
@[simp] theorem fset_mgmt (b : Nat) (f : Fld) (v : Nat) (s : State) : (fset b f v s).mgmt = s.mgmt := rfl
@[simp] theorem fset_spdm (b : Nat) (f : Fld) (v : Nat) (s : State) : (fset b f v s).spdm = s.spdm := rfl
@[simp] theorem fset_tap (b : Nat) (f : Fld) (v : Nat) (s : State) : (fset b f v s).tap = s.tap := rfl
@[simp] theorem fset_busyParts (b : Nat) (f : Fld) (v : Nat) (s : State) : (fset b f v s).busyParts = s.busyParts := rfl
@[simp] theorem fset_computeReset (b : Nat) (f : Fld) (v : Nat) (s : State) : (fset b f v s).computeReset = s.computeReset := rfl
@[simp] theorem fset_out (b : Nat) (f : Fld) (v : Nat) (s : State) : (fset b f v s).out = s.out := rfl
@[simp] theorem fset_freeCtr (b : Nat) (f : Fld) (v : Nat) (s : State) : (fset b f v s).freeCtr = s.freeCtr := rfl
@[simp] theorem fset_pending (b : Nat) (f : Fld) (v : Nat) (s : State) : (fset b f v s).pending = s.pending := rfl

@[simp] theorem fadd_clk (b : Nat) (f : Fld) (v : Nat) (s : State) : (fadd b f v s).clk = s.clk := rfl
@[simp] theorem fadd_latches (b : Nat) (f : Fld) (v : Nat) (s : State) : (fadd b f v s).latches = s.latches := rfl
@[simp] theorem fadd_handoffs (b : Nat) (f : Fld) (v : Nat) (s : State) : (fadd b f v s).handoffs = s.handoffs := rfl
@[simp] theorem fadd_cores (b : Nat) (f : Fld) (v : Nat) (s : State) : (fadd b f v s).cores = s.cores := rfl
@[simp] theorem fadd_progs (b : Nat) (f : Fld) (v : Nat) (s : State) : (fadd b f v s).progs = s.progs := rfl
@[simp] theorem fadd_loading (b : Nat) (f : Fld) (v : Nat) (s : State) : (fadd b f v s).loading = s.loading := rfl
@[simp] theorem fadd_insts (b : Nat) (f : Fld) (v : Nat) (s : State) : (fadd b f v s).insts = s.insts := rfl
@[simp] theorem fadd_instNo (b : Nat) (f : Fld) (v : Nat) (s : State) : (fadd b f v s).instNo = s.instNo := rfl
@[simp] theorem fadd_queues (b : Nat) (f : Fld) (v : Nat) (s : State) : (fadd b f v s).queues = s.queues := rfl
@[simp] theorem fadd_bells (b : Nat) (f : Fld) (v : Nat) (s : State) : (fadd b f v s).bells = s.bells := rfl
@[simp] theorem fadd_armed (b : Nat) (f : Fld) (v : Nat) (s : State) : (fadd b f v s).armed = s.armed := rfl
@[simp] theorem fadd_waiters (b : Nat) (f : Fld) (v : Nat) (s : State) : (fadd b f v s).waiters = s.waiters := rfl
@[simp] theorem fadd_mem (b : Nat) (f : Fld) (v : Nat) (s : State) : (fadd b f v s).mem = s.mem := rfl
@[simp] theorem fadd_flash (b : Nat) (f : Fld) (v : Nat) (s : State) : (fadd b f v s).flash = s.flash := rfl
@[simp] theorem fadd_ecc (b : Nat) (f : Fld) (v : Nat) (s : State) : (fadd b f v s).ecc = s.ecc := rfl
@[simp] theorem fadd_chans (b : Nat) (f : Fld) (v : Nat) (s : State) : (fadd b f v s).chans = s.chans := rfl
@[simp] theorem fadd_cab (b : Nat) (f : Fld) (v : Nat) (s : State) : (fadd b f v s).cab = s.cab := rfl
@[simp] theorem fadd_bur (b : Nat) (f : Fld) (v : Nat) (s : State) : (fadd b f v s).bur = s.bur := rfl
@[simp] theorem fadd_perf (b : Nat) (f : Fld) (v : Nat) (s : State) : (fadd b f v s).perf = s.perf := rfl
@[simp] theorem fadd_drp (b : Nat) (f : Fld) (v : Nat) (s : State) : (fadd b f v s).drp = s.drp := rfl
@[simp] theorem fadd_fab (b : Nat) (f : Fld) (v : Nat) (s : State) : (fadd b f v s).fab = s.fab := rfl
@[simp] theorem fadd_gzl (b : Nat) (f : Fld) (v : Nat) (s : State) : (fadd b f v s).gzl = s.gzl := rfl
@[simp] theorem fadd_sec (b : Nat) (f : Fld) (v : Nat) (s : State) : (fadd b f v s).sec = s.sec := rfl
@[simp] theorem fadd_stool (b : Nat) (f : Fld) (v : Nat) (s : State) : (fadd b f v s).stool = s.stool := rfl
@[simp] theorem fadd_pwr (b : Nat) (f : Fld) (v : Nat) (s : State) : (fadd b f v s).pwr = s.pwr := rfl
@[simp] theorem fadd_col (b : Nat) (f : Fld) (v : Nat) (s : State) : (fadd b f v s).col = s.col := rfl
@[simp] theorem fadd_host (b : Nat) (f : Fld) (v : Nat) (s : State) : (fadd b f v s).host = s.host := rfl
@[simp] theorem fadd_nv (b : Nat) (f : Fld) (v : Nat) (s : State) : (fadd b f v s).nv = s.nv := rfl
@[simp] theorem fadd_boot (b : Nat) (f : Fld) (v : Nat) (s : State) : (fadd b f v s).boot = s.boot := rfl
@[simp] theorem fadd_rst (b : Nat) (f : Fld) (v : Nat) (s : State) : (fadd b f v s).rst = s.rst := rfl
@[simp] theorem fadd_fwu (b : Nat) (f : Fld) (v : Nat) (s : State) : (fadd b f v s).fwu = s.fwu := rfl
@[simp] theorem fadd_mgmt (b : Nat) (f : Fld) (v : Nat) (s : State) : (fadd b f v s).mgmt = s.mgmt := rfl
@[simp] theorem fadd_spdm (b : Nat) (f : Fld) (v : Nat) (s : State) : (fadd b f v s).spdm = s.spdm := rfl
@[simp] theorem fadd_tap (b : Nat) (f : Fld) (v : Nat) (s : State) : (fadd b f v s).tap = s.tap := rfl
@[simp] theorem fadd_busyParts (b : Nat) (f : Fld) (v : Nat) (s : State) : (fadd b f v s).busyParts = s.busyParts := rfl
@[simp] theorem fadd_computeReset (b : Nat) (f : Fld) (v : Nat) (s : State) : (fadd b f v s).computeReset = s.computeReset := rfl
@[simp] theorem fadd_out (b : Nat) (f : Fld) (v : Nat) (s : State) : (fadd b f v s).out = s.out := rfl
@[simp] theorem fadd_freeCtr (b : Nat) (f : Fld) (v : Nat) (s : State) : (fadd b f v s).freeCtr = s.freeCtr := rfl
@[simp] theorem fadd_pending (b : Nat) (f : Fld) (v : Nat) (s : State) : (fadd b f v s).pending = s.pending := rfl

@[simp] theorem faddSat_clk (b : Nat) (f : Fld) (v : Nat) (s : State) : (faddSat b f v s).clk = s.clk := rfl
@[simp] theorem faddSat_latches (b : Nat) (f : Fld) (v : Nat) (s : State) : (faddSat b f v s).latches = s.latches := rfl
@[simp] theorem faddSat_handoffs (b : Nat) (f : Fld) (v : Nat) (s : State) : (faddSat b f v s).handoffs = s.handoffs := rfl
@[simp] theorem faddSat_cores (b : Nat) (f : Fld) (v : Nat) (s : State) : (faddSat b f v s).cores = s.cores := rfl
@[simp] theorem faddSat_progs (b : Nat) (f : Fld) (v : Nat) (s : State) : (faddSat b f v s).progs = s.progs := rfl
@[simp] theorem faddSat_loading (b : Nat) (f : Fld) (v : Nat) (s : State) : (faddSat b f v s).loading = s.loading := rfl
@[simp] theorem faddSat_insts (b : Nat) (f : Fld) (v : Nat) (s : State) : (faddSat b f v s).insts = s.insts := rfl
@[simp] theorem faddSat_instNo (b : Nat) (f : Fld) (v : Nat) (s : State) : (faddSat b f v s).instNo = s.instNo := rfl
@[simp] theorem faddSat_queues (b : Nat) (f : Fld) (v : Nat) (s : State) : (faddSat b f v s).queues = s.queues := rfl
@[simp] theorem faddSat_bells (b : Nat) (f : Fld) (v : Nat) (s : State) : (faddSat b f v s).bells = s.bells := rfl
@[simp] theorem faddSat_armed (b : Nat) (f : Fld) (v : Nat) (s : State) : (faddSat b f v s).armed = s.armed := rfl
@[simp] theorem faddSat_waiters (b : Nat) (f : Fld) (v : Nat) (s : State) : (faddSat b f v s).waiters = s.waiters := rfl
@[simp] theorem faddSat_mem (b : Nat) (f : Fld) (v : Nat) (s : State) : (faddSat b f v s).mem = s.mem := rfl
@[simp] theorem faddSat_flash (b : Nat) (f : Fld) (v : Nat) (s : State) : (faddSat b f v s).flash = s.flash := rfl
@[simp] theorem faddSat_ecc (b : Nat) (f : Fld) (v : Nat) (s : State) : (faddSat b f v s).ecc = s.ecc := rfl
@[simp] theorem faddSat_chans (b : Nat) (f : Fld) (v : Nat) (s : State) : (faddSat b f v s).chans = s.chans := rfl
@[simp] theorem faddSat_cab (b : Nat) (f : Fld) (v : Nat) (s : State) : (faddSat b f v s).cab = s.cab := rfl
@[simp] theorem faddSat_bur (b : Nat) (f : Fld) (v : Nat) (s : State) : (faddSat b f v s).bur = s.bur := rfl
@[simp] theorem faddSat_perf (b : Nat) (f : Fld) (v : Nat) (s : State) : (faddSat b f v s).perf = s.perf := rfl
@[simp] theorem faddSat_drp (b : Nat) (f : Fld) (v : Nat) (s : State) : (faddSat b f v s).drp = s.drp := rfl
@[simp] theorem faddSat_fab (b : Nat) (f : Fld) (v : Nat) (s : State) : (faddSat b f v s).fab = s.fab := rfl
@[simp] theorem faddSat_gzl (b : Nat) (f : Fld) (v : Nat) (s : State) : (faddSat b f v s).gzl = s.gzl := rfl
@[simp] theorem faddSat_sec (b : Nat) (f : Fld) (v : Nat) (s : State) : (faddSat b f v s).sec = s.sec := rfl
@[simp] theorem faddSat_stool (b : Nat) (f : Fld) (v : Nat) (s : State) : (faddSat b f v s).stool = s.stool := rfl
@[simp] theorem faddSat_pwr (b : Nat) (f : Fld) (v : Nat) (s : State) : (faddSat b f v s).pwr = s.pwr := rfl
@[simp] theorem faddSat_col (b : Nat) (f : Fld) (v : Nat) (s : State) : (faddSat b f v s).col = s.col := rfl
@[simp] theorem faddSat_host (b : Nat) (f : Fld) (v : Nat) (s : State) : (faddSat b f v s).host = s.host := rfl
@[simp] theorem faddSat_nv (b : Nat) (f : Fld) (v : Nat) (s : State) : (faddSat b f v s).nv = s.nv := rfl
@[simp] theorem faddSat_boot (b : Nat) (f : Fld) (v : Nat) (s : State) : (faddSat b f v s).boot = s.boot := rfl
@[simp] theorem faddSat_rst (b : Nat) (f : Fld) (v : Nat) (s : State) : (faddSat b f v s).rst = s.rst := rfl
@[simp] theorem faddSat_fwu (b : Nat) (f : Fld) (v : Nat) (s : State) : (faddSat b f v s).fwu = s.fwu := rfl
@[simp] theorem faddSat_mgmt (b : Nat) (f : Fld) (v : Nat) (s : State) : (faddSat b f v s).mgmt = s.mgmt := rfl
@[simp] theorem faddSat_spdm (b : Nat) (f : Fld) (v : Nat) (s : State) : (faddSat b f v s).spdm = s.spdm := rfl
@[simp] theorem faddSat_tap (b : Nat) (f : Fld) (v : Nat) (s : State) : (faddSat b f v s).tap = s.tap := rfl
@[simp] theorem faddSat_busyParts (b : Nat) (f : Fld) (v : Nat) (s : State) : (faddSat b f v s).busyParts = s.busyParts := rfl
@[simp] theorem faddSat_computeReset (b : Nat) (f : Fld) (v : Nat) (s : State) : (faddSat b f v s).computeReset = s.computeReset := rfl
@[simp] theorem faddSat_out (b : Nat) (f : Fld) (v : Nat) (s : State) : (faddSat b f v s).out = s.out := rfl
@[simp] theorem faddSat_freeCtr (b : Nat) (f : Fld) (v : Nat) (s : State) : (faddSat b f v s).freeCtr = s.freeCtr := rfl
@[simp] theorem faddSat_pending (b : Nat) (f : Fld) (v : Nat) (s : State) : (faddSat b f v s).pending = s.pending := rfl

@[simp] theorem evtQuiet_clk (b : Nat) (e : Evt) (s : State) : (evtQuiet b e s).clk = s.clk := rfl
@[simp] theorem evtQuiet_latches (b : Nat) (e : Evt) (s : State) : (evtQuiet b e s).latches = s.latches := rfl
@[simp] theorem evtQuiet_handoffs (b : Nat) (e : Evt) (s : State) : (evtQuiet b e s).handoffs = s.handoffs := rfl
@[simp] theorem evtQuiet_cores (b : Nat) (e : Evt) (s : State) : (evtQuiet b e s).cores = s.cores := rfl
@[simp] theorem evtQuiet_progs (b : Nat) (e : Evt) (s : State) : (evtQuiet b e s).progs = s.progs := rfl
@[simp] theorem evtQuiet_loading (b : Nat) (e : Evt) (s : State) : (evtQuiet b e s).loading = s.loading := rfl
@[simp] theorem evtQuiet_insts (b : Nat) (e : Evt) (s : State) : (evtQuiet b e s).insts = s.insts := rfl
@[simp] theorem evtQuiet_instNo (b : Nat) (e : Evt) (s : State) : (evtQuiet b e s).instNo = s.instNo := rfl
@[simp] theorem evtQuiet_queues (b : Nat) (e : Evt) (s : State) : (evtQuiet b e s).queues = s.queues := rfl
@[simp] theorem evtQuiet_bells (b : Nat) (e : Evt) (s : State) : (evtQuiet b e s).bells = s.bells := rfl
@[simp] theorem evtQuiet_armed (b : Nat) (e : Evt) (s : State) : (evtQuiet b e s).armed = s.armed := rfl
@[simp] theorem evtQuiet_waiters (b : Nat) (e : Evt) (s : State) : (evtQuiet b e s).waiters = s.waiters := rfl
@[simp] theorem evtQuiet_mem (b : Nat) (e : Evt) (s : State) : (evtQuiet b e s).mem = s.mem := rfl
@[simp] theorem evtQuiet_flash (b : Nat) (e : Evt) (s : State) : (evtQuiet b e s).flash = s.flash := rfl
@[simp] theorem evtQuiet_ecc (b : Nat) (e : Evt) (s : State) : (evtQuiet b e s).ecc = s.ecc := rfl
@[simp] theorem evtQuiet_chans (b : Nat) (e : Evt) (s : State) : (evtQuiet b e s).chans = s.chans := rfl
@[simp] theorem evtQuiet_cab (b : Nat) (e : Evt) (s : State) : (evtQuiet b e s).cab = s.cab := rfl
@[simp] theorem evtQuiet_bur (b : Nat) (e : Evt) (s : State) : (evtQuiet b e s).bur = s.bur := rfl
@[simp] theorem evtQuiet_perf (b : Nat) (e : Evt) (s : State) : (evtQuiet b e s).perf = s.perf := rfl
@[simp] theorem evtQuiet_drp (b : Nat) (e : Evt) (s : State) : (evtQuiet b e s).drp = s.drp := rfl
@[simp] theorem evtQuiet_fab (b : Nat) (e : Evt) (s : State) : (evtQuiet b e s).fab = s.fab := rfl
@[simp] theorem evtQuiet_gzl (b : Nat) (e : Evt) (s : State) : (evtQuiet b e s).gzl = s.gzl := rfl
@[simp] theorem evtQuiet_sec (b : Nat) (e : Evt) (s : State) : (evtQuiet b e s).sec = s.sec := rfl
@[simp] theorem evtQuiet_stool (b : Nat) (e : Evt) (s : State) : (evtQuiet b e s).stool = s.stool := rfl
@[simp] theorem evtQuiet_pwr (b : Nat) (e : Evt) (s : State) : (evtQuiet b e s).pwr = s.pwr := rfl
@[simp] theorem evtQuiet_col (b : Nat) (e : Evt) (s : State) : (evtQuiet b e s).col = s.col := rfl
@[simp] theorem evtQuiet_host (b : Nat) (e : Evt) (s : State) : (evtQuiet b e s).host = s.host := rfl
@[simp] theorem evtQuiet_nv (b : Nat) (e : Evt) (s : State) : (evtQuiet b e s).nv = s.nv := rfl
@[simp] theorem evtQuiet_boot (b : Nat) (e : Evt) (s : State) : (evtQuiet b e s).boot = s.boot := rfl
@[simp] theorem evtQuiet_rst (b : Nat) (e : Evt) (s : State) : (evtQuiet b e s).rst = s.rst := rfl
@[simp] theorem evtQuiet_fwu (b : Nat) (e : Evt) (s : State) : (evtQuiet b e s).fwu = s.fwu := rfl
@[simp] theorem evtQuiet_mgmt (b : Nat) (e : Evt) (s : State) : (evtQuiet b e s).mgmt = s.mgmt := rfl
@[simp] theorem evtQuiet_spdm (b : Nat) (e : Evt) (s : State) : (evtQuiet b e s).spdm = s.spdm := rfl
@[simp] theorem evtQuiet_tap (b : Nat) (e : Evt) (s : State) : (evtQuiet b e s).tap = s.tap := rfl
@[simp] theorem evtQuiet_busyParts (b : Nat) (e : Evt) (s : State) : (evtQuiet b e s).busyParts = s.busyParts := rfl
@[simp] theorem evtQuiet_computeReset (b : Nat) (e : Evt) (s : State) : (evtQuiet b e s).computeReset = s.computeReset := rfl
@[simp] theorem evtQuiet_out (b : Nat) (e : Evt) (s : State) : (evtQuiet b e s).out = s.out := rfl
@[simp] theorem evtQuiet_freeCtr (b : Nat) (e : Evt) (s : State) : (evtQuiet b e s).freeCtr = s.freeCtr := rfl
@[simp] theorem evtQuiet_pending (b : Nat) (e : Evt) (s : State) : (evtQuiet b e s).pending = s.pending := rfl

@[simp] theorem emit_clk (o : Out) (s : State) : (emit o s).clk = s.clk := rfl
@[simp] theorem emit_regs (o : Out) (s : State) : (emit o s).regs = s.regs := rfl
@[simp] theorem emit_latches (o : Out) (s : State) : (emit o s).latches = s.latches := rfl
@[simp] theorem emit_handoffs (o : Out) (s : State) : (emit o s).handoffs = s.handoffs := rfl
@[simp] theorem emit_cores (o : Out) (s : State) : (emit o s).cores = s.cores := rfl
@[simp] theorem emit_progs (o : Out) (s : State) : (emit o s).progs = s.progs := rfl
@[simp] theorem emit_loading (o : Out) (s : State) : (emit o s).loading = s.loading := rfl
@[simp] theorem emit_insts (o : Out) (s : State) : (emit o s).insts = s.insts := rfl
@[simp] theorem emit_instNo (o : Out) (s : State) : (emit o s).instNo = s.instNo := rfl
@[simp] theorem emit_queues (o : Out) (s : State) : (emit o s).queues = s.queues := rfl
@[simp] theorem emit_bells (o : Out) (s : State) : (emit o s).bells = s.bells := rfl
@[simp] theorem emit_armed (o : Out) (s : State) : (emit o s).armed = s.armed := rfl
@[simp] theorem emit_waiters (o : Out) (s : State) : (emit o s).waiters = s.waiters := rfl
@[simp] theorem emit_mem (o : Out) (s : State) : (emit o s).mem = s.mem := rfl
@[simp] theorem emit_flash (o : Out) (s : State) : (emit o s).flash = s.flash := rfl
@[simp] theorem emit_ecc (o : Out) (s : State) : (emit o s).ecc = s.ecc := rfl
@[simp] theorem emit_chans (o : Out) (s : State) : (emit o s).chans = s.chans := rfl
@[simp] theorem emit_cab (o : Out) (s : State) : (emit o s).cab = s.cab := rfl
@[simp] theorem emit_bur (o : Out) (s : State) : (emit o s).bur = s.bur := rfl
@[simp] theorem emit_perf (o : Out) (s : State) : (emit o s).perf = s.perf := rfl
@[simp] theorem emit_drp (o : Out) (s : State) : (emit o s).drp = s.drp := rfl
@[simp] theorem emit_fab (o : Out) (s : State) : (emit o s).fab = s.fab := rfl
@[simp] theorem emit_gzl (o : Out) (s : State) : (emit o s).gzl = s.gzl := rfl
@[simp] theorem emit_sec (o : Out) (s : State) : (emit o s).sec = s.sec := rfl
@[simp] theorem emit_stool (o : Out) (s : State) : (emit o s).stool = s.stool := rfl
@[simp] theorem emit_pwr (o : Out) (s : State) : (emit o s).pwr = s.pwr := rfl
@[simp] theorem emit_col (o : Out) (s : State) : (emit o s).col = s.col := rfl
@[simp] theorem emit_host (o : Out) (s : State) : (emit o s).host = s.host := rfl
@[simp] theorem emit_nv (o : Out) (s : State) : (emit o s).nv = s.nv := rfl
@[simp] theorem emit_boot (o : Out) (s : State) : (emit o s).boot = s.boot := rfl
@[simp] theorem emit_rst (o : Out) (s : State) : (emit o s).rst = s.rst := rfl
@[simp] theorem emit_fwu (o : Out) (s : State) : (emit o s).fwu = s.fwu := rfl
@[simp] theorem emit_mgmt (o : Out) (s : State) : (emit o s).mgmt = s.mgmt := rfl
@[simp] theorem emit_spdm (o : Out) (s : State) : (emit o s).spdm = s.spdm := rfl
@[simp] theorem emit_tap (o : Out) (s : State) : (emit o s).tap = s.tap := rfl
@[simp] theorem emit_busyParts (o : Out) (s : State) : (emit o s).busyParts = s.busyParts := rfl
@[simp] theorem emit_computeReset (o : Out) (s : State) : (emit o s).computeReset = s.computeReset := rfl
@[simp] theorem emit_freeCtr (o : Out) (s : State) : (emit o s).freeCtr = s.freeCtr := rfl
@[simp] theorem emit_pending (o : Out) (s : State) : (emit o s).pending = s.pending := rfl

@[simp] theorem setCore_clk (c : Nat) (x : Core) (s : State) : (setCore c x s).clk = s.clk := rfl
@[simp] theorem setCore_regs (c : Nat) (x : Core) (s : State) : (setCore c x s).regs = s.regs := rfl
@[simp] theorem setCore_latches (c : Nat) (x : Core) (s : State) : (setCore c x s).latches = s.latches := rfl
@[simp] theorem setCore_handoffs (c : Nat) (x : Core) (s : State) : (setCore c x s).handoffs = s.handoffs := rfl
@[simp] theorem setCore_progs (c : Nat) (x : Core) (s : State) : (setCore c x s).progs = s.progs := rfl
@[simp] theorem setCore_loading (c : Nat) (x : Core) (s : State) : (setCore c x s).loading = s.loading := rfl
@[simp] theorem setCore_insts (c : Nat) (x : Core) (s : State) : (setCore c x s).insts = s.insts := rfl
@[simp] theorem setCore_instNo (c : Nat) (x : Core) (s : State) : (setCore c x s).instNo = s.instNo := rfl
@[simp] theorem setCore_queues (c : Nat) (x : Core) (s : State) : (setCore c x s).queues = s.queues := rfl
@[simp] theorem setCore_bells (c : Nat) (x : Core) (s : State) : (setCore c x s).bells = s.bells := rfl
@[simp] theorem setCore_armed (c : Nat) (x : Core) (s : State) : (setCore c x s).armed = s.armed := rfl
@[simp] theorem setCore_waiters (c : Nat) (x : Core) (s : State) : (setCore c x s).waiters = s.waiters := rfl
@[simp] theorem setCore_mem (c : Nat) (x : Core) (s : State) : (setCore c x s).mem = s.mem := rfl
@[simp] theorem setCore_flash (c : Nat) (x : Core) (s : State) : (setCore c x s).flash = s.flash := rfl
@[simp] theorem setCore_ecc (c : Nat) (x : Core) (s : State) : (setCore c x s).ecc = s.ecc := rfl
@[simp] theorem setCore_chans (c : Nat) (x : Core) (s : State) : (setCore c x s).chans = s.chans := rfl
@[simp] theorem setCore_cab (c : Nat) (x : Core) (s : State) : (setCore c x s).cab = s.cab := rfl
@[simp] theorem setCore_bur (c : Nat) (x : Core) (s : State) : (setCore c x s).bur = s.bur := rfl
@[simp] theorem setCore_perf (c : Nat) (x : Core) (s : State) : (setCore c x s).perf = s.perf := rfl
@[simp] theorem setCore_drp (c : Nat) (x : Core) (s : State) : (setCore c x s).drp = s.drp := rfl
@[simp] theorem setCore_fab (c : Nat) (x : Core) (s : State) : (setCore c x s).fab = s.fab := rfl
@[simp] theorem setCore_gzl (c : Nat) (x : Core) (s : State) : (setCore c x s).gzl = s.gzl := rfl
@[simp] theorem setCore_sec (c : Nat) (x : Core) (s : State) : (setCore c x s).sec = s.sec := rfl
@[simp] theorem setCore_stool (c : Nat) (x : Core) (s : State) : (setCore c x s).stool = s.stool := rfl
@[simp] theorem setCore_pwr (c : Nat) (x : Core) (s : State) : (setCore c x s).pwr = s.pwr := rfl
@[simp] theorem setCore_col (c : Nat) (x : Core) (s : State) : (setCore c x s).col = s.col := rfl
@[simp] theorem setCore_host (c : Nat) (x : Core) (s : State) : (setCore c x s).host = s.host := rfl
@[simp] theorem setCore_nv (c : Nat) (x : Core) (s : State) : (setCore c x s).nv = s.nv := rfl
@[simp] theorem setCore_boot (c : Nat) (x : Core) (s : State) : (setCore c x s).boot = s.boot := rfl
@[simp] theorem setCore_rst (c : Nat) (x : Core) (s : State) : (setCore c x s).rst = s.rst := rfl
@[simp] theorem setCore_fwu (c : Nat) (x : Core) (s : State) : (setCore c x s).fwu = s.fwu := rfl
@[simp] theorem setCore_mgmt (c : Nat) (x : Core) (s : State) : (setCore c x s).mgmt = s.mgmt := rfl
@[simp] theorem setCore_spdm (c : Nat) (x : Core) (s : State) : (setCore c x s).spdm = s.spdm := rfl
@[simp] theorem setCore_tap (c : Nat) (x : Core) (s : State) : (setCore c x s).tap = s.tap := rfl
@[simp] theorem setCore_busyParts (c : Nat) (x : Core) (s : State) : (setCore c x s).busyParts = s.busyParts := rfl
@[simp] theorem setCore_computeReset (c : Nat) (x : Core) (s : State) : (setCore c x s).computeReset = s.computeReset := rfl
@[simp] theorem setCore_out (c : Nat) (x : Core) (s : State) : (setCore c x s).out = s.out := rfl
@[simp] theorem setCore_freeCtr (c : Nat) (x : Core) (s : State) : (setCore c x s).freeCtr = s.freeCtr := rfl
@[simp] theorem setCore_pending (c : Nat) (x : Core) (s : State) : (setCore c x s).pending = s.pending := rfl

@[simp] theorem modCore_clk (c : Nat) (f : Core → Core) (s : State) : (modCore c f s).clk = s.clk := rfl
@[simp] theorem modCore_regs (c : Nat) (f : Core → Core) (s : State) : (modCore c f s).regs = s.regs := rfl
@[simp] theorem modCore_latches (c : Nat) (f : Core → Core) (s : State) : (modCore c f s).latches = s.latches := rfl
@[simp] theorem modCore_handoffs (c : Nat) (f : Core → Core) (s : State) : (modCore c f s).handoffs = s.handoffs := rfl
@[simp] theorem modCore_progs (c : Nat) (f : Core → Core) (s : State) : (modCore c f s).progs = s.progs := rfl
@[simp] theorem modCore_loading (c : Nat) (f : Core → Core) (s : State) : (modCore c f s).loading = s.loading := rfl
@[simp] theorem modCore_insts (c : Nat) (f : Core → Core) (s : State) : (modCore c f s).insts = s.insts := rfl
@[simp] theorem modCore_instNo (c : Nat) (f : Core → Core) (s : State) : (modCore c f s).instNo = s.instNo := rfl
@[simp] theorem modCore_queues (c : Nat) (f : Core → Core) (s : State) : (modCore c f s).queues = s.queues := rfl
@[simp] theorem modCore_bells (c : Nat) (f : Core → Core) (s : State) : (modCore c f s).bells = s.bells := rfl
@[simp] theorem modCore_armed (c : Nat) (f : Core → Core) (s : State) : (modCore c f s).armed = s.armed := rfl
@[simp] theorem modCore_waiters (c : Nat) (f : Core → Core) (s : State) : (modCore c f s).waiters = s.waiters := rfl
@[simp] theorem modCore_mem (c : Nat) (f : Core → Core) (s : State) : (modCore c f s).mem = s.mem := rfl
@[simp] theorem modCore_flash (c : Nat) (f : Core → Core) (s : State) : (modCore c f s).flash = s.flash := rfl
@[simp] theorem modCore_ecc (c : Nat) (f : Core → Core) (s : State) : (modCore c f s).ecc = s.ecc := rfl
@[simp] theorem modCore_chans (c : Nat) (f : Core → Core) (s : State) : (modCore c f s).chans = s.chans := rfl
@[simp] theorem modCore_cab (c : Nat) (f : Core → Core) (s : State) : (modCore c f s).cab = s.cab := rfl
@[simp] theorem modCore_bur (c : Nat) (f : Core → Core) (s : State) : (modCore c f s).bur = s.bur := rfl
@[simp] theorem modCore_perf (c : Nat) (f : Core → Core) (s : State) : (modCore c f s).perf = s.perf := rfl
@[simp] theorem modCore_drp (c : Nat) (f : Core → Core) (s : State) : (modCore c f s).drp = s.drp := rfl
@[simp] theorem modCore_fab (c : Nat) (f : Core → Core) (s : State) : (modCore c f s).fab = s.fab := rfl
@[simp] theorem modCore_gzl (c : Nat) (f : Core → Core) (s : State) : (modCore c f s).gzl = s.gzl := rfl
@[simp] theorem modCore_sec (c : Nat) (f : Core → Core) (s : State) : (modCore c f s).sec = s.sec := rfl
@[simp] theorem modCore_stool (c : Nat) (f : Core → Core) (s : State) : (modCore c f s).stool = s.stool := rfl
@[simp] theorem modCore_pwr (c : Nat) (f : Core → Core) (s : State) : (modCore c f s).pwr = s.pwr := rfl
@[simp] theorem modCore_col (c : Nat) (f : Core → Core) (s : State) : (modCore c f s).col = s.col := rfl
@[simp] theorem modCore_host (c : Nat) (f : Core → Core) (s : State) : (modCore c f s).host = s.host := rfl
@[simp] theorem modCore_nv (c : Nat) (f : Core → Core) (s : State) : (modCore c f s).nv = s.nv := rfl
@[simp] theorem modCore_boot (c : Nat) (f : Core → Core) (s : State) : (modCore c f s).boot = s.boot := rfl
@[simp] theorem modCore_rst (c : Nat) (f : Core → Core) (s : State) : (modCore c f s).rst = s.rst := rfl
@[simp] theorem modCore_fwu (c : Nat) (f : Core → Core) (s : State) : (modCore c f s).fwu = s.fwu := rfl
@[simp] theorem modCore_mgmt (c : Nat) (f : Core → Core) (s : State) : (modCore c f s).mgmt = s.mgmt := rfl
@[simp] theorem modCore_spdm (c : Nat) (f : Core → Core) (s : State) : (modCore c f s).spdm = s.spdm := rfl
@[simp] theorem modCore_tap (c : Nat) (f : Core → Core) (s : State) : (modCore c f s).tap = s.tap := rfl
@[simp] theorem modCore_busyParts (c : Nat) (f : Core → Core) (s : State) : (modCore c f s).busyParts = s.busyParts := rfl
@[simp] theorem modCore_computeReset (c : Nat) (f : Core → Core) (s : State) : (modCore c f s).computeReset = s.computeReset := rfl
@[simp] theorem modCore_out (c : Nat) (f : Core → Core) (s : State) : (modCore c f s).out = s.out := rfl
@[simp] theorem modCore_freeCtr (c : Nat) (f : Core → Core) (s : State) : (modCore c f s).freeCtr = s.freeCtr := rfl
@[simp] theorem modCore_pending (c : Nat) (f : Core → Core) (s : State) : (modCore c f s).pending = s.pending := rfl

@[simp] theorem setQueue_clk (q : Nat) (x : Queue) (s : State) : (setQueue q x s).clk = s.clk := rfl
@[simp] theorem setQueue_regs (q : Nat) (x : Queue) (s : State) : (setQueue q x s).regs = s.regs := rfl
@[simp] theorem setQueue_latches (q : Nat) (x : Queue) (s : State) : (setQueue q x s).latches = s.latches := rfl
@[simp] theorem setQueue_handoffs (q : Nat) (x : Queue) (s : State) : (setQueue q x s).handoffs = s.handoffs := rfl
@[simp] theorem setQueue_cores (q : Nat) (x : Queue) (s : State) : (setQueue q x s).cores = s.cores := rfl
@[simp] theorem setQueue_progs (q : Nat) (x : Queue) (s : State) : (setQueue q x s).progs = s.progs := rfl
@[simp] theorem setQueue_loading (q : Nat) (x : Queue) (s : State) : (setQueue q x s).loading = s.loading := rfl
@[simp] theorem setQueue_insts (q : Nat) (x : Queue) (s : State) : (setQueue q x s).insts = s.insts := rfl
@[simp] theorem setQueue_instNo (q : Nat) (x : Queue) (s : State) : (setQueue q x s).instNo = s.instNo := rfl
@[simp] theorem setQueue_bells (q : Nat) (x : Queue) (s : State) : (setQueue q x s).bells = s.bells := rfl
@[simp] theorem setQueue_armed (q : Nat) (x : Queue) (s : State) : (setQueue q x s).armed = s.armed := rfl
@[simp] theorem setQueue_waiters (q : Nat) (x : Queue) (s : State) : (setQueue q x s).waiters = s.waiters := rfl
@[simp] theorem setQueue_mem (q : Nat) (x : Queue) (s : State) : (setQueue q x s).mem = s.mem := rfl
@[simp] theorem setQueue_flash (q : Nat) (x : Queue) (s : State) : (setQueue q x s).flash = s.flash := rfl
@[simp] theorem setQueue_ecc (q : Nat) (x : Queue) (s : State) : (setQueue q x s).ecc = s.ecc := rfl
@[simp] theorem setQueue_chans (q : Nat) (x : Queue) (s : State) : (setQueue q x s).chans = s.chans := rfl
@[simp] theorem setQueue_cab (q : Nat) (x : Queue) (s : State) : (setQueue q x s).cab = s.cab := rfl
@[simp] theorem setQueue_bur (q : Nat) (x : Queue) (s : State) : (setQueue q x s).bur = s.bur := rfl
@[simp] theorem setQueue_perf (q : Nat) (x : Queue) (s : State) : (setQueue q x s).perf = s.perf := rfl
@[simp] theorem setQueue_drp (q : Nat) (x : Queue) (s : State) : (setQueue q x s).drp = s.drp := rfl
@[simp] theorem setQueue_fab (q : Nat) (x : Queue) (s : State) : (setQueue q x s).fab = s.fab := rfl
@[simp] theorem setQueue_gzl (q : Nat) (x : Queue) (s : State) : (setQueue q x s).gzl = s.gzl := rfl
@[simp] theorem setQueue_sec (q : Nat) (x : Queue) (s : State) : (setQueue q x s).sec = s.sec := rfl
@[simp] theorem setQueue_stool (q : Nat) (x : Queue) (s : State) : (setQueue q x s).stool = s.stool := rfl
@[simp] theorem setQueue_pwr (q : Nat) (x : Queue) (s : State) : (setQueue q x s).pwr = s.pwr := rfl
@[simp] theorem setQueue_col (q : Nat) (x : Queue) (s : State) : (setQueue q x s).col = s.col := rfl
@[simp] theorem setQueue_host (q : Nat) (x : Queue) (s : State) : (setQueue q x s).host = s.host := rfl
@[simp] theorem setQueue_nv (q : Nat) (x : Queue) (s : State) : (setQueue q x s).nv = s.nv := rfl
@[simp] theorem setQueue_boot (q : Nat) (x : Queue) (s : State) : (setQueue q x s).boot = s.boot := rfl
@[simp] theorem setQueue_rst (q : Nat) (x : Queue) (s : State) : (setQueue q x s).rst = s.rst := rfl
@[simp] theorem setQueue_fwu (q : Nat) (x : Queue) (s : State) : (setQueue q x s).fwu = s.fwu := rfl
@[simp] theorem setQueue_mgmt (q : Nat) (x : Queue) (s : State) : (setQueue q x s).mgmt = s.mgmt := rfl
@[simp] theorem setQueue_spdm (q : Nat) (x : Queue) (s : State) : (setQueue q x s).spdm = s.spdm := rfl
@[simp] theorem setQueue_tap (q : Nat) (x : Queue) (s : State) : (setQueue q x s).tap = s.tap := rfl
@[simp] theorem setQueue_busyParts (q : Nat) (x : Queue) (s : State) : (setQueue q x s).busyParts = s.busyParts := rfl
@[simp] theorem setQueue_computeReset (q : Nat) (x : Queue) (s : State) : (setQueue q x s).computeReset = s.computeReset := rfl
@[simp] theorem setQueue_out (q : Nat) (x : Queue) (s : State) : (setQueue q x s).out = s.out := rfl
@[simp] theorem setQueue_freeCtr (q : Nat) (x : Queue) (s : State) : (setQueue q x s).freeCtr = s.freeCtr := rfl
@[simp] theorem setQueue_pending (q : Nat) (x : Queue) (s : State) : (setQueue q x s).pending = s.pending := rfl

@[simp] theorem setSlot_clk (i : Nat) (x : ProgSlot) (s : State) : (setSlot i x s).clk = s.clk := rfl
@[simp] theorem setSlot_regs (i : Nat) (x : ProgSlot) (s : State) : (setSlot i x s).regs = s.regs := rfl
@[simp] theorem setSlot_latches (i : Nat) (x : ProgSlot) (s : State) : (setSlot i x s).latches = s.latches := rfl
@[simp] theorem setSlot_handoffs (i : Nat) (x : ProgSlot) (s : State) : (setSlot i x s).handoffs = s.handoffs := rfl
@[simp] theorem setSlot_cores (i : Nat) (x : ProgSlot) (s : State) : (setSlot i x s).cores = s.cores := rfl
@[simp] theorem setSlot_loading (i : Nat) (x : ProgSlot) (s : State) : (setSlot i x s).loading = s.loading := rfl
@[simp] theorem setSlot_insts (i : Nat) (x : ProgSlot) (s : State) : (setSlot i x s).insts = s.insts := rfl
@[simp] theorem setSlot_instNo (i : Nat) (x : ProgSlot) (s : State) : (setSlot i x s).instNo = s.instNo := rfl
@[simp] theorem setSlot_queues (i : Nat) (x : ProgSlot) (s : State) : (setSlot i x s).queues = s.queues := rfl
@[simp] theorem setSlot_bells (i : Nat) (x : ProgSlot) (s : State) : (setSlot i x s).bells = s.bells := rfl
@[simp] theorem setSlot_armed (i : Nat) (x : ProgSlot) (s : State) : (setSlot i x s).armed = s.armed := rfl
@[simp] theorem setSlot_waiters (i : Nat) (x : ProgSlot) (s : State) : (setSlot i x s).waiters = s.waiters := rfl
@[simp] theorem setSlot_mem (i : Nat) (x : ProgSlot) (s : State) : (setSlot i x s).mem = s.mem := rfl
@[simp] theorem setSlot_flash (i : Nat) (x : ProgSlot) (s : State) : (setSlot i x s).flash = s.flash := rfl
@[simp] theorem setSlot_ecc (i : Nat) (x : ProgSlot) (s : State) : (setSlot i x s).ecc = s.ecc := rfl
@[simp] theorem setSlot_chans (i : Nat) (x : ProgSlot) (s : State) : (setSlot i x s).chans = s.chans := rfl
@[simp] theorem setSlot_cab (i : Nat) (x : ProgSlot) (s : State) : (setSlot i x s).cab = s.cab := rfl
@[simp] theorem setSlot_bur (i : Nat) (x : ProgSlot) (s : State) : (setSlot i x s).bur = s.bur := rfl
@[simp] theorem setSlot_perf (i : Nat) (x : ProgSlot) (s : State) : (setSlot i x s).perf = s.perf := rfl
@[simp] theorem setSlot_drp (i : Nat) (x : ProgSlot) (s : State) : (setSlot i x s).drp = s.drp := rfl
@[simp] theorem setSlot_fab (i : Nat) (x : ProgSlot) (s : State) : (setSlot i x s).fab = s.fab := rfl
@[simp] theorem setSlot_gzl (i : Nat) (x : ProgSlot) (s : State) : (setSlot i x s).gzl = s.gzl := rfl
@[simp] theorem setSlot_sec (i : Nat) (x : ProgSlot) (s : State) : (setSlot i x s).sec = s.sec := rfl
@[simp] theorem setSlot_stool (i : Nat) (x : ProgSlot) (s : State) : (setSlot i x s).stool = s.stool := rfl
@[simp] theorem setSlot_pwr (i : Nat) (x : ProgSlot) (s : State) : (setSlot i x s).pwr = s.pwr := rfl
@[simp] theorem setSlot_col (i : Nat) (x : ProgSlot) (s : State) : (setSlot i x s).col = s.col := rfl
@[simp] theorem setSlot_host (i : Nat) (x : ProgSlot) (s : State) : (setSlot i x s).host = s.host := rfl
@[simp] theorem setSlot_nv (i : Nat) (x : ProgSlot) (s : State) : (setSlot i x s).nv = s.nv := rfl
@[simp] theorem setSlot_boot (i : Nat) (x : ProgSlot) (s : State) : (setSlot i x s).boot = s.boot := rfl
@[simp] theorem setSlot_rst (i : Nat) (x : ProgSlot) (s : State) : (setSlot i x s).rst = s.rst := rfl
@[simp] theorem setSlot_fwu (i : Nat) (x : ProgSlot) (s : State) : (setSlot i x s).fwu = s.fwu := rfl
@[simp] theorem setSlot_mgmt (i : Nat) (x : ProgSlot) (s : State) : (setSlot i x s).mgmt = s.mgmt := rfl
@[simp] theorem setSlot_spdm (i : Nat) (x : ProgSlot) (s : State) : (setSlot i x s).spdm = s.spdm := rfl
@[simp] theorem setSlot_tap (i : Nat) (x : ProgSlot) (s : State) : (setSlot i x s).tap = s.tap := rfl
@[simp] theorem setSlot_busyParts (i : Nat) (x : ProgSlot) (s : State) : (setSlot i x s).busyParts = s.busyParts := rfl
@[simp] theorem setSlot_computeReset (i : Nat) (x : ProgSlot) (s : State) : (setSlot i x s).computeReset = s.computeReset := rfl
@[simp] theorem setSlot_out (i : Nat) (x : ProgSlot) (s : State) : (setSlot i x s).out = s.out := rfl
@[simp] theorem setSlot_freeCtr (i : Nat) (x : ProgSlot) (s : State) : (setSlot i x s).freeCtr = s.freeCtr := rfl
@[simp] theorem setSlot_pending (i : Nat) (x : ProgSlot) (s : State) : (setSlot i x s).pending = s.pending := rfl

@[simp] theorem ctrSet_clk (b : CtrBlk) (i : Nat) (x : Counter) (s : State) : (ctrSet b i x s).clk = s.clk := rfl
@[simp] theorem ctrSet_regs (b : CtrBlk) (i : Nat) (x : Counter) (s : State) : (ctrSet b i x s).regs = s.regs := rfl
@[simp] theorem ctrSet_latches (b : CtrBlk) (i : Nat) (x : Counter) (s : State) : (ctrSet b i x s).latches = s.latches := rfl
@[simp] theorem ctrSet_handoffs (b : CtrBlk) (i : Nat) (x : Counter) (s : State) : (ctrSet b i x s).handoffs = s.handoffs := rfl
@[simp] theorem ctrSet_cores (b : CtrBlk) (i : Nat) (x : Counter) (s : State) : (ctrSet b i x s).cores = s.cores := rfl
@[simp] theorem ctrSet_progs (b : CtrBlk) (i : Nat) (x : Counter) (s : State) : (ctrSet b i x s).progs = s.progs := rfl
@[simp] theorem ctrSet_loading (b : CtrBlk) (i : Nat) (x : Counter) (s : State) : (ctrSet b i x s).loading = s.loading := rfl
@[simp] theorem ctrSet_insts (b : CtrBlk) (i : Nat) (x : Counter) (s : State) : (ctrSet b i x s).insts = s.insts := rfl
@[simp] theorem ctrSet_instNo (b : CtrBlk) (i : Nat) (x : Counter) (s : State) : (ctrSet b i x s).instNo = s.instNo := rfl
@[simp] theorem ctrSet_queues (b : CtrBlk) (i : Nat) (x : Counter) (s : State) : (ctrSet b i x s).queues = s.queues := rfl
@[simp] theorem ctrSet_bells (b : CtrBlk) (i : Nat) (x : Counter) (s : State) : (ctrSet b i x s).bells = s.bells := rfl
@[simp] theorem ctrSet_armed (b : CtrBlk) (i : Nat) (x : Counter) (s : State) : (ctrSet b i x s).armed = s.armed := rfl
@[simp] theorem ctrSet_waiters (b : CtrBlk) (i : Nat) (x : Counter) (s : State) : (ctrSet b i x s).waiters = s.waiters := rfl
@[simp] theorem ctrSet_mem (b : CtrBlk) (i : Nat) (x : Counter) (s : State) : (ctrSet b i x s).mem = s.mem := rfl
@[simp] theorem ctrSet_flash (b : CtrBlk) (i : Nat) (x : Counter) (s : State) : (ctrSet b i x s).flash = s.flash := rfl
@[simp] theorem ctrSet_ecc (b : CtrBlk) (i : Nat) (x : Counter) (s : State) : (ctrSet b i x s).ecc = s.ecc := rfl
@[simp] theorem ctrSet_chans (b : CtrBlk) (i : Nat) (x : Counter) (s : State) : (ctrSet b i x s).chans = s.chans := rfl
@[simp] theorem ctrSet_cab (b : CtrBlk) (i : Nat) (x : Counter) (s : State) : (ctrSet b i x s).cab = s.cab := rfl
@[simp] theorem ctrSet_bur (b : CtrBlk) (i : Nat) (x : Counter) (s : State) : (ctrSet b i x s).bur = s.bur := rfl
@[simp] theorem ctrSet_drp (b : CtrBlk) (i : Nat) (x : Counter) (s : State) : (ctrSet b i x s).drp = s.drp := rfl
@[simp] theorem ctrSet_fab (b : CtrBlk) (i : Nat) (x : Counter) (s : State) : (ctrSet b i x s).fab = s.fab := rfl
@[simp] theorem ctrSet_gzl (b : CtrBlk) (i : Nat) (x : Counter) (s : State) : (ctrSet b i x s).gzl = s.gzl := rfl
@[simp] theorem ctrSet_sec (b : CtrBlk) (i : Nat) (x : Counter) (s : State) : (ctrSet b i x s).sec = s.sec := rfl
@[simp] theorem ctrSet_stool (b : CtrBlk) (i : Nat) (x : Counter) (s : State) : (ctrSet b i x s).stool = s.stool := rfl
@[simp] theorem ctrSet_pwr (b : CtrBlk) (i : Nat) (x : Counter) (s : State) : (ctrSet b i x s).pwr = s.pwr := rfl
@[simp] theorem ctrSet_col (b : CtrBlk) (i : Nat) (x : Counter) (s : State) : (ctrSet b i x s).col = s.col := rfl
@[simp] theorem ctrSet_host (b : CtrBlk) (i : Nat) (x : Counter) (s : State) : (ctrSet b i x s).host = s.host := rfl
@[simp] theorem ctrSet_nv (b : CtrBlk) (i : Nat) (x : Counter) (s : State) : (ctrSet b i x s).nv = s.nv := rfl
@[simp] theorem ctrSet_boot (b : CtrBlk) (i : Nat) (x : Counter) (s : State) : (ctrSet b i x s).boot = s.boot := rfl
@[simp] theorem ctrSet_rst (b : CtrBlk) (i : Nat) (x : Counter) (s : State) : (ctrSet b i x s).rst = s.rst := rfl
@[simp] theorem ctrSet_fwu (b : CtrBlk) (i : Nat) (x : Counter) (s : State) : (ctrSet b i x s).fwu = s.fwu := rfl
@[simp] theorem ctrSet_mgmt (b : CtrBlk) (i : Nat) (x : Counter) (s : State) : (ctrSet b i x s).mgmt = s.mgmt := rfl
@[simp] theorem ctrSet_spdm (b : CtrBlk) (i : Nat) (x : Counter) (s : State) : (ctrSet b i x s).spdm = s.spdm := rfl
@[simp] theorem ctrSet_tap (b : CtrBlk) (i : Nat) (x : Counter) (s : State) : (ctrSet b i x s).tap = s.tap := rfl
@[simp] theorem ctrSet_busyParts (b : CtrBlk) (i : Nat) (x : Counter) (s : State) : (ctrSet b i x s).busyParts = s.busyParts := rfl
@[simp] theorem ctrSet_computeReset (b : CtrBlk) (i : Nat) (x : Counter) (s : State) : (ctrSet b i x s).computeReset = s.computeReset := rfl
@[simp] theorem ctrSet_out (b : CtrBlk) (i : Nat) (x : Counter) (s : State) : (ctrSet b i x s).out = s.out := rfl
@[simp] theorem ctrSet_freeCtr (b : CtrBlk) (i : Nat) (x : Counter) (s : State) : (ctrSet b i x s).freeCtr = s.freeCtr := rfl
@[simp] theorem ctrSet_pending (b : CtrBlk) (i : Nat) (x : Counter) (s : State) : (ctrSet b i x s).pending = s.pending := rfl

@[simp] theorem setMark_clk (a v : Nat) (s : State) : (setMark a v s).clk = s.clk := rfl
@[simp] theorem setMark_regs (a v : Nat) (s : State) : (setMark a v s).regs = s.regs := rfl
@[simp] theorem setMark_latches (a v : Nat) (s : State) : (setMark a v s).latches = s.latches := rfl
@[simp] theorem setMark_handoffs (a v : Nat) (s : State) : (setMark a v s).handoffs = s.handoffs := rfl
@[simp] theorem setMark_cores (a v : Nat) (s : State) : (setMark a v s).cores = s.cores := rfl
@[simp] theorem setMark_progs (a v : Nat) (s : State) : (setMark a v s).progs = s.progs := rfl
@[simp] theorem setMark_loading (a v : Nat) (s : State) : (setMark a v s).loading = s.loading := rfl
@[simp] theorem setMark_insts (a v : Nat) (s : State) : (setMark a v s).insts = s.insts := rfl
@[simp] theorem setMark_instNo (a v : Nat) (s : State) : (setMark a v s).instNo = s.instNo := rfl
@[simp] theorem setMark_queues (a v : Nat) (s : State) : (setMark a v s).queues = s.queues := rfl
@[simp] theorem setMark_bells (a v : Nat) (s : State) : (setMark a v s).bells = s.bells := rfl
@[simp] theorem setMark_armed (a v : Nat) (s : State) : (setMark a v s).armed = s.armed := rfl
@[simp] theorem setMark_waiters (a v : Nat) (s : State) : (setMark a v s).waiters = s.waiters := rfl
@[simp] theorem setMark_mem (a v : Nat) (s : State) : (setMark a v s).mem = s.mem := rfl
@[simp] theorem setMark_flash (a v : Nat) (s : State) : (setMark a v s).flash = s.flash := rfl
@[simp] theorem setMark_chans (a v : Nat) (s : State) : (setMark a v s).chans = s.chans := rfl
@[simp] theorem setMark_cab (a v : Nat) (s : State) : (setMark a v s).cab = s.cab := rfl
@[simp] theorem setMark_bur (a v : Nat) (s : State) : (setMark a v s).bur = s.bur := rfl
@[simp] theorem setMark_perf (a v : Nat) (s : State) : (setMark a v s).perf = s.perf := rfl
@[simp] theorem setMark_drp (a v : Nat) (s : State) : (setMark a v s).drp = s.drp := rfl
@[simp] theorem setMark_fab (a v : Nat) (s : State) : (setMark a v s).fab = s.fab := rfl
@[simp] theorem setMark_gzl (a v : Nat) (s : State) : (setMark a v s).gzl = s.gzl := rfl
@[simp] theorem setMark_sec (a v : Nat) (s : State) : (setMark a v s).sec = s.sec := rfl
@[simp] theorem setMark_stool (a v : Nat) (s : State) : (setMark a v s).stool = s.stool := rfl
@[simp] theorem setMark_pwr (a v : Nat) (s : State) : (setMark a v s).pwr = s.pwr := rfl
@[simp] theorem setMark_col (a v : Nat) (s : State) : (setMark a v s).col = s.col := rfl
@[simp] theorem setMark_host (a v : Nat) (s : State) : (setMark a v s).host = s.host := rfl
@[simp] theorem setMark_nv (a v : Nat) (s : State) : (setMark a v s).nv = s.nv := rfl
@[simp] theorem setMark_boot (a v : Nat) (s : State) : (setMark a v s).boot = s.boot := rfl
@[simp] theorem setMark_rst (a v : Nat) (s : State) : (setMark a v s).rst = s.rst := rfl
@[simp] theorem setMark_fwu (a v : Nat) (s : State) : (setMark a v s).fwu = s.fwu := rfl
@[simp] theorem setMark_mgmt (a v : Nat) (s : State) : (setMark a v s).mgmt = s.mgmt := rfl
@[simp] theorem setMark_spdm (a v : Nat) (s : State) : (setMark a v s).spdm = s.spdm := rfl
@[simp] theorem setMark_tap (a v : Nat) (s : State) : (setMark a v s).tap = s.tap := rfl
@[simp] theorem setMark_busyParts (a v : Nat) (s : State) : (setMark a v s).busyParts = s.busyParts := rfl
@[simp] theorem setMark_computeReset (a v : Nat) (s : State) : (setMark a v s).computeReset = s.computeReset := rfl
@[simp] theorem setMark_out (a v : Nat) (s : State) : (setMark a v s).out = s.out := rfl
@[simp] theorem setMark_freeCtr (a v : Nat) (s : State) : (setMark a v s).freeCtr = s.freeCtr := rfl
@[simp] theorem setMark_pending (a v : Nat) (s : State) : (setMark a v s).pending = s.pending := rfl

@[simp] theorem memSet_clk (a n : Nat) (sl : Tbl Byte) (s : State) : (memSet a n sl s).clk = s.clk := rfl
@[simp] theorem memSet_regs (a n : Nat) (sl : Tbl Byte) (s : State) : (memSet a n sl s).regs = s.regs := rfl
@[simp] theorem memSet_latches (a n : Nat) (sl : Tbl Byte) (s : State) : (memSet a n sl s).latches = s.latches := rfl
@[simp] theorem memSet_handoffs (a n : Nat) (sl : Tbl Byte) (s : State) : (memSet a n sl s).handoffs = s.handoffs := rfl
@[simp] theorem memSet_cores (a n : Nat) (sl : Tbl Byte) (s : State) : (memSet a n sl s).cores = s.cores := rfl
@[simp] theorem memSet_progs (a n : Nat) (sl : Tbl Byte) (s : State) : (memSet a n sl s).progs = s.progs := rfl
@[simp] theorem memSet_loading (a n : Nat) (sl : Tbl Byte) (s : State) : (memSet a n sl s).loading = s.loading := rfl
@[simp] theorem memSet_insts (a n : Nat) (sl : Tbl Byte) (s : State) : (memSet a n sl s).insts = s.insts := rfl
@[simp] theorem memSet_instNo (a n : Nat) (sl : Tbl Byte) (s : State) : (memSet a n sl s).instNo = s.instNo := rfl
@[simp] theorem memSet_queues (a n : Nat) (sl : Tbl Byte) (s : State) : (memSet a n sl s).queues = s.queues := rfl
@[simp] theorem memSet_bells (a n : Nat) (sl : Tbl Byte) (s : State) : (memSet a n sl s).bells = s.bells := rfl
@[simp] theorem memSet_armed (a n : Nat) (sl : Tbl Byte) (s : State) : (memSet a n sl s).armed = s.armed := rfl
@[simp] theorem memSet_waiters (a n : Nat) (sl : Tbl Byte) (s : State) : (memSet a n sl s).waiters = s.waiters := rfl
@[simp] theorem memSet_flash (a n : Nat) (sl : Tbl Byte) (s : State) : (memSet a n sl s).flash = s.flash := rfl
@[simp] theorem memSet_ecc (a n : Nat) (sl : Tbl Byte) (s : State) : (memSet a n sl s).ecc = s.ecc := rfl
@[simp] theorem memSet_chans (a n : Nat) (sl : Tbl Byte) (s : State) : (memSet a n sl s).chans = s.chans := rfl
@[simp] theorem memSet_cab (a n : Nat) (sl : Tbl Byte) (s : State) : (memSet a n sl s).cab = s.cab := rfl
@[simp] theorem memSet_bur (a n : Nat) (sl : Tbl Byte) (s : State) : (memSet a n sl s).bur = s.bur := rfl
@[simp] theorem memSet_perf (a n : Nat) (sl : Tbl Byte) (s : State) : (memSet a n sl s).perf = s.perf := rfl
@[simp] theorem memSet_drp (a n : Nat) (sl : Tbl Byte) (s : State) : (memSet a n sl s).drp = s.drp := rfl
@[simp] theorem memSet_fab (a n : Nat) (sl : Tbl Byte) (s : State) : (memSet a n sl s).fab = s.fab := rfl
@[simp] theorem memSet_gzl (a n : Nat) (sl : Tbl Byte) (s : State) : (memSet a n sl s).gzl = s.gzl := rfl
@[simp] theorem memSet_sec (a n : Nat) (sl : Tbl Byte) (s : State) : (memSet a n sl s).sec = s.sec := rfl
@[simp] theorem memSet_stool (a n : Nat) (sl : Tbl Byte) (s : State) : (memSet a n sl s).stool = s.stool := rfl
@[simp] theorem memSet_pwr (a n : Nat) (sl : Tbl Byte) (s : State) : (memSet a n sl s).pwr = s.pwr := rfl
@[simp] theorem memSet_col (a n : Nat) (sl : Tbl Byte) (s : State) : (memSet a n sl s).col = s.col := rfl
@[simp] theorem memSet_host (a n : Nat) (sl : Tbl Byte) (s : State) : (memSet a n sl s).host = s.host := rfl
@[simp] theorem memSet_nv (a n : Nat) (sl : Tbl Byte) (s : State) : (memSet a n sl s).nv = s.nv := rfl
@[simp] theorem memSet_boot (a n : Nat) (sl : Tbl Byte) (s : State) : (memSet a n sl s).boot = s.boot := rfl
@[simp] theorem memSet_rst (a n : Nat) (sl : Tbl Byte) (s : State) : (memSet a n sl s).rst = s.rst := rfl
@[simp] theorem memSet_fwu (a n : Nat) (sl : Tbl Byte) (s : State) : (memSet a n sl s).fwu = s.fwu := rfl
@[simp] theorem memSet_mgmt (a n : Nat) (sl : Tbl Byte) (s : State) : (memSet a n sl s).mgmt = s.mgmt := rfl
@[simp] theorem memSet_spdm (a n : Nat) (sl : Tbl Byte) (s : State) : (memSet a n sl s).spdm = s.spdm := rfl
@[simp] theorem memSet_tap (a n : Nat) (sl : Tbl Byte) (s : State) : (memSet a n sl s).tap = s.tap := rfl
@[simp] theorem memSet_busyParts (a n : Nat) (sl : Tbl Byte) (s : State) : (memSet a n sl s).busyParts = s.busyParts := rfl
@[simp] theorem memSet_computeReset (a n : Nat) (sl : Tbl Byte) (s : State) : (memSet a n sl s).computeReset = s.computeReset := rfl
@[simp] theorem memSet_out (a n : Nat) (sl : Tbl Byte) (s : State) : (memSet a n sl s).out = s.out := rfl
@[simp] theorem memSet_freeCtr (a n : Nat) (sl : Tbl Byte) (s : State) : (memSet a n sl s).freeCtr = s.freeCtr := rfl
@[simp] theorem memSet_pending (a n : Nat) (sl : Tbl Byte) (s : State) : (memSet a n sl s).pending = s.pending := rfl

@[simp] theorem emit_out (o : Out) (s : State) : (emit o s).out = s.out ++ [o] := rfl
@[simp] theorem memSet_mem (a n : Nat) (sl : Tbl Byte) (s : State) :
    (memSet a n sl s).mem = tput a n (tclean 0 n sl) s.mem := rfl

@[simp] theorem getCore_setCore_same (c : Nat) (x : Core) (s : State) : getCore c (setCore c x s) = x :=
  tget_tset_same _ _ _ _
theorem getCore_setCore_ne {c d : Nat} (h : d ≠ c) (x : Core) (s : State) : getCore d (setCore c x s) = getCore d s :=
  tget_tset_ne _ h _ _
@[simp] theorem getCore_modCore_same (c : Nat) (f : Core → Core) (s : State) : getCore c (modCore c f s) = f (getCore c s) :=
  getCore_setCore_same _ _ _
theorem getCore_modCore_ne {c d : Nat} (h : d ≠ c) (f : Core → Core) (s : State) :
    getCore d (modCore c f s) = getCore d s := getCore_setCore_ne h _ _
@[simp] theorem getQueue_setQueue_same (q : Nat) (x : Queue) (s : State) : getQueue q (setQueue q x s) = x :=
  tget_tset_same _ _ _ _
theorem getQueue_setQueue_ne {q r : Nat} (h : r ≠ q) (x : Queue) (s : State) :
    getQueue r (setQueue q x s) = getQueue r s := tget_tset_ne _ h _ _
@[simp] theorem getSlot_setSlot_same (i : Nat) (x : ProgSlot) (s : State) : getSlot i (setSlot i x s) = x :=
  tget_tset_same _ _ _ _
theorem getSlot_setSlot_ne {i j : Nat} (h : j ≠ i) (x : ProgSlot) (s : State) :
    getSlot j (setSlot i x s) = getSlot j s := tget_tset_ne _ h _ _
@[simp] theorem ctrGet_ctrSet_same (b : CtrBlk) (i : Nat) (x : Counter) (s : State) : ctrGet b i (ctrSet b i x s) = x :=
  tget_tset_same _ _ _ _

end Sys2Proof.Machine
end

