-- ==== Sys2Proof/Laws/Kept.lean ====
section
/-! SUPPORT. What no operation of the package loses: the canonical form of the memory and of the flash, a lifecycle state
that exists, and the values of the monotonic counters LC, SECVER and KEYSET, which never fall (R407, R408). One lemma for
each operation that gives a state, from the shared operations up; the meanings of the rows are made of these. -/

namespace Sys2Proof.Machine

/-- From the first state to the second, nothing is lost. -/
structure Kept (a b : State) : Prop where
  mem     : Memory.wf a.mem = true → Memory.wf b.mem = true
  flash   : Memory.wf a.flash = true → Memory.wf b.flash = true
  lc      : a.nv.lc ≤ b.nv.lc
  secver  : a.nv.secver.toNat ≤ b.nv.secver.toNat
  keyset  : a.nv.keyset.toNat ≤ b.nv.keyset.toNat
  legal   : a.nv.lc ≤ 3 → b.nv.lc ≤ 3
  pending : b.pending = a.pending
  out     : ∃ l, b.out = a.out ++ l
  now     : a.clk.now ≤ b.clk.now

theorem Kept.refl (a : State) : Kept a a :=
  ⟨id, id, le_refl _, le_refl _, le_refl _, id, rfl, ⟨[], by simp⟩, le_refl _⟩

theorem Kept.ite {a : State} {c : Prop} [Decidable c] {x y : State} (h : c → Kept a x) (h' : ¬ c → Kept a y) : Kept
    a (if c then x else y) := by
  split <;> simp_all
theorem Kept.pr2 {α : Type} {p : α × State} {a : State} {x : α} {t : State} (h : p = (x, t)) (hk : Kept a p.2) :
    Kept a t := by
  subst h; exact hk
theorem Kept.pr1 {α : Type} {p : State × α} {a : State} {x : α} {t : State} (h : p = (t, x)) (hk : Kept a p.1) :
    Kept a t := by
  subst h; exact hk
theorem Kept.pr3 {α β : Type} {p : α × β × State} {a : State} {x : α} {y : β} {t : State} (h : p = (x, y, t)) (hk :
    Kept a p.2.2) : Kept a t := by
  subst h; exact hk
theorem Kept.foldl {α : Type} {a : State} (f : State → α → State) (hf : ∀ s x, Kept a s → Kept a (f s x)) :
    ∀ (l : List α) (s : State), Kept a s → Kept a (l.foldl f s)
  | [], _, h => h
  | x :: l, s, h => Kept.foldl f hf l (f s x) (hf s x h)
theorem Kept.foldl2 {α β : Type} {a : State} (f : β × State → α → β × State) (hf : ∀ p x, Kept a p.2 → Kept a (f p
    x).2) :
    ∀ (l : List α) (s : β × State), Kept a s.2 → Kept a (l.foldl f s).2
  | [], _, h => h
  | x :: l, s, h => Kept.foldl2 f hf l (f s x) (hf s x h)
theorem Kept.foldl1 {α β : Type} {a : State} (f : State × β → α → State × β) (hf : ∀ p x, Kept a p.1 → Kept a (f p
    x).1) :
    ∀ (l : List α) (s : State × β), Kept a s.1 → Kept a (l.foldl f s).1
  | [], _, h => h
  | x :: l, s, h => Kept.foldl1 f hf l (f s x) (hf s x h)

/-- An update of other fields loses nothing. -/
theorem Kept.upd {a b : State} (regs_ : Tbl Word) (latches_ : Tbl Word) (handoffs_ : Tbl Handoff) (cores_ : Tbl
    Core) (progs_ : Tbl ProgSlot) (loading_ : Option Loading) (insts_ : List Inst) (instNo_ : Nat) (queues_ : Tbl
    Queue) (bells_ : List HeldBell) (armed_ : List (Nat × Word)) (waiters_ : List Waiter) (ecc_ : Tbl Nat) (chans_ : Tbl (Nat
    × Bool)) (cab_ : Cab) (bur_ : Bureau) (perf_ : Perf) (drp_ : Drp) (fab_ : Fab) (gzl_ : Gzl) (sec_ : Sec) (stool_
    : Stool) (pwr_ : Pwr) (col_ : Col) (host_ : HostIf) (boot_ : Boot) (rst_ : Rst) (fwu_ : Fwu) (mgmt_ : Mgmt)
    (spdm_ : Spdm) (tap_ : Tap) (busyParts_ : Nat) (computeReset_ : Bool) (freeCtr_ : Nat) (h : Kept a b) : Kept a
    ⟨b.clk, regs_, latches_, handoffs_, cores_, progs_, loading_, insts_, instNo_, queues_, bells_, armed_,
    waiters_, b.mem, b.flash, ecc_, chans_, cab_, bur_, perf_, drp_, fab_, gzl_, sec_, stool_, pwr_, col_, host_,
    b.nv, boot_, rst_, fwu_, mgmt_, spdm_, tap_, busyParts_, computeReset_, b.out, freeCtr_, b.pending⟩ :=
  ⟨h.mem, h.flash, h.lc, h.secver, h.keyset, h.legal, h.pending, h.out, h.now⟩

theorem Kept.mkclk {a b : State} (clk_ : Clk) (regs_ : Tbl Word) (latches_ : Tbl Word) (handoffs_ : Tbl Handoff)
    (cores_ : Tbl Core) (progs_ : Tbl ProgSlot) (loading_ : Option Loading) (insts_ : List Inst) (instNo_ : Nat)
    (queues_ : Tbl Queue) (bells_ : List HeldBell) (armed_ : List (Nat × Word)) (waiters_ : List Waiter) (ecc_ : Tbl Nat)
    (chans_ : Tbl (Nat × Bool)) (cab_ : Cab) (bur_ : Bureau) (perf_ : Perf) (drp_ : Drp) (fab_ : Fab) (gzl_ : Gzl)
    (sec_ : Sec) (stool_ : Stool) (pwr_ : Pwr) (col_ : Col) (host_ : HostIf) (boot_ : Boot) (rst_ : Rst) (fwu_ :
    Fwu) (mgmt_ : Mgmt) (spdm_ : Spdm) (tap_ : Tap) (busyParts_ : Nat) (computeReset_ : Bool) (freeCtr_ : Nat) (h :
    Kept a b) (h1 : b.clk.now ≤ clk_.now) : Kept a ⟨clk_, regs_, latches_, handoffs_, cores_, progs_, loading_,
    insts_, instNo_, queues_, bells_, armed_, waiters_, b.mem, b.flash, ecc_, chans_, cab_, bur_, perf_, drp_, fab_,
    gzl_, sec_, stool_, pwr_, col_, host_, b.nv, boot_, rst_, fwu_, mgmt_, spdm_, tap_, busyParts_, computeReset_,
    b.out, freeCtr_, b.pending⟩ :=
  ⟨h.mem, h.flash, h.lc, h.secver, h.keyset, h.legal, h.pending, h.out, le_trans h.now h1⟩

theorem Kept.mknv {a b : State} (regs_ : Tbl Word) (latches_ : Tbl Word) (handoffs_ : Tbl Handoff) (cores_ : Tbl
    Core) (progs_ : Tbl ProgSlot) (loading_ : Option Loading) (insts_ : List Inst) (instNo_ : Nat) (queues_ : Tbl
    Queue) (bells_ : List HeldBell) (armed_ : List (Nat × Word)) (waiters_ : List Waiter) (ecc_ : Tbl Nat) (chans_ : Tbl (Nat
    × Bool)) (cab_ : Cab) (bur_ : Bureau) (perf_ : Perf) (drp_ : Drp) (fab_ : Fab) (gzl_ : Gzl) (sec_ : Sec) (stool_
    : Stool) (pwr_ : Pwr) (col_ : Col) (host_ : HostIf) (nv_ : Nv) (boot_ : Boot) (rst_ : Rst) (fwu_ : Fwu) (mgmt_ :
    Mgmt) (spdm_ : Spdm) (tap_ : Tap) (busyParts_ : Nat) (computeReset_ : Bool) (freeCtr_ : Nat) (h : Kept a b) (h1
    : nv_.lc = b.nv.lc) (h2 : nv_.secver = b.nv.secver) (h3 : nv_.keyset = b.nv.keyset) : Kept a ⟨b.clk, regs_,
    latches_, handoffs_, cores_, progs_, loading_, insts_, instNo_, queues_, bells_, armed_, waiters_, b.mem,
    b.flash, ecc_, chans_, cab_, bur_, perf_, drp_, fab_, gzl_, sec_, stool_, pwr_, col_, host_, nv_, boot_, rst_,
    fwu_, mgmt_, spdm_, tap_, busyParts_, computeReset_, b.out, freeCtr_, b.pending⟩ :=
  ⟨h.mem, h.flash, h1 ▸ h.lc, h2 ▸ h.secver, h3 ▸ h.keyset, h1 ▸ h.legal, h.pending, h.out, h.now⟩

theorem Kept.mkmem {a b : State} (regs_ : Tbl Word) (latches_ : Tbl Word) (handoffs_ : Tbl Handoff) (cores_ : Tbl
    Core) (progs_ : Tbl ProgSlot) (loading_ : Option Loading) (insts_ : List Inst) (instNo_ : Nat) (queues_ : Tbl
    Queue) (bells_ : List HeldBell) (armed_ : List (Nat × Word)) (waiters_ : List Waiter) (mem_ : List Host.Cell) (ecc_ : Tbl
    Nat) (chans_ : Tbl (Nat × Bool)) (cab_ : Cab) (bur_ : Bureau) (perf_ : Perf) (drp_ : Drp) (fab_ : Fab) (gzl_ :
    Gzl) (sec_ : Sec) (stool_ : Stool) (pwr_ : Pwr) (col_ : Col) (host_ : HostIf) (boot_ : Boot) (rst_ : Rst) (fwu_
    : Fwu) (mgmt_ : Mgmt) (spdm_ : Spdm) (tap_ : Tap) (busyParts_ : Nat) (computeReset_ : Bool) (freeCtr_ : Nat) (h
    : Kept a b) (h1 : Memory.wf b.mem = true → Memory.wf mem_ = true) : Kept a ⟨b.clk, regs_, latches_, handoffs_,
    cores_, progs_, loading_, insts_, instNo_, queues_, bells_, armed_, waiters_, mem_, b.flash, ecc_, chans_, cab_,
    bur_, perf_, drp_, fab_, gzl_, sec_, stool_, pwr_, col_, host_, b.nv, boot_, rst_, fwu_, mgmt_, spdm_, tap_,
    busyParts_, computeReset_, b.out, freeCtr_, b.pending⟩ :=
  ⟨fun x => h1 (h.mem x), h.flash, h.lc, h.secver, h.keyset, h.legal, h.pending, h.out, h.now⟩

theorem Kept.mkflash {a b : State} (regs_ : Tbl Word) (latches_ : Tbl Word) (handoffs_ : Tbl Handoff) (cores_ : Tbl
    Core) (progs_ : Tbl ProgSlot) (loading_ : Option Loading) (insts_ : List Inst) (instNo_ : Nat) (queues_ : Tbl
    Queue) (bells_ : List HeldBell) (armed_ : List (Nat × Word)) (waiters_ : List Waiter) (flash_ : List Host.Cell) (ecc_ :
    Tbl Nat) (chans_ : Tbl (Nat × Bool)) (cab_ : Cab) (bur_ : Bureau) (perf_ : Perf) (drp_ : Drp) (fab_ : Fab) (gzl_
    : Gzl) (sec_ : Sec) (stool_ : Stool) (pwr_ : Pwr) (col_ : Col) (host_ : HostIf) (nv_ : Nv) (boot_ : Boot) (rst_
    : Rst) (fwu_ : Fwu) (mgmt_ : Mgmt) (spdm_ : Spdm) (tap_ : Tap) (busyParts_ : Nat) (computeReset_ : Bool)
    (freeCtr_ : Nat) (h : Kept a b) (h0 : Memory.wf b.flash = true → Memory.wf flash_ = true) (h1 : nv_.lc =
    b.nv.lc) (h2 : nv_.secver = b.nv.secver) (h3 : nv_.keyset = b.nv.keyset) : Kept a ⟨b.clk, regs_, latches_,
    handoffs_, cores_, progs_, loading_, insts_, instNo_, queues_, bells_, armed_, waiters_, b.mem, flash_, ecc_,
    chans_, cab_, bur_, perf_, drp_, fab_, gzl_, sec_, stool_, pwr_, col_, host_, nv_, boot_, rst_, fwu_, mgmt_,
    spdm_, tap_, busyParts_, computeReset_, b.out, freeCtr_, b.pending⟩ :=
  ⟨h.mem, fun x => h0 (h.flash x), h1 ▸ h.lc, h2 ▸ h.secver, h3 ▸ h.keyset, h1 ▸ h.legal, h.pending, h.out, h.now⟩



/-! Operations of Machine/Ops.lean. -/

theorem regSet_kept {s0 : State} (off : Nat) (v : Word) (s : State) (hk : Kept s0 s) : Kept s0 (regSet off v s) := by
  unfold regSet
  try dsimp only
  repeat' first
    | with_reducible exact hk
    | fail_if_no_progress (with_reducible apply Kept.upd)

theorem fset_kept {s0 : State} (b : Nat) (f : Fld) (v : Nat) (s : State) (hk : Kept s0 s) : Kept s0 (fset b f v s) :=
    by
  unfold fset
  try dsimp only
  repeat' first
    | with_reducible exact hk
    | with_reducible apply regSet_kept

theorem fadd_kept {s0 : State} (b : Nat) (f : Fld) (v : Nat) (s : State) (hk : Kept s0 s) : Kept s0 (fadd b f v s) :=
    by
  unfold fadd
  try dsimp only
  repeat' first
    | with_reducible exact hk
    | with_reducible apply fset_kept

theorem faddSat_kept {s0 : State} (b : Nat) (f : Fld) (v : Nat) (s : State) (hk : Kept s0 s) : Kept s0 (faddSat b f v
    s) := by
  unfold faddSat
  try dsimp only
  repeat' first
    | with_reducible exact hk
    | with_reducible apply fset_kept

theorem noteFired_kept {s0 : State} (f v : Nat) (s : State) (hk : Kept s0 s) : Kept s0 (noteFired f v s) := by
  unfold noteFired
  try dsimp only
  repeat' first
    | with_reducible exact hk
    | with_reducible refine Kept.ite (fun _ => ?_) (fun _ => ?_)
    | fail_if_no_progress (with_reducible apply Kept.upd)
    | split

theorem raiseMsix_kept {s0 : State} (f v : Nat) (s : State) (hk : Kept s0 s) : Kept s0 (raiseMsix f v s) := by
  unfold raiseMsix
  try dsimp only
  repeat' first
    | with_reducible exact hk
    | with_reducible apply noteFired_kept
    | with_reducible refine Kept.ite (fun _ => ?_) (fun _ => ?_)
    | fail_if_no_progress (with_reducible apply Kept.upd)
    | with_reducible assumption
    | intro _
    | split

theorem raiseVec_kept {s0 : State} (f v : Nat) (s : State) (hk : Kept s0 s) : Kept s0 (raiseVec f v s) := by
  unfold raiseVec
  try dsimp only
  repeat' first
    | with_reducible exact hk
    | with_reducible apply faddSat_kept
    | with_reducible apply raiseMsix_kept
    | with_reducible refine Kept.ite (fun _ => ?_) (fun _ => ?_)
    | split

theorem evt_kept {s0 : State} (b : Nat) (e : Evt) (s : State) (hk : Kept s0 s) : Kept s0 (evt b e s) := by
  unfold evt
  try dsimp only
  repeat' first
    | with_reducible exact hk
    | with_reducible apply fset_kept
    | with_reducible apply faddSat_kept
    | with_reducible apply raiseMsix_kept
    | with_reducible assumption
    | intro _
    | split

theorem evtQuiet_kept {s0 : State} (b : Nat) (e : Evt) (s : State) (hk : Kept s0 s) : Kept s0 (evtQuiet b e s) := by
  unfold evtQuiet
  try dsimp only
  repeat' first
    | with_reducible exact hk
    | with_reducible apply fset_kept
    | with_reducible apply faddSat_kept

theorem emit_kept {s0 : State} (o : Out) (s : State) (hk : Kept s0 s) : Kept s0 (emit o s) := by
  obtain ⟨l, hl⟩ := hk.out
  exact ⟨hk.mem, hk.flash, hk.lc, hk.secver, hk.keyset, hk.legal, hk.pending, ⟨l ++ [o], by simp [hl]⟩, hk.now⟩

theorem bumpFree_kept {s0 : State} (s : State) (hk : Kept s0 s) : Kept s0 (bumpFree s) := by
  unfold bumpFree
  try dsimp only
  repeat' first
    | with_reducible exact hk
    | fail_if_no_progress (with_reducible apply Kept.upd)

theorem setSync_kept {s0 : State} (v : Nat) (s : State) (hk : Kept s0 s) : Kept s0 (setSync v s) := by
  unfold setSync
  try dsimp only
  repeat' first
    | with_reducible exact hk
    | with_reducible apply fset_kept
    | with_reducible refine Kept.ite (fun _ => ?_) (fun _ => ?_)
    | split

theorem setPace_kept {s0 : State} (v : Nat) (s : State) (hk : Kept s0 s) : Kept s0 (setPace v s) := by
  unfold setPace
  try dsimp only
  repeat' first
    | with_reducible exact hk
    | with_reducible apply fset_kept
    | with_reducible refine Kept.ite (fun _ => ?_) (fun _ => ?_)
    | split

theorem setCore_kept {s0 : State} (c : Nat) (x : Core) (s : State) (hk : Kept s0 s) : Kept s0 (setCore c x s) := by
  unfold setCore
  try dsimp only
  repeat' first
    | with_reducible exact hk
    | fail_if_no_progress (with_reducible apply Kept.upd)
    | with_reducible assumption
    | intro _

theorem modCore_kept {s0 : State} (c : Nat) (f : Core → Core) (s : State) (hk : Kept s0 s) : Kept s0 (modCore c f s)
    := by
  unfold modCore
  try dsimp only
  repeat' first
    | with_reducible exact hk
    | with_reducible apply setCore_kept

theorem setQueue_kept {s0 : State} (q : Nat) (x : Queue) (s : State) (hk : Kept s0 s) : Kept s0 (setQueue q x s) := by
  unfold setQueue
  try dsimp only
  repeat' first
    | with_reducible exact hk
    | fail_if_no_progress (with_reducible apply Kept.upd)
    | with_reducible assumption
    | intro _

theorem setSlot_kept {s0 : State} (i : Nat) (x : ProgSlot) (s : State) (hk : Kept s0 s) : Kept s0 (setSlot i x s) :=
    by
  unfold setSlot
  try dsimp only
  repeat' first
    | with_reducible exact hk
    | fail_if_no_progress (with_reducible apply Kept.upd)
    | with_reducible assumption
    | intro _

theorem forAll_kept {s0 : State} {α : Type} (l : List α) (f : α → State → State) (s : State) (hf : ∀ x s, Kept s0 s
    → Kept s0 (f x s)) (h : Kept s0 s) : Kept s0 (forAll l f s) := by
  unfold forAll; exact Kept.foldl _ (fun s x h => hf x s h) l s h

theorem ctrSet_kept {s0 : State} (b : CtrBlk) (i : Nat) (x : Counter) (s : State) (hk : Kept s0 s) : Kept s0 (ctrSet b
    i x s) := by
  unfold ctrSet
  try dsimp only
  repeat' first
    | with_reducible exact hk
    | fail_if_no_progress (with_reducible apply Kept.upd)
    | with_reducible assumption
    | intro _

theorem ctrBump_kept {s0 : State} (b : CtrBlk) (x0_ : Nat) (x1_ : Nat) (x2_ : Nat) (x3_ : State) (h : Kept s0 x3_) :
    Kept s0 (ctrBump b x0_ x1_ x2_ x3_) := by
  induction x0_ generalizing x1_ x2_ x3_ with
  | zero => exact h
  | succ n ih =>
    unfold ctrBump; dsimp only
    split
    · exact ih _ _ _ (ctrSet_kept _ _ _ _ h)
    · exact ctrSet_kept _ _ _ _ h

theorem countEvt_kept {s0 : State} (b : CtrBlk) (code n : Nat) (s : State) (hk : Kept s0 s) : Kept s0 (countEvt b code
    n s) := by
  unfold countEvt
  try dsimp only
  repeat' first
    | with_reducible exact hk
    | with_reducible apply forAll_kept
    | with_reducible apply ctrBump_kept
    | with_reducible refine Kept.ite (fun _ => ?_) (fun _ => ?_)
    | with_reducible assumption
    | intro _
    | split

theorem ctrClear_kept {s0 : State} (b : CtrBlk) (s : State) (hk : Kept s0 s) : Kept s0 (ctrClear b s) := by
  unfold ctrClear
  try dsimp only
  repeat' first
    | with_reducible exact hk
    | with_reducible apply forAll_kept
    | with_reducible apply ctrSet_kept
    | with_reducible assumption
    | intro _

theorem burIrq_kept {s0 : State} (parts : Nat) (s : State) (hk : Kept s0 s) : Kept s0 (burIrq parts s) := by
  unfold burIrq
  try dsimp only
  repeat' first
    | with_reducible exact hk
    | with_reducible apply raiseMsix_kept
    | with_reducible apply forAll_kept
    | with_reducible assumption
    | intro _

theorem errNAssert_kept {s0 : State} (s : State) (hk : Kept s0 s) : Kept s0 (errNAssert s) := by
  unfold errNAssert
  try dsimp only
  repeat' first
    | with_reducible exact hk
    | with_reducible apply fset_kept
    | with_reducible refine Kept.ite (fun _ => ?_) (fun _ => ?_)
    | fail_if_no_progress (with_reducible apply Kept.upd)
    | split

theorem repeatRec_kept {s0 : State} (r : LogRec) (s : State) (hk : Kept s0 s) : Kept s0 (repeatRec r s) := by
  unfold repeatRec
  try dsimp only
  repeat' first
    | with_reducible exact hk
    | with_reducible refine Kept.ite (fun _ => ?_) (fun _ => ?_)
    | fail_if_no_progress (with_reducible apply Kept.upd)
    | with_reducible assumption
    | intro _
    | split

theorem moveRec_kept {s0 : State} (r : LogRec) (q : Word) (s : State) (hk : Kept s0 s) : Kept s0 (moveRec r q s) := by
  unfold moveRec
  try dsimp only
  repeat' first
    | with_reducible exact hk
    | with_reducible refine Kept.ite (fun _ => ?_) (fun _ => ?_)
    | fail_if_no_progress (with_reducible apply Kept.upd)
    | with_reducible assumption
    | intro _
    | split

theorem sortRec_kept {s0 : State} (n : Nat) (q : Word) (s : State) (hk : Kept s0 s) : Kept s0 (sortRec n q s) := by
  induction n generalizing q s with
  | zero => exact hk
  | succ n ih =>
    unfold sortRec
    dsimp only
    repeat' first
      | with_reducible exact hk
      | with_reducible apply ih
      | with_reducible apply regSet_kept
      | with_reducible apply moveRec_kept
      | with_reducible refine Kept.ite (fun _ => ?_) (fun _ => ?_)
      | split

theorem newRec_kept {s0 : State} (tm : BitVec 48 × BitVec 16) (cls react code source parts info0 info1 : Nat) (s :
    State) (hk : Kept s0 s) : Kept s0 (newRec tm cls react code source parts info0 info1 s) := by
  unfold newRec
  try dsimp only
  repeat' first
    | with_reducible exact hk
    | with_reducible apply regSet_kept
    | with_reducible apply sortRec_kept
    | with_reducible refine Kept.ite (fun _ => ?_) (fun _ => ?_)
    | fail_if_no_progress (with_reducible apply Kept.upd)
    | with_reducible assumption
    | intro _
    | split

theorem logFaultAt_kept {s0 : State} (tm : BitVec 48 × BitVec 16) (code source parts info0 info1 : Nat) (s : State)
    (hk : Kept s0 s) : Kept s0 (logFaultAt tm code source parts info0 info1 s) := by
  unfold logFaultAt
  try dsimp only
  repeat' first
    | with_reducible exact hk
    | with_reducible apply evtQuiet_kept
    | with_reducible apply countEvt_kept
    | with_reducible apply burIrq_kept
    | with_reducible apply errNAssert_kept
    | with_reducible apply repeatRec_kept
    | with_reducible apply newRec_kept
    | with_reducible refine Kept.ite (fun _ => ?_) (fun _ => ?_)
    | with_reducible assumption
    | intro _
    | split

theorem logFault_kept {s0 : State} (code source parts info0 info1 : Nat) (s : State) (hk : Kept s0 s) : Kept s0
    (logFault code source parts info0 info1 s) := by
  unfold logFault
  try dsimp only
  repeat' first
    | with_reducible exact hk
    | with_reducible apply logFaultAt_kept

theorem regAccessFault_kept {s0 : State} (r : Requester) (off : Nat) (s : State) (hk : Kept s0 s) : Kept s0
    (regAccessFault r off s) := by
  unfold regAccessFault
  try dsimp only
  repeat' first
    | with_reducible exact hk
    | with_reducible apply logFault_kept

theorem countDenied_kept {s0 : State} (r : Requester) (s : State) (hk : Kept s0 s) : Kept s0 (countDenied r s) := by
  unfold countDenied
  try dsimp only
  repeat' first
    | with_reducible exact hk
    | with_reducible apply faddSat_kept
    | with_reducible assumption
    | intro _
    | split

/-! Operations of Machine/Handoff.lean. -/

theorem setHo_kept {s0 : State} (k : Nat) (x : Handoff) (s : State) (hk : Kept s0 s) : Kept s0 (setHo k x s) := by
  unfold setHo
  try dsimp only
  repeat' first
    | with_reducible exact hk
    | fail_if_no_progress (with_reducible apply Kept.upd)

theorem hoSend_kept {s0 : State} (k : Nat) (entry : List Byte) (s : State) (hk : Kept s0 s) : Kept s0 (hoSend k entry
    s) := by
  unfold hoSend
  try dsimp only
  repeat' first
    | with_reducible exact hk
    | with_reducible apply setHo_kept
    | with_reducible refine Kept.ite (fun _ => ?_) (fun _ => ?_)
    | fail_if_no_progress (with_reducible apply Kept.upd)
    | split

theorem hoLeave_kept {s0 : State} (k : Nat) (entry : List Byte) (s : State) (hk : Kept s0 s) : Kept s0 (hoLeave k
    entry s) := by
  unfold hoLeave
  try dsimp only
  repeat' first
    | with_reducible exact hk
    | with_reducible apply setHo_kept
    | with_reducible refine Kept.ite (fun _ => ?_) (fun _ => ?_)
    | fail_if_no_progress (with_reducible apply Kept.upd)
    | split

theorem hoFlush_kept {s0 : State} (sel : Nat → Bool) (s : State) (hk : Kept s0 s) : Kept s0 (hoFlush sel s) := by
  unfold hoFlush
  try dsimp only
  repeat' first
    | with_reducible exact hk
    | fail_if_no_progress (with_reducible apply Kept.upd)
    | with_reducible assumption
    | intro _

theorem collected_kept {s0 : State} (code source info0 info1 : Nat) (direct : State → State) (s : State) (Hdirect : ∀
    y0_, Kept s0 y0_ → Kept s0 (direct y0_)) (hk : Kept s0 s) : Kept s0 (collected code source info0 info1 direct s)
    := by
  unfold collected
  try dsimp only
  repeat' first
    | with_reducible exact hk
    | with_reducible apply Hdirect
    | with_reducible refine Kept.ite (fun _ => ?_) (fun _ => ?_)
    | fail_if_no_progress (with_reducible apply Kept.upd)
    | with_reducible assumption
    | intro _
    | split

theorem softFault_kept {s0 : State} (code source info0 info1 : Nat) (s : State) (hk : Kept s0 s) : Kept s0 (softFault
    code source info0 info1 s) := by
  unfold softFault
  try dsimp only
  repeat' first
    | with_reducible exact hk
    | with_reducible apply logFault_kept
    | with_reducible apply collected_kept

/-! Operations of Machine/Memory.lean. -/

theorem memSet_kept {s0 : State} (a n : Nat) (sl : Tbl Byte) (s : State) (hk : Kept s0 s) : Kept s0 (memSet a n sl
    s) := by
  unfold memSet
  with_reducible refine Kept.mkmem (h := ?_) (h1 := ?_) ..
  · exact hk
  · intro hx
    unfold Memory.wf at hx ⊢
    exact twf_tput _ _ _ hx

theorem noteChannels_kept {s0 : State} (a n : Nat) (s : State) (hk : Kept s0 s) : Kept s0 (noteChannels a n s) := by
  unfold noteChannels
  try dsimp only
  repeat' first
    | with_reducible exact hk
    | with_reducible apply forAll_kept
    | fail_if_no_progress (with_reducible apply Kept.upd)
    | with_reducible assumption
    | intro _

theorem noteAccess_kept {s0 : State} (write : Bool) (a n : Nat) (s : State) (hk : Kept s0 s) : Kept s0 (noteAccess
    write a n s) := by
  unfold noteAccess
  try dsimp only
  repeat' first
    | with_reducible exact hk
    | with_reducible apply regSet_kept
    | with_reducible apply forAll_kept
    | with_reducible apply countEvt_kept
    | with_reducible apply noteChannels_kept
    | with_reducible refine Kept.ite (fun _ => ?_) (fun _ => ?_)
    | with_reducible assumption
    | intro _
    | split

theorem setMark_kept {s0 : State} (a v : Nat) (s : State) (hk : Kept s0 s) : Kept s0 (setMark a v s) := by
  unfold setMark
  try dsimp only
  repeat' first
    | with_reducible exact hk
    | fail_if_no_progress (with_reducible apply Kept.upd)
    | with_reducible assumption
    | intro _

theorem noteCE_kept {s0 : State} (a : Nat) (s : State) (hk : Kept s0 s) : Kept s0 (noteCE a s) := by
  unfold noteCE
  try dsimp only
  repeat' first
    | with_reducible exact hk
    | with_reducible apply evt_kept
    | with_reducible apply softFault_kept
    | with_reducible refine Kept.ite (fun _ => ?_) (fun _ => ?_)
    | split

theorem noteUE_kept {s0 : State} (a : Nat) (s : State) (hk : Kept s0 s) : Kept s0 (noteUE a s) := by
  unfold noteUE
  try dsimp only
  repeat' first
    | with_reducible exact hk
    | with_reducible apply fset_kept
    | with_reducible apply evt_kept
    | with_reducible apply softFault_kept
    | with_reducible refine Kept.ite (fun _ => ?_) (fun _ => ?_)
    | split

theorem noteParity_kept {s0 : State} (a : Nat) (s : State) (hk : Kept s0 s) : Kept s0 (noteParity a s) := by
  unfold noteParity
  try dsimp only
  repeat' first
    | with_reducible exact hk
    | with_reducible apply evt_kept
    | with_reducible apply softFault_kept

theorem granuleMark_kept {s0 : State} (c : Nat × Nat) (s : State) (hk : Kept s0 s) : Kept s0 (granuleMark c s) := by
  unfold granuleMark
  try dsimp only
  repeat' first
    | with_reducible exact hk
    | with_reducible apply setMark_kept
    | with_reducible apply noteCE_kept
    | with_reducible apply noteUE_kept
    | with_reducible apply noteParity_kept
    | with_reducible refine Kept.ite (fun _ => ?_) (fun _ => ?_)
    | split

theorem notePartial_kept {s0 : State} (a : Nat) (s : State) (hk : Kept s0 s) : Kept s0 (notePartial a s) := by
  unfold notePartial
  try dsimp only
  repeat' first
    | with_reducible exact hk
    | with_reducible apply evt_kept
    | with_reducible apply softFault_kept

theorem noteMarks_kept {s0 : State} (l : Tbl Nat) (s : State) (hk : Kept s0 s) : Kept s0 (noteMarks l s) := by
  unfold noteMarks
  try dsimp only
  repeat' first
    | with_reducible exact hk
    | with_reducible apply forAll_kept
    | with_reducible apply noteCE_kept
    | with_reducible apply noteUE_kept
    | with_reducible apply granuleMark_kept
    | with_reducible refine Kept.ite (fun _ => ?_) (fun _ => ?_)
    | with_reducible assumption
    | intro _
    | split

theorem readAll_kept {s0 : State} (a n : Nat) (s : State) (hk : Kept s0 s) : Kept s0 (readAll a n s).1 := by
  unfold readAll
  try dsimp only
  repeat' first
    | with_reducible exact hk
    | with_reducible apply noteAccess_kept
    | with_reducible apply noteMarks_kept
    | with_reducible assumption
    | intro _

theorem readUpTo_kept {s0 : State} (a n : Nat) (s : State) (hk : Kept s0 s) : Kept s0 (readUpTo a n s).1 := by
  unfold readUpTo
  try dsimp only
  repeat' first
    | with_reducible exact hk
    | with_reducible apply noteAccess_kept
    | with_reducible apply noteMarks_kept
    | with_reducible assumption
    | intro _
    | split

theorem writeMark_kept {s0 : State} (a n : Nat) (old : Tbl Byte) (c : Nat × Nat) (s : State) (hk : Kept s0 s) : Kept
    s0 (writeMark a n old c s) := by
  unfold writeMark
  try dsimp only
  repeat' first
    | with_reducible exact hk
    | with_reducible apply memSet_kept
    | with_reducible apply setMark_kept
    | with_reducible apply noteCE_kept
    | with_reducible apply noteParity_kept
    | with_reducible apply notePartial_kept
    | with_reducible refine Kept.ite (fun _ => ?_) (fun _ => ?_)
    | split

theorem disarmSync_kept {s0 : State} (a : Nat) (s : State) (hk : Kept s0 s) : Kept s0 (disarmSync a s) := by
  unfold disarmSync
  try dsimp only
  repeat' first
    | with_reducible exact hk
    | fail_if_no_progress (with_reducible apply Kept.upd)
    | with_reducible assumption
    | intro _

theorem fireSync_kept {s0 : State} (a : Nat) (s : State) (hk : Kept s0 s) : Kept s0 (fireSync a s) := by
  unfold fireSync
  try dsimp only
  repeat' first
    | with_reducible exact hk
    | with_reducible apply raiseVec_kept
    | with_reducible apply disarmSync_kept

theorem syncArm_kept {s0 : State} (a : Nat) (s : State) (hk : Kept s0 s) : Kept s0 (syncArm a s) := by
  unfold syncArm
  try dsimp only
  repeat' first
    | with_reducible exact hk
    | with_reducible apply disarmSync_kept
    | with_reducible apply fireSync_kept
    | with_reducible refine Kept.ite (fun _ => ?_) (fun _ => ?_)
    | fail_if_no_progress (with_reducible apply Kept.upd)
    | split

theorem disarmIn_kept {s0 : State} (a n : Nat) (s : State) (hk : Kept s0 s) : Kept s0 (disarmIn a n s) := by
  unfold disarmIn
  try dsimp only
  repeat' first
    | with_reducible exact hk
    | fail_if_no_progress (with_reducible apply Kept.upd)
    | with_reducible assumption
    | intro _

theorem memPut_kept {s0 : State} (a n : Nat) (sl : Tbl Byte) (s : State) (hk : Kept s0 s) : Kept s0 (memPut a n sl s)
    := by
  unfold memPut
  try dsimp only
  repeat' first
    | with_reducible exact hk
    | with_reducible apply forAll_kept
    | with_reducible apply memSet_kept
    | with_reducible apply noteAccess_kept
    | with_reducible apply writeMark_kept
    | with_reducible refine Kept.ite (fun _ => ?_) (fun _ => ?_)
    | with_reducible assumption
    | intro _
    | split

theorem memStore_kept {s0 : State} (a n : Nat) (sl : Tbl Byte) (s : State) (hk : Kept s0 s) : Kept s0 (memStore a n sl
    s) := by
  unfold memStore
  try dsimp only
  repeat' first
    | with_reducible exact hk
    | with_reducible apply forAll_kept
    | with_reducible apply syncArm_kept
    | with_reducible apply disarmIn_kept
    | with_reducible apply memPut_kept
    | with_reducible assumption
    | intro _

theorem memWrite_kept {s0 : State} (a : Nat) (l : List Byte) (s : State) (hk : Kept s0 s) : Kept s0 (memWrite a l s)
    := by
  unfold memWrite
  try dsimp only
  repeat' first
    | with_reducible exact hk
    | with_reducible apply memStore_kept

theorem wake_kept {s0 : State} (a : Nat) (s : State) (hk : Kept s0 s) : Kept s0 (wake a s) := by
  unfold wake
  try dsimp only
  repeat' first
    | with_reducible exact hk
    | with_reducible refine Kept.ite (fun _ => ?_) (fun _ => ?_)
    | fail_if_no_progress (with_reducible apply Kept.upd)
    | with_reducible assumption
    | intro _
    | split

theorem syncAddAt_kept {s0 : State} (a : Nat) (v : Word) (s : State) (hk : Kept s0 s) : Kept s0 (syncAddAt a v s) :=
    by
  unfold syncAddAt
  try dsimp only
  repeat' first
    | with_reducible exact hk
    | with_reducible apply noteAccess_kept
    | with_reducible apply noteMarks_kept
    | with_reducible apply fireSync_kept
    | with_reducible apply memWrite_kept
    | with_reducible apply wake_kept
    | with_reducible refine Kept.ite (fun _ => ?_) (fun _ => ?_)
    | split

theorem notifyAt_kept {s0 : State} (a : Nat) (v : Word) (s : State) (hk : Kept s0 s) : Kept s0 (notifyAt a v s) := by
  unfold notifyAt
  try dsimp only
  repeat' first
    | with_reducible exact hk
    | with_reducible apply syncAddAt_kept
    | with_reducible refine Kept.ite (fun _ => ?_) (fun _ => ?_)
    | split

theorem waitSync_kept {s0 : State} (w : Waiter) (s : State) (hk : Kept s0 s) : Kept s0 (waitSync w s).2 := by
  unfold waitSync
  try dsimp only
  repeat' first
    | with_reducible exact hk
    | with_reducible apply readAll_kept
    | with_reducible refine Kept.ite (fun _ => ?_) (fun _ => ?_)
    | fail_if_no_progress (with_reducible apply Kept.upd)
    | with_reducible assumption
    | intro _
    | split

/-! Operations of Machine/Send.lean. -/

theorem setSession_kept {s0 : State} (e : BitVec 19) (x : Option Session) (s : State) (hk : Kept s0 s) : Kept s0
    (setSession e x s) := by
  unfold setSession
  try dsimp only
  repeat' first
    | with_reducible exact hk
    | fail_if_no_progress (with_reducible apply Kept.upd)
    | with_reducible assumption
    | intro _

theorem modPort_kept {s0 : State} (p : Nat) (f : Port → Port) (s : State) (hk : Kept s0 s) : Kept s0 (modPort p f s)
    := by
  unfold modPort
  try dsimp only
  repeat' first
    | with_reducible exact hk
    | fail_if_no_progress (with_reducible apply Kept.upd)

theorem fillEgress_kept {s0 : State} (p v : Nat) (s : State) (hk : Kept s0 s) : Kept s0 (fillEgress p v s) := by
  unfold fillEgress
  try dsimp only
  repeat' first
    | with_reducible exact hk
    | with_reducible apply setHo_kept
    | with_reducible apply modPort_kept
    | with_reducible refine Kept.ite (fun _ => ?_) (fun _ => ?_)
    | fail_if_no_progress (with_reducible apply Kept.upd)
    | with_reducible assumption
    | intro _
    | split

theorem queueCells_kept {s0 : State} (p v : Nat) (l : List EgCell) (s : State) (hk : Kept s0 s) : Kept s0 (queueCells
    p v l s) := by
  unfold queueCells
  try dsimp only
  repeat' first
    | with_reducible exact hk
    | with_reducible apply modPort_kept
    | with_reducible apply fillEgress_kept
    | with_reducible refine Kept.ite (fun _ => ?_) (fun _ => ?_)
    | fail_if_no_progress (with_reducible apply Kept.upd)
    | with_reducible assumption
    | intro _
    | split

theorem cellLeft_kept {s0 : State} (p v : Nat) (s : State) (hk : Kept s0 s) : Kept s0 (cellLeft p v s) := by
  unfold cellLeft
  try dsimp only
  repeat' first
    | with_reducible exact hk
    | with_reducible apply hoLeave_kept
    | with_reducible apply fillEgress_kept

theorem queuePkt_kept {s0 : State} (port vl : Nat) (k : Packet) (s : State) (hk : Kept s0 s) : Kept s0 (queuePkt port
    vl k s) := by
  unfold queuePkt
  try dsimp only
  repeat' first
    | with_reducible exact hk
    | with_reducible apply queueCells_kept

theorem queueItem_kept {s0 : State} (port : Nat) (i : CtlItem) (s : State) (hk : Kept s0 s) : Kept s0 (queueItem port
    i s) := by
  unfold queueItem
  try dsimp only
  repeat' first
    | with_reducible exact hk
    | with_reducible apply modPort_kept
    | fail_if_no_progress (with_reducible apply Kept.upd)
    | with_reducible assumption
    | intro _

theorem routeItem_kept {s0 : State} (i : CtlItem) (s : State) (hk : Kept s0 s) : Kept s0 (routeItem i s) := by
  unfold routeItem
  try dsimp only
  repeat' first
    | with_reducible exact hk
    | with_reducible apply queueItem_kept
    | with_reducible assumption
    | intro _
    | split

theorem sendPkt_kept {s0 : State} (port vl : Nat) (kind : BitVec 4) (e : BitVec 19) (w : BitVec 64) (addr : Nat) (tag
    : InstrTag) (notify kspec : Nat) (data : List Byte) (s : State) (hk : Kept s0 s) : Kept s0 (sendPkt port vl kind e
    w addr tag notify kspec data s) := by
  unfold sendPkt
  try dsimp only
  repeat' first
    | with_reducible exact hk
    | with_reducible apply setSession_kept
    | with_reducible apply queuePkt_kept
    | fail_if_no_progress (with_reducible apply Kept.upd)
    | with_reducible assumption
    | intro _
    | split

theorem sendOne_kept {s0 : State} (core vl : Nat) (kind : BitVec 4) (e : BitVec 19) (w : BitVec 64) (addr : Nat) (tag
    : InstrTag) (notify kspec : Nat) (s : State) (hk : Kept s0 s) : Kept s0 (sendOne core vl kind e w addr tag notify
    kspec s) := by
  unfold sendOne
  try dsimp only
  repeat' first
    | with_reducible exact hk
    | with_reducible apply sendPkt_kept
    | with_reducible assumption
    | intro _
    | split

theorem sendData_kept {s0 : State} (fixed : Option Nat) (core vl : Nat) (kind : BitVec 4) (e : BitVec 19) (w : BitVec
    64) (addr : Nat) (tag : InstrTag) (notify kspec : Nat) (l : List Byte) (s : State) (hk : Kept s0 s) : Kept s0
    (sendData fixed core vl kind e w addr tag notify kspec l s) := by
  unfold sendData
  try dsimp only
  repeat' first
    | with_reducible exact hk
    | with_reducible apply sendPkt_kept
    | with_reducible refine Kept.foldl _ (fun _ _ h => ?_) _ _ ?_
    | with_reducible refine Kept.foldl1 _ (fun _ _ h => ?_) _ _ ?_
    | with_reducible refine Kept.foldl2 _ (fun _ _ h => ?_) _ _ ?_
    | with_reducible assumption
    | intro _
    | split

theorem addRemote_kept {s0 : State} (r : RemoteInstr) (s : State) (hk : Kept s0 s) : Kept s0 (addRemote r s) := by
  unfold addRemote
  try dsimp only
  repeat' first
    | with_reducible exact hk
    | fail_if_no_progress (with_reducible apply Kept.upd)

theorem dropRemote_kept {s0 : State} (t : InstrTag) (s : State) (hk : Kept s0 s) : Kept s0 (dropRemote t s) := by
  unfold dropRemote
  try dsimp only
  repeat' first
    | with_reducible exact hk
    | fail_if_no_progress (with_reducible apply Kept.upd)
    | with_reducible assumption
    | intro _

theorem setRemote_kept {s0 : State} (r : RemoteInstr) (s : State) (hk : Kept s0 s) : Kept s0 (setRemote r s) := by
  unfold setRemote
  try dsimp only
  repeat' first
    | with_reducible exact hk
    | with_reducible refine Kept.ite (fun _ => ?_) (fun _ => ?_)
    | fail_if_no_progress (with_reducible apply Kept.upd)
    | with_reducible assumption
    | intro _
    | split

theorem bumpSeqno_kept {s0 : State} (c : Nat) (s : State) (hk : Kept s0 s) : Kept s0 (bumpSeqno c s) := by
  unfold bumpSeqno
  try dsimp only
  repeat' first
    | with_reducible exact hk
    | with_reducible apply modCore_kept
    | fail_if_no_progress (with_reducible apply Kept.upd)
    | with_reducible assumption
    | intro _

/-! Operations of Machine/Fabric.lean. -/

theorem portFault_kept {s0 : State} (code p info0 : Nat) (s : State) (hk : Kept s0 s) : Kept s0 (portFault code p
    info0 s) := by
  unfold portFault
  try dsimp only
  repeat' first
    | with_reducible exact hk
    | with_reducible apply softFault_kept

theorem noteDepth_kept {s0 : State} (b : Nat) (cur peak : Fld) (cells : Nat) (s : State) (hk : Kept s0 s) : Kept s0
    (noteDepth b cur peak cells s) := by
  unfold noteDepth
  try dsimp only
  repeat' first
    | with_reducible exact hk
    | with_reducible apply fset_kept

theorem sumpRegs_kept {s0 : State} (p v : Nat) (s : State) (hk : Kept s0 s) : Kept s0 (sumpRegs p v s) := by
  unfold sumpRegs
  try dsimp only
  repeat' first
    | with_reducible exact hk
    | with_reducible apply fset_kept
    | with_reducible apply noteDepth_kept

theorem setXoff_kept {s0 : State} (p : Nat) (map : BitVec 8) (s : State) (hk : Kept s0 s) : Kept s0 (setXoff p map s)
    := by
  unfold setXoff
  try dsimp only
  repeat' first
    | with_reducible exact hk
    | with_reducible apply modPort_kept
    | with_reducible apply queueItem_kept
    | with_reducible refine Kept.ite (fun _ => ?_) (fun _ => ?_)
    | fail_if_no_progress (with_reducible apply Kept.upd)
    | with_reducible assumption
    | intro _
    | split

theorem updateXoff_kept {s0 : State} (p v : Nat) (s : State) (hk : Kept s0 s) : Kept s0 (updateXoff p v s) := by
  unfold updateXoff
  try dsimp only
  repeat' first
    | with_reducible exact hk
    | with_reducible apply countEvt_kept
    | with_reducible apply setXoff_kept
    | with_reducible refine Kept.foldl _ (fun _ _ h => ?_) _ _ ?_
    | with_reducible refine Kept.foldl1 _ (fun _ _ h => ?_) _ _ ?_
    | with_reducible refine Kept.foldl2 _ (fun _ _ h => ?_) _ _ ?_
    | with_reducible refine Kept.ite (fun _ => ?_) (fun _ => ?_)
    | with_reducible assumption
    | intro _
    | split

theorem noteXoff_kept {s0 : State} (p v : Nat) (s : State) (hk : Kept s0 s) : Kept s0 (noteXoff p v s) := by
  unfold noteXoff
  try dsimp only
  repeat' first
    | with_reducible exact hk
    | with_reducible apply forAll_kept
    | with_reducible apply updateXoff_kept
    | with_reducible refine Kept.ite (fun _ => ?_) (fun _ => ?_)
    | with_reducible assumption
    | intro _
    | split

theorem takeCell_kept {s0 : State} (p v : Nat) (s : State) (hk : Kept s0 s) : ∀ t, takeCell p v s = some t → Kept s0
    t := by
  intro t ht
  unfold takeCell at ht
  try dsimp only at ht
  repeat' (split at ht)
  rotate_left 3
  · cases ht
  all_goals obtain rfl := Option.some.inj ht
  all_goals repeat' first
    | (with_reducible exact hk)
    | (with_reducible apply modPort_kept)

theorem probesGo_kept {s0 : State} (p v n : Nat) (s : State) (hk : Kept s0 s) : Kept s0 (probesGo p v n s) := by
  unfold probesGo
  try dsimp only
  repeat' first
    | with_reducible exact hk
    | with_reducible apply forAll_kept
    | with_reducible apply modPort_kept
    | with_reducible apply routeItem_kept
    | with_reducible refine Kept.ite (fun _ => ?_) (fun _ => ?_)
    | fail_if_no_progress (with_reducible apply Kept.upd)
    | with_reducible assumption
    | intro _
    | split

theorem freeCells_kept {s0 : State} (p v n : Nat) (s : State) (hk : Kept s0 s) : Kept s0 (freeCells p v n s) := by
  unfold freeCells
  try dsimp only
  repeat' first
    | with_reducible exact hk
    | with_reducible apply modPort_kept
    | with_reducible apply sumpRegs_kept
    | with_reducible apply probesGo_kept
    | fail_if_no_progress (with_reducible apply Kept.upd)
    | with_reducible assumption
    | intro _

theorem setOpen_kept {s0 : State} (p v : Nat) (o : Option Nat) (s : State) (hk : Kept s0 s) : Kept s0 (setOpen p v o
    s) := by
  unfold setOpen
  try dsimp only
  repeat' first
    | with_reducible exact hk
    | with_reducible apply modPort_kept
    | fail_if_no_progress (with_reducible apply Kept.upd)
    | with_reducible assumption
    | intro _

theorem discardVl_kept {s0 : State} (p v : Nat) (s : State) (hk : Kept s0 s) : Kept s0 (discardVl p v s) := by
  unfold discardVl
  try dsimp only
  repeat' first
    | with_reducible exact hk
    | with_reducible apply freeCells_kept
    | with_reducible apply setOpen_kept
    | with_reducible refine Kept.ite (fun _ => ?_) (fun _ => ?_)
    | split

theorem discardOpen_kept {s0 : State} (p : Nat) (s : State) (hk : Kept s0 s) : Kept s0 (discardOpen p s) := by
  unfold discardOpen
  try dsimp only
  repeat' first
    | with_reducible exact hk
    | with_reducible apply forAll_kept
    | with_reducible apply discardVl_kept
    | with_reducible assumption
    | intro _

theorem noteDrain_kept {s0 : State} (eid : BitVec 19) (st : BitVec 8) (s : State) (hk : Kept s0 s) : Kept s0
    (noteDrain eid st s) := by
  unfold noteDrain
  try dsimp only
  repeat' first
    | with_reducible exact hk
    | with_reducible refine Kept.ite (fun _ => ?_) (fun _ => ?_)
    | fail_if_no_progress (with_reducible apply Kept.upd)
    | with_reducible assumption
    | intro _
    | split

theorem endDrain_kept {s0 : State} (eid : BitVec 19) (st : BitVec 8) (s : State) (hk : Kept s0 s) : Kept s0 (endDrain
    eid st s) := by
  unfold endDrain
  try dsimp only
  repeat' first
    | with_reducible exact hk
    | with_reducible apply emit_kept
    | with_reducible apply noteDrain_kept
    | with_reducible refine Kept.ite (fun _ => ?_) (fun _ => ?_)
    | fail_if_no_progress (with_reducible apply Kept.upd)
    | with_reducible assumption
    | intro _
    | split

theorem portLost_kept {s0 : State} (p : Nat) (s : State) (hk : Kept s0 s) : Kept s0 (portLost p s) := by
  unfold portLost
  try dsimp only
  repeat' first
    | with_reducible exact hk
    | with_reducible apply fset_kept
    | with_reducible apply forAll_kept
    | with_reducible apply hoFlush_kept
    | with_reducible apply modPort_kept
    | with_reducible apply discardOpen_kept
    | with_reducible apply endDrain_kept
    | fail_if_no_progress (with_reducible apply Kept.upd)
    | with_reducible assumption
    | intro _

theorem mapOut_kept {s0 : State} (p cause : Nat) (s : State) (hk : Kept s0 s) : Kept s0 (mapOut p cause s) := by
  unfold mapOut
  try dsimp only
  repeat' first
    | with_reducible exact hk
    | with_reducible apply fset_kept
    | with_reducible apply evt_kept
    | with_reducible apply modPort_kept
    | with_reducible apply portFault_kept
    | with_reducible apply portLost_kept
    | with_reducible refine Kept.ite (fun _ => ?_) (fun _ => ?_)
    | fail_if_no_progress (with_reducible apply Kept.upd)
    | with_reducible assumption
    | intro _
    | split

theorem startTraining_kept {s0 : State} (p : Nat) (isFault : Bool) (s : State) (hk : Kept s0 s) : Kept s0
    (startTraining p isFault s) := by
  unfold startTraining
  try dsimp only
  repeat' first
    | with_reducible exact hk
    | with_reducible apply fset_kept
    | with_reducible apply modPort_kept
    | fail_if_no_progress (with_reducible apply Kept.upd)
    | with_reducible assumption
    | intro _

theorem noteLaser_kept {s0 : State} (e : Nat) (power : BitVec 8) (s : State) (hk : Kept s0 s) : Kept s0 (noteLaser e
    power s) := by
  unfold noteLaser
  try dsimp only
  repeat' first
    | with_reducible exact hk
    | with_reducible apply fset_kept
    | with_reducible apply forAll_kept
    | with_reducible assumption
    | intro _

theorem noteOeTemp_kept {s0 : State} (e : Nat) (temp : BitVec 8) (s : State) (hk : Kept s0 s) : Kept s0 (noteOeTemp e
    temp s) := by
  unfold noteOeTemp
  try dsimp only
  repeat' first
    | with_reducible exact hk
    | with_reducible apply fset_kept
    | with_reducible apply forAll_kept
    | with_reducible assumption
    | intro _

theorem noteAttempt_kept {s0 : State} (p : Nat) (r : TrainResult) (s : State) (hk : Kept s0 s) : Kept s0 (noteAttempt
    p r s) := by
  unfold noteAttempt
  try dsimp only
  repeat' first
    | with_reducible exact hk
    | with_reducible apply fset_kept
    | with_reducible refine Kept.ite (fun _ => ?_) (fun _ => ?_)
    | split

theorem sendTrain_kept {s0 : State} (p : Nat) (s : State) (hk : Kept s0 s) : Kept s0 (sendTrain p s) := by
  unfold sendTrain
  try dsimp only
  repeat' first
    | with_reducible exact hk
    | with_reducible apply emit_kept

theorem trainAttempt_kept {s0 : State} (p : Nat) (r : TrainResult) (s : State) (hk : Kept s0 s) : Kept s0
    (trainAttempt p r s) := by
  unfold trainAttempt
  try dsimp only
  repeat' first
    | with_reducible exact hk
    | with_reducible apply fset_kept
    | with_reducible apply evt_kept
    | with_reducible apply modPort_kept
    | with_reducible apply mapOut_kept
    | with_reducible apply noteLaser_kept
    | with_reducible apply noteOeTemp_kept
    | with_reducible apply noteAttempt_kept
    | with_reducible apply sendTrain_kept
    | with_reducible refine Kept.ite (fun _ => ?_) (fun _ => ?_)
    | fail_if_no_progress (with_reducible apply Kept.upd)
    | with_reducible assumption
    | intro _
    | split

theorem trainEnd_kept {s0 : State} (p : Nat) (s : State) (hk : Kept s0 s) : Kept s0 (trainEnd p s) := by
  unfold trainEnd
  try dsimp only
  repeat' first
    | with_reducible exact hk
    | with_reducible apply fset_kept
    | with_reducible apply modPort_kept
    | with_reducible apply mapOut_kept
    | with_reducible apply noteAttempt_kept
    | with_reducible refine Kept.ite (fun _ => ?_) (fun _ => ?_)
    | fail_if_no_progress (with_reducible apply Kept.upd)
    | with_reducible assumption
    | intro _
    | split

theorem linkFaultOp_kept {s0 : State} (p : Nat) (s : State) (hk : Kept s0 s) : Kept s0 (linkFaultOp p s) := by
  unfold linkFaultOp
  try dsimp only
  repeat' first
    | with_reducible exact hk
    | with_reducible apply evt_kept
    | with_reducible apply modPort_kept
    | with_reducible apply portLost_kept
    | with_reducible apply mapOut_kept
    | with_reducible apply startTraining_kept
    | with_reducible refine Kept.ite (fun _ => ?_) (fun _ => ?_)
    | fail_if_no_progress (with_reducible apply Kept.upd)
    | with_reducible assumption
    | intro _
    | split

theorem retrainOp_kept {s0 : State} (p : Nat) (s : State) (hk : Kept s0 s) : Kept s0 (retrainOp p s) := by
  unfold retrainOp
  try dsimp only
  repeat' first
    | with_reducible exact hk
    | with_reducible apply startTraining_kept
    | with_reducible refine Kept.ite (fun _ => ?_) (fun _ => ?_)
    | split

theorem laserLost_kept {s0 : State} (e : Nat) (power : BitVec 8) (s : State) (hk : Kept s0 s) : Kept s0 (laserLost e
    power s) := by
  unfold laserLost
  try dsimp only
  repeat' first
    | with_reducible exact hk
    | with_reducible apply forAll_kept
    | with_reducible apply mapOut_kept
    | with_reducible apply noteLaser_kept
    | with_reducible refine Kept.ite (fun _ => ?_) (fun _ => ?_)
    | fail_if_no_progress (with_reducible apply Kept.upd)
    | with_reducible assumption
    | intro _
    | split

theorem sendCtl_kept {s0 : State} (p : Nat) (align : Bool) (items : List CtlItem) (s : State) (hk : Kept s0 s) : Kept
    s0 (sendCtl p align items s) := by
  unfold sendCtl
  try dsimp only
  repeat' first
    | with_reducible exact hk
    | with_reducible apply emit_kept

theorem broadTurn_kept {s0 : State} (p v : Nat) (s : State) (hk : Kept s0 s) : Kept s0 (broadTurn p v s) := by
  unfold broadTurn
  try dsimp only
  repeat' first
    | with_reducible exact hk
    | with_reducible apply modPort_kept
    | with_reducible refine Kept.ite (fun _ => ?_) (fun _ => ?_)
    | fail_if_no_progress (with_reducible apply Kept.upd)
    | with_reducible refine Kept.pr2 (by assumption) ?_
    | with_reducible refine Kept.pr1 (by assumption) ?_
    | with_reducible refine Kept.pr3 (by assumption) ?_
    | with_reducible assumption
    | intro _
    | split

theorem stampItem_kept {s0 : State} (i : CtlItem) (s : State) (hk : Kept s0 s) : Kept s0 (stampItem i s).2 := by
  unfold stampItem
  try dsimp only
  repeat' first
    | with_reducible exact hk
    | with_reducible apply bumpFree_kept
    | with_reducible refine Kept.ite (fun _ => ?_) (fun _ => ?_)
    | fail_if_no_progress (with_reducible apply Kept.upd)
    | with_reducible assumption
    | intro _
    | split

theorem stampItems_kept {s0 : State} (l : List CtlItem) (s : State) (hk : Kept s0 s) : Kept s0 (stampItems l s).2 := by
  induction l generalizing s with
  | nil => exact hk
  | cons i r ih => exact ih _ (stampItem_kept _ _ hk)

theorem noteSent_kept {s0 : State} (k : Packet) (s : State) (hk : Kept s0 s) : Kept s0 (noteSent k s) := by
  unfold noteSent
  try dsimp only
  repeat' first
    | with_reducible exact hk
    | with_reducible refine Kept.ite (fun _ => ?_) (fun _ => ?_)
    | fail_if_no_progress (with_reducible apply Kept.upd)
    | with_reducible assumption
    | intro _
    | split

theorem sendCell_kept {s0 : State} (p v : Nat) (c : EgCell) (s : State) (hk : Kept s0 s) : Kept s0 (sendCell p v c s)
    := by
  unfold sendCell
  try dsimp only
  repeat' first
    | with_reducible exact hk
    | with_reducible apply fadd_kept
    | with_reducible apply emit_kept
    | with_reducible apply cellLeft_kept
    | with_reducible apply noteSent_kept
    | with_reducible assumption
    | intro _
    | split

theorem startProbes_kept {s0 : State} (eid : BitVec 19) (s : State) (hk : Kept s0 s) : Kept s0 (startProbes eid s) :=
    by
  unfold startProbes
  try dsimp only
  repeat' first
    | with_reducible exact hk
    | with_reducible apply forAll_kept
    | with_reducible apply queueCells_kept
    | with_reducible apply endDrain_kept
    | with_reducible refine Kept.ite (fun _ => ?_) (fun _ => ?_)
    | fail_if_no_progress (with_reducible apply Kept.upd)
    | with_reducible assumption
    | intro _
    | split

theorem drainsGo_kept {s0 : State} (s : State) (hk : Kept s0 s) : Kept s0 (drainsGo s) := by
  unfold drainsGo
  try dsimp only
  repeat' first
    | with_reducible exact hk
    | with_reducible apply forAll_kept
    | with_reducible apply startProbes_kept
    | with_reducible refine Kept.ite (fun _ => ?_) (fun _ => ?_)
    | with_reducible assumption
    | intro _
    | split

theorem cellSlot_kept {s0 : State} (p : Nat) (s : State) (hk : Kept s0 s) : Kept s0 (cellSlot p s) := by
  unfold cellSlot
  try dsimp only
  repeat' first
    | with_reducible exact hk
    | with_reducible apply countEvt_kept
    | with_reducible apply modPort_kept
    | with_reducible apply sendCtl_kept
    | with_reducible apply broadTurn_kept
    | with_reducible apply stampItems_kept
    | with_reducible apply sendCell_kept
    | with_reducible apply drainsGo_kept
    | with_reducible refine Kept.ite (fun _ => ?_) (fun _ => ?_)
    | fail_if_no_progress (with_reducible apply Kept.upd)
    | with_reducible refine Kept.pr2 (by assumption) ?_
    | with_reducible refine Kept.pr1 (by assumption) ?_
    | with_reducible refine Kept.pr3 (by assumption) ?_
    | with_reducible assumption
    | intro _
    | split

theorem payloadCell_kept {s0 : State} (p : Nat) (c : Cell) (s : State) (hk : Kept s0 s) : Kept s0 (payloadCell p c
    s) := by
  have h : Kept s0 (if c.first then discardVl p c.vl.val s else s) := Kept.ite (fun _ => discardVl_kept _ _ _ hk) fun _ => hk
  unfold payloadCell
  dsimp only
  repeat' first
    | with_reducible exact hk
    | with_reducible exact h
    | with_reducible apply portFault_kept
    | with_reducible apply evt_kept
    | with_reducible apply noteXoff_kept
    | with_reducible apply sumpRegs_kept
    | with_reducible apply fadd_kept
    | with_reducible apply setOpen_kept
    | with_reducible apply discardVl_kept
    | exact takeCell_kept _ _ _ h _ (by assumption)
    | with_reducible refine Kept.ite (fun _ => ?_) (fun _ => ?_)
    | split

theorem controlCell_kept {s0 : State} (p : Nat) (c : Cell) (s : State) (hk : Kept s0 s) : Kept s0 (controlCell p c s)
    := by
  unfold controlCell
  try dsimp only
  repeat' first
    | with_reducible exact hk
    | with_reducible apply fset_kept
    | with_reducible apply evt_kept
    | with_reducible apply forAll_kept
    | with_reducible refine Kept.ite (fun _ => ?_) (fun _ => ?_)
    | with_reducible assumption
    | intro _
    | split

theorem noteFec_kept {s0 : State} (p : Nat) (c : Cell) (s : State) (hk : Kept s0 s) : Kept s0 (noteFec p c s) := by
  unfold noteFec
  try dsimp only
  repeat' first
    | with_reducible exact hk
    | with_reducible apply fadd_kept
    | with_reducible apply countEvt_kept
    | with_reducible apply modPort_kept
    | fail_if_no_progress (with_reducible apply Kept.upd)
    | with_reducible assumption
    | intro _

theorem cellRx_kept {s0 : State} (p : Nat) (c : Cell) (s : State) (hk : Kept s0 s) : Kept s0 (cellRx p c s) := by
  unfold cellRx
  try dsimp only
  repeat' first
    | with_reducible exact hk
    | with_reducible apply countEvt_kept
    | with_reducible apply modPort_kept
    | with_reducible apply discardOpen_kept
    | with_reducible apply linkFaultOp_kept
    | with_reducible apply payloadCell_kept
    | with_reducible apply controlCell_kept
    | with_reducible apply noteFec_kept
    | with_reducible refine Kept.ite (fun _ => ?_) (fun _ => ?_)
    | fail_if_no_progress (with_reducible apply Kept.upd)
    | with_reducible assumption
    | intro _
    | split

theorem xonSendOp_kept {s0 : State} (p v : Nat) (s : State) (hk : Kept s0 s) : Kept s0 (xonSendOp p v s) := by
  unfold xonSendOp
  try dsimp only
  repeat' first
    | with_reducible exact hk
    | with_reducible apply setXoff_kept
    | with_reducible refine Kept.ite (fun _ => ?_) (fun _ => ?_)
    | split

theorem sessFault_kept {s0 : State} (e : Evt) (s : State) (hk : Kept s0 s) : Kept s0 (sessFault e s) := by
  unfold sessFault
  try dsimp only
  repeat' first
    | with_reducible exact hk
    | with_reducible apply evt_kept
    | with_reducible apply softFault_kept

theorem dropShake_kept {s0 : State} (eid : BitVec 19) (s : State) (hk : Kept s0 s) : Kept s0 (dropShake eid s) := by
  unfold dropShake
  try dsimp only
  repeat' first
    | with_reducible exact hk
    | fail_if_no_progress (with_reducible apply Kept.upd)
    | with_reducible assumption
    | intro _

theorem putShake_kept {s0 : State} (h : Handshake) (s : State) (hk : Kept s0 s) : Kept s0 (putShake h s) := by
  unfold putShake
  try dsimp only
  repeat' first
    | with_reducible exact hk
    | fail_if_no_progress (with_reducible apply Kept.upd)
    | with_reducible assumption
    | intro _

theorem sendShake_kept {s0 : State} (h : Handshake) (s : State) (hk : Kept s0 s) : Kept s0 (sendShake h s) := by
  unfold sendShake
  try dsimp only
  repeat' first
    | with_reducible exact hk
    | with_reducible apply routeItem_kept
    | with_reducible apply putShake_kept
    | with_reducible refine Kept.ite (fun _ => ?_) (fun _ => ?_)
    | fail_if_no_progress (with_reducible apply Kept.upd)
    | with_reducible assumption
    | intro _
    | split

theorem goShake_kept {s0 : State} (h : Handshake) (s : State) (hk : Kept s0 s) : Kept s0 (goShake h s) := by
  unfold goShake
  try dsimp only
  repeat' first
    | with_reducible exact hk
    | with_reducible apply putShake_kept
    | with_reducible apply sendShake_kept
    | with_reducible refine Kept.ite (fun _ => ?_) (fun _ => ?_)
    | split

theorem shakesGo_kept {s0 : State} (s : State) (hk : Kept s0 s) : Kept s0 (shakesGo s) := by
  unfold shakesGo
  try dsimp only
  repeat' first
    | with_reducible exact hk
    | with_reducible apply forAll_kept
    | with_reducible apply goShake_kept
    | with_reducible assumption
    | intro _

theorem startShake_kept {s0 : State} (eid : BitVec 19) (s : State) (hk : Kept s0 s) : Kept s0 (startShake eid s) := by
  unfold startShake
  try dsimp only
  repeat' first
    | with_reducible exact hk
    | with_reducible apply bumpFree_kept
    | with_reducible apply sessFault_kept
    | with_reducible apply goShake_kept
    | with_reducible refine Kept.ite (fun _ => ?_) (fun _ => ?_)
    | split

theorem placeSession_kept {s0 : State} (h : Handshake) (m : SessMsg) (s : State) (hk : Kept s0 s) : Kept s0
    (placeSession h m s) := by
  unfold placeSession
  try dsimp only
  repeat' first
    | with_reducible exact hk
    | with_reducible apply evt_kept
    | with_reducible apply setSession_kept
    | with_reducible apply dropShake_kept
    | with_reducible refine Kept.ite (fun _ => ?_) (fun _ => ?_)
    | with_reducible assumption
    | intro _
    | split

theorem fabWait_kept {s0 : State} (w : FabWait) (s : State) (hk : Kept s0 s) : Kept s0 (fabWait w s) := by
  unfold fabWait
  try dsimp only
  repeat' first
    | with_reducible exact hk
    | fail_if_no_progress (with_reducible apply Kept.upd)

theorem sessInitOp_kept {s0 : State} (m : SessMsg) (s : State) (hk : Kept s0 s) : Kept s0 (sessInitOp m s) := by
  unfold sessInitOp
  try dsimp only
  repeat' first
    | with_reducible exact hk
    | with_reducible apply bumpFree_kept
    | with_reducible apply sessFault_kept
    | with_reducible apply dropShake_kept
    | with_reducible apply goShake_kept
    | with_reducible apply fabWait_kept
    | with_reducible refine Kept.ite (fun _ => ?_) (fun _ => ?_)
    | with_reducible assumption
    | intro _
    | split

theorem sessRespOp_kept {s0 : State} (m : SessMsg) (s : State) (hk : Kept s0 s) : Kept s0 (sessRespOp m s) := by
  unfold sessRespOp
  try dsimp only
  repeat' first
    | with_reducible exact hk
    | with_reducible apply routeItem_kept
    | with_reducible apply sessFault_kept
    | with_reducible apply dropShake_kept
    | with_reducible apply shakesGo_kept
    | with_reducible apply placeSession_kept
    | with_reducible apply fabWait_kept
    | with_reducible refine Kept.ite (fun _ => ?_) (fun _ => ?_)
    | with_reducible assumption
    | intro _
    | split

theorem sessDoneOp_kept {s0 : State} (src : BitVec 19) (hmac : List Byte) (s : State) (hk : Kept s0 s) : Kept s0
    (sessDoneOp src hmac s) := by
  unfold sessDoneOp
  try dsimp only
  repeat' first
    | with_reducible exact hk
    | with_reducible apply sessFault_kept
    | with_reducible apply dropShake_kept
    | with_reducible apply shakesGo_kept
    | with_reducible apply placeSession_kept
    | with_reducible apply fabWait_kept
    | with_reducible refine Kept.ite (fun _ => ?_) (fun _ => ?_)
    | with_reducible assumption
    | intro _
    | split

theorem shakeRetry_kept {s0 : State} (eid : BitVec 19) (s : State) (hk : Kept s0 s) : Kept s0 (shakeRetry eid s) := by
  unfold shakeRetry
  try dsimp only
  repeat' first
    | with_reducible exact hk
    | with_reducible apply sessFault_kept
    | with_reducible apply dropShake_kept
    | with_reducible apply sendShake_kept
    | with_reducible apply goShake_kept
    | with_reducible apply shakesGo_kept
    | with_reducible refine Kept.ite (fun _ => ?_) (fun _ => ?_)
    | with_reducible assumption
    | intro _
    | split

theorem entrySetOp_kept {s0 : State} (eid : BitVec 19) (w : BitVec 64) (s : State) (hk : Kept s0 s) : Kept s0
    (entrySetOp eid w s).1 := by
  unfold entrySetOp
  try dsimp only
  repeat' first
    | with_reducible exact hk
    | with_reducible apply endDrain_kept
    | with_reducible apply startShake_kept
    | with_reducible refine Kept.ite (fun _ => ?_) (fun _ => ?_)
    | fail_if_no_progress (with_reducible apply Kept.upd)
    | with_reducible assumption
    | intro _
    | split

theorem drainReqOp_kept {s0 : State} (eid : BitVec 19) (s : State) (hk : Kept s0 s) : Kept s0 (drainReqOp eid s).1 :=
    by
  unfold drainReqOp
  try dsimp only
  repeat' first
    | with_reducible exact hk
    | with_reducible apply startProbes_kept
    | with_reducible refine Kept.ite (fun _ => ?_) (fun _ => ?_)
    | fail_if_no_progress (with_reducible apply Kept.upd)
    | with_reducible assumption
    | intro _
    | split

theorem drainProbeOp_kept {s0 : State} (p v : Nat) (src : BitVec 19) (n : BitVec 32) (s : State) (hk : Kept s0 s) :
    Kept s0 (drainProbeOp p v src n s) := by
  unfold drainProbeOp
  try dsimp only
  repeat' first
    | with_reducible exact hk
    | with_reducible apply modPort_kept
    | with_reducible apply routeItem_kept
    | with_reducible refine Kept.ite (fun _ => ?_) (fun _ => ?_)
    | fail_if_no_progress (with_reducible apply Kept.upd)
    | with_reducible assumption
    | intro _
    | split

theorem drainEchoOp_kept {s0 : State} (src : BitVec 19) (n : BitVec 32) (s : State) (hk : Kept s0 s) : Kept s0
    (drainEchoOp src n s) := by
  unfold drainEchoOp
  try dsimp only
  repeat' first
    | with_reducible exact hk
    | with_reducible apply endDrain_kept
    | with_reducible refine Kept.ite (fun _ => ?_) (fun _ => ?_)
    | fail_if_no_progress (with_reducible apply Kept.upd)
    | with_reducible assumption
    | intro _
    | split

theorem drainLate_kept {s0 : State} (eid : BitVec 19) (s : State) (hk : Kept s0 s) : Kept s0 (drainLate eid s) := by
  unfold drainLate
  try dsimp only
  repeat' first
    | with_reducible exact hk
    | with_reducible apply endDrain_kept
    | with_reducible refine Kept.ite (fun _ => ?_) (fun _ => ?_)
    | with_reducible assumption
    | intro _
    | split

theorem fabWaited_kept {s0 : State} (w : FabWait) (s : State) (hk : Kept s0 s) : Kept s0 (fabWaited w s) := by
  unfold fabWaited
  try dsimp only
  repeat' first
    | with_reducible exact hk
    | with_reducible apply sessInitOp_kept
    | with_reducible apply sessRespOp_kept
    | with_reducible apply sessDoneOp_kept
    | with_reducible apply entrySetOp_kept
    | with_reducible assumption
    | intro _
    | split

theorem fabResume_kept {s0 : State} (s : State) (hk : Kept s0 s) : Kept s0 (fabResume s) := by
  unfold fabResume
  try dsimp only
  repeat' first
    | with_reducible exact hk
    | with_reducible apply forAll_kept
    | with_reducible apply shakesGo_kept
    | with_reducible apply fabWaited_kept
    | fail_if_no_progress (with_reducible apply Kept.upd)
    | with_reducible assumption
    | intro _

/-! Operations of Machine/Queue.lean. -/

theorem writeBack_kept {s0 : State} (qid : Nat) (s : State) (hk : Kept s0 s) : Kept s0 (writeBack qid s) := by
  unfold writeBack
  try dsimp only
  repeat' first
    | with_reducible exact hk
    | with_reducible apply memWrite_kept
    | with_reducible refine Kept.ite (fun _ => ?_) (fun _ => ?_)
    | split

theorem setCh_kept {s0 : State} (id : Nat) (x : Chamber) (s : State) (hk : Kept s0 s) : Kept s0 (setCh id x s) := by
  unfold setCh
  try dsimp only
  repeat' first
    | with_reducible exact hk
    | fail_if_no_progress (with_reducible apply Kept.upd)
    | with_reducible assumption
    | intro _

theorem modCh_kept {s0 : State} (id : Nat) (f : Chamber → Chamber) (s : State) (hk : Kept s0 s) : Kept s0 (modCh id f
    s) := by
  unfold modCh
  try dsimp only
  repeat' first
    | with_reducible exact hk
    | with_reducible apply setCh_kept

theorem modQueue_kept {s0 : State} (qid : Nat) (f : Queue → Queue) (s : State) (hk : Kept s0 s) : Kept s0 (modQueue
    qid f s) := by
  unfold modQueue
  try dsimp only
  repeat' first
    | with_reducible exact hk
    | with_reducible apply setQueue_kept

theorem leaveIntake_kept {s0 : State} (q : Queue) (b : List Byte) (s : State) (hk : Kept s0 s) : Kept s0 (leaveIntake
    q b s) := by
  unfold leaveIntake
  try dsimp only
  repeat' first
    | with_reducible exact hk
    | with_reducible apply forAll_kept
    | with_reducible apply hoLeave_kept
    | with_reducible assumption
    | intro _
    | split

theorem setPhase_kept {s0 : State} (qid : Nat) (idx : BitVec 32) (p : CmdPhase) (s : State) (hk : Kept s0 s) : Kept s0
    (setPhase qid idx p s) := by
  unfold setPhase
  try dsimp only
  repeat' first
    | with_reducible exact hk
    | with_reducible apply setQueue_kept
    | with_reducible apply leaveIntake_kept
    | with_reducible refine Kept.ite (fun _ => ?_) (fun _ => ?_)
    | fail_if_no_progress (with_reducible apply Kept.upd)
    | with_reducible assumption
    | intro _
    | split

theorem endCmd_kept {s0 : State} (qid : Nat) (idx : BitVec 32) (st : BitVec 8) (detail : Word) (s : State) (hk : Kept
    s0 s) : Kept s0 (endCmd qid idx st detail s) := by
  unfold endCmd
  try dsimp only
  repeat' first
    | with_reducible exact hk
    | with_reducible apply setPhase_kept

theorem withCmd_kept {s0 : State} (qid op : Nat) (f : Queue → QCmd → State → State) (s : State) (Hf : ∀ y0_ y1_ y2_,
    Kept s0 y2_ → Kept s0 (f y0_ y1_ y2_)) (hk : Kept s0 s) : Kept s0 (withCmd qid op f s) := by
  unfold withCmd
  try dsimp only
  repeat' first
    | with_reducible exact hk
    | with_reducible apply Hf
    | with_reducible refine Kept.ite (fun _ => ?_) (fun _ => ?_)
    | with_reducible assumption
    | intro _
    | split

theorem flushCmds_kept {s0 : State} (qid : Nat) (st : BitVec 8) (rank : Nat) (s : State) (hk : Kept s0 s) : Kept s0
    (flushCmds qid st rank s) := by
  unfold flushCmds
  try dsimp only
  repeat' first
    | with_reducible exact hk
    | with_reducible apply setQueue_kept
    | with_reducible apply forAll_kept
    | with_reducible apply readAll_kept
    | with_reducible apply leaveIntake_kept
    | with_reducible refine Kept.ite (fun _ => ?_) (fun _ => ?_)
    | fail_if_no_progress (with_reducible apply Kept.upd)
    | with_reducible assumption
    | intro _
    | split

theorem disableQueue_kept {s0 : State} (st : BitVec 8) (qid : Nat) (s : State) (hk : Kept s0 s) : Kept s0
    (disableQueue st qid s) := by
  unfold disableQueue
  try dsimp only
  repeat' first
    | with_reducible exact hk
    | with_reducible apply writeBack_kept
    | with_reducible apply modQueue_kept
    | with_reducible apply flushCmds_kept
    | with_reducible refine Kept.ite (fun _ => ?_) (fun _ => ?_)
    | fail_if_no_progress (with_reducible apply Kept.upd)
    | with_reducible assumption
    | intro _
    | split

theorem stallQueueBy_kept {s0 : State} (qid rank : Nat) (s : State) (hk : Kept s0 s) : Kept s0 (stallQueueBy qid rank
    s) := by
  unfold stallQueueBy
  try dsimp only
  repeat' first
    | with_reducible exact hk
    | with_reducible apply fset_kept
    | with_reducible apply evt_kept
    | with_reducible apply modQueue_kept
    | with_reducible apply flushCmds_kept
    | fail_if_no_progress (with_reducible apply Kept.upd)
    | with_reducible assumption
    | intro _

theorem stallQueue_kept {s0 : State} (qid : Nat) (s : State) (hk : Kept s0 s) : Kept s0 (stallQueue qid s) := by
  unfold stallQueue
  try dsimp only
  repeat' first
    | with_reducible exact hk
    | with_reducible apply stallQueueBy_kept

theorem ringBell_kept {s0 : State} (w : Nat) (word : Word) (s : State) (hk : Kept s0 s) : Kept s0 (ringBell w word s)
    := by
  unfold ringBell
  try dsimp only
  repeat' first
    | with_reducible exact hk
    | with_reducible apply faddSat_kept
    | with_reducible apply setQueue_kept
    | with_reducible apply stallQueue_kept
    | with_reducible refine Kept.ite (fun _ => ?_) (fun _ => ?_)
    | fail_if_no_progress (with_reducible apply Kept.upd)
    | split

theorem doorbellOp_kept {s0 : State} (r : Requester) (w : Fin 4) (word : Word) (s : State) (hk : Kept s0 s) : Kept s0
    (doorbellOp r w word s) := by
  unfold doorbellOp
  try dsimp only
  repeat' first
    | with_reducible exact hk
    | with_reducible apply countEvt_kept
    | with_reducible apply countDenied_kept
    | with_reducible apply ringBell_kept
    | with_reducible refine Kept.ite (fun _ => ?_) (fun _ => ?_)
    | fail_if_no_progress (with_reducible apply Kept.upd)
    | split

theorem writeCi_kept {s0 : State} (q : Queue) (s : State) (hk : Kept s0 s) : Kept s0 (writeCi q s) := by
  unfold writeCi
  try dsimp only
  repeat' first
    | with_reducible exact hk
    | with_reducible apply memWrite_kept
    | with_reducible refine Kept.ite (fun _ => ?_) (fun _ => ?_)
    | split

theorem dispatchCmd_kept {s0 : State} (qid : Nat) (s : State) (hk : Kept s0 s) : Kept s0 (dispatchCmd qid s) := by
  unfold dispatchCmd
  try dsimp only
  repeat' first
    | with_reducible exact hk
    | with_reducible apply setQueue_kept
    | with_reducible apply forAll_kept
    | with_reducible apply countEvt_kept
    | with_reducible apply hoSend_kept
    | with_reducible apply readAll_kept
    | with_reducible apply writeCi_kept
    | with_reducible refine Kept.ite (fun _ => ?_) (fun _ => ?_)
    | fail_if_no_progress (with_reducible apply Kept.upd)
    | with_reducible assumption
    | intro _
    | split

theorem writeCompletion_kept {s0 : State} (cqid : Nat) (bytes : List Byte) (s : State) (hk : Kept s0 s) : Kept s0
    (writeCompletion cqid bytes s) := by
  unfold writeCompletion
  try dsimp only
  repeat' first
    | with_reducible exact hk
    | with_reducible apply raiseVec_kept
    | with_reducible apply setQueue_kept
    | with_reducible apply countEvt_kept
    | with_reducible apply memPut_kept
    | with_reducible refine Kept.ite (fun _ => ?_) (fun _ => ?_)
    | fail_if_no_progress (with_reducible apply Kept.upd)
    | split

theorem completeCmd_kept {s0 : State} (qid : Nat) (idx : BitVec 32) (s : State) (hk : Kept s0 s) : Kept s0
    (completeCmd qid idx s) := by
  unfold completeCmd
  try dsimp only
  repeat' first
    | with_reducible exact hk
    | with_reducible apply syncAddAt_kept
    | with_reducible apply modQueue_kept
    | with_reducible apply writeCompletion_kept
    | with_reducible refine Kept.ite (fun _ => ?_) (fun _ => ?_)
    | fail_if_no_progress (with_reducible apply Kept.upd)
    | with_reducible assumption
    | intro _
    | split

theorem qctlEnd_kept {s0 : State} (cmd qid : Nat) (st : BitVec 8) (s : State) (hk : Kept s0 s) : Kept s0 (qctlEnd cmd
    qid st s) := by
  unfold qctlEnd
  try dsimp only
  repeat' first
    | with_reducible exact hk
    | with_reducible apply fset_kept

theorem invalidateOp_kept {s0 : State} (r : Requester) (qid : Nat) (s : State) (hk : Kept s0 s) : Kept s0
    (invalidateOp r qid s) := by
  unfold invalidateOp
  try dsimp only
  repeat' first
    | with_reducible exact hk
    | with_reducible apply setQueue_kept
    | with_reducible apply readAll_kept
    | with_reducible apply qctlEnd_kept
    | with_reducible refine Kept.ite (fun _ => ?_) (fun _ => ?_)
    | fail_if_no_progress (with_reducible apply Kept.upd)
    | split

theorem drainOp_kept {s0 : State} (r : Requester) (qid : Nat) (s : State) (hk : Kept s0 s) : Kept s0 (drainOp r qid s)
    := by
  unfold drainOp
  try dsimp only
  repeat' first
    | with_reducible exact hk
    | with_reducible apply modQueue_kept
    | with_reducible apply qctlEnd_kept
    | with_reducible refine Kept.ite (fun _ => ?_) (fun _ => ?_)
    | fail_if_no_progress (with_reducible apply Kept.upd)
    | with_reducible assumption
    | intro _
    | split

theorem resetQueueOp_kept {s0 : State} (r : Requester) (qid : Nat) (s : State) (hk : Kept s0 s) : Kept s0
    (resetQueueOp r qid s) := by
  unfold resetQueueOp
  try dsimp only
  repeat' first
    | with_reducible exact hk
    | with_reducible apply disableQueue_kept
    | with_reducible apply qctlEnd_kept
    | with_reducible refine Kept.ite (fun _ => ?_) (fun _ => ?_)
    | split

theorem qctlGate_kept {s0 : State} (r : Requester) (f : State → State) (s : State) (Hf : ∀ y0_, Kept s0 y0_ → Kept s0
    (f y0_)) (hk : Kept s0 s) : Kept s0 (qctlGate r f s) := by
  unfold qctlGate
  try dsimp only
  repeat' first
    | with_reducible exact hk
    | with_reducible apply regAccessFault_kept
    | with_reducible apply countDenied_kept
    | with_reducible apply Hf
    | with_reducible refine Kept.ite (fun _ => ?_) (fun _ => ?_)
    | split

/-! Operations of Machine/Flags.lean. -/

theorem raiseFlags_kept {s0 : State} (c fl : Nat) (s : State) (hk : Kept s0 s) : Kept s0 (raiseFlags c fl s) := by
  unfold raiseFlags
  try dsimp only
  repeat' first
    | with_reducible exact hk
    | with_reducible apply evt_kept
    | with_reducible apply forAll_kept
    | with_reducible assumption
    | intro _

/-! Operations of Machine/Engine.lean. -/

theorem setHead_kept {s0 : State} (c e : Nat) (x : EngInstr) (s : State) (hk : Kept s0 s) : Kept s0 (setHead c e x s)
    := by
  unfold setHead
  try dsimp only
  repeat' first
    | with_reducible exact hk
    | with_reducible apply modCore_kept
    | fail_if_no_progress (with_reducible apply Kept.upd)
    | with_reducible assumption
    | intro _

theorem popHead_kept {s0 : State} (c e : Nat) (s : State) (hk : Kept s0 s) : Kept s0 (popHead c e s) := by
  unfold popHead
  try dsimp only
  repeat' first
    | with_reducible exact hk
    | with_reducible apply modCore_kept
    | fail_if_no_progress (with_reducible apply Kept.upd)
    | with_reducible assumption
    | intro _

theorem finish_kept {s0 : State} (c e : Nat) (x : EngInstr) (st : BitVec 8) (s : State) (hk : Kept s0 s) : Kept s0
    (finish c e x st s) := by
  unfold finish
  try dsimp only
  repeat' first
    | with_reducible exact hk
    | with_reducible apply setHead_kept
    | fail_if_no_progress (with_reducible apply Kept.upd)

theorem markMismatch_kept {s0 : State} (c : Nat) (st : BitVec 8) (s : State) (hk : Kept s0 s) : Kept s0 (markMismatch
    c st s) := by
  unfold markMismatch
  try dsimp only
  repeat' first
    | with_reducible exact hk
    | with_reducible refine Kept.ite (fun _ => ?_) (fun _ => ?_)
    | fail_if_no_progress (with_reducible apply Kept.upd)
    | with_reducible assumption
    | intro _
    | split

theorem runHead_kept {s0 : State} (c e : Nat) (accept : EngInstr → Bool) (f : EngInstr → State → State × BitVec 8) (s
    : State) (Hf : ∀ y0_ y1_, Kept s0 y1_ → Kept s0 (f y0_ y1_).1) (hk : Kept s0 s) : Kept s0 (runHead c e accept f s)
    := by
  unfold runHead
  try dsimp only
  repeat' first
    | with_reducible exact hk
    | with_reducible apply finish_kept
    | with_reducible apply markMismatch_kept
    | with_reducible apply Hf
    | with_reducible refine Kept.ite (fun _ => ?_) (fun _ => ?_)
    | with_reducible assumption
    | intro _
    | split

theorem readRanges_kept {s0 : State} (l : List (Nat × Nat)) (s : State) (hk : Kept s0 s) : Kept s0 (readRanges l s).1
    := by
  unfold readRanges
  try dsimp only
  repeat' first
    | with_reducible exact hk
    | with_reducible apply readAll_kept
    | with_reducible refine Kept.foldl _ (fun _ _ h => ?_) _ _ ?_
    | with_reducible refine Kept.foldl1 _ (fun _ _ h => ?_) _ _ ?_
    | with_reducible refine Kept.foldl2 _ (fun _ _ h => ?_) _ _ ?_
    | with_reducible assumption
    | intro _

theorem engWrite_kept {s0 : State} (c a : Nat) (l : List Byte) (s : State) (hk : Kept s0 s) : Kept s0 (engWrite c a l
    s).1 := by
  unfold engWrite
  try dsimp only
  repeat' first
    | with_reducible exact hk
    | with_reducible apply memWrite_kept
    | with_reducible refine Kept.ite (fun _ => ?_) (fun _ => ?_)
    | split

theorem engWrites_kept {s0 : State} (c : Nat) (l : List (Nat × List Byte)) (s : State) (hk : Kept s0 s) : Kept s0
    (engWrites c l s).1 := by
  unfold engWrites
  try dsimp only
  repeat' first
    | with_reducible exact hk
    | with_reducible apply engWrite_kept
    | with_reducible refine Kept.foldl _ (fun _ _ h => ?_) _ _ ?_
    | with_reducible refine Kept.foldl1 _ (fun _ _ h => ?_) _ _ ?_
    | with_reducible refine Kept.foldl2 _ (fun _ _ h => ?_) _ _ ?_
    | with_reducible assumption
    | intro _

/-! Operations of Machine/Stream.lean. -/

theorem sxEnd_kept {s0 : State} (c : Nat) (x : EngInstr) (st : BitVec 8) (s : State) (hk : Kept s0 s) : Kept s0 (sxEnd
    c x st s) := by
  unfold sxEnd
  try dsimp only
  repeat' first
    | with_reducible exact hk
    | with_reducible apply finish_kept
    | with_reducible apply markMismatch_kept

theorem bellWrites_kept {s0 : State} (c dst : Nat) (l : List Byte) (s : State) (hk : Kept s0 s) : Kept s0 (bellWrites
    c dst l s) := by
  unfold bellWrites
  try dsimp only
  repeat' first
    | with_reducible exact hk
    | with_reducible apply forAll_kept
    | with_reducible apply regAccessFault_kept
    | with_reducible apply doorbellOp_kept
    | with_reducible refine Kept.ite (fun _ => ?_) (fun _ => ?_)
    | with_reducible assumption
    | intro _
    | split

theorem localWrite_kept {s0 : State} (c dst n : Nat) (sl : Tbl Byte) (s : State) (hk : Kept s0 s) : Kept s0
    (localWrite c dst n sl s).1 := by
  unfold localWrite
  try dsimp only
  repeat' first
    | with_reducible exact hk
    | with_reducible apply memStore_kept
    | with_reducible apply bellWrites_kept
    | with_reducible refine Kept.ite (fun _ => ?_) (fun _ => ?_)
    | with_reducible assumption
    | intro _
    | split

theorem localMove_kept {s0 : State} (c src dst n : Nat) (s : State) (hk : Kept s0 s) : Kept s0 (localMove c src dst n
    s).1 := by
  unfold localMove
  try dsimp only
  repeat' first
    | with_reducible exact hk
    | with_reducible apply readUpTo_kept
    | with_reducible apply localWrite_kept
    | with_reducible refine Kept.ite (fun _ => ?_) (fun _ => ?_)
    | split

theorem outstanding_kept {s0 : State} (tag : InstrTag) (kind : RemoteKind) (e : BitVec 19) (w : BitVec 64) (left
    notify : Nat) (s : State) (hk : Kept s0 s) : Kept s0 (outstanding tag kind e w left notify s) := by
  unfold outstanding
  try dsimp only
  repeat' first
    | with_reducible exact hk
    | with_reducible apply addRemote_kept

theorem outstandingCut_kept {s0 : State} (tag : InstrTag) (kind : RemoteKind) (e : BitVec 19) (w : BitVec 64) (left :
    Nat) (s : State) (hk : Kept s0 s) : Kept s0 (outstandingCut tag kind e w left s) := by
  unfold outstandingCut
  try dsimp only
  repeat' first
    | with_reducible exact hk
    | with_reducible apply addRemote_kept

theorem remoteNotify_kept {s0 : State} (c p : Nat) (x : EngInstr) (d : SxDesc) (s : State) (hk : Kept s0 s) : Kept s0
    (remoteNotify c p x d s) := by
  unfold remoteNotify
  try dsimp only
  repeat' first
    | with_reducible exact hk
    | with_reducible apply sendOne_kept
    | with_reducible apply sxEnd_kept
    | with_reducible apply outstanding_kept
    | with_reducible refine Kept.ite (fun _ => ?_) (fun _ => ?_)
    | with_reducible assumption
    | intro _
    | split

theorem remotePut_kept {s0 : State} (c p : Nat) (x : EngInstr) (d : SxDesc) (s : State) (hk : Kept s0 s) : Kept s0
    (remotePut c p x d s) := by
  unfold remotePut
  try dsimp only
  repeat' first
    | with_reducible exact hk
    | with_reducible apply readUpTo_kept
    | with_reducible apply sendData_kept
    | with_reducible apply sxEnd_kept
    | with_reducible apply outstanding_kept
    | with_reducible apply outstandingCut_kept
    | with_reducible refine Kept.ite (fun _ => ?_) (fun _ => ?_)
    | with_reducible assumption
    | intro _
    | split

theorem remoteGet_kept {s0 : State} (c p : Nat) (x : EngInstr) (d : SxDesc) (s : State) (hk : Kept s0 s) : Kept s0
    (remoteGet c p x d s) := by
  unfold remoteGet
  try dsimp only
  repeat' first
    | with_reducible exact hk
    | with_reducible apply sendOne_kept
    | with_reducible apply sxEnd_kept
    | with_reducible apply outstanding_kept
    | with_reducible refine Kept.ite (fun _ => ?_) (fun _ => ?_)
    | with_reducible assumption
    | intro _
    | split

theorem putOp_kept {s0 : State} (c : Nat) (s : State) (hk : Kept s0 s) : Kept s0 (putOp c s) := by
  unfold putOp
  try dsimp only
  repeat' first
    | with_reducible exact hk
    | with_reducible apply sxEnd_kept
    | with_reducible apply localMove_kept
    | with_reducible apply remoteNotify_kept
    | with_reducible apply remotePut_kept
    | with_reducible refine Kept.ite (fun _ => ?_) (fun _ => ?_)
    | with_reducible refine Kept.pr2 (by assumption) ?_
    | with_reducible refine Kept.pr1 (by assumption) ?_
    | with_reducible refine Kept.pr3 (by assumption) ?_
    | with_reducible assumption
    | intro _
    | split

theorem getOp_kept {s0 : State} (c : Nat) (s : State) (hk : Kept s0 s) : Kept s0 (getOp c s) := by
  unfold getOp
  try dsimp only
  repeat' first
    | with_reducible exact hk
    | with_reducible apply sxEnd_kept
    | with_reducible apply localMove_kept
    | with_reducible apply remoteGet_kept
    | with_reducible refine Kept.ite (fun _ => ?_) (fun _ => ?_)
    | with_reducible refine Kept.pr2 (by assumption) ?_
    | with_reducible refine Kept.pr1 (by assumption) ?_
    | with_reducible refine Kept.pr3 (by assumption) ?_
    | with_reducible assumption
    | intro _
    | split

theorem mcastOp_kept {s0 : State} (c : Nat) (s : State) (hk : Kept s0 s) : Kept s0 (mcastOp c s) := by
  unfold mcastOp
  try dsimp only
  repeat' first
    | with_reducible exact hk
    | with_reducible apply forAll_kept
    | with_reducible apply countEvt_kept
    | with_reducible apply readUpTo_kept
    | with_reducible apply memStore_kept
    | with_reducible apply sxEnd_kept
    | with_reducible refine Kept.ite (fun _ => ?_) (fun _ => ?_)
    | with_reducible refine Kept.pr2 (by assumption) ?_
    | with_reducible refine Kept.pr1 (by assumption) ?_
    | with_reducible refine Kept.pr3 (by assumption) ?_
    | with_reducible assumption
    | intro _
    | split

theorem signalAt_kept {s0 : State} (c a : Nat) (v : Word) (s : State) (hk : Kept s0 s) : Kept s0 (signalAt c a v s) :=
    by
  unfold signalAt
  try dsimp only
  repeat' first
    | with_reducible exact hk
    | with_reducible apply notifyAt_kept
    | with_reducible refine Kept.ite (fun _ => ?_) (fun _ => ?_)
    | split

theorem fireSignals_kept {s0 : State} (c : Nat) (s : State) (hk : Kept s0 s) : Kept s0 (fireSignals c s) := by
  unfold fireSignals
  try dsimp only
  repeat' first
    | with_reducible exact hk
    | with_reducible apply modCore_kept
    | with_reducible apply forAll_kept
    | with_reducible apply signalAt_kept
    | fail_if_no_progress (with_reducible apply Kept.upd)
    | with_reducible assumption
    | intro _

theorem countSignals_kept {s0 : State} (c e : Nat) (s : State) (hk : Kept s0 s) : Kept s0 (countSignals c e s) := by
  unfold countSignals
  try dsimp only
  repeat' first
    | with_reducible exact hk
    | with_reducible apply modCore_kept
    | with_reducible apply fireSignals_kept
    | fail_if_no_progress (with_reducible apply Kept.upd)
    | with_reducible assumption
    | intro _

theorem postLec_kept {s0 : State} (c e : Nat) (w : BitVec 64) (s : State) (hk : Kept s0 s) : Kept s0 (postLec c e w s)
    := by
  unfold postLec
  try dsimp only
  repeat' first
    | with_reducible exact hk
    | with_reducible apply modCore_kept
    | with_reducible refine Kept.ite (fun _ => ?_) (fun _ => ?_)
    | fail_if_no_progress (with_reducible apply Kept.upd)
    | with_reducible assumption
    | intro _
    | split

theorem notifyOf_kept {s0 : State} (c : Nat) (x : EngInstr) (s : State) (hk : Kept s0 s) : Kept s0 (notifyOf c x s) :=
    by
  unfold notifyOf
  try dsimp only
  repeat' first
    | with_reducible exact hk
    | with_reducible apply syncAddAt_kept
    | with_reducible apply markMismatch_kept
    | with_reducible refine Kept.ite (fun _ => ?_) (fun _ => ?_)
    | split

theorem setProgState_kept {s0 : State} (c v : Nat) (s : State) (hk : Kept s0 s) : Kept s0 (setProgState c v s) := by
  unfold setProgState
  try dsimp only
  repeat' first
    | with_reducible exact hk
    | with_reducible apply fset_kept

theorem freeCore_kept {s0 : State} (c : Nat) (s : State) (hk : Kept s0 s) : Kept s0 (freeCore c s) := by
  unfold freeCore
  try dsimp only
  repeat' first
    | with_reducible exact hk
    | with_reducible apply modCore_kept
    | with_reducible apply setProgState_kept
    | with_reducible refine Kept.ite (fun _ => ?_) (fun _ => ?_)
    | fail_if_no_progress (with_reducible apply Kept.upd)
    | with_reducible assumption
    | intro _
    | split

theorem endCore_kept {s0 : State} (c : Nat) (s : State) (hk : Kept s0 s) : Kept s0 (endCore c s) := by
  unfold endCore
  try dsimp only
  repeat' first
    | with_reducible exact hk
    | with_reducible apply modCore_kept
    | with_reducible apply freeCore_kept
    | with_reducible refine Kept.ite (fun _ => ?_) (fun _ => ?_)
    | fail_if_no_progress (with_reducible apply Kept.upd)
    | with_reducible assumption
    | intro _
    | split

theorem endIdle_kept {s0 : State} (c : Nat) (s : State) (hk : Kept s0 s) : Kept s0 (endIdle c s) := by
  unfold endIdle
  try dsimp only
  repeat' first
    | with_reducible exact hk
    | with_reducible apply endCore_kept
    | with_reducible refine Kept.ite (fun _ => ?_) (fun _ => ?_)
    | split

theorem completeEng_kept {s0 : State} (c e : Nat) (s : State) (hk : Kept s0 s) : Kept s0 (completeEng c e s) := by
  unfold completeEng
  try dsimp only
  repeat' first
    | with_reducible exact hk
    | with_reducible apply modCore_kept
    | with_reducible apply popHead_kept
    | with_reducible apply countSignals_kept
    | with_reducible apply postLec_kept
    | with_reducible apply notifyOf_kept
    | with_reducible apply endIdle_kept
    | with_reducible refine Kept.ite (fun _ => ?_) (fun _ => ?_)
    | fail_if_no_progress (with_reducible apply Kept.upd)
    | with_reducible assumption
    | intro _
    | split

/-! Operations of Machine/Control.lean. -/

theorem setPc_kept {s0 : State} (c v : Nat) (s : State) (hk : Kept s0 s) : Kept s0 (setPc c v s) := by
  unfold setPc
  try dsimp only
  repeat' first
    | with_reducible exact hk
    | with_reducible apply fset_kept

theorem askAdmit_kept {s0 : State} (c : Nat) (s : State) (hk : Kept s0 s) : Kept s0 (askAdmit c s) := by
  unfold askAdmit
  try dsimp only
  repeat' first
    | with_reducible exact hk
    | with_reducible refine Kept.ite (fun _ => ?_) (fun _ => ?_)
    | fail_if_no_progress (with_reducible apply Kept.upd)
    | split

theorem modInst_kept {s0 : State} (id : Nat) (f : Inst → Inst) (s : State) (hk : Kept s0 s) : Kept s0 (modInst id f s)
    := by
  unfold modInst
  try dsimp only
  repeat' first
    | with_reducible exact hk
    | with_reducible refine Kept.ite (fun _ => ?_) (fun _ => ?_)
    | fail_if_no_progress (with_reducible apply Kept.upd)
    | with_reducible assumption
    | intro _
    | split

theorem dropInst_kept {s0 : State} (id : Nat) (s : State) (hk : Kept s0 s) : Kept s0 (dropInst id s) := by
  unfold dropInst
  try dsimp only
  repeat' first
    | with_reducible exact hk
    | fail_if_no_progress (with_reducible apply Kept.upd)
    | with_reducible assumption
    | intro _

theorem setEntry_kept {s0 : State} (c i : Nat) (e : Option LaunchEntry) (s : State) (hk : Kept s0 s) : Kept s0
    (setEntry c i e s) := by
  unfold setEntry
  try dsimp only
  repeat' first
    | with_reducible exact hk
    | with_reducible apply modCore_kept
    | fail_if_no_progress (with_reducible apply Kept.upd)
    | with_reducible assumption
    | intro _

theorem dropEntries_kept {s0 : State} (id : Nat) (s : State) (hk : Kept s0 s) : Kept s0 (dropEntries id s) := by
  unfold dropEntries
  try dsimp only
  repeat' first
    | with_reducible exact hk
    | with_reducible apply forAll_kept
    | with_reducible apply modInst_kept
    | with_reducible apply setEntry_kept
    | fail_if_no_progress (with_reducible apply Kept.upd)
    | with_reducible assumption
    | intro _
    | split

theorem stopProg_kept {s0 : State} (c pc kind : Nat) (st : BitVec 8) (r : RunProg) (s : State) (hk : Kept s0 s) : Kept
    s0 (stopProg c pc kind st r s) := by
  unfold stopProg
  try dsimp only
  repeat' first
    | with_reducible exact hk
    | with_reducible apply fset_kept
    | with_reducible apply modCore_kept
    | with_reducible apply forAll_kept
    | with_reducible apply setProgState_kept
    | with_reducible apply dropEntries_kept
    | with_reducible refine Kept.ite (fun _ => ?_) (fun _ => ?_)
    | fail_if_no_progress (with_reducible apply Kept.upd)
    | with_reducible assumption
    | intro _
    | split

theorem ctrlCond_kept {s0 : State} (c pc : Nat) (r : RunProg) (cop arg : Nat) (s : State) (hk : Kept s0 s) : Kept s0
    (ctrlCond c pc r cop arg s).2.2 := by
  unfold ctrlCond
  try dsimp only
  repeat' first
    | with_reducible exact hk
    | with_reducible apply waitSync_kept
    | with_reducible refine Kept.ite (fun _ => ?_) (fun _ => ?_)
    | with_reducible assumption
    | intro _
    | split

theorem setLoop_kept {s0 : State} (c lc count : Nat) (s : State) (hk : Kept s0 s) : Kept s0 (setLoop c lc count s) :=
    by
  unfold setLoop
  try dsimp only
  repeat' first
    | with_reducible exact hk
    | with_reducible apply modCore_kept
    | fail_if_no_progress (with_reducible apply Kept.upd)
    | with_reducible assumption
    | intro _

theorem loopEnd_kept {s0 : State} (c lc target pc : Nat) (s : State) (hk : Kept s0 s) : Kept s0 (loopEnd c lc target
    pc s) := by
  unfold loopEnd
  try dsimp only
  repeat' first
    | with_reducible exact hk
    | with_reducible apply modCore_kept
    | with_reducible apply setPc_kept
    | with_reducible refine Kept.ite (fun _ => ?_) (fun _ => ?_)
    | fail_if_no_progress (with_reducible apply Kept.upd)
    | with_reducible assumption
    | intro _
    | split

theorem addSignal_kept {s0 : State} (c a : Nat) (v : Word) (ahead : List Nat) (s : State) (hk : Kept s0 s) : Kept s0
    (addSignal c a v ahead s) := by
  unfold addSignal
  try dsimp only
  repeat' first
    | with_reducible exact hk
    | with_reducible apply modCore_kept
    | with_reducible apply fireSignals_kept
    | fail_if_no_progress (with_reducible apply Kept.upd)
    | with_reducible assumption
    | intro _

theorem ctrlEffect_kept {s0 : State} (c pc : Nat) (r : RunProg) (cop arg : Nat) (ahead : List Nat) (s : State) (hk :
    Kept s0 s) : Kept s0 (ctrlEffect c pc r cop arg ahead s) := by
  unfold ctrlEffect
  try dsimp only
  repeat' first
    | with_reducible exact hk
    | with_reducible apply endCore_kept
    | with_reducible apply setPc_kept
    | with_reducible apply setLoop_kept
    | with_reducible apply loopEnd_kept
    | with_reducible apply addSignal_kept
    | with_reducible assumption
    | intro _
    | split

theorem drawGap_kept {s0 : State} (c : Nat) (s : State) (hk : Kept s0 s) : Kept s0 (drawGap c s) := by
  unfold drawGap
  try dsimp only
  repeat' first
    | with_reducible exact hk
    | with_reducible apply modCore_kept
    | fail_if_no_progress (with_reducible apply Kept.upd)
    | with_reducible assumption
    | intro _

theorem sampleTag_kept {s0 : State} (c : Nat) (s : State) (hk : Kept s0 s) : Kept s0 (sampleTag c s) := by
  unfold sampleTag
  try dsimp only
  repeat' first
    | with_reducible exact hk
    | with_reducible apply modCore_kept
    | with_reducible apply countEvt_kept
    | with_reducible apply drawGap_kept
    | with_reducible refine Kept.ite (fun _ => ?_) (fun _ => ?_)
    | fail_if_no_progress (with_reducible apply Kept.upd)
    | with_reducible assumption
    | intro _
    | split

theorem touchCore_kept {s0 : State} (c : Nat) (s : State) (hk : Kept s0 s) : Kept s0 (touchCore c s) := by
  unfold touchCore
  try dsimp only
  repeat' first
    | with_reducible exact hk
    | with_reducible apply modCore_kept
    | fail_if_no_progress (with_reducible apply Kept.upd)
    | with_reducible assumption
    | intro _

theorem pushEng_kept {s0 : State} (c pc e w : Nat) (r : RunProg) (s : State) (hk : Kept s0 s) : Kept s0 (pushEng c pc
    e w r s) := by
  unfold pushEng
  try dsimp only
  repeat' first
    | with_reducible exact hk
    | with_reducible apply modCore_kept
    | with_reducible apply bumpSeqno_kept
    | with_reducible apply sampleTag_kept
    | with_reducible apply touchCore_kept
    | with_reducible refine Kept.ite (fun _ => ?_) (fun _ => ?_)
    | fail_if_no_progress (with_reducible apply Kept.upd)
    | with_reducible assumption
    | intro _
    | split

theorem issueWith_kept {s0 : State} (c : Nat) (r : RunProg) (ctrl : Nat) (l : List (Nat × Nat)) (s : State) (hk : Kept
    s0 s) : Kept s0 (issueWith c r ctrl l s) := by
  unfold issueWith
  try dsimp only
  repeat' first
    | with_reducible exact hk
    | with_reducible apply fadd_kept
    | with_reducible apply forAll_kept
    | with_reducible apply countEvt_kept
    | with_reducible apply setProgState_kept
    | with_reducible apply stopProg_kept
    | with_reducible apply ctrlCond_kept
    | with_reducible apply ctrlEffect_kept
    | with_reducible apply pushEng_kept
    | with_reducible refine Kept.ite (fun _ => ?_) (fun _ => ?_)
    | with_reducible assumption
    | intro _
    | split

theorem readBundle_kept {s0 : State} (c a : Nat) (r : RunProg) (s : State) (hk : Kept s0 s) : Kept s0 (readBundle c a
    r s).2.2 := by
  unfold readBundle
  try dsimp only
  repeat' first
    | with_reducible exact hk
    | with_reducible apply markMismatch_kept
    | with_reducible apply readRanges_kept
    | with_reducible refine Kept.ite (fun _ => ?_) (fun _ => ?_)
    | with_reducible assumption
    | intro _
    | split

theorem blockedCore_kept {s0 : State} (c : Nat) (s : State) (hk : Kept s0 s) : Kept s0 (blockedCore c s) := by
  unfold blockedCore
  try dsimp only
  repeat' first
    | with_reducible exact hk
    | with_reducible apply setProgState_kept
    | with_reducible apply askAdmit_kept
    | with_reducible refine Kept.ite (fun _ => ?_) (fun _ => ?_)
    | split

theorem bundleIssueOp_kept {s0 : State} (c : Nat) (s : State) (hk : Kept s0 s) : Kept s0 (bundleIssueOp c s) := by
  unfold bundleIssueOp
  try dsimp only
  repeat' first
    | with_reducible exact hk
    | with_reducible apply stopProg_kept
    | with_reducible apply issueWith_kept
    | with_reducible apply readBundle_kept
    | with_reducible apply blockedCore_kept
    | with_reducible refine Kept.ite (fun _ => ?_) (fun _ => ?_)
    | with_reducible assumption
    | intro _
    | split

theorem ctrlRow_kept {s0 : State} (c cop arg : Nat) (s : State) (hk : Kept s0 s) : Kept s0 (ctrlRow c cop arg s) := by
  unfold ctrlRow
  try dsimp only
  repeat' first
    | with_reducible exact hk
    | with_reducible apply issueWith_kept
    | with_reducible apply blockedCore_kept
    | with_reducible assumption
    | intro _
    | split

/-! Operations of Machine/Programs.lean. -/

theorem placeImages_kept {s0 : State} (o : List Byte) (l : List ProgCore) (b d : Nat) (s : State) (hk : Kept s0 s) :
    Kept s0 (placeImages o l b d s) := by
  induction l generalizing b d s with
  | nil => exact hk
  | cons e r ih => exact ih _ _ _ (memWrite_kept _ _ _ (memWrite_kept _ _ _ hk))

theorem loadOp_kept {s0 : State} (qid : Nat) (s : State) (hk : Kept s0 s) : Kept s0 (loadOp qid s) := by
  unfold loadOp
  try dsimp only
  repeat' first
    | with_reducible exact hk
    | with_reducible apply setSlot_kept
    | with_reducible apply readAll_kept
    | with_reducible apply setPhase_kept
    | with_reducible apply endCmd_kept
    | with_reducible apply withCmd_kept
    | with_reducible apply placeImages_kept
    | with_reducible refine Kept.ite (fun _ => ?_) (fun _ => ?_)
    | fail_if_no_progress (with_reducible apply Kept.upd)
    | with_reducible assumption
    | intro _
    | split

theorem translationDone_kept {s0 : State} (imgs : List CoreImage) (s : State) (hk : Kept s0 s) : Kept s0
    (translationDone imgs s) := by
  unfold translationDone
  try dsimp only
  repeat' first
    | with_reducible exact hk
    | with_reducible apply setSlot_kept
    | with_reducible apply forAll_kept
    | with_reducible apply memWrite_kept
    | with_reducible apply endCmd_kept
    | with_reducible refine Kept.ite (fun _ => ?_) (fun _ => ?_)
    | fail_if_no_progress (with_reducible apply Kept.upd)
    | with_reducible assumption
    | intro _
    | split

theorem startAsks_kept {s0 : State} (c : Nat) (s : State) (hk : Kept s0 s) : Kept s0 (startAsks c s) := by
  unfold startAsks
  try dsimp only
  repeat' first
    | with_reducible exact hk
    | with_reducible apply askAdmit_kept
    | with_reducible apply touchCore_kept
    | with_reducible refine Kept.ite (fun _ => ?_) (fun _ => ?_)
    | split

theorem startOn_kept {s0 : State} (i : Inst) (c : Nat) (s : State) (hk : Kept s0 s) : Kept s0 (startOn i c s) := by
  unfold startOn
  try dsimp only
  repeat' first
    | with_reducible exact hk
    | with_reducible apply regSet_kept
    | with_reducible apply fset_kept
    | with_reducible apply modCore_kept
    | with_reducible apply memWrite_kept
    | with_reducible apply setProgState_kept
    | with_reducible apply setPc_kept
    | with_reducible apply startAsks_kept
    | with_reducible refine Kept.ite (fun _ => ?_) (fun _ => ?_)
    | fail_if_no_progress (with_reducible apply Kept.upd)
    | with_reducible assumption
    | intro _
    | split

theorem launchOp_kept {s0 : State} (qid : Nat) (s : State) (hk : Kept s0 s) : Kept s0 (launchOp qid s) := by
  unfold launchOp
  try dsimp only
  repeat' first
    | with_reducible exact hk
    | with_reducible apply forAll_kept
    | with_reducible apply setPhase_kept
    | with_reducible apply endCmd_kept
    | with_reducible apply withCmd_kept
    | with_reducible apply startOn_kept
    | with_reducible refine Kept.ite (fun _ => ?_) (fun _ => ?_)
    | fail_if_no_progress (with_reducible apply Kept.upd)
    | with_reducible assumption
    | intro _
    | split

theorem finishInst_kept {s0 : State} (i : Inst) (s : State) (hk : Kept s0 s) : Kept s0 (finishInst i s) := by
  unfold finishInst
  try dsimp only
  repeat' first
    | with_reducible exact hk
    | with_reducible apply endCmd_kept
    | with_reducible apply dropInst_kept

theorem cancelInst_kept {s0 : State} (id : Nat) (st : BitVec 8) (s : State) (hk : Kept s0 s) : Kept s0 (cancelInst id
    st s) := by
  unfold cancelInst
  try dsimp only
  repeat' first
    | with_reducible exact hk
    | with_reducible apply modCore_kept
    | with_reducible apply forAll_kept
    | with_reducible apply setProgState_kept
    | with_reducible apply modInst_kept
    | with_reducible apply dropEntries_kept
    | with_reducible apply finishInst_kept
    | with_reducible refine Kept.ite (fun _ => ?_) (fun _ => ?_)
    | fail_if_no_progress (with_reducible apply Kept.upd)
    | with_reducible assumption
    | intro _
    | split

theorem armOp_kept {s0 : State} (qid : Nat) (s : State) (hk : Kept s0 s) : Kept s0 (armOp qid s) := by
  unfold armOp
  try dsimp only
  repeat' first
    | with_reducible exact hk
    | with_reducible apply evt_kept
    | with_reducible apply forAll_kept
    | with_reducible apply setPhase_kept
    | with_reducible apply endCmd_kept
    | with_reducible apply withCmd_kept
    | with_reducible apply setEntry_kept
    | with_reducible apply cancelInst_kept
    | with_reducible refine Kept.ite (fun _ => ?_) (fun _ => ?_)
    | fail_if_no_progress (with_reducible apply Kept.upd)
    | with_reducible assumption
    | intro _
    | split

theorem fireOn_kept {s0 : State} (c slot : Nat) (i : Inst) (s : State) (hk : Kept s0 s) : Kept s0 (fireOn c slot i s)
    := by
  unfold fireOn
  try dsimp only
  repeat' first
    | with_reducible exact hk
    | with_reducible apply modInst_kept
    | with_reducible apply setEntry_kept
    | with_reducible apply startOn_kept
    | fail_if_no_progress (with_reducible apply Kept.upd)
    | with_reducible assumption
    | intro _

theorem entryFire_kept {s0 : State} (c slot : Nat) (s : State) (hk : Kept s0 s) : Kept s0 (entryFire c slot s) := by
  unfold entryFire
  try dsimp only
  repeat' first
    | with_reducible exact hk
    | with_reducible apply evt_kept
    | with_reducible apply setEntry_kept
    | with_reducible apply cancelInst_kept
    | with_reducible apply fireOn_kept
    | with_reducible refine Kept.ite (fun _ => ?_) (fun _ => ?_)
    | fail_if_no_progress (with_reducible apply Kept.upd)
    | with_reducible assumption
    | intro _
    | split

theorem lateStart_kept {s0 : State} (c : Nat) (s : State) (hk : Kept s0 s) : Kept s0 (lateStart c s) := by
  unfold lateStart
  try dsimp only
  repeat' first
    | with_reducible exact hk
    | with_reducible apply evt_kept
    | with_reducible apply modInst_kept
    | with_reducible apply setEntry_kept
    | with_reducible apply fireOn_kept
    | with_reducible refine Kept.ite (fun _ => ?_) (fun _ => ?_)
    | fail_if_no_progress (with_reducible apply Kept.upd)
    | with_reducible refine Kept.pr2 (by assumption) ?_
    | with_reducible refine Kept.pr1 (by assumption) ?_
    | with_reducible refine Kept.pr3 (by assumption) ?_
    | with_reducible assumption
    | intro _
    | split

theorem instanceEnd_kept {s0 : State} (id : Nat) (s : State) (hk : Kept s0 s) : Kept s0 (instanceEnd id s) := by
  unfold instanceEnd
  try dsimp only
  repeat' first
    | with_reducible exact hk
    | with_reducible apply modCore_kept
    | with_reducible apply forAll_kept
    | with_reducible apply finishInst_kept
    | with_reducible refine Kept.ite (fun _ => ?_) (fun _ => ?_)
    | fail_if_no_progress (with_reducible apply Kept.upd)
    | with_reducible assumption
    | intro _
    | split

theorem disarmOp_kept {s0 : State} (qid : Nat) (s : State) (hk : Kept s0 s) : Kept s0 (disarmOp qid s) := by
  unfold disarmOp
  try dsimp only
  repeat' first
    | with_reducible exact hk
    | with_reducible apply forAll_kept
    | with_reducible apply endCmd_kept
    | with_reducible apply withCmd_kept
    | with_reducible apply cancelInst_kept
    | with_reducible refine Kept.ite (fun _ => ?_) (fun _ => ?_)
    | with_reducible assumption
    | intro _
    | split

theorem freeProg_kept {s0 : State} (i : Nat) (s : State) (hk : Kept s0 s) : Kept s0 (freeProg i s) := by
  unfold freeProg
  try dsimp only
  repeat' first
    | with_reducible exact hk
    | with_reducible apply setSlot_kept
    | with_reducible refine Kept.ite (fun _ => ?_) (fun _ => ?_)
    | split

theorem unloadInst_kept {s0 : State} (i : Inst) (s : State) (hk : Kept s0 s) : Kept s0 (unloadInst i s) := by
  unfold unloadInst
  try dsimp only
  repeat' first
    | with_reducible exact hk
    | with_reducible apply finishInst_kept
    | with_reducible apply cancelInst_kept
    | with_reducible refine Kept.ite (fun _ => ?_) (fun _ => ?_)
    | split

theorem unloadOp_kept {s0 : State} (qid : Nat) (s : State) (hk : Kept s0 s) : Kept s0 (unloadOp qid s) := by
  unfold unloadOp
  try dsimp only
  repeat' first
    | with_reducible exact hk
    | with_reducible apply forAll_kept
    | with_reducible apply endCmd_kept
    | with_reducible apply withCmd_kept
    | with_reducible apply freeProg_kept
    | with_reducible apply unloadInst_kept
    | with_reducible refine Kept.ite (fun _ => ?_) (fun _ => ?_)
    | with_reducible assumption
    | intro _
    | split

theorem moveBy_kept {s0 : State} (qid : Nat) (q : Queue) (c : QCmd) (e : BitVec 19) (w : BitVec 64) (dst n : Nat) (l :
    List Byte) (whole : Bool) (s : State) (hk : Kept s0 s) : Kept s0 (moveBy qid q c e w dst n l whole s) := by
  unfold moveBy
  try dsimp only
  repeat' first
    | with_reducible exact hk
    | with_reducible apply sendData_kept
    | with_reducible apply bumpSeqno_kept
    | with_reducible apply setPhase_kept
    | with_reducible apply outstanding_kept
    | with_reducible apply outstandingCut_kept
    | with_reducible refine Kept.ite (fun _ => ?_) (fun _ => ?_)
    | split

theorem moveOut_kept {s0 : State} (qid : Nat) (q : Queue) (c : QCmd) (dst n : Nat) (l : List Byte) (whole : Bool) (s :
    State) (hk : Kept s0 s) : Kept s0 (moveOut qid q c dst n l whole s) := by
  unfold moveOut
  try dsimp only
  repeat' first
    | with_reducible exact hk
    | with_reducible apply endCmd_kept
    | with_reducible apply moveBy_kept
    | with_reducible refine Kept.ite (fun _ => ?_) (fun _ => ?_)
    | split

theorem moveIn_kept {s0 : State} (qid : Nat) (q : Queue) (c : QCmd) (src dst n : Nat) (s : State) (hk : Kept s0 s) :
    Kept s0 (moveIn qid q c src dst n s) := by
  unfold moveIn
  try dsimp only
  repeat' first
    | with_reducible exact hk
    | with_reducible apply sendOne_kept
    | with_reducible apply bumpSeqno_kept
    | with_reducible apply setPhase_kept
    | with_reducible apply endCmd_kept
    | with_reducible apply outstanding_kept
    | with_reducible refine Kept.ite (fun _ => ?_) (fun _ => ?_)
    | split

theorem copyOp_kept {s0 : State} (qid : Nat) (s : State) (hk : Kept s0 s) : Kept s0 (copyOp qid s) := by
  unfold copyOp
  try dsimp only
  repeat' first
    | with_reducible exact hk
    | with_reducible apply readUpTo_kept
    | with_reducible apply endCmd_kept
    | with_reducible apply withCmd_kept
    | with_reducible apply localMove_kept
    | with_reducible apply askAdmit_kept
    | with_reducible apply moveOut_kept
    | with_reducible apply moveIn_kept
    | with_reducible refine Kept.ite (fun _ => ?_) (fun _ => ?_)
    | with_reducible assumption
    | intro _
    | split

theorem fillOp_kept {s0 : State} (qid : Nat) (s : State) (hk : Kept s0 s) : Kept s0 (fillOp qid s) := by
  unfold fillOp
  try dsimp only
  repeat' first
    | with_reducible exact hk
    | with_reducible apply endCmd_kept
    | with_reducible apply withCmd_kept
    | with_reducible apply localWrite_kept
    | with_reducible apply askAdmit_kept
    | with_reducible apply moveOut_kept
    | with_reducible refine Kept.ite (fun _ => ?_) (fun _ => ?_)
    | with_reducible assumption
    | intro _
    | split

/-! Operations of Machine/Vector.lean. -/

theorem vxLaneOp_kept {s0 : State} (c w : Nat) (g : Core → Nat → Val × Nat) (s : State) (hk : Kept s0 s) : Kept s0
    (vxLaneOp c w g s).1 := by
  unfold vxLaneOp
  try dsimp only
  repeat' first
    | with_reducible exact hk
    | with_reducible apply setCore_kept
    | with_reducible apply raiseFlags_kept
    | with_reducible assumption
    | intro _

theorem vxAdd_kept {s0 : State} (c w : Nat) (s : State) (hk : Kept s0 s) : Kept s0 (vxAdd c w s).1 :=
  vxLaneOp_kept _ _ _ _ hk

theorem vxSub_kept {s0 : State} (c w : Nat) (s : State) (hk : Kept s0 s) : Kept s0 (vxSub c w s).1 :=
  vxLaneOp_kept _ _ _ _ hk

theorem vxMul_kept {s0 : State} (c w : Nat) (s : State) (hk : Kept s0 s) : Kept s0 (vxMul c w s).1 :=
  vxLaneOp_kept _ _ _ _ hk

theorem vxFma_kept {s0 : State} (c w : Nat) (s : State) (hk : Kept s0 s) : Kept s0 (vxFma c w s).1 :=
  vxLaneOp_kept _ _ _ _ hk

theorem vxMin_kept {s0 : State} (c w : Nat) (s : State) (hk : Kept s0 s) : Kept s0 (vxMin c w s).1 :=
  vxLaneOp_kept _ _ _ _ hk

theorem vxMax_kept {s0 : State} (c w : Nat) (s : State) (hk : Kept s0 s) : Kept s0 (vxMax c w s).1 :=
  vxLaneOp_kept _ _ _ _ hk

theorem vxSel_kept {s0 : State} (c w : Nat) (s : State) (hk : Kept s0 s) : Kept s0 (vxSel c w s).1 := by
  unfold vxSel
  try dsimp only
  repeat' first
    | with_reducible exact hk
    | with_reducible apply setCore_kept
    | with_reducible refine Kept.ite (fun _ => ?_) (fun _ => ?_)
    | with_reducible assumption
    | intro _
    | split

theorem vxCompare_kept {s0 : State} (c w : Nat) (rel : Val → Val → Bool) (s : State) (hk : Kept s0 s) : Kept s0
    (vxCompare c w rel s).1 := by
  unfold vxCompare
  try dsimp only
  repeat' first
    | with_reducible exact hk
    | with_reducible apply setCore_kept
    | with_reducible refine Kept.ite (fun _ => ?_) (fun _ => ?_)
    | with_reducible assumption
    | intro _
    | split

theorem putAc_kept {s0 : State} (c w a : Nat) (res : List (Nat × Nat)) (s : State) (hk : Kept s0 s) : Kept s0 (putAc c
    w a res s).1 := by
  unfold putAc
  try dsimp only
  repeat' first
    | with_reducible exact hk
    | with_reducible apply setCore_kept
    | with_reducible apply raiseFlags_kept
    | with_reducible refine Kept.ite (fun _ => ?_) (fun _ => ?_)
    | with_reducible assumption
    | intro _
    | split

theorem vxAcc_kept {s0 : State} (c w : Nat) (s : State) (hk : Kept s0 s) : Kept s0 (vxAcc c w s).1 := by
  unfold vxAcc
  try dsimp only
  repeat' first
    | with_reducible exact hk
    | with_reducible apply putAc_kept
    | with_reducible assumption
    | intro _

theorem convLanes_kept {s0 : State} (c w fmt : Nat) (vals : List Val) (s : State) (hk : Kept s0 s) : Kept s0
    (convLanes c w fmt vals s).1 := by
  unfold convLanes
  try dsimp only
  repeat' first
    | with_reducible exact hk
    | with_reducible apply setCore_kept
    | with_reducible apply raiseFlags_kept

theorem vxAccRead_kept {s0 : State} (c w : Nat) (s : State) (hk : Kept s0 s) : Kept s0 (vxAccRead c w s).1 := by
  unfold vxAccRead
  try dsimp only
  repeat' first
    | with_reducible exact hk
    | with_reducible apply convLanes_kept

theorem vxCvt_kept {s0 : State} (c w : Nat) (s : State) (hk : Kept s0 s) : Kept s0 (vxCvt c w s).1 := by
  unfold vxCvt
  try dsimp only
  repeat' first
    | with_reducible exact hk
    | with_reducible apply raiseFlags_kept
    | with_reducible apply putAc_kept
    | with_reducible apply convLanes_kept
    | with_reducible refine Kept.ite (fun _ => ?_) (fun _ => ?_)
    | split

theorem vxQuant_kept {s0 : State} (c w blk : Nat) (f : List Val → Nat × List Nat × Nat) (s : State) (hk : Kept s0 s) :
    Kept s0 (vxQuant c w blk f s).1 := by
  unfold vxQuant
  try dsimp only
  repeat' first
    | with_reducible exact hk
    | with_reducible apply setCore_kept
    | with_reducible apply raiseFlags_kept
    | with_reducible refine Kept.foldl _ (fun _ _ h => ?_) _ _ ?_
    | with_reducible refine Kept.foldl1 _ (fun _ _ h => ?_) _ _ ?_
    | with_reducible refine Kept.foldl2 _ (fun _ _ h => ?_) _ _ ?_
    | with_reducible assumption
    | intro _

theorem vxQuantMx32_kept {s0 : State} (c w : Nat) (s : State) (hk : Kept s0 s) : Kept s0 (vxQuantMx32 c w s).1 := by
  unfold vxQuantMx32
  try dsimp only
  repeat' first
    | with_reducible exact hk
    | with_reducible apply vxQuant_kept

theorem vxQuantG16_kept {s0 : State} (c w : Nat) (s : State) (hk : Kept s0 s) : Kept s0 (vxQuantG16 c w s).1 := by
  unfold vxQuantG16
  try dsimp only
  repeat' first
    | with_reducible exact hk
    | with_reducible apply vxQuant_kept

theorem vxFunc_kept {s0 : State} (c w : Nat) (s : State) (hk : Kept s0 s) : Kept s0 (vxFunc c w s).1 := by
  unfold vxFunc
  try dsimp only
  repeat' first
    | with_reducible exact hk
    | with_reducible apply setCore_kept
    | with_reducible apply raiseFlags_kept
    | with_reducible refine Kept.ite (fun _ => ?_) (fun _ => ?_)
    | with_reducible assumption
    | intro _
    | split

theorem putLane0_kept {s0 : State} (c w fl : Nat) (v : Val) (s : State) (hk : Kept s0 s) : Kept s0 (putLane0 c w fl v
    s).1 := by
  unfold putLane0
  try dsimp only
  repeat' first
    | with_reducible exact hk
    | with_reducible apply setCore_kept
    | with_reducible apply raiseFlags_kept

theorem vxLsum_kept {s0 : State} (c w : Nat) (s : State) (hk : Kept s0 s) : Kept s0 (vxLsum c w s).1 := by
  unfold vxLsum
  try dsimp only
  repeat' first
    | with_reducible exact hk
    | with_reducible apply putLane0_kept
    | with_reducible refine Kept.ite (fun _ => ?_) (fun _ => ?_)
    | split

theorem vxLmax_kept {s0 : State} (c w : Nat) (s : State) (hk : Kept s0 s) : Kept s0 (vxLmax c w s).1 := by
  unfold vxLmax
  try dsimp only
  repeat' first
    | with_reducible exact hk
    | with_reducible apply putLane0_kept
    | with_reducible refine Kept.foldl _ (fun _ _ h => ?_) _ _ ?_
    | with_reducible refine Kept.foldl1 _ (fun _ _ h => ?_) _ _ ?_
    | with_reducible refine Kept.foldl2 _ (fun _ _ h => ?_) _ _ ?_
    | with_reducible refine Kept.ite (fun _ => ?_) (fun _ => ?_)
    | with_reducible assumption
    | intro _
    | split

theorem vxPerm_kept {s0 : State} (c w : Nat) (s : State) (hk : Kept s0 s) : Kept s0 (vxPerm c w s).1 := by
  unfold vxPerm
  try dsimp only
  repeat' first
    | with_reducible exact hk
    | with_reducible apply setCore_kept
    | with_reducible apply raiseFlags_kept
    | with_reducible refine Kept.ite (fun _ => ?_) (fun _ => ?_)
    | with_reducible assumption
    | intro _
    | split

theorem vxLoadOp_kept {s0 : State} (c w : Nat) (s : State) (hk : Kept s0 s) : Kept s0 (vxLoadOp c w s).1 := by
  unfold vxLoadOp
  try dsimp only
  repeat' first
    | with_reducible exact hk
    | with_reducible apply modCore_kept
    | with_reducible apply readRanges_kept
    | with_reducible assumption
    | intro _

theorem vxStoreOp_kept {s0 : State} (c w : Nat) (s : State) (hk : Kept s0 s) : Kept s0 (vxStoreOp c w s).1 := by
  unfold vxStoreOp
  try dsimp only
  repeat' first
    | with_reducible exact hk
    | with_reducible apply engWrite_kept

theorem vxGather_kept {s0 : State} (c w : Nat) (s : State) (hk : Kept s0 s) : Kept s0 (vxGather c w s).1 := by
  unfold vxGather
  try dsimp only
  repeat' first
    | with_reducible exact hk
    | with_reducible apply modCore_kept
    | with_reducible apply readRanges_kept
    | with_reducible refine Kept.ite (fun _ => ?_) (fun _ => ?_)
    | fail_if_no_progress (with_reducible apply Kept.upd)
    | with_reducible assumption
    | intro _
    | split

theorem vxScatter_kept {s0 : State} (c w : Nat) (s : State) (hk : Kept s0 s) : Kept s0 (vxScatter c w s).1 := by
  unfold vxScatter; exact engWrites_kept _ _ _ (bumpFree_kept _ hk)

theorem vxAcload_kept {s0 : State} (c w : Nat) (s : State) (hk : Kept s0 s) : Kept s0 (vxAcload c w s).1 := by
  unfold vxAcload
  try dsimp only
  repeat' first
    | with_reducible exact hk
    | with_reducible apply modCore_kept
    | with_reducible apply readRanges_kept
    | with_reducible assumption
    | intro _

theorem vxAcadd_kept {s0 : State} (c w : Nat) (s : State) (hk : Kept s0 s) : Kept s0 (vxAcadd c w s).1 := by
  unfold vxAcadd
  try dsimp only
  repeat' first
    | with_reducible exact hk
    | with_reducible apply modCore_kept
    | with_reducible apply raiseFlags_kept
    | with_reducible apply readRanges_kept
    | with_reducible apply vxAcc_kept
    | with_reducible assumption
    | intro _

theorem vxAcstore_kept {s0 : State} (c w : Nat) (s : State) (hk : Kept s0 s) : Kept s0 (vxAcstore c w s).1 := by
  unfold vxAcstore
  try dsimp only
  repeat' first
    | with_reducible exact hk
    | with_reducible apply engWrite_kept

/-! Operations of Machine/Chambers.lean. -/

theorem colEvt_kept {s0 : State} (e : Evt) (p : Nat) (s : State) (hk : Kept s0 s) : Kept s0 (colEvt e p s) := by
  unfold colEvt
  try dsimp only
  repeat' first
    | with_reducible exact hk
    | with_reducible apply raiseMsix_kept
    | with_reducible apply evt_kept

theorem noteActive_kept {s0 : State} (s : State) (hk : Kept s0 s) : Kept s0 (noteActive s) := by
  unfold noteActive
  try dsimp only
  repeat' first
    | with_reducible exact hk
    | with_reducible apply fset_kept
    | with_reducible assumption
    | intro _

theorem cctlEnd_kept {s0 : State} (cmd id : Nat) (st : BitVec 8) (s : State) (hk : Kept s0 s) : Kept s0 (cctlEnd cmd
    id st s) := by
  unfold cctlEnd
  try dsimp only
  repeat' first
    | with_reducible exact hk
    | with_reducible apply fset_kept
    | fail_if_no_progress (with_reducible apply Kept.upd)

theorem activateNow_kept {s0 : State} (id p : Nat) (s : State) (hk : Kept s0 s) : Kept s0 (activateNow id p s) := by
  unfold activateNow
  try dsimp only
  repeat' first
    | with_reducible exact hk
    | with_reducible apply readAll_kept
    | with_reducible apply setCh_kept
    | with_reducible apply noteActive_kept
    | with_reducible apply cctlEnd_kept
    | with_reducible refine Kept.ite (fun _ => ?_) (fun _ => ?_)
    | fail_if_no_progress (with_reducible apply Kept.upd)
    | split

theorem chInactive_kept {s0 : State} (id : Nat) (s : State) (hk : Kept s0 s) : Kept s0 (chInactive id s) := by
  unfold chInactive
  try dsimp only
  repeat' first
    | with_reducible exact hk
    | with_reducible apply modCh_kept
    | with_reducible apply noteActive_kept
    | fail_if_no_progress (with_reducible apply Kept.upd)
    | with_reducible assumption
    | intro _

theorem chSend_kept {s0 : State} (id i peer step : Nat) (cseq : BitVec 16) (l : List Byte) (s : State) (hk : Kept s0
    s) : Kept s0 (chSend id i peer step cseq l s).2 := by
  unfold chSend
  try dsimp only
  repeat' first
    | with_reducible exact hk
    | with_reducible apply sendPkt_kept
    | with_reducible apply bumpSeqno_kept
    | with_reducible apply outstanding_kept
    | with_reducible refine Kept.foldl _ (fun _ _ h => ?_) _ _ ?_
    | with_reducible refine Kept.foldl1 _ (fun _ _ h => ?_) _ _ ?_
    | with_reducible refine Kept.foldl2 _ (fun _ _ h => ?_) _ _ ?_
    | with_reducible refine Kept.ite (fun _ => ?_) (fun _ => ?_)
    | with_reducible assumption
    | intro _
    | split

theorem stallNotices_kept {s0 : State} (id : Nat) (s : State) (hk : Kept s0 s) : Kept s0 (stallNotices id s) := by
  unfold stallNotices
  try dsimp only
  repeat' first
    | with_reducible exact hk
    | with_reducible apply forAll_kept
    | with_reducible apply chSend_kept
    | with_reducible assumption
    | intro _

theorem endReq_kept {s0 : State} (id : Nat) (st : BitVec 8) (detail : Word) (s : State) (hk : Kept s0 s) : Kept s0
    (endReq id st detail s) := by
  unfold endReq
  try dsimp only
  repeat' first
    | with_reducible exact hk
    | with_reducible apply modCh_kept
    | with_reducible apply endCmd_kept
    | fail_if_no_progress (with_reducible apply Kept.upd)
    | with_reducible assumption
    | intro _
    | split

theorem chStall_kept {s0 : State} (id : Nat) (st : BitVec 8) (detail : Word) (raiser : Nat) (notice : Bool) (s :
    State) (hk : Kept s0 s) : Kept s0 (chStall id st detail raiser notice s) := by
  unfold chStall
  try dsimp only
  repeat' first
    | with_reducible exact hk
    | with_reducible apply fset_kept
    | with_reducible apply modCh_kept
    | with_reducible apply stallQueueBy_kept
    | with_reducible apply colEvt_kept
    | with_reducible apply stallNotices_kept
    | with_reducible apply endReq_kept
    | with_reducible refine Kept.ite (fun _ => ?_) (fun _ => ?_)
    | fail_if_no_progress (with_reducible apply Kept.upd)
    | with_reducible assumption
    | intro _
    | split

theorem chFail_kept {s0 : State} (id : Nat) (st : BitVec 8) (s : State) (hk : Kept s0 s) : Kept s0 (chFail id st s) :=
    by
  unfold chFail
  try dsimp only
  repeat' first
    | with_reducible exact hk
    | with_reducible apply chStall_kept

theorem retireReq_kept {s0 : State} (id : Nat) (s : State) (hk : Kept s0 s) : Kept s0 (retireReq id s) := by
  unfold retireReq
  try dsimp only
  repeat' first
    | with_reducible exact hk
    | with_reducible apply stallNotices_kept
    | with_reducible apply endReq_kept

theorem homeRead_kept {s0 : State} (core off n : Nat) (s : State) (hk : Kept s0 s) : Kept s0 (homeRead core off n s).2
    := by
  unfold homeRead
  try dsimp only
  repeat' first
    | with_reducible exact hk
    | with_reducible apply readAll_kept

theorem homeCopy_kept {s0 : State} (core src dst n : Nat) (s : State) (hk : Kept s0 s) : Kept s0 (homeCopy core src
    dst n s).2 := by
  unfold homeCopy
  try dsimp only
  repeat' first
    | with_reducible exact hk
    | with_reducible apply readUpTo_kept
    | with_reducible apply memWrite_kept
    | with_reducible refine Kept.ite (fun _ => ?_) (fun _ => ?_)
    | split

theorem chunkBytes_kept {s0 : State} (id i : Nat) (r : ChReq) (pl : ChPlan) (y : Nat × Nat × Nat) (s : State) (hk :
    Kept s0 s) : Kept s0 (chunkBytes id i r pl y s).2 := by
  unfold chunkBytes
  try dsimp only
  repeat' first
    | with_reducible exact hk
    | with_reducible apply raiseFlags_kept
    | with_reducible apply homeRead_kept
    | with_reducible assumption
    | intro _
    | split

theorem srcVals_kept {s0 : State} (core : Nat) (b : List Byte) (lo hi : Nat) (s : State) (hk : Kept s0 s) : Kept s0
    (srcVals core b lo hi s).2 := by
  unfold srcVals
  try dsimp only
  repeat' first
    | with_reducible exact hk
    | with_reducible apply homeRead_kept
    | with_reducible assumption
    | intro _

theorem ownPart_kept {s0 : State} (x : Chamber) (i : Nat) (r : ChReq) (pl : ChPlan) (s : State) (hk : Kept s0 s) :
    Kept s0 (ownPart x i r pl s).2.2 := by
  unfold ownPart
  try dsimp only
  repeat' first
    | with_reducible exact hk
    | with_reducible apply readAll_kept
    | with_reducible apply memWrite_kept
    | with_reducible apply homeCopy_kept
    | with_reducible refine Kept.foldl _ (fun _ _ h => ?_) _ _ ?_
    | with_reducible refine Kept.foldl1 _ (fun _ _ h => ?_) _ _ ?_
    | with_reducible refine Kept.foldl2 _ (fun _ _ h => ?_) _ _ ?_
    | with_reducible refine Kept.ite (fun _ => ?_) (fun _ => ?_)
    | with_reducible assumption
    | intro _
    | split

theorem ownStep_kept {s0 : State} (id i : Nat) (r : ChReq) (pl : ChPlan) (s : State) (hk : Kept s0 s) : Kept s0
    (ownStep id i r pl s) := by
  unfold ownStep
  try dsimp only
  repeat' first
    | with_reducible exact hk
    | with_reducible apply modCh_kept
    | with_reducible apply chFail_kept
    | with_reducible apply srcVals_kept
    | with_reducible apply ownPart_kept
    | with_reducible refine Kept.ite (fun _ => ?_) (fun _ => ?_)
    | fail_if_no_progress (with_reducible apply Kept.upd)
    | with_reducible assumption
    | intro _
    | split

theorem sendMsg_kept {s0 : State} (id : Nat) (q : ChReq) (pl : ChPlan) (m : Nat × Nat) (y : Nat × Nat × Nat) (s :
    State) (hk : Kept s0 s) : Kept s0 (sendMsg id q pl m y s) := by
  unfold sendMsg
  try dsimp only
  repeat' first
    | with_reducible exact hk
    | with_reducible apply modCh_kept
    | with_reducible apply chSend_kept
    | with_reducible apply chFail_kept
    | with_reducible apply chunkBytes_kept
    | with_reducible refine Kept.ite (fun _ => ?_) (fun _ => ?_)
    | fail_if_no_progress (with_reducible apply Kept.upd)
    | with_reducible assumption
    | intro _
    | split

theorem sendStep_kept {s0 : State} (id : Nat) (s : State) (hk : Kept s0 s) : Kept s0 (sendStep id s) := by
  unfold sendStep
  try dsimp only
  repeat' first
    | with_reducible exact hk
    | with_reducible apply ownStep_kept
    | with_reducible apply sendMsg_kept
    | with_reducible refine Kept.foldl _ (fun _ _ h => ?_) _ _ ?_
    | with_reducible refine Kept.foldl1 _ (fun _ _ h => ?_) _ _ ?_
    | with_reducible refine Kept.foldl2 _ (fun _ _ h => ?_) _ _ ?_
    | with_reducible refine Kept.ite (fun _ => ?_) (fun _ => ?_)
    | with_reducible assumption
    | intro _
    | split

theorem toCredited_kept {s0 : State} (id : Nat) (s : State) (hk : Kept s0 s) : Kept s0 (toCredited id s) := by
  unfold toCredited
  try dsimp only
  repeat' first
    | with_reducible exact hk
    | with_reducible apply modCh_kept
    | with_reducible apply colEvt_kept
    | fail_if_no_progress (with_reducible apply Kept.upd)
    | with_reducible assumption
    | intro _

theorem chDrift_kept {s0 : State} (s : State) (hk : Kept s0 s) : Kept s0 (chDrift s) := by
  unfold chDrift
  try dsimp only
  repeat' first
    | with_reducible exact hk
    | with_reducible apply forAll_kept
    | with_reducible apply toCredited_kept
    | with_reducible assumption
    | intro _

theorem startStep_kept {s0 : State} (id : Nat) (r : ChReq) (late : Bool) (s : State) (hk : Kept s0 s) : Kept s0
    (startStep id r late s) := by
  unfold startStep
  try dsimp only
  repeat' first
    | with_reducible exact hk
    | with_reducible apply fadd_kept
    | with_reducible apply forAll_kept
    | with_reducible apply countEvt_kept
    | with_reducible apply modCh_kept
    | with_reducible apply touchCore_kept
    | with_reducible apply chFail_kept
    | with_reducible apply sendStep_kept
    | with_reducible refine Kept.ite (fun _ => ?_) (fun _ => ?_)
    | fail_if_no_progress (with_reducible apply Kept.upd)
    | with_reducible assumption
    | intro _
    | split

theorem stepStartOp_kept {s0 : State} (id : Nat) (s : State) (hk : Kept s0 s) : Kept s0 (stepStartOp id s) := by
  unfold stepStartOp
  try dsimp only
  repeat' first
    | with_reducible exact hk
    | with_reducible apply forAll_kept
    | with_reducible apply askAdmit_kept
    | with_reducible apply toCredited_kept
    | with_reducible apply startStep_kept
    | with_reducible refine Kept.ite (fun _ => ?_) (fun _ => ?_)
    | with_reducible assumption
    | intro _
    | split

theorem placeChunk_kept {s0 : State} (id : Nat) (r : ChReq) (rx : ChRx) (off n : Nat) (s : State) (hk : Kept s0 s) :
    Kept s0 (placeChunk id r rx off n s) := by
  unfold placeChunk
  try dsimp only
  repeat' first
    | with_reducible exact hk
    | with_reducible apply memStore_kept
    | with_reducible apply memWrite_kept
    | with_reducible refine Kept.ite (fun _ => ?_) (fun _ => ?_)
    | split

theorem gotVals_kept {s0 : State} (id i : Nat) (r : ChReq) (pl : ChPlan) (rank n : Nat) (s : State) (hk : Kept s0 s) :
    Kept s0 (gotVals id i r pl rank n s).2 := by
  unfold gotVals
  try dsimp only
  repeat' first
    | with_reducible exact hk
    | with_reducible apply raiseFlags_kept
    | with_reducible apply homeRead_kept

theorem reduceOn_kept {s0 : State} (id i : Nat) (r : ChReq) (pl : ChPlan) (s : State) (hk : Kept s0 s) : Kept s0
    (reduceOn id i r pl s).2 := by
  unfold reduceOn
  try dsimp only
  repeat' first
    | with_reducible exact hk
    | with_reducible apply raiseFlags_kept
    | with_reducible apply gotVals_kept
    | with_reducible refine Kept.foldl _ (fun _ _ h => ?_) _ _ ?_
    | with_reducible refine Kept.foldl1 _ (fun _ _ h => ?_) _ _ ?_
    | with_reducible refine Kept.foldl2 _ (fun _ _ h => ?_) _ _ ?_
    | with_reducible refine Kept.ite (fun _ => ?_) (fun _ => ?_)
    | with_reducible assumption
    | intro _
    | split

theorem ringOn_kept {s0 : State} (id i : Nat) (r : ChReq) (pl : ChPlan) (s : State) (hk : Kept s0 s) : Kept s0 (ringOn
    id i r pl s).2 := by
  unfold ringOn
  try dsimp only
  repeat' first
    | with_reducible exact hk
    | with_reducible apply raiseFlags_kept
    | with_reducible apply srcVals_kept
    | with_reducible apply gotVals_kept
    | with_reducible assumption
    | intro _

theorem keepResult_kept {s0 : State} (id i : Nat) (r : ChReq) (pl : ChPlan) (final : Bool) (v : List Val) (s : State)
    (hk : Kept s0 s) : Kept s0 (keepResult id i r pl final v s) := by
  unfold keepResult
  try dsimp only
  repeat' first
    | with_reducible exact hk
    | with_reducible apply memWrite_kept
    | with_reducible apply modCh_kept
    | with_reducible apply raiseFlags_kept
    | with_reducible refine Kept.ite (fun _ => ?_) (fun _ => ?_)
    | fail_if_no_progress (with_reducible apply Kept.upd)
    | with_reducible assumption
    | intro _
    | split

theorem finishReduce_kept {s0 : State} (id : Nat) (r : ChReq) (pl : ChPlan) (final : Bool) (s : State) (hk : Kept s0
    s) : Kept s0 (finishReduce id r pl final s) := by
  unfold finishReduce
  try dsimp only
  repeat' first
    | with_reducible exact hk
    | with_reducible apply forAll_kept
    | with_reducible apply modCh_kept
    | with_reducible apply touchCore_kept
    | with_reducible apply reduceOn_kept
    | with_reducible apply ringOn_kept
    | with_reducible apply keepResult_kept
    | with_reducible refine Kept.ite (fun _ => ?_) (fun _ => ?_)
    | fail_if_no_progress (with_reducible apply Kept.upd)
    | with_reducible assumption
    | intro _
    | split

theorem finishReq_kept {s0 : State} (id : Nat) (r : ChReq) (s : State) (hk : Kept s0 s) : Kept s0 (finishReq id r s)
    := by
  unfold finishReq
  try dsimp only
  repeat' first
    | with_reducible exact hk
    | with_reducible apply forAll_kept
    | with_reducible apply modCh_kept
    | with_reducible apply colEvt_kept
    | with_reducible apply chSend_kept
    | with_reducible apply endReq_kept
    | with_reducible refine Kept.ite (fun _ => ?_) (fun _ => ?_)
    | fail_if_no_progress (with_reducible apply Kept.upd)
    | with_reducible assumption
    | intro _
    | split

theorem nextStep_kept {s0 : State} (id : Nat) (r : ChReq) (s : State) (hk : Kept s0 s) : Kept s0 (nextStep id r s) :=
    by
  unfold nextStep
  try dsimp only
  repeat' first
    | with_reducible exact hk
    | with_reducible apply modCh_kept
    | with_reducible apply toCredited_kept
    | with_reducible refine Kept.ite (fun _ => ?_) (fun _ => ?_)
    | fail_if_no_progress (with_reducible apply Kept.upd)
    | with_reducible assumption
    | intro _
    | split

theorem stepDone_kept {s0 : State} (id : Nat) (r : ChReq) (pl : ChPlan) (s : State) (hk : Kept s0 s) : Kept s0
    (stepDone id r pl s) := by
  unfold stepDone
  try dsimp only
  repeat' first
    | with_reducible exact hk
    | with_reducible apply chFail_kept
    | with_reducible apply retireReq_kept
    | with_reducible apply finishReduce_kept
    | with_reducible apply finishReq_kept
    | with_reducible apply nextStep_kept
    | with_reducible refine Kept.ite (fun _ => ?_) (fun _ => ?_)
    | with_reducible assumption
    | intro _
    | split

theorem stepCompleteOp_kept {s0 : State} (id : Nat) (s : State) (hk : Kept s0 s) : Kept s0 (stepCompleteOp id s) := by
  unfold stepCompleteOp
  try dsimp only
  repeat' first
    | with_reducible exact hk
    | with_reducible apply sendStep_kept
    | with_reducible apply stepDone_kept
    | with_reducible refine Kept.ite (fun _ => ?_) (fun _ => ?_)
    | with_reducible assumption
    | intro _
    | split

theorem finishLast_kept {s0 : State} (id : Nat) (s : State) (hk : Kept s0 s) : Kept s0 (finishLast id s) := by
  unfold finishLast
  try dsimp only
  repeat' first
    | with_reducible exact hk
    | with_reducible apply stepCompleteOp_kept
    | with_reducible refine Kept.ite (fun _ => ?_) (fun _ => ?_)
    | split

theorem fetchReq_kept {s0 : State} (id : Nat) (s : State) (hk : Kept s0 s) : Kept s0 (fetchReq id s) := by
  unfold fetchReq
  try dsimp only
  repeat' first
    | with_reducible exact hk
    | with_reducible apply setQueue_kept
    | with_reducible apply forAll_kept
    | with_reducible apply countEvt_kept
    | with_reducible apply readAll_kept
    | with_reducible apply modCh_kept
    | with_reducible apply colEvt_kept
    | with_reducible apply chFail_kept
    | with_reducible apply placeChunk_kept
    | with_reducible refine Kept.ite (fun _ => ?_) (fun _ => ?_)
    | fail_if_no_progress (with_reducible apply Kept.upd)
    | with_reducible assumption
    | intro _
    | split

theorem deadlineOp_kept {s0 : State} (id : Nat) (s : State) (hk : Kept s0 s) : Kept s0 (deadlineOp id s) := by
  unfold deadlineOp
  try dsimp only
  repeat' first
    | with_reducible exact hk
    | with_reducible apply chFail_kept
    | with_reducible refine Kept.ite (fun _ => ?_) (fun _ => ?_)
    | with_reducible assumption
    | intro _
    | split

theorem dropRequests_kept {s0 : State} (qid : Nat) (st : BitVec 8) (rank : Nat) (s : State) (hk : Kept s0 s) : Kept s0
    (dropRequests qid st rank s) := by
  unfold dropRequests
  try dsimp only
  repeat' first
    | with_reducible exact hk
    | with_reducible apply modQueue_kept
    | with_reducible apply flushCmds_kept
    | with_reducible refine Kept.ite (fun _ => ?_) (fun _ => ?_)
    | fail_if_no_progress (with_reducible apply Kept.upd)
    | with_reducible assumption
    | intro _
    | split

theorem retireNow_kept {s0 : State} (id : Nat) (s : State) (hk : Kept s0 s) : Kept s0 (retireNow id s) := by
  unfold retireNow
  try dsimp only
  repeat' first
    | with_reducible exact hk
    | with_reducible apply modCh_kept
    | with_reducible apply cctlEnd_kept
    | with_reducible apply retireReq_kept
    | with_reducible apply finishLast_kept
    | with_reducible apply dropRequests_kept
    | with_reducible refine Kept.ite (fun _ => ?_) (fun _ => ?_)
    | fail_if_no_progress (with_reducible apply Kept.upd)
    | with_reducible assumption
    | intro _
    | split

theorem retiredOp_kept {s0 : State} (id : Nat) (s : State) (hk : Kept s0 s) : Kept s0 (retiredOp id s) := by
  unfold retiredOp
  try dsimp only
  repeat' first
    | with_reducible exact hk
    | with_reducible apply chInactive_kept
    | with_reducible apply retireReq_kept
    | with_reducible refine Kept.ite (fun _ => ?_) (fun _ => ?_)
    | with_reducible assumption
    | intro _
    | split

theorem colResume_kept {s0 : State} (s : State) (hk : Kept s0 s) : Kept s0 (colResume s) := by
  unfold colResume
  try dsimp only
  repeat' first
    | with_reducible exact hk
    | with_reducible apply cctlEnd_kept
    | with_reducible apply activateNow_kept
    | with_reducible apply retireNow_kept
    | with_reducible refine Kept.ite (fun _ => ?_) (fun _ => ?_)
    | with_reducible assumption
    | intro _
    | split

theorem cctlOp_kept {s0 : State} (r : Requester) (cmd id : Nat) (s : State) (hk : Kept s0 s) : Kept s0 (cctlOp r cmd
    id s) := by
  unfold cctlOp
  try dsimp only
  repeat' first
    | with_reducible exact hk
    | with_reducible apply fset_kept
    | with_reducible apply regAccessFault_kept
    | with_reducible apply countDenied_kept
    | with_reducible apply colResume_kept
    | with_reducible refine Kept.ite (fun _ => ?_) (fun _ => ?_)
    | fail_if_no_progress (with_reducible apply Kept.upd)
    | split

theorem chResetCores_kept {s0 : State} (cores : List Nat) (st : BitVec 8) (s : State) (hk : Kept s0 s) : Kept s0
    (chResetCores cores st s) := by
  unfold chResetCores
  try dsimp only
  repeat' first
    | with_reducible exact hk
    | with_reducible apply forAll_kept
    | with_reducible apply chFail_kept
    | with_reducible assumption
    | intro _

theorem chStopPart_kept {s0 : State} (p : Nat) (st : BitVec 8) (s : State) (hk : Kept s0 s) : Kept s0 (chStopPart p st
    s) := by
  unfold chStopPart
  try dsimp only
  repeat' first
    | with_reducible exact hk
    | with_reducible apply forAll_kept
    | with_reducible apply chFail_kept
    | with_reducible assumption
    | intro _

theorem chPartReset_kept {s0 : State} (p : Nat) (s : State) (hk : Kept s0 s) : Kept s0 (chPartReset p s) := by
  unfold chPartReset
  try dsimp only
  repeat' first
    | with_reducible exact hk
    | with_reducible apply forAll_kept
    | with_reducible apply chInactive_kept
    | with_reducible apply endReq_kept
    | with_reducible assumption
    | intro _

/-! Operations of Machine/Arrival.lean. -/

theorem endTagged_kept {s0 : State} (t : InstrTag) (st : BitVec 8) (s : State) (hk : Kept s0 s) : Kept s0 (endTagged t
    st s) := by
  unfold endTagged
  try dsimp only
  repeat' first
    | with_reducible exact hk
    | with_reducible apply sxEnd_kept
    | with_reducible refine Kept.ite (fun _ => ?_) (fun _ => ?_)
    | with_reducible assumption
    | intro _
    | split

theorem chNak_kept {s0 : State} (id : Nat) (cgen : BitVec 16) (peer : Nat) (st : BitVec 8) (detail : Word) (s : State)
    (hk : Kept s0 s) : Kept s0 (chNak id cgen peer st detail s) := by
  unfold chNak
  try dsimp only
  repeat' first
    | with_reducible exact hk
    | with_reducible apply chStall_kept
    | with_reducible apply finishLast_kept
    | with_reducible refine Kept.ite (fun _ => ?_) (fun _ => ?_)
    | split

theorem relayOut_kept {s0 : State} (qid : Nat) (idx : BitVec 32) (dst len : Nat) (data : Tbl Byte) (e : BitVec 19) (w
    : BitVec 64) (whole : Bool) (s : State) (hk : Kept s0 s) : Kept s0 (relayOut qid idx dst len data e w whole s) :=
    by
  unfold relayOut
  try dsimp only
  repeat' first
    | with_reducible exact hk
    | with_reducible apply moveBy_kept
    | with_reducible assumption
    | intro _
    | split

theorem settleKind_kept {s0 : State} (r : RemoteInstr) (st : BitVec 8) (s : State) (hk : Kept s0 s) : Kept s0
    (settleKind r st s) := by
  unfold settleKind
  try dsimp only
  repeat' first
    | with_reducible exact hk
    | with_reducible apply sendOne_kept
    | with_reducible apply dropRemote_kept
    | with_reducible apply setRemote_kept
    | with_reducible apply endCmd_kept
    | with_reducible apply endTagged_kept
    | with_reducible apply relayOut_kept
    | with_reducible refine Kept.ite (fun _ => ?_) (fun _ => ?_)
    | fail_if_no_progress (with_reducible apply Kept.upd)
    | with_reducible assumption
    | intro _
    | split

theorem settle_kept {s0 : State} (r : RemoteInstr) (st : BitVec 8) (s : State) (hk : Kept s0 s) : Kept s0 (settle r st
    s) := by
  unfold settle
  try dsimp only
  repeat' first
    | with_reducible exact hk
    | with_reducible apply drainsGo_kept
    | with_reducible apply settleKind_kept

theorem settleIf_kept {s0 : State} (t : InstrTag) (s : State) (hk : Kept s0 s) : Kept s0 (settleIf t s) := by
  unfold settleIf
  try dsimp only
  repeat' first
    | with_reducible exact hk
    | with_reducible apply settle_kept
    | with_reducible refine Kept.ite (fun _ => ?_) (fun _ => ?_)
    | with_reducible assumption
    | intro _
    | split

theorem countStale_kept {s0 : State} (t : InstrTag) (s : State) (hk : Kept s0 s) : Kept s0 (countStale t s) := by
  unfold countStale
  try dsimp only
  repeat' first
    | with_reducible exact hk
    | with_reducible apply faddSat_kept

theorem ackOne_kept {s0 : State} (t : InstrTag) (n : Nat) (s : State) (hk : Kept s0 s) : Kept s0 (ackOne t n s) := by
  unfold ackOne
  try dsimp only
  repeat' first
    | with_reducible exact hk
    | with_reducible apply setRemote_kept
    | with_reducible apply settleIf_kept
    | with_reducible apply countStale_kept
    | with_reducible refine Kept.ite (fun _ => ?_) (fun _ => ?_)
    | fail_if_no_progress (with_reducible apply Kept.upd)
    | with_reducible assumption
    | intro _
    | split

theorem nakOne_kept {s0 : State} (t : InstrTag) (code : BitVec 8) (detail : Word) (s : State) (hk : Kept s0 s) : Kept
    s0 (nakOne t code detail s) := by
  unfold nakOne
  try dsimp only
  repeat' first
    | with_reducible exact hk
    | with_reducible apply setRemote_kept
    | with_reducible apply chNak_kept
    | with_reducible apply settleIf_kept
    | with_reducible apply countStale_kept
    | with_reducible refine Kept.ite (fun _ => ?_) (fun _ => ?_)
    | fail_if_no_progress (with_reducible apply Kept.upd)
    | with_reducible assumption
    | intro _
    | split

theorem ackPkt_kept {s0 : State} (k : Packet) (s : State) (hk : Kept s0 s) : Kept s0 (ackPkt k s) := by
  unfold ackPkt
  try dsimp only
  repeat' first
    | with_reducible exact hk
    | with_reducible apply routeItem_kept

theorem nakPkt_kept {s0 : State} (k : Packet) (st : BitVec 8) (detail : Word) (s : State) (hk : Kept s0 s) : Kept s0
    (nakPkt k st detail s) := by
  unfold nakPkt
  try dsimp only
  repeat' first
    | with_reducible exact hk
    | with_reducible apply routeItem_kept

theorem refusePkt_kept {s0 : State} (p : Nat) (k : Packet) (st : BitVec 8) (s : State) (hk : Kept s0 s) : Kept s0
    (refusePkt p k st s) := by
  unfold refusePkt
  try dsimp only
  repeat' first
    | with_reducible exact hk
    | with_reducible apply evt_kept
    | with_reducible apply nakPkt_kept

theorem noteIv_kept {s0 : State} (k : Packet) (s : State) (hk : Kept s0 s) : Kept s0 (noteIv k s) := by
  unfold noteIv
  try dsimp only
  repeat' first
    | with_reducible exact hk
    | with_reducible apply setSession_kept
    | with_reducible refine Kept.ite (fun _ => ?_) (fun _ => ?_)
    | fail_if_no_progress (with_reducible apply Kept.upd)
    | with_reducible assumption
    | intro _
    | split

theorem rxPut_kept {s0 : State} (q : Nat) (k : Packet) (s : State) (hk : Kept s0 s) : Kept s0 (rxPut q k s) := by
  unfold rxPut
  try dsimp only
  repeat' first
    | with_reducible exact hk
    | with_reducible apply memWrite_kept
    | with_reducible apply ackPkt_kept
    | with_reducible apply nakPkt_kept
    | with_reducible apply refusePkt_kept
    | with_reducible refine Kept.ite (fun _ => ?_) (fun _ => ?_)
    | split

theorem rxNotify_kept {s0 : State} (q : Nat) (k : Packet) (s : State) (hk : Kept s0 s) : Kept s0 (rxNotify q k s) :=
    by
  unfold rxNotify
  try dsimp only
  repeat' first
    | with_reducible exact hk
    | with_reducible apply syncAddAt_kept
    | with_reducible apply ackPkt_kept
    | with_reducible apply refusePkt_kept
    | with_reducible refine Kept.ite (fun _ => ?_) (fun _ => ?_)
    | split

theorem rxGetReq_kept {s0 : State} (q : Nat) (k : Packet) (s : State) (hk : Kept s0 s) : Kept s0 (rxGetReq q k s) :=
    by
  unfold rxGetReq
  try dsimp only
  repeat' first
    | with_reducible exact hk
    | with_reducible apply readUpTo_kept
    | with_reducible apply sendData_kept
    | with_reducible apply nakPkt_kept
    | with_reducible apply refusePkt_kept
    | with_reducible refine Kept.ite (fun _ => ?_) (fun _ => ?_)
    | split

theorem landResp_kept {s0 : State} (t : InstrTag) (r : RemoteInstr) (kind : RemoteKind) (a : Nat) (l : List Byte) (s :
    State) (hk : Kept s0 s) : Kept s0 (landResp t r kind a l s) := by
  unfold landResp
  try dsimp only
  repeat' first
    | with_reducible exact hk
    | with_reducible apply setRemote_kept
    | with_reducible apply localWrite_kept
    | with_reducible apply settleIf_kept
    | with_reducible refine Kept.ite (fun _ => ?_) (fun _ => ?_)
    | fail_if_no_progress (with_reducible apply Kept.upd)
    | split

theorem rxGetResp_kept {s0 : State} (p : Nat) (k : Packet) (s : State) (hk : Kept s0 s) : Kept s0 (rxGetResp p k s) :=
    by
  unfold rxGetResp
  try dsimp only
  repeat' first
    | with_reducible exact hk
    | with_reducible apply setRemote_kept
    | with_reducible apply settleIf_kept
    | with_reducible apply countStale_kept
    | with_reducible apply refusePkt_kept
    | with_reducible apply landResp_kept
    | with_reducible refine Kept.ite (fun _ => ?_) (fun _ => ?_)
    | fail_if_no_progress (with_reducible apply Kept.upd)
    | with_reducible assumption
    | intro _
    | split

theorem chunkBad_kept {s0 : State} (id : Nat) (k : Packet) (c : ChRx) (s : State) (hk : Kept s0 s) : Kept s0 (chunkBad
    id k c s) := by
  unfold chunkBad
  try dsimp only
  repeat' first
    | with_reducible exact hk
    | with_reducible apply softFault_kept
    | with_reducible apply modCh_kept
    | with_reducible apply colEvt_kept
    | with_reducible apply chFail_kept
    | with_reducible apply nakPkt_kept
    | with_reducible refine Kept.ite (fun _ => ?_) (fun _ => ?_)
    | fail_if_no_progress (with_reducible apply Kept.upd)
    | with_reducible assumption
    | intro _
    | split

theorem chunkIn_kept {s0 : State} (id : Nat) (k : Packet) (s : State) (hk : Kept s0 s) : Kept s0 (chunkIn id k s) :=
    by
  unfold chunkIn
  try dsimp only
  repeat' first
    | with_reducible exact hk
    | with_reducible apply countEvt_kept
    | with_reducible apply modCh_kept
    | with_reducible apply placeChunk_kept
    | with_reducible apply ackPkt_kept
    | with_reducible apply chunkBad_kept
    | with_reducible refine Kept.ite (fun _ => ?_) (fun _ => ?_)
    | fail_if_no_progress (with_reducible apply Kept.upd)
    | with_reducible assumption
    | intro _
    | split

theorem tokenIn_kept {s0 : State} (id : Nat) (k : Packet) (s : State) (hk : Kept s0 s) : Kept s0 (tokenIn id k s) :=
    by
  unfold tokenIn
  try dsimp only
  repeat' first
    | with_reducible exact hk
    | with_reducible apply modCh_kept
    | with_reducible apply sendStep_kept
    | with_reducible apply ackPkt_kept
    | fail_if_no_progress (with_reducible apply Kept.upd)
    | with_reducible assumption
    | intro _

theorem noticeIn_kept {s0 : State} (id : Nat) (k : Packet) (s : State) (hk : Kept s0 s) : Kept s0 (noticeIn id k s) :=
    by
  unfold noticeIn
  try dsimp only
  repeat' first
    | with_reducible exact hk
    | with_reducible apply chStall_kept
    | with_reducible apply finishLast_kept
    | with_reducible apply ackPkt_kept
    | with_reducible refine Kept.ite (fun _ => ?_) (fun _ => ?_)
    | split

theorem rxChamber_kept {s0 : State} (q : Nat) (k : Packet) (s : State) (hk : Kept s0 s) : Kept s0 (rxChamber q k s) :=
    by
  unfold rxChamber
  try dsimp only
  repeat' first
    | with_reducible exact hk
    | with_reducible apply colEvt_kept
    | with_reducible apply nakPkt_kept
    | with_reducible apply refusePkt_kept
    | with_reducible apply chunkIn_kept
    | with_reducible apply tokenIn_kept
    | with_reducible apply noticeIn_kept
    | with_reducible refine Kept.ite (fun _ => ?_) (fun _ => ?_)
    | with_reducible assumption
    | intro _
    | split

theorem pktKind_kept {s0 : State} (p : Nat) (k : Packet) (s : State) (hk : Kept s0 s) : Kept s0 (pktKind p k s) := by
  unfold pktKind
  try dsimp only
  repeat' first
    | with_reducible exact hk
    | with_reducible apply evt_kept
    | with_reducible apply portFault_kept
    | with_reducible apply rxPut_kept
    | with_reducible apply rxNotify_kept
    | with_reducible apply rxGetReq_kept
    | with_reducible apply rxGetResp_kept
    | with_reducible apply rxChamber_kept
    | with_reducible refine Kept.ite (fun _ => ?_) (fun _ => ?_)
    | with_reducible assumption
    | intro _
    | split

theorem writeEarly_kept {s0 : State} (k : Packet) (n : Nat) (s : State) (hk : Kept s0 s) : Kept s0 (writeEarly k n s)
    := by
  unfold writeEarly
  try dsimp only
  repeat' first
    | with_reducible exact hk
    | with_reducible apply memWrite_kept
    | with_reducible refine Kept.ite (fun _ => ?_) (fun _ => ?_)
    | with_reducible assumption
    | intro _
    | split

theorem pktIn_kept {s0 : State} (p : Nat) (k : Packet) (early : Nat) (s : State) (hk : Kept s0 s) : Kept s0 (pktIn p k
    early s) := by
  unfold pktIn
  try dsimp only
  repeat' first
    | with_reducible exact hk
    | with_reducible apply evt_kept
    | with_reducible apply portFault_kept
    | with_reducible apply freeCells_kept
    | with_reducible apply noteIv_kept
    | with_reducible apply pktKind_kept
    | with_reducible apply writeEarly_kept
    | with_reducible refine Kept.ite (fun _ => ?_) (fun _ => ?_)
    | with_reducible assumption
    | intro _
    | split

theorem pktOfKind_kept {s0 : State} (p : Nat) (k : Packet) (ok : Bool) (s : State) (hk : Kept s0 s) : Kept s0
    (pktOfKind p k ok s) := by
  unfold pktOfKind
  try dsimp only
  repeat' first
    | with_reducible exact hk
    | with_reducible apply pktIn_kept
    | with_reducible refine Kept.ite (fun _ => ?_) (fun _ => ?_)
    | split

/-! Operations of Machine/Stepstool.lean. -/

theorem noteAdmit_kept {s0 : State} (s : State) (hk : Kept s0 s) : Kept s0 (noteAdmit s) := by
  unfold noteAdmit
  try dsimp only
  repeat' first
    | with_reducible exact hk
    | with_reducible apply fset_kept
    | with_reducible apply forAll_kept
    | with_reducible assumption
    | intro _

theorem admitCore_kept {s0 : State} (c : Nat) (s : State) (hk : Kept s0 s) : Kept s0 (admitCore c s) := by
  unfold admitCore
  try dsimp only
  repeat' first
    | with_reducible exact hk
    | with_reducible apply noteAdmit_kept
    | fail_if_no_progress (with_reducible apply Kept.upd)

theorem release_kept {s0 : State} (c : Nat) (s : State) (hk : Kept s0 s) : Kept s0 (release c s) := by
  unfold release
  try dsimp only
  repeat' first
    | with_reducible exact hk
    | with_reducible apply noteAdmit_kept
    | fail_if_no_progress (with_reducible apply Kept.upd)

theorem holdCore_kept {s0 : State} (c : Nat) (s : State) (hk : Kept s0 s) : Kept s0 (holdCore c s) := by
  unfold holdCore
  try dsimp only
  repeat' first
    | with_reducible exact hk
    | with_reducible apply release_kept
    | with_reducible refine Kept.ite (fun _ => ?_) (fun _ => ?_)
    | fail_if_no_progress (with_reducible apply Kept.upd)
    | split

theorem floorStool_kept {s0 : State} (d : Nat) (s : State) (hk : Kept s0 s) : ∀ t, floorStool d s = some t → Kept s0
    t := by
  intro t ht
  unfold floorStool at ht
  try dsimp only at ht
  repeat' (split at ht)
  all_goals first | (cases ht; done) | skip
  all_goals first
    | (simp only [Option.map_eq_some_iff] at ht
       obtain ⟨x, _, rfl⟩ := ht)
    | obtain rfl := Option.some.inj ht
  all_goals repeat' first
    | (with_reducible exact hk)
    | (with_reducible apply holdCore_kept)
    | (with_reducible apply admitCore_kept)
    | (with_reducible apply release_kept)

theorem idleRelease_kept {s0 : State} (d : Nat) (s : State) (hk : Kept s0 s) : ∀ t, idleRelease d s = some t → Kept
    s0 t := by
  intro t ht
  unfold idleRelease at ht
  split at ht
  · cases ht
  · simp only [Option.map_eq_some_iff] at ht
    obtain ⟨x, _, rfl⟩ := ht
    exact release_kept _ _ hk

theorem runStool_kept {s0 : State} (d : Nat) (s : State) (hk : Kept s0 s) : ∀ t, runStool d s = some t → Kept s0 t := by
  intro t ht
  unfold runStool at ht
  try dsimp only at ht
  repeat' (split at ht)
  all_goals first
    | exact idleRelease_kept _ _ hk _ ht
    | (simp only [Option.map_eq_some_iff] at ht
       obtain ⟨x, _, rfl⟩ := ht
       exact holdCore_kept _ _ hk)
    | (obtain rfl := Option.some.inj ht
       exact admitCore_kept _ _ hk)

theorem stoolStep_kept {s0 : State} (d : Nat) (s : State) (hk : Kept s0 s) : Kept s0 (stoolStep d s) := by
  unfold stoolStep
  split
  · exact hk
  · split
    · exact hk
    · next t ht =>
      with_reducible apply Kept.upd
      split at ht
      · exact floorStool_kept d s hk t ht
      · exact runStool_kept d s hk t ht

theorem switchDie_kept {s0 : State} (r r' d : Nat) (s : State) (hk : Kept s0 s) : Kept s0 (switchDie r r' d s) := by
  unfold switchDie
  try dsimp only
  repeat' first
    | with_reducible exact hk
    | with_reducible apply forAll_kept
    | with_reducible apply admitCore_kept
    | with_reducible apply holdCore_kept
    | with_reducible refine Kept.ite (fun _ => ?_) (fun _ => ?_)
    | with_reducible assumption
    | intro _
    | split

theorem stoolSwitch_kept {s0 : State} (r r' : Nat) (s : State) (hk : Kept s0 s) : Kept s0 (stoolSwitch r r' s) := by
  unfold stoolSwitch
  try dsimp only
  repeat' first
    | with_reducible exact hk
    | with_reducible apply forAll_kept
    | with_reducible apply switchDie_kept
    | with_reducible refine Kept.ite (fun _ => ?_) (fun _ => ?_)
    | with_reducible assumption
    | intro _
    | split

theorem setRamp_kept {s0 : State} (e : Nat) (x : Ramp) (s : State) (hk : Kept s0 s) : Kept s0 (setRamp e x s) := by
  unfold setRamp
  try dsimp only
  repeat' first
    | with_reducible exact hk
    | fail_if_no_progress (with_reducible apply Kept.upd)
    | with_reducible assumption
    | intro _

theorem rampArmOp_kept {s0 : State} (r : Requester) (e n hold : Nat) (s : State) (hk : Kept s0 s) : Kept s0 (rampArmOp
    r e n hold s) := by
  unfold rampArmOp
  try dsimp only
  repeat' first
    | with_reducible exact hk
    | with_reducible apply countDenied_kept
    | with_reducible apply setRamp_kept
    | with_reducible refine Kept.ite (fun _ => ?_) (fun _ => ?_)
    | fail_if_no_progress (with_reducible apply Kept.upd)
    | split

theorem rampRelease_kept {s0 : State} (e : Nat) (s : State) (hk : Kept s0 s) : Kept s0 (rampRelease e s) := by
  unfold rampRelease
  try dsimp only
  repeat' first
    | with_reducible exact hk
    | fail_if_no_progress (with_reducible apply Kept.upd)
    | with_reducible assumption
    | intro _

theorem rampDisarmOp_kept {s0 : State} (r : Requester) (e : Nat) (s : State) (hk : Kept s0 s) : Kept s0 (rampDisarmOp
    r e s) := by
  unfold rampDisarmOp
  try dsimp only
  repeat' first
    | with_reducible exact hk
    | with_reducible apply countDenied_kept
    | with_reducible apply setRamp_kept
    | with_reducible apply rampRelease_kept
    | with_reducible refine Kept.ite (fun _ => ?_) (fun _ => ?_)
    | fail_if_no_progress (with_reducible apply Kept.upd)
    | split

/-! Operations of Machine/Dripline.lean. -/

theorem driftEdge_kept {s0 : State} (f : State → State) (s : State) (Hf : ∀ y0_, Kept s0 y0_ → Kept s0 (f y0_)) (hk :
    Kept s0 s) : Kept s0 (driftEdge f s) := by
  unfold driftEdge
  try dsimp only
  repeat' first
    | with_reducible exact hk
    | with_reducible apply chDrift_kept
    | with_reducible apply Hf
    | with_reducible refine Kept.ite (fun _ => ?_) (fun _ => ?_)
    | split

theorem goSync_kept {s0 : State} (v : Nat) (s : State) (hk : Kept s0 s) : Kept s0 (goSync v s) := by
  unfold goSync
  try dsimp only
  repeat' first
    | with_reducible exact hk
    | with_reducible apply setSync_kept
    | with_reducible apply driftEdge_kept

theorem goPace_kept {s0 : State} (v : Nat) (s : State) (hk : Kept s0 s) : Kept s0 (goPace v s) := by
  unfold goPace
  try dsimp only
  repeat' first
    | with_reducible exact hk
    | with_reducible apply setPace_kept
    | with_reducible apply driftEdge_kept

theorem noteMaster_kept {s0 : State} (s : State) (hk : Kept s0 s) : Kept s0 (noteMaster s) := by
  unfold noteMaster
  try dsimp only
  repeat' first
    | with_reducible exact hk
    | with_reducible apply fset_kept
    | with_reducible refine Kept.ite (fun _ => ?_) (fun _ => ?_)
    | split

theorem setRungT_kept {s0 : State} (t : BitVec 48) (s : State) (hk : Kept s0 s) : Kept s0 (setRungT t s) := by
  unfold setRungT
  try dsimp only
  repeat' first
    | with_reducible exact hk
    | with_reducible apply fset_kept

theorem dripOn_kept {s0 : State} (q : Nat) (f : DripFrame) (s : State) (hk : Kept s0 s) : Kept s0 (dripOn q f s) := by
  unfold dripOn
  try dsimp only
  repeat' first
    | with_reducible exact hk
    | with_reducible apply queueItem_kept
    | with_reducible assumption
    | intro _
    | split

theorem dripAll_kept {s0 : State} (f : DripFrame) (s : State) (hk : Kept s0 s) : Kept s0 (dripAll f s) := by
  unfold dripAll
  try dsimp only
  repeat' first
    | with_reducible exact hk
    | with_reducible apply forAll_kept
    | with_reducible apply dripOn_kept
    | with_reducible assumption
    | intro _

theorem toMembers_kept {s0 : State} (f : FrameHdr → DripFrame) (s : State) (hk : Kept s0 s) : Kept s0 (toMembers f s)
    := by
  unfold toMembers
  try dsimp only
  repeat' first
    | with_reducible exact hk
    | with_reducible apply forAll_kept
    | with_reducible apply dripAll_kept
    | with_reducible assumption
    | intro _

theorem setVcore_kept {s0 : State} (k : Nat) (s : State) (hk : Kept s0 s) : Kept s0 (setVcore k s) := by
  unfold setVcore
  try dsimp only
  repeat' first
    | with_reducible exact hk
    | fail_if_no_progress (with_reducible apply Kept.upd)

theorem laterVcore_kept {s0 : State} (k : Nat) (s : State) (hk : Kept s0 s) : Kept s0 (laterVcore k s) := by
  unfold laterVcore
  try dsimp only
  repeat' first
    | with_reducible exact hk
    | fail_if_no_progress (with_reducible apply Kept.upd)

theorem vcoreTick_kept {s0 : State} (s : State) (hk : Kept s0 s) : Kept s0 (vcoreTick s) := by
  unfold vcoreTick
  try dsimp only
  repeat' first
    | with_reducible exact hk
    | with_reducible refine Kept.ite (fun _ => ?_) (fun _ => ?_)
    | fail_if_no_progress (with_reducible apply Kept.upd)
    | with_reducible assumption
    | intro _
    | split

theorem switchVcore_kept {s0 : State} (r k : Nat) (s : State) (hk : Kept s0 s) : Kept s0 (switchVcore r k s) := by
  unfold switchVcore
  try dsimp only
  repeat' first
    | with_reducible exact hk
    | with_reducible apply setVcore_kept
    | with_reducible apply laterVcore_kept
    | with_reducible refine Kept.ite (fun _ => ?_) (fun _ => ?_)
    | split

theorem eclkSwitch_kept {s0 : State} (k : Nat) (s : State) (hk : Kept s0 s) : Kept s0 (eclkSwitch k s) := by
  unfold eclkSwitch
  try dsimp only
  repeat' first
    | with_reducible exact hk
    | with_reducible apply fset_kept
    | with_reducible apply stoolSwitch_kept
    | with_reducible apply switchVcore_kept

theorem eclkAlign_kept {s0 : State} (s : State) (hk : Kept s0 s) : Kept s0 (eclkAlign s) := by
  unfold eclkAlign
  try dsimp only
  repeat' first
    | with_reducible exact hk
    | fail_if_no_progress (with_reducible apply Kept.upd)
    | fail_if_no_progress (with_reducible refine Kept.mkclk (h := ?_) (h1 := by first | exact le_refl _ | (dsimp only; omega)) ..)

theorem eclkInPace_kept {s0 : State} (k : Nat) (s : State) (hk : Kept s0 s) : Kept s0 (eclkInPace k s) := by
  unfold eclkInPace
  try dsimp only
  repeat' first
    | with_reducible exact hk
    | with_reducible apply eclkSwitch_kept
    | with_reducible apply eclkAlign_kept

theorem notePair_kept {s0 : State} (s : State) (hk : Kept s0 s) : Kept s0 (notePair s) := by
  unfold notePair
  try dsimp only
  repeat' first
    | with_reducible exact hk
    | fail_if_no_progress (with_reducible apply Kept.upd)

theorem noteFloorEnd_kept {s0 : State} (s : State) (hk : Kept s0 s) : Kept s0 (noteFloorEnd s) := by
  unfold noteFloorEnd
  try dsimp only
  repeat' first
    | with_reducible exact hk
    | fail_if_no_progress (with_reducible apply Kept.upd)
    | with_reducible assumption
    | intro _

theorem setP_kept {s0 : State} (q : BitVec 48) (frac : Nat) (s : State) (hk : Kept s0 s) : Kept s0 (setP q frac s) :=
    by
  unfold setP
  try dsimp only
  repeat' first
    | with_reducible exact hk
    | fail_if_no_progress (with_reducible apply Kept.upd)
    | fail_if_no_progress (with_reducible refine Kept.mkclk (h := ?_) (h1 := by first | exact le_refl _ | (dsimp only; omega)) ..)
    | with_reducible assumption
    | intro _

theorem recordRung_kept {s0 : State} (seq : BitVec 16) (k : Nat) (t : BitVec 48) (s : State) (hk : Kept s0 s) : Kept
    s0 (recordRung seq k t s) := by
  unfold recordRung
  try dsimp only
  repeat' first
    | with_reducible exact hk
    | with_reducible apply fset_kept
    | with_reducible apply setRungT_kept
    | with_reducible refine Kept.ite (fun _ => ?_) (fun _ => ?_)
    | fail_if_no_progress (with_reducible apply Kept.upd)
    | split

theorem sendBeacon_kept {s0 : State} (s : State) (hk : Kept s0 s) : Kept s0 (sendBeacon s) := by
  unfold sendBeacon
  try dsimp only
  repeat' first
    | with_reducible exact hk
    | with_reducible apply toMembers_kept
    | fail_if_no_progress (with_reducible apply Kept.upd)
    | with_reducible assumption
    | intro _

theorem rungDone_kept {s0 : State} (k : Nat) (s : State) (hk : Kept s0 s) : Kept s0 (rungDone k s) := by
  unfold rungDone
  try dsimp only
  repeat' first
    | with_reducible exact hk
    | with_reducible apply evt_kept
    | with_reducible apply eclkInPace_kept
    | with_reducible apply notePair_kept
    | with_reducible apply noteFloorEnd_kept
    | with_reducible apply sendBeacon_kept
    | with_reducible refine Kept.ite (fun _ => ?_) (fun _ => ?_)
    | fail_if_no_progress (with_reducible apply Kept.upd)
    | split

theorem recount_kept {s0 : State} (k : Nat) (t : BitVec 48) (s : State) (hk : Kept s0 s) : Kept s0 (recount k t s) :=
    by
  unfold recount
  try dsimp only
  repeat' first
    | with_reducible exact hk
    | with_reducible apply setP_kept
    | with_reducible refine Kept.ite (fun _ => ?_) (fun _ => ?_)
    | fail_if_no_progress (with_reducible apply Kept.upd)
    | fail_if_no_progress (with_reducible refine Kept.mkclk (h := ?_) (h1 := by first | exact le_refl _ | (dsimp only; omega)) ..)
    | split

theorem applyProp_kept {s0 : State} (a : ArmedProp) (s : State) (hk : Kept s0 s) : Kept s0 (applyProp a s) := by
  unfold applyProp
  try dsimp only
  repeat' first
    | with_reducible exact hk
    | with_reducible apply recordRung_kept
    | with_reducible apply rungDone_kept
    | with_reducible apply recount_kept

theorem passProp_kept {s0 : State} (a : ArmedProp) (s : State) (hk : Kept s0 s) : Kept s0 (passProp a s) := by
  unfold passProp
  try dsimp only
  repeat' first
    | with_reducible exact hk
    | with_reducible apply setP_kept
    | with_reducible apply recordRung_kept
    | with_reducible apply rungDone_kept

theorem dueRung_kept {s0 : State} (s : State) (hk : Kept s0 s) : Kept s0 (dueRung s) := by
  unfold dueRung
  try dsimp only
  repeat' first
    | with_reducible exact hk
    | with_reducible apply applyProp_kept
    | with_reducible refine Kept.ite (fun _ => ?_) (fun _ => ?_)
    | with_reducible assumption
    | intro _
    | split

theorem stepP_kept {s0 : State} (q : BitVec 48) (frac : Nat) (s : State) (hk : Kept s0 s) : Kept s0 (stepP q frac s)
    := by
  unfold stepP
  try dsimp only
  repeat' first
    | with_reducible exact hk
    | with_reducible apply forAll_kept
    | with_reducible apply cancelInst_kept
    | with_reducible apply eclkAlign_kept
    | with_reducible apply noteFloorEnd_kept
    | with_reducible apply passProp_kept
    | with_reducible refine Kept.ite (fun _ => ?_) (fun _ => ?_)
    | fail_if_no_progress (with_reducible apply Kept.upd)
    | fail_if_no_progress (with_reducible refine Kept.mkclk (h := ?_) (h1 := by first | exact le_refl _ | (dsimp only; omega)) ..)
    | with_reducible assumption
    | intro _
    | split

theorem stepW_kept {s0 : State} (e : Int) (s : State) (hk : Kept s0 s) : Kept s0 (stepW e s) := by
  unfold stepW
  try dsimp only
  repeat' first
    | with_reducible exact hk
    | fail_if_no_progress (with_reducible apply Kept.upd)
    | fail_if_no_progress (with_reducible refine Kept.mkclk (h := ?_) (h1 := by first | exact le_refl _ | (dsimp only; omega)) ..)
    | with_reducible assumption
    | intro _

theorem stepBoth_kept {s0 : State} (e : Int) (s : State) (hk : Kept s0 s) : Kept s0 (stepBoth e s) := by
  unfold stepBoth
  try dsimp only
  repeat' first
    | with_reducible exact hk
    | with_reducible apply notePair_kept
    | with_reducible apply stepP_kept
    | with_reducible apply stepW_kept
    | fail_if_no_progress (with_reducible apply Kept.upd)

theorem noteCeilOf_kept {s0 : State} (eid : BitVec 19) (k : Nat) (s : State) (hk : Kept s0 s) : Kept s0 (noteCeilOf
    eid k s) := by
  unfold noteCeilOf
  try dsimp only
  repeat' first
    | with_reducible exact hk
    | fail_if_no_progress (with_reducible apply Kept.upd)
    | with_reducible assumption
    | intro _

theorem sendCeiling_kept {s0 : State} (s : State) (hk : Kept s0 s) : Kept s0 (sendCeiling s) := by
  unfold sendCeiling
  try dsimp only
  repeat' first
    | with_reducible exact hk
    | with_reducible apply dripAll_kept
    | with_reducible apply noteCeilOf_kept
    | with_reducible refine Kept.ite (fun _ => ?_) (fun _ => ?_)
    | fail_if_no_progress (with_reducible apply Kept.upd)
    | split

theorem noteCeiling_kept {s0 : State} (s : State) (hk : Kept s0 s) : Kept s0 (noteCeiling s) := by
  unfold noteCeiling
  try dsimp only
  repeat' first
    | with_reducible exact hk
    | with_reducible apply fset_kept
    | with_reducible apply sendCeiling_kept
    | with_reducible refine Kept.ite (fun _ => ?_) (fun _ => ?_)
    | split

theorem noteDomain_kept {s0 : State} (s : State) (hk : Kept s0 s) : Kept s0 (noteDomain s) := by
  unfold noteDomain
  try dsimp only
  repeat' first
    | with_reducible exact hk
    | with_reducible apply fset_kept
    | with_reducible refine Kept.ite (fun _ => ?_) (fun _ => ?_)
    | split

theorem askRecord_kept {s0 : State} (s : State) (hk : Kept s0 s) : Kept s0 (askRecord s) := by
  unfold askRecord
  try dsimp only
  repeat' first
    | with_reducible exact hk
    | with_reducible apply dripAll_kept

theorem rejoin_kept {s0 : State} (s : State) (hk : Kept s0 s) : Kept s0 (rejoin s) := by
  unfold rejoin
  try dsimp only
  repeat' first
    | with_reducible exact hk
    | with_reducible apply goPace_kept
    | with_reducible apply eclkInPace_kept
    | with_reducible apply notePair_kept
    | with_reducible apply askRecord_kept
    | with_reducible refine Kept.ite (fun _ => ?_) (fun _ => ?_)
    | split

theorem joinDomain_kept {s0 : State} (s : State) (hk : Kept s0 s) : Kept s0 (joinDomain s) := by
  unfold joinDomain
  try dsimp only
  repeat' first
    | with_reducible exact hk
    | with_reducible apply noteDomain_kept
    | with_reducible apply rejoin_kept

theorem stallTick_kept {s0 : State} (s : State) (hk : Kept s0 s) : Kept s0 (stallTick s) := by
  unfold stallTick
  try dsimp only
  repeat' first
    | with_reducible exact hk
    | with_reducible apply fadd_kept
    | with_reducible apply forAll_kept
    | with_reducible assumption
    | intro _

theorem busyTick_kept {s0 : State} (e c : Nat) (s : State) (hk : Kept s0 s) : Kept s0 (busyTick e c s) := by
  unfold busyTick
  try dsimp only
  repeat' first
    | with_reducible exact hk
    | with_reducible apply forAll_kept
    | with_reducible apply countEvt_kept
    | with_reducible refine Kept.ite (fun _ => ?_) (fun _ => ?_)
    | with_reducible assumption
    | intro _
    | split

theorem cycleTick_kept {s0 : State} (e m : Nat) (s : State) (hk : Kept s0 s) : Kept s0 (cycleTick e m s) := by
  unfold cycleTick
  try dsimp only
  repeat' first
    | with_reducible exact hk
    | with_reducible apply forAll_kept
    | with_reducible apply countEvt_kept
    | with_reducible apply busyTick_kept
    | with_reducible assumption
    | intro _

theorem noteMem_kept {s0 : State} (s : State) (hk : Kept s0 s) : Kept s0 (noteMem s) := by
  unfold noteMem
  try dsimp only
  repeat' first
    | with_reducible exact hk
    | with_reducible apply fset_kept
    | with_reducible refine Kept.ite (fun _ => ?_) (fun _ => ?_)
    | split

theorem floorSwitch_kept {s0 : State} (n : Nat) (s : State) (hk : Kept s0 s) : Kept s0 (floorSwitch n s) := by
  unfold floorSwitch
  try dsimp only
  repeat' first
    | with_reducible exact hk
    | with_reducible apply fset_kept
    | with_reducible apply goPace_kept
    | with_reducible apply eclkSwitch_kept
    | with_reducible apply noteCeiling_kept
    | with_reducible apply noteMem_kept
    | with_reducible refine Kept.ite (fun _ => ?_) (fun _ => ?_)
    | fail_if_no_progress (with_reducible apply Kept.upd)
    | fail_if_no_progress (with_reducible refine Kept.mkclk (h := ?_) (h1 := by first | exact le_refl _ | (dsimp only; omega)) ..)
    | split

theorem floorTick_kept {s0 : State} (s : State) (hk : Kept s0 s) : Kept s0 (floorTick s) := by
  unfold floorTick
  try dsimp only
  repeat' first
    | with_reducible exact hk
    | with_reducible apply floorSwitch_kept
    | with_reducible refine Kept.ite (fun _ => ?_) (fun _ => ?_)
    | fail_if_no_progress (with_reducible apply Kept.upd)
    | with_reducible assumption
    | intro _
    | split

theorem clockTick_kept {s0 : State} (s : State) (hk : Kept s0 s) : Kept s0 (clockTick s).2 := by
  unfold clockTick
  try dsimp only
  repeat' first
    | with_reducible exact hk
    | with_reducible refine Kept.ite (fun _ => ?_) (fun _ => ?_)
    | fail_if_no_progress (with_reducible apply Kept.upd)
    | fail_if_no_progress (with_reducible refine Kept.mkclk (h := ?_) (h1 := by first | exact le_refl _ | (dsimp only; omega)) ..)
    | with_reducible assumption
    | intro _
    | split

theorem tickOp_kept {s0 : State} (s : State) (hk : Kept s0 s) : Kept s0 (tickOp s) := by
  unfold tickOp
  try dsimp only
  repeat' first
    | with_reducible exact hk
    | with_reducible apply fadd_kept
    | with_reducible apply evt_kept
    | with_reducible apply vcoreTick_kept
    | with_reducible apply noteCeiling_kept
    | with_reducible apply stallTick_kept
    | with_reducible apply cycleTick_kept
    | with_reducible apply floorTick_kept
    | with_reducible apply clockTick_kept
    | with_reducible refine Kept.ite (fun _ => ?_) (fun _ => ?_)
    | fail_if_no_progress (with_reducible apply Kept.upd)
    | with_reducible assumption
    | intro _
    | split

theorem idleOp_kept {s0 : State} (s : State) (hk : Kept s0 s) : Kept s0 (idleOp s) := by
  unfold idleOp
  try dsimp only
  repeat' first
    | with_reducible exact hk
    | with_reducible apply tickOp_kept

theorem nameMaster_kept {s0 : State} (eid : BitVec 19) (s : State) (hk : Kept s0 s) : Kept s0 (nameMaster eid s) := by
  unfold nameMaster
  try dsimp only
  repeat' first
    | with_reducible exact hk
    | with_reducible apply fset_kept
    | with_reducible apply evt_kept
    | with_reducible apply goSync_kept
    | with_reducible apply noteMaster_kept
    | with_reducible refine Kept.ite (fun _ => ?_) (fun _ => ?_)
    | fail_if_no_progress (with_reducible apply Kept.upd)
    | split

theorem exchStart_kept {s0 : State} (q : Nat) (frac : BitVec 8) (s : State) (hk : Kept s0 s) : Kept s0 (exchStart q
    frac s) := by
  unfold exchStart
  try dsimp only
  repeat' first
    | with_reducible exact hk
    | with_reducible apply dripOn_kept
    | with_reducible refine Kept.ite (fun _ => ?_) (fun _ => ?_)
    | fail_if_no_progress (with_reducible apply Kept.upd)
    | with_reducible assumption
    | intro _
    | split

theorem syncReqOp_kept {s0 : State} (h : FrameHdr) (exch : BitVec 16) (t1 : BitVec 56) (frac2 frac3 : BitVec 8) (s :
    State) (hk : Kept s0 s) : Kept s0 (syncReqOp h exch t1 frac2 frac3 s) := by
  unfold syncReqOp
  try dsimp only
  repeat' first
    | with_reducible exact hk
    | with_reducible apply routeItem_kept
    | with_reducible refine Kept.ite (fun _ => ?_) (fun _ => ?_)
    | split

theorem toRelock_kept {s0 : State} (s : State) (hk : Kept s0 s) : Kept s0 (toRelock s) := by
  unfold toRelock
  try dsimp only
  repeat' first
    | with_reducible exact hk
    | with_reducible apply evt_kept
    | with_reducible apply goSync_kept
    | fail_if_no_progress (with_reducible apply Kept.upd)

theorem servo_kept {s0 : State} (e : Int) (s : State) (hk : Kept s0 s) : Kept s0 (servo e s) := by
  unfold servo
  try dsimp only
  repeat' first
    | with_reducible exact hk
    | with_reducible apply regSet_kept
    | with_reducible apply bumpFree_kept
    | with_reducible refine Kept.ite (fun _ => ?_) (fun _ => ?_)
    | split

theorem acquire_kept {s0 : State} (e : Int) (s : State) (hk : Kept s0 s) : Kept s0 (acquire e s) := by
  unfold acquire
  try dsimp only
  repeat' first
    | with_reducible exact hk
    | with_reducible apply goSync_kept
    | with_reducible apply stepBoth_kept
    | with_reducible apply noteCeiling_kept
    | with_reducible apply rejoin_kept
    | with_reducible refine Kept.ite (fun _ => ?_) (fun _ => ?_)
    | fail_if_no_progress (with_reducible apply Kept.upd)
    | split

theorem firstEstimate_kept {s0 : State} (e : Int) (t3 : BitVec 56) (epoch : BitVec 16) (s : State) (hk : Kept s0 s) :
    Kept s0 (firstEstimate e t3 epoch s) := by
  unfold firstEstimate
  try dsimp only
  repeat' first
    | with_reducible exact hk
    | with_reducible apply goSync_kept
    | with_reducible apply noteMaster_kept
    | with_reducible apply stepW_kept
    | with_reducible refine Kept.ite (fun _ => ?_) (fun _ => ?_)
    | fail_if_no_progress (with_reducible apply Kept.upd)
    | fail_if_no_progress (with_reducible refine Kept.mkclk (h := ?_) (h1 := by first | exact le_refl _ | (dsimp only; omega)) ..)
    | with_reducible assumption
    | intro _
    | split

theorem estimate_kept {s0 : State} (e : Int) (t3 : BitVec 56) (epoch : BitVec 16) (s : State) (hk : Kept s0 s) : Kept
    s0 (estimate e t3 epoch s) := by
  unfold estimate
  try dsimp only
  repeat' first
    | with_reducible exact hk
    | with_reducible apply regSet_kept
    | with_reducible apply goSync_kept
    | with_reducible apply toRelock_kept
    | with_reducible apply servo_kept
    | with_reducible apply acquire_kept
    | with_reducible apply firstEstimate_kept
    | with_reducible refine Kept.ite (fun _ => ?_) (fun _ => ?_)
    | fail_if_no_progress (with_reducible apply Kept.upd)
    | with_reducible assumption
    | intro _
    | split

theorem syncRespOp_kept {s0 : State} (h : FrameHdr) (q : Nat) (exch : BitVec 16) (t2 t3 : BitVec 56) (frac : BitVec 8)
    (reqCorr : BitVec 32) (epoch : BitVec 16) (s : State) (hk : Kept s0 s) : Kept s0 (syncRespOp h q exch t2 t3 frac
    reqCorr epoch s) := by
  unfold syncRespOp
  try dsimp only
  repeat' first
    | with_reducible exact hk
    | with_reducible apply estimate_kept
    | with_reducible refine Kept.ite (fun _ => ?_) (fun _ => ?_)
    | fail_if_no_progress (with_reducible apply Kept.upd)
    | with_reducible assumption
    | intro _
    | split

theorem noteAck_kept {s0 : State} (eid : BitVec 19) (seq : BitVec 16) (s : State) (hk : Kept s0 s) : Kept s0 (noteAck
    eid seq s) := by
  unfold noteAck
  try dsimp only
  repeat' first
    | with_reducible exact hk
    | with_reducible refine Kept.ite (fun _ => ?_) (fun _ => ?_)
    | fail_if_no_progress (with_reducible apply Kept.upd)
    | split

theorem noteNak_kept {s0 : State} (eid : BitVec 19) (seq : BitVec 16) (s : State) (hk : Kept s0 s) : Kept s0 (noteNak
    eid seq s) := by
  unfold noteNak
  try dsimp only
  repeat' first
    | with_reducible exact hk
    | with_reducible refine Kept.ite (fun _ => ?_) (fun _ => ?_)
    | fail_if_no_progress (with_reducible apply Kept.upd)
    | split

theorem answerAck_kept {s0 : State} (keeper : BitVec 19) (seq : BitVec 16) (s : State) (hk : Kept s0 s) : Kept s0
    (answerAck keeper seq s) := by
  unfold answerAck
  try dsimp only
  repeat' first
    | with_reducible exact hk
    | with_reducible apply dripAll_kept
    | with_reducible apply noteAck_kept
    | with_reducible refine Kept.ite (fun _ => ?_) (fun _ => ?_)
    | split

theorem answerNak_kept {s0 : State} (keeper : BitVec 19) (seq : BitVec 16) (st : BitVec 8) (s : State) (hk : Kept s0
    s) : Kept s0 (answerNak keeper seq st s) := by
  unfold answerNak
  try dsimp only
  repeat' first
    | with_reducible exact hk
    | with_reducible apply dripAll_kept
    | with_reducible apply noteNak_kept
    | with_reducible refine Kept.ite (fun _ => ?_) (fun _ => ?_)
    | split

theorem takeProp_kept {s0 : State} (keeper : BitVec 19) (seq : BitVec 16) (k : BitVec 3) (t : BitVec 48) (s : State)
    (hk : Kept s0 s) : Kept s0 (takeProp keeper seq k t s) := by
  unfold takeProp
  try dsimp only
  repeat' first
    | with_reducible exact hk
    | with_reducible apply fset_kept
    | with_reducible apply answerAck_kept
    | with_reducible apply answerNak_kept
    | with_reducible refine Kept.ite (fun _ => ?_) (fun _ => ?_)
    | fail_if_no_progress (with_reducible apply Kept.upd)
    | split

theorem dropProp_kept {s0 : State} (seq : BitVec 16) (s : State) (hk : Kept s0 s) : Kept s0 (dropProp seq s) := by
  unfold dropProp
  try dsimp only
  repeat' first
    | with_reducible exact hk
    | with_reducible apply fset_kept
    | with_reducible apply evt_kept
    | with_reducible apply laterVcore_kept
    | with_reducible refine Kept.ite (fun _ => ?_) (fun _ => ?_)
    | fail_if_no_progress (with_reducible apply Kept.upd)
    | with_reducible assumption
    | intro _
    | split

theorem propose_kept {s0 : State} (k : Nat) (s : State) (hk : Kept s0 s) : Kept s0 (propose k s) := by
  unfold propose
  try dsimp only
  repeat' first
    | with_reducible exact hk
    | with_reducible apply toMembers_kept
    | with_reducible apply takeProp_kept
    | fail_if_no_progress (with_reducible apply Kept.upd)
    | with_reducible assumption
    | intro _

theorem ackDeadline_kept {s0 : State} (s : State) (hk : Kept s0 s) : Kept s0 (ackDeadline s) := by
  unfold ackDeadline
  try dsimp only
  repeat' first
    | with_reducible exact hk
    | with_reducible apply forAll_kept
    | with_reducible apply toMembers_kept
    | with_reducible apply dropProp_kept
    | with_reducible refine Kept.ite (fun _ => ?_) (fun _ => ?_)
    | fail_if_no_progress (with_reducible apply Kept.upd)
    | with_reducible assumption
    | intro _
    | split

theorem beaconOp_kept {s0 : State} (h : FrameHdr) (rec : DomRecord) (s : State) (hk : Kept s0 s) : Kept s0 (beaconOp h
    rec s) := by
  unfold beaconOp
  try dsimp only
  repeat' first
    | with_reducible exact hk
    | with_reducible apply fset_kept
    | with_reducible apply evt_kept
    | with_reducible apply goPace_kept
    | with_reducible apply askRecord_kept
    | with_reducible refine Kept.ite (fun _ => ?_) (fun _ => ?_)
    | fail_if_no_progress (with_reducible apply Kept.upd)
    | with_reducible assumption
    | intro _
    | split

theorem takeOver_kept {s0 : State} (s : State) (hk : Kept s0 s) : Kept s0 (takeOver s) := by
  unfold takeOver
  try dsimp only
  repeat' first
    | with_reducible exact hk
    | with_reducible apply fset_kept
    | with_reducible apply sendBeacon_kept
    | with_reducible apply rejoin_kept
    | with_reducible refine Kept.ite (fun _ => ?_) (fun _ => ?_)
    | split

theorem takeDomRecord_kept {s0 : State} (rec : DomRecord) (s : State) (hk : Kept s0 s) : Kept s0 (takeDomRecord rec s)
    := by
  unfold takeDomRecord
  try dsimp only
  repeat' first
    | with_reducible exact hk
    | with_reducible apply fset_kept
    | with_reducible apply setRungT_kept
    | with_reducible refine Kept.ite (fun _ => ?_) (fun _ => ?_)
    | fail_if_no_progress (with_reducible apply Kept.upd)
    | split

theorem recordOp_kept {s0 : State} (h : FrameHdr) (rec : DomRecord) (s : State) (hk : Kept s0 s) : Kept s0 (recordOp h
    rec s) := by
  unfold recordOp
  try dsimp only
  repeat' first
    | with_reducible exact hk
    | with_reducible apply goPace_kept
    | with_reducible apply eclkInPace_kept
    | with_reducible apply noteFloorEnd_kept
    | with_reducible apply setP_kept
    | with_reducible apply stepP_kept
    | with_reducible apply noteCeiling_kept
    | with_reducible apply takeDomRecord_kept
    | with_reducible refine Kept.ite (fun _ => ?_) (fun _ => ?_)
    | fail_if_no_progress (with_reducible apply Kept.upd)
    | split

theorem floorEnter_kept {s0 : State} (cause : Nat) (s : State) (hk : Kept s0 s) : Kept s0 (floorEnter cause s) := by
  unfold floorEnter
  try dsimp only
  repeat' first
    | with_reducible exact hk
    | with_reducible apply fset_kept
    | with_reducible apply evt_kept
    | with_reducible apply goPace_kept
    | with_reducible apply setVcore_kept
    | with_reducible apply noteCeiling_kept
    | with_reducible apply noteMem_kept
    | with_reducible refine Kept.ite (fun _ => ?_) (fun _ => ?_)
    | fail_if_no_progress (with_reducible apply Kept.upd)
    | split

theorem floorClear_kept {s0 : State} (cause : Nat) (s : State) (hk : Kept s0 s) : Kept s0 (floorClear cause s) := by
  unfold floorClear
  try dsimp only
  repeat' first
    | with_reducible exact hk
    | with_reducible apply fset_kept

theorem floorLeave_kept {s0 : State} (s : State) (hk : Kept s0 s) : Kept s0 (floorLeave s) := by
  unfold floorLeave
  try dsimp only
  repeat' first
    | with_reducible exact hk
    | fail_if_no_progress (with_reducible apply Kept.upd)

theorem setpointOp_kept {s0 : State} (s : State) (hk : Kept s0 s) : Kept s0 (setpointOp s) := by
  unfold setpointOp
  try dsimp only
  repeat' first
    | with_reducible exact hk
    | with_reducible apply setVcore_kept
    | with_reducible apply answerAck_kept
    | with_reducible apply floorLeave_kept
    | with_reducible refine Kept.ite (fun _ => ?_) (fun _ => ?_)
    | fail_if_no_progress (with_reducible apply Kept.upd)
    | with_reducible assumption
    | intro _
    | split

theorem rungTargetOp_kept {s0 : State} (r : Requester) (v : Nat) (s : State) (hk : Kept s0 s) : Kept s0 (rungTargetOp
    r v s) := by
  unfold rungTargetOp
  try dsimp only
  repeat' first
    | with_reducible exact hk
    | with_reducible apply fset_kept
    | with_reducible apply emit_kept
    | with_reducible apply regAccessFault_kept
    | with_reducible refine Kept.ite (fun _ => ?_) (fun _ => ?_)
    | split

/-! Operations of Machine/Power.lean. -/

theorem railSampleOp_kept {s0 : State} (r : Nat) (x : Option (Nat × Nat)) (s : State) (hk : Kept s0 s) : Kept s0
    (railSampleOp r x s).2 := by
  unfold railSampleOp
  try dsimp only
  repeat' first
    | with_reducible exact hk
    | with_reducible apply fset_kept
    | with_reducible refine Kept.ite (fun _ => ?_) (fun _ => ?_)
    | fail_if_no_progress (with_reducible apply Kept.upd)
    | with_reducible refine Kept.pr2 (by assumption) ?_
    | with_reducible refine Kept.pr1 (by assumption) ?_
    | with_reducible refine Kept.pr3 (by assumption) ?_
    | with_reducible assumption
    | intro _
    | split

theorem countMs_kept {s0 : State} (e : Nat) (f : Fld) (s : State) (hk : Kept s0 s) : Kept s0 (countMs e f s) := by
  unfold countMs
  try dsimp only
  repeat' first
    | with_reducible exact hk
    | with_reducible apply countEvt_kept
    | with_reducible refine Kept.ite (fun _ => ?_) (fun _ => ?_)
    | split

theorem railSamplesOp_kept {s0 : State} (l : List (Option (Nat × Nat))) (s : State) (hk : Kept s0 s) : Kept s0
    (railSamplesOp l s) := by
  unfold railSamplesOp
  try dsimp only
  repeat' first
    | with_reducible exact hk
    | with_reducible apply fset_kept
    | with_reducible apply countEvt_kept
    | with_reducible apply railSampleOp_kept
    | with_reducible apply countMs_kept
    | with_reducible refine Kept.foldl _ (fun _ _ h => ?_) _ _ ?_
    | with_reducible refine Kept.foldl1 _ (fun _ _ h => ?_) _ _ ?_
    | with_reducible refine Kept.foldl2 _ (fun _ _ h => ?_) _ _ ?_
    | with_reducible refine Kept.ite (fun _ => ?_) (fun _ => ?_)
    | fail_if_no_progress (with_reducible apply Kept.upd)
    | with_reducible assumption
    | intro _
    | split

theorem noteCap_kept {s0 : State} (s : State) (hk : Kept s0 s) : Kept s0 (noteCap s) := by
  unfold noteCap
  try dsimp only
  repeat' first
    | with_reducible exact hk
    | with_reducible apply fset_kept

theorem followCap_kept {s0 : State} (s : State) (hk : Kept s0 s) : Kept s0 (followCap s) := by
  unfold followCap
  try dsimp only
  repeat' first
    | with_reducible exact hk
    | with_reducible apply noteCap_kept
    | fail_if_no_progress (with_reducible apply Kept.upd)

theorem noteUrgent_kept {s0 : State} (s : State) (hk : Kept s0 s) : Kept s0 (noteUrgent s) := by
  unfold noteUrgent
  try dsimp only
  repeat' first
    | with_reducible exact hk
    | with_reducible apply fset_kept
    | fail_if_no_progress (with_reducible apply Kept.upd)
    | with_reducible assumption
    | intro _

theorem capOp_kept {s0 : State} (c : Nat) (urgent : Bool) (s : State) (hk : Kept s0 s) : Kept s0 (capOp c urgent
    s).2.2.2.2 := by
  unfold capOp
  try dsimp only
  repeat' first
    | with_reducible exact hk
    | with_reducible apply fset_kept
    | with_reducible apply evt_kept
    | with_reducible apply noteCap_kept
    | with_reducible apply noteUrgent_kept
    | with_reducible refine Kept.ite (fun _ => ?_) (fun _ => ?_)
    | fail_if_no_progress (with_reducible apply Kept.upd)
    | split

theorem capReply_kept {s0 : State} (c : Nat) (urgent : Bool) (s : State) (hk : Kept s0 s) : Kept s0 (capReply c urgent
    s).2 := by
  unfold capReply
  try dsimp only
  repeat' first
    | with_reducible exact hk
    | with_reducible apply capOp_kept
    | with_reducible refine Kept.ite (fun _ => ?_) (fun _ => ?_)
    | split

theorem noteLimits_kept {s0 : State} (s : State) (hk : Kept s0 s) : Kept s0 (noteLimits s) := by
  unfold noteLimits
  try dsimp only
  repeat' first
    | with_reducible exact hk
    | with_reducible apply fset_kept
    | with_reducible refine Kept.ite (fun _ => ?_) (fun _ => ?_)
    | split

theorem admitStep_kept {s0 : State} (tooMuch fits : Bool) (s : State) (hk : Kept s0 s) : Kept s0 (admitStep tooMuch
    fits s) := by
  unfold admitStep
  try dsimp only
  repeat' first
    | with_reducible exact hk
    | with_reducible apply fset_kept
    | with_reducible refine Kept.ite (fun _ => ?_) (fun _ => ?_)
    | fail_if_no_progress (with_reducible apply Kept.upd)
    | with_reducible assumption
    | intro _
    | split

theorem moveLimit_kept {s0 : State} (s : State) (hk : Kept s0 s) : Kept s0 (moveLimit s) := by
  unfold moveLimit
  try dsimp only
  repeat' first
    | with_reducible exact hk
    | with_reducible apply noteCap_kept
    | with_reducible refine Kept.ite (fun _ => ?_) (fun _ => ?_)
    | fail_if_no_progress (with_reducible apply Kept.upd)
    | split

theorem powerTick_kept {s0 : State} (s : State) (hk : Kept s0 s) : Kept s0 (powerTick s) := by
  unfold powerTick
  try dsimp only
  repeat' first
    | with_reducible exact hk
    | with_reducible apply regSet_kept
    | with_reducible apply fset_kept
    | with_reducible apply noteMem_kept
    | with_reducible apply noteUrgent_kept
    | with_reducible apply admitStep_kept
    | with_reducible apply moveLimit_kept
    | with_reducible refine Kept.ite (fun _ => ?_) (fun _ => ?_)
    | fail_if_no_progress (with_reducible apply Kept.upd)
    | with_reducible assumption
    | intro _
    | split

theorem powerEdge_kept {s0 : State} (old new : CabStruct) (s : State) (hk : Kept s0 s) : Kept s0 (powerEdge old new s)
    := by
  unfold powerEdge
  try dsimp only
  repeat' first
    | with_reducible exact hk
    | with_reducible apply fset_kept
    | with_reducible apply noteCap_kept
    | with_reducible apply followCap_kept
    | with_reducible refine Kept.ite (fun _ => ?_) (fun _ => ?_)
    | fail_if_no_progress (with_reducible apply Kept.upd)
    | split

theorem heartbeatOp_kept {s0 : State} (port : MsgPort) (s : State) (hk : Kept s0 s) : Kept s0 (heartbeatOp port s).2
    := by
  unfold heartbeatOp
  try dsimp only
  repeat' first
    | with_reducible exact hk
    | with_reducible apply fset_kept
    | with_reducible apply followCap_kept
    | with_reducible refine Kept.ite (fun _ => ?_) (fun _ => ?_)
    | fail_if_no_progress (with_reducible apply Kept.upd)
    | with_reducible assumption
    | intro _
    | split

theorem declareFaulty_kept {s0 : State} (i : Nat) (s : State) (hk : Kept s0 s) : Kept s0 (declareFaulty i s) := by
  unfold declareFaulty
  try dsimp only
  repeat' first
    | with_reducible exact hk
    | with_reducible apply fset_kept
    | with_reducible apply evt_kept
    | with_reducible apply softFault_kept
    | with_reducible refine Kept.ite (fun _ => ?_) (fun _ => ?_)
    | split

theorem samplePairs_kept {s0 : State} (l : List (Option Int)) (s : State) (hk : Kept s0 s) : Kept s0 (samplePairs l
    s).2 := by
  unfold samplePairs
  try dsimp only
  repeat' first
    | with_reducible exact hk
    | with_reducible apply forAll_kept
    | with_reducible apply declareFaulty_kept
    | with_reducible refine Kept.ite (fun _ => ?_) (fun _ => ?_)
    | fail_if_no_progress (with_reducible apply Kept.upd)
    | with_reducible assumption
    | intro _
    | split

theorem stackTemp_kept {s0 : State} (l : List (Option Int)) (st : Nat) (s : State) (hk : Kept s0 s) : Kept s0
    (stackTemp l st s).2 := by
  unfold stackTemp
  try dsimp only
  repeat' first
    | with_reducible exact hk
    | with_reducible apply declareFaulty_kept
    | with_reducible assumption
    | intro _
    | split

theorem stackHeat_kept {s0 : State} (st : Nat) (t : Int) (s : State) (hk : Kept s0 s) : Kept s0 (stackHeat st t s) :=
    by
  unfold stackHeat
  try dsimp only
  repeat' first
    | with_reducible exact hk
    | with_reducible apply fset_kept
    | with_reducible apply evt_kept
    | with_reducible refine Kept.ite (fun _ => ?_) (fun _ => ?_)
    | fail_if_no_progress (with_reducible apply Kept.upd)
    | with_reducible assumption
    | intro _
    | split

theorem setTherm_kept {s0 : State} (k : Nat) (s : State) (hk : Kept s0 s) : Kept s0 (setTherm k s) := by
  unfold setTherm
  try dsimp only
  repeat' first
    | with_reducible exact hk
    | with_reducible apply fset_kept
    | with_reducible refine Kept.ite (fun _ => ?_) (fun _ => ?_)
    | fail_if_no_progress (with_reducible apply Kept.upd)
    | split

theorem thermStep_kept {s0 : State} (s : State) (hk : Kept s0 s) : Kept s0 (thermStep s) := by
  unfold thermStep
  try dsimp only
  repeat' first
    | with_reducible exact hk
    | with_reducible apply evt_kept
    | with_reducible apply setTherm_kept
    | with_reducible refine Kept.ite (fun _ => ?_) (fun _ => ?_)
    | fail_if_no_progress (with_reducible apply Kept.upd)
    | with_reducible assumption
    | intro _
    | split

theorem thermFloor_kept {s0 : State} (hotStack : Int) (s : State) (hk : Kept s0 s) : Kept s0 (thermFloor hotStack s)
    := by
  unfold thermFloor
  try dsimp only
  repeat' first
    | with_reducible exact hk
    | with_reducible apply floorEnter_kept
    | with_reducible apply floorClear_kept
    | with_reducible refine Kept.ite (fun _ => ?_) (fun _ => ?_)
    | fail_if_no_progress (with_reducible apply Kept.upd)
    | split

theorem sendHot_kept {s0 : State} (s : State) (hk : Kept s0 s) : Kept s0 (sendHot s) := by
  unfold sendHot
  try dsimp only
  repeat' first
    | with_reducible exact hk
    | with_reducible refine Kept.ite (fun _ => ?_) (fun _ => ?_)
    | fail_if_no_progress (with_reducible apply Kept.upd)
    | split

theorem thermalOp_kept {s0 : State} (l : List (Option Int)) (s : State) (hk : Kept s0 s) : Kept s0 (thermalOp l s) :=
    by
  unfold thermalOp
  try dsimp only
  repeat' first
    | with_reducible exact hk
    | with_reducible apply fset_kept
    | with_reducible apply floorEnter_kept
    | with_reducible apply samplePairs_kept
    | with_reducible apply stackTemp_kept
    | with_reducible apply stackHeat_kept
    | with_reducible apply thermStep_kept
    | with_reducible apply thermFloor_kept
    | with_reducible apply sendHot_kept
    | with_reducible refine Kept.foldl _ (fun _ _ h => ?_) _ _ ?_
    | with_reducible refine Kept.foldl1 _ (fun _ _ h => ?_) _ _ ?_
    | with_reducible refine Kept.foldl2 _ (fun _ _ h => ?_) _ _ ?_
    | with_reducible refine Kept.ite (fun _ => ?_) (fun _ => ?_)
    | fail_if_no_progress (with_reducible apply Kept.upd)
    | with_reducible assumption
    | intro _
    | split

theorem coolClearOp_kept {s0 : State} (s : State) (hk : Kept s0 s) : Kept s0 (coolClearOp s) := by
  unfold coolClearOp
  try dsimp only
  repeat' first
    | with_reducible exact hk
    | with_reducible apply floorClear_kept
    | with_reducible refine Kept.ite (fun _ => ?_) (fun _ => ?_)
    | split

theorem coolingOp_kept {s0 : State} (inlet : BitVec 16) (flowLost : Bool) (s : State) (hk : Kept s0 s) : Kept s0
    (coolingOp inlet flowLost s) := by
  unfold coolingOp
  try dsimp only
  repeat' first
    | with_reducible exact hk
    | with_reducible apply fset_kept
    | with_reducible apply floorEnter_kept
    | with_reducible apply floorClear_kept
    | with_reducible apply coolClearOp_kept
    | with_reducible refine Kept.ite (fun _ => ?_) (fun _ => ?_)
    | fail_if_no_progress (with_reducible apply Kept.upd)
    | with_reducible assumption
    | intro _
    | split

theorem setCool_kept {s0 : State} (r b : Nat) (s : State) (hk : Kept s0 s) : Kept s0 (setCool r b s) := by
  unfold setCool
  try dsimp only
  repeat' first
    | with_reducible exact hk
    | with_reducible apply noteCap_kept
    | with_reducible apply followCap_kept
    | with_reducible refine Kept.ite (fun _ => ?_) (fun _ => ?_)
    | fail_if_no_progress (with_reducible apply Kept.upd)
    | split

theorem rthOp_kept {s0 : State} (s : State) (hk : Kept s0 s) : Kept s0 (rthOp s) := by
  unfold rthOp
  have h := sendHot_kept s hk
  generalize sendHot s = t at h ⊢
  repeat' first
    | with_reducible exact h
    | with_reducible apply fset_kept
    | with_reducible apply evt_kept
    | with_reducible apply followCap_kept
    | with_reducible apply setCool_kept
    | with_reducible refine Kept.ite (fun _ => ?_) (fun _ => ?_)
    | fail_if_no_progress (with_reducible apply Kept.upd)

/-! Operations of Machine/Bureau.lean. -/

theorem noteTopology_kept {s0 : State} (s : State) (hk : Kept s0 s) : Kept s0 (noteTopology s) := by
  unfold noteTopology
  try dsimp only
  repeat' first
    | with_reducible exact hk
    | with_reducible apply fset_kept
    | with_reducible assumption
    | intro _

theorem killCore_kept {s0 : State} (c : Nat) (st : BitVec 8) (s : State) (hk : Kept s0 s) : Kept s0 (killCore c st s)
    := by
  unfold killCore
  try dsimp only
  repeat' first
    | with_reducible exact hk
    | with_reducible apply modCore_kept
    | with_reducible apply stopProg_kept
    | fail_if_no_progress (with_reducible apply Kept.upd)
    | with_reducible assumption
    | intro _
    | split

theorem killArmed_kept {s0 : State} (cores : List Nat) (st : BitVec 8) (s : State) (hk : Kept s0 s) : Kept s0
    (killArmed cores st s) := by
  unfold killArmed
  try dsimp only
  repeat' first
    | with_reducible exact hk
    | with_reducible apply forAll_kept
    | with_reducible apply cancelInst_kept
    | with_reducible assumption
    | intro _

theorem fenceCluster_kept {s0 : State} (k : Nat) (s : State) (hk : Kept s0 s) : Kept s0 (fenceCluster k s) := by
  unfold fenceCluster
  try dsimp only
  repeat' first
    | with_reducible exact hk
    | with_reducible apply fset_kept
    | with_reducible apply forAll_kept
    | with_reducible apply chResetCores_kept
    | with_reducible apply noteAdmit_kept
    | with_reducible apply noteTopology_kept
    | with_reducible apply killCore_kept
    | with_reducible apply killArmed_kept
    | with_reducible refine Kept.ite (fun _ => ?_) (fun _ => ?_)
    | with_reducible assumption
    | intro _
    | split

theorem fenceStack_kept {s0 : State} (st : Nat) (s : State) (hk : Kept s0 s) : Kept s0 (fenceStack st s) := by
  unfold fenceStack
  try dsimp only
  repeat' first
    | with_reducible exact hk
    | with_reducible apply fset_kept
    | with_reducible apply noteTopology_kept

theorem fenceUnit_kept {s0 : State} (source : Nat) (s : State) (hk : Kept s0 s) : Kept s0 (fenceUnit source s) := by
  unfold fenceUnit
  try dsimp only
  repeat' first
    | with_reducible exact hk
    | with_reducible apply mapOut_kept
    | with_reducible apply fenceCluster_kept
    | with_reducible apply fenceStack_kept
    | with_reducible refine Kept.ite (fun _ => ?_) (fun _ => ?_)
    | with_reducible assumption
    | intro _
    | split

theorem stopPart_kept {s0 : State} (p : Nat) (s : State) (hk : Kept s0 s) : Kept s0 (stopPart p s) := by
  unfold stopPart
  try dsimp only
  repeat' first
    | with_reducible exact hk
    | with_reducible apply fset_kept
    | with_reducible apply forAll_kept
    | with_reducible apply stallQueue_kept
    | with_reducible apply cancelInst_kept
    | with_reducible apply chStopPart_kept
    | with_reducible refine Kept.ite (fun _ => ?_) (fun _ => ?_)
    | with_reducible assumption
    | intro _
    | split

theorem noticeTo_kept {s0 : State} (dst : Option (BitVec 19)) (s : State) (hk : Kept s0 s) : Kept s0 (noticeTo dst s)
    := by
  unfold noticeTo
  try dsimp only
  repeat' first
    | with_reducible exact hk
    | with_reducible apply emit_kept

theorem sendNotice_kept {s0 : State} (s : State) (hk : Kept s0 s) : Kept s0 (sendNotice s) := by
  unfold sendNotice
  try dsimp only
  repeat' first
    | with_reducible exact hk
    | with_reducible apply noticeTo_kept

theorem safeState_kept {s0 : State} (s : State) (hk : Kept s0 s) : Kept s0 (safeState s) := by
  unfold safeState
  try dsimp only
  repeat' first
    | with_reducible exact hk
    | with_reducible apply fset_kept
    | with_reducible apply forAll_kept
    | with_reducible apply dropEntries_kept
    | with_reducible apply sendNotice_kept
    | with_reducible refine Kept.ite (fun _ => ?_) (fun _ => ?_)
    | fail_if_no_progress (with_reducible apply Kept.upd)
    | with_reducible assumption
    | intro _
    | split

theorem raiseFaultAt_kept {s0 : State} (tm : BitVec 48 × BitVec 16) (code source parts info0 info1 : Nat) (s : State)
    (hk : Kept s0 s) : Kept s0 (raiseFaultAt tm code source parts info0 info1 s) := by
  unfold raiseFaultAt
  try dsimp only
  repeat' first
    | with_reducible exact hk
    | with_reducible apply logFaultAt_kept
    | with_reducible apply fenceUnit_kept
    | with_reducible apply stopPart_kept
    | with_reducible apply safeState_kept
    | with_reducible refine Kept.ite (fun _ => ?_) (fun _ => ?_)
    | with_reducible assumption
    | intro _
    | split

theorem raiseFault_kept {s0 : State} (code source parts info0 info1 : Nat) (s : State) (hk : Kept s0 s) : Kept s0
    (raiseFault code source parts info0 info1 s) := by
  unfold raiseFault
  try dsimp only
  repeat' first
    | with_reducible exact hk
    | with_reducible apply raiseFaultAt_kept

theorem unitFault_kept {s0 : State} (code source : Nat) (s : State) (hk : Kept s0 s) : Kept s0 (unitFault code source
    s) := by
  unfold unitFault
  try dsimp only
  repeat' first
    | with_reducible exact hk
    | with_reducible apply collected_kept
    | with_reducible apply raiseFault_kept

theorem directFault_kept {s0 : State} (code source : Nat) (s : State) (hk : Kept s0 s) : Kept s0 (directFault code
    source s) := by
  unfold directFault
  try dsimp only
  repeat' first
    | with_reducible exact hk
    | with_reducible apply raiseFault_kept

theorem bureauSelf_kept {s0 : State} (d : Option Nat) (s : State) (hk : Kept s0 s) : Kept s0 (bureauSelf d s) := by
  unfold bureauSelf
  try dsimp only
  repeat' first
    | with_reducible exact hk
    | with_reducible apply directFault_kept
    | with_reducible assumption
    | intro _
    | split

theorem sendHeld_kept {s0 : State} (d : Nat) (s : State) (hk : Kept s0 s) : Kept s0 (sendHeld d s) := by
  unfold sendHeld
  try dsimp only
  repeat' first
    | with_reducible exact hk
    | with_reducible apply forAll_kept
    | with_reducible apply hoSend_kept
    | with_reducible refine Kept.ite (fun _ => ?_) (fun _ => ?_)
    | fail_if_no_progress (with_reducible apply Kept.upd)
    | with_reducible assumption
    | intro _
    | split

theorem sendRecord_kept {s0 : State} (d : Nat) (e : List Byte) (s : State) (hk : Kept s0 s) : Kept s0 (sendRecord d e
    s) := by
  unfold sendRecord
  try dsimp only
  repeat' first
    | with_reducible exact hk
    | with_reducible apply hoSend_kept
    | with_reducible refine Kept.ite (fun _ => ?_) (fun _ => ?_)
    | fail_if_no_progress (with_reducible apply Kept.upd)
    | split

theorem creditReturn_kept {s0 : State} (h : HandoffId) (n : Nat) (s : State) (hk : Kept s0 s) : Kept s0 (creditReturn
    h n s) := by
  unfold creditReturn
  try dsimp only
  repeat' first
    | with_reducible exact hk
    | with_reducible apply setHo_kept
    | with_reducible apply unitFault_kept
    | with_reducible apply bureauSelf_kept
    | with_reducible apply sendHeld_kept
    | with_reducible refine Kept.ite (fun _ => ?_) (fun _ => ?_)
    | fail_if_no_progress (with_reducible apply Kept.upd)
    | with_reducible assumption
    | intro _
    | split

theorem sendFault_kept {s0 : State} (source code : Nat) (info0 info1 : Word) (s : State) (hk : Kept s0 s) : Kept s0
    (sendFault source code info0 info1 s) := by
  unfold sendFault
  try dsimp only
  repeat' first
    | with_reducible exact hk
    | with_reducible apply raiseFault_kept
    | with_reducible apply sendRecord_kept
    | with_reducible assumption
    | intro _
    | split

theorem setInvalid_kept {s0 : State} (source n : Nat) (s : State) (hk : Kept s0 s) : Kept s0 (setInvalid source n s)
    := by
  unfold setInvalid
  try dsimp only
  repeat' first
    | with_reducible exact hk
    | fail_if_no_progress (with_reducible apply Kept.upd)
    | with_reducible assumption
    | intro _

theorem faultSample_kept {s0 : State} (src : BitVec 16) (code : BitVec 8) (t c : Bool) (info0 info1 : Word) (s :
    State) (hk : Kept s0 s) : Kept s0 (faultSample src code t c info0 info1 s) := by
  unfold faultSample
  try dsimp only
  repeat' first
    | with_reducible exact hk
    | with_reducible apply sendFault_kept
    | with_reducible apply setInvalid_kept
    | with_reducible refine Kept.ite (fun _ => ?_) (fun _ => ?_)
    | with_reducible assumption
    | intro _
    | split

theorem takeRecord_kept {s0 : State} (x : FaultIn) (s : State) (hk : Kept s0 s) : Kept s0 (takeRecord x s) := by
  unfold takeRecord
  try dsimp only
  repeat' first
    | with_reducible exact hk
    | with_reducible apply setHo_kept
    | with_reducible apply sendHeld_kept
    | fail_if_no_progress (with_reducible apply Kept.upd)
    | with_reducible assumption
    | intro _
    | split

theorem bureauReaction_kept {s0 : State} (x : FaultIn) (s : State) (hk : Kept s0 s) : Kept s0 (bureauReaction x s) :=
    by
  unfold bureauReaction
  try dsimp only
  repeat' first
    | with_reducible exact hk
    | with_reducible apply raiseFaultAt_kept
    | with_reducible apply takeRecord_kept

theorem errNRelease_kept {s0 : State} (s : State) (hk : Kept s0 s) : Kept s0 (errNRelease s) := by
  unfold errNRelease
  try dsimp only
  repeat' first
    | with_reducible exact hk
    | with_reducible apply fset_kept
    | fail_if_no_progress (with_reducible apply Kept.upd)

theorem errNClear_kept {s0 : State} (fatalSame : Bool) (s : State) (hk : Kept s0 s) : Kept s0 (errNClear fatalSame s)
    := by
  unfold errNClear
  try dsimp only
  repeat' first
    | with_reducible exact hk
    | with_reducible apply errNRelease_kept
    | with_reducible refine Kept.ite (fun _ => ?_) (fun _ => ?_)
    | fail_if_no_progress (with_reducible apply Kept.upd)
    | split

theorem errNExpiry_kept {s0 : State} (s : State) (hk : Kept s0 s) : Kept s0 (errNExpiry s) := by
  unfold errNExpiry
  try dsimp only
  repeat' first
    | with_reducible exact hk
    | with_reducible apply errNRelease_kept
    | with_reducible refine Kept.ite (fun _ => ?_) (fun _ => ?_)
    | fail_if_no_progress (with_reducible apply Kept.upd)
    | split

theorem thermTrip_kept {s0 : State} (d : Nat) (s : State) (hk : Kept s0 s) : Kept s0 (thermTrip d s) := by
  unfold thermTrip
  try dsimp only
  repeat' first
    | with_reducible exact hk
    | with_reducible apply directFault_kept
    | with_reducible refine Kept.ite (fun _ => ?_) (fun _ => ?_)
    | fail_if_no_progress (with_reducible apply Kept.upd)
    | split

/-! Operations of Machine/Reset.lean. -/

theorem advanceCore_kept {s0 : State} (c : Nat) (s : State) (hk : Kept s0 s) : Kept s0 (advanceCore c s) := by
  unfold advanceCore
  try dsimp only
  repeat' first
    | with_reducible exact hk
    | with_reducible apply fset_kept
    | with_reducible apply modCore_kept
    | fail_if_no_progress (with_reducible apply Kept.upd)
    | with_reducible assumption
    | intro _

theorem retireDom_kept {s0 : State} (d g : Nat) (s : State) (hk : Kept s0 s) : Kept s0 (retireDom d g s) := by
  unfold retireDom
  try dsimp only
  repeat' first
    | with_reducible exact hk
    | fail_if_no_progress (with_reducible apply Kept.upd)
    | with_reducible assumption
    | intro _

theorem advancePart_kept {s0 : State} (p : Nat) (s : State) (hk : Kept s0 s) : Kept s0 (advancePart p s) := by
  unfold advancePart
  try dsimp only
  repeat' first
    | with_reducible exact hk
    | with_reducible apply fset_kept
    | with_reducible apply retireDom_kept

theorem advanceHub_kept {s0 : State} (s : State) (hk : Kept s0 s) : Kept s0 (advanceHub s) := by
  unfold advanceHub
  try dsimp only
  repeat' first
    | with_reducible exact hk
    | with_reducible apply fset_kept
    | with_reducible apply retireDom_kept

theorem clearRegs_kept {s0 : State} (b : Nat) (l : List Nat) (s : State) (hk : Kept s0 s) : Kept s0 (clearRegs b l s)
    := by
  unfold clearRegs
  try dsimp only
  repeat' first
    | with_reducible exact hk
    | with_reducible apply regSet_kept
    | with_reducible apply forAll_kept
    | with_reducible assumption
    | intro _

theorem endMoves_kept {s0 : State} (cores : List Nat) (st : BitVec 8) (s : State) (hk : Kept s0 s) : Kept s0 (endMoves
    cores st s) := by
  unfold endMoves
  try dsimp only
  repeat' first
    | with_reducible exact hk
    | with_reducible apply forAll_kept
    | with_reducible apply dropRemote_kept
    | with_reducible apply drainsGo_kept
    | with_reducible apply endCmd_kept
    | with_reducible assumption
    | intro _
    | split

theorem endInsts_kept {s0 : State} (cores : List Nat) (s : State) (hk : Kept s0 s) : Kept s0 (endInsts cores s) := by
  unfold endInsts
  try dsimp only
  repeat' first
    | with_reducible exact hk
    | with_reducible apply forAll_kept
    | with_reducible apply cancelInst_kept
    | with_reducible assumption
    | intro _

theorem coreToReset_kept {s0 : State} (c : Nat) (s : State) (hk : Kept s0 s) : Kept s0 (coreToReset c s) := by
  unfold coreToReset
  try dsimp only
  repeat' first
    | with_reducible exact hk
    | with_reducible apply fset_kept
    | with_reducible apply modCore_kept
    | with_reducible apply ctrClear_kept
    | with_reducible apply advanceCore_kept
    | with_reducible apply clearRegs_kept
    | fail_if_no_progress (with_reducible apply Kept.upd)
    | with_reducible assumption
    | intro _

theorem coresToReset_kept {s0 : State} (cores : List Nat) (s : State) (hk : Kept s0 s) : Kept s0 (coresToReset cores
    s) := by
  unfold coresToReset
  try dsimp only
  repeat' first
    | with_reducible exact hk
    | with_reducible apply forAll_kept
    | with_reducible apply hoFlush_kept
    | with_reducible apply noteAdmit_kept
    | with_reducible apply endMoves_kept
    | with_reducible apply endInsts_kept
    | with_reducible apply coreToReset_kept
    | with_reducible assumption
    | intro _

theorem coresFromReset_kept {s0 : State} (cores : List Nat) (katFail : BitVec 256) (s : State) (hk : Kept s0 s) : Kept
    s0 (coresFromReset cores katFail s) := by
  unfold coresFromReset
  try dsimp only
  repeat' first
    | with_reducible exact hk
    | with_reducible apply fset_kept
    | with_reducible apply modCore_kept
    | with_reducible apply forAll_kept
    | with_reducible apply fenceCluster_kept
    | with_reducible apply unitFault_kept
    | with_reducible refine Kept.ite (fun _ => ?_) (fun _ => ?_)
    | fail_if_no_progress (with_reducible apply Kept.upd)
    | with_reducible assumption
    | intro _
    | split

theorem eraseKey_kept {s0 : State} (i : Nat) (s : State) (hk : Kept s0 s) : Kept s0 (eraseKey i s) := by
  unfold eraseKey
  try dsimp only
  repeat' first
    | with_reducible exact hk
    | with_reducible apply evt_kept
    | with_reducible refine Kept.ite (fun _ => ?_) (fun _ => ?_)
    | fail_if_no_progress (with_reducible apply Kept.upd)
    | with_reducible assumption
    | intro _
    | split

theorem setLatch_kept {s0 : State} (r : Requester) (off : Nat) (v : Word) (s : State) (hk : Kept s0 s) : Kept s0
    (setLatch r off v s) := by
  unfold setLatch
  try dsimp only
  repeat' first
    | with_reducible exact hk
    | fail_if_no_progress (with_reducible apply Kept.upd)
    | with_reducible assumption
    | intro _

theorem secSet_kept {s0 : State} (r : Requester) (f : Fld) (v : Nat) (s : State) (hk : Kept s0 s) : Kept s0 (secSet r
    f v s) := by
  unfold secSet
  try dsimp only
  repeat' first
    | with_reducible exact hk
    | with_reducible apply setLatch_kept

theorem secEnd_kept {s0 : State} (r : Requester) (cmd : Nat) (x : SecRes) (s : State) (hk : Kept s0 s) : Kept s0
    (secEnd r cmd x s) := by
  unfold secEnd
  try dsimp only
  repeat' first
    | with_reducible exact hk
    | with_reducible apply raiseMsix_kept
    | with_reducible apply secSet_kept
    | with_reducible refine Kept.ite (fun _ => ?_) (fun _ => ?_)
    | with_reducible assumption
    | intro _
    | split

theorem eraseKeysOf_kept {s0 : State} (p : Nat) (s : State) (hk : Kept s0 s) : Kept s0 (eraseKeysOf p s) := by
  unfold eraseKeysOf
  try dsimp only
  repeat' first
    | with_reducible exact hk
    | with_reducible apply forAll_kept
    | with_reducible apply eraseKey_kept
    | with_reducible apply secEnd_kept
    | fail_if_no_progress (with_reducible apply Kept.upd)
    | with_reducible assumption
    | intro _

theorem unloadParts_kept {s0 : State} (parts : List Nat) (s : State) (hk : Kept s0 s) : Kept s0 (unloadParts parts s)
    := by
  unfold unloadParts
  try dsimp only
  repeat' first
    | with_reducible exact hk
    | with_reducible apply forAll_kept
    | with_reducible apply endCmd_kept
    | with_reducible apply freeProg_kept
    | with_reducible refine Kept.ite (fun _ => ?_) (fun _ => ?_)
    | fail_if_no_progress (with_reducible apply Kept.upd)
    | with_reducible assumption
    | intro _
    | split

theorem assignCluster_kept {s0 : State} (good : List (BitVec 9)) (storeOk ok : Bool) (k : Nat) (s : State) (hk : Kept
    s0 s) : Kept s0 (assignCluster good storeOk ok k s) := by
  unfold assignCluster
  try dsimp only
  repeat' first
    | with_reducible exact hk
    | with_reducible apply fset_kept
    | with_reducible apply forAll_kept
    | with_reducible apply unitFault_kept
    | with_reducible refine Kept.ite (fun _ => ?_) (fun _ => ?_)
    | with_reducible assumption
    | intro _
    | split

theorem scrubZero_kept {s0 : State} (dies : List Nat) (p : Nat) (s : State) (hk : Kept s0 s) : Kept s0
    (scrubZero dies p s) := by
  unfold scrubZero
  with_reducible refine Kept.mkmem (h := ?_) (h1 := ?_) ..
  · exact hk
  · intro hx
    unfold Memory.wf twf at hx ⊢
    exact twfFrom_filter _ _ _ _ hx

theorem zeroDescs_kept {s0 : State} (q0 n : Nat) (s : State) (hk : Kept s0 s) : Kept s0 (zeroDescs q0 n s) := by
  unfold zeroDescs
  with_reducible refine Kept.mkmem (h := ?_) (h1 := ?_) ..
  · exact hk
  · intro hx
    unfold Memory.wf twf at hx ⊢
    exact twfFrom_filter _ _ _ _ hx

theorem scrubPass_kept {s0 : State} (write : Bool) (dies : List Nat) (p : Nat) (s : State) (hk : Kept s0 s) : Kept s0
    (scrubPass write dies p s) := by
  unfold scrubPass
  try dsimp only
  repeat' first
    | with_reducible exact hk
    | with_reducible apply forAll_kept
    | with_reducible apply noteAccess_kept
    | with_reducible assumption
    | intro _

theorem setScrubPending_kept {s0 : State} (p : Nat) (b : Bool) (s : State) (hk : Kept s0 s) : Kept s0 (setScrubPending
    p b s) := by
  unfold setScrubPending
  try dsimp only
  repeat' first
    | with_reducible exact hk
    | with_reducible apply fset_kept
    | with_reducible refine Kept.ite (fun _ => ?_) (fun _ => ?_)
    | fail_if_no_progress (with_reducible apply Kept.upd)
    | fail_if_no_progress (with_reducible refine Kept.mknv (h := ?_) (h1 := rfl) (h2 := rfl) (h3 := rfl) ..)
    | with_reducible assumption
    | intro _
    | split

theorem setScrubActive_kept {s0 : State} (dies : List Nat) (p : Nat) (b : Bool) (s : State) (hk : Kept s0 s) : Kept s0
    (setScrubActive dies p b s) := by
  unfold setScrubActive
  try dsimp only
  repeat' first
    | with_reducible exact hk
    | with_reducible apply fset_kept
    | with_reducible apply forAll_kept
    | with_reducible assumption
    | intro _

theorem setPartPhase_kept {s0 : State} (p ph : Nat) (s : State) (hk : Kept s0 s) : Kept s0 (setPartPhase p ph s) := by
  unfold setPartPhase
  try dsimp only
  repeat' first
    | with_reducible exact hk
    | with_reducible refine Kept.ite (fun _ => ?_) (fun _ => ?_)
    | fail_if_no_progress (with_reducible apply Kept.upd)
    | with_reducible assumption
    | intro _
    | split

theorem scrubStart_kept {s0 : State} (p : Nat) (s : State) (hk : Kept s0 s) : Kept s0 (scrubStart p s) := by
  unfold scrubStart
  try dsimp only
  repeat' first
    | with_reducible exact hk
    | with_reducible apply scrubPass_kept
    | with_reducible apply setScrubPending_kept
    | with_reducible apply setScrubActive_kept
    | with_reducible apply setPartPhase_kept
    | with_reducible refine Kept.ite (fun _ => ?_) (fun _ => ?_)
    | split

theorem scrubFails_kept {s0 : State} (dies : List Nat) (p : Nat) (badStacks : BitVec 20) (badClusters : BitVec 32) (s
    : State) (hk : Kept s0 s) : Kept s0 (scrubFails dies p badStacks badClusters s) := by
  unfold scrubFails
  try dsimp only
  repeat' first
    | with_reducible exact hk
    | with_reducible apply forAll_kept
    | with_reducible apply fenceCluster_kept
    | with_reducible apply fenceStack_kept
    | with_reducible apply unitFault_kept
    | with_reducible refine Kept.ite (fun _ => ?_) (fun _ => ?_)
    | fail_if_no_progress (with_reducible apply Kept.upd)
    | with_reducible assumption
    | intro _
    | split

theorem scrubDone_kept {s0 : State} (p : Nat) (badStacks : BitVec 20) (badClusters : BitVec 32) (s : State) (hk : Kept
    s0 s) : Kept s0 (scrubDone p badStacks badClusters s) := by
  unfold scrubDone
  try dsimp only
  repeat' first
    | with_reducible exact hk
    | with_reducible apply scrubZero_kept
    | with_reducible apply scrubPass_kept
    | with_reducible apply setScrubPending_kept
    | with_reducible apply setScrubActive_kept
    | with_reducible apply setPartPhase_kept
    | with_reducible apply scrubFails_kept
    | with_reducible refine Kept.ite (fun _ => ?_) (fun _ => ?_)
    | split

theorem partToReset_kept {s0 : State} (p : Nat) (s : State) (hk : Kept s0 s) : Kept s0 (partToReset p s) := by
  unfold partToReset
  try dsimp only
  repeat' first
    | with_reducible exact hk
    | with_reducible apply fset_kept
    | with_reducible apply forAll_kept
    | with_reducible apply ctrClear_kept
    | with_reducible apply disableQueue_kept
    | with_reducible apply cancelInst_kept
    | with_reducible apply chPartReset_kept
    | with_reducible apply advancePart_kept
    | with_reducible apply clearRegs_kept
    | with_reducible apply coresToReset_kept
    | with_reducible apply eraseKeysOf_kept
    | fail_if_no_progress (with_reducible apply Kept.upd)
    | with_reducible assumption
    | intro _

theorem computeToReset_kept {s0 : State} (s : State) (hk : Kept s0 s) : Kept s0 (computeToReset s) := by
  unfold computeToReset
  try dsimp only
  repeat' first
    | with_reducible exact hk
    | with_reducible apply fset_kept
    | with_reducible apply forAll_kept
    | with_reducible apply ctrClear_kept
    | with_reducible apply cancelInst_kept
    | with_reducible apply chResetCores_kept
    | with_reducible apply clearRegs_kept
    | with_reducible apply coresToReset_kept
    | with_reducible apply unloadParts_kept
    | fail_if_no_progress (with_reducible apply Kept.upd)
    | with_reducible assumption
    | intro _

theorem enterReset_kept {s0 : State} (unit target : Nat) (s : State) (hk : Kept s0 s) : Kept s0 (enterReset unit
    target s) := by
  unfold enterReset
  try dsimp only
  repeat' first
    | with_reducible exact hk
    | with_reducible apply ctrClear_kept
    | with_reducible apply chResetCores_kept
    | with_reducible apply clearRegs_kept
    | with_reducible apply coresToReset_kept
    | with_reducible apply partToReset_kept
    | with_reducible apply computeToReset_kept
    | with_reducible assumption
    | intro _
    | split

theorem noteBusy_kept {s0 : State} (s : State) (hk : Kept s0 s) : Kept s0 (noteBusy s) := by
  unfold noteBusy
  try dsimp only
  repeat' first
    | with_reducible exact hk
    | with_reducible apply fset_kept
    | with_reducible refine Kept.ite (fun _ => ?_) (fun _ => ?_)
    | split

theorem beginReset_kept {s0 : State} (unit target : Nat) (req : Option Requester) (s : State) (hk : Kept s0 s) : Kept
    s0 (beginReset unit target req s) := by
  unfold beginReset
  try dsimp only
  repeat' first
    | with_reducible exact hk
    | with_reducible apply enterReset_kept
    | with_reducible apply noteBusy_kept
    | with_reducible refine Kept.ite (fun _ => ?_) (fun _ => ?_)
    | fail_if_no_progress (with_reducible apply Kept.upd)
    | split

theorem resumeResets_kept {s0 : State} (s : State) (hk : Kept s0 s) : Kept s0 (resumeResets s) := by
  unfold resumeResets
  try dsimp only
  repeat' first
    | with_reducible exact hk
    | with_reducible apply forAll_kept
    | with_reducible apply enterReset_kept
    | with_reducible refine Kept.ite (fun _ => ?_) (fun _ => ?_)
    | fail_if_no_progress (with_reducible apply Kept.upd)
    | with_reducible assumption
    | intro _
    | split

theorem resetStat_kept {s0 : State} (cmd target : Nat) (st : BitVec 8) (r : Requester) (s : State) (hk : Kept s0 s) :
    Kept s0 (resetStat cmd target st r s) := by
  unfold resetStat
  try dsimp only
  repeat' first
    | with_reducible exact hk
    | with_reducible apply fset_kept
    | with_reducible apply fadd_kept
    | with_reducible apply raiseMsix_kept
    | with_reducible refine Kept.ite (fun _ => ?_) (fun _ => ?_)
    | with_reducible assumption
    | intro _
    | split

theorem noteResetCmd_kept {s0 : State} (cmd target : Nat) (s : State) (hk : Kept s0 s) : Kept s0 (noteResetCmd cmd
    target s) := by
  unfold noteResetCmd
  try dsimp only
  repeat' first
    | with_reducible exact hk
    | with_reducible apply fset_kept

theorem resetRequest_kept {s0 : State} (r : Requester) (unit target shown : Nat) (s : State) (hk : Kept s0 s) : Kept
    s0 (resetRequest r unit target shown s) := by
  unfold resetRequest
  try dsimp only
  repeat' first
    | with_reducible exact hk
    | with_reducible apply regAccessFault_kept
    | with_reducible apply countDenied_kept
    | with_reducible apply beginReset_kept
    | with_reducible apply resetStat_kept
    | with_reducible apply noteResetCmd_kept
    | with_reducible refine Kept.ite (fun _ => ?_) (fun _ => ?_)
    | fail_if_no_progress (with_reducible apply Kept.upd)
    | with_reducible assumption
    | intro _
    | split

theorem partFromReset_kept {s0 : State} (p : Nat) (failed : BitVec 32) (res : ResetIn) (s : State) (hk : Kept s0 s) :
    Kept s0 (partFromReset p failed res s) := by
  unfold partFromReset
  try dsimp only
  repeat' first
    | with_reducible exact hk
    | with_reducible apply fset_kept
    | with_reducible apply raiseMsix_kept
    | with_reducible apply modCore_kept
    | with_reducible apply forAll_kept
    | with_reducible apply noteTopology_kept
    | with_reducible apply unloadParts_kept
    | with_reducible apply assignCluster_kept
    | fail_if_no_progress (with_reducible apply Kept.upd)
    | with_reducible assumption
    | intro _

theorem computeFromReset_kept {s0 : State} (res : ResetIn) (s : State) (hk : Kept s0 s) : Kept s0 (computeFromReset
    res s) := by
  unfold computeFromReset
  try dsimp only
  repeat' first
    | with_reducible exact hk
    | with_reducible apply fset_kept
    | with_reducible apply forAll_kept
    | with_reducible apply clearRegs_kept
    | with_reducible apply coresFromReset_kept
    | with_reducible refine Kept.ite (fun _ => ?_) (fun _ => ?_)
    | fail_if_no_progress (with_reducible apply Kept.upd)
    | with_reducible assumption
    | intro _
    | split

theorem leaveReset_kept {s0 : State} (x : ResetRun) (res : ResetIn) (s : State) (hk : Kept s0 s) : Kept s0 (leaveReset
    x res s) := by
  unfold leaveReset
  try dsimp only
  repeat' first
    | with_reducible exact hk
    | with_reducible apply coresFromReset_kept
    | with_reducible apply partFromReset_kept
    | with_reducible apply computeFromReset_kept
    | with_reducible assumption
    | intro _
    | split

theorem wireTest_kept {s0 : State} (x : ResetRun) (l : List (BitVec 16)) (s : State) (hk : Kept s0 s) : Kept s0
    (wireTest x l s) := by
  unfold wireTest
  try dsimp only
  repeat' first
    | with_reducible exact hk
    | with_reducible apply forAll_kept
    | with_reducible apply sendFault_kept
    | with_reducible assumption
    | intro _

theorem finishReset_kept {s0 : State} (res : ResetIn) (s : State) (hk : Kept s0 s) : ∀ x, finishReset res s = some x
    → Kept s0 x.2 := by
  intro x hx
  unfold finishReset at hx
  split at hx
  · cases hx
  · dsimp only at hx
    obtain rfl := Option.some.inj hx
    repeat' first
      | with_reducible exact hk
      | with_reducible apply leaveReset_kept
      | with_reducible apply wireTest_kept
      | with_reducible apply resetStat_kept
      | with_reducible apply noteBusy_kept
      | with_reducible refine forAll_kept _ _ _ (fun _ _ h => ?_) ?_
      | fail_if_no_progress (with_reducible apply Kept.upd)
      | with_reducible assumption
      | split

theorem packageReset_kept {s0 : State} (powerLost : Bool) (s : State) (hk : Kept s0 s) : Kept s0 (packageReset
    powerLost s) := by
  have go (t : State) (h1 : t.mem = []) (h2 : t.flash = s.flash) (h3 : t.nv = s.nv) (h4 : t.pending = s.pending)
      (h5 : t.out = s.out) (h6 : t.clk.now = s.clk.now) : Kept s0 t := by
    refine ⟨fun _ => by rw [h1]; rfl, fun h => h2 ▸ hk.flash h, h3 ▸ hk.lc, h3 ▸ hk.secver, h3 ▸ hk.keyset,
      h3 ▸ hk.legal, h4 ▸ hk.pending, h5 ▸ hk.out, h6 ▸ hk.now⟩
  unfold packageReset
  dsimp only
  split
  · exact go _ rfl rfl rfl rfl rfl rfl
  · exact fset_kept _ _ _ _ (regSet_kept _ _ _ (go _ rfl rfl rfl rfl rfl rfl))

theorem packageRequest_kept {s0 : State} (r : Requester) (shown : Nat) (s : State) (hk : Kept s0 s) : Kept s0
    (packageRequest r shown s) := by
  unfold packageRequest
  try dsimp only
  repeat' first
    | with_reducible exact hk
    | with_reducible apply regAccessFault_kept
    | with_reducible apply countDenied_kept
    | with_reducible apply resetStat_kept
    | with_reducible apply noteResetCmd_kept
    | with_reducible apply packageReset_kept
    | with_reducible refine Kept.ite (fun _ => ?_) (fun _ => ?_)
    | split

theorem pinReset_kept {s0 : State} (s : State) (hk : Kept s0 s) : Kept s0 (pinReset s) := by
  unfold pinReset
  try dsimp only
  repeat' first
    | with_reducible exact hk
    | with_reducible apply packageReset_kept
    | fail_if_no_progress (with_reducible apply Kept.upd)

theorem captureEnd_kept {s0 : State} (c cmd : Nat) (st : BitVec 8) (s : State) (hk : Kept s0 s) : Kept s0 (captureEnd
    c cmd st s) := by
  unfold captureEnd
  try dsimp only
  repeat' first
    | with_reducible exact hk
    | with_reducible apply fset_kept

theorem captureOp_kept {s0 : State} (r : Requester) (c : Nat) (s : State) (hk : Kept s0 s) : Kept s0 (captureOp r c s)
    := by
  unfold captureOp
  try dsimp only
  repeat' first
    | with_reducible exact hk
    | with_reducible apply fset_kept
    | with_reducible apply modCore_kept
    | with_reducible apply countDenied_kept
    | with_reducible apply readAll_kept
    | with_reducible apply memWrite_kept
    | with_reducible apply captureEnd_kept
    | with_reducible refine Kept.ite (fun _ => ?_) (fun _ => ?_)
    | fail_if_no_progress (with_reducible apply Kept.upd)
    | with_reducible assumption
    | intro _
    | split

theorem resumeOp_kept {s0 : State} (r : Requester) (c : Nat) (s : State) (hk : Kept s0 s) : Kept s0 (resumeOp r c s)
    := by
  unfold resumeOp
  try dsimp only
  repeat' first
    | with_reducible exact hk
    | with_reducible apply fset_kept
    | with_reducible apply modCore_kept
    | with_reducible apply countDenied_kept
    | with_reducible apply captureEnd_kept
    | with_reducible refine Kept.ite (fun _ => ?_) (fun _ => ?_)
    | fail_if_no_progress (with_reducible apply Kept.upd)
    | with_reducible assumption
    | intro _
    | split

/-! Operations of Machine/Cabinet.lean. -/

theorem tearOld_kept {s0 : State} (p : Nat) (s : State) (hk : Kept s0 s) : Kept s0 (tearOld p s) := by
  unfold tearOld
  try dsimp only
  repeat' first
    | with_reducible exact hk
    | with_reducible apply forAll_kept
    | with_reducible apply disableQueue_kept
    | with_reducible apply cancelInst_kept
    | with_reducible apply chPartReset_kept
    | with_reducible apply eraseKeysOf_kept
    | with_reducible apply unloadParts_kept
    | with_reducible apply zeroDescs_kept
    | with_reducible refine Kept.ite (fun _ => ?_) (fun _ => ?_)
    | with_reducible assumption
    | intro _
    | split

theorem tearNew_kept {s0 : State} (p : Nat) (s : State) (hk : Kept s0 s) : Kept s0 (tearNew p s) := by
  unfold tearNew
  try dsimp only
  repeat' first
    | with_reducible exact hk
    | with_reducible apply setPartPhase_kept
    | with_reducible apply beginReset_kept
    | with_reducible refine Kept.ite (fun _ => ?_) (fun _ => ?_)
    | split

theorem countersEdge_kept {s0 : State} (old new : CabStruct) (s : State) (hk : Kept s0 s) : Kept s0 (countersEdge old
    new s) := by
  unfold countersEdge
  try dsimp only
  repeat' first
    | with_reducible exact hk
    | with_reducible apply forAll_kept
    | with_reducible apply ctrSet_kept
    | with_reducible assumption
    | intro _

theorem domainEdge_kept {s0 : State} (old new : CabStruct) (s : State) (hk : Kept s0 s) : Kept s0 (domainEdge old new
    s) := by
  unfold domainEdge
  try dsimp only
  repeat' first
    | with_reducible exact hk
    | with_reducible apply fset_kept
    | with_reducible apply joinDomain_kept
    | with_reducible apply dropProp_kept
    | with_reducible refine Kept.ite (fun _ => ?_) (fun _ => ?_)
    | fail_if_no_progress (with_reducible apply Kept.upd)
    | with_reducible assumption
    | intro _
    | split

theorem cacheEdge_kept {s0 : State} (old new : CabStruct) (s : State) (hk : Kept s0 s) : Kept s0 (cacheEdge old new s)
    := by
  unfold cacheEdge
  try dsimp only
  repeat' first
    | with_reducible exact hk
    | with_reducible apply fset_kept
    | with_reducible refine Kept.ite (fun _ => ?_) (fun _ => ?_)
    | with_reducible assumption
    | intro _
    | split

theorem sessionsEdge_kept {s0 : State} (old new : CabStruct) (s : State) (hk : Kept s0 s) : Kept s0 (sessionsEdge old
    new s) := by
  unfold sessionsEdge
  try dsimp only
  repeat' first
    | with_reducible exact hk
    | with_reducible apply forAll_kept
    | with_reducible apply startShake_kept
    | with_reducible refine Kept.ite (fun _ => ?_) (fun _ => ?_)
    | with_reducible assumption
    | intro _
    | split

theorem sumpEdge_kept {s0 : State} (s : State) (hk : Kept s0 s) : Kept s0 (sumpEdge s) := by
  unfold sumpEdge
  try dsimp only
  repeat' first
    | with_reducible exact hk
    | with_reducible apply forAll_kept
    | with_reducible apply sumpRegs_kept
    | with_reducible apply updateXoff_kept
    | with_reducible assumption
    | intro _

theorem noteCab_kept {s0 : State} (s : State) (hk : Kept s0 s) : Kept s0 (noteCab s) := by
  unfold noteCab
  try dsimp only
  repeat' first
    | with_reducible exact hk
    | with_reducible apply regSet_kept
    | with_reducible apply fset_kept
    | with_reducible assumption
    | intro _

theorem setTxn_kept {s0 : State} (v : Nat) (s : State) (hk : Kept s0 s) : Kept s0 (setTxn v s) := by
  unfold setTxn
  try dsimp only
  repeat' first
    | with_reducible exact hk
    | with_reducible apply fset_kept

theorem applyStruct_kept {s0 : State} (new : CabStruct) (prev : Option CabStruct) (s : State) (hk : Kept s0 s) : Kept
    s0 (applyStruct new prev s) := by
  unfold applyStruct
  try dsimp only
  repeat' first
    | with_reducible exact hk
    | with_reducible apply forAll_kept
    | with_reducible apply noteCeiling_kept
    | with_reducible apply noteLimits_kept
    | with_reducible apply powerEdge_kept
    | with_reducible apply tearOld_kept
    | with_reducible apply tearNew_kept
    | with_reducible apply countersEdge_kept
    | with_reducible apply domainEdge_kept
    | with_reducible apply cacheEdge_kept
    | with_reducible apply sessionsEdge_kept
    | with_reducible apply sumpEdge_kept
    | with_reducible apply noteCab_kept
    | fail_if_no_progress (with_reducible apply Kept.upd)
    | with_reducible assumption
    | intro _

theorem cabResult_kept {s0 : State} (cmd : Nat) (e : Option CabErr) (s : State) (hk : Kept s0 s) : Kept s0 (cabResult
    cmd e s) := by
  unfold cabResult
  try dsimp only
  repeat' first
    | with_reducible exact hk
    | with_reducible apply regSet_kept
    | with_reducible apply fset_kept
    | with_reducible apply fadd_kept

theorem cabEnd_kept {s0 : State} (cmd : Nat) (e : Option CabErr) (s : State) (hk : Kept s0 s) : Kept s0 (cabEnd cmd e
    s) := by
  unfold cabEnd
  try dsimp only
  repeat' first
    | with_reducible exact hk
    | with_reducible apply fset_kept
    | with_reducible apply evt_kept
    | with_reducible apply cabResult_kept

theorem edgeApply_kept {s0 : State} (isRevert timed : Bool) (s : State) (hk : Kept s0 s) : Kept s0 (edgeApply isRevert
    timed s).2 := by
  unfold edgeApply
  try dsimp only
  repeat' first
    | with_reducible exact hk
    | with_reducible apply fset_kept
    | with_reducible apply evt_kept
    | with_reducible apply setTxn_kept
    | with_reducible apply applyStruct_kept
    | with_reducible refine Kept.ite (fun _ => ?_) (fun _ => ?_)
    | fail_if_no_progress (with_reducible apply Kept.upd)
    | with_reducible assumption
    | intro _
    | split

theorem rungFirst_kept {s0 : State} (t : BitVec 48) (s : State) (hk : Kept s0 s) : Kept s0 (rungFirst t s) := by
  unfold rungFirst
  try dsimp only
  repeat' first
    | with_reducible exact hk
    | with_reducible apply dueRung_kept
    | with_reducible refine Kept.ite (fun _ => ?_) (fun _ => ?_)
    | with_reducible assumption
    | intro _
    | split

theorem timedEdge_kept {s0 : State} (s : State) (hk : Kept s0 s) : Kept s0 (timedEdge s) := by
  unfold timedEdge
  try dsimp only
  repeat' first
    | with_reducible exact hk
    | with_reducible apply cabResult_kept
    | with_reducible apply edgeApply_kept
    | with_reducible apply rungFirst_kept
    | with_reducible refine Kept.ite (fun _ => ?_) (fun _ => ?_)
    | with_reducible assumption
    | intro _
    | split

theorem dueFirst_kept {s0 : State} (t : BitVec 48) (s : State) (hk : Kept s0 s) : Kept s0 (dueFirst t s) := by
  unfold dueFirst
  try dsimp only
  repeat' first
    | with_reducible exact hk
    | with_reducible apply rungFirst_kept
    | with_reducible apply timedEdge_kept
    | with_reducible refine Kept.ite (fun _ => ?_) (fun _ => ?_)
    | with_reducible assumption
    | intro _
    | split

theorem cabBegin_kept {s0 : State} (s : State) (hk : Kept s0 s) : Kept s0 (cabBegin s) := by
  unfold cabBegin
  try dsimp only
  repeat' first
    | with_reducible exact hk
    | with_reducible apply noteCab_kept
    | with_reducible apply setTxn_kept
    | with_reducible apply cabEnd_kept
    | with_reducible refine Kept.ite (fun _ => ?_) (fun _ => ?_)
    | fail_if_no_progress (with_reducible apply Kept.upd)
    | split

theorem cabStage_kept {s0 : State} (s : State) (hk : Kept s0 s) : Kept s0 (cabStage s) := by
  unfold cabStage
  try dsimp only
  repeat' first
    | with_reducible exact hk
    | with_reducible apply readAll_kept
    | with_reducible apply noteCab_kept
    | with_reducible apply cabEnd_kept
    | with_reducible refine Kept.ite (fun _ => ?_) (fun _ => ?_)
    | fail_if_no_progress (with_reducible apply Kept.upd)
    | with_reducible assumption
    | intro _
    | split

theorem cabGo_kept {s0 : State} (isRevert timed : Bool) (s : State) (hk : Kept s0 s) : Kept s0 (cabGo isRevert timed
    s) := by
  unfold cabGo
  try dsimp only
  repeat' first
    | with_reducible exact hk
    | with_reducible apply fset_kept
    | with_reducible apply setTxn_kept
    | with_reducible apply cabEnd_kept
    | with_reducible apply edgeApply_kept
    | with_reducible refine Kept.ite (fun _ => ?_) (fun _ => ?_)
    | fail_if_no_progress (with_reducible apply Kept.upd)
    | split

theorem cabCommit_kept {s0 : State} (timed : Bool) (s : State) (hk : Kept s0 s) : Kept s0 (cabCommit timed s) := by
  unfold cabCommit
  try dsimp only
  repeat' first
    | with_reducible exact hk
    | with_reducible apply noteCab_kept
    | with_reducible apply cabEnd_kept
    | with_reducible apply cabGo_kept
    | with_reducible refine Kept.ite (fun _ => ?_) (fun _ => ?_)
    | fail_if_no_progress (with_reducible apply Kept.upd)
    | fail_if_no_progress (with_reducible refine Kept.mknv (h := ?_) (h1 := rfl) (h2 := rfl) (h3 := rfl) ..)
    | with_reducible assumption
    | intro _
    | split

theorem cabRevert_kept {s0 : State} (timed : Bool) (s : State) (hk : Kept s0 s) : Kept s0 (cabRevert timed s) := by
  unfold cabRevert
  try dsimp only
  repeat' first
    | with_reducible exact hk
    | with_reducible apply cabEnd_kept
    | with_reducible apply cabGo_kept
    | with_reducible refine Kept.ite (fun _ => ?_) (fun _ => ?_)
    | with_reducible assumption
    | intro _
    | split

theorem cabDiscard_kept {s0 : State} (s : State) (hk : Kept s0 s) : Kept s0 (cabDiscard s) := by
  unfold cabDiscard
  try dsimp only
  repeat' first
    | with_reducible exact hk
    | with_reducible apply fset_kept
    | with_reducible apply noteCab_kept
    | with_reducible apply setTxn_kept
    | fail_if_no_progress (with_reducible apply Kept.upd)

theorem cabRollback_kept {s0 : State} (s : State) (hk : Kept s0 s) : Kept s0 (cabRollback s) := by
  unfold cabRollback
  try dsimp only
  repeat' first
    | with_reducible exact hk
    | with_reducible apply cabEnd_kept
    | with_reducible apply timedEdge_kept
    | with_reducible apply cabDiscard_kept
    | with_reducible refine Kept.ite (fun _ => ?_) (fun _ => ?_)
    | with_reducible assumption
    | intro _
    | split

theorem cabRun_kept {s0 : State} (cmd : Nat) (timed : Bool) (s : State) (hk : Kept s0 s) : Kept s0 (cabRun cmd timed
    s) := by
  unfold cabRun
  try dsimp only
  repeat' first
    | with_reducible exact hk
    | with_reducible apply cabEnd_kept
    | with_reducible apply cabBegin_kept
    | with_reducible apply cabStage_kept
    | with_reducible apply cabCommit_kept
    | with_reducible apply cabRevert_kept
    | with_reducible apply cabRollback_kept
    | with_reducible refine Kept.ite (fun _ => ?_) (fun _ => ?_)
    | with_reducible assumption
    | intro _
    | split

theorem cabWrite_kept {s0 : State} (r : Requester) (cmd : Nat) (timed : Bool) (s : State) (hk : Kept s0 s) : Kept s0
    (cabWrite r cmd timed s) := by
  unfold cabWrite
  try dsimp only
  repeat' first
    | with_reducible exact hk
    | with_reducible apply fset_kept
    | with_reducible apply regAccessFault_kept
    | with_reducible apply countDenied_kept
    | with_reducible apply cabRun_kept
    | with_reducible refine Kept.ite (fun _ => ?_) (fun _ => ?_)
    | fail_if_no_progress (with_reducible apply Kept.upd)
    | split

theorem cabResume_kept {s0 : State} (s : State) (hk : Kept s0 s) : Kept s0 (cabResume s) := by
  unfold cabResume
  try dsimp only
  repeat' first
    | with_reducible exact hk
    | with_reducible apply cabRun_kept
    | fail_if_no_progress (with_reducible apply Kept.upd)
    | with_reducible assumption
    | intro _
    | split

theorem cabHubRestart_kept {s0 : State} (s : State) (hk : Kept s0 s) : Kept s0 (cabHubRestart s) := by
  unfold cabHubRestart
  try dsimp only
  repeat' first
    | with_reducible exact hk
    | with_reducible apply cabDiscard_kept
    | with_reducible refine Kept.ite (fun _ => ?_) (fun _ => ?_)
    | split

theorem cabNewFmt_kept {s0 : State} (s : State) (hk : Kept s0 s) : Kept s0 (cabNewFmt s) := by
  unfold cabNewFmt
  try dsimp only
  repeat' first
    | with_reducible exact hk
    | with_reducible apply noteCab_kept
    | fail_if_no_progress (with_reducible apply Kept.upd)

theorem cacheEmpty_kept {s0 : State} (s : State) (hk : Kept s0 s) : Kept s0 (cacheEmpty s) := by
  unfold cacheEmpty
  try dsimp only
  repeat' first
    | with_reducible exact hk
    | with_reducible apply fset_kept
    | with_reducible apply forAll_kept
    | with_reducible apply countEvt_kept
    | with_reducible apply ringBell_kept
    | with_reducible refine Kept.ite (fun _ => ?_) (fun _ => ?_)
    | fail_if_no_progress (with_reducible apply Kept.upd)
    | with_reducible assumption
    | intro _
    | split

/-! Operations of Machine/Patrol.lean. -/

theorem patrolWriteBack_kept {s0 : State} (a : Nat) (s : State) (hk : Kept s0 s) : Kept s0 (patrolWriteBack a s) := by
  unfold patrolWriteBack
  try dsimp only
  repeat' first
    | with_reducible exact hk
    | with_reducible apply forAll_kept
    | with_reducible apply setMark_kept
    | with_reducible assumption
    | intro _

theorem sramPatrol_kept {s0 : State} (a : Nat) (written : Bool) (s : State) (hk : Kept s0 s) : Kept s0 (sramPatrol a
    written s) := by
  unfold sramPatrol
  try dsimp only
  repeat' first
    | with_reducible exact hk
    | with_reducible apply noteMarks_kept
    | with_reducible apply patrolWriteBack_kept
    | with_reducible refine Kept.ite (fun _ => ?_) (fun _ => ?_)
    | split

theorem patrolUE_kept {s0 : State} (a : Nat) (s : State) (hk : Kept s0 s) : Kept s0 (patrolUE a s) := by
  unfold patrolUE
  try dsimp only
  repeat' first
    | with_reducible exact hk
    | with_reducible apply setMark_kept
    | with_reducible apply noteUE_kept

theorem memPatrolOp_kept {s0 : State} (st a : Nat) (res : GranuleRead) (s : State) (hk : Kept s0 s) : Kept s0
    (memPatrolOp st a res s) := by
  unfold memPatrolOp
  try dsimp only
  repeat' first
    | with_reducible exact hk
    | with_reducible apply evt_kept
    | with_reducible apply softFault_kept
    | with_reducible apply noteAccess_kept
    | with_reducible apply noteParity_kept
    | with_reducible apply noteMarks_kept
    | with_reducible apply patrolUE_kept
    | with_reducible refine Kept.ite (fun _ => ?_) (fun _ => ?_)
    | with_reducible assumption
    | intro _
    | split

theorem channelDown_kept {s0 : State} (st ch : Nat) (s : State) (hk : Kept s0 s) : Kept s0 (channelDown st ch s) := by
  unfold channelDown
  try dsimp only
  repeat' first
    | with_reducible exact hk
    | with_reducible refine Kept.ite (fun _ => ?_) (fun _ => ?_)
    | fail_if_no_progress (with_reducible apply Kept.upd)
    | with_reducible assumption
    | intro _
    | split

/-! Operations of Machine/Gorzel.lean. -/

theorem gzSetRole_kept {s0 : State} (r : Nat) (s : State) (hk : Kept s0 s) : Kept s0 (gzSetRole r s) := by
  unfold gzSetRole
  try dsimp only
  repeat' first
    | with_reducible exact hk
    | with_reducible apply fset_kept
    | with_reducible apply evt_kept
    | with_reducible refine Kept.ite (fun _ => ?_) (fun _ => ?_)
    | split

theorem setGzPeer_kept {s0 : State} (e : BitVec 19) (x : GzlPeer) (s : State) (hk : Kept s0 s) : Kept s0 (setGzPeer e
    x s) := by
  unfold setGzPeer
  try dsimp only
  repeat' first
    | with_reducible exact hk
    | fail_if_no_progress (with_reducible apply Kept.upd)
    | with_reducible assumption
    | intro _

theorem noteEntry_kept {s0 : State} (s : State) (hk : Kept s0 s) : Kept s0 (noteEntry s) := by
  unfold noteEntry
  try dsimp only
  repeat' first
    | with_reducible exact hk
    | fail_if_no_progress (with_reducible apply Kept.upd)

theorem noteSets_kept {s0 : State} (b : GzlBody) (s : State) (hk : Kept s0 s) : Kept s0 (noteSets b s) := by
  unfold noteSets
  try dsimp only
  repeat' first
    | with_reducible exact hk
    | with_reducible apply noteEntry_kept
    | with_reducible refine Kept.ite (fun _ => ?_) (fun _ => ?_)
    | with_reducible assumption
    | intro _
    | split

theorem gzSend_kept {s0 : State} (dest : Option (BitVec 19)) (body : GzlBody) (s : State) (hk : Kept s0 s) : Kept s0
    (gzSend dest body s) := by
  unfold gzSend
  try dsimp only
  repeat' first
    | with_reducible exact hk
    | with_reducible apply emit_kept
    | with_reducible apply noteSets_kept
    | with_reducible refine Kept.ite (fun _ => ?_) (fun _ => ?_)
    | fail_if_no_progress (with_reducible apply Kept.upd)
    | split

theorem gzResend_kept {s0 : State} (m : GzlMsg) (s : State) (hk : Kept s0 s) : Kept s0 (gzResend m s) := by
  unfold gzResend
  try dsimp only
  repeat' first
    | with_reducible exact hk
    | with_reducible apply emit_kept
    | with_reducible apply noteSets_kept
    | with_reducible refine Kept.ite (fun _ => ?_) (fun _ => ?_)
    | fail_if_no_progress (with_reducible apply Kept.upd)
    | with_reducible assumption
    | intro _
    | split

theorem gzDrop_kept {s0 : State} (seq : Word) (s : State) (hk : Kept s0 s) : Kept s0 (gzDrop seq s) := by
  unfold gzDrop
  try dsimp only
  repeat' first
    | with_reducible exact hk
    | fail_if_no_progress (with_reducible apply Kept.upd)
    | with_reducible assumption
    | intro _

theorem gzReply_kept {s0 : State} (code : Nat) (st : BitVec 8) (detail : Nat) (s : State) (hk : Kept s0 s) : Kept s0
    (gzReply code st detail s) := by
  unfold gzReply
  try dsimp only
  repeat' first
    | with_reducible exact hk
    | with_reducible apply emit_kept

theorem notLeader_kept {s0 : State} (code : Nat) (s : State) (hk : Kept s0 s) : Kept s0 (notLeader code s) := by
  unfold notLeader
  try dsimp only
  repeat' first
    | with_reducible exact hk
    | with_reducible apply evt_kept
    | with_reducible apply gzReply_kept
    | with_reducible refine Kept.ite (fun _ => ?_) (fun _ => ?_)
    | split

theorem dropHolder_kept {s0 : State} (s : State) (hk : Kept s0 s) : Kept s0 (dropHolder s) := by
  unfold dropHolder
  try dsimp only
  repeat' first
    | with_reducible exact hk
    | fail_if_no_progress (with_reducible apply Kept.upd)
    | with_reducible assumption
    | intro _

theorem gzRegister_kept {s0 : State} (s : State) (hk : Kept s0 s) : Kept s0 (gzRegister s) := by
  unfold gzRegister
  try dsimp only
  repeat' first
    | with_reducible exact hk
    | with_reducible apply gzSend_kept

theorem setGzRow_kept {s0 : State} (i : Nat) (r : SliceRow) (s : State) (hk : Kept s0 s) : Kept s0 (setGzRow i r s) :=
    by
  unfold setGzRow
  try dsimp only
  repeat' first
    | with_reducible exact hk
    | fail_if_no_progress (with_reducible apply Kept.upd)
    | with_reducible assumption
    | intro _

theorem rowStopped'_kept {s0 : State} (id : Nat) (s : State) (hk : Kept s0 s) : Kept s0 (rowStopped' id s) := by
  unfold rowStopped'
  try dsimp only
  repeat' first
    | with_reducible exact hk
    | with_reducible apply raiseMsix_kept
    | with_reducible apply evt_kept
    | with_reducible apply forAll_kept
    | with_reducible assumption
    | intro _

theorem sliceRowOp_kept {s0 : State} (i : Nat) (id : BitVec 16) (size : BitVec 11) (st : BitVec 2) (s : State) (hk :
    Kept s0 s) : Kept s0 (sliceRowOp i id size st s).1 := by
  unfold sliceRowOp
  try dsimp only
  repeat' first
    | with_reducible exact hk
    | with_reducible apply setGzRow_kept
    | with_reducible apply rowStopped'_kept
    | with_reducible refine Kept.ite (fun _ => ?_) (fun _ => ?_)
    | with_reducible assumption
    | intro _
    | split

theorem sliceMapOp_kept {s0 : State} (i first : Nat) (eids : List (BitVec 19)) (s : State) (hk : Kept s0 s) : Kept s0
    (sliceMapOp i first eids s).1 := by
  unfold sliceMapOp
  try dsimp only
  repeat' first
    | with_reducible exact hk
    | with_reducible apply setGzRow_kept
    | with_reducible refine Kept.foldl _ (fun _ _ h => ?_) _ _ ?_
    | with_reducible refine Kept.foldl1 _ (fun _ _ h => ?_) _ _ ?_
    | with_reducible refine Kept.foldl2 _ (fun _ _ h => ?_) _ _ ?_
    | with_reducible refine Kept.ite (fun _ => ?_) (fun _ => ?_)
    | fail_if_no_progress (with_reducible apply Kept.upd)
    | with_reducible assumption
    | intro _
    | split

theorem sliceStopOp_kept {s0 : State} (id : BitVec 16) (s : State) (hk : Kept s0 s) : Kept s0 (sliceStopOp id s) := by
  unfold sliceStopOp
  try dsimp only
  repeat' first
    | with_reducible exact hk
    | with_reducible apply rowStopped'_kept
    | with_reducible refine Kept.ite (fun _ => ?_) (fun _ => ?_)
    | fail_if_no_progress (with_reducible apply Kept.upd)
    | with_reducible assumption
    | intro _
    | split

theorem selfMaster_kept {s0 : State} (s : State) (hk : Kept s0 s) : Kept s0 (selfMaster s) := by
  unfold selfMaster
  try dsimp only
  repeat' first
    | with_reducible exact hk
    | with_reducible apply nameMaster_kept
    | with_reducible refine Kept.ite (fun _ => ?_) (fun _ => ?_)
    | split

theorem portMapoutOp_kept {s0 : State} (p : Nat) (s : State) (hk : Kept s0 s) : Kept s0 (portMapoutOp p s) := by
  unfold portMapoutOp
  try dsimp only
  repeat' first
    | with_reducible exact hk
    | with_reducible apply mapOut_kept
    | with_reducible apply selfMaster_kept
    | with_reducible refine Kept.ite (fun _ => ?_) (fun _ => ?_)
    | split

theorem portRetrainOp_kept {s0 : State} (p : Nat) (s : State) (hk : Kept s0 s) : Kept s0 (portRetrainOp p s).1 := by
  unfold portRetrainOp
  try dsimp only
  repeat' first
    | with_reducible exact hk
    | with_reducible apply retrainOp_kept
    | with_reducible refine Kept.ite (fun _ => ?_) (fun _ => ?_)
    | split

theorem gzOp_kept {s0 : State} (o : GzlOp) (s : State) (hk : Kept s0 s) : Kept s0 (gzOp o s).1 := by
  unfold gzOp
  try dsimp only
  repeat' first
    | with_reducible exact hk
    | with_reducible apply entrySetOp_kept
    | with_reducible apply drainReqOp_kept
    | with_reducible apply nameMaster_kept
    | with_reducible apply sliceRowOp_kept
    | with_reducible apply sliceMapOp_kept
    | with_reducible apply sliceStopOp_kept
    | with_reducible apply portMapoutOp_kept
    | with_reducible apply portRetrainOp_kept
    | with_reducible assumption
    | intro _
    | split

theorem gzOps_kept {s0 : State} (i : Nat) (l : List GzlOp) (s : State) (hk : Kept s0 s) : Kept s0 (gzOps i l s) := by
  induction l generalizing i s with
  | nil => exact gzReply_kept _ _ _ _ hk
  | cons o r ih =>
    have h := gzOp_kept o s hk
    unfold gzOps; dsimp only
    split
    · exact gzReply_kept _ _ _ _ h
    · split
      · exact ih _ _ h
      · with_reducible apply Kept.upd; exact h

theorem resumeWrite_kept {s0 : State} (s : State) (hk : Kept s0 s) : Kept s0 (resumeWrite s) := by
  unfold resumeWrite
  try dsimp only
  repeat' first
    | with_reducible exact hk
    | with_reducible apply gzReply_kept
    | with_reducible apply gzOps_kept
    | with_reducible refine Kept.ite (fun _ => ?_) (fun _ => ?_)
    | fail_if_no_progress (with_reducible apply Kept.upd)
    | with_reducible assumption
    | intro _
    | split

theorem gzWriteOp_kept {s0 : State} (w : GzlWrite) (s : State) (hk : Kept s0 s) : Kept s0 (gzWriteOp w s) := by
  unfold gzWriteOp
  try dsimp only
  repeat' first
    | with_reducible exact hk
    | with_reducible apply regSet_kept
    | with_reducible apply evt_kept
    | with_reducible apply gzReply_kept
    | with_reducible apply gzOps_kept
    | with_reducible refine Kept.ite (fun _ => ?_) (fun _ => ?_)
    | split

theorem gzRecord_kept {s0 : State} (st : BitVec 8) (s : State) (hk : Kept s0 s) : Kept s0 (gzRecord st s) := by
  unfold gzRecord
  try dsimp only
  repeat' first
    | with_reducible exact hk
    | with_reducible apply emit_kept
    | with_reducible assumption
    | intro _

theorem aimReports_kept {s0 : State} (h : BitVec 19) (s : State) (hk : Kept s0 s) : Kept s0 (aimReports h s) := by
  unfold aimReports
  try dsimp only
  repeat' first
    | with_reducible exact hk
    | with_reducible apply forAll_kept
    | with_reducible apply gzResend_kept
    | fail_if_no_progress (with_reducible apply Kept.upd)
    | with_reducible assumption
    | intro _

theorem claimOp_kept {s0 : State} (epoch : Word) (holder : BitVec 19) (s : State) (hk : Kept s0 s) : Kept s0 (claimOp
    epoch holder s) := by
  unfold claimOp
  try dsimp only
  repeat' first
    | with_reducible exact hk
    | with_reducible apply regSet_kept
    | with_reducible apply fset_kept
    | with_reducible apply evt_kept
    | with_reducible apply gzRecord_kept
    | with_reducible apply aimReports_kept
    | with_reducible refine Kept.ite (fun _ => ?_) (fun _ => ?_)
    | fail_if_no_progress (with_reducible apply Kept.upd)
    | split

theorem registerOp_kept {s0 : State} (role : Nat) (holder : BitVec 19) (pref : Bool) (s : State) (hk : Kept s0 s) :
    Kept s0 (registerOp role holder pref s) := by
  unfold registerOp
  try dsimp only
  repeat' first
    | with_reducible exact hk
    | with_reducible apply fset_kept
    | with_reducible apply gzSetRole_kept
    | with_reducible apply notLeader_kept
    | with_reducible apply aimReports_kept
    | with_reducible refine Kept.ite (fun _ => ?_) (fun _ => ?_)
    | fail_if_no_progress (with_reducible apply Kept.upd)
    | with_reducible assumption
    | intro _
    | split

theorem renewOp_kept {s0 : State} (answered : Bool) (s : State) (hk : Kept s0 s) : Kept s0 (renewOp answered s) := by
  unfold renewOp
  try dsimp only
  repeat' first
    | with_reducible exact hk
    | with_reducible apply fset_kept
    | with_reducible apply faddSat_kept
    | with_reducible apply emit_kept
    | with_reducible refine Kept.ite (fun _ => ?_) (fun _ => ?_)
    | fail_if_no_progress (with_reducible apply Kept.upd)
    | with_reducible assumption
    | intro _
    | split

theorem lapseOp_kept {s0 : State} (s : State) (hk : Kept s0 s) : Kept s0 (lapseOp s) := by
  unfold lapseOp
  try dsimp only
  repeat' first
    | with_reducible exact hk
    | with_reducible apply evt_kept
    | with_reducible apply gzSetRole_kept
    | with_reducible apply dropHolder_kept
    | with_reducible apply gzRegister_kept
    | with_reducible refine Kept.ite (fun _ => ?_) (fun _ => ?_)
    | fail_if_no_progress (with_reducible apply Kept.upd)
    | with_reducible assumption
    | intro _
    | split

theorem sendCopy_kept {s0 : State} (s : State) (hk : Kept s0 s) : Kept s0 (sendCopy s) := by
  unfold sendCopy
  try dsimp only
  repeat' first
    | with_reducible exact hk
    | with_reducible apply gzSend_kept
    | fail_if_no_progress (with_reducible apply Kept.upd)
    | with_reducible assumption
    | intro _

theorem stateCopyOp_kept {s0 : State} (jseq : Word) (version : Word) (recs : List Word) (versionOk : Bool) (s : State)
    (hk : Kept s0 s) : Kept s0 (stateCopyOp jseq version recs versionOk s) := by
  unfold stateCopyOp
  try dsimp only
  repeat' first
    | with_reducible exact hk
    | with_reducible apply gzReply_kept
    | with_reducible refine Kept.ite (fun _ => ?_) (fun _ => ?_)
    | fail_if_no_progress (with_reducible apply Kept.upd)
    | split

theorem yieldReqOp_kept {s0 : State} (s : State) (hk : Kept s0 s) : Kept s0 (yieldReqOp s) := by
  unfold yieldReqOp
  try dsimp only
  repeat' first
    | with_reducible exact hk
    | with_reducible apply gzReply_kept
    | with_reducible refine Kept.ite (fun _ => ?_) (fun _ => ?_)
    | fail_if_no_progress (with_reducible apply Kept.upd)
    | split

theorem yieldOp_kept {s0 : State} (newHolder : BitVec 19) (s : State) (hk : Kept s0 s) : Kept s0 (yieldOp newHolder s)
    := by
  unfold yieldOp
  try dsimp only
  repeat' first
    | with_reducible exact hk
    | with_reducible apply gzSetRole_kept
    | with_reducible refine Kept.ite (fun _ => ?_) (fun _ => ?_)
    | fail_if_no_progress (with_reducible apply Kept.upd)
    | split

theorem gzOwn_kept {s0 : State} (ops : List GzlOp) (s : State) (hk : Kept s0 s) : Kept s0 (gzOwn ops s).1 := by
  unfold gzOwn
  try dsimp only
  repeat' first
    | with_reducible exact hk
    | with_reducible apply gzOp_kept
    | with_reducible refine Kept.foldl _ (fun _ _ h => ?_) _ _ ?_
    | with_reducible refine Kept.foldl1 _ (fun _ _ h => ?_) _ _ ?_
    | with_reducible refine Kept.foldl2 _ (fun _ _ h => ?_) _ _ ?_
    | with_reducible refine Kept.ite (fun _ => ?_) (fun _ => ?_)
    | with_reducible assumption
    | intro _
    | split

theorem nextWseq_kept {s0 : State} (x : BitVec 19) (s : State) (hk : Kept s0 s) : Kept s0 (nextWseq x s).2 := by
  unfold nextWseq
  try dsimp only
  repeat' first
    | with_reducible exact hk
    | with_reducible apply setGzPeer_kept
    | fail_if_no_progress (with_reducible apply Kept.upd)

theorem gzWriteSt_kept {s0 : State} (x : BitVec 19) (ops : List GzlOp) (s : State) (hk : Kept s0 s) : Kept s0
    (gzWriteSt x ops s).1 := by
  unfold gzWriteSt
  try dsimp only
  repeat' first
    | with_reducible exact hk
    | with_reducible apply gzSend_kept
    | with_reducible apply gzOwn_kept
    | with_reducible apply nextWseq_kept
    | with_reducible refine Kept.ite (fun _ => ?_) (fun _ => ?_)
    | split

theorem gzLaunch_kept {s0 : State} (m : GzlMsg) (s : State) (hk : Kept s0 s) : Kept s0 (gzLaunch m s) := by
  unfold gzLaunch
  try dsimp only
  repeat' first
    | with_reducible exact hk
    | with_reducible apply gzResend_kept
    | with_reducible apply nextWseq_kept
    | fail_if_no_progress (with_reducible apply Kept.upd)
    | with_reducible assumption
    | intro _
    | split

theorem gzWrite_kept {s0 : State} (x : BitVec 19) (ops : List GzlOp) (s : State) (hk : Kept s0 s) : Kept s0 (gzWrite x
    ops s) := by
  unfold gzWrite
  try dsimp only
  repeat' first
    | with_reducible exact hk
    | with_reducible apply gzWriteSt_kept

theorem setMaster_kept {s0 : State} (rack : Nat) (s : State) (hk : Kept s0 s) : Kept s0 (setMaster rack s) := by
  unfold setMaster
  try dsimp only
  repeat' first
    | with_reducible exact hk
    | with_reducible apply forAll_kept
    | with_reducible apply gzWrite_kept
    | fail_if_no_progress (with_reducible apply Kept.upd)
    | with_reducible assumption
    | intro _
    | split

theorem gzJournal_kept {s0 : State} (s : State) (hk : Kept s0 s) : Kept s0 (gzJournal s) := by
  unfold gzJournal
  try dsimp only
  repeat' first
    | with_reducible exact hk
    | with_reducible apply sendCopy_kept
    | fail_if_no_progress (with_reducible apply Kept.upd)
    | with_reducible assumption
    | intro _

theorem adoptRow_kept {s0 : State} (e : BitVec 19) (r : GzlRowRec) (i : Nat) (s : State) (hk : Kept s0 s) : Kept s0
    (adoptRow e r i s) := by
  unfold adoptRow
  try dsimp only
  repeat' first
    | with_reducible exact hk
    | with_reducible refine Kept.ite (fun _ => ?_) (fun _ => ?_)
    | fail_if_no_progress (with_reducible apply Kept.upd)
    | with_reducible assumption
    | intro _
    | split

theorem adoptRecord_kept {s0 : State} (e : BitVec 19) (x : GzlRecord) (s : State) (hk : Kept s0 s) : Kept s0
    (adoptRecord e x s) := by
  unfold adoptRecord
  try dsimp only
  repeat' first
    | with_reducible exact hk
    | with_reducible apply forAll_kept
    | with_reducible apply setGzPeer_kept
    | with_reducible apply adoptRow_kept
    | with_reducible refine Kept.ite (fun _ => ?_) (fun _ => ?_)
    | fail_if_no_progress (with_reducible apply Kept.upd)
    | with_reducible assumption
    | intro _
    | split

theorem sendClaim_kept {s0 : State} (e : BitVec 19) (s : State) (hk : Kept s0 s) : Kept s0 (sendClaim e s) := by
  unfold sendClaim
  try dsimp only
  repeat' first
    | with_reducible exact hk
    | with_reducible apply gzSend_kept

theorem setFails_kept {s0 : State} (k : Nat) (v : Nat × Nat) (s : State) (hk : Kept s0 s) : Kept s0 (setFails k v s)
    := by
  unfold setFails
  try dsimp only
  repeat' first
    | with_reducible exact hk
    | fail_if_no_progress (with_reducible apply Kept.upd)
    | with_reducible assumption
    | intro _

theorem clearFails_kept {s0 : State} (y : BitVec 19) (s : State) (hk : Kept s0 s) : Kept s0 (clearFails y s) := by
  unfold clearFails
  try dsimp only
  repeat' first
    | with_reducible exact hk
    | with_reducible apply setFails_kept

theorem routeOwn_kept {s0 : State} (y : BitVec 19) (v : BitVec 64) (s : State) (hk : Kept s0 s) : Kept s0 (routeOwn y
    v s) := by
  unfold routeOwn
  try dsimp only
  repeat' first
    | with_reducible exact hk
    | with_reducible apply entrySetOp_kept
    | with_reducible apply drainReqOp_kept
    | with_reducible apply noteEntry_kept
    | with_reducible apply clearFails_kept
    | with_reducible refine Kept.ite (fun _ => ?_) (fun _ => ?_)
    | with_reducible assumption
    | intro _
    | split

theorem routeOther_kept {s0 : State} (x y : BitVec 19) (v : BitVec 64) (s : State) (hk : Kept s0 s) : Kept s0
    (routeOther x y v s) := by
  unfold routeOther
  try dsimp only
  repeat' first
    | with_reducible exact hk
    | with_reducible apply gzWrite_kept
    | with_reducible refine Kept.ite (fun _ => ?_) (fun _ => ?_)
    | fail_if_no_progress (with_reducible apply Kept.upd)
    | with_reducible assumption
    | intro _
    | split

theorem routeTo_kept {s0 : State} (y x : BitVec 19) (s : State) (hk : Kept s0 s) : Kept s0 (routeTo y x s) := by
  unfold routeTo
  try dsimp only
  repeat' first
    | with_reducible exact hk
    | with_reducible apply routeOwn_kept
    | with_reducible apply routeOther_kept
    | with_reducible refine Kept.ite (fun _ => ?_) (fun _ => ?_)
    | split

theorem routeOp_kept {s0 : State} (y : BitVec 19) (s : State) (hk : Kept s0 s) : Kept s0 (routeOp y s) := by
  unfold routeOp
  try dsimp only
  repeat' first
    | with_reducible exact hk
    | with_reducible apply forAll_kept
    | with_reducible apply routeTo_kept
    | with_reducible assumption
    | intro _

theorem routesOf_kept {s0 : State} (x : BitVec 19) (s : State) (hk : Kept s0 s) : Kept s0 (routesOf x s) := by
  unfold routesOf
  try dsimp only
  repeat' first
    | with_reducible exact hk
    | with_reducible apply forAll_kept
    | with_reducible apply routeTo_kept
    | with_reducible apply routeOp_kept
    | with_reducible assumption
    | intro _

theorem takeReport_kept {s0 : State} (r : GzlReport) (s : State) (hk : Kept s0 s) : Kept s0 (takeReport r s) := by
  unfold takeReport
  try dsimp only
  repeat' first
    | with_reducible exact hk
    | with_reducible apply setGzPeer_kept
    | with_reducible apply gzReply_kept
    | with_reducible apply setMaster_kept
    | with_reducible apply gzJournal_kept
    | with_reducible apply sendClaim_kept
    | with_reducible apply routesOf_kept
    | with_reducible refine Kept.ite (fun _ => ?_) (fun _ => ?_)
    | fail_if_no_progress (with_reducible apply Kept.upd)
    | with_reducible assumption
    | intro _
    | split

theorem grantOp_kept {s0 : State} (epoch : Word) (s : State) (hk : Kept s0 s) : Kept s0 (grantOp epoch s) := by
  unfold grantOp
  try dsimp only
  repeat' first
    | with_reducible exact hk
    | with_reducible apply fset_kept
    | with_reducible apply forAll_kept
    | with_reducible apply gzSetRole_kept
    | with_reducible apply gzReply_kept
    | with_reducible apply claimOp_kept
    | with_reducible apply setMaster_kept
    | with_reducible apply adoptRow_kept
    | with_reducible apply sendClaim_kept
    | with_reducible apply takeReport_kept
    | fail_if_no_progress (with_reducible apply Kept.upd)
    | with_reducible assumption
    | intro _
    | split

theorem sendReport_kept {s0 : State} (s : State) (hk : Kept s0 s) : Kept s0 (sendReport s) := by
  unfold sendReport
  try dsimp only
  repeat' first
    | with_reducible exact hk
    | with_reducible apply gzSend_kept
    | with_reducible apply takeReport_kept
    | with_reducible refine Kept.ite (fun _ => ?_) (fun _ => ?_)
    | split

theorem reportOp_kept {s0 : State} (r : GzlReport) (s : State) (hk : Kept s0 s) : Kept s0 (reportOp r s) := by
  unfold reportOp
  try dsimp only
  repeat' first
    | with_reducible exact hk
    | with_reducible apply notLeader_kept
    | with_reducible apply takeReport_kept
    | with_reducible apply sendReport_kept
    | with_reducible refine Kept.ite (fun _ => ?_) (fun _ => ?_)
    | split

theorem jobEnd_kept {s0 : State} (j : GzlJob) (s : State) (hk : Kept s0 s) : Kept s0 (jobEnd j s) := by
  unfold jobEnd
  try dsimp only
  repeat' first
    | with_reducible exact hk
    | with_reducible apply gzReply_kept
    | with_reducible apply gzJournal_kept
    | with_reducible refine Kept.ite (fun _ => ?_) (fun _ => ?_)
    | fail_if_no_progress (with_reducible apply Kept.upd)
    | with_reducible assumption
    | intro _
    | split

theorem jobsGo_kept {s0 : State} (s : State) (hk : Kept s0 s) : Kept s0 (jobsGo s) := by
  unfold jobsGo
  try dsimp only
  repeat' first
    | with_reducible exact hk
    | with_reducible apply forAll_kept
    | with_reducible apply jobEnd_kept
    | fail_if_no_progress (with_reducible apply Kept.upd)
    | with_reducible assumption
    | intro _

theorem jobWrote_kept {s0 : State} (seq : Word) (st : BitVec 8) (s : State) (hk : Kept s0 s) : Kept s0 (jobWrote seq
    st s) := by
  unfold jobWrote
  try dsimp only
  repeat' first
    | with_reducible exact hk
    | with_reducible apply jobsGo_kept
    | with_reducible refine Kept.ite (fun _ => ?_) (fun _ => ?_)
    | fail_if_no_progress (with_reducible apply Kept.upd)
    | with_reducible assumption
    | intro _
    | split

theorem jobStart_kept {s0 : State} (code : Nat) (id : BitVec 16) (members : List (BitVec 19)) (ops : BitVec 19 → List
    GzlOp) (s : State) (hk : Kept s0 s) : Kept s0 (jobStart code id members ops s) := by
  unfold jobStart
  try dsimp only
  repeat' first
    | with_reducible exact hk
    | with_reducible apply gzWriteSt_kept
    | with_reducible apply jobsGo_kept
    | with_reducible refine Kept.foldl _ (fun _ _ h => ?_) _ _ ?_
    | with_reducible refine Kept.foldl1 _ (fun _ _ h => ?_) _ _ ?_
    | with_reducible refine Kept.foldl2 _ (fun _ _ h => ?_) _ _ ?_
    | with_reducible refine Kept.ite (fun _ => ?_) (fun _ => ?_)
    | fail_if_no_progress (with_reducible apply Kept.upd)
    | with_reducible assumption
    | intro _
    | split

theorem carveOp_kept {s0 : State} (size pref : Nat) (s : State) (hk : Kept s0 s) : Kept s0 (carveOp size pref s) := by
  unfold carveOp
  try dsimp only
  repeat' first
    | with_reducible exact hk
    | with_reducible apply gzReply_kept
    | with_reducible apply gzJournal_kept
    | with_reducible apply jobStart_kept
    | with_reducible refine Kept.ite (fun _ => ?_) (fun _ => ?_)
    | fail_if_no_progress (with_reducible apply Kept.upd)
    | with_reducible assumption
    | intro _
    | split

theorem releaseOp_kept {s0 : State} (id : BitVec 16) (s : State) (hk : Kept s0 s) : Kept s0 (releaseOp id s) := by
  unfold releaseOp
  try dsimp only
  repeat' first
    | with_reducible exact hk
    | with_reducible apply gzReply_kept
    | with_reducible apply jobStart_kept
    | with_reducible assumption
    | intro _
    | split

theorem jobFaultOp_kept {s0 : State} (id : BitVec 16) (cause : BitVec 8) (eid : BitVec 19) (port : BitVec 8) (s :
    State) (hk : Kept s0 s) : Kept s0 (jobFaultOp id cause eid port s) := by
  unfold jobFaultOp
  try dsimp only
  repeat' first
    | with_reducible exact hk
    | with_reducible apply gzSend_kept
    | with_reducible refine Kept.ite (fun _ => ?_) (fun _ => ?_)
    | with_reducible assumption
    | intro _
    | split

theorem maintRetrain_kept {s0 : State} (e : BitVec 19) (s : State) (hk : Kept s0 s) : Kept s0 (maintRetrain e s) := by
  unfold maintRetrain
  try dsimp only
  repeat' first
    | with_reducible exact hk
    | with_reducible apply gzWrite_kept
    | with_reducible refine Kept.ite (fun _ => ?_) (fun _ => ?_)
    | with_reducible assumption
    | intro _
    | split

theorem maintOp_kept {s0 : State} (isOpen : Bool) (eids : List (BitVec 19)) (s : State) (hk : Kept s0 s) : Kept s0
    (maintOp isOpen eids s) := by
  unfold maintOp
  try dsimp only
  repeat' first
    | with_reducible exact hk
    | with_reducible apply fset_kept
    | with_reducible apply forAll_kept
    | with_reducible apply setGzPeer_kept
    | with_reducible apply gzReply_kept
    | with_reducible apply notLeader_kept
    | with_reducible apply maintRetrain_kept
    | with_reducible refine Kept.ite (fun _ => ?_) (fun _ => ?_)
    | fail_if_no_progress (with_reducible apply Kept.upd)
    | with_reducible refine Kept.pr2 (by assumption) ?_
    | with_reducible refine Kept.pr1 (by assumption) ?_
    | with_reducible refine Kept.pr3 (by assumption) ?_
    | with_reducible assumption
    | intro _
    | split

theorem pauseNoticeOp_kept {s0 : State} (src : BitVec 19) (ms : Word) (s : State) (hk : Kept s0 s) : Kept s0
    (pauseNoticeOp src ms s) := by
  unfold pauseNoticeOp
  try dsimp only
  repeat' first
    | with_reducible exact hk
    | with_reducible apply forAll_kept
    | with_reducible apply setGzPeer_kept
    | with_reducible apply gzReply_kept
    | with_reducible apply notLeader_kept
    | with_reducible apply gzLaunch_kept
    | with_reducible refine Kept.ite (fun _ => ?_) (fun _ => ?_)
    | fail_if_no_progress (with_reducible apply Kept.upd)
    | with_reducible assumption
    | intro _
    | split

theorem msgRetryOp_kept {s0 : State} (seq : Word) (s : State) (hk : Kept s0 s) : Kept s0 (msgRetryOp seq s) := by
  unfold msgRetryOp
  try dsimp only
  repeat' first
    | with_reducible exact hk
    | with_reducible apply emit_kept
    | with_reducible apply gzResend_kept
    | with_reducible apply gzDrop_kept
    | with_reducible apply gzLaunch_kept
    | with_reducible apply jobWrote_kept
    | with_reducible refine Kept.ite (fun _ => ?_) (fun _ => ?_)
    | fail_if_no_progress (with_reducible apply Kept.upd)
    | with_reducible assumption
    | intro _
    | split

theorem notLeaderOp_kept {s0 : State} (seq : Word) (holder : BitVec 19) (s : State) (hk : Kept s0 s) : Kept s0
    (notLeaderOp seq holder s) := by
  unfold notLeaderOp
  try dsimp only
  repeat' first
    | with_reducible exact hk
    | with_reducible apply gzResend_kept
    | with_reducible apply notLeader_kept
    | with_reducible apply gzRegister_kept
    | with_reducible refine Kept.ite (fun _ => ?_) (fun _ => ?_)
    | fail_if_no_progress (with_reducible apply Kept.upd)
    | with_reducible assumption
    | intro _
    | split

theorem stopSlices_kept {s0 : State} (x : BitVec 19) (s : State) (hk : Kept s0 s) : Kept s0 (stopSlices x s) := by
  unfold stopSlices
  try dsimp only
  repeat' first
    | with_reducible exact hk
    | with_reducible apply forAll_kept
    | with_reducible apply gzWrite_kept
    | with_reducible refine Kept.ite (fun _ => ?_) (fun _ => ?_)
    | fail_if_no_progress (with_reducible apply Kept.upd)
    | with_reducible assumption
    | intro _
    | split

theorem reactTo_kept {s0 : State} (x : BitVec 19) (port : Option Nat) (s : State) (hk : Kept s0 s) : Kept s0 (reactTo
    x port s) := by
  unfold reactTo
  try dsimp only
  repeat' first
    | with_reducible exact hk
    | with_reducible apply forAll_kept
    | with_reducible apply setMaster_kept
    | with_reducible apply routeOp_kept
    | with_reducible apply routesOf_kept
    | with_reducible apply jobFaultOp_kept
    | with_reducible apply stopSlices_kept
    | with_reducible refine Kept.ite (fun _ => ?_) (fun _ => ?_)
    | with_reducible assumption
    | intro _
    | split

theorem packageLostOp_kept {s0 : State} (e : BitVec 19) (s : State) (hk : Kept s0 s) : Kept s0 (packageLostOp e s) :=
    by
  unfold packageLostOp
  try dsimp only
  repeat' first
    | with_reducible exact hk
    | with_reducible apply evt_kept
    | with_reducible apply forAll_kept
    | with_reducible apply setGzPeer_kept
    | with_reducible apply jobWrote_kept
    | with_reducible apply reactTo_kept
    | fail_if_no_progress (with_reducible apply Kept.upd)
    | with_reducible assumption
    | intro _

theorem safeNoticeOp_kept {s0 : State} (src : BitVec 19) (s : State) (hk : Kept s0 s) : Kept s0 (safeNoticeOp src s)
    := by
  unfold safeNoticeOp
  try dsimp only
  repeat' first
    | with_reducible exact hk
    | with_reducible apply sendClaim_kept
    | with_reducible refine Kept.ite (fun _ => ?_) (fun _ => ?_)
    | split

theorem faultReactionOp_kept {s0 : State} (e : BitVec 19) (port : Option Nat) (s : State) (hk : Kept s0 s) : Kept s0
    (faultReactionOp e port s) := by
  unfold faultReactionOp
  try dsimp only
  repeat' first
    | with_reducible exact hk
    | with_reducible apply reactTo_kept
    | with_reducible refine Kept.ite (fun _ => ?_) (fun _ => ?_)
    | with_reducible assumption
    | intro _
    | split

/-! Operations of Machine/Inbox.lean. -/

theorem sumpReady_kept {s0 : State} (s : State) (hk : Kept s0 s) : Kept s0 (sumpReady s) := by
  unfold sumpReady
  try dsimp only
  repeat' first
    | with_reducible exact hk
    | with_reducible apply emit_kept
    | with_reducible refine Kept.ite (fun _ => ?_) (fun _ => ?_)
    | fail_if_no_progress (with_reducible apply Kept.upd)
    | split

theorem sumpRoutes_kept {s0 : State} (back : Bool) (s : State) (hk : Kept s0 s) : Kept s0 (sumpRoutes back s) := by
  unfold sumpRoutes
  try dsimp only
  repeat' first
    | with_reducible exact hk
    | with_reducible apply forAll_kept
    | with_reducible apply routeOwn_kept
    | with_reducible apply routesOf_kept
    | with_reducible refine Kept.ite (fun _ => ?_) (fun _ => ?_)
    | with_reducible assumption
    | intro _
    | split

theorem sumpStep_kept {s0 : State} (s : State) (hk : Kept s0 s) : Kept s0 (sumpStep s) := by
  unfold sumpStep
  try dsimp only
  repeat' first
    | with_reducible exact hk
    | with_reducible apply sumpReady_kept
    | with_reducible apply sumpRoutes_kept
    | with_reducible refine Kept.ite (fun _ => ?_) (fun _ => ?_)
    | fail_if_no_progress (with_reducible apply Kept.upd)
    | with_reducible assumption
    | intro _
    | split

theorem gzRequeue_kept {s0 : State} (m : GzlMsg) (s : State) (hk : Kept s0 s) : Kept s0 (gzRequeue m s) := by
  unfold gzRequeue
  try dsimp only
  repeat' first
    | with_reducible exact hk
    | fail_if_no_progress (with_reducible apply Kept.upd)

theorem rewrite_kept {s0 : State} (m : GzlMsg) (x : BitVec 19) (ops : List GzlOp) (tries : Nat) (s : State) (hk : Kept
    s0 s) : Kept s0 (rewrite m x ops tries s) := by
  unfold rewrite
  try dsimp only
  repeat' first
    | with_reducible exact hk
    | with_reducible apply emit_kept
    | with_reducible apply noteSets_kept
    | with_reducible apply nextWseq_kept
    | with_reducible apply gzRequeue_kept
    | with_reducible refine Kept.ite (fun _ => ?_) (fun _ => ?_)
    | fail_if_no_progress (with_reducible apply Kept.upd)
    | split

theorem drainFailed_kept {s0 : State} (m : GzlMsg) (x y : BitVec 19) (ops : List GzlOp) (s : State) (hk : Kept s0 s) :
    Kept s0 (drainFailed m x y ops s) := by
  unfold drainFailed
  try dsimp only
  repeat' first
    | with_reducible exact hk
    | with_reducible apply setFails_kept
    | with_reducible apply packageLostOp_kept
    | with_reducible apply rewrite_kept
    | with_reducible refine Kept.ite (fun _ => ?_) (fun _ => ?_)
    | with_reducible assumption
    | intro _
    | split

theorem writeReplied_kept {s0 : State} (m : GzlMsg) (x : BitVec 19) (w : GzlWrite) (r : GzlReplyIn) (s : State) (hk :
    Kept s0 s) : Kept s0 (writeReplied m x w r s) := by
  unfold writeReplied
  try dsimp only
  repeat' first
    | with_reducible exact hk
    | with_reducible apply gzWrite_kept
    | with_reducible apply sendClaim_kept
    | with_reducible apply jobWrote_kept
    | with_reducible apply rewrite_kept
    | with_reducible apply drainFailed_kept
    | with_reducible refine Kept.ite (fun _ => ?_) (fun _ => ?_)
    | fail_if_no_progress (with_reducible apply Kept.upd)
    | with_reducible refine Kept.pr2 (by assumption) ?_
    | with_reducible refine Kept.pr1 (by assumption) ?_
    | with_reducible refine Kept.pr3 (by assumption) ?_
    | with_reducible assumption
    | intro _
    | split

theorem gzReplied_kept {s0 : State} (seq : Word) (r : GzlReplyIn) (s : State) (hk : Kept s0 s) : Kept s0 (gzReplied
    seq r s) := by
  unfold gzReplied
  try dsimp only
  repeat' first
    | with_reducible exact hk
    | with_reducible apply gzDrop_kept
    | with_reducible apply notLeader_kept
    | with_reducible apply registerOp_kept
    | with_reducible apply yieldOp_kept
    | with_reducible apply adoptRecord_kept
    | with_reducible apply notLeaderOp_kept
    | with_reducible apply writeReplied_kept
    | with_reducible refine Kept.ite (fun _ => ?_) (fun _ => ?_)
    | fail_if_no_progress (with_reducible apply Kept.upd)
    | with_reducible assumption
    | intro _
    | split

theorem reportOut_kept {s0 : State} (s t : State) (hk : Kept s0 s) (ht : Kept s0 t) : Kept s0 (reportOut s t) := by
  unfold reportOut
  try dsimp only
  repeat' first
    | with_reducible exact hk
    | with_reducible exact ht
    | with_reducible apply sendReport_kept
    | with_reducible refine Kept.ite (fun _ => ?_) (fun _ => ?_)
    | with_reducible assumption
    | intro _
    | split

theorem gzHandle_kept {s0 : State} (m : GzlIn) (s : State) (hk : Kept s0 s) : Kept s0 (gzHandle m s) := by
  unfold gzHandle
  try dsimp only
  repeat' first
    | with_reducible exact hk
    | with_reducible apply release_kept
    | with_reducible apply gzReply_kept
    | with_reducible apply notLeader_kept
    | with_reducible apply gzWriteOp_kept
    | with_reducible apply claimOp_kept
    | with_reducible apply registerOp_kept
    | with_reducible apply stateCopyOp_kept
    | with_reducible apply yieldReqOp_kept
    | with_reducible apply yieldOp_kept
    | with_reducible apply grantOp_kept
    | with_reducible apply reportOp_kept
    | with_reducible apply carveOp_kept
    | with_reducible apply releaseOp_kept
    | with_reducible apply maintOp_kept
    | with_reducible apply pauseNoticeOp_kept
    | with_reducible apply notLeaderOp_kept
    | with_reducible apply safeNoticeOp_kept
    | with_reducible apply gzReplied_kept
    | with_reducible apply reportOut_kept
    | with_reducible refine Kept.ite (fun _ => ?_) (fun _ => ?_)
    | with_reducible assumption
    | intro _
    | split

theorem gzHandleAll_kept {s0 : State} (l : List GzlIn) (s : State) (hk : Kept s0 s) : Kept s0 (gzHandleAll l s) := by
  induction l generalizing s with
  | nil => exact hk
  | cons m r ih =>
    unfold gzHandleAll
    split
    · exact ih _ (gzHandle_kept _ _ hk)
    · with_reducible apply Kept.upd; exact hk

theorem gzGoOn_kept {s0 : State} (s : State) (hk : Kept s0 s) : Kept s0 (gzGoOn s) := by
  unfold gzGoOn
  try dsimp only
  repeat' first
    | with_reducible exact hk
    | with_reducible apply resumeWrite_kept
    | with_reducible apply reportOut_kept
    | with_reducible apply gzHandleAll_kept
    | with_reducible refine Kept.ite (fun _ => ?_) (fun _ => ?_)
    | fail_if_no_progress (with_reducible apply Kept.upd)
    | split

theorem gzTake_kept {s0 : State} (m : GzlIn) (s : State) (hk : Kept s0 s) : Kept s0 (gzTake m s) := by
  unfold gzTake
  try dsimp only
  repeat' first
    | with_reducible exact hk
    | with_reducible apply gzGoOn_kept
    | with_reducible refine Kept.ite (fun _ => ?_) (fun _ => ?_)
    | fail_if_no_progress (with_reducible apply Kept.upd)
    | split

/-! Operations of Machine/Ports.lean. -/

theorem wiringCheck_kept {s0 : State} (p : Nat) (s : State) (hk : Kept s0 s) : Kept s0 (wiringCheck p s) := by
  unfold wiringCheck
  try dsimp only
  repeat' first
    | with_reducible exact hk
    | with_reducible apply evt_kept
    | with_reducible apply emit_kept
    | with_reducible apply mapOut_kept
    | with_reducible refine Kept.ite (fun _ => ?_) (fun _ => ?_)
    | split

theorem linksEnd_kept {s0 : State} (s t : State) (hk : Kept s0 s) (ht : Kept s0 t) : Kept s0 (linksEnd s t) := by
  unfold linksEnd
  try dsimp only
  repeat' first
    | with_reducible exact hk
    | with_reducible exact ht
    | with_reducible refine Kept.ite (fun _ => ?_) (fun _ => ?_)
    | fail_if_no_progress (with_reducible apply Kept.upd)
    | split

theorem portsMoved_kept {s0 : State} (s t : State) (hk : Kept s0 s) (ht : Kept s0 t) : Kept s0 (portsMoved s t) := by
  unfold portsMoved
  try dsimp only
  repeat' first
    | with_reducible exact hk
    | with_reducible exact ht
    | with_reducible apply selfMaster_kept
    | with_reducible apply reportOut_kept
    | with_reducible apply gzGoOn_kept
    | with_reducible apply linksEnd_kept

theorem portsFollow_kept {s0 : State} (s t : State) (hk : Kept s0 s) (ht : Kept s0 t) : Kept s0 (portsFollow s t) :=
    by
  unfold portsFollow
  try dsimp only
  repeat' first
    | with_reducible exact hk
    | with_reducible exact ht
    | with_reducible apply portsMoved_kept
    | with_reducible refine Kept.ite (fun _ => ?_) (fun _ => ?_)
    | with_reducible assumption
    | intro _
    | split

theorem drainFollow_kept {s0 : State} (s t : State) (hk : Kept s0 s) (ht : Kept s0 t) : Kept s0 (drainFollow s t) :=
    by
  unfold drainFollow
  try dsimp only
  repeat' first
    | with_reducible exact hk
    | with_reducible exact ht
    | with_reducible apply gzGoOn_kept
    | with_reducible refine Kept.ite (fun _ => ?_) (fun _ => ?_)
    | split

/-! Operations of Machine/Startup.lean. -/

theorem noteBank_kept {s0 : State} (s : State) (hk : Kept s0 s) : Kept s0 (noteBank s) := by
  unfold noteBank
  try dsimp only
  repeat' first
    | with_reducible exact hk
    | with_reducible apply fset_kept

theorem bootFails_kept {s0 : State} (step : Nat) (st : BitVec 8) (s : State) (hk : Kept s0 s) : Kept s0 (bootFails
    step st s) := by
  unfold bootFails
  try dsimp only
  repeat' first
    | with_reducible exact hk
    | with_reducible apply fset_kept

theorem bootScrubStart_kept {s0 : State} (s : State) (hk : Kept s0 s) : Kept s0 (bootScrubStart s) := by
  unfold bootScrubStart
  try dsimp only
  repeat' first
    | with_reducible exact hk
    | with_reducible apply forAll_kept
    | with_reducible apply setScrubActive_kept
    | with_reducible assumption
    | intro _

theorem bootUnits_kept {s0 : State} (b : BootIn) (s : State) (hk : Kept s0 s) : Kept s0 (bootUnits b s) := by
  unfold bootUnits
  try dsimp only
  repeat' first
    | with_reducible exact hk
    | with_reducible apply fset_kept
    | with_reducible apply forAll_kept
    | with_reducible apply sumpRegs_kept
    | with_reducible apply noteTopology_kept
    | with_reducible apply sendFault_kept
    | with_reducible apply assignCluster_kept
    | with_reducible apply bootScrubStart_kept
    | with_reducible assumption
    | intro _

theorem stacksTrained_kept {s0 : State} (b : BootIn) (s : State) (hk : Kept s0 s) : Kept s0 (stacksTrained b s) := by
  unfold stacksTrained
  try dsimp only
  repeat' first
    | with_reducible exact hk
    | with_reducible apply fset_kept
    | with_reducible apply forAll_kept
    | with_reducible apply fenceStack_kept
    | with_reducible apply unitFault_kept
    | with_reducible assumption
    | intro _

theorem bootBank_kept {s0 : State} (bank alive : Bool) (b : BootIn) (s : State) (hk : Kept s0 s) : Kept s0 (bootBank
    bank alive b s) := by
  unfold bootBank
  try dsimp only
  repeat' first
    | with_reducible exact hk
    | with_reducible apply fset_kept
    | with_reducible apply evt_kept
    | with_reducible apply setVcore_kept
    | with_reducible apply noteBank_kept
    | with_reducible apply bootFails_kept
    | with_reducible apply bootUnits_kept
    | with_reducible refine Kept.ite (fun _ => ?_) (fun _ => ?_)
    | fail_if_no_progress (with_reducible apply Kept.upd)
    | fail_if_no_progress (with_reducible refine Kept.mknv (h := ?_) (h1 := rfl) (h2 := rfl) (h3 := rfl) ..)
    | split

theorem bootRun_kept {s0 : State} (b : BootIn) (s : State) (hk : Kept s0 s) : Kept s0 (bootRun b s) := by
  unfold bootRun
  try dsimp only
  repeat' first
    | with_reducible exact hk
    | with_reducible apply regSet_kept
    | with_reducible apply fset_kept
    | with_reducible apply joinDomain_kept
    | with_reducible apply noteCab_kept
    | with_reducible apply bootFails_kept
    | with_reducible apply bootBank_kept
    | with_reducible refine Kept.ite (fun _ => ?_) (fun _ => ?_)
    | fail_if_no_progress (with_reducible apply Kept.upd)
    | fail_if_no_progress (with_reducible refine Kept.mkclk (h := ?_) (h1 := by first | exact le_refl _ | (dsimp only; omega)) ..)
    | split

theorem coldBootOp_kept {s0 : State} (b : BootIn) (s : State) (hk : Kept s0 s) : Kept s0 (coldBootOp b s) := by
  unfold coldBootOp
  try dsimp only
  repeat' first
    | with_reducible exact hk
    | with_reducible apply bootRun_kept
    | with_reducible refine Kept.ite (fun _ => ?_) (fun _ => ?_)
    | fail_if_no_progress (with_reducible apply Kept.upd)
    | split

theorem pllLockOp_kept {s0 : State} (s : State) (hk : Kept s0 s) : Kept s0 (pllLockOp s) := by
  unfold pllLockOp
  try dsimp only
  repeat' first
    | with_reducible exact hk
    | with_reducible apply bootRun_kept
    | with_reducible refine Kept.ite (fun _ => ?_) (fun _ => ?_)
    | fail_if_no_progress (with_reducible apply Kept.upd)
    | with_reducible assumption
    | intro _
    | split

theorem bootScrubs_kept {s0 : State} (b : BootIn) (s : State) (hk : Kept s0 s) : Kept s0 (bootScrubs b s) := by
  unfold bootScrubs
  try dsimp only
  repeat' first
    | with_reducible exact hk
    | with_reducible apply forAll_kept
    | with_reducible apply scrubZero_kept
    | with_reducible apply scrubPass_kept
    | with_reducible apply setScrubPending_kept
    | with_reducible apply setScrubActive_kept
    | with_reducible apply scrubFails_kept
    | with_reducible assumption
    | intro _

theorem readyOp_kept {s0 : State} (s : State) (hk : Kept s0 s) : Kept s0 (readyOp s) := by
  unfold readyOp
  try dsimp only
  repeat' first
    | with_reducible exact hk
    | with_reducible apply fset_kept
    | with_reducible apply noteTopology_kept
    | with_reducible apply stacksTrained_kept
    | with_reducible apply bootScrubs_kept
    | with_reducible refine Kept.ite (fun _ => ?_) (fun _ => ?_)
    | fail_if_no_progress (with_reducible apply Kept.upd)
    | with_reducible assumption
    | intro _
    | split

theorem fallBackOp_kept {s0 : State} (s : State) (hk : Kept s0 s) : Kept s0 (fallBackOp s) := by
  unfold fallBackOp
  try dsimp only
  repeat' first
    | with_reducible exact hk
    | with_reducible apply fset_kept
    | with_reducible apply evt_kept
    | with_reducible apply noteBank_kept
    | with_reducible apply bootFails_kept
    | with_reducible apply bootBank_kept
    | with_reducible refine Kept.ite (fun _ => ?_) (fun _ => ?_)
    | fail_if_no_progress (with_reducible apply Kept.upd)
    | fail_if_no_progress (with_reducible refine Kept.mknv (h := ?_) (h1 := rfl) (h2 := rfl) (h3 := rfl) ..)
    | with_reducible assumption
    | intro _
    | split

theorem recoveryOp_kept {s0 : State} (s : State) (hk : Kept s0 s) : Kept s0 (recoveryOp s) := by
  unfold recoveryOp
  try dsimp only
  repeat' first
    | with_reducible exact hk
    | with_reducible apply fset_kept
    | with_reducible refine Kept.ite (fun _ => ?_) (fun _ => ?_)
    | fail_if_no_progress (with_reducible apply Kept.upd)
    | split

/-! Operations of Machine/Observe.lean. -/

theorem ctrRead_kept {s0 : State} (r : Requester) (off : Nat) (x : CtrBlk × Nat × Nat) (s : State) (hk : Kept s0 s) :
    Kept s0 (ctrRead r off x s).2 := by
  unfold ctrRead
  try dsimp only
  repeat' first
    | with_reducible exact hk
    | with_reducible apply setLatch_kept
    | with_reducible assumption
    | intro _
    | split

theorem copyCounters_kept {s0 : State} (s : State) (hk : Kept s0 s) : Kept s0 (copyCounters s) := by
  unfold copyCounters
  try dsimp only
  repeat' first
    | with_reducible exact hk
    | fail_if_no_progress (with_reducible apply Kept.upd)
    | with_reducible assumption
    | intro _

theorem takeSnap_kept {s0 : State} (t : BitVec 48) (s : State) (hk : Kept s0 s) : Kept s0 (takeSnap t s) := by
  unfold takeSnap
  try dsimp only
  repeat' first
    | with_reducible exact hk
    | with_reducible apply fadd_kept
    | with_reducible apply memWrite_kept
    | with_reducible apply notifyAt_kept
    | with_reducible apply copyCounters_kept
    | with_reducible refine Kept.ite (fun _ => ?_) (fun _ => ?_)
    | fail_if_no_progress (with_reducible apply Kept.upd)
    | split

theorem nextSnap_kept {s0 : State} (t : BitVec 48) (s : State) (hk : Kept s0 s) : Kept s0 (nextSnap t s) := by
  unfold nextSnap
  try dsimp only
  repeat' first
    | with_reducible exact hk
    | with_reducible apply fset_kept
    | with_reducible refine Kept.ite (fun _ => ?_) (fun _ => ?_)
    | fail_if_no_progress (with_reducible apply Kept.upd)
    | split

theorem snapshotOp_kept {s0 : State} (s : State) (hk : Kept s0 s) : Kept s0 (snapshotOp s) := by
  unfold snapshotOp
  try dsimp only
  repeat' first
    | with_reducible exact hk
    | with_reducible apply takeSnap_kept
    | with_reducible apply nextSnap_kept
    | with_reducible refine Kept.ite (fun _ => ?_) (fun _ => ?_)
    | with_reducible assumption
    | intro _
    | split

theorem snapArmOp_kept {s0 : State} (r : Requester) (s : State) (hk : Kept s0 s) : Kept s0 (snapArmOp r s) := by
  unfold snapArmOp
  try dsimp only
  repeat' first
    | with_reducible exact hk
    | with_reducible apply fset_kept
    | with_reducible apply countDenied_kept
    | with_reducible apply snapshotOp_kept
    | with_reducible refine Kept.ite (fun _ => ?_) (fun _ => ?_)
    | fail_if_no_progress (with_reducible apply Kept.upd)
    | split

theorem snapDisarmOp_kept {s0 : State} (r : Requester) (s : State) (hk : Kept s0 s) : Kept s0 (snapDisarmOp r s) := by
  unfold snapDisarmOp
  try dsimp only
  repeat' first
    | with_reducible exact hk
    | with_reducible apply fset_kept
    | with_reducible apply countDenied_kept
    | with_reducible refine Kept.ite (fun _ => ?_) (fun _ => ?_)
    | fail_if_no_progress (with_reducible apply Kept.upd)
    | split

theorem setSRing_kept {s0 : State} (p : Nat) (x : SRing) (s : State) (hk : Kept s0 s) : Kept s0 (setSRing p x s) := by
  unfold setSRing
  try dsimp only
  repeat' first
    | with_reducible exact hk
    | fail_if_no_progress (with_reducible apply Kept.upd)
    | with_reducible assumption
    | intro _

theorem sampleOp_kept {s0 : State} (c : Nat) (x : SampleIn) (s : State) (hk : Kept s0 s) : Kept s0 (sampleOp c x s) :=
    by
  unfold sampleOp
  try dsimp only
  repeat' first
    | with_reducible exact hk
    | with_reducible apply modCore_kept
    | with_reducible apply memWrite_kept
    | with_reducible apply setSRing_kept
    | with_reducible refine Kept.ite (fun _ => ?_) (fun _ => ?_)
    | fail_if_no_progress (with_reducible apply Kept.upd)
    | with_reducible assumption
    | intro _
    | split

theorem crawlOp_kept {s0 : State} (r : Requester) (v : Word) (s : State) (hk : Kept s0 s) : Kept s0 (crawlOp r v s) :=
    by
  unfold crawlOp
  try dsimp only
  repeat' first
    | with_reducible exact hk
    | with_reducible apply fset_kept
    | with_reducible apply countDenied_kept
    | with_reducible refine Kept.ite (fun _ => ?_) (fun _ => ?_)
    | split

theorem tapLoad_kept {s0 : State} (ir : BitVec 8) (bound data : BitVec 64) (s : State) (hk : Kept s0 s) : Kept s0
    (tapLoad ir bound data s) := by
  unfold tapLoad
  try dsimp only
  repeat' first
    | with_reducible exact hk
    | with_reducible apply emit_kept
    | fail_if_no_progress (with_reducible apply Kept.upd)

theorem tapBypass_kept {s0 : State} (s : State) (hk : Kept s0 s) : Kept s0 (tapBypass s) := by
  unfold tapBypass
  try dsimp only
  repeat' first
    | with_reducible exact hk
    | with_reducible apply tapLoad_kept

/-! Operations of Machine/Security.lean. -/

theorem setKey_kept {s0 : State} (i : Nat) (k : Option KeySlot) (s : State) (hk : Kept s0 s) : Kept s0 (setKey i k s)
    := by
  unfold setKey
  try dsimp only
  repeat' first
    | with_reducible exact hk
    | fail_if_no_progress (with_reducible apply Kept.upd)
    | with_reducible assumption
    | intro _

theorem unwrapOp_kept {s0 : State} (r : Requester) (slot : Nat) (s : State) (hk : Kept s0 s) : Kept s0 (unwrapOp r
    slot s).2 := by
  unfold unwrapOp
  try dsimp only
  repeat' first
    | with_reducible exact hk
    | with_reducible apply evt_kept
    | with_reducible apply readAll_kept
    | with_reducible apply setKey_kept
    | with_reducible refine Kept.ite (fun _ => ?_) (fun _ => ?_)
    | with_reducible refine Kept.pr2 (by assumption) ?_
    | with_reducible refine Kept.pr1 (by assumption) ?_
    | with_reducible refine Kept.pr3 (by assumption) ?_
    | with_reducible assumption
    | intro _
    | split

theorem eraseSlotOp_kept {s0 : State} (r : Requester) (slot : Nat) (s : State) (hk : Kept s0 s) : Kept s0 (eraseSlotOp
    r slot s).2 := by
  unfold eraseSlotOp
  try dsimp only
  repeat' first
    | with_reducible exact hk
    | with_reducible apply setKey_kept
    | with_reducible refine Kept.ite (fun _ => ?_) (fun _ => ?_)
    | split

theorem decryptFrom_kept {s0 : State} (f : Nat) (k : KeySlot) (a n d r : Nat) (s : State) (hk : Kept s0 s) : Kept s0
    (decryptFrom f k a n d r s).2 := by
  induction f generalizing a n d r s with
  | zero => exact hk
  | succ f ih =>
    unfold decryptFrom; dsimp only
    split
    · exact hk
    · split
      · show Kept s0 (evt secB eSEC_EVENT_DECRYPT_FAIL _)
        exact evt_kept _ _ _ (readAll_kept _ _ _ hk)
      · exact ih _ _ _ _ _ (memWrite_kept _ _ _ (readAll_kept _ _ _ hk))

theorem decryptOp_kept {s0 : State} (r : Requester) (slot : Nat) (s : State) (hk : Kept s0 s) : Kept s0 (decryptOp r
    slot s).2 := by
  unfold decryptOp
  try dsimp only
  repeat' first
    | with_reducible exact hk
    | with_reducible apply decryptFrom_kept
    | with_reducible refine Kept.ite (fun _ => ?_) (fun _ => ?_)
    | with_reducible refine Kept.pr2 (by assumption) ?_
    | with_reducible refine Kept.pr1 (by assumption) ?_
    | with_reducible refine Kept.pr3 (by assumption) ?_
    | with_reducible assumption
    | intro _
    | split

theorem nonceOp_kept {s0 : State} (s : State) (hk : Kept s0 s) : Kept s0 (nonceOp s).2 := by
  unfold nonceOp
  try dsimp only
  repeat' first
    | with_reducible exact hk
    | with_reducible apply bumpFree_kept
    | fail_if_no_progress (with_reducible apply Kept.upd)

theorem raiseCount_le (k : Word) : k.toNat ≤ (raiseCount k).toNat := by
  unfold raiseCount
  split
  · exact le_refl _
  · next h => bv_omega
theorem Kept.raised {a b : State} (k : List (Option (List Byte))) (h : Kept a b) :
    Kept a { b with nv := { b.nv with cabKeys := k, keyset := raiseCount b.nv.keyset } } := by
  exact ⟨h.mem, h.flash, h.lc, h.secver, le_trans h.keyset (raiseCount_le _), h.legal, h.pending, h.out, h.now⟩
theorem enrolOp_kept {s0 : State} (b : List Byte) (s : State) (hk : Kept s0 s) : Kept s0 (enrolOp b s).2 := by
  unfold enrolOp; dsimp only
  split
  · exact hk
  · split
    · exact hk
    · exact Kept.raised _ hk

theorem revokeOp_kept {s0 : State} (b : List Byte) (s : State) (hk : Kept s0 s) : Kept s0 (revokeOp b s).2 := by
  unfold revokeOp; dsimp only
  split
  · exact hk
  · exact Kept.raised _ hk

theorem dropPeers_kept {s0 : State} (s : State) (hk : Kept s0 s) : Kept s0 (dropPeers s) := by
  unfold dropPeers
  try dsimp only
  repeat' first
    | with_reducible exact hk
    | with_reducible apply forAll_kept
    | with_reducible apply setSession_kept
    | with_reducible apply sessFault_kept
    | with_reducible assumption
    | intro _
    | split

theorem peerSetOp_kept {s0 : State} (b : List Byte) (s : State) (hk : Kept s0 s) : Kept s0 (peerSetOp b s).2 := by
  unfold peerSetOp
  try dsimp only
  repeat' first
    | with_reducible exact hk
    | with_reducible apply dropPeers_kept
    | fail_if_no_progress (with_reducible apply Kept.upd)

theorem Kept.lifted {a b : State} (n : Nat) (hn : b.nv.lc ≤ n) (hm : n ≤ 3) (h : Kept a b) : Kept a { b with nv := {
    b.nv with lc := n } } := by
  exact ⟨h.mem, h.flash, le_trans h.lc hn, h.secver, h.keyset, fun _ => hm, h.pending, h.out, h.now⟩
theorem sealOp_kept {s0 : State} (s : State) (hk : Kept s0 s) : Kept s0 (sealOp s).2 := by
  unfold sealOp
  split
  · next h => exact Kept.lifted 2 (by omega) (by omega) hk
  · exact hk

theorem eraseAll_kept {s0 : State} (s : State) (hk : Kept s0 s) : Kept s0 (eraseAll s) := by
  unfold eraseAll
  try dsimp only
  repeat' first
    | with_reducible exact hk
    | with_reducible apply forAll_kept
    | with_reducible apply eraseKey_kept
    | fail_if_no_progress (with_reducible apply Kept.upd)
    | with_reducible assumption
    | intro _

theorem tearAll_kept {s0 : State} (s : State) (hk : Kept s0 s) : Kept s0 (tearAll s) := by
  unfold tearAll
  try dsimp only
  repeat' first
    | with_reducible exact hk
    | with_reducible apply forAll_kept
    | with_reducible apply beginReset_kept
    | with_reducible refine Kept.ite (fun _ => ?_) (fun _ => ?_)
    | with_reducible assumption
    | intro _
    | split

theorem retireLc_kept {s0 : State} (s : State) (hk : Kept s0 s) : Kept s0 (retireLc s).2 := by
  unfold retireLc; dsimp only
  split
  · next hl =>
    have go {a : State} (h : Kept a s) :
        Kept a (forAll (partList s.cab.cur) (fun p => setScrubPending p true) (eraseAll s)) :=
      forAll_kept _ _ _ (fun p s h => setScrubPending_kept _ _ _ h) (eraseAll_kept _ h)
    exact tearAll_kept _ (Kept.lifted 3 ((go (Kept.refl s)).legal (by omega)) (by omega) (go hk))
  · exact hk

theorem unlockOp_kept {s0 : State} (s : State) (hk : Kept s0 s) : Kept s0 (unlockOp s).2 := by
  unfold unlockOp
  try dsimp only
  repeat' first
    | with_reducible exact hk
    | with_reducible apply evt_kept
    | with_reducible apply eraseAll_kept
    | with_reducible apply tearAll_kept
    | with_reducible refine Kept.ite (fun _ => ?_) (fun _ => ?_)
    | fail_if_no_progress (with_reducible apply Kept.upd)
    | split

theorem leNat_lt : ∀ l : List Byte, leNat l < 256 ^ l.length
  | [] => by simp [leNat]
  | b :: r => by
    have := leNat_lt r
    have hb := b.isLt
    simp only [leNat, List.length_cons, Nat.pow_succ]
    omega
theorem commitSecver_kept {s0 : State} (force : Bool) (b : List Byte) (s : State) (hk : Kept s0 s) : Kept s0
    (commitSecver force b s).2 := by
  unfold commitSecver; dsimp only
  split
  · exact hk
  · split
    · exact hk
    · refine ⟨hk.mem, hk.flash, hk.lc, ?_, hk.keyset, hk.legal, hk.pending, hk.out, hk.now⟩
      have h1 := s.nv.secver.isLt
      have h2 : bankSecver s.nv.active s < 2 ^ 32 := by
        unfold bankSecver bank32 bankBytes
        exact lt_of_lt_of_le (leNat_lt _) (by simp)
      show _ ≤ (BitVec.ofNat 32 (Nat.max s.nv.secver.toNat (bankSecver s.nv.active s))).toNat
      have h3 : Nat.max s.nv.secver.toNat (bankSecver s.nv.active s) < 2 ^ 32 := by
        simp only [Nat.max_def]
        split <;> omega
      rw [BitVec.toNat_ofNat, Nat.mod_eq_of_lt h3]
      exact le_trans hk.secver (Nat.le_max_left _ _)

theorem provisionOp_kept {s0 : State} (r : Requester) (b : List Byte) (s : State) (hk : Kept s0 s) : Kept s0
    (provisionOp r b s).2 := by
  unfold provisionOp
  split
  · exact hk
  · next h0 =>
    split
    · dsimp only
      split
      · exact hk
      · split
        · exact hk
        · split
          · exact hk
          · refine memWrite_kept _ _ _ ?_
            with_reducible refine Kept.mknv (h := ?_) (h1 := rfl) (h2 := rfl) (h3 := rfl) ..
            exact hk
    · dsimp only
      split
      · have h1 : s0.nv.lc ≤ 1 := by
          have := hk.lc
          omega
        exact ⟨hk.mem, hk.flash, h1, hk.secver, hk.keyset, fun _ => (by omega : 1 ≤ 3), hk.pending, hk.out, hk.now⟩
      · exact hk

theorem signedRun_kept {s0 : State} (cmd : Nat) (r : Requester) (force : Bool) (b : List Byte) (s : State) (hk : Kept
    s0 s) : Kept s0 (signedRun cmd r force b s).2 := by
  unfold signedRun
  try dsimp only
  repeat' first
    | with_reducible exact hk
    | with_reducible apply enrolOp_kept
    | with_reducible apply revokeOp_kept
    | with_reducible apply peerSetOp_kept
    | with_reducible apply sealOp_kept
    | with_reducible apply retireLc_kept
    | with_reducible apply unlockOp_kept
    | with_reducible apply commitSecver_kept
    | with_reducible apply provisionOp_kept
    | with_reducible assumption
    | intro _
    | split

theorem signedOp_kept {s0 : State} (cmd : Nat) (r : Requester) (force : Bool) (s : State) (hk : Kept s0 s) : Kept s0
    (signedOp cmd r force s).2 := by
  unfold signedOp
  try dsimp only
  repeat' first
    | with_reducible exact hk
    | with_reducible apply readAll_kept
    | with_reducible apply signedRun_kept
    | with_reducible refine Kept.ite (fun _ => ?_) (fun _ => ?_)
    | fail_if_no_progress (with_reducible apply Kept.upd)
    | split

theorem secRun_kept {s0 : State} (r : Requester) (cmd slot : Nat) (force : Bool) (s : State) (hk : Kept s0 s) : Kept
    s0 (secRun r cmd slot force s).2 := by
  unfold secRun
  try dsimp only
  repeat' first
    | with_reducible exact hk
    | with_reducible apply unwrapOp_kept
    | with_reducible apply eraseSlotOp_kept
    | with_reducible apply decryptOp_kept
    | with_reducible apply nonceOp_kept
    | with_reducible apply signedOp_kept
    | with_reducible refine Kept.ite (fun _ => ?_) (fun _ => ?_)
    | with_reducible assumption
    | intro _
    | split

theorem secStart_kept {s0 : State} (r : Requester) (w : Word) (s : State) (hk : Kept s0 s) : Kept s0 (secStart r w s)
    := by
  unfold secStart
  try dsimp only
  repeat' first
    | with_reducible exact hk
    | with_reducible apply secEnd_kept
    | with_reducible apply secRun_kept
    | with_reducible refine Kept.ite (fun _ => ?_) (fun _ => ?_)
    | fail_if_no_progress (with_reducible apply Kept.upd)
    | split

theorem secNext_kept {s0 : State} (f : Nat) (s : State) (hk : Kept s0 s) : Kept s0 (secNext f s) := by
  induction f generalizing s with
  | zero => exact hk
  | succ f ih =>
    unfold secNext
    split
    · exact hk
    · split
      · exact hk
      · exact ih _ (secStart_kept _ _ _ (by with_reducible apply Kept.upd; exact hk))

theorem secResume_kept {s0 : State} (s : State) (hk : Kept s0 s) : Kept s0 (secResume s) := by
  unfold secResume
  try dsimp only
  repeat' first
    | with_reducible exact hk
    | with_reducible apply secNext_kept

theorem secScrubbed_kept {s0 : State} (s : State) (hk : Kept s0 s) : Kept s0 (secScrubbed s) := by
  unfold secScrubbed
  try dsimp only
  repeat' first
    | with_reducible exact hk
    | with_reducible apply secEnd_kept
    | with_reducible apply secResume_kept
    | with_reducible refine Kept.ite (fun _ => ?_) (fun _ => ?_)
    | fail_if_no_progress (with_reducible apply Kept.upd)
    | with_reducible assumption
    | intro _
    | split

theorem secWrite_kept {s0 : State} (r : Requester) (w : Word) (s : State) (hk : Kept s0 s) : Kept s0 (secWrite r w s)
    := by
  unfold secWrite
  try dsimp only
  repeat' first
    | with_reducible exact hk
    | with_reducible apply regAccessFault_kept
    | with_reducible apply countDenied_kept
    | with_reducible apply setLatch_kept
    | with_reducible apply secSet_kept
    | with_reducible apply secResume_kept
    | with_reducible refine Kept.ite (fun _ => ?_) (fun _ => ?_)
    | fail_if_no_progress (with_reducible apply Kept.upd)
    | split

theorem secCmd_kept {s0 : State} (r : Requester) (cmd : Nat) (force : Bool) (slot : Nat) (s : State) (hk : Kept s0 s)
    : Kept s0 (secCmd r cmd force slot s) := by
  unfold secCmd
  try dsimp only
  repeat' first
    | with_reducible exact hk
    | with_reducible apply secWrite_kept
    | with_reducible assumption
    | intro _
    | split

/-! Operations of Machine/Firmware.lean. -/

theorem fwuEnd_kept {s0 : State} (cmd : Nat) (st : BitVec 8) (comp : Nat) (s : State) (hk : Kept s0 s) : Kept s0
    (fwuEnd cmd st comp s) := by
  unfold fwuEnd
  try dsimp only
  repeat' first
    | with_reducible exact hk
    | with_reducible apply fset_kept
    | with_reducible apply fadd_kept
    | with_reducible apply evt_kept
    | with_reducible apply noteBank_kept

theorem setStaged_kept {s0 : State} (b : Bool) (s : State) (hk : Kept s0 s) : Kept s0 (setStaged b s) := by
  unfold setStaged
  try dsimp only
  repeat' first
    | with_reducible exact hk
    | fail_if_no_progress (with_reducible apply Kept.upd)
    | fail_if_no_progress (with_reducible refine Kept.mknv (h := ?_) (h1 := rfl) (h2 := rfl) (h3 := rfl) ..)

theorem eraseBank_kept {s0 : State} (b : Bool) (s : State) (hk : Kept s0 s) : Kept s0 (eraseBank b s) := by
  unfold eraseBank; dsimp only
  with_reducible refine Kept.mkflash (h := ?_) (h0 := ?_) (h1 := rfl) (h2 := rfl) (h3 := rfl) ..
  exact hk; intro hx; unfold Memory.wf at hx ⊢; exact twf_tput_nil _ _ hx

theorem putBank_kept {s0 : State} (b : Bool) (off n : Nat) (sl : Tbl Byte) (s : State) (hk : Kept s0 s) : Kept s0
    (putBank b off n sl s) := by
  unfold putBank
  with_reducible refine Kept.mkflash (h := ?_) (h0 := ?_) (h1 := rfl) (h2 := rfl) (h3 := rfl) ..
  exact hk; intro hx; unfold Memory.wf at hx ⊢; exact twf_tput _ _ _ hx

theorem fwuStageMem_kept {s0 : State} (s : State) (hk : Kept s0 s) : Kept s0 (fwuStageMem s) := by
  unfold fwuStageMem
  try dsimp only
  repeat' first
    | with_reducible exact hk
    | with_reducible apply readAll_kept
    | with_reducible apply fwuEnd_kept
    | with_reducible apply setStaged_kept
    | with_reducible apply eraseBank_kept
    | with_reducible apply putBank_kept
    | with_reducible refine Kept.ite (fun _ => ?_) (fun _ => ?_)
    | split

theorem unship_kept {s0 : State} (b : Bool) (s : State) (hk : Kept s0 s) : Kept s0 (unship b s) := by
  unfold unship
  try dsimp only
  repeat' first
    | with_reducible exact hk
    | with_reducible apply eraseBank_kept
    | with_reducible apply putBank_kept
    | with_reducible refine Kept.ite (fun _ => ?_) (fun _ => ?_)
    | split

theorem fwuStageRom_kept {s0 : State} (s : State) (hk : Kept s0 s) : Kept s0 (fwuStageRom s) := by
  unfold fwuStageRom
  try dsimp only
  repeat' first
    | with_reducible exact hk
    | with_reducible apply fwuEnd_kept
    | with_reducible apply setStaged_kept
    | with_reducible apply eraseBank_kept
    | with_reducible apply putBank_kept
    | with_reducible apply unship_kept
    | with_reducible refine Kept.ite (fun _ => ?_) (fun _ => ?_)
    | fail_if_no_progress (with_reducible apply Kept.upd)
    | fail_if_no_progress (with_reducible refine Kept.mknv (h := ?_) (h1 := rfl) (h2 := rfl) (h3 := rfl) ..)
    | split

theorem pauseNotice_kept {s0 : State} (ms : Nat) (s : State) (hk : Kept s0 s) : Kept s0 (pauseNotice ms s) := by
  unfold pauseNotice
  try dsimp only
  repeat' first
    | with_reducible exact hk
    | with_reducible apply gzSend_kept
    | with_reducible refine Kept.ite (fun _ => ?_) (fun _ => ?_)
    | split

theorem hubToReset_kept {s0 : State} (s : State) (hk : Kept s0 s) : Kept s0 (hubToReset s) := by
  unfold hubToReset
  try dsimp only
  repeat' first
    | with_reducible exact hk
    | with_reducible apply hoFlush_kept
    | with_reducible apply cabHubRestart_kept
    | with_reducible assumption
    | intro _

theorem hubRestart_kept {s0 : State} (s : State) (hk : Kept s0 s) : Kept s0 (hubRestart s) := by
  unfold hubRestart
  try dsimp only
  repeat' first
    | with_reducible exact hk
    | with_reducible apply fset_kept
    | with_reducible apply advanceHub_kept
    | with_reducible apply hubToReset_kept
    | with_reducible refine Kept.ite (fun _ => ?_) (fun _ => ?_)
    | fail_if_no_progress (with_reducible apply Kept.upd)
    | with_reducible assumption
    | intro _
    | split

theorem fwuActivateRun_kept {s0 : State} (s : State) (hk : Kept s0 s) : Kept s0 (fwuActivateRun s) := by
  unfold fwuActivateRun
  try dsimp only
  repeat' first
    | with_reducible exact hk
    | with_reducible apply fset_kept
    | with_reducible apply fwuEnd_kept
    | with_reducible apply pauseNotice_kept
    | with_reducible apply hubRestart_kept
    | with_reducible refine Kept.ite (fun _ => ?_) (fun _ => ?_)
    | fail_if_no_progress (with_reducible apply Kept.upd)
    | with_reducible assumption
    | intro _
    | split

theorem fwuMark_kept {s0 : State} (s : State) (hk : Kept s0 s) : Kept s0 (fwuMark s) := by
  unfold fwuMark
  try dsimp only
  repeat' first
    | with_reducible exact hk
    | with_reducible apply fwuEnd_kept
    | with_reducible refine Kept.ite (fun _ => ?_) (fun _ => ?_)
    | fail_if_no_progress (with_reducible apply Kept.upd)
    | fail_if_no_progress (with_reducible refine Kept.mknv (h := ?_) (h1 := rfl) (h2 := rfl) (h3 := rfl) ..)
    | split

theorem fwuRun_kept {s0 : State} (cmd : Nat) (s : State) (hk : Kept s0 s) : Kept s0 (fwuRun cmd s) := by
  unfold fwuRun
  try dsimp only
  repeat' first
    | with_reducible exact hk
    | with_reducible apply fwuEnd_kept
    | with_reducible apply setStaged_kept
    | with_reducible apply fwuStageMem_kept
    | with_reducible apply fwuStageRom_kept
    | with_reducible apply fwuActivateRun_kept
    | with_reducible apply fwuMark_kept
    | with_reducible refine Kept.ite (fun _ => ?_) (fun _ => ?_)
    | with_reducible assumption
    | intro _
    | split

theorem fwuWrite_kept {s0 : State} (r : Requester) (cmd : Nat) (s : State) (hk : Kept s0 s) : Kept s0 (fwuWrite r cmd
    s) := by
  unfold fwuWrite
  try dsimp only
  repeat' first
    | with_reducible exact hk
    | with_reducible apply fset_kept
    | with_reducible apply regAccessFault_kept
    | with_reducible apply countDenied_kept
    | with_reducible apply fwuEnd_kept
    | with_reducible apply fwuRun_kept
    | with_reducible refine Kept.ite (fun _ => ?_) (fun _ => ?_)
    | split

/-! Operations of Machine/Attest.lean. -/

theorem putSpdm_kept {s0 : State} (x : SpdmPeer) (s : State) (hk : Kept s0 s) : Kept s0 (putSpdm x s) := by
  unfold putSpdm
  try dsimp only
  repeat' first
    | with_reducible exact hk
    | fail_if_no_progress (with_reducible apply Kept.upd)
    | with_reducible assumption
    | intro _

theorem spdmRoom_kept {s0 : State} (s : State) (hk : Kept s0 s) : Kept s0 (spdmRoom s) := by
  unfold spdmRoom
  try dsimp only
  repeat' first
    | with_reducible exact hk
    | with_reducible refine Kept.ite (fun _ => ?_) (fun _ => ?_)
    | fail_if_no_progress (with_reducible apply Kept.upd)
    | with_reducible assumption
    | intro _
    | split

theorem spdmError_kept {s0 : State} (q : SpdmId) (err : Nat) (s : State) (hk : Kept s0 s) : Kept s0 (spdmError q err
    s) := by
  unfold spdmError
  try dsimp only
  repeat' first
    | with_reducible exact hk
    | with_reducible apply emit_kept

theorem spdmReply_kept {s0 : State} (x : SpdmPeer) (step : Nat) (req : List Byte) (code : Nat) (body : List Byte) (s :
    State) (hk : Kept s0 s) : Kept s0 (spdmReply x step req code body s) := by
  unfold spdmReply
  try dsimp only
  repeat' first
    | with_reducible exact hk
    | with_reducible apply emit_kept
    | with_reducible apply putSpdm_kept
    | fail_if_no_progress (with_reducible apply Kept.upd)

theorem spdmAsk_kept {s0 : State} (q : SpdmId) (need : Nat) (f : SpdmPeer → State → State) (s : State) (Hf : ∀ y0_
    y1_, Kept s0 y1_ → Kept s0 (f y0_ y1_)) (hk : Kept s0 s) : Kept s0 (spdmAsk q need f s) := by
  unfold spdmAsk
  try dsimp only
  repeat' first
    | with_reducible exact hk
    | with_reducible apply putSpdm_kept
    | with_reducible apply spdmError_kept
    | with_reducible apply Hf
    | with_reducible refine Kept.ite (fun _ => ?_) (fun _ => ?_)
    | fail_if_no_progress (with_reducible apply Kept.upd)
    | with_reducible assumption
    | intro _
    | split

theorem getVersionOp_kept {s0 : State} (q : SpdmId) (s : State) (hk : Kept s0 s) : Kept s0 (getVersionOp q s) := by
  unfold getVersionOp
  try dsimp only
  repeat' first
    | with_reducible exact hk
    | with_reducible apply spdmRoom_kept
    | with_reducible apply spdmReply_kept
    | with_reducible refine Kept.ite (fun _ => ?_) (fun _ => ?_)
    | fail_if_no_progress (with_reducible apply Kept.upd)
    | with_reducible assumption
    | intro _
    | split

theorem getCertificateOp_kept {s0 : State} (slot : BitVec 8) (off len : Nat) (x : SpdmPeer) (s : State) (hk : Kept s0
    s) : Kept s0 (getCertificateOp slot off len x s) := by
  unfold getCertificateOp
  try dsimp only
  repeat' first
    | with_reducible exact hk
    | with_reducible apply putSpdm_kept
    | with_reducible apply spdmError_kept
    | with_reducible apply spdmReply_kept
    | with_reducible refine Kept.ite (fun _ => ?_) (fun _ => ?_)
    | fail_if_no_progress (with_reducible apply Kept.upd)
    | split

theorem spdmSigned_kept {s0 : State} (x : SpdmPeer) (req : List Byte) (code : Nat) (body : List Byte) (s : State) (hk
    : Kept s0 s) : Kept s0 (spdmSigned x req code body s) := by
  unfold spdmSigned
  try dsimp only
  repeat' first
    | with_reducible exact hk
    | with_reducible apply bumpFree_kept
    | with_reducible apply spdmReply_kept

theorem measOp_kept {s0 : State} (i : Nat) (sign : Bool) (nonce : List Byte) (x : SpdmPeer) (s : State) (hk : Kept s0
    s) : Kept s0 (measOp i sign nonce x s) := by
  unfold measOp
  try dsimp only
  repeat' first
    | with_reducible exact hk
    | with_reducible apply putSpdm_kept
    | with_reducible apply spdmError_kept
    | with_reducible apply spdmReply_kept
    | with_reducible apply spdmSigned_kept
    | with_reducible refine Kept.ite (fun _ => ?_) (fun _ => ?_)
    | fail_if_no_progress (with_reducible apply Kept.upd)
    | with_reducible assumption
    | intro _
    | split

theorem mctpReply_kept {s0 : State} (code : Nat) (cc : Byte) (body : List Byte) (s : State) (hk : Kept s0 s) : Kept s0
    (mctpReply code cc body s) := by
  unfold mctpReply
  try dsimp only
  repeat' first
    | with_reducible exact hk
    | with_reducible apply emit_kept

theorem setEidOp_kept {s0 : State} (eid : BitVec 8) (overI3c : Bool) (s : State) (hk : Kept s0 s) : Kept s0 (setEidOp
    eid overI3c s) := by
  unfold setEidOp
  try dsimp only
  repeat' first
    | with_reducible exact hk
    | with_reducible apply fset_kept
    | with_reducible apply mctpReply_kept
    | with_reducible refine Kept.ite (fun _ => ?_) (fun _ => ?_)
    | split

/-! Operations of Machine/Pldm.lean. -/

theorem pldmReply_kept {s0 : State} (ty cmd cc : Nat) (body : List Byte) (s : State) (hk : Kept s0 s) : Kept s0
    (pldmReply ty cmd cc body s) := by
  unfold pldmReply
  try dsimp only
  repeat' first
    | with_reducible exact hk
    | with_reducible apply emit_kept

theorem pldmGate_kept {s0 : State} (f : State → State) (s : State) (Hf : ∀ y0_, Kept s0 y0_ → Kept s0 (f y0_)) (hk :
    Kept s0 s) : Kept s0 (pldmGate f s) := by
  unfold pldmGate
  try dsimp only
  repeat' first
    | with_reducible exact hk
    | with_reducible apply Hf
    | with_reducible refine Kept.ite (fun _ => ?_) (fun _ => ?_)
    | split

theorem setUpd_kept {s0 : State} (u : Option PldmUpd) (s : State) (hk : Kept s0 s) : Kept s0 (setUpd u s) := by
  unfold setUpd
  try dsimp only
  repeat' first
    | with_reducible exact hk
    | fail_if_no_progress (with_reducible apply Kept.upd)

theorem requestUpdateOp_kept {s0 : State} (q : SpdmId) (s : State) (hk : Kept s0 s) : Kept s0 (requestUpdateOp q s) :=
    by
  unfold requestUpdateOp
  try dsimp only
  repeat' first
    | with_reducible exact hk
    | with_reducible apply pldmReply_kept
    | with_reducible apply setUpd_kept
    | with_reducible refine Kept.ite (fun _ => ?_) (fun _ => ?_)
    | split

theorem inUpdate_kept {s0 : State} (q : SpdmId) (cmd : Nat) (ok : PldmUpd → Bool) (f : PldmUpd → State → State) (s :
    State) (Hf : ∀ y0_ y1_, Kept s0 y1_ → Kept s0 (f y0_ y1_)) (hk : Kept s0 s) : Kept s0 (inUpdate q cmd ok f s) :=
    by
  unfold inUpdate
  try dsimp only
  repeat' first
    | with_reducible exact hk
    | with_reducible apply pldmReply_kept
    | with_reducible apply pldmGate_kept
    | with_reducible apply setUpd_kept
    | with_reducible apply Hf
    | with_reducible refine Kept.ite (fun _ => ?_) (fun _ => ?_)
    | fail_if_no_progress (with_reducible apply Kept.upd)
    | with_reducible assumption
    | intro _
    | split

theorem updateComponentOp_kept {s0 : State} (size : Nat) (u : PldmUpd) (s : State) (hk : Kept s0 s) : Kept s0
    (updateComponentOp size u s) := by
  unfold updateComponentOp
  try dsimp only
  repeat' first
    | with_reducible exact hk
    | with_reducible apply noteBank_kept
    | with_reducible apply setStaged_kept
    | with_reducible apply eraseBank_kept
    | with_reducible apply pldmReply_kept
    | with_reducible apply setUpd_kept
    | with_reducible refine Kept.ite (fun _ => ?_) (fun _ => ?_)
    | fail_if_no_progress (with_reducible apply Kept.upd)
    | fail_if_no_progress (with_reducible refine Kept.mknv (h := ?_) (h1 := rfl) (h2 := rfl) (h3 := rfl) ..)
    | split

theorem takePiece_kept {s0 : State} (u : PldmUpd) (data : List Byte) (s : State) (hk : Kept s0 s) : Kept s0 (takePiece
    u data s) := by
  unfold takePiece
  try dsimp only
  repeat' first
    | with_reducible exact hk
    | with_reducible apply putBank_kept
    | with_reducible apply setUpd_kept
    | with_reducible refine Kept.ite (fun _ => ?_) (fun _ => ?_)
    | fail_if_no_progress (with_reducible apply Kept.upd)
    | split

theorem leaveUpdate_kept {s0 : State} (s : State) (hk : Kept s0 s) : Kept s0 (leaveUpdate s) := by
  unfold leaveUpdate
  try dsimp only
  repeat' first
    | with_reducible exact hk
    | with_reducible apply noteBank_kept
    | with_reducible apply setStaged_kept
    | with_reducible apply setUpd_kept

/-! Operations of Machine/Access.lean. -/

theorem latchTime_kept {s0 : State} (r : Requester) (s : State) (hk : Kept s0 s) : Kept s0 (latchTime r s) := by
  unfold latchTime
  try dsimp only
  repeat' first
    | with_reducible exact hk
    | with_reducible apply setLatch_kept

theorem clearRc_kept {s0 : State} (off : Nat) (s : State) (hk : Kept s0 s) : Kept s0 (clearRc off s) := by
  unfold clearRc
  try dsimp only
  repeat' first
    | with_reducible exact hk
    | with_reducible apply regSet_kept
    | with_reducible apply forAll_kept
    | with_reducible assumption
    | intro _
    | split

theorem peakAgain_kept {s0 : State} (base o : Nat) (s : State) (hk : Kept s0 s) : Kept s0 (peakAgain base o s) := by
  unfold peakAgain
  try dsimp only
  repeat' first
    | with_reducible exact hk
    | with_reducible apply fset_kept
    | with_reducible refine Kept.ite (fun _ => ?_) (fun _ => ?_)
    | split

theorem readEffect_kept {s0 : State} (r : Requester) (b : Blk) (base o : Nat) (s : State) (hk : Kept s0 s) : Kept s0
    (readEffect r b base o s) := by
  unfold readEffect
  try dsimp only
  repeat' first
    | with_reducible exact hk
    | with_reducible apply setSRing_kept
    | with_reducible apply latchTime_kept
    | with_reducible apply clearRc_kept
    | with_reducible apply peakAgain_kept
    | with_reducible refine Kept.ite (fun _ => ?_) (fun _ => ?_)
    | fail_if_no_progress (with_reducible apply Kept.upd)
    | split

theorem readWord_kept {s0 : State} (r : Requester) (off : Nat) (s : State) (hk : Kept s0 s) : Kept s0 (readWord r off
    s).2.2 := by
  unfold readWord
  try dsimp only
  repeat' first
    | with_reducible exact hk
    | with_reducible apply countDenied_kept
    | with_reducible apply ctrRead_kept
    | with_reducible apply readEffect_kept
    | with_reducible refine Kept.ite (fun _ => ?_) (fun _ => ?_)
    | with_reducible refine Kept.pr2 (by assumption) ?_
    | with_reducible refine Kept.pr1 (by assumption) ?_
    | with_reducible refine Kept.pr3 (by assumption) ?_
    | with_reducible assumption
    | intro _
    | split

theorem readReg_kept {s0 : State} (r : Requester) (off size : Nat) (s : State) (hk : Kept s0 s) : Kept s0 (readReg r
    off size s).2.2 := by
  unfold readReg
  try dsimp only
  repeat' first
    | with_reducible exact hk
    | with_reducible apply regAccessFault_kept
    | with_reducible apply readWord_kept
    | with_reducible refine Kept.ite (fun _ => ?_) (fun _ => ?_)
    | split

theorem writePlain_kept {s0 : State} (off : Nat) (v : Word) (s : State) (hk : Kept s0 s) : Kept s0 (writePlain off v
    s) := by
  unfold writePlain
  try dsimp only
  repeat' first
    | with_reducible exact hk
    | with_reducible apply regSet_kept
    | with_reducible assumption
    | intro _
    | split

theorem writeMode_kept {s0 : State} (off : Nat) (v : Word) (s : State) (hk : Kept s0 s) : Kept s0 (writeMode off v s)
    := by
  unfold writeMode
  try dsimp only
  repeat' first
    | with_reducible exact hk
    | with_reducible apply regSet_kept
    | with_reducible apply writePlain_kept
    | with_reducible refine Kept.ite (fun _ => ?_) (fun _ => ?_)
    | split

theorem writeEngCfg_kept {s0 : State} (base : Nat) (v : Word) (s : State) (hk : Kept s0 s) : Kept s0 (writeEngCfg base
    v s) := by
  unfold writeEngCfg
  try dsimp only
  repeat' first
    | with_reducible exact hk
    | with_reducible apply clearRegs_kept
    | with_reducible apply writeMode_kept
    | with_reducible refine Kept.ite (fun _ => ?_) (fun _ => ?_)
    | split

theorem writeSample_kept {s0 : State} (base o : Nat) (v : Word) (s : State) (hk : Kept s0 s) : Kept s0 (writeSample
    base o v s) := by
  unfold writeSample
  try dsimp only
  repeat' first
    | with_reducible exact hk
    | with_reducible apply fset_kept
    | with_reducible apply modCore_kept
    | with_reducible apply drawGap_kept
    | with_reducible apply writePlain_kept
    | with_reducible refine Kept.ite (fun _ => ?_) (fun _ => ?_)
    | fail_if_no_progress (with_reducible apply Kept.upd)
    | with_reducible assumption
    | intro _
    | split

theorem writeResetCtl_kept {s0 : State} (r : Requester) (v : Nat) (s : State) (hk : Kept s0 s) : Kept s0
    (writeResetCtl r v s) := by
  unfold writeResetCtl
  try dsimp only
  repeat' first
    | with_reducible exact hk
    | with_reducible apply regAccessFault_kept
    | with_reducible apply resetRequest_kept
    | with_reducible apply packageRequest_kept
    | with_reducible refine Kept.ite (fun _ => ?_) (fun _ => ?_)
    | split

theorem writeCapture_kept {s0 : State} (r : Requester) (c v : Nat) (s : State) (hk : Kept s0 s) : Kept s0
    (writeCapture r c v s) := by
  unfold writeCapture
  try dsimp only
  repeat' first
    | with_reducible exact hk
    | with_reducible apply fset_kept
    | with_reducible apply regAccessFault_kept
    | with_reducible apply captureOp_kept
    | with_reducible apply resumeOp_kept
    | with_reducible assumption
    | intro _
    | split

theorem writeQctl_kept {s0 : State} (r : Requester) (v : Nat) (s : State) (hk : Kept s0 s) : Kept s0 (writeQctl r v s)
    := by
  unfold writeQctl
  try dsimp only
  repeat' first
    | with_reducible exact hk
    | with_reducible apply fset_kept
    | with_reducible apply invalidateOp_kept
    | with_reducible apply drainOp_kept
    | with_reducible apply resetQueueOp_kept
    | with_reducible apply qctlGate_kept
    | with_reducible assumption
    | intro _
    | split

theorem writeRamp_kept {s0 : State} (r : Requester) (o : Nat) (v : Word) (s : State) (hk : Kept s0 s) : Kept s0
    (writeRamp r o v s) := by
  unfold writeRamp
  try dsimp only
  repeat' first
    | with_reducible exact hk
    | with_reducible apply regAccessFault_kept
    | with_reducible apply countDenied_kept
    | with_reducible apply setRamp_kept
    | with_reducible apply rampArmOp_kept
    | with_reducible apply rampDisarmOp_kept
    | with_reducible refine Kept.ite (fun _ => ?_) (fun _ => ?_)
    | fail_if_no_progress (with_reducible apply Kept.upd)
    | with_reducible assumption
    | intro _
    | split

theorem writeSnapCtl_kept {s0 : State} (r : Requester) (v : Nat) (s : State) (hk : Kept s0 s) : Kept s0 (writeSnapCtl
    r v s) := by
  unfold writeSnapCtl
  try dsimp only
  repeat' first
    | with_reducible exact hk
    | with_reducible apply fset_kept
    | with_reducible apply regAccessFault_kept
    | with_reducible apply snapArmOp_kept
    | with_reducible apply snapDisarmOp_kept
    | with_reducible refine Kept.ite (fun _ => ?_) (fun _ => ?_)
    | with_reducible assumption
    | intro _
    | split

theorem writeSring_kept {s0 : State} (r : Requester) (o : Nat) (v : Word) (s : State) (hk : Kept s0 s) : Kept s0
    (writeSring r o v s) := by
  unfold writeSring
  try dsimp only
  repeat' first
    | with_reducible exact hk
    | with_reducible apply countDenied_kept
    | with_reducible apply setSRing_kept
    | with_reducible refine Kept.ite (fun _ => ?_) (fun _ => ?_)
    | fail_if_no_progress (with_reducible apply Kept.upd)
    | with_reducible assumption
    | intro _
    | split

theorem writeSec_kept {s0 : State} (r : Requester) (o : Nat) (v : Word) (s : State) (hk : Kept s0 s) : Kept s0
    (writeSec r o v s) := by
  unfold writeSec
  try dsimp only
  repeat' first
    | with_reducible exact hk
    | with_reducible apply setLatch_kept
    | with_reducible apply secWrite_kept
    | with_reducible apply writePlain_kept
    | with_reducible refine Kept.ite (fun _ => ?_) (fun _ => ?_)
    | with_reducible assumption
    | intro _
    | split

theorem writeRbuf_kept {s0 : State} (o : Nat) (v : Word) (s : State) (hk : Kept s0 s) : Kept s0 (writeRbuf o v s) :=
    by
  unfold writeRbuf
  try dsimp only
  repeat' first
    | with_reducible exact hk
    | fail_if_no_progress (with_reducible apply Kept.upd)

theorem writeBlk_kept {s0 : State} (r : Requester) (b : Blk) (base o : Nat) (v : Word) (s : State) (hk : Kept s0 s) :
    Kept s0 (writeBlk r b base o v s) := by
  unfold writeBlk
  try dsimp only
  repeat' first
    | with_reducible exact hk
    | with_reducible apply countDenied_kept
    | with_reducible apply doorbellOp_kept
    | with_reducible apply cctlOp_kept
    | with_reducible apply rungTargetOp_kept
    | with_reducible apply coolClearOp_kept
    | with_reducible apply errNClear_kept
    | with_reducible apply cabWrite_kept
    | with_reducible apply crawlOp_kept
    | with_reducible apply fwuWrite_kept
    | with_reducible apply writePlain_kept
    | with_reducible apply writeMode_kept
    | with_reducible apply writeEngCfg_kept
    | with_reducible apply writeSample_kept
    | with_reducible apply writeResetCtl_kept
    | with_reducible apply writeCapture_kept
    | with_reducible apply writeQctl_kept
    | with_reducible apply writeRamp_kept
    | with_reducible apply writeSnapCtl_kept
    | with_reducible apply writeSring_kept
    | with_reducible apply writeSec_kept
    | with_reducible apply writeRbuf_kept
    | with_reducible refine Kept.ite (fun _ => ?_) (fun _ => ?_)
    | with_reducible assumption
    | intro _
    | split

theorem writeWord_kept {s0 : State} (r : Requester) (off : Nat) (v : Word) (s : State) (hk : Kept s0 s) : Kept s0
    (writeWord r off v s).2 := by
  unfold writeWord
  try dsimp only
  repeat' first
    | with_reducible exact hk
    | with_reducible apply countDenied_kept
    | with_reducible apply writeBlk_kept
    | with_reducible refine Kept.ite (fun _ => ?_) (fun _ => ?_)
    | with_reducible refine Kept.pr2 (by assumption) ?_
    | with_reducible refine Kept.pr1 (by assumption) ?_
    | with_reducible refine Kept.pr3 (by assumption) ?_
    | with_reducible assumption
    | intro _
    | split

theorem writeReg_kept {s0 : State} (r : Requester) (off size : Nat) (v : Word) (s : State) (hk : Kept s0 s) : Kept s0
    (writeReg r off size v s).2 := by
  unfold writeReg
  try dsimp only
  repeat' first
    | with_reducible exact hk
    | with_reducible apply regAccessFault_kept
    | with_reducible apply writeWord_kept
    | with_reducible refine Kept.ite (fun _ => ?_) (fun _ => ?_)
    | split

theorem setEvents_kept {s0 : State} (off : Nat) (sets : Word) (s : State) (hk : Kept s0 s) : Kept s0 (setEvents off
    sets s) := by
  unfold setEvents
  try dsimp only
  repeat' first
    | with_reducible exact hk
    | with_reducible apply evt_kept
    | with_reducible apply forAll_kept
    | with_reducible refine Kept.pr2 (by assumption) ?_
    | with_reducible refine Kept.pr1 (by assumption) ?_
    | with_reducible refine Kept.pr3 (by assumption) ?_
    | with_reducible assumption
    | intro _
    | split

theorem countEvents_kept {s0 : State} (off lo n : Nat) (s : State) (hk : Kept s0 s) : Kept s0 (countEvents off lo n s)
    := by
  unfold countEvents
  try dsimp only
  repeat' first
    | with_reducible exact hk
    | with_reducible apply faddSat_kept
    | with_reducible apply evt_kept
    | with_reducible apply forAll_kept
    | with_reducible apply setSRing_kept
    | with_reducible refine Kept.ite (fun _ => ?_) (fun _ => ?_)
    | fail_if_no_progress (with_reducible apply Kept.upd)
    | with_reducible refine Kept.pr2 (by assumption) ?_
    | with_reducible refine Kept.pr1 (by assumption) ?_
    | with_reducible refine Kept.pr3 (by assumption) ?_
    | with_reducible assumption
    | intro _
    | split

/-! Operations of Machine/Hostlink.lean. -/

theorem linkDown_kept {s0 : State} (s : State) (hk : Kept s0 s) : Kept s0 (linkDown s) := by
  unfold linkDown
  try dsimp only
  repeat' first
    | with_reducible exact hk
    | with_reducible apply regSet_kept

theorem perstOp_kept {s0 : State} (level : Bool) (ns : Nat) (s : State) (hk : Kept s0 s) : Kept s0 (perstOp level ns
    s) := by
  unfold perstOp
  try dsimp only
  repeat' first
    | with_reducible exact hk
    | with_reducible apply regSet_kept
    | with_reducible apply forAll_kept
    | with_reducible apply linkDown_kept
    | with_reducible refine Kept.ite (fun _ => ?_) (fun _ => ?_)
    | fail_if_no_progress (with_reducible apply Kept.upd)
    | with_reducible assumption
    | intro _
    | split

theorem linkTrainOp_kept {s0 : State} (speed width : Nat) (s : State) (hk : Kept s0 s) : Kept s0 (linkTrainOp speed
    width s) := by
  unfold linkTrainOp
  try dsimp only
  repeat' first
    | with_reducible exact hk
    | with_reducible apply fset_kept
    | with_reducible apply linkDown_kept
    | with_reducible refine Kept.ite (fun _ => ?_) (fun _ => ?_)
    | fail_if_no_progress (with_reducible apply Kept.upd)
    | split

theorem bar2Write_kept {s0 : State} (f : Fin 5) (a : Nat) (data : List Byte) (s : State) (hk : Kept s0 s) : Kept s0
    (bar2Write f a data s) := by
  unfold bar2Write
  try dsimp only
  repeat' first
    | with_reducible exact hk
    | with_reducible apply countDenied_kept
    | with_reducible apply memWrite_kept
    | with_reducible refine Kept.ite (fun _ => ?_) (fun _ => ?_)
    | split

theorem barWriteOp_kept {s0 : State} (f : Fin 5) (bar2 : Bool) (a : Nat) (data : List Byte) (s : State) (hk : Kept s0
    s) : Kept s0 (barWriteOp f bar2 a data s) := by
  unfold barWriteOp
  try dsimp only
  repeat' first
    | with_reducible exact hk
    | with_reducible apply writeReg_kept
    | with_reducible apply bar2Write_kept
    | with_reducible refine Kept.ite (fun _ => ?_) (fun _ => ?_)
    | split

theorem bar2Read_kept {s0 : State} (f : Fin 5) (a n : Nat) (s : State) (hk : Kept s0 s) : Kept s0 (bar2Read f a n s)
    := by
  unfold bar2Read
  try dsimp only
  repeat' first
    | with_reducible exact hk
    | with_reducible apply emit_kept
    | with_reducible apply countDenied_kept
    | with_reducible apply readAll_kept
    | with_reducible refine Kept.ite (fun _ => ?_) (fun _ => ?_)
    | split

theorem barReadOp_kept {s0 : State} (f : Fin 5) (bar2 : Bool) (a n : Nat) (s : State) (hk : Kept s0 s) : Kept s0
    (barReadOp f bar2 a n s) := by
  unfold barReadOp
  try dsimp only
  repeat' first
    | with_reducible exact hk
    | with_reducible apply emit_kept
    | with_reducible apply readReg_kept
    | with_reducible apply bar2Read_kept
    | with_reducible refine Kept.ite (fun _ => ?_) (fun _ => ?_)
    | split

theorem orphanSec_kept {s0 : State} (f : Nat) (s : State) (hk : Kept s0 s) : Kept s0 (orphanSec f s) := by
  unfold orphanSec
  try dsimp only
  repeat' first
    | with_reducible exact hk
    | with_reducible refine Kept.ite (fun _ => ?_) (fun _ => ?_)
    | fail_if_no_progress (with_reducible apply Kept.upd)
    | with_reducible assumption
    | intro _
    | split

theorem flrOp_kept {s0 : State} (f : Nat) (s : State) (hk : Kept s0 s) : Kept s0 (flrOp f s) := by
  unfold flrOp
  try dsimp only
  repeat' first
    | with_reducible exact hk
    | with_reducible apply regSet_kept
    | with_reducible apply orphanSec_kept
    | fail_if_no_progress (with_reducible apply Kept.upd)
    | with_reducible assumption
    | intro _

theorem unmaskOp_kept {s0 : State} (f v : Nat) (s : State) (hk : Kept s0 s) : Kept s0 (unmaskOp f v s) := by
  unfold unmaskOp
  try dsimp only
  repeat' first
    | with_reducible exact hk
    | with_reducible apply emit_kept
    | with_reducible refine Kept.ite (fun _ => ?_) (fun _ => ?_)
    | fail_if_no_progress (with_reducible apply Kept.upd)
    | with_reducible assumption
    | intro _
    | split

/-! Operations of Machine/Matrix.lean. -/

theorem mxBankSet_kept {s0 : State} (c e : Nat) (accs : List Nat) (s : State) (hk : Kept s0 s) : Kept s0 (mxBankSet c
    e accs s) := by
  unfold mxBankSet
  try dsimp only
  repeat' first
    | with_reducible exact hk
    | with_reducible apply modCore_kept
    | fail_if_no_progress (with_reducible apply Kept.upd)
    | with_reducible assumption
    | intro _

theorem mxRun_kept {s0 : State} (c e : Nat) (i : EngInstr) (s : State) (hk : Kept s0 s) : Kept s0 (mxRun c e i s).1 :=
    by
  unfold mxRun
  try dsimp only
  repeat' first
    | with_reducible exact hk
    | with_reducible apply raiseFlags_kept
    | with_reducible apply readRanges_kept
    | with_reducible apply engWrites_kept
    | with_reducible apply mxBankSet_kept
    | with_reducible refine Kept.ite (fun _ => ?_) (fun _ => ?_)
    | with_reducible assumption
    | intro _
    | split

/-! Operations of Machine/Mgmt.lean. -/

theorem startPorts_kept {s0 : State} (s : State) (hk : Kept s0 s) : Kept s0 (startPorts s) := by
  unfold startPorts
  try dsimp only
  repeat' first
    | with_reducible exact hk
    | with_reducible apply forAll_kept
    | with_reducible apply mapOut_kept
    | with_reducible apply startTraining_kept
    | with_reducible apply portsMoved_kept
    | with_reducible refine Kept.ite (fun _ => ?_) (fun _ => ?_)
    | with_reducible assumption
    | intro _
    | split

theorem takeLocation_kept {s0 : State} (rack tray socket : Nat) (ipA ipB : Word) (s : State) (hk : Kept s0 s) : Kept
    s0 (takeLocation rack tray socket ipA ipB s) := by
  unfold takeLocation
  try dsimp only
  repeat' first
    | with_reducible exact hk
    | with_reducible apply regSet_kept
    | with_reducible apply fset_kept
    | with_reducible apply gzRegister_kept
    | with_reducible apply startPorts_kept
    | with_reducible refine Kept.ite (fun _ => ?_) (fun _ => ?_)
    | split

theorem locationOp_kept {s0 : State} (rack tray socket : Nat) (ipA ipB : Word) (s : State) (hk : Kept s0 s) : Kept s0
    (locationOp rack tray socket ipA ipB s).2 := by
  unfold locationOp
  try dsimp only
  repeat' first
    | with_reducible exact hk
    | with_reducible apply takeLocation_kept
    | with_reducible refine Kept.ite (fun _ => ?_) (fun _ => ?_)
    | split

theorem answer_kept {s0 : State} (cls code : Nat) (x : MgmtReply × State) (hk : Kept s0 x.2) : Kept s0 (answer cls
    code x) := by
  unfold answer; exact emit_kept _ _ hk

theorem rackRungOp_kept {s0 : State} (r : Requester) (k : Nat) (s : State) (hk : Kept s0 s) : Kept s0 (rackRungOp r k
    s).2 := by
  unfold rackRungOp
  try dsimp only
  repeat' first
    | with_reducible exact hk
    | with_reducible apply rungTargetOp_kept
    | with_reducible refine Kept.ite (fun _ => ?_) (fun _ => ?_)
    | split

theorem eventOp_kept {s0 : State} (s : State) (hk : Kept s0 s) : Kept s0 (eventOp s) := by
  unfold eventOp
  try dsimp only
  repeat' first
    | with_reducible exact hk
    | with_reducible apply emit_kept
    | with_reducible refine Kept.ite (fun _ => ?_) (fun _ => ?_)
    | fail_if_no_progress (with_reducible apply Kept.upd)
    | with_reducible assumption
    | intro _
    | split

theorem readWords_kept {s0 : State} (r : Requester) (n off i : Nat) (l : List Byte) (s : State) (hk : Kept s0 s) :
    Kept s0 (readWords r n off i l s).2 := by
  induction n generalizing off i l s with
  | zero => exact hk
  | succ n ih =>
    have h := readReg_kept r off 4 s hk
    unfold readWords; dsimp only
    split
    · exact ih _ _ _ _ h
    · exact h

theorem regReadOp_kept {s0 : State} (r : Requester) (off n : Nat) (s : State) (hk : Kept s0 s) : Kept s0 (regReadOp r
    off n s).2 := by
  unfold regReadOp
  try dsimp only
  repeat' first
    | with_reducible exact hk
    | with_reducible apply readWords_kept
    | with_reducible refine Kept.ite (fun _ => ?_) (fun _ => ?_)
    | split

theorem writeWords_kept {s0 : State} (r : Requester) (l : List Word) (off i : Nat) (s : State) (hk : Kept s0 s) :
    Kept s0 (writeWords r l off i s).2 := by
  induction l generalizing off i s with
  | nil => exact hk
  | cons w l ih =>
    have h := writeReg_kept r off 4 w s hk
    unfold writeWords; dsimp only
    split
    · exact h
    · split
      · exact h
      · exact ih _ _ _ h

theorem regWriteOp_kept {s0 : State} (r : Requester) (off : Nat) (l : List Word) (s : State) (hk : Kept s0 s) : Kept
    s0 (regWriteOp r off l s).2 := by
  unfold regWriteOp
  try dsimp only
  repeat' first
    | with_reducible exact hk
    | with_reducible apply writeWords_kept
    | with_reducible refine Kept.ite (fun _ => ?_) (fun _ => ?_)
    | split

theorem memWriteOp_kept {s0 : State} (r : Requester) (a : Nat) (data : List Byte) (s : State) (hk : Kept s0 s) : Kept
    s0 (memWriteOp r a data s).2 := by
  unfold memWriteOp
  try dsimp only
  repeat' first
    | with_reducible exact hk
    | with_reducible apply memWrite_kept
    | with_reducible refine Kept.ite (fun _ => ?_) (fun _ => ?_)
    | split

theorem memReadOp_kept {s0 : State} (r : Requester) (a n : Nat) (s : State) (hk : Kept s0 s) : Kept s0 (memReadOp r a
    n s).2 := by
  unfold memReadOp
  try dsimp only
  repeat' first
    | with_reducible exact hk
    | with_reducible apply readAll_kept
    | with_reducible refine Kept.ite (fun _ => ?_) (fun _ => ?_)
    | split

theorem answerPort_kept {s0 : State} (code : Nat) (x : MgmtReply × State) (hk : Kept s0 x.2) : Kept s0 (answerPort
    code x) := by
  unfold answerPort; split; exact hk; exact answer_kept _ _ _ hk

theorem handleMsg_kept {s0 : State} (m : MgmtMsg) (s : State) (hk : Kept s0 s) : Kept s0 (handleMsg m s).2 := by
  unfold handleMsg
  try dsimp only
  repeat' first
    | with_reducible exact hk
    | with_reducible apply capReply_kept
    | with_reducible apply heartbeatOp_kept
    | with_reducible apply coolingOp_kept
    | with_reducible apply gzTake_kept
    | with_reducible apply locationOp_kept
    | with_reducible apply rackRungOp_kept
    | with_reducible apply regReadOp_kept
    | with_reducible apply regWriteOp_kept
    | with_reducible apply memWriteOp_kept
    | with_reducible apply memReadOp_kept
    | with_reducible refine Kept.ite (fun _ => ?_) (fun _ => ?_)
    | with_reducible assumption
    | intro _
    | split

theorem sendFrame_kept {s0 : State} (m : MgmtMsg) (r : MgmtReply) (s : State) (hk : Kept s0 s) : Kept s0 (sendFrame m
    r s) := by
  unfold sendFrame
  try dsimp only
  repeat' first
    | with_reducible exact hk
    | with_reducible apply emit_kept

theorem sendReply_kept {s0 : State} (m : MgmtMsg) (r : MgmtReply) (s : State) (hk : Kept s0 s) : Kept s0 (sendReply m
    r s) := by
  unfold sendReply
  try dsimp only
  repeat' first
    | with_reducible exact hk
    | with_reducible apply sendFrame_kept
    | with_reducible refine Kept.ite (fun _ => ?_) (fun _ => ?_)
    | split

theorem acceptMsg_kept {s0 : State} (m : MgmtMsg) (s : State) (hk : Kept s0 s) : Kept s0 (acceptMsg m s) := by
  unfold acceptMsg
  try dsimp only
  repeat' first
    | with_reducible exact hk
    | with_reducible apply handleMsg_kept
    | with_reducible apply sendReply_kept
    | with_reducible refine Kept.ite (fun _ => ?_) (fun _ => ?_)
    | fail_if_no_progress (with_reducible apply Kept.upd)
    | with_reducible assumption
    | intro _
    | split

theorem freshMsg_kept {s0 : State} (m : MgmtMsg) (s : State) (hk : Kept s0 s) : Kept s0 (freshMsg m s) := by
  unfold freshMsg
  try dsimp only
  repeat' first
    | with_reducible exact hk
    | with_reducible apply faddSat_kept
    | with_reducible apply sendFrame_kept
    | with_reducible apply sendReply_kept
    | with_reducible apply acceptMsg_kept
    | with_reducible refine Kept.ite (fun _ => ?_) (fun _ => ?_)
    | with_reducible assumption
    | intro _
    | split

theorem checkMsg_kept {s0 : State} (m : MgmtMsg) (s : State) (hk : Kept s0 s) : Kept s0 (checkMsg m s) := by
  unfold checkMsg
  try dsimp only
  repeat' first
    | with_reducible exact hk
    | with_reducible apply faddSat_kept
    | with_reducible apply gzTake_kept
    | with_reducible apply sendFrame_kept
    | with_reducible apply freshMsg_kept
    | with_reducible refine Kept.ite (fun _ => ?_) (fun _ => ?_)
    | split

theorem messageOp_kept {s0 : State} (m : MgmtMsg) (s : State) (hk : Kept s0 s) : Kept s0 (messageOp m s) := by
  unfold messageOp
  try dsimp only
  repeat' first
    | with_reducible exact hk
    | with_reducible apply checkMsg_kept
    | with_reducible refine Kept.ite (fun _ => ?_) (fun _ => ?_)
    | split

theorem whileRun_kept {s0 : State} (code : Nat) (f : State → MgmtReply × State) (s : State) (Hf : ∀ y0_, Kept s0 y0_ →
    Kept s0 (f y0_).2) (hk : Kept s0 s) : Kept s0 (whileRun code f s) := by
  unfold whileRun
  try dsimp only
  repeat' first
    | with_reducible exact hk
    | with_reducible apply answer_kept
    | with_reducible apply Hf
    | with_reducible refine Kept.ite (fun _ => ?_) (fun _ => ?_)
    | split

theorem onPort_kept {s0 : State} (r : MgPort) (code : Nat) (f : State → MgmtReply × State) (s : State) (Hf : ∀ y0_,
    Kept s0 y0_ → Kept s0 (f y0_).2) (hk : Kept s0 s) : Kept s0 (onPort r code f s) := by
  unfold onPort
  try dsimp only
  repeat' first
    | with_reducible exact hk
    | with_reducible apply answerPort_kept
    | with_reducible apply Hf
    | with_reducible refine Kept.ite (fun _ => ?_) (fun _ => ?_)
    | split

theorem mgHandle_kept {s0 : State} (x : MgmtIn) (s : State) (hk : Kept s0 s) : Kept s0 (mgHandle x s) := by
  unfold mgHandle
  try dsimp only
  repeat' first
    | with_reducible exact hk
    | with_reducible apply memWrite_kept
    | with_reducible apply capReply_kept
    | with_reducible apply heartbeatOp_kept
    | with_reducible apply coolingOp_kept
    | with_reducible apply locationOp_kept
    | with_reducible apply answer_kept
    | with_reducible apply rackRungOp_kept
    | with_reducible apply regReadOp_kept
    | with_reducible apply regWriteOp_kept
    | with_reducible apply memWriteOp_kept
    | with_reducible apply memReadOp_kept
    | with_reducible apply messageOp_kept
    | with_reducible apply whileRun_kept
    | with_reducible apply onPort_kept
    | with_reducible refine Kept.ite (fun _ => ?_) (fun _ => ?_)
    | with_reducible assumption
    | intro _
    | split

theorem mgTake_kept {s0 : State} (x : MgmtIn) (s : State) (hk : Kept s0 s) : Kept s0 (mgTake x s) := by
  unfold mgTake
  try dsimp only
  repeat' first
    | with_reducible exact hk
    | with_reducible apply mgHandle_kept
    | with_reducible refine Kept.ite (fun _ => ?_) (fun _ => ?_)
    | fail_if_no_progress (with_reducible apply Kept.upd)
    | split

theorem msgsResume_kept {s0 : State} (s : State) (hk : Kept s0 s) : Kept s0 (msgsResume s) := by
  unfold msgsResume
  try dsimp only
  repeat' first
    | with_reducible exact hk
    | with_reducible apply forAll_kept
    | with_reducible apply mgTake_kept
    | fail_if_no_progress (with_reducible apply Kept.upd)
    | with_reducible assumption
    | intro _

/-! Operations of Machine/Resume.lean. -/

theorem mgmtResume_kept {s0 : State} (s : State) (hk : Kept s0 s) : Kept s0 (mgmtResume s) := by
  unfold mgmtResume
  try dsimp only
  repeat' first
    | with_reducible exact hk
    | with_reducible apply fset_kept
    | with_reducible apply fabResume_kept
    | with_reducible apply colResume_kept
    | with_reducible apply resumeResets_kept
    | with_reducible apply cabResume_kept
    | with_reducible apply sumpStep_kept
    | with_reducible apply gzGoOn_kept
    | with_reducible apply secResume_kept
    | with_reducible apply pauseNotice_kept
    | with_reducible apply msgsResume_kept
    | with_reducible refine Kept.ite (fun _ => ?_) (fun _ => ?_)
    | fail_if_no_progress (with_reducible apply Kept.upd)
    | split

theorem setAct_kept {s0 : State} (a : Option FwAct) (s : State) (hk : Kept s0 s) : Kept s0 (setAct a s) := by
  unfold setAct
  try dsimp only
  repeat' first
    | with_reducible exact hk
    | fail_if_no_progress (with_reducible apply Kept.upd)

theorem activationDone_kept {s0 : State} (s : State) (hk : Kept s0 s) : Kept s0 (activationDone s) := by
  unfold activationDone
  try dsimp only
  repeat' first
    | with_reducible exact hk
    | with_reducible apply forAll_kept
    | with_reducible apply eraseKeysOf_kept
    | with_reducible apply beginReset_kept
    | with_reducible apply fwuEnd_kept
    | with_reducible apply setAct_kept
    | with_reducible refine Kept.ite (fun _ => ?_) (fun _ => ?_)
    | fail_if_no_progress (with_reducible apply Kept.upd)
    | fail_if_no_progress (with_reducible refine Kept.mknv (h := ?_) (h1 := rfl) (h2 := rfl) (h3 := rfl) ..)
    | with_reducible assumption
    | intro _
    | split

theorem activationUndone_kept {s0 : State} (a : FwAct) (s : State) (hk : Kept s0 s) : Kept s0 (activationUndone a s)
    := by
  unfold activationUndone
  try dsimp only
  repeat' first
    | with_reducible exact hk
    | with_reducible apply fwuEnd_kept
    | with_reducible apply setAct_kept

theorem loadMicro_kept {s0 : State} (s : State) (hk : Kept s0 s) : Kept s0 (loadMicro s) := by
  unfold loadMicro
  try dsimp only
  repeat' first
    | with_reducible exact hk
    | with_reducible apply beginReset_kept
    | with_reducible refine Kept.ite (fun _ => ?_) (fun _ => ?_)
    | with_reducible assumption
    | intro _
    | split

theorem noteDefaults_kept {s0 : State} (res : HubRestartIn) (s : State) (hk : Kept s0 s) : Kept s0 (noteDefaults res
    s) := by
  unfold noteDefaults
  try dsimp only
  repeat' first
    | with_reducible exact hk
    | with_reducible apply evt_kept
    | with_reducible refine Kept.ite (fun _ => ?_) (fun _ => ?_)
    | split

theorem restartDone_kept {s0 : State} (res : HubRestartIn) (a : FwAct) (s : State) (hk : Kept s0 s) : Kept s0
    (restartDone res a s) := by
  unfold restartDone
  try dsimp only
  repeat' first
    | with_reducible exact hk
    | with_reducible apply evt_kept
    | with_reducible apply cabNewFmt_kept
    | with_reducible apply hubRestart_kept
    | with_reducible apply mgmtResume_kept
    | with_reducible apply setAct_kept
    | with_reducible apply activationDone_kept
    | with_reducible apply activationUndone_kept
    | with_reducible apply loadMicro_kept
    | with_reducible apply noteDefaults_kept
    | with_reducible refine Kept.ite (fun _ => ?_) (fun _ => ?_)
    | fail_if_no_progress (with_reducible apply Kept.upd)
    | split

theorem microFailed_kept {s0 : State} (a : FwAct) (s : State) (hk : Kept s0 s) : Kept s0 (microFailed a s) := by
  unfold microFailed
  try dsimp only
  repeat' first
    | with_reducible exact hk
    | with_reducible apply fset_kept
    | with_reducible apply pauseNotice_kept
    | with_reducible apply hubToReset_kept
    | with_reducible apply setAct_kept
    | fail_if_no_progress (with_reducible apply Kept.upd)

theorem microLoaded_kept {s0 : State} (before : Nat) (s : State) (hk : Kept s0 s) : Kept s0 (microLoaded before s) :=
    by
  unfold microLoaded
  try dsimp only
  repeat' first
    | with_reducible exact hk
    | with_reducible apply activationDone_kept
    | with_reducible apply activationUndone_kept
    | with_reducible apply microFailed_kept
    | with_reducible refine Kept.ite (fun _ => ?_) (fun _ => ?_)
    | with_reducible assumption
    | intro _
    | split

theorem resetDoneOp_kept {s0 : State} (res : ResetIn) (s : State) (hk : Kept s0 s) : Kept s0 (resetDoneOp res s) := by
  unfold resetDoneOp
  split
  · exact resumeResets_kept _ hk
  · next x t h =>
    have ht : Kept s0 t := finishReset_kept res s hk _ h
    dsimp only
    refine secScrubbed_kept _ (resumeResets_kept _ ?_)
    split
    · exact microLoaded_kept _ _ ht
    · exact ht

end Sys2Proof.Machine
end

