-- ==== Sys2Proof/Laws/Regs.lean ====
section
/-! SUPPORT. Laws of bit fields and of the register space: what a read of a register or of a field gives after a write
of a register or of a field. -/

namespace Sys2Proof.Machine

theorem testBit_bitsOf (v hi lo i : Nat) :
    (bitsOf v hi lo).testBit i = (decide (i < hi + 1 - lo) && v.testBit (lo + i)) := by
  simp [bitsOf, Nat.testBit_mod_two_pow, Nat.testBit_div_two_pow, Nat.add_comm]

theorem testBit_setBits (v hi lo x i : Nat) (h : lo ≤ hi + 1) :
    (setBits v hi lo x).testBit i = if lo ≤ i ∧ i ≤ hi then x.testBit (i - lo) else v.testBit i := by
  have hlow : v % 2 ^ lo < 2 ^ lo := Nat.mod_lt _ (Nat.two_pow_pos _)
  have hmid : x % 2 ^ (hi + 1 - lo) < 2 ^ (hi + 1 - lo) := Nat.mod_lt _ (Nat.two_pow_pos _)
  have e : setBits v hi lo x =
      2 ^ lo * (2 ^ (hi + 1 - lo) * (v / 2 ^ (hi + 1)) + x % 2 ^ (hi + 1 - lo)) + v % 2 ^ lo := by
    have hp : 2 ^ (hi + 1) = 2 ^ lo * 2 ^ (hi + 1 - lo) := by rw [← Nat.pow_add]; congr 1; omega
    unfold setBits; rw [hp]; ring
  rw [e, Nat.testBit_two_pow_mul_add _ hlow]
  by_cases h1 : i < lo
  · simp [h1, Nat.testBit_mod_two_pow, show ¬ lo ≤ i by omega]
  · rw [if_neg h1, Nat.testBit_two_pow_mul_add _ hmid]
    by_cases h2 : i ≤ hi
    · simp [show lo ≤ i by omega, h2, show i - lo < hi + 1 - lo by omega, Nat.testBit_mod_two_pow]
    · simp [h2, show ¬ i - lo < hi + 1 - lo by omega, Nat.testBit_div_two_pow]
      congr 1; omega

/-- A field read after it was written gives the low bits of the value written. -/
theorem bitsOf_setBits_same (v hi lo x : Nat) (h : lo ≤ hi + 1) :
    bitsOf (setBits v hi lo x) hi lo = x % 2 ^ (hi + 1 - lo) := by
  apply Nat.eq_of_testBit_eq; intro i
  rw [testBit_bitsOf, testBit_setBits _ _ _ _ _ h, Nat.testBit_mod_two_pow]
  by_cases hi' : i < hi + 1 - lo
  · simp [hi', show lo + i ≤ hi by omega]
  · simp [hi']

/-- A write of a field leaves every other field of the word alone. -/
theorem bitsOf_setBits_disj (v hi lo x h l : Nat) (hl : lo ≤ hi + 1) (hd : h < lo ∨ hi < l) :
    bitsOf (setBits v hi lo x) h l = bitsOf v h l := by
  apply Nat.eq_of_testBit_eq; intro i
  rw [testBit_bitsOf, testBit_bitsOf, testBit_setBits _ _ _ _ _ hl]
  by_cases hi' : i < h + 1 - l
  · simp [hi', show ¬ (lo ≤ l + i ∧ l + i ≤ hi) by omega]
  · simp [hi']

/-- A word stays a word when one of its fields is written. -/
theorem setBits_lt (v hi lo x : Nat) (h : lo ≤ hi + 1) (hh : hi < 32) (hv : v < 2 ^ 32) :
    setBits v hi lo x < 2 ^ 32 := by
  apply Nat.lt_pow_two_of_testBit; intro i hi'
  rw [testBit_setBits _ _ _ _ _ h]
  simp [show ¬ i ≤ hi by omega, Nat.testBit_lt_two_pow (Nat.lt_of_lt_of_le hv (Nat.pow_le_pow_right (by omega) hi'))]

/-- The bits of a field lie in a 32-bit register. -/
abbrev Fld.Ok (f : Fld) : Prop := f.lo ≤ f.hi ∧ f.hi < 32

/-- Two fields have no bit in common. -/
abbrev Fld.Apart (f g : Fld) : Prop := f.off ≠ g.off ∨ f.hi < g.lo ∨ g.hi < f.lo

theorem regGet_regSet (a b : Nat) (v : Word) (s : State) :
    regGet a (regSet b v s) = if a = b then v else regGet a s := by
  simp [regGet, regSet, tget_tset]

@[simp] theorem regGet_regSet_same (a : Nat) (v : Word) (s : State) : regGet a (regSet a v s) = v := by
  simp [regGet_regSet]

theorem regGet_regSet_ne {a b : Nat} (h : a ≠ b) (v : Word) (s : State) : regGet a (regSet b v s) = regGet a s := by
  simp [regGet_regSet, h]

theorem fget_regSet_ne {a b : Nat} {f : Fld} (h : b + f.off ≠ a) (v : Word) (s : State) :
    fget b f (regSet a v s) = fget b f s := by
  simp [fget, regGet_regSet_ne h]

theorem regGet_fset_ne {a b : Nat} {f : Fld} (h : a ≠ b + f.off) (v : Nat) (s : State) :
    regGet a (fset b f v s) = regGet a s := regGet_regSet_ne h _ _

/-- A field read after it was written gives the value written, modulo its width. -/
theorem fget_fset_same (b : Nat) {f : Fld} (hf : f.Ok) (v : Nat) (s : State) :
    fget b f (fset b f v s) = v % 2 ^ (f.hi + 1 - f.lo) := by
  have hv : (regGet (b + f.off) s).toNat < 2 ^ 32 := (regGet (b + f.off) s).isLt
  simp only [fget, fset, regGet_regSet_same, BitVec.toNat_ofNat]
  rw [Nat.mod_eq_of_lt (setBits_lt _ _ _ _ (by omega) hf.2 hv), bitsOf_setBits_same _ _ _ _ (by omega)]

/-- A write of a field leaves the fields apart from it alone. -/
theorem fget_fset_apart (b : Nat) {f g : Fld} (hg : g.Ok) (h : f.Apart g) (v : Nat) (s : State) :
    fget b f (fset b g v s) = fget b f s := by
  by_cases ho : f.off = g.off
  · have hv : (regGet (b + g.off) s).toNat < 2 ^ 32 := (regGet (b + g.off) s).isLt
    have hd : f.hi < g.lo ∨ g.hi < f.lo := by rcases h with h | h; exacts [absurd ho h, h]
    simp only [fget, fset, ho, regGet_regSet_same, BitVec.toNat_ofNat]
    rw [Nat.mod_eq_of_lt (setBits_lt _ _ _ _ (by omega) hg.2 hv), bitsOf_setBits_disj _ _ _ _ _ _ (by omega) hd]
  · simp only [fget, fset]; rw [regGet_regSet_ne (by omega)]

/-- A write of a field leaves the fields of other registers alone. -/
theorem fget_fset_ne {a b : Nat} {f g : Fld} (h : a + f.off ≠ b + g.off) (v : Nat) (s : State) :
    fget a f (fset b g v s) = fget a f s := fget_regSet_ne h _ _

theorem fget_lt (b : Nat) (f : Fld) (s : State) : fget b f s < 2 ^ (f.hi + 1 - f.lo) :=
  Nat.mod_lt _ (Nat.two_pow_pos _)

end Sys2Proof.Machine
end

