-- ==== Sys2Proof/Laws/Quiet.lean ====
section
/-! SUPPORT. What the record keeping of the package can change: registers, MSI-X causes, the bits of the next EVENT, the
fault log, counters, the idle times of channels and the error marks. A view of the state that looks at none of them is left alone by every
event, every count, every fault record and every note of an access. -/

namespace Sys2Proof.Machine

/-- A view of the state that does not look at what record keeping changes. -/
structure Quiet {β : Type} (φ : State → β) : Prop where
  regs  : ∀ (s : State) v, φ { s with regs := v } = φ s
  host  : ∀ (s : State) v, φ { s with host := v } = φ s
  mgmt  : ∀ (s : State) v, φ { s with mgmt := v } = φ s
  bur   : ∀ (s : State) v, φ { s with bur := v } = φ s
  perf  : ∀ (s : State) v, φ { s with perf := v } = φ s
  chans : ∀ (s : State) v, φ { s with chans := v } = φ s
  ecc   : ∀ (s : State) v, φ { s with ecc := v } = φ s

theorem forAll_view {α β : Type} (φ : State → β) (f : α → State → State) (h : ∀ x s, φ (f x s) = φ s) (l : List α)
    (s : State) : φ (forAll l f s) = φ s := by
  unfold forAll
  induction l generalizing s with
  | nil => rfl
  | cons x l ih => rw [List.foldl_cons, ih, h]

theorem forAll_keeps {α : Type} (P : State → Prop) (f : α → State → State) (h : ∀ x s, P s → P (f x s)) (l : List α)
    (s : State) (hs : P s) : P (forAll l f s) := by
  unfold forAll
  induction l generalizing s with
  | nil => exact hs
  | cons x l ih => exact ih _ (h x s hs)

variable {β : Type} {φ : State → β}

theorem ite_view {c : Prop} [Decidable c] {x y : State} {z : β} (hx : φ x = z) (hy : φ y = z) :
    φ (if c then x else y) = z := by
  split
  · exact hx
  · exact hy

theorem Quiet.regSet (q : Quiet φ) (off : Nat) (v : Word) (s : State) : φ (regSet off v s) = φ s := q.regs s _

theorem Quiet.fset (q : Quiet φ) (b : Nat) (f : Fld) (v : Nat) (s : State) : φ (fset b f v s) = φ s := q.regs s _

theorem Quiet.faddSat (q : Quiet φ) (b : Nat) (f : Fld) (v : Nat) (s : State) : φ (faddSat b f v s) = φ s := q.regs s _

theorem Quiet.noteFired (q : Quiet φ) (f v : Nat) (s : State) : φ (noteFired f v s) = φ s := by
  unfold Machine.noteFired
  split
  · exact q.mgmt s _
  · rfl

theorem Quiet.raiseMsix (q : Quiet φ) (f v : Nat) (s : State) : φ (raiseMsix f v s) = φ s := by
  rw [← q.noteFired f v s]
  unfold Machine.raiseMsix
  dsimp only
  split
  · rfl
  · split
    · exact q.host _ _
    · split
      · rfl
      · exact q.host _ _

theorem Quiet.raiseVec (q : Quiet φ) (f v : Nat) (s : State) : φ (raiseVec f v s) = φ s := by
  unfold Machine.raiseVec
  split
  · exact q.raiseMsix f v s
  · exact q.faddSat _ _ _ s

theorem Quiet.evtQuiet (q : Quiet φ) (b : Nat) (e : Evt) (s : State) : φ (evtQuiet b e s) = φ s := by
  unfold Machine.evtQuiet; rw [q.faddSat, q.fset]

theorem Quiet.evt (q : Quiet φ) (b : Nat) (e : Evt) (s : State) : φ (evt b e s) = φ s := by
  unfold Machine.evt
  dsimp only
  split
  · rw [q.faddSat, q.fset]
  · rw [q.raiseMsix, q.faddSat, q.fset]

theorem Quiet.ctrSet (q : Quiet φ) (b : CtrBlk) (i : Nat) (x : Counter) (s : State) : φ (ctrSet b i x s) = φ s :=
  q.perf s _

theorem Quiet.ctrBump (q : Quiet φ) (b : CtrBlk) (fuel i n : Nat) (s : State) : φ (ctrBump b fuel i n s) = φ s := by
  induction fuel generalizing i n s with
  | zero => rfl
  | succ k ih =>
    unfold Machine.ctrBump
    dsimp only
    split
    · rw [ih, q.ctrSet]
    · rw [q.ctrSet]

theorem Quiet.countEvt (q : Quiet φ) (b : CtrBlk) (code n : Nat) (s : State) : φ (countEvt b code n s) = φ s := by
  unfold Machine.countEvt
  split
  · rfl
  · exact forAll_view φ _ (fun i s => q.ctrBump b b.n i n s) _ s

theorem Quiet.ctrClear (q : Quiet φ) (b : CtrBlk) (s : State) : φ (ctrClear b s) = φ s :=
  forAll_view φ _ (fun i s => q.ctrSet b i ⟨0, 0⟩ s) _ s

theorem Quiet.burIrq (q : Quiet φ) (parts : Nat) (s : State) : φ (burIrq parts s) = φ s := by
  unfold Machine.burIrq
  rw [forAll_view φ _ (fun p s => q.raiseMsix (p + 1) 0 s), q.raiseMsix]

theorem Quiet.errNAssert (q : Quiet φ) (s : State) : φ (errNAssert s) = φ s := by
  unfold Machine.errNAssert
  exact (q.fset _ _ _ _).trans (q.bur s _)

theorem Quiet.repeatRec (q : Quiet φ) (r : LogRec) (s : State) : φ (repeatRec r s) = φ s := by
  unfold Machine.repeatRec
  split
  · rfl
  · split
    · exact q.bur s _
    · rfl

theorem Quiet.moveRec (q : Quiet φ) (r : LogRec) (n : Word) (s : State) : φ (moveRec r n s) = φ s := q.bur s _

theorem Quiet.sortRec (q : Quiet φ) (n : Nat) (k : Word) (s : State) : φ (sortRec n k s) = φ s := by
  induction n generalizing k s with
  | zero => rfl
  | succ n ih =>
    unfold Machine.sortRec
    dsimp only
    split
    · split
      · rw [ih]
        refine ite_view ?_ (ite_view ?_ ?_)
        · rw [q.regSet, q.moveRec, q.moveRec]
        · rw [q.regSet, q.moveRec, q.moveRec]
        · rw [q.moveRec, q.moveRec]
      · rfl
    · rfl

theorem Quiet.newRec (q : Quiet φ) (tm : BitVec 48 × BitVec 16) (cls react code source parts info0 info1 : Nat) (s : State) :
    φ (newRec tm cls react code source parts info0 info1 s) = φ s := by
  unfold Machine.newRec
  dsimp only
  rw [q.sortRec]
  exact ite_view ((q.regSet _ _ _).trans ((q.regSet _ _ _).trans (q.bur s _))) ((q.regSet _ _ _).trans (q.bur s _))

/-- A fault record changes nothing but what record keeping changes (R384 to R388). -/
theorem Quiet.logFaultAt (q : Quiet φ) (tm : BitVec 48 × BitVec 16) (code source parts info0 info1 : Nat) (s : State) :
    φ (logFaultAt tm code source parts info0 info1 s) = φ s := by
  unfold Machine.logFaultAt
  dsimp only
  repeat' first
    | with_reducible rfl | rw [q.errNAssert] | rw [q.burIrq] | rw [q.countEvt] | rw [q.evtQuiet] | rw [q.repeatRec] | rw [q.newRec]
    | refine ite_view ?_ ?_ | split

theorem Quiet.logFault (q : Quiet φ) (code source parts info0 info1 : Nat) (s : State) :
    φ (logFault code source parts info0 info1 s) = φ s := q.logFaultAt _ _ _ _ _ _ s

theorem Quiet.softFault (q : Quiet φ) (code source info0 info1 : Nat) (s : State) :
    φ (softFault code source info0 info1 s) = φ s := by
  unfold Machine.softFault Machine.collected
  split
  · exact q.logFault _ _ _ _ _ s
  · exact ite_view (q.logFault _ _ _ _ _ s) (q.bur s _)

theorem Quiet.regAccessFault (q : Quiet φ) (r : Requester) (off : Nat) (s : State) :
    φ (regAccessFault r off s) = φ s := q.logFault _ _ _ _ _ s

theorem Quiet.countDenied (q : Quiet φ) (r : Requester) (s : State) : φ (countDenied r s) = φ s := by
  unfold Machine.countDenied
  split
  · exact q.faddSat _ _ _ s
  · rfl

theorem Quiet.noteChannels (q : Quiet φ) (a n : Nat) (s : State) : φ (noteChannels a n s) = φ s :=
  forAll_view φ _ (fun _ s => forAll_view φ _ (fun _ s => q.chans s _) _ s) _ s

/-- The note of an access changes nothing but what record keeping changes (R133, R145, R396). -/
theorem Quiet.noteAccess (q : Quiet φ) (write : Bool) (a n : Nat) (s : State) : φ (noteAccess write a n s) = φ s := by
  unfold Machine.noteAccess
  dsimp only
  rw [forAll_view φ _ (fun _ s => q.countEvt _ _ _ s),
    forAll_view φ _ (fun _ s => (q.countEvt _ _ _ _).trans (q.regSet _ _ s)), q.noteChannels]

theorem Quiet.noteCE (q : Quiet φ) (a : Nat) (s : State) : φ (noteCE a s) = φ s := by
  unfold Machine.noteCE
  split
  · rfl
  · rw [q.softFault, q.evt]

theorem Quiet.noteUE (q : Quiet φ) (a : Nat) (s : State) : φ (noteUE a s) = φ s := by
  unfold Machine.noteUE
  split
  · rw [q.softFault, q.fset, q.fset, q.evt]
  · rw [q.softFault, q.fset, q.evt]

theorem Quiet.notePartial (q : Quiet φ) (a : Nat) (s : State) : φ (notePartial a s) = φ s := by
  unfold Machine.notePartial
  rw [q.softFault, q.evt]

theorem Quiet.noteParity (q : Quiet φ) (a : Nat) (s : State) : φ (noteParity a s) = φ s := by
  unfold Machine.noteParity
  rw [q.softFault, q.evt]

theorem Quiet.setMark (q : Quiet φ) (a v : Nat) (s : State) : φ (setMark a v s) = φ s := q.ecc s _

theorem Quiet.granuleMark (q : Quiet φ) (c : Nat × Nat) (s : State) : φ (granuleMark c s) = φ s := by
  unfold Machine.granuleMark
  refine ite_view (q.noteUE _ s) (ite_view ?_ (ite_view ?_ (q.noteCE _ s)))
  · rw [q.setMark, q.noteParity]
  · rw [q.noteUE, q.setMark, q.noteParity]

theorem Quiet.noteMarks (q : Quiet φ) (l : Tbl Nat) (s : State) : φ (noteMarks l s) = φ s :=
  forAll_view φ _ (fun c s => by
    split
    · exact q.granuleMark c s
    · split
      · exact q.noteUE _ s
      · exact q.noteCE _ s) _ s

/-- A read changes nothing but what record keeping changes (R131, R138). -/
theorem Quiet.readAll (q : Quiet φ) (a n : Nat) (s : State) : φ (readAll a n s).1 = φ s := by
  unfold Machine.readAll
  rw [q.noteMarks, q.noteAccess]

theorem Quiet.readUpTo (q : Quiet φ) (a n : Nat) (s : State) : φ (readUpTo a n s).1 = φ s := by
  unfold Machine.readUpTo
  split
  · rw [q.noteMarks, q.noteAccess]
  · rw [q.noteMarks, q.noteAccess]

theorem Quiet.raiseFlags (q : Quiet φ) (c fl : Nat) (s : State) : φ (raiseFlags c fl s) = φ s :=
  forAll_view φ _ (fun _ s => q.evt _ _ s) _ s

/-! The views that most statements use. -/

theorem quiet_cores : Quiet State.cores := ⟨fun _ _ => rfl, fun _ _ => rfl, fun _ _ => rfl, fun _ _ => rfl,
  fun _ _ => rfl, fun _ _ => rfl, fun _ _ => rfl⟩
theorem quiet_mem : Quiet State.mem := ⟨fun _ _ => rfl, fun _ _ => rfl, fun _ _ => rfl, fun _ _ => rfl,
  fun _ _ => rfl, fun _ _ => rfl, fun _ _ => rfl⟩
theorem quiet_flash : Quiet State.flash := ⟨fun _ _ => rfl, fun _ _ => rfl, fun _ _ => rfl, fun _ _ => rfl,
  fun _ _ => rfl, fun _ _ => rfl, fun _ _ => rfl⟩
theorem quiet_queues : Quiet State.queues := ⟨fun _ _ => rfl, fun _ _ => rfl, fun _ _ => rfl, fun _ _ => rfl,
  fun _ _ => rfl, fun _ _ => rfl, fun _ _ => rfl⟩
theorem quiet_progs : Quiet State.progs := ⟨fun _ _ => rfl, fun _ _ => rfl, fun _ _ => rfl, fun _ _ => rfl,
  fun _ _ => rfl, fun _ _ => rfl, fun _ _ => rfl⟩
theorem quiet_cab : Quiet State.cab := ⟨fun _ _ => rfl, fun _ _ => rfl, fun _ _ => rfl, fun _ _ => rfl,
  fun _ _ => rfl, fun _ _ => rfl, fun _ _ => rfl⟩
theorem quiet_clk : Quiet State.clk := ⟨fun _ _ => rfl, fun _ _ => rfl, fun _ _ => rfl, fun _ _ => rfl,
  fun _ _ => rfl, fun _ _ => rfl, fun _ _ => rfl⟩
theorem quiet_nv : Quiet State.nv := ⟨fun _ _ => rfl, fun _ _ => rfl, fun _ _ => rfl, fun _ _ => rfl,
  fun _ _ => rfl, fun _ _ => rfl, fun _ _ => rfl⟩
theorem quiet_pending : Quiet State.pending := ⟨fun _ _ => rfl, fun _ _ => rfl, fun _ _ => rfl, fun _ _ => rfl,
  fun _ _ => rfl, fun _ _ => rfl, fun _ _ => rfl⟩
theorem quiet_getCore (c : Nat) : Quiet (getCore c) := ⟨fun _ _ => rfl, fun _ _ => rfl, fun _ _ => rfl, fun _ _ => rfl,
  fun _ _ => rfl, fun _ _ => rfl, fun _ _ => rfl⟩
theorem quiet_getQueue (c : Nat) : Quiet (getQueue c) := ⟨fun _ _ => rfl, fun _ _ => rfl, fun _ _ => rfl, fun _ _ => rfl,
  fun _ _ => rfl, fun _ _ => rfl, fun _ _ => rfl⟩
theorem quiet_memGet (a : Nat) : Quiet (memGet a) := ⟨fun _ _ => rfl, fun _ _ => rfl, fun _ _ => rfl, fun _ _ => rfl,
  fun _ _ => rfl, fun _ _ => rfl, fun _ _ => rfl⟩

/-! Registers under events and fault records. -/

theorem regGet_noteFired (a f v : Nat) (s : State) : regGet a (noteFired f v s) = regGet a s := by
  unfold noteFired; split <;> rfl

@[simp] theorem regs_raiseMsix (f v : Nat) (s : State) : (raiseMsix f v s).regs = s.regs := by
  have h : (noteFired f v s).regs = s.regs := by unfold noteFired; split <;> rfl
  unfold raiseMsix
  dsimp only
  split
  · exact h
  · split
    · exact h
    · split <;> exact h

@[simp] theorem regGet_raiseMsix (a f v : Nat) (s : State) : regGet a (raiseMsix f v s) = regGet a s := by
  simp [regGet]

@[simp] theorem fget_raiseMsix (b : Nat) (g : Fld) (f v : Nat) (s : State) : fget b g (raiseMsix f v s) = fget b g s := by
  simp [fget]

/-- An event changes two registers at most: that of its bit and that of its count. -/
theorem regGet_evt_ne {a b : Nat} {e : Evt} (h1 : a ≠ b + e.bit.off) (h2 : a ≠ b + e.cnt.off) (s : State) :
    regGet a (evt b e s) = regGet a s := by
  unfold evt
  dsimp only
  split <;> simp only [regGet_raiseMsix, faddSat, regGet_fset_ne h1, regGet_fset_ne h2]

/-- After its event a W1C bit is set (R11). -/
theorem fget_evt_bit (b : Nat) {e : Evt} (h : e.bit.Ok) (hc : e.cnt.Ok) (ha : e.bit.Apart e.cnt) (s : State) :
    fget b e.bit (evt b e s) = 1 := by
  have h1 : 1 % 2 ^ (e.bit.hi + 1 - e.bit.lo) = 1 := Nat.mod_eq_of_lt (Nat.one_lt_two_pow (by have := h.1; omega))
  unfold evt
  dsimp only
  split <;> simp only [fget_raiseMsix, faddSat, fget_fset_apart b hc ha, fget_fset_same b h, h1]

/-- After its event the count of a W1C bit has risen by 1, up to its largest value (R11). -/
theorem fget_evt_cnt (b : Nat) {e : Evt} (h : e.bit.Ok) (hc : e.cnt.Ok) (ha : e.cnt.Apart e.bit) (s : State) :
    fget b e.cnt (evt b e s) = Nat.min (fget b e.cnt s + 1) (2 ^ (e.cnt.hi + 1 - e.cnt.lo) - 1) := by
  have hp : 0 < 2 ^ (e.cnt.hi + 1 - e.cnt.lo) := Nat.two_pow_pos _
  have hm : ∀ x, Nat.min x (2 ^ (e.cnt.hi + 1 - e.cnt.lo) - 1) % 2 ^ (e.cnt.hi + 1 - e.cnt.lo) =
      Nat.min x (2 ^ (e.cnt.hi + 1 - e.cnt.lo) - 1) := fun x =>
    Nat.mod_eq_of_lt (by
      have hx : Nat.min x (2 ^ (e.cnt.hi + 1 - e.cnt.lo) - 1) ≤ 2 ^ (e.cnt.hi + 1 - e.cnt.lo) - 1 := Nat.min_le_right _ _
      omega)
  unfold evt
  dsimp only
  split <;> simp only [fget_raiseMsix, faddSat, fget_fset_same b hc, fget_fset_apart b h ha, hm]

/-- An event leaves the fields of other registers alone. -/
theorem fget_evt_ne {a b : Nat} {f : Fld} {e : Evt} (h1 : a + f.off ≠ b + e.bit.off) (h2 : a + f.off ≠ b + e.cnt.off)
    (s : State) : fget a f (evt b e s) = fget a f s := by
  simp only [fget, regGet_evt_ne h1 h2]

end Sys2Proof.Machine
end

