-- ==== Sys2Proof/Laws/Memory.lean ====
section
/-! SUPPORT. Laws of the byte memory: what a read gives after a write, through the table slices, the plain write of a range
and the write with its ECC effects. -/

namespace Sys2Proof.Machine

/-! Tables with a range replaced. -/

theorem tget_append {α : Type} (d : Nat → α) (k : Nat) (u : Tbl α) (h : ∀ c ∈ u, c.1 ≠ k) (v : Tbl α) :
    tget d (u ++ v) k = tget d v k := by
  induction u with
  | nil => rfl
  | cons x r ih =>
    obtain ⟨a, y⟩ := x
    have ha : a ≠ k := h (a, y) (by simp)
    simp only [List.cons_append, tget, if_neg ha]
    exact ih fun c hc => h c (by simp [hc])

theorem tget_append_right {α : Type} (d : Nat → α) (k : Nat) (u v : Tbl α) (h : ∀ c ∈ v, c.1 ≠ k) :
    tget d (u ++ v) k = tget d u k := by
  induction u with
  | nil =>
    induction v with
    | nil => rfl
    | cons x r ih =>
      obtain ⟨a, y⟩ := x
      have ha : a ≠ k := h (a, y) (by simp)
      simp only [List.nil_append, tget, if_neg ha] at ih ⊢
      exact ih fun c hc => h c (by simp [hc])
  | cons x r ih => simp only [List.cons_append, tget, ih]

theorem tget_filter {α : Type} (d : Nat → α) (p : Nat → Bool) (k : Nat) (t : Tbl α) :
    tget d (t.filter fun c => p c.1) k = if p k then tget d t k else d k := by
  induction t with
  | nil => simp [tget]
  | cons x r ih =>
    obtain ⟨a, y⟩ := x
    by_cases hp : p a
    · by_cases ha : a = k
      · subst ha; simp [hp, tget]
      · simp [hp, tget, ha, ih]
    · by_cases ha : a = k
      · subst ha; simp [hp, ih]
      · simp [hp, tget, ha, ih]

theorem tget_shift {α : Type} (d : Nat → α) (x : α) (hd : ∀ k, d k = x) (a k : Nat) (h : a ≤ k) (t : Tbl α) :
    tget d (t.map fun c => (c.1 + a, c.2)) k = tget d t (k - a) := by
  induction t with
  | nil => simp [tget, hd]
  | cons y r ih =>
    obtain ⟨b, z⟩ := y
    by_cases hb : b + a = k
    · have hk : b = k - a := by omega
      simp only [List.map_cons, tget, if_pos hb, if_pos hk]
    · simp [tget, hb, show ¬ b = k - a by omega, ih]

/-- A table with a range replaced: inside the range the slice, outside it the table. -/
theorem tget_tput {α : Type} (x : α) (a n k : Nat) (sl t : Tbl α) (h : ∀ c ∈ sl, c.1 < n) :
    tget (fun _ => x) (tput a n sl t) k =
      if a ≤ k ∧ k < a + n then tget (fun _ => x) sl (k - a) else tget (fun _ => x) t k := by
  unfold tput
  have hsl : ∀ c ∈ sl.map (fun c => (c.1 + a, c.2)), a ≤ c.1 ∧ c.1 < a + n := by
    intro c hc
    obtain ⟨e, he, rfl⟩ := List.mem_map.1 hc
    have := h e he
    simp; omega
  have hhi : ∀ c ∈ t.filter (fun c => decide (a + n ≤ c.1)), a + n ≤ c.1 := by
    intro c hc; simpa using (List.mem_filter.1 hc).2
  have hlo : ∀ c ∈ t.filter (fun c => decide (c.1 < a)), c.1 < a := by
    intro c hc; simpa using (List.mem_filter.1 hc).2
  by_cases h1 : a ≤ k
  · by_cases h2 : k < a + n
    · rw [tget_append_right _ _ _ _ fun c hc => by have := hhi c hc; omega,
        tget_append _ _ _ (fun c hc => by have := hlo c hc; omega), tget_shift _ x (fun _ => rfl) a k h1]
      simp [h1, h2]
    · rw [tget_append _ _ _ fun c hc => by
          rcases List.mem_append.1 hc with hc | hc
          · have := hlo c hc; omega
          · have := hsl c hc; omega]
      rw [tget_filter (fun _ => x) (fun i => decide (a + n ≤ i))]
      simp [h1, h2, show a + n ≤ k by omega]
  · rw [tget_append_right _ _ _ _ fun c hc => by have := hhi c hc; omega,
      tget_append_right _ _ _ _ fun c hc => by have := hsl c hc; omega,
      tget_filter (fun _ => x) (fun i => decide (i < a))]
    simp [h1, show k < a by omega]

/-! Slices of bytes. -/

/-- The keys of a slice rise from a bound. -/
def Rising : Nat → Tbl Byte → Prop
  | _, [] => True
  | lo, (a, _) :: r => lo ≤ a ∧ Rising (a + 1) r

theorem Rising.mono : ∀ {t : Tbl Byte} {lo lo' : Nat}, lo' ≤ lo → Rising lo t → Rising lo' t
  | [], _, _, _, _ => trivial
  | (_, _) :: _, _, _, h, ht => ⟨le_trans h ht.1, ht.2⟩

theorem tget_below : ∀ {t : Tbl Byte} {lo k : Nat}, Rising lo t → k < lo → tget (fun _ => (0 : Byte)) t k = 0
  | [], _, _, _, _ => rfl
  | (a, x) :: r, lo, k, h, hk => by
    have ha : a ≠ k := by have := h.1; omega
    simp only [tget, if_neg ha]
    exact tget_below h.2 (by have := h.1; omega)

theorem tget_tclean (hi : Nat) : ∀ (t : Tbl Byte) (lo k : Nat), Rising lo t →
    tget (fun _ => (0 : Byte)) (tclean lo hi t) k = if k < hi then tget (fun _ => 0) t k else 0
  | [], lo, k, _ => by simp [tclean, tget]
  | (a, x) :: r, lo, k, h => by
    have ih1 := tget_tclean hi r (a + 1) k h.2
    have ih2 := tget_tclean hi r lo k (h.2.mono (by have := h.1; omega))
    unfold tclean
    by_cases hc : lo ≤ a ∧ a < hi ∧ x ≠ 0
    · rw [if_pos hc]
      by_cases ha : a = k
      · subst ha; simp [tget, hc.2.1]
      · simp only [tget, if_neg ha, ih1]
    · rw [if_neg hc, ih2]
      by_cases ha : a = k
      · subst ha
        have h0 : tget (fun _ => (0 : Byte)) r a = 0 := tget_below h.2 (by omega)
        by_cases hh : a < hi
        · have hx : x = 0 := by by_contra hx; exact hc ⟨h.1, hh, hx⟩
          simp only [tget, if_true, hx, h0, hh]
        · simp only [if_neg hh]
      · simp only [tget, if_neg ha]

theorem rising_sparse : ∀ (l : List Byte) (i : Nat), Rising i (sparse i l)
  | [], _ => trivial
  | b :: r, i => by
    unfold sparse
    split
    · exact (rising_sparse r (i + 1)).mono (by omega)
    · exact ⟨le_refl _, rising_sparse r (i + 1)⟩

theorem tget_sparse : ∀ (l : List Byte) (i k : Nat),
    tget (fun _ => (0 : Byte)) (sparse i l) (i + k) = l.getD k 0
  | [], _, _ => by simp [sparse, tget]
  | b :: r, i, k => by
    unfold sparse
    cases k with
    | zero =>
      split
      · rename_i hb
        rw [tget_below (rising_sparse r (i + 1)) (by omega)]; simp [hb]
      · simp [tget]
    | succ k =>
      have ih := tget_sparse r (i + 1) k
      rw [show i + 1 + k = i + (k + 1) by omega] at ih
      split
      · simpa using ih
      · simp only [tget, if_neg (show i ≠ i + (k + 1) by omega)]; simpa using ih

theorem rising_slice (a n : Nat) : ∀ (t : Tbl Byte) (lo : Nat), Rising lo t → Rising (lo - a) (tslice a n t)
  | [], _, _ => trivial
  | (b, x) :: r, lo, h => by
    have ih := rising_slice a n r (b + 1) h.2
    have hlo := h.1
    unfold tslice at ih ⊢
    by_cases hb : a ≤ b ∧ b < a + n
    · simp only [List.filter_cons, hb, and_self, decide_true, if_true, List.map_cons]
      exact ⟨by omega, ih.mono (by omega)⟩
    · simp only [List.filter_cons, hb, decide_false]
      exact ih.mono (by omega)

/-- A table in canonical form is one whatever the bound. -/
theorem rising_of_wf : ∀ {t : Tbl Byte} {lo : Nat}, twfFrom (fun _ => 0) lo t = true → Rising lo t
  | [], _, _ => trivial
  | (_, _) :: _, _, h => by
    simp only [twfFrom, Bool.and_eq_true, decide_eq_true_eq] at h
    exact ⟨h.1.1, rising_of_wf h.2⟩

theorem tget_tslice {α : Type} (x : α) (a n : Nat) (t : Tbl α) {k : Nat} (hk : k < n) :
    tget (fun _ => x) (tslice a n t) k = tget (fun _ => x) t (a + k) := by
  induction t with
  | nil => rfl
  | cons c r ih =>
    obtain ⟨b, y⟩ := c
    unfold tslice at ih ⊢
    by_cases hb : a ≤ b ∧ b < a + n
    · simp only [List.filter_cons, hb, and_self, decide_true, if_true, List.map_cons, tget]
      by_cases hk' : b = a + k
      · simp [hk']
      · rw [if_neg hk', if_neg (show ¬ b - a = k by omega)]; exact ih
    · simp only [List.filter_cons, hb, decide_false]
      simp only [tget, if_neg (show ¬ b = a + k by omega)]
      exact ih

/-! Plain bytes. -/

/-- A plain write of a range changes the bytes of the range alone. -/
theorem memGet_memSet_outside {a n x : Nat} (h : x < a ∨ a + n ≤ x) (sl : Tbl Byte) (s : State) :
    memGet x (memSet a n sl s) = memGet x s := by
  unfold memGet memSet
  rw [tget_tput 0 a n x _ _ fun c hc => mem_tclean_lt hc]
  simp [show ¬ (a ≤ x ∧ x < a + n) by omega]

/-- After a plain write a byte of the range reads as its slice says. -/
theorem memGet_memSet_inside {a n x : Nat} (h1 : a ≤ x) (h2 : x < a + n) {sl : Tbl Byte} (hs : Rising 0 sl) (s : State) :
    memGet x (memSet a n sl s) = tget (fun _ => 0) sl (x - a) := by
  unfold memGet memSet
  rw [tget_tput 0 a n x _ _ fun c hc => mem_tclean_lt hc, if_pos ⟨h1, h2⟩, tget_tclean n sl 0 _ hs]
  simp [show x - a < n by omega]

/-- A byte string stored in a range reads back. -/
theorem memGet_memSet_bytes {a x : Nat} (l : List Byte) (h1 : a ≤ x) (h2 : x < a + l.length) (s : State) :
    memGet x (memSet a l.length (sparse 0 l) s) = l.getD (x - a) 0 := by
  rw [memGet_memSet_inside h1 h2 (rising_sparse l 0)]
  simpa using tget_sparse l 0 (x - a)

/-! Writes with their ECC effects. -/

@[simp] theorem memGet_noteAccess (x : Nat) (w : Bool) (a n : Nat) (s : State) :
    memGet x (noteAccess w a n s) = memGet x s := (quiet_memGet x).noteAccess w a n s
@[simp] theorem memGet_noteCE (x a : Nat) (s : State) : memGet x (noteCE a s) = memGet x s := (quiet_memGet x).noteCE a s
@[simp] theorem memGet_notePartial (x a : Nat) (s : State) : memGet x (notePartial a s) = memGet x s :=
  (quiet_memGet x).notePartial a s
@[simp] theorem memGet_noteParity (x a : Nat) (s : State) : memGet x (noteParity a s) = memGet x s :=
  (quiet_memGet x).noteParity a s
@[simp] theorem memGet_setMark (x a v : Nat) (s : State) : memGet x (setMark a v s) = memGet x s := rfl
@[simp] theorem memGet_raiseVec (x f v : Nat) (s : State) : memGet x (raiseVec f v s) = memGet x s :=
  (quiet_memGet x).raiseVec f v s

@[simp] theorem memGet_disarmSync (x a : Nat) (s : State) : memGet x (disarmSync a s) = memGet x s := rfl
@[simp] theorem memGet_disarmIn (x a n : Nat) (s : State) : memGet x (disarmIn a n s) = memGet x s := rfl

@[simp] theorem memGet_fireSync (x a : Nat) (s : State) : memGet x (fireSync a s) = memGet x s := by
  unfold fireSync; rw [memGet_raiseVec, memGet_disarmSync]

@[simp] theorem memGet_syncArm (x a : Nat) (s : State) : memGet x (syncArm a s) = memGet x s := by
  unfold syncArm
  dsimp only
  split
  · split
    · rw [memGet_fireSync, memGet_disarmSync]
    · rfl
  · rfl

/-- Arming the objects that a write covers changes no byte. -/
@[simp] theorem memGet_armAll (x : Nat) (l : List Nat) (s : State) : memGet x (forAll l syncArm s) = memGet x s :=
  forAll_view (memGet x) syncArm (fun a s => memGet_syncArm x a s) l s

/-- A write with arming changes the bytes that the write alone changes. -/
theorem memGet_memStore (x a n : Nat) (sl : Tbl Byte) (s : State) :
    memGet x (memStore a n sl s) = memGet x (memPut a n sl s) := by
  unfold memStore
  rw [memGet_armAll, memGet_disarmIn]

@[simp] theorem memGet_wake (x a : Nat) (s : State) : memGet x (wake a s) = memGet x s := rfl

/-- A plain write depends on the memory alone. -/
theorem memGet_memSet_congr (x a n : Nat) (sl : Tbl Byte) {s t : State} (h : t.mem = s.mem) :
    memGet x (memSet a n sl t) = memGet x (memSet a n sl s) := by
  unfold memGet memSet; rw [h]

/-- A write into a range without a marked unit is a plain write. -/
theorem memGet_memStore_clean {a n : Nat} {s : State} (h : marksIn a n s = []) (hn : n ≠ 0) (sl : Tbl Byte) (x : Nat) :
    memGet x (memStore a n sl s) = memGet x (memSet a n sl s) := by
  rw [memGet_memStore]
  unfold memPut
  rw [if_neg hn]
  simp only [h, forAll, List.foldl_nil]
  exact memGet_memSet_congr x a n sl (quiet_mem.noteAccess true a n s)

/-- The effect of a write on a marked unit leaves the bytes outside the written range as the memory had them. -/
theorem memGet_writeMark_outside {a n x : Nat} {s s0 : State} (hw : Memory.wf s0.mem = true) (c : Nat × Nat)
    (hs : memGet x s = memGet x s0) : memGet x (writeMark a n s0.mem c s) = memGet x s0 := by
  have hp : memGet x (if decide (c.1 < stackEnd) && decide (3 ≤ c.2) then noteParity c.1 s else s) = memGet x s0 :=
    ite_view ((memGet_noteParity x c.1 s).trans hs) hs
  unfold writeMark
  dsimp only
  generalize (if (decide (c.1 < stackEnd) && decide (3 ≤ c.2)) = true then noteParity c.1 s else s) = s at hp ⊢
  replace hs := hp
  split
  · exact hs
  · split
    · split
      · exact hs
      · rw [memGet_notePartial]
        by_cases hx : c.1 ≤ x ∧ x < c.1 + eccUnit c.1
        · have hr : Rising 0 (tslice c.1 (eccUnit c.1) s0.mem) :=
            (rising_slice c.1 (eccUnit c.1) _ 0 (rising_of_wf hw)).mono (by omega)
          rw [memGet_memSet_inside hx.1 hx.2 hr, tget_tslice 0 _ _ _ (by omega), show c.1 + (x - c.1) = x by omega]
          rfl
        · rw [memGet_memSet_outside (by omega)]; exact hs
    · rw [memGet_setMark, memGet_noteCE]; exact hs

/-- A write leaves every byte outside its range alone, whatever marks its units bear. -/
theorem memGet_memStore_outside {a n x : Nat} {s : State} (hw : Memory.wf s.mem = true) (h : x < a ∨ a + n ≤ x)
    (sl : Tbl Byte) : memGet x (memStore a n sl s) = memGet x s := by
  rw [memGet_memStore]
  unfold memPut
  split
  · rfl
  · apply forAll_keeps (fun t => memGet x t = memGet x s) _ fun c t ht => memGet_writeMark_outside hw c ht
    rw [memGet_memSet_outside h, memGet_noteAccess]

/-- A write of a byte string leaves every byte outside its range alone. -/
theorem memGet_memWrite_outside {a x : Nat} {l : List Byte} {s : State} (hw : Memory.wf s.mem = true)
    (h : x < a ∨ a + l.length ≤ x) : memGet x (memWrite a l s) = memGet x s := memGet_memStore_outside hw h _

/-- A byte string written into a range without a marked unit reads back. -/
theorem memGet_memWrite_inside {a x : Nat} {l : List Byte} {s : State} (hc : marksIn a l.length s = []) (h1 : a ≤ x)
    (h2 : x < a + l.length) : memGet x (memWrite a l s) = l.getD (x - a) 0 := by
  unfold memWrite
  rw [memGet_memStore_clean hc (by omega), memGet_memSet_bytes l h1 h2]

end Sys2Proof.Machine
end

