-- ==== Sys2Proof/Laws/Units.lean ====
section
/-! SUPPORT. What the updates of one hand-off, queue, chamber, port, session or known package leave alone: one lemma per
field and update, and what a read of the same one gives afterwards. -/

namespace Sys2Proof.Machine

@[simp] theorem setHo_clk (k : Nat) (x : Handoff) (s : State) : (setHo k x s).clk = s.clk := rfl
@[simp] theorem setHo_regs (k : Nat) (x : Handoff) (s : State) : (setHo k x s).regs = s.regs := rfl
@[simp] theorem setHo_latches (k : Nat) (x : Handoff) (s : State) : (setHo k x s).latches = s.latches := rfl
@[simp] theorem setHo_cores (k : Nat) (x : Handoff) (s : State) : (setHo k x s).cores = s.cores := rfl
@[simp] theorem setHo_progs (k : Nat) (x : Handoff) (s : State) : (setHo k x s).progs = s.progs := rfl
@[simp] theorem setHo_loading (k : Nat) (x : Handoff) (s : State) : (setHo k x s).loading = s.loading := rfl
@[simp] theorem setHo_insts (k : Nat) (x : Handoff) (s : State) : (setHo k x s).insts = s.insts := rfl
@[simp] theorem setHo_instNo (k : Nat) (x : Handoff) (s : State) : (setHo k x s).instNo = s.instNo := rfl
@[simp] theorem setHo_queues (k : Nat) (x : Handoff) (s : State) : (setHo k x s).queues = s.queues := rfl
@[simp] theorem setHo_bells (k : Nat) (x : Handoff) (s : State) : (setHo k x s).bells = s.bells := rfl
@[simp] theorem setHo_armed (k : Nat) (x : Handoff) (s : State) : (setHo k x s).armed = s.armed := rfl
@[simp] theorem setHo_waiters (k : Nat) (x : Handoff) (s : State) : (setHo k x s).waiters = s.waiters := rfl
@[simp] theorem setHo_mem (k : Nat) (x : Handoff) (s : State) : (setHo k x s).mem = s.mem := rfl
@[simp] theorem setHo_flash (k : Nat) (x : Handoff) (s : State) : (setHo k x s).flash = s.flash := rfl
@[simp] theorem setHo_ecc (k : Nat) (x : Handoff) (s : State) : (setHo k x s).ecc = s.ecc := rfl
@[simp] theorem setHo_chans (k : Nat) (x : Handoff) (s : State) : (setHo k x s).chans = s.chans := rfl
@[simp] theorem setHo_cab (k : Nat) (x : Handoff) (s : State) : (setHo k x s).cab = s.cab := rfl
@[simp] theorem setHo_bur (k : Nat) (x : Handoff) (s : State) : (setHo k x s).bur = s.bur := rfl
@[simp] theorem setHo_perf (k : Nat) (x : Handoff) (s : State) : (setHo k x s).perf = s.perf := rfl
@[simp] theorem setHo_drp (k : Nat) (x : Handoff) (s : State) : (setHo k x s).drp = s.drp := rfl
@[simp] theorem setHo_fab (k : Nat) (x : Handoff) (s : State) : (setHo k x s).fab = s.fab := rfl
@[simp] theorem setHo_gzl (k : Nat) (x : Handoff) (s : State) : (setHo k x s).gzl = s.gzl := rfl
@[simp] theorem setHo_sec (k : Nat) (x : Handoff) (s : State) : (setHo k x s).sec = s.sec := rfl
@[simp] theorem setHo_stool (k : Nat) (x : Handoff) (s : State) : (setHo k x s).stool = s.stool := rfl
@[simp] theorem setHo_pwr (k : Nat) (x : Handoff) (s : State) : (setHo k x s).pwr = s.pwr := rfl
@[simp] theorem setHo_col (k : Nat) (x : Handoff) (s : State) : (setHo k x s).col = s.col := rfl
@[simp] theorem setHo_host (k : Nat) (x : Handoff) (s : State) : (setHo k x s).host = s.host := rfl
@[simp] theorem setHo_nv (k : Nat) (x : Handoff) (s : State) : (setHo k x s).nv = s.nv := rfl
@[simp] theorem setHo_boot (k : Nat) (x : Handoff) (s : State) : (setHo k x s).boot = s.boot := rfl
@[simp] theorem setHo_rst (k : Nat) (x : Handoff) (s : State) : (setHo k x s).rst = s.rst := rfl
@[simp] theorem setHo_fwu (k : Nat) (x : Handoff) (s : State) : (setHo k x s).fwu = s.fwu := rfl
@[simp] theorem setHo_mgmt (k : Nat) (x : Handoff) (s : State) : (setHo k x s).mgmt = s.mgmt := rfl
@[simp] theorem setHo_spdm (k : Nat) (x : Handoff) (s : State) : (setHo k x s).spdm = s.spdm := rfl
@[simp] theorem setHo_tap (k : Nat) (x : Handoff) (s : State) : (setHo k x s).tap = s.tap := rfl
@[simp] theorem setHo_busyParts (k : Nat) (x : Handoff) (s : State) : (setHo k x s).busyParts = s.busyParts := rfl
@[simp] theorem setHo_computeReset (k : Nat) (x : Handoff) (s : State) : (setHo k x s).computeReset = s.computeReset := rfl
@[simp] theorem setHo_out (k : Nat) (x : Handoff) (s : State) : (setHo k x s).out = s.out := rfl
@[simp] theorem setHo_freeCtr (k : Nat) (x : Handoff) (s : State) : (setHo k x s).freeCtr = s.freeCtr := rfl
@[simp] theorem setHo_pending (k : Nat) (x : Handoff) (s : State) : (setHo k x s).pending = s.pending := rfl

@[simp] theorem modQueue_clk (q : Nat) (f : Queue → Queue) (s : State) : (modQueue q f s).clk = s.clk := rfl
@[simp] theorem modQueue_regs (q : Nat) (f : Queue → Queue) (s : State) : (modQueue q f s).regs = s.regs := rfl
@[simp] theorem modQueue_latches (q : Nat) (f : Queue → Queue) (s : State) : (modQueue q f s).latches = s.latches := rfl
@[simp] theorem modQueue_handoffs (q : Nat) (f : Queue → Queue) (s : State) : (modQueue q f s).handoffs = s.handoffs := rfl
@[simp] theorem modQueue_cores (q : Nat) (f : Queue → Queue) (s : State) : (modQueue q f s).cores = s.cores := rfl
@[simp] theorem modQueue_progs (q : Nat) (f : Queue → Queue) (s : State) : (modQueue q f s).progs = s.progs := rfl
@[simp] theorem modQueue_loading (q : Nat) (f : Queue → Queue) (s : State) : (modQueue q f s).loading = s.loading := rfl
@[simp] theorem modQueue_insts (q : Nat) (f : Queue → Queue) (s : State) : (modQueue q f s).insts = s.insts := rfl
@[simp] theorem modQueue_instNo (q : Nat) (f : Queue → Queue) (s : State) : (modQueue q f s).instNo = s.instNo := rfl
@[simp] theorem modQueue_bells (q : Nat) (f : Queue → Queue) (s : State) : (modQueue q f s).bells = s.bells := rfl
@[simp] theorem modQueue_armed (q : Nat) (f : Queue → Queue) (s : State) : (modQueue q f s).armed = s.armed := rfl
@[simp] theorem modQueue_waiters (q : Nat) (f : Queue → Queue) (s : State) : (modQueue q f s).waiters = s.waiters := rfl
@[simp] theorem modQueue_mem (q : Nat) (f : Queue → Queue) (s : State) : (modQueue q f s).mem = s.mem := rfl
@[simp] theorem modQueue_flash (q : Nat) (f : Queue → Queue) (s : State) : (modQueue q f s).flash = s.flash := rfl
@[simp] theorem modQueue_ecc (q : Nat) (f : Queue → Queue) (s : State) : (modQueue q f s).ecc = s.ecc := rfl
@[simp] theorem modQueue_chans (q : Nat) (f : Queue → Queue) (s : State) : (modQueue q f s).chans = s.chans := rfl
@[simp] theorem modQueue_cab (q : Nat) (f : Queue → Queue) (s : State) : (modQueue q f s).cab = s.cab := rfl
@[simp] theorem modQueue_bur (q : Nat) (f : Queue → Queue) (s : State) : (modQueue q f s).bur = s.bur := rfl
@[simp] theorem modQueue_perf (q : Nat) (f : Queue → Queue) (s : State) : (modQueue q f s).perf = s.perf := rfl
@[simp] theorem modQueue_drp (q : Nat) (f : Queue → Queue) (s : State) : (modQueue q f s).drp = s.drp := rfl
@[simp] theorem modQueue_fab (q : Nat) (f : Queue → Queue) (s : State) : (modQueue q f s).fab = s.fab := rfl
@[simp] theorem modQueue_gzl (q : Nat) (f : Queue → Queue) (s : State) : (modQueue q f s).gzl = s.gzl := rfl
@[simp] theorem modQueue_sec (q : Nat) (f : Queue → Queue) (s : State) : (modQueue q f s).sec = s.sec := rfl
@[simp] theorem modQueue_stool (q : Nat) (f : Queue → Queue) (s : State) : (modQueue q f s).stool = s.stool := rfl
@[simp] theorem modQueue_pwr (q : Nat) (f : Queue → Queue) (s : State) : (modQueue q f s).pwr = s.pwr := rfl
@[simp] theorem modQueue_col (q : Nat) (f : Queue → Queue) (s : State) : (modQueue q f s).col = s.col := rfl
@[simp] theorem modQueue_host (q : Nat) (f : Queue → Queue) (s : State) : (modQueue q f s).host = s.host := rfl
@[simp] theorem modQueue_nv (q : Nat) (f : Queue → Queue) (s : State) : (modQueue q f s).nv = s.nv := rfl
@[simp] theorem modQueue_boot (q : Nat) (f : Queue → Queue) (s : State) : (modQueue q f s).boot = s.boot := rfl
@[simp] theorem modQueue_rst (q : Nat) (f : Queue → Queue) (s : State) : (modQueue q f s).rst = s.rst := rfl
@[simp] theorem modQueue_fwu (q : Nat) (f : Queue → Queue) (s : State) : (modQueue q f s).fwu = s.fwu := rfl
@[simp] theorem modQueue_mgmt (q : Nat) (f : Queue → Queue) (s : State) : (modQueue q f s).mgmt = s.mgmt := rfl
@[simp] theorem modQueue_spdm (q : Nat) (f : Queue → Queue) (s : State) : (modQueue q f s).spdm = s.spdm := rfl
@[simp] theorem modQueue_tap (q : Nat) (f : Queue → Queue) (s : State) : (modQueue q f s).tap = s.tap := rfl
@[simp] theorem modQueue_busyParts (q : Nat) (f : Queue → Queue) (s : State) : (modQueue q f s).busyParts = s.busyParts := rfl
@[simp] theorem modQueue_computeReset (q : Nat) (f : Queue → Queue) (s : State) : (modQueue q f s).computeReset = s.computeReset := rfl
@[simp] theorem modQueue_out (q : Nat) (f : Queue → Queue) (s : State) : (modQueue q f s).out = s.out := rfl
@[simp] theorem modQueue_freeCtr (q : Nat) (f : Queue → Queue) (s : State) : (modQueue q f s).freeCtr = s.freeCtr := rfl
@[simp] theorem modQueue_pending (q : Nat) (f : Queue → Queue) (s : State) : (modQueue q f s).pending = s.pending := rfl

@[simp] theorem setCh_clk (id : Nat) (x : Chamber) (s : State) : (setCh id x s).clk = s.clk := rfl
@[simp] theorem setCh_regs (id : Nat) (x : Chamber) (s : State) : (setCh id x s).regs = s.regs := rfl
@[simp] theorem setCh_latches (id : Nat) (x : Chamber) (s : State) : (setCh id x s).latches = s.latches := rfl
@[simp] theorem setCh_handoffs (id : Nat) (x : Chamber) (s : State) : (setCh id x s).handoffs = s.handoffs := rfl
@[simp] theorem setCh_cores (id : Nat) (x : Chamber) (s : State) : (setCh id x s).cores = s.cores := rfl
@[simp] theorem setCh_progs (id : Nat) (x : Chamber) (s : State) : (setCh id x s).progs = s.progs := rfl
@[simp] theorem setCh_loading (id : Nat) (x : Chamber) (s : State) : (setCh id x s).loading = s.loading := rfl
@[simp] theorem setCh_insts (id : Nat) (x : Chamber) (s : State) : (setCh id x s).insts = s.insts := rfl
@[simp] theorem setCh_instNo (id : Nat) (x : Chamber) (s : State) : (setCh id x s).instNo = s.instNo := rfl
@[simp] theorem setCh_queues (id : Nat) (x : Chamber) (s : State) : (setCh id x s).queues = s.queues := rfl
@[simp] theorem setCh_bells (id : Nat) (x : Chamber) (s : State) : (setCh id x s).bells = s.bells := rfl
@[simp] theorem setCh_armed (id : Nat) (x : Chamber) (s : State) : (setCh id x s).armed = s.armed := rfl
@[simp] theorem setCh_waiters (id : Nat) (x : Chamber) (s : State) : (setCh id x s).waiters = s.waiters := rfl
@[simp] theorem setCh_mem (id : Nat) (x : Chamber) (s : State) : (setCh id x s).mem = s.mem := rfl
@[simp] theorem setCh_flash (id : Nat) (x : Chamber) (s : State) : (setCh id x s).flash = s.flash := rfl
@[simp] theorem setCh_ecc (id : Nat) (x : Chamber) (s : State) : (setCh id x s).ecc = s.ecc := rfl
@[simp] theorem setCh_chans (id : Nat) (x : Chamber) (s : State) : (setCh id x s).chans = s.chans := rfl
@[simp] theorem setCh_cab (id : Nat) (x : Chamber) (s : State) : (setCh id x s).cab = s.cab := rfl
@[simp] theorem setCh_bur (id : Nat) (x : Chamber) (s : State) : (setCh id x s).bur = s.bur := rfl
@[simp] theorem setCh_perf (id : Nat) (x : Chamber) (s : State) : (setCh id x s).perf = s.perf := rfl
@[simp] theorem setCh_drp (id : Nat) (x : Chamber) (s : State) : (setCh id x s).drp = s.drp := rfl
@[simp] theorem setCh_fab (id : Nat) (x : Chamber) (s : State) : (setCh id x s).fab = s.fab := rfl
@[simp] theorem setCh_gzl (id : Nat) (x : Chamber) (s : State) : (setCh id x s).gzl = s.gzl := rfl
@[simp] theorem setCh_sec (id : Nat) (x : Chamber) (s : State) : (setCh id x s).sec = s.sec := rfl
@[simp] theorem setCh_stool (id : Nat) (x : Chamber) (s : State) : (setCh id x s).stool = s.stool := rfl
@[simp] theorem setCh_pwr (id : Nat) (x : Chamber) (s : State) : (setCh id x s).pwr = s.pwr := rfl
@[simp] theorem setCh_host (id : Nat) (x : Chamber) (s : State) : (setCh id x s).host = s.host := rfl
@[simp] theorem setCh_nv (id : Nat) (x : Chamber) (s : State) : (setCh id x s).nv = s.nv := rfl
@[simp] theorem setCh_boot (id : Nat) (x : Chamber) (s : State) : (setCh id x s).boot = s.boot := rfl
@[simp] theorem setCh_rst (id : Nat) (x : Chamber) (s : State) : (setCh id x s).rst = s.rst := rfl
@[simp] theorem setCh_fwu (id : Nat) (x : Chamber) (s : State) : (setCh id x s).fwu = s.fwu := rfl
@[simp] theorem setCh_mgmt (id : Nat) (x : Chamber) (s : State) : (setCh id x s).mgmt = s.mgmt := rfl
@[simp] theorem setCh_spdm (id : Nat) (x : Chamber) (s : State) : (setCh id x s).spdm = s.spdm := rfl
@[simp] theorem setCh_tap (id : Nat) (x : Chamber) (s : State) : (setCh id x s).tap = s.tap := rfl
@[simp] theorem setCh_busyParts (id : Nat) (x : Chamber) (s : State) : (setCh id x s).busyParts = s.busyParts := rfl
@[simp] theorem setCh_computeReset (id : Nat) (x : Chamber) (s : State) : (setCh id x s).computeReset = s.computeReset := rfl
@[simp] theorem setCh_out (id : Nat) (x : Chamber) (s : State) : (setCh id x s).out = s.out := rfl
@[simp] theorem setCh_freeCtr (id : Nat) (x : Chamber) (s : State) : (setCh id x s).freeCtr = s.freeCtr := rfl
@[simp] theorem setCh_pending (id : Nat) (x : Chamber) (s : State) : (setCh id x s).pending = s.pending := rfl

@[simp] theorem modCh_clk (id : Nat) (f : Chamber → Chamber) (s : State) : (modCh id f s).clk = s.clk := rfl
@[simp] theorem modCh_regs (id : Nat) (f : Chamber → Chamber) (s : State) : (modCh id f s).regs = s.regs := rfl
@[simp] theorem modCh_latches (id : Nat) (f : Chamber → Chamber) (s : State) : (modCh id f s).latches = s.latches := rfl
@[simp] theorem modCh_handoffs (id : Nat) (f : Chamber → Chamber) (s : State) : (modCh id f s).handoffs = s.handoffs := rfl
@[simp] theorem modCh_cores (id : Nat) (f : Chamber → Chamber) (s : State) : (modCh id f s).cores = s.cores := rfl
@[simp] theorem modCh_progs (id : Nat) (f : Chamber → Chamber) (s : State) : (modCh id f s).progs = s.progs := rfl
@[simp] theorem modCh_loading (id : Nat) (f : Chamber → Chamber) (s : State) : (modCh id f s).loading = s.loading := rfl
@[simp] theorem modCh_insts (id : Nat) (f : Chamber → Chamber) (s : State) : (modCh id f s).insts = s.insts := rfl
@[simp] theorem modCh_instNo (id : Nat) (f : Chamber → Chamber) (s : State) : (modCh id f s).instNo = s.instNo := rfl
@[simp] theorem modCh_queues (id : Nat) (f : Chamber → Chamber) (s : State) : (modCh id f s).queues = s.queues := rfl
@[simp] theorem modCh_bells (id : Nat) (f : Chamber → Chamber) (s : State) : (modCh id f s).bells = s.bells := rfl
@[simp] theorem modCh_armed (id : Nat) (f : Chamber → Chamber) (s : State) : (modCh id f s).armed = s.armed := rfl
@[simp] theorem modCh_waiters (id : Nat) (f : Chamber → Chamber) (s : State) : (modCh id f s).waiters = s.waiters := rfl
@[simp] theorem modCh_mem (id : Nat) (f : Chamber → Chamber) (s : State) : (modCh id f s).mem = s.mem := rfl
@[simp] theorem modCh_flash (id : Nat) (f : Chamber → Chamber) (s : State) : (modCh id f s).flash = s.flash := rfl
@[simp] theorem modCh_ecc (id : Nat) (f : Chamber → Chamber) (s : State) : (modCh id f s).ecc = s.ecc := rfl
@[simp] theorem modCh_chans (id : Nat) (f : Chamber → Chamber) (s : State) : (modCh id f s).chans = s.chans := rfl
@[simp] theorem modCh_cab (id : Nat) (f : Chamber → Chamber) (s : State) : (modCh id f s).cab = s.cab := rfl
@[simp] theorem modCh_bur (id : Nat) (f : Chamber → Chamber) (s : State) : (modCh id f s).bur = s.bur := rfl
@[simp] theorem modCh_perf (id : Nat) (f : Chamber → Chamber) (s : State) : (modCh id f s).perf = s.perf := rfl
@[simp] theorem modCh_drp (id : Nat) (f : Chamber → Chamber) (s : State) : (modCh id f s).drp = s.drp := rfl
@[simp] theorem modCh_fab (id : Nat) (f : Chamber → Chamber) (s : State) : (modCh id f s).fab = s.fab := rfl
@[simp] theorem modCh_gzl (id : Nat) (f : Chamber → Chamber) (s : State) : (modCh id f s).gzl = s.gzl := rfl
@[simp] theorem modCh_sec (id : Nat) (f : Chamber → Chamber) (s : State) : (modCh id f s).sec = s.sec := rfl
@[simp] theorem modCh_stool (id : Nat) (f : Chamber → Chamber) (s : State) : (modCh id f s).stool = s.stool := rfl
@[simp] theorem modCh_pwr (id : Nat) (f : Chamber → Chamber) (s : State) : (modCh id f s).pwr = s.pwr := rfl
@[simp] theorem modCh_host (id : Nat) (f : Chamber → Chamber) (s : State) : (modCh id f s).host = s.host := rfl
@[simp] theorem modCh_nv (id : Nat) (f : Chamber → Chamber) (s : State) : (modCh id f s).nv = s.nv := rfl
@[simp] theorem modCh_boot (id : Nat) (f : Chamber → Chamber) (s : State) : (modCh id f s).boot = s.boot := rfl
@[simp] theorem modCh_rst (id : Nat) (f : Chamber → Chamber) (s : State) : (modCh id f s).rst = s.rst := rfl
@[simp] theorem modCh_fwu (id : Nat) (f : Chamber → Chamber) (s : State) : (modCh id f s).fwu = s.fwu := rfl
@[simp] theorem modCh_mgmt (id : Nat) (f : Chamber → Chamber) (s : State) : (modCh id f s).mgmt = s.mgmt := rfl
@[simp] theorem modCh_spdm (id : Nat) (f : Chamber → Chamber) (s : State) : (modCh id f s).spdm = s.spdm := rfl
@[simp] theorem modCh_tap (id : Nat) (f : Chamber → Chamber) (s : State) : (modCh id f s).tap = s.tap := rfl
@[simp] theorem modCh_busyParts (id : Nat) (f : Chamber → Chamber) (s : State) : (modCh id f s).busyParts = s.busyParts := rfl
@[simp] theorem modCh_computeReset (id : Nat) (f : Chamber → Chamber) (s : State) : (modCh id f s).computeReset = s.computeReset := rfl
@[simp] theorem modCh_out (id : Nat) (f : Chamber → Chamber) (s : State) : (modCh id f s).out = s.out := rfl
@[simp] theorem modCh_freeCtr (id : Nat) (f : Chamber → Chamber) (s : State) : (modCh id f s).freeCtr = s.freeCtr := rfl
@[simp] theorem modCh_pending (id : Nat) (f : Chamber → Chamber) (s : State) : (modCh id f s).pending = s.pending := rfl

@[simp] theorem modPort_clk (p : Nat) (f : Port → Port) (s : State) : (modPort p f s).clk = s.clk := rfl
@[simp] theorem modPort_regs (p : Nat) (f : Port → Port) (s : State) : (modPort p f s).regs = s.regs := rfl
@[simp] theorem modPort_latches (p : Nat) (f : Port → Port) (s : State) : (modPort p f s).latches = s.latches := rfl
@[simp] theorem modPort_handoffs (p : Nat) (f : Port → Port) (s : State) : (modPort p f s).handoffs = s.handoffs := rfl
@[simp] theorem modPort_cores (p : Nat) (f : Port → Port) (s : State) : (modPort p f s).cores = s.cores := rfl
@[simp] theorem modPort_progs (p : Nat) (f : Port → Port) (s : State) : (modPort p f s).progs = s.progs := rfl
@[simp] theorem modPort_loading (p : Nat) (f : Port → Port) (s : State) : (modPort p f s).loading = s.loading := rfl
@[simp] theorem modPort_insts (p : Nat) (f : Port → Port) (s : State) : (modPort p f s).insts = s.insts := rfl
@[simp] theorem modPort_instNo (p : Nat) (f : Port → Port) (s : State) : (modPort p f s).instNo = s.instNo := rfl
@[simp] theorem modPort_queues (p : Nat) (f : Port → Port) (s : State) : (modPort p f s).queues = s.queues := rfl
@[simp] theorem modPort_bells (p : Nat) (f : Port → Port) (s : State) : (modPort p f s).bells = s.bells := rfl
@[simp] theorem modPort_armed (p : Nat) (f : Port → Port) (s : State) : (modPort p f s).armed = s.armed := rfl
@[simp] theorem modPort_waiters (p : Nat) (f : Port → Port) (s : State) : (modPort p f s).waiters = s.waiters := rfl
@[simp] theorem modPort_mem (p : Nat) (f : Port → Port) (s : State) : (modPort p f s).mem = s.mem := rfl
@[simp] theorem modPort_flash (p : Nat) (f : Port → Port) (s : State) : (modPort p f s).flash = s.flash := rfl
@[simp] theorem modPort_ecc (p : Nat) (f : Port → Port) (s : State) : (modPort p f s).ecc = s.ecc := rfl
@[simp] theorem modPort_chans (p : Nat) (f : Port → Port) (s : State) : (modPort p f s).chans = s.chans := rfl
@[simp] theorem modPort_cab (p : Nat) (f : Port → Port) (s : State) : (modPort p f s).cab = s.cab := rfl
@[simp] theorem modPort_bur (p : Nat) (f : Port → Port) (s : State) : (modPort p f s).bur = s.bur := rfl
@[simp] theorem modPort_perf (p : Nat) (f : Port → Port) (s : State) : (modPort p f s).perf = s.perf := rfl
@[simp] theorem modPort_drp (p : Nat) (f : Port → Port) (s : State) : (modPort p f s).drp = s.drp := rfl
@[simp] theorem modPort_gzl (p : Nat) (f : Port → Port) (s : State) : (modPort p f s).gzl = s.gzl := rfl
@[simp] theorem modPort_sec (p : Nat) (f : Port → Port) (s : State) : (modPort p f s).sec = s.sec := rfl
@[simp] theorem modPort_stool (p : Nat) (f : Port → Port) (s : State) : (modPort p f s).stool = s.stool := rfl
@[simp] theorem modPort_pwr (p : Nat) (f : Port → Port) (s : State) : (modPort p f s).pwr = s.pwr := rfl
@[simp] theorem modPort_col (p : Nat) (f : Port → Port) (s : State) : (modPort p f s).col = s.col := rfl
@[simp] theorem modPort_host (p : Nat) (f : Port → Port) (s : State) : (modPort p f s).host = s.host := rfl
@[simp] theorem modPort_nv (p : Nat) (f : Port → Port) (s : State) : (modPort p f s).nv = s.nv := rfl
@[simp] theorem modPort_boot (p : Nat) (f : Port → Port) (s : State) : (modPort p f s).boot = s.boot := rfl
@[simp] theorem modPort_rst (p : Nat) (f : Port → Port) (s : State) : (modPort p f s).rst = s.rst := rfl
@[simp] theorem modPort_fwu (p : Nat) (f : Port → Port) (s : State) : (modPort p f s).fwu = s.fwu := rfl
@[simp] theorem modPort_mgmt (p : Nat) (f : Port → Port) (s : State) : (modPort p f s).mgmt = s.mgmt := rfl
@[simp] theorem modPort_spdm (p : Nat) (f : Port → Port) (s : State) : (modPort p f s).spdm = s.spdm := rfl
@[simp] theorem modPort_tap (p : Nat) (f : Port → Port) (s : State) : (modPort p f s).tap = s.tap := rfl
@[simp] theorem modPort_busyParts (p : Nat) (f : Port → Port) (s : State) : (modPort p f s).busyParts = s.busyParts := rfl
@[simp] theorem modPort_computeReset (p : Nat) (f : Port → Port) (s : State) : (modPort p f s).computeReset = s.computeReset := rfl
@[simp] theorem modPort_out (p : Nat) (f : Port → Port) (s : State) : (modPort p f s).out = s.out := rfl
@[simp] theorem modPort_freeCtr (p : Nat) (f : Port → Port) (s : State) : (modPort p f s).freeCtr = s.freeCtr := rfl
@[simp] theorem modPort_pending (p : Nat) (f : Port → Port) (s : State) : (modPort p f s).pending = s.pending := rfl

@[simp] theorem setSession_clk (e : BitVec 19) (x : Option Session) (s : State) : (setSession e x s).clk = s.clk := rfl
@[simp] theorem setSession_regs (e : BitVec 19) (x : Option Session) (s : State) : (setSession e x s).regs = s.regs := rfl
@[simp] theorem setSession_latches (e : BitVec 19) (x : Option Session) (s : State) : (setSession e x s).latches = s.latches := rfl
@[simp] theorem setSession_handoffs (e : BitVec 19) (x : Option Session) (s : State) : (setSession e x s).handoffs = s.handoffs := rfl
@[simp] theorem setSession_cores (e : BitVec 19) (x : Option Session) (s : State) : (setSession e x s).cores = s.cores := rfl
@[simp] theorem setSession_progs (e : BitVec 19) (x : Option Session) (s : State) : (setSession e x s).progs = s.progs := rfl
@[simp] theorem setSession_loading (e : BitVec 19) (x : Option Session) (s : State) : (setSession e x s).loading = s.loading := rfl
@[simp] theorem setSession_insts (e : BitVec 19) (x : Option Session) (s : State) : (setSession e x s).insts = s.insts := rfl
@[simp] theorem setSession_instNo (e : BitVec 19) (x : Option Session) (s : State) : (setSession e x s).instNo = s.instNo := rfl
@[simp] theorem setSession_queues (e : BitVec 19) (x : Option Session) (s : State) : (setSession e x s).queues = s.queues := rfl
@[simp] theorem setSession_bells (e : BitVec 19) (x : Option Session) (s : State) : (setSession e x s).bells = s.bells := rfl
@[simp] theorem setSession_armed (e : BitVec 19) (x : Option Session) (s : State) : (setSession e x s).armed = s.armed := rfl
@[simp] theorem setSession_waiters (e : BitVec 19) (x : Option Session) (s : State) : (setSession e x s).waiters = s.waiters := rfl
@[simp] theorem setSession_mem (e : BitVec 19) (x : Option Session) (s : State) : (setSession e x s).mem = s.mem := rfl
@[simp] theorem setSession_flash (e : BitVec 19) (x : Option Session) (s : State) : (setSession e x s).flash = s.flash := rfl
@[simp] theorem setSession_ecc (e : BitVec 19) (x : Option Session) (s : State) : (setSession e x s).ecc = s.ecc := rfl
@[simp] theorem setSession_chans (e : BitVec 19) (x : Option Session) (s : State) : (setSession e x s).chans = s.chans := rfl
@[simp] theorem setSession_cab (e : BitVec 19) (x : Option Session) (s : State) : (setSession e x s).cab = s.cab := rfl
@[simp] theorem setSession_bur (e : BitVec 19) (x : Option Session) (s : State) : (setSession e x s).bur = s.bur := rfl
@[simp] theorem setSession_perf (e : BitVec 19) (x : Option Session) (s : State) : (setSession e x s).perf = s.perf := rfl
@[simp] theorem setSession_drp (e : BitVec 19) (x : Option Session) (s : State) : (setSession e x s).drp = s.drp := rfl
@[simp] theorem setSession_gzl (e : BitVec 19) (x : Option Session) (s : State) : (setSession e x s).gzl = s.gzl := rfl
@[simp] theorem setSession_sec (e : BitVec 19) (x : Option Session) (s : State) : (setSession e x s).sec = s.sec := rfl
@[simp] theorem setSession_stool (e : BitVec 19) (x : Option Session) (s : State) : (setSession e x s).stool = s.stool := rfl
@[simp] theorem setSession_pwr (e : BitVec 19) (x : Option Session) (s : State) : (setSession e x s).pwr = s.pwr := rfl
@[simp] theorem setSession_col (e : BitVec 19) (x : Option Session) (s : State) : (setSession e x s).col = s.col := rfl
@[simp] theorem setSession_host (e : BitVec 19) (x : Option Session) (s : State) : (setSession e x s).host = s.host := rfl
@[simp] theorem setSession_nv (e : BitVec 19) (x : Option Session) (s : State) : (setSession e x s).nv = s.nv := rfl
@[simp] theorem setSession_boot (e : BitVec 19) (x : Option Session) (s : State) : (setSession e x s).boot = s.boot := rfl
@[simp] theorem setSession_rst (e : BitVec 19) (x : Option Session) (s : State) : (setSession e x s).rst = s.rst := rfl
@[simp] theorem setSession_fwu (e : BitVec 19) (x : Option Session) (s : State) : (setSession e x s).fwu = s.fwu := rfl
@[simp] theorem setSession_mgmt (e : BitVec 19) (x : Option Session) (s : State) : (setSession e x s).mgmt = s.mgmt := rfl
@[simp] theorem setSession_spdm (e : BitVec 19) (x : Option Session) (s : State) : (setSession e x s).spdm = s.spdm := rfl
@[simp] theorem setSession_tap (e : BitVec 19) (x : Option Session) (s : State) : (setSession e x s).tap = s.tap := rfl
@[simp] theorem setSession_busyParts (e : BitVec 19) (x : Option Session) (s : State) : (setSession e x s).busyParts = s.busyParts := rfl
@[simp] theorem setSession_computeReset (e : BitVec 19) (x : Option Session) (s : State) : (setSession e x s).computeReset = s.computeReset := rfl
@[simp] theorem setSession_out (e : BitVec 19) (x : Option Session) (s : State) : (setSession e x s).out = s.out := rfl
@[simp] theorem setSession_freeCtr (e : BitVec 19) (x : Option Session) (s : State) : (setSession e x s).freeCtr = s.freeCtr := rfl
@[simp] theorem setSession_pending (e : BitVec 19) (x : Option Session) (s : State) : (setSession e x s).pending = s.pending := rfl

@[simp] theorem setGzPeer_clk (e : BitVec 19) (x : GzlPeer) (s : State) : (setGzPeer e x s).clk = s.clk := rfl
@[simp] theorem setGzPeer_regs (e : BitVec 19) (x : GzlPeer) (s : State) : (setGzPeer e x s).regs = s.regs := rfl
@[simp] theorem setGzPeer_latches (e : BitVec 19) (x : GzlPeer) (s : State) : (setGzPeer e x s).latches = s.latches := rfl
@[simp] theorem setGzPeer_handoffs (e : BitVec 19) (x : GzlPeer) (s : State) : (setGzPeer e x s).handoffs = s.handoffs := rfl
@[simp] theorem setGzPeer_cores (e : BitVec 19) (x : GzlPeer) (s : State) : (setGzPeer e x s).cores = s.cores := rfl
@[simp] theorem setGzPeer_progs (e : BitVec 19) (x : GzlPeer) (s : State) : (setGzPeer e x s).progs = s.progs := rfl
@[simp] theorem setGzPeer_loading (e : BitVec 19) (x : GzlPeer) (s : State) : (setGzPeer e x s).loading = s.loading := rfl
@[simp] theorem setGzPeer_insts (e : BitVec 19) (x : GzlPeer) (s : State) : (setGzPeer e x s).insts = s.insts := rfl
@[simp] theorem setGzPeer_instNo (e : BitVec 19) (x : GzlPeer) (s : State) : (setGzPeer e x s).instNo = s.instNo := rfl
@[simp] theorem setGzPeer_queues (e : BitVec 19) (x : GzlPeer) (s : State) : (setGzPeer e x s).queues = s.queues := rfl
@[simp] theorem setGzPeer_bells (e : BitVec 19) (x : GzlPeer) (s : State) : (setGzPeer e x s).bells = s.bells := rfl
@[simp] theorem setGzPeer_armed (e : BitVec 19) (x : GzlPeer) (s : State) : (setGzPeer e x s).armed = s.armed := rfl
@[simp] theorem setGzPeer_waiters (e : BitVec 19) (x : GzlPeer) (s : State) : (setGzPeer e x s).waiters = s.waiters := rfl
@[simp] theorem setGzPeer_mem (e : BitVec 19) (x : GzlPeer) (s : State) : (setGzPeer e x s).mem = s.mem := rfl
@[simp] theorem setGzPeer_flash (e : BitVec 19) (x : GzlPeer) (s : State) : (setGzPeer e x s).flash = s.flash := rfl
@[simp] theorem setGzPeer_ecc (e : BitVec 19) (x : GzlPeer) (s : State) : (setGzPeer e x s).ecc = s.ecc := rfl
@[simp] theorem setGzPeer_chans (e : BitVec 19) (x : GzlPeer) (s : State) : (setGzPeer e x s).chans = s.chans := rfl
@[simp] theorem setGzPeer_cab (e : BitVec 19) (x : GzlPeer) (s : State) : (setGzPeer e x s).cab = s.cab := rfl
@[simp] theorem setGzPeer_bur (e : BitVec 19) (x : GzlPeer) (s : State) : (setGzPeer e x s).bur = s.bur := rfl
@[simp] theorem setGzPeer_perf (e : BitVec 19) (x : GzlPeer) (s : State) : (setGzPeer e x s).perf = s.perf := rfl
@[simp] theorem setGzPeer_drp (e : BitVec 19) (x : GzlPeer) (s : State) : (setGzPeer e x s).drp = s.drp := rfl
@[simp] theorem setGzPeer_fab (e : BitVec 19) (x : GzlPeer) (s : State) : (setGzPeer e x s).fab = s.fab := rfl
@[simp] theorem setGzPeer_sec (e : BitVec 19) (x : GzlPeer) (s : State) : (setGzPeer e x s).sec = s.sec := rfl
@[simp] theorem setGzPeer_stool (e : BitVec 19) (x : GzlPeer) (s : State) : (setGzPeer e x s).stool = s.stool := rfl
@[simp] theorem setGzPeer_pwr (e : BitVec 19) (x : GzlPeer) (s : State) : (setGzPeer e x s).pwr = s.pwr := rfl
@[simp] theorem setGzPeer_col (e : BitVec 19) (x : GzlPeer) (s : State) : (setGzPeer e x s).col = s.col := rfl
@[simp] theorem setGzPeer_host (e : BitVec 19) (x : GzlPeer) (s : State) : (setGzPeer e x s).host = s.host := rfl
@[simp] theorem setGzPeer_nv (e : BitVec 19) (x : GzlPeer) (s : State) : (setGzPeer e x s).nv = s.nv := rfl
@[simp] theorem setGzPeer_boot (e : BitVec 19) (x : GzlPeer) (s : State) : (setGzPeer e x s).boot = s.boot := rfl
@[simp] theorem setGzPeer_rst (e : BitVec 19) (x : GzlPeer) (s : State) : (setGzPeer e x s).rst = s.rst := rfl
@[simp] theorem setGzPeer_fwu (e : BitVec 19) (x : GzlPeer) (s : State) : (setGzPeer e x s).fwu = s.fwu := rfl
@[simp] theorem setGzPeer_mgmt (e : BitVec 19) (x : GzlPeer) (s : State) : (setGzPeer e x s).mgmt = s.mgmt := rfl
@[simp] theorem setGzPeer_spdm (e : BitVec 19) (x : GzlPeer) (s : State) : (setGzPeer e x s).spdm = s.spdm := rfl
@[simp] theorem setGzPeer_tap (e : BitVec 19) (x : GzlPeer) (s : State) : (setGzPeer e x s).tap = s.tap := rfl
@[simp] theorem setGzPeer_busyParts (e : BitVec 19) (x : GzlPeer) (s : State) : (setGzPeer e x s).busyParts = s.busyParts := rfl
@[simp] theorem setGzPeer_computeReset (e : BitVec 19) (x : GzlPeer) (s : State) : (setGzPeer e x s).computeReset = s.computeReset := rfl
@[simp] theorem setGzPeer_out (e : BitVec 19) (x : GzlPeer) (s : State) : (setGzPeer e x s).out = s.out := rfl
@[simp] theorem setGzPeer_freeCtr (e : BitVec 19) (x : GzlPeer) (s : State) : (setGzPeer e x s).freeCtr = s.freeCtr := rfl
@[simp] theorem setGzPeer_pending (e : BitVec 19) (x : GzlPeer) (s : State) : (setGzPeer e x s).pending = s.pending := rfl

@[simp] theorem getQueue_modQueue_same (q : Nat) (f : Queue → Queue) (s : State) :
    getQueue q (modQueue q f s) = f (getQueue q s) := getQueue_setQueue_same _ _ _
@[simp] theorem getCh_setCh_same (id : Nat) (x : Chamber) (s : State) : getCh id (setCh id x s) = x :=
  tget_tset_same _ _ _ _
theorem getCh_setCh_ne {i j : Nat} (h : j ≠ i) (x : Chamber) (s : State) : getCh j (setCh i x s) = getCh j s :=
  tget_tset_ne _ h _ _
@[simp] theorem getCh_modCh_same (id : Nat) (f : Chamber → Chamber) (s : State) : getCh id (modCh id f s) = f (getCh id s) :=
  getCh_setCh_same _ _ _
@[simp] theorem getSession_setSession_same (e : BitVec 19) (x : Option Session) (s : State) :
    getSession e (setSession e x s) = x := tget_tset_same _ _ _ _
@[simp] theorem gzPeer_setGzPeer_same (e : BitVec 19) (x : GzlPeer) (s : State) : gzPeer e (setGzPeer e x s) = some x :=
  tget_tset_same (fun _ => none) e.toNat (some x) s.gzl.peers

end Sys2Proof.Machine
end

