-- ==== Sys2Proof/Tests/Slice0.lean ====
section
/-! SUPPORT. Tests of this model's own: the ill-formed commands that WellFormed refuses, and, for every statement with
hypotheses, concrete states and operands that meet them. Values are written out by hand from the rules of the manual; a value
that Config leaves open is in none of them. -/

namespace Sys2Proof.Tests

set_option Elab.async false

open Sys2Proof Sys2Proof.Machine

/-- A state with fields of registers written: block base, field, value. -/
def wSet (l : List (Nat × Fld × Nat)) (s : State) : State := l.foldl (fun s x => fset x.1 x.2.1 x.2.2 s) s

/-- READY, every plane in RUN, the clusters and stacks in service, this package at EID 5, in sync and in pace. -/
def wUp : State := wSet [(hubB, fHUB_PLANE_STATUS_READY, 1), (hubB, fHUB_PLANE_STATUS_CTRL, 1),
  (hubB, fHUB_PLANE_STATUS_DATA, 1), (hubB, fHUB_PLANE_STATUS_MGMT, 1), (hubB, fHUB_CLUSTER_MAP_IN_SERVICE, 2 ^ 32 - 1),
  (hostB, fHOST_MGMT_LOCATED, 1), (gzlB, fGZL_SELF_RACK, 0), (gzlB, fGZL_SELF_TRAY, 1),
  (gzlB, fGZL_SELF_SOCKET, 1), (drpB, fDRP_STATUS_SYNC, 2), (drpB, fDRP_STATUS_PACE, 1), (drpB, fDRP_STATUS_DRIFT, 0)] <|
  wSet ((List.range 20).map fun st => (memB st, fMEM_STATUS_STATE, 2))
  { State.reset with clk := { State.reset.clk with locked := true, now := 10 ^ 12 }, boot := { State.reset.boot with phase := 2 } }

/-! WellFormed refuses one ill-formed command for each of its checks. -/

theorem test_wf_register_write_size :
    (Instr.registerWrite .mgA 0 0 0 0).wellFormed = false ∧ (Instr.registerWrite .mgA 0 513 0 0).wellFormed = false ∧
    (Instr.registerWrite .mgA 0 4 0 0).wellFormed = true := by decide +kernel

theorem test_wf_handoff_entry :
    (Instr.handoffEntrySend .sensorLerfen []).wellFormed = false ∧
    (Instr.handoffEntrySend .sensorLerfen (List.replicate 16 0)).wellFormed = true := by decide +kernel

theorem test_wf_images :
    (Instr.loadTranslationDone [⟨0, 0, 0, 1, 0, [], List.replicate 31 0, []⟩]).wellFormed = false ∧
    (Instr.loadTranslationDone [⟨0, 0, 0, 1, 1, [], List.replicate 32 0, []⟩]).wellFormed = false ∧
    (Instr.loadTranslationDone [⟨0, 0, 0, 1, 0, [], List.replicate 32 0, []⟩]).wellFormed = true := by decide +kernel

/-- A packet of a kind with n data bytes. -/
def wPkt (kind : BitVec 4) (kspec : BitVec 64) (n : Nat) : Packet :=
  ⟨2, kind, 1, false, false, 5, 9, 0, 0, 7, 3, 0, kspec, List.replicate n 0xAB,
    List.replicate 16 0⟩

theorem test_wf_packets :
    (Instr.packetRx 0 (wPkt 1 0 8129) 0).wellFormed = false ∧ (Instr.getReq 0 (wPkt 2 0 8129)).wellFormed = false ∧
    (Instr.getResp 0 (wPkt 3 0 8129)).wellFormed = false ∧ (Instr.notifyAdd 0 (wPkt 5 0 8129)).wellFormed = false ∧
    (Instr.chamberChunkRx 0 (wPkt 4 0 8129)).wellFormed = false ∧ (Instr.stallNotice 0 (wPkt 4 0 8129)).wellFormed = false ∧
    (Instr.doneToken 0 (wPkt 4 0 8129)).wellFormed = false ∧ (Instr.packetRx 0 (wPkt 1 0 8128) 0).wellFormed = true := by
  decide +kernel

/-- A handshake message with a nonce of n bytes. -/
def wSess (n : Nat) : SessMsg :=
  ⟨9, 5, List.replicate n 0, List.replicate 49 0, List.replicate 96 3, List.replicate 48 1, List.replicate 48 2, true, false, 0⟩

theorem test_wf_sessions :
    (Instr.sessInit (wSess 31)).wellFormed = false ∧ (Instr.sessResp (wSess 33)).wellFormed = false ∧
    (Instr.sessInit (wSess 32)).wellFormed = true ∧ (Instr.sessDone 9 []).wellFormed = false ∧
    (Instr.sessDone 9 (List.replicate 48 0)).wellFormed = true := by decide +kernel

theorem test_wf_gorzel :
    (Instr.sliceMap 0 0 []).wellFormed = false ∧ (Instr.sliceMap 0 0 (List.replicate 17 5)).wellFormed = false ∧
    (Instr.sliceMap 0 0 [5]).wellFormed = true ∧ (Instr.report ⟨9, [], 2, 1, 1, 1, 1, true⟩).wellFormed = false ∧
    (Instr.report ⟨9, List.replicate 32 2, 2, 1, 1, 1, 1, true⟩).wellFormed = true := by decide +kernel

theorem test_wf_samples :
    (Instr.railSample []).wellFormed = false ∧ (Instr.railSample (List.replicate 8 none)).wellFormed = true ∧
    (Instr.thermalSample []).wellFormed = false ∧ (Instr.thermalSample (List.replicate 124 none)).wellFormed = true := by
  decide +kernel

theorem test_wf_security :
    (Instr.challenge ⟨.i3c, 8⟩ 0 []).wellFormed = false ∧ (Instr.getMeasurements ⟨.i3c, 8⟩ 0 true []).wellFormed = false ∧
    (Instr.getMeasurements ⟨.i3c, 8⟩ 0 false [1]).wellFormed = false ∧ (Instr.getMeasurements ⟨.i3c, 8⟩ 0 false []).wellFormed = true := by
  decide +kernel

theorem test_wf_host :
    (Instr.barWrite 0 false 0 []).wellFormed = false ∧ (Instr.barWrite 0 false 0 (List.replicate 513 0)).wellFormed = false ∧
    (Instr.barRead 0 true 0 0).wellFormed = false ∧ (Instr.barRead 0 true 0 4097).wellFormed = false ∧
    (Instr.pcieLinkTrain 6 3).wellFormed = false ∧ (Instr.pcieLinkTrain 6 16).wellFormed = true ∧
    (Instr.icmpEcho .a 0 (List.replicate 1473 0)).wellFormed = false := by decide +kernel

/-- What a boot finds, with n entries of good cores. -/
def wBoot (n : Nat) : BootIn := ⟨true, true, true, List.replicate n 0x1FF, 0xFFFFFFFF, 0xFFFFF, 0, 7, 0, 0, [], false⟩

theorem test_wf_boot :
    (Instr.coldBoot (wBoot 31)).wellFormed = false ∧ (Instr.coldBoot (wBoot 32)).wellFormed = true ∧
    (Instr.resetDone ⟨0, [], 0, 0, 0, []⟩).wellFormed = false ∧
    (Instr.mgmtMessageCheck ⟨.a, 0x7E, 0, 2, 5, 0, 0, 0, 0, 9, 0, 0, 0, 0, [], [1]⟩).wellFormed = false ∧
    (Instr.mgmtMessageCheck ⟨.a, 0x7E, 0, 2, 5, 0, 0, 0, 0, 9, 0, 0, 0, 0, [], []⟩).wellFormed = true := by decide +kernel

/-! Witnesses: states and operands that meet the hypotheses of the statements, and what one step does there. -/

/-- The program of the witnesses: slot 2, instance 4, images at the start of the store. -/
def wRun : RunProg := ⟨2, 4, 100, 0, 0x8000, 16, 4, false, false, false⟩

/-- An engine instruction that waits. -/
def wEng (slot : BitVec 64) (done : Option (BitVec 8)) : EngInstr := ⟨slot, List.replicate 64 0, 0, 1, 0, 0, done⟩

/-- Core 3 runs the program, admitted, with these instructions in its queues. -/
def wCore (q : List (List EngInstr)) : State := { wUp with
  cores := [(3, { Core.idle with run := some wRun, q := q })], stool := { wUp.stool with admitted := [3] } }

def wIss : State := wCore (List.replicate 4 [])

theorem test_EmptyQueueTick :
    State.reset.pending = [] ∧ State.reset.clk.locked = false ∧ wUp.pending = [] ∧ wUp.clk.locked = true := by
  decide +kernel

theorem test_StepKeepsInv : Inv wUp = true ∧ Inv wIss = true := by decide +kernel

/-- A register with a field of each access type that a plain write touches. -/
theorem test_RegisterWriteByAccess :
    regBlock (burB + oBUR_EVENT) = some (.bur, burB) ∧ plainReg .bur oBUR_EVENT = true ∧
    ((regDesc (burB + oBUR_EVENT)).any fun d => d.fields.any fun f => f.acc == .w1c) = true ∧
    regStatus (.pf 0) (burB + oBUR_EVENT) true wUp = stOK ∧ (burB + oBUR_EVENT) % 4 = 0 ∧
    plainReg .gzl oGZL_SLICE_SEL = true ∧ regBlock (gzlB + oGZL_SLICE_SEL) = some (.gzl, gzlB) ∧
    ((regDesc (gzlB + oGZL_SLICE_SEL)).any fun d => d.fields.any fun f => f.acc == .rw) = true ∧
    regStatus .mgA (gzlB + oGZL_SLICE_SEL) true wUp = stOK := by decide +kernel

theorem test_SetWins :
    regBlock (burB + oBUR_EVENT) = some (.bur, burB) ∧ eBUR_EVENT_FATAL ∈ blkEvts .bur ∧
    bitOf (2 ^ eBUR_EVENT_FATAL.bit.lo) eBUR_EVENT_FATAL.bit.lo = true ∧ eBUR_EVENT_FATAL.bit.off = oBUR_EVENT := by
  decide +kernel

theorem test_RcFieldRead :
    regBlock (fabB 0 + 0x0010) = some (.fab, fabB 0) ∧
    regStatus (.pf 0) (perfB + oPERF_SRING_STAT) false wUp = stOK ∧
    regBlock (qmB + oQM_DROP) = some (.qm, qmB) ∧
    ((regDesc (qmB + oQM_DROP)).any fun d => d.fields.any fun f => f.acc == .rc) = true ∧
    regStatus (.pf 0) (qmB + oQM_DROP) false wUp = stOK ∧ (qmB + oQM_DROP) % 4 = 0 := by decide +kernel

theorem test_RcFieldRead_peaks :
    (fFAB_HEADROOM_CUR_KIB, fFAB_HEADROOM_PEAK_KIB) ∈ peakFields ∧ (fDepthCur 7, fDepthPeak 7) ∈ peakFields ∧
    regStatus (.pf 0) (fabB 0 + oFAB_HEADROOM) false wUp = stOK ∧
    regStatus (.pf 0) (fabB 31 + (fDepthPeak 7).off) false wUp = stOK ∧ regStatus (.pf 0) (fabB 0 + oFAB_SUMP) false wUp = stOK ∧
    0x0010 ∉ oFAB_SUMP :: peakFields.map fun x => x.2.off := by decide +kernel

theorem test_LatchedReads :
    regStatus (.pf 0) (drpB + oDRP_W_LO) false wUp = stOK ∧
    ctrReg (perfB + 0x400) = none ∧ (ctrReg (qmB + 0x400)).map (fun x => x.2) = some (0, 0) ∧
    (ctrReg (qmB + 0x408)).map (fun x => x.2) = some (0, 2) ∧ regStatus (.pf 0) (qmB + 0x400) false wUp = stOK ∧
    regStatus (.pf 0) (qmB + 0x408) false wUp = stOK := by decide +kernel

/-- A hand-off with n credits. -/
def wHo (n : Nat) (r : Bool) : State := { wSet [(burB, fBUR_CFG_STOP_EN, 0)] wUp with handoffs := [(1027, ⟨n, [], r⟩)] }

theorem test_HandoffCredits :
    hoKey (.sxNet 3) = 1027 ∧ hoDepth 1027 = 32 ∧ (getHo 1027 (wHo 1 false)).credits ≠ 0 ∧
    (getHo 1027 (wHo 0 false)).credits = 0 ∧ (getHo 1027 (wHo 5 true)).inReset = true ∧
    (getHo 1027 (wHo 31 false)).credits + 1 ≤ hoDepth 1027 ∧ hoDepth 1027 < (getHo 1027 (wHo 32 false)).credits + 1 ∧
    (getHo 1027 (wHo 32 false)).inReset = false ∧ fget burB fBUR_CFG_STOP_EN (wHo 32 false) = 0 ∧
    hoStands (.sxNet 3) (wHo 1 false) = false ∧ hoStands (.sxNet 3) (wSet [(burB, fBUR_STATUS_SAFE, 1)] (wHo 1 false)) = true ∧
    (∀ e ∈ (wHo 31 false).bur.held, 1027 ≠ 6656 + e.1) ∧
    (let s : State := { wUp with handoffs := [(6656, ⟨3, [[1]], false⟩)] }
     hoKey (.dieBureau 0) = 6656 ∧ hoStands (.dieBureau 0) s = false ∧ (getHo 6656 s).inReset = false ∧
     (getHo 6656 s).credits + 1 ≤ hoDepth 6656) := by decide +kernel

theorem test_HandoffCredits_collector :
    collectorFree 0 wUp = true ∧ collectorDie 0x1003 = some 0 ∧
    collectorFree 0 { wUp with handoffs := [(6656, ⟨0, [], false⟩)] } = false := by decide +kernel

/-- The program of slot 2 has a sync object at the start of stack memory in its sync slots. -/
def wSync (v : Byte) : State := { wIss with
  progs := [(2, ⟨1, some ⟨0, [], List.replicate 128 0x1000, []⟩⟩)], mem := if v = 0 then [] else [(0x1000, v)] }

theorem test_ControlOperations :
    issuing 3 wIss = some wRun ∧ enginesIdle 3 wIss = true ∧ (getCore 3 wIss).lc.getD 0 0 = 0 ∧
    reaches48 wIss.clk.p (wRun.t0 + (0 : BitVec 39).setWidth 48) = false ∧
    reaches48 (100 : BitVec 48) (wRun.t0 + (0 : BitVec 39).setWidth 48) = true ∧
    issuing 3 (wSync 9) = some wRun ∧ syncSlot wRun 0 (wSync 9) ≠ 0 ∧ (wSync 9).waiters = [] ∧
    reaches32 (memW (syncSlot wRun 0 (wSync 9)) (wSync 9)) 9 = true ∧
    reaches32 (memW (syncSlot wRun 0 (wSync 9)) (wSync 9)) 10 = false := by decide +kernel

theorem test_ControlOperations_paced :
    issuing 3 { wIss with clk := { wIss.clk with p := 100 } } = some wRun ∧
    issuing 3 { wIss with cores := [(3, { getCore 3 wIss with lc := List.replicate 8 2 })] } = some wRun := by
  decide +kernel

theorem test_ControlWaits :
    issuing 3 (wCore [[wEng 0 none], [], [], []]) = some wRun ∧
    enginesIdle 3 (wCore [[wEng 0 none], [], [], []]) = false ∧ syncSlot wRun 0 wIss = 0 := by decide +kernel

/-- Core 3 waits at PC 0 for the object of its sync slot 0, woken or not. -/
def wWaiter (woken : Bool) : Waiter := ⟨true, 3, 0, 0x1000, 9, woken⟩

theorem test_ControlWaits_sync :
    (∀ v ∈ ([9, 0] : List Byte),
      slotStatus 3 (syncSlot wRun 0 (wSync v)) (wSync v) = stOK ∧ marksIn 0x1000 4 (wSync v) = [] ∧ syncSlot wRun 0 (wSync v) = 0x1000 ∧
      issuing 3 (wSync v) = some wRun ∧ progPc 3 (wSync v) = 0) ∧
    (∀ b ∈ [false, true],
      let s : State := { wSync 0 with waiters := [wWaiter b] }
      issuing 3 s = some wRun ∧ slotStatus 3 (syncSlot wRun 0 s) s = stOK ∧
      (s.waiters.find? fun w => w.isCore == true && w.id == 3 && w.idx == progPc 3 s) = some (wWaiter b)) ∧
    (let s : State := { wSync 0 with ecc := [(0x1000, 2)] }
     issuing 3 s = some wRun ∧ slotStatus 3 (syncSlot wRun 0 s) s = stOK ∧ (readAll 0x1000 4 s).2 = true ∧ s.waiters = []) ∧
    slotStatus 3 (syncSlot wRun 0 wIss) wIss = stFORMAT := by decide +kernel

theorem test_BundleIssueWhole :
    issuing 3 wIss = some wRun ∧ progPc 3 wIss < wRun.nBund ∧
    (let b := memBytes (coreStore 3 + wRun.bundOff + 32 * progPc 3 wIss) 32 wIss
     let l := (List.range 4).map fun e => (e, bundleSlot b e)
     marksIn (coreStore 3) 32 wIss = [] ∧ (∀ x ∈ l, x.1 ≠ 2 → slotOp x.1 x.2 ≠ 0 → marksIn (odtAddr 3 wRun x.2) 64 wIss = []) ∧
     leNat (bytesAt b 0 8) = 0 ∧ lecOk 3 0 wIss = true ∧ roomOk 3 l wIss = true ∧
     (∀ x ∈ l, slotCheck 3 x.1 x.2 wRun wIss = stOK)) := by decide +kernel

/-- Core 3 whose bundle 0 has a slot for engine 0, with n instructions waiting there. -/
def wFull (n : Nat) : State := { wCore [List.replicate n (wEng 0 none), [], [], []] with
  mem := [(coreStore 3 + 11, 0x10)] }

/-- A bundle whose slot for the vector engine has a reserved operation code does not pass its checks. -/
theorem test_BundleIssueWhole_fails :
    (let s : State := { wIss with mem := [(coreStore 3 + 0x17, 0xFF)] }
     let b := memBytes (coreStore 3) 32 s
     let l := (List.range 4).map fun e => (e, bundleSlot b e)
     issuing 3 s = some wRun ∧ progPc 3 s < wRun.nBund ∧ marksIn (coreStore 3) 32 s = [] ∧
     (∀ x ∈ l, x.1 ≠ 2 → slotOp x.1 x.2 ≠ 0 → marksIn (odtAddr 3 wRun x.2) 64 s = []) ∧ leNat (bytesAt b 0 8) = 0 ∧
     (lecOk 3 0 s && roomOk 3 l s) = true ∧ (firstBad 3 l wRun s).map Prod.fst = some 2) := by decide +kernel

theorem test_BundleIssueWhole_waits :
    issuing 3 (wFull 4) = some wRun ∧
    (let b := memBytes (coreStore 3) 32 (wFull 4)
     let l := (List.range 4).map fun e => (e, bundleSlot b e)
     slotOp 0 (bundleSlot b 0) = 1 ∧ roomOk 3 l (wFull 4) = false ∧ roomOk 3 l (wFull 3) = true) := by decide +kernel

theorem test_SignalAndEnd :
    issuing 3 (wSync 9) = some wRun ∧ enginesIdle 3 (wSync 9) = true ∧ Memory.wf (wSync 9).mem = true ∧
    (getCore 3 (wSync 9)).signals = [] ∧ isUE 0x1000 (wSync 9) = false ∧ marksIn 0x1000 4 (wSync 9) = [] ∧
    syncSlot wRun 0 (wSync 9) = 0x1000 ∧ syncOk (corePart 3 (wSync 9)) 0x1000 (wSync 9) = true ∧
    (let s : State := { wIss with progs := [(2, ⟨1, some ⟨0, [], List.replicate 128 0x1008, []⟩⟩)] }
     issuing 3 s = some wRun ∧ enginesIdle 3 s = true ∧ syncSlot wRun 0 s = 0x1008 ∧ syncOk (corePart 3 s) 0x1008 s = false) := by
  decide +kernel

theorem test_SignalAndEnd_slot :
    slotStatus 3 (syncSlot wRun 0 (wSync 9)) (wSync 9) = stOK ∧ slotStatus 3 0x1008 (wSync 9) = stDENIED := by decide +kernel

/-- A GET whose NOTIFY names the sync object at 0x1000. -/
def wGetDone : EngInstr := { wEng 0 (some stOK) with
  odt := leBytes 4 0x20000000 ++ List.replicate 20 0 ++ leBytes 8 0x1000 ++ List.replicate 32 0 }

theorem test_EngineInstrComplete :
    headOf 3 0 (wCore [[wEng 0 (some stOK)], [], [], []]) = some (wEng 0 (some stOK)) ∧
    (getCore 3 (wCore [[wEng 0 (some stOK)], [], [], []])).signals = [] ∧
    (let s : State := wCore [[], [], [], [wGetDone]]
     headOf 3 3 s = some wGetDone ∧ wGetDone.done = some stOK ∧ (sxDesc wGetDone.odt).sop = 2 ∧
     (sxDesc wGetDone.odt).notify = 0x1000 ∧ syncOk (corePart 3 s) 0x1000 s = true ∧ Memory.wf s.mem = true ∧
     isUE 0x1000 s = false ∧ marksIn 0x1000 4 s = [] ∧ isLocalPkg (corePart 3 s) (sxDesc wGetDone.odt).dst s = true) ∧
    isSafe wUp = false ∧
    (let s := wSet [(burB, fBUR_STATUS_SAFE, 1)] (wCore [[wEng 0 (some stOK)], [], [], []])
     isSafe s = true ∧ headOf 3 0 s = some (wEng 0 (some stOK))) := by decide +kernel

/-- Core 3 whose END waits for the instructions of its queues. -/
def wEnding (q : List (List EngInstr)) : State := { wCore q with cores := [(3, { Core.idle with run := some { wRun with fin := true }, q := q })] }

theorem test_EngineInstrComplete_ends :
    (∀ l ∈ [[], [wEng 0 none]],
      let s := wEnding [[wEng 0 (some stOK)], l, [], []]
      headOf 3 0 s = some (wEng 0 (some stOK)) ∧ (getCore 3 s).signals = [] ∧ isSafe s = false ∧
      (getCore 3 s).run = some { wRun with fin := true } ∧
      (modAt 0 List.tail (getCore 3 s).q).all (fun l => l.isEmpty) = l.isEmpty) ∧
    (∀ r, (getCore 3 (wCore [[wEng 0 (some stOK)], [], [], []])).run = some r → r.fin = false) ∧
    (let x : EngInstr := { wGetDone with odt := leBytes 4 0x20000000 ++ List.replicate 20 0 ++ leBytes 8 0x1008 ++ leBytes 4 1 ++ List.replicate 28 0 }
     let s := wCore [[], [], [], [x]]
     headOf 3 3 s = some x ∧ (sxDesc x.odt).notify = 0x1008 ∧ syncOk (corePart 3 s) 0x1008 s = false) := by
  refine ⟨by decide +kernel, ?_, by decide +kernel⟩
  intro r h
  rw [show (getCore 3 (wCore [[wEng 0 (some stOK)], [], [], []])).run = some wRun by decide +kernel] at h
  cases h; rfl

theorem test_MisalignedAccess : (2 ≠ 4 ∧ (0x00000006 : BitVec 32).toNat % 4 ≠ 0) ∧ (0x00000008 : BitVec 32).toNat % 4 = 0 := by
  decide +kernel

/-- The VX slots of the witnesses: one for each operation of the vector engine. -/
def wVxSlots : List Nat :=
  ([1, 2, 3, 4, 5, 6, 7, 8, 9, 0xA, 0x10, 0x11, 0x18, 0x20, 0x21, 0x22, 0x23, 0x24, 0x25, 0x28, 0x29, 0x30, 0x38, 0x39, 0x3A,
    0x3B, 0x3C, 0x3D, 0x3E].map fun op => op * 2 ^ 56) ++ [0x19 * 2 ^ 56 + 3 * 2 ^ 23, 0x1A * 2 ^ 56 + 4 * 2 ^ 23]

/-- Every operation of VX has a slot that runs at the head of the queue of core 3: the hypotheses of VxArithmetic,
VxCompareSelectPermute, VxConversions, VxFunctionsAndReductions and VxMemory. -/
theorem test_Vx_runs :
    (∀ w ∈ wVxSlots, vxEncodings w = stOK ∧
      headOf 3 2 (wCore [[], [], [wEng (BitVec.ofNat 64 w) none], []]) = some (wEng (BitVec.ofNat 64 w) none)) ∧
    engMayRun 3 2 (wCore [[], [], [wEng 0 none], []]) = true ∧
    engMayRun 3 2 (wSet [(burB, fBUR_STATUS_SAFE, 1)] (wCore [[], [], [wEng 0 none], []])) = false ∧
    wVxSlots.map vxOp = [1, 2, 3, 4, 5, 6, 7, 8, 9, 0xA, 0x10, 0x11, 0x18, 0x20, 0x21, 0x22, 0x23, 0x24, 0x25, 0x28, 0x29,
      0x30, 0x38, 0x39, 0x3A, 0x3B, 0x3C, 0x3D, 0x3E, 0x19, 0x1A] := by decide +kernel

theorem test_VxMemory :
    marksIn (vxAddr (0x38 * 2 ^ 56)) 384 wIss = [] ∧ ownWriteRefused 3 (vxAddr (0x39 * 2 ^ 56)) 384 wIss = false ∧
    Memory.wf wIss.mem = true ∧ wIss.ecc = [] ∧
    (∀ n ∈ ([1, 2, 4] : List Nat), ∀ op ∈ ([0x3A, 0x3B] : List Nat), let w := op * 2 ^ 56 + (coreStore 3 - sramB)
      vxEncodings w = stOK ∧ gatherOk 3 (getCore 3 wIss) w n 0 = true ∧
      ownWriteRefused 3 (gatherAddr (getCore 3 wIss) w 0) n wIss = false) := by decide +kernel

/-- An MMA instruction of core 3: one row, K as given, F32 everywhere, C at the start of its store. -/
def wMma (m k : Nat) : EngInstr := { wEng 0x10000000 none with
  odt := leBytes 4 0 ++ leBytes 4 (m * 2 ^ 24 + k) ++ leBytes 4 (coreStore 3 - sramB + 0x1000) ++ leBytes 4 0x100 ++
    leBytes 4 (coreStore 3 - sramB + 0x2000) ++ leBytes 4 (coreStore 3 - sramB + 0x3000) ++ leBytes 4 0x100 ++
    List.replicate 36 0 }

theorem test_MatrixProduct :
    (let x := wMma 2 1
     let s := wCore [[x], [], [], []]
     let d := mxDesc x.odt x.cfg.toNat
     headOf 3 0 s = some x ∧ x.done = none ∧ slotOp 0 x.slot.toNat = 1 ∧ d.m = 2 ∧ d.k = 1 ∧ engMayRun 3 0 s = true ∧
     engMayRun 3 0 { s with handoffs := [(265, ⟨0, [], false⟩)] } = false ∧ mxOutRow d ≤ d.cPitch ∧
     Memory.wf s.mem = true ∧ (∀ g ∈ mxReadRanges d, marksIn g.1 g.2 s = []) ∧
     (∀ r < d.m, marksIn (d.cAddr + r * d.cPitch) (mxOutRow d) s = [] ∧
       ownWriteRefused 3 (d.cAddr + r * d.cPitch) (mxOutRow d) s = false) ∧
     [0, 1, 2, 3, 4, 8, 9, 0xA].contains d.outFmt = true) ∧
    (mxDesc (wMma 0 1).odt 0).m = 0 ∧ (mxDesc (wMma 1 0).odt 0).k = 0 := by decide +kernel

/-- A stream descriptor of n bytes from the store of core 3 to an offset of package g. -/
def wSxN (n sop g dst : Nat) : EngInstr := { wEng 0x1000000000000000 none with
  odt := leBytes 4 (sop * 2 ^ 28 + 2 * 2 ^ 25) ++ leBytes 4 n ++ leBytes 8 (coreStore 3 + 0x100) ++
    leBytes 8 (g * 2 ^ 46 + dst) ++ leBytes 8 0 ++ leBytes 4 1 ++ List.replicate 28 0 }

def wSx (sop g dst : Nat) : EngInstr := wSxN 16 sop g dst
def wSxAt (x : EngInstr) : State := wCore [[], [], [], [x]]

/-- A Cabinet with a sink shelf of core 7: 64 bytes at 0x100 of its store, for core 5 of package 1. -/
def wSinkCab : CabStruct := { presetStruct with
  sect := modAt 2 (fun _ => [2 * 2 ^ 19, 1 * 2 ^ 16 + 7, 5, 0x100, 64, 0, 0, 0]) presetSects }

theorem test_StreamMoves :
    (let x := wSx 1 0 (coreStore 3 + 0x200)
     let s := wSxAt x
     sxHead 3 1 s = some (x, sxDesc x.odt) ∧ (sxDesc x.odt).len = 16 ∧ Memory.wf s.mem = true ∧
     marksIn (coreStore 3 + 0x100) 16 s = [] ∧ inBellPages (coreStore 3 + 0x200) 16 = false ∧
     ownWriteRefused 3 (coreStore 3 + 0x200) 16 s = false ∧ marksIn (coreStore 3 + 0x200) 16 s = [] ∧
     isLocalPkg 0 (sxDesc x.odt).dst s = true ∧ isLocalPkg 0 (sxDesc x.odt).src s = true ∧
     accessStatus (coreStore 3 + 0x100) 16 s = stOK ∧ accessStatus (coreStore 3 + 0x200) 16 s = stOK ∧
     accessStatus (coreStore 3 + 0x200) 16 (wSet [(hubB, fHUB_CLUSTER_MAP_IN_SERVICE, 0)] s) = stFENCED ∧
     sxHead 3 1 (wSet [(hubB, fHUB_CLUSTER_MAP_IN_SERVICE, 0)] s) = some (x, sxDesc x.odt)) ∧
    (let x := wSxN 0 1 0 (coreStore 3 + 0x200)
     sxHead 3 1 (wSxAt x) = some (x, sxDesc x.odt) ∧ (sxDesc x.odt).len = 0) ∧
    (let x := wSx 1 0 (coreStore 7 + 0x100)
     let s := { wSxAt x with cab := { wUp.cab with cur := wSinkCab } }
     sxHead 3 1 s = some (x, sxDesc x.odt) ∧ ownWriteRefused 3 (coreStore 7 + 0x100) 16 s = true ∧
     accessStatus (coreStore 7 + 0x100) 16 s = stOK ∧ inBellPages (coreStore 7 + 0x100) 16 = false) ∧
    sxHead 3 2 (wSxAt (wSx 2 0 0x40)) = some (wSx 2 0 0x40, sxDesc (wSx 2 0 0x40).odt) ∧
    (let x := wSx 3 0 0x40
     sxHead 3 3 (wSxAt x) = some (x, sxDesc x.odt) ∧ mcastClusters (sxDesc x.odt) = [0] ∧
     (sxDesc x.odt).dst + (sxDesc x.odt).len ≤ cluStoreSize ∧ marksIn (cluStore 0 + 0x40) 16 (wSxAt x) = [] ∧
     accessStatus (cluStore 0 + 0x40) 16 (wSxAt x) = stOK) := by
  decide +kernel

/-- A session with EID 9. -/
def wSession : Session := ⟨[], [], false, false, 0, 0, 0, none, [], [], 0, [], false⟩

/-- The same state in a slice of two packages, EID 5 here and EID 9: a row for the slice of partition 0, a VALID entry over
every plane, a session, and port 0 up. -/
def wNet (s : State) : State := { wSet [(fabB 0, fFAB_STATUS_STATE, 2)] s with
  gzl := { s.gzl with rows := modAt 0 (fun _ => ⟨0, 2, 1, [(0, some 5), (1, some 9)]⟩) s.gzl.rows }
  fab := { s.fab with table := [(9, 0x4000000011111111)], sessions := [(9, some wSession)] } }

theorem test_StreamMoves_remote :
    (let x := wSx 1 1 0x40
     let s := wNet (wSxAt x)
     sxHead 3 1 s = some (x, sxDesc x.odt) ∧ isLocalPkg 0 (sxDesc x.odt).dst s = false ∧
     eidOfPkg 0 (bitsOf (sxDesc x.odt).dst 55 46) s = some 9 ∧ lookupStatus 0 3 9 (dieOfAddr 0x40) s = stOK ∧
     (let t : State := { s with fab := { s.fab with table := [] } }
      sxHead 3 1 t = some (x, sxDesc x.odt) ∧ lookupStatus 0 3 9 (dieOfAddr 0x40) t = stFENCED) ∧
     eidOfPkg 0 2 s = none) ∧
    (let x : EngInstr := { wSx 2 0 0x40 with
       odt := leBytes 4 (2 * 2 ^ 28 + 2 * 2 ^ 25) ++ leBytes 4 16 ++ leBytes 8 (2 ^ 46 + 0x40) ++ leBytes 8 0x40 ++
         List.replicate 40 0 }
     let s := wNet (wSxAt x)
     sxHead 3 2 s = some (x, sxDesc x.odt) ∧ isLocalPkg 0 (sxDesc x.odt).src s = false ∧ (sxDesc x.odt).len = 16) := by
  decide +kernel

/-! Queues. -/

/-- Memory that holds byte strings at rising addresses. -/
def wMem (l : List (Nat × List Byte)) : List Host.Cell :=
  l.flatMap fun x => (x.2.zipIdx.map fun b => (x.1 + b.2, b.1)).filter fun c => c.2 != 0

/-- A command: opcode and flags, handle, then the bytes from 0x18. -/
def wCmd (op flags handle : Nat) (l : List Byte) : List Byte :=
  leBytes 4 (op * 2 ^ 24 + flags) ++ List.replicate 16 0 ++ leBytes 4 handle ++ l ++ List.replicate (40 - l.length) 0

/-- Queue 4, a command queue of core 3 with its ring at 0x10000, and its completion queue 5 with its ring at 0x20000. -/
def wQueue (st : QState) (pi ci : BitVec 32) (cmds : List QCmd) : Queue :=
  ⟨st, 1, 0, 4, false, 0, 1, 0x10000, pi, ci, 5, 3, 0, 0, cmds⟩
def wCpl (pi ci : BitVec 32) : Queue := ⟨.active, 2, 0, 4, false, 0, 1, 0x20000, pi, ci, 0, 0, 0, 0, []⟩

def wQ (q : Queue) : State := { wUp with queues := [(4, q), (5, wCpl 0 0)] }

/-- The same with one command that is dispatched. -/
def wCmdAt (b : List Byte) : QCmd := ⟨7, 1, b, .dispatched⟩
def wWait (b : List Byte) : State := { wQ (wQueue .active 8 8 [wCmdAt b]) with mem := [(0x1000, 9)] }

theorem test_Doorbells :
    bellReach (.pf 1) 0 wUp = true ∧ serving wUp = true ∧ ctrlPlane (wSet [(hubB, fHUB_PLANE_STATUS_CTRL, 2)] wUp) = 2 ∧
    ctrlPlane wUp ≠ 2 ∧ partOfQid wUp.cab.cur 4 = some 0 ∧ partOfQid wUp.cab.cur 4 ≠ some 1 ∧
    bellReach .mgA 1 wUp = true ∧ (getQueue 6 (wQ (wQueue .active 0 0 []))).st ≠ .active ∧
    (let q := wQueue .active 16 1 []
     ((q.pi + 1) - q.ci).toNat ≤ depth q ∧ depth q < ((q.pi + 2) - q.ci).toNat) ∧
    (let q := wCpl 5 2
     q.kind = 2 ∧ ((5 : BitVec 12) - q.ci.setWidth 12).toNat ≤ (q.pi - q.ci).toNat) := by decide +kernel

/-- A command that has ended and wants a completion. -/
def wEnded : QCmd := ⟨7, 1, wCmd 0 (2 ^ 23) 0 [], .ended stOK 0⟩

theorem test_DispatchAndCompletion :
    (let s := wQ (wQueue .active 9 8 [])
     let x := getQueue 4 s
     Memory.wf s.mem = true ∧ s.ecc = [] ∧ mayDispatch x (memBytes (ringAddr x x.ci) 64 s) s = true ∧ x.ciAddr = 0 ∧
     mayDispatch { x with ciAddr := 0x30000 } (memBytes (ringAddr x x.ci) 64 s) s = true ∧
     mayDispatch { x with pi := 8 } (memBytes (ringAddr x x.ci) 64 s) s = false ∧ regionOf 0x30000 = some .stack ∧
     rangeStatus (.part 0) 0x30000 4 s = stOK ∧ rangeStatus (.part 0) (2 ^ 45) 4 s ≠ stOK) ∧
    (let s := wQ (wQueue .active 8 8 [wEnded])
     ((getQueue 4 s).cmds.find? fun y => y.idx == 7 && cmdEnded y) = some wEnded ∧ cplOf 4 s = some 5 ∧
     isSafe s = false ∧ cplWaits 4 wEnded.bytes s = false ∧ memOpen (ringAddr (wCpl 0 0) 0) 16 s = true ∧ cplFull 4 wEnded.bytes s = false ∧
     cplSync 1 wEnded.bytes = none ∧ cplWanted 1 wEnded.bytes = true ∧ (getQueue 5 s).st ≠ .disabled ∧ (getQueue 5 s).kind = 2 ∧
     cplFull 4 wEnded.bytes { s with queues := [(4, wQueue .active 8 8 [wEnded]), (5, wCpl 16 0)] } = true) := by
  decide +kernel

theorem test_DispatchAndCompletion_sinks :
    inSink 0x30000 4 (wQ (wQueue .active 9 8 [])) = false ∧
    (let s : State := { wQ (wQueue .active 9 8 []) with cab := { wUp.cab with cur := wSinkCab } }
     let x := { getQueue 4 s with ciAddr := BitVec.ofNat 64 (coreStore 7 + 0x100) }
     inSink (coreStore 7 + 0x100) 4 s = true ∧ mayDispatch x (memBytes (ringAddr x x.ci) 64 s) s = true) ∧
    (memOpen (ringAddr (wCpl 0 0) 0) 16 wUp && !inSink (ringAddr (wCpl 0 0) 0) 16 wUp) = true ∧
    (let s := wSet ((List.range 20).map fun st => (memB st, fMEM_STATUS_STATE, 3)) (wQ (wQueue .active 8 8 [wEnded]))
     memOpen (ringAddr (wCpl 0 0) 0) 16 s = false ∧ isSafe s = false ∧ cplFull 4 wEnded.bytes s = false) := by decide +kernel

/-- The descriptor of queue 4: a command queue of depth 16 in state st, with its completion queue. -/
def wDesc (st : Nat) : State := { wUp with
  mem := wMem [(0xEFFC000000 + 64 * 4, leBytes 4 (2 ^ 28 + st * 2 ^ 26 + 4 * 2 ^ 19) ++ leBytes 4 1 ++ leBytes 8 0x10000 ++
      leBytes 8 0 ++ leBytes 4 5), (0xEFFC000000 + 64 * 5, leBytes 4 (2 * 2 ^ 28 + 2 ^ 26))] }

theorem test_QueueControl :
    mayCommand (.pf 1) wUp = true ∧ fget qmB fQM_QCTL_BUSY wUp = 0 ∧ qctlReach (.pf 1) 4 wUp = true ∧
    Memory.wf (wDesc 1).mem = true ∧ (wDesc 1).ecc = [] ∧ (getQueue 4 (wDesc 1)).st = .disabled ∧
    bitsOf (le32 (descBytes 4 (wDesc 1)) 0) 27 26 = 1 ∧ invalidateStatus 4 (descBytes 4 (wDesc 1)) (wDesc 1) = stOK ∧
    bitsOf (le32 (descBytes 4 (wDesc 0)) 0) 27 26 = 0 ∧ invalidateStatus 4 (descBytes 4 wUp) wUp ≠ stOK ∧
    (getQueue 4 (wQ (wQueue .active 0 0 []))).st = .active ∧ fenceStatus (descAddr 4 (wDesc 1)) 64 (wDesc 1) = stOK ∧
    (let s := wSet ((List.range 20).map fun st => (memB st, fMEM_STATUS_STATE, 3)) (wDesc 1)
     fenceStatus (descAddr 4 s) 64 s = stFENCED ∧ (getQueue 4 s).st = .disabled ∧ mayCommand (.pf 1) s = true) ∧
    (let s := wQ (wQueue .active 9 8 [wCmdAt []])
     fenceStatus (descAddr 4 s) 64 s = stOK ∧ (getQueue 4 s).kind = 1 ∧ Memory.wf s.mem = true ∧ isSafe s = false) ∧
    (getQueue 4 (wQ (wQueue .draining 0 0 []))).st = .draining ∧ (getQueue 4 (wQ (wQueue .draining 0 0 []))).cmds = [] := by
  decide +kernel

theorem test_SyncObjects :
    syncPlaceOk 0x1000 = true ∧ memOpen 0x1000 16 wUp = true ∧ isSafe wUp = false ∧ syncPlaceOk 0x1008 = false ∧
    sinkRefuses (.pf 0) 0x1004 4 wUp = false ∧ isSafe (wWait []) = false ∧ mayStore (.pf 0) wUp = true ∧ rangeStatus (reqWho (.pf 0) wUp) 0x1000 16 wUp = stOK ∧
    isUE 0x1000 { wUp with ecc := [(0x1000, 2)] } = true ∧
    waitingCmd 4 0 (wWait (wCmd 0 0 0 [])) = some (wCmdAt (wCmd 0 0 0 [])) ∧
    (let b := wCmd 8 0 0 (leBytes 8 0x1000 ++ leBytes 4 9)
     waitingCmd 4 8 (wWait b) = some (wCmdAt b) ∧ (wWait b).waiters = [] ∧ cmdSrc b = 0x1000 ∧
     reaches32 (memW (cmdSrc b) (wWait b)) 9 = true ∧ reaches32 (memW (cmdSrc b) (wWait b)) 10 = false) ∧
    reaches32 (memW 0x1000 (wWait [])) (memW 0x1008 (wWait [])) = true ∧
    reaches32 (memW 0x1000 { wUp with mem := [(0x1008, 1)] }) (memW 0x1008 { wUp with mem := [(0x1008, 1)] }) = false := by
  decide +kernel

theorem test_SyncObjects_wait :
    (let b := wCmd 8 0 0 (leBytes 8 0x1000 ++ leBytes 4 9)
     syncStatus 0 (cmdSrc b) (wWait b) = stOK ∧ marksIn 0x1000 4 (wWait b) = [] ∧
     (∀ w ∈ [false, true],
       let y : Waiter := ⟨false, 4, 7, 0x1000, 9, w⟩
       let s : State := { wWait b with waiters := [y] }
       waitingCmd 4 8 s = some (wCmdAt b) ∧
       (s.waiters.find? fun w => w.isCore == false && w.id == 4 && w.idx == (wCmdAt b).idx.toNat) = some y)) ∧
    (let b := wCmd 8 0 0 (leBytes 8 0x1008 ++ leBytes 4 9)
     waitingCmd 4 8 (wWait b) = some (wCmdAt b) ∧ syncStatus 0 (cmdSrc b) (wWait b) ≠ stOK) := by decide +kernel

/-- Program objects: a bundle object for core 3, and a tile graph of one node and one buffer. -/
def wObj : List Byte :=
  leBytes 4 0x4F475250 ++ [1, 0, 1, 0] ++ leBytes 4 0x6400B000 ++ leBytes 4 (0x70 + 48 + 32 + 64) ++ [1, 0, 3, 0] ++
  List.replicate 44 0 ++ leBytes 4 1 ++ leBytes 4 0x70 ++ leBytes 4 48 ++ leBytes 4 0 ++ leBytes 4 2 ++ leBytes 4 0xA0 ++
  leBytes 4 32 ++ leBytes 4 0 ++ leBytes 4 3 ++ leBytes 4 0xC0 ++ leBytes 4 64 ++ leBytes 4 0 ++
  leBytes 4 3 ++ leBytes 4 0 ++ leBytes 4 0x8000 ++ leBytes 4 0x10001 ++ List.replicate 32 0 ++ List.replicate 96 0

def wGraph : List Byte :=
  leBytes 4 0x4F475250 ++ [1, 0, 0, 0] ++ leBytes 4 0 ++ leBytes 4 0xB0 ++ [1, 0, 2, 0] ++ List.replicate 44 0 ++
  leBytes 4 5 ++ leBytes 4 0x60 ++ leBytes 4 64 ++ leBytes 4 0 ++ leBytes 4 6 ++ leBytes 4 0xA0 ++ leBytes 4 16 ++ leBytes 4 0 ++
  leBytes 4 (4 * 2 ^ 24) ++ leBytes 4 3 ++ List.replicate 12 0 ++ List.replicate 44 0xFF ++ List.replicate 16 0

/-- A LOAD of an object at 0x2000. -/
def wLoad (o : List Byte) (n : Nat) : State := { wWait (wCmd 1 0 0 (leBytes 8 0x2000 ++ leBytes 4 n)) with
  mem := wMem [(0x2000, o)] }

theorem test_LoadAndUnload_load :
    (∀ x ∈ [(wObj, true), (wGraph, false)],
      let s := wLoad x.1 x.1.length
      Memory.wf s.mem = true ∧ s.ecc = [] ∧ (waitingCmd 4 1 s).isSome = true ∧ s.loading = none ∧ mgmtPlane s ≠ 2 ∧
      memBytes 0x2000 x.1.length s = x.1 ∧ 64 ≤ x.1.length ∧ freeSlot s = some 0 ∧ decide (x.1.getD 6 0 ≠ 0) = x.2 ∧
      loadStatus 0 0x2000 x.1.length x.1 s = stOK) ∧
    loadStatus 0 0x2000 0 (memBytes 0x2000 64 wUp) wUp ≠ stOK := by decide +kernel

/-- Program slot 2 holds a program for core 3, generation 1; instances as given. -/
def wProgs (l : List Inst) (b : List Byte) : State := { wWait b with
  progs := [(2, ⟨1, some ⟨0, [⟨3, 0, 0x8000, 16, 4, List.replicate 16 0⟩], List.replicate 128 0, []⟩⟩)], insts := l }

/-- An instance of slot 2, armed at T 5 on core 3 or running there. -/
def wInst (t : Option (BitVec 48)) (waiting running : List Nat) : Inst :=
  ⟨4, 2, 4, 7, 0, 0, [], t, 1, 0, waiting, running, stOK, 0, none⟩

theorem test_LoadAndUnload_unload :
    (let b := wCmd 2 0 0x01000002 []
     waitingCmd 4 2 (wProgs [] b) = some (wCmdAt b) ∧ handleStatus 0 (cmdHandle b) (wProgs [] b) = stOK ∧
     instsOf (cmdSlot (wCmdAt b)) (wProgs [] b) = [] ∧
     ((instsOf (cmdSlot (wCmdAt b)) (wProgs [wInst none [] [3]] b)).any fun x => instRuns x (wProgs [wInst none [] [3]] b)) = true ∧
     isSafe (wProgs [] b) = false) := by decide +kernel

/-- A LOAD whose translation is under way, for a core. -/
def wLoading (c : Nat) : Loading := ⟨4, 7, 0, 2, [], [], [c]⟩

/-- An image of one bundle, an END, and no descriptor at an offset of a core's store. -/
def wImg (c : Fin 256) (off : BitVec 32) : CoreImage := ⟨c, off, 0x8000, 1, 0, [], List.replicate 7 0 ++ 0x60 :: List.replicate 24 0, []⟩

theorem test_LoadAndUnload_translation :
    (let s : State := { wUp with loading := some (wLoading 3) }
     s.loading = some (wLoading 3) ∧ mgmtPlane s ≠ 2 ∧ s.computeReset = false ∧ isSafe s = false ∧ s.ecc = [] ∧
     imagesFit (wLoading 3) [wImg 3 0] s = true ∧ ([wImg 3 0].any fun m => imageSunk (imageCore m) s) = false ∧
     ([wImg 3 0].map fun m => m.core.val).Nodup) ∧
    (let s : State := { wUp with loading := some (wLoading 7), cab := { wUp.cab with cur := wSinkCab } }
     imagesFit (wLoading 7) [wImg 7 0x100] s = true ∧ ([wImg 7 0x100].any fun m => imageSunk (imageCore m) s) = true) := by
  decide +kernel

theorem test_LaunchAndArm :
    (let b := wCmd 3 0 0x01000002 []
     let s := wProgs [] b
     handleStatus 0 (cmdHandle b) s = stOK ∧ waitingCmd 4 3 s = some (wCmdAt b) ∧ progCores 2 s = [3] ∧ cluOk (3 / 8) s = true ∧
     coreFree 3 s = true ∧ (List.range 64).all (fun i => (dueEntry 3 i s).isNone) = true ∧ lateEntry 3 s = none ∧
     isSafe s = false ∧ s.ecc = []) ∧
    (let b := wCmd 4 0 0x01000002 (leBytes 4 0x100 ++ leBytes 4 1000)
     let s := wProgs [] b
     waitingCmd 4 4 s = some (wCmdAt b) ∧ armStatus (getQueue 4 s) (wCmdAt b) s = stOK ∧
     armPast (armTime b) s.clk.p = false) ∧
    (let b := wCmd 5 0 0x01000002 (leBytes 4 1)
     let y := wInst (some 1000) [3] []
     waitingCmd 4 5 (wProgs [y] b) = some (wCmdAt b) ∧ (wProgs [y] b).insts = [y] ∧
     ((instsOf 2 (wProgs [y] b)).filter fun y =>
        y.t.isSome && y.tslot == bitsOf (le32 b 0x18) 5 0 && !y.waiting.isEmpty) = [y] ∧ instsOf 2 (wProgs [] b) = [] ∧
     y.running = [] ∧ { y with idx := 8 }.idx ≠ (wCmdAt b).idx.toNat) := by
  decide +kernel

/-- The state at a count of P, in the root and in every replica. -/
def wAtP (p : BitVec 48) (s : State) : State := { s with
  clk := { s.clk with p := p, replicas := s.clk.replicas.map fun x => { x with p := p } } }

/-- An entry of T 5 in a slot of the launch table of core 3, and the state with an instance of core 3 armed there. -/
def wEntry (fired : Bool) : LaunchEntry := ⟨5, 4, 2, 0, 0, fired⟩
def wArmed (l : Tbl (Option LaunchEntry)) (now : BitVec 48) : State := wAtP now { wProgs [wInst (some 5) [3] []] [] with
  cores := [(3, { Core.idle with launch := l })] }

theorem test_TimedStarts :
    (let s := wArmed [(1, some (wEntry false))] 5
     dueEntry 3 1 s = some (wEntry false) ∧ dueEntry 3 0 s = none ∧ dueBefore 3 1 (wEntry false) s = false ∧ isSafe s = false ∧
     s.drp.prop = none ∧ s.cab.edge = none ∧ getInst 4 s = some (wInst (some 5) [3] []) ∧ inDrift s = false ∧
     coreFree 3 s = true ∧ lateEntry 3 s = none ∧ (getSlot 2 s).prog.isSome = true) ∧
    (let s := wArmed [(0, some (wEntry false)), (1, some (wEntry false))] 5
     dueEntry 3 1 s = some (wEntry false) ∧ dueBefore 3 1 (wEntry false) s = true) ∧
    (let s := wArmed [(0, some (wEntry true)), (1, some (wEntry false))] 5
     dueEntry 3 1 s = some (wEntry false) ∧ dueBefore 3 1 (wEntry false) s = false ∧
     (coreRuns 3 s || (lateEntry 3 s).isSome) = true ∧ (wEntry false).policy = 0) ∧
    (let s := wSet [(drpB, fDRP_STATUS_DRIFT, 1)] (wArmed [(1, some (wEntry false))] 5)
     inDrift s = true ∧ (dueEntry 3 1 s).isSome = true ∧ (getInst 4 s).map Inst.running = some []) ∧
    (let s := wArmed [(1, some (wEntry true))] 9
     lateEntry 3 s = some (1, wEntry true) ∧ coreFree 3 s = true ∧ getInst 4 s = some (wInst (some 5) [3] [])) ∧
    (let s := wProgs [wInst none [] [3]] []
     getInst 4 s = some (wInst none [] [3]) ∧ coreStopped 4 3 s = true) := by decide +kernel

theorem test_LaunchAndArm_noneDue :
    noneDue 3 (wProgs [] (wCmd 3 0 0x01000002 [])) = true ∧ coreTaken 3 (wArmed [(1, some (wEntry false))] 5) = false ∧
    (let s : State := { wProgs [] [] with cores := [(3, { Core.idle with halted := true })] }
     coreTaken 3 s = true) := by decide +kernel

/-- A COPY or FILL of n bytes within this package, by core 3. -/
def wMove (op n : Nat) : List Byte :=
  wCmd op 0 0 ((if op = 6 then leBytes 8 0x1000 else leBytes 8 0) ++ leBytes 8 0x4000 ++ leBytes 4 n)

/-- A Cabinet whose partition 0 owns die 1 only. -/
def wDieless : CabStruct := { presetStruct with sect := modAt 0 (fun l => modAt 0 (fun _ => 2) l) presetSects }

theorem test_CopyAndFill :
    (∀ op ∈ [6, 7],
      let s : State := { wWait (wMove op 16) with stool := { wUp.stool with admitted := [3] } }
      let x := getQueue 4 s
      waitingCmd 4 op s = some (wCmdAt (wMove op 16)) ∧ cmdLen (wMove op 16) = 16 ∧ targetReady x s = true ∧
      targetReady x (wWait (wMove op 16)) = false ∧ moveStatus x (wMove op 16) s = stOK ∧
      isLocalPkg 0 (cmdDst (wMove op 16)) s = true ∧ isLocalPkg 0 (cmdSrc (wMove op 16)) s = true ∧
      inBellPages 0x4000 16 = false ∧ ownWriteRefused 3 0x4000 16 s = false) ∧
    (∀ op ∈ [6, 7],
      let s : State := { wWait (wMove op 16) with
        stool := { wUp.stool with admitted := [3] }, cab := { wUp.cab with cur := wDieless } }
      let x := getQueue 4 s
      isSafe s = false ∧ waitingCmd 4 op s = some (wCmdAt (wMove op 16)) ∧ targetReady x s = true ∧
      moveStatus x (wMove op 16) s ≠ stOK) ∧
    cmdLen (wMove 6 0) = 0 ∧ waitingCmd 4 6 (wWait (wMove 6 0)) = some (wCmdAt (wMove 6 0)) := by decide +kernel

theorem test_CopyAndFill_credits :
    (∀ op ∈ [6, 7],
      let s : State := { wWait (wMove op 16) with stool := { wUp.stool with admitted := [3] } }
      let l := if op = 6 then [cmdSrc (wMove op 16), cmdDst (wMove op 16)] else [cmdDst (wMove op 16)]
      sxCredits 3 0 l 16 s = true ∧
      (let t : State := { s with handoffs := [(1027, ⟨0, [], false⟩)] }
       sxCredits 3 0 l 16 t = false ∧ targetReady (getQueue 4 t) t = true ∧ waitingCmd 4 op t = some (wCmdAt (wMove op 16)))) := by
  decide +kernel

/-! Patrol, scrubs, Cabinet. -/

/-- A mark of an SRAM word of core 3: 1 a single-bit error, 2 an uncorrectable word. -/
def wMark (v : Nat) : State := { wUp with ecc := [(coreStore 3 + 8, v)] }

/-- A partition reset of partition 0 in a phase. -/
def wPart (ph : Nat) : State := { wUp with rst := ⟨[⟨3, 0, none, ph, [], 0⟩], []⟩ }

theorem test_PatrolsAndScrubs :
    patrolRuns (coreStore 3) wUp = true ∧ marksIn (coreStore 3) lineBytes wUp = [] ∧
    patrolRuns (coreStore 3) (wMark 1) = true ∧ marksIn (coreStore 3) lineBytes (wMark 1) = [(coreStore 3 + 8, 1)] ∧
    patrolRuns (coreStore 3) (wMark 2) = true ∧ marksIn (coreStore 3) lineBytes (wMark 2) = [(coreStore 3 + 8, 2)] ∧
    stackOf 0x1000 < 20 ∧ stackOk (stackOf 0x1000) wUp = true ∧ 0x1000 < stackEnd ∧ stackOk 0 wUp = true ∧ isSafe wUp = false ∧
    fget (memB (stackOf 0x1000)) fMEM_PATROL_PERIOD_H wUp ≠ 0 ∧ fget (memB 0) fMEM_STATUS_SCRUBBING wUp = 0 ∧
    isSafe (wPart 1) = false ∧ isSafe (wPart 2) = false ∧ tget (fun _ => 0) wUp.ecc 0x1000 < 2 ∧
    elapsed (tget (fun _ => (0, false)) wUp.chans 0).1 ticksUs wUp = true ∧
    partRun 0 1 (wPart 1) = true ∧ partIdle 0 (wPart 1) = true ∧ partRun 0 2 (wPart 2) = true ∧
    0 ∈ stacksOfPart 0 (wPart 2) ∧ stackOk 0 (wPart 2) = true ∧ scrubCovers 0 0x1000 (wPart 2) = true := by decide +kernel

/-- An image of one preset section, unsigned, at 0x4000. -/
def wImage (sect : Nat) : List Byte :=
  [0x43, 0x42, 0x4E, 0x54, 1, 0] ++ leBytes 2 sect ++ leBytes 4 1 ++ leBytes 4 0 ++ leBytes 4 0x6400B000 ++ leBytes 4 0x240 ++
  List.replicate 136 0 ++ leBytes 2 5 ++ List.replicate 414 0

def wStage (sect : Nat) : State := wSet [(cabB, fCAB_TXN_STATE, 1), (cabB, fCAB_ARG_SRC_LO_SRC_LO, 0x4000),
  (cabB, fCAB_ARG_LEN_LEN, 0x240)] { wUp with mem := wMem [(0x4000, wImage sect)], cab := { wUp.cab with shadow := some presetStruct } }

theorem test_CabinetTransaction :
    isPf0 (.pf 0) = true ∧ mayCommand (.pf 0) wUp = true ∧ fget cabB fCAB_CMD_BUSY wUp = 0 ∧ mgmtPlane wUp ≠ 2 ∧
    wUp.nv.lc ≠ 3 ∧ txnState wUp = 0 ∧ wUp.cab.edge = none ∧ txnState (wStage 1) ≠ 0 ∧ mayCommand (.pf 0) (wStage 1) = true ∧
    (∀ x ∈ [(1, true), (0, false)],
      let u := cabWritten 2 false (wStage x.1)
      let len := fget cabB fCAB_ARG_LEN_LEN u
      txnState u = 1 ∧ cabSrc u = 0x4000 ∧ len = 0x240 ∧
      (stageErr (cabSrc u) len (memBytes (cabSrc u) (Nat.max 0x240 (Nat.min len 0x1000000)) u) u).isNone = x.2) := by
  decide +kernel

/-- The next generation of the presets. -/
def wGen (f : List (List Word) → List (List Word)) : CabStruct := { presetStruct with gen := 1, sect := f presetSects }

/-- A staged shadow, or a previous structure, and a pace time for an edge. -/
def wShadow (new : CabStruct) : State := wSet [(cabB, fCAB_TXN_STATE, 1), (cabB, fCAB_ARG_P_LO_P_LO, 10000000)]
  { wUp with cab := { wUp.cab with shadow := some new, staged := some 1 } }
def wPrev (new : CabStruct) : State := wSet [(cabB, fCAB_ARG_P_LO_P_LO, 10000000)]
  { wUp with cab := { wUp.cab with prev := some new } }

/-- PARTITIONS without a die. -/
def wNoDie : CabStruct := wGen (modAt 0 (fun _ => [0, 0, 0x00100000, 0, 1, 0, 0, 0]))

theorem test_CabinetCommitAndEdge_commit :
    (∀ timed ∈ [false, true],
      let u := cabWritten 3 timed (wShadow (wGen id))
      let v := cabWritten 5 timed (wPrev (wGen id))
      txnState u = 1 ∧ validate (wGen id) timed (cabT u) u = none ∧ txnState v = 0 ∧
      validate (wGen id) timed (cabT v) v = none ∧
      (validate wNoDie timed (cabT (cabWritten 3 timed (wShadow wNoDie))) (cabWritten 3 timed (wShadow wNoDie))).isSome = true ∧
      (validate wNoDie timed (cabT (cabWritten 5 timed (wPrev wNoDie))) (cabWritten 5 timed (wPrev wNoDie))).isSome = true) ∧
    mayCommand (.pf 0) (wShadow (wGen id)) = true ∧ mayCommand (.pf 0) (wPrev (wGen id)) = true := by decide +kernel

/-- An armed COMMIT with its edge at P 100. -/
def wEdge (new : CabStruct) (p : BitVec 48) (s : State) : State := { s with
  cab := { s.cab with shadow := some new, edge := some ⟨false, 100, true⟩ }, clk := { s.clk with p := p } }

/-- The descriptor table moves while a queue is ACTIVE. -/
def wTable : CabStruct := wGen (modAt 1 (fun _ => [0xF8000000, 0x000000EF, 0, 0]))

theorem test_CabinetCommitAndEdge_edge :
    reaches48 99 100 = false ∧ (wEdge (wGen id) 100 wUp).cab.edge = some ⟨false, 100, true⟩ ∧
    edgeStruct false (wEdge (wGen id) 100 wUp) = some (wGen id) ∧ reaches48 100 100 = true ∧ isSafe (wEdge (wGen id) 100 wUp) = false ∧
    quietErr (wGen id) (wEdge (wGen id) 100 wUp) = none ∧ inDrift (wEdge (wGen id) 100 wUp) = false ∧
    (wEdge (wGen id) 100 wUp).drp.prop = none ∧ gzActive (wEdge (wGen id) 99 wUp) = false ∧
    (quietErr wTable (wEdge wTable 100 (wQ (wQueue .active 0 0 [])))).isSome = true ∧
    (let s := wEdge (wGen id) 100 (wSet [(drpB, fDRP_STATUS_DRIFT, 1)] wUp)
     quietErr (wGen id) s = none ∧ inDrift s = true) ∧
    edgeStruct true (wPrev (wGen id)) = some (wGen id) ∧
    ctrlPlane (wSet [(hubB, fHUB_PLANE_STATUS_CTRL, 2)] wUp) = 2 := by decide +kernel

/-! The Dripline. -/

/-- Port 0 up, with the time master 9. -/
def wSyncing (v : Nat) : State := wSet [(drpB, fDRP_STATUS_SYNC, v), (fabB 0, fFAB_STATUS_STATE, 2)]
  { wUp with drp := { wUp.drp with master := 9, exch := [(0, some (1, 1000))], holdStart := 0 } }

/-- The offset of an exchange sent at 1000 and back at 1000, whose timestamps at the master are t. -/
def wOff (t : BitVec 56) : Int := exchOffset 1000 t t 1000 0 0

theorem test_SyncAndTime :
    ({ wUp.clk with w := 0xFFFFFFFFFFFF }).locked = true ∧ wUp.drp.floorEnd = none ∧
    (wSyncing 2).clk.locked = true ∧ syncPeer (wSyncing 2) = some 9 ∧ syncPeer (wSyncing 1) = some 9 ∧ planePort 0 (wSyncing 2) = some 0 ∧
    tget (fun _ => none) (wSyncing 2).drp.exchT 0 = none ∧ elapsed (10 ^ 12 - ticksMs) ticksMs (wSyncing 2) = true ∧
    syncState (wSyncing 5) = 5 ∧ ownEid (wSyncing 5) = 5 ∧ anyPort (wSyncing 5) = some 0 ∧
    tget (fun _ => none) (wSyncing 1).drp.exch 0 = some (1, 1000) ∧ ownEid (wSyncing 1) = 5 ∧
    (wSyncing 1).clk.locked = true ∧
    (∀ v ∈ [0, 1, 2, 3, 4], syncState (wSyncing v) = v) ∧
    withinNs (estimateOf 0 (wOff 1000) (wSyncing 1)) 1000 = true ∧ withinNs (estimateOf 0 (wOff 900000) (wSyncing 1)) 1000 = false ∧
    nextSync (estimateOf 0 (wOff 1000) (wSyncing 2)) (wSyncing 2) = 2 ∧
    nextSync (estimateOf 0 (wOff 900000) (wSyncing 2)) (wSyncing 2) = 4 ∧
    (wSyncing 2).drp.lastEst = none ∧ elapsed 0 (holdoverMs (wSyncing 3) * ticksMs) (wSyncing 3) = true ∧
    (let c := 0x98100000
     bitOf c 31 = true ∧ ((0 : BitVec 48) - BitVec.ofNat 48 (16 * bitsOf c 15 0)).toNat % 2 ^ bitsOf c 28 24 = 0) ∧
    replicaDiffers 1 { wUp with clk := { wUp.clk with p := 1 } } = true := by decide +kernel

theorem test_SyncAndTime_replica : collectorFree 1 { wUp with clk := { wUp.clk with p := 1 } } = true ∧ isSafe (wSyncing 2) = false := by
  decide +kernel

/-- Pace domain 7 with backup 11, keeper k, this package at rung r in pace state v, with the target of the domain. -/
def wDom (k r v target : Nat) : State := wSet [(drpB, fDRP_KEEPER_KEEPER_EID, k), (drpB, fDRP_RUNG_DOMAIN, r),
    (drpB, fDRP_RUNG_CUR, r), (drpB, fDRP_STATUS_PACE, v), (drpB, fDRP_RUNG_TARGET_TARGET, target)]
  { wSyncing 2 with cab := { wUp.cab with cur := { presetStruct with
    sect := modAt 7 (fun _ => [0x00070080, 9, 11, 0x98100000]) presetSects } } }

/-- A frame of package 9 to this one. -/
def wHdr : FrameHdr := ⟨7, 9, 5, 0⟩

/-- The same with a change in flight, or an armed proposal, under SEQ 1 with T 100. -/
def wChange (acks naks : List (BitVec 19)) : State := { wDom 5 2 1 2 with
  drp := { (wDom 5 2 1 2).drp with change := some ⟨1, 3, 100, 0, acks, naks⟩, ceilings := [(9, some 3)] } }
def wProp (acked : Bool) (p : BitVec 48) : State := { wDom 9 3 1 2 with
  drp := { (wDom 9 3 1 2).drp with prop := some ⟨1, 2, 100, 9, acked, true⟩ }, clk := { wUp.clk with p := p } }

theorem test_RungChange :
    (let s := wDom 5 2 1 3
     wantedRung s = 3 ∧ mayPropose 3 s = true ∧ domRung s = 2 ∧
     mayPropose 3 { s with drp := { s.drp with lastAbort := some (3, 10 ^ 12 - ticksMs) } } = true) ∧
    (let s := wDom 9 3 1 2
     ownFrame wHdr s = true ∧ keeperEid s = 9 ∧ s.drp.prop = none ∧ newer16 1 (rungSeq s) = true ∧ domRung s = 3 ∧
     propStatus 6 100000 s ≠ stOK ∧ propStatus 3 100000 s = stOK ∧ propStatus 2 100000 s = stOK ∧ inFloor s = false ∧
     inFloor (wSet [(pwrB, fPWR_STATUS_FLOOR, 1)] s) = true) ∧
    (let s := wChange [5] []
     ownFrame wHdr s = true ∧ s.drp.change = some ⟨1, 3, 100, 0, [5], []⟩ ∧ elapsed 0 (50 * ticksUs) s = true ∧
     members s = [9] ∧ ownEid s = 5 ∧ isKeeper s = true) ∧
    (let s := wChange [5, 9] []
     s.drp.change = some ⟨1, 3, 100, 0, [5, 9], []⟩ ∧ ownEid s :: members s = [5, 9]) ∧
    ownFrame wHdr (wProp true 99) = true ∧ keeperEid (wProp true 99) = 9 ∧ reaches48 99 100 = false ∧ reaches48 100 100 = true ∧
    isSafe (wProp true 100) = false ∧ paceState (wProp true 100) = 1 ∧
    isKeeper (wDom 5 2 1 2) = true ∧ ownFrame wHdr (wDom 5 2 1 2) = true ∧ (wDom 5 2 1 2).drp.lastReq = none ∧
    isKeeper (wDom 9 2 1 2) = false ∧ mayCommand (.pf 0) (wDom 9 2 1 2) = true ∧ isPf0 (.pf 0) = true := by decide +kernel

/-- The floor state with these causes, waiting for its voltage or not. -/
def wFloor (causes : Nat) (wait : Bool) (s : State) : State :=
  wSet [(pwrB, fPWR_STATUS_FLOOR, 1), (pwrB, fPWR_STATUS_FLOOR_CAUSE, causes), (drpB, fDRP_RUNG_CUR, 5)]
    { s with drp := { s.drp with floorWait := wait } }

theorem test_KeeperAndFloor :
    (let s := wDom 5 2 1 2
     isKeeper s = true ∧ s.clk.locked = true ∧ elapsed s.drp.lastBeacon ticksMs s = true ∧ ownFrame wHdr s = true) ∧
    (let s := wDom 9 2 1 2
     ownFrame wHdr s = true ∧ isKeeper s = false ∧ keeperEid s = 9 ∧ backupCfg s = 11 ∧ paceState s = 1 ∧ rungSeq s = 0 ∧
     domRung s = 2 ∧ s.drp.prop = none) ∧
    (let s : State := { wDom 9 2 1 2 with cab := { wUp.cab with cur := { presetStruct with
       sect := modAt 7 (fun _ => [0x00070080, 9, 5, 0]) presetSects } } }
     isKeeper s = false ∧ backupCfg s = (ownEid s).toNat ∧ elapsed s.drp.lastBeacon (10 * ticksMs) s = true) ∧
    (∀ v ∈ [0, 3], paceState (wDom 9 2 v 2) = v ∧ ownFrame wHdr (wDom 9 2 v 2) = true ∧ keeperEid (wDom 9 2 v 2) = 9 ∧
      inFloor (wDom 9 2 v 2) = false ∧ inFloor (wFloor 1 false (wDom 9 2 v 2)) = true) ∧
    bitOf (causeBits wUp) 0 = false ∧ bitOf (causeBits (wFloor 1 false wUp)) 0 = true ∧
    (∀ w ∈ [false, true], inFloor (wFloor 0 w wUp) = true ∧ causeBits (wFloor 0 w wUp) = 0 ∧ (wFloor 0 w wUp).drp.floorWait = w ∧
      (wFloor 0 w wUp).drp.floorEnd = none ∧ (wFloor 0 w wUp).drp.prop = none) ∧
    (wDom 9 2 0 2).drp.prop = none ∧ (wProp false 99).drp.prop = some ⟨1, 2, 100, 9, false, true⟩ ∧
    wUp.pwr.memF ≤ 64 ∧ (wProp false 99).drp.floorWait = false ∧ (9 : BitVec 19) ≠ ownEid (wProp false 99) := by
  decide +kernel

theorem test_KeeperAndFloor_record :
    owesRecord (wDom 9 2 0 2) = true ∧ owesRecord (wDom 9 2 3 2) = true ∧ owesRecord (wDom 9 2 1 2) = false ∧
    wHdr.src ≠ 0x7FFFF ∧ isSafe (wDom 5 2 1 2) = false ∧
    (∀ v ∈ [0, 1, 3],
      let s : State := { wDom 9 2 v 2 with cab := { wUp.cab with cur := { presetStruct with
        sect := modAt 7 (fun _ => [0x00070080, 9, 5, 0]) presetSects } } }
      isKeeper s = false ∧ backupCfg s = (ownEid s).toNat ∧ s.clk.locked = true ∧ isSafe s = false ∧
      elapsed s.drp.lastBeacon (10 * ticksMs) s = true ∧ paceState s = v ∧ inFloor s = false ∧ inFloor (wFloor 1 false s) = true ∧
      paceState (wFloor 1 false s) = v) ∧
    inert wUp = false ∧ inert State.reset = true ∧
    (let s : State := { wFloor 0 false wUp with drp := { wUp.drp with floorEnd := some 5 } }
     inFloor s = true ∧ s.drp.floorEnd = some 5) := by decide +kernel

/-! Power, heat and coolant. -/

/-- Cores admitted, asking and eligible. -/
def wStool (adm ask elig : List Nat) (s : State) : State := { s with stool := { s.stool with admitted := adm, ask := ask, elig := elig } }

/-- Core c runs a program; core 5 has asked in this cycle, or in an earlier one. -/
def wReady (c : Nat) (now : Bool) : State := { wUp with
  cores := [(c, { Core.idle with run := some wRun })],
  stool := { wUp.stool with ask := [5], askNow := (if now then 10 ^ 12 + 1 else 10 ^ 12, [5]) } }

/-- Partition 0 may hold one core only. -/
def wOver : State := { wStool [1, 2] [] [] wUp with pwr := { wUp.pwr with admLim := [1, 256, 256, 256] } }

/-- The pre-ramp entry 0 in a state, with T and HOLD. -/
def wRamp (st : Nat) (t : BitVec 48) : State := { wUp with clk := { wUp.clk with p := 100 }, pwr := { wUp.pwr with
  ramps := modAt 0 (fun _ => ⟨st, t, 3, 20, 0, 0, 0⟩) wUp.pwr.ramps } }

theorem test_StepstoolAndRamps :
    elapsed (10 ^ 12 - 99) (stoolTicks 0) wUp = false ∧ elapsed (10 ^ 12 - 100) (stoolTicks (curRung wUp)) wUp = true ∧
    isSafe wUp = false ∧ inFloor wOver = false ∧ overLimit 0 wOver = true ∧ victim 0 wOver = some 2 ∧
    (let s := wStool [] [3] [] wUp
     (mustRelease 0 s || overLimit 0 s) = false ∧ nextAsk 0 s = some 3 ∧ (mayNotAdmit 0 s || atLimit 0 s) = false) ∧
    (let s := wStool [3] [] [3] wUp
     (mustRelease 0 s || overLimit 0 s) = false ∧ nextAsk 0 s = none ∧ rampN 0 s = none ∧ releasable 0 s = some 3) ∧
    (let s := wReady 2 true
     s.stool.admitted = [] ∧ s.stool.ask = [5] ∧ askedNow s = [5] ∧ (getCore 2 s).run.isSome = true ∧ askedNow (wReady 2 false) = []) ∧
    (let s := wStool [1, 2] [3] [] (wFloor 1 false wUp)
     inFloor s = true ∧ s.stool.admitted.length < 8 ∧
     ((floorPref s).find? fun k => s.stool.ask.contains k && admissible k s && coreWants k s) = some 3) ∧
    (let s := { wStool [3] [] [] wUp with clk := { wUp.clk with ecnt := 1024 } }
     coreIdle 3 s = true ∧ rampKeeps 0 s = false ∧ coreIdle 3 { s with clk := { wUp.clk with ecnt := 1023 } } = false) ∧
    mayCommand (.pf 0) wUp = true ∧ rampReach (.pf 1) 4 (wRamp 0 200) = false ∧ rampReach (.pf 1) 0 (wRamp 1 200) = true ∧
    rampStatus (.pf 1) 0 65 20 (wRamp 0 200) ≠ stOK ∧ rampStatus (.pf 1) 0 64 20 (wRamp 0 200) = stOK ∧
    rampStatus (.pf 1) 0 64 1 (wRamp 0 50) = stOK ∧ armPast 50 100 = true ∧ armPast 200 100 = false ∧
    reaches48 100 100 = true ∧ reaches48 100 101 = false ∧ (getRamp 0 (wRamp 2 50)).st = 2 ∧
    elapsed 0 (ticksUs * 20) (wRamp 2 50) = true := by decide +kernel

/-- Core 3 has a bundle ready at PC 0, and asks or not; nothing is admitted. -/
def wAsks (ask : List Nat) (adm : List Nat) (elig : List Nat) : State := { wIss with
  stool := { wUp.stool with admitted := adm, ask := ask, elig := elig } }

theorem test_StepstoolAndRamps_bundles :
    bundleReady 3 wIss = true ∧ bundleReady 3 (wCore (List.replicate 4 [wEng 0 none, wEng 0 none, wEng 0 none, wEng 0 none])) = true ∧
    bundleReady 3 wUp = false ∧
    (let s := wAsks [5] [] []
     bundleReady 3 { s with stool := { s.stool with askNow := (10 ^ 12 + 1, [5]) } } = true ∧ s.stool.ask = [] ++ [5] ∧
     askedNow s = [] ∧ askedNow { s with stool := { s.stool with askNow := (10 ^ 12 + 1, [5]) } } = [5]) ∧
    (let s := wFloor 1 false (wAsks [3] [] [])
     inFloor s = true ∧ ((floorPref s).find? fun k => s.stool.ask.contains k && admissible k s && coreWants k s) = some 3) ∧
    (let s : State := { wAsks [3] [1, 2] [2] with pwr := { wUp.pwr with admLim := [2, 256, 256, 256] } }
     isSafe s = false ∧ elapsed (s.stool.last.getD 0 0) (stoolTicks (curRung s)) s = true ∧ inFloor s = false ∧
     (mustRelease 0 s || overLimit 0 s) = false ∧ nextAsk 0 s = some 3 ∧ (mayNotAdmit 0 s || atLimit 0 s) = true ∧
     rampKeeps 0 s = false ∧ releasable 0 s = some 2) := by decide +kernel

/-- A sample of power p (in 0.1 mW), L at lim, in the floor rung or not. -/
def wPower (p lim rung : Nat) : State := wSet [(drpB, fDRP_RUNG_CUR, rung)]
  { wUp with pwr := { wUp.pwr with samples := [(p, p / 2)], lim := lim, capSent := true } }

theorem test_PowerAndCap :
    elapsed 0 (10 * ticksMs + 1) wUp = true ∧ railPower [some (850, 5000)] 0 wUp = 4250000 ∧
    mgmtPlane wUp = 1 ∧ mgmtPlane (wSet [(hubB, fHUB_PLANE_STATUS_MGMT, 2)] wUp) = 2 ∧ mgmtPlane State.reset = 0 ∧
    (let s := wPower 50000000 90000 5
     let L := nextLimit s
     let f := memAdmit { s with pwr := { s.pwr with lim := L } }
     100 * L < p10Of s ∧ 100 * L < pPred 5 s ∧ f = 1 ∧ curRung s = 5 ∧
     ((prioOrder s).find? fun p => s.pwr.admLim.getD p 256 != 8) = some 0 ∧
     ((prioOrder s).find? fun p => ({ s with pwr := { s.pwr with admLim := [8, 256, 256, 256] } } : State).pwr.admLim.getD p 256 != 8)
       = none) ∧
    (3600 : BitVec 16).toNat = 3600 ∧ (899 : BitVec 16).toNat < 900 ∧ urgentUsed wUp = 0 ∧
    fget pwrB fPWR_URGENT_BUDGET wUp ≠ 0 ∧
    (let s := { wUp with pwr := { wUp.pwr with hb := some 0 } }
     hbAge (2 * ticksS) s = true ∧ hbAge (32 * ticksS) s = true ∧ fget pwrB fPWR_STATUS_HB_LOST s = 0 ∧
     fget pwrB fPWR_STATUS_ORPHAN s = 0) := by decide +kernel

/-- Samples of P_avg of 1,000 W, T_h of t half degrees, an inlet of 30 °C, an R_th of 100 before, degraded or not. -/
def wHot (t : Int) (deg base : Nat) : State := wSet [(pwrB, fPWR_STATUS_COOLING_DEGRADED, deg), (pwrB, fPWR_RTH_BASE, base)]
  { wUp with pwr := { wUp.pwr with samples := [(10000000, 0)], th := [t], hist := [[t]], inlet := [(10 ^ 12, 300)], rthOk := some 0,
                                   rth := if base = 0 then [] else [(10 ^ 12, base)] } }

theorem test_HeatAndCoolant :
    bitOf (causeBits wUp) 4 = false ∧ mgmtPlane wUp = 1 ∧ mgmtPlane (wSet [(hubB, fHUB_PLANE_STATUS_MGMT, 2)] wUp) = 2 ∧
    mgmtPlane State.reset = 0 ∧
    (let l : List (Option Int) := List.replicate 124 (some 106)
     let used := (List.range 52).map fun k => (pairUsed l k wUp).1
     2 * floorC wUp ≤ used.foldl max (used.headD 0) ∧ 2 * throttleC wUp < used.foldl max (used.headD 0)) ∧
    fget pwrB fPWR_STATUS_CEIL_THERM wUp < 5 ∧ elapsed wUp.pwr.thStep (10 * ticksMs) wUp = true ∧
    elapsed (10 ^ 12 - 10 * ticksMs + 1) (10 * ticksMs) wUp = false ∧ (pairUsed [] 0 wUp).2 = [0, 1] ∧
    validRead [] 104 wUp = none ∧
    (∀ d ∈ [0, 1], rthValid (wHot 160 d 0) = true) ∧ degraded (wHot 160 0 0) = false ∧ degraded (wHot 160 1 0) = true ∧
    rthNow (wHot 160 0 0) = 5000 ∧ 5 * 3999 < 4 * 5000 ∧ rthValid (wHot 160 0 3999) = true ∧
    11 * 4545 < 10 * 5000 ∧ fget pwrB fPWR_RTH_BASE (wHot 160 1 4545) = 4545 ∧ 10 * 5000 ≤ 11 * 4546 ∧
    heldFor (wHot 160 1 4546).pwr.rthOk (60 * ticksS) (wHot 160 1 4546) = true ∧
    tHot (wHot 100 0 0) < 2 * (throttleC (wHot 100 0 0) - 5) ∧ 2 * (throttleC (wHot 200 0 0) - 5) ≤ tHot (wHot 200 0 0) ∧
    mayCommand .mgA (wHot 100 0 0) = true ∧ isPf0 .mgA = true := by decide +kernel

theorem test_PowerAndCap_inert :
    inert State.reset = true ∧ inert (wPower 50000000 90000 5) = false ∧ rthValid (sendHot (wHot 160 0 0)) = true ∧
    hoCan 6660 wUp = true ∧ hoCan 6660 { wUp with handoffs := [(6660, ⟨0, [], false⟩)] } = false := by decide +kernel

/-! Start-up, resets, firmware. -/

/-- A boot whose hub firmware has come to a step, or which has failed there. -/
def wBooting (step bank fallback : Nat) : State := wSet [(hubB, fHUB_BOOT_STEP, step), (hubB, fHUB_BOOT_BANK, bank),
  (hubB, fHUB_BOOT_FALLBACK, fallback)] { State.reset with
    clk := { State.reset.clk with locked := true, now := 1000 }, boot := ⟨1, 0, true, some (wBoot 32), 0xFF, none⟩ }

theorem test_StartUp :
    State.reset.boot.phase = 0 ∧ State.reset.pwr.trip = false ∧ State.reset.boot.refclk = true ∧
    State.reset.boot.wait = none ∧ (bankStatus (firstBank State.reset) State.reset).1 = stOK ∧ (wBoot 32).pufOk = true ∧
    (wBoot 32).lerfenAlive = true ∧
    (let s : State := { State.reset with nv := { State.reset.nv with shipped := [false, false] } }
     (bankStatus (firstBank s) s).1 ≠ stOK) ∧
    booted (wBooting 12 0 0) = true ∧ isSafe (wBooting 12 0 0) = false ∧ (∀ p < 32, portState p (wBooting 12 0 0) ≠ 1) ∧
    scrubCovers 0 0x1000 (wBooting 12 0 0) = false ∧
    (let s := wBooting 2 1 0
     s.boot.wait = some (wBoot 32) ∧ attemptFailed s = true ∧ canFallBack s = true ∧ (bankStatus (otherBank s) s).1 = stOK) ∧
    attemptFailed (wBooting 2 1 1) = true ∧ canFallBack (wBooting 2 1 1) = false ∧
    mayCommand (.pf 0) wUp = true ∧ mayCommand (.pf 1) wUp = true ∧ isPf0 (.pf 1) = false ∧ wUp.rst.runs = [] := by
  decide +kernel

theorem test_StartUp_ready :
    (let s := wBooting 12 0 0
     booted s = true ∧ isSafe s = false ∧ timeReady s = true ∧ linksDone s = true) ∧
    (let s : State := wSet [(hostB, fHOST_MGMT_LOCATED, 1), (drpB, fDRP_STATUS_SYNC, 1)]
       { wBooting 12 0 0 with boot := { (wBooting 12 0 0).boot with linkT := some 900 } }
     booted s = true ∧ isSafe s = false ∧ linksDone s = true ∧ timeReady s = false) ∧
    isPf0 (.pf 0) = true ∧ ({ State.reset with boot := { State.reset.boot with phase := 3 } } : State).boot.phase = 3 ∧
    (let s : State := { State.reset with boot := { State.reset.boot with good := 0xFF } }
     s.boot.good = 0xFF ∧ ({ s with boot := { s.boot with good := 0xFE } } : State).boot.good ≠ 0xFF) := by decide +kernel

theorem test_UnitResets :
    (∀ u ∈ [(1, 3), (2, 5), (3, 0), (4, 0)], resetStatus (.pf 0) u.1 u.2 wUp = stOK ∧ mayReset u.1 u.2 wUp = true) ∧
    resetStatus (.pf 1) 4 0 wUp ≠ stOK ∧ resetStatus (.pf 0) 3 3 wUp ≠ stOK ∧ resetStatus (.pf 1) 3 0 wUp = stOK ∧
    mayReset 3 0 (wSet [(hubB, fHUB_PLANE_STATUS_MGMT, 2)] wUp) = false ∧ mayCommand (.pf 1) wUp = true ∧
    (wPart 1).rst.runs = [⟨3, 0, none, 1, [], 0⟩] ∧ unitInside 1 3 3 0 (wPart 1) = true ∧ unitInside 4 0 3 0 (wPart 1) = false ∧
    mayCommand (.pf 0) (wPart 1) = true ∧
    resetReady ⟨3, 0, none, 3, [], 0⟩ = true ∧ resetReady ⟨1, 3, some (.pf 0), 1, [], 0⟩ = true ∧ isSafe (wPart 3) = false ∧
    (wPart 3).fwu.act = none ∧ (wPart 3).sec.run = none := by decide +kernel

theorem test_UnitResets_capture :
    coreReach (.pf 1) 3 wUp = true ∧
    (let s := wSet [(coreB 3, fCORE_CAPTURE_LO_ADDR_LO, 0x4000)] wUp
     captureStatus 3 s = stOK ∧ Memory.wf s.mem = true ∧ s.ecc = [] ∧ coreReach (.pf 0) 3 s = true) ∧
    captureStatus 3 (wSet [(coreB 3, fCORE_CAPTURE_LO_ADDR_LO, 0x4040)] wUp) ≠ stOK := by decide +kernel

/-- Bank B staged, with flash as given and no bank as shipped. -/
def wBanks (staged : Bool) (l : Tbl Byte) : State := { wUp with
  flash := l, nv := { wUp.nv with staged := staged, shipped := [false, false] } }

/-- A STAGE of n bytes from 0x4000, or from offset 0 of the recovery buffer. -/
def wFwu (n : Nat) : State := wSet [(fwuB, fFWU_ARG_SRC_LO_SRC_LO, 0x4000), (fwuB, fFWU_ARG_LEN_LEN, n)] wUp
def wRom (n : Nat) : State := wSet [(fwuB, fFWU_ARG_LEN_LEN, n)] { State.reset with boot := ⟨3, 0, true, none, 0xFF, none⟩ }

theorem test_FirmwareUpdate_commands :
    isPf0 .mgA = true ∧ fwuServes wUp = true ∧ fget fwuB fFWU_CMD_BUSY wUp = 0 ∧ wUp.fwu.upd = none ∧ wUp.nv.lc ≠ 3 ∧
    wUp.boot.phase ≠ 3 ∧ fwuServes (wRom 0x10000) = true ∧
    (∀ n ∈ [0x2000, bankSize], firstFail [failIf (decide (bankSize < n)) stLENGTH, rangeStatus .pf0 0x4000 n (wFwu n)] = stOK ∧
      fwuSrc (wFwu n) = 0x4000 ∧ fwuLen (wFwu n) = n) ∧
    decide (bankSize < fwuLen (wFwu (bankSize + 1))) = true ∧ Memory.wf (wFwu 0x2000).mem = true ∧ (wFwu 0x2000).ecc = [] ∧
    (wRom 0x10000).boot.phase = 3 ∧ fwuLen (wRom 0x10000) ≤ rbufSize ∧
    fget fwuB fFWU_ARG_SRC_LO_SRC_LO (wRom 0x10000) = 0 ∧ (wRom 0x10000).nv.lc ≠ 3 ∧
    (let s := wBanks true []
     s.nv.staged = true ∧ compsDiffer s = [] ∧ s.boot.phase ≠ 3) ∧
    (let s := wBanks true [(0x6F0, 4), (0x6F4, 1)]
     compsDiffer s = [4] ∧ domGenFree 4 s = true) ∧
    5 ∈ compsDiffer (wBanks true [(0x6F0, 5), (0x6F4, 1)]) ∧ wUp.nv.staged = false := by decide +kernel

theorem test_FirmwareUpdate_rom :
    (∀ x ∈ [(0x10000, 0, true), (rbufSize + 1, 0, false), (0x10000, 4, false)],
      let s := wSet [(fwuB, fFWU_ARG_SRC_LO_SRC_LO, x.2.1)] (wRom x.1)
      let o := fget fwuB fFWU_ARG_SRC_LO_SRC_LO s
      let n := fwuLen s
      s.boot.phase = 3 ∧ o = x.2.1 ∧ n = x.1 ∧
      decide (firstFail [failIf (decide (rbufSize < n ∨ bankSize < o + n)) stLENGTH, failIf (o % rbufSize != 0) stWINDOW] = stOK)
        = x.2.2) := by decide +kernel

/-- A hub restart in a phase, whose target bank is as shipped. -/
def wRestart (phase : Nat) (micro : Bool) (good : Bool) : State := wSet [(hubB, fHUB_PLANE_STATUS_MGMT, 2)] { wUp with
  nv := { wUp.nv with staged := true, shipped := [true, good] }, fwu := { wUp.fwu with act := some ⟨phase, micro, stOK, 0⟩ } }

theorem test_FirmwareUpdate_restart :
    (∀ m ∈ [false, true],
      let s := wRestart 1 m true
      s.fwu.act = some ⟨1, m, stOK, 0⟩ ∧ isSafe s = false ∧ mgmtPlane s = 2 ∧ s.cab.wait = none ∧ s.col.wait = none ∧
      s.sec.wait = [] ∧ s.mgmt.wait = [] ∧ s.rst.runs = [] ∧ (restartStatus ⟨true, false, false⟩ s).1 = stOK ∧
      (restartStatus ⟨false, false, false⟩ s).1 ≠ stOK ∧ s.fab.wait = [] ∧ s.gzl.wait = [] ∧ s.gzl.cont = none) ∧
    (restartStatus ⟨true, false, false⟩ (wRestart 1 false false)).1 ≠ stOK ∧ (wRestart 2 false true).fwu.act = some ⟨2, false, stOK, 0⟩ := by
  decide +kernel

/-! Faults and observation. -/

/-- Source 0x1003 has sent n invalid samples. -/
def wInvalid (n : Nat) : State := { wUp with bur := { wUp.bur with invalid := if n = 0 then [] else [(0x1003, n)] } }

/-- A record of code 0x01 of core 3 with REPEAT rep, the last of its source, W ahead of it by d. -/
def wRec (rep : BitVec 16) : LogRec := ⟨0, 0, 0x01, 0x1003, 1, rep, 0, 0, 0, 0, 1⟩
def wLog (rep : BitVec 16) (d : BitVec 48) : State := { wUp with
  clk := { wUp.clk with w := d },
  bur := { wUp.bur with log := [(1, some (wRec rep))], last := [(0x1003, some (wRec rep))] } }

/-- The log took the record of core 3 in this NCLK cycle. -/
def wAhead (rep : BitVec 16) : State := { wUp with bur := { wUp.bur with log := [(1023, some (wRec rep))], cyc := (10 ^ 12 + 1, 1) } }

/-- ERR_N low, held until now + 1 or not, with a CLEAR waiting or not. -/
def wErrN (held clr : Bool) : State := wSet [(burB, fBUR_ERRN_PIN, 1)]
  { wUp with bur := { wUp.bur with errMin := some (if held then 10 ^ 12 + 1 else 10 ^ 12), errClr := clr } }

theorem test_FaultsAndErrN_signal :
    collectorDie 0x1003 = some 0 ∧ (getHo 6656 wUp).credits ≠ 0 ∧ wUp.bur.held = [] ∧
    (getHo 6656 { wUp with handoffs := [(6656, ⟨0, [], false⟩)] }).credits = 0 ∧ tget (fun _ => 0) (wInvalid 3).bur.invalid 0x1003 = 3 ∧
    collectorDie 0x6002 = none ∧ tget (fun _ => 0) (wInvalid 2).bur.invalid 0x1003 < 3 ∧
    3 < tget (fun _ => 0) (wInvalid 4).bur.invalid 0x1003 := by decide +kernel

theorem test_FaultsAndErrN_reaction :
    (∀ x ∈ [(0x01, 0x1003, 0), (0x03, 0x1003, 1), (0x08, 0x1003, 2), (0x15, 0x3000, 4)],
      faultReact (faultClass x.1 x.2.1) x.1 x.2.1 (wSet [(burB, fBUR_CFG_CORR_IRQ, 0)] wUp) = x.2.2) ∧
    faultReact 0 0x01 0x1003 (wSet [(burB, fBUR_CFG_CORR_IRQ, 1)] wUp) = 1 ∧
    faultReact (faultClass 0x0A 0x4003) 0x0A 0x4003 wUp = 2 ∧ faultReact (faultClass 0x0B 0x5003) 0x0B 0x5003 wUp = 2 ∧
    faultReact (faultClass 0x0A 0x2003) 0x0A 0x2003 wUp = 2 ∧ wUp.insts = [] ∧ tget (fun _ => none) wUp.bur.last 0x1003 = none ∧
    faultReact 3 0x09 0x1003 (wSet [(burB, fBUR_CFG_STOP_EN, 1)] wUp) = 3 ∧ partOfDie wUp.cab.cur 0 = some 0 ∧
    partInReset 0 wUp = false ∧ isSafe wUp = false ∧
    mergesInto (wRec 0xFFFE) 0x01 (BitVec.ofNat 48 (ticksMs - 1)) = true ∧
    mergesInto (wRec 0) 0x01 (BitVec.ofNat 48 ticksMs) = false ∧ recsNow wUp = 0 ∧ recsNow (wAhead 0) = 1 ∧
    logAt ((seqBack 1).toNat % 1024) (wAhead 0) = some (wRec 0) ∧ (0x1002 : BitVec 16) < (wRec 0).source ∧ faultClass 0x01 0x1003 = 0 ∧
    logAt ((wRec 0xFFFE).seq.toNat % 1024) (wLog 0xFFFE 0) = some (wRec 0xFFFE) ∧ (wRec 0xFFFE).repeats ≠ 0xFFFF ∧
    (let s : State := { wUp with host := { wUp.host with msixEn := [true], masked := [(0, false)] } }
     s.host.msixEn.getD 0 false = true ∧ tget (fun _ => true) s.host.masked 0 = false) := by decide +kernel

/-- A fault of port 3 at the Bureau, or one of core 3. -/
def wFault (code : BitVec 8) (src : BitVec 16) : FaultIn := ⟨src, code, 1, 0, 0⟩

theorem test_Faults_reacted :
    GzQuiet wUp ∧ (0x4003 : BitVec 16).toNat / 0x1000 = 4 ∧ collectorDie 0x4003 = some 0 ∧
    reacted (detectTime (wFault 0x01 0x1003) wUp) 0x1003 wUp = false ∧
    (let s := wSet [(burB, fBUR_STATUS_SAFE, 1)] { wUp with bur := { wUp.bur with
       last := [(0x1003, some { wRec 0 with react := 4, w := wUp.clk.w, epoch := wUp.clk.epoch })] } }
     reacted (detectTime (wFault 0x08 0x1003) s) 0x1003 s = true) := by
  refine ⟨⟨by decide +kernel, by decide +kernel⟩, ?_⟩
  decide +kernel

theorem test_FaultsAndErrN_pin :
    fget burB fBUR_ERRN_PIN (wErrN true false) = 1 ∧ errNHeld (wErrN true false) = true ∧ errNHeld (wErrN false false) = false ∧
    (wErrN false true).bur.errClr = true ∧ isSafe (wErrN false true) = false ∧ isPf0 .mgB = true ∧
    mayCommand .mgB (wErrN true false) = true ∧ fget burB fBUR_ERRN_PIN wUp = 0 := by decide +kernel

/-- A snapshot armed for W = T in a ring at 0x10000, W at w, with the period. -/
def wSnap (t : Option (BitVec 48)) (w : BitVec 48) (lp : Nat) : State := wSet [(perfB, fPERF_SNAP_RING_LO_BASE_LO, 0x10000),
  (perfB, fPERF_SNAP_T_LO_T_LO, 200), (perfB, fPERF_SNAP_CTL_LOG2_PERIOD, lp)]
  { wUp with clk := { wUp.clk with w := w }, perf := { wUp.perf with snapT := t, counters := [(5, ⟨7, 0⟩)] } }

/-- The sample ring of partition 0 at 0x20000, enabled or not; sampling on in core 3. -/
def wSring (hi : Word) : State := wSet [(coreB 3, fCORE_SAMPLE_CTL_EN, 1)] { wUp with
  perf := { wUp.perf with srings := modAt 0 (fun _ => ⟨0x20000, hi, 0, 0⟩) wUp.perf.srings } }

theorem test_Observation :
    perfReach (.pf 0) wUp = true ∧ snapStatus (wSnap none 199 0) = stOK ∧ snapStatus (wSnap none 199 19) ≠ stOK ∧
    reaches48 199 (snapTime (wSnap none 199 0)) = false ∧ (wSnap none 199 0).perf.snapT = none ∧
    (∀ lp ∈ [0, 20],
      let s := wSnap (some 200) 200 lp
      s.perf.snapT = some 200 ∧ reaches48 s.clk.w 200 = true ∧ isSafe s = false ∧ snapObj s = 0 ∧ Memory.wf s.mem = true ∧
      s.ecc = [] ∧ rangeStatus .pf0 (snapBase s + 0x8000 * ((fget perfB fPERF_SNAP_SEQ_SEQ (fadd perfB fPERF_SNAP_SEQ_SEQ 1
        (copyCounters s)) - 1) % snapSlots s)) 25920 s = stOK) ∧
    reaches48 (wSnap (some 200) 199 0).clk.w 200 = false ∧
    (let s := wSring 0x9C000000
     let r := getSRing 0 s
     corePart 3 s = 0 ∧ sealBit s.cab.cur 0 = false ∧ isSafe s = false ∧ bitOf r.hi.toNat 31 = true ∧
     regionOf (sringAddr r) = some .stack ∧ rangeStatus (.part 0) (sringAddr r) 32 s = stOK ∧ Memory.wf s.mem = true) ∧
    bitOf (getSRing 0 (wSring 0x1C000000)).hi.toNat 31 = false ∧ (getSRing 0 (wSring 0x1C000000)).drop ≠ 0xFFFF ∧
    crawlWorks wUp = true ∧ crawlWorks { wUp with nv := { wUp.nv with lc := 2 } } = false ∧ wUp.nv.lc ≠ 2 := by decide +kernel

/-- The sample ring of partition 0 at 0x20000, and a tagged instruction of core 3. -/
def wTagged (hi : Word) : State := { wSring hi with cores := [(3, { Core.idle with tags := 1 })] }

theorem test_Observation_samples :
    (getCore 3 wUp).tags = 0 ∧ (getCore 3 (wTagged 0)).tags = 1 ∧
    (let s := wTagged 0x9C000000
     let r := getSRing 0 s
     corePart 3 s = 0 ∧ sealBit s.cab.cur 0 = false ∧ isSafe s = false ∧ bitOf r.hi.toNat 31 = true ∧
     regionOf (sringAddr r) = some .stack ∧ rangeStatus (.part 0) (sringAddr r) 32 s = stOK ∧ Memory.wf s.mem = true ∧ s.ecc = []) ∧
    bitOf (getSRing 0 (wTagged 0x1C000000)).hi.toNat 31 = false := by decide +kernel

/-! The security block. -/

/-- Arguments of the security block of a requester: source, destination, length, record. -/
def wSecArg (r : Requester) (a d n : Nat) (s : State) : State :=
  secSet r fSEC_ARG_SRC_LO_SRC_LO a (secSet r fSEC_ARG_DST_LO_DST_LO d (secSet r fSEC_ARG_LEN_LEN n s))

/-- Partition 0 is sealed and the lifecycle is SEALED; a blob of one manifest and one entry at 0x4000. -/
def wBlob (magic : Byte) : State := wSecArg (.pf 1) 0x4000 0 240 { wUp with
  nv := { wUp.nv with lc := 2 },
  cab := { wUp.cab with cur := { presetStruct with sect := modAt 0 (fun l => modAt 0 (fun _ => 0x10F) l) presetSects } },
  mem := wMem [(0x4000, magic :: [0x4B, 0x45, 0x59] ++ leBytes 2 1 ++ leBytes 2 1), (0x4010, [1]), (0x4014, leBytes 4 240)] }

/-- Key slot 0 holds a key; a record of n bytes at 0x4000, its plain text for d. -/
def wKeyed (d n : Nat) : State := wSecArg (.pf 1) 0x4000 d n
  { wUp with sec := { wUp.sec with slots := [(0, some ⟨[1], [2], [], [], []⟩)] } }

theorem test_SecurityCommands_keys :
    (mayCommand (.pf 1) wUp = true ∧ secGet (.pf 1) fSEC_CMD_BUSY wUp = 0 ∧ wUp.sec.wait = [] ∧ wUp.sec.run = none ∧
      mgmtPlane wUp ≠ 2) ∧
    wUp.nv.lc ≠ 3 ∧ isPf0 (.pf 1) = false ∧ isPf0 .mgA = true ∧
    (let s := wBlob 0x42
     let h := memBytes 0x4000 0x60 s
     secSrc (.pf 1) s = 0x4000 ∧ secLen (.pf 1) s = 240 ∧ blobOk h = true ∧ blobSize h = 240 ∧ le32 h 0x14 = 240 ∧
     secRange (.pf 1) (some 0) 0x4000 240 s = stOK ∧ s.nv.lc = 2 ∧ s.sec.unlocked = false ∧ slotServed (.pf 1) 3 s = true ∧
     getKey 3 s = none ∧ mayCommand (.pf 1) s = true) ∧
    blobOk (memBytes 0x4000 0x60 (wBlob 0x43)) = false ∧ slotOwn (.pf 1) 3 wUp = true ∧ slotOwn (.pf 1) 4 wUp = false ∧
    (∀ x ∈ [(0x4000, 17), (0x40000, 65552)],
      let s := wKeyed x.1 x.2
      let a := 0x4000
      let d := secDst (.pf 1) s
      let n := secLen (.pf 1) s
      d = x.1 ∧ n = x.2 ∧ (getKey 0 s).isSome = true ∧ secRange (.pf 1) (some 0) a n s = stOK ∧
      secRange (.pf 1) (some 0) d (n - 16) s = stOK ∧ reachStatus (.part 0) a n s = stOK ∧
      reachStatus (.part 0) d (n - 16) s = stOK ∧ decide (a = d ∨ meets a n d (n - 16) = false) = true ∧
      Memory.wf s.mem = true ∧ s.ecc = []) := by decide +kernel

/-- The record of a signed command with a payload, unsigned, for this package, under a nonce of zeros. -/
def wSigned (cmd : Byte) (l : List Byte) : List Byte :=
  [cmd, 0, 0, 0] ++ leBytes 4 l.length ++ List.replicate 40 0 ++ ownIdent ++ l ++ List.replicate 96 0

/-- The record at 0x4000, for port A, in a lifecycle state. -/
def wSign (cmd : Byte) (l : List Byte) (lc : Nat) : State := wSecArg .mgA 0x4000 0 (0xC0 + l.length) { wUp with
  mem := (wSigned cmd l).zipIdx.map fun b => (0x4000 + b.2, b.1),
  nv := { wUp.nv with lc := lc, cabKeys := [some [7], none, none, none] },
  sec := { wUp.sec with nonce := some (List.replicate 32 0) } }

/-- A record passes the checks if it passes them apart from IDENT, and names this package. -/
theorem wSigned_ok (cmd : Nat) (b : List Byte) (s : State)
    (h1 : ((b.getD 0 0).toNat != cmd || !zeroBytes b 1 3 || !payReserved cmd b) = false)
    (h2 : (secLen .mgA s != 0x60 + le32 b 4 + 96 || le32 b 4 != payLen cmd b || !payCounts cmd b) = false)
    (h3 : secRange .mgA none (secSrc .mgA s) (secLen .mgA s) s = stOK) (h4 : s.sec.nonce = some (bytesAt b 0x10 32))
    (h5 : bytesAt b 0x30 48 = ownIdent) (h6 : signedOk cmd b s = true) (h7 : (cmd == 12 && payByte b 0 == 0) = false) :
    (signedCheck cmd .mgA b s).1 = stOK := by
  simp only [signedCheck, h1, h2, h3, h4, h5, h6, h7]
  simp [firstCheck, failIf, secOk]

/-- The payloads of the signed commands ENROL to COMMIT_SECVER. -/
def wPays : List (Byte × List Byte) :=
  [(5, List.replicate 97 9 ++ [0, 0, 0]), (6, List.replicate 8 0), (7, List.replicate 8 0), (8, []), (9, []), (10, []),
   (11, List.replicate 4 0)]

/-- Bytes that stand in memory one after the other are read back. -/
theorem wRead_at (l : List Byte) (a k i : Nat) (h : i < l.length) :
    tget (fun _ => 0) ((l.zipIdx k).map fun b => (a + b.2, b.1)) (a + (k + i)) = l[i] := by
  induction l generalizing k i with
  | nil => simp at h
  | cons x r ih =>
    cases i with
    | zero => simp [tget]
    | succ i =>
      have := ih (k + 1) i (by simpa using h)
      simpa [tget, Nat.add_assoc, Nat.add_comm 1 i, Nat.add_left_comm 1] using this

theorem wRead (l : List Byte) (a : Nat) (s : State) (h : s.mem = l.zipIdx.map fun b => (a + b.2, b.1)) :
    memBytes a l.length s = l := by
  apply List.ext_getElem
  · simp [memBytes]
  · intro i h1 h2
    have := wRead_at l a 0 i h2
    simp only [Nat.zero_add] at this
    simpa [memBytes, memGet, h] using this

set_option maxRecDepth 20000 in
theorem test_SecurityCommands_signed (x : Byte × List Byte) (hx : x ∈ wPays) :
    let s := wSign x.1 x.2 1
    (signedCheck x.1.toNat .mgA (memBytes (secSrc .mgA s) (secLen .mgA s) s) s).1 = stOK := by
  have hb : memBytes (secSrc .mgA (wSign x.1 x.2 1)) (secLen .mgA (wSign x.1 x.2 1)) (wSign x.1 x.2 1) = wSigned x.1 x.2 := by
    have h1 : secSrc .mgA (wSign x.1 x.2 1) = 0x4000 := by
      simp only [wPays, List.mem_cons, List.not_mem_nil, or_false] at hx
      rcases hx with rfl | rfl | rfl | rfl | rfl | rfl | rfl <;> decide +kernel
    have h2 : secLen .mgA (wSign x.1 x.2 1) = (wSigned x.1 x.2).length := by
      simp only [wPays, List.mem_cons, List.not_mem_nil, or_false] at hx
      rcases hx with rfl | rfl | rfl | rfl | rfl | rfl | rfl <;> decide +kernel
    rw [h1, h2]
    exact wRead _ _ _ rfl
  simp only [hb]
  simp only [wPays, List.mem_cons, List.not_mem_nil, or_false] at hx
  rcases hx with rfl | rfl | rfl | rfl | rfl | rfl | rfl <;>
    exact wSigned_ok _ _ _ (by decide +kernel) (by decide +kernel) (by decide +kernel) (by decide +kernel) (by rfl)
      (by decide +kernel) (by decide +kernel)

theorem test_SecurityCommands_lifecycle :
    (wSign 8 [] 1).nv.lc = 1 ∧ (∃ k ∈ (wSign 8 [] 1).nv.cabKeys, k ≠ none) ∧ wUp.nv.lc = 1 ∧ (∀ k ∈ wUp.nv.cabKeys, k = none) ∧
    (∀ y, cabKey y wUp = none) ∧ ((List.range 4).find? fun i => (wUp.nv.cabKeys.getD i none).isNone) = some 0 ∧
    tearing (wSign 10 [] 0) = false ∧ partList (wSign 9 [] 1).cab.cur ≠ [] ∧ (wSign 12 [] 0).nv.lc = 0 ∧
    secRange .mgA none 0x8000 97 (wSign 12 [] 0) = stOK := by
  refine ⟨by decide +kernel, ⟨some [7], by decide +kernel, by decide +kernel⟩, by decide +kernel, by decide +kernel, fun y => rfl,
    ?_⟩
  decide +kernel

theorem test_SecurityCommands_sinks :
    (∀ x ∈ [(0x4000, 17), (0x40000, 65552)],
      inSink (secDst (.pf 1) (wKeyed x.1 x.2)) (secLen (.pf 1) (wKeyed x.1 x.2) - 16) (wKeyed x.1 x.2) = false) ∧
    inSink 0x8000 97 (wSign 12 [] 0) = false ∧
    (let s : State := { wUp with cab := { wUp.cab with cur := wSinkCab } }
     inSink (coreStore 7 + 0x100) 97 s = true ∧ secRange .mgA none (coreStore 7 + 0x100) 97 s = stOK) ∧
    wUp.sec.unlocked = false := by decide +kernel

/-! SPDM and PLDM. -/

/-- A requester of the SPDM responder that has come to a step. -/
def wSpdm (n : Nat) : State := { wUp with spdm := ⟨[⟨⟨.i3c, 8⟩, n, 0, []⟩], []⟩, nv := { wUp.nv with chain := some [1, 2, 3] } }

/-- A firmware update at a step, with 2,048 bytes to take and some taken. -/
def wUpd (n got : Nat) : PldmUpd := ⟨⟨.i3c, 8⟩, n, 2048, got, 0⟩
def wPldm (n got : Nat) : State := { wUp with fwu := { wUp.fwu with upd := some (wUpd n got) } }

theorem test_Attestation_spdm :
    mgmtPlane State.reset ≠ 1 ∧ mgmtPlane wUp = 1 ∧ spdmPeer ⟨.i3c, 8⟩ wUp = none ∧ wUp.spdm.dropped.contains ⟨.i3c, 8⟩ = false ∧
    (let s : State := { wUp with spdm := ⟨[], [⟨.i3c, 8⟩]⟩ }
     mgmtPlane s = 1 ∧ spdmPeer ⟨.i3c, 8⟩ s = none ∧ s.spdm.dropped.contains ⟨.i3c, 8⟩ = true) ∧
    (∀ n ≤ 3, mgmtPlane (wSpdm n) = 1 ∧ spdmPeer ⟨.i3c, 8⟩ (wSpdm n) = some ⟨⟨.i3c, 8⟩, n, 0, []⟩) ∧
    (wSpdm 3).nv.chain = some [1, 2, 3] ∧ (2 : BitVec 16).toNat < [1, 2, 3].length ∧
    ((wSpdm 3).spdm.peers.filter fun y => y.q != ⟨.i3c, 8⟩).length < 8 ∧ (11 : BitVec 8).toNat ≤ 11 ∧
    11 < (12 : BitVec 8).toNat := by decide +kernel

theorem test_Attestation_pldm :
    mgmtUp wUp = true ∧ wUp.fwu.upd = none ∧ fget fwuB fFWU_CMD_BUSY wUp = 0 ∧ wUp.nv.lc ≠ 3 ∧ fwuServes wUp = true ∧
    (wPldm 1 0).fwu.upd.isSome = true ∧ fget fwuB fFWU_CMD_BUSY (wSet [(fwuB, fFWU_CMD_BUSY, 1)] wUp) = 1 ∧
    (let s : State := { wUp with nv := { wUp.nv with lc := 3 } }
     mgmtUp s = true ∧ s.fwu.upd = none ∧ fget fwuB fFWU_CMD_BUSY s = 0 ∧ s.nv.lc = 3) ∧
    (∀ n ∈ [1, 2, 3, 4, 5, 6], mgmtUp (wPldm n 0) = true ∧ (wPldm n 0).fwu.upd = some (wUpd n 0) ∧
      (wUpd n 0).q = ⟨.i3c, 8⟩ ∧ (wUpd n 0).step = n) ∧
    (wUpd 3 1024).got < (wUpd 3 1024).size ∧ (wUpd 3 2048).got = (wUpd 3 2048).size ∧ (wPldm 3 0).boot.phase ≠ 3 ∧
    bankSize < (0x3000001 : BitVec 32).toNat ∧ (0x3000000 : BitVec 32).toNat ≤ bankSize ∧
    (let s : State := { State.reset with boot := ⟨3, 0, true, none, 0xFF, none⟩, fwu := ⟨none, some (wUpd 3 0), 0, []⟩ }
     mgmtUp s = true ∧ s.fwu.upd = some (wUpd 3 0) ∧ s.boot.phase = 3) ∧
    elapsed (wUpd 3 0).t (60 * ticksS) (wPldm 3 0) = true ∧
    (let s : State := { wPldm 3 0 with clk := { wUp.clk with now := 5 } }
     elapsed (wUpd 3 0).t (60 * ticksS) s = false) := by decide +kernel

theorem test_Attestation_activate :
    (∀ l ∈ [[], [(0x6F0, (4 : Byte)), (0x6F4, 1)]],
      let s : State := { wPldm 6 2048 with
        flash := l, nv := { wUp.nv with staged := true, shipped := [false, false] } }
      mgmtUp s = true ∧ s.fwu.upd = some (wUpd 6 2048) ∧ s.nv.lc ≠ 3 ∧ s.nv.staged = true ∧ s.boot.phase ≠ 3 ∧
      compsDiffer s = (if l = [] then [] else [4]) ∧ domGenFree 4 s = true) ∧ (wPldm 6 2048).nv.staged = false := by
  decide +kernel

/-! The host interface and the management ports. -/

/-- The host link is up; both management ports and I3C are, with an address of port A. -/
def wHost : State := wSet [(hostB, fHOST_LINK_SPEED, 5), (hostB, fHOST_MGMT_A_UP, 1), (hostB, fHOST_MGMT_B_UP, 1),
  (hostB, fHOST_MGMT_I3C_ADDR_OK, 1), (hostB, ⟨oHOST_IPV4_A, 31, 0⟩, 0x0A000001)] wUp

theorem test_HostAndPorts :
    hostUp 1 wUp = false ∧ hostUp 1 wHost = true ∧ barAllowed 1 0x4000 16 wHost = true ∧ barAllowed 1 (2 ^ 41 - 16) 16 wHost = false ∧ inSink 0x4000 16 wHost = false ∧
    (let s : State := { wHost with cab := { wUp.cab with cur := wSinkCab } }
     hostUp 0 s = true ∧ barAllowed 0 (coreStore 7 + 0x100) 16 s = true ∧ inSink (coreStore 7 + 0x100) 16 s = true ∧
     memMsgStatus .mgA (coreStore 7 + 0x100) 16 s = stOK ∧ portServes .a s = true ∧ s.boot.phase ≠ 0 ∧
     coreStore 7 + 0x100 + 16 ≤ bar2Size) ∧
    2 ^ 41 - 16 + 16 ≤ bar2Size ∧ bar0Size < (2 ^ 27 - 3) + 4 ∧ Memory.wf wHost.mem = true ∧ wHost.ecc = [] ∧
    wHost.host.perst = false ∧ wHost.boot.phase ≠ 0 ∧ (16 : BitVec 5).toNat ∈ [1, 2, 4, 8, 16] ∧
    (3 : BitVec 5).toNat ∉ [1, 2, 4, 8, 16] ∧
    (let s : State := { wHost with
      host := { wHost.host with causes := [(1, 7)] }, sec := { wHost.sec with run := some (.pf 1, 9) } }
     hostUp 1 s = true ∧ (1, 7) ∈ s.host.causes ∧ (1, 8) ∉ s.host.causes ∧ s.sec.run = some (.pf 1, 9)) ∧
    mgmtUp State.reset = false ∧ mgmtUp wHost = true ∧ portHears .a 0x0A000001 wHost = true ∧
    portHears .b 0x0A000001 wHost = false ∧ fget hostB fHOST_MGMT_LOCATED wHost = 1 := by decide +kernel

/-- An instance in a role, with its deadline ahead, and Gorzel state as given. -/
def wGz (role : Nat) (f : Gzl → Gzl) : State := wSet [(gzlB, fGZL_ROLE_ROLE, role)] { wHost with
  gzl := f { wHost.gzl with deadline := some (2 * 10 ^ 12) } }

/-- A message: class, code, body, sequence number, sender, BOOT_ID. -/
def wMsg (cls code : BitVec 8) (body : List Byte) (seq : BitVec 32) (sender : BitVec 32) (boot : BitVec 64) : MgmtMsg :=
  ⟨.a, 0x7E, 0x1EC5, cls, code, 0, 0, 0, seq, sender, 0, boot, 0, BitVec.ofNat 16 body.length, body, List.replicate 16 0⟩

/-- A RUNG_TARGET, and a HEARTBEAT, of the rack manager; a package without cabinet keys takes a MAC of zeros. -/
def wRack (code : BitVec 8) (seq : BitVec 32) (boot : BitVec 64) : MgmtMsg :=
  wMsg 2 code (if code = 4 then leBytes 4 2 else []) seq 0x10000000 boot

/-- The last message of the rack manager had sequence number 7. -/
def wHeard : State := { wHost with mgmt := { wHost.mgmt with peers := [⟨0x10000000, 0, 7, ⟨stOK, 0, []⟩⟩] } }

theorem test_ManagementMessages_checks :
    (let m := wRack 4 8 0
     let s := wHeard
     (msgHeard m s = true ∧ bitOf m.flags.toNat 0 = false ∧ mgmtPlane s ≠ 2 ∧ (mgmtPlane s ≠ 0 ∨ s.boot.phase = 3)) ∧
     (formatBad m = false ∧ lengthBad m = false ∧ authOk m s = true ∧ safeMsg m = false) ∧ m.bootId.toNat = bootIdOf s ∧
     lastPeer m s = some ⟨0x10000000, 0, 7, ⟨stOK, 0, []⟩⟩ ∧ newer32 m.seq 7 = true ∧ m.seq ≠ 7 ∧ m.cls = 2 ∧ m.code ≠ 7 ∧
     s.boot.phase ≠ 0 ∧ senderAllowed m s = true) ∧
    (wRack 4 7 0).seq = 7 ∧ newer32 (wRack 4 6 0).seq 7 = false ∧ (wRack 4 8 1).bootId.toNat ≠ bootIdOf wHeard ∧
    lastPeer (wRack 4 8 0) wHost = none ∧ msgHeard (wRack 4 8 0) wUp = false ∧
    mgmtPlane (wSet [(hubB, fHUB_PLANE_STATUS_MGMT, 2)] wHost) = 2 ∧
    mgmtPlane (wSet [(hubB, fHUB_PLANE_STATUS_MGMT, 0)] wHost) = 0 ∧ wHost.boot.phase ≠ 3 ∧
    formatBad { wRack 4 8 0 with cls := 9 } = true ∧
    (let m := { wRack 4 8 0 with len := 5 }
     formatBad m = false ∧ lengthBad m = true) ∧
    (let m := { wRack 4 8 0 with mac := List.replicate 16 1 }
     formatBad m = false ∧ lengthBad m = false ∧ authOk m wHeard = false) ∧
    (let m := { wRack 4 8 0 with sender := 0x30000000 }
     (formatBad m = false ∧ lengthBad m = false ∧ authOk m wHeard = true ∧ safeMsg m = false) ∧ lastPeer m wHeard = none ∧
     senderAllowed m wHeard = false) := by decide +kernel

theorem test_ManagementMessages_rack :
    (let s := wSet [(hostB, fHOST_MGMT_LOCATED, 0)] wHost
     mgmtUp s = true ∧ mgmtPlane s ≠ 2 ∧ fget hostB fHOST_MGMT_LOCATED s = 0 ∧ s.boot.phase ≠ 3 ∧ s.gzl.wait = [] ∧
     s.gzl.cont = none) ∧ mgmtUp State.reset = false ∧ mgmtPlane State.reset ≠ 2 ∧
    mgmtPlane (wSet [(hubB, fHUB_PLANE_STATUS_MGMT, 2)] wHost) = 2 ∧
    fget hostB fHOST_MGMT_LOCATED wHost = 1 ∧ mgmtPlane wHost = 1 ∧ serving wHost = true ∧
    (let s := wSet [(hubB, fHUB_PLANE_STATUS_READY, 0)] wHost
     mgmtPlane s = 1 ∧ serving s = false) ∧ isKeeper wHost = true ∧
    (let s : State := { wHost with mgmt := { wHost.mgmt with hbPort := some .a, evBits := 4, evT := some 0 } }
     s.mgmt.evT = some 0 ∧ s.mgmt.hbPort = some .a ∧ mgmtPlane s = 1 ∧ elapsed 0 (10 * ticksMs) s = true) ∧
    wHost.mgmt.evT = none ∧ (9 : BitVec 19) ≠ ownEid wHost ∧ gzActive (wGz 2 id) = true ∧
    ownEid (wGz 2 id) = 5 ∧ gzFree (wGz 2 id) = true ∧ gzFree wHost = true ∧ gzActive wHost = false ∧
    gzBusy (wSet [(hubB, fHUB_PLANE_STATUS_MGMT, 2)] wHost) = true ∧
    gzDeaf (wSet [(hostB, fHOST_MGMT_LOCATED, 0)] wHost) = true := by decide +kernel

theorem test_ManagementMessages_access :
    portServes .a wUp = false ∧ portServes .a wHost = true ∧ wHost.boot.phase ≠ 0 ∧
    (readReg .mgA (hubB + oHUB_PLANE_STATUS) 4 wHost).1 = stOK ∧
    (writeReg .mgA (hubB + oHUB_PLANE_STATUS) 4 0 wHost).2.boot.phase ≠ 0 ∧ memMsgStatus .mgA 0x4000 16 wHost = stOK ∧
    memMsgStatus .mgA (2 ^ 41) 16 wHost ≠ stOK ∧ Memory.wf wHost.mem = true ∧ wHost.ecc = [] := by decide +kernel

/-! Links, cells and the Sump. -/

/-- Port 1 in a link state, with its fields as given. -/
def wPort (st : Nat) (f : Port → Port) : State := wSet [(fabB 1, fFAB_STATUS_STATE, st)] { wUp with
  fab := { wUp.fab with ports := modAt 1 f wUp.fab.ports } }

/-- An attempt over all lanes or over lanes 0 to 3, on a plane, with a fibre delay. -/
def wTrained (good : BitVec 8) (plane : BitVec 3) (fibre : BitVec 16) : TrainResult := ⟨good, good, plane, 5, fibre, 40, 50⟩

/-- A training run on port 1 that has made n attempts, with its best width. -/
def wTraining (n : Nat) (best : Option (TrainResult × Nat × BitVec 8)) : State :=
  wPort 1 fun x => { x with run := some ⟨n, best, false⟩ }

theorem test_LinksAndCells_training :
    (let s := wTraining 1 none
     portState 1 s = 1 ∧ (s.fab.ports[1]?.bind fun x => x.run) = some ⟨1, none, false⟩ ∧ runOver ⟨1, none, false⟩ = false ∧
     laserLow 1 s = false ∧ trainLanes (wTrained 0x13 1 100) = (0, 0) ∧ trainLanes (wTrained 0xFF 1 100) = (8, 0xFF)) ∧
    runOver ⟨3, none, false⟩ = true ∧ runOver ⟨1, some (wTrained 0xFF 1 100, 8, 0xFF), false⟩ = true ∧
    (let b := (wTrained 0x0F 1 7600, 4, (0x0F : BitVec 8))
     runOver ⟨3, some b, false⟩ = true ∧ bitOf (sectW (wTraining 3 (some b)).cab.cur 7 1) 1 = false ∧
     portState 1 (wTraining 3 (some b)) = 1 ∧ b.1.fibre.toNat ≤ 7600 ∧ b.1.plane.toNat = 1 % 8) ∧
    (wTrained 0xFF 2 100).plane.toNat ≠ 1 % 8 ∧ 7600 < (wTrained 0xFF 1 7601).fibre.toNat ∧
    (wTrained 0xFF 1 100).trayPort.toNat = wiredTo 1 wUp ∧
    (wTrained 0xFF 1 100).trayPort.toNat ≠ wiredTo 1 (wSet [(gzlB, fGZL_SELF_SOCKET, 2)] wUp) ∧
    (let s := wPort 2 fun x => { x with lastFault := some (10 ^ 12 - 1) }
     portUp 1 s = true ∧ (getPort 1 s).lastFault = some (10 ^ 12 - 1) ∧ elapsed (10 ^ 12 - 1) ticksS s = false) ∧
    (getPort 1 (wPort 2 id)).lastFault = none ∧ portUp 1 (wPort 2 id) = true ∧ portUp 5 (wPort 2 id) = false ∧
    (1 < 32 ∧ 1 / 4 = 0) := by decide +kernel

/-- Port 1 is up, in the safe state. -/
def wPortSafe : State := wSet [(burB, fBUR_STATUS_SAFE, 1)] (wPort 2 id)

/-- A payload cell with its sequence number. -/
def wCell (first : Bool) (seq : BitVec 16) (vl : Fin 8) : Cell := ⟨false, first, true, vl, false, false, seq, [], [], 0, 0, 0⟩

theorem test_LinksAndCells_cells :
    portUp 1 wUp = false ∧ portUp 1 wPortSafe = true ∧ isSafe wPortSafe = true ∧
    (let s := wPort 2 fun x => { x with slots := 199 }
     portUp 1 s = true ∧ isSafe s = false ∧ (getPort 1 s).slots = 199) ∧
    (let s := wPort 2 fun x => { x with items := [.flow 1] }
     (getPort 1 s).slots ≠ 199 ∧ (getPort 1 s).items ≠ []) ∧
    (let s := wPort 2 id
     (getPort 1 s).slots ≠ 199 ∧ (getPort 1 s).items = [] ∧ pickVl (getPort 1 s) s = none) ∧
    (let c := EgCell.payload true true (wPkt 1 0 16)
     let s := wPort 2 fun x => { x with egress := modAt 2 (fun _ => [c]) x.egress }
     (getPort 1 s).items = [] ∧ pickVl (getPort 1 s) s = some (2, 2, 1) ∧ (getPort 1 s).egress.getD 2 [] = [c] ∧
     cellSlotOf s c = none) ∧
    (let c := EgCell.payload true true (wPkt 4 (3 * 2 ^ 52) 16)
     let s := { (wPort 2 fun x => { x with egress := modAt 2 (fun _ => [c]) x.egress }) with
       col := ⟨[(3, { Chamber.off with st := 1, desc := leBytes 4 (2 * 2 ^ 28 + 1 * 2 ^ 21) })], none⟩ }
     (getPort 1 s).items = [] ∧ pickVl (getPort 1 s) s = some (2, 2, 1) ∧ isFirstCell c = true ∧
     pickSlot [c] ((getPort 1 s).broad.getD 2 (7, 0)) ((getPort 1 s).broadW.getD 2 0) s = some (1, 1, 1) ∧ slotFirst 1 [c] s = [c]) ∧
    (let s := wPort 2 id
     s.gzl.wait = [] ∧ s.gzl.cont = none ∧ 8 < (badAfter (getPort 1 s) 9 s).length ∧
     (badAfter (getPort 1 s) 8 s).length ≤ 8 ∧ gzActive s = false) ∧
    (let s := wPort 2 id
     vlEnabled s.cab.cur 2 = true ∧ vlEnabled s.cab.cur 7 = false ∧ 0 < resFree (getPort 1 s) 2 s ∧ isSafe s = false ∧
     (wCell true 9 2).first = true ∧ (wCell false 9 2).first = false ∧ vlOpen (getPort 1 s) 2 = false) ∧
    (let s := wPort 2 fun x => { x with rxSeq := some 7, inRes := List.replicate 8 960 }
     (getPort 1 s).rxSeq = some 7 ∧ (wCell true 9 2).seq ≠ 7 + 1 ∧ resFree (getPort 1 s) 2 s = 0 ∧
     0 < shareFree (getPort 1 s) 2 s) ∧
    (∀ h ∈ [0, headCells],
      let s := wPort 2 fun x => { x with inRes := List.replicate 8 960, inShared := List.replicate 8 16384, headroom := h }
      resFree (getPort 1 s) 2 s = 0 ∧ shareFree (getPort 1 s) 2 s = 0 ∧ (getPort 1 s).headroom = h) ∧
    (let s := wPort 2 fun x => { x with xoffTx := 4 }
     (getPort 1 s).xoffTx.getLsbD 2 = true ∧ (getPort 1 s).headroom = 0 ∧ pairTakes 1 2 256 s = true) ∧
    (getPort 1 (wPort 2 id)).xoffTx.getLsbD 2 = false := by decide +kernel

theorem test_LinksAndCells_quiet :
    GzQuiet (wPort 2 id) ∧ isSafe (wPort 2 id) = false ∧ isSafe wPortSafe = true :=
  ⟨⟨by decide +kernel, by decide +kernel⟩, by decide +kernel, by decide +kernel⟩

/-! Remote operations, drains, sessions. -/

/-- An SX instruction of core 7 at the head of its queue, whose remote instruction is r. -/
def wRemote (r : RemoteInstr) : State := wNet { wUp with
  cores := [(7, { Core.idle with q := [[], [], [], [{ wEng 0 none with seqno := 0x10003 }]] })], fab := { wUp.fab with remote := [r] } }

/-- The tag of that instruction, and a PUT of it with packets that wait for their answers. -/
def wTag : InstrTag := ⟨7, 0x10003⟩
def wPut (left : Nat) (nak : Option (BitVec 8 × Word)) (notify : BitVec 46) : RemoteInstr :=
  ⟨wTag, .put, 9, 0x4000000011111111, left, nak, notify, 0⟩

/-- A packet that its sender has encrypted under the key of wSession, and the same packet with its data in clear. -/
def wSeal (k : Packet) : Packet := sealPkt [] k
def wClear (k : Packet) : Packet := { k with tag := (wSeal k).tag }

/-- The key stream taken twice leaves the text. -/
theorem wCrypt_crypt (k iv l : List Byte) : Config.gcmCrypt k iv (Config.gcmCrypt k iv l) = l := by
  apply List.ext_getElem
  · simp [Config.gcmCrypt]
  · intro i h1 h2
    simp [Config.gcmCrypt]

/-- The packet that is sealed under the key of the session opens as the packet in clear. -/
theorem wOpens (k : Packet) (s : State) (x : Session) (h1 : getSession k.src s = some x) (h2 : rxKey x k.keyIdx s = some []) :
    pktOpened (wSeal k) s = some (wClear k) := by
  have h3 : tagChecks [] (wSeal k) = true := by
    simp [tagChecks, Config.gcmTagOk, wSeal, sealPkt, pktHeader, pktIv]
  have h4 : openPkt [] (wSeal k) = wClear k := by
    simp [openPkt, wClear, wSeal, sealPkt, pktIv, wCrypt_crypt]
  simp only [pktOpened, show (wSeal k).src = k.src from rfl, show (wSeal k).keyIdx = k.keyIdx from rfl, h1, h2, h3, h4, if_true]

/-- Packets of EID 9 come in sealed: a PUT, a GET_REQ of 64 bytes, a NOTIFY_ADD, a GET_RESP of the tag above. -/
def wResp (n : Nat) (a : BitVec 46) : Packet := { wPkt 3 0 n with seqno := 0x10003, addr := a }
def wArrivals : List Packet := [wPkt 1 0 16, wPkt 2 64 0, wPkt 5 0 0, wResp 16 0]

theorem test_RemoteOperations_in (k : Packet) (hk : k ∈ wArrivals) : PktIn 0 (wSeal k) (wClear k) (wNet wUp) := by
  simp only [wArrivals, List.mem_cons, List.not_mem_nil, or_false] at hk
  rcases hk with rfl | rfl | rfl | rfl <;>
    exact ⟨by decide +kernel, wOpens _ _ wSession (by decide +kernel) (by decide +kernel), by decide +kernel⟩

theorem test_RemoteOperations_arrive :
    (∀ k ∈ wArrivals,
      let s := wNet wUp
      let c := wClear k
      anyPort s = some 0 ∧ s.fab.ports[0]? = some Port.down ∧ Memory.wf s.mem = true ∧ s.ecc = [] ∧
      pktRange c k.addr.toNat c.data.length s = stOK ∧ pktRange c k.addr.toNat 64 s = stOK ∧ pktRange c k.notify.toNat 16 s = stOK ∧
      shelfRefuses (pkgOfEid (pktPart 0 s) k.src s) k.core.val 0 16 s = false ∧ syncPlaceOk k.notify.toNat = true ∧
      spreadRound k.core.val (entryOf k.src s) s = [0] ∧ pktRange c (2 ^ 45) 16 s ≠ stOK ∧ pktRange c (2 ^ 45) 64 s ≠ stOK) ∧
    pktHere 1 (wPkt 1 0 16) (wNet wUp) = false ∧ (wPkt 1 0 16).kind ≠ 2 ∧ (wPkt 1 0 16).kind ≠ 3 ∧ (wPkt 1 0 16).kind ≠ 5 ∧
    pktHere 0 { wPkt 1 0 16 with src := 11 } (wNet wUp) = true ∧ pktOpened { wPkt 1 0 16 with src := 11 } (wNet wUp) = none ∧
    entState (entryOf 9 { wNet wUp with fab := { (wNet wUp).fab with table := [] } }) = 0 ∧ syncPlaceOk 8 = false := by
  decide +kernel

/-- A packet of a kind that no package knows still opens. -/
theorem test_RemoteOperations_kinds (k : Packet) (hk : k ∈ [wPkt 0 0 16, wPkt 6 0 16]) :
    pktHere 0 (wSeal k) (wNet wUp) = true ∧ pktOpened (wSeal k) (wNet wUp) ≠ none ∧ (k.kind = 0 ∨ 5 < k.kind.toNat) := by
  simp only [List.mem_cons, List.not_mem_nil, or_false] at hk
  rcases hk with rfl | rfl <;>
    exact ⟨by decide +kernel, by rw [wOpens _ _ wSession (by decide +kernel) (by decide +kernel)]; simp, by decide +kernel⟩

/-- The slice of two packages under the Cabinet with the sink shelf. -/
def wSink : State := wNet { wUp with cab := { wUp.cab with cur := wSinkCab } }

theorem test_RemoteOperations_sink :
    (let k := { wPkt 1 0 16 with addr := BitVec.ofNat 46 (coreStore 7 + 0x100) }
     pktRange k k.addr.toNat 16 wSink = stOK ∧ portUp 0 wSink = true ∧
     shelfRefuses (pkgOfEid (pktPart k.addr.toNat wSink) k.src wSink) k.core.val k.addr.toNat 16 wSink = true) ∧
    (let k := wResp 16 (BitVec.ofNat 46 (coreStore 7 + 0x100))
     let r : RemoteInstr := { wPut 1 none 0 with kind := .get (coreStore 7 + 0x100) 16 }
     let s : State := { wRemote r with cab := { wUp.cab with cur := wSinkCab } }
     staleTag wTag s = false ∧ findRemote wTag s = some r ∧ pktRange k k.addr.toNat 16 s = stOK ∧
     ownWriteRefused 7 k.addr.toNat 16 s = true ∧ (headOf 7 3 s).map (fun x => (x.seqno, x.done)) = some (0x10003, none)) := by
  decide +kernel

theorem test_RemoteOperations_end :
    (∀ m ∈ ([16, 32] : List Nat),
      let r : RemoteInstr := { wPut 1 none 0 with kind := .get 0 m }
      let s := wRemote r
      let c := wClear (wResp 16 0)
      pktHere 0 (wResp 16 0) s = true ∧ getSession 9 s = some wSession ∧ rxKey wSession false s = some [] ∧
      staleTag wTag s = false ∧ findRemote wTag s = some r ∧ ownWriteRefused 7 0 16 s = false ∧ c.data.length = 16 ∧
      pktRange c 0 16 s = stOK ∧ pktRange c (2 ^ 45) 16 s ≠ stOK ∧ anyPort s = some 0 ∧
      (headOf 7 3 s).map (fun x => (x.seqno, x.done)) = some (0x10003, none)) ∧
    staleTag ⟨7, 3⟩ wUp = true ∧ findRemote wTag wUp = none ∧ staleTag wTag wUp = false ∧ isSafe wUp = false ∧
    (∀ x ∈ ([(2, none, 0), (1, none, 0), (1, none, 0x40), (1, some (stDENIED, 0), 0x40)] :
        List (Nat × Option (BitVec 8 × Word) × BitVec 46)),
      let r := wPut x.1 x.2.1 x.2.2
      let s := wRemote r
      findRemote wTag s = some r ∧ r.kind = .put ∧ elapsed r.tLast ticksMs s = true ∧ stillQueued wTag s = false ∧
      (headOf 7 3 s).map (fun x => (x.seqno, x.done)) = some (0x10003, none)) ∧
    nakStatus stDENIED ≠ stOK ∧
    (let r : RemoteInstr := { wPut 1 none 0 with tLast := 10 ^ 12 }
     findRemote wTag (wRemote r) = some r ∧ elapsed r.tLast ticksMs (wRemote r) = false) ∧
    (let k : Packet := { wPkt 1 0 16 with core := 7, seqno := 0x10003 }
     stillQueued wTag { wUp with fab := { wUp.fab with
       ports := modAt 0 (fun x => { x with egress := [[.payload true true k]] }) wUp.fab.ports } } = true) := by decide +kernel

/-- A drain of EID 9 with its probes, and an entry in DRAIN with a weight on a plane with or without a port. -/
def wDraining (probes : List (BitVec 32 × Nat)) (t0 : Nat) (w : BitVec 64) : State := { wNet wUp with
  fab := { (wNet wUp).fab with table := [(9, w)], was := [(9, w)],
                               drains := if t0 = 0 then [] else [⟨9, t0, probes, true⟩] } }

theorem test_DrainsAndSessions_drains :
    mgmtPlane (wNet wUp) = 1 ∧ (wNet wUp).gzl.cont = none ∧ (wNet wUp).gzl.wait = [] ∧
    mgmtPlane (wSet [(hubB, fHUB_PLANE_STATUS_MGMT, 2)] (wNet wUp)) = 2 ∧
    entryStatus 9 0xC000000000000000 (wNet wUp) ≠ stOK ∧
    (let s := wDraining [] 5 0x8000000000000001
     entryStatus 9 0 s = stOK ∧ entState 0 = 0 ∧ s.fab.drains.map Drain.eid = [9]) ∧
    entryStatus 7 0x4000000000000001 (wNet wUp) = stOK ∧ getSession 7 (wNet wUp) = none ∧ findShake 7 (wNet wUp) = none ∧
    sessFull (wNet wUp) = false ∧ entState 0x4000000000000001 ≠ 0 ∧ entState (entryOf 9 (wNet wUp)) ≠ 2 ∧
    (let s := wDraining [] 0 0x8000000000000001
     entState (entryOf 9 s) = 2 ∧ s.fab.drains = [] ∧ holdsSnap 9 s = false ∧
     (drainProbes (tget (fun _ => 0) s.fab.was 9) s).zipIdx ≠ [] ∧
     holdsSnap 9 { s with fab := { s.fab with remote := [wPut 1 none 0x40] } } = true) ∧
    (let s := wDraining [] 0 0x8000000000000010
     entState (entryOf 9 s) = 2 ∧ (drainProbes (tget (fun _ => 0) s.fab.was 9) s).zipIdx = []) ∧
    pairCells (getPort 0 (wNet wUp)) 2 = 0 ∧ portUp 0 (wNet wUp) = true ∧ isSafe (wNet wUp) = false ∧
    anyPort (wNet wUp) = some 0 ∧ portUp 1 (wNet wUp) = false ∧
    pairCells { Port.down with inRes := List.replicate 8 3 } 2 ≠ 0 ∧
    (∀ l ∈ ([[(4, 0)], [(4, 0), (5, 0)]] : List (List (BitVec 32 × Nat))),
      let s := wDraining l 5 0x8000000000000001
      (s.fab.drains.find? fun d => d.eid == 9) = some ⟨9, 5, l, true⟩ ∧ ((l.filter fun q => q.1 != (4 : BitVec 32)) = [] ↔ l.length = 1) ∧
      elapsed 5 (10 * ticksMs) s = true ∧ sumpIdle s = true ∧ s.gzl.wait = [] ∧ s.gzl.cont = none) ∧
    elapsed (10 ^ 12) (10 * ticksMs) (wNet wUp) = false := by decide +kernel

/-- A handshake with EID 9, started here or there, after n attempts, the last one at t. -/
def wShake (initiator : Bool) (n t : Nat) : Handshake :=
  ⟨9, initiator, List.replicate 32 0, List.replicate 49 0, if initiator then none else some (wSess 32), t, n, false⟩
def wShaking (h : Handshake) (x : Option Session) : State := { wNet wUp with
  fab := { (wNet wUp).fab with shakes := [h], sessions := [(9, x)] } }

theorem test_DrainsAndSessions_sessions :
    (let m := wSess 32
     let s := wNet wUp
     mgmtPlane s ≠ 2 ∧ m.dst = ownEid s ∧ findShake m.src s = none ∧ running (dropShake m.src s) < 16 ∧
     mgmtPlane (wSet [(hubB, fHUB_PLANE_STATUS_MGMT, 2)] s) = 2 ∧ { m with dst := 7 }.dst ≠ ownEid s ∧
     (let t := wShaking (wShake true 1 0) none
      findShake m.src t = some (wShake true 1 0) ∧ (wShake true 1 0).initiator = true ∧ (ownEid t).toNat < m.src.toNat ∧
      m.dst = ownEid t ∧ mgmtPlane t ≠ 2) ∧
     (let t := wShaking (wShake false 1 0) (some wSession)
      findShake m.src t = some (wShake false 1 0) ∧ (wShake false 1 0).peer = some m ∧ (wShake false 1 0).initiator = false ∧
      mgmtPlane t ≠ 2 ∧ getSession m.src t = some wSession ∧ rekeyDue wSession t = false) ∧
     (let x : Session := { wSession with ivCtr := 2 ^ 40 }
      let t := wShaking (wShake false 1 0) (some x)
      getSession m.src t = some x ∧ rekeyDue x t = true)) ∧
    (let s := wShaking (wShake true 0 0) none
     findShake 9 s = some (wShake true 0 0) ∧ (wShake true 0 0).attempts = 0 ∧ running s < 16 ∧ mgmtPlane s ≠ 2) ∧
    (let s : State := { wNet wUp with fab := { (wNet wUp).fab with shakes := List.replicate 16 { wShake true 1 0 with eid := 12 } } }
     16 ≤ running (dropShake 9 s) ∧ findShake 9 s = none) ∧
    (∀ n ∈ [1, 2, 3], findShake 9 (wShaking (wShake true n 0) none) = some (wShake true n 0) ∧ 0 < (wShake true n 0).attempts ∧
      elapsed (wShake true n 0).sent (10 * ticksMs) wUp = true) ∧
    elapsed (wShake true 1 (10 ^ 12)).sent (10 * ticksMs) wUp = false ∧
    (let x : Session := { wSession with ivCtr := 2 ^ 40, oldEnd := some 5 }
     let s : State := { wNet wUp with fab := { (wNet wUp).fab with sessions := [(9, some x)] } }
     getSession 9 s = some x ∧ 2 ^ 40 ≤ x.ivCtr.toNat ∧ findShake 9 s = none ∧ mgmtPlane s ≠ 2 ∧ x.oldEnd = some 5 ∧
     5 ≤ s.clk.now) ∧
    (let x : Session := { wSession with tKey := 10 ^ 12 }
     ¬(2 ^ 40 ≤ x.ivCtr.toNat) ∧ elapsed x.tKey (86400 * ticksS) wUp = false ∧ x.oldEnd = none) := by decide +kernel

theorem test_Drains_sent :
    GzQuiet (wDraining [(4, 0)] 5 0x8000000000000001) ∧
    (let s := wDraining [(4, 0)] 5 0x8000000000000001
     sumpIdle s = true ∧ isSafe s = false ∧ (s.fab.drains.find? fun d => d.eid == 9) = some ⟨9, 5, [(4, 0)], true⟩) ∧
    (let s : State := { wNet wUp with fab := { (wNet wUp).fab with drains := [⟨9, 5, [], false⟩] } }
     sumpIdle s = true ∧ (s.fab.drains.find? fun d => d.eid == 9) = some ⟨9, 5, [], false⟩) ∧
    (let s := wSet [(burB, fBUR_STATUS_SAFE, 1)] (wShaking (wShake false 1 0) none)
     isSafe s = true ∧ findShake 9 s = some (wShake false 1 0)) ∧
    (let s := wShaking (wShake true 1 0) none
     isSafe s = false ∧ sessFull s = false ∧ (wSess 32).dst = ownEid s) := by
  refine ⟨⟨by decide +kernel, by decide +kernel⟩, ?_⟩
  decide +kernel

/-! Chambers. -/

/-- The descriptor of a chamber of two packages along axis 0, DIRECT, on VL 2, generation 7: home core 3, chunks of at most
256 B, landing area at 0x1000, queues 4 and 5. -/
def wChDesc : List Byte :=
  leBytes 4 0x11020007 ++ leBytes 4 1 ++ [0, 0, 0, 0, 2, 0, 0, 0] ++ leBytes 4 4 ++ leBytes 4 5 ++ leBytes 4 0x300 ++
  leBytes 4 256 ++ leBytes 4 0x1000 ++ leBytes 4 512 ++ List.replicate 24 0

/-- A slice of two packages: axis 0 has extent 2. -/
def wSlice : CabStruct := { presetStruct with
  sect := modAt 8 (fun l => modAt 4 (fun _ => 0x01010102) l) presetSects }

/-- The wNet state in that slice, with the descriptor at 0x4000, and those of queues 4 and 5 in their table. -/
def wChBase : State := wSet [(colB, fCOL_CARG_LO_SRC_LO, 0x4000)] (wNet { wUp with
  cab := { wUp.cab with cur := wSlice }, stool := { wUp.stool with admitted := [3] }
  mem := wMem [(0x4000, wChDesc), (0xEFFC000000 + 64 * 4, leBytes 4 (3 * 2 ^ 28)),
    (0xEFFC000000 + 64 * 5, leBytes 4 (2 * 2 ^ 28))] })

/-- Chamber 3 of that descriptor, READY, as f changes it. -/
def wChOn (f : Chamber → Chamber) (s : State) : State := { s with col := ⟨[(3, f { Chamber.off with
  st := 1, desc := wChDesc, part := 0, rank := 0 })], none⟩ }

theorem test_ChamberControl :
    colReach (.pf 4) wChBase = false ∧ colReach (.pf 1) wChBase = true ∧ colReach (.pf 0) wChBase = true ∧
    fget colB fCOL_CCTL_BUSY wChBase = 0 ∧ mgmtPlane wChBase ≠ 2 ∧
    mgmtPlane (wSet [(hubB, fHUB_PLANE_STATUS_MGMT, 2)] wChBase) = 2 ∧ colReach (.pf 1) (wSet [(hubB, fHUB_PLANE_STATUS_MGMT, 2)] wChBase) = true ∧
    partOfCh wSlice 3 = some 0 ∧ partOfCh wSlice 4095 = some 0 ∧ reqPart (.pf 1) wChBase = some 0 ∧
    partOfCh { wSlice with sect := modAt 8 (fun l => modAt 5 (fun _ => 0) l) wSlice.sect } 3 = none ∧ isPf0 (.pf 1) = false ∧
    fget colB fCOL_CCTL_BUSY (wSet [(colB, fCOL_CCTL_BUSY, 1)] wChBase) = 1 ∧
    actPart ⟨1, .pf 1, 3⟩ wChBase = 0 ∧ actPart ⟨1, .pf 0, 3⟩ wChBase = 0 ∧
    actWaitOver 3 wChBase = true ∧ actStatus (memBytes (cargAddr wChBase) 64 wChBase) 3 0 wChBase = stOK ∧
    actStatus (memBytes 0x5000 64 wChBase) 3 0 wChBase ≠ stOK ∧
    (let s := wChOn (fun x => { x with st := 0, inactiveAt := some (10 ^ 12) }) wChBase
     actWaitOver 3 s = false ∧ (getCh 3 s).st = 0 ∧ colReach (.pf 1) s = true) ∧
    (let s : State := { wSet [(colB, fCOL_CCTL_BUSY, 1)] wChBase with col := ⟨[], some ⟨1, .pf 1, 3⟩⟩ }
     s.col.wait = some ⟨1, .pf 1, 3⟩ ∧ fget colB fCOL_CCTL_BUSY s = 1 ∧ mgmtPlane s ≠ 2 ∧ actWaitOver 3 s = true ∧
     actStatus (memBytes (cargAddr s) 64 s) 3 0 s = stOK) ∧
    (let s := wChOn id { wChBase with queues := [(4, { wQueue .active 8 8 [] with kind := 3 })] }
     (getCh 3 s).st = 1 ∧ chComm (getCh 3 s) = 4 ∧ (getQueue 4 s).kind = 3) ∧
    (let s := wChOn (fun x => { x with st := 5 }) wChBase
     (getCh 3 s).st = 5 ∧ chWaits 3 s = false ∧ isSafe s = false ∧ (getCh 3 s).req = none) ∧ wChBase.col.wait = none := by
  decide +kernel

/-- A request: operation, its T_0 where it is timed, COUNT 4, F32 from 0x100 to 0x200, a slot of 100 pace ticks. -/
def wRq (op : Nat) (timed : Bool) (t0 : Nat) (count : Nat) : List Byte :=
  leBytes 4 (op * 2 ^ 24 + (if timed then 256 else 0)) ++ leBytes 4 0 ++ leBytes 4 0x100 ++ leBytes 4 0x200 ++ leBytes 4 count ++
  leBytes 4 t0 ++ leBytes 4 0 ++ leBytes 4 100 ++ List.replicate 32 0

/-- The communication queue with a request that waits to be fetched. -/
def wChQ (b : List Byte) (f : Chamber → Chamber) : State := wChOn f { wChBase with
  queues := [(4, { wQueue .active 9 8 [] with kind := 3 })], mem := wMem [(0x10200, b)] }

theorem test_ChamberSteps_fetch :
    (∀ x ∈ [(wRq 6 false 0 0, true, false), (wRq 1 true 1000 4, true, true), (wRq 1 true 0 4, true, false),
      (List.replicate 64 0, false, false)],
      let s := wChQ x.1 id
      let q := getQueue 4 s
      Memory.wf s.mem = true ∧ s.ecc = [] ∧ (getCh 3 s).st = 1 ∧ (getCh 3 s).req = none ∧ q.st = .active ∧ q.kind = 3 ∧
      q.pi ≠ q.ci ∧ ctrlPlane s = 1 ∧ isSafe s = false ∧ memOpen (ringAddr q q.ci) 64 s = true ∧ memBytes (ringAddr q q.ci) 64 s = x.1 ∧
      decide (rqStatus (getCh 3 s) x.1 s = stOK) = x.2.1 ∧
      (rqTimed x.1 && !inDrift s && decide (0 < paceAhead (rqT0 x.1) s.clk.p)) = x.2.2) ∧
    (getCh 3 wChBase).st ≠ 1 := by decide +kernel

/-- A RETIRING chamber with a request whose step runs, or is still to start, at the end of its answers. -/
theorem test_ChamberControl_retire :
    (∀ g ∈ [false, true],
      let r : ChReq := ⟨wRq 6 false 0 0, 8, 0, 0, g, 0, 0, [], [], 0, []⟩
      let s := wChOn (fun x => { x with st := 5, req := some r }) wChBase
      (getCh 3 s).st = 5 ∧ chWaits 3 s = false ∧ isSafe s = false ∧ (getCh 3 s).req = some r ∧ r.going = g) ∧
    (let s : State := { wChOn (fun x => { x with st := 5 }) wChBase with fab := { wChBase.fab with
       remote := [⟨⟨3, 0⟩, .chamber 3 7 0 1, 9, 0, 1, none, 0, 0⟩] } }
     chWaits 3 s = true) := by decide +kernel

/-- Chamber 3 runs a request, due at count 0 of P, in a mode, at a step, as f changes it; the count of P is n. -/
def wReq (b : List Byte) (f : ChReq → ChReq) : ChReq := f ⟨b, 8, 0, 0, false, 0, 0, [], [], 0, []⟩
def wStep (st : Nat) (r : ChReq) (rx : List ChRx) (n : Nat) : State :=
  wChOn (fun x => { x with st := st, req := some r, rx := rx }) { wChBase with clk := { wUp.clk with pCount := n } }

/-- The slice of two packages with a sink shelf of core 3: 64 bytes at 0x200 of its store, for core 5 of package 1. -/
def wSinkSlice : CabStruct := { wSlice with
  sect := modAt 2 (fun _ => [2 * 2 ^ 19, 1 * 2 ^ 16 + 3, 5, 0x200, 64, 0, 0, 0]) wSlice.sect }

theorem test_ChamberSteps_start :
    (let r := wReq (wRq 3 false 0 4) id
     let s : State := { wStep 3 r [] 0 with cab := { wUp.cab with cur := wSinkSlice } }
     (getCh 3 s).st = 3 ∧ r.step = 0 ∧ homesFree 3 r s = true ∧
     homeRefused (getCh 3 s) (fun i => ownRanges (getCh 3 s) i r (curPlan 3 r r.step s) s) s = true) ∧
    (let r := wReq (wRq 1 true 1000 4) fun r => { r with due0 := 50 }
     (getCh 3 (wStep 3 r [] 0)).st = 3 ∧ rqTimed r.bytes = true ∧ dueNow r r.step (wStep 3 r [] 0) = false) ∧
    (∀ x ∈ [(2, wRq 1 true 1000 4), (3, wRq 1 true 1000 4), (3, wRq 3 false 0 4), (3, wRq 5 false 0 4), (3, wRq 6 false 0 0)],
      let r := wReq x.2 id
      let s := wStep x.1 r [] 0
      (getCh 3 s).req = some r ∧ isSafe s = false ∧ r.going = false ∧ homesFree 3 r s = true ∧ (getCh 3 s).st = x.1 ∧
      dueNow r r.step s = true ∧ homeRefused (getCh 3 s) (fun i => ownRanges (getCh 3 s) i r (curPlan 3 r r.step s) s) s = false ∧
      dHomes (getCh 3 s).desc = 1 ∧ Memory.wf s.mem = true ∧ s.ecc = []) ∧
    (let r := wReq (wRq 1 true 1000 4) fun r => { r with due0 := 50 }
     dueNow r r.step (wStep 2 r [] 0) = false ∧ r.going = false ∧ rqTimed r.bytes = true) ∧
    (let r := wReq (wRq 1 true 1000 4) id
     let s : State := { wStep 2 r [] 0 with stool := State.reset.stool }
     dueNow r r.step s = true ∧ homesFree 3 r s = false) ∧
    (let r := wReq (wRq 1 true 1000 4) fun r => { r with going := true }
     let s := wStep 2 r [] 100
     dueNow r (r.step + 1) s = true ∧ r.step + 1 < stepCount s.cab.cur (getCh 3 s) r.bytes) := by decide +kernel

/-- The chunk of rank 1 has arrived at step 0. -/
def wArrived : List ChRx := [⟨0, 0, 0, 1, 0, 8, some 8, [], true, 3⟩]

theorem test_ChamberSteps_complete :
    (∀ x ∈ [(1, false, true), (2, true, true), (3, true, false), (6, true, false)],
      let r := wReq (wRq x.1 false 0 (if x.1 = 6 then 0 else 4)) fun r => { r with
        going := true, vals := [[0, 0]] }
      let s := wStep 3 r wArrived 0
      let pl := curPlan 3 r r.step s
      (getCh 3 s).req = some r ∧ r.going = true ∧ r.unsent = [] ∧ allArrived (getCh 3 s) pl r.step = true ∧
      decide (stepCount s.cab.cur (getCh 3 s) r.bytes ≤ r.step + 1) = x.2.1 ∧ (pl.op == .reduce) = x.2.2 ∧ r.drops = 0 ∧
      vxFree (getCh 3 s) s = true ∧ homeRefused (getCh 3 s) (fun _ => [(resultAt r.bytes pl,
        packedLen (rqOut r.bytes) (pl.own.2 - pl.own.1))]) s = false ∧
      dHomes (getCh 3 s).desc = 1 ∧ Memory.wf s.mem = true ∧ s.ecc = []) ∧
    (let r := wReq (wRq 2 false 0 4) fun r => { r with going := true, vals := [[0, 0]] }
     let s := wStep 3 r wArrived 0
     let pl := curPlan 3 r r.step s
     isReduce pl.op = true ∧ vxFree (getCh 3 s) { s with cores := [(3, { Core.idle with q := [[], [], [wEng 0 none], []] })] } = false ∧
     homeRefused (getCh 3 s) (fun _ => [(resultAt r.bytes pl, packedLen (rqOut r.bytes) (pl.own.2 - pl.own.1))])
       { s with cab := { wUp.cab with cur := wSinkSlice } } = true) ∧
    (let r := wReq (wRq 1 true 1000 4) fun r => { r with going := true, vals := [[0, 0]] }
     let s := wStep 2 r wArrived 200
     (getCh 3 s).st = 2 ∧ dueNow r (r.step + 1) s = true ∧ dueJust r (r.step + 1) s = false ∧
     r.step + 1 < stepCount s.cab.cur (getCh 3 s) r.bytes ∧ allArrived (getCh 3 s) (curPlan 3 r r.step s) r.step = true) ∧
    (let r := wReq (wRq 6 false 0 0) fun r => { r with going := true }
     (getCh 3 (wStep 5 r wArrived 0)).st = 5 ∧
     allArrived (getCh 3 (wStep 5 r wArrived 0)) (curPlan 3 r 0 (wStep 5 r wArrived 0)) 0 = true) ∧
    (let r := wReq (wRq 6 false 0 0) fun r => { r with going := true }
     allArrived (getCh 3 (wStep 3 r [] 0)) (curPlan 3 r 0 (wStep 3 r [] 0)) 0 = false ∧
     deadlineOf r (wStep 3 r [] 400) = some 400 ∧ (400 : Int) ≤ ((wStep 3 r [] 400).clk.pCount : Int) ∧
     ((wStep 3 r [] 399).clk.pCount : Int) < 400) ∧
    deadlineOf (wReq (wRq 6 false 0 0) id) (wStep 3 (wReq (wRq 6 false 0 0) id) [] 0) = none := by decide +kernel

/-- A chamber packet of EID 9: generation, rank 1, step, last packet, CSEQ, n bytes at an offset, CRC of its chunk. -/
def wChPkt (gen step seq n : Nat) (off : BitVec 46) (crc : BitVec 46) : Packet := { wPkt 4 (BitVec.ofNat 64
  (3 * 2 ^ 52 + gen * 2 ^ 36 + 2 ^ 26 + step * 2 ^ 15 + 2 ^ 14 + seq)) n with
  addr := off, notify := crc }

theorem test_ChamberMessages :
    PktIn 0 (wSeal (wChPkt 7 0 0 8 0 0)) (wClear (wChPkt 7 0 0 8 0 0)) (wChOn id wChBase) ∧
    (wClear (wChPkt 7 0 0 8 0 0)).data.length = 8 :=
  ⟨⟨by decide +kernel, wOpens _ _ wSession (by decide +kernel) (by decide +kernel), by decide +kernel⟩, by decide +kernel⟩

theorem test_ChamberMessages_checks :
    (let s := wChOn id wChBase
     let k := wChPkt 7 0 0 8 0 0
     anyPort s = some 0 ∧ s.fab.ports[0]? = some Port.down ∧ k.kind = 4 ∧ Memory.wf s.mem = true ∧ s.ecc = [] ∧
     chPktStatus (wClear k) s = stOK ∧ kId k = 3 ∧ kCgen k = dCgen (getCh 3 s).desc ∧
     (kSeq k - (getCh 3 s).cseq.setWidth 8).toNat = 0 ∧ chunkSunk 3 (wClear k) s = false) ∧
    chPktStatus { wClear (wChPkt 7 0 0 8 0 0) with src := 11 } (wChOn id wChBase) ≠ stOK ∧
    kCgen (wChPkt 6 0 0 8 0 0) ≠ dCgen wChDesc ∧ kCgen (wChPkt 6 0x7FE 0 0 0 0) ≠ dCgen wChDesc ∧
    kStep (wChPkt 7 0x7FF 0 0 0 0) = 0x7FF ∧ kStep (wChPkt 7 0x7FE 0xFF 0 0 0) = 0x7FE ∧ chRuns (getCh 3 (wChOn id wChBase)) = true ∧
    chRuns (getCh 3 (wChOn (fun x => { x with st := 4 }) wChBase)) = false ∧
    (∀ n ∈ [1, 2, 0xFE, 0xFF], (kSeq (wChPkt 7 0 n 8 0 0) - (getCh 3 (wChOn id wChBase)).cseq.setWidth 8).toNat = n) ∧
    dCap wChDesc < (wChPkt 7 0 0 8 249 0).addr.toNat + 8 ∧ (wChPkt 7 0 0 8 248 0).addr.toNat + 8 ≤ dCap wChDesc ∧
    kLast (wChPkt 7 0 0 8 0 0) = true ∧ (rxOf (getCh 3 (wChOn id wChBase)) (wChPkt 7 0 0 8 0 0)).got = 0 := by decide +kernel

theorem test_ChamberMessages_request :
    (let r := wReq (wRq 3 false 0 2) id
     let s := wStep 3 r [] 0
     let k := wChPkt 7 0 0 8 0 0
     hasSlot 3 r (kStep k) (kRank k) s = true ∧ hasSlot 3 r 5 (kRank k) s = false ∧
     (curPlan 3 r (kStep k) s).op ≠ .segments ∧
     crc32c ((List.range 8).map (tget (fun _ => 0) (tput 0 8 (sparse 0 k.data) []))) ≠ 0 ∧ chRuns (getCh 3 s) = true ∧
     chunkSunk 3 k s = false ∧ chunkSunk 3 k { s with cab := { wUp.cab with cur := wSinkSlice } } = true) ∧
    crc32c [] = 0 := by decide +kernel

theorem test_ChamberControl_last :
    (let r := wReq (wRq 6 false 0 0) fun r => { r with going := true }
     lastReady 3 (wStep 3 r wArrived 0) = true ∧ chRuns (getCh 3 (wStep 3 r wArrived 0)) = true ∧
     lastReady 3 (wStep 3 r [] 0) = false ∧ (getCh 3 (wStep 3 r [] 0)).st = 3 ∧
     chStuck 3 r (wStep 5 r [] 0) = true ∧ chStuck 3 r (wStep 5 r wArrived 0) = false) := by decide +kernel

theorem test_ChamberSteps_ready :
    (let r := wReq (wRq 6 false 0 0) fun r => { r with going := true }
     stepReady 3 r (wStep 3 r wArrived 0) = true ∧ stepReady 3 r (wStep 3 r [] 0) = false ∧
     deadlineOf r (wStep 3 r [] 500) = some 400 ∧ justReached 400 (wStep 3 r [] 500) = false ∧
     justReached 400 (wStep 3 r [] 400) = true) ∧
    (∀ x ∈ [(1, true), (2, true), (3, false)],
      let r := wReq (wRq x.1 false 0 4) fun r => { r with going := true, vals := [[0, 0]] }
      stepReady 3 r (wStep 3 r wArrived 0) = true ∧ isReduce (curPlan 3 r r.step (wStep 3 r wArrived 0)).op = x.2) ∧
    (let r := wReq (wRq 3 false 0 4) fun r => { r with going := true, unsent := [(0, 1)] }
     let s := wStep 3 r [] 0
     mayLeave (getCh 3 s) r (0, 1) { s with handoffs := [(1027, ⟨0, [], false⟩)] } = false ∧ r.unsent ≠ [] ∧
     mayLeave (getCh 3 s) { r with spent := [1] } (0, 1) s = true) ∧
    (let r := wReq (wRq 1 true 1000 4) id
     startsLate 3 r (wStep 2 r [] 0) = false ∧ startsLate 3 r (wStep 2 r [] 100) = true) ∧
    (let r := wReq (wRq 1 true 1000 4) fun r => { r with going := true }
     let s := wStep 2 r [] 200
     dueNow r (r.step + 1) s = true ∧ dueJust r (r.step + 1) s = false ∧ r.step + 1 < stepCount s.cab.cur (getCh 3 s) r.bytes ∧
     dueNow r (r.step + 1) (wStep 2 r [] 0) = false) := by decide +kernel

theorem test_ChamberMessages_slots :
    kRank (wChPkt 7 0 0 8 0 0) = 1 ∧ memberCount wChDesc = 2 ∧ (getCh 3 (wChOn id wChBase)).rank = 0 := by decide +kernel

/-! Gorzel. -/

/-- A package under epoch 3 of holder 9, WSEQ 4, with Gorzel state as given. -/
def wHeld (f : Gzl → Gzl) : State := wSet [(gzlB, ⟨oGZL_EPOCH, 31, 0⟩, 3), (gzlB, fGZL_HOLDER_HOLDER_EID, 9),
  (gzlB, ⟨oGZL_WSEQ, 31, 0⟩, 4)] (wGz 0 f)

/-- A WRITE of the holder. -/
def wWrite (epoch seq : BitVec 32) (ops : List GzlOp) : GzlWrite := ⟨epoch, 9, seq, 0, 0, true, ops⟩

/-- A message that waits, after n attempts. -/
def wGzMsg (n : Nat) (b : GzlBody) : GzlMsg := ⟨7, some 9, b, n, false, 0⟩

theorem test_GorzelPackage_writes :
    gzFree (wHeld id) = true ∧ gzActive (wHeld id) = false ∧ ownEid (wHeld id) = 5 ∧ gzUp State.reset = false ∧
    gzDeaf State.reset = true ∧ gzBusy (wHeld fun g => { g with cont := some ⟨9, none, 0, []⟩ }) = true ∧
    (wHeld id).gzl.msgs = [] ∧ sumpIdle (wHeld id) = true ∧ sumpIdle (wGz 2 id) = true ∧
    (let w := wWrite 3 5 [.sliceRow 0 1 2 1]
     (w.reserved0 = true ∧ 1 ≤ w.ops.length ∧ w.ops.length ≤ 64 ∧ ∀ o ∈ w.ops, gzOpOk o = true) ∧ writeStale w (wHeld id) = false ∧
     newer32 w.seq (regGet (gzlB + oGZL_WSEQ) (wHeld id)) = true ∧
     (gzOp (.sliceRow 0 1 2 1) (wHeld id)).2 = stOK ∧ drainOf (.sliceRow 0 1 2 1) (gzOp (.sliceRow 0 1 2 1) (wHeld id)).1 = none) ∧
    writeStale (wWrite 2 5 []) (wHeld id) = true ∧
    newer32 (wWrite 3 4 []).seq (regGet (gzlB + oGZL_WSEQ) (wHeld id)) = false ∧
    (gzOp (.entrySet 9 0xC000000000000000) (wHeld id)).2 ≠ stOK ∧
    (let s := { wDraining [] 0 0x8000000000000001 with clk := wUp.clk }
     (gzOp (.drainReq 9) s).2 = stOK ∧ drainOf (.drainReq 9) (gzOp (.drainReq 9) s).1 = some 9) ∧
    newer32 4 (regGet (gzlB + oGZL_EPOCH) (wHeld id)) = true ∧ gzHolder (wHeld id) = 9 ∧
    newer32 3 (regGet (gzlB + oGZL_EPOCH) (wHeld id)) = false ∧ (7 : BitVec 19) ≠ 9 ∧
    ((wHeld fun g => { g with notLeader := 1, msgs := [wGzMsg 1 (.takeback 1)] }).gzl.notLeader ≠ 0) := by decide +kernel

/-- Messages that wait, and those whose replies come. -/
theorem test_GorzelPackage_messages :
    (∀ x ∈ [(1, GzlBody.register 5 0 0, false), (3, .report ⟨5, [], 2, 1, 1, 1, 1, true⟩, true), (3, .takeback 1, false)],
      let s := wHeld fun g => { g with msgs := [wGzMsg x.1 x.2.1] }
      (s.gzl.msgs.find? fun m => m.seq == 7) = some (wGzMsg x.1 x.2.1) ∧ elapsed 0 (20 * ticksMs) s = true ∧ gzUp s = true ∧
      gzHeld (some 9) x.2.1 s = false ∧ isReport x.2.1 = x.2.2 ∧ isClaim x.2.1 = false ∧ isWrite x.2.1 = false ∧
      s.gzl.notLeader = 0 ∧ gzFree s = true ∧ s.gzl.jobs = []) ∧
    (∀ x ∈ [(3, GzlBody.claim 3 5, true, false), (1, .write (wWrite 3 5 [.masterSet 9]), false, true)],
      let s := wGz 2 fun g => { g with msgs := [wGzMsg x.1 x.2.1] }
      (s.gzl.msgs.find? fun m => m.seq == 7) = some (wGzMsg x.1 x.2.1) ∧ elapsed 0 (20 * ticksMs) s = true ∧
      gzHeld (some 9) x.2.1 s = false ∧ isReport x.2.1 = false ∧ isClaim x.2.1 = x.2.2.1 ∧ isWrite x.2.1 = x.2.2.2 ∧
      gzActive s = true ∧ gzFree s = true ∧ sumpIdle s = true ∧ s.gzl.jobs = []) ∧
    (let s := wHeld fun g => { g with msgs := [wGzMsg 1 (.write (wWrite 3 5 [.masterSet 9]))] }
     gzActive s = false ∧ gzFree s = true ∧ sumpIdle s = true) ∧
    stLEASE ≠ stNOTLEADER ∧ stOK ≠ stNOTLEADER := by decide +kernel

theorem test_GorzelPackage_rows :
    mgmtPlane State.reset ≠ 1 ∧ mgmtPlane wUp = 1 ∧ wUp.gzl.cont = none ∧ wUp.gzl.wait = [] ∧ wUp.gzl.rows.length = 4 ∧
    (∀ x ∈ List.replicate 4 (⟨7, 2, 1, []⟩ : SliceRow), x.st ≠ 0 ∧ x.sliceId ≠ 1) ∧
    gzOpOk (.sliceRow 0 1 0 1) = false ∧ gzOpOk (.sliceRow 0 1 1024 1) = true ∧ gzOpOk (.sliceRow 0 1 0 0) = true ∧
    gzOpOk (.sliceRow 0 1 2 2) = true ∧ rowBusy (gzRow 0 wUp) wUp = false ∧ (∃ x ∈ wUp.gzl.rows, x.st = 0) ∧
    rowBusy (gzRow 0 (wNet wChBase)) (wNet (wChOn id wChBase)) = true ∧
    gzOpOk (.sliceMap 0 0 []) = false ∧ gzOpOk (.sliceMap 0 0 [5]) = true ∧
    (gzRow 0 (wNet wUp)).size.toNat = (1 : BitVec 10).toNat + 1 ∧ rowBusy (gzRow 0 (wNet wUp)) (wNet wUp) = false ∧
    (gzRow 0 (wNet wUp)).size.toNat < (2 : BitVec 10).toNat + 1 ∧
    (∃ x ∈ (wNet wUp).gzl.rows, x.st = 1 ∧ x.sliceId = 0) ∧ (∀ x ∈ (wNet wUp).gzl.rows, x.st = 1 → x.sliceId ≠ 6) ∧
    portUp 0 (wNet wUp) = true ∧ portUp 1 (wNet wUp) = false ∧ noLink (wNet wUp) = false ∧
    (let s := wSet [(gzlB, fGZL_ROLE_MAINT, 1), (fabB 2, fFAB_STATUS_STATE, 4)] wUp
     fget gzlB fGZL_ROLE_MAINT s = 1 ∧ portState 2 s = 4 ∧ laserLow 2 s = false) ∧ fget gzlB fGZL_ROLE_MAINT wUp = 0 ∧
    (5 = ownEid wUp ∧ syncState wUp ≠ 5) ∧
    (let s := wSet [(drpB, fDRP_STATUS_SYNC, 5)] wUp
     9 ≠ ownEid s ∧ syncState s = 5) := by decide +kernel

theorem test_GorzelRoles :
    gzOn State.reset = false ∧ gzFree (wGz 1 id) = true ∧ gzFree (wGz 2 id) = true ∧ gzFree (wGz 3 id) = true ∧
    (wGz 2 id).gzl.wait = [] ∧ (wGz 2 id).gzl.cont = none ∧ sumpIdle (wGz 2 id) = true ∧ gzRole (wGz 1 id) = 1 ∧ gzRole (wGz 0 id) ≠ 1 ∧ gzActive (wGz 1 id) = false ∧
    regGet (gzlB + oGZL_EPOCH) (wGz 1 id) = 0 ∧ domainEids (wGz 1 id) = [5] ∧
    domainEids (wGz 1 fun g => { g with journal := [9] }) = [9, 5] ∧ takebackDue (wGz 1 id) = false ∧
    takebackDue (wSet [(gzlB, fGZL_ROLE_PREFERRED, 1), (gzlB, fGZL_CFG_TAKEBACK_EN, 1)]
      (wGz 1 fun g => { g with current := true, standbyT := some 0 })) = true ∧
    gzRole (wGz 3 id) = 3 ∧ gzActive (wGz 2 id) = true ∧ (wGz 2 id).gzl.yieldT = none ∧
    (let s := wGz 2 fun g => { g with yieldT := some 0 }
     gzActive s = true ∧ s.gzl.yieldT = some 0 ∧ quietPoint s = true ∧ elapsed 0 (60 * ticksS) s = true) ∧
    elapsed (10 ^ 12) (60 * ticksS) (wGz 2 id) = false ∧
    quietPoint (wGz 2 fun g => { g with entryT := some (10 ^ 12) }) = false ∧
    ((wGz 2 fun g => { g with renewT := some 0 }).gzl.renewT = some 0 ∧ elapsed 0 (100 * ticksMs) (wGz 2 id) = true) ∧
    elapsed (10 ^ 12) (100 * ticksMs) (wGz 2 id) = false ∧
    (let s := wGz 2 fun g => { g with deadline := some 5 }
     s.gzl.deadline = some 5 ∧ gzRole s = 2 ∧ 5 ≤ s.clk.now) ∧
    (wGz 2 id).gzl.deadline = some (2 * 10 ^ 12) ∧ (wGz 2 id).clk.now < 2 * 10 ^ 12 ∧ State.reset.gzl.deadline = none := by
  decide +kernel

/-- What the active instance knows of EID 9: its last report at time t, and the window of a pause. -/
def wPeer (t : Nat) (lost : Bool) (pause : Option Nat) : GzlPeer :=
  ⟨some ⟨9, List.replicate 31 2 ++ [4], 2, 1, 1, 1, 1, true⟩, t, lost, pause, false, 0⟩
def wManaging (p : GzlPeer) (f : Gzl → Gzl) : State := wGz 2 fun g => f { g with peers := [(9, some p)] }

/-- A slice of the packages 5 and 9. -/
def wSlices (stopped : Bool) : State := wManaging (wPeer (10 ^ 12) false none) fun g => { g with slices := [⟨3, [5, 9], stopped, []⟩] }

/-- A list of one package stays as it is when it is sorted. -/
theorem wSorted {l : List (BitVec 19)} {le : BitVec 19 → BitVec 19 → Bool} (h : l = [9]) : l.mergeSort le = [9] := by
  subst h; simp

theorem test_GorzelManaging_carve : carvable (wManaging (wPeer (10 ^ 12) false none) id) = [9] :=
  wSorted (by decide +kernel)

theorem test_GorzelManaging :
    gzActive (wGz 2 id) = true ∧ gzActive (wGz 1 id) = false ∧ gzFree (wGz 1 id) = true ∧
    (let s := wManaging (wPeer (10 ^ 12) false none) id
     gzFree s = true ∧ gzActive s = true ∧ s.gzl.slices.length < 65535 ∧ s.gzl.jobs = [] ∧ sumpIdle s = true ∧ peerGone 9 s = false ∧ ownEid s = 5 ∧
     gzPeer 9 s = some (wPeer (10 ^ 12) false none) ∧ drainDead 9 s = false) ∧
    ((1025 : BitVec 32).toNat = 1025 ∧ (1 : BitVec 32).toNat ≤ [(9 : BitVec 19)].length ∧ [(9 : BitVec 19)].length < (1024 : BitVec 32).toNat) ∧
    (∀ x ∈ (wSlices false).gzl.slices, x.id ≠ 4) ∧
    ((wSlices false).gzl.slices.find? fun x => x.id == 3) = some ⟨3, [5, 9], false, []⟩ ∧
    (5 ∈ (wSlices false).gzl.slices.flatMap fun x => x.members) ∧ rowBusy (gzRow 0 (wSlices false)) (wSlices false) = false ∧
    (let s := wNet (wChOn id wChBase)
     rowBusy (gzRow 0 s) s = true) ∧
    (∃ x ∈ (wSlices true).gzl.slices, x.id = 3 ∧ x.stopped = true) ∧
    (∀ x ∈ (wSlices false).gzl.slices, x.id = 3 → x.stopped = false) ∧
    (let s := wManaging (wPeer 0 false none) id
     9 ≠ ownEid s ∧ peerGone 9 s = true ∧ entryStatus 9 0 s = stOK) ∧
    (let s := wManaging (wPeer 0 true none) id
     gzPeer 9 s = some (wPeer 0 true none) ∧ (wPeer 0 true none).lost = true) ∧
    (let s := wManaging (wPeer (10 ^ 12) false none) id
     (repOf 9 s).map (fun r => (r.portState.getD 31 0, r.portState.getD 0 0)) = some (4, 2)) ∧
    (let s := wManaging (wPeer (10 ^ 12) false none) fun g => { g with journal := [11] }
     domainEids s = [9, 11, 5] ∧ routeEntry 11 9 s = 0) := by decide +kernel

theorem test_GorzelManaging_work :
    (let s := wNet { wSlices false with col := (wChOn id wChBase).col }
     gzFree s = true ∧ gzActive s = true ∧ s.gzl.jobs = [] ∧ ownEid s ∈ [(5 : BitVec 19), 9] ∧ rowBusy (gzRow 0 s) s = true ∧
     (s.gzl.slices.find? fun x => x.id == 3) = some ⟨3, [5, 9], false, []⟩) ∧
    (let s := wNet (wManaging (wPeer (10 ^ 12) false none) id)
     gzActive s = true ∧ drainDead 9 s = false ∧ 9 ≠ ownEid s ∧ routeEntry 5 9 s = 0x4000000000000001 ∧
     entryOf 9 s = 0x4000000011111111 ∧ entState (entryOf 9 s) = 1 ∧ entryStatus 9 (inDrain (entryOf 9 s)) s = stOK ∧
     (let t : State := { s with fab := { s.fab with table := [] } }
      entState (entryOf 9 t) = 0 ∧ routeEntry 5 9 t = 0x4000000000000001 ∧ entryStatus 9 0x4000000000000001 t = stOK) ∧
     (let t : State := { s with fab := { s.fab with table := [(9, 0x4000000000000001)] } }
      routeEntry 5 9 t = entryOf 9 t) ∧
     (let t : State := { s with
       fab := { s.fab with table := [(9, 0x8000000000000001)] }, gzl := { s.gzl with drains := [(9, (3, 0))] } }
      drainDead 9 t = true ∧ sumpIdle t = true ∧ gzActive t = true ∧ s.gzl.jobs = [] ∧ entryStatus 9 0 t = stOK)) := by decide +kernel

/-- The last WRITE of a CARVE or RELEASE, slices of the own package alone, a WRITE held for a pause, a maintenance window. -/
theorem test_GorzelManaging_jobs :
    (∀ code ∈ [11, 12],
      let w := wWrite 3 5 [.sliceRow 0 3 1 1]
      let s := wManaging (wPeer (10 ^ 12) false none) fun g => { g with
        msgs := [wGzMsg 1 (.write w)], jobs := [⟨code, 3, [7], stOK⟩], slices := [⟨3, [9], false, []⟩] }
      gzFree s = true ∧ gzActive s = true ∧ sumpIdle s = true ∧ (s.gzl.msgs.find? fun m => m.seq == 7) = some (wGzMsg 1 (.write w)) ∧
      stOK ≠ stLEASE ∧ stOK ≠ stNOTLEADER ∧ w.ops.drop (0 : Word).toNat = [.sliceRow 0 3 1 1] ∧ (s.gzl.jobs.map GzlJob.waits) = [[7]]) ∧
    (let s := wManaging (wPeer (10 ^ 12) false none) fun g => { g with slices := [⟨3, [5], false, []⟩] }
     gzFree s = true ∧ (s.gzl.slices.find? fun x => x.id == 3) = some ⟨3, [5], false, []⟩ ∧ ownEid s = 5 ∧ rowBusy (gzRow 0 s) s = false ∧
     (∃ y ∈ s.gzl.rows, y.st = 0 ∨ y.sliceId = 3) ∧ rowBusy (gzRow 0 (wNet { s with col := (wChOn id wChBase).col }))
       (wNet { s with col := (wChOn id wChBase).col }) = true) ∧
    (let s := wManaging (wPeer (10 ^ 12) false (some (2 * 10 ^ 12))) fun g => { g with msgs := [wGzMsg 0 (.write (wWrite 3 5 [.masterSet 9]))] }
     gzFree s = true ∧ gzActive s = true ∧ (∃ m ∈ s.gzl.msgs, m.dest = some 9 ∧ m.tries = 0) ∧
     gzHeld (some 9) (.write (wWrite 3 5 [.masterSet 9])) s = true) ∧
    (let s := wManaging (wPeer (10 ^ 12) false none) id
     gzFree s = true ∧ (9 : BitVec 19) ≠ ownEid s ∧ (repOf 9 s).isSome = true ∧ ((List.finRange 32).filter fun p =>
       ((repOf 9 s).map fun r => r.portState.getD p.val 0) == some 4) ≠ []) ∧
    (let s := wManaging (wPeer 0 true none) id
     gzActive s = true ∧ gzFree s = true ∧ gzPeer 9 s = some (wPeer 0 true none) ∧ gzPeer 5 s = none) := by decide +kernel

theorem test_Gorzel_more :
    gzRole (wGz 3 id) ≠ 1 ∧ gzRole (wGz 2 id) ≠ 1 ∧ versionNear 0 true (wGz 1 id) = true ∧
    (let s : State := { wGz 1 id with nv := { wUp.nv with shipped := [false, false] } }
     versionNear (BitVec.ofNat 32 (compVersion s.nv.active 3 s)) false s = true ∧ versionNear 0xFF000000 true s = false) ∧
    (let s := wGz 2 fun g => { g with yieldT := some (10 ^ 12) }
     s.gzl.yieldT = some (10 ^ 12) ∧ elapsed (10 ^ 12) (60 * ticksS) s = false ∧ quietPoint s = true) ∧
    (let m := wGzMsg 0 (.write (wWrite 3 5 [.masterSet 9]))
     let s := wGz 2 fun g => { g with msgs := [m] }
     gzUp s = true ∧ (s.gzl.msgs.find? fun m => m.seq == 7) = some m ∧ gzHeld (some 9) m.body s = false ∧ m.tries = 0 ∧ m.dest = some 9 ∧
     elapsed m.t (20 * ticksMs) s = true) ∧
    (let x : GzlSlice := ⟨3, [5, 9], false, [(9, 2)]⟩
     rowOn x 9 = 2 ∧ rowOn x 5 = 0) := by decide +kernel

end Sys2Proof.Tests
end

section
/-! SUPPORT. Register writes (R8, R9): the fields of a register do not overlap, so a write acts on each of them alone, and a
register whose writes start nothing changes by its fields alone. -/

namespace Sys2Proof.Machine

/-! The field tables. -/

/-- The fields of a register lie in its 32 bits, and no two of them have a bit in common. -/
abbrev FieldsOk (fs : List FieldDesc) : Prop :=
  (∀ f ∈ fs, f.lo ≤ f.hi ∧ f.hi < 32) ∧ fs.Pairwise fun f g => f.hi < g.lo ∨ g.hi < f.lo

theorem fieldsOk_of_mem_regsOf {b : Blk} : ∀ d ∈ regsOf b, FieldsOk d.fields := by
  cases b <;> decide +kernel

/-- A block starts at a word and at or below its registers (R42, R43). -/
theorem regBlock_base {off base : Nat} {b : Blk} (h : regBlock off = some (b, base)) : base ≤ off ∧ base % 4 = 0 := by
  unfold regBlock at h
  dsimp only at h
  split_ifs at h
  · obtain ⟨_, _, h⟩ := Option.map_eq_some_iff.1 h
    simp only [Prod.mk.injEq] at h
    omega
  all_goals (simp only [Option.some.injEq, Prod.mk.injEq] at h; omega)

theorem hubBlk_lt {n : Nat} {b : Blk} (h : hubBlk n = some b) : n < 11 := by
  unfold hubBlk at h
  split at h
  case h_12 => cases h
  all_goals omega

theorem hubBlk_inj {m n : Nat} {b : Blk} (hm : hubBlk m = some b) (hn : hubBlk n = some b) : m = n := by
  have h : ∀ i < 11, ∀ j < 11, hubBlk i = hubBlk j → i = j := by decide
  exact h m (hubBlk_lt hm) n (hubBlk_lt hn) (hm.trans hn.symm)

/-- A block of the hub stands at its one place (R42). -/
theorem regBlock_hub {off base n : Nat} {b : Blk} (h : regBlock off = some (b, base)) (hn : hubBlk n = some b) :
    base = n * 0x00100000 := by
  have hne : b ≠ .core ∧ b ≠ .clu ∧ b ≠ .die ∧ b ≠ .fab ∧ b ≠ .mem ∧ b ≠ .host := by
    unfold hubBlk at hn
    split at hn <;> simp at hn <;> simp [← hn]
  unfold regBlock at h
  dsimp only at h
  split_ifs at h
  · obtain ⟨c, hc, h⟩ := Option.map_eq_some_iff.1 h
    simp only [Prod.mk.injEq] at h
    obtain ⟨rfl, rfl⟩ := h
    rw [hubBlk_inj hc hn]
  all_goals simp_all

/-- The descriptor of an offset stands in the table of its block, at its place in the block. -/
theorem regDesc_mem {off base : Nat} {b : Blk} {d : RegDesc} (hb : regBlock off = some (b, base))
    (hd : regDesc off = some d) : d ∈ regsOf b ∧ d.off = off - base := by
  simp only [regDesc, hb] at hd
  split at hd
  · cases hd
  · exact ⟨List.mem_of_find?_eq_some hd, by simpa using List.find?_some hd⟩

theorem regDesc_fieldsOk {off base : Nat} {b : Blk} {d : RegDesc} (hb : regBlock off = some (b, base))
    (hd : regDesc off = some d) : FieldsOk d.fields :=
  fieldsOk_of_mem_regsOf d (regDesc_mem hb hd).1

/-! A word written field by field. -/

/-- What one field of a register makes of a write (R9): the step of writeFields. -/
def writeField (v a : Nat) (f : FieldDesc) : Nat :=
  match f.acc with
  | .rw => setBits a f.hi f.lo (bitsOf v f.hi f.lo)
  | .w1c => if bitOf v f.lo then setBits a f.hi f.lo 0 else a
  | .w1s => if bitOf v f.lo then setBits a f.hi f.lo 1 else a
  | _ => a

theorem writeFields_eq_foldl (fs : List FieldDesc) (old v : Nat) : writeFields fs old v = fs.foldl (writeField v) old := rfl

/-- A write of a field leaves the register alone, or replaces the bits of the field and no others. -/
theorem writeField_cases (v a : Nat) (f : FieldDesc) :
    writeField v a f = a ∨ ∃ x, writeField v a f = setBits a f.hi f.lo x := by
  obtain ⟨hi, lo, acc⟩ := f
  cases acc with
  | rw => exact .inr ⟨_, rfl⟩
  | w1c =>
    by_cases hv : bitOf v lo = true
    · exact .inr ⟨0, if_pos hv⟩
    · exact .inl (if_neg hv)
  | w1s =>
    by_cases hv : bitOf v lo = true
    · exact .inr ⟨1, if_pos hv⟩
    · exact .inl (if_neg hv)
  | ro => exact .inl rfl
  | rc => exact .inl rfl

/-- The lowest bit of a field. -/
theorem bitOf_lo (v : Nat) {hi lo : Nat} (h : lo ≤ hi) : bitOf v lo = decide (bitsOf v hi lo % 2 = 1) := by
  have h2 : 2 ∣ 2 ^ (hi + 1 - lo) := dvd_pow_self 2 (by omega)
  simp only [bitOf, bitsOf, Nat.mod_mod_of_dvd _ h2]
  rfl

/-- The field itself goes by its access type (R9). -/
theorem bitsOf_writeField_same (v a : Nat) {f : FieldDesc} (h : f.lo ≤ f.hi) :
    bitsOf (writeField v a f) f.hi f.lo = fieldAfter f.acc (bitsOf a f.hi f.lo) (bitsOf v f.hi f.lo) := by
  obtain ⟨hi, lo, acc⟩ := f
  have hlo : lo ≤ hi + 1 := Nat.le_succ_of_le h
  have h1 : 1 % 2 ^ (hi + 1 - lo) = 1 := Nat.mod_eq_of_lt (Nat.one_lt_two_pow (by dsimp only at h; omega))
  cases acc with
  | rw => exact (bitsOf_setBits_same _ _ _ _ hlo).trans (Nat.mod_mod _ _)
  | w1c =>
    by_cases hv : bitsOf v hi lo % 2 = 1 <;>
      simp [writeField, fieldAfter, bitOf_lo v h, hv, bitsOf_setBits_same _ _ _ _ hlo]
  | w1s =>
    by_cases hv : bitsOf v hi lo % 2 = 1 <;>
      simp [writeField, fieldAfter, bitOf_lo v h, hv, bitsOf_setBits_same _ _ _ _ hlo, h1]
  | ro => rfl
  | rc => rfl

/-- A field leaves the bits apart from its own alone. -/
theorem bitsOf_writeField_disj (v a : Nat) {f : FieldDesc} (h : f.lo ≤ f.hi) {hi lo : Nat} (hd : hi < f.lo ∨ f.hi < lo) :
    bitsOf (writeField v a f) hi lo = bitsOf a hi lo := by
  rcases writeField_cases v a f with e | ⟨x, e⟩
  · rw [e]
  · rw [e, bitsOf_setBits_disj _ _ _ _ _ _ (by omega) hd]

theorem writeField_lt (v : Nat) {a : Nat} {f : FieldDesc} (h : f.lo ≤ f.hi ∧ f.hi < 32) (ha : a < 2 ^ 32) :
    writeField v a f < 2 ^ 32 := by
  rcases writeField_cases v a f with e | ⟨x, e⟩
  · rwa [e]
  · rw [e]; exact setBits_lt _ _ _ _ (by omega) h.2 ha

theorem writeFields_lt (v : Nat) : ∀ (fs : List FieldDesc) (old : Nat), (∀ f ∈ fs, f.lo ≤ f.hi ∧ f.hi < 32) → old < 2 ^ 32 →
    writeFields fs old v < 2 ^ 32
  | [], _, _, ho => ho
  | f :: fs, old, hf, ho =>
    writeFields_lt v fs (writeField v old f) (fun g hg => hf g (.tail _ hg)) (writeField_lt v (hf f (.head _)) ho)

theorem bitsOf_writeFields_disj (v : Nat) {hi lo : Nat} : ∀ (fs : List FieldDesc) (old : Nat),
    (∀ f ∈ fs, f.lo ≤ f.hi) → (∀ f ∈ fs, hi < f.lo ∨ f.hi < lo) → bitsOf (writeFields fs old v) hi lo = bitsOf old hi lo
  | [], _, _, _ => rfl
  | f :: fs, old, hf, hd => by
    have ih := bitsOf_writeFields_disj v fs (writeField v old f) (fun g hg => hf g (.tail _ hg)) fun g hg => hd g (.tail _ hg)
    exact ih.trans (bitsOf_writeField_disj v old (hf f (.head _)) (hd f (.head _)))

/-- Each field of a register written takes the effect of its own access type (R9). -/
theorem bitsOf_writeFields (v : Nat) : ∀ (fs : List FieldDesc) (old : Nat), FieldsOk fs → ∀ f ∈ fs,
    bitsOf (writeFields fs old v) f.hi f.lo = fieldAfter f.acc (bitsOf old f.hi f.lo) (bitsOf v f.hi f.lo)
  | g :: fs, old, ⟨hok, hap⟩, f, hf => by
    obtain ⟨hg, hrest⟩ := List.pairwise_cons.1 hap
    have hle : ∀ x ∈ fs, x.lo ≤ x.hi := fun x hx => (hok x (.tail _ hx)).1
    rcases List.mem_cons.1 hf with rfl | hf
    · exact (bitsOf_writeFields_disj v fs _ hle hg).trans (bitsOf_writeField_same v old (hok f (.head _)).1)
    · have ih := bitsOf_writeFields v fs (writeField v old g) ⟨fun x hx => hok x (.tail _ hx), hrest⟩ f hf
      rw [writeFields_eq_foldl, List.foldl_cons, ← writeFields_eq_foldl, ih,
        bitsOf_writeField_disj v old (hok g (.head _)).1 (hg f hf).symm]

/-! Plain writes. -/

theorem writePlain_of_desc {off : Nat} {d : RegDesc} (hd : regDesc off = some d) (v : Word) (s : State) :
    writePlain off v s = regSet off (BitVec.ofNat 32 (writeFields d.fields (regGet off s).toNat v.toNat)) s := by
  simp only [writePlain, hd]

theorem regGet_writePlain_ne {a off : Nat} (h : a ≠ off) (v : Word) (s : State) :
    regGet a (writePlain off v s) = regGet a s := by
  unfold writePlain
  split
  · rfl
  · exact regGet_regSet_ne h _ s

theorem writePlain_frame (off : Nat) (v : Word) (s : State) :
    writePlain off v s = { s with regs := (writePlain off v s).regs } := by
  unfold writePlain
  split <;> rfl

/-- A plain write acts on each field by its access type (R9). -/
theorem fget_writePlain {off base : Nat} {b : Blk} {d : RegDesc} {f : FieldDesc} (hb : regBlock off = some (b, base))
    (hd : regDesc off = some d) (hf : f ∈ d.fields) (v : Word) (s : State) :
    fget base ⟨off - base, f.hi, f.lo⟩ (writePlain off v s) =
      fieldAfter f.acc (fget base ⟨off - base, f.hi, f.lo⟩ s) (bitsOf v.toNat f.hi f.lo) := by
  have hok := regDesc_fieldsOk hb hd
  have hlt := writeFields_lt v.toNat d.fields _ hok.1 (regGet off s).isLt
  simp only [fget, Nat.add_sub_cancel' (regBlock_base hb).1, writePlain_of_desc hd, regGet_regSet_same,
    BitVec.toNat_ofNat, Nat.mod_eq_of_lt hlt, bitsOf_writeFields v.toNat d.fields _ hok f hf]

/-- A write of a register whose writes start nothing is a plain write. -/
theorem writeBlk_of_plainReg {off base : Nat} {b : Blk} (hb : regBlock off = some (b, base))
    (hp : plainReg b (off - base) = true) (r : Requester) (v : Word) (s : State) :
    writeBlk r b base (off - base) v s = writePlain off v s := by
  have ho : base + (off - base) = off := Nat.add_sub_cancel' (regBlock_base hb).1
  cases b
  case sec =>
    obtain rfl : base = secB := regBlock_hub hb (n := 6) rfl
    have he : off - secB = oSEC_EVENT := by simpa [plainReg] using hp
    have h : writeBlk r .sec secB oSEC_EVENT v s = writePlain (secB + oSEC_EVENT) v s := rfl
    rw [he, h, ← he, ho]
  all_goals simp_all [plainReg, writeBlk]

theorem writeReg_of_plainReg {r : Requester} {off base : Nat} {b : Blk} {s : State} (hb : regBlock off = some (b, base))
    (hp : plainReg b (off - base) = true) (ha : off % 4 = 0) (hs : regStatus r off true s = stOK) (v : Word) :
    (writeReg r off 4 v s).2 = writePlain off v s := by
  simp [writeReg, ha, writeWord, hs, hb, writeBlk_of_plainReg hb hp]

/-- No W1C bit is named by an empty mask. -/
theorem setEvents_zero (off : Nat) (s : State) : setEvents off 0 s = s := by
  unfold setEvents
  split
  · rfl
  · simp [bitOf, forAll]

/-- Settles O8: a plain register takes the write field by field, and nothing else changes. -/
theorem registerWriteByAccess : Obligations.RegisterWriteByAccess := by
  intro r off val b base d f s hb hp hd hf ha hs
  have ht : exec (.registerWrite r off 4 val 0) s = .next (writePlain off.toNat val s) := by
    show Host.Outcome.next (setEvents off.toNat 0 (writeReg r off.toNat 4 val s).2) = _
    rw [setEvents_zero, writeReg_of_plainReg hb hp ha hs]
  refine ⟨_, ht, fget_writePlain hb hd hf val s, ?_, writePlain_frame _ _ _⟩
  intro o ho
  exact regGet_writePlain_ne (by simpa using ho) val s

end Sys2Proof.Machine
end

section
/-! SUPPORT. Events in the cycle of a write (R10, R11): the W1C bits of a block and their counts lie in places of their own, so
that the set events of one cycle act on each bit and each count alone. -/

namespace Sys2Proof.Machine

/-! The event tables. -/

/-- The bit of an event and its count of 16 bits lie in two registers, that of the bit at a word. -/
abbrev Evt.Ok (e : Evt) : Prop :=
  e.bit.Ok ∧ e.cnt.Ok ∧ e.cnt.hi + 1 - e.cnt.lo = 16 ∧ e.bit.off ≠ e.cnt.off ∧ e.bit.off % 4 = 0

/-- Two events have neither bits nor counts in common. -/
abbrev Evt.Apart (e g : Evt) : Prop :=
  e.bit.Apart g.bit ∧ e.bit.Apart g.cnt ∧ e.cnt.Apart g.bit ∧ e.cnt.Apart g.cnt

theorem blkEvts_ok {b : Blk} : ∀ e ∈ blkEvts b, e.Ok := by
  cases b <;> decide +kernel

theorem blkEvts_apart (b : Blk) : (blkEvts b).Pairwise Evt.Apart := by
  cases b <;> decide +kernel

/-- A write of a W1C bit starts nothing. -/
theorem blkEvts_plain {b : Blk} : ∀ e ∈ blkEvts b, plainReg b e.bit.off = true := by
  cases b <;> decide +kernel

theorem Fld.Apart.symm {f g : Fld} (h : f.Apart g) : g.Apart f := by
  rcases h with h | h
  exacts [.inl h.symm, .inr h.symm]

theorem Evt.Apart.symm {e g : Evt} (h : e.Apart g) : g.Apart e := by
  obtain ⟨hbb, hbc, hcb, hcc⟩ := h
  exact ⟨Fld.Apart.symm hbb, Fld.Apart.symm hcb, Fld.Apart.symm hbc, Fld.Apart.symm hcc⟩

/-! Set events. -/

theorem forAll_cons {α : Type} (x : α) (l : List α) (f : α → State → State) (s : State) :
    forAll (x :: l) f s = forAll l f (f x s) := rfl

/-- An event leaves the fields apart from its bit and its count alone. -/
theorem fget_evt_apart (b : Nat) {f : Fld} {e : Evt} (h : e.Ok) (hb : f.Apart e.bit) (hc : f.Apart e.cnt) (s : State) :
    fget b f (evt b e s) = fget b f s := by
  obtain ⟨hbit, hcnt, -⟩ := h
  unfold evt
  dsimp only
  split <;> simp only [fget_raiseMsix, faddSat, fget_fset_apart b hbit hb, fget_fset_apart b hcnt hc]

theorem fget_forAll_evt_apart (b : Nat) {f : Fld} : ∀ (l : List Evt) (s : State),
    (∀ e ∈ l, e.Ok ∧ f.Apart e.bit ∧ f.Apart e.cnt) → fget b f (forAll l (evt b) s) = fget b f s
  | [], _, _ => rfl
  | e :: l, s, h => by
    obtain ⟨hok, hb, hc⟩ := h e (.head _)
    rw [forAll_cons, fget_forAll_evt_apart b l _ fun g hg => h g (.tail _ hg), fget_evt_apart b hok hb hc]

/-- Of events apart from each other, each sets its bit and raises its count by 1 (R11). -/
theorem fget_forAll_evt (b : Nat) {e : Evt} (l : List Evt) (s : State) (hok : ∀ g ∈ l, g.Ok) (hap : l.Pairwise Evt.Apart)
    (he : e ∈ l) : fget b e.bit (forAll l (evt b) s) = 1 ∧
      fget b e.cnt (forAll l (evt b) s) = Nat.min (fget b e.cnt s + 1) (2 ^ 16 - 1) := by
  induction l generalizing s with
  | nil => cases he
  | cons g l ih =>
    obtain ⟨hg, hrest⟩ := List.pairwise_cons.1 hap
    have hok' : ∀ x ∈ l, x.Ok := fun x hx => hok x (.tail _ hx)
    rw [forAll_cons]
    rcases List.mem_cons.1 he with rfl | he
    · obtain ⟨hbit, hcnt, hw, hne, -⟩ := hok e (.head _)
      rw [fget_forAll_evt_apart b l _ fun x hx => ⟨hok' x hx, (hg x hx).1, (hg x hx).2.1⟩,
        fget_forAll_evt_apart b l _ fun x hx => ⟨hok' x hx, (hg x hx).2.2⟩,
        fget_evt_bit b hbit hcnt (.inl hne), fget_evt_cnt b hbit hcnt (.inl hne.symm), hw]
      exact ⟨rfl, rfl⟩
    · obtain ⟨-, -, hcb, hcc⟩ := Evt.Apart.symm (hg e he)
      rw [← fget_evt_apart b (hok g (.head _)) hcb hcc s]
      exact ih (evt b g s) hok' hrest he

/-- The W1C bits of a register that the mask names are set and counted (R10, R11). -/
theorem fget_setEvents {off base : Nat} {b : Blk} {e : Evt} {sets : Word} (hb : regBlock off = some (b, base))
    (he : e ∈ blkEvts b) (ho : off = base + e.bit.off) (hs : bitOf sets.toNat e.bit.lo = true) (s : State) :
    fget base e.bit (setEvents off sets s) = 1 ∧
      fget base e.cnt (setEvents off sets s) = Nat.min (fget base e.cnt s + 1) (2 ^ 16 - 1) := by
  simp only [setEvents, hb]
  refine fget_forAll_evt base _ s (fun g hg => blkEvts_ok g (List.mem_of_mem_filter hg)) ((blkEvts_apart b).filter _) ?_
  exact List.mem_filter.2 ⟨he, by simp [ho, hs]⟩

/-- Settles O9: the events of the cycle come after the write, which changes no count. -/
theorem setWins : Obligations.SetWins := by
  intro r b base e off val sets s hb he ho hbit hs
  obtain ⟨-, -, -, hne, hword⟩ := blkEvts_ok e he
  have hoff : off.toNat - base = e.bit.off := by omega
  have hal : off.toNat % 4 = 0 := by have := (regBlock_base hb).2; omega
  have ht : exec (.registerWrite r off 4 val sets) s = .next (setEvents off.toNat sets (writePlain off.toNat val s)) := by
    rw [← writeReg_of_plainReg hb (by rw [hoff]; exact blkEvts_plain e he) hal hs val]
    rfl
  obtain ⟨h1, h2⟩ := fget_setEvents hb he ho hbit (writePlain off.toNat val s)
  have hcnt : fget base e.cnt (writePlain off.toNat val s) = fget base e.cnt s := by
    simp only [fget, regGet_writePlain_ne (show base + e.cnt.off ≠ off.toNat by omega)]
  exact ⟨_, ht, h1, by rw [h2, hcnt]; rfl⟩

end Sys2Proof.Machine
end

section
/-! SUPPORT. The record of a dropped access (R7, R384 to R388, R475): what each step of the record keeping changes, said once per
step, and the corrected record that the fault log then holds as the last one of the requester's source. -/

namespace Sys2Proof.Machine

/-! What interrupts and counters change. -/

/-- The second state differs from the first in its interrupt causes alone. -/
def IrqOnly (s t : State) : Prop := t = { s with host := t.host, mgmt := t.mgmt }

/-- The second state differs from the first in its counters alone. -/
def PerfOnly (s t : State) : Prop := t = { s with perf := t.perf }

theorem IrqOnly.trans {s t u : State} (h : IrqOnly s t) (k : IrqOnly t u) : IrqOnly s u := by
  unfold IrqOnly at *; rw [k, h]

theorem PerfOnly.trans {s t u : State} (h : PerfOnly s t) (k : PerfOnly t u) : PerfOnly s u := by
  unfold PerfOnly at *; rw [k, h]

theorem IrqOnly.regs {s t : State} (h : IrqOnly s t) : t.regs = s.regs := by
  unfold IrqOnly at h; rw [h]
theorem IrqOnly.bur {s t : State} (h : IrqOnly s t) : t.bur = s.bur := by
  unfold IrqOnly at h; rw [h]
theorem PerfOnly.regs {s t : State} (h : PerfOnly s t) : t.regs = s.regs := by
  unfold PerfOnly at h; rw [h]
theorem PerfOnly.bur {s t : State} (h : PerfOnly s t) : t.bur = s.bur := by
  unfold PerfOnly at h; rw [h]

theorem irqOnly_raiseMsix (f v : Nat) (s : State) : IrqOnly s (raiseMsix f v s) := by
  have h : IrqOnly s (noteFired f v s) := by unfold noteFired; split <;> rfl
  unfold raiseMsix
  dsimp only
  generalize noteFired f v s = t at h
  split
  · exact h
  · split
    · exact h.trans rfl
    · split
      · exact h
      · exact h.trans rfl

theorem irqOnly_burIrq (parts : Nat) (s : State) : IrqOnly s (burIrq parts s) :=
  forAll_keeps (IrqOnly s) _ (fun p _ h => h.trans (irqOnly_raiseMsix (p + 1) 0 _)) _ _ (irqOnly_raiseMsix 0 0 s)

theorem perfOnly_ctrSet (b : CtrBlk) (i : Nat) (x : Counter) (s : State) : PerfOnly s (ctrSet b i x s) := rfl

theorem perfOnly_ctrBump (b : CtrBlk) (fuel i n : Nat) (s : State) : PerfOnly s (ctrBump b fuel i n s) := by
  induction fuel generalizing i n s with
  | zero => rfl
  | succ k ih =>
    unfold ctrBump
    dsimp only
    split
    · exact (perfOnly_ctrSet b i _ s).trans (ih _ _ _)
    · exact perfOnly_ctrSet b i _ s

theorem perfOnly_countEvt (b : CtrBlk) (code n : Nat) (s : State) : PerfOnly s (countEvt b code n s) := by
  unfold countEvt
  split
  · rfl
  · exact forAll_keeps (PerfOnly s) _ (fun i _ h => h.trans (perfOnly_ctrBump b b.n i n _)) _ s rfl

/-! Records of the fault log. -/

/-- The last record of a source (R385). -/
def lastOf (src : Nat) (s : State) : Option LogRec := tget (fun _ => none) s.bur.last src

theorem logAt_moveRec_same (r : LogRec) (q : Word) (s : State) :
    logAt (q.toNat % 1024) (moveRec r q s) = some { r with seq := q } := by
  simp [logAt, moveRec]

/-- A record that moves is the last one of no other source. -/
theorem lastOf_moveRec_ne {r : LogRec} {src : Nat} (h : src ≠ r.source.toNat) (q : Word) (s : State) :
    lastOf src (moveRec r q s) = lastOf src s := by
  unfold lastOf moveRec
  dsimp only
  split_ifs
  · exact tget_tset_ne _ h _ _
  · rfl

/-- A record that moves stays, with its new sequence number, the last one of its source if it was. -/
theorem lastOf_moveRec (r : LogRec) (q : Word) (s : State) :
    lastOf r.source.toNat (moveRec r q s) = lastOf r.source.toNat s ∨
      lastOf r.source.toNat (moveRec r q s) = some { r with seq := q } := by
  unfold lastOf moveRec
  dsimp only
  split_ifs
  · exact .inr (tget_tset_same _ _ _ _)
  · exact .inl rfl

/-- Records a and b, at SEQ q - 1 and q, change places, and BUR_FIRST goes with the first fatal record: a round of sortRec. -/
def swapRec (a b : LogRec) (q : Word) (s : State) : State :=
  let u := moveRec b (seqBack q) (moveRec a q s)
  if regGet (burB + oBUR_FIRST) s = seqBack q ∧ b.cls ≠ 3 then regSet (burB + oBUR_FIRST) q u
  else if regGet (burB + oBUR_FIRST) s = q then regSet (burB + oBUR_FIRST) (seqBack q) u
  else u

theorem bur_swapRec (a b : LogRec) (q : Word) (s : State) :
    (swapRec a b q s).bur = (moveRec b (seqBack q) (moveRec a q s)).bur := by
  unfold swapRec
  split_ifs <;> rfl

theorem swapRec_frame (a b : LogRec) (q : Word) (s : State) :
    swapRec a b q s = { s with regs := (swapRec a b q s).regs, bur := (swapRec a b q s).bur } := by
  unfold swapRec
  split_ifs <;> rfl

theorem regGet_swapRec_ne {o : Nat} (h : o ≠ burB + oBUR_FIRST) (a b : LogRec) (q : Word) (s : State) :
    regGet o (swapRec a b q s) = regGet o s := by
  unfold swapRec
  split_ifs
  · exact regGet_regSet_ne h _ _
  · exact regGet_regSet_ne h _ _
  · rfl

/-- A round of sortRec ends it, or the record at q changes places with one of a higher source before it (R385). -/
theorem sortRec_succ (n : Nat) (q : Word) (s : State) :
    sortRec (n + 1) q s = s ∨ ∃ a b, logAt (q.toNat % 1024) s = some b ∧ b.source < a.source ∧
      sortRec (n + 1) q s = sortRec n (seqBack q) (swapRec a b q s) := by
  rw [sortRec]
  split
  · next a b _ hb =>
    split
    · next hlt => exact .inr ⟨a, b, hb, hlt, rfl⟩
    · exact .inl rfl
  · exact .inl rfl

/-- What every change of places keeps holds after the sorting. -/
theorem sortRec_keeps (P : Word → State → Prop)
    (h : ∀ q a b s, logAt (q.toNat % 1024) s = some b → b.source < a.source → P q s → P (seqBack q) (swapRec a b q s))
    (n : Nat) (q : Word) (s : State) (hs : P q s) : ∃ p, P p (sortRec n q s) := by
  induction n generalizing q s with
  | zero => exact ⟨q, hs⟩
  | succ n ih =>
    rcases sortRec_succ n q s with e | ⟨a, b, hb, hlt, e⟩
    · exact ⟨q, by rwa [e]⟩
    · rw [e]; exact ih _ _ (h q a b s hb hlt hs)

/-! The record of a corrected fault. -/

/-- The fault log has taken a corrected REG_ACCESS fault of a source: the last record of the source says so, and nothing but
the log and its head and first registers has changed. -/
structure Recorded (src : Nat) (s u : State) : Prop where
  frame : u = { s with regs := u.regs, bur := u.bur }
  regs  : ∀ o, o ≠ burB + oBUR_LOG_HEAD → o ≠ burB + oBUR_FIRST → regGet o u = regGet o s
  last  : ∃ x, lastOf src u = some x ∧ x.code = 0x01 ∧ x.cls = 0

/-- The record that is being sorted is a corrected REG_ACCESS record of the source. -/
def SortsRecord (src : Nat) (q : Word) (u : State) : Prop :=
  ∃ b, logAt (q.toNat % 1024) u = some b ∧ b.source.toNat = src ∧ b.code = 0x01 ∧ b.cls = 0

theorem recorded_swapRec {src : Nat} {s u : State} {q : Word} {a b : LogRec} (hb : logAt (q.toNat % 1024) u = some b)
    (hlt : b.source < a.source) (hu : Recorded src s u) (hq : SortsRecord src q u) :
    Recorded src s (swapRec a b q u) ∧ SortsRecord src (seqBack q) (swapRec a b q u) := by
  obtain ⟨b', hb', hsrc, hcode, hcls⟩ := hq
  obtain rfl : b' = b := by rw [hb] at hb'; exact (Option.some.inj hb').symm
  obtain ⟨x, hx, hxcode, hxcls⟩ := hu.last
  have hne : src ≠ a.source.toNat := by rw [← hsrc]; exact Nat.ne_of_lt hlt
  have hlast : lastOf src (moveRec a q u) = some x := (lastOf_moveRec_ne hne q u).trans hx
  refine ⟨⟨?_, fun o h1 h2 => (regGet_swapRec_ne h2 _ _ _ _).trans (hu.regs o h1 h2), ?_⟩,
    { b' with seq := seqBack q }, ?_, hsrc, hcode, hcls⟩
  · rw [swapRec_frame a b' q u]; dsimp only; rw [hu.frame]
  · simp only [lastOf, bur_swapRec]
    rcases lastOf_moveRec b' (seqBack q) (moveRec a q u) with e | e
    · exact ⟨x, by rw [hsrc, hlast] at e; exact e, hxcode, hxcls⟩
    · exact ⟨{ b' with seq := seqBack q }, by rw [hsrc] at e; exact e, hcode, hcls⟩
  · simp only [logAt, bur_swapRec]
    exact logAt_moveRec_same b' (seqBack q) (moveRec a q u)

theorem recorded_sortRec {src n : Nat} {s u : State} {q : Word} (hu : Recorded src s u) (hq : SortsRecord src q u) :
    Recorded src s (sortRec n q u) := by
  obtain ⟨_, h, -⟩ := sortRec_keeps (fun q u => Recorded src s u ∧ SortsRecord src q u)
    (fun q a b u hb hlt h => recorded_swapRec hb hlt h.1 h.2) n q u ⟨hu, hq⟩
  exact h

/-- A new corrected record of REG_ACCESS becomes the last one of its source (R384, R385). -/
theorem recorded_newRec (tm : BitVec 48 × BitVec 16) {src : Nat} (react parts info0 info1 : Nat) (hsrc : src < 2 ^ 16)
    (s : State) : Recorded src s (newRec tm 0 react 0x01 src parts info0 info1 s) := by
  have hw : (BitVec.ofNat 16 src).toNat = src := Nat.mod_eq_of_lt hsrc
  unfold newRec
  dsimp only
  rw [if_neg (by simp)]
  exact recorded_sortRec ⟨rfl, fun o h1 _ => regGet_regSet_ne h1 _ _, by simp [lastOf]⟩ (by simp [SortsRecord, logAt, hw])

/-- A corrected fault that repeats the last one of its source leaves it the last one (R385). -/
theorem recorded_repeatRec {src : Nat} {s : State} {r : LogRec} (hr : lastOf src s = some r) (hcode : r.code = 0x01)
    (hcls : r.cls = 0) : Recorded src s (repeatRec r s) := by
  unfold repeatRec
  split
  · exact ⟨rfl, fun _ _ _ => rfl, r, hr, hcode, hcls⟩
  · split
    · exact ⟨rfl, fun _ _ _ => rfl, r, hr, hcode, hcls⟩
    · exact ⟨rfl, fun _ _ _ => rfl, r, hr, hcode, hcls⟩

theorem reqSource_lt (r : Requester) : reqSource r < 2 ^ 16 := by
  cases r with
  | engine c => have := c.isLt; simp only [reqSource]; omega
  | hubFw g => cases g <;> decide
  | pf _ => simp [reqSource]
  | mgA => decide
  | mgB => decide

/-! The stages of a fault record. -/

/-- The log takes a fault: as a repeat of the last record of its source, or as a new record (R385). -/
def takeRec (tm : BitVec 48 × BitVec 16) (cls react code source parts info0 info1 : Nat) (s : State) : State :=
  let merged := match tget (fun _ => none) s.bur.last source with
    | none => none
    | some r => if cls = 0 ∧ mergesInto r code tm.1 then some r else none
  match merged with
  | some r => repeatRec r s
  | none => newRec tm cls react code source parts info0 info1 s

/-- The counters of the die whose collector takes a fault count it (R397). -/
def countRec (source : Nat) (s : State) : State :=
  match collectorDie source with
  | some d => countEvt (ctrDie d) 0x33 1 s
  | none => s

/-- A fault record by its stages: the log, the events of its class and of a wire, the counters, the interrupt and ERR_N. -/
theorem logFaultAt_stages (tm : BitVec 48 × BitVec 16) (code source parts info0 info1 : Nat) (s : State) :
    logFaultAt tm code source parts info0 info1 s =
      let cls := faultClass code source
      let react := faultReact cls code source s
      let s := evtQuiet burB (classEvt cls) (takeRec tm cls react code source parts info0 info1 s)
      let s := countRec source (if code = 0x16 then evtQuiet burB eBUR_EVENT_WIRE s else s)
      let s := if react = 0 ∨ react = 4 then s else burIrq parts s
      if cls = 3 then errNAssert s else s := rfl

theorem recorded_takeRec {src : Nat} (tm : BitVec 48 × BitVec 16) (react parts info0 info1 : Nat) (hsrc : src < 2 ^ 16)
    (s : State) : Recorded src s (takeRec tm 0 react 0x01 src parts info0 info1 s) := by
  have hnew := recorded_newRec tm react parts info0 info1 hsrc s
  unfold takeRec
  dsimp only
  cases hl : tget (fun _ => none) s.bur.last src with
  | none => exact hnew
  | some x =>
    dsimp only
    by_cases hm : mergesInto x 0x01 tm.1 = true
    · have hx : x.code.toNat = 0x01 ∧ x.cls = 0 ∧ (tm.1 - x.w).toNat < ticksMs := by simpa [mergesInto] using hm
      rw [if_pos ⟨rfl, hm⟩]
      exact recorded_repeatRec hl (BitVec.eq_of_toNat_eq hx.1) hx.2.1
    · rw [if_neg fun h => hm h.2]
      exact hnew

theorem perfOnly_countRec (source : Nat) (s : State) : PerfOnly s (countRec source s) := by
  unfold countRec
  split
  · exact perfOnly_countEvt _ _ _ s
  · rfl

/-- A dropped access is recorded, raises the corrected event of the Bureau, counts and interrupts, and does nothing else
(R7, R388). -/
theorem regAccessFault_spec (r : Requester) (off : Nat) (s : State) : ∃ u v, Recorded (reqSource r) s u ∧
    PerfOnly (evtQuiet burB (classEvt 0) u) v ∧ IrqOnly v (regAccessFault r off s) := by
  have hcls : faultClass 0x01 (reqSource r) = 0 := by simp [faultClass]
  refine ⟨_, _, recorded_takeRec (s.clk.w, s.clk.epoch) (faultReact 0 0x01 (reqSource r) s) (reqParts r s) off (reqNo r)
    (reqSource_lt r) s, perfOnly_countRec (reqSource r) _, ?_⟩
  unfold regAccessFault logFault
  rw [logFaultAt_stages, hcls]
  dsimp only
  rw [if_neg (show ¬ (0 : Nat) = 3 by decide), if_neg (show ¬ (1 : Nat) = 0x16 by decide)]
  split
  · rfl
  · exact irqOnly_burIrq _ _

theorem bur_evtQuiet (b : Nat) (e : Evt) (s : State) : (evtQuiet b e s).bur = s.bur := by
  simp only [evtQuiet, faddSat, fset_bur]

/-- The frames of the stages of a record make one frame. -/
theorem recordFrame {s u w v t : State} (hu : u = { s with regs := u.regs, bur := u.bur }) (hw : w = { u with regs := w.regs })
    (hv : PerfOnly w v) (ht : IrqOnly v t) :
    t = { s with regs := t.regs, bur := t.bur, perf := t.perf, host := t.host, mgmt := t.mgmt } := by
  unfold PerfOnly at hv
  unfold IrqOnly at ht
  rw [ht, hv, hw, hu]

/-- The registers and the log after a dropped access: those after its record and the corrected event. -/
theorem regAccessFault_view (r : Requester) (off : Nat) (s : State) : ∃ u, Recorded (reqSource r) s u ∧
    (∀ o, regGet o (regAccessFault r off s) = regGet o (evt burB (classEvt 0) u)) ∧
    (regAccessFault r off s).bur = u.bur ∧
    regAccessFault r off s = { s with
      regs := (regAccessFault r off s).regs, bur := (regAccessFault r off s).bur, perf := (regAccessFault r off s).perf,
      host := (regAccessFault r off s).host, mgmt := (regAccessFault r off s).mgmt } := by
  obtain ⟨u, v, hu, hv, ht⟩ := regAccessFault_spec r off s
  have hregs : (regAccessFault r off s).regs = (evt burB (classEvt 0) u).regs := ht.regs.trans hv.regs
  have hbur : (regAccessFault r off s).bur = u.bur := ht.bur.trans (hv.bur.trans (bur_evtQuiet _ _ _))
  exact ⟨u, hu, fun o => by rw [regGet, regGet, hregs], hbur, recordFrame hu.frame rfl hv ht⟩

/-! The events of a read (R12). -/

theorem quiet_out : Quiet State.out := ⟨fun _ _ => rfl, fun _ _ => rfl, fun _ _ => rfl, fun _ _ => rfl,
  fun _ _ => rfl, fun _ _ => rfl, fun _ _ => rfl⟩

/-- The events of the cycle of a read change nothing but what record keeping changes. -/
theorem Quiet.countEvents {β : Type} {φ : State → β} (q : Quiet φ) (off lo n : Nat) (s : State) :
    φ (countEvents off lo n s) = φ s := by
  unfold Machine.countEvents
  split
  · exact ite_view (q.perf s _) rfl
  · split
    · rfl
    · split
      · exact forAll_view φ _ (fun _ s => q.evt _ _ s) _ s
      · split
        · rfl
        · exact ite_view (q.faddSat _ _ _ s) rfl

/-- RC_FIELD_READ answers the data of the read, then the events of its cycle happen (R12). -/
theorem exec_rcFieldRead (r : Requester) (off : BitVec 32) (evHi evLo : Nat) (s : State) :
    exec (.rcFieldRead r off evHi evLo) s = .next (countEvents off.toNat 16 evHi (countEvents off.toNat 0 evLo
      (emit (.regData r off.toNat (readReg r off.toNat 4 s).2.1) (readReg r off.toNat 4 s).2.2))) := rfl

/-- Settles O10: the dropped write is recorded, and the data of a dropped read is 0. -/
theorem misalignedAccess : Obligations.MisalignedAccess := by
  intro r off val size s
  constructor
  · intro hbad
    have ht : exec (.registerWrite r off size val 0) s = .next (regAccessFault r off.toNat s) := by
      show Host.Outcome.next (setEvents off.toNat 0 (writeReg r off.toNat size val s).2) = _
      rw [setEvents_zero, writeReg, if_pos hbad]
    obtain ⟨u, hu, hregs, hbur, hframe⟩ := regAccessFault_view r off.toNat s
    obtain ⟨hbit, hcnt, -, hne, -⟩ : (classEvt 0).Ok := by decide
    have hfget : ∀ f, fget burB f (regAccessFault r off.toNat s) = fget burB f (evt burB (classEvt 0) u) :=
      fun f => by simp only [fget, hregs]
    have hcount : fget burB (classEvt 0).cnt u = fget burB (classEvt 0).cnt s := by
      unfold fget
      rw [hu.regs (burB + (classEvt 0).cnt.off) (by decide) (by decide)]
    refine ⟨_, ht, fun o ho => ?_, hframe, ?_, ?_, ?_⟩
    · have hout : ∀ i < 0x100000, o ≠ burB + i := fun i hi => by omega
      rw [hregs, regGet_evt_ne (hout _ (by decide)) (hout _ (by decide))]
      exact hu.regs o (hout _ (by decide)) (hout _ (by decide))
    · exact (hfget _).trans (fget_evt_bit burB hbit hcnt (.inl hne) u)
    · refine (hfget _).trans ((fget_evt_cnt burB hbit hcnt (.inl hne.symm) u).trans ?_)
      rw [hcount]
      rfl
    · rw [hbur]; exact hu.last
  · intro hbad
    have hread : readReg r off.toNat 4 s = (stFORMAT, 0, regAccessFault r off.toNat s) := by
      rw [readReg, if_pos (.inr hbad)]
    refine ⟨_, exec_rcFieldRead r off 0 0 s, ?_⟩
    beta_reduce
    rw [hread, quiet_out.countEvents, quiet_out.countEvents, emit_out, quiet_out.regAccessFault]

end Sys2Proof.Machine
end

section
/-! SUPPORT. Reads of RC fields (R9, R12): a read gives the register, returns its RC fields to 0, starts a peak of a port's
window again (R255, R256), and then takes the events of the same cycle. -/

namespace Sys2Proof.Machine

/-! The field tables. -/

/-- A register has a field that a read clears. -/
abbrev HasRc (d : RegDesc) : Prop := (d.fields.any fun f => f.acc == .rc) = true

/-- The RC fields have 16 bits, at bit 0 or at bit 16. -/
theorem rc_halves {b : Blk} : ∀ d ∈ regsOf b, ∀ f ∈ d.fields, f.acc = .rc → f.hi = f.lo + 15 ∧ (f.lo = 0 ∨ f.lo = 16) := by
  cases b <;> decide +kernel

/-- An RC field holds the count of an event, or has nothing in common with it. -/
theorem rc_evts {b : Blk} : ∀ d ∈ regsOf b, ∀ f ∈ d.fields, f.acc = .rc → ∀ e ∈ blkEvts b,
    Fld.Apart ⟨d.off, f.hi, f.lo⟩ e.bit ∧ (e.cnt = ⟨d.off, f.hi, f.lo⟩ ∨ Fld.Apart ⟨d.off, f.hi, f.lo⟩ e.cnt) := by
  cases b <;> decide +kernel

/-- No register with an RC field lies in a counter page. -/
theorem rc_off_page {b : Blk} : ∀ d ∈ regsOf b, HasRc d → d.off < 0x400 ∨ 0x500 ≤ d.off := by
  cases b <;> decide +kernel

/-- The registers of a block whose reads give something else than their stored value, or do more than clear RC fields. -/
def viewedRegs : Blk → List Nat
  | .core => [oCORE_ENG_STATUS]
  | .drp => [oDRP_W_LO, oDRP_W_HI, oDRP_P_LO, oDRP_P_HI]
  | .pwr => [oPWR_RAMP_T_LO, oPWR_RAMP_T_HI, oPWR_RAMP_CTL, oPWR_INLET, oPWR_COMPLY]
  | .perf => [oPERF_SRING_LO, oPERF_SRING_HI]
  | .gzl => [oGZL_LEASE, oGZL_SLICE_ROW]
  | .col => [oCOL_CINFO, oCOL_CPOS]
  | .fab => [oFAB_SESS]
  | .hub => [oHUB_BOOT]
  | _ => []

theorem rc_notViewed {b : Blk} : ∀ d ∈ regsOf b, HasRc d →
    d.off ∉ viewedRegs b ∧ d.off < 0x10000 ∧ (b = .sec → oSEC_EVENT ≤ d.off) := by
  cases b <;> decide +kernel

/-- The peak registers are FAB_SUMP, FAB_HEADROOM and the FAB_DEPTH registers (R255, R256). -/
theorem rc_peaks : ∀ d ∈ regsOf .fab, d.off ∉ oFAB_SUMP :: peakFields.map (fun x => x.2.off) →
    d.off ≠ fFAB_HEADROOM_PEAK_KIB.off ∧ ¬ (oFAB_DEPTH_VL0 ≤ d.off ∧ (d.off - oFAB_DEPTH_VL0) / 4 < 8) ∧
      d.off ≠ fFAB_SUMP_USED_PEAK_KIB.off := by
  decide +kernel

/-! The read. -/

section
variable {off base : Nat} {b : Blk} {d : RegDesc}

/-- A register with an RC field reads as its stored value. -/
theorem regView_of_rc (hb : regBlock off = some (b, base)) (hd : regDesc off = some d) (hr : HasRc d)
    (hs : off ≠ perfB + oPERF_SRING_STAT) (r : Requester) (s : State) :
    regView r b base (off - base) s = regGet off s := by
  obtain ⟨hmem, ho⟩ := regDesc_mem hb hd
  obtain ⟨hv, hw, hsec⟩ := rc_notViewed d hmem hr
  have hoff : base + (off - base) = off := Nat.add_sub_cancel' (regBlock_base hb).1
  have hw' : ¬ 0x10000 ≤ off - base := by omega
  rw [ho] at hv hsec
  cases b
  case sec =>
    obtain rfl : base = secB := regBlock_hub hb (n := 6) rfl
    have he := hsec rfl
    have hlo : ∀ o < oSEC_EVENT, off - secB ≠ o := fun o h => by omega
    have hn : ¬ (oSEC_NONCE0 ≤ off - secB ∧ off - secB ≤ oSEC_NONCE7) := fun h => by
      have := Nat.le_trans he h.2
      exact absurd this (by decide)
    simp only [regView, secRead, hlo oSEC_LC (by decide), hlo oSEC_SLOT (by decide), hlo oSEC_SLOT_KID_LO (by decide),
      hlo oSEC_SLOT_KID_HI (by decide), hlo oSEC_SEAL (by decide), hlo oSEC_CABKEY (by decide), hlo oSEC_PEERS (by decide),
      hlo oSEC_ANTIRB (by decide), hn, if_false, if_pos he, hoff]
  case perf =>
    obtain rfl : base = perfB := regBlock_hub hb (n := 5) rfl
    have hstat : off - perfB ≠ oPERF_SRING_STAT := by omega
    simp_all [regView, viewedRegs]
  all_goals simp_all [regView, viewedRegs]

theorem ctrBlock_n_le {x : CtrBlk} (h : ctrBlock b base = some x) : x.n ≤ 16 := by
  cases b <;> simp_all [ctrBlock] <;> simp [← h]

theorem ctrReg_of_rc (hb : regBlock off = some (b, base)) (hd : regDesc off = some d) (hr : HasRc d) : ctrReg off = none := by
  obtain ⟨hmem, ho⟩ := regDesc_mem hb hd
  have hpage := rc_off_page d hmem hr
  simp only [ctrReg, hb]
  split
  · rfl
  · next x hx =>
    have hn := ctrBlock_n_le hx
    exact if_neg fun h => by omega

/-- A register with an RC field is read by every requester that may read there. -/
theorem readExtra_of_rc (hb : regBlock off = some (b, base)) (hd : regDesc off = some d) (hr : HasRc d) (ha : off % 4 = 0)
    (r : Requester) (s : State) : readExtra r b (off - base) s = true := by
  obtain ⟨hmem, ho⟩ := regDesc_mem hb hd
  obtain ⟨hv, -, -⟩ := rc_notViewed d hmem hr
  have hbase := regBlock_base hb
  rw [ho] at hv
  cases b
  case pwr =>
    have hramp : ¬ (oPWR_RAMP_T_LO ≤ off - base ∧ off - base < oPWR_RAMP_CTL) := by
      simp only [viewedRegs, List.mem_cons, not_or, oPWR_RAMP_T_LO, oPWR_RAMP_T_HI, oPWR_RAMP_CTL] at hv ⊢
      omega
    simp [readExtra, rampSelOk, hramp]
  all_goals simp_all [readExtra, rampSelOk, viewedRegs]

/-- A read of a register with an RC field gives its stored value, clears its RC fields, and starts a peak again. -/
theorem readReg_of_rc (hb : regBlock off = some (b, base)) (hd : regDesc off = some d) (hr : HasRc d)
    (hs : off ≠ perfB + oPERF_SRING_STAT) (ha : off % 4 = 0) {r : Requester} {s : State}
    (hok : regStatus r off false s = stOK) : readReg r off 4 s = (stOK, regGet off s,
      if b = .fab then peakAgain base (off - base) (clearRc off s) else clearRc off s) := by
  obtain ⟨hmem, ho⟩ := regDesc_mem hb hd
  obtain ⟨hv, -, -⟩ := rc_notViewed d hmem hr
  have hoff : base + (off - base) = off := Nat.add_sub_cancel' (regBlock_base hb).1
  have hdrp : ¬ (b = .drp ∧ off - base = oDRP_W_LO) := by
    rintro ⟨rfl, h⟩
    exact hv (by rw [ho, h]; decide)
  have hperf : ¬ (b = .perf ∧ off - base = oPERF_SRING_STAT) := by
    rintro ⟨rfl, h⟩
    obtain rfl : base = perfB := regBlock_hub hb (n := 5) rfl
    omega
  simp only [readReg, readWord, hok, ha, ctrReg_of_rc hb hd hr, hb, readExtra_of_rc hb hd hr ha, regView_of_rc hb hd hr hs,
    readEffect, if_neg hdrp, if_neg hperf, hoff]
  simp

end

/-! The RC fields after the read. -/

/-- A field of the register at an offset, as a field of the block at that offset. -/
theorem fget_at {off base : Nat} (h : base ≤ off) (hi lo : Nat) (s : State) :
    fget base ⟨off - base, hi, lo⟩ s = fget off ⟨0, hi, lo⟩ s := by
  simp only [fget, Nat.add_sub_cancel' h, Nat.add_zero]

theorem clearRc_eq {off : Nat} {d : RegDesc} (hd : regDesc off = some d) (s : State) :
    clearRc off s = forAll (d.fields.filter fun f => f.acc == .rc) (fun f => fset off ⟨0, f.hi, f.lo⟩ 0) s := by
  simp only [clearRc, hd]
  rfl

theorem Quiet.clearRc {β : Type} {φ : State → β} (q : Quiet φ) (off : Nat) (s : State) : φ (clearRc off s) = φ s := by
  unfold Machine.clearRc
  split
  · rfl
  · exact forAll_view φ _ (fun _ s => q.regSet _ _ s) _ s

theorem regGet_clearRc_ne {a off : Nat} (h : a ≠ off) (s : State) : regGet a (clearRc off s) = regGet a s := by
  unfold clearRc
  split
  · rfl
  · exact forAll_view (regGet a) _ (fun _ s => regGet_regSet_ne h _ s) _ s

theorem fget_forAll_clear_apart {off : Nat} {g : Fld} : ∀ (l : List FieldDesc) (s : State),
    (∀ f ∈ l, (f.lo ≤ f.hi ∧ f.hi < 32) ∧ g.Apart ⟨0, f.hi, f.lo⟩) →
    fget off g (forAll l (fun f => fset off ⟨0, f.hi, f.lo⟩ 0) s) = fget off g s
  | [], _, _ => rfl
  | f :: l, s, h => by
    obtain ⟨hf, hg⟩ := h f (.head _)
    rw [forAll_cons, fget_forAll_clear_apart l _ fun x hx => h x (.tail _ hx), fget_fset_apart off hf hg]

theorem fget_forAll_clear {off : Nat} {g : FieldDesc} (l : List FieldDesc) (s : State) (h : FieldsOk l) (hg : g ∈ l) :
    fget off ⟨0, g.hi, g.lo⟩ (forAll l (fun f => fset off ⟨0, f.hi, f.lo⟩ 0) s) = 0 := by
  induction l generalizing s with
  | nil => cases hg
  | cons f l ih =>
    obtain ⟨hok, hap⟩ := h
    obtain ⟨hf, hrest⟩ := List.pairwise_cons.1 hap
    rw [forAll_cons]
    rcases List.mem_cons.1 hg with rfl | hg
    · rw [fget_forAll_clear_apart l _ fun x hx => ⟨hok x (.tail _ hx), .inr (hf x hx)⟩,
        fget_fset_same off (hok g (.head _)), Nat.zero_mod]
    · exact ih _ ⟨fun x hx => hok x (.tail _ hx), hrest⟩ hg

/-- A read returns the RC fields of its register to 0 (R9). -/
theorem fget_clearRc {off base : Nat} {b : Blk} {d : RegDesc} {f : FieldDesc} (hb : regBlock off = some (b, base))
    (hd : regDesc off = some d) (hf : f ∈ d.fields) (hrc : f.acc = .rc) (s : State) :
    fget base ⟨off - base, f.hi, f.lo⟩ (clearRc off s) = 0 := by
  obtain ⟨hok, hap⟩ := regDesc_fieldsOk hb hd
  rw [fget_at (regBlock_base hb).1, clearRc_eq hd]
  exact fget_forAll_clear _ s ⟨fun x hx => hok x (List.mem_of_mem_filter hx), hap.filter _⟩
    (List.mem_filter.2 ⟨hf, by simp [hrc]⟩)

/-- A read leaves the bits apart from the RC fields of its register alone. -/
theorem fget_clearRc_apart {off base : Nat} {b : Blk} {d : RegDesc} {hi lo : Nat} (hb : regBlock off = some (b, base))
    (hd : regDesc off = some d) (h : ∀ f ∈ d.fields, f.acc = .rc → hi < f.lo ∨ f.hi < lo) (s : State) :
    fget base ⟨off - base, hi, lo⟩ (clearRc off s) = fget base ⟨off - base, hi, lo⟩ s := by
  obtain ⟨hok, -⟩ := regDesc_fieldsOk hb hd
  rw [fget_at (regBlock_base hb).1, fget_at (regBlock_base hb).1, clearRc_eq hd]
  refine fget_forAll_clear_apart _ s fun f hf => ?_
  obtain ⟨hmem, hrc⟩ := List.mem_filter.1 hf
  exact ⟨hok f hmem, .inr (h f hmem (by simpa using hrc))⟩

/-! The events of the cycle. -/

/-- A count that rises by single events rises by their number, up to its largest value (R11). -/
theorem fget_cnt_evts (b : Nat) {e : Evt} (h : e.Ok) (n : Nat) (s : State) :
    fget b e.cnt (forAll (List.range n) (fun _ => evt b e) s) = Nat.min (fget b e.cnt s + n) 0xFFFF := by
  obtain ⟨hbit, hcnt, hw, hne, -⟩ := h
  have hlt : fget b e.cnt s < 2 ^ 16 := hw ▸ fget_lt b e.cnt s
  induction n with
  | zero =>
    show fget b e.cnt s = Nat.min (fget b e.cnt s) 0xFFFF
    exact (Nat.min_eq_left (by omega)).symm
  | succ n ih =>
    have hstep : forAll (List.range (n + 1)) (fun _ => evt b e) s =
        evt b e (forAll (List.range n) (fun _ => evt b e) s) := by
      simp only [forAll, List.range_succ, List.foldl_append, List.foldl_cons, List.foldl_nil]
    rw [hstep, fget_evt_cnt b hbit hcnt (.inl hne.symm), ih, hw]
    simp only [Nat.min_def]
    split_ifs <;> omega

theorem regGet_faddSat_ne {a b : Nat} {f : Fld} (h : a ≠ b + f.off) (v : Nat) (s : State) :
    regGet a (faddSat b f v s) = regGet a s := regGet_fset_ne h _ s

section
variable {off base : Nat} {b : Blk} {d : RegDesc}

/-- The events of a read change the register read and the W1C bits of its block alone. -/
theorem regGet_countEvents_ne (hb : regBlock off = some (b, base)) (hs : off ≠ perfB + oPERF_SRING_STAT) {a : Nat}
    (ha : a ≠ off) (hev : ∀ e ∈ blkEvts b, a ≠ base + e.bit.off) (lo n : Nat) (s : State) :
    regGet a (countEvents off lo n s) = regGet a s := by
  have hoff : base + (off - base) = off := Nat.add_sub_cancel' (regBlock_base hb).1
  simp only [countEvents, if_neg hs, hb]
  split
  · next e he =>
    have hcnt : e.cnt.off = off - base ∧ e.cnt.lo = lo := by simpa using List.find?_some he
    exact forAll_view (regGet a) _
      (fun _ s => regGet_evt_ne (hev e (List.mem_of_find?_eq_some he)) (by rw [hcnt.1, hoff]; exact ha) s) _ s
  · split
    · rfl
    · split
      · exact regGet_faddSat_ne (by rw [hoff]; exact ha) n s
      · rfl

/-- n events for an RC field raise it by n, up to 0xFFFF. -/
theorem fget_countEvents {f : FieldDesc} (hb : regBlock off = some (b, base)) (hd : regDesc off = some d)
    (hf : f ∈ d.fields) (hrc : f.acc = .rc) (hs : off ≠ perfB + oPERF_SRING_STAT) {lo : Nat} (he : f.lo = lo) (n : Nat)
    (s : State) : fget base ⟨off - base, f.hi, f.lo⟩ (countEvents off lo n s) =
      Nat.min (fget base ⟨off - base, f.hi, f.lo⟩ s + n) 0xFFFF := by
  subst he
  obtain ⟨hmem, ho⟩ := regDesc_mem hb hd
  obtain ⟨hhi, hlo⟩ := rc_halves d hmem f hf hrc
  simp only [countEvents, if_neg hs, hb]
  split
  · next e he =>
    have hcnt : e.cnt.off = off - base ∧ e.cnt.lo = f.lo := by simpa using List.find?_some he
    have hev := List.mem_of_find?_eq_some he
    have hok := blkEvts_ok e hev
    rcases (rc_evts d hmem f hf hrc e hev).2 with h | h
    · rw [ho] at h
      rw [← h]
      exact fget_cnt_evts base hok n s
    · obtain ⟨-, hc, -⟩ := hok
      simp only [Fld.Apart, ho, hcnt, ne_eq, not_true_eq_false, false_or] at h
      omega
  · simp only [hd]
    have hany : (d.fields.any fun x => x.acc == .rc && x.lo == f.lo) = true :=
      List.any_eq_true.2 ⟨f, hf, by simp [hrc]⟩
    have hfld : Fld.Ok ⟨off - base, f.lo + 15, f.lo⟩ := by
      show f.lo ≤ f.lo + 15 ∧ f.lo + 15 < 32
      omega
    rw [if_pos hany, hhi, faddSat, fget_fset_same base hfld, show f.lo + 15 + 1 - f.lo = 16 by omega]
    exact Nat.mod_eq_of_lt (Nat.lt_succ_of_le (Nat.min_le_right _ _))

/-- Events for one half of a register leave an RC field in the other half alone. -/
theorem fget_countEvents_other {f : FieldDesc} (hb : regBlock off = some (b, base)) (hd : regDesc off = some d)
    (hf : f ∈ d.fields) (hrc : f.acc = .rc) (hs : off ≠ perfB + oPERF_SRING_STAT) {lo : Nat} (hlo : lo = 0 ∨ lo = 16)
    (hne : f.lo ≠ lo) (n : Nat) (s : State) :
    fget base ⟨off - base, f.hi, f.lo⟩ (countEvents off lo n s) = fget base ⟨off - base, f.hi, f.lo⟩ s := by
  obtain ⟨hmem, ho⟩ := regDesc_mem hb hd
  obtain ⟨hhi, hlo'⟩ := rc_halves d hmem f hf hrc
  simp only [countEvents, if_neg hs, hb]
  split
  · next e he =>
    have hcnt : e.cnt.off = off - base ∧ e.cnt.lo = lo := by simpa using List.find?_some he
    have hev := List.mem_of_find?_eq_some he
    obtain ⟨hbit, h⟩ := rc_evts d hmem f hf hrc e hev
    rw [ho] at hbit h
    rcases h with h | h
    · exact absurd (by rw [← hcnt.2, h]) hne
    · exact forAll_view (fget base ⟨off - base, f.hi, f.lo⟩) _ (fun _ s => fget_evt_apart base (blkEvts_ok e hev) hbit h s) _ s
  · simp only [hd]
    split
    · have hfld : Fld.Ok ⟨off - base, lo + 15, lo⟩ := by
        show lo ≤ lo + 15 ∧ lo + 15 < 32
        omega
      have hap : f.hi < lo ∨ lo + 15 < f.lo := by omega
      exact fget_fset_apart base hfld (.inr hap) _ s
    · rfl

/-- The events of both halves of a register, counted from 0. -/
theorem fget_countEvents_both {f : FieldDesc} (hb : regBlock off = some (b, base)) (hd : regDesc off = some d)
    (hf : f ∈ d.fields) (hrc : f.acc = .rc) (hs : off ≠ perfB + oPERF_SRING_STAT) (n m : Nat) {s : State}
    (h0 : fget base ⟨off - base, f.hi, f.lo⟩ s = 0) :
    fget base ⟨off - base, f.hi, f.lo⟩ (countEvents off 16 m (countEvents off 0 n s)) =
      Nat.min (if f.lo = 0 then n else m) 0xFFFF := by
  obtain ⟨-, hlo | hlo⟩ := rc_halves d (regDesc_mem hb hd).1 f hf hrc
  · rw [fget_countEvents_other hb hd hf hrc hs (.inr rfl) (by omega), fget_countEvents hb hd hf hrc hs hlo, h0, if_pos hlo,
      Nat.zero_add]
  · rw [fget_countEvents hb hd hf hrc hs hlo, fget_countEvents_other hb hd hf hrc hs (.inl rfl) (by omega), h0,
      if_neg (by omega), Nat.zero_add]

end

/-! Reads with their events. -/

/-- A read of RC fields that are no peaks: the register as it was before, then the events of the cycle alone (R12). -/
theorem rcFieldRead_counts (r : Requester) (off : BitVec 32) (b : Blk) (base : Nat) (d : RegDesc) (n m : Nat) (s : State)
    (hb : regBlock off.toNat = some (b, base)) (hd : regDesc off.toNat = some d) (hr : HasRc d)
    (hs : off.toNat ≠ perfB + oPERF_SRING_STAT)
    (hpeak : b = .fab → off.toNat - base ∉ oFAB_SUMP :: peakFields.map fun x => x.2.off) (ha : off.toNat % 4 = 0)
    (hok : regStatus r off.toNat false s = stOK) :
    Goes (.rcFieldRead r off m n) s fun t =>
      t.out = s.out ++ [.regData r off.toNat (regGet off.toNat s)] ∧
      (∀ f ∈ d.fields, f.acc = .rc →
        fget base ⟨off.toNat - base, f.hi, f.lo⟩ t = Nat.min (if f.lo = 0 then n else m) 0xFFFF) ∧
      RegsKept (off.toNat :: (blkEvts b).map fun e => base + e.bit.off) s t := by
  obtain ⟨hmem, ho⟩ := regDesc_mem hb hd
  have hread : readReg r off.toNat 4 s = (stOK, regGet off.toNat s, clearRc off.toNat s) := by
    rw [readReg_of_rc hb hd hr hs ha hok]
    split
    · next hfab =>
      subst hfab
      obtain ⟨h1, h2, h3⟩ := rc_peaks d hmem (ho ▸ hpeak rfl)
      rw [ho] at h1 h2 h3
      simp only [peakAgain, if_neg h1, if_neg h2, h3, false_and, if_false]
    · rfl
  refine ⟨_, exec_rcFieldRead r off m n s, ?_, fun f hf hrc => ?_, fun a hA => ?_⟩
  · rw [hread, quiet_out.countEvents, quiet_out.countEvents, emit_out, quiet_out.clearRc]
  · rw [hread]
    exact fget_countEvents_both hb hd hf hrc hs n m (fget_clearRc hb hd hf hrc s)
  · simp only [List.mem_cons, List.mem_map, not_or, not_exists, not_and] at hA
    obtain ⟨ha, hev⟩ := hA
    have hev' : ∀ e ∈ blkEvts b, a ≠ base + e.bit.off := fun e he h => hev e he h.symm
    rw [hread, regGet_countEvents_ne hb hs ha hev', regGet_countEvents_ne hb hs ha hev']
    exact regGet_clearRc_ne ha s

/-! Peaks (R255, R256). -/

@[simp] theorem regGet_emit (a : Nat) (o : Out) (s : State) : regGet a (emit o s) = regGet a s := rfl

/-- A field written with its own value leaves the word as it was. -/
theorem setBits_bitsOf_self (v : Nat) {hi lo : Nat} (h : lo ≤ hi) : setBits v hi lo (bitsOf v hi lo) = v := by
  apply Nat.eq_of_testBit_eq
  intro i
  rw [testBit_setBits _ _ _ _ _ (by omega), testBit_bitsOf]
  split
  · next hi' =>
    rw [Nat.add_sub_cancel' hi'.1]
    simp [show i - lo < hi + 1 - lo by omega]
  · rfl

theorem regGet_faddSat_zero (a b : Nat) {f : Fld} (hf : f.Ok) (s : State) : regGet a (faddSat b f 0 s) = regGet a s := by
  have hlt : fget b f s ≤ 2 ^ (f.hi + 1 - f.lo) - 1 := Nat.le_sub_one_of_lt (fget_lt b f s)
  have hmin : Nat.min (fget b f s + 0) (2 ^ (f.hi + 1 - f.lo) - 1) = bitsOf (regGet (b + f.off) s).toNat f.hi f.lo :=
    Nat.min_eq_left hlt
  rw [faddSat, hmin, fset, setBits_bitsOf_self _ hf.1, regGet_regSet]
  split
  · next h => rw [h]; simp
  · rfl

/-- With no event in its cycle a read leaves the registers to its own effects. -/
theorem regGet_countEvents_zero {off lo : Nat} (hs : off ≠ perfB + oPERF_SRING_STAT) (hlo : lo + 15 < 32) (a : Nat)
    (s : State) : regGet a (countEvents off lo 0 s) = regGet a s := by
  simp only [countEvents, if_neg hs]
  split
  · rfl
  · split
    · rfl
    · split
      · rfl
      · split
        · exact regGet_faddSat_zero a _ ⟨Nat.le_add_right _ _, hlo⟩ s
        · rfl

/-- A read of a peak with no event in its cycle: the register as it was before, and the peak at its new value. -/
theorem rcFieldRead_again {r : Requester} {off : BitVec 32} {base : Nat} {d : RegDesc} {s : State} {peak : Fld}
    {v : State → Nat} (hb : regBlock off.toNat = some (.fab, base)) (hd : regDesc off.toNat = some d) (hr : HasRc d)
    (ha : off.toNat % 4 = 0) (hok : regStatus r off.toNat false s = stOK) (hpk : peak.Ok) (hpo : base + peak.off = off.toNat)
    (hagain : ∀ u, peakAgain base (off.toNat - base) u = fset base peak (v u) u) :
    Goes (.rcFieldRead r off 0 0) s fun t =>
      t.out = s.out ++ [.regData r off.toNat (regGet off.toNat s)] ∧
      fget base peak t = v (clearRc off.toNat s) % 2 ^ (peak.hi + 1 - peak.lo) ∧ RegsKept [off.toNat] s t := by
  have hs : off.toNat ≠ perfB + oPERF_SRING_STAT := fun h => by
    have hperf : regBlock (perfB + oPERF_SRING_STAT) = some (.perf, perfB) := by decide
    rw [h, hperf] at hb
    cases hb
  have hread := readReg_of_rc hb hd hr hs ha hok
  rw [if_pos rfl, hagain] at hread
  have hquiet : ∀ a u, regGet a (countEvents off.toNat 16 0 (countEvents off.toNat 0 0 u)) = regGet a u := fun a u => by
    rw [regGet_countEvents_zero hs (by decide), regGet_countEvents_zero hs (by decide)]
  refine ⟨_, exec_rcFieldRead r off 0 0 s, ?_, ?_, fun a hA => ?_⟩
  · rw [hread, quiet_out.countEvents, quiet_out.countEvents, emit_out, fset_out, quiet_out.clearRc]
  · rw [hread, ← fget_fset_same base hpk (v (clearRc off.toNat s)) (clearRc off.toNat s)]
    simp only [fget, hquiet, regGet_emit]
  · have hne : a ≠ off.toNat := by simpa using hA
    rw [hread, hquiet, regGet_emit, regGet_fset_ne (hpo ▸ hne), regGet_clearRc_ne hne]

theorem regBlock_fab {p o : Nat} (hp : p < 32) (ho : o < 0x10000) : regBlock (fabB p + o) = some (.fab, fabB p) := by
  have h1 : ¬ fabB p + o < 0x01000000 := by simp only [fabB]; omega
  have h2 : ¬ fabB p + o < 0x02000000 := by simp only [fabB]; omega
  have h3 : fabB p + o < 0x02200000 := by simp only [fabB]; omega
  have h4 : (fabB p + o) / 0x00010000 * 0x00010000 = fabB p := by simp only [fabB]; omega
  simp only [regBlock, if_neg h1, if_neg h2, if_pos h3, h4]

theorem regDesc_of_regBlock {off base : Nat} {b : Blk} (hb : regBlock off = some (b, base)) : regDesc off =
    if b = .fab ∧ base ≠ fabB 0 ∧ 0x8000 ≤ off - base then none else (regsOf b).find? fun d => d.off == off - base := by
  simp only [regDesc, hb]

theorem regDesc_fab {p o : Nat} (hp : p < 32) (ho : o < 0x10000) (h : p = 0 ∨ o < 0x8000) :
    regDesc (fabB p + o) = (regsOf .fab).find? fun d => d.off == o := by
  have hwin : ¬ (Blk.fab = .fab ∧ fabB p ≠ fabB 0 ∧ 0x8000 ≤ o) := by
    rintro ⟨-, hne, hle⟩
    rcases h with rfl | h
    · exact hne rfl
    · omega
  rw [regDesc_of_regBlock (regBlock_fab hp ho), Nat.add_sub_cancel_left, if_neg hwin]

theorem toNat_fab {p o : Nat} (hp : p < 32) (ho : o < 0x10000) : (BitVec.ofNat 32 (fabB p + o)).toNat = fabB p + o := by
  simp only [BitVec.toNat_ofNat, fabB]
  omega

/-- A peak and its occupancy are the two halves of one register (R255). -/
theorem peakFields_desc : ∀ x ∈ peakFields, x.2.off < 0x8000 ∧ x.2.off % 4 = 0 ∧
    x.1 = ⟨x.2.off, 15, 0⟩ ∧ x.2 = ⟨x.2.off, 31, 16⟩ ∧
    ∃ d ∈ regsOf .fab, (regsOf .fab).find? (fun d => d.off == x.2.off) = some d ∧ HasRc d ∧
      ∀ f ∈ d.fields, f.acc = .rc → 15 < f.lo ∨ f.hi < 0 := by
  decide +kernel

theorem peakAgain_of_mem (base : Nat) {x : Fld × Fld} (h : x ∈ peakFields) (u : State) :
    peakAgain base x.2.off u = fset base x.2 (fget base x.1 u) u := by
  rcases List.mem_cons.1 h with rfl | h
  · simp only [peakAgain, if_true]
  · obtain ⟨v, hv, rfl⟩ := List.mem_map.1 h
    have hv' : v < 8 := List.mem_range.1 hv
    have hne : oFAB_DEPTH_VL0 + 4 * v ≠ fFAB_HEADROOM_PEAK_KIB.off := by
      show 0x60 + 4 * v ≠ 0x80
      omega
    have hdiv : (oFAB_DEPTH_VL0 + 4 * v - oFAB_DEPTH_VL0) / 4 = v := by omega
    simp only [peakAgain, fDepthPeak, fDepthCur, if_neg hne, hdiv]
    exact if_pos ⟨Nat.le_add_right _ _, hv'⟩

/-- A peak of a port's window starts again at the occupancy of the time of its read (R255). -/
theorem rcFieldRead_peak (r : Requester) (p : Fin 32) (cur peak : Fld) (s : State) (h : (cur, peak) ∈ peakFields)
    (hok : regStatus r (BitVec.ofNat 32 (fabB p.val + peak.off)).toNat false s = stOK) :
    Goes (.rcFieldRead r (BitVec.ofNat 32 (fabB p.val + peak.off)) 0 0) s fun t =>
      t.out = s.out ++ [.regData r (BitVec.ofNat 32 (fabB p.val + peak.off)).toNat
        (regGet (BitVec.ofNat 32 (fabB p.val + peak.off)).toNat s)] ∧
      fget (fabB p.val) peak t = fget (fabB p.val) cur s ∧
      RegsKept [(BitVec.ofNat 32 (fabB p.val + peak.off)).toNat] s t := by
  obtain ⟨hlt, hword, hcur, hpk, d, -, hd, hr, hap⟩ := peakFields_desc (cur, peak) h
  dsimp only at hlt hword hcur hpk hd
  have ho : peak.off < 0x10000 := by omega
  have hoff := toNat_fab p.isLt ho
  have hb : regBlock (fabB p.val + peak.off) = some (.fab, fabB p.val) := regBlock_fab p.isLt ho
  rw [← regDesc_fab p.isLt ho (.inr hlt)] at hd
  have hok' : peak.Ok := by rw [hpk]; exact ⟨show 16 ≤ 31 by decide, show 31 < 32 by decide⟩
  have hlt16 : fget (fabB p.val) cur s < 2 ^ (peak.hi + 1 - peak.lo) := by
    rw [hpk, hcur]
    exact fget_lt (fabB p.val) ⟨peak.off, 15, 0⟩ s
  have hkeep := fget_clearRc_apart hb hd hap s
  rw [Nat.add_sub_cancel_left, ← hcur] at hkeep
  generalize BitVec.ofNat 32 (fabB p.val + peak.off) = off at hoff hok ⊢
  rw [← hoff] at hb hd hkeep
  obtain ⟨t, ht, hout, hfld, hkept⟩ := rcFieldRead_again (peak := peak) (v := fget (fabB p.val) cur) hb hd hr
    (by rw [hoff]; simp only [fabB]; omega) hok hok' hoff.symm
    (fun u => by rw [hoff, Nat.add_sub_cancel_left]; exact peakAgain_of_mem _ h u)
  exact ⟨t, ht, hout, by rw [hfld, hkeep, Nat.mod_eq_of_lt hlt16], hkept⟩

/-- USED_PEAK of the Sump starts again at the KiB in use at the time of its read (R256). -/
theorem rcFieldRead_sump (r : Requester) (s : State)
    (hok : regStatus r (BitVec.ofNat 32 (fabB 0 + oFAB_SUMP)).toNat false s = stOK) :
    Goes (.rcFieldRead r (BitVec.ofNat 32 (fabB 0 + oFAB_SUMP)) 0 0) s fun t =>
      t.out = s.out ++ [.regData r (BitVec.ofNat 32 (fabB 0 + oFAB_SUMP)).toNat
        (regGet (BitVec.ofNat 32 (fabB 0 + oFAB_SUMP)).toNat s)] ∧
      fget (fabB 0) fFAB_SUMP_USED_PEAK_KIB t =
        (sharedUsed s + 3) / 4 % 2 ^ (fFAB_SUMP_USED_PEAK_KIB.hi + 1 - fFAB_SUMP_USED_PEAK_KIB.lo) ∧
      RegsKept [(BitVec.ofNat 32 (fabB 0 + oFAB_SUMP)).toNat] s t := by
  have hoff : (BitVec.ofNat 32 (fabB 0 + oFAB_SUMP)).toNat = fabB 0 + oFAB_SUMP := by decide
  obtain ⟨d, -, hd, hr⟩ : ∃ d ∈ regsOf .fab, (regsOf .fab).find? (fun d => d.off == oFAB_SUMP) = some d ∧ HasRc d := by
    decide +kernel
  rw [← regDesc_fab (p := 0) (by decide) (by decide) (.inl rfl)] at hd
  have hused : sharedUsed (clearRc (fabB 0 + oFAB_SUMP) s) = sharedUsed s :=
    Quiet.clearRc (φ := sharedUsed) ⟨fun _ _ => rfl, fun _ _ => rfl, fun _ _ => rfl, fun _ _ => rfl, fun _ _ => rfl,
      fun _ _ => rfl, fun _ _ => rfl⟩ _ s
  obtain ⟨t, ht, hout, hfld, hkept⟩ := rcFieldRead_again (s := s) (peak := fFAB_SUMP_USED_PEAK_KIB)
    (v := fun u => (sharedUsed u + 3) / 4) (by rw [hoff]; exact regBlock_fab (by decide) (by decide))
    (by rw [hoff]; exact hd) hr (by decide) hok (by decide) hoff.symm (fun u => by rw [hoff, Nat.add_sub_cancel_left]; rfl)
  exact ⟨t, ht, hout, by rw [hfld, hoff, hused], hkept⟩

/-! Sample rings (R406). -/

theorem getD_modAt {α : Type} (f : α → α) (d : α) : ∀ (l : List α) (i : Nat), i < l.length →
    (modAt i f l).getD i d = f (l.getD i d)
  | _ :: _, 0, _ => rfl
  | _ :: l, i + 1, h => getD_modAt f d l i (Nat.lt_of_succ_lt_succ h)

theorem length_modAt {α : Type} (f : α → α) (l : List α) (i : Nat) : (modAt i f l).length = l.length := by
  induction l generalizing i with
  | nil => simp [modAt]
  | cons x l ih => cases i with
    | zero => rfl
    | succ i => exact congrArg (· + 1) (ih i)

theorem sringSel_congr {s u : State} (h : u.regs = s.regs) : sringSel u = sringSel s := by
  simp only [sringSel, fget, regGet, h]

theorem getSRing_setSRing_same {p : Nat} {s : State} (h : p < s.perf.srings.length) (x : SRing) :
    getSRing p (setSRing p x s) = x := getD_modAt _ _ _ _ h

/-- DROP of a sample ring that exists is emptied by its read and takes the events of the cycle (R406). -/
theorem rcFieldRead_sring (r : Requester) (m : Nat) (s : State) (h : sringSel s < s.perf.srings.length)
    (hok : regStatus r (BitVec.ofNat 32 (perfB + oPERF_SRING_STAT)).toNat false s = stOK) :
    Goes (.rcFieldRead r (BitVec.ofNat 32 (perfB + oPERF_SRING_STAT)) m 0) s fun t =>
      t.out = s.out ++ [.regData r (BitVec.ofNat 32 (perfB + oPERF_SRING_STAT)).toNat (sringWord oPERF_SRING_STAT s)] ∧
      (getSRing (sringSel s) t).drop.toNat = Nat.min m 0xFFFF := by
  have hoff : (BitVec.ofNat 32 (perfB + oPERF_SRING_STAT)).toNat = perfB + oPERF_SRING_STAT := by decide
  have hb : regBlock (perfB + oPERF_SRING_STAT) = some (.perf, perfB) := by decide
  rw [hoff] at hok
  have hread : readReg r (perfB + oPERF_SRING_STAT) 4 s = (stOK, sringWord oPERF_SRING_STAT s,
      setSRing (sringSel s) { getSRing (sringSel s) s with drop := 0 } s) := by
    have hctr : ctrReg (perfB + oPERF_SRING_STAT) = none := by decide
    rw [readReg, if_neg (by decide), readWord, hok, hctr, hb]
    simp [readExtra, rampSelOk, regView, readEffect]
  refine ⟨_, exec_rcFieldRead r _ m 0 s, ?_, ?_⟩
  · rw [hoff, hread, quiet_out.countEvents, quiet_out.countEvents]
    rfl
  · rw [hoff, hread]
    generalize hu : emit _ _ = u
    have hsel : sringSel u = sringSel s := sringSel_congr (by rw [← hu]; rfl)
    have hdrop : getSRing (sringSel s) u = { getSRing (sringSel s) s with drop := 0 } := by
      rw [← hu]; exact getSRing_setSRing_same h _
    have hlen : sringSel s < u.perf.srings.length := by
      rw [← hu]
      exact (length_modAt _ _ _).symm ▸ h
    have h0 : countEvents (perfB + oPERF_SRING_STAT) 0 0 u = u := by rw [countEvents, if_pos rfl, if_neg (by decide)]
    rw [h0, countEvents, if_pos rfl, if_pos rfl, hsel, getSRing_setSRing_same hlen, hdrop]
    show Nat.min (0 + m) 0xFFFF % 2 ^ 16 = Nat.min m 0xFFFF
    rw [Nat.zero_add]
    exact Nat.mod_eq_of_lt (Nat.lt_succ_of_le (Nat.min_le_right _ _))

end Sys2Proof.Machine
end

section
/-! SUPPORT. The statement on RC fields fails in its last clause alone (R406): it speaks of every state, and in one that holds
no sample ring the events of the cycle have no DROP to be counted in. The state after reset has a ring for each of the four
partitions. -/

namespace Sys2Proof.Machine

/-- A package that is READY and holds no sample ring. -/
def noRings : State :=
  { fset hubB fHUB_PLANE_STATUS_READY 1 State.reset with perf := { State.reset.perf with srings := [] } }

/-- Refutes O11: with no sample ring in the state, a read of PERF_SRING_STAT with one event leaves DROP at 0. The first three
clauses hold (rcFieldRead_counts, rcFieldRead_peak, rcFieldRead_sump), and the last one holds where PERF_SRING_SEL names a ring
that the state has (rcFieldRead_sring). -/
theorem not_rcFieldRead : ¬ Obligations.RcFieldRead := by
  intro h
  obtain ⟨-, -, -, hring⟩ := h
  obtain ⟨t, ht, -, hdrop⟩ := hring .mgA 1 noRings (by decide +kernel)
  rw [exec_rcFieldRead] at ht
  obtain rfl := Host.Outcome.next.inj ht
  revert hdrop
  decide +kernel

end Sys2Proof.Machine
end

section
/-! SUPPORT. The record of a fault and the safe state (R384 to R393): the registers that they change, and what stays. -/

namespace Sys2Proof.Machine

theorem RegsKept.refl (l : List Nat) (s : State) : RegsKept l s s := fun _ _ => rfl

theorem RegsKept.trans {l : List Nat} {s t u : State} (h : RegsKept l s t) (k : RegsKept l t u) : RegsKept l s u :=
  fun o ho => (k o ho).trans (h o ho)

theorem RegsKept.of_regs {l : List Nat} {s t : State} (h : t.regs = s.regs) : RegsKept l s t :=
  fun o _ => by rw [regGet, regGet, h]

theorem RegsKept.ite {l : List Nat} {s t u : State} {c : Prop} [Decidable c] (hu : RegsKept l s u) (ht : RegsKept l s t) :
    RegsKept l s (if c then t else u) := by
  split
  · exact ht
  · exact hu

theorem regsKept_regSet {l : List Nat} {o : Nat} (h : o ∈ l) (v : Word) (s : State) : RegsKept l s (regSet o v s) :=
  fun _ ha => regGet_regSet_ne (ne_of_mem_of_not_mem h ha).symm v s

theorem regsKept_fset {l : List Nat} {b : Nat} {f : Fld} (h : b + f.off ∈ l) (v : Nat) (s : State) :
    RegsKept l s (fset b f v s) := regsKept_regSet h _ s

theorem regsKept_evtQuiet {l : List Nat} {b : Nat} {e : Evt} (hb : b + e.bit.off ∈ l) (hc : b + e.cnt.off ∈ l) (s : State) :
    RegsKept l s (evtQuiet b e s) := (regsKept_fset hb 1 s).trans (regsKept_fset hc _ _)

theorem RegsKept.forAll {α : Type} {l : List Nat} {f : α → State → State} (h : ∀ x s, RegsKept l s (f x s)) (xs : List α)
    (s : State) : RegsKept l s (Machine.forAll xs f s) :=
  forAll_keeps (RegsKept l s) f (fun x u hu => hu.trans (h x u)) xs s (.refl l s)

/-- A field of a register that is kept is kept. -/
theorem RegsKept.fget {l : List Nat} {s t : State} (h : RegsKept l s t) {b : Nat} {f : Fld} (hf : b + f.off ∉ l) :
    fget b f t = fget b f s := by
  rw [Machine.fget, Machine.fget, h _ hf]

/-! The fault log. -/

/-- The registers of the fault log: its events and counts, its head and first record, and ERR_N. -/
def logRegs : List Nat :=
  [oBUR_EVENT, oBUR_EVENT_CNT0, oBUR_EVENT_CNT1, oBUR_EVENT_CNT2, oBUR_LOG_HEAD, oBUR_FIRST, oBUR_ERRN].map (burB + ·)

theorem regsKept_sortRec (n : Nat) (q : Word) (s : State) : RegsKept logRegs s (sortRec n q s) := by
  obtain ⟨_, h⟩ := sortRec_keeps (fun _ u => RegsKept logRegs s u)
    (fun q a b u _ _ hu => hu.trans fun o ho =>
      regGet_swapRec_ne (fun e => ho (by rw [e]; decide)) a b q u) n q s (.refl _ s)
  exact h

theorem regsKept_takeRec (tm : BitVec 48 × BitVec 16) (cls react code source parts info0 info1 : Nat) (s : State) :
    RegsKept logRegs s (takeRec tm cls react code source parts info0 info1 s) := by
  have hnew : RegsKept logRegs s (newRec tm cls react code source parts info0 info1 s) := by
    unfold newRec
    dsimp only
    generalize hu : regSet (burB + oBUR_LOG_HEAD) _ _ = u
    have hhead : RegsKept logRegs s u := hu ▸ (RegsKept.of_regs rfl).trans (regsKept_regSet (by decide) _ _)
    exact (hhead.ite (hhead.trans (regsKept_regSet (by decide) _ _))).trans (regsKept_sortRec _ _ _)
  unfold takeRec
  dsimp only
  split
  · refine .of_regs ?_
    unfold repeatRec
    split
    · rfl
    · split <;> rfl
  · exact hnew

theorem classEvt_regs (cls : Nat) : burB + (classEvt cls).bit.off ∈ logRegs ∧ burB + (classEvt cls).cnt.off ∈ logRegs := by
  match cls with
  | 0 => decide
  | 1 => decide
  | 2 => decide
  | _ + 3 => exact (by decide : burB + eBUR_EVENT_FATAL.bit.off ∈ logRegs ∧ burB + eBUR_EVENT_FATAL.cnt.off ∈ logRegs)

/-- A fault record changes no register but those of the log. -/
theorem regsKept_logFaultAt (tm : BitVec 48 × BitVec 16) (code source parts info0 info1 : Nat) (s : State) :
    RegsKept logRegs s (logFaultAt tm code source parts info0 info1 s) := by
  rw [logFaultAt_stages]
  dsimp only
  have hev := (regsKept_takeRec tm (faultClass code source) (faultReact (faultClass code source) code source s) code source
    parts info0 info1 s).trans (regsKept_evtQuiet (classEvt_regs (faultClass code source)).1
      (classEvt_regs (faultClass code source)).2 _)
  generalize evtQuiet burB (classEvt (faultClass code source)) _ = u at hev ⊢
  have hwire := hev.ite (c := code = 0x16)
    (hev.trans (regsKept_evtQuiet (b := burB) (e := eBUR_EVENT_WIRE) (by decide) (by decide) u))
  generalize (if code = 0x16 then evtQuiet burB eBUR_EVENT_WIRE u else u) = v at hwire ⊢
  have hcount : RegsKept logRegs s (countRec source v) := hwire.trans (.of_regs (perfOnly_countRec source v).regs)
  have hirq := RegsKept.ite (c := faultReact (faultClass code source) code source s = 0 ∨
      faultReact (faultClass code source) code source s = 4)
    (hcount.trans (.of_regs (irqOnly_burIrq parts _).regs)) hcount
  exact hirq.ite (hirq.trans (.trans (.of_regs rfl) (regsKept_fset (by decide) 1 _)))

/-- A fatal fault sets its event (R388). -/
theorem fget_fatal_logFaultAt (tm : BitVec 48 × BitVec 16) {code source : Nat} (parts info0 info1 : Nat) (s : State)
    (hcls : faultClass code source = 3) :
    fget burB fBUR_EVENT_FATAL (logFaultAt tm code source parts info0 info1 s) = 1 := by
  rw [logFaultAt_stages, hcls]
  dsimp only
  generalize takeRec tm 3 _ code source parts info0 info1 s = u
  have hev : fget burB fBUR_EVENT_FATAL (evtQuiet burB (classEvt 3) u) = 1 := by
    show fget burB eBUR_EVENT_FATAL.bit (evtQuiet burB eBUR_EVENT_FATAL u) = 1
    rw [evtQuiet, faddSat, fget_fset_apart burB (by decide) (by decide), fget_fset_same burB (by decide)]
    rfl
  generalize evtQuiet burB (classEvt 3) u = u' at hev ⊢
  have hwire : fget burB fBUR_EVENT_FATAL (if code = 0x16 then evtQuiet burB eBUR_EVENT_WIRE u' else u') = 1 := by
    split
    · rw [evtQuiet, faddSat, fget_fset_apart burB (by decide) (by decide), fget_fset_apart burB (by decide) (by decide), hev]
    · exact hev
  generalize (if code = 0x16 then evtQuiet burB eBUR_EVENT_WIRE u' else u') = v at hwire ⊢
  have hregs : ∀ c : Prop, [Decidable c] → (if c then countRec source v else burIrq parts (countRec source v)).regs = v.regs := by
    intro c _
    have hcount := (perfOnly_countRec source v).regs
    split
    · exact hcount
    · exact (irqOnly_burIrq parts _).regs.trans hcount
  rw [if_pos rfl, errNAssert, fget_fset_apart burB (by decide) (by decide)]
  simp only [fget, regGet, hregs] at hwire ⊢
  exact hwire

/-! The safe state. -/

/-- Dropping the launch entries of an instance changes no view that does not look at cores and instances. -/
theorem dropEntries_view {β : Type} {φ : State → β} (hc : ∀ s v, φ { s with cores := v } = φ s)
    (hi : ∀ s v, φ { s with insts := v } = φ s) (id : Nat) (s : State) : φ (dropEntries id s) = φ s := by
  unfold dropEntries
  split
  · rfl
  · exact (hi _ _).trans (forAll_view φ _ (fun _ u => hc u _) _ s)

theorem inReset_setEntry (c d i : Nat) (e : Option LaunchEntry) (s : State) :
    (getCore c (setEntry d i e s)).inReset = (getCore c s).inReset := by
  unfold setEntry
  by_cases h : c = d
  · rw [h, getCore_modCore_same]
  · rw [getCore_modCore_ne h]

theorem inReset_dropEntries (c id : Nat) (s : State) : (getCore c (dropEntries id s)).inReset = (getCore c s).inReset := by
  unfold dropEntries
  split
  · rfl
  · exact forAll_view (fun u => (getCore c u).inReset) _ (fun _ u => inReset_setEntry c _ _ none u) _ s

/-- The planes in the safe state, with its bit (R390). -/
def safePlanes (s : State) : State :=
  fset hubB fHUB_PLANE_STATUS_CTRL 3 (fset hubB fHUB_PLANE_STATUS_DATA 3 (fset hubB fHUB_PLANE_STATUS_MGMT 3
    (fset burB fBUR_STATUS_SAFE 1 s)))

/-- The launch entries of the instances that wait are dropped. -/
def dropArmed (s : State) : State :=
  forAll (s.insts.filter fun i => !i.waiting.isEmpty) (fun i => dropEntries i.id) s

/-- The armed rung change and the timed edge of the Cabinet are discarded. -/
def dropTimed (s : State) : State :=
  { s with drp := { s.drp with prop := none, change := none }, cab := { s.cab with edge := none } }

/-- The safe state by its stages (R390): the planes, the armed work, the notice. -/
theorem safeState_stages {s : State} (h : isSafe s = false) :
    safeState s = sendNotice (fset drpB fDRP_RUNG_ARMED 0 (dropTimed (dropArmed (safePlanes s)))) := by
  rw [safeState, if_neg (by simp [h])]
  rfl

theorem dropArmed_view {β : Type} {φ : State → β} (hd : ∀ id s, φ (dropEntries id s) = φ s) (s : State) :
    φ (dropArmed s) = φ s := by
  unfold dropArmed
  exact forAll_view φ _ (fun (i : Inst) u => hd i.id u) _ s

theorem sendNotice_view {β : Type} {φ : State → β} (h : ∀ s v, φ { s with out := v } = φ s) (s : State) :
    φ (sendNotice s) = φ s := (h _ _).trans (h _ _)

theorem dropTimed_view {β : Type} {φ : State → β} (hdrp : ∀ s v, φ { s with drp := v } = φ s)
    (hcab : ∀ s v, φ { s with cab := v } = φ s) (s : State) : φ (dropTimed s) = φ s :=
  (hcab { s with drp := { s.drp with prop := none, change := none } } _).trans (hdrp s _)

/-- A view that does not look at what the safe state changes is left alone by it. -/
theorem safeState_view {β : Type} {φ : State → β} (hd : ∀ id s, φ (dropEntries id s) = φ s)
    (hregs : ∀ s v, φ { s with regs := v } = φ s) (hdrp : ∀ s v, φ { s with drp := v } = φ s)
    (hcab : ∀ s v, φ { s with cab := v } = φ s) (hout : ∀ s v, φ { s with out := v } = φ s) (s : State) :
    φ (safeState s) = φ s := by
  have hf : ∀ b f v u, φ (fset b f v u) = φ u := fun _ _ _ u => hregs u _
  cases h : isSafe s
  · rw [safeState_stages h, sendNotice_view hout, hf, dropTimed_view hdrp hcab, dropArmed_view hd, safePlanes, hf, hf, hf, hf]
  · rw [safeState, if_pos h]

theorem handoffs_safeState (s : State) : (safeState s).handoffs = s.handoffs :=
  safeState_view (φ := State.handoffs) (dropEntries_view (fun _ _ => rfl) fun _ _ => rfl) (fun _ _ => rfl) (fun _ _ => rfl)
    (fun _ _ => rfl) (fun _ _ => rfl) s

theorem inReset_safeState (c : Nat) (s : State) : (getCore c (safeState s)).inReset = (getCore c s).inReset :=
  safeState_view (φ := fun u => (getCore c u).inReset) (inReset_dropEntries c) (fun _ _ => rfl) (fun _ _ => rfl)
    (fun _ _ => rfl) (fun _ _ => rfl) s

theorem regs_fset_congr {s t : State} (h : s.regs = t.regs) (b : Nat) (f : Fld) (v : Nat) :
    (fset b f v s).regs = (fset b f v t).regs := by
  simp only [fset, regSet, regGet, h]

/-- The registers in the safe state: SAFE is set, every plane is SAFE, and no rung change is armed (R390). -/
theorem regs_safeState {s : State} (h : isSafe s = false) :
    (safeState s).regs = (fset drpB fDRP_RUNG_ARMED 0 (safePlanes s)).regs := by
  rw [safeState_stages h, sendNotice_view (φ := State.regs) fun _ _ => rfl]
  refine regs_fset_congr ?_ _ _ _
  rw [dropTimed_view (φ := State.regs) (fun _ _ => rfl) fun _ _ => rfl,
    dropArmed_view (φ := State.regs) (dropEntries_view (fun _ _ => rfl) fun _ _ => rfl)]

theorem fget_congr {s t : State} (h : s.regs = t.regs) (b : Nat) (f : Fld) : fget b f s = fget b f t := by
  simp only [fget, regGet, h]

theorem isSafe_safeState (s : State) : isSafe (safeState s) = true := by
  cases h : isSafe s
  · have hget := fget_congr (regs_safeState h) burB fBUR_STATUS_SAFE
    rw [safePlanes, fget_fset_ne (by decide), fget_fset_ne (by decide), fget_fset_ne (by decide), fget_fset_ne (by decide),
      fget_fset_same _ (by decide)] at hget
    rw [isSafe, hget]
    rfl
  · rw [safeState, if_pos h, h]

/-- The safe state leaves the other registers of the Bureau alone. -/
theorem fget_bur_safeState {f : Fld} (h : burB + f.off ∉ [drpB + oDRP_RUNG, hubB + oHUB_PLANE_STATUS, burB + oBUR_STATUS])
    (s : State) : fget burB f (safeState s) = fget burB f s := by
  cases hs : isSafe s
  · simp only [List.mem_cons, not_or] at h
    obtain ⟨hdrp, hhub, hbur, -⟩ := h
    rw [fget_congr (regs_safeState hs), safePlanes, fget_fset_ne hdrp, fget_fset_ne hhub, fget_fset_ne hhub, fget_fset_ne hhub,
      fget_fset_ne hbur]
  · rw [safeState, if_pos hs]

/-- MGMT is not PAUSED in the safe state, unless the package was safe before. -/
theorem mgmtPlane_safeState {s : State} (h : mgmtPlane s ≠ 2) : mgmtPlane (safeState s) ≠ 2 := by
  cases hs : isSafe s
  · have hget : mgmtPlane (safeState s) = 3 := by
      rw [mgmtPlane, fget_congr (regs_safeState hs), safePlanes, fget_fset_ne (by decide), fget_fset_apart _ (by decide) (by decide),
        fget_fset_apart _ (by decide) (by decide), fget_fset_same _ (by decide)]
      rfl
    rw [hget]
    decide
  · rwa [safeState, if_pos hs]

end Sys2Proof.Machine
end

section
/-! SUPPORT. Hand-offs (R31 to R37): what a send, a return of credits and the records that wait at a die collector change. -/

namespace Sys2Proof.Machine

theorem quiet_handoffs : Quiet State.handoffs := ⟨fun _ _ => rfl, fun _ _ => rfl, fun _ _ => rfl, fun _ _ => rfl,
  fun _ _ => rfl, fun _ _ => rfl, fun _ _ => rfl⟩

/-! A fatal fault whose reaction is the safe state (R388). -/

/-- Without stops of partitions, the reaction to a fatal fault is the safe state. -/
theorem faultReact_fatal {s : State} (h : fget burB fBUR_CFG_STOP_EN s = 0) (code source : Nat) :
    faultReact 3 code source s = 4 := by
  rw [faultReact, if_neg (by simp [h])]
  all_goals simp

theorem raiseFault_fatal {code source : Nat} {s : State} (hcls : faultClass code source = 3)
    (hstop : fget burB fBUR_CFG_STOP_EN s = 0) (parts info0 info1 : Nat) :
    raiseFault code source parts info0 info1 s = safeState (logFault code source parts info0 info1 s) := by
  rw [raiseFault, raiseFaultAt, hcls, faultReact_fatal hstop, ite_self]
  rfl

theorem fget_fatal_raiseFault {code source : Nat} {s : State} (hcls : faultClass code source = 3)
    (hstop : fget burB fBUR_CFG_STOP_EN s = 0) (parts info0 info1 : Nat) :
    fget burB fBUR_EVENT_FATAL (raiseFault code source parts info0 info1 s) = 1 := by
  rw [raiseFault_fatal hcls hstop, fget_bur_safeState (by decide)]
  exact fget_fatal_logFaultAt _ parts info0 info1 s hcls

/-- Such a fault leaves every hand-off alone that is not in reset. -/
theorem getHo_raiseFault {k code source : Nat} {s : State} (hk : hoInReset k s = false) (hcls : faultClass code source = 3)
    (hstop : fget burB fBUR_CFG_STOP_EN s = 0) (parts info0 info1 : Nat) :
    getHo k (raiseFault code source parts info0 info1 s) = getHo k s := by
  rw [raiseFault_fatal hcls hstop]
  have hres : hoInReset k (safeState (logFault code source parts info0 info1 s)) = false := by
    have hcore : ∀ c, (getCore c (safeState (logFault code source parts info0 info1 s))).inReset = (getCore c s).inReset :=
      fun c => by rw [inReset_safeState, (quiet_getCore c).logFault]
    have hmgmt : mgmtPlane s ≠ 2 → mgmtPlane (safeState (logFault code source parts info0 info1 s)) ≠ 2 := fun h =>
      mgmtPlane_safeState (by
        rwa [mgmtPlane, logFault, RegsKept.fget (regsKept_logFaultAt _ code source parts info0 info1 s) (by decide)])
    simp only [hoInReset, hcore, Bool.or_eq_false_iff, Bool.and_eq_false_iff, beq_eq_false_iff_ne] at hk ⊢
    exact ⟨hk.1, hk.2.imp_right hmgmt⟩
  rw [getHo, getHo, hk, hres, handoffs_safeState, quiet_handoffs.logFault]

/-! The table of hand-offs. -/

theorem hoInReset_of_inReset {k : Nat} {s : State} (h : (getHo k s).inReset = false) : hoInReset k s = false := by
  by_contra hk
  rw [getHo, if_pos (by simpa using hk)] at h
  cases h

theorem hoInReset_of_credits {k : Nat} {s : State} (h : (getHo k s).credits ≠ 0) : hoInReset k s = false := by
  by_contra hk
  rw [getHo, if_pos (by simpa using hk)] at h
  exact h rfl

theorem getHo_setHo_same {k : Nat} {s : State} (h : hoInReset k s = false) (x : Handoff) : getHo k (setHo k x s) = x := by
  rw [getHo, if_neg (show ¬ hoInReset k (setHo k x s) = true by rw [show hoInReset k (setHo k x s) = false from h]; decide)]
  exact tget_tset_same _ _ _ _

theorem getHo_setHo_ne {j k : Nat} (h : j ≠ k) (x : Handoff) (s : State) : getHo j (setHo k x s) = getHo j s := by
  show (if hoInReset j s then _ else tget hoIdle (tset hoIdle k x s.handoffs) j) = _
  rw [tget_tset_ne _ h]
  rfl

theorem hoSend_of_credits {k : Nat} {s : State} (h : (getHo k s).credits ≠ 0) (entry : List Byte) : hoSend k entry s =
    setHo k { getHo k s with credits := (getHo k s).credits - 1, entries := (getHo k s).entries ++ [entry] } s := by
  rw [hoSend]
  exact if_neg h

/-! Records that wait at a die collector (R35). -/

/-- The records that wait at the collector of a die, oldest first. -/
def waitingRecs (d : Nat) (s : State) : List (Nat × List Byte) := s.bur.held.filter fun e => e.1 == d

/-- A record at the collector of a die goes out for a credit, or waits on. -/
def sendOneHeld (d : Nat) (e : Nat × List Byte) (s : State) : State :=
  if hoCan (6656 + d) s then hoSend (6656 + d) e.2 { s with bur := { s.bur with held := s.bur.held.erase e } } else s

theorem sendHeld_eq (d : Nat) (s : State) : sendHeld d s = forAll (waitingRecs d s) (sendOneHeld d) s := rfl

/-- Without a credit no record goes out. -/
theorem forAll_sendOneHeld_stuck {d : Nat} {s : State} (h : (getHo (6656 + d) s).credits = 0) :
    ∀ l : List (Nat × List Byte), forAll l (sendOneHeld d) s = s
  | [] => rfl
  | e :: l => by
    have hs : sendOneHeld d e s = s := if_neg (by simp [hoCan, h])
    rw [forAll_cons, hs, forAll_sendOneHeld_stuck h l]

/-- The record that goes out is the oldest one that waits. -/
theorem waitingRecs_erase {d : Nat} {e : Nat × List Byte} {l : List (Nat × List Byte)} {s : State}
    (h : waitingRecs d s = e :: l) : (s.bur.held.erase e).filter (fun x => x.1 == d) = l := by
  rw [← List.erase_filter, show s.bur.held.filter (fun x => x.1 == d) = e :: l from h, List.erase_cons_head]

theorem sendOneHeld_of_credits {d : Nat} {s : State} (hc : (getHo (6656 + d) s).credits ≠ 0) (e : Nat × List Byte) :
    sendOneHeld d e s = setHo (6656 + d) { getHo (6656 + d) s with
      credits := (getHo (6656 + d) s).credits - 1, entries := (getHo (6656 + d) s).entries ++ [e.2] }
      { s with bur := { s.bur with held := s.bur.held.erase e } } := by
  rw [sendOneHeld, if_pos (by simpa [hoCan] using hc)]
  exact hoSend_of_credits (s := { s with bur := { s.bur with held := s.bur.held.erase e } }) hc e.2

/-- The second state differs from the first in its hand-offs and the records that wait at die collectors alone. -/
def HeldOnly (s t : State) : Prop := t = { s with handoffs := t.handoffs, bur := { s.bur with held := t.bur.held } }

theorem HeldOnly.trans {s t u : State} (h : HeldOnly s t) (k : HeldOnly t u) : HeldOnly s u := by
  unfold HeldOnly at *; rw [k, h]

/-- As many of the records that wait go out as there are credits, oldest first (R31, R35). -/
theorem forAll_sendOneHeld {d : Nat} (l : List (Nat × List Byte)) (s : State) (x : Handoff) (hl : waitingRecs d s = l)
    (hk : hoInReset (6656 + d) s = false) (hx : getHo (6656 + d) s = x) :
    getHo (6656 + d) (forAll l (sendOneHeld d) s) = { x with
      credits := x.credits - Nat.min l.length x.credits,
      entries := x.entries ++ (l.map Prod.snd).take (Nat.min l.length x.credits) } ∧
    waitingRecs d (forAll l (sendOneHeld d) s) = l.drop (Nat.min l.length x.credits) ∧
    HeldOnly s (forAll l (sendOneHeld d) s) := by
  induction l generalizing s x with
  | nil => exact ⟨by simp [forAll, hx], hl, rfl⟩
  | cons e l ih =>
    by_cases hc : x.credits = 0
    · rw [forAll_sendOneHeld_stuck (by rw [hx, hc]), hc, show Nat.min _ 0 = 0 from Nat.min_zero _, hx, hl]
      exact ⟨by cases x; subst hc; simp, rfl, rfl⟩
    · rw [forAll_cons, sendOneHeld_of_credits (by rwa [hx]), hx]
      generalize hu : setHo (6656 + d) _ _ = u
      have hgu : getHo (6656 + d) u = { x with credits := x.credits - 1, entries := x.entries ++ [e.2] } := by
        rw [← hu]; exact getHo_setHo_same (s := { s with bur := _ }) hk _
      obtain ⟨hget, hwait, hframe⟩ := ih u _ (by rw [← hu]; exact waitingRecs_erase hl) (by rw [← hu]; exact hk) hgu
      have hm : Nat.min (e :: l).length x.credits = Nat.min l.length (x.credits - 1) + 1 := by
        show min (l.length + 1) x.credits = min l.length (x.credits - 1) + 1
        omega
      rw [hget, hwait, hm]
      refine ⟨by simp [Nat.sub_sub, Nat.add_comm 1], rfl, .trans ?_ hframe⟩
      rw [← hu]; rfl

/-! Returned credits (R31 to R34). -/

/-- The hand-off after n entries have been taken out and their credits have come back. -/
def returned (h : HandoffId) (n : Nat) (s : State) : State :=
  let x := getHo (hoKey h) s
  setHo (hoKey h) { x with credits := Nat.min (hoDepth (hoKey h)) (x.credits + n), entries := x.entries.drop n } s

theorem getHo_returned {h : HandoffId} {s : State} (hk : hoInReset (hoKey h) s = false) (n : Nat) :
    getHo (hoKey h) (returned h n s) = { getHo (hoKey h) s with
      credits := Nat.min (hoDepth (hoKey h)) ((getHo (hoKey h) s).credits + n),
      entries := (getHo (hoKey h) s).entries.drop n } := getHo_setHo_same hk _

/-- While its side is in reset, or ECLK stands, a hand-off takes no credit back (R36, R183). -/
theorem creditReturn_idle {h : HandoffId} {s : State}
    (hidle : (getHo (hoKey h) s).inReset = true ∨ hoStands h s = true) (n : Nat) : creditReturn h n s = s := by
  rw [creditReturn]
  exact if_pos (by simpa using hidle)

theorem creditReturn_of_dieBureau {d : Fin 4} {n : Nat} {s : State} (hr : (getHo (hoKey (.dieBureau d)) s).inReset = false)
    (hs : hoStands (.dieBureau d) s = false) : creditReturn (.dieBureau d) n s =
      if (getHo (hoKey (.dieBureau d)) s).credits + n ≤ hoDepth (hoKey (.dieBureau d)) then
        sendHeld d.val (returned (.dieBureau d) n s) else bureauSelf none (returned (.dieBureau d) n s) := by
  rw [creditReturn]
  exact if_neg (by simp [hr, hs])

theorem creditReturn_of_other {h : HandoffId} {n : Nat} {s : State} (hh : ∀ d, h ≠ .dieBureau d)
    (hr : (getHo (hoKey h) s).inReset = false) (hs : hoStands h s = false) : creditReturn h n s =
      if (getHo (hoKey h) s).credits + n ≤ hoDepth (hoKey h) then returned h n s
      else unitFault 0x14 (hoConsumer h) (returned h n s) := by
  rw [creditReturn]
  refine (if_neg (by simp [hr, hs])).trans ?_
  cases h with
  | dieBureau d => exact absurd rfl (hh d)
  | _ => rfl

/-- The key of a die collector belongs to no other hand-off. -/
theorem hoKey_ne_collector {h : HandoffId} (hh : ∀ d, h ≠ .dieBureau d) (d : Nat) : hoKey h ≠ 6656 + d % 4 := by
  cases h with
  | dieBureau d => exact absurd rfl (hh d)
  | qmCore c => simp only [hoKey]; omega
  | engStore c e => simp only [hoKey]; omega
  | sxNet c => simp only [hoKey]; omega
  | netPort p v => simp only [hoKey]; omega
  | sxStack c st => simp only [hoKey]; omega
  | sensorLerfen => simp only [hoKey]; omega

/-- Beyond the depth the consumer has a fatal fault, recorded at once where its die collector is free (R34, R391). -/
theorem creditReturn_overflow {h : HandoffId} {n : Nat} {s : State} (hr : (getHo (hoKey h) s).inReset = false)
    (hs : hoStands h s = false) (hn : hoDepth (hoKey h) < (getHo (hoKey h) s).credits + n)
    (hfree : ∀ d, collectorDie (hoConsumer h) = some d → collectorFree (d % 4) s = true) :
    ∃ code source parts, faultClass code source = 3 ∧
      creditReturn h n s = raiseFault code source parts 0 0 (returned h n s) := by
  by_cases hh : ∀ d, h ≠ .dieBureau d
  · rw [creditReturn_of_other hh hr hs, if_neg (by omega), unitFault, collected]
    refine ⟨0x14, hoConsumer h, sourceParts (hoConsumer h) (returned h n s), by simp [faultClass], ?_⟩
    cases hd : collectorDie (hoConsumer h) with
    | none => rfl
    | some d =>
      refine if_pos ((?_ : collectorFree (d % 4) (returned h n s) = collectorFree (d % 4) s).trans (hfree d hd))
      rw [collectorFree, collectorFree, hoCan, hoCan, returned, getHo_setHo_ne (hoKey_ne_collector hh d).symm]
      rfl
  · obtain ⟨d, rfl⟩ := not_forall_not.1 hh
    rw [creditReturn_of_dieBureau hr hs, if_neg (by omega)]
    exact ⟨0x17, 0x6002, _, by simp [faultClass], rfl⟩

/-- Settles O13: each clause is one case of hoSend and creditReturn; the records that wait go out by induction on their
list. -/
theorem handoffCredits : Obligations.HandoffCredits := by
  intro h entry n s k x Only
  have hsend : exec (.handoffEntrySend h entry) s = .next (if hoStands h s then s else hoSend k entry s) := rfl
  have hret : exec (.creditReturn h n) s = .next (creditReturn h n s) := rfl
  have honly : ∀ y, Only (setHo k y s) := fun y => ⟨rfl, fun j hj => getHo_setHo_ne hj y s⟩
  refine ⟨fun hst => ⟨⟨_, hsend, if_pos hst⟩, _, hret, creditReturn_idle (.inr hst) n⟩, fun hc => ⟨_, hsend, ?_⟩,
    fun hr => ⟨_, hret, creditReturn_idle (.inl hr) n⟩, fun hst => ⟨fun hc => ?_, fun hr hn => ?_, fun hr hn hstop hfree => ?_⟩⟩
  · exact ite_view (φ := id) rfl (if_pos hc)
  · rw [hst, if_neg Bool.false_ne_true, hoSend_of_credits hc] at hsend
    exact ⟨_, hsend, honly _, getHo_setHo_same (hoInReset_of_credits hc) _⟩
  · have hk := hoInReset_of_inReset hr
    have hget : getHo k (returned h n s) = { x with credits := x.credits + n, entries := x.entries.drop n } := by
      rw [getHo_returned hk, show Nat.min _ _ = _ from Nat.min_eq_right hn]
    refine ⟨fun hheld => ?_, ?_⟩
    · have ht : creditReturn h n s = returned h n s := by
        by_cases hh : ∀ d, h ≠ .dieBureau d
        · rw [creditReturn_of_other hh hr hst, if_pos hn]
        · obtain ⟨d, rfl⟩ := not_forall_not.1 hh
          have hnone : waitingRecs d.val (returned (.dieBureau d) n s) = [] :=
            List.filter_eq_nil_iff.2 fun e he hd => hheld e he (congrArg (6656 + ·) (eq_of_beq hd)).symm
          rw [creditReturn_of_dieBureau hr hst, if_pos hn, sendHeld_eq, hnone]
          rfl
      rw [ht] at hret
      exact ⟨_, hret, honly _, hget⟩
    · rintro d rfl
      rw [creditReturn_of_dieBureau hr hst, if_pos hn, sendHeld_eq] at hret
      obtain ⟨hout, hwait, hframe⟩ := forAll_sendOneHeld _ (returned (.dieBureau d) n s) _ rfl hk hget
      refine ⟨_, hret, ?_, ?_, ?_⟩
      · rw [List.length_map]; exact hout
      · rw [List.length_map, ← List.map_drop]; exact congrArg (List.map Prod.snd) hwait
      · exact HeldOnly.trans (t := returned (.dieBureau d) n s) rfl hframe
  · obtain ⟨code, source, parts, hcls, ht⟩ := creditReturn_overflow hr hst hn hfree
    have hstop' : fget burB fBUR_CFG_STOP_EN (returned h n s) = 0 := hstop
    rw [ht] at hret
    refine ⟨_, hret, ?_, fget_fatal_raiseFault hcls hstop' parts 0 0, ?_⟩
    · have hk := hoInReset_of_inReset hr
      rw [getHo_raiseFault (s := returned h n s) hk hcls hstop', getHo_returned hk]
      exact Nat.min_eq_left hn.le
    · rw [raiseFault_fatal hcls hstop', isSafe_safeState]

end Sys2Proof.Machine
end

section
/-! SUPPORT. The queue manager: the registers that a read of memory without error marks changes (R145), and what a queue that
stalls leaves alone (R109). -/

namespace Sys2Proof.Machine

theorem RegsKept.mono {l m : List Nat} {s t : State} (h : RegsKept l s t) (hl : ∀ o ∈ l, o ∈ m) : RegsKept m s t :=
  fun o ho => h o fun hm => ho (hl o hm)

theorem regsKept_evt {l : List Nat} {b : Nat} {e : Evt} (hb : b + e.bit.off ∈ l) (hc : b + e.cnt.off ∈ l) (s : State) :
    RegsKept l s (evt b e s) := fun _ ho =>
  regGet_evt_ne (ne_of_mem_of_not_mem hb ho).symm (ne_of_mem_of_not_mem hc ho).symm s

/-! Reads of memory without error marks. -/

theorem memB_granules_mem (st : Nat) (h : st < 20) : memB st + oMEM_GRANULES ∈ granRegs :=
  List.mem_map.2 ⟨st, List.mem_range.2 h, rfl⟩

theorem lt_of_mem_stacksIn {a n st : Nat} (h : st ∈ stacksIn a n) : st < 20 := by
  unfold stacksIn at h
  split at h
  · cases h
  · exact List.mem_range.1 (List.mem_of_mem_filter h)

theorem noteChannels_view {β : Type} {φ : State → β} (h : ∀ s v, φ { s with chans := v } = φ s) (a n : Nat) (s : State) :
    φ (noteChannels a n s) = φ s :=
  forAll_view φ _ (fun _ s => forAll_view φ _ (fun _ s => h s _) _ s) _ s

theorem regsKept_countEvt (l : List Nat) (b : CtrBlk) (code n : Nat) (s : State) : RegsKept l s (countEvt b code n s) :=
  .of_regs (perfOnly_countEvt b code n s).regs

/-- What each element of a list keeps, the whole list keeps. -/
theorem forAll_keeps_mem {α : Type} (P : State → Prop) (f : α → State → State) : ∀ (l : List α) (s : State),
    (∀ x ∈ l, ∀ s, P s → P (f x s)) → P s → P (forAll l f s)
  | [], _, _, hs => hs
  | x :: l, s, h, hs => forAll_keeps_mem P f l (f x s) (fun y hy => h y (.tail _ hy)) (h x (.head _) s hs)

/-- An access changes no register but the counts of granules (R145). -/
theorem regsKept_noteAccess (w : Bool) (a n : Nat) (s : State) : RegsKept granRegs s (noteAccess w a n s) := by
  unfold noteAccess
  dsimp only
  refine .trans ?_ (.forAll (fun k u => regsKept_countEvt _ _ _ _ u) _ _)
  refine forAll_keeps_mem (RegsKept granRegs s) _ _ _ (fun st hst u hu => ?_) ?_
  · have hlt := lt_of_mem_stacksIn (List.mem_of_mem_filter hst)
    exact hu.trans ((regsKept_regSet (memB_granules_mem st hlt) _ u).trans (regsKept_countEvt _ _ _ _ _))
  · exact .of_regs (noteChannels_view (φ := State.regs) (fun _ _ => rfl) a n s)

theorem countEvt_view {β : Type} {φ : State → β} (h : ∀ s v, φ { s with perf := v } = φ s) (b : CtrBlk) (code n : Nat)
    (s : State) : φ (countEvt b code n s) = φ s := by
  rw [perfOnly_countEvt b code n s]
  exact h s _

theorem noteAccess_view {β : Type} {φ : State → β} (hc : ∀ s v, φ { s with chans := v } = φ s)
    (hr : ∀ s v, φ { s with regs := v } = φ s) (hp : ∀ s v, φ { s with perf := v } = φ s) (w : Bool) (a n : Nat) (s : State) :
    φ (noteAccess w a n s) = φ s := by
  have hset : ∀ off v u, φ (regSet off v u) = φ u := fun _ _ u => hr u _
  unfold noteAccess
  dsimp only
  rw [forAll_view φ _ fun _ u => countEvt_view hp _ _ _ u,
    forAll_view φ _ fun _ u => (countEvt_view hp _ _ _ _).trans (hset _ _ u), noteChannels_view hc]

theorem ecc_noteAccess (w : Bool) (a n : Nat) (s : State) : (noteAccess w a n s).ecc = s.ecc :=
  noteAccess_view (φ := State.ecc) (fun _ _ => rfl) (fun _ _ => rfl) (fun _ _ => rfl) w a n s

theorem noteMarks_nil (s : State) : noteMarks [] s = s := by
  rw [noteMarks, forAll, List.foldl_nil]

theorem marksIn_of_ecc_nil {s : State} (h : s.ecc = []) (a n : Nat) : marksIn a n s = [] := by
  rw [marksIn, h, List.filter_nil]

/-- Without error marks a read is noted, and nothing else. -/
theorem readAll_of_ecc_nil {s : State} (h : s.ecc = []) (a n : Nat) : (readAll a n s).1 = noteAccess false a n s := by
  rw [readAll, marksIn_of_ecc_nil h, noteMarks_nil]

/-- The state before it and an access without error marks. -/
def CleanGran (s t : State) : Prop := t.ecc = [] ∧ RegsKept granRegs s t

theorem cleanGran_readAll {s t : State} (h : CleanGran s t) (a n : Nat) : CleanGran s (readAll a n t).1 := by
  rw [readAll_of_ecc_nil h.1]
  exact ⟨(ecc_noteAccess false a n t).trans h.1, h.2.trans (regsKept_noteAccess false a n t)⟩

/-! A queue that stalls. -/

theorem hoLeave_view {β : Type} {φ : State → β} (h : ∀ s v, φ { s with handoffs := v } = φ s) (k : Nat) (b : List Byte)
    (s : State) : φ (hoLeave k b s) = φ s := ite_view (h s _) rfl

theorem leaveIntake_view {β : Type} {φ : State → β} (h : ∀ s v, φ { s with handoffs := v } = φ s) (q : Queue) (b : List Byte)
    (s : State) : φ (leaveIntake q b s) = φ s := by
  unfold leaveIntake
  split
  · exact forAll_view φ _ (fun k u => hoLeave_view h k b u) _ s
  · exact hoLeave_view h _ b s
  · exact hoLeave_view h _ b s
  · rfl

/-- The commands of a queue that have not started end. -/
theorem flushCmds_view {β : Type} {φ : State → β} (hr : ∀ a n s, φ (readAll a n s).1 = φ s)
    (hh : ∀ s v, φ { s with handoffs := v } = φ s) (hw : ∀ s v, φ { s with waiters := v } = φ s) {qid : Nat}
    (hq : ∀ x s, φ (setQueue qid x s) = φ s) (st : BitVec 8) (rank : Nat) (s : State) : φ (flushCmds qid st rank s) = φ s := by
  unfold flushCmds
  dsimp only
  refine ite_view ?_ (hw s _)
  refine (hq _ _).trans ((forAll_view φ _ (fun (c : QCmd) u => leaveIntake_view hh _ c.bytes u) _ _).trans ?_)
  exact ite_view ((forAll_view φ _ (fun i u => hr _ _ u) _ _).trans (hw s _)) (hw s _)

/-- A command that ends or leaves its intake, and a read without error marks, change no register but the counts of granules. -/
theorem cleanGran_flushCmds {s : State} (h : s.ecc = []) (qid : Nat) (st : BitVec 8) (rank : Nat) :
    CleanGran s (flushCmds qid st rank s) := by
  have hs : ∀ v, CleanGran s { s with waiters := v } := fun _ => ⟨h, .refl _ s⟩
  unfold flushCmds
  dsimp only
  split
  · have hread : CleanGran s (if ((getQueue qid s).st == .active || (getQueue qid s).st == .draining) = true then
        forAll (unfetchedIdx (getQueue qid s) { s with waiters := s.waiters.filter fun w => w.isCore || !(w.id == qid) })
          (fun i u => (readAll (ringAddr (getQueue qid s) i) 64 u).1)
          { s with waiters := s.waiters.filter fun w => w.isCore || !(w.id == qid) }
        else { s with waiters := s.waiters.filter fun w => w.isCore || !(w.id == qid) }) := by
      split
      · exact forAll_keeps (CleanGran s) _ (fun i u hu => cleanGran_readAll hu _ 64) _ _ (hs _)
      · exact hs _
    exact forAll_keeps (CleanGran s) _ (fun c u hu => leaveIntake_view (φ := CleanGran s) (fun _ _ => rfl) _ c.bytes u ▸ hu) _ _ hread
  · exact hs _

/-- A queue that stalls is STALLED, and QM_STALL names it (R109). -/
theorem stallQueue_spec {qid : Nat} (h : qid < 2 ^ 20) (s : State) :
    (getQueue qid (stallQueue qid s)).st = .stalled ∧ (∀ j, j ≠ qid → getQueue j (stallQueue qid s) = getQueue j s) ∧
    fget qmB fQM_STALL_STALL (stallQueue qid s) = 1 ∧ fget qmB fQM_STALL_LAST_QID (stallQueue qid s) = qid ∧
    (stallQueue qid s).mem = s.mem ∧
    (s.ecc = [] → RegsKept ((qmB + oQM_STALL) :: (qmB + oQM_STALL_CNT) :: granRegs) s (stallQueue qid s)) := by
  unfold stallQueue stallQueueBy
  dsimp only
  generalize hu : flushCmds qid stSTALLED (commRank qid s) s = u
  have hothers : ∀ j, j ≠ qid → getQueue j u = getQueue j s := fun j hj => by
    rw [← hu]
    exact flushCmds_view (φ := getQueue j) (fun a n v => (quiet_getQueue j).readAll a n v) (fun _ _ => rfl) (fun _ _ => rfl)
      (fun x v => getQueue_setQueue_ne hj x v) _ _ s
  have hmem : u.mem = s.mem := by
    rw [← hu]
    exact flushCmds_view (φ := State.mem) (fun a n v => quiet_mem.readAll a n v) (fun _ _ => rfl) (fun _ _ => rfl)
      (fun x v => setQueue_mem qid x v) _ _ s
  refine ⟨?_, fun j hj => ?_, ?_, ?_, ?_, fun hecc => ?_⟩
  · rw [(quiet_getQueue qid).fset, (quiet_getQueue qid).evt, getQueue_modQueue_same]
  · rw [(quiet_getQueue j).fset, (quiet_getQueue j).evt, ← hothers j hj]
    exact getQueue_setQueue_ne hj _ u
  · rw [fget_fset_apart qmB (by decide) (by decide)]
    exact fget_evt_bit qmB (e := eQM_STALL_STALL) (by decide) (by decide) (by decide) _
  · rw [fget_fset_same qmB (by decide)]
    exact Nat.mod_eq_of_lt h
  · rw [quiet_mem.fset, quiet_mem.evt, ← hmem]
    rfl
  · have hgran : RegsKept ((qmB + oQM_STALL) :: (qmB + oQM_STALL_CNT) :: granRegs) s u := by
      rw [← hu]
      exact (cleanGran_flushCmds hecc qid stSTALLED _).2.mono fun o ho => .tail _ (.tail _ ho)
    refine (hgran.trans (.of_regs (setQueue_regs qid _ u))).trans (.trans (regsKept_evt ?_ ?_ _) (regsKept_fset ?_ _ _))
    · exact .head _
    · exact .tail _ (.head _)
    · exact .head _

/-! Doorbells (R107 to R109). -/

theorem qid_lt (word : Word) : bitsOf word.toNat 31 12 < 2 ^ 20 := Nat.mod_lt _ (by decide)

/-- A count that saturates has risen, up to its largest value (R11). -/
theorem fget_faddSat_same (b : Nat) {f : Fld} (hf : f.Ok) (v : Nat) (s : State) :
    fget b f (faddSat b f v s) = Nat.min (fget b f s + v) (2 ^ (f.hi + 1 - f.lo) - 1) := by
  have hpos := Nat.two_pow_pos (f.hi + 1 - f.lo)
  have hmin : Nat.min (fget b f s + v) (2 ^ (f.hi + 1 - f.lo) - 1) ≤ 2 ^ (f.hi + 1 - f.lo) - 1 := Nat.min_le_right _ _
  rw [faddSat, fget_fset_same b hf, Nat.mod_eq_of_lt (by omega)]

/-- A word that is dropped is counted in a field of QM_DROP, and nothing else happens (R107, R108). -/
theorem bellDropped_spec {f : Fld} (hf : f.Ok) (hw : f.hi + 1 - f.lo = 16) (ho : f.off = oQM_DROP) (s : State) :
    fget qmB f (faddSat qmB f 1 s) = Nat.min (fget qmB f s + 1) 0xFFFF ∧ RegsKept [qmB + oQM_DROP] s (faddSat qmB f 1 s) ∧
    faddSat qmB f 1 s = { s with regs := (faddSat qmB f 1 s).regs } := by
  refine ⟨?_, regsKept_fset (by rw [ho]; exact .head _) _ s, rfl⟩
  rw [fget_faddSat_same qmB hf, hw]
  rfl

/-- A doorbell that can be served and is not held counts and takes effect (R107, R396). -/
theorem exec_doorbell {r : Requester} {w : Fin 4} {s : State} (hr : bellReach r w.val s = true) (hs : serving s = true)
    (hc : ctrlPlane s ≠ 2) (word : Word) : ∃ v, exec (.doorbell r w word) s = .next (ringBell w.val word { s with perf := v }) := by
  refine ⟨(countEvt ctrQm 0x60 1 s).perf, ?_⟩
  have ht : exec (.doorbell r w word) s = .next (if bellReach r w.val s then doorbellOp r w word s else countDenied r s) := rfl
  rw [ht, if_pos hr, doorbellOp, hs, if_neg hc, perfOnly_countEvt ctrQm 0x60 1 s]
  rfl

/-- How far a doorbell word lies ahead of an index, in its low 12 bits (R107). -/
def bellDelta (word : Word) (i : BitVec 32) : Nat := (BitVec.ofNat 12 word.toNat - i.setWidth 12).toNat

/-- The index that a doorbell word names. -/
def bellIndex (word : Word) (i : BitVec 32) : BitVec 32 := i + BitVec.ofNat 32 (bellDelta word i)

section
variable {w : Nat} {word : Word} {s : State}

theorem ringBell_of_ne (h : partOfQid s.cab.cur (bitsOf word.toNat 31 12) ≠ some w) :
    ringBell w word s = faddSat qmB fQM_DROP_DENIED_CNT 1 s := if_pos h

variable (h : partOfQid s.cab.cur (bitsOf word.toNat 31 12) = some w)
include h

theorem ringBell_of_inactive (hq : (getQueue (bitsOf word.toNat 31 12) s).st ≠ .active) :
    ringBell w word s = faddSat qmB fQM_DROP_INACTIVE_CNT 1 s := (if_neg (not_not.2 h)).trans (if_pos hq)

variable (hq : (getQueue (bitsOf word.toNat 31 12) s).st = .active)
include hq

theorem ringBell_of_completion (hk : (getQueue (bitsOf word.toNat 31 12) s).kind = 2)
    (hd : bellDelta word (getQueue (bitsOf word.toNat 31 12) s).ci ≤
      ((getQueue (bitsOf word.toNat 31 12) s).pi - (getQueue (bitsOf word.toNat 31 12) s).ci).toNat) :
    ringBell w word s = setQueue (bitsOf word.toNat 31 12) { getQueue (bitsOf word.toNat 31 12) s with
      ci := bellIndex word (getQueue (bitsOf word.toNat 31 12) s).ci } s :=
  (if_neg (not_not.2 h)).trans ((if_neg (not_not.2 hq)).trans ((if_pos hk).trans (if_neg (Nat.not_lt.2 hd))))

variable (hk : (getQueue (bitsOf word.toNat 31 12) s).kind ≠ 2)
include hk

theorem ringBell_of_command : ringBell w word s =
    if bellDelta word (getQueue (bitsOf word.toNat 31 12) s).pi = 0 then s
    else if depth (getQueue (bitsOf word.toNat 31 12) s) < (bellIndex word (getQueue (bitsOf word.toNat 31 12) s).pi -
      (getQueue (bitsOf word.toNat 31 12) s).ci).toNat then stallQueue (bitsOf word.toNat 31 12) s
    else setQueue (bitsOf word.toNat 31 12) { getQueue (bitsOf word.toNat 31 12) s with
      pi := bellIndex word (getQueue (bitsOf word.toNat 31 12) s).pi } s :=
  (if_neg (not_not.2 h)).trans ((if_neg (not_not.2 hq)).trans (if_neg hk))

theorem ringBell_of_overflow (h0 : bellDelta word (getQueue (bitsOf word.toNat 31 12) s).pi ≠ 0)
    (hd : depth (getQueue (bitsOf word.toNat 31 12) s) < (bellIndex word (getQueue (bitsOf word.toNat 31 12) s).pi -
      (getQueue (bitsOf word.toNat 31 12) s).ci).toNat) :
    ringBell w word s = stallQueue (bitsOf word.toNat 31 12) s :=
  (ringBell_of_command h hq hk).trans ((if_neg h0).trans (if_pos hd))

/-- PI advances; a word that names the index that PI has changes nothing. -/
theorem ringBell_of_room (hd : (bellIndex word (getQueue (bitsOf word.toNat 31 12) s).pi -
      (getQueue (bitsOf word.toNat 31 12) s).ci).toNat ≤ depth (getQueue (bitsOf word.toNat 31 12) s)) :
    getQueue (bitsOf word.toNat 31 12) (ringBell w word s) = { getQueue (bitsOf word.toNat 31 12) s with
      pi := bellIndex word (getQueue (bitsOf word.toNat 31 12) s).pi } ∧
    (∀ j, j ≠ bitsOf word.toNat 31 12 → getQueue j (ringBell w word s) = getQueue j s) ∧
    ringBell w word s = { s with queues := (ringBell w word s).queues } := by
  rw [ringBell_of_command h hq hk, if_neg (Nat.not_lt.2 hd)]
  split
  · next h0 => exact ⟨by simp [bellIndex, h0], fun _ _ => rfl, rfl⟩
  · exact ⟨getQueue_setQueue_same _ _ _, fun j hj => getQueue_setQueue_ne hj _ _, rfl⟩

end

/-- Settles O26: each clause is one case of ringBell; the word counts before it takes effect, which only the counters show. -/
theorem doorbells : Obligations.Doorbells := by
  intro r w word s hr hs qid low q Others
  have hframe : ∀ v, Others { s with perf := v } := fun _ _ _ => rfl
  refine ⟨fun hc => ?_, fun hc hp => ?_, fun hc hp => ⟨fun hq => ?_, fun hq hk => ⟨fun hd => ?_, fun h0 hd => ?_⟩, fun hq hk hd => ?_⟩⟩
  · refine ⟨_, rfl, ?_⟩
    rw [if_pos hr, doorbellOp, hs, if_pos hc]
    rfl
  all_goals obtain ⟨v, hv⟩ := exec_doorbell hr hs hc word
  · rw [ringBell_of_ne (s := { s with perf := v }) hp] at hv
    obtain ⟨hcnt, hkept, hrest⟩ := bellDropped_spec (f := fQM_DROP_DENIED_CNT) (by decide) rfl rfl { s with perf := v }
    exact ⟨_, hv, hrest, hcnt, hkept⟩
  · rw [ringBell_of_inactive (s := { s with perf := v }) hp hq] at hv
    obtain ⟨hcnt, hkept, hrest⟩ := bellDropped_spec (f := fQM_DROP_INACTIVE_CNT) (by decide) rfl rfl { s with perf := v }
    exact ⟨_, hv, hrest, hcnt, hkept⟩
  · obtain ⟨hget, ho, hrest⟩ := ringBell_of_room (s := { s with perf := v }) hp hq hk hd
    exact ⟨_, hv, hget, ho, by rw [hrest]⟩
  · rw [ringBell_of_overflow (s := { s with perf := v }) hp hq hk h0 hd] at hv
    obtain ⟨hst, ho, hev, hid, hmem, hkept⟩ := stallQueue_spec (qid_lt word) { s with perf := v }
    exact ⟨_, hv, hst, ho, hev, hid, hmem, hkept⟩
  · rw [ringBell_of_completion (s := { s with perf := v }) hp hq hk hd] at hv
    exact ⟨_, hv, getQueue_setQueue_same _ _ _, fun j hj => getQueue_setQueue_ne hj _ _, rfl⟩

end Sys2Proof.Machine
end


section
/-! SUPPORT. The end of an engine instruction (R95, R97, R102, R115): the queue, the post, the NOTIFY and a program's END. -/

namespace Sys2Proof.Machine

/-! Sync objects. -/

theorem leNat_leBytes (n v : Nat) : leNat (leBytes n v) = v % 256 ^ n := by
  induction n generalizing v with
  | zero => simp [leBytes, leNat, Nat.mod_one]
  | succ n ih =>
    have h8 : (BitVec.ofNat 8 v).toNat = v % 256 := BitVec.toNat_ofNat v 8
    rw [leBytes, leNat, ih, h8, Nat.pow_succ', Nat.mod_mul]

theorem length_leBytes (n v : Nat) : (leBytes n v).length = n := by
  induction n generalizing v with
  | zero => rfl
  | succ n ih => simp [leBytes, ih]

/-- A byte string written into a range without a marked unit reads back as a whole. -/
theorem memBytes_memWrite {a : Nat} {l : List Byte} {s : State} (h : marksIn a l.length s = []) :
    memBytes a l.length (memWrite a l s) = l := by
  refine List.ext_getElem (by simp [memBytes]) fun i hi hl => ?_
  have hget : (memBytes a l.length (memWrite a l s))[i] = memGet (a + i) (memWrite a l s) := by simp [memBytes]
  rw [hget, memGet_memWrite_inside h (by omega) (by omega), Nat.add_sub_cancel_left, List.getD_eq_getElem _ _ hl]

/-- A word written into a range without a marked unit reads back. -/
theorem memW_memWrite {a : Nat} {v : Word} {s : State} (h : marksIn a 4 s = []) :
    memW a (memWrite a (leBytes 4 v.toNat) s) = v := by
  have hread := memBytes_memWrite (l := leBytes 4 v.toNat) (by rwa [length_leBytes])
  rw [length_leBytes] at hread
  rw [memW, hread, leNat_leBytes]
  exact BitVec.eq_of_toNat_eq (by rw [BitVec.toNat_ofNat]; have := v.isLt; omega)

theorem memW_congr {a : Nat} {s t : State} (h : ∀ x, memGet x t = memGet x s) : memW a t = memW a s := by
  simp only [memW, memBytes, h]

/-- An ADD leaves the bytes that the write of VALUE leaves (R117). -/
theorem memGet_syncAddAt {a : Nat} {s : State} (h : isUE a s = false) (v : Word) (x : Nat) :
    memGet x (syncAddAt a v s) = memGet x (memWrite a (leBytes 4 (memW a s + v).toNat) s) := by
  rw [syncAddAt, if_neg (by simp [h])]
  refine ite_view rfl (ite_view ?_ (memGet_wake x a _))
  rw [memGet_fireSync, memGet_wake]

section
variable {β : Type} {φ : State → β} (q : Quiet φ) (hm : ∀ s v, φ { s with mem := v } = φ s)
  (ha : ∀ s v, φ { s with armed := v } = φ s)
include q ha

theorem fireSync_view (a : Nat) (s : State) : φ (fireSync a s) = φ s := (q.raiseVec _ _ _).trans (ha s _)

theorem syncArm_view (a : Nat) (s : State) : φ (syncArm a s) = φ s := by
  have hd : φ (disarmSync a s) = φ s := ha s _
  unfold syncArm
  dsimp only
  exact ite_view (ite_view ((fireSync_view q ha a _).trans hd) ((ha _ _).trans hd)) hd

include hm

omit ha in
theorem writeMark_view (a n : Nat) (old : Tbl Byte) (c : Nat × Nat) (s : State) : φ (writeMark a n old c s) = φ s := by
  have hp : ∀ p : Bool, φ (if p = true then noteParity c.1 s else s) = φ s := fun _ => ite_view (q.noteParity _ s) rfl
  unfold writeMark
  dsimp only
  refine ite_view ((q.setMark _ _ _).trans (hp _)) (ite_view (ite_view ((q.setMark _ _ _).trans (hp _)) ?_) ?_)
  · exact (q.notePartial _ _).trans ((hm _ _).trans (hp _))
  · exact (q.setMark _ _ _).trans ((q.noteCE _ _).trans (hp _))

/-- A write leaves alone what looks neither at memory, nor at armed interrupts, nor at what record keeping changes. -/
theorem memStore_view (a n : Nat) (sl : Tbl Byte) (s : State) : φ (memStore a n sl s) = φ s := by
  have hput : φ (memPut a n sl s) = φ s := by
    unfold memPut
    refine ite_view rfl ((forAll_view φ _ (fun c u => writeMark_view q hm a n s.mem c u) _ _).trans ?_)
    exact (hm _ _).trans (q.noteAccess true a n s)
  unfold memStore
  exact (forAll_view φ _ (fun b u => syncArm_view q ha b u) _ _).trans ((ha _ _).trans hput)

theorem syncAddAt_view (hw : ∀ s v, φ { s with waiters := v } = φ s) (a : Nat) (v : Word) (s : State) :
    φ (syncAddAt a v s) = φ s := by
  have hstore : φ (memWrite a (leBytes 4 (memW a s + v).toNat) s) = φ s := memStore_view q hm ha _ _ _ s
  unfold syncAddAt
  dsimp only
  refine ite_view ((q.noteMarks _ _).trans (q.noteAccess _ _ _ s)) (ite_view hstore ?_)
  exact ite_view ((fireSync_view q ha a _).trans ((hw _ _).trans hstore)) ((hw _ _).trans hstore)

end

/-! The stages of a completion. -/

/-- The NOTIFY of an instruction, once it has left its queue (R102). -/
def notified (c e : Nat) (x : EngInstr) (st : BitVec 8) (s : State) : State :=
  if e = 3 ∧ st = stOK then notifyOf c x (popHead c e s) else popHead c e s

/-- The post of an instruction, the use of its engine and the SIGNALs behind it (R95, R97). -/
def posted (c e : Nat) (x : EngInstr) (s : State) : State :=
  countSignals c e (modCore c (fun k => { k with lastUse := (postLec c e x.slot s).clk.ecnt }) (postLec c e x.slot s))

theorem completeEng_stages {c e : Nat} {x : EngInstr} {st : BitVec 8} {s : State} (hx : headOf c e s = some x)
    (hd : x.done = some st) (hs : isSafe s = false) :
    completeEng c e s = endIdle c (posted c e x (notified c e x st s)) := by
  simp only [completeEng, hx, hd]
  exact if_neg (by simp [hs])

theorem completeEng_of_safe {c e : Nat} {x : EngInstr} {st : BitVec 8} {s : State} (hx : headOf c e s = some x)
    (hd : x.done = some st) (hs : isSafe s = true) : completeEng c e s = s := by
  simp only [completeEng, hx, hd]
  exact if_pos hs

/-! The post. -/

theorem getCore_postLec (c e : Nat) (w : BitVec 64) (s : State) : getCore c (postLec c e w s) = { getCore c s with
    lec := if slotPostEn e w.toNat then modAt (slotPostLec e w.toNat) (· + 1) (getCore c s).lec else (getCore c s).lec } := by
  unfold postLec
  split
  · rw [getCore_modCore_same]
  · rfl

theorem getCore_postLec_ne {c d : Nat} (h : d ≠ c) (e : Nat) (w : BitVec 64) (s : State) :
    getCore d (postLec c e w s) = getCore d s := by
  unfold postLec
  exact ite_view (getCore_modCore_ne h _ s) rfl

theorem postLec_frame (c e : Nat) (w : BitVec 64) (s : State) :
    postLec c e w s = { s with cores := (postLec c e w s).cores } := by
  unfold postLec
  split <;> rfl

/-- With no SIGNAL waiting, the end of an instruction advances none (R97). -/
theorem countSignals_of_none {c : Nat} {s : State} (h : (getCore c s).signals = []) (e : Nat) :
    countSignals c e s = modCore c (fun k => { k with signals := k.signals.filter fun g => !(g.ahead.all (· == 0)) })
      (modCore c (fun k => { k with signals := k.signals.map fun g => { g with ahead := modAt e (fun n => n - 1) g.ahead } }) s) := by
  have hnone : (getCore c (modCore c (fun k => { k with signals := k.signals.map fun g =>
      { g with ahead := modAt e (fun n => n - 1) g.ahead } }) s)).signals = [] := by
    rw [getCore_modCore_same, h, List.map_nil]
  rw [countSignals, fireSignals, hnone]
  rfl

theorem getCore_posted {c : Nat} {s : State} (h : (getCore c s).signals = []) (e : Nat) (x : EngInstr) :
    getCore c (posted c e x s) = { getCore c s with
      lec := if slotPostEn e x.slot.toNat then modAt (slotPostLec e x.slot.toNat) (· + 1) (getCore c s).lec
        else (getCore c s).lec
      lastUse := (postLec c e x.slot s).clk.ecnt
      signals := [] } := by
  have hsig : (getCore c (postLec c e x.slot s)).signals = [] := by rw [getCore_postLec, h]
  rw [posted, countSignals_of_none (by rw [getCore_modCore_same, hsig]), getCore_modCore_same, getCore_modCore_same,
    getCore_modCore_same, getCore_postLec, h]
  rfl

theorem getCore_posted_ne {c d : Nat} (hd : d ≠ c) {s : State} (h : (getCore c s).signals = []) (e : Nat) (x : EngInstr) :
    getCore d (posted c e x s) = getCore d s := by
  have hsig : (getCore c (postLec c e x.slot s)).signals = [] := by rw [getCore_postLec, h]
  rw [posted, countSignals_of_none (by rw [getCore_modCore_same, hsig]), getCore_modCore_ne hd, getCore_modCore_ne hd,
    getCore_modCore_ne hd, getCore_postLec_ne hd]

theorem posted_frame {c : Nat} {s : State} (h : (getCore c s).signals = []) (e : Nat) (x : EngInstr) :
    posted c e x s = { s with cores := (posted c e x s).cores } := by
  have hsig : (getCore c (postLec c e x.slot s)).signals = [] := by rw [getCore_postLec, h]
  rw [posted, countSignals_of_none (by rw [getCore_modCore_same, hsig])]
  generalize hu : postLec c e x.slot s = u
  have hframe : u = { s with cores := u.cores } := by rw [← hu]; exact postLec_frame c e x.slot s
  rw [hframe]
  rfl

/-! The end of a program (R97, R115). -/

theorem endIdle_of_run {c : Nat} {s : State} (h : ∀ r, (getCore c s).run = some r → r.fin = false) : endIdle c s = s := by
  refine if_neg ?_
  cases hr : (getCore c s).run with
  | none => simp
  | some r => simp [h r hr]

theorem endIdle_of_fin {c : Nat} {r : RunProg} {s : State} (hr : (getCore c s).run = some r) (hf : r.fin = true) :
    endIdle c s = endCore c s := if_pos (by simp [hr, hf])

/-- A program that has met its END waits for its last instruction. -/
theorem endCore_of_busy {c : Nat} {r : RunProg} {s : State} (hr : (getCore c s).run = some r) (hf : r.fin = true)
    (hq : enginesIdle c s = false) : endCore c s = modCore c (fun k => { k with run := some r }) s := by
  rw [endCore, if_neg (by simp [hq])]
  have hsame : { r with fin := true } = r := by cases r; subst hf; rfl
  simp only [modCore, hr, Option.map_some, hsame]

/-- The program ends on a core whose engines are idle (R97). -/
theorem endCore_of_idle {c : Nat} {r : RunProg} {s : State} (hr : (getCore c s).run = some r) (hq : enginesIdle c s = true) :
    endCore c s = setProgState c 0 (modCore c (fun k => { k with run := none }) { s with insts := s.insts.map fun i =>
      if i.id = r.inst then { i with running := i.running.erase c } else i }) := by
  rw [endCore, if_pos hq, freeCore, hr]

/-! The NOTIFY. -/

/-- How much the NOTIFY of an SX instruction adds (R102). -/
def notifyCount (c : Nat) (x : EngInstr) (s : State) : Nat :=
  if (sxDesc x.odt).sop = 3 then (mcastClusters (sxDesc x.odt)).length
  else if (sxDesc x.odt).sop = 1 ∧ !isLocalPkg (corePart c s) (sxDesc x.odt).dst s then 0 else 1

/-- The instruction adds to a sync object. -/
def wantsNotify (c e : Nat) (x : EngInstr) (st : BitVec 8) (s : State) : Bool :=
  e == 3 && st == stOK && (sxDesc x.odt).notify != 0 && notifyCount c x s != 0

theorem notifyOf_eq (c : Nat) (x : EngInstr) (s : State) : notifyOf c x s =
    if (sxDesc x.odt).notify = 0 ∨ notifyCount c x s = 0 then s
    else if syncOk (corePart c s) (sxDesc x.odt).notify s then
      syncAddAt (sxDesc x.odt).notify (BitVec.ofNat 32 (notifyCount c x s)) s
    else markMismatch c (syncStatus (corePart c s) (sxDesc x.odt).notify s) s := rfl

theorem notified_of_none {c e : Nat} {x : EngInstr} {st : BitVec 8} {s : State} (h : wantsNotify c e x st s = false) :
    notified c e x st s = popHead c e s := by
  unfold notified
  split
  · next hs =>
    rw [notifyOf_eq]
    refine if_pos ?_
    have hn : (sxDesc x.odt).notify = 0 ∨ notifyCount c x s = 0 := by
      by_contra hne
      obtain ⟨h1, h2⟩ := not_or.1 hne
      simp [wantsNotify, hs, h1, h2] at h
    exact hn
  · rfl

theorem notified_of_wants {c e : Nat} {x : EngInstr} {st : BitVec 8} {s : State} (h : wantsNotify c e x st s = true) :
    notified c e x st s =
      if syncOk (corePart c s) (sxDesc x.odt).notify s then
        syncAddAt (sxDesc x.odt).notify (BitVec.ofNat 32 (notifyCount c x s)) (popHead c e s)
      else markMismatch c (syncStatus (corePart c s) (sxDesc x.odt).notify s) (popHead c e s) := by
  simp only [wantsNotify, Bool.and_eq_true, beq_iff_eq, bne_iff_ne] at h
  obtain ⟨⟨⟨he, hst⟩, hn⟩, hcount⟩ := h
  rw [notified, if_pos ⟨he, hst⟩, notifyOf_eq]
  exact if_neg (not_or.2 ⟨hn, hcount⟩)

theorem getCore_popHead (c e : Nat) (s : State) :
    getCore c (popHead c e s) = { getCore c s with q := modAt e List.tail (getCore c s).q } := getCore_modCore_same _ _ _

/-- A status goes to the instance of the program of a core that has none yet (R131). -/
theorem markMismatch_frame (c : Nat) (st : BitVec 8) (s : State) :
    markMismatch c st s = { s with insts := (markMismatch c st s).insts } := by
  unfold markMismatch
  split
  · rfl
  · split <;> rfl

theorem insts_markMismatch {c : Nat} {st : BitVec 8} {r : RunProg} {s : State} (hst : st ≠ stOK)
    (hr : (getCore c s).run = some r) : (markMismatch c st s).insts = s.insts.map fun i =>
      if i.id = r.inst ∧ i.status = stOK then { i with status := st } else i := by
  rw [markMismatch, if_neg hst, hr]

/-- The instruction has left its queue and posted its counter, and no other core has changed (R95). -/
def PostedOn (c e : Nat) (x : EngInstr) (s t : State) : Prop :=
  (getCore c t).q = modAt e List.tail (getCore c s).q ∧
  (getCore c t).lec = (if slotPostEn e x.slot.toNat then
    modAt (slotPostLec e x.slot.toNat) (· + 1) (getCore c s).lec else (getCore c s).lec) ∧ OtherCores c s t

section
variable {c e : Nat} {x : EngInstr} {st : BitVec 8} {s : State}

theorem postedOn_posted {u : State} (hsig : (getCore c s).signals = []) (hu : u.cores = (popHead c e s).cores) :
    PostedOn c e x s (posted c e x u) ∧ (getCore c (posted c e x u)).run = (getCore c s).run ∧
    posted c e x u = { u with cores := (posted c e x u).cores } := by
  have hcore : ∀ d, getCore d u = getCore d (popHead c e s) := fun d => by rw [getCore, getCore, hu]
  have hnone : (getCore c u).signals = [] := by rw [hcore, getCore_popHead, hsig]
  have hget := getCore_posted hnone e x
  rw [hcore, getCore_popHead] at hget
  refine ⟨⟨by rw [hget], by rw [hget], fun d hd => ?_⟩, by rw [hget], posted_frame hnone e x⟩
  rw [getCore_posted_ne hd hnone, hcore]
  exact getCore_modCore_ne hd _ s

variable (hx : headOf c e s = some x) (hd : x.done = some st) (hs : isSafe s = false) (hsig : (getCore c s).signals = [])
include hx hd hs hsig

/-- An instruction without a NOTIFY, of a program that has not met its END. -/
theorem completeEng_plain (hrun : ∀ r, (getCore c s).run = some r → r.fin = false) (hw : wantsNotify c e x st s = false) :
    PostedOn c e x s (completeEng c e s) ∧ (getCore c (completeEng c e s)).run = (getCore c s).run ∧
    completeEng c e s = { s with cores := (completeEng c e s).cores } := by
  obtain ⟨hp, hr, hframe⟩ := postedOn_posted (x := x) (u := popHead c e s) hsig rfl
  rw [completeEng_stages hx hd hs, notified_of_none hw, endIdle_of_run (hr ▸ hrun)]
  exact ⟨hp, hr, by rw [hframe]; rfl⟩

/-- A NOTIFY object that has closed takes no ADD, and the instance takes the status of its check. -/
theorem completeEng_closed (hrun : ∀ r, (getCore c s).run = some r → r.fin = false) (hw : wantsNotify c e x st s = true)
    (hok : syncOk (corePart c s) (sxDesc x.odt).notify s = false) :
    PostedOn c e x s (completeEng c e s) ∧
    completeEng c e s = { s with cores := (completeEng c e s).cores, insts := (completeEng c e s).insts } ∧
    ∀ r, (getCore c s).run = some r → (completeEng c e s).insts = s.insts.map fun i =>
      if i.id = r.inst ∧ i.status = stOK then
        { i with status := syncStatus (corePart c s) (sxDesc x.odt).notify s } else i := by
  have hst : syncStatus (corePart c s) (sxDesc x.odt).notify s ≠ stOK := by simpa [syncOk] using hok
  rw [completeEng_stages hx hd hs, notified_of_wants hw, if_neg (by simp [hok])]
  generalize syncStatus (corePart c s) (sxDesc x.odt).notify s = z at hst ⊢
  generalize hu : markMismatch c z (popHead c e s) = u
  have hmark : u = { popHead c e s with insts := u.insts } := by rw [← hu]; exact markMismatch_frame c z _
  obtain ⟨hp, hr, hframe⟩ := postedOn_posted (x := x) (u := u) hsig (by rw [hmark])
  rw [endIdle_of_run (hr ▸ hrun)]
  refine ⟨hp, by rw [hframe, hmark]; rfl, fun r hkr => ?_⟩
  have hinsts : (posted c e x u).insts = u.insts := by rw [hframe]
  rw [hinsts, ← hu]
  exact insts_markMismatch (s := popHead c e s) hst (by rw [getCore_popHead]; exact hkr)

/-- A NOTIFY object takes its ADD (R102). -/
theorem completeEng_notify (hrun : ∀ r, (getCore c s).run = some r → r.fin = false) (hw : wantsNotify c e x st s = true)
    (hok : syncOk (corePart c s) (sxDesc x.odt).notify s = true) (hwf : Memory.wf s.mem = true)
    (hue : isUE (sxDesc x.odt).notify s = false) (hmarks : marksIn (sxDesc x.odt).notify 4 s = []) :
    PostedOn c e x s (completeEng c e s) ∧
    memW (sxDesc x.odt).notify (completeEng c e s) =
      memW (sxDesc x.odt).notify s + BitVec.ofNat 32 (notifyCount c x s) ∧
    MemOutside (sxDesc x.odt).notify 4 s (completeEng c e s) := by
  rw [completeEng_stages hx hd hs, notified_of_wants hw, if_pos hok]
  generalize (sxDesc x.odt).notify = a at hue hmarks ⊢
  generalize BitVec.ofNat 32 (notifyCount c x s) = v
  obtain ⟨hp, hr, hframe⟩ := postedOn_posted (x := x) (u := syncAddAt a v (popHead c e s)) hsig
    (syncAddAt_view quiet_cores (fun _ _ => rfl) (fun _ _ => rfl) (fun _ _ => rfl) _ _ _)
  rw [endIdle_of_run (hr ▸ hrun)]
  have hmem : ∀ b, memGet b (posted c e x (syncAddAt a v (popHead c e s))) =
      memGet b (memWrite a (leBytes 4 (memW a s + v).toNat) (popHead c e s)) := fun b => by
    rw [hframe]
    exact memGet_syncAddAt (s := popHead c e s) hue v b
  refine ⟨hp, ?_, fun b hb => ?_⟩
  · rw [memW_congr hmem, memW_memWrite (s := popHead c e s) hmarks]
  · rw [hmem, memGet_memWrite_outside (s := popHead c e s) hwf (by rwa [length_leBytes])]
    rfl

variable {r : RunProg} (hr : (getCore c s).run = some r) (hf : r.fin = true) (hw : wantsNotify c e x st s = false)
include hr hf hw

/-- A program that has met its END waits while an engine still has an instruction. -/
theorem completeEng_busy (hq : (modAt e List.tail (getCore c s).q).all (fun l => l.isEmpty) = false) :
    PostedOn c e x s (completeEng c e s) ∧ (getCore c (completeEng c e s)).run = some r ∧
    completeEng c e s = { s with cores := (completeEng c e s).cores } := by
  obtain ⟨⟨hpq, hplec, hpo⟩, hrun, hframe⟩ := postedOn_posted (x := x) (u := popHead c e s) hsig rfl
  rw [completeEng_stages hx hd hs, notified_of_none hw, endIdle_of_fin (hrun.trans hr) hf,
    endCore_of_busy (hrun.trans hr) hf (by rw [enginesIdle, hpq]; exact hq)]
  refine ⟨⟨?_, ?_, fun j hj => ?_⟩, ?_, by rw [hframe]; rfl⟩
  · rw [getCore_modCore_same, ← hpq]
  · rw [getCore_modCore_same, ← hplec]
  · rw [getCore_modCore_ne hj, hpo j hj]
  · rw [getCore_modCore_same]

/-- The last instruction of a program that has met its END frees the core (R97, R115). -/
theorem completeEng_last (hq : (modAt e List.tail (getCore c s).q).all (fun l => l.isEmpty) = true) :
    PostedOn c e x s (completeEng c e s) ∧ (getCore c (completeEng c e s)).run = none ∧
    fget (coreB c) fCORE_PROG_STATUS_STATE (completeEng c e s) = 0 ∧
    RegsKept [coreB c + oCORE_PROG_STATUS] s (completeEng c e s) ∧
    (completeEng c e s).insts = s.insts.map (fun i =>
      if i.id = r.inst then { i with running := i.running.erase c } else i) ∧
    completeEng c e s = { s with
      cores := (completeEng c e s).cores, insts := (completeEng c e s).insts, regs := (completeEng c e s).regs } := by
  obtain ⟨⟨hpq, hplec, hpo⟩, hrun, hframe⟩ := postedOn_posted (x := x) (u := popHead c e s) hsig rfl
  rw [completeEng_stages hx hd hs, notified_of_none hw, endIdle_of_fin (hrun.trans hr) hf,
    endCore_of_idle (hrun.trans hr) (by rw [enginesIdle, hpq]; exact hq)]
  generalize posted c e x (popHead c e s) = u at hpq hplec hpo hframe ⊢
  generalize hv : { u with insts := _ } = v
  have hget : ∀ d, getCore d v = getCore d u := fun d => by rw [← hv]; rfl
  have hcore : ∀ d, getCore d (setProgState c 0 (modCore c (fun k => { k with run := none }) v)) =
      getCore d (modCore c (fun k => { k with run := none }) v) := fun d => (quiet_getCore d).fset _ _ _ _
  refine ⟨⟨?_, ?_, fun j hj => ?_⟩, ?_, fget_fset_same _ (by decide) 0 _, ?_, ?_, ?_⟩
  · rw [hcore, getCore_modCore_same, hget, ← hpq]
  · rw [hcore, getCore_modCore_same, hget, ← hplec]
  · rw [hcore, getCore_modCore_ne hj, hget, hpo j hj]
  · rw [hcore, getCore_modCore_same]
  · refine .trans (.of_regs ?_)
      (regsKept_fset (b := coreB c) (f := fCORE_PROG_STATUS_STATE) (List.mem_singleton.2 rfl) 0 _)
    rw [modCore, setCore_regs, ← hv, hframe]
    rfl
  · rw [setProgState, fset_insts, modCore, setCore_insts, ← hv, hframe]
    rfl
  · rw [← hv, hframe]
    rfl

end

/-- Settles O18: the stages of the completion one after another; the NOTIFY acts before the post, the END after it. -/
theorem engineInstrComplete : Obligations.EngineInstrComplete := by
  intro c e x st s hx hd hsig k p d n wants Posted
  have hexec : exec (.engineInstrComplete c e) s = .next (completeEng c.val e.val s) := rfl
  have hn : n = notifyCount c.val x s :=
    if_congr Iff.rfl rfl (if_congr (and_congr_right fun _ => by simp [p, d]) rfl rfl)
  have hwants : wants = wantsNotify c.val e.val x st s := by
    show (_ && n != 0) = _
    rw [hn]
    rfl
  rw [hwants, hn]
  refine ⟨fun hs => ⟨_, hexec, completeEng_of_safe hx hd hs⟩, fun hs => ⟨fun hrun => ⟨fun hw => ?_, fun hw hok => ?_,
    fun hw hok hwf hue hmarks => ?_⟩, fun r hr hf hw => ⟨fun hq => ?_, fun hq => ?_⟩⟩⟩
  · exact ⟨_, hexec, completeEng_plain hx hd hs hsig hrun hw⟩
  · exact ⟨_, hexec, completeEng_closed hx hd hs hsig hrun hw hok⟩
  · exact ⟨_, hexec, completeEng_notify hx hd hs hsig hrun hw hok hwf hue hmarks⟩
  · exact ⟨_, hexec, completeEng_busy hx hd hs hsig hr hf hw hq⟩
  · exact ⟨_, hexec, completeEng_last hx hd hs hsig hr hf hw hq⟩

end Sys2Proof.Machine
end

section
/-! SUPPORT. What a hub restart and the start of a reset leave alone: the flash marks, the state of firmware update, the resets
that run, MGMT and the sequence number of FWU_RESULT. One lemma for each operation that an end of a hub restart or the
start of a reset is made of, from the shared operations up. -/

namespace Sys2Proof.Machine

/-- What the end of an activation reads again after MGMT has gone on. -/
def actView (s : State) : Nv × Fwu × List ResetRun × Nat × Nat :=
  (s.nv, s.fwu, s.rst.runs, mgmtPlane s, fget fwuB fFWU_RESULT_SEQ s)

/-- The part of it that is not in registers. -/
def actSide (s : State) : Nv × Fwu × Rst := (s.nv, s.fwu, s.rst)

/-- The registers that it looks at. -/
def actRegs : List Nat := [hubB + oHUB_PLANE_STATUS, fwuB + oFWU_RESULT]

theorem quiet_actSide : Quiet actSide := ⟨fun _ _ => rfl, fun _ _ => rfl, fun _ _ => rfl, fun _ _ => rfl, fun _ _ => rfl,
  fun _ _ => rfl, fun _ _ => rfl⟩

theorem actView_congr {s t : State} (h : actSide t = actSide s) (hr : ∀ o ∈ actRegs, regGet o t = regGet o s) :
    actView t = actView s := by
  obtain ⟨hnv, hfwu, hrst⟩ : t.nv = s.nv ∧ t.fwu = s.fwu ∧ t.rst = s.rst := by simpa [actSide] using h
  have hp : regGet (hubB + oHUB_PLANE_STATUS) t = regGet (hubB + oHUB_PLANE_STATUS) s := hr _ (by decide)
  have hq : regGet (fwuB + oFWU_RESULT) t = regGet (fwuB + oFWU_RESULT) s := hr _ (by decide)
  simp only [actView, mgmtPlane, fget, hnv, hfwu, hrst, hp, hq]

theorem actView_of_kept {l : List Nat} {s t : State} (h : actSide t = actSide s) (hr : RegsKept l s t)
    (hl : ∀ o ∈ actRegs, o ∉ l) : actView t = actView s := actView_congr h fun o ho => hr o (hl o ho)

theorem actView_of_regs {s t : State} (h : actSide t = actSide s) (hr : t.regs = s.regs) : actView t = actView s :=
  actView_of_kept h (.of_regs (l := []) hr) (by decide)

/-! Registers, events and counters. -/

theorem actView_regSet {o : Nat} (h : o ∉ actRegs) (v : Word) (s : State) : actView (regSet o v s) = actView s :=
  actView_of_kept (l := [o]) rfl (regsKept_regSet (.head _) v s) fun _ hx he => h (List.mem_singleton.1 he ▸ hx)

theorem actView_fset {b : Nat} {f : Fld} (h : b + f.off ∉ actRegs) (v : Nat) (s : State) :
    actView (fset b f v s) = actView s := actView_regSet h _ s

theorem not_mem_actRegs {o : Nat} (h : 0x01000000 ≤ o) : o ∉ actRegs := by
  have hlow : ∀ x ∈ actRegs, x < 0x01000000 := by decide
  exact fun hm => absurd (hlow o hm) (Nat.not_lt.2 h)

theorem coreB_ge (c : Nat) : 0x01000000 ≤ coreB c := by unfold coreB dieWin; omega
theorem cluB_ge (k : Nat) : 0x01000000 ≤ cluB k := by unfold cluB dieWin; omega
theorem memB_ge (st : Nat) : 0x01000000 ≤ memB st := by unfold memB; omega
theorem fabB_ge (p : Nat) : 0x01000000 ≤ fabB p := by unfold fabB; omega
theorem storeRegs_ge (a : Nat) : 0x01000000 ≤ (storeRegs a).1 := by
  unfold storeRegs
  dsimp only
  split
  · exact coreB_ge _
  · exact cluB_ge _

theorem actView_fset_unit {b : Nat} (h : 0x01000000 ≤ b) (f : Fld) (v : Nat) (s : State) :
    actView (fset b f v s) = actView s := actView_fset (not_mem_actRegs (h.trans (Nat.le_add_right _ _))) v s

theorem actView_raiseMsix (f v : Nat) (s : State) : actView (raiseMsix f v s) = actView s :=
  actView_of_regs (quiet_actSide.raiseMsix f v s) (regs_raiseMsix f v s)

theorem actView_evt {b : Nat} {e : Evt} (hb : b + e.bit.off ∉ actRegs) (hc : b + e.cnt.off ∉ actRegs) (s : State) :
    actView (evt b e s) = actView s := by
  refine actView_of_kept (l := [b + e.bit.off, b + e.cnt.off]) (quiet_actSide.evt b e s)
    (regsKept_evt (.head _) (.tail _ (.head _)) s) fun o ho hm => ?_
  rcases List.mem_pair.1 hm with rfl | rfl
  · exact hb ho
  · exact hc ho

theorem actView_evt_unit {b : Nat} (h : 0x01000000 ≤ b) (e : Evt) (s : State) : actView (evt b e s) = actView s :=
  actView_evt (not_mem_actRegs (h.trans (Nat.le_add_right _ _))) (not_mem_actRegs (h.trans (Nat.le_add_right _ _))) s

theorem actView_ctrClear (b : CtrBlk) (s : State) : actView (ctrClear b s) = actView s :=
  forAll_view actView _ (fun i u => (rfl : actView (ctrSet b i ⟨0, 0⟩ u) = actView u)) _ s

theorem actView_clearRegs {b : Nat} (h : 0x01000000 ≤ b) (l : List Nat) (s : State) :
    actView (clearRegs b l s) = actView s :=
  forAll_view actView _ (fun _ u => actView_regSet (not_mem_actRegs (h.trans (Nat.le_add_right _ _))) _ u) l s

/-! Faults that a record alone answers. -/

theorem actView_logFault (code source parts info0 info1 : Nat) (s : State) :
    actView (logFault code source parts info0 info1 s) = actView s :=
  actView_of_kept (quiet_actSide.logFault code source parts info0 info1 s) (regsKept_logFaultAt _ _ _ _ _ _ s) (by decide)

theorem actView_softFault (code source info0 info1 : Nat) (s : State) :
    actView (softFault code source info0 info1 s) = actView s := by
  unfold softFault collected
  split
  · exact actView_logFault _ _ _ _ _ s
  · exact ite_view (actView_logFault _ _ _ _ _ s) rfl

/-! Accesses of memory. -/

theorem actView_noteAccess (w : Bool) (a n : Nat) (s : State) : actView (noteAccess w a n s) = actView s :=
  actView_of_kept (quiet_actSide.noteAccess w a n s) (regsKept_noteAccess w a n s) (by decide)

theorem actView_noteCE (a : Nat) (s : State) : actView (noteCE a s) = actView s :=
  ite_view rfl ((actView_softFault _ _ _ _ _).trans (actView_evt_unit (storeRegs_ge a) _ s))

theorem actView_notePartial (a : Nat) (s : State) : actView (notePartial a s) = actView s :=
  (actView_softFault _ _ _ _ _).trans (actView_evt_unit (storeRegs_ge a) _ s)

theorem actView_noteParity (a : Nat) (s : State) : actView (noteParity a s) = actView s :=
  (actView_softFault _ _ _ _ _).trans (actView_evt_unit (memB_ge _) _ s)

theorem actView_noteUE (a : Nat) (s : State) : actView (noteUE a s) = actView s := by
  unfold noteUE
  dsimp only
  refine ite_view ?_ ?_
  · rw [actView_softFault, actView_fset_unit (memB_ge _), actView_fset_unit (memB_ge _), actView_evt_unit (memB_ge _)]
  · rw [actView_softFault, actView_fset_unit (storeRegs_ge a), actView_evt_unit (storeRegs_ge a)]

theorem actView_granuleMark (c : Nat × Nat) (s : State) : actView (granuleMark c s) = actView s :=
  ite_view (actView_noteUE _ s) (ite_view (actView_noteParity _ s)
    (ite_view ((actView_noteUE _ _).trans (actView_noteParity _ s)) (actView_noteCE _ s)))

theorem actView_readAll (a n : Nat) (s : State) : actView (readAll a n s).1 = actView s := by
  refine (forAll_view actView _ (fun c u => ?_) (marksIn a n s) _).trans (actView_noteAccess false a n s)
  split
  · exact actView_granuleMark c u
  · split
    · exact actView_noteUE c.1 u
    · exact actView_noteCE c.1 u

theorem actView_raiseVec (f v : Nat) (s : State) : actView (raiseVec f v s) = actView s :=
  ite_view (actView_raiseMsix f v s) (actView_fset_unit (by decide) _ _ s)

theorem actView_syncArm (a : Nat) (s : State) : actView (syncArm a s) = actView s :=
  ite_view (ite_view (actView_raiseVec _ _ _) rfl) rfl

theorem actView_writeMark (a n : Nat) (old : Tbl Byte) (c : Nat × Nat) (s : State) :
    actView (writeMark a n old c s) = actView s := by
  have hp : ∀ p : Bool, actView (if p = true then noteParity c.1 s else s) = actView s :=
    fun _ => ite_view (actView_noteParity _ s) rfl
  unfold writeMark
  dsimp only
  exact ite_view (hp _) (ite_view (ite_view (hp _) ((actView_notePartial _ _).trans (hp _))) ((actView_noteCE _ _).trans (hp _)))

theorem actView_memWrite (a : Nat) (l : List Byte) (s : State) : actView (memWrite a l s) = actView s := by
  have hput : actView (memPut a l.length (sparse 0 l) s) = actView s :=
    ite_view rfl ((forAll_view actView _ (fun c u => actView_writeMark a _ s.mem c u) _ _).trans
      (actView_noteAccess true a l.length s))
  exact (forAll_view actView _ (fun b u => actView_syncArm b u) _ _).trans hput

/-! Queues. -/

theorem actView_setPhase (qid : Nat) (idx : BitVec 32) (p : CmdPhase) (s : State) :
    actView (setPhase qid idx p s) = actView s := by
  unfold setPhase
  dsimp only
  refine (rfl : actView (setQueue _ _ _) = actView _).trans ?_
  split
  · rfl
  · exact ite_view (leaveIntake_view (φ := actView) (fun _ _ => rfl) _ _ s) rfl

theorem actView_endCmd (qid : Nat) (idx : BitVec 32) (st : BitVec 8) (detail : Word) (s : State) :
    actView (endCmd qid idx st detail s) = actView s := actView_setPhase qid idx _ s

theorem actView_flushCmds (qid : Nat) (st : BitVec 8) (rank : Nat) (s : State) :
    actView (flushCmds qid st rank s) = actView s :=
  flushCmds_view actView_readAll (fun _ _ => rfl) (fun _ _ => rfl) (fun _ _ => rfl) st rank s

theorem actView_writeBack (qid : Nat) (s : State) : actView (writeBack qid s) = actView s :=
  ite_view rfl ((actView_memWrite _ _ _).trans (actView_memWrite _ _ s))

theorem actView_disableQueue (st : BitVec 8) (qid : Nat) (s : State) : actView (disableQueue st qid s) = actView s := by
  unfold disableQueue
  refine ite_view rfl ((actView_writeBack qid _).trans ?_)
  exact actView_flushCmds qid st (commRank qid s) s

theorem actView_stallQueueBy (qid rank : Nat) (s : State) : actView (stallQueueBy qid rank s) = actView s := by
  unfold stallQueueBy
  dsimp only
  rw [actView_fset (by decide), actView_evt (by decide) (by decide)]
  exact actView_flushCmds qid stSTALLED rank s

/-! Launch entries and instances. -/

theorem actView_dropEntries (id : Nat) (s : State) : actView (dropEntries id s) = actView s :=
  dropEntries_view (fun _ _ => rfl) (fun _ _ => rfl) id s

theorem actView_finishInst (i : Inst) (s : State) : actView (finishInst i s) = actView s :=
  actView_endCmd _ _ _ _ _

theorem actView_cancelInst (id : Nat) (st : BitVec 8) (s : State) : actView (cancelInst id st s) = actView s := by
  have hdrop : actView (modInst id (fun x => { x with status := st }) (dropEntries id s)) = actView s :=
    actView_dropEntries id s
  rw [← hdrop]
  unfold cancelInst
  dsimp only
  split
  · rfl
  · refine ite_view (actView_finishInst _ _) (forAll_view actView _ (fun c u => ?_) _ _)
    exact (actView_fset_unit (coreB_ge c) _ _ _).trans rfl

theorem actView_endInsts (cores : List Nat) (s : State) : actView (endInsts cores s) = actView s := by
  unfold endInsts
  exact (forAll_view actView _ (fun (i : Inst) u => actView_cancelInst i.id stSTALE u) _ _).trans
    (forAll_view actView _ (fun (i : Inst) u => actView_cancelInst i.id stSTALE u) _ s)

/-! Cells, drains and remote instructions. -/

theorem actView_queueCells (p v : Nat) (l : List EgCell) (s : State) : actView (queueCells p v l s) = actView s :=
  ite_view rfl (ite_view rfl rfl)

theorem actView_endDrain (eid : BitVec 19) (st : BitVec 8) (s : State) : actView (endDrain eid st s) = actView s := rfl

theorem actView_startProbes (eid : BitVec 19) (s : State) : actView (startProbes eid s) = actView s := by
  have hsend : ∀ (l : List ((Nat × Nat) × Nat)) (n : BitVec 32) u,
      actView (forAll l (fun x => queueCells x.1.1 x.1.2 [.probe eid (n + BitVec.ofNat 32 x.2)]) u) = actView u :=
    fun l _ u => forAll_view actView _ (fun x u => actView_queueCells _ _ _ u) l u
  unfold startProbes
  dsimp only
  refine ite_view ((actView_endDrain _ _ _).trans ?_) ?_
  · exact (hsend _ _ _).trans rfl
  · exact (hsend _ _ _).trans rfl

theorem actView_drainsGo (s : State) : actView (drainsGo s) = actView s := by
  refine forAll_view actView _ (fun d u => ?_) _ s
  split
  · rfl
  · exact actView_startProbes d.eid u

theorem actView_endMoves (cores : List Nat) (st : BitVec 8) (s : State) : actView (endMoves cores st s) = actView s := by
  refine (actView_drainsGo _).trans (forAll_view actView _ (fun r u => ?_) _ s)
  dsimp only
  split
  · exact actView_endCmd _ _ _ _ _
  · exact actView_endCmd _ _ _ _ _
  · exact actView_endCmd _ _ _ _ _
  · rfl

theorem actView_setSession (e : BitVec 19) (x : Option Session) (s : State) :
    actView (setSession e x s) = actView s := rfl

theorem actView_outstanding (tag : InstrTag) (kind : RemoteKind) (e : BitVec 19) (w : BitVec 64) (left notify : Nat)
    (s : State) : actView (outstanding tag kind e w left notify s) = actView s := rfl

theorem actView_sendPkt (port vl : Nat) (kind : BitVec 4) (e : BitVec 19) (w : BitVec 64) (addr : Nat) (tag : InstrTag)
    (notify kspec : Nat) (data : List Byte) (s : State) :
    actView (sendPkt port vl kind e w addr tag notify kspec data s) = actView s := by
  unfold sendPkt
  split
  · rfl
  · rw [queuePkt, actView_queueCells, actView_setSession]

/-! Chambers. -/

theorem foldl_view {α β : Type} (φ : State → β) (f : State → α → State) (h : ∀ x s, φ (f s x) = φ s) (l : List α)
    (s : State) : φ (l.foldl f s) = φ s := forAll_view φ (fun x u => f u x) h l s

theorem actView_bumpSeqno (c : Nat) (s : State) : actView (bumpSeqno c s) = actView s := rfl

theorem actView_chSend (id i peer step : Nat) (cseq : BitVec 16) (l : List Byte) (s : State) :
    actView (chSend id i peer step cseq l s).2 = actView s := by
  unfold chSend
  dsimp only
  split
  · rfl
  · rw [apply_ite Prod.snd]
    refine ite_view rfl ((actView_outstanding _ _ _ _ _ _ _).trans ?_)
    rw [foldl_view actView _ fun c u => actView_sendPkt _ _ _ _ _ _ _ _ _ _ u, actView_bumpSeqno]

theorem actView_modCh (id : Nat) (f : Chamber → Chamber) (s : State) : actView (modCh id f s) = actView s := rfl

theorem actView_endReq (id : Nat) (st : BitVec 8) (detail : Word) (s : State) :
    actView (endReq id st detail s) = actView s := by
  unfold endReq
  dsimp only
  split
  · rfl
  · rw [actView_modCh, actView_endCmd]

theorem actView_stallNotices (id : Nat) (s : State) : actView (stallNotices id s) = actView s :=
  forAll_view actView _ (fun _ u => actView_chSend id 0 _ _ _ [] u) _ s

theorem actView_chStall (id : Nat) (st : BitVec 8) (detail : Word) (raiser : Nat) (notice : Bool) (s : State) :
    actView (chStall id st detail raiser notice s) = actView s := by
  have hnotice : actView (if notice = true then stallNotices id (endReq id st detail s) else endReq id st detail s) = actView s :=
    ite_view ((actView_stallNotices id _).trans (actView_endReq id st detail s)) (actView_endReq id st detail s)
  unfold chStall
  dsimp only
  generalize (if notice = true then stallNotices id (endReq id st detail s) else endReq id st detail s) = u at hnotice
  have hnote : actView (fset colB fCOL_LAST_STALL_STATUS st.toNat (fset colB fCOL_LAST_STALL_ID id
      (fset colB fCOL_LAST_STALL_RANK raiser
        (colEvt eCOL_EVENT_STALL (getCh id s).part (modCh id (fun y => { y with st := 4 }) u))))) = actView s := by
    rw [actView_fset (by decide), actView_fset (by decide), actView_fset (by decide), colEvt, actView_raiseMsix,
      actView_evt (by decide) (by decide), actView_modCh, hnotice]
  exact ite_view ((actView_stallQueueBy _ _ _).trans hnote) hnote

theorem actView_chResetCores (cores : List Nat) (st : BitVec 8) (s : State) :
    actView (chResetCores cores st s) = actView s :=
  forAll_view actView _ (fun id u => actView_chStall id st _ _ true u) _ s

theorem actView_chInactive (id : Nat) (s : State) : actView (chInactive id s) = actView s := by
  unfold chInactive noteActive
  dsimp only
  rw [actView_fset (by decide), actView_fset (by decide), actView_modCh]

theorem actView_chPartReset (p : Nat) (s : State) : actView (chPartReset p s) = actView s :=
  forAll_view actView _ (fun id u => (actView_chInactive id _).trans (actView_endReq id _ _ u)) _ s

/-! Cores, partitions and the compute part. -/

theorem actView_modCore (c : Nat) (f : Core → Core) (s : State) : actView (modCore c f s) = actView s := rfl

theorem actView_advanceCore (c : Nat) (s : State) : actView (advanceCore c s) = actView s :=
  (actView_fset_unit (coreB_ge c) _ _ _).trans (actView_modCore c _ s)

/-- A core at the start of its reset, its registers and counters cleared. -/
def coreCleared (c : Nat) (s : State) : State :=
  fset (coreB c) fCORE_CAPTURE_CTL_STATE 0 (ctrClear (ctrCore c) (clearRegs (coreB c) coreResetRegs
    (modCore c (fun k => { k with
      run := none, lec := Core.idle.lec, lc := Core.idle.lc, q := Core.idle.q, signals := [], halted := false,
      inReset := true, tags := 0 }) (advanceCore c s))))

/-- A core waits for nothing and is no longer admitted. -/
def coreWithdrawn (c : Nat) (s : State) : State :=
  { s with
    waiters := s.waiters.filter fun w => !(w.isCore && w.id == c),
    stool := { s.stool with admitted := s.stool.admitted.erase c, ask := s.stool.ask.erase c,
                            elig := s.stool.elig.erase c } }

theorem coreToReset_stages (c : Nat) (s : State) : coreToReset c s = coreWithdrawn c (coreCleared c s) := rfl

theorem actView_coreWithdrawn (c : Nat) (s : State) : actView (coreWithdrawn c s) = actView s := rfl

theorem actView_coreToReset (c : Nat) (s : State) : actView (coreToReset c s) = actView s := by
  rw [coreToReset_stages, actView_coreWithdrawn, coreCleared, actView_fset_unit (coreB_ge c), actView_ctrClear,
    actView_clearRegs (coreB_ge c), actView_modCore, actView_advanceCore]

theorem actView_hoFlush (sel : Nat → Bool) (s : State) : actView (hoFlush sel s) = actView s := rfl

theorem actView_coresToReset (cores : List Nat) (s : State) : actView (coresToReset cores s) = actView s := by
  have hadmit : pwrB + oPWR_STEP_ADMIT ∉ actRegs := by decide
  unfold coresToReset noteAdmit
  lift_lets
  intro u
  have hu : actView u = actView s := (actView_endMoves _ _ _).trans (actView_endInsts cores s)
  rw [forAll_view actView _ fun d w => actView_fset hadmit _ w, actView_hoFlush,
    forAll_view actView _ actView_coreToReset, hu]

theorem actView_unloadParts (parts : List Nat) (s : State) : actView (unloadParts parts s) = actView s := by
  unfold unloadParts
  lift_lets
  intro u
  rw [forAll_view actView _ fun i w => (rfl : actView (freeProg i w) = actView w)]
  unfold u
  split
  · rfl
  · exact ite_view (actView_endCmd _ _ _ _ _) rfl

theorem actView_eraseKey (i : Nat) (s : State) : actView (eraseKey i s) = actView s :=
  ite_view rfl (actView_evt (by decide) (by decide) _)

theorem actView_secSet (r : Requester) (f : Fld) (v : Nat) (s : State) : actView (secSet r f v s) = actView s := rfl

theorem actView_secEnd (r : Requester) (cmd : Nat) (x : SecRes) (s : State) : actView (secEnd r cmd x s) = actView s := by
  unfold secEnd
  lift_lets
  intro u v
  have hv : actView v = actView s := by
    rw [actView_secSet, actView_secSet, actView_secSet, actView_secSet, actView_secSet, actView_secSet]
  split
  · exact ite_view ((actView_raiseMsix _ _ v).trans hv) ((actView_raiseMsix _ _ v).trans hv)
  · exact hv

theorem actView_eraseKeysOf (p : Nat) (s : State) : actView (eraseKeysOf p s) = actView s := by
  unfold eraseKeysOf
  lift_lets
  intro u
  have hu : actView u = actView s := forAll_view actView _ (fun i w => actView_eraseKey _ w) _ s
  clear_value u
  refine (forAll_view actView _ (fun x w => ?_) _ _).trans hu
  exact actView_secEnd _ _ _ w

theorem actView_clearUnits {b : Nat → Nat} (hb : ∀ k, 0x01000000 ≤ b k) (ctr : Nat → CtrBlk) (l xs : List Nat)
    (s : State) : actView (forAll xs (fun k u => ctrClear (ctr k) (clearRegs (b k) l u)) s) = actView s :=
  forAll_view actView _ (fun k u => (actView_ctrClear _ _).trans (actView_clearRegs (hb k) l u)) xs s

theorem actView_advancePart (p : Nat) (s : State) : actView (advancePart p s) = actView s :=
  (actView_fset (by exact (by decide : hubB + oHUB_RESET_GEN ∉ actRegs)) _ _).trans rfl

theorem actView_partToReset (p : Nat) (s : State) : actView (partToReset p s) = actView s := by
  unfold partToReset
  dsimp only
  rw [actView_advancePart]
  refine .trans (b := actView (forAll _ _ _)) rfl ?_
  rw [forAll_view actView _ fun st u => actView_fset_unit (memB_ge st) _ _ u, actView_clearUnits memB_ge,
    actView_clearUnits cluB_ge,
    forAll_view actView _ fun c u => actView_clearRegs (coreB_ge c) _ u, actView_chPartReset,
    forAll_view actView _ fun q u => actView_disableQueue _ q u, actView_coresToReset,
    forAll_view actView _ fun (i : Inst) u => actView_cancelInst i.id stSTALE u, actView_eraseKeysOf, actView_fset (by decide)]

end Sys2Proof.Machine
end

section
/-! SUPPORT. What goes on when MGMT returns to RUN: handshakes, the routes of the package, PAUSE_NOTICE; and the start of the
compute-part reset. -/

namespace Sys2Proof.Machine

/-! Resets. -/

theorem actView_pauseData (v : Nat) (s : State) : actView (fset hubB fHUB_PLANE_STATUS_DATA v s) = actView s := by
  have hplane : mgmtPlane (fset hubB fHUB_PLANE_STATUS_DATA v s) = mgmtPlane s :=
    fget_fset_apart hubB (by decide) (by decide) v s
  have hseq : fget fwuB fFWU_RESULT_SEQ (fset hubB fHUB_PLANE_STATUS_DATA v s) = fget fwuB fFWU_RESULT_SEQ s :=
    fget_fset_ne (by decide) _ _
  simp only [actView, hplane, hseq]
  rfl

theorem actView_computeToReset (s : State) : actView (computeToReset s) = actView s := by
  unfold computeToReset
  lift_lets
  intro u v w x
  have hu : actView u = actView s := (actView_pauseData 2 _).trans rfl
  have hv : actView v = actView s :=
    (forAll_view actView _ (fun (i : Inst) y => actView_cancelInst i.id stSTALE y) _ u).trans hu
  have hw : actView w = actView s := (actView_chResetCores _ _ _).trans ((actView_coresToReset _ v).trans hv)
  exact (actView_clearUnits cluB_ge _ _ _ x).trans ((actView_unloadParts _ w).trans hw)

theorem actView_noteBusy (s : State) : actView (noteBusy s) = actView s := actView_fset (by decide) _ s

/-- The reset of a partition or of the compute part is accepted. -/
def withRun (x : ResetRun) (s : State) : State := { s with rst := { s.rst with runs := s.rst.runs ++ [x] } }

theorem actView_beginReset {unit : Nat} (hunit : unit = 3 ∨ unit = 4) (target : Nat) (req : Option Requester) (s : State) :
    ∃ ph, actView (beginReset unit target req s) = actView (withRun ⟨unit, target, req, ph, [], 0⟩ s) := by
  refine ⟨if mayReset unit target s = true then 1 else 0, (actView_noteBusy _).trans (ite_view ?_ rfl)⟩
  obtain rfl | rfl := hunit
  · exact actView_partToReset target _
  · exact actView_computeToReset _

/-! Link sessions and routes. -/

theorem actView_routeItem (i : CtlItem) (s : State) : actView (routeItem i s) = actView s := by
  unfold routeItem
  split
  · rfl
  · rfl

theorem actView_goShake (h : Handshake) (s : State) : actView (goShake h s) = actView s :=
  ite_view (actView_routeItem _ _) rfl

theorem actView_sessFault (e : Evt) (s : State) : actView (sessFault e s) = actView s :=
  (actView_softFault _ _ _ _ _).trans (actView_evt_unit (fabB_ge 0) e s)

theorem actView_startShake (eid : BitVec 19) (s : State) : actView (startShake eid s) = actView s :=
  ite_view rfl (ite_view (actView_sessFault _ s) (actView_goShake _ _))

theorem actView_entrySetOp (eid : BitVec 19) (w : BitVec 64) (s : State) : actView (entrySetOp eid w s).1 = actView s := by
  unfold entrySetOp
  rw [apply_ite Prod.fst]
  refine ite_view rfl ?_
  dsimp only
  exact ite_view ((actView_startShake _ _).trans (ite_view (actView_endDrain _ _ _) rfl)) (ite_view (actView_endDrain _ _ _) rfl)

theorem actView_drainReqOp (eid : BitVec 19) (s : State) : actView (drainReqOp eid s).1 = actView s := by
  unfold drainReqOp
  split
  · rfl
  · split
    · rfl
    · exact ite_view rfl (actView_startProbes _ _)

theorem actView_routeOwn (y : BitVec 19) (v : BitVec 64) (s : State) : actView (routeOwn y v s) = actView s := by
  have hset : ∀ w, actView (noteEntry (entrySetOp y w s).1) = actView s := fun w => actView_entrySetOp y w s
  have hclear : ∀ w, actView (clearFails y (noteEntry (entrySetOp y w s).1)) = actView s := hset
  unfold routeOwn
  exact ite_view rfl (ite_view (hclear _) (ite_view rfl (ite_view (hset _)
    (ite_view ((actView_drainReqOp _ _).trans (hset _)) (ite_view rfl (ite_view (hset _)
      (ite_view (hclear _) (ite_view (actView_drainReqOp _ _) rfl))))))))

theorem actView_gzSend (dest : Option (BitVec 19)) (body : GzlBody) (s : State) : actView (gzSend dest body s) = actView s := by
  have hsets : ∀ u, actView (noteSets body u) = actView u := by
    intro u
    unfold noteSets
    split
    · exact ite_view rfl rfl
    · rfl
  unfold gzSend
  exact ite_view rfl ((hsets _).trans rfl)

theorem actView_nextWseq (x : BitVec 19) (s : State) : actView (nextWseq x s).2 = actView s := rfl

/-- A WRITE of some operations to another package (R301). -/
def sendOps (x : BitVec 19) (ops : List GzlOp) (s : State) : State :=
  gzSend (some x) (.write (writeOf (nextWseq x s).1 ops (nextWseq x s).2)) (nextWseq x s).2

theorem gzWrite_of_other {x : BitVec 19} {s : State} (h : x ≠ ownEid s) (ops : List GzlOp) : gzWrite x ops s =
    if ops.length ≤ 64 then sendOps x ops s else sendOps x (ops.drop 64) (sendOps x (ops.take 64) s) := by
  rw [gzWrite, gzWriteSt, if_neg h]
  rfl

theorem actView_sendOps (x : BitVec 19) (ops : List GzlOp) (s : State) : actView (sendOps x ops s) = actView s := by
  rw [sendOps, actView_gzSend, actView_nextWseq]

theorem actView_gzWrite {x : BitVec 19} {s : State} (h : x ≠ ownEid s) (ops : List GzlOp) :
    actView (gzWrite x ops s) = actView s := by
  rw [gzWrite_of_other h]
  exact ite_view (actView_sendOps x _ s) ((actView_sendOps x _ _).trans (actView_sendOps x _ s))

theorem actView_gzl (s : State) (g : Gzl) : actView { s with gzl := g } = actView s := rfl

theorem actView_routeTo (y x : BitVec 19) (s : State) : actView (routeTo y x s) = actView s := by
  unfold routeTo
  split
  · exact actView_routeOwn _ _ s
  next hx =>
    have hother : ∀ g : Gzl, x ≠ ownEid { s with gzl := g } := fun _ => hx
    unfold routeOther
    exact ite_view rfl ((actView_gzWrite (hother _) _).trans (actView_gzl s _))

theorem actView_routesOf (x : BitVec 19) (s : State) : actView (routesOf x s) = actView s :=
  (forAll_view actView _ (fun y u => actView_routeTo y x u) _ _).trans
    (forAll_view actView _ (fun z u => actView_routeTo x z u) _ s)

theorem actView_sumpRoutes (back : Bool) (s : State) : actView (sumpRoutes back s) = actView s :=
  ite_view (actView_routesOf _ s) (forAll_view actView _ (fun y u => actView_routeOwn y _ u) _ s)

theorem actView_sumpReady (s : State) : actView (sumpReady s) = actView s := ite_view rfl rfl

theorem actView_sumpStep (s : State) : actView (sumpStep s) = actView s := by
  unfold sumpStep
  refine ite_view rfl (ite_view ?_ (ite_view rfl ?_))
  · exact (actView_sumpReady _).trans ((actView_sumpRoutes _ _).trans (ite_view rfl rfl))
  · exact ite_view (actView_sumpRoutes _ _) (actView_sumpRoutes _ _)

theorem actView_pauseNotice (ms : Nat) (s : State) : actView (pauseNotice ms s) = actView s :=
  ite_view (actView_gzSend _ _ s) rfl

end Sys2Proof.Machine
end

section
/-! SUPPORT. MGMT goes back to RUN with nothing else waiting for it (R28, R29), and how an activation ends (R373, R374). -/

namespace Sys2Proof.Machine

/-! What waits. -/

/-- Nothing waits for the end of a pause of MGMT. -/
structure NothingWaits (s : State) : Prop where
  cab  : s.cab.wait = none
  col  : s.col.wait = none
  sec  : s.sec.wait = []
  mgmt : s.mgmt.wait = []
  runs : s.rst.runs = []
  fab  : s.fab.wait = []
  gzl  : s.gzl.wait = []
  cont : s.gzl.cont = none

/-- What waits, as a view of the state. -/
def waits (s : State) : (Option (BitVec 4 × Bool) × Option ColWait) × (List (Requester × Word) × List MgmtIn) ×
    List ResetRun × List FabWait × List GzlIn × Option GzlCont :=
  ((s.cab.wait, s.col.wait), (s.sec.wait, s.mgmt.wait), s.rst.runs, s.fab.wait, s.gzl.wait, s.gzl.cont)

theorem NothingWaits.of_waits {s t : State} (h : NothingWaits s) (hw : waits t = waits s) : NothingWaits t := by
  simp only [waits, Prod.mk.injEq] at hw
  obtain ⟨⟨hcab, hcol⟩, ⟨hsec, hmgmt⟩, hruns, hfab, hgzl, hcont⟩ := hw
  exact ⟨hcab.trans h.cab, hcol.trans h.col, hsec.trans h.sec, hmgmt.trans h.mgmt, hruns.trans h.runs, hfab.trans h.fab,
    hgzl.trans h.gzl, hcont.trans h.cont⟩

theorem waits_raiseMsix (f v : Nat) (s : State) : waits (raiseMsix f v s) = waits s := by
  have hfired : waits (noteFired f v s) = waits s := ite_view rfl rfl
  exact ite_view hfired (ite_view hfired (ite_view hfired hfired))

theorem waits_evt (b : Nat) (e : Evt) (s : State) : waits (evt b e s) = waits s := by
  unfold evt
  dsimp only
  split
  · rfl
  · exact waits_raiseMsix _ _ _

/-! A new format of the firmware, and settings that it replaced (R172, R376). -/

/-- The changes that a new firmware brings as its hub restart ends. -/
def newFirmware (res : HubRestartIn) (s : State) : State := noteDefaults res (if res.newFmt then cabNewFmt s else s)

theorem waits_regSet (o : Nat) (v : Word) (s : State) : waits (regSet o v s) = waits s := rfl

theorem waits_cabNewFmt (s : State) : waits (cabNewFmt s) = waits s := by
  unfold cabNewFmt noteCab fset
  dsimp only
  rw [waits_regSet, waits_regSet, waits_regSet, waits_regSet, waits_regSet, waits_regSet]
  rfl

theorem waits_newFirmware (res : HubRestartIn) (s : State) : waits (newFirmware res s) = waits s := by
  have hfmt : waits (if res.newFmt = true then cabNewFmt s else s) = waits s := ite_view (waits_cabNewFmt s) rfl
  exact ite_view ((waits_evt _ _ _).trans hfmt) hfmt

theorem actView_cabNewFmt (s : State) : actView (cabNewFmt s) = actView s := by
  unfold cabNewFmt noteCab
  dsimp only
  rw [actView_fset (by decide), actView_fset (by decide), actView_regSet (by decide), actView_regSet (by decide),
    actView_regSet (by decide), actView_regSet (by decide)]
  rfl

theorem actView_newFirmware (res : HubRestartIn) (s : State) : actView (newFirmware res s) = actView s := by
  have hfmt : actView (if res.newFmt = true then cabNewFmt s else s) = actView s := ite_view (actView_cabNewFmt s) rfl
  exact ite_view ((actView_evt (by decide) (by decide) _).trans hfmt) hfmt

/-! MGMT goes on. -/

section
variable {s : State} (h : NothingWaits s)
include h

theorem cabResume_idle : cabResume s = s := by rw [cabResume, h.cab]
theorem resumeResets_idle : resumeResets s = s := by rw [resumeResets, h.runs]; rfl
theorem colResume_idle : colResume s = s := by rw [colResume, h.col]
theorem secResume_idle : secResume s = s := by rw [secResume, h.sec]; rfl
theorem msgsResume_idle : msgsResume s = s := by
  have hm : { s with mgmt := { s.mgmt with wait := [] } } = s := by rw [← h.mgmt]
  rw [msgsResume, h.mgmt, hm]; rfl
theorem fabResume_idle : fabResume s = shakesGo s := by
  have hf : { s with fab := { s.fab with wait := [] } } = s := by rw [← h.fab]
  rw [fabResume, h.fab, hf]; rfl
theorem gzGoOn_idle : gzGoOn s = s := by
  have hg : { s with gzl := { s.gzl with wait := [] } } = s := by rw [← h.gzl]
  have hsame : reportOut s s = s := by
    refine if_neg fun hp => ?_
    obtain ⟨p, _, hp⟩ := List.any_eq_true.1 hp
    simp_all
  have hup : (if gzUp s = true then reportOut s (resumeWrite s) else s) = s := by
    rw [resumeWrite, h.cont]
    dsimp only
    rw [hsame, ite_self]
  rw [gzGoOn]
  dsimp only
  rw [hup, h.gzl, hg, gzHandleAll, ite_self]

end

theorem waits_goShake (x : Handshake) (s : State) : waits (goShake x s) = waits s := by
  have hroute : ∀ (i : CtlItem) u, waits (routeItem i u) = waits u := by
    intro i u
    unfold routeItem
    split
    · rfl
    · rfl
  exact ite_view (hroute _ _) rfl

/-- The state in which MGMT goes on: RUN, with its heartbeat timer started anew. -/
def mgmtRuns (s : State) : State := fset hubB fHUB_PLANE_STATUS_MGMT 1 { s with pwr := { s.pwr with hb := some s.clk.now } }

/-- With nothing waiting, the handshakes go on, and the package works out its routes (R29, R252, R317). -/
theorem mgmtResume_idle {s : State} (h : NothingWaits s) (hp : mgmtPlane s = 2) :
    mgmtResume s = pauseNotice 0 (sumpStep (shakesGo (mgmtRuns s))) := by
  have hr : NothingWaits (mgmtRuns s) := h.of_waits rfl
  have hg : NothingWaits (shakesGo (mgmtRuns s)) := hr.of_waits (forAll_view waits _ waits_goShake _ _)
  rw [mgmtResume, if_neg (not_not.2 hp)]
  change pauseNotice 0 (sumpStep (gzGoOn (fabResume (msgsResume (secResume (colResume (resumeResets
    (cabResume (mgmtRuns s))))))))) = _
  rw [cabResume_idle hr, resumeResets_idle hr, colResume_idle hr, secResume_idle hr, msgsResume_idle hr, fabResume_idle hr,
    gzGoOn_idle hg]

/-- MGMT stands at RUN, and nothing else that an activation looks at has changed. -/
theorem actView_mgmtResume {s : State} (h : NothingWaits s) (hp : mgmtPlane s = 2) :
    actView (mgmtResume s) = (s.nv, s.fwu, s.rst.runs, 1, fget fwuB fFWU_RESULT_SEQ s) := by
  have hplane : mgmtPlane (mgmtRuns s) = 1 := fget_fset_same hubB (by decide) 1 _
  have hseq : fget fwuB fFWU_RESULT_SEQ (mgmtRuns s) = fget fwuB fFWU_RESULT_SEQ s := fget_fset_ne (by decide) 1 _
  have hshakes : actView (shakesGo (mgmtRuns s)) = actView (mgmtRuns s) := forAll_view actView _ actView_goShake _ _
  rw [mgmtResume_idle h hp, actView_pauseNotice, actView_sumpStep, hshakes, actView, hplane, hseq]
  rfl

/-! A command of FWU ends (R381). -/

/-- The registers that the end of a command writes. -/
def fwuEndRegs : List Nat := [oFWU_CMD, oFWU_RESULT, oFWU_BANK, oFWU_EVENT, oFWU_EVENT_CNT0].map (fwuB + ·)

/-- FWU_RESULT and BUSY as a command ends, before FWU_BANK and DONE. -/
def fwuResult (cmd : Nat) (st : BitVec 8) (comp : Nat) (s : State) : State :=
  fset fwuB fFWU_CMD_BUSY 0 (fset fwuB fFWU_RESULT_CMD cmd (fset fwuB fFWU_RESULT_STATUS st.toNat
    (fset fwuB fFWU_RESULT_COMP comp (fadd fwuB fFWU_RESULT_SEQ 1 s))))

theorem fwuEnd_stages (cmd : Nat) (st : BitVec 8) (comp : Nat) (s : State) :
    fwuEnd cmd st comp s = evt fwuB eFWU_EVENT_DONE (noteBank (fwuResult cmd st comp s)) := rfl

theorem regsKept_fwuResult (cmd : Nat) (st : BitVec 8) (comp : Nat) (s : State) :
    RegsKept [fwuB + oFWU_CMD, fwuB + oFWU_RESULT] s (fwuResult cmd st comp s) :=
  ((((regsKept_fset (by decide) _ _).trans (regsKept_fset (by decide) _ _)).trans (regsKept_fset (by decide) _ _)).trans
    (regsKept_fset (by decide) _ _)).trans (regsKept_fset (by decide) _ _)

theorem regsKept_noteBank (s : State) : RegsKept [fwuB + oFWU_BANK] s (noteBank s) :=
  ((((regsKept_fset (by decide) _ _).trans (regsKept_fset (by decide) _ _)).trans (regsKept_fset (by decide) _ _)).trans
    (regsKept_fset (by decide) _ _))

/-- Nothing but registers and interrupts differs. -/
def RegsIrq (s t : State) : Prop := ∃ r h m, t = { s with regs := r, host := h, mgmt := m }

theorem RegsIrq.trans {s t u : State} (h : RegsIrq s t) (k : RegsIrq t u) : RegsIrq s u := by
  obtain ⟨_, _, _, rfl⟩ := h
  obtain ⟨r, i, m, rfl⟩ := k
  exact ⟨r, i, m, rfl⟩

theorem RegsIrq.eq {s t : State} (h : RegsIrq s t) : t = { s with regs := t.regs, host := t.host, mgmt := t.mgmt } := by
  obtain ⟨_, _, _, rfl⟩ := h
  rfl

theorem RegsIrq.nv {s t : State} (h : RegsIrq s t) : t.nv = s.nv := by
  obtain ⟨_, _, _, rfl⟩ := h
  rfl

theorem RegsIrq.flash {s t : State} (h : RegsIrq s t) : t.flash = s.flash := by
  obtain ⟨_, _, _, rfl⟩ := h
  rfl

theorem RegsIrq.mem {s t : State} (h : RegsIrq s t) : t.mem = s.mem := by
  obtain ⟨_, _, _, rfl⟩ := h
  rfl

theorem RegsIrq.fwu {s t : State} (h : RegsIrq s t) : t.fwu = s.fwu := by
  obtain ⟨_, _, _, rfl⟩ := h
  rfl

theorem regsIrq_fset (b : Nat) (f : Fld) (v : Nat) (s : State) : RegsIrq s (fset b f v s) := ⟨_, _, _, rfl⟩

theorem regsIrq_evt (b : Nat) (e : Evt) (s : State) : RegsIrq s (evt b e s) := by
  have hset : RegsIrq s (faddSat b e.cnt 1 (fset b e.bit 1 s)) := (regsIrq_fset b e.bit 1 s).trans (regsIrq_fset _ _ _ _)
  unfold evt
  dsimp only
  split
  · exact hset
  · exact hset.trans ⟨_, _, _, irqOnly_raiseMsix _ _ _⟩

theorem regsIrq_fwuResult (cmd : Nat) (st : BitVec 8) (comp : Nat) (s : State) : RegsIrq s (fwuResult cmd st comp s) :=
  ((((regsIrq_fset _ _ _ _).trans (regsIrq_fset _ _ _ _)).trans (regsIrq_fset _ _ _ _)).trans (regsIrq_fset _ _ _ _)).trans
    (regsIrq_fset _ _ _ _)

theorem regsIrq_fwuEnd (cmd : Nat) (st : BitVec 8) (comp : Nat) (s : State) : RegsIrq s (fwuEnd cmd st comp s) := by
  have hbank : ∀ u, RegsIrq u (noteBank u) := fun u =>
    (((regsIrq_fset _ _ _ _).trans (regsIrq_fset _ _ _ _)).trans (regsIrq_fset _ _ _ _)).trans (regsIrq_fset _ _ _ _)
  rw [fwuEnd_stages]
  exact ((regsIrq_fwuResult cmd st comp s).trans (hbank _)).trans (regsIrq_evt _ _ _)

theorem regsKept_fwuEnd (cmd : Nat) (st : BitVec 8) (comp : Nat) (s : State) :
    RegsKept fwuEndRegs s (fwuEnd cmd st comp s) := by
  rw [fwuEnd_stages]
  exact (((regsKept_fwuResult cmd st comp s).mono (by decide)).trans ((regsKept_noteBank _).mono (by decide))).trans
    (regsKept_evt (by decide) (by decide) _)

/-- FWU_RESULT and BUSY show the end of a command. -/
theorem fwuResult_shows {cmd : Nat} (hc : cmd < 16) (st : BitVec 8) (comp : Nat) (s : State) :
    fget fwuB fFWU_RESULT_CMD (fwuResult cmd st comp s) = cmd ∧
    fget fwuB fFWU_RESULT_STATUS (fwuResult cmd st comp s) = st.toNat ∧
    fget fwuB fFWU_RESULT_SEQ (fwuResult cmd st comp s) =
      (fget fwuB fFWU_RESULT_SEQ s + 1) % 2 ^ (fFWU_RESULT_SEQ.hi + 1 - fFWU_RESULT_SEQ.lo) ∧
    fget fwuB fFWU_CMD_BUSY (fwuResult cmd st comp s) = 0 := by
  unfold fwuResult
  refine ⟨?_, ?_, ?_, fget_fset_same fwuB (by decide) 0 _⟩
  · rw [fget_fset_ne (by decide), fget_fset_same fwuB (by decide)]
    exact Nat.mod_eq_of_lt hc
  · rw [fget_fset_ne (by decide), fget_fset_apart fwuB (by decide) (by decide), fget_fset_same fwuB (by decide)]
    exact Nat.mod_eq_of_lt st.isLt
  · rw [fget_fset_ne (by decide), fget_fset_apart fwuB (by decide) (by decide), fget_fset_apart fwuB (by decide) (by decide),
      fget_fset_apart fwuB (by decide) (by decide), fadd, fget_fset_same fwuB (by decide)]

/-- FWU_BANK shows the marks. -/
theorem noteBank_shows (s : State) : fget fwuB fFWU_BANK_ACTIVE (noteBank s) = s.nv.active.toNat ∧
    fget fwuB fFWU_BANK_STAGED (noteBank s) = s.nv.staged.toNat := by
  unfold noteBank
  constructor
  · rw [fget_fset_same fwuB (by decide)]
    exact Nat.mod_eq_of_lt (Bool.toNat_lt _)
  · rw [fget_fset_apart fwuB (by decide) (by decide), fget_fset_same fwuB (by decide)]
    exact Nat.mod_eq_of_lt (Bool.toNat_lt _)

theorem regsKept_fwuDone (s : State) :
    RegsKept [fwuB + oFWU_EVENT, fwuB + oFWU_EVENT_CNT0] s (evt fwuB eFWU_EVENT_DONE s) :=
  regsKept_evt (by decide) (by decide) s

/-- FWU_RESULT, FWU_BANK and DONE show the end of a command. -/
theorem fwuEnd_shows {cmd : Nat} (hc : cmd < 16) (st : BitVec 8) (comp : Nat) {s u : State}
    (hs : fget fwuB fFWU_RESULT_SEQ u = fget fwuB fFWU_RESULT_SEQ s) : FwuShows cmd st s (fwuEnd cmd st comp u) := by
  have hnv := (regsIrq_fwuEnd cmd st comp u).nv
  have hnv' := (regsIrq_fwuResult cmd st comp u).nv
  obtain ⟨hcmd, hst, hseq, hbusy⟩ := fwuResult_shows hc st comp u
  rw [fwuEnd_stages] at hnv ⊢
  generalize fwuResult cmd st comp u = w at *
  obtain ⟨hactive, hstaged⟩ := noteBank_shows w
  have hdone := regsKept_fwuDone (noteBank w)
  have hbank := regsKept_noteBank w
  refine ⟨?_, ?_, ?_, ?_, fget_evt_bit fwuB (by decide) (by decide) (by decide) _, ?_, ?_⟩
  · rw [hdone.fget (by decide), hbank.fget (by decide), hcmd]
  · rw [hdone.fget (by decide), hbank.fget (by decide), hst]
  · rw [hdone.fget (by decide), hbank.fget (by decide), hseq, hs]
  · rw [hdone.fget (by decide), hbank.fget (by decide), hbusy]
  · rw [hdone.fget (by decide), hactive, hnv, hnv']
  · rw [hdone.fget (by decide), hstaged, hnv, hnv']

theorem mgmtPlane_fwuEnd (cmd : Nat) (st : BitVec 8) (comp : Nat) (s : State) :
    mgmtPlane (fwuEnd cmd st comp s) = mgmtPlane s := (regsKept_fwuEnd cmd st comp s).fget (by decide)

/-- The end of a command leaves REVERTED alone. -/
theorem fwuEnd_reverted (cmd : Nat) (st : BitVec 8) (comp : Nat) (s : State) :
    fget fwuB fFWU_EVENT_REVERTED (fwuEnd cmd st comp s) = fget fwuB fFWU_EVENT_REVERTED s := by
  have hres : RegsKept [fwuB + oFWU_CMD, fwuB + oFWU_RESULT] s (fwuResult cmd st comp s) :=
    regsKept_fwuResult cmd st comp s
  rw [fwuEnd_stages, fget_evt_apart fwuB (by decide) (by decide) (by decide), (regsKept_noteBank _).fget (by decide),
    hres.fget (by decide)]

/-! The hub restart of an activation ends (R373, R374). -/

theorem exec_hubRestartDone {res : HubRestartIn} {a : FwAct} {s : State} (ha : s.fwu.act = some a) (hs : isSafe s = false) :
    exec (.hubRestartDone res) s = .next (restartDone res a s) := by
  change Host.Outcome.next (match s.fwu.act with
    | none => s
    | some a => if isSafe s then s else restartDone res a s) = _
  rw [ha]
  dsimp only
  rw [if_neg (by simp [hs])]

theorem restartDone_failed {res : HubRestartIn} {a : FwAct} {s : State} (hp : a.phase = 1)
    (hst : (restartStatus res s).1 ≠ stOK) :
    restartDone res a s = setAct (some { a with
      phase := 2, micro := false, status := (restartStatus res s).1, comp := (restartStatus res s).2 }) s := by
  rw [restartDone, if_neg (by omega), if_pos hp]
  exact if_pos hst

theorem restartDone_passed {res : HubRestartIn} {a : FwAct} {s : State} (hp : a.phase = 1)
    (hst : (restartStatus res s).1 = stOK) :
    restartDone res a s = if a.micro then loadMicro (setAct (some { a with phase := 3 }) (mgmtResume (newFirmware res s)))
      else activationDone (mgmtResume (newFirmware res s)) := by
  rw [restartDone, if_neg (by omega), if_pos hp]
  exact if_neg (not_not.2 hst)

theorem restartDone_back {res : HubRestartIn} {a : FwAct} {s : State} (hp : a.phase = 2) (hm : a.micro = false) :
    restartDone res a s = activationUndone a (evt fwuB eFWU_EVENT_REVERTED (mgmtResume s)) := by
  rw [restartDone, if_neg (by omega), if_neg (by omega), if_pos hp]
  exact if_neg (by simp [hm])

/-- The new microcode is loaded by a reset of the compute part (R362, R373). -/
theorem actView_loadMicro {s : State} (h : s.rst.runs = []) :
    ∃ ph, actView (loadMicro s) = actView (withRun ⟨4, 0, none, ph, [], 0⟩ s) := by
  have hbegin : loadMicro s = beginReset 4 0 none s := if_neg (by simp [h])
  rw [hbegin]
  exact actView_beginReset (.inr rfl) 0 none s

/-- The part of `actView` that the resets of an activation keep. -/
def doneView (s : State) : Nv × Fwu × Nat × Nat := (s.nv, s.fwu, mgmtPlane s, fget fwuB fFWU_RESULT_SEQ s)

theorem doneView_of_actView {s t : State} (h : actView t = actView s) : doneView t = doneView s := by
  simp only [actView, Prod.mk.injEq] at h
  obtain ⟨hnv, hfwu, -, hplane, hseq⟩ := h
  rw [doneView, doneView, hnv, hfwu, hplane, hseq]

/-- The state in which the banks have changed roles, before partitions are reset. -/
def bankSwapped (s : State) : State :=
  setAct none { s with nv := { s.nv with active := !s.nv.active, staged := false, marked := false } }

/-- A partition whose slots do not list the new manifest is reset (R424). -/
def unlistedReset (p : Nat) (s : State) : State :=
  let s := eraseKeysOf p s
  if s.rst.runs.any fun x => x.unit == 3 && x.target == p then s else beginReset 3 p none s

theorem activationDone_stages (s : State) : activationDone s =
    fwuEnd 2 stOK 0 (forAll (partsUnlisted (manDigest (bankSwapped s).nv.active (bankSwapped s)) (bankSwapped s)) unlistedReset
      (bankSwapped s)) := rfl

theorem doneView_unlistedReset (p : Nat) (s : State) : doneView (unlistedReset p s) = doneView s := by
  have herase : doneView (eraseKeysOf p s) = doneView s := doneView_of_actView (actView_eraseKeysOf p s)
  obtain ⟨ph, hbegin⟩ := actView_beginReset (.inl rfl) p none (eraseKeysOf p s)
  exact ite_view herase ((doneView_of_actView hbegin).trans herase)

/-- The checks of the staged bank pass, and a new microcode is to be loaded (R373). -/
theorem restartDone_micro {res : HubRestartIn} {a : FwAct} {s : State} (h : NothingWaits s) (hplane : mgmtPlane s = 2)
    (hp : a.phase = 1) (hst : (restartStatus res s).1 = stOK) (hm : a.micro = true) :
    mgmtPlane (restartDone res a s) = 1 ∧ (restartDone res a s).fwu.act = some { a with phase := 3 } ∧
    ((restartDone res a s).rst.runs.any fun x => x.unit == 4) = true ∧ (restartDone res a s).nv = s.nv := by
  have hfirm := actView_newFirmware res s
  have hrun := actView_mgmtResume (h.of_waits (waits_newFirmware res s)) ((congrArg (·.2.2.2.1) hfirm).trans hplane)
  rw [restartDone_passed hp hst, if_pos hm]
  generalize mgmtResume (newFirmware res s) = u at hrun ⊢
  generalize newFirmware res s = v at hfirm hrun
  simp only [actView, Prod.mk.injEq] at hfirm hrun
  obtain ⟨hnv, hfwu, hruns, -, -⟩ := hfirm
  obtain ⟨hnv', hfwu', hruns', hplane', -⟩ := hrun
  obtain ⟨ph, hload⟩ := actView_loadMicro (s := setAct (some { a with phase := 3 }) u) (hruns'.trans (hruns.trans h.runs))
  generalize loadMicro (setAct (some { a with phase := 3 }) u) = t at hload ⊢
  simp only [actView, Prod.mk.injEq] at hload
  obtain ⟨tnv, tfwu, truns, tplane, -⟩ := hload
  refine ⟨tplane.trans hplane', congrArg Fwu.act tfwu, ?_, tnv.trans (hnv'.trans hnv)⟩
  rw [truns]
  simp [withRun]

/-- The checks of the staged bank pass, and the activation completes (R374, R424). -/
theorem restartDone_completes {res : HubRestartIn} {a : FwAct} {s : State} (h : NothingWaits s) (hplane : mgmtPlane s = 2)
    (hp : a.phase = 1) (hst : (restartStatus res s).1 = stOK) (hm : a.micro = false) :
    mgmtPlane (restartDone res a s) = 1 ∧ (restartDone res a s).fwu.act = none ∧ FwuShows 2 stOK s (restartDone res a s) ∧
    (restartDone res a s).nv = { s.nv with active := !s.nv.active, staged := false, marked := false } := by
  have hfirm := actView_newFirmware res s
  have hrun := actView_mgmtResume (h.of_waits (waits_newFirmware res s)) ((congrArg (·.2.2.2.1) hfirm).trans hplane)
  rw [restartDone_passed hp hst, if_neg (by simp [hm]), activationDone_stages]
  generalize mgmtResume (newFirmware res s) = u at hrun ⊢
  generalize newFirmware res s = v at hfirm hrun
  simp only [actView, Prod.mk.injEq] at hfirm hrun
  obtain ⟨hnv, -, -, -, hseq⟩ := hfirm
  obtain ⟨hnv', -, -, hplane', hseq'⟩ := hrun
  have hreset := forAll_view doneView unlistedReset doneView_unlistedReset
    (partsUnlisted (manDigest (bankSwapped u).nv.active (bankSwapped u)) (bankSwapped u)) (bankSwapped u)
  generalize forAll _ unlistedReset (bankSwapped u) = w at hreset ⊢
  simp only [doneView, Prod.mk.injEq] at hreset
  obtain ⟨wnv, wfwu, wplane, wseq⟩ := hreset
  have hend := regsIrq_fwuEnd 2 stOK 0 w
  refine ⟨?_, ?_, fwuEnd_shows (by decide) stOK 0 (wseq.trans (hseq'.trans hseq)), ?_⟩
  · rw [mgmtPlane_fwuEnd, wplane]
    exact hplane'
  · rw [hend.fwu, wfwu]
    rfl
  · rw [hend.nv, wnv]
    simp only [bankSwapped, setAct, hnv', hnv]

/-- The hub is back on the active bank, and the activation was undone (R374). -/
theorem restartDone_reverts {res : HubRestartIn} {a : FwAct} {s : State} (h : NothingWaits s) (hplane : mgmtPlane s = 2)
    (hp : a.phase = 2) (hm : a.micro = false) :
    mgmtPlane (restartDone res a s) = 1 ∧ (restartDone res a s).fwu.act = none ∧
    FwuShows 2 a.status s (restartDone res a s) ∧
    fget fwuB fFWU_EVENT_REVERTED (restartDone res a s) = 1 ∧ (restartDone res a s).nv = s.nv := by
  have hrun := actView_mgmtResume h hplane
  rw [restartDone_back hp hm, activationUndone]
  generalize mgmtResume s = u at hrun ⊢
  have hevt : actView (evt fwuB eFWU_EVENT_REVERTED u) = actView u := actView_evt (by decide) (by decide) u
  have hbit : fget fwuB fFWU_EVENT_REVERTED (evt fwuB eFWU_EVENT_REVERTED u) = 1 :=
    fget_evt_bit fwuB (by decide) (by decide) (by decide) u
  rw [hrun] at hevt
  generalize evt fwuB eFWU_EVENT_REVERTED u = v at hevt hbit ⊢
  simp only [actView, Prod.mk.injEq] at hevt
  obtain ⟨hnv, -, -, hplane', hseq⟩ := hevt
  have hend := regsIrq_fwuEnd 2 a.status a.comp (setAct none v)
  refine ⟨?_, ?_, fwuEnd_shows (by decide) _ _ hseq, ?_, hend.nv.trans hnv⟩
  · rw [mgmtPlane_fwuEnd]
    exact hplane'
  · rw [hend.fwu]
    rfl
  · rw [fwuEnd_reverted]
    exact hbit

end Sys2Proof.Machine
end

section
/-! SUPPORT. The commands of FWU (R372, R373, R378, R381): what a command that is taken does, the banks of the flash, and the
start of the hub restart. -/

namespace Sys2Proof.Machine

/-! A command that is taken. -/

/-- The state in which a command runs: FWU_CMD names it. -/
def fwuTaken (cmd : Nat) (s : State) : State := fset fwuB fFWU_CMD_CMD cmd s

/-- The command is taken at once: it may be written, no other runs, and no update mode is on (R372, R381). -/
structure FwuFree (r : Requester) (s : State) : Prop where
  pf0    : isPf0 r = true
  serves : fwuServes s = true
  idle   : fget fwuB fFWU_CMD_BUSY s = 0
  noUpd  : s.fwu.upd = none

theorem fwuWrite_taken {r : Requester} {s : State} (h : FwuFree r s) (cmd : Nat) :
    fwuWrite r cmd s = fwuRun cmd (fwuTaken cmd s) := by
  rw [fwuWrite, if_neg (by simp [h.pf0, h.serves]), if_neg (by simp [h.idle])]
  exact if_neg (by simp [fset, regSet, h.noUpd])

theorem regsIrq_fwuTaken (cmd : Nat) (s : State) : RegsIrq s (fwuTaken cmd s) := regsIrq_fset _ _ _ s

theorem regsKept_fwuTaken (cmd : Nat) (s : State) : RegsKept [fwuB + oFWU_CMD] s (fwuTaken cmd s) :=
  regsKept_fset (by decide) _ s

theorem seq_fwuTaken (cmd : Nat) (s : State) :
    fget fwuB fFWU_RESULT_SEQ (fwuTaken cmd s) = fget fwuB fFWU_RESULT_SEQ s := (regsKept_fwuTaken cmd s).fget (by decide)

/-- Only the marks of the banks, registers of FWU and interrupts differ. -/
def MarksOnly (s : State) (nv : Nv) (t : State) : Prop :=
  t.nv = nv ∧ RegsOutside fwuB 0x100000 s t ∧ t = { s with regs := t.regs, nv := nv, host := t.host, mgmt := t.mgmt }

theorem regsOutside_of_kept {l : List Nat} {s t : State} (h : RegsKept l s t)
    (hl : ∀ o ∈ l, fwuB ≤ o ∧ o < fwuB + 0x100000) :
    RegsOutside fwuB 0x100000 s t := fun o ho => h o fun hm => by
  have := hl o hm
  omega

/-- The marks of the banks as a command leaves them. -/
def withNv (nv : Nv) (s : State) : State := { s with nv := nv }

theorem fget_withNv (b : Nat) (f : Fld) (nv : Nv) (s : State) : fget b f (withNv nv s) = fget b f s := rfl

theorem regsIrq_withNv {s t : State} (h : RegsIrq s t) (nv : Nv) : RegsIrq (withNv nv s) (withNv nv t) := by
  obtain ⟨r, i, m, rfl⟩ := h
  exact ⟨r, i, m, rfl⟩

theorem marksOnly_fwuEnd (cmd : Nat) (st : BitVec 8) (s : State) (nv : Nv) :
    MarksOnly s nv (fwuEnd cmd st 0 (withNv nv (fwuTaken cmd s))) := by
  have hend := (regsIrq_withNv (regsIrq_fwuTaken cmd s) nv).trans (regsIrq_fwuEnd cmd st 0 _)
  have hnv : RegsKept fwuEndRegs (fwuTaken cmd s) (withNv nv (fwuTaken cmd s)) := .of_regs rfl
  have hkept := (((regsKept_fwuTaken cmd s).mono (by decide)).trans hnv).trans (regsKept_fwuEnd cmd st 0 _)
  generalize fwuEnd cmd st 0 (withNv nv (fwuTaken cmd s)) = t at hend hkept ⊢
  exact ⟨hend.nv, regsOutside_of_kept hkept (by decide), hend.eq⟩

theorem fwuShows_taken {cmd : Nat} (hc : cmd < 16) (st : BitVec 8) (s : State) (nv : Nv) :
    FwuShows cmd st s (fwuEnd cmd st 0 (withNv nv (fwuTaken cmd s))) :=
  fwuEnd_shows hc st 0 ((fget_withNv _ _ nv _).trans (seq_fwuTaken cmd s))

end Sys2Proof.Machine
end

section
/-! SUPPORT. The banks of the flash and STAGE (R370, R372, R378). -/

namespace Sys2Proof.Machine

/-! What a bank holds. -/

/-- The banks hold the same in two states. -/
def SameBanks (s t : State) : Prop := t.nv.shipped = s.nv.shipped ∧ t.flash = s.flash

theorem bankByte_congr {s t : State} (h : SameBanks s t) (b : Bool) (i : Nat) : bankByte b i t = bankByte b i s := by
  rw [bankByte, bankByte, h.1, h.2]

theorem bankBytes_congr {s t : State} (h : SameBanks s t) (b : Bool) (i n : Nat) : bankBytes b i n t = bankBytes b i n s := by
  simp only [bankBytes, bankByte_congr h]

theorem bank32_congr {s t : State} (h : SameBanks s t) (b : Bool) (i : Nat) : bank32 b i t = bank32 b i s := by
  simp only [bank32, bankBytes_congr h]

theorem bank16_congr {s t : State} (h : SameBanks s t) (b : Bool) (i : Nat) : bank16 b i t = bank16 b i s := by
  simp only [bank16, bankBytes_congr h]

theorem headerStatus_congr {s t : State} (h : SameBanks s t) (b : Bool) (n : Nat) :
    headerStatus b n t = headerStatus b n s := by
  rw [headerStatus, headerStatus, bankLen, bankLen, bankBytes_congr h, bank16_congr h, bank16_congr h, bank32_congr h,
    bank32_congr h]

theorem compAt_congr {s t : State} (h : SameBanks s t) (b : Bool) (ty : Nat) : compAt b ty t = compAt b ty s := by
  simp only [compAt, bank16_congr h]

theorem compsDiffer_congr {s t : State} (h : SameBanks s t) : compsDiffer t = compsDiffer s := by
  simp only [compsDiffer, compVersion, compDigest, compAt_congr h, bank32_congr h, bankBytes_congr h]

theorem sameBanks_of_regsIrq {s t : State} (h : RegsIrq s t) : SameBanks s t := ⟨congrArg Nv.shipped h.nv, h.flash⟩

/-! A bank that is filled. -/

/-- A bank is erased, and entries stand at its begin. -/
def fillBank (b : Bool) (n : Nat) (sl : Tbl Byte) (s : State) : State := putBank b 0 n sl (eraseBank b s)

theorem tget_fillBank_inside {b : Bool} {n j : Nat} {sl : Tbl Byte} (hsl : Rising 0 sl) (hj : j < n) (s : State) :
    tget (fun _ => 0) (fillBank b n sl s).flash (bankBase b + j) = tget (fun _ => 0) sl j := by
  change tget (fun _ => 0) (tput (bankBase b + 0) n (tclean 0 n sl) (eraseBank b s).flash) _ = _
  rw [tget_tput 0 _ n _ _ _ fun c hc => mem_tclean_lt hc, if_pos (by omega), tget_tclean n sl 0 _ hsl, if_pos (by omega)]
  congr 1
  omega

theorem tget_fillBank_outside {b : Bool} {n k : Nat} (hn : n ≤ bankSize) (hk : k < bankBase b ∨ bankBase b + bankSize ≤ k)
    (sl : Tbl Byte) (s : State) : tget (fun _ => 0) (fillBank b n sl s).flash k = tget (fun _ => 0) s.flash k := by
  change tget (fun _ => 0) (tput (bankBase b + 0) n (tclean 0 n sl) (tput (bankBase b) bankSize [] s.flash)) _ = _
  rw [tget_tput 0 _ n _ _ _ fun c hc => mem_tclean_lt hc, if_neg (by omega),
    tget_tput 0 _ bankSize _ _ _ (by simp), if_neg (by omega)]

theorem getD_modAt_ne {α : Type} (f : α → α) (d : α) : ∀ (l : List α) {i j : Nat}, j ≠ i →
    (modAt i f l).getD j d = l.getD j d
  | [], _, _, _ => by simp [modAt]
  | _ :: _, 0, 0, h => absurd rfl h
  | _ :: _, 0, _ + 1, _ => rfl
  | _ :: _, _ + 1, 0, _ => rfl
  | _ :: l, i + 1, j + 1, h => getD_modAt_ne f d l fun e => h (congrArg (· + 1) e)

/-- The other bank holds what it held. -/
theorem bankByte_fillBank_other {b c : Bool} (hc : c ≠ b) {n j : Nat} (hn : n ≤ bankSize) (hj : j < bankSize) (sl : Tbl Byte)
    (s : State) : bankByte c j (fillBank b n sl s) = bankByte c j s := by
  have hship : (fillBank b n sl s).nv.shipped.getD c.toNat false = s.nv.shipped.getD c.toNat false :=
    getD_modAt_ne _ _ _ (by cases b <;> cases c <;> simp_all)
  have hflash : tget (fun _ => 0) (fillBank b n sl s).flash (bankBase c + j) = tget (fun _ => 0) s.flash (bankBase c + j) := by
    refine tget_fillBank_outside hn ?_ sl s
    cases b <;> cases c <;> simp_all [bankBase]
  rw [bankByte, bankByte, hship, hflash]

/-! The checks of a range of memory (R372). -/

theorem stackOk_fwuTaken (st cmd : Nat) (s : State) : stackOk st (fwuTaken cmd s) = stackOk st s := by
  have hge := memB_ge st
  have hmem : memB st + fMEM_STATUS_STATE.off ∉ [fwuB + oFWU_CMD] := fun hm => by
    have heq := List.mem_singleton.1 hm
    simp only [fwuB, oFWU_CMD] at heq
    omega
  rw [stackOk, stackOk, (regsKept_fwuTaken cmd s).fget hmem]

theorem cluOk_fwuTaken (k cmd : Nat) (s : State) : cluOk k (fwuTaken cmd s) = cluOk k s := by
  rw [cluOk, cluOk, (regsKept_fwuTaken cmd s).fget (by decide)]

theorem scrubbing_fwuTaken (p cmd : Nat) (s : State) : scrubbing p (fwuTaken cmd s) = scrubbing p s := by
  rw [scrubbing, scrubbing, (regsKept_fwuTaken cmd s).fget (by decide)]

theorem RegsIrq.cab {s t : State} (h : RegsIrq s t) : t.cab = s.cab := by
  obtain ⟨_, _, _, rfl⟩ := h
  rfl

theorem RegsIrq.resetting {s t : State} (h : RegsIrq s t) : t.busyParts = s.busyParts ∧ t.computeReset = s.computeReset := by
  obtain ⟨_, _, _, rfl⟩ := h
  exact ⟨rfl, rfl⟩

theorem ownersIn_congr {s t : State} (h : t.cab = s.cab) (a n : Nat) : ownersIn a n t = ownersIn a n s := by
  rw [ownersIn, ownersIn, h]

theorem reachStatus_congr {s t : State} (h : t.cab = s.cab) (w : Who) (a n : Nat) :
    reachStatus w a n t = reachStatus w a n s := by
  have hreach : ∀ o, reachesPart w o t = reachesPart w o s := fun o => by simp only [reachesPart, h]
  simp only [reachStatus, ownersIn_congr h, inTable, h, hreach]

/-- What a range is checked against does not change with FWU_CMD. -/
theorem rangeStatus_fwuTaken (w : Who) (a n cmd : Nat) (s : State) :
    rangeStatus w a n (fwuTaken cmd s) = rangeStatus w a n s := by
  have hcab := (regsIrq_fwuTaken cmd s).cab
  obtain ⟨hbusy, hcompute⟩ := (regsIrq_fwuTaken cmd s).resetting
  have hfence : fenceStatus a n (fwuTaken cmd s) = fenceStatus a n s := by
    simp only [fenceStatus, cluOk_fwuTaken, stackOk_fwuTaken]
  have hdrain : drainStatus a n (fwuTaken cmd s) = drainStatus a n s := by
    simp only [drainStatus, ownersIn_congr hcab, scrubbing_fwuTaken, hbusy, hcompute]
  rw [rangeStatus, rangeStatus, reachStatus_congr hcab, hfence, hdrain]

theorem fwuSrc_fwuTaken (cmd : Nat) (s : State) : fwuSrc (fwuTaken cmd s) = fwuSrc s := by
  rw [fwuSrc, fwuSrc, (regsKept_fwuTaken cmd s).fget (by decide), (regsKept_fwuTaken cmd s).fget (by decide)]

theorem fwuLen_fwuTaken (cmd : Nat) (s : State) : fwuLen (fwuTaken cmd s) = fwuLen s :=
  (regsKept_fwuTaken cmd s).fget (by decide)

/-! STAGE from memory (R372). -/

/-- What the range of STAGE gives. -/
def stageStatus (s : State) : BitVec 8 :=
  firstFail [failIf (decide (bankSize < fwuLen s)) stLENGTH,
    if fwuLen s = 0 then stOK else rangeStatus .pf0 (fwuSrc s) (fwuLen s) s]

theorem stageStatus_fwuTaken (cmd : Nat) (s : State) : stageStatus (fwuTaken cmd s) = stageStatus s := by
  simp only [stageStatus, fwuSrc_fwuTaken, fwuLen_fwuTaken, rangeStatus_fwuTaken]

/-- The marks with no staged bank. -/
def unstaged (nv : Nv) : Nv := { nv with staged := false, marked := false }

theorem fwuStageMem_refused {s : State} (h : stageStatus s ≠ stOK) :
    fwuStageMem s = fwuEnd 1 (stageStatus s) 0 (withNv (unstaged s.nv) s) := if_pos h

/-- The image has been copied to the idle bank. -/
def stageCopied (s : State) : State :=
  fillBank (idleBank s) (fwuLen s) (memSlice (fwuSrc s) (fwuLen s) s)
    (readAll (fwuSrc s) (fwuLen s) (withNv (unstaged s.nv) s)).1

theorem fwuStageMem_copies {s : State} (h : stageStatus s = stOK) :
    fwuStageMem s = fwuEnd 1 (headerStatus (idleBank s) (fwuLen s) (stageCopied s)) 0
      (setStaged (headerStatus (idleBank s) (fwuLen s) (stageCopied s) == stOK) (stageCopied s)) := if_neg (not_not.2 h)

theorem le_bankSize_of_stageStatus {s : State} (h : stageStatus s = stOK) : fwuLen s ≤ bankSize := by
  by_contra hn
  rw [stageStatus, failIf, if_pos (by simpa using hn), firstFail, if_neg (by decide)] at h
  exact absurd h (by decide)

end Sys2Proof.Machine
end

section
/-! SUPPORT. STAGE as a whole: from memory, and in ROM recovery from the recovery buffer (R372, R378). -/

namespace Sys2Proof.Machine

theorem RegsIrq.boot {s t : State} (h : RegsIrq s t) : t.boot = s.boot := by
  obtain ⟨_, _, _, rfl⟩ := h
  rfl

theorem fwuRun_stage {u : State} (h : u.nv.lc ≠ 3) :
    fwuRun 1 u = if u.boot.phase = 3 then fwuStageRom u else fwuStageMem u := if_neg h
theorem fwuRun_activate {u : State} (h : u.nv.lc ≠ 3) : fwuRun 2 u = fwuActivateRun u := if_neg h
theorem fwuRun_mark {u : State} (h : u.nv.lc ≠ 3) : fwuRun 3 u = fwuMark u := if_neg h
theorem fwuRun_cancel {u : State} (h : u.nv.lc ≠ 3) : fwuRun 4 u = fwuEnd 4 stOK 0 (withNv (unstaged u.nv) u) := if_neg h

section
variable {r : Requester} {s : State} (h : FwuFree r s) (hlc : s.nv.lc ≠ 3)
include hlc

theorem lc_fwuTaken (cmd : Nat) : (fwuTaken cmd s).nv.lc ≠ 3 := by
  rw [(regsIrq_fwuTaken cmd s).nv]
  exact hlc

include h

theorem fwuWrite_stage : fwuWrite r 1 s =
    if s.boot.phase = 3 then fwuStageRom (fwuTaken 1 s) else fwuStageMem (fwuTaken 1 s) := by
  rw [fwuWrite_taken h, fwuRun_stage (lc_fwuTaken hlc 1), (regsIrq_fwuTaken 1 s).boot]

theorem fwuWrite_activate : fwuWrite r 2 s = fwuActivateRun (fwuTaken 2 s) := by
  rw [fwuWrite_taken h, fwuRun_activate (lc_fwuTaken hlc 2)]

theorem fwuWrite_mark : fwuWrite r 3 s = fwuMark (fwuTaken 3 s) := by
  rw [fwuWrite_taken h, fwuRun_mark (lc_fwuTaken hlc 3)]

theorem fwuWrite_cancel : fwuWrite r 4 s = fwuEnd 4 stOK 0 (withNv (unstaged s.nv) (fwuTaken 4 s)) := by
  rw [fwuWrite_taken h, fwuRun_cancel (lc_fwuTaken hlc 4), (regsIrq_fwuTaken 4 s).nv]

/-- A range that fails its checks clears the marks, and gives the status (R372). -/
theorem stage_refused (hrom : s.boot.phase ≠ 3) (hst : stageStatus s ≠ stOK) : Goes (.fwuStage r) s fun t =>
    FwuShows 1 (stageStatus s) s t ∧ MarksOnly s (unstaged s.nv) t := by
  have hwrite : fwuWrite r 1 s = fwuEnd 1 (stageStatus s) 0 (withNv (unstaged s.nv) (fwuTaken 1 s)) := by
    rw [fwuWrite_stage h hlc, if_neg hrom, fwuStageMem_refused (by rwa [stageStatus_fwuTaken]), stageStatus_fwuTaken,
      (regsIrq_fwuTaken 1 s).nv]
  exact ⟨_, congrArg Host.Outcome.next hwrite, fwuShows_taken (by decide) _ s _, marksOnly_fwuEnd 1 _ s _⟩

end

/-! STAGE from memory: the image in the idle bank. -/

theorem nv_withNv (nv : Nv) (s : State) : (withNv nv s).nv = nv := rfl

theorem nv_fillBank (b : Bool) (n : Nat) (sl : Tbl Byte) (s : State) :
    (fillBank b n sl s).nv = { s.nv with shipped := modAt b.toNat (fun _ => false) s.nv.shipped } := rfl

theorem fget_fillBank (a : Nat) (f : Fld) (b : Bool) (n : Nat) (sl : Tbl Byte) (s : State) :
    fget a f (fillBank b n sl s) = fget a f s := rfl

theorem mem_fillBank (b : Bool) (n : Nat) (sl : Tbl Byte) (s : State) : (fillBank b n sl s).mem = s.mem := rfl

theorem mem_withNv (nv : Nv) (s : State) : (withNv nv s).mem = s.mem := rfl

theorem flash_withNv (nv : Nv) (s : State) : (withNv nv s).flash = s.flash := rfl

theorem seq_readAll (a n : Nat) (s : State) :
    fget fwuB fFWU_RESULT_SEQ (readAll a n s).1 = fget fwuB fFWU_RESULT_SEQ s :=
  congrArg (·.2.2.2.2) (actView_readAll a n s)

theorem seq_stageCopied (s : State) : fget fwuB fFWU_RESULT_SEQ (stageCopied s) = fget fwuB fFWU_RESULT_SEQ s := by
  rw [stageCopied, fget_fillBank, seq_readAll, fget_withNv]

theorem mem_stageCopied (s : State) : (stageCopied s).mem = s.mem := by
  rw [stageCopied, mem_fillBank, quiet_mem.readAll, mem_withNv]

theorem active_stageCopied (s : State) : (stageCopied s).nv.active = s.nv.active := by
  rw [stageCopied, nv_fillBank, quiet_nv.readAll, nv_withNv]
  rfl

/-- The image that STAGE copies (R372). -/
theorem image_stageCopied {s : State} (hw : Memory.wf s.mem = true) {j : Nat} (hj : j < fwuLen s) :
    tget (fun _ => 0) (stageCopied s).flash (bankBase (idleBank s) + j) = memGet (fwuSrc s + j) s := by
  have hrise : Rising 0 (memSlice (fwuSrc s) (fwuLen s) s) :=
    (rising_slice (fwuSrc s) (fwuLen s) s.mem 0 (rising_of_wf hw)).mono (by omega)
  rw [stageCopied, tget_fillBank_inside hrise hj, memSlice, tget_tslice 0 _ _ _ hj, memGet]

/-- The running bank holds what it held. -/
theorem running_stageCopied {s : State} (hst : stageStatus s = stOK) {j : Nat} (hj : j < bankSize) :
    bankByte s.nv.active j (stageCopied s) = bankByte s.nv.active j s := by
  have hread : SameBanks s (readAll (fwuSrc s) (fwuLen s) (withNv (unstaged s.nv) s)).1 :=
    ⟨by rw [quiet_nv.readAll, nv_withNv]; rfl, by rw [quiet_flash.readAll, flash_withNv]⟩
  rw [stageCopied, bankByte_fillBank_other (by simp [idleBank]) (le_bankSize_of_stageStatus hst) hj, bankByte_congr hread]

theorem setStaged_nv (b : Bool) (s : State) : (setStaged b s).nv = { s.nv with staged := b, marked := false } := rfl
theorem setStaged_seq (b : Bool) (s : State) :
    fget fwuB fFWU_RESULT_SEQ (setStaged b s) = fget fwuB fFWU_RESULT_SEQ s := rfl
theorem setStaged_flash (b : Bool) (s : State) : (setStaged b s).flash = s.flash := rfl
theorem setStaged_mem (b : Bool) (s : State) : (setStaged b s).mem = s.mem := rfl

/-- STAGE marks the bank as staged when its header passes, and ends with that status. -/
theorem staged_fwuEnd (st : BitVec 8) {s u : State} (hseq : fget fwuB fFWU_RESULT_SEQ u = fget fwuB fFWU_RESULT_SEQ s) :
    ∃ t, fwuEnd 1 st 0 (setStaged (st == stOK) u) = t ∧ FwuShows 1 st s t ∧ t.nv.staged = (st == stOK) ∧
      t.nv.active = u.nv.active ∧ SameBanks u t ∧ t.mem = u.mem := by
  have hend := regsIrq_fwuEnd 1 st 0 (setStaged (st == stOK) u)
  have hshows : FwuShows 1 st s (fwuEnd 1 st 0 (setStaged (st == stOK) u)) :=
    fwuEnd_shows (by decide) st 0 ((setStaged_seq _ u).trans hseq)
  refine ⟨_, rfl, hshows, ?_, ?_, ⟨?_, ?_⟩, ?_⟩
  · rw [hend.nv, setStaged_nv]
  · rw [hend.nv, setStaged_nv]
  · rw [hend.nv, setStaged_nv]
  · rw [hend.flash, setStaged_flash]
  · rw [hend.mem, setStaged_mem]

/-- STAGE of a range that passes, from the state in which the command runs (R372). -/
theorem fwuStageMem_spec {s u : State} (hu : RegsIrq s u) (hseq : fget fwuB fFWU_RESULT_SEQ u = fget fwuB fFWU_RESULT_SEQ s)
    (hst : stageStatus u = stOK) (hw : Memory.wf s.mem = true) : ∃ t, fwuStageMem u = t ∧
      FwuShows 1 (headerStatus (idleBank s) (fwuLen u) t) s t ∧
      t.nv.staged = (headerStatus (idleBank s) (fwuLen u) t == stOK) ∧ t.nv.active = s.nv.active ∧
      (∀ j < fwuLen u, tget (fun _ => 0) t.flash (bankBase (idleBank s) + j) = memGet (fwuSrc u + j) s) ∧
      (∀ j < bankSize, bankByte s.nv.active j t = bankByte s.nv.active j s) ∧ t.mem = s.mem := by
  have hidle : idleBank u = idleBank s := by rw [idleBank, idleBank, hu.nv]
  have hwrite := fwuStageMem_copies hst
  rw [hidle] at hwrite
  have hwu : Memory.wf u.mem = true := by rw [hu.mem, hw]
  have himage : ∀ j < fwuLen u, tget (fun _ => 0) (stageCopied u).flash (bankBase (idleBank s) + j) = memGet (fwuSrc u + j) s :=
    fun j hj => by
      rw [← hidle, image_stageCopied hwu hj, memGet, memGet, hu.mem]
  have hrunning : ∀ j < bankSize, bankByte s.nv.active j (stageCopied u) = bankByte s.nv.active j s := fun j hj => by
    rw [← hu.nv, running_stageCopied hst hj, bankByte_congr (sameBanks_of_regsIrq hu)]
  have hmem := (mem_stageCopied u).trans hu.mem
  have hactive := (active_stageCopied u).trans (congrArg Nv.active hu.nv)
  obtain ⟨t, ht, hshows, hstaged, hact, hbanks, hm⟩ :=
    staged_fwuEnd (headerStatus (idleBank s) (fwuLen u) (stageCopied u)) ((seq_stageCopied u).trans hseq)
  refine ⟨t, hwrite.trans ht, ?_⟩
  rw [headerStatus_congr hbanks]
  refine ⟨hshows, hstaged, hact.trans hactive, fun j hj => ?_, fun j hj => ?_, hm.trans hmem⟩
  · rw [hbanks.2, himage j hj]
  · rw [bankByte_congr hbanks, hrunning j hj]

theorem stage_copies {r : Requester} {s : State} (h : FwuFree r s) (hlc : s.nv.lc ≠ 3) (hrom : s.boot.phase ≠ 3)
    (hst : stageStatus s = stOK) (hw : Memory.wf s.mem = true) : Goes (.fwuStage r) s fun t =>
      FwuShows 1 (headerStatus (idleBank s) (fwuLen s) t) s t ∧
      t.nv.staged = (headerStatus (idleBank s) (fwuLen s) t == stOK) ∧ t.nv.active = s.nv.active ∧
      (∀ j < fwuLen s, tget (fun _ => 0) t.flash (bankBase (idleBank s) + j) = memGet (fwuSrc s + j) s) ∧
      (∀ j < bankSize, bankByte s.nv.active j t = bankByte s.nv.active j s) ∧ t.mem = s.mem := by
  have hst' : stageStatus (fwuTaken 1 s) = stOK := by rw [stageStatus_fwuTaken, hst]
  have hwrite : fwuWrite r 1 s = fwuStageMem (fwuTaken 1 s) := by rw [fwuWrite_stage h hlc, if_neg hrom]
  obtain ⟨t, ht, hspec⟩ := fwuStageMem_spec (regsIrq_fwuTaken 1 s) (seq_fwuTaken 1 s) hst' hw
  rw [fwuLen_fwuTaken, fwuSrc_fwuTaken] at hspec
  exact ⟨t, congrArg Host.Outcome.next (hwrite.trans ht), hspec⟩

/-! STAGE in ROM recovery (R378, R430). -/

/-- What the offset and the length of STAGE give in ROM recovery. -/
def romStageStatus (s : State) : BitVec 8 :=
  firstFail [failIf (decide (rbufSize < fwuLen s ∨ bankSize < fget fwuB fFWU_ARG_SRC_LO_SRC_LO s + fwuLen s)) stLENGTH,
    failIf (fget fwuB fFWU_ARG_SRC_LO_SRC_LO s % rbufSize != 0) stWINDOW]

theorem romStageStatus_fwuTaken (cmd : Nat) (s : State) : romStageStatus (fwuTaken cmd s) = romStageStatus s := by
  rw [romStageStatus, romStageStatus, fwuLen_fwuTaken, (regsKept_fwuTaken cmd s).fget (by decide)]

theorem fwuStageRom_refused {s : State} (h : romStageStatus s ≠ stOK) :
    fwuStageRom s = fwuEnd 1 (romStageStatus s) 0 (withNv (unstaged s.nv) s) := if_pos h

/-- Bank B is the mark of the running bank from here. -/
def romMarked (s : State) : State := withNv { unstaged s.nv with active := true } s

/-- The recovery buffer has been copied to bank A. -/
def romCopied (s : State) : State :=
  putBank false (fget fwuB fFWU_ARG_SRC_LO_SRC_LO s) (fwuLen s) (tslice 0 (fwuLen s) s.fwu.rbuf)
    (if fget fwuB fFWU_ARG_SRC_LO_SRC_LO s = 0 then eraseBank false (romMarked s) else unship false (romMarked s))

/-- What the header of bank A gives, beside the SECVER of the package. -/
def romHeader (v : Word) (s : State) : BitVec 8 :=
  firstFail [headerStatus false bankSize s, failIf (decide (bankSecver false s < v.toNat)) stSTALE]

theorem fwuStageRom_copies {s : State} (h : romStageStatus s = stOK) :
    fwuStageRom s = fwuEnd 1 (romHeader (romCopied s).nv.secver (romCopied s)) 0
      (setStaged (romHeader (romCopied s).nv.secver (romCopied s) == stOK) (romCopied s)) :=
  if_neg (not_not.2 h)

theorem romHeader_congr {s t : State} (h : SameBanks s t) (v : Word) : romHeader v t = romHeader v s := by
  rw [romHeader, romHeader, headerStatus_congr h, bankSecver, bankSecver, bank32_congr h]

theorem active_unship (b : Bool) (s : State) : (unship b s).nv.active = s.nv.active :=
  ite_view (φ := fun u => u.nv.active) rfl rfl

theorem active_romCopied (s : State) : (romCopied s).nv.active = true :=
  ite_view (φ := fun u => u.nv.active) rfl (active_unship false _)

theorem secver_romCopied (s : State) : (romCopied s).nv.secver = s.nv.secver :=
  ite_view (φ := fun u => u.nv.secver) rfl (ite_view (φ := fun u => u.nv.secver) rfl rfl)

theorem mem_romCopied (s : State) : (romCopied s).mem = s.mem :=
  ite_view (φ := State.mem) rfl (ite_view (φ := State.mem) rfl rfl)

theorem seq_romCopied (s : State) : fget fwuB fFWU_RESULT_SEQ (romCopied s) = fget fwuB fFWU_RESULT_SEQ s :=
  ite_view (φ := fget fwuB fFWU_RESULT_SEQ) rfl (ite_view (φ := fget fwuB fFWU_RESULT_SEQ) rfl rfl)

section
variable {r : Requester} {s : State} (h : FwuFree r s) (hlc : s.nv.lc ≠ 3) (hrom : s.boot.phase = 3)
include h hlc hrom

theorem romStage_refused (hst : romStageStatus s ≠ stOK) : Goes (.fwuStage r) s fun t =>
    FwuShows 1 (romStageStatus s) s t ∧ MarksOnly s (unstaged s.nv) t := by
  have hwrite : fwuWrite r 1 s = fwuEnd 1 (romStageStatus s) 0 (withNv (unstaged s.nv) (fwuTaken 1 s)) := by
    rw [fwuWrite_stage h hlc, if_pos hrom, fwuStageRom_refused (by rwa [romStageStatus_fwuTaken]), romStageStatus_fwuTaken,
      (regsIrq_fwuTaken 1 s).nv]
  exact ⟨_, congrArg Host.Outcome.next hwrite, fwuShows_taken (by decide) _ s _, marksOnly_fwuEnd 1 _ s _⟩

theorem romStage_copies (hst : romStageStatus s = stOK) : Goes (.fwuStage r) s fun t =>
    FwuShows 1 (romHeader s.nv.secver t) s t ∧ t.nv.active = true ∧ t.nv.staged = (romHeader s.nv.secver t == stOK) ∧
    t.mem = s.mem := by
  have hsec : (romCopied (fwuTaken 1 s)).nv.secver = s.nv.secver := by rw [secver_romCopied, (regsIrq_fwuTaken 1 s).nv]
  have hwrite : fwuWrite r 1 s = fwuEnd 1 (romHeader s.nv.secver (romCopied (fwuTaken 1 s))) 0
      (setStaged (romHeader s.nv.secver (romCopied (fwuTaken 1 s)) == stOK) (romCopied (fwuTaken 1 s))) := by
    rw [fwuWrite_stage h hlc, if_pos hrom, fwuStageRom_copies (by rwa [romStageStatus_fwuTaken]), hsec]
  have hseq := (seq_romCopied (fwuTaken 1 s)).trans (seq_fwuTaken 1 s)
  have hmem := (mem_romCopied (fwuTaken 1 s)).trans (regsIrq_fwuTaken 1 s).mem
  have hactive := active_romCopied (fwuTaken 1 s)
  generalize romCopied (fwuTaken 1 s) = u at *
  obtain ⟨t, ht, hshows, hstaged, hact, hbanks, hm⟩ := staged_fwuEnd (romHeader s.nv.secver u) hseq
  refine ⟨t, congrArg Host.Outcome.next (hwrite.trans ht), ?_⟩
  dsimp only
  rw [romHeader_congr hbanks]
  exact ⟨hshows, hact.trans hactive, hstaged, hm.trans hmem⟩

end

end Sys2Proof.Machine
end

section
/-! SUPPORT. ACTIVATE, ACTIVATE_ON_RESET and CANCEL (R372, R373). -/

namespace Sys2Proof.Machine

/-! PAUSE_NOTICE, and the hub in its restart. -/

/-- A Gorzel message that is no WRITE changes the messages of the package alone (R303). -/
theorem pauseNotice_frame (ms : Nat) (s : State) : ∃ g o, pauseNotice ms s = { s with gzl := g, out := o } := by
  unfold pauseNotice
  split
  · unfold gzSend
    dsimp only
    split
    · exact ⟨_, _, rfl⟩
    · exact ⟨_, _, rfl⟩
  · exact ⟨_, _, rfl⟩

/-- Nothing but registers differs. -/
def RegsOnly (s t : State) : Prop := ∃ r, t = { s with regs := r }

theorem RegsOnly.trans {s t u : State} (h : RegsOnly s t) (k : RegsOnly t u) : RegsOnly s u := by
  obtain ⟨_, rfl⟩ := h
  obtain ⟨r, rfl⟩ := k
  exact ⟨r, rfl⟩

theorem regsOnly_regSet (o : Nat) (v : Word) (s : State) : RegsOnly s (regSet o v s) := ⟨_, rfl⟩

theorem regsOnly_fset (b : Nat) (f : Fld) (v : Nat) (s : State) : RegsOnly s (fset b f v s) := ⟨_, rfl⟩

/-- The registers in which the Cabinet shows its structures. -/
def cabRegs : List Nat := [oCAB_TXN, oCAB_SECT_MODE, oCAB_GEN_CUR, oCAB_GEN_PREV, oCAB_GEN_SHADOW, oCAB_GEN_HWM].map (cabB + ·)

theorem regsKept_noteCab (s : State) : RegsKept cabRegs s (noteCab s) := by
  unfold noteCab
  exact (((((regsKept_regSet (by decide) _ _).trans (regsKept_regSet (by decide) _ _)).trans
    (regsKept_regSet (by decide) _ _)).trans (regsKept_regSet (by decide) _ _)).trans (regsKept_fset (by decide) _ _)).trans
    (regsKept_fset (by decide) _ _)

theorem regsOnly_noteCab (s : State) : RegsOnly s (noteCab s) := by
  unfold noteCab
  exact (((((regsOnly_regSet _ _ _).trans (regsOnly_regSet _ _ _)).trans (regsOnly_regSet _ _ _)).trans
    (regsOnly_regSet _ _ _)).trans (regsOnly_fset _ _ _ _)).trans (regsOnly_fset _ _ _ _)

theorem txnState_noteCab (s : State) : txnState (noteCab s) = txnState s := by
  unfold noteCab txnState
  dsimp only
  rw [fget_fset_apart cabB (by decide) (by decide), fget_fset_ne (by decide), fget_regSet_ne (by decide),
    fget_regSet_ne (by decide), fget_regSet_ne (by decide), fget_regSet_ne (by decide)]

/-- The transaction has been discarded, before the registers show it. -/
def txnDropped (s : State) : State :=
  fset cabB fCAB_TXN_REVERTING 0 (setTxn 0 { s with cab := { s.cab with shadow := none, staged := none, edge := none } })

theorem cabDiscard_stages (s : State) : cabDiscard s = noteCab (txnDropped s) := rfl

theorem txnDropped_frame (s : State) : ∃ c, RegsOnly { s with cab := c } (txnDropped s) ∧ c.shadow = none :=
  ⟨{ s.cab with shadow := none, staged := none, edge := none }, (regsOnly_fset _ _ _ _).trans (regsOnly_fset _ _ _ _), rfl⟩

theorem regsKept_txnDropped (s : State) : RegsKept cabRegs s (txnDropped s) := by
  have hcab : ∀ c, RegsKept cabRegs s { s with cab := c } := fun _ => .of_regs rfl
  exact ((hcab _).trans (regsKept_fset (by decide) _ _)).trans (regsKept_fset (by decide) _ _)

theorem txnState_txnDropped (s : State) : txnState (txnDropped s) = 0 := by
  rw [txnState, txnDropped, fget_fset_apart cabB (by decide) (by decide), setTxn, fget_fset_same cabB (by decide)]
  rfl

/-- The hub in its restart: what it keeps, and its OPEN transaction (R171). -/
theorem hubToReset_spec (s : State) : ∃ r h c, hubToReset s = { s with regs := r, handoffs := h, cab := c } ∧
    RegsKept cabRegs s (hubToReset s) ∧
    (txnState s = 1 → txnState (hubToReset s) = 0 ∧ (hubToReset s).cab.shadow = none) := by
  have hflush : ∀ p, ∃ h, hoFlush p s = { s with handoffs := h } := fun _ => ⟨_, rfl⟩
  obtain ⟨h, hh⟩ := hflush fun k => k == 6660
  have hkept : RegsKept cabRegs s { s with handoffs := h } := .of_regs rfl
  have htxn : txnState { s with handoffs := h } = txnState s := rfl
  rw [hubToReset, hh, cabHubRestart, htxn]
  by_cases ht : txnState s = 1
  · rw [if_pos ht, cabDiscard_stages]
    have hdrop := regsKept_txnDropped { s with handoffs := h }
    have hzero := txnState_txnDropped { s with handoffs := h }
    obtain ⟨c, hframe, hshadow⟩ := txnDropped_frame { s with handoffs := h }
    generalize txnDropped { s with handoffs := h } = u at *
    obtain ⟨r, hr⟩ := hframe.trans (regsOnly_noteCab u)
    refine ⟨r, h, c, hr, (hkept.trans hdrop).trans (regsKept_noteCab u), fun _ => ⟨(txnState_noteCab u).trans hzero, ?_⟩⟩
    rw [hr, ← hshadow]
  · rw [if_neg ht]
    exact ⟨s.regs, h, s.cab, rfl, hkept, fun h1 => absurd h1 ht⟩

/-! ACTIVATE. -/

/-- ACTIVATE is refused: in ROM recovery, without a staged bank, or with a different boot ROM part (R373, R378). -/
def CannotActivate (s : State) : Prop :=
  s.boot.phase = 3 ∨ s.nv.staged = false ∨ 5 ∈ compsDiffer s ∨ 6 ∈ compsDiffer s

theorem activateRefused_iff (s : State) : (s.boot.phase == 3 || !s.nv.staged ||
    (compsDiffer s).any fun ty => ty == 5 || ty == 6) = true ↔ CannotActivate s := by
  simp only [CannotActivate, Bool.or_eq_true, beq_iff_eq, Bool.not_eq_true', List.any_eq_true, or_assoc]
  refine or_congr .rfl (or_congr .rfl ⟨?_, ?_⟩)
  · rintro ⟨x, hx, rfl | rfl⟩
    · exact .inl hx
    · exact .inr hx
  · rintro (hx | hx)
    · exact ⟨5, hx, .inl rfl⟩
    · exact ⟨6, hx, .inr rfl⟩

/-- ACTIVATE begins: the activation is noted, and the command is busy. -/
def activating (s : State) : State :=
  fset fwuB fFWU_CMD_BUSY 1 { s with fwu := { s.fwu with act := some ⟨0, (compsDiffer s).contains 4, stOK, 0⟩ } }

theorem fwuActivateRun_refused {s : State} (h : CannotActivate s) : fwuActivateRun s = fwuEnd 2 stDENIED 0 s :=
  if_pos ((activateRefused_iff s).2 h)

theorem fwuActivateRun_same {s : State} (h : ¬CannotActivate s) (hl : compsDiffer s = []) :
    fwuActivateRun s = fwuEnd 2 stOK 0 s := by
  rw [fwuActivateRun]
  dsimp only
  rw [if_neg (mt (activateRefused_iff s).1 h), if_pos (by simp [hl])]

theorem fwuActivateRun_starts {s : State} (h : ¬CannotActivate s) (hl : compsDiffer s ≠ []) :
    fwuActivateRun s = hubRestart (pauseNotice 2600 (activating s)) := by
  rw [fwuActivateRun]
  dsimp only
  rw [if_neg (mt (activateRefused_iff s).1 h), if_neg (by simpa using hl), activating]

/-- The hub restart has begun: MGMT is PAUSED, the activation in its first phase (R364, R373). -/
def restarting (a : FwAct) (s : State) : State :=
  advanceHub (fset hubB fHUB_PLANE_STATUS_MGMT 2 (setAct (some { a with phase := 1 }) s))

theorem hubRestart_starts {a : FwAct} {s : State} (ha : s.fwu.act = some a) (hp : a.phase = 0) (hg : domGenFree 4 s = true) :
    hubRestart s = hubToReset (restarting a s) := by
  rw [hubRestart, ha]
  exact if_pos (by simp [hp, hg])

theorem nextGen_lt {g : Nat} (h : g < 256) : nextGen g < 256 := by
  unfold nextGen
  split
  · decide
  · omega

/-- MGMT is PAUSED, and the generation of the hub advances. -/
theorem restarting_spec (a : FwAct) (s : State) : mgmtPlane (restarting a s) = 2 ∧
    fget hubB fHUB_RESET_STALE_GEN_HUB (restarting a s) = nextGen (fget hubB fHUB_RESET_STALE_GEN_HUB s) ∧
    RegsKept [hubB + oHUB_PLANE_STATUS, hubB + oHUB_RESET_STALE] s (restarting a s) ∧
    ∃ r x, restarting a s = { setAct (some { a with phase := 1 }) s with regs := r, rst := x } := by
  have hact : RegsKept [hubB + oHUB_PLANE_STATUS, hubB + oHUB_RESET_STALE] s (setAct (some { a with phase := 1 }) s) :=
    .of_regs rfl
  have hgen : fget hubB fHUB_RESET_STALE_GEN_HUB (setAct (some { a with phase := 1 }) s) =
      fget hubB fHUB_RESET_STALE_GEN_HUB s := rfl
  have hframe : ∃ r x, restarting a s = { setAct (some { a with phase := 1 }) s with regs := r, rst := x } := ⟨_, _, rfl⟩
  rw [restarting] at hframe ⊢
  generalize setAct (some { a with phase := 1 }) s = u at *
  have hpause : mgmtPlane (fset hubB fHUB_PLANE_STATUS_MGMT 2 u) = 2 := fget_fset_same hubB (by decide) 2 u
  have hold : fget hubB fHUB_RESET_STALE_GEN_HUB (fset hubB fHUB_PLANE_STATUS_MGMT 2 u) = fget hubB fHUB_RESET_STALE_GEN_HUB s :=
    (fget_fset_ne (by decide) _ _).trans hgen
  have hkept := hact.trans (regsKept_fset (b := hubB) (f := fHUB_PLANE_STATUS_MGMT) (by decide) 2 u)
  generalize fset hubB fHUB_PLANE_STATUS_MGMT 2 u = v at *
  have hretire : ∀ g, RegsKept [hubB + oHUB_PLANE_STATUS, hubB + oHUB_RESET_STALE] v (retireDom 4 g v) := fun _ => .of_regs rfl
  have hplane : ∀ g, mgmtPlane (retireDom 4 g v) = mgmtPlane v := fun _ => rfl
  refine ⟨?_, ?_, (hkept.trans (hretire _)).trans (regsKept_fset (by decide) _ _), hframe⟩
  · rw [mgmtPlane, advanceHub, fget_fset_ne (by decide), ← mgmtPlane, hplane, hpause]
  · rw [advanceHub, fget_fset_same hubB (by decide), hold]
    exact Nat.mod_eq_of_lt (nextGen_lt (fget_lt _ _ _))

theorem domGenFree_congr {s t : State} (hr : t.rst = s.rst) (hc : t.clk = s.clk)
    (hg : fget hubB fHUB_RESET_STALE_GEN_HUB t = fget hubB fHUB_RESET_STALE_GEN_HUB s) : domGenFree 4 t = domGenFree 4 s := by
  simp only [domGenFree, elapsed, hr, hc, hg, if_true]

theorem RegsIrq.rest {s t : State} (h : RegsIrq s t) : t.cores = s.cores ∧ t.rst = s.rst ∧ t.clk = s.clk := by
  obtain ⟨_, _, _, rfl⟩ := h
  exact ⟨rfl, rfl, rfl⟩

/-- The state in which the hub restart of ACTIVATE begins. -/
def activateReady (s : State) : State := pauseNotice 2600 (activating s)

/-- An activation in its phase 0. -/
def newAct (s : State) : FwAct := ⟨0, (compsDiffer s).contains 4, stOK, 0⟩

theorem activateReady_frame (s : State) : ∃ r g o,
    activateReady s = { setAct (some (newAct s)) s with regs := r, gzl := g, out := o } := by
  obtain ⟨g, o, hpause⟩ := pauseNotice_frame 2600 (activating s)
  obtain ⟨r, hact⟩ : RegsOnly (setAct (some (newAct s)) s) (activating s) := regsOnly_fset _ _ _ _
  exact ⟨r, g, o, by rw [activateReady, hpause, hact]⟩

theorem activateReady_regs (s : State) : RegsKept [fwuB + oFWU_CMD] s (activateReady s) ∧
    fget fwuB fFWU_CMD_BUSY (activateReady s) = 1 := by
  obtain ⟨g, o, hpause⟩ := pauseNotice_frame 2600 (activating s)
  have hset : RegsKept [fwuB + oFWU_CMD] s (setAct (some (newAct s)) s) := .of_regs rfl
  have hbusy : fget fwuB fFWU_CMD_BUSY (activating s) = 1 := fget_fset_same fwuB (by decide) 1 _
  have hkept : RegsKept [fwuB + oFWU_CMD] s (activating s) := hset.trans (regsKept_fset (by decide) 1 _)
  rw [activateReady, hpause]
  generalize activating s = u at *
  exact ⟨hkept.trans (.of_regs rfl), hbusy⟩

/-- The hub restart of ACTIVATE runs (R171, R364, R373). -/
theorem hubRestart_spec {s u : State} (hu : RegsIrq s u) (hk : RegsKept [fwuB + oFWU_CMD] s u) (hg : domGenFree 4 s = true) :
    ∃ t, hubRestart (activateReady u) = t ∧
      t.fwu = { s.fwu with act := some ⟨1, (compsDiffer u).contains 4, stOK, 0⟩ } ∧ mgmtPlane t = 2 ∧
      fget fwuB fFWU_CMD_BUSY t = 1 ∧
      fget hubB fHUB_RESET_STALE_GEN_HUB t = nextGen (fget hubB fHUB_RESET_STALE_GEN_HUB s) ∧
      (txnState s = 1 → txnState t = 0 ∧ t.cab.shadow = none) ∧ t.nv = s.nv ∧ t.mem = s.mem ∧ t.cores = s.cores := by
  obtain ⟨hcores, hrst, hclk⟩ := hu.rest
  obtain ⟨r, g, o, hready⟩ := activateReady_frame u
  obtain ⟨hkept, hbusy⟩ := activateReady_regs u
  generalize activateReady u = x at *
  have hgen : fget hubB fHUB_RESET_STALE_GEN_HUB x = fget hubB fHUB_RESET_STALE_GEN_HUB s := (hk.trans hkept).fget (by decide)
  have htxn : txnState x = txnState s := (hk.trans hkept).fget (by decide)
  have hstart := hubRestart_starts (a := newAct u) (s := x) (by rw [hready]; rfl) rfl (by
    rw [domGenFree_congr (s := s) (by rw [hready]; exact hrst) (by rw [hready]; exact hclk) hgen, hg])
  obtain ⟨hplane, hnext, hkeptR, r', y, hframeR⟩ := restarting_spec (newAct u) x
  generalize restarting (newAct u) x = v at *
  obtain ⟨r'', hh, c, hframe, hkeptT, htxnT⟩ := hubToReset_spec v
  generalize hubToReset v = t at *
  refine ⟨t, hstart, ?_, ?_, ?_, ?_, fun ht => htxnT ?_, ?_, ?_, ?_⟩
  · rw [hframe, hframeR, hready, ← hu.fwu]
    rfl
  · exact (hkeptT.fget (by decide)).trans hplane
  · rw [hkeptT.fget (by decide), hkeptR.fget (by decide), hbusy]
  · rw [hkeptT.fget (by decide), hnext, hgen]
  · rw [txnState, hkeptR.fget (by decide), ← txnState, htxn, ht]
  · rw [hframe, hframeR, hready, ← hu.nv]
    rfl
  · rw [hframe, hframeR, hready, ← hu.mem]
    rfl
  · rw [hframe, hframeR, hready, ← hcores]
    rfl

/-! The commands as a whole. -/

theorem withNv_self (s : State) : withNv s.nv s = s := rfl

theorem withNv_taken (cmd : Nat) (s : State) : withNv s.nv (fwuTaken cmd s) = fwuTaken cmd s := by
  rw [← (regsIrq_fwuTaken cmd s).nv, withNv_self]

/-- A command that leaves the marks alone ends. -/
theorem fwuEnd_plain {cmd : Nat} (hc : cmd < 16) (st : BitVec 8) (s : State) :
    FwuShows cmd st s (fwuEnd cmd st 0 (fwuTaken cmd s)) ∧ MarksOnly s s.nv (fwuEnd cmd st 0 (fwuTaken cmd s)) := by
  have hshows := fwuShows_taken hc st s s.nv
  have hmarks := marksOnly_fwuEnd cmd st s s.nv
  rw [withNv_taken] at hshows hmarks
  exact ⟨hshows, hmarks⟩

theorem MarksOnly.rest {s t : State} {nv : Nv} (h : MarksOnly s nv t) : t.nv = nv ∧ t.flash = s.flash ∧ t.mem = s.mem := by
  obtain ⟨hnv, -, heq⟩ := h
  exact ⟨hnv, by rw [heq], by rw [heq]⟩

theorem compsDiffer_fwuTaken (cmd : Nat) (s : State) : compsDiffer (fwuTaken cmd s) = compsDiffer s :=
  compsDiffer_congr (sameBanks_of_regsIrq (regsIrq_fwuTaken cmd s))

theorem cannotActivate_fwuTaken (cmd : Nat) (s : State) : CannotActivate (fwuTaken cmd s) ↔ CannotActivate s := by
  rw [CannotActivate, CannotActivate, compsDiffer_fwuTaken, (regsIrq_fwuTaken cmd s).boot, (regsIrq_fwuTaken cmd s).nv]

theorem fwuMark_staged {u : State} (hs : u.nv.staged = true) :
    fwuMark u = fwuEnd 3 stOK 0 (withNv { u.nv with marked := true } u) := if_pos hs

theorem fwuMark_unstaged {u : State} (hs : u.nv.staged = false) : fwuMark u = fwuEnd 3 stDENIED 0 u :=
  if_neg (by simp [hs])

theorem MarksOnly.frame {s t : State} {nv : Nv} (h : MarksOnly s nv t) :
    t = { s with regs := t.regs, nv := t.nv, host := t.host, mgmt := t.mgmt } := by
  obtain ⟨hnv, -, heq⟩ := h
  rw [hnv]
  exact heq

section
variable {r : Requester} {s : State} (h : FwuFree r s)
include h

/-- In RETIRED every command is refused (R407). -/
theorem fwuWrite_retired (hlc : s.nv.lc = 3) (cmd : Nat) : fwuWrite r cmd s = fwuEnd cmd stDENIED 0 (fwuTaken cmd s) := by
  have hrun : ∀ {u : State}, u.nv.lc = 3 → fwuRun cmd u = fwuEnd cmd stDENIED 0 u := fun hu => if_pos hu
  rw [fwuWrite_taken h, hrun (by rw [(regsIrq_fwuTaken cmd s).nv, hlc])]

variable (hlc : s.nv.lc ≠ 3)
include hlc

theorem activate_refused (hno : CannotActivate s) : Goes (.fwuActivate r) s fun t =>
    FwuShows 2 stDENIED s t ∧ MarksOnly s s.nv t := by
  have hwrite : fwuWrite r 2 s = fwuEnd 2 stDENIED 0 (fwuTaken 2 s) := by
    rw [fwuWrite_activate h hlc, fwuActivateRun_refused ((cannotActivate_fwuTaken 2 s).2 hno)]
  exact ⟨_, congrArg Host.Outcome.next hwrite, fwuEnd_plain (by decide) _ s⟩

theorem activate_same (hno : ¬CannotActivate s) (hl : compsDiffer s = []) : Goes (.fwuActivate r) s fun t =>
    FwuShows 2 stOK s t ∧ MarksOnly s s.nv t := by
  have hwrite : fwuWrite r 2 s = fwuEnd 2 stOK 0 (fwuTaken 2 s) := by
    rw [fwuWrite_activate h hlc, fwuActivateRun_same (mt (cannotActivate_fwuTaken 2 s).1 hno)
      ((compsDiffer_fwuTaken 2 s).trans hl)]
  exact ⟨_, congrArg Host.Outcome.next hwrite, fwuEnd_plain (by decide) _ s⟩

theorem activate_starts (hno : ¬CannotActivate s) (hl : compsDiffer s ≠ []) (hg : domGenFree 4 s = true) :
    Goes (.fwuActivate r) s fun t =>
      t.fwu = { s.fwu with act := some ⟨1, (compsDiffer s).contains 4, stOK, 0⟩ } ∧ mgmtPlane t = 2 ∧
      fget fwuB fFWU_CMD_BUSY t = 1 ∧
      fget hubB fHUB_RESET_STALE_GEN_HUB t = nextGen (fget hubB fHUB_RESET_STALE_GEN_HUB s) ∧
      (txnState s = 1 → txnState t = 0 ∧ t.cab.shadow = none) ∧ t.nv = s.nv ∧ t.mem = s.mem ∧ t.cores = s.cores := by
  have hdiffer := compsDiffer_fwuTaken 2 s
  have hwrite : fwuWrite r 2 s = hubRestart (activateReady (fwuTaken 2 s)) := by
    rw [fwuWrite_activate h hlc, fwuActivateRun_starts (mt (cannotActivate_fwuTaken 2 s).1 hno) (by rwa [hdiffer]), activateReady]
  obtain ⟨t, ht, hspec⟩ := hubRestart_spec (regsIrq_fwuTaken 2 s) (regsKept_fwuTaken 2 s) hg
  rw [hdiffer] at hspec
  exact ⟨t, congrArg Host.Outcome.next (hwrite.trans ht), hspec⟩

theorem mark_staged (hs : s.nv.staged = true) : Goes (.activateOnReset r) s fun t =>
    FwuShows 3 stOK s t ∧ MarksOnly s { s.nv with marked := true } t := by
  have hnv := (regsIrq_fwuTaken 3 s).nv
  have hwrite : fwuWrite r 3 s = fwuEnd 3 stOK 0 (withNv { s.nv with marked := true } (fwuTaken 3 s)) := by
    rw [fwuWrite_mark h hlc, fwuMark_staged (by rw [hnv, hs]), hnv]
  exact ⟨_, congrArg Host.Outcome.next hwrite, fwuShows_taken (by decide) _ s _, marksOnly_fwuEnd 3 _ s _⟩

theorem mark_unstaged (hs : s.nv.staged = false) : Goes (.activateOnReset r) s fun t =>
    FwuShows 3 stDENIED s t ∧ MarksOnly s s.nv t := by
  have hwrite : fwuWrite r 3 s = fwuEnd 3 stDENIED 0 (fwuTaken 3 s) := by
    rw [fwuWrite_mark h hlc, fwuMark_unstaged (by rw [(regsIrq_fwuTaken 3 s).nv, hs])]
  exact ⟨_, congrArg Host.Outcome.next hwrite, fwuEnd_plain (by decide) _ s⟩

theorem cancel_unstages : Goes (.fwuCancel r) s fun t => FwuShows 4 stOK s t ∧ MarksOnly s (unstaged s.nv) t :=
  ⟨_, congrArg Host.Outcome.next (fwuWrite_cancel h hlc), fwuShows_taken (by decide) _ s _, marksOnly_fwuEnd 4 _ s _⟩

end

theorem goes_mono {i : Instr} {s : State} {P Q : State → Prop} (h : Goes i s P) (hpq : ∀ t, P t → Q t) : Goes i s Q := by
  obtain ⟨t, ht, hp⟩ := h
  exact ⟨t, ht, hpq t hp⟩

/-- A command that changes the marks alone keeps the flash and the memory. -/
theorem Goes.marks {i : Instr} {s : State} {P : State → Prop} {nv : Nv} (h : Goes i s fun t => P t ∧ MarksOnly s nv t) :
    Goes i s fun t => P t ∧ t.nv = nv ∧ t.flash = s.flash ∧ t.mem = s.mem :=
  goes_mono h fun _ ht => ⟨ht.1, ht.2.rest⟩

/-- In RETIRED every command ends with DENIED (R407). -/
theorem retired_denied {r : Requester} {s : State} (h : FwuFree r s) (hlc : s.nv.lc = 3) :
    ∀ x ∈ [(1, Instr.fwuStage r), (2, .fwuActivate r), (3, .activateOnReset r), (4, .fwuCancel r)],
      Goes x.2 s fun t => FwuShows x.1 stDENIED s t ∧ t.nv = s.nv ∧ t.flash = s.flash ∧ t.mem = s.mem := by
  have hend : ∀ {i : Instr} {cmd : Nat}, cmd < 16 → exec i s = .next (fwuWrite r cmd s) →
      Goes i s fun t => FwuShows cmd stDENIED s t ∧ t.nv = s.nv ∧ t.flash = s.flash ∧ t.mem = s.mem := fun hc hx =>
    Goes.marks ⟨_, hx.trans (congrArg Host.Outcome.next (fwuWrite_retired h hlc _)), fwuEnd_plain hc _ s⟩
  intro x hx
  simp only [List.mem_cons, List.not_mem_nil, or_false] at hx
  rcases hx with rfl | rfl | rfl | rfl
  · exact hend (cmd := 1) (by decide) rfl
  · exact hend (cmd := 2) (by decide) rfl
  · exact hend (cmd := 3) (by decide) rfl
  · exact hend (cmd := 4) (by decide) rfl

/-- Settles O45: the commands of FWU, and how the hub restart of an activation ends. -/
theorem firmwareUpdate : Obligations.FirmwareUpdate := by
  unfold Obligations.FirmwareUpdate
  refine ⟨fun r s hpf hserves hbusy hupd => ?_, fun res a s ha hsafe hplane hcab hcol hsec hmgmt hruns hfab hgzl hcont => ?_⟩
  · have h : FwuFree r s := ⟨hpf, hserves, hbusy, hupd⟩
    refine ⟨retired_denied h, fun hlc => ⟨fun hrom => ⟨fun hst => ?_, fun hst hw _ => ?_⟩,
      fun hrom => ⟨fun hst => ?_, fun hst => ?_⟩,
      ⟨fun hno => ?_, fun hno hl => ?_, fun hno hl hg => ?_⟩, fun hs => ?_, fun hs => ?_, ?_⟩⟩
    · exact (stage_refused h hlc hrom hst).marks
    · exact stage_copies h hlc hrom hst hw
    · exact (romStage_refused h hlc hrom hst).marks
    · exact romStage_copies h hlc hrom hst
    · exact goes_mono (activate_refused h hlc hno) fun t ht => ⟨ht.1, ht.2.rest.1, ht.2.rest.2.2⟩
    · exact goes_mono (activate_same h hlc hno hl) fun t ht => ⟨ht.1, ht.2.rest.1, ht.2.rest.2.2⟩
    · exact activate_starts h hlc hno hl hg
    · exact goes_mono (mark_staged h hlc hs) fun t ht => ⟨ht.1, ht.2.1, ht.2.2.1, ht.2.frame⟩
    · exact goes_mono (mark_unstaged h hlc hs) fun t ht => ⟨ht.1, ht.2.2.1, ht.2.2.2⟩
    · exact goes_mono (cancel_unstages h hlc) fun t ht => ⟨ht.1, ht.2.1, ht.2.2.1, ht.2.frame⟩
  · have h : NothingWaits s := ⟨hcab, hcol, hsec, hmgmt, hruns, hfab, hgzl, hcont⟩
    have hexec := exec_hubRestartDone (res := res) ha hsafe
    refine ⟨fun hp hst => ⟨_, hexec, ?_⟩, fun hp hst hm => ⟨_, hexec, restartDone_micro h hplane hp hst hm⟩,
      fun hp hst hm => ⟨_, hexec, restartDone_completes h hplane hp hst hm⟩,
      fun hp hm => ⟨_, hexec, restartDone_reverts h hplane hp hm⟩⟩
    exact restartDone_failed hp hst

end Sys2Proof.Machine
end

section
/-! SUPPORT. Instructions of the matrix and vector engines (R28, R31, R83, R95, R96): the head of the queue that runs, what its
end leaves alone, and the flags that it raises. -/

namespace Sys2Proof.Machine

/-! The head of a queue runs. -/

/-- The head x of engine e has given a state and a status, and ends with that status. -/
def engEnd (c e : Nat) (x : EngInstr) (r : State × BitVec 8) : State := markMismatch c r.2 (finish c e x r.2 r.1)

section
variable {c e : Nat} {x : EngInstr} {s : State} {accept : EngInstr → Bool} {f : EngInstr → State → State × BitVec 8}

theorem runHead_runs (hx : headOf c e s = some x) (hd : x.done = none) (ha : accept x = true)
    (hm : engMayRun c e s = true) : runHead c e accept f s = engEnd c e x (f x s) := by
  simp only [runHead, hx, hd, ha, hm, Option.isNone_none, and_self, if_true]
  rfl

theorem runHead_waits (hx : headOf c e s = some x) (hm : engMayRun c e s = false) : runHead c e accept f s = s := by
  simp [runHead, hx, hm]

end

/-! The end of an instruction. -/

/-- The end of an instruction changes the queue of its core and the status of its program. -/
theorem engEnd_frame (c e : Nat) (x : EngInstr) (r : State × BitVec 8) :
    engEnd c e x r = { r.1 with cores := (engEnd c e x r).cores, insts := (engEnd c e x r).insts } := by
  rw [engEnd, markMismatch_frame]
  rfl

/-- The end with OK is seen in the queue alone. -/
theorem engEnd_ok (c e : Nat) (x : EngInstr) (s : State) : engEnd c e x (s, stOK) = finish c e x stOK s := by
  rw [engEnd, markMismatch, if_pos rfl]

theorem cores_markMismatch (c : Nat) (st : BitVec 8) (s : State) : (markMismatch c st s).cores = s.cores := by
  rw [markMismatch_frame]

@[simp] theorem mem_engEnd (c e : Nat) (x : EngInstr) (r : State × BitVec 8) : (engEnd c e x r).mem = r.1.mem := by
  rw [engEnd_frame]

@[simp] theorem regs_engEnd (c e : Nat) (x : EngInstr) (r : State × BitVec 8) : (engEnd c e x r).regs = r.1.regs := by
  rw [engEnd_frame]

@[simp] theorem memGet_engEnd (a c e : Nat) (x : EngInstr) (r : State × BitVec 8) :
    memGet a (engEnd c e x r) = memGet a r.1 := by
  rw [memGet, mem_engEnd, memGet]

@[simp] theorem fget_engEnd (b : Nat) (f : Fld) (c e : Nat) (x : EngInstr) (r : State × BitVec 8) :
    fget b f (engEnd c e x r) = fget b f r.1 := by
  rw [fget, regGet, regs_engEnd, fget, regGet]

theorem getCore_engEnd (c e : Nat) (x : EngInstr) (r : State × BitVec 8) :
    getCore c (engEnd c e x r) = { getCore c r.1 with
      q := modAt e (fun l => { x with done := some r.2 } :: l.tail) (getCore c r.1).q } := by
  rw [getCore, engEnd, cores_markMismatch]
  exact getCore_modCore_same c _ r.1

theorem getCore_engEnd_ne {c d : Nat} (h : d ≠ c) (e : Nat) (x : EngInstr) (r : State × BitVec 8) :
    getCore d (engEnd c e x r) = getCore d r.1 := by
  rw [getCore, engEnd, cores_markMismatch]
  exact getCore_modCore_ne h _ r.1

theorem ended_engEnd {c e : Nat} {x : EngInstr} {s : State} {r : State × BitVec 8}
    (h : (getCore c r.1).q = (getCore c s).q) : Ended c e x r.2 s (engEnd c e x r) := by
  rw [Ended, getCore_engEnd, h]

theorem otherCores_engEnd {c e : Nat} {x : EngInstr} {s : State} {r : State × BitVec 8} (h : OtherCores c s r.1) :
    OtherCores c s (engEnd c e x r) := fun d hd => (getCore_engEnd_ne hd e x r).trans (h d hd)

theorem otherCores_of_cores {c : Nat} {s t : State} (h : t.cores = s.cores) : OtherCores c s t := fun d _ => by
  rw [getCore, getCore, h]

theorem getCore_of_cores {c : Nat} {s t : State} (h : t.cores = s.cores) : getCore c t = getCore c s := by
  rw [getCore, getCore, h]

/-! Operations that end in the core and its flags. -/

/-- An operation has put k in the place of core c, and else has changed flag registers of the core at most. -/
structure LeavesCore (c : Nat) (k : Core) (s t : State) : Prop where
  core   : getCore c t = k
  others : OtherCores c s t
  regs   : RegsKept (flagRegs c) s t
  rest   : t = { s with cores := t.cores, regs := t.regs }

theorem LeavesCore.mem {c : Nat} {k : Core} {s t : State} (h : LeavesCore c k s t) : t.mem = s.mem := by
  rw [h.rest]

theorem leavesCore_refl (c : Nat) (s : State) : LeavesCore c (getCore c s) s s := ⟨rfl, fun _ _ => rfl, .refl _ s, rfl⟩

theorem leavesCore_setCore (c : Nat) (k : Core) (s : State) : LeavesCore c k s (setCore c k s) :=
  ⟨getCore_setCore_same c k s, fun _ hd => getCore_setCore_ne hd k s, .of_regs rfl, rfl⟩

theorem LeavesCore.ended {c e : Nat} {k : Core} {x : EngInstr} {s t : State} (h : LeavesCore c k s t)
    (hq : k.q = (getCore c s).q) (st : BitVec 8) : Ended c e x st s (engEnd c e x (t, st)) :=
  ended_engEnd (r := (t, st)) (by rw [h.core, hq])

/-- An instruction that leaves the queues alone and ends with OK has the frame of an engine instruction. -/
theorem LeavesCore.engFrame {c e : Nat} {k : Core} {x : EngInstr} {s t : State} (h : LeavesCore c k s t)
    (hq : k.q = (getCore c s).q) : EngFrame c e x stOK s (engEnd c e x (t, stOK)) := by
  refine ⟨h.ended hq stOK, otherCores_engEnd h.others, ?_, ?_⟩
  · exact h.regs.trans (.of_regs (regs_engEnd c e x _))
  · obtain ⟨v, w, rfl⟩ : ∃ v w, t = { s with cores := v, regs := w } := ⟨_, _, h.rest⟩
    rw [engEnd_ok]
    rfl

/-! Flags (R82, R83). -/

theorem flagEvt_ok : ∀ f < 5, (flagEvt f).Ok := by decide

theorem flagEvts_apart : (List.range 5).Pairwise fun f g => (flagEvt f).Apart (flagEvt g) := by decide +kernel

theorem flagEvt_apart {f g : Nat} (hf : f < 5) (hg : g < 5) (h : f ≠ g) : (flagEvt f).Apart (flagEvt g) :=
  have : Std.Symm fun f g => (flagEvt f).Apart (flagEvt g) := ⟨fun _ _ => Evt.Apart.symm⟩
  flagEvts_apart.forall (List.mem_range.2 hf) (List.mem_range.2 hg) h

theorem flagEvt_mem_flagRegs (c : Nat) : ∀ f < 5, coreB c + (flagEvt f).bit.off ∈ flagRegs c ∧
    coreB c + (flagEvt f).cnt.off ∈ flagRegs c := by
  intro f hf
  interval_cases f <;> simp [flagRegs, flagEvt]

/-- The flags that a set of flags names. -/
def flagList (fl : Nat) : List Nat := (List.range 5).filter (bitOf fl)

theorem mem_flagList {fl f : Nat} : f ∈ flagList fl ↔ f < 5 ∧ bitOf fl f = true := by simp [flagList]

theorem raiseFlags_eq (c fl : Nat) (s : State) :
    raiseFlags c fl s = forAll ((flagList fl).map flagEvt) (evt (coreB c)) s := by
  rw [raiseFlags, forAll, forAll, List.foldl_map, flagList]

/-- A flag is set after an instruction if it was, or if the instruction raised it. -/
theorem fget_raiseFlags (c fl : Nat) {f : Nat} (hf : f < 5) (s : State) :
    fget (coreB c) (flagEvt f).bit (raiseFlags c fl s) = 1 ↔
      fget (coreB c) (flagEvt f).bit s = 1 ∨ bitOf fl f = true := by
  have hok : ∀ e ∈ (flagList fl).map flagEvt, e.Ok := by
    simp only [List.mem_map, mem_flagList]
    rintro e ⟨g, ⟨hg, -⟩, rfl⟩
    exact flagEvt_ok g hg
  rw [raiseFlags_eq]
  by_cases hb : bitOf fl f = true
  · have hap : ((flagList fl).map flagEvt).Pairwise Evt.Apart :=
      List.pairwise_map.2 (flagEvts_apart.sublist List.filter_sublist)
    have hset := (fget_forAll_evt (coreB c) _ s hok hap (List.mem_map.2 ⟨f, mem_flagList.2 ⟨hf, hb⟩, rfl⟩)).1
    exact ⟨fun _ => .inr hb, fun _ => hset⟩
  · rw [fget_forAll_evt_apart]
    · exact ⟨.inl, fun h => h.resolve_right hb⟩
    · intro e he
      obtain ⟨g, hg, rfl⟩ := List.mem_map.1 he
      have hne : f ≠ g := fun h => hb (h ▸ (mem_flagList.1 hg).2)
      obtain ⟨hbb, hbc, -, -⟩ := flagEvt_apart hf (mem_flagList.1 hg).1 hne
      exact ⟨hok _ he, hbb, hbc⟩

theorem regsKept_raiseFlags (c fl : Nat) (s : State) : RegsKept (flagRegs c) s (raiseFlags c fl s) := by
  refine forAll_keeps_mem (RegsKept (flagRegs c) s) _ _ s (fun f hf u hu => hu.trans ?_) (.refl _ s)
  obtain ⟨hb, hc⟩ := flagEvt_mem_flagRegs c f (mem_flagList.1 hf).1
  exact regsKept_evt hb hc u

/-- No flag has an interrupt of its own. -/
theorem evt_flagEvt (b f : Nat) (s : State) : evt b (flagEvt f) s = { s with regs := (evt b (flagEvt f) s).regs } := by
  unfold flagEvt
  split <;> rfl

theorem raiseFlags_frame (c fl : Nat) (s : State) : raiseFlags c fl s = { s with regs := (raiseFlags c fl s).regs } := by
  refine forAll_keeps (fun t => t = { s with regs := t.regs }) _ (fun f u hu => ?_) _ s rfl
  rw [evt_flagEvt, hu]

theorem LeavesCore.raiseFlags {c : Nat} {k : Core} {s t : State} (h : LeavesCore c k s t) (fl : Nat) :
    LeavesCore c k s (raiseFlags c fl t) := by
  have hcore : ∀ d, getCore d (Machine.raiseFlags c fl t) = getCore d t := fun d => (quiet_getCore d).raiseFlags c fl t
  refine ⟨(hcore c).trans h.core, fun d hd => (hcore d).trans (h.others d hd), h.regs.trans (regsKept_raiseFlags c fl t), ?_⟩
  rw [raiseFlags_frame, h.rest]

/-- One bit of a number, as the library has it. -/
theorem bitOf_eq_testBit (v i : Nat) : bitOf v i = v.testBit i := by
  rw [bitOf, Nat.testBit_eq_decide_div_mod_eq]
  rfl

theorem bitOf_orFlags (a b i : Nat) : bitOf (orFlags a b) i = (bitOf a i || bitOf b i) := by
  simp only [bitOf_eq_testBit, orFlags, Nat.testBit_or]

end Sys2Proof.Machine
end

section
/-! SUPPORT. Vector registers and accumulator vectors (R66, R77, R100): what a read gives after a write of bytes or of lanes, and
the elements of a packed run (R57, R65). -/

namespace Sys2Proof.Machine

/-! Lists. -/

theorem getD_range_map {α : Type} (f : Nat → α) (d : α) {n i : Nat} (h : i < n) : ((List.range n).map f).getD i d = f i := by
  simp [List.getD_eq_getElem?_getD, h]

/-- Element i of part j of a list of parts of one length. -/
theorem getD_flatMap_const {α β : Type} (f : α → List β) (d : β) {n : Nat} : ∀ (l : List α) (j i : Nat), i < n →
    (∀ x ∈ l, (f x).length = n) → (l.flatMap f).getD (n * j + i) d = (l[j]?.elim [] f).getD i d
  | [], _, _, _, _ => by simp
  | x :: l, 0, i, hi, h => by
    have hx : (f x).length = n := h x (.head _)
    simp [List.getD_eq_getElem?_getD, List.getElem?_append_left (show i < (f x).length by omega)]
  | x :: l, j + 1, i, hi, h => by
    have hx : (f x).length = n := h x (.head _)
    have ih := getD_flatMap_const f d l j i hi fun y hy => h y (.tail _ hy)
    rw [List.flatMap_cons, List.getD_append_right _ _ _ _ (by rw [hx, Nat.mul_succ]; omega), hx,
      show n * (j + 1) + i - n = n * j + i by rw [Nat.mul_succ]; omega, ih]
    rfl

theorem length_flatMap_const {α β : Type} (f : α → List β) {n : Nat} {l : List α} (h : ∀ x ∈ l, (f x).length = n) :
    (l.flatMap f).length = n * l.length := by
  rw [List.length_flatMap, List.map_congr_left h, List.map_const', List.sum_replicate, smul_eq_mul, Nat.mul_comm]

theorem getD_zipIdx_map {α β : Type} (f : α → Nat → β) (da : α) (db : β) {l : List α} {i : Nat} (h : i < l.length) :
    (l.zipIdx.map fun r => f r.1 r.2).getD i db = f (l.getD i da) i := by
  simp [List.getD_eq_getElem?_getD, h]

/-- Two lists of one length with the same elements are equal. -/
theorem eq_of_getD {α : Type} {l m : List α} (d : α) (hn : l.length = m.length) (h : ∀ i < l.length, l.getD i d = m.getD i d) :
    l = m := by
  refine List.ext_getElem hn fun i hi hm => ?_
  have := h i hi
  rwa [List.getD_eq_getElem _ _ hi, List.getD_eq_getElem _ _ hm] at this

/-! Bytes of a register. -/

@[simp] theorem length_vregBytes (k : Core) (v : Nat) : (vregBytes k v).length = 256 := by simp [vregBytes]

theorem getD_vregBytes (k : Core) (v : Nat) {i : Nat} (h : i < 256) :
    (vregBytes k v).getD i 0 = tget (fun _ => 0) k.vreg (256 * v + i) := getD_range_map _ _ h

theorem vregBytes_congr {k m : Core} (h : k.vreg = m.vreg) (v : Nat) : vregBytes k v = vregBytes m v := by
  rw [vregBytes, vregBytes, h]

theorem mem_sparse_lt : ∀ {l : List Byte} {i : Nat} {c : Nat × Byte}, c ∈ sparse i l → c.1 < i + l.length
  | [], _, _, h => by cases h
  | b :: r, i, c, h => by
    unfold sparse at h
    split at h
    · have := mem_sparse_lt h; simp; omega
    · rcases List.mem_cons.1 h with rfl | h
      · simp
      · have := mem_sparse_lt h; simp; omega

theorem tget_vregPut (k : Core) (v : Nat) (l : List Byte) (x : Nat) : tget (fun _ => 0) (vregPut k v l).vreg x =
    if 256 * v ≤ x ∧ x < 256 * v + l.length then l.getD (x - 256 * v) 0 else tget (fun _ => 0) k.vreg x := by
  have hsl : ∀ c ∈ sparse 0 l, c.1 < l.length := fun c hc => by have := mem_sparse_lt hc; omega
  rw [vregPut, tget_tput 0 _ _ _ _ _ hsl]
  congr 1
  simpa using tget_sparse l 0 (x - 256 * v)

/-- A register reads as the bytes just written, and beyond them as before (R100). -/
theorem getD_vregPut (k : Core) (v : Nat) (l : List Byte) {j : Nat} (hj : j < 256) :
    (vregBytes (vregPut k v l) v).getD j 0 = if j < l.length then l.getD j 0 else (vregBytes k v).getD j 0 := by
  rw [getD_vregBytes _ _ hj, tget_vregPut, getD_vregBytes _ _ hj, Nat.add_sub_cancel_left]
  exact if_congr (by omega) rfl rfl

/-- A write of one register leaves the others alone. -/
theorem vregBytes_vregPut_ne {v u : Nat} (h : u ≠ v) (k : Core) {l : List Byte} (hl : l.length ≤ 256) :
    vregBytes (vregPut k v l) u = vregBytes k u := by
  refine List.map_congr_left fun i hi => ?_
  have := List.mem_range.1 hi
  rw [tget_vregPut, if_neg (by omega)]

/-! Lanes of an accumulator vector. -/

/-- The entries of a list of lanes that are not 0. -/
def w48Slice (l : List Nat) : Tbl (BitVec 48) := (l.zipIdx.filter fun v => v.1 != 0).map fun v => (v.2, BitVec.ofNat 48 v.1)

theorem tget_w48From : ∀ (l : List Nat) (i j : Nat),
    tget (fun _ => 0) (((l.zipIdx i).filter fun v => v.1 != 0).map fun v => (v.2, BitVec.ofNat 48 v.1)) (i + j) =
      BitVec.ofNat 48 (l.getD j 0)
  | [], _, _ => by simp [tget]
  | x :: l, i, 0 => by
    have hrest : tget (fun _ => (0 : BitVec 48)) (((l.zipIdx (i + 1)).filter fun v => v.1 != 0).map
        fun v => (v.2, BitVec.ofNat 48 v.1)) i = 0 := by
      rw [← List.append_nil (List.map _ _), tget_append _ _ _ fun c hc => ?_]
      · rfl
      · obtain ⟨y, hy, rfl⟩ := List.mem_map.1 hc
        have := (List.mem_zipIdx (List.mem_of_mem_filter hy)).1
        exact Nat.ne_of_gt this
    by_cases hx : x = 0
    · simpa [hx] using hrest
    · simp [hx, tget]
  | x :: l, i, j + 1 => by
    have ih := tget_w48From l (i + 1) j
    rw [show i + 1 + j = i + (j + 1) by omega] at ih
    by_cases hx : x = 0
    · simpa [hx] using ih
    · simpa [hx, tget] using ih

theorem tget_w48Slice (l : List Nat) (j : Nat) : tget (fun _ => 0) (w48Slice l) j = BitVec.ofNat 48 (l.getD j 0) := by
  have h := tget_w48From l 0 j
  rwa [Nat.zero_add] at h

theorem w48Slice_lt {l : List Nat} {c : Nat × BitVec 48} (h : c ∈ w48Slice l) : c.1 < l.length := by
  obtain ⟨y, hy, rfl⟩ := List.mem_map.1 h
  have := (List.mem_zipIdx (List.mem_of_mem_filter hy)).2.1
  simpa using this

theorem acPut_eq (k : Core) (a : Nat) (l : List Nat) : acPut k a l = { k with ac := tput (64 * a) 64 (w48Slice l) k.ac } := rfl

@[simp] theorem length_acLanes (k : Core) (a : Nat) : (acLanes k a).length = 64 := by simp [acLanes]

theorem getD_acLanes (k : Core) (a : Nat) {j : Nat} (h : j < 64) :
    (acLanes k a).getD j 0 = (tget (fun _ => 0) k.ac (64 * a + j)).toNat := getD_range_map _ _ h

theorem acLanes_congr {k m : Core} (h : k.ac = m.ac) (a : Nat) : acLanes k a = acLanes m a := by
  rw [acLanes, acLanes, h]

theorem acLanes_lt (k : Core) (a j : Nat) : (acLanes k a).getD j 0 < 2 ^ 48 := by
  by_cases h : j < 64
  · rw [getD_acLanes k a h]; exact BitVec.isLt _
  · rw [List.getD_eq_default _ _ (by simpa using h)]; decide

/-- An accumulator vector reads as the lanes just written, in 48 bits. -/
theorem getD_acPut (k : Core) (a : Nat) {l : List Nat} (hl : l.length ≤ 64) {j : Nat} (hj : j < 64) :
    (acLanes (acPut k a l) a).getD j 0 = l.getD j 0 % 2 ^ 48 := by
  rw [getD_acLanes _ _ hj, acPut_eq, tget_tput 0 _ _ _ _ _ fun c hc => (w48Slice_lt hc).trans_le hl, if_pos (by omega),
    Nat.add_sub_cancel_left, tget_w48Slice, BitVec.toNat_ofNat]

theorem acLanes_acPut_ne {a b : Nat} (h : b ≠ a) (k : Core) {l : List Nat} (hl : l.length ≤ 64) :
    acLanes (acPut k a l) b = acLanes k b := by
  refine List.map_congr_left fun i hi => ?_
  have := List.mem_range.1 hi
  rw [acPut_eq, tget_tput 0 _ _ _ _ _ fun c hc => (w48Slice_lt hc).trans_le hl, if_neg (by omega)]

/-! Packed elements. -/

theorem length_packGroups (g w bytes n : Nat) (l : List Nat) : (packGroups g w bytes n l).length = bytes * ((n + g - 1) / g) := by
  rw [packGroups, length_flatMap_const _ fun _ _ => length_leBytes _ _, List.length_range]

/-- The formats whose elements are whole bytes: 8, 16, 32 bits and W48. -/
def byteFmt (fmt : Nat) : Bool := !([0x5, 0x6, 0x7, 0xB, 0xC, 0xD].contains fmt)

theorem packElems_byteFmt {fmt : Nat} (h : byteFmt fmt = true) (l : List Nat) :
    packElems fmt l = l.flatMap fun v => leBytes (fmtBits fmt / 8) v := by
  unfold packElems
  split
  case h_7 => rfl
  all_goals simp [byteFmt] at h

theorem length_packElems_byteFmt {fmt : Nat} (h : byteFmt fmt = true) (l : List Nat) :
    (packElems fmt l).length = fmtBits fmt / 8 * l.length := by
  rw [packElems_byteFmt h, length_flatMap_const _ fun _ _ => length_leBytes _ _]

/-- The lanes of a register fit into its 256 bytes. -/
theorem length_packElems_le {fmt : Nat} (hf : fmt < 16) {l : List Nat} (hl : l.length ≤ fmtLanes fmt) :
    (packElems fmt l).length ≤ 256 := by
  by_cases hb : byteFmt fmt = true
  · rw [length_packElems_byteFmt hb]
    interval_cases fmt <;> simp [fmtLanes, fmtBits] at hl hb ⊢ <;> omega
  · have hm : fmt ∈ [0x5, 0x6, 0x7, 0xB, 0xC, 0xD] := by
      simpa only [byteFmt, Bool.not_eq_true', Bool.not_eq_false, List.contains_iff_mem] using hb
    simp only [List.mem_cons, List.not_mem_nil, or_false] at hm
    rcases hm with rfl | rfl | rfl | rfl | rfl | rfl <;>
      simp [packElems, length_packGroups, fmtLanes, fmtBits] at hl ⊢ <;> omega

@[simp] theorem length_bytesAt (l : List Byte) (i n : Nat) : (bytesAt l i n).length = n := by simp [bytesAt]

theorem getD_bytesAt (l : List Byte) (i : Nat) {j n : Nat} (h : j < n) : (bytesAt l i n).getD j 0 = l.getD (i + j) 0 :=
  getD_range_map _ _ h

theorem bytesAt_congr {l m : List Byte} {i n : Nat} (h : ∀ j < n, l.getD (i + j) 0 = m.getD (i + j) 0) :
    bytesAt l i n = bytesAt m i n := List.map_congr_left fun j hj => h j (List.mem_range.1 hj)

/-- Part j of a string of parts of n bytes. -/
theorem bytesAt_flatMap {α : Type} (f : α → List Byte) (d : α) {n : Nat} {l : List α} (h : ∀ x ∈ l, (f x).length = n) {j : Nat}
    (hj : j < l.length) : bytesAt (l.flatMap f) (n * j) n = f (l.getD j d) := by
  have hx : (f l[j]).length = n := h _ (List.getElem_mem hj)
  rw [List.getD_eq_getElem _ _ hj]
  refine eq_of_getD 0 (by simp [bytesAt, hx]) fun i hi => ?_
  have hi' : i < n := by simpa [bytesAt] using hi
  rw [getD_bytesAt _ _ hi', getD_flatMap_const f 0 l j i hi' h, List.getElem?_eq_getElem hj]
  rfl

theorem fmtBits_byteFmt {fmt : Nat} (h : byteFmt fmt = true) : fmtBits fmt = 8 * (fmtBits fmt / 8) ∧ 8 ≤ fmtBits fmt := by
  unfold fmtBits
  split <;> simp [byteFmt] at h ⊢

theorem elemBits_byteFmt {fmt : Nat} (h : byteFmt fmt = true) (l : List Byte) (i : Nat) :
    elemBits fmt l i = leNat (bytesAt l (fmtBits fmt / 8 * i) (fmtBits fmt / 8)) := by
  have hb := (fmtBits_byteFmt h).2
  rw [Nat.mul_comm]
  unfold elemBits
  split
  case h_4 => exact if_neg (Nat.not_lt.2 hb)
  all_goals simp [byteFmt] at h

theorem pow_fmtBits {fmt : Nat} (h : byteFmt fmt = true) : 256 ^ (fmtBits fmt / 8) = 2 ^ fmtBits fmt := by
  rw [show 256 = 2 ^ 8 by rfl, ← Nat.pow_mul, ← (fmtBits_byteFmt h).1]

theorem elemBits_lt {fmt : Nat} (h : byteFmt fmt = true) (l : List Byte) (i : Nat) : elemBits fmt l i < 2 ^ fmtBits fmt := by
  have hlt := leNat_lt (bytesAt l (fmtBits fmt / 8 * i) (fmtBits fmt / 8))
  rwa [length_bytesAt, pow_fmtBits h, ← elemBits_byteFmt h] at hlt

/-- An element of a packed run reads back in the bits of its format. -/
theorem elemBits_packElems {fmt : Nat} (h : byteFmt fmt = true) (l : List Nat) {j : Nat} (hj : j < l.length) :
    elemBits fmt (packElems fmt l) j = l.getD j 0 % 2 ^ fmtBits fmt := by
  rw [elemBits_byteFmt h, packElems_byteFmt h, bytesAt_flatMap _ 0 (fun _ _ => length_leBytes _ _) hj, leNat_leBytes,
    pow_fmtBits h]

end Sys2Proof.Machine
end

section
/-! SUPPORT. Instructions of the vector engine (R71, R77, R80, R100): how the row of an instruction runs, the formats of a
well-formed slot, results in VD under the lane mask, and the flags of the active lanes. -/

namespace Sys2Proof.Machine

/-! Rows of the vector engine. -/

/-- A row of the vector engine does what its operation on the slot word does; the engine waits in the safe state and without
credit (R28, R31). -/
theorem vxRuns_of {c : Fin 256} {i : Instr} {op : Nat} {f : Nat → Nat → State → State × BitVec 8}
    {P : EngInstr → Nat → State → State → Prop} (hi : ∀ s, exec i s = vxRow c op f s)
    (h : ∀ x w s, vxOp w = op → vxEncodings w = stOK → P x w s (engEnd c.val 2 x (f c.val w s))) : VxRuns c.val i op P := by
  intro x s hx hd hop henc
  refine ⟨fun hm => ⟨_, hi s, ?_⟩, fun hm => ⟨_, hi s, runHead_waits hx hm⟩⟩
  rw [runHead_runs hx hd (by simp [hop]) hm]
  exact h x _ s hop henc

/-! The slot of a well-formed instruction (R100). -/

theorem eq_false_of_failIf {c : Bool} {st : BitVec 8} (hst : st ≠ stOK) (h : failIf c st = stOK) : c = false := by
  by_contra hc
  exact hst (by rw [← h, failIf, if_pos (by simpa using hc)])

theorem vxFmt_lt (w : Nat) : vxFmt w < 16 := Nat.mod_lt _ (by decide)
theorem vxFmtOut_lt (w : Nat) : vxFmtOut w < 16 := Nat.mod_lt _ (by decide)

theorem vxLanes_le_in (w : Nat) : vxLanes w ≤ fmtLanes (vxIn w) := Nat.min_le_left _ _
theorem vxLanes_le_out (w : Nat) : vxLanes w ≤ fmtLanes (vxOut w) := Nat.min_le_right _ _

/-- A well-formed register-form slot has a format of its row, SRC_AC only where its operation has a source in AC, and DST_AC
only for CVT. -/
theorem regForm_of_encodings {w : Nat} (hm : vxIsMem (vxOp w) = false) (h : vxEncodings w = stOK) :
    vxFmtOk w = true ∧ (vxSrcAc w = true → vxOp w ∈ [0x10, 0x18, 0x19, 0x1A, 0x28, 0x29]) ∧
      (vxDstAc w = true → vxOp w = 0x18) := by
  simp only [vxEncodings, hm, Bool.false_eq_true, if_false] at h
  have hc := eq_false_of_failIf (by decide) h
  simp only [Bool.or_eq_false_iff, Bool.not_eq_false', Bool.and_eq_false_imp, List.contains_iff_mem, bne_eq_false_iff_eq] at hc
  obtain ⟨⟨⟨hf, -⟩, hs⟩, hd⟩ := hc
  exact ⟨hf, hs, hd⟩

/-- The operations of R77 from ADD to SEL work in F32, BF16, F16, I32, I16 or I8. -/
theorem arith_of_encodings {w : Nat} (h1 : 1 ≤ vxOp w) (h2 : vxOp w ≤ 0xA) (h : vxEncodings w = stOK) :
    byteFmt (vxFmt w) = true ∧ vxOut w = vxFmt w ∧ vxLanes w = fmtLanes (vxFmt w) := by
  have hm : vxIsMem (vxOp w) = false := by simp [vxIsMem]; omega
  obtain ⟨hf, hs, hd⟩ := regForm_of_encodings hm h
  have hsrc : vxSrcAc w = false := by
    by_contra hx
    have := hs (by simpa using hx)
    simp only [List.mem_cons, List.not_mem_nil, or_false] at this
    omega
  have hdst : vxDstAc w = false := by
    by_contra hx
    have := hd (by simpa using hx)
    omega
  have hout : vxOut w = vxFmt w := by
    unfold vxOut
    dsimp only
    rw [if_neg (by simp [hdst]; omega), if_neg (by omega)]
  have hin : vxIn w = vxFmt w := by
    have hop : vxOp w ≠ 0x11 := by omega
    simp [vxIn, hsrc, hop]
  refine ⟨?_, hout, ?_⟩
  · have hfmt : vxFmt w ∈ [0x0, 0x1, 0x2, 0x8, 0x9, 0xA] := by
      rw [vxFmtOk] at hf
      rw [if_pos ⟨h1, h2⟩] at hf
      exact List.contains_iff_mem.1 hf
    revert hfmt
    generalize vxFmt w = f
    revert f
    decide
  · rw [vxLanes, hin, hout]
    exact Nat.min_self _

/-! Results in VD. -/

/-- Lane results that the mask filters, as the lanes that a masked operation leaves. -/
theorem maskedLanes_eq {k : Core} {w fmt n : Nat} {g : Nat → Nat} {res : List Nat} (hn : res.length = n)
    (hg : ∀ j < n, res.getD j 0 = g j) :
    (res.zipIdx.map fun r => if laneOn k w r.2 then r.1 else elemBits fmt (vregBytes k (vxVD w)) r.2) =
      maskedLanes k w fmt n g := by
  refine eq_of_getD 0 (by simp [maskedLanes, hn]) fun j hj => ?_
  have hj' : j < res.length := by simpa using hj
  rw [getD_zipIdx_map (fun r i => if laneOn k w i then r else elemBits fmt (vregBytes k (vxVD w)) i) 0 0 hj', maskedLanes,
    getD_range_map _ _ (hn ▸ hj'), hg j (hn ▸ hj')]

theorem putLanes_eq {k : Core} {w fmt n : Nat} {g : Nat → Nat} {res : List Nat} (hn : res.length = n)
    (hg : ∀ j < n, res.getD j 0 = g j) :
    putLanes k w fmt res = vregPut k (vxVD w) (packElems fmt (maskedLanes k w fmt n g)) := by
  rw [putLanes, maskedLanes_eq hn hg]

@[simp] theorem length_maskedLanes (k : Core) (w fmt n : Nat) (g : Nat → Nat) : (maskedLanes k w fmt n g).length = n := by
  simp [maskedLanes]

theorem getD_maskedLanes (k : Core) (w fmt : Nat) (g : Nat → Nat) {n j : Nat} (h : j < n) :
    (maskedLanes k w fmt n g).getD j 0 = if laneOn k w j then g j else elemBits fmt (vregBytes k (vxVD w)) j :=
  getD_range_map _ _ h

theorem vregBytes_engEnd (c e : Nat) (x : EngInstr) (r : State × BitVec 8) (v : Nat) :
    vregBytes (getCore c (engEnd c e x r)) v = vregBytes (getCore c r.1) v := vregBytes_congr (by rw [getCore_engEnd]) v

theorem acLanes_engEnd (c e : Nat) (x : EngInstr) (r : State × BitVec 8) (a : Nat) :
    acLanes (getCore c (engEnd c e x r)) a = acLanes (getCore c r.1) a := acLanes_congr (by rw [getCore_engEnd]) a

/-- VD holds the bytes that the operation has put there. -/
theorem vdHolds_engEnd {c e w : Nat} {x : EngInstr} {l : List Byte} {s : State} {r : State × BitVec 8}
    (h : (getCore c r.1).vreg = (vregPut (getCore c s) (vxVD w) l).vreg) (hl : l.length ≤ 256) :
    VdHolds c w l s (engEnd c e x r) := by
  refine ⟨fun j hj => ?_, fun v hv => ?_⟩
  · rw [vregBytes_engEnd, vregBytes_congr h, getD_vregPut _ _ _ hj]
  · rw [vregBytes_engEnd, vregBytes_congr h, vregBytes_vregPut_ne hv _ hl]

/-- An element of VD after packed elements were put there. -/
theorem VdHolds.elemBits {c w fmt : Nat} {l : List Nat} {s t : State} (h : VdHolds c w (packElems fmt l) s t)
    (hb : byteFmt fmt = true) (hl : (packElems fmt l).length ≤ 256) {j : Nat} (hj : j < l.length) :
    elemBits fmt (vregBytes (getCore c t) (vxVD w)) j = l.getD j 0 % 2 ^ fmtBits fmt := by
  rw [← elemBits_packElems hb l hj, elemBits_byteFmt hb, elemBits_byteFmt hb]
  refine congrArg leNat (bytesAt_congr fun i hi => ?_)
  have hin : fmtBits fmt / 8 * j + i < (packElems fmt l).length := by
    rw [length_packElems_byteFmt hb]
    calc _ < fmtBits fmt / 8 * j + fmtBits fmt / 8 := by omega
      _ = fmtBits fmt / 8 * (j + 1) := by rw [Nat.mul_succ]
      _ ≤ _ := Nat.mul_le_mul_left _ hj
  rw [h.1 _ (by omega), if_pos hin]

/-! Flags of the active lanes. -/

theorem bitOf_foldl_orFlags {α : Type} (p : α → Bool) (fl : α → Nat) (f : Nat) : ∀ (l : List α) (a : Nat),
    bitOf (l.foldl (fun a r => if p r then orFlags a (fl r) else a) a) f = (bitOf a f || l.any fun r => p r && bitOf (fl r) f)
  | [], a => by simp
  | r :: l, a => by
    rw [List.foldl_cons, bitOf_foldl_orFlags p fl f l]
    cases hp : p r <;> simp [hp, bitOf_orFlags, Bool.or_assoc]

theorem bitOf_laneFlags (k : Core) (w : Nat) (l : List (Nat × Nat)) (f : Nat) : bitOf (laneFlags k w l) f = true ↔
    ∃ j < l.length, laneOn k w j = true ∧ bitOf (l.getD j (0, 0)).2 f = true := by
  rw [laneFlags, bitOf_foldl_orFlags (fun r : (Nat × Nat) × Nat => laneOn k w r.2) (fun r => r.1.2)]
  have h0 : bitOf 0 f = false := by simp [bitOf_eq_testBit]
  simp only [h0, Bool.false_or, List.any_eq_true, Bool.and_eq_true]
  constructor
  · rintro ⟨⟨r, j⟩, hr, hon, hbit⟩
    obtain ⟨hj, hget⟩ := List.mem_zipIdx' hr
    exact ⟨j, hj, hon, by rwa [List.getD_eq_getElem _ _ hj, ← hget]⟩
  · rintro ⟨j, hj, hon, hbit⟩
    rw [List.getD_eq_getElem _ _ hj] at hbit
    exact ⟨(l[j], j), List.mem_iff_getElem.2 ⟨j, by simpa using hj, by simp⟩, hon, hbit⟩

/-- The flags of an instruction whose lanes raise theirs. -/
theorem flagsRise_engEnd {c w n : Nat} {fl : Nat → Nat} {x : EngInstr} {s u : State} {st : BitVec 8} {res : List (Nat × Nat)}
    (hu : u.regs = s.regs) (hn : res.length = n) (hfl : ∀ j < n, (res.getD j (0, 0)).2 = fl j) :
    FlagsRise c w n fl s (engEnd c 2 x (raiseFlags c (laneFlags (getCore c s) w res) u, st)) := by
  intro f hf
  have hfu : fget (coreB c) (flagEvt f).bit u = fget (coreB c) (flagEvt f).bit s := by simp only [fget, regGet, hu]
  rw [fget_engEnd, fget_raiseFlags c _ hf, hfu, bitOf_laneFlags, hn]
  refine or_congr_right (exists_congr fun j => and_congr_right fun hj => ?_)
  rw [hfl j hj]

/-! Operations that put bytes into VD. -/

/-- Bytes are put into VD, flags are raised, and the instruction ends with OK. -/
def putVd (c w fl : Nat) (l : List Byte) (s : State) : State × BitVec 8 :=
  (raiseFlags c fl (setCore c (vregPut (getCore c s) (vxVD w) l) s), stOK)

theorem leavesCore_putVd (c w fl : Nat) (l : List Byte) (s : State) :
    LeavesCore c (vregPut (getCore c s) (vxVD w) l) s (putVd c w fl l s).1 := (leavesCore_setCore c _ s).raiseFlags fl

theorem engFrame_putVd (c w fl : Nat) (l : List Byte) (x : EngInstr) (s : State) :
    EngFrame c 2 x stOK s (engEnd c 2 x (putVd c w fl l s)) := (leavesCore_putVd c w fl l s).engFrame rfl

theorem vdHolds_putVd {l : List Byte} (hl : l.length ≤ 256) (c w fl : Nat) (x : EngInstr) (s : State) :
    VdHolds c w l s (engEnd c 2 x (putVd c w fl l s)) :=
  vdHolds_engEnd (congrArg Core.vreg (leavesCore_putVd c w fl l s).core) hl

theorem flagsRise_putVd {c w n : Nat} {fl : Nat → Nat} {s : State} {res : List (Nat × Nat)} (hn : res.length = n)
    (hfl : ∀ j < n, (res.getD j (0, 0)).2 = fl j) (l : List Byte) (x : EngInstr) :
    FlagsRise c w n fl s (engEnd c 2 x (putVd c w (laneFlags (getCore c s) w res) l s)) := flagsRise_engEnd rfl hn hfl

end Sys2Proof.Machine
end

section
/-! SUPPORT. Lane-wise arithmetic of the vector engine (R71, R77). -/

namespace Sys2Proof.Machine

/-- The result of lane j of a lane-wise operation, with the flags of its conversion. -/
def laneResult (w : Nat) (v : Val) : Nat × Nat := encArith (vxOut w) (vxRnd w) (vxSat w) v

theorem vxLaneOp_eq (c w : Nat) (g : Core → Nat → Val × Nat) (s : State) : vxLaneOp c w g s =
    putVd c w (laneFlags (getCore c s) w ((List.range (vxLanes w)).map fun j =>
        ((laneResult w (g (getCore c s) j).1).1, orFlags (g (getCore c s) j).2 (laneResult w (g (getCore c s) j).1).2)))
      (packElems (vxOut w) (maskedLanes (getCore c s) w (vxOut w) (vxLanes w) fun j =>
        (laneResult w (g (getCore c s) j).1).1)) s := by
  rw [vxLaneOp]
  dsimp only
  rw [putLanes_eq (n := vxLanes w) (g := fun j => (laneResult w (g (getCore c s) j).1).1) (by simp)
    fun j hj => by rw [List.map_map]; exact getD_range_map _ _ hj]
  rfl

/-- A lane-wise operation does lane by lane what g does (R77). -/
theorem vxLanewise_vxLaneOp {w : Nat} (c : Nat) (g : Nat → Core → Nat → Val × Nat) (x : EngInstr) (s : State) (h1 : 1 ≤ vxOp w)
    (h2 : vxOp w ≤ 0xA) (h : vxEncodings w = stOK) : VxLanewise c g x w s (engEnd c 2 x (vxLaneOp c w (g w) s)) := by
  obtain ⟨hb, hout, hlanes⟩ := arith_of_encodings h1 h2 h
  rw [← hout] at hb hlanes
  have hlen : ∀ r : Nat → Nat, (packElems (vxOut w) (maskedLanes (getCore c s) w (vxOut w) (vxLanes w) r)).length ≤ 256 :=
    fun r => length_packElems_le (hout ▸ vxFmt_lt w) (by rw [length_maskedLanes, hlanes])
  rw [vxLaneOp_eq]
  have hvd := vdHolds_putVd (hlen fun j => (laneResult w (g w (getCore c s) j).1).1) c w
    (laneFlags (getCore c s) w ((List.range (vxLanes w)).map fun j => ((laneResult w (g w (getCore c s) j).1).1,
      orFlags (g w (getCore c s) j).2 (laneResult w (g w (getCore c s) j).1).2))) x s
  refine ⟨engFrame_putVd c w _ _ x s, flagsRise_putVd (by simp) (fun j hj => ?_) _ x, fun j hj => ?_, hvd.2⟩
  · rw [getD_range_map _ _ hj]
    rfl
  · rw [hvd.elemBits hb (hlen _) (by simpa using hj), getD_maskedLanes _ _ _ _ hj, apply_ite (· % _)]
    exact if_congr Iff.rfl rfl (Nat.mod_eq_of_lt (elemBits_lt hb _ _))

theorem vxRuns_lanewise {c : Fin 256} {i : Instr} {op : Nat} (g : Nat → Core → Nat → Val × Nat) (h1 : 1 ≤ op) (h2 : op ≤ 0xA)
    (hi : ∀ s, exec i s = vxRow c op (fun c w => vxLaneOp c w (g w)) s) : VxRuns c.val i op (VxLanewise c.val g) :=
  vxRuns_of hi fun x _ s hop => vxLanewise_vxLaneOp c.val g x s (hop ▸ h1) (hop ▸ h2)

/-- Settles O20: each operation is the lane-wise operation with its own exact result. -/
theorem vxArithmetic : Obligations.VxArithmetic := by
  unfold Obligations.VxArithmetic
  exact fun c => ⟨vxRuns_lanewise _ (by decide) (by decide) fun _ => rfl, vxRuns_lanewise _ (by decide) (by decide) fun _ => rfl,
    vxRuns_lanewise _ (by decide) (by decide) fun _ => rfl, vxRuns_lanewise _ (by decide) (by decide) fun _ => rfl,
    vxRuns_lanewise _ (by decide) (by decide) fun _ => rfl, vxRuns_lanewise _ (by decide) (by decide) fun _ => rfl⟩

end Sys2Proof.Machine
end

section
/-! SUPPORT. Comparisons, SEL and PERM of the vector engine (R56, R77, R80, R100): lane masks as bits, results without flags. -/

namespace Sys2Proof.Machine

/-! Lane masks. -/

theorem bitOf_packed8_fin : ∀ (f : Fin 8 → Bool) (m : Fin 8), bitOf (BitVec.ofNat 8 ((List.range 8).foldl
    (fun a i => a + (f (Fin.ofNat 8 i)).toNat % 2 ^ 1 * 2 ^ (1 * i)) 0)).toNat m = f m := by decide +kernel

/-- Bit m of eight bits packed into a byte. -/
theorem bitOf_packed8 (f : Nat → Bool) {m : Nat} (hm : m < 8) :
    bitOf (BitVec.ofNat 8 ((List.range 8).foldl (fun a i => a + (f i).toNat % 2 ^ 1 * 2 ^ (1 * i)) 0)).toNat m = f m :=
  bitOf_packed8_fin (fun i => f i) ⟨m, hm⟩

theorem length_packBits (l : List Bool) : (packBits l).length = (l.length + 7) / 8 := by
  rw [packBits, length_packGroups, Nat.one_mul, Nat.add_succ_sub_one]

theorem bitOf_packBits (l : List Bool) {j : Nat} (hj : j < l.length) :
    bitOf ((packBits l).getD (j / 8) 0).toNat (j % 8) = l.getD j false := by
  have hg : j / 8 < (l.length + 8 - 1) / 8 := by omega
  have hbit := bitOf_packed8 (fun i => l.getD (8 * (j / 8) + i) false) (Nat.mod_lt j (by decide : 0 < 8))
  rw [Nat.div_add_mod] at hbit
  rw [← hbit, packBits, packGroups]
  have hpart := getD_flatMap_const (fun g => leBytes 1 ((List.range 8).foldl (fun a i =>
    a + ((l.map Bool.toNat).getD (8 * g + i) 0) % 2 ^ 1 * 2 ^ (1 * i)) 0)) (0 : Byte) (List.range ((l.length + 8 - 1) / 8))
    (j / 8) 0 Nat.one_pos fun _ _ => length_leBytes _ _
  have hmap : ∀ i, (l.map Bool.toNat).getD i 0 = (l.getD i false).toNat := fun i => by
    rw [← List.getD_map (f := Bool.toNat)]
    rfl
  simp only [Nat.one_mul, Nat.add_zero, hmap, List.getElem?_range hg, Option.elim_some] at hpart ⊢
  rw [hpart]
  rfl

/-! Results without flags. -/

theorem regsKept_putVd_zero (c w : Nat) (l : List Byte) (x : EngInstr) (s : State) :
    RegsKept [] s (engEnd c 2 x (putVd c w 0 l s)) := .of_regs (regs_engEnd c 2 x _)

/-! Comparisons. -/

/-- The mask bits that a comparison leaves in VD. -/
def compareBits (rel : Val → Val → Bool) (w : Nat) (k : Core) : List Bool := (List.range (vxLanes w)).map fun j =>
  if laneOn k w j then rel (laneOf w (vxVA w) k j) (laneOf w (vxVB w) k j) else maskBit k (vxVD w) j

theorem vxCompare_eq (c w : Nat) (rel : Val → Val → Bool) (s : State) :
    vxCompare c w rel s = putVd c w 0 (packBits (compareBits rel w (getCore c s))) s := rfl

theorem fmtLanes_le_of_byteFmt {fmt : Nat} (hf : fmt < 16) (h : byteFmt fmt = true) : fmtLanes fmt ≤ 256 := by
  revert h
  interval_cases fmt <;> decide

theorem vxCompares_vxCompare {w : Nat} (c : Nat) (rel : Val → Val → Bool) (x : EngInstr) (s : State) (h1 : 1 ≤ vxOp w)
    (h2 : vxOp w ≤ 0xA) (h : vxEncodings w = stOK) : VxCompares c rel x w s (engEnd c 2 x (vxCompare c w rel s)) := by
  obtain ⟨hb, -, hlanes⟩ := arith_of_encodings h1 h2 h
  have hn : (compareBits rel w (getCore c s)).length = vxLanes w := by simp [compareBits]
  have hle : vxLanes w ≤ 256 := hlanes ▸ fmtLanes_le_of_byteFmt (vxFmt_lt w) hb
  have hlen : (packBits (compareBits rel w (getCore c s))).length = (vxLanes w + 7) / 8 := by rw [length_packBits, hn]
  rw [vxCompare_eq]
  have hvd := vdHolds_putVd (by omega) c w 0 x s (l := packBits (compareBits rel w (getCore c s)))
  refine ⟨engFrame_putVd c w _ _ x s, regsKept_putVd_zero c w _ x s, fun j hj => ?_, hvd.2⟩
  rw [maskBit, hvd.1 _ (by omega), if_pos (by omega), bitOf_packBits _ (by omega), compareBits, getD_range_map _ _ hj]

theorem vxRuns_compares {c : Fin 256} {i : Instr} {op : Nat} (rel : Val → Val → Bool) (h1 : 1 ≤ op) (h2 : op ≤ 0xA)
    (hi : ∀ s, exec i s = vxRow c op (fun c w => vxCompare c w rel) s) : VxRuns c.val i op (VxCompares c.val rel) :=
  vxRuns_of hi fun x _ s hop => vxCompares_vxCompare c.val rel x s (hop ▸ h1) (hop ▸ h2)

/-! SEL. -/

/-- The elements that SEL leaves in VD. -/
def selLanes (w : Nat) (k : Core) : List Nat := (List.range (vxLanes w)).map fun j =>
  if maskBit k (vxMaskV w) j then elemBits (vxFmt w) (vregBytes k (vxVA w)) j
  else elemBits (vxFmt w) (vregBytes k (vxVB w)) j

theorem vxSel_eq (c w : Nat) (s : State) :
    vxSel c w s = putVd c w 0 (packElems (vxFmt w) (selLanes w (getCore c s))) s := rfl

/-- SEL gives each lane of VD the element that the mask bit chooses, and leaves the other registers alone (R77). -/
theorem vregBytes_vxSel {w : Nat} (c : Nat) (x : EngInstr) (s : State) (h1 : 1 ≤ vxOp w) (h2 : vxOp w ≤ 0xA)
    (h : vxEncodings w = stOK) :
    (∀ j < vxLanes w, elemBits (vxFmt w) (vregBytes (getCore c (engEnd c 2 x (vxSel c w s))) (vxVD w)) j =
      elemBits (vxFmt w) (vregBytes (getCore c s) (if maskBit (getCore c s) (vxMaskV w) j then vxVA w else vxVB w)) j) ∧
    ∀ v, v ≠ vxVD w → vregBytes (getCore c (engEnd c 2 x (vxSel c w s))) v = vregBytes (getCore c s) v := by
  obtain ⟨hb, -, hlanes⟩ := arith_of_encodings h1 h2 h
  have hn : (selLanes w (getCore c s)).length = vxLanes w := by simp [selLanes]
  have hlen := length_packElems_le (vxFmt_lt w) (hn.trans hlanes).le
  rw [vxSel_eq]
  have hvd := vdHolds_putVd hlen c w 0 x s
  refine ⟨fun j hj => ?_, hvd.2⟩
  rw [hvd.elemBits hb hlen (hn ▸ hj), selLanes, getD_range_map _ _ hj, ← apply_ite (fun v => elemBits (vxFmt w)
    (vregBytes (getCore c s) v) j)]
  exact Nat.mod_eq_of_lt (elemBits_lt hb _ _)

/-! PERM. -/

/-- The element that PERM gives lane j: the lane of VA that the raw bits of lane j of VB name (log entry 13). -/
def permLane (w : Nat) (k : Core) (j : Nat) : Nat :=
  elemBits (vxFmt w) (vregBytes k (vxVA w)) (elemBits (vxFmt w) (vregBytes k (vxVB w)) j % vxLanes w)

/-- A T5 byte from 243 to 255 stands in VA or VB (R56). -/
def permBad (w : Nat) (k : Core) : Bool :=
  vxFmt w == 0xD && (vregBytes k (vxVA w) ++ vregBytes k (vxVB w)).any fun y => decide (243 ≤ y.toNat)

theorem vxPerm_eq (c w : Nat) (s : State) : vxPerm c w s =
    ((putVd c w (if permBad w (getCore c s) then flT5 else 0)
      (packElems (vxFmt w) (maskedLanes (getCore c s) w (vxFmt w) (vxLanes w) (permLane w (getCore c s)))) s).1,
      if permBad w (getCore c s) then stCHECK else stOK) := by
  have hput := putLanes_eq (k := getCore c s) (w := w) (fmt := vxFmt w) (n := vxLanes w) (g := permLane w (getCore c s))
    (res := (List.range (vxLanes w)).map (permLane w (getCore c s))) (by simp) fun j hj => getD_range_map _ _ hj
  have hperm : vxPerm c w s = if permBad w (getCore c s)
    then (raiseFlags c flT5 (setCore c (putLanes (getCore c s) w (vxFmt w) ((List.range (vxLanes w)).map
      (permLane w (getCore c s)))) s), stCHECK)
    else (setCore c (putLanes (getCore c s) w (vxFmt w) ((List.range (vxLanes w)).map (permLane w (getCore c s)))) s, stOK) :=
    rfl
  rw [hperm, hput]
  split <;> rfl

theorem vxOut_perm {w : Nat} (hop : vxOp w = 0x30) (h : vxEncodings w = stOK) : vxOut w = vxFmt w := by
  have hd : ¬ vxDstAc w = true := fun hd =>
    absurd ((regForm_of_encodings (by rw [hop]; rfl) h).2.2 hd) (by rw [hop]; decide)
  simp [vxOut, hop, hd]

/-- PERM puts the named lanes into VD, and is checked for T5 bytes that are no digits (R56, R77). -/
theorem vxPerm_spec {w : Nat} (c : Nat) (x : EngInstr) (s : State) (hop : vxOp w = 0x30) (h : vxEncodings w = stOK) :
    let t := engEnd c 2 x (vxPerm c w s)
    (permBad w (getCore c s) = false → EngFrame c 2 x stOK s t ∧ RegsKept [] s t) ∧
    (permBad w (getCore c s) = true → Ended c 2 x stCHECK s t ∧ OtherCores c s t ∧ t.mem = s.mem ∧
      fget (coreB c) fCORE_ENG_FLAGS_T5_BAD t = 1) ∧
    VdHolds c w (packElems (vxFmt w) (maskedLanes (getCore c s) w (vxFmt w) (vxLanes w) (permLane w (getCore c s)))) s t := by
  have hlen := length_packElems_le (vxFmt_lt w) (l := maskedLanes (getCore c s) w (vxFmt w) (vxLanes w)
    (permLane w (getCore c s))) (by rw [length_maskedLanes, ← vxOut_perm hop h]; exact vxLanes_le_out w)
  dsimp only
  rw [vxPerm_eq]
  refine ⟨fun hb => ?_, fun hb => ?_, vdHolds_engEnd (congrArg Core.vreg (leavesCore_putVd c w _ _ s).core) hlen⟩
  · simp only [hb, Bool.false_eq_true, if_false]
    exact ⟨engFrame_putVd c w 0 _ x s, regsKept_putVd_zero c w _ x s⟩
  · simp only [hb, if_true]
    have hl := leavesCore_putVd c w flT5 (packElems (vxFmt w) (maskedLanes (getCore c s) w (vxFmt w) (vxLanes w)
      (permLane w (getCore c s)))) s
    refine ⟨hl.ended rfl stCHECK, otherCores_engEnd hl.others, (mem_engEnd c 2 x _).trans hl.mem, ?_⟩
    rw [fget_engEnd]
    exact (fget_raiseFlags c flT5 (f := 3) (by decide) _).2 (.inr (by decide))

/-- Settles O21: comparisons and SEL put their bits and elements into VD without a flag; PERM checks its T5 bytes. -/
theorem vxCompareSelectPermute : Obligations.VxCompareSelectPermute := by
  unfold Obligations.VxCompareSelectPermute
  refine fun c => ⟨vxRuns_compares _ (by decide) (by decide) fun _ => rfl, vxRuns_compares _ (by decide) (by decide) fun _ => rfl,
    vxRuns_compares _ (by decide) (by decide) fun _ => rfl, vxRuns_of (fun _ => rfl) fun x w s hop h => ?_,
    vxRuns_of (fun _ => rfl) fun x w s hop h => vxPerm_spec c.val x s hop h⟩
  obtain ⟨hlanes, hother⟩ := vregBytes_vxSel c.val x s (by omega) (by omega) h
  exact ⟨engFrame_putVd c.val w 0 _ x s, regsKept_putVd_zero c.val w _ x s, hlanes, hother⟩

end Sys2Proof.Machine
end

section
/-! SUPPORT. Accumulation, conversion and quantisation by the vector engine (R71, R79, R100). -/

namespace Sys2Proof.Machine

/-! The source lanes and the output format (R100). -/

theorem vxOut_fmtOut {w : Nat} (hop : vxOp w ∈ [0x11, 0x18, 0x19, 0x1A, 0x28, 0x29]) (hd : vxDstAc w = false) :
    vxOut w = vxFmtOut w := by
  simp only [List.mem_cons, List.not_mem_nil, or_false] at hop
  rw [vxOut, if_neg (by simp only [hd, Bool.false_eq_true, or_false]; omega), if_pos (by omega)]

/-- DST_AC stands in a slot of CVT alone. -/
theorem dstAc_of_ne {w : Nat} (hm : vxIsMem (vxOp w) = false) (h : vxEncodings w = stOK) (hop : vxOp w ≠ 0x18) :
    vxDstAc w = false := by
  by_contra hd
  exact hop ((regForm_of_encodings hm h).2.2 (by simpa using hd))

theorem vxLanes_le_64 {w : Nat} (h : vxSrcAc w = true ∨ vxOp w = 0x11) : vxLanes w ≤ 64 := by
  have hin : vxIn w = fmtW48 := by rcases h with h | h <;> simp [vxIn, h]
  have := vxLanes_le_in w
  rwa [hin] at this

/-- The lanes of the first source that the instruction works on. -/
def vxSrcs (k : Core) (w : Nat) : List Val := (srcLanes k w (vxLanes w)).take (vxLanes w)

theorem length_vxSrcs (k : Core) (w : Nat) : (vxSrcs k w).length = vxLanes w := by
  rw [vxSrcs, List.length_take, srcLanes]
  split
  · next hs => simpa using vxLanes_le_64 (.inl hs)
  · simp

theorem length_srcLanes_64 (k : Core) (w : Nat) : (srcLanes k w 64).length = 64 := by
  unfold srcLanes
  split <;> simp

/-! Lanes of an accumulator vector under the mask. -/

/-- What a masked operation leaves in the lanes of an accumulator vector. -/
def acMasked (k : Core) (w a : Nat) (res : List (Nat × Nat)) : List Nat :=
  res.zipIdx.map fun r => if laneOn k w r.2 then r.1.1 else (acLanes k a).getD r.2 0

theorem leavesCore_putAc (c w a : Nat) (res : List (Nat × Nat)) (s : State) :
    LeavesCore c (acPut (getCore c s) a (acMasked (getCore c s) w a res)) s (putAc c w a res s).1 :=
  (leavesCore_setCore c _ s).raiseFlags _

theorem getD_acMasked {k : Core} {w a j : Nat} {res : List (Nat × Nat)} (hj : j < res.length) (hn : res.length ≤ 64) :
    (acLanes (acPut k a (acMasked k w a res)) a).getD j 0 =
      if laneOn k w j then (res.getD j (0, 0)).1 % 2 ^ 48 else (acLanes k a).getD j 0 := by
  rw [getD_acPut _ _ (by simpa [acMasked] using hn) (by omega), acMasked,
    getD_zipIdx_map (fun r i => if laneOn k w i then r.1 else (acLanes k a).getD i 0) (0, 0) 0 hj, apply_ite (· % 2 ^ 48)]
  exact if_congr Iff.rfl rfl (Nat.mod_eq_of_lt (acLanes_lt k a j))

/-! ACC. -/

/-- The lanes of ACC: each addition, rounded once (R100). -/
def accResults (k : Core) (w : Nat) : List (Nat × Nat) :=
  (srcLanes k w 64).zipIdx.map fun v => vxAcc.accAddV ((acLanes k (vxAC w)).getD v.2 0) v.1

theorem vxAcc_eq (c w : Nat) (s : State) : vxAcc c w s = putAc c w (vxAC w) (accResults (getCore c s) w) s := rfl

theorem length_accResults (k : Core) (w : Nat) : (accResults k w).length = 64 := by
  rw [accResults, List.length_map, List.length_zipIdx, length_srcLanes_64]

theorem getD_accResults (k : Core) (w : Nat) {j : Nat} (hj : j < 64) : (accResults k w).getD j (0, 0) =
    vxAcc.accAddV ((acLanes k (vxAC w)).getD j 0) ((srcLanes k w 64).getD j .nan) :=
  getD_zipIdx_map (fun v i => vxAcc.accAddV ((acLanes k (vxAC w)).getD i 0) v) .nan (0, 0) (by rwa [length_srcLanes_64])

/-! Conversions. -/

/-- A conversion puts the converted lanes into VD and raises their flags (R71). -/
theorem convLanes_eq {c w fmt n : Nat} {vals : List Val} {s : State} (g : Nat → Nat) (hn : vals.length = n)
    (hg : ∀ j < n, (encVal fmt (vxRnd w) (vxSat w) (vals.getD j .nan)).1 = g j) : convLanes c w fmt vals s =
      putVd c w (laneFlags (getCore c s) w (vals.map (encVal fmt (vxRnd w) (vxSat w))))
        (packElems fmt (maskedLanes (getCore c s) w fmt n g)) s := by
  rw [convLanes, putLanes_eq (n := n) (g := g) (by simpa using hn) fun j hj => ?_]
  · rfl
  · have hj' : j < vals.length := hn ▸ hj
    rw [← hg j hj, List.getD_eq_getElem _ _ hj', List.getD_eq_getElem _ _ (by simpa using hj')]
    simp

theorem length_converted_le {w : Nat} (hout : vxOut w = vxFmtOut w) (k : Core) (g : Nat → Nat) :
    (packElems (vxFmtOut w) (maskedLanes k w (vxFmtOut w) (vxLanes w) g)).length ≤ 256 :=
  length_packElems_le (vxFmtOut_lt w) (by rw [length_maskedLanes, ← hout]; exact vxLanes_le_out w)

theorem vxAccRead_eq {w : Nat} (c : Nat) (s : State) (hop : vxOp w = 0x11) :
    ∃ fl, vxAccRead c w s = putVd c w fl (packElems (vxFmtOut w) (maskedLanes (getCore c s) w (vxFmtOut w) (vxLanes w) fun j =>
      (encVal (vxFmtOut w) (vxRnd w) (vxSat w) (decVal fmtW48 ((acLanes (getCore c s) (vxAC w)).getD j 0))).1)) s := by
  have hn := vxLanes_le_64 (.inr hop)
  refine ⟨_, convLanes_eq _ (by simpa using hn) fun j hj => ?_⟩
  simp [List.getD_eq_getElem?_getD, hj, show j < 64 by omega]

/-- The lanes of CVT before the check of T5 bytes. -/
def cvtLanes (c w : Nat) (s : State) : State × BitVec 8 :=
  if vxDstAc w then putAc c w (vxAC w) ((vxSrcs (getCore c s) w).map (encVal fmtW48 0 (vxSat w))) s
  else convLanes c w (vxFmtOut w) (vxSrcs (getCore c s) w) s

theorem vxCvt_eq (c w : Nat) (s : State) : vxCvt c w s =
    if srcT5Bad (getCore c s) w (vxLanes w) then (raiseFlags c flT5 (cvtLanes c w s).1, stCHECK) else cvtLanes c w s := rfl

/-- The core that CVT leaves: accumulators or VD hold the converted lanes (R71, R100). -/
def cvtCore (k : Core) (w : Nat) : Core :=
  if vxDstAc w then acPut k (vxAC w) (acMasked k w (vxAC w) ((vxSrcs k w).map (encVal fmtW48 0 (vxSat w))))
  else vregPut k (vxVD w) (packElems (vxFmtOut w) (maskedLanes k w (vxFmtOut w) (vxLanes w) fun j =>
    (encVal (vxFmtOut w) (vxRnd w) (vxSat w) ((vxSrcs k w).getD j .nan)).1))

theorem leavesCore_cvtLanes (c w : Nat) (s : State) :
    LeavesCore c (cvtCore (getCore c s) w) s (cvtLanes c w s).1 ∧ (cvtLanes c w s).2 = stOK := by
  unfold cvtLanes cvtCore
  split
  · exact ⟨leavesCore_putAc c w _ _ s, rfl⟩
  · rw [convLanes_eq _ (length_vxSrcs _ w) fun _ _ => rfl]
    exact ⟨leavesCore_putVd c w _ _ s, rfl⟩

theorem q_cvtCore (k : Core) (w : Nat) : (cvtCore k w).q = k.q := by
  unfold cvtCore
  split <;> rfl

/-- CVT leaves the converted lanes, and ends with CHECK_MISMATCH if a T5 byte of its source is no digit (R56). -/
theorem leavesCore_vxCvt (c w : Nat) (s : State) : LeavesCore c (cvtCore (getCore c s) w) s (vxCvt c w s).1 ∧
    (vxCvt c w s).2 = if srcT5Bad (getCore c s) w (vxLanes w) then stCHECK else stOK := by
  obtain ⟨hl, hst⟩ := leavesCore_cvtLanes c w s
  rw [vxCvt_eq]
  split
  · exact ⟨hl.raiseFlags flT5, rfl⟩
  · exact ⟨hl, hst⟩

/-! Quantisation (R79). -/

theorem length_blocks_le {α : Type} (l : List α) (b : Nat) : ∀ m : Nat,
    ((List.range m).map fun j => ((l.drop (b * j)).take b).length).sum ≤ min l.length (b * m)
  | 0 => by simp
  | m + 1 => by
    have ih := length_blocks_le l b m
    rw [List.range_succ, List.map_append, List.sum_append, List.map_singleton, List.sum_singleton, List.length_take,
      List.length_drop, Nat.mul_succ]
    omega

/-- The blocks of a quantisation: scale byte, elements and flags of each. -/
def quantBlocks (w blk : Nat) (f : List Val → Nat × List Nat × Nat) (k : Core) : List (Nat × List Nat × Nat) :=
  (List.range ((vxLanes w + blk - 1) / blk)).map fun j => f (((vxSrcs k w).drop (blk * j)).take blk)

/-- The elements that a quantisation leaves in VD, packed. -/
def quantElems (w : Nat) (k : Core) (bs : List (Nat × List Nat × Nat)) : List Byte :=
  packElems (vxFmtOut w) ((bs.flatMap fun b => b.2.1).zipIdx.map fun r =>
    if laneOn k w r.2 then r.1 else elemBits (vxFmtOut w) (vregBytes k (vxVD w)) r.2)

/-- The core that a quantisation leaves: the elements in VD, then the scale bytes in VC. -/
def quantCore (w : Nat) (k : Core) (bs : List (Nat × List Nat × Nat)) : Core :=
  vregPut (vregPut k (vxVD w) (quantElems w k bs)) (vxVC w) (bs.map fun b => BitVec.ofNat 8 b.1)

theorem leavesCore_vxQuant (c w blk : Nat) (f : List Val → Nat × List Nat × Nat) (s : State) :
    LeavesCore c (quantCore w (getCore c s) (quantBlocks w blk f (getCore c s))) s (vxQuant c w blk f s).1 :=
  (leavesCore_setCore c _ s).raiseFlags _

theorem fmtLanes_le {fmt : Nat} (h : fmt < 16) : fmtLanes fmt ≤ 1280 := by
  interval_cases fmt <;> decide

theorem length_quantElems_le {w blk : Nat} {f : List Val → Nat × List Nat × Nat} (hf : ∀ l, (f l).2.1.length = l.length)
    (hout : vxOut w = vxFmtOut w) (k : Core) : (quantElems w k (quantBlocks w blk f k)).length ≤ 256 := by
  refine length_packElems_le (vxFmtOut_lt w) ?_
  have hsum := length_blocks_le (vxSrcs k w) blk ((vxLanes w + blk - 1) / blk)
  rw [length_vxSrcs] at hsum
  rw [List.length_map, List.length_zipIdx, List.length_flatMap, quantBlocks, List.map_map]
  calc _ ≤ min (vxLanes w) _ := by simpa only [Function.comp_def, hf] using hsum
    _ ≤ vxLanes w := Nat.min_le_left _ _
    _ ≤ fmtLanes (vxFmtOut w) := hout ▸ vxLanes_le_out w

theorem length_quantBlocks_le {w blk : Nat} (hblk : 16 ≤ blk) (f : List Val → Nat × List Nat × Nat)
    (hout : vxOut w = vxFmtOut w) (k : Core) : (quantBlocks w blk f k).length ≤ 256 := by
  have hn : vxLanes w ≤ 1280 := (vxLanes_le_out w).trans (hout ▸ fmtLanes_le (vxFmtOut_lt w))
  rw [quantBlocks, List.length_map, List.length_range, Nat.div_le_iff_le_mul_add_pred (by omega)]
  omega

/-- The bytes of VC and VD after a quantisation; the scale bytes are written last. -/
theorem vregBytes_quantCore {w : Nat} {k : Core} {bs : List (Nat × List Nat × Nat)} (hes : (quantElems w k bs).length ≤ 256)
    (hbs : bs.length ≤ 256) :
    (∀ j < bs.length, (vregBytes (quantCore w k bs) (vxVC w)).getD j 0 = (bs.map fun b => BitVec.ofNat 8 b.1).getD j 0) ∧
    (∀ j < (quantElems w k bs).length, vxVC w ≠ vxVD w ∨ bs.length ≤ j →
      (vregBytes (quantCore w k bs) (vxVD w)).getD j 0 = (quantElems w k bs).getD j 0) ∧
    ∀ v, v ≠ vxVD w → v ≠ vxVC w → vregBytes (quantCore w k bs) v = vregBytes k v := by
  have hsc : (bs.map fun b => BitVec.ofNat 8 b.1).length = bs.length := List.length_map _
  refine ⟨fun j hj => ?_, fun j hj hcd => ?_, fun v hvd hvc => ?_⟩
  · rw [quantCore, getD_vregPut _ _ _ (by omega), if_pos (by omega)]
  · have helem : (vregBytes (vregPut k (vxVD w) (quantElems w k bs)) (vxVD w)).getD j 0 = (quantElems w k bs).getD j 0 := by
      rw [getD_vregPut _ _ _ (by omega), if_pos hj]
    by_cases hvc : vxVC w = vxVD w
    · rw [quantCore, hvc, getD_vregPut _ _ _ (by omega), if_neg (by have := hcd.resolve_left (not_not.2 hvc); omega), helem]
    · rw [quantCore, vregBytes_vregPut_ne (Ne.symm hvc) _ (by omega), helem]
  · rw [quantCore, vregBytes_vregPut_ne hvc _ (by omega), vregBytes_vregPut_ne hvd _ hes]

theorem length_quantMx (w : Nat) (l : List Val) : (quantMx w l).2.1.length = l.length := by
  unfold quantMx
  split <;> simp [collectFlags]

theorem length_quantG (w : Nat) (ts : Val) (l : List Val) : (quantG w ts l).2.1.length = l.length := by
  simp [quantG, collectFlags]

/-! The statement. -/

/-- What QUANT_MX32 and QUANT_G16 leave, for blocks of blk lanes that f quantises. -/
theorem vxQuant_spec {w blk : Nat} {f : List Val → Nat × List Nat × Nat} (hblk : 16 ≤ blk)
    (hf : ∀ l, (f l).2.1.length = l.length) (hout : vxOut w = vxFmtOut w) (c : Nat) (x : EngInstr) (s : State) :
    let k := getCore c s
    let bs := quantBlocks w blk f k
    let es := quantElems w k bs
    let t := engEnd c 2 x (vxQuant c w blk f s)
    EngFrame c 2 x stOK s t ∧
    (∀ j < bs.length, (vregBytes (getCore c t) (vxVC w)).getD j 0 = (bs.map fun b => BitVec.ofNat 8 b.1).getD j 0) ∧
    (∀ j < es.length, vxVC w ≠ vxVD w ∨ bs.length ≤ j →
      (vregBytes (getCore c t) (vxVD w)).getD j 0 = es.getD j 0) ∧
    ∀ v, v ≠ vxVD w → v ≠ vxVC w → vregBytes (getCore c t) v = vregBytes k v := by
  have hl := leavesCore_vxQuant c w blk f s
  have hv : ∀ v, vregBytes (getCore c (engEnd c 2 x (vxQuant c w blk f s))) v =
      vregBytes (quantCore w (getCore c s) (quantBlocks w blk f (getCore c s))) v :=
    fun v => (vregBytes_engEnd c 2 x _ v).trans (by rw [hl.core])
  dsimp only
  simp only [hv]
  exact ⟨hl.engFrame rfl, vregBytes_quantCore (length_quantElems_le hf hout _) (length_quantBlocks_le hblk f hout _)⟩

/-- ACC adds the active lanes of its source to AC, and leaves the other accumulator vectors alone. -/
theorem acLanes_vxAcc (c w : Nat) (x : EngInstr) (s : State) :
    let k := getCore c s
    let t := engEnd c 2 x (vxAcc c w s)
    (∀ j < 64, (acLanes (getCore c t) (vxAC w)).getD j 0 =
      if laneOn k w j then (roundW48 (vAdd false (decVal fmtW48 ((acLanes k (vxAC w)).getD j 0))
        ((srcLanes k w 64).getD j .nan)).1).1 % 2 ^ 48 else (acLanes k (vxAC w)).getD j 0) ∧
    ∀ a, a ≠ vxAC w → acLanes (getCore c t) a = acLanes k a := by
  have hl := leavesCore_putAc c w (vxAC w) (accResults (getCore c s) w) s
  have hac : ∀ a, acLanes (getCore c (engEnd c 2 x (vxAcc c w s))) a = acLanes (acPut (getCore c s) (vxAC w)
      (acMasked (getCore c s) w (vxAC w) (accResults (getCore c s) w))) a :=
    fun a => (acLanes_engEnd c 2 x _ a).trans (by rw [vxAcc_eq, hl.core])
  have hn := length_accResults (getCore c s) w
  refine ⟨fun j hj => ?_, fun a ha => ?_⟩
  · rw [hac, getD_acMasked (hn ▸ hj) hn.le, getD_accResults _ _ hj]
    rfl
  · rw [hac, acLanes_acPut_ne ha _ (by simp [acMasked, hn])]

/-- CVT into an accumulator vector holds each active lane in W48. -/
theorem acLanes_vxCvt {w j : Nat} (c : Nat) (x : EngInstr) (s : State) (hd : vxDstAc w = true)
    (hn : j < vxLanes w) : (acLanes (getCore c (engEnd c 2 x (vxCvt c w s))) (vxAC w)).getD j 0 =
      if laneOn (getCore c s) w j then (encVal fmtW48 0 (vxSat w) ((vxSrcs (getCore c s) w).getD j .nan)).1 % 2 ^ 48
      else (acLanes (getCore c s) (vxAC w)).getD j 0 := by
  have hcore : cvtCore (getCore c s) w = _ := if_pos hd
  have h64 : vxLanes w ≤ 64 := by
    have := vxLanes_le_out w
    rwa [show vxOut w = fmtW48 by simp [vxOut, hd]] at this
  have hlen : ((vxSrcs (getCore c s) w).map (encVal fmtW48 0 (vxSat w))).length = vxLanes w := by
    rw [List.length_map, length_vxSrcs]
  rw [acLanes_engEnd, (leavesCore_vxCvt c w s).1.core, hcore, getD_acMasked (by omega) (by omega),
    List.getD_eq_getElem _ _ (by omega), List.getElem_map, ← List.getD_eq_getElem _ .nan]

/-- Settles O22: AC and VD take the converted lanes under the mask; a quantisation writes its scale bytes last. -/
theorem vxConversions : Obligations.VxConversions := by
  unfold Obligations.VxConversions
  refine fun c => ⟨vxRuns_of (fun _ => rfl) fun x w s hop h => ?_, vxRuns_of (fun _ => rfl) fun x w s hop h => ?_,
    vxRuns_of (fun _ => rfl) fun x w s hop h => ?_, vxRuns_of (fun _ => rfl) fun x w s hop h => ?_,
    vxRuns_of (fun _ => rfl) fun x w s hop h => ?_⟩
  all_goals have hreg : vxIsMem (vxOp w) = false := by rw [hop]; rfl
  · exact ⟨(leavesCore_putAc c.val w (vxAC w) (accResults (getCore c.val s) w) s).engFrame rfl, acLanes_vxAcc c.val w x s⟩
  · obtain ⟨fl, heq⟩ := vxAccRead_eq c.val s hop
    have hout := vxOut_fmtOut (by rw [hop]; decide) (dstAc_of_ne hreg h (by rw [hop]; decide))
    dsimp only
    rw [heq]
    exact ⟨engFrame_putVd c.val w fl _ x s, vdHolds_putVd (length_converted_le hout _ _) c.val w fl x s⟩
  · obtain ⟨hl, hst⟩ := leavesCore_vxCvt c.val w s
    refine ⟨otherCores_engEnd hl.others, (mem_engEnd _ _ _ _).trans hl.mem, ?_, fun hd => ?_, fun hd j _ hn => ?_⟩
    · rw [← hst]
      exact hl.ended (q_cvtCore _ w) _
    · have hout := vxOut_fmtOut (by rw [hop]; decide) hd
      have hcore : cvtCore (getCore c.val s) w = _ := if_neg (by simp [hd])
      exact vdHolds_engEnd (congrArg Core.vreg (hl.core.trans hcore)) (length_converted_le hout _ _)
    · exact acLanes_vxCvt c.val x s hd hn
  · exact vxQuant_spec (by decide) (length_quantMx w) (vxOut_fmtOut (by rw [hop]; decide)
      (dstAc_of_ne hreg h (by rw [hop]; decide))) c.val x s
  · exact vxQuant_spec (by decide) (length_quantG w _) (vxOut_fmtOut (by rw [hop]; decide)
      (dstAc_of_ne hreg h (by rw [hop]; decide))) c.val x s

end Sys2Proof.Machine
end

section
/-! SUPPORT. The functions of R78 and the reductions of the vector engine (R71, R78, R100). -/

namespace Sys2Proof.Machine

/-! Functions. -/

/-- The bits that the package computes for lane j. -/
def funcBits (k : Core) (w j : Nat) : Nat := vxResult (vxOp w) (elemBits 0 (vregBytes k (vxVA w)) j)

/-- Where the manual gives an exact result, the value is 0 with it, or lies within the error bound, or is the exact result
rounded (R78, log entry 11). -/
theorem vxResult_exact {op x n d : Nat} {neg : Bool} (h : vxExact op x = .fin neg n d) :
    (n = 0 → (decVal 0 (vxResult op x)).isZero = true) ∧
    (n ≠ 0 → withinUlps (vxUlps op) (decVal 0 (vxResult op x)) (.fin neg n d) = true ∨
      vxResult op x = (encVal 0 0 false (.fin neg n d)).1) := by
  unfold vxResult
  simp only [h]
  constructor
  · intro hn
    rw [if_pos hn]
    split
    · assumption
    · decide +kernel
  · intro hn
    rw [if_neg hn]
    split
    · next hu => exact .inl hu
    · exact .inr rfl

/-- The lane results of a function with their flags: any NaN as the canonical one, with NV (R71). -/
def funcLane (k : Core) (w j : Nat) : Nat × Nat :=
  if (decVal 0 (funcBits k w j)).isNan then (0x7FC00000, flNV) else (funcBits k w j, 0)

theorem vxFunc_eq (c w : Nat) (s : State) : vxFunc c w s =
    putVd c w (laneFlags (getCore c s) w ((List.range (vxLanes w)).map (funcLane (getCore c s) w)))
      (packElems 0 (maskedLanes (getCore c s) w 0 (vxLanes w) fun j => (funcLane (getCore c s) w j).1)) s := by
  have hput := putLanes_eq (k := getCore c s) (w := w) (fmt := 0) (n := vxLanes w)
    (g := fun j => (funcLane (getCore c s) w j).1)
    (res := ((List.range (vxLanes w)).map (funcLane (getCore c s) w)).map Prod.fst) (by simp)
    fun j hj => by rw [List.map_map]; exact getD_range_map _ _ hj
  rw [putVd, ← hput]
  rfl

/-- A function of R78 works in F32 alone. -/
theorem funcFmt_of_encodings {w : Nat} (h1 : 0x20 ≤ vxOp w) (h2 : vxOp w ≤ 0x25) (h : vxEncodings w = stOK) :
    vxLanes w ≤ fmtLanes 0 := by
  have hm : vxIsMem (vxOp w) = false := by simp [vxIsMem]; omega
  obtain ⟨hf, -, -⟩ := regForm_of_encodings hm h
  have hd := dstAc_of_ne hm h (by omega)
  have hfmt : vxFmt w = 0 := by
    rw [vxFmtOk, if_neg (by omega), if_neg (by omega), if_neg (by omega), if_neg (by omega), if_neg (by omega),
      if_pos ⟨h1, h2⟩] at hf
    exact beq_iff_eq.1 hf
  have hout : vxOut w = vxFmt w := by
    rw [vxOut, if_neg (by simp only [hd, Bool.false_eq_true, or_false]; omega), if_neg (by omega)]
  rw [← hfmt, ← hout]
  exact vxLanes_le_out w

theorem vxFunction_vxFunc {w : Nat} (c : Nat) (x : EngInstr) (s : State) (h1 : 0x20 ≤ vxOp w) (h2 : vxOp w ≤ 0x25)
    (h : vxEncodings w = stOK) : VxFunction c x w s (engEnd c 2 x (vxFunc c w s)) := by
  have hlanes : (fun j => (funcLane (getCore c s) w j).1) = fun j =>
      if (decVal 0 (funcBits (getCore c s) w j)).isNan then 0x7FC00000 else funcBits (getCore c s) w j := by
    funext j
    rw [funcLane]
    split <;> rfl
  rw [vxFunc_eq]
  refine ⟨fun j neg n d hx => vxResult_exact hx, engFrame_putVd c w _ _ x s, flagsRise_putVd (by simp) (fun j hj => ?_) _ x, ?_⟩
  · rw [getD_range_map _ _ hj, funcLane, apply_ite Prod.snd]
    rfl
  · rw [hlanes]
    exact vdHolds_putVd (length_packElems_le (by decide) (by
      rw [length_maskedLanes]; exact funcFmt_of_encodings h1 h2 h)) c w _ x s

theorem vxRuns_function {c : Fin 256} {i : Instr} {op : Nat} (h1 : 0x20 ≤ op) (h2 : op ≤ 0x25)
    (hi : ∀ s, exec i s = vxRow c op vxFunc s) : VxRuns c.val i op (VxFunction c.val) :=
  vxRuns_of hi fun x _ s hop => vxFunction_vxFunc c.val x s (hop ▸ h1) (hop ▸ h2)

/-! Reductions. -/

theorem putLane0_eq (c w fl : Nat) (v : Val) (s : State) : putLane0 c w fl v s =
    putVd c w (orFlags fl (encVal (vxFmtOut w) (vxRnd w) (vxSat w) v).2)
      (packElems (vxFmtOut w) [(encVal (vxFmtOut w) (vxRnd w) (vxSat w) v).1]) s := rfl

theorem one_le_fmtLanes {fmt : Nat} (h : fmt < 16) : 1 ≤ fmtLanes fmt := by
  interval_cases fmt <;> decide

/-- A reduction puts its converted result into lane 0 of VD (R100). -/
theorem putLane0_spec (c w fl : Nat) (v : Val) (x : EngInstr) (s : State) :
    EngFrame c 2 x stOK s (engEnd c 2 x (putLane0 c w fl v s)) ∧
    VdHolds c w (packElems (vxFmtOut w) [(encVal (vxFmtOut w) (vxRnd w) (vxSat w) v).1]) s
      (engEnd c 2 x (putLane0 c w fl v s)) := by
  rw [putLane0_eq]
  exact ⟨engFrame_putVd c w _ _ x s,
    vdHolds_putVd (length_packElems_le (l := [_]) (vxFmtOut_lt w) (one_le_fmtLanes (vxFmtOut_lt w))) c w _ x s⟩

/-- Settles O23: each function puts the package's value into its lanes, each reduction its result into lane 0. -/
theorem vxFunctionsAndReductions : Obligations.VxFunctionsAndReductions := by
  unfold Obligations.VxFunctionsAndReductions
  exact fun c => ⟨vxRuns_function (by decide) (by decide) fun _ => rfl, vxRuns_function (by decide) (by decide) fun _ => rfl,
    vxRuns_function (by decide) (by decide) fun _ => rfl, vxRuns_function (by decide) (by decide) fun _ => rfl,
    vxRuns_function (by decide) (by decide) fun _ => rfl, vxRuns_function (by decide) (by decide) fun _ => rfl,
    vxRuns_of (fun _ => rfl) fun x w s _ _ => putLane0_spec c.val w _ _ x s,
    vxRuns_of (fun _ => rfl) fun x w s _ _ => putLane0_spec c.val w _ _ x s⟩

end Sys2Proof.Machine
end

section
/-! SUPPORT. What engines read and write in memory (R129, R131, R155): reads without error marks, and writes of one range after
another, each of which may overwrite what the ones before it wrote. -/

namespace Sys2Proof.Machine

/-! Reads. -/

theorem marksIn_of_ecc {s t : State} (h : t.ecc = s.ecc) (a n : Nat) : marksIn a n t = marksIn a n s := by
  rw [marksIn, marksIn, h]

/-- A read of a range without marked units. -/
theorem readAll_of_clean {a n : Nat} {s : State} (h : marksIn a n s = []) : readAll a n s = (noteAccess false a n s, false) := by
  rw [readAll, h, noteMarks_nil, List.any_nil]

/-- Reads of ranges without marked units meet no uncorrectable unit, and leave the marks. -/
theorem readRanges_of_clean : ∀ (l : List (Nat × Nat)) (s : State), (∀ r ∈ l, marksIn r.1 r.2 s = []) →
    (readRanges l s).2 = false ∧ (readRanges l s).1.ecc = s.ecc := by
  have main : ∀ (l : List (Nat × Nat)) (t : State), (∀ r ∈ l, marksIn r.1 r.2 t = []) →
      let u := l.foldl (fun (a : State × Bool) r => ((readAll r.1 r.2 a.1).1, a.2 || (readAll r.1 r.2 a.1).2)) (t, false)
      u.2 = false ∧ u.1.ecc = t.ecc := by
    intro l
    induction l with
    | nil => exact fun t _ => ⟨rfl, rfl⟩
    | cons r l ih =>
      intro t h
      have hecc := ecc_noteAccess false r.1 r.2 t
      have hr := readAll_of_clean (h r (.head _))
      have hl := ih (noteAccess false r.1 r.2 t) fun y hy => (marksIn_of_ecc hecc _ _).trans (h y (.tail _ hy))
      simp only [List.foldl_cons, hr, Bool.or_false]
      exact ⟨hl.1, hl.2.trans hecc⟩
  exact main

theorem Quiet.readRanges {β : Type} {φ : State → β} (q : Quiet φ) (l : List (Nat × Nat)) (s : State) :
    φ (readRanges l s).1 = φ s := by
  have main : ∀ (l : List (Nat × Nat)) (a : State × Bool),
      φ (l.foldl (fun (a : State × Bool) r => ((Machine.readAll r.1 r.2 a.1).1, a.2 || (Machine.readAll r.1 r.2 a.1).2)) a).1 = φ a.1 := by
    intro l
    induction l with
    | nil => exact fun _ => rfl
    | cons r l ih => exact fun a => (ih _).trans (q.readAll r.1 r.2 a.1)
  exact main l (s, false)

/-! A write into a range without marked units. -/

theorem ecc_raiseMsix (f v : Nat) (s : State) : (raiseMsix f v s).ecc = s.ecc := by
  have hfired : (noteFired f v s).ecc = s.ecc := by
    unfold noteFired
    split <;> rfl
  unfold raiseMsix
  dsimp only
  split
  · exact hfired
  · split
    · exact hfired
    · split <;> exact hfired

theorem ecc_raiseVec (f v : Nat) (s : State) : (raiseVec f v s).ecc = s.ecc := by
  unfold raiseVec
  split
  · exact ecc_raiseMsix f v s
  · exact faddSat_ecc _ _ _ s

theorem ecc_syncArm (a : Nat) (s : State) : (syncArm a s).ecc = s.ecc := by
  have hfire : ∀ u : State, (fireSync a u).ecc = u.ecc := fun u => ecc_raiseVec _ _ _
  unfold syncArm
  dsimp only
  split
  · split
    · exact hfire _
    · rfl
  · rfl

/-- A write into a range without marked units leaves the marks. -/
theorem ecc_memStore {a n : Nat} {s : State} (h : marksIn a n s = []) (sl : Tbl Byte) : (memStore a n sl s).ecc = s.ecc := by
  have hput : (memPut a n sl s).ecc = s.ecc := by
    unfold memPut
    split
    · rfl
    · rw [h, forAll, List.foldl_nil, memSet_ecc, ecc_noteAccess]
  unfold memStore
  dsimp only
  rw [forAll_view State.ecc syncArm ecc_syncArm, disarmIn, hput]

/-- A state has the cores, the error marks and the Cabinet of another, and its memory is in canonical form: what a write into
memory keeps. -/
structure MemFrame (s t : State) : Prop where
  cores : t.cores = s.cores
  ecc   : t.ecc = s.ecc
  cab   : t.cab = s.cab
  wf    : Memory.wf t.mem = true

theorem MemFrame.refl {s : State} (h : Memory.wf s.mem = true) : MemFrame s s := ⟨rfl, rfl, rfl, h⟩

theorem MemFrame.trans {s t u : State} (h : MemFrame s t) (k : MemFrame t u) : MemFrame s u :=
  ⟨k.cores.trans h.cores, k.ecc.trans h.ecc, k.cab.trans h.cab, k.wf⟩

theorem memFrame_memStore {a n : Nat} {s : State} (hw : Memory.wf s.mem = true) (h : marksIn a n s = []) (sl : Tbl Byte) :
    MemFrame s (memStore a n sl s) :=
  ⟨memStore_view quiet_cores (fun _ _ => rfl) (fun _ _ => rfl) a n sl s, ecc_memStore h sl,
    memStore_view quiet_cab (fun _ _ => rfl) (fun _ _ => rfl) a n sl s, (memStore_kept a n sl s (.refl s)).mem hw⟩

/-- The bytes of memory after a write into a range without marked units. -/
theorem memGet_memStore_of_clean {a n : Nat} {s : State} {sl : Tbl Byte} (hw : Memory.wf s.mem = true) (h : marksIn a n s = [])
    (hs : Rising 0 sl) (x : Nat) : memGet x (memStore a n sl s) =
      if a ≤ x ∧ x < a + n then tget (fun _ => 0) sl (x - a) else memGet x s := by
  split
  · next hx => rw [memGet_memStore_clean h (by omega), memGet_memSet_inside hx.1 hx.2 hs]
  · exact memGet_memStore_outside hw (by omega) sl

theorem ownWriteRefused_of_cab {s t : State} (h : t.cab = s.cab) (c a n : Nat) :
    ownWriteRefused c a n t = ownWriteRefused c a n s := by
  simp only [ownWriteRefused, shelfRefuses, h]

/-! One write after another. -/

/-- From every state of the frame of s, f writes n bytes at a, byte x of memory with v x, and stays in the frame. -/
def Writes (s : State) (a n : Nat) (v : Nat → Byte) (f : State → State) : Prop :=
  ∀ u, MemFrame s u → MemFrame s (f u) ∧ ∀ x, memGet x (f u) = if a ≤ x ∧ x < a + n then v x else memGet x u

theorem writes_memStore {a n : Nat} {s : State} (h : marksIn a n s = []) {sl : Tbl Byte} (hs : Rising 0 sl) :
    Writes s a n (fun x => tget (fun _ => 0) sl (x - a)) (memStore a n sl) := by
  intro u hu
  have hclean : marksIn a n u = [] := (marksIn_of_ecc hu.ecc a n).trans h
  exact ⟨hu.trans (memFrame_memStore hu.wf hclean sl), memGet_memStore_of_clean hu.wf hclean hs⟩

theorem writes_memWrite {a : Nat} {l : List Byte} {s : State} (h : marksIn a l.length s = []) :
    Writes s a l.length (fun x => l.getD (x - a) 0) (memWrite a l) := by
  intro u hu
  obtain ⟨hf, hb⟩ := writes_memStore h (rising_sparse l 0) u hu
  refine ⟨hf, fun x => (hb x).trans (if_congr Iff.rfl ?_ rfl)⟩
  have hget := tget_sparse l 0 (x - a)
  rwa [Nat.zero_add] at hget

section
variable {α : Type} {s : State} {a n : α → Nat} {v : α → Nat → Byte} {f : α → State → State}

theorem memFrame_forAll {l : List α} (h : ∀ i ∈ l, Writes s (a i) (n i) (v i) (f i)) {u : State} (hu : MemFrame s u) :
    MemFrame s (forAll l f u) := forAll_keeps_mem (MemFrame s) f l u (fun i hi t ht => (h i hi t ht).1) hu

/-- A byte in the range of none of the writes is as before. -/
theorem memGet_forAll_outside {l : List α} (h : ∀ i ∈ l, Writes s (a i) (n i) (v i) (f i)) {u : State} (hu : MemFrame s u) {x : Nat}
    (hx : ∀ i ∈ l, x < a i ∨ a i + n i ≤ x) : memGet x (forAll l f u) = memGet x u := by
  refine (forAll_keeps_mem (fun t => MemFrame s t ∧ memGet x t = memGet x u) f l u (fun i hi t ht => ?_) ⟨hu, rfl⟩).2
  obtain ⟨hf, hb⟩ := h i hi t ht.1
  exact ⟨hf, by rw [hb, if_neg (by have := hx i hi; omega), ht.2]⟩

/-- A byte in the range of some write has the value on which all the writes that reach it agree. -/
theorem memGet_forAll_inside {x : Nat} {b : Byte} : ∀ {l : List α} {u : State},
    (∀ i ∈ l, Writes s (a i) (n i) (v i) (f i)) → MemFrame s u → (∀ i ∈ l, a i ≤ x → x < a i + n i → v i x = b) →
    (∃ i ∈ l, a i ≤ x ∧ x < a i + n i) → memGet x (forAll l f u) = b
  | [], _, _, _, _, ⟨_, hi, _⟩ => nomatch hi
  | j :: l, u, h, hu, hv, ⟨i, hi, hx⟩ => by
    obtain ⟨hf, hb⟩ := h j (.head _) u hu
    have hl : ∀ i ∈ l, Writes s (a i) (n i) (v i) (f i) := fun i hi => h i (.tail _ hi)
    rw [forAll_cons]
    by_cases hin : ∃ i ∈ l, a i ≤ x ∧ x < a i + n i
    · exact memGet_forAll_inside hl hf (fun i hi => hv i (.tail _ hi)) hin
    · rw [memGet_forAll_outside hl hf fun i hi => by by_contra hc; exact hin ⟨i, hi, by omega⟩]
      have hij : i = j := (List.mem_cons.1 hi).resolve_right fun hi => hin ⟨i, hi, hx⟩
      rw [hb, if_pos (hij ▸ hx), hv j (.head _) (hij ▸ hx.1) (hij ▸ hx.2)]

end

/-- Writes by an engine into ranges without marked units and outside the sink windows of other peers all take place. -/
theorem engWrites_of_clean {c : Nat} {s : State} : ∀ {l : List (Nat × List Byte)} {u : State}, MemFrame s u →
    (∀ r ∈ l, marksIn r.1 r.2.length s = [] ∧ ownWriteRefused c r.1 r.2.length s = false) →
    engWrites c l u = (forAll l (fun r => memWrite r.1 r.2) u, stOK)
  | [], _, _, _ => rfl
  | r :: l, u, hu, h => by
    obtain ⟨hclean, hown⟩ := h r (.head _)
    have hr : engWrite c r.1 r.2 u = (memWrite r.1 r.2 u, stOK) := by
      rw [engWrite, ownWriteRefused_of_cab hu.cab, hown, if_neg (by decide)]
    have ih := engWrites_of_clean (writes_memWrite hclean u hu).1 fun y hy => h y (.tail _ hy)
    rw [engWrites] at ih ⊢
    rw [List.foldl_cons, hr]
    exact ih

end Sys2Proof.Machine
end

section
/-! SUPPORT. The memory form of the vector engine (R77, R100, R129, R155): loads, gathers and accumulations read memory into the
core, stores and scatters write it. -/

namespace Sys2Proof.Machine

/-! Instructions that read memory. -/

/-- Core c has become k, and neither another core nor the memory has changed. -/
structure HasCore (c : Nat) (k : Core) (s t : State) : Prop where
  core   : getCore c t = k
  others : OtherCores c s t
  mem    : t.mem = s.mem

theorem hasCore_modCore_read (c : Nat) (g : Core → Core) (l : List (Nat × Nat)) (s : State) :
    HasCore c (g (getCore c s)) s (modCore c g (readRanges l s).1) := by
  refine ⟨?_, fun d hd => ?_, quiet_mem.readRanges l s⟩
  · rw [getCore_modCore_same, (quiet_getCore c).readRanges]
  · rw [getCore_modCore_ne hd, (quiet_getCore d).readRanges]

theorem HasCore.raiseFlags {c : Nat} {k : Core} {s t : State} (h : HasCore c k s t) (fl : Nat) :
    HasCore c k s (raiseFlags c fl t) :=
  ⟨((quiet_getCore c).raiseFlags c fl t).trans h.core, fun d hd => ((quiet_getCore d).raiseFlags c fl t).trans (h.others d hd),
    (quiet_mem.raiseFlags c fl t).trans h.mem⟩

/-- The end of an instruction that reads ranges without marked units. -/
theorem HasCore.endsOK {c e : Nat} {k : Core} {x : EngInstr} {s t : State} (h : HasCore c k s t) (hq : k.q = (getCore c s).q)
    {st : BitVec 8} (hst : st = stOK) :
    Ended c e x stOK s (engEnd c e x (t, st)) ∧ OtherCores c s (engEnd c e x (t, st)) ∧ (engEnd c e x (t, st)).mem = s.mem := by
  subst hst
  exact ⟨ended_engEnd (r := (t, stOK)) (by rw [h.core, hq]), otherCores_engEnd h.others, (mem_engEnd c e x _).trans h.mem⟩

theorem failIf_readRanges {l : List (Nat × Nat)} {s : State} (h : ∀ r ∈ l, marksIn r.1 r.2 s = []) (st : BitVec 8) :
    failIf (readRanges l s).2 st = stOK := by
  rw [(readRanges_of_clean l s h).1]
  rfl

theorem clean_singleton {a n : Nat} {s : State} (h : marksIn a n s = []) : ∀ r ∈ [(a, n)], marksIn r.1 r.2 s = [] := by
  simpa using h

@[simp] theorem length_memBytes (a n : Nat) (s : State) : (memBytes a n s).length = n := by simp [memBytes]

theorem getD_memBytes (a : Nat) {n j : Nat} (h : j < n) (s : State) : (memBytes a n s).getD j 0 = memGet (a + j) s :=
  getD_range_map _ _ h

theorem bytesAt_memBytes {a n i m : Nat} (h : i + m ≤ n) (s : State) : bytesAt (memBytes a n s) i m = memBytes (a + i) m s := by
  refine List.map_congr_left fun j hj => ?_
  have hj' := List.mem_range.1 hj
  rw [getD_memBytes a (by omega), Nat.add_assoc]

/-! LOAD. -/

theorem vxLoad_spec {c w : Nat} {x : EngInstr} {s : State} (h : marksIn (vxAddr w) 256 s = []) :
    let t := engEnd c 2 x (vxLoadOp c w s)
    Ended c 2 x stOK s t ∧ OtherCores c s t ∧ t.mem = s.mem ∧ VdHolds c w (memBytes (vxAddr w) 256 s) s t := by
  have hc := hasCore_modCore_read c (fun k => vregPut k (vxVD w) (memBytes (vxAddr w) 256 s)) [(vxAddr w, 256)] s
  obtain ⟨hend, hothers, hmem⟩ := hc.endsOK (e := 2) (x := x) rfl (failIf_readRanges (clean_singleton h) stCHECK)
  exact ⟨hend, hothers, hmem, vdHolds_engEnd (congrArg Core.vreg hc.core) (length_memBytes _ _ _).le⟩

/-! GATHER. -/

theorem gatherBytes_le (w : Nat) : gatherBytes w ≤ 4 :=
  Nat.pow_le_pow_right (by decide) (Nat.le_of_lt_succ (Config.gatherElem (setBits w 55 51 0)).isLt)

/-- The bytes of one element of a GATHER; those of an element outside the own core store are free (log entry 12). -/
def gatherElemBytes (c w i : Nat) (s : State) : List Byte :=
  if gatherOk c (getCore c s) w (gatherBytes w) i then memBytes (gatherAddr (getCore c s) w i) (gatherBytes w) s
  else bytesAt (Config.freeBytes (s.freeCtr + i) (gatherBytes w)) 0 (gatherBytes w)

theorem length_gatherElemBytes (c w i : Nat) (s : State) : (gatherElemBytes c w i s).length = gatherBytes w := by
  unfold gatherElemBytes
  split <;> simp

/-- The ranges that a GATHER reads. -/
def gatherRanges (c w : Nat) (k : Core) : List (Nat × Nat) :=
  ((List.range 16).filter (gatherOk c k w (gatherBytes w))).map fun i => (gatherAddr k w i, gatherBytes w)

/-- The bytes that a GATHER puts into VD. -/
def gathered (c w : Nat) (s : State) : List Byte := (List.range 16).flatMap fun i => gatherElemBytes c w i s

theorem vxGather_eq (c w : Nat) (s : State) : vxGather c w s =
    ({ modCore c (fun k => vregPut k (vxVD w) (gathered c w s)) (readRanges (gatherRanges c w (getCore c s)) s).1 with
      freeCtr := s.freeCtr + 16 }, failIf (readRanges (gatherRanges c w (getCore c s)) s).2 stCHECK) := rfl

theorem length_gathered (c w : Nat) (s : State) : (gathered c w s).length = gatherBytes w * 16 := by
  rw [gathered, length_flatMap_const _ fun i _ => length_gatherElemBytes c w i s, List.length_range]

theorem getD_gathered {c w i j : Nat} {s : State} (hi : i < 16) (hj : j < gatherBytes w)
    (hok : gatherOk c (getCore c s) w (gatherBytes w) i = true) :
    (gathered c w s).getD (gatherBytes w * i + j) 0 = memGet (gatherAddr (getCore c s) w i + j) s := by
  rw [gathered, getD_flatMap_const _ _ _ i j hj fun i _ => length_gatherElemBytes c w i s, List.getElem?_range hi,
    Option.elim_some, gatherElemBytes, if_pos hok, getD_memBytes _ hj]

theorem HasCore.freeCtr {c : Nat} {k : Core} {s t : State} (h : HasCore c k s t) (n : Nat) :
    HasCore c k s { t with freeCtr := n } := ⟨h.core, h.others, h.mem⟩

theorem vxGather_spec {c w : Nat} {x : EngInstr} {s : State} (h : ∀ i < 16, gatherOk c (getCore c s) w (gatherBytes w) i = true →
      marksIn (gatherAddr (getCore c s) w i) (gatherBytes w) s = []) :
    let t := engEnd c 2 x (vxGather c w s)
    Ended c 2 x stOK s t ∧ OtherCores c s t ∧ t.mem = s.mem ∧
    ∀ i < 16, gatherOk c (getCore c s) w (gatherBytes w) i = true → ∀ j < gatherBytes w,
      (vregBytes (getCore c t) (vxVD w)).getD (i * gatherBytes w + j) 0 = memGet (gatherAddr (getCore c s) w i + j) s := by
  have hclean : ∀ r ∈ gatherRanges c w (getCore c s), marksIn r.1 r.2 s = [] := by
    intro r hr
    obtain ⟨i, hi, rfl⟩ := List.mem_map.1 hr
    obtain ⟨hlt, hok⟩ := List.mem_filter.1 hi
    exact h i (List.mem_range.1 hlt) hok
  have hc := (hasCore_modCore_read c (fun k => vregPut k (vxVD w) (gathered c w s)) (gatherRanges c w (getCore c s)) s).freeCtr
    (s.freeCtr + 16)
  obtain ⟨hend, hothers, hmem⟩ := hc.endsOK (e := 2) (x := x) rfl (failIf_readRanges hclean stCHECK)
  have hlen := length_gathered c w s
  have hle := gatherBytes_le w
  dsimp only
  rw [vxGather_eq]
  refine ⟨hend, hothers, hmem, fun i hi hok j hj => ?_⟩
  have hin : gatherBytes w * i + j < gatherBytes w * 16 := by
    calc _ < gatherBytes w * i + gatherBytes w := by omega
      _ = gatherBytes w * (i + 1) := by rw [Nat.mul_succ]
      _ ≤ gatherBytes w * 16 := Nat.mul_le_mul_left _ hi
  have hvd := vdHolds_engEnd (e := 2) (x := x) (r := (_, failIf (readRanges (gatherRanges c w (getCore c s)) s).2 stCHECK))
    (congrArg Core.vreg hc.core) (hlen.trans_le (by omega))
  rw [Nat.mul_comm, hvd.1 _ (by omega), if_pos (by omega), getD_gathered hi hj hok]

/-! ACLOAD and ACADD. -/

theorem getD_w48List (l : List Byte) {j : Nat} (hj : j < 64) : (w48List l).getD j 0 = leNat (bytesAt l (6 * j) 6) :=
  getD_range_map _ _ hj

@[simp] theorem length_w48List (l : List Byte) : (w48List l).length = 64 := by simp [w48List]

theorem getD_w48List_memBytes (a : Nat) {j : Nat} (hj : j < 64) (s : State) :
    (w48List (memBytes a 384 s)).getD j 0 = leNat (memBytes (a + 6 * j) 6 s) := by
  rw [getD_w48List _ hj, bytesAt_memBytes (by omega)]

theorem vxAcload_spec {c w : Nat} {x : EngInstr} {s : State} (h : marksIn (vxAddr w) 384 s = []) :
    let t := engEnd c 2 x (vxAcload c w s)
    Ended c 2 x stOK s t ∧ OtherCores c s t ∧ t.mem = s.mem ∧
    (∀ j < 64, (acLanes (getCore c t) (vxMemAC w)).getD j 0 = leNat (memBytes (vxAddr w + 6 * j) 6 s)) ∧
    ∀ a, a ≠ vxMemAC w → acLanes (getCore c t) a = acLanes (getCore c s) a := by
  have hc : HasCore c _ s (vxAcload c w s).1 := hasCore_modCore_read c
    (fun k => acPut k (vxMemAC w) (w48List (memBytes (vxAddr w) 384 s))) [(vxAddr w, 384)] s
  obtain ⟨hend, hothers, hmem⟩ := hc.endsOK (e := 2) (x := x) rfl (failIf_readRanges (clean_singleton h) stCHECK)
  refine ⟨hend, hothers, hmem, fun j hj => ?_, fun a ha => ?_⟩
  · have hlt := leNat_lt (memBytes (vxAddr w + 6 * j) 6 s)
    rw [length_memBytes] at hlt
    rw [acLanes_engEnd, hc.core, getD_acPut _ _ (length_w48List _).le hj, getD_w48List_memBytes _ hj]
    exact Nat.mod_eq_of_lt hlt
  · rw [acLanes_engEnd, hc.core, acLanes_acPut_ne ha _ (length_w48List _).le]

/-- The lanes of ACADD: each addition, rounded once (R100). -/
def acaddResults (c w : Nat) (s : State) : List (Nat × Nat) := (w48List (memBytes (vxAddr w) 384 s)).zipIdx.map fun v =>
  vxAcc.accAddV ((acLanes (getCore c s) (vxMemAC w)).getD v.2 0) (decVal fmtW48 v.1)

theorem length_acaddResults (c w : Nat) (s : State) : (acaddResults c w s).length = 64 := by simp [acaddResults]

theorem getD_acaddResults (c w : Nat) {j : Nat} (hj : j < 64) (s : State) : ((acaddResults c w s).map Prod.fst).getD j 0 =
    (roundW48 (vAdd false (decVal fmtW48 ((acLanes (getCore c s) (vxMemAC w)).getD j 0))
      (decVal fmtW48 (leNat (memBytes (vxAddr w + 6 * j) 6 s)))).1).1 := by
  rw [acaddResults, List.map_map, ← getD_w48List_memBytes _ hj]
  exact getD_zipIdx_map (fun v i => (vxAcc.accAddV ((acLanes (getCore c s) (vxMemAC w)).getD i 0) (decVal fmtW48 v)).1) 0 0
    (by simpa using hj)

theorem vxAcadd_spec {c w : Nat} {x : EngInstr} {s : State} (h : marksIn (vxAddr w) 384 s = []) :
    let t := engEnd c 2 x (vxAcadd c w s)
    Ended c 2 x stOK s t ∧ OtherCores c s t ∧ t.mem = s.mem ∧
    (∀ j < 64, (acLanes (getCore c t) (vxMemAC w)).getD j 0 =
      (roundW48 (vAdd false (decVal fmtW48 ((acLanes (getCore c s) (vxMemAC w)).getD j 0))
        (decVal fmtW48 (leNat (memBytes (vxAddr w + 6 * j) 6 s)))).1).1 % 2 ^ 48) ∧
    ∀ a, a ≠ vxMemAC w → acLanes (getCore c t) a = acLanes (getCore c s) a := by
  have hc : HasCore c _ s (vxAcadd c w s).1 := (hasCore_modCore_read c
    (fun k => acPut k (vxMemAC w) ((acaddResults c w s).map Prod.fst)) [(vxAddr w, 384)] s).raiseFlags _
  obtain ⟨hend, hothers, hmem⟩ := hc.endsOK (e := 2) (x := x) rfl (failIf_readRanges (clean_singleton h) stCHECK)
  have hlen : ((acaddResults c w s).map Prod.fst).length ≤ 64 := by rw [List.length_map, length_acaddResults]
  refine ⟨hend, hothers, hmem, fun j hj => ?_, fun a ha => ?_⟩
  · rw [acLanes_engEnd, hc.core, getD_acPut _ _ hlen hj, getD_acaddResults c w hj]
  · rw [acLanes_engEnd, hc.core, acLanes_acPut_ne ha _ hlen]

/-! STORE and ACSTORE. -/

theorem engWrite_refused {c a : Nat} {l : List Byte} {s : State} (h : ownWriteRefused c a l.length s = true) :
    engWrite c a l s = (s, stDENIED) := if_pos h

theorem engWrite_allowed {c a : Nat} {l : List Byte} {s : State} (h : ownWriteRefused c a l.length s = false) :
    engWrite c a l s = (memWrite a l s, stOK) := if_neg (by simp [h])

theorem cores_engWrite (c a : Nat) (l : List Byte) (s : State) : (engWrite c a l s).1.cores = s.cores := by
  unfold engWrite
  split
  · rfl
  · exact memStore_view quiet_cores (fun _ _ => rfl) (fun _ _ => rfl) _ _ _ s

/-- A write by an engine ends with DENIED at a sink window of another peer; else its bytes stand in memory (R155). -/
theorem engWrite_spec {c e a : Nat} {l : List Byte} {x : EngInstr} {s : State} (hw : Memory.wf s.mem = true)
    (hc : marksIn a l.length s = []) :
    let t := engEnd c e x (engWrite c a l s)
    (ownWriteRefused c a l.length s = true → Ended c e x stDENIED s t ∧ t.mem = s.mem) ∧
    (ownWriteRefused c a l.length s = false → Ended c e x stOK s t ∧ MemOutside a l.length s t ∧
      ∀ j < l.length, memGet (a + j) t = l.getD j 0) := by
  have hend : Ended c e x (engWrite c a l s).2 s (engEnd c e x (engWrite c a l s)) :=
    ended_engEnd (by rw [getCore_of_cores (cores_engWrite c a l s)])
  refine ⟨fun hr => ?_, fun hr => ?_⟩
  · rw [engWrite_refused hr] at hend ⊢
    exact ⟨hend, mem_engEnd c e x _⟩
  · rw [engWrite_allowed hr] at hend ⊢
    refine ⟨hend, fun y hy => ?_, fun j hj => ?_⟩
    · rw [memGet_engEnd, memGet_memWrite_outside hw hy]
    · rw [memGet_engEnd, memGet_memWrite_inside hc (by omega) (by omega), Nat.add_sub_cancel_left]

/-- The bytes that ACSTORE writes. -/
def acBytes (k : Core) (a : Nat) : List Byte := (acLanes k a).flatMap (leBytes 6)

theorem length_acBytes (k : Core) (a : Nat) : (acBytes k a).length = 384 := by
  rw [acBytes, length_flatMap_const _ fun _ _ => length_leBytes _ _, length_acLanes]

/-- Memory that holds the bytes of ACSTORE holds the lanes of AC. -/
theorem leNat_of_acBytes {k : Core} {ac a j : Nat} {t : State} (h : ∀ i < 384, memGet (a + i) t = (acBytes k ac).getD i 0)
    (hj : j < 64) : leNat (memBytes (a + 6 * j) 6 t) = (acLanes k ac).getD j 0 := by
  have hb : memBytes (a + 6 * j) 6 t = leBytes 6 ((acLanes k ac).getD j 0) := by
    rw [← bytesAt_flatMap (leBytes 6) 0 (fun _ _ => length_leBytes _ _) (by simpa using hj)]
    refine List.map_congr_left fun i hi => ?_
    have := List.mem_range.1 hi
    rw [Nat.add_assoc, h _ (by omega)]
    rfl
  rw [hb, leNat_leBytes]
  exact Nat.mod_eq_of_lt (acLanes_lt k ac j)

/-! SCATTER. -/

theorem forAll_append {α : Type} (l m : List α) (f : α → State → State) (s : State) :
    forAll (l ++ m) f s = forAll m f (forAll l f s) := List.foldl_append

/-- Element i of a SCATTER is written. -/
def scatterWrite (k : Core) (w i : Nat) : State → State :=
  memWrite (gatherAddr k w i) (bytesAt (vregBytes k (vxVD w)) (i * gatherBytes w) (gatherBytes w))

/-- The elements of a SCATTER that lie in the own core store, in order. -/
def scatterElems (c w : Nat) (k : Core) : List Nat := (List.range 16).filter (gatherOk c k w (gatherBytes w))

theorem mem_scatterElems {c w i : Nat} {k : Core} :
    i ∈ scatterElems c w k ↔ i < 16 ∧ gatherOk c k w (gatherBytes w) i = true := by
  rw [scatterElems, List.mem_filter, List.mem_range]

section
variable {c w : Nat} {s : State} (hw : Memory.wf s.mem = true)
  (h : ∀ i < 16, gatherOk c (getCore c s) w (gatherBytes w) i = true →
    marksIn (gatherAddr (getCore c s) w i) (gatherBytes w) s = [] ∧
    ownWriteRefused c (gatherAddr (getCore c s) w i) (gatherBytes w) s = false)
include h

theorem writes_scatterWrite : ∀ i ∈ scatterElems c w (getCore c s), Writes s (gatherAddr (getCore c s) w i) (gatherBytes w)
    (fun y => (bytesAt (vregBytes (getCore c s) (vxVD w)) (i * gatherBytes w) (gatherBytes w)).getD
      (y - gatherAddr (getCore c s) w i) 0) (scatterWrite (getCore c s) w i) := by
  intro i hi
  obtain ⟨hlt, hok⟩ := mem_scatterElems.1 hi
  have hwr := writes_memWrite (a := gatherAddr (getCore c s) w i)
    (l := bytesAt (vregBytes (getCore c s) (vxVD w)) (i * gatherBytes w) (gatherBytes w)) (s := s)
    (by rw [length_bytesAt]; exact (h i hlt hok).1)
  rwa [length_bytesAt] at hwr

include hw

theorem vxScatter_eq : vxScatter c w s =
    (forAll (scatterElems c w (getCore c s)) (scatterWrite (getCore c s) w) (bumpFree s), stOK) := by
  rw [vxScatter, engWrites_of_clean (s := s) (u := bumpFree s) ⟨rfl, rfl, rfl, hw⟩ ?_]
  · rw [forAll, List.foldl_map]
    rfl
  · intro r hr
    obtain ⟨i, hi, rfl⟩ := List.mem_map.1 hr
    obtain ⟨hlt, hok⟩ := mem_scatterElems.1 hi
    rw [length_bytesAt]
    exact h i hlt hok

/-- SCATTER writes its elements in order, so that the higher index wins (R129). -/
theorem vxScatter_spec (x : EngInstr) :
    let k := getCore c s
    let n := gatherBytes w
    let t := engEnd c 2 x (vxScatter c w s)
    Ended c 2 x stOK s t ∧ OtherCores c s t ∧
    (∀ i < 16, gatherOk c k w n i = true → ∀ j < n,
      (∀ h < 16, i < h → gatherOk c k w n h = true →
        gatherAddr k w i + j < gatherAddr k w h ∨ gatherAddr k w h + n ≤ gatherAddr k w i + j) →
      memGet (gatherAddr k w i + j) t = (vregBytes k (vxVD w)).getD (i * n + j) 0) ∧
    ∀ a, (∀ i < 16, gatherOk c k w n i = true → a < gatherAddr k w i ∨ gatherAddr k w i + n ≤ a) →
      memGet a t = memGet a s := by
  have hwr := writes_scatterWrite h
  have hu : MemFrame s (bumpFree s) := ⟨rfl, rfl, rfl, hw⟩
  have hf := memFrame_forAll hwr hu
  dsimp only
  rw [vxScatter_eq hw h]
  refine ⟨ended_engEnd (r := (_, stOK)) (by rw [getCore_of_cores hf.cores]), otherCores_engEnd (otherCores_of_cores hf.cores),
    fun i hi hok j hj hlater => ?_, fun a ha => ?_⟩
  · obtain ⟨l, m, hl⟩ := List.append_of_mem (mem_scatterElems.2 ⟨hi, hok⟩)
    have hsorted : (scatterElems c w (getCore c s)).Pairwise (· < ·) := List.pairwise_lt_range.filter _
    have hm : ∀ h ∈ m, i < h := by
      rw [hl] at hsorted
      exact (List.pairwise_cons.1 (List.pairwise_append.1 hsorted).2.1).1
    rw [hl] at hwr
    rw [memGet_engEnd, hl, forAll_append]
    refine memGet_forAll_inside (fun y hy => hwr y (List.mem_append_right l hy))
      (memFrame_forAll (fun y hy => hwr y (List.mem_append_left _ hy)) hu) (fun y hy h1 h2 => ?_)
      ⟨i, .head _, Nat.le_add_right _ _, by omega⟩
    rcases List.mem_cons.1 hy with rfl | hy
    · rw [Nat.add_sub_cancel_left, getD_bytesAt _ _ hj]
    · obtain ⟨hlt, hoky⟩ := mem_scatterElems.1 (hl ▸ List.mem_append_right l (.tail _ hy))
      have := hlater y hlt (hm y hy) hoky
      omega
  · rw [memGet_engEnd, memGet_forAll_outside hwr hu fun i hi => ha i (mem_scatterElems.1 hi).1 (mem_scatterElems.1 hi).2]
    rfl

end

/-- Settles O24: loads read into the core, stores and scatters write in order, a refused store writes nothing. -/
theorem vxMemory : Obligations.VxMemory := by
  unfold Obligations.VxMemory
  refine fun c => ⟨vxRuns_of (fun _ => rfl) fun x w s _ _ h => vxLoad_spec h,
    vxRuns_of (fun _ => rfl) fun x w s _ _ hw h => ?_, vxRuns_of (fun _ => rfl) fun x w s _ _ h => vxGather_spec h,
    vxRuns_of (fun _ => rfl) fun x w s _ _ hw h => vxScatter_spec hw h x,
    vxRuns_of (fun _ => rfl) fun x w s _ _ h => vxAcload_spec h, vxRuns_of (fun _ => rfl) fun x w s _ _ h => vxAcadd_spec h,
    vxRuns_of (fun _ => rfl) fun x w s _ _ hw h => ?_⟩
  · have hlen := length_vregBytes (getCore c.val s) (vxVD w)
    have hs := engWrite_spec (c := c.val) (e := 2) (x := x) hw (l := vregBytes (getCore c.val s) (vxVD w)) (by rwa [hlen])
    have hcores := cores_engWrite c.val (vxAddr w) (vregBytes (getCore c.val s) (vxVD w)) s
    rw [hlen] at hs
    exact ⟨otherCores_engEnd (otherCores_of_cores hcores),
      by rw [vxStoreOp, getCore_engEnd, getCore_of_cores hcores], hs⟩
  · have hlen := length_acBytes (getCore c.val s) (vxMemAC w)
    have hs := engWrite_spec (c := c.val) (e := 2) (x := x) hw (l := acBytes (getCore c.val s) (vxMemAC w)) (by rwa [hlen])
    rw [hlen] at hs
    obtain ⟨hden, hok⟩ := hs
    refine ⟨otherCores_engEnd (otherCores_of_cores (cores_engWrite _ _ _ s)), hden, fun hr => ?_⟩
    obtain ⟨hend, hout, hin⟩ := hok hr
    exact ⟨hend, hout, fun j hj => leNat_of_acBytes hin hj⟩

end Sys2Proof.Machine
end

section
/-! SUPPORT. The matrix engines (R66 to R71, R74): the accumulators of a product stand in a bank of the engine, and the drained
rows of C in memory. -/

namespace Sys2Proof.Machine

/-! The elements of the product. -/

theorem length_mxAccs (d : MxDesc) (x : MxIn) : (mxAccs d x).length = 64 * d.m := by
  rw [mxAccs, length_flatMap_const _ fun _ _ => by rw [List.length_map, List.length_range], List.length_range]

theorem lt_length_mxAccs {d : MxDesc} (x : MxIn) {r n : Nat} (hr : r < d.m) (hn : n < 64) : 64 * r + n < (mxAccs d x).length := by
  rw [length_mxAccs]
  omega

theorem getD_mxAccs {d : MxDesc} (x : MxIn) {r n : Nat} (hr : r < d.m) (hn : n < 64) :
    (mxAccs d x).getD (64 * r + n) (0, 0) = mxElem d x r n := by
  rw [mxAccs, getD_flatMap_const _ _ _ r n hn fun _ _ => by rw [List.length_map, List.length_range], List.getElem?_range hr,
    Option.elim_some, getD_range_map _ _ hn]

theorem getD_map_mxAccs {α : Type} (g : Nat × Nat → α) (z : α) {d : MxDesc} (x : MxIn) {r n : Nat} (hr : r < d.m) (hn : n < 64) :
    ((mxAccs d x).map g).getD (64 * r + n) z = g (mxElem d x r n) := by
  have hlt := lt_length_mxAccs x hr hn
  rw [← getD_mxAccs x hr hn, List.getD_eq_getElem _ _ (by simpa using hlt), List.getElem_map, List.getD_eq_getElem _ _ hlt]

/-- Row r of C in the output format. -/
def mxRow (d : MxDesc) (x : MxIn) (r : Nat) : List Byte :=
  packElems (mxCFmt d) ((List.range 64).map fun n => (mxDrain d x (mxElem d x r n).1).1)

/-- The rows of C with their addresses. -/
def mxRows (d : MxDesc) (x : MxIn) : List (Nat × List Byte) := (List.range d.m).map fun r => (d.cAddr + r * d.cPitch, mxRow d x r)

theorem byteFmt_mxCFmt {d : MxDesc} (h : [0, 1, 2, 3, 4, 8, 9, 0xA].contains d.outFmt = true) : byteFmt (mxCFmt d) = true := by
  unfold mxCFmt
  split
  · rfl
  · rw [List.contains_iff_mem] at h
    revert h
    generalize d.outFmt = f
    revert f
    decide

theorem length_mxRow {d : MxDesc} (h : [0, 1, 2, 3, 4, 8, 9, 0xA].contains d.outFmt = true) (x : MxIn) (r : Nat) :
    (mxRow d x r).length = mxOutRow d := by
  rw [mxRow, length_packElems_byteFmt (byteFmt_mxCFmt h), List.length_map, List.length_range, mxOutRow, mxCFmt, Nat.mul_comm]
  split <;> rfl

/-! The operation. -/

theorem mxRun_empty {c e : Nat} {i : EngInstr} {s : State}
    (h : (mxDesc i.odt i.cfg.toNat).m = 0 ∨ (mxDesc i.odt i.cfg.toNat).k = 0) : mxRun c e i s = (s, stOK) := if_pos h

/-- The state in which a matrix product begins to write C: its operands are read, and its accumulators stand in their bank. -/
def mxBanked (c e : Nat) (d : MxDesc) (s : State) : State :=
  mxBankSet c e ((mxAccs d (mxRead d s)).map Prod.fst) (readRanges (mxReadRanges d) s).1

/-- The flags that a matrix product raises. -/
def mxFlags (d : MxDesc) (x : MxIn) : Nat :=
  let accs := collectFlags (mxAccs d x)
  orFlags (orFlags accs.2 (collectFlags (accs.1.map (mxDrain d x))).2)
    (orFlags (if t5Bad d.bFmt x.b then flT5 else 0) (if scaleNan d x then flSN else 0))

theorem mxRun_eq {c e : Nat} {i : EngInstr} {s : State} {d : MxDesc} (hd : mxDesc i.odt i.cfg.toNat = d) (hm : d.m ≠ 0)
    (hk : d.k ≠ 0) : mxRun c e i s =
      let w := engWrites c (mxRows d (mxRead d s)) (mxBanked c e d s)
      (raiseFlags c (mxFlags d (mxRead d s)) w.1,
        firstFail [w.2, failIf (t5Bad d.bFmt (mxRead d s).b || (readRanges (mxReadRanges d) s).2) stCHECK]) := by
  have hrows : (List.range d.m).map (fun r => (d.cAddr + r * d.cPitch, packElems (mxCFmt d) ((List.range 64).map fun n =>
      ((((mxAccs d (mxRead d s)).map Prod.fst).map (mxDrain d (mxRead d s))).map Prod.fst).getD (64 * r + n) 0))) =
      mxRows d (mxRead d s) := by
    refine List.map_congr_left fun r hr => ?_
    refine congrArg (fun l => (d.cAddr + r * d.cPitch, packElems (mxCFmt d) l)) (List.map_congr_left fun n hn => ?_)
    rw [List.map_map, List.map_map, getD_map_mxAccs _ _ _ (List.mem_range.1 hr) (List.mem_range.1 hn)]
    rfl
  rw [mxRun]
  dsimp only
  rw [hd, if_neg (by simp [hm, hk]), ← hrows]
  rfl

/-! The accumulators. -/

section
variable {c e : Nat} {d : MxDesc} {s : State}

theorem getCore_mxBanked : getCore c (mxBanked c e d s) = { getCore c s with
    mxAcc := tput (8192 * e + 4096 * ((getCore c s).mxBank.getD e false).toNat) ((mxAccs d (mxRead d s)).map Prod.fst).length
      (w48Slice ((mxAccs d (mxRead d s)).map Prod.fst)) (getCore c s).mxAcc
    mxBank := modAt e not (getCore c s).mxBank } := by
  rw [mxBanked, mxBankSet, getCore_modCore_same, (quiet_getCore c).readRanges]
  rfl

theorem otherCores_mxBanked : OtherCores c s (mxBanked c e d s) := fun k hk => by
  rw [mxBanked, mxBankSet, getCore_modCore_ne hk, (quiet_getCore k).readRanges]

/-- The bank holds the accumulation of each element (R66). -/
theorem tget_mxAcc_mxBanked {r n : Nat} (hr : r < d.m) (hn : n < 64) :
    tget (fun _ => 0) (getCore c (mxBanked c e d s)).mxAcc
        (8192 * e + 4096 * ((getCore c s).mxBank.getD e false).toNat + 64 * r + n) =
      BitVec.ofNat 48 (mxElem d (mxRead d s) r n).1 := by
  have hlt := lt_length_mxAccs (mxRead d s) hr hn
  rw [getCore_mxBanked, tget_tput 0 _ _ _ _ _ fun _ => w48Slice_lt, Nat.add_assoc _ (64 * r) n, List.length_map,
    if_pos (by omega), Nat.add_sub_cancel_left, tget_w48Slice, getD_map_mxAccs _ _ _ hr hn]

end

/-! The rows of C. -/

/-- A byte of row r lies in no other row. -/
theorem eq_of_mem_rows {d : MxDesc} (h : d.m = 1 ∨ mxOutRow d ≤ d.cPitch) {r q x : Nat} (hr : r < d.m) (hq : q < d.m)
    (h1 : d.cAddr + r * d.cPitch ≤ x) (h2 : x < d.cAddr + r * d.cPitch + mxOutRow d) (h3 : d.cAddr + q * d.cPitch ≤ x)
    (h4 : x < d.cAddr + q * d.cPitch + mxOutRow d) : r = q := by
  rcases h with h | h
  · omega
  · have next : ∀ a b : Nat, a < b → a * d.cPitch + mxOutRow d ≤ b * d.cPitch := fun a b hab =>
      calc _ ≤ (a + 1) * d.cPitch := by rw [Nat.succ_mul]; omega
        _ ≤ _ := Nat.mul_le_mul_right _ hab
    rcases Nat.lt_trichotomy r q with hrq | hrq | hrq
    · have := next r q hrq
      omega
    · exact hrq
    · have := next q r hrq
      omega

section
variable {c e : Nat} {d : MxDesc} {s : State} (hout : [0, 1, 2, 3, 4, 8, 9, 0xA].contains d.outFmt = true)
  (hread : ∀ g ∈ mxReadRanges d, marksIn g.1 g.2 s = [])
  (hc : ∀ r < d.m, marksIn (d.cAddr + r * d.cPitch) (mxOutRow d) s = [] ∧
    ownWriteRefused c (d.cAddr + r * d.cPitch) (mxOutRow d) s = false) (hw : Memory.wf s.mem = true)

theorem mem_mxBanked : (mxBanked c e d s).mem = s.mem := quiet_mem.readRanges (mxReadRanges d) s

include hw in
theorem memFrame_mxBanked : MemFrame (mxBanked c e d s) (mxBanked c e d s) := .refl (by rw [mem_mxBanked]; exact hw)

include hread in
theorem ecc_mxBanked : (mxBanked c e d s).ecc = s.ecc := (readRanges_of_clean _ s hread).2

theorem cab_mxBanked : (mxBanked c e d s).cab = s.cab := quiet_cab.readRanges (mxReadRanges d) s

include hout hread hc

theorem writes_mxRows : ∀ r ∈ List.range d.m, Writes (mxBanked c e d s) (d.cAddr + r * d.cPitch) (mxOutRow d)
    (fun x => (mxRow d (mxRead d s) r).getD (x - (d.cAddr + r * d.cPitch)) 0)
    (memWrite (d.cAddr + r * d.cPitch) (mxRow d (mxRead d s) r)) := by
  intro r hr
  have hlen := length_mxRow hout (mxRead d s) r
  have hwr := writes_memWrite (a := d.cAddr + r * d.cPitch) (l := mxRow d (mxRead d s) r) (s := mxBanked c e d s)
    (by rw [hlen, marksIn_of_ecc (ecc_mxBanked hread)]; exact (hc r (List.mem_range.1 hr)).1)
  rwa [hlen] at hwr

include hw

/-- The drain of a product writes every row of C. -/
theorem engWrites_mxRows : engWrites c (mxRows d (mxRead d s)) (mxBanked c e d s) =
    (forAll (List.range d.m) (fun r => memWrite (d.cAddr + r * d.cPitch) (mxRow d (mxRead d s) r)) (mxBanked c e d s), stOK) := by
  rw [engWrites_of_clean (memFrame_mxBanked hw) fun y hy => ?_]
  · rw [mxRows, forAll, List.foldl_map]
    rfl
  · obtain ⟨r, hr, rfl⟩ := List.mem_map.1 hy
    rw [length_mxRow hout, marksIn_of_ecc (ecc_mxBanked hread), ownWriteRefused_of_cab cab_mxBanked]
    exact hc r (List.mem_range.1 hr)

/-- A product drains every row of C, and ends with CHECK_MISMATCH where B holds a reserved T5 byte (R56). -/
theorem mxRun_of_clean {i : EngInstr} (hd : mxDesc i.odt i.cfg.toNat = d) (hm : d.m ≠ 0) (hk : d.k ≠ 0) : mxRun c e i s =
    (raiseFlags c (mxFlags d (mxRead d s))
      (forAll (List.range d.m) (fun r => memWrite (d.cAddr + r * d.cPitch) (mxRow d (mxRead d s) r)) (mxBanked c e d s)),
      if t5Bad d.bFmt (mxRead d s).b then stCHECK else stOK) := by
  rw [mxRun_eq hd hm hk]
  dsimp only
  rw [engWrites_mxRows hout hread hc hw, (readRanges_of_clean _ s hread).1, Bool.or_false]
  cases t5Bad d.bFmt (mxRead d s).b <;> rfl

/-- A byte of row r of C after the rows were written. -/
theorem memGet_mxRows (hp : d.m = 1 ∨ mxOutRow d ≤ d.cPitch) {r i : Nat} (hr : r < d.m) (hi : i < mxOutRow d) :
    memGet (d.cAddr + r * d.cPitch + i)
      (forAll (List.range d.m) (fun r => memWrite (d.cAddr + r * d.cPitch) (mxRow d (mxRead d s) r)) (mxBanked c e d s)) =
      (mxRow d (mxRead d s) r).getD i 0 := by
  refine memGet_forAll_inside (writes_mxRows hout hread hc) (memFrame_mxBanked hw) (fun q hq h1 h2 => ?_)
    ⟨r, List.mem_range.2 hr, Nat.le_add_right _ _, by omega⟩
  obtain rfl := eq_of_mem_rows hp hr (List.mem_range.1 hq) (Nat.le_add_right _ i) (by omega) h1 h2
  rw [Nat.add_sub_cancel_left]

end

/-- Settles O19: the accumulators are set, then the disjoint rows of C are written one after another. -/
theorem matrixProduct : Obligations.MatrixProduct := by
  unfold Obligations.MatrixProduct
  intro c e x s hx hdone hop
  generalize hd : mxDesc x.odt x.cfg.toNat = d
  dsimp only
  refine ⟨fun hm => ⟨_, rfl, runHead_waits hx hm⟩, fun hm => ⟨fun h0 => ?_, fun hm0 hk0 hm64 hp hw hread hc hout => ?_⟩⟩
  · refine ⟨_, rfl, ?_⟩
    rw [runHead_runs hx hdone (by simp [hop]) hm, mxRun_empty (hd ▸ h0)]
    exact ⟨(leavesCore_refl c.val s).engFrame rfl, .of_regs (regs_engEnd _ _ _ _)⟩
  · have hrun := mxRun_of_clean (e := e.val) hout hread hc hw hd hm0 hk0
    have hcores : (mxRun c.val e.val x s).1.cores = (mxBanked c.val e.val d s).cores := by
      rw [hrun]
      exact (quiet_cores.raiseFlags _ _ _).trans (memFrame_forAll (writes_mxRows hout hread hc) (memFrame_mxBanked hw)).cores
    have hcore := getCore_of_cores (c := c.val) hcores
    refine ⟨_, rfl, ?_⟩
    rw [runHead_runs hx hdone (by simp [hop]) hm]
    refine ⟨?_, ?_, ?_, fun r hr n hn => ?_, fun r hr i hi => ?_, fun a ha => ?_⟩
    · have hend := ended_engEnd (e := e.val) (x := x) (r := mxRun c.val e.val x s) (s := s) (by rw [hcore, getCore_mxBanked])
      rwa [hrun] at hend ⊢
    · exact otherCores_engEnd fun k hk => (getCore_of_cores hcores).trans (otherCores_mxBanked k hk)
    · rw [getCore_engEnd, hcore, getCore_mxBanked]
    · rw [getCore_engEnd, hcore]
      exact tget_mxAcc_mxBanked hr hn
    · rw [memGet_engEnd, hrun, (quiet_memGet _).raiseFlags]
      exact memGet_mxRows hout hread hc hw hp hr hi
    · rw [memGet_engEnd, hrun, (quiet_memGet _).raiseFlags, memGet_forAll_outside (writes_mxRows hout hread hc)
        (memFrame_mxBanked hw) fun r hr => ha r (List.mem_range.1 hr)]
      rw [memGet, mem_mxBanked, memGet]

end Sys2Proof.Machine
end

section
/-! SUPPORT. The stream engine within the package (R101, R129, R131, R155): a move reads its source and writes its
destination, MCAST writes every selected cluster store. -/

namespace Sys2Proof.Machine

/-! The end of a stream instruction. -/

section
variable {c : Nat} {s t : State} (x : EngInstr) (st : BitVec 8)

theorem sxEnd_eq : sxEnd c x st t = engEnd c 3 x (t, st) := rfl

theorem ends_of_cores (h : t.cores = s.cores) : Ended c 3 x st s (sxEnd c x st t) ∧ OtherCores c s (sxEnd c x st t) := by
  rw [sxEnd_eq]
  exact ⟨ended_engEnd (r := (t, st)) (by rw [getCore_of_cores h]), otherCores_engEnd (r := (t, st)) (otherCores_of_cores h)⟩

theorem mem_sxEnd : (sxEnd c x st t).mem = t.mem := by rw [sxEnd_eq, mem_engEnd]

theorem memGet_sxEnd (a : Nat) : memGet a (sxEnd c x st t) = memGet a t := by rw [sxEnd_eq, memGet_engEnd]

/-- An instruction that moves nothing. -/
theorem ends_at_once : (Ended c 3 x st s (sxEnd c x st s) ∧ OtherCores c s (sxEnd c x st s)) ∧ (sxEnd c x st s).mem = s.mem :=
  ⟨ends_of_cores x st rfl, mem_sxEnd x st⟩

end

/-! The source of a move. -/

/-- A read of a range without marked units gives all its bytes. -/
theorem readUpTo_of_clean {a n : Nat} {s : State} (h : marksIn a n s = []) : readUpTo a n s = (noteAccess false a n s, n) := by
  rw [readUpTo, h, List.find?_nil]
  dsimp only
  rw [noteMarks_nil]

theorem memFrame_noteAccess {s : State} (hw : Memory.wf s.mem = true) (w : Bool) (a n : Nat) :
    MemFrame s (noteAccess w a n s) :=
  ⟨quiet_cores.noteAccess w a n s, ecc_noteAccess w a n s, quiet_cab.noteAccess w a n s,
    (quiet_mem.noteAccess w a n s).symm ▸ hw⟩

theorem rising_memSlice {s : State} (hw : Memory.wf s.mem = true) (a n : Nat) : Rising 0 (memSlice a n s) := by
  have h := rising_slice a n s.mem 0 (rising_of_wf hw)
  rwa [Nat.zero_sub] at h

theorem tget_memSlice {a n i : Nat} (hi : i < n) (s : State) : tget (fun _ => 0) (memSlice a n s) i = memGet (a + i) s :=
  tget_tslice 0 a n s.mem hi

theorem memSlice_of_mem {s t : State} (h : t.mem = s.mem) (a n : Nat) : memSlice a n t = memSlice a n s := by
  rw [memSlice, memSlice, h]

/-! PUT and GET within the package. -/

section
variable {c src dst n : Nat} {s : State}

theorem localMove_closed (hn : n ≠ 0) (h : firstFail [accessStatus src n s, accessStatus dst n s] ≠ stOK) :
    localMove c src dst n s = (s, firstFail [accessStatus src n s, accessStatus dst n s]) := by
  rw [localMove]
  dsimp only
  rw [if_neg hn, if_pos h]

/-- A move between open ranges, with a source without marked units and no doorbell as its destination. -/
theorem localMove_open (hn : n ≠ 0) (h : firstFail [accessStatus src n s, accessStatus dst n s] = stOK)
    (hclean : marksIn src n s = []) (hbell : inBellPages dst n = false) : localMove c src dst n s =
      if ownWriteRefused c dst n s then (noteAccess false src n s, stDENIED)
      else (memStore dst n (memSlice src n s) (noteAccess false src n s), stOK) := by
  have hcab : (noteAccess false src n s).cab = s.cab := quiet_cab.noteAccess _ _ _ s
  rw [localMove]
  dsimp only
  rw [if_neg hn, if_neg (not_not.2 h), readUpTo_of_clean hclean]
  dsimp only
  rw [localWrite, hbell, if_neg (by decide), ownWriteRefused_of_cab hcab, memSlice_of_mem (quiet_mem.noteAccess _ _ _ s),
    bne_self_eq_false]
  split <;> rfl

/-- An instruction that is a move within the package (R101). -/
theorem goes_localMove {i : Instr} {x : EngInstr} (hw : Memory.wf s.mem = true)
    (hi : exec i s = .next (sxEnd c x (localMove c src dst n s).2 (localMove c src dst n s).1)) :
    let Ends : BitVec 8 → State → Prop := fun st t => Ended c 3 x st s t ∧ OtherCores c s t
    let st := firstFail [accessStatus src n s, accessStatus dst n s]
    (n = 0 → Goes i s fun t => Ends stOK t ∧ t.mem = s.mem) ∧
    (n ≠ 0 → st ≠ stOK → Goes i s fun t => Ends st t ∧ t.mem = s.mem) ∧
    (n ≠ 0 → st = stOK → marksIn src n s = [] → inBellPages dst n = false →
      (ownWriteRefused c dst n s = true → Goes i s fun t => Ends stDENIED t ∧ t.mem = s.mem) ∧
      (ownWriteRefused c dst n s = false → marksIn dst n s = [] → Goes i s fun t =>
        Ends stOK t ∧ (∀ i < n, memGet (dst + i) t = memGet (src + i) s) ∧ MemOutside dst n s t)) := by
  refine ⟨fun hn => ⟨_, hi, ?_⟩, fun hn hst => ⟨_, hi, ?_⟩, fun hn hst hsrc hbell =>
    ⟨fun hr => ⟨_, hi, ?_⟩, fun hr hdst => ⟨_, hi, ?_⟩⟩⟩
  · subst hn
    exact ends_at_once x stOK
  · rw [localMove_closed hn hst]
    exact ends_at_once x _
  · rw [localMove_open hn hst hsrc hbell, if_pos hr]
    exact ⟨ends_of_cores x _ (quiet_cores.noteAccess _ _ _ s), (mem_sxEnd x _).trans (quiet_mem.noteAccess _ _ _ s)⟩
  · obtain ⟨hf, hb⟩ := writes_memStore hdst (rising_memSlice hw src n) _ (memFrame_noteAccess hw false src n)
    rw [localMove_open hn hst hsrc hbell, if_neg (by simp [hr])]
    refine ⟨ends_of_cores x stOK hf.cores, fun i hi => ?_, fun a ha => ?_⟩
    · rw [memGet_sxEnd, hb, if_pos (by omega)]
      dsimp only
      rw [Nat.add_sub_cancel_left, tget_memSlice hi]
    · rw [memGet_sxEnd, hb, if_neg (by omega), (quiet_memGet a).noteAccess]

end

/-! MCAST. -/

theorem firstFail_of_forall : ∀ {l : List (BitVec 8)}, (∀ st ∈ l, st = stOK) → firstFail l = stOK
  | [], _ => rfl
  | st :: l, h => by
    rw [firstFail, if_pos (h st (.head _)), firstFail_of_forall fun y hy => h y (.tail _ hy)]

/-- An event counter counts a write. -/
theorem Writes.countEvt {s : State} {a n : Nat} {v : Nat → Byte} {f : State → State} (h : Writes s a n v f) (b : CtrBlk)
    (code m : Nat) : Writes s a n v fun u => countEvt b code m (f u) := by
  intro u hu
  obtain ⟨hf, hb⟩ := h u hu
  refine ⟨hf.trans ⟨quiet_cores.countEvt b code m _, countEvt_view (φ := State.ecc) (fun _ _ => rfl) b code m _,
    quiet_cab.countEvt b code m _, (quiet_mem.countEvt b code m _).symm ▸ hf.wf⟩, fun x => ?_⟩
  rw [(quiet_memGet x).countEvt, hb]

/-- MCAST writes n bytes of a slice at an offset of cluster store k. -/
def mcastWrite (sl : Tbl Byte) (off n k : Nat) (s : State) : State :=
  countEvt (ctrClu k) 0x23 (linesOf (cluStore k + off) n k) (memStore (cluStore k + off) n sl s)

/-- Ranges at one offset of two cluster stores are apart. -/
theorem eq_of_mem_cluStores {off n k q x : Nat} (h : off + n ≤ cluStoreSize) (h1 : cluStore k + off ≤ x)
    (h2 : x < cluStore k + off + n) (h3 : cluStore q + off ≤ x) (h4 : x < cluStore q + off + n) : k = q := by
  simp only [cluStore, cluStoreSize] at h h1 h2 h3 h4
  omega

theorem writes_mcastWrite {s : State} {src off n k : Nat} (hw : Memory.wf s.mem = true)
    (h : marksIn (cluStore k + off) n s = []) : Writes s (cluStore k + off) n
      (fun x => tget (fun _ => 0) (memSlice src n s) (x - (cluStore k + off))) (mcastWrite (memSlice src n s) off n k) :=
  (writes_memStore h (rising_memSlice hw src n)).countEvt _ _ _

theorem mcastOp_eq {c : Nat} {x : EngInstr} {d : SxDesc} {s : State} (hx : sxHead c 3 s = some (x, d)) (hn : d.len ≠ 0)
    (hclean : marksIn (bitsOf d.src 45 0) d.len s = []) (hsrc : accessStatus (bitsOf d.src 45 0) d.len s = stOK)
    (hdst : ∀ k ∈ mcastClusters d, accessStatus (cluStore k + d.dst) d.len s = stOK) :
    mcastOp c s = sxEnd c x stOK (forAll (mcastClusters d) (mcastWrite (memSlice (bitsOf d.src 45 0) d.len s) d.dst d.len)
      (noteAccess false (bitsOf d.src 45 0) d.len s)) := by
  have hbad : firstFail (accessStatus (bitsOf d.src 45 0) d.len s ::
      (mcastClusters d).map fun k => accessStatus (cluStore k + d.dst) d.len s) = stOK :=
    firstFail_of_forall fun st hst => by
      rcases List.mem_cons.1 hst with rfl | hst
      · exact hsrc
      · obtain ⟨k, hk, rfl⟩ := List.mem_map.1 hst
        exact hdst k hk
  rw [mcastOp, hx]
  dsimp only
  rw [if_neg hn, if_neg (not_not.2 hbad), readUpTo_of_clean hclean]
  dsimp only
  rw [bne_self_eq_false]
  rfl

/-- MCAST copies its source to one offset of every selected cluster store (R101). -/
theorem mcastOp_spec {c : Nat} {x : EngInstr} {d : SxDesc} {s : State} (hw : Memory.wf s.mem = true)
    (hx : sxHead c 3 s = some (x, d)) (hn : d.len ≠ 0) (hfit : d.dst + d.len ≤ cluStoreSize)
    (hclean : marksIn (bitsOf d.src 45 0) d.len s = []) (hsrc : accessStatus (bitsOf d.src 45 0) d.len s = stOK)
    (hdst : ∀ k ∈ mcastClusters d, marksIn (cluStore k + d.dst) d.len s = [] ∧
      accessStatus (cluStore k + d.dst) d.len s = stOK) :
    (Ended c 3 x stOK s (mcastOp c s) ∧ OtherCores c s (mcastOp c s)) ∧
    (∀ k ∈ mcastClusters d, ∀ i < d.len, memGet (cluStore k + d.dst + i) (mcastOp c s) = memGet (bitsOf d.src 45 0 + i) s) ∧
    ∀ a, (∀ k ∈ mcastClusters d, a < cluStore k + d.dst ∨ cluStore k + d.dst + d.len ≤ a) →
      memGet a (mcastOp c s) = memGet a s := by
  have hwr : ∀ k ∈ mcastClusters d, Writes s (cluStore k + d.dst) d.len
      (fun x => tget (fun _ => 0) (memSlice (bitsOf d.src 45 0) d.len s) (x - (cluStore k + d.dst)))
      (mcastWrite (memSlice (bitsOf d.src 45 0) d.len s) d.dst d.len k) := fun k hk => writes_mcastWrite hw (hdst k hk).1
  have hu := memFrame_noteAccess hw false (bitsOf d.src 45 0) d.len
  rw [mcastOp_eq hx hn hclean hsrc fun k hk => (hdst k hk).2]
  refine ⟨ends_of_cores x stOK (memFrame_forAll hwr hu).cores, fun k hk i hi => ?_, fun a ha => ?_⟩
  · rw [memGet_sxEnd]
    refine memGet_forAll_inside hwr hu (fun q _ h1 h2 => ?_) ⟨k, hk, Nat.le_add_right _ _, by omega⟩
    obtain rfl := eq_of_mem_cluStores hfit (Nat.le_add_right _ i) (by omega) h1 h2
    rw [Nat.add_sub_cancel_left, tget_memSlice hi]
  · rw [memGet_sxEnd, memGet_forAll_outside hwr hu ha, (quiet_memGet a).noteAccess]

end Sys2Proof.Machine
end

section
/-! SUPPORT. The stream engine and other packages (R239 to R242): the packets of a remote PUT or GET wait for their ports, and the
instruction stands among the outstanding ones. -/

namespace Sys2Proof.Machine

/-- What the sending of packets leaves alone: memory, the cores, the clocks and the outstanding instructions. -/
def sendView (s : State) : List Host.Cell × Tbl Core × Clk × List RemoteInstr := (s.mem, s.cores, s.clk, s.fab.remote)

theorem quiet_sendView : Quiet sendView := ⟨fun _ _ => rfl, fun _ _ => rfl, fun _ _ => rfl, fun _ _ => rfl,
  fun _ _ => rfl, fun _ _ => rfl, fun _ _ => rfl⟩

theorem sendView_sendPkt (port vl : Nat) (kind : BitVec 4) (e : BitVec 19) (w : BitVec 64) (addr : Nat) (tag : InstrTag)
    (notify kspec : Nat) (data : List Byte) (s : State) :
    sendView (sendPkt port vl kind e w addr tag notify kspec data s) = sendView s := by
  unfold sendPkt
  split
  · rfl
  · exact ite_view rfl (ite_view rfl rfl)

theorem sendView_sendOne (core vl : Nat) (kind : BitVec 4) (e : BitVec 19) (w : BitVec 64) (addr : Nat) (tag : InstrTag)
    (notify kspec : Nat) (s : State) : sendView (sendOne core vl kind e w addr tag notify kspec s) = sendView s := by
  unfold sendOne
  split
  · rfl
  · exact sendView_sendPkt _ _ _ _ _ _ _ _ _ _ s

theorem sendView_sendData (fixed : Option Nat) (core vl : Nat) (kind : BitVec 4) (e : BitVec 19) (w : BitVec 64) (addr : Nat)
    (tag : InstrTag) (notify kspec : Nat) (l : List Byte) (s : State) :
    sendView (sendData fixed core vl kind e w addr tag notify kspec l s) = sendView s := by
  refine foldl_view sendView _ (fun k u => ?_) _ s
  split
  · rfl
  · exact sendView_sendPkt _ _ _ _ _ _ _ _ _ _ u

theorem length_chunksOf (l : List Byte) : (chunksOf l).length = (l.length + 8127) / 8128 := by
  rw [chunksOf, List.length_map, List.length_range]

/-- An instruction whose packets have been sent stands among the outstanding ones, and memory and cores are as before. -/
theorem outstanding_spec {s t : State} (h : sendView t = sendView s) (tag : InstrTag) (kind : RemoteKind) (e : BitVec 19)
    (w : BitVec 64) (left notify : Nat) :
    let u := outstanding tag kind e w left notify t
    u.mem = s.mem ∧ u.cores = s.cores ∧
      u.fab.remote = s.fab.remote ++ [⟨tag, kind, e, w, left, none, BitVec.ofNat 46 notify, s.clk.now⟩] := by
  simp only [sendView, Prod.mk.injEq] at h
  obtain ⟨hmem, hcores, hclk, hremote⟩ := h
  refine ⟨hmem, hcores, ?_⟩
  rw [← hclk, ← hremote]
  rfl

section
variable {c p : Nat} {x : EngInstr} {d : SxDesc} {s : State} {e : BitVec 19}

/-- A remote PUT that passes its lookup, of a source without marked units. -/
theorem remotePut_sends (hn : d.len ≠ 0) (he : eidOfPkg p (bitsOf d.dst 55 46) s = some e)
    (hst : lookupStatus p c e (dieOfAddr (bitsOf d.dst 45 0)) s = stOK) (hclean : marksIn (bitsOf d.src 45 0) d.len s = []) :
    ∃ t, sendView t = sendView s ∧ remotePut c p x d s =
      outstanding (mkTag c x.seqno) .put e (entryOf e s) ((d.len + 8127) / 8128) d.notify t := by
  have hlen : (memBytes (bitsOf d.src 45 0) d.len s).length = d.len := length_memBytes _ _ _
  rw [remotePut, he]
  dsimp only
  rw [if_neg (not_not.2 hst), readUpTo_of_clean hclean]
  dsimp only
  rw [if_neg hn, if_pos rfl, length_chunksOf, hlen]
  exact ⟨_, (sendView_sendData _ _ _ _ _ _ _ _ _ _ _ _).trans (quiet_sendView.noteAccess _ _ _ s), rfl⟩

/-- A remote GET that passes its lookup. -/
theorem remoteGet_sends (he : eidOfPkg p (bitsOf d.src 55 46) s = some e)
    (hst : lookupStatus p c e (dieOfAddr (bitsOf d.src 45 0)) s = stOK) :
    ∃ t, sendView t = sendView s ∧ remoteGet c p x d s =
      outstanding (mkTag c x.seqno) (.get (bitsOf d.dst 45 0) d.len) e (entryOf e s) 1 d.notify t := by
  rw [remoteGet, he]
  dsimp only
  rw [if_neg (not_not.2 hst)]
  exact ⟨_, sendView_sendOne _ _ _ _ _ _ _ _ _ s, rfl⟩

theorem remotePut_fails (he : eidOfPkg p (bitsOf d.dst 55 46) s = some e)
    (hst : lookupStatus p c e (dieOfAddr (bitsOf d.dst 45 0)) s ≠ stOK) :
    remotePut c p x d s = sxEnd c x (lookupStatus p c e (dieOfAddr (bitsOf d.dst 45 0)) s) s := by
  rw [remotePut, he]
  exact if_pos hst

theorem remoteGet_fails (he : eidOfPkg p (bitsOf d.src 55 46) s = some e)
    (hst : lookupStatus p c e (dieOfAddr (bitsOf d.src 45 0)) s ≠ stOK) :
    remoteGet c p x d s = sxEnd c x (lookupStatus p c e (dieOfAddr (bitsOf d.src 45 0)) s) s := by
  rw [remoteGet, he]
  exact if_pos hst

theorem remotePut_foreign (he : eidOfPkg p (bitsOf d.dst 55 46) s = none) : remotePut c p x d s = sxEnd c x stDENIED s := by
  rw [remotePut, he]

theorem remoteGet_foreign (he : eidOfPkg p (bitsOf d.src 55 46) s = none) : remoteGet c p x d s = sxEnd c x stDENIED s := by
  rw [remoteGet, he]

end

/-! The four ways of a PUT and a GET. -/

section
variable {c : Nat} {x : EngInstr} {d : SxDesc} {s : State}

theorem putOp_local (hx : sxHead c 1 s = some (x, d)) (hl : isLocalPkg (corePart c s) d.dst s = true) : putOp c s =
    let r := localMove c (bitsOf d.src 45 0) (bitsOf d.dst 45 0) d.len s
    sxEnd c x r.2 r.1 := by
  simp [putOp, hx, hl]

theorem getOp_local (hx : sxHead c 2 s = some (x, d)) (hl : isLocalPkg (corePart c s) d.src s = true) : getOp c s =
    let r := localMove c (bitsOf d.src 45 0) (bitsOf d.dst 45 0) d.len s
    sxEnd c x r.2 r.1 := by
  simp [getOp, hx, hl]

theorem putOp_remote (hx : sxHead c 1 s = some (x, d)) (hl : isLocalPkg (corePart c s) d.dst s = false) (hn : d.len ≠ 0) :
    putOp c s = remotePut c (corePart c s) x d s := by
  simp [putOp, hx, hl, hn]

theorem getOp_remote (hx : sxHead c 2 s = some (x, d)) (hl : isLocalPkg (corePart c s) d.src s = false) (hn : d.len ≠ 0) :
    getOp c s = remoteGet c (corePart c s) x d s := by
  simp [getOp, hx, hl, hn]

end

/-- Settles O25: moves within the package copy, MCAST copies to every selected store, and remote moves become outstanding. -/
theorem streamMoves : Obligations.StreamMoves := by
  unfold Obligations.StreamMoves
  intro c x d s hw
  have hput : exec (.put c) s = .next (putOp c.val s) := rfl
  have hget : exec (.get c) s = .next (getOp c.val s) := rfl
  refine ⟨fun hx hl => goes_localMove hw ?_, fun hx hl => goes_localMove hw ?_,
    fun hx hn hfit hclean hsrc hdst => ⟨_, rfl, mcastOp_spec hw hx hn hfit hclean hsrc hdst⟩,
    fun hx hl hn => ?_, fun hx hl hn => ?_⟩
  · rw [hput, putOp_local hx hl]
  · rw [hget, getOp_local hx hl]
  · rw [putOp_remote hx hl hn] at hput
    refine ⟨fun he => ⟨_, hput, ?_⟩, fun e he => ⟨fun hst => ⟨_, hput, ?_⟩, fun hst hclean => ⟨_, hput, ?_⟩⟩⟩
    · rw [remotePut_foreign he]
      exact ends_at_once x _
    · rw [remotePut_fails he hst]
      exact ends_at_once x _
    · obtain ⟨t, ht, hsend⟩ := remotePut_sends (x := x) hn he hst (hclean.resolve_right (· rfl))
      rw [hsend]
      exact outstanding_spec ht _ _ _ _ _ _
  · rw [getOp_remote hx hl hn] at hget
    refine ⟨fun he => ⟨_, hget, ?_⟩, fun e he => ⟨fun hst => ⟨_, hget, ?_⟩, fun hst _ => ⟨_, hget, ?_⟩⟩⟩
    · rw [remoteGet_foreign he]
      exact ends_at_once x _
    · rw [remoteGet_fails he hst]
      exact ends_at_once x _
    · obtain ⟨t, ht, hsend⟩ := remoteGet_sends (x := x) he hst
      rw [hsend]
      exact outstanding_spec ht _ _ _ _ _ _

end Sys2Proof.Machine
end

section
/-! SUPPORT. Fetched commands of a queue (R110 to R112): the row of a command that waits, and what the end of a command
changes: the phase of the command, and the intake of its cores. -/

namespace Sys2Proof.Machine

/-- The row of a command that waits runs, outside the safe state (R28). -/
theorem withCmd_of_waiting {qid op : Nat} {c : QCmd} {s : State} (h : waitingCmd qid op s = some c) (hs : isSafe s = false)
    (f : Queue → QCmd → State → State) : withCmd qid op f s = f (getQueue qid s) c s := by
  rw [withCmd, h]
  exact if_neg (by simp [hs])

theorem cmdOp_of_waiting {qid op : Nat} {c : QCmd} {s : State} (h : waitingCmd qid op s = some c) : cmdOp c.bytes = op := by
  have hc := List.find?_some h
  rw [Bool.and_eq_true] at hc
  exact beq_iff_eq.1 hc.2

/-- The second state differs from the first in its queues and hand-offs alone. -/
def QueuesOnly (s t : State) : Prop := t = { s with queues := t.queues, handoffs := t.handoffs }

theorem QueuesOnly.trans {s t u : State} (h : QueuesOnly s t) (k : QueuesOnly t u) : QueuesOnly s u := by
  unfold QueuesOnly at *
  rw [k, h]

theorem QueuesOnly.mem {s t : State} (h : QueuesOnly s t) : t.mem = s.mem := by
  unfold QueuesOnly at h
  rw [h]

theorem QueuesOnly.cores {s t : State} (h : QueuesOnly s t) : t.cores = s.cores := by
  unfold QueuesOnly at h
  rw [h]

theorem queuesOnly_setQueue (q : Nat) (x : Queue) (s : State) : QueuesOnly s (setQueue q x s) := rfl

/-- The second state differs from the first in its hand-offs alone. -/
def HandoffsOnly (s t : State) : Prop := t = { s with handoffs := t.handoffs }

theorem handoffsOnly_leaveIntake (q : Queue) (b : List Byte) (s : State) : HandoffsOnly s (leaveIntake q b s) := by
  have hview := leaveIntake_view (φ := fun u => { u with handoffs := s.handoffs }) (fun _ _ => rfl) q b s
  exact congrArg (fun u => { u with handoffs := (leaveIntake q b s).handoffs }) hview

theorem HandoffsOnly.queuesOnly {s t : State} (h : HandoffsOnly s t) : QueuesOnly s t := by
  unfold HandoffsOnly at h
  unfold QueuesOnly
  rw [h]

theorem HandoffsOnly.getQueue {s t : State} (h : HandoffsOnly s t) (q : Nat) : getQueue q t = getQueue q s := by
  unfold HandoffsOnly at h
  rw [h]
  rfl

/-- A change of phase lets the command leave the intake of its cores, and marks it in its queue. -/
theorem setPhase_eq (qid : Nat) (idx : BitVec 32) (p : CmdPhase) (s : State) : ∃ u, HandoffsOnly s u ∧
    setPhase qid idx p s = setQueue qid { getQueue qid s with
      cmds := (getQueue qid s).cmds.map fun c => if c.idx = idx ∧ !cmdEnded c then { c with phase := p } else c } u := by
  refine ⟨_, ?_, rfl⟩
  split
  · exact rfl
  · split
    · exact handoffsOnly_leaveIntake _ _ s
    · exact rfl

/-- A command comes to a phase, and nothing but its queue and the hand-offs changes. -/
theorem setPhase_spec (qid : Nat) (idx : BitVec 32) (p : CmdPhase) (s : State) :
    PhaseSet qid idx p s (setPhase qid idx p s) ∧ QueuesOnly s (setPhase qid idx p s) := by
  obtain ⟨u, hu, heq⟩ := setPhase_eq qid idx p s
  rw [heq]
  refine ⟨⟨getQueue_setQueue_same _ _ _, fun j hj => ?_⟩, hu.queuesOnly.trans (queuesOnly_setQueue _ _ _)⟩
  rw [getQueue_setQueue_ne hj, hu.getQueue]

theorem endCmd_spec (qid : Nat) (idx : BitVec 32) (st : BitVec 8) (detail : Word) (s : State) :
    PhaseSet qid idx (.ended st detail) s (endCmd qid idx st detail s) ∧ QueuesOnly s (endCmd qid idx st detail s) :=
  setPhase_spec qid idx _ s

/-- The phase of a command is that of its queue. -/
theorem PhaseSet.congr {q : Nat} {idx : BitVec 32} {p : CmdPhase} {s u t : State} (h : PhaseSet q idx p u t)
    (hq : u.queues = s.queues) : PhaseSet q idx p s t := by
  have hget : ∀ j, getQueue j u = getQueue j s := fun j => by rw [getQueue, getQueue, hq]
  obtain ⟨hsame, hother⟩ := h
  rw [hget] at hsame
  exact ⟨hsame, fun j hj => (hother j hj).trans (hget j)⟩

end Sys2Proof.Machine
end

section
/-! SUPPORT. What the check of a range of memory looks at (R41, R137, R141, R361, R362, R418): the Cabinet, the resets and the
registers of what is in service. -/

namespace Sys2Proof.Machine

/-- The registers that say what is in service lie outside the list: those of the hub, and the status of each stack. -/
def OffService (l : List Nat) : Prop := ∀ o ∈ l, 0x00100000 ≤ o ∧ ∀ st, o ≠ memB st + oMEM_STATUS

/-- Two states give every range the same checks. -/
structure SameRanges (s t : State) : Prop where
  cab     : t.cab = s.cab
  busy    : t.busyParts = s.busyParts
  compute : t.computeReset = s.computeReset
  cluster : ∀ k, cluOk k t = cluOk k s
  stack   : ∀ st, stackOk st t = stackOk st s
  scrub   : ∀ p, scrubbing p t = scrubbing p s

theorem SameRanges.trans {s t u : State} (h : SameRanges s t) (k : SameRanges t u) : SameRanges s u :=
  ⟨k.cab.trans h.cab, k.busy.trans h.busy, k.compute.trans h.compute, fun i => (k.cluster i).trans (h.cluster i),
    fun i => (k.stack i).trans (h.stack i), fun i => (k.scrub i).trans (h.scrub i)⟩

theorem sameRanges_of_kept {l : List Nat} {s t : State} (hcab : t.cab = s.cab) (hbusy : t.busyParts = s.busyParts)
    (hcompute : t.computeReset = s.computeReset) (hr : RegsKept l s t) (hl : OffService l) : SameRanges s t := by
  have hhub : ∀ f : Fld, f.off < 0x00100000 → fget hubB f t = fget hubB f s := fun f hf => hr.fget fun hm => by
    have hge := (hl _ hm).1
    simp only [hubB] at hge
    omega
  refine ⟨hcab, hbusy, hcompute, fun k => ?_, fun st => ?_, fun p => ?_⟩
  · rw [cluOk, cluOk, hhub _ (by decide)]
  · rw [stackOk, stackOk, hr.fget fun hm => (hl _ hm).2 st rfl]
  · rw [scrubbing, scrubbing, hhub _ (by decide)]

theorem sameRanges_of_regs {s t : State} (hcab : t.cab = s.cab) (hbusy : t.busyParts = s.busyParts)
    (hcompute : t.computeReset = s.computeReset) (hr : t.regs = s.regs) : SameRanges s t :=
  sameRanges_of_kept (l := []) hcab hbusy hcompute (.of_regs hr) fun _ h => nomatch h

theorem offService_granRegs : OffService granRegs := by
  intro o ho
  obtain ⟨k, -, rfl⟩ := List.mem_map.1 ho
  refine ⟨?_, fun st => ?_⟩ <;> simp only [memB, oMEM_GRANULES, oMEM_STATUS] <;> omega

section
variable {s t : State} (h : SameRanges s t)
include h

theorem SameRanges.fenceStatus (a n : Nat) : fenceStatus a n t = fenceStatus a n s := by
  simp only [Machine.fenceStatus, h.cluster, h.stack]

theorem SameRanges.drainStatus (a n : Nat) : drainStatus a n t = drainStatus a n s := by
  simp only [Machine.drainStatus, ownersIn_congr h.cab, h.scrub, h.busy, h.compute]

theorem SameRanges.rangeStatus (w : Who) (a n : Nat) : rangeStatus w a n t = rangeStatus w a n s := by
  rw [Machine.rangeStatus, Machine.rangeStatus, reachStatus_congr h.cab, h.fenceStatus, h.drainStatus]

theorem SameRanges.memOpen (a n : Nat) : memOpen a n t = memOpen a n s := by
  rw [Machine.memOpen, Machine.memOpen, h.fenceStatus, h.drainStatus]

theorem SameRanges.syncStatus (p a : Nat) : syncStatus p a t = syncStatus p a s := by
  rw [Machine.syncStatus, Machine.syncStatus, h.rangeStatus]

end

theorem inSink_of_cab {s t : State} (h : t.cab = s.cab) (a n : Nat) : inSink a n t = inSink a n s := by
  rw [inSink, inSink, h]

theorem isUE_of_ecc {s t : State} (h : t.ecc = s.ecc) (a : Nat) : isUE a t = isUE a s := by rw [isUE, isUE, h]

theorem memGet_of_mem {s t : State} (h : t.mem = s.mem) (a : Nat) : memGet a t = memGet a s := by rw [memGet, memGet, h]

theorem memBytes_of_mem {s t : State} (h : t.mem = s.mem) (a n : Nat) : memBytes a n t = memBytes a n s := by
  simp only [memBytes, memGet_of_mem h]

end Sys2Proof.Machine
end

section
/-! SUPPORT. A bundle of one control operation (R95 to R97): on a core that may issue it stops the program, waits or issues,
as the condition of its operation says, and an issue changes the core's own registers and counters alone. -/

namespace Sys2Proof.Machine

/-! The control word. -/

theorem bitsOf_ctrlWord_cop {cop arg : Nat} (hc : cop < 16) (ha : arg < 2 ^ 39) : bitsOf (ctrlWord cop arg) 63 60 = cop := by
  unfold bitsOf ctrlWord
  omega

theorem bitsOf_ctrlWord_arg {cop arg : Nat} (ha : arg < 2 ^ 39) : bitsOf (ctrlWord cop arg) 38 0 = arg := by
  unfold bitsOf ctrlWord
  omega

theorem bitOf_ctrlWord_wait {cop arg : Nat} (ha : arg < 2 ^ 39) : bitOf (ctrlWord cop arg) 59 = false := by
  unfold bitOf ctrlWord
  rw [beq_eq_false_iff_ne]
  omega

/-! The registers of a core. -/

theorem coreB_lt {c : Nat} (h : c < 256) : coreB c < 0x02000000 - 0x8000 := by unfold coreB dieWin; omega

/-- The registers of the cores lie apart from the counts of granules. -/
theorem coreReg_not_mem_granRegs {c o : Nat} (hc : c < 256) (ho : o < 0x8000) : coreB c + o ∉ granRegs := by
  intro h
  obtain ⟨k, -, hk⟩ := List.mem_map.1 h
  have hlt := coreB_lt hc
  simp only [memB, oMEM_GRANULES] at hk
  omega

theorem coreB_ne {c d o p : Nat} (ho : o < 0x8000) (hp : p < 0x8000) (h : o ≠ p) : coreB c + o ≠ coreB d + p := by
  unfold coreB dieWin
  omega

/-! Issue. -/

/-- The core has counted its bundle and is in RUN (R97, R122). -/
def begun (c : Nat) (s : State) : State :=
  countEvt (ctrCore c) 0x10 1 (fadd (coreB c) fCORE_PROGRESS_BUNDLES 1 (setProgState c 1 s))

/-- The second state differs from the first in its registers and counters alone. -/
def RegsPerf (s t : State) : Prop := t = { s with regs := t.regs, perf := t.perf }

theorem RegsPerf.trans {s t u : State} (h : RegsPerf s t) (k : RegsPerf t u) : RegsPerf s u := by
  unfold RegsPerf at *
  rw [k, h]

theorem regsPerf_fset (b : Nat) (f : Fld) (v : Nat) (s : State) : RegsPerf s (fset b f v s) := rfl

theorem PerfOnly.regsPerf {s t : State} (h : PerfOnly s t) : RegsPerf s t := by
  unfold PerfOnly at h
  unfold RegsPerf
  rw [h]

theorem regsPerf_begun (c : Nat) (s : State) : RegsPerf s (begun c s) :=
  ((regsPerf_fset _ _ _ s).trans (regsPerf_fset _ _ _ _)).trans (perfOnly_countEvt _ _ _ _).regsPerf

theorem regs_begun (c : Nat) (s : State) :
    (begun c s).regs = (fadd (coreB c) fCORE_PROGRESS_BUNDLES 1 (setProgState c 1 s)).regs := (perfOnly_countEvt _ _ _ _).regs

theorem getCore_begun (c d : Nat) (s : State) : getCore d (begun c s) = getCore d s :=
  ((quiet_getCore d).countEvt _ _ _ _).trans (((quiet_getCore d).fset _ _ _ _).trans ((quiet_getCore d).fset _ _ _ s))

/-- A bundle has issued: it counts, the core is in RUN, and the next bundle index stands in PC. -/
theorem issued_of_regs {c v : Nat} {l : List Nat} {s u t : State} (hc : c < 256) (hl : ∀ o ∈ l, o ∈ granRegs)
    (hu : RegsKept l s u) (ht : t.regs = (setPc c v (begun c u)).regs) : Issued c v l s t := by
  have hfree : ∀ o < 0x8000, coreB c + o ∉ l := fun o ho hm => coreReg_not_mem_granRegs hc ho (hl _ hm)
  have hreg : ∀ f : Fld, fget (coreB c) f t = fget (coreB c) f (setPc c v (begun c u)) := fun f => fget_congr ht _ f
  have hbegun : ∀ f : Fld, fget (coreB c) f (begun c u) =
      fget (coreB c) f (fadd (coreB c) fCORE_PROGRESS_BUNDLES 1 (setProgState c 1 u)) := fun f => fget_congr (regs_begun c u) _ f
  have hstatus : ∀ f : Fld, f.off = oCORE_PROG_STATUS → fget (coreB c) f u = fget (coreB c) f s := fun f hf =>
    hu.fget (by rw [hf]; exact hfree _ (by decide))
  have hpc : ∀ f : Fld, f.Apart fCORE_PROG_STATUS_PC → fget (coreB c) f t =
      fget (coreB c) f (fadd (coreB c) fCORE_PROGRESS_BUNDLES 1 (setProgState c 1 u)) := fun f hf =>
    (hreg f).trans ((fget_fset_apart _ (by decide) hf _ _).trans (hbegun f))
  refine ⟨?_, ?_, ?_, ?_, ?_⟩
  · exact (hreg _).trans (fget_fset_same _ (by decide) _ _)
  · rw [hpc _ (by decide), fadd, fget_fset_apart _ (by decide) (by decide)]
    exact fget_fset_same _ (by decide) 1 u
  · rw [hpc _ (by decide), fadd, fget_fset_apart _ (by decide) (by decide), setProgState,
      fget_fset_apart _ (by decide) (by decide), hstatus _ rfl]
  · rw [hpc _ (by decide), fadd, fget_fset_same _ (by decide), setProgState, fget_fset_apart _ (by decide) (by decide),
      hu.fget (hfree _ (by decide))]
    rfl
  · have hst : coreB c + oCORE_PROG_STATUS ∈ (coreB c + oCORE_PROG_STATUS) :: (coreB c + oCORE_PROGRESS) :: l := .head _
    have hpr : coreB c + oCORE_PROGRESS ∈ (coreB c + oCORE_PROG_STATUS) :: (coreB c + oCORE_PROGRESS) :: l := .tail _ (.head _)
    refine .trans (hu.mono fun o ho => .tail _ (.tail _ ho)) (.trans ?_ (.of_regs ht))
    refine .trans (.trans ?_ (.of_regs (regs_begun c u))) (regsKept_fset (f := fCORE_PROG_STATUS_PC) hst _ _)
    exact (regsKept_fset (f := fCORE_PROG_STATUS_STATE) hst 1 u).trans (regsKept_fset (f := fCORE_PROGRESS_BUNDLES) hpr _ _)

theorem forAll_nil {α : Type} (f : α → State → State) (s : State) : forAll [] f s = s := by rw [forAll, List.foldl_nil]

theorem firstBad_nil (c : Nat) (r : RunProg) (s : State) : firstBad c [] r s = none := by
  rw [firstBad, List.map_nil, List.find?_nil]

/-! The three ways of a control operation. -/

section
variable {c cop arg : Nat} {r : RunProg} {s : State} (hi : issuing c s = some r) (hc : cop < 16) (ha : arg < 2 ^ 39)
include hi hc ha

/-- A bundle of one control operation waits for no counter and for no engine: the condition of the operation decides. -/
theorem ctrlRow_of_issuing : ctrlRow c cop arg s =
    let g := ctrlCond c (progPc c s) r cop arg s
    if g.1 ≠ stOK then stopProg c (progPc c s) 0 g.1 r s
    else if !g.2.1 then setProgState c 2 g.2.2
    else ctrlEffect c (progPc c s) r cop arg ((getCore c s).q.map List.length) (begun c g.2.2) := by
  have hgo : (lecOk c (ctrlWord cop arg) s && roomOk c [] s) = true := by
    rw [lecOk, bitOf_ctrlWord_wait ha]
    rfl
  rw [ctrlRow, hi]
  show issueWith c r (ctrlWord cop arg) [] s = _
  rw [issueWith]
  simp only [hgo, bitsOf_ctrlWord_cop hc ha, bitsOf_ctrlWord_arg ha, firstBad_nil, forAll_nil, Bool.not_true,
    Bool.false_eq_true, if_false]
  rfl

theorem ctrlRow_stops {st : BitVec 8} {b : Bool} {u : State} (h : ctrlCond c (progPc c s) r cop arg s = (st, b, u))
    (hst : st ≠ stOK) : ctrlRow c cop arg s = stopProg c (progPc c s) 0 st r s := by
  rw [ctrlRow_of_issuing hi hc ha, h]
  exact if_pos hst

theorem ctrlRow_waits {u : State} (h : ctrlCond c (progPc c s) r cop arg s = (stOK, false, u)) :
    ctrlRow c cop arg s = setProgState c 2 u := by
  rw [ctrlRow_of_issuing hi hc ha, h]
  exact (if_neg (not_not.2 rfl)).trans (if_pos rfl)

theorem ctrlRow_issues {u : State} (h : ctrlCond c (progPc c s) r cop arg s = (stOK, true, u)) : ctrlRow c cop arg s =
    ctrlEffect c (progPc c s) r cop arg ((getCore c s).q.map List.length) (begun c u) := by
  rw [ctrlRow_of_issuing hi hc ha, h]
  exact (if_neg (not_not.2 rfl)).trans (if_neg Bool.false_ne_true)

end

/-- An operation whose effect is the step to another bundle. -/
theorem setPc_begun_spec {c v : Nat} (hc : c < 256) (s : State) :
    Issued c v [] s (setPc c v (begun c s)) ∧ RegsPerf s (setPc c v (begun c s)) :=
  ⟨issued_of_regs hc (fun _ h => nomatch h) (.refl _ s) rfl, (regsPerf_begun c s).trans (regsPerf_fset _ _ _ _)⟩

/-- The second state differs from the first in its registers, counters and cores alone. -/
def CtrlOnly (s t : State) : Prop := t = { s with regs := t.regs, perf := t.perf, cores := t.cores }

theorem CtrlOnly.trans {s t u : State} (h : CtrlOnly s t) (k : CtrlOnly t u) : CtrlOnly s u := by
  unfold CtrlOnly at *
  rw [k, h]

theorem RegsPerf.ctrlOnly {s t : State} (h : RegsPerf s t) : CtrlOnly s t := by
  unfold RegsPerf at h
  unfold CtrlOnly
  rw [h]

theorem ctrlOnly_modCore (c : Nat) (f : Core → Core) (s : State) : CtrlOnly s (modCore c f s) := rfl

/-- An operation that changes the core that issues it, beside the step to another bundle. -/
theorem setPc_modCore_begun_spec {c v : Nat} (hc : c < 256) (f : Core → Core) (s : State) :
    let t := setPc c v (modCore c f (begun c s))
    Issued c v [] s t ∧ OtherCores c s t ∧ getCore c t = f (getCore c s) ∧
    CtrlOnly s t := by
  intro t
  have hget : ∀ d, getCore d t = getCore d (modCore c f (begun c s)) := fun d => (quiet_getCore d).fset _ _ _ _
  refine ⟨issued_of_regs hc (fun _ h => nomatch h) (.refl _ s) (regs_fset_congr (modCore_regs c f _) _ _ v), fun d hd => ?_, ?_, ?_⟩
  · rw [hget, getCore_modCore_ne hd, getCore_begun]
  · rw [hget, getCore_modCore_same, getCore_begun]
  · exact ((regsPerf_begun c s).ctrlOnly.trans (ctrlOnly_modCore c f _)).trans (regsPerf_fset _ _ _ _).ctrlOnly

end Sys2Proof.Machine
end

section
/-! SUPPORT. The registers that an access of memory can change whatever error marks it meets (R131, R138, R145): those of the
fault log and the ECC registers of the stores and of the stacks. The program and launch registers of a core are apart from them. -/

namespace Sys2Proof.Machine

/-- A register that no error mark changes. -/
structure EccApart (o : Nat) : Prop where
  log   : o ∉ logRegs
  store : ∀ a, ∀ p ∈ [(storeRegs a).2.1.1.bit.off, (storeRegs a).2.1.1.cnt.off, (storeRegs a).2.1.2.1.bit.off,
    (storeRegs a).2.1.2.1.cnt.off, (storeRegs a).2.1.2.2.1.bit.off, (storeRegs a).2.1.2.2.1.cnt.off,
    (storeRegs a).2.1.2.2.2.off], o ≠ (storeRegs a).1 + p
  stack : ∀ st, ∀ p < 0x10000, o ≠ memB st + p

theorem eccApart_core {c p : Nat} (hc : c < 256) (hp : p < 0x200) : EccApart (coreB c + p) := by
  have hlt := coreB_lt hc
  refine ⟨?_, fun a q hq => ?_, fun st q hq => ?_⟩
  · have hlog : ∀ o ∈ logRegs, o < 0x01000000 := by decide
    have hge := coreB_ge c
    exact fun h => absurd (hlog _ h) (by omega)
  · unfold storeRegs at hq ⊢
    by_cases ha : a < cluStoreB
    · simp only [if_pos ha] at hq ⊢
      have hq' : 0x200 ≤ q ∧ q < 0x8000 := by
        revert q
        decide
      exact coreB_ne (by omega) hq'.2 (by omega)
    · simp only [if_neg ha] at hq ⊢
      have hq' : q < 0x8000 := by
        revert q
        decide
      unfold coreB cluB dieWin
      omega
  · unfold memB
    omega

section
variable {o : Nat} (h : EccApart o)
include h

theorem regGet_softFault (code source info0 info1 : Nat) (s : State) :
    regGet o (softFault code source info0 info1 s) = regGet o s := by
  have hlog : ∀ parts, regGet o (logFault code source parts info0 info1 s) = regGet o s := fun parts =>
    regsKept_logFaultAt _ _ _ _ _ _ s o h.log
  unfold softFault collected
  split
  · exact hlog _
  · exact ite_view (hlog _) rfl

theorem regGet_noteCE (a : Nat) (s : State) : regGet o (noteCE a s) = regGet o s := by
  unfold noteCE
  refine ite_view rfl ((regGet_softFault h _ _ _ _ _).trans (regGet_evt_ne (h.store a _ ?_) (h.store a _ ?_) s)) <;> simp

theorem regGet_notePartial (a : Nat) (s : State) : regGet o (notePartial a s) = regGet o s := by
  unfold notePartial
  refine (regGet_softFault h _ _ _ _ _).trans (regGet_evt_ne (h.store a _ ?_) (h.store a _ ?_) s) <;> simp

theorem regGet_noteParity (a : Nat) (s : State) : regGet o (noteParity a s) = regGet o s :=
  (regGet_softFault h _ _ _ _ _).trans (regGet_evt_ne (h.stack _ _ (by decide)) (h.stack _ _ (by decide)) s)

theorem regGet_noteUE (a : Nat) (s : State) : regGet o (noteUE a s) = regGet o s := by
  unfold noteUE
  refine ite_view ((regGet_softFault h _ _ _ _ _).trans ?_) ((regGet_softFault h _ _ _ _ _).trans ?_)
  · rw [regGet_fset_ne (h.stack _ _ (by decide)), regGet_fset_ne (h.stack _ _ (by decide)),
      regGet_evt_ne (h.stack _ _ (by decide)) (h.stack _ _ (by decide))]
  · rw [regGet_fset_ne (h.store a _ (by simp)), regGet_evt_ne (h.store a _ (by simp)) (h.store a _ (by simp))]

theorem regGet_granuleMark (c : Nat × Nat) (s : State) : regGet o (granuleMark c s) = regGet o s := by
  unfold granuleMark
  refine ite_view (regGet_noteUE h _ s) (ite_view ?_ (ite_view ?_ (regGet_noteCE h _ s)))
  · exact regGet_noteParity h _ s
  · exact (regGet_noteUE h _ _).trans (regGet_noteParity h _ s)

/-- The marks that a read meets change no register apart from them. -/
theorem regGet_noteMarks (l : Tbl Nat) (s : State) : regGet o (noteMarks l s) = regGet o s :=
by
  refine forAll_view (regGet o) _ (fun c u => ?_) l s
  split
  · exact regGet_granuleMark h c u
  · split
    · exact regGet_noteUE h _ u
    · exact regGet_noteCE h _ u

theorem regGet_readAll (hg : o ∉ granRegs) (a n : Nat) (s : State) : regGet o (readAll a n s).1 = regGet o s :=
  (regGet_noteMarks h _ _).trans (regsKept_noteAccess false a n s o hg)

theorem regGet_writeMark (a n : Nat) (old : Tbl Byte) (c : Nat × Nat) (s : State) :
    regGet o (writeMark a n old c s) = regGet o s := by
  have hpar : ∀ b : Bool, regGet o (if b = true then noteParity c.1 s else s) = regGet o s := fun _ =>
    ite_view (regGet_noteParity h _ s) rfl
  unfold writeMark
  exact ite_view (hpar _) (ite_view (ite_view (hpar _) ((regGet_notePartial h _ _).trans (hpar _)))
    ((regGet_noteCE h _ _).trans (hpar _)))

omit h in
theorem regGet_raiseVec (ho : o < hostB) (f v : Nat) (s : State) : regGet o (raiseVec f v s) = regGet o s := by
  unfold raiseVec
  exact ite_view (regGet_raiseMsix o f v s) (regGet_faddSat_ne (by simp only [fDeniedMsix]; omega) 1 s)

omit h in
theorem regGet_syncArm (ho : o < hostB) (a : Nat) (s : State) : regGet o (syncArm a s) = regGet o s := by
  unfold syncArm
  exact ite_view (ite_view (regGet_raiseVec ho _ _ _) rfl) rfl

/-- A write of memory changes no register but those of its marks, of the granules moved and of vectors that are dropped. -/
theorem regGet_memStore (hg : o ∉ granRegs) (ho : o < hostB) (a n : Nat) (sl : Tbl Byte) (s : State) :
    regGet o (memStore a n sl s) = regGet o s := by
  have hput : regGet o (memPut a n sl s) = regGet o s := by
    unfold memPut
    refine ite_view rfl ((forAll_view (regGet o) _ (fun c u => regGet_writeMark h a n s.mem c u) _ _).trans ?_)
    exact regsKept_noteAccess true a n s o hg
  unfold memStore
  exact (forAll_view (regGet o) _ (fun b u => regGet_syncArm ho b u) _ _).trans hput

end

end Sys2Proof.Machine
end

section
/-! Settles O14: the control operations that issue (R97). -/

namespace Sys2Proof.Machine

/-! The reading of a word, and a wait on it. -/

/-- The second state differs from the first in its registers, counters and channels alone. -/
def AccessOnly (s t : State) : Prop := t = { s with regs := t.regs, perf := t.perf, chans := t.chans }

theorem AccessOnly.trans {s t u : State} (h : AccessOnly s t) (k : AccessOnly t u) : AccessOnly s u := by
  unfold AccessOnly at *
  rw [k, h]

theorem RegsPerf.accessOnly {s t : State} (h : RegsPerf s t) : AccessOnly s t := by
  unfold RegsPerf at h
  unfold AccessOnly
  rw [h]

theorem accessOnly_noteChannels (a n : Nat) (s : State) : AccessOnly s (noteChannels a n s) := by
  have hset : ∀ (u : State) v, AccessOnly u { u with chans := v } := fun _ _ => rfl
  exact forAll_keeps (AccessOnly s) _ (fun _ u hu => forAll_keeps (AccessOnly s) _ (fun _ _ hv => hv.trans (hset _ _)) _ u hu) _ s rfl

/-- A read or a write of memory counts, and ends the idle time of its channels; it changes nothing else. -/
theorem accessOnly_noteAccess (w : Bool) (a n : Nat) (s : State) : AccessOnly s (noteAccess w a n s) := by
  have hcount : ∀ b code m u, AccessOnly u (countEvt b code m u) := fun b code m u => (perfOnly_countEvt b code m u).regsPerf.accessOnly
  have hset : ∀ o v u, AccessOnly u (regSet o v u) := fun _ _ _ => rfl
  unfold noteAccess
  refine forAll_keeps (AccessOnly s) _ (fun _ _ hu => hu.trans (hcount _ _ _ _)) _ _ ?_
  exact forAll_keeps (AccessOnly s) _ (fun _ _ hu => (hu.trans (hset _ _ _)).trans (hcount _ _ _ _)) _ _ (accessOnly_noteChannels a n s)

section
variable {w : Waiter} {s : State}

/-- The waiter stands for the same wait. -/
def sameWait (w x : Waiter) : Bool := x.isCore == w.isCore && x.id == w.id && x.idx == w.idx

theorem waitSync_eq (w : Waiter) (s : State) : waitSync w s =
    match s.waiters.find? (sameWait w) with
    | some x => if x.woken then (true, { s with waiters := s.waiters.filter fun y => !sameWait w y }) else (false, s)
    | none =>
      let r := readAll w.addr 4 s
      if !r.2 && reaches32 (memW w.addr s) w.target then (true, r.1)
      else (false, { r.1 with waiters := s.waiters ++ [w] }) := rfl

theorem waitSync_woken {x : Waiter} (h : s.waiters.find? (sameWait w) = some x) (hx : x.woken = true) :
    waitSync w s = (true, { s with waiters := s.waiters.filter fun y => !sameWait w y }) := by
  rw [waitSync_eq, h]
  exact if_pos hx

theorem waitSync_held {x : Waiter} (h : s.waiters.find? (sameWait w) = some x) (hx : x.woken = false) : waitSync w s = (false, s) := by
  rw [waitSync_eq, h]
  exact if_neg (by simp [hx])

theorem waitSync_new (h : ∀ x ∈ s.waiters, sameWait w x = false) : waitSync w s =
    if !(readAll w.addr 4 s).2 && reaches32 (memW w.addr s) w.target then (true, (readAll w.addr 4 s).1)
    else (false, { (readAll w.addr 4 s).1 with waiters := s.waiters ++ [w] }) := by
  have hnone : s.waiters.find? (sameWait w) = none := List.find?_eq_none.2 fun x hx => by simp [h x hx]
  rw [waitSync_eq, hnone]

/-- A wait on a word without marks whose value reaches the target goes on at once. -/
theorem waitSync_reached (h : ∀ x ∈ s.waiters, sameWait w x = false) (hm : marksIn w.addr 4 s = [])
    (hr : reaches32 (memW w.addr s) w.target = true) : waitSync w s = (true, noteAccess false w.addr 4 s) := by
  rw [waitSync_new h, readAll_of_clean hm]
  exact if_pos (by simp [hr])

end

/-! The operations. -/

theorem slotArg_lt (slot : Fin 128) (v : BitVec 32) : slot.val * 2 ^ 32 + v.toNat < 2 ^ 39 := by
  have := slot.isLt
  have := v.isLt
  omega

theorem bitsOf_slotArg_slot (slot : Fin 128) (v : BitVec 32) : bitsOf (slot.val * 2 ^ 32 + v.toNat) 38 32 = slot.val := by
  have := slot.isLt
  have := v.isLt
  unfold bitsOf
  omega

theorem bitsOf_slotArg_value (slot : Fin 128) (v : BitVec 32) : BitVec.ofNat 32 (bitsOf (slot.val * 2 ^ 32 + v.toNat) 31 0) = v := by
  have hv : bitsOf (slot.val * 2 ^ 32 + v.toNat) 31 0 = v.toNat := by
    have := v.isLt
    unfold bitsOf
    omega
  rw [hv, BitVec.ofNat_toNat, BitVec.setWidth_eq]

/-- The command answers a state of which P holds. -/
theorem goes_of_eq {i : Instr} {s t u : State} {P : State → Prop} (he : exec i s = .next u) (hu : u = t) (hp : P t) : Goes i s P :=
  ⟨t, he.trans (congrArg _ hu), hp⟩

/-- The effect of an operation that only steps to the next bundle. -/
theorem ctrlEffect_next {cop : Nat} (h : cop ∈ [0, 3, 5, 7]) (c pc arg : Nat) (r : RunProg) (ahead : List Nat) (s : State) :
    ctrlEffect c pc r cop arg ahead s = setPc c (pc + 1) s := by
  simp only [List.mem_cons, List.not_mem_nil, or_false] at h
  obtain rfl | rfl | rfl | rfl := h <;> rfl

theorem ctrlEffect_setlc (c pc arg : Nat) (r : RunProg) (ahead : List Nat) (s : State) :
    ctrlEffect c pc r 1 arg ahead s = setPc c (pc + 1) (setLoop c (bitsOf arg 38 36) (bitsOf arg 19 0) s) := rfl

theorem ctrlEffect_loopend (c pc arg : Nat) (r : RunProg) (ahead : List Nat) (s : State) :
    ctrlEffect c pc r 2 arg ahead s = loopEnd c (bitsOf arg 38 36) (bitsOf arg 35 20) pc s := rfl

section
variable {c : Fin 256} {r : RunProg} {s : State} (hi : issuing c.val s = some r)
include hi

/-- An operation whose condition holds and whose effect is the step to the next bundle. -/
theorem goes_next_bundle {i : Instr} {cop arg : Nat} (he : exec i s = .next (ctrlRow c.val cop arg s)) (hc : cop ∈ [0, 5, 7])
    (ha : arg < 2 ^ 39) (h : ctrlCond c.val (progPc c.val s) r cop arg s = (stOK, true, s)) : Goes i s fun t =>
      Issued c.val (progPc c.val s + 1) [] s t ∧ t = { s with regs := t.regs, perf := t.perf } := by
  have hcop : cop < 16 ∧ cop ∈ [0, 3, 5, 7] := by
    clear he h
    revert cop
    decide
  have hrow := (ctrlRow_issues hi hcop.1 ha h).trans (ctrlEffect_next hcop.2 _ _ _ _ _ _)
  exact goes_of_eq he hrow (setPc_begun_spec c.isLt s)

theorem goes_setlc (lc : Fin 8) (n : BitVec 20) : Goes (.setlc c lc n) s fun t =>
    Issued c.val (progPc c.val s + 1) [] s t ∧ OtherCores c.val s t ∧
    getCore c.val t = { getCore c.val s with lc := modAt lc.val (fun _ => n) (getCore c.val s).lc } ∧
    t = { s with regs := t.regs, perf := t.perf, cores := t.cores } := by
  have hlc := lc.isLt
  have hn := n.isLt
  have hbits : bitsOf (lc.val * 2 ^ 36 + n.toNat) 38 36 = lc.val ∧ bitsOf (lc.val * 2 ^ 36 + n.toNat) 19 0 = n.toNat := by
    unfold bitsOf
    omega
  have hrow : ctrlRow c.val 1 (lc.val * 2 ^ 36 + n.toNat) s = setPc c.val (progPc c.val s + 1)
      (modCore c.val (fun k => { k with lc := modAt lc.val (fun _ => n) k.lc }) (begun c.val s)) := by
    rw [ctrlRow_issues hi (by decide) (by omega) rfl, ctrlEffect_setlc, setLoop, hbits.1, hbits.2, BitVec.ofNat_toNat,
      BitVec.setWidth_eq]
  exact goes_of_eq rfl hrow (setPc_modCore_begun_spec c.isLt _ s)

theorem ctrlRow_loopend (lc : Fin 8) (target : BitVec 16) : ctrlRow c.val 2 (lc.val * 2 ^ 36 + target.toNat * 2 ^ 20) s =
    loopEnd c.val lc.val target.toNat (progPc c.val s) (begun c.val s) := by
  have hlc := lc.isLt
  have ht := target.isLt
  have hbits : bitsOf (lc.val * 2 ^ 36 + target.toNat * 2 ^ 20) 38 36 = lc.val ∧
      bitsOf (lc.val * 2 ^ 36 + target.toNat * 2 ^ 20) 35 20 = target.toNat := by
    unfold bitsOf
    omega
  rw [ctrlRow_issues hi (by decide) (by omega) rfl, ctrlEffect_loopend, hbits.1, hbits.2]

theorem goes_loopend_done {lc : Fin 8} (h : (getCore c.val s).lc.getD lc.val 0 = 0) (target : BitVec 16) :
    Goes (.loopend c lc target) s fun t =>
      Issued c.val (progPc c.val s + 1) [] s t ∧ t = { s with regs := t.regs, perf := t.perf } := by
  refine goes_of_eq rfl ((ctrlRow_loopend hi lc target).trans (if_pos ?_)) (setPc_begun_spec c.isLt s)
  rw [getCore_begun]
  exact h

theorem goes_loopend_again {lc : Fin 8} (h : (getCore c.val s).lc.getD lc.val 0 ≠ 0) (target : BitVec 16) :
    Goes (.loopend c lc target) s fun t =>
      Issued c.val target.toNat [] s t ∧ OtherCores c.val s t ∧
      getCore c.val t = { getCore c.val s with lc := modAt lc.val (fun x => x - 1) (getCore c.val s).lc } ∧
      t = { s with regs := t.regs, perf := t.perf, cores := t.cores } := by
  refine goes_of_eq rfl ((ctrlRow_loopend hi lc target).trans (if_neg ?_)) (setPc_modCore_begun_spec c.isLt _ s)
  rw [getCore_begun]
  exact h

variable {slot : Fin 128} {target : BitVec 32}

/-- The wait that WAIT_SYNC of the bundle at PC of a core asks for. -/
def coreWait (c : Nat) (r : RunProg) (slot : Nat) (target : Word) (s : State) : Waiter :=
  ⟨true, c, progPc c s, syncSlot r slot s, target, false⟩

omit hi in
theorem ctrlCond_waitSync_eq (slot : Fin 128) (target : BitVec 32) :
    ctrlCond c.val (progPc c.val s) r 3 (slot.val * 2 ^ 32 + target.toNat) s =
      if slotStatus c.val (syncSlot r slot.val s) s ≠ stOK then (slotStatus c.val (syncSlot r slot.val s) s, false, s)
      else (stOK, waitSync (coreWait c.val r slot.val target s) s) := by
  have hcond : ctrlCond c.val (progPc c.val s) r 3 (slot.val * 2 ^ 32 + target.toNat) s =
      if slotStatus c.val (syncSlot r (bitsOf (slot.val * 2 ^ 32 + target.toNat) 38 32) s) s ≠ stOK then
        (slotStatus c.val (syncSlot r (bitsOf (slot.val * 2 ^ 32 + target.toNat) 38 32) s) s, false, s)
      else (stOK, waitSync ⟨true, c.val, progPc c.val s, syncSlot r (bitsOf (slot.val * 2 ^ 32 + target.toNat) 38 32) s,
        BitVec.ofNat 32 (bitsOf (slot.val * 2 ^ 32 + target.toNat) 31 0), false⟩ s) := rfl
  rw [hcond, bitsOf_slotArg_slot, bitsOf_slotArg_value]
  rfl

omit hi in
theorem ctrlCond_waitSync (hok : slotStatus c.val (syncSlot r slot.val s) s = stOK) :
    ctrlCond c.val (progPc c.val s) r 3 (slot.val * 2 ^ 32 + target.toNat) s =
      (stOK, waitSync (coreWait c.val r slot.val target s) s) := (ctrlCond_waitSync_eq slot target).trans (if_neg (not_not.2 hok))

theorem ctrlRow_waitSync {u : State} (hok : slotStatus c.val (syncSlot r slot.val s) s = stOK)
    (hw : waitSync (coreWait c.val r slot.val target s) s = (true, u)) :
    ctrlRow c.val 3 (slot.val * 2 ^ 32 + target.toNat) s = setPc c.val (progPc c.val s + 1) (begun c.val u) := by
  rw [ctrlRow_issues hi (by decide) (slotArg_lt slot target) ((ctrlCond_waitSync hok).trans (by rw [hw])),
    ctrlEffect_next (by decide)]

theorem goes_waitSync_reached (hok : slotStatus c.val (syncSlot r slot.val s) s = stOK)
    (hnew : ∀ w ∈ s.waiters, (w.isCore == true && w.id == c.val && w.idx == progPc c.val s) = false)
    (hm : marksIn (syncSlot r slot.val s) 4 s = []) (hr : reaches32 (memW (syncSlot r slot.val s) s) target = true) :
    Goes (.waitSync c slot target) s fun t =>
      Issued c.val (progPc c.val s + 1) granRegs s t ∧ t = { s with regs := t.regs, perf := t.perf, chans := t.chans } := by
  have hw := waitSync_reached (w := coreWait c.val r slot.val target s) hnew hm hr
  refine goes_of_eq rfl (ctrlRow_waitSync hi hok hw) ⟨issued_of_regs c.isLt (fun _ h => h) (regsKept_noteAccess _ _ _ s) rfl, ?_⟩
  exact (accessOnly_noteAccess _ _ _ s).trans (setPc_begun_spec c.isLt _).2.accessOnly

theorem goes_waitSync_woken (hok : slotStatus c.val (syncSlot r slot.val s) s = stOK) {w : Waiter}
    (hf : s.waiters.find? (fun w => w.isCore == true && w.id == c.val && w.idx == progPc c.val s) = some w) (hw : w.woken = true) :
    Goes (.waitSync c slot target) s fun t =>
      Issued c.val (progPc c.val s + 1) [] s t ∧
      t = { s with regs := t.regs, perf := t.perf,
                   waiters := s.waiters.filter fun y => !(y.isCore == true && y.id == c.val && y.idx == progPc c.val s) } := by
  have hsync := waitSync_woken (w := coreWait c.val r slot.val target s) hf hw
  have hkept : ∀ v, RegsKept [] s { s with waiters := v } := fun _ => .of_regs rfl
  exact goes_of_eq rfl (ctrlRow_waitSync hi hok hsync)
    ⟨issued_of_regs c.isLt (fun _ h => nomatch h) (hkept _) rfl, (setPc_begun_spec c.isLt _).2⟩

end

/-- Settles O14: every operation whose condition holds issues, and its effect is the step to another bundle beside that on its
loop counter or its wait. -/
theorem controlOperations : Obligations.ControlOperations := by
  intro c r s hi
  refine ⟨goes_next_bundle hi rfl (by decide) (by decide) rfl, goes_setlc hi, fun lc target => ⟨fun h => goes_loopend_done hi h target,
    fun h => goes_loopend_again hi h target⟩, fun slot target hok => ⟨goes_waitSync_reached hi hok, fun w => goes_waitSync_woken hi hok⟩,
    fun hidle => goes_next_bundle hi (cop := 5) rfl (by decide) (by decide) ?_, fun offset hp => ?_⟩
  · show (failIf false stFORMAT, enginesIdle c.val s, s) = _
    rw [hidle]
    rfl
  · refine goes_next_bundle hi (cop := 7) rfl (by decide) offset.isLt ?_
    show (stOK, reaches48 s.clk.p (r.t0 + BitVec.ofNat 48 offset.toNat), s) = _
    rw [BitVec.ofNat_toNat, hp]

end Sys2Proof.Machine
end

section
/-! Settles O15: the control operations that wait, and those of a sync slot that cannot be used (R96, R97, R103). -/

namespace Sys2Proof.Machine

/-- A field of a core's registers keeps its value under a write of a field of any core's that has no bit in common with it. -/
theorem fget_fset_core {c d : Nat} {f g : Fld} (hg : g.Ok) (hfo : f.off < 0x8000) (hgo : g.off < 0x8000) (h : f.Apart g)
    (v : Nat) (s : State) : fget (coreB c) f (fset (coreB d) g v s) = fget (coreB c) f s := by
  by_cases hcd : coreB c = coreB d
  · rw [hcd]
    exact fget_fset_apart _ hg h v s
  · refine fget_fset_ne ?_ v s
    by_cases ho : f.off = g.off
    · omega
    · exact coreB_ne hfo hgo ho

/-! Waiting. -/

/-- A core that waits has changed its state alone: it stays at its bundle. -/
theorem waits_setProgState {c : Nat} {s u : State} (h : regGet (coreB c + oCORE_PROG_STATUS) u = regGet (coreB c + oCORE_PROG_STATUS) s) :
    progPc c (setProgState c 2 u) = progPc c s ∧ fget (coreB c) fCORE_PROG_STATUS_STATE (setProgState c 2 u) = 2 := by
  refine ⟨(fget_fset_apart _ (by decide) (by decide) 2 u).trans ?_, fget_fset_same _ (by decide) 2 u⟩
  show bitsOf (regGet (coreB c + oCORE_PROG_STATUS) u).toNat _ _ = bitsOf (regGet (coreB c + oCORE_PROG_STATUS) s).toNat _ _
  rw [h]

section
variable {c : Fin 256} {r : RunProg} {s : State} (hi : issuing c.val s = some r)
include hi

/-- An operation whose condition does not hold, and that records no wait. -/
theorem goes_waits {i : Instr} {cop arg : Nat} (he : exec i s = .next (ctrlRow c.val cop arg s)) (hc : cop < 16)
    (ha : arg < 2 ^ 39) (h : ctrlCond c.val (progPc c.val s) r cop arg s = (stOK, false, s)) : Goes i s fun t =>
      (progPc c.val t = progPc c.val s ∧ fget (coreB c.val) fCORE_PROG_STATUS_STATE t = 2 ∧
        RegsKept [coreB c.val + oCORE_PROG_STATUS] s t) ∧ t = { s with regs := t.regs } := by
  obtain ⟨hpc, hstate⟩ := waits_setProgState (c := c.val) (u := s) rfl
  exact goes_of_eq he (ctrlRow_waits hi hc ha h)
    ⟨⟨hpc, hstate, regsKept_fset (f := fCORE_PROG_STATUS_STATE) (.head _) 2 s⟩, rfl⟩

variable {slot : Fin 128} {target : BitVec 32} (hok : slotStatus c.val (syncSlot r slot.val s) s = stOK)
include hok

theorem ctrlRow_waitSync_waits {u : State} (hw : waitSync (coreWait c.val r slot.val target s) s = (false, u)) :
    ctrlRow c.val 3 (slot.val * 2 ^ 32 + target.toNat) s = setProgState c.val 2 u :=
  ctrlRow_waits hi (by decide) (slotArg_lt slot target) ((ctrlCond_waitSync hok).trans (by rw [hw]))

theorem goes_waitSync_held {w : Waiter}
    (hf : s.waiters.find? (fun w => w.isCore == true && w.id == c.val && w.idx == progPc c.val s) = some w) (hw : w.woken = false) :
    Goes (.waitSync c slot target) s fun t =>
      (progPc c.val t = progPc c.val s ∧ fget (coreB c.val) fCORE_PROG_STATUS_STATE t = 2 ∧
        RegsKept [coreB c.val + oCORE_PROG_STATUS] s t) ∧ t = { s with regs := t.regs } :=
  goes_waits hi rfl (by decide) (slotArg_lt slot target) ((ctrlCond_waitSync hok).trans
    (by rw [waitSync_held (w := coreWait c.val r slot.val target s) hf hw]))

variable (hnew : ∀ w ∈ s.waiters, (w.isCore == true && w.id == c.val && w.idx == progPc c.val s) = false)
include hnew

/-- A wait that begins and does not go on at once is recorded. -/
theorem ctrlRow_waitSync_new (h : (!(readAll (syncSlot r slot.val s) 4 s).2 && reaches32 (memW (syncSlot r slot.val s) s) target) = false) :
    ctrlRow c.val 3 (slot.val * 2 ^ 32 + target.toNat) s = setProgState c.val 2
      { (readAll (syncSlot r slot.val s) 4 s).1 with
        waiters := s.waiters ++ [⟨true, c.val, progPc c.val s, syncSlot r slot.val s, target, false⟩] } :=
  ctrlRow_waitSync_waits hi hok ((waitSync_new (w := coreWait c.val r slot.val target s) hnew).trans (if_neg (Bool.not_eq_true _ ▸ h)))

theorem goes_waitSync_below (hm : marksIn (syncSlot r slot.val s) 4 s = [])
    (hr : reaches32 (memW (syncSlot r slot.val s) s) target = false) : Goes (.waitSync c slot target) s fun t =>
      progPc c.val t = progPc c.val s ∧ fget (coreB c.val) fCORE_PROG_STATUS_STATE t = 2 ∧
      RegsKept ((coreB c.val + oCORE_PROG_STATUS) :: granRegs) s t ∧
      t = { s with regs := t.regs, perf := t.perf, chans := t.chans,
                   waiters := s.waiters ++ [⟨true, c.val, progPc c.val s, syncSlot r slot.val s, target, false⟩] } := by
  have hrow := ctrlRow_waitSync_new hi hok hnew (by rw [hr, Bool.and_false])
  rw [readAll_of_clean hm] at hrow
  have hkept := regsKept_noteAccess false (syncSlot r slot.val s) 4 s
  have honly := accessOnly_noteAccess false (syncSlot r slot.val s) 4 s
  revert hrow hkept honly
  generalize noteAccess false (syncSlot r slot.val s) 4 s = u
  intro hrow hkept honly
  have hreg : ∀ v, RegsKept granRegs s { u with waiters := v } := fun _ => hkept.trans (.of_regs rfl)
  obtain ⟨hpc, hstate⟩ := waits_setProgState (hreg _ _ (coreReg_not_mem_granRegs c.isLt (by decide)))
  refine goes_of_eq rfl hrow ⟨hpc, hstate, ?_, ?_⟩
  · exact ((hreg _).mono fun _ ho => .tail _ ho).trans (regsKept_fset (f := fCORE_PROG_STATUS_STATE) (.head _) 2 _)
  · unfold AccessOnly at honly
    rw [honly]
    rfl

theorem goes_waitSync_uncorrectable (h : (readAll (syncSlot r slot.val s) 4 s).2 = true) : Goes (.waitSync c slot target) s fun t =>
      progPc c.val t = progPc c.val s ∧ fget (coreB c.val) fCORE_PROG_STATUS_STATE t = 2 ∧ t.mem = s.mem ∧ t.cores = s.cores ∧
      t.waiters = s.waiters ++ [⟨true, c.val, progPc c.val s, syncSlot r slot.val s, target, false⟩] := by
  have hrow := ctrlRow_waitSync_new (target := target) hi hok hnew (by rw [h]; rfl)
  have hreg := regGet_readAll (eccApart_core (p := oCORE_PROG_STATUS) c.isLt (by decide))
    (coreReg_not_mem_granRegs c.isLt (by decide)) (syncSlot r slot.val s) 4 s
  have hmem : (readAll (syncSlot r slot.val s) 4 s).1.mem = s.mem := quiet_mem.readAll _ _ s
  have hcores : (readAll (syncSlot r slot.val s) 4 s).1.cores = s.cores := quiet_cores.readAll _ _ s
  revert hrow hreg hmem hcores
  generalize (readAll (syncSlot r slot.val s) 4 s).1 = u
  intro hrow hreg hmem hcores
  have hwaiters : ∀ v, RegsKept [] u { u with waiters := v } := fun _ => .of_regs rfl
  obtain ⟨hpc, hstate⟩ := waits_setProgState ((hwaiters _ _ List.not_mem_nil).trans hreg)
  exact goes_of_eq rfl hrow ⟨hpc, hstate, (fset_mem _ _ _ _).trans hmem, (fset_cores _ _ _ _).trans hcores, fset_waiters _ _ _ _⟩

end

/-! Stopping. -/

/-- A core takes its stop: it runs no further bundle. -/
def stopCore (k : Nat) (s : State) : State :=
  setProgState k 3 (modCore k (fun x => { x with run := x.run.map fun y => { y with stop := true } }) s)

/-- The stop of a core is recorded with its status and its bundle. -/
def faultNoted (c pc kind : Nat) (st : BitVec 8) (s : State) : State :=
  fset (coreB c) fCORE_PROG_FAULT_STATUS st.toNat (fset (coreB c) fCORE_PROG_FAULT_SLOT_KIND kind (fset (coreB c) fCORE_PROG_FAULT_PC pc s))

/-- The cores that a stop reaches. -/
def stoppedCores (c inst : Nat) (s : State) : List Nat :=
  c :: (s.insts.filter fun i => i.id == inst).flatMap fun i => i.running

theorem stopProg_view {β : Type} {φ : State → β} (hi : ∀ s v, φ { s with insts := v } = φ s) (hd : ∀ id s, φ (dropEntries id s) = φ s)
    (c pc kind : Nat) (st : BitVec 8) (r : RunProg) (s : State) : φ (stopProg c pc kind st r s) =
      φ (forAll (stoppedCores c r.inst (faultNoted c pc kind st s)) stopCore (faultNoted c pc kind st s)) :=
  (hi _ _).trans (hd _ _)

theorem regs_stopProg (c pc kind : Nat) (st : BitVec 8) (r : RunProg) (s : State) : (stopProg c pc kind st r s).regs =
    (forAll (stoppedCores c r.inst (faultNoted c pc kind st s)) stopCore (faultNoted c pc kind st s)).regs :=
  stopProg_view (φ := State.regs) (fun _ _ => rfl) (dropEntries_view (fun _ _ => rfl) fun _ _ => rfl) c pc kind st r s

theorem mem_stopCore (k : Nat) (s : State) : (stopCore k s).mem = s.mem :=
  (quiet_mem.fset _ _ _ _).trans (modCore_mem k _ s)

theorem mem_faultNoted (c pc kind : Nat) (st : BitVec 8) (s : State) : (faultNoted c pc kind st s).mem = s.mem :=
  (quiet_mem.fset _ _ _ _).trans ((quiet_mem.fset _ _ _ _).trans (quiet_mem.fset _ _ _ s))

theorem mem_stopProg (c pc kind : Nat) (st : BitVec 8) (r : RunProg) (s : State) : (stopProg c pc kind st r s).mem = s.mem :=
  (stopProg_view (φ := State.mem) (fun _ _ => rfl) (dropEntries_view (fun _ _ => rfl) fun _ _ => rfl) c pc kind st r s).trans
    ((forAll_view State.mem _ mem_stopCore _ _).trans (mem_faultNoted c pc kind st s))

theorem fget_stopCore {f : Fld} (hf : f.off < 0x8000) (h : f.Apart fCORE_PROG_STATUS_STATE) (c k : Nat) (s : State) :
    fget (coreB c) f (stopCore k s) = fget (coreB c) f s :=
  (fget_fset_core (by decide) hf (by decide) h 3 _).trans (fget_congr (modCore_regs k _ s) _ f)

/-- A core in STOPPED stays so while others are stopped. -/
theorem stopped_stopCore {c : Nat} (k : Nat) {s : State} (h : fget (coreB c) fCORE_PROG_STATUS_STATE s = 3) :
    fget (coreB c) fCORE_PROG_STATUS_STATE (stopCore k s) = 3 := by
  by_cases hk : coreB c = coreB k
  · rw [hk]
    exact fget_fset_same _ (by decide) 3 _
  · refine (fget_fset_ne (by omega) 3 _).trans ?_
    exact (fget_congr (modCore_regs k _ s) _ _).trans h

/-- A core that stops stays at its bundle, in STOPPED, with the status and the bundle in its fault register (R103). -/
theorem stopProg_spec (c pc kind : Nat) (st : BitVec 8) (r : RunProg) (s : State) :
    let t := stopProg c pc kind st r s
    progPc c t = progPc c s ∧ fget (coreB c) fCORE_PROG_STATUS_STATE t = 3 ∧
    fget (coreB c) fCORE_PROG_FAULT_STATUS t = st.toNat ∧ fget (coreB c) fCORE_PROG_FAULT_PC t = pc % 2 ^ 16 ∧ t.mem = s.mem := by
  intro t
  have hfld : ∀ f : Fld, f.off < 0x8000 → f.Apart fCORE_PROG_STATUS_STATE →
      fget (coreB c) f t = fget (coreB c) f (faultNoted c pc kind st s) := fun f hf ha =>
    (fget_congr (regs_stopProg c pc kind st r s) _ f).trans (forAll_view _ _ (fun k u => fget_stopCore hf ha c k u) _ _)
  refine ⟨?_, ?_, ?_, ?_, mem_stopProg c pc kind st r s⟩
  · refine (hfld _ (by decide) (by decide)).trans ?_
    rw [faultNoted, fget_fset_apart _ (by decide) (by decide), fget_fset_apart _ (by decide) (by decide),
      fget_fset_apart _ (by decide) (by decide)]
    rfl
  · refine (fget_congr (regs_stopProg c pc kind st r s) _ _).trans ?_
    rw [stoppedCores, forAll_cons]
    exact forAll_keeps (fun u => fget (coreB c) fCORE_PROG_STATUS_STATE u = 3) _ (fun k _ hu => stopped_stopCore k hu) _ _
      (fget_fset_same _ (by decide) 3 _)
  · refine (hfld _ (by decide) (by decide)).trans ((fget_fset_same _ (by decide) _ _).trans ?_)
    exact Nat.mod_eq_of_lt st.isLt
  · refine (hfld _ (by decide) (by decide)).trans ?_
    rw [faultNoted, fget_fset_apart _ (by decide) (by decide), fget_fset_apart _ (by decide) (by decide)]
    exact fget_fset_same _ (by decide) _ _

section
variable {c : Fin 256} {r : RunProg} {s : State} (hi : issuing c.val s = some r) {slot : Fin 128} {v : BitVec 32}
  (hst : slotStatus c.val (syncSlot r slot.val s) s ≠ stOK)
include hi hst

theorem goes_stops {i : Instr} {cop : Nat} {u : Bool × State}
    (he : exec i s = .next (ctrlRow c.val cop (slot.val * 2 ^ 32 + v.toNat) s)) (hc : cop < 16)
    (h : ctrlCond c.val (progPc c.val s) r cop (slot.val * 2 ^ 32 + v.toNat) s = (slotStatus c.val (syncSlot r slot.val s) s, u)) :
    Goes i s fun t => progPc c.val t = progPc c.val s ∧ fget (coreB c.val) fCORE_PROG_STATUS_STATE t = 3 ∧
      fget (coreB c.val) fCORE_PROG_FAULT_STATUS t = (slotStatus c.val (syncSlot r slot.val s) s).toNat ∧
      fget (coreB c.val) fCORE_PROG_FAULT_PC t = progPc c.val s ∧ t.mem = s.mem := by
  obtain ⟨hpc, hstate, hstatus, hfpc, hmem⟩ := stopProg_spec c.val (progPc c.val s) 0 (slotStatus c.val (syncSlot r slot.val s) s) r s
  refine goes_of_eq he (ctrlRow_stops hi hc (slotArg_lt slot v) h hst) ⟨hpc, hstate, hstatus, hfpc.trans ?_, hmem⟩
  exact Nat.mod_eq_of_lt (fget_lt _ fCORE_PROG_STATUS_PC s)

omit hi in
theorem ctrlCond_waitSync_fails : ctrlCond c.val (progPc c.val s) r 3 (slot.val * 2 ^ 32 + v.toNat) s =
    (slotStatus c.val (syncSlot r slot.val s) s, false, s) := (ctrlCond_waitSync_eq slot v).trans (if_pos hst)

end

/-- The condition of SIGNAL is the status of its slot alone. -/
theorem ctrlCond_signal (c : Nat) (r : RunProg) (slot : Fin 128) (v : BitVec 32) (s : State) :
    ctrlCond c (progPc c s) r 4 (slot.val * 2 ^ 32 + v.toNat) s = (slotStatus c (syncSlot r slot.val s) s, true, s) := by
  have hcond : ctrlCond c (progPc c s) r 4 (slot.val * 2 ^ 32 + v.toNat) s =
    (slotStatus c (syncSlot r (bitsOf (slot.val * 2 ^ 32 + v.toNat) 38 32) s) s, true, s) := rfl
  rw [hcond, bitsOf_slotArg_slot]

/-- Settles O15: an operation whose condition does not hold waits, and one of a slot that cannot be used stops the program. -/
theorem controlWaits : Obligations.ControlWaits := by
  intro c r s hi
  refine ⟨fun hbusy => ?_, fun offset hp => ?_, fun slot target hok => ⟨fun hnew => ⟨goes_waitSync_below hi hok hnew,
    goes_waitSync_uncorrectable hi hok hnew⟩, fun w => goes_waitSync_held hi hok⟩, fun slot v hst => ?_⟩
  · have hcond : ∀ cop ∈ [5, 6], ctrlCond c.val (progPc c.val s) r cop 0 s = (stOK, false, s) := by
      have h5 : ctrlCond c.val (progPc c.val s) r 5 0 s = (failIf false stFORMAT, enginesIdle c.val s, s) := rfl
      have h6 : ctrlCond c.val (progPc c.val s) r 6 0 s = (failIf false stFORMAT, enginesIdle c.val s, s) := rfl
      rw [hbusy] at h5 h6
      simpa using ⟨h5, h6⟩
    exact ⟨goes_waits hi rfl (by decide) (by decide) (hcond 5 (by decide)), goes_waits hi rfl (by decide) (by decide) (hcond 6 (by decide))⟩
  · refine goes_waits hi (cop := 7) rfl (by decide) offset.isLt ?_
    show (stOK, reaches48 s.clk.p (r.t0 + BitVec.ofNat 48 offset.toNat), s) = _
    rw [BitVec.ofNat_toNat, hp]
  · exact ⟨goes_stops hi hst (cop := 3) rfl (by decide) (ctrlCond_waitSync_fails hst),
      goes_stops hi hst (cop := 4) rfl (by decide) (ctrlCond_signal c.val r slot v s)⟩

end Sys2Proof.Machine
end

section
/-! Settles O17: SIGNAL and END of a core whose engines are idle (R97, R117). -/

namespace Sys2Proof.Machine

theorem run_of_issuing {c : Nat} {r : RunProg} {s : State} (h : issuing c s = some r) : (getCore c s).run = some r := by
  unfold issuing at h
  dsimp only at h
  split at h
  · exact nomatch h
  · split at h
    · exact nomatch h
    next hrun =>
      split at h
      · exact nomatch h
      · rw [hrun, h]

theorem syncSlot_of_progs {s t : State} (h : t.progs = s.progs) (r : RunProg) (i : Nat) : syncSlot r i t = syncSlot r i s := by
  rw [syncSlot, syncSlot, getSlot, getSlot, h]

theorem offService_core {c : Nat} (hc : c < 256) : OffService [coreB c + oCORE_PROG_STATUS, coreB c + oCORE_PROGRESS] := by
  have hge := coreB_ge c
  have hlt := coreB_lt hc
  intro o ho
  simp only [List.mem_cons, List.not_mem_nil, or_false, oCORE_PROG_STATUS, oCORE_PROGRESS] at ho
  refine ⟨by omega, fun st => ?_⟩
  simp only [memB, oMEM_STATUS]
  omega

theorem regsKept_begun (c : Nat) (s : State) : RegsKept [coreB c + oCORE_PROG_STATUS, coreB c + oCORE_PROGRESS] s (begun c s) := by
  refine .trans ?_ (.of_regs (regs_begun c s))
  exact (regsKept_fset (f := fCORE_PROG_STATUS_STATE) (.head _) 1 s).trans
    (regsKept_fset (f := fCORE_PROGRESS_BUNDLES) (.tail _ (.head _)) _ _)

/-- A SIGNAL that waits for no instruction, on a core with no other SIGNAL, is added at once. -/
theorem addSignal_of_idle {c a : Nat} {v : Word} {ahead : List Nat} {s : State} (hsig : (getCore c s).signals = [])
    (ha : ahead.all (· == 0) = true) : addSignal c a v ahead s = signalAt c a v
      (modCore c (fun k => { k with signals := k.signals.filter fun g => !(g.ahead.all (· == 0)) })
        (modCore c (fun k => { k with signals := k.signals ++ [⟨a, v, ahead⟩] }) s)) := by
  have hready : ((getCore c (modCore c (fun k => { k with signals := k.signals ++ [⟨a, v, ahead⟩] }) s)).signals.filter
      fun g => g.ahead.all (· == 0)) = [⟨a, v, ahead⟩] := by
    rw [getCore_modCore_same, hsig]
    exact List.filter_cons_of_pos ha
  rw [addSignal, fireSignals, hready, forAll_cons, forAll_nil]

theorem idle_ahead {c : Nat} {s : State} (h : enginesIdle c s = true) : ((getCore c s).q.map List.length).all (· == 0) = true := by
  rw [enginesIdle, List.all_eq_true] at h
  simp only [List.all_map, List.all_eq_true, Function.comp, beq_iff_eq]
  exact fun l hl => List.length_eq_zero_iff.2 (List.isEmpty_iff.1 (h l hl))

/-- What a SIGNAL is added from: the core that issues it holds no SIGNAL, and memory is as before. -/
structure SignalReady (c : Nat) (s u : State) : Prop where
  only   : CtrlOnly s u
  ranges : SameRanges s u
  none   : (getCore c u).signals = []
  others : OtherCores c s u

theorem signalReady_begun {c a : Nat} (v : Word) {s : State} (hc : c < 256) (hsig : (getCore c s).signals = []) {ahead : List Nat}
    (ha : ahead.all (· == 0) = true) : SignalReady c s
      (modCore c (fun k => { k with signals := k.signals.filter fun g => !(g.ahead.all (· == 0)) })
        (modCore c (fun k => { k with signals := k.signals ++ [⟨a, v, ahead⟩] }) (begun c s))) := by
  have honly : CtrlOnly s (modCore c (fun k => { k with signals := k.signals.filter fun g => !(g.ahead.all (· == 0)) })
      (modCore c (fun k => { k with signals := k.signals ++ [⟨a, v, ahead⟩] }) (begun c s))) :=
    (regsPerf_begun c s).ctrlOnly.trans ((ctrlOnly_modCore c _ _).trans (ctrlOnly_modCore c _ _))
  refine ⟨honly, ?_, ?_, fun d hd => ?_⟩
  · unfold CtrlOnly at honly
    refine sameRanges_of_kept (by rw [honly]) (by rw [honly]) (by rw [honly]) ((regsKept_begun c s).trans (.of_regs ?_))
      (offService_core hc)
    rw [modCore_regs, modCore_regs]
  · simp only [getCore_modCore_same, getCore_begun, hsig, List.nil_append]
    exact List.filter_cons_of_neg (by simpa using ha)
  · rw [getCore_modCore_ne hd, getCore_modCore_ne hd, getCore_begun]

/-- An ADD to a word without marks raises it and changes no byte outside it; it changes no core. -/
theorem syncAddAt_spec {a : Nat} {s : State} (hw : Memory.wf s.mem = true) (hue : isUE a s = false) (hm : marksIn a 4 s = []) (v : Word) :
    memW a (syncAddAt a v s) = memW a s + v ∧ MemOutside a 4 s (syncAddAt a v s) ∧
    ∀ d, getCore d (syncAddAt a v s) = getCore d s := by
  refine ⟨?_, fun x hx => ?_, fun d => ?_⟩
  · rw [memW_congr (memGet_syncAddAt hue v), memW_memWrite hm]
  · rw [memGet_syncAddAt hue v, memGet_memWrite_outside hw (by rwa [length_leBytes])]
  · exact syncAddAt_view (quiet_getCore d) (fun _ _ => rfl) (fun _ _ => rfl) (fun _ _ => rfl) a v s

/-- END on a core whose engines are idle frees the core (R97). -/
theorem endCore_spec {c : Nat} {r : RunProg} {s : State} (hr : (getCore c s).run = some r) (hq : enginesIdle c s = true) :
    let t := endCore c s
    (getCore c t).run = none ∧ fget (coreB c) fCORE_PROG_STATUS_STATE t = 0 ∧
    t.insts = s.insts.map (fun i => if i.id = r.inst then { i with running := i.running.erase c } else i) ∧
    t.mem = s.mem ∧ OtherCores c s t ∧ RegsKept [coreB c + oCORE_PROG_STATUS] s t := by
  intro t
  have ht : t = _ := endCore_of_idle hr hq
  generalize hu : { s with insts := _ } = u at ht
  have hget : ∀ d, getCore d u = getCore d s := fun d => by rw [← hu]; rfl
  have hcore : ∀ d, getCore d t = getCore d (modCore c (fun k => { k with run := none }) u) := fun d => by
    rw [ht]
    exact (quiet_getCore d).fset _ _ _ _
  refine ⟨?_, ?_, ?_, ?_, fun d hd => ?_, ?_⟩
  · rw [hcore, getCore_modCore_same]
  · rw [ht]
    exact fget_fset_same _ (by decide) 0 _
  · rw [ht, setProgState, fset_insts, modCore_insts, ← hu]
  · rw [ht, setProgState, fset_mem, modCore_mem, ← hu]
  · rw [hcore, getCore_modCore_ne hd, hget]
  · rw [ht]
    refine .trans (.of_regs ?_) (regsKept_fset (f := fCORE_PROG_STATUS_STATE) (.head _) 0 _)
    rw [modCore_regs, ← hu]

section
variable {c : Fin 256} {r : RunProg} {s : State} (hi : issuing c.val s = some r) (hidle : enginesIdle c.val s = true)
include hi hidle

/-- SIGNAL on a core with idle engines: the ADD, then the step to the next bundle. -/
theorem ctrlRow_signal {slot : Fin 128} {value : BitVec 32} (hsig : (getCore c.val s).signals = [])
    (hok : slotStatus c.val (syncSlot r slot.val s) s = stOK) : ∃ u, SignalReady c.val s u ∧
      ctrlRow c.val 4 (slot.val * 2 ^ 32 + value.toNat) s =
        setPc c.val (progPc c.val s + 1) (syncAddAt (syncSlot r slot.val s) value u) := by
  have hahead := idle_ahead hidle
  have hready := signalReady_begun (a := syncSlot r slot.val s) value c.isLt hsig hahead
  refine ⟨_, hready, ?_⟩
  have hcond := (ctrlCond_signal c.val r slot value s).trans (by rw [hok])
  have heff : ∀ u ahead, ctrlEffect c.val (progPc c.val s) r 4 (slot.val * 2 ^ 32 + value.toNat) ahead u =
      setPc c.val (progPc c.val s + 1) (addSignal c.val (syncSlot r (bitsOf (slot.val * 2 ^ 32 + value.toNat) 38 32) u)
        (BitVec.ofNat 32 (bitsOf (slot.val * 2 ^ 32 + value.toNat) 31 0)) ahead u) := fun _ _ => rfl
  have hplace : syncSlot r slot.val (begun c.val s) = syncSlot r slot.val s := by
    refine syncSlot_of_progs ?_ r _
    rw [regsPerf_begun c.val s]
  have hnone : (getCore c.val (begun c.val s)).signals = [] := by rw [getCore_begun, hsig]
  rw [ctrlRow_issues hi (by decide) (slotArg_lt slot value) hcond, heff, bitsOf_slotArg_slot, bitsOf_slotArg_value, hplace,
    addSignal_of_idle hnone hahead]
  revert hready
  generalize modCore c.val _ (modCore c.val _ (begun c.val s)) = u
  intro hready
  have hpart : corePart c.val u = corePart c.val s := by rw [corePart, corePart, hready.ranges.cab]
  have hne : syncSlot r slot.val s ≠ 0 := fun h0 => by
    rw [slotStatus, if_pos h0] at hok
    exact absurd hok (by decide)
  rw [slotStatus, if_neg hne] at hok
  have hopen : syncOk (corePart c.val u) (syncSlot r slot.val s) u = true := by
    rw [syncOk, hpart, hready.ranges.syncStatus, hok]
    rfl
  rw [signalAt, if_pos hopen, notifyAt, if_neg hne]

theorem goes_signal {slot : Fin 128} {value : BitVec 32} (hw : Memory.wf s.mem = true) (hsig : (getCore c.val s).signals = [])
    (hok : slotStatus c.val (syncSlot r slot.val s) s = stOK) (hue : isUE (syncSlot r slot.val s) s = false)
    (hm : marksIn (syncSlot r slot.val s) 4 s = []) : Goes (.signal c slot value) s fun t =>
      memW (syncSlot r slot.val s) t = memW (syncSlot r slot.val s) s + value ∧ MemOutside (syncSlot r slot.val s) 4 s t ∧
      progPc c.val t = (progPc c.val s + 1) % 65536 ∧ (getCore c.val t).signals = [] ∧ OtherCores c.val s t := by
  obtain ⟨u, hready, hrow⟩ := ctrlRow_signal (value := value) hi hidle hsig hok
  generalize syncSlot r slot.val s = a at hrow hue hm ⊢
  have honly := hready.only
  unfold CtrlOnly at honly
  have hmem : u.mem = s.mem := by rw [honly]
  have hecc : u.ecc = s.ecc := by rw [honly]
  obtain ⟨hadd, hout, hcores⟩ := syncAddAt_spec (by rw [hmem, hw]) ((isUE_of_ecc hecc a).trans hue) ((marksIn_of_ecc hecc a 4).trans hm) value
  have hget : ∀ d x, getCore d (setPc c.val (progPc c.val s + 1) x) = getCore d x := fun d x => (quiet_getCore d).fset _ _ _ x
  have hbyte : ∀ y x, memGet y (setPc c.val (progPc c.val s + 1) x) = memGet y x := fun y x => memGet_of_mem (fset_mem _ _ _ x) y
  refine goes_of_eq rfl hrow ⟨?_, fun x hx => ?_, fget_fset_same _ (by decide) _ _, ?_, fun d hd => ?_⟩
  · rw [memW_congr fun y => hbyte y _, hadd, memW_congr fun y => memGet_of_mem hmem y]
  · rw [hbyte, hout x hx, memGet_of_mem hmem]
  · rw [hget, hcores, hready.none]
  · rw [hget, hcores, hready.others d hd]

theorem goes_end : Goes (.endProgram c) s fun t =>
    (getCore c.val t).run = none ∧ fget (coreB c.val) fCORE_PROG_STATUS_STATE t = 0 ∧
    t.insts = s.insts.map (fun i => if i.id = r.inst then { i with running := i.running.erase c.val } else i) ∧
    t.mem = s.mem ∧ OtherCores c.val s t ∧
    RegsKept [coreB c.val + oCORE_PROG_STATUS, coreB c.val + oCORE_PROGRESS] s t := by
  have hcond : ctrlCond c.val (progPc c.val s) r 6 0 s = (failIf false stFORMAT, enginesIdle c.val s, s) := rfl
  rw [hidle] at hcond
  have heff : ∀ u ahead, ctrlEffect c.val (progPc c.val s) r 6 0 ahead u = endCore c.val (setPc c.val (progPc c.val s + 1) u) :=
    fun _ _ => rfl
  have hcores : ∀ d, getCore d (setPc c.val (progPc c.val s + 1) (begun c.val s)) = getCore d s := fun d =>
    ((quiet_getCore d).fset _ _ _ _).trans (getCore_begun c.val d s)
  obtain ⟨⟨-, -, -, -, hregs⟩, honly⟩ := setPc_begun_spec (v := progPc c.val s + 1) c.isLt s
  unfold RegsPerf at honly
  obtain ⟨hrun, hstate, hinsts, hmem, hothers, hkept⟩ := endCore_spec (s := setPc c.val (progPc c.val s + 1) (begun c.val s))
    ((congrArg Core.run (hcores c.val)).trans (run_of_issuing hi)) (by rw [enginesIdle, hcores]; exact hidle)
  refine goes_of_eq rfl ((ctrlRow_issues hi (by decide) (by decide) hcond).trans (heff _ _))
    ⟨hrun, hstate, ?_, hmem.trans ?_, fun d hd => (hothers d hd).trans (hcores d), hregs.trans (hkept.mono (by simp))⟩
  · rw [hinsts, honly]
  · rw [honly]

end

/-- Settles O17: with the engines idle a SIGNAL waits for nothing and is added at once, and END frees the core. -/
theorem signalAndEnd : Obligations.SignalAndEnd := by
  intro c r s hi hidle
  exact ⟨fun slot value hw hsig hok hue hm => goes_signal hi hidle hw hsig hok hue hm, goes_end hi hidle⟩

end Sys2Proof.Machine
end

section
/-! Settles O33: COPY and FILL inside the package (R112, R113). -/

namespace Sys2Proof.Machine

theorem of_firstFail : ∀ {l : List (BitVec 8)}, firstFail l = stOK → ∀ st ∈ l, st = stOK
  | st :: l, h, y, hy => by
    rw [firstFail] at h
    by_cases hst : st = stOK
    · rw [if_pos hst] at h
      obtain rfl | hy := List.mem_cons.1 hy
      · exact hst
      · exact of_firstFail h y hy
    · exact absurd ((if_neg hst).symm.trans h) hst

theorem accessStatus_of_rangeStatus {w : Who} {a n : Nat} {s : State} (h : rangeStatus w a n s = stOK) : accessStatus a n s = stOK := by
  have hall := of_firstFail h
  refine firstFail_of_forall fun st hst => hall st ?_
  simp only [List.mem_cons, List.not_mem_nil, or_false] at hst ⊢
  tauto

/-! The checks of a move (R113). -/

section
variable {x : Queue} {b : List Byte} {s : State} (hn : cmdLen b ≠ 0) (h : moveStatus x b s = stOK)
include hn h

/-- A move that passes its checks has its further checks pass one by one. -/
theorem moveStatus_checks :
    (if cmdOp b = 6 then globalStatus x.part (cmdSrc b) (cmdLen b) s else stOK) = stOK ∧
    globalStatus x.part (cmdDst b) (cmdLen b) s = stOK ∧
    failIf (cmdOp b == 7 && cmdLen b % 4 != 0) stLENGTH = stOK := by
  unfold moveStatus at h
  simp only [if_neg hn] at h
  split at h
  · exact absurd h (by decide)
  · have hall := of_firstFail h
    exact ⟨hall _ (by simp), hall _ (by simp), hall _ (by simp)⟩

theorem dst_open_of_moveStatus (hl : isLocalPkg x.part (cmdDst b) s = true) :
    accessStatus (bitsOf (cmdDst b) 45 0) (cmdLen b) s = stOK := by
  obtain ⟨-, hdst, -⟩ := moveStatus_checks hn h
  exact accessStatus_of_rangeStatus ((if_pos hl).symm.trans hdst)

theorem src_open_of_moveStatus (hop : cmdOp b = 6) (hl : isLocalPkg x.part (cmdSrc b) s = true) :
    accessStatus (bitsOf (cmdSrc b) 45 0) (cmdLen b) s = stOK := by
  obtain ⟨hsrc, -, -⟩ := moveStatus_checks hn h
  rw [if_pos hop] at hsrc
  exact accessStatus_of_rangeStatus ((if_pos hl).symm.trans hsrc)

theorem len_of_moveStatus (hop : cmdOp b = 7) : cmdLen b % 4 = 0 := by
  obtain ⟨-, -, hlen⟩ := moveStatus_checks hn h
  have hfalse := eq_false_of_failIf (by decide) hlen
  simpa [hop] using hfalse

end

/-! The bytes of a FILL. -/

theorem getD_flatten_replicate {l : List Byte} {m : Nat} (hl : l.length = m) (hm : 0 < m) : ∀ (k i : Nat), i < k * m →
    (List.replicate k l).flatten.getD i 0 = l.getD (i % m) 0
  | 0, i, h => absurd h (by omega)
  | k + 1, i, h => by
    rw [List.replicate_succ, List.flatten_cons]
    by_cases hi : i < m
    · rw [List.getD_append _ _ _ _ (by omega), Nat.mod_eq_of_lt hi]
    · rw [Nat.add_mul] at h
      rw [List.getD_append_right _ _ _ _ (by omega), hl, getD_flatten_replicate hl hm k (i - m) (by omega),
        Nat.mod_eq_sub_mod (a := i) (by omega)]

theorem getD_leBytes : ∀ (n v i : Nat), i < n → (leBytes n v).getD i 0 = BitVec.ofNat 8 (v / 2 ^ (8 * i))
  | n + 1, v, 0, _ => by simp [leBytes]
  | n + 1, v, i + 1, h => by
    rw [leBytes, List.getD_cons_succ, getD_leBytes n (v / 256) i (by omega), Nat.div_div_eq_div_mul,
      show 256 * 2 ^ (8 * i) = 2 ^ (8 * (i + 1)) by rw [Nat.mul_add, Nat.pow_add]; omega]

theorem rising_fillTbl (pat n : Nat) : Rising 0 (fillTbl pat n) := by
  unfold fillTbl
  split
  · trivial
  · exact rising_sparse _ 0

/-- Byte i of a FILL is byte i modulo 4 of its pattern (R113). -/
theorem tget_fillTbl {pat n i : Nat} (hn : n % 4 = 0) (hi : i < n) :
    tget (fun _ => (0 : Byte)) (fillTbl pat n) i = BitVec.ofNat 8 (pat / 2 ^ (8 * (i % 4))) := by
  unfold fillTbl
  split
  next hp => rw [hp, Nat.zero_div]; rfl
  next =>
    have hget := tget_sparse (fillBytes pat n) 0 i
    rw [Nat.zero_add] at hget
    rw [hget, fillBytes, getD_flatten_replicate (length_leBytes 4 pat) (by decide) _ _ (by omega),
      getD_leBytes _ _ _ (Nat.mod_lt _ (by decide))]

/-! The rows. -/

theorem askAdmit_frame (c : Nat) (s : State) : askAdmit c s = { s with stool := (askAdmit c s).stool } := by
  unfold askAdmit
  split <;> rfl

section
variable {q : BitVec 20} {c : QCmd} {s : State} (hs : isSafe s = false)
include hs

section
variable (h : waitingCmd q.toNat 6 s = some c)
include h

theorem copyOp_of_waiting : copyOp q.toNat s =
    let x := getQueue q.toNat s
    let b := c.bytes
    let n := cmdLen b
    if n = 0 then endCmd q.toNat c.idx stOK 0 s
    else if !targetReady x s then askAdmit x.target.toNat s
    else if !sxCredits x.target.toNat x.part [cmdSrc b, cmdDst b] n s then s
    else if moveStatus x b s ≠ stOK then endCmd q.toNat c.idx (moveStatus x b s) 0 s
    else if !isLocalPkg x.part (cmdSrc b) s then moveIn q.toNat x c (cmdSrc b) (cmdDst b) n s
    else if isLocalPkg x.part (cmdDst b) s then
      let r := localMove x.target.toNat (bitsOf (cmdSrc b) 45 0) (bitsOf (cmdDst b) 45 0) n s
      let moved := (readUpTo (bitsOf (cmdSrc b) 45 0) n s).2
      endCmd q.toNat c.idx r.2 (if r.2 = stDENIED then 0 else BitVec.ofNat 32 moved) r.1
    else
      let r := readUpTo (bitsOf (cmdSrc b) 45 0) n s
      if r.2 = 0 then endCmd q.toNat c.idx stCHECK 0 r.1
      else moveOut q.toNat x c (cmdDst b) n (memBytes (bitsOf (cmdSrc b) 45 0) r.2 s) (r.2 == n) r.1 := by
  rw [copyOp, withCmd_of_waiting h hs]

/-- A COPY that passes its checks moves its bytes inside the package. -/
theorem copyOp_moves (hecc : s.ecc = []) (hn : cmdLen c.bytes ≠ 0)
    (hready : targetReady (getQueue q.toNat s) s = true) (hst : moveStatus (getQueue q.toNat s) c.bytes s = stOK)
    (hdst : isLocalPkg (getQueue q.toNat s).part (cmdDst c.bytes) s = true)
    (hbell : inBellPages (bitsOf (cmdDst c.bytes) 45 0) (cmdLen c.bytes) = false)
    (hsink : ownWriteRefused (getQueue q.toNat s).target.toNat (bitsOf (cmdDst c.bytes) 45 0) (cmdLen c.bytes) s = false)
    (hcan : sxCredits (getQueue q.toNat s).target.toNat (getQueue q.toNat s).part [cmdSrc c.bytes, cmdDst c.bytes]
      (cmdLen c.bytes) s = true) (hsrc : isLocalPkg (getQueue q.toNat s).part (cmdSrc c.bytes) s = true) :
    let n := cmdLen c.bytes
    let src := bitsOf (cmdSrc c.bytes) 45 0
    let dst := bitsOf (cmdDst c.bytes) 45 0
    copyOp q.toNat s = endCmd q.toNat c.idx stOK (BitVec.ofNat 32 n) (memStore dst n (memSlice src n s) (noteAccess false src n s)) := by
  intro n src dst
  have hclean : marksIn src n s = [] := marksIn_of_ecc_nil hecc _ _
  have hopen : firstFail [accessStatus src n s, accessStatus dst n s] = stOK := firstFail_of_forall fun st hm => by
    simp only [List.mem_cons, List.not_mem_nil, or_false] at hm
    obtain rfl | rfl := hm
    · exact src_open_of_moveStatus hn hst (cmdOp_of_waiting h) hsrc
    · exact dst_open_of_moveStatus hn hst hdst
  rw [copyOp_of_waiting hs h]
  dsimp only
  rw [if_neg hn, if_neg (by simp [hready]), if_neg (by simp [hcan]), if_neg (not_not.2 hst), if_neg (by simp [hsrc]), if_pos hdst,
    localMove_open hn hopen hclean hbell, hsink, if_neg Bool.false_ne_true, readUpTo_of_clean hclean]
  have hok : stOK ≠ stDENIED := by decide
  exact congrArg (fun d => endCmd q.toNat c.idx stOK d _) (if_neg hok)

end

section
variable (h : waitingCmd q.toNat 7 s = some c)
include h

theorem fillOp_of_waiting : fillOp q.toNat s =
    let x := getQueue q.toNat s
    let b := c.bytes
    let n := cmdLen b
    if n = 0 then endCmd q.toNat c.idx stOK 0 s
    else if !targetReady x s then askAdmit x.target.toNat s
    else if !sxCredits x.target.toNat x.part [cmdDst b] n s then s
    else if moveStatus x b s ≠ stOK then endCmd q.toNat c.idx (moveStatus x b s) 0 s
    else if isLocalPkg x.part (cmdDst b) s then
      let r := localWrite x.target.toNat (bitsOf (cmdDst b) 45 0) n (fillTbl (le32 b 0x2C) n) s
      endCmd q.toNat c.idx r.2 (if r.2 = stOK then BitVec.ofNat 32 n else 0) r.1
    else moveOut q.toNat x c (cmdDst b) n (fillBytes (le32 b 0x2C) n) true s := by
  rw [fillOp, withCmd_of_waiting h hs]

/-- A FILL that passes its checks writes its pattern inside the package. -/
theorem fillOp_fills (hn : cmdLen c.bytes ≠ 0)
    (hready : targetReady (getQueue q.toNat s) s = true) (hst : moveStatus (getQueue q.toNat s) c.bytes s = stOK)
    (hdst : isLocalPkg (getQueue q.toNat s).part (cmdDst c.bytes) s = true)
    (hbell : inBellPages (bitsOf (cmdDst c.bytes) 45 0) (cmdLen c.bytes) = false)
    (hsink : ownWriteRefused (getQueue q.toNat s).target.toNat (bitsOf (cmdDst c.bytes) 45 0) (cmdLen c.bytes) s = false)
    (hcan : sxCredits (getQueue q.toNat s).target.toNat (getQueue q.toNat s).part [cmdDst c.bytes] (cmdLen c.bytes) s = true) :
    let n := cmdLen c.bytes
    fillOp q.toNat s = endCmd q.toNat c.idx stOK (BitVec.ofNat 32 n)
      (memStore (bitsOf (cmdDst c.bytes) 45 0) n (fillTbl (le32 c.bytes 0x2C) n) s) := by
  intro n
  rw [fillOp_of_waiting hs h]
  dsimp only
  rw [if_neg hn, if_neg (by simp [hready]), if_neg (by simp [hcan]), if_neg (not_not.2 hst), if_pos hdst, localWrite, hbell,
    if_neg (by decide), if_neg (by simp [hsink])]
  exact congrArg (fun d => endCmd q.toNat c.idx stOK d _) (if_pos rfl)

end
end

/-- The end of a command leaves memory and the cores, and takes the queues as they stand. -/
theorem ended_spec {q : Nat} {idx : BitVec 32} {st : BitVec 8} {detail : Word} {s u : State} (hq : u.queues = s.queues) :
    PhaseSet q idx (.ended st detail) s (endCmd q idx st detail u) ∧ (∀ a, memGet a (endCmd q idx st detail u) = memGet a u) ∧
    (endCmd q idx st detail u).cores = u.cores := by
  obtain ⟨hphase, honly⟩ := endCmd_spec q idx st detail u
  exact ⟨hphase.congr hq, memGet_of_mem honly.mem, honly.cores⟩

/-- A store of a table at a range, as the end of a command leaves it. -/
theorem endCmd_memStore_spec {q : Nat} {idx : BitVec 32} {detail : Word} {s u : State} {a n : Nat} {sl : Tbl Byte}
    (hu : MemFrame s u) (hmem : ∀ x, memGet x u = memGet x s) (hm : marksIn a n s = []) (hsl : Rising 0 sl)
    (hq : u.queues = s.queues) :
    let t := endCmd q idx stOK detail (memStore a n sl u)
    (∀ i < n, memGet (a + i) t = tget (fun _ => 0) sl i) ∧ MemOutside a n s t ∧ t.cores = s.cores ∧
      PhaseSet q idx (.ended stOK detail) s t := by
  intro t
  obtain ⟨hf, hb⟩ := writes_memStore hm hsl u hu
  obtain ⟨hphase, hget, hcores⟩ := ended_spec (q := q) (idx := idx) (st := stOK) (detail := detail)
    ((memStore_view quiet_queues (fun _ _ => rfl) (fun _ _ => rfl) a n sl u).trans hq)
  refine ⟨fun i hi => ?_, fun x hx => ?_, hcores.trans hf.cores, hphase⟩
  · rw [hget, hb, if_pos (by omega)]
    dsimp only
    rw [Nat.add_sub_cancel_left]
  · rw [hget, hb, if_neg (by omega), hmem]

/-- Settles O33: the row of a COPY or FILL by its cases; one that passes its checks is a store of the source's bytes, or of the
pattern, and the end of the command. -/
theorem copyAndFill : Obligations.CopyAndFill := by
  intro q c s hw hecc hs x b n src dst can6 can7
  have hend : ∀ st, PhaseSet q.toNat c.idx (.ended st 0) s (endCmd q.toNat c.idx st 0 s) ∧
      QueuesOnly s (endCmd q.toNat c.idx st 0 s) := fun st => endCmd_spec _ _ _ _ s
  have hcopy : exec (.copy q) s = .next (copyOp q.toNat s) := rfl
  have hfill : exec (.fill q) s = .next (fillOp q.toNat s) := rfl
  refine ⟨fun hn => ⟨fun h => ?_, fun h => ?_⟩, fun hn hready => ⟨fun h => ?_, fun h => ?_⟩,
    fun hn hready => ⟨fun h hcan => ?_, fun h hcan => ?_⟩, fun hn hready hst => ⟨fun h hcan => ?_, fun h hcan => ?_⟩,
    fun hn hready hst hdst hbell hsink => ⟨fun h hcan hsrc => ?_, fun h hcan => ?_⟩⟩
  · exact goes_of_eq hcopy ((copyOp_of_waiting hs h).trans (if_pos hn)) (hend stOK)
  · exact goes_of_eq hfill ((fillOp_of_waiting hs h).trans (if_pos hn)) (hend stOK)
  · exact goes_of_eq hcopy ((copyOp_of_waiting hs h).trans ((if_neg hn).trans (if_pos (by simp [x, hready])))) (askAdmit_frame _ s)
  · exact goes_of_eq hfill ((fillOp_of_waiting hs h).trans ((if_neg hn).trans (if_pos (by simp [x, hready])))) (askAdmit_frame _ s)
  · exact goes_of_eq hcopy ((copyOp_of_waiting hs h).trans ((if_neg hn).trans ((if_neg (by simp [x, hready])).trans
      (if_pos (by simpa [can6] using hcan))))) rfl
  · exact goes_of_eq hfill ((fillOp_of_waiting hs h).trans ((if_neg hn).trans ((if_neg (by simp [x, hready])).trans
      (if_pos (by simpa [can7] using hcan))))) rfl
  · obtain ⟨hphase, honly⟩ := hend (moveStatus x b s)
    exact goes_of_eq hcopy ((copyOp_of_waiting hs h).trans ((if_neg hn).trans ((if_neg (by simp [x, hready])).trans
      ((if_neg (by simpa [can6] using hcan)).trans (if_pos hst))))) ⟨hphase, honly.mem, honly.cores⟩
  · obtain ⟨hphase, honly⟩ := hend (moveStatus x b s)
    exact goes_of_eq hfill ((fillOp_of_waiting hs h).trans ((if_neg hn).trans ((if_neg (by simp [x, hready])).trans
      ((if_neg (by simpa [can7] using hcan)).trans (if_pos hst))))) ⟨hphase, honly.mem, honly.cores⟩
  · obtain ⟨hin, hrest⟩ := endCmd_memStore_spec (q := q.toNat) (idx := c.idx) (detail := BitVec.ofNat 32 n)
      (memFrame_noteAccess hw false src n) (fun y => (quiet_memGet y).noteAccess _ _ _ s) (marksIn_of_ecc_nil hecc dst n)
      (rising_memSlice hw src n) (quiet_queues.noteAccess _ _ _ s)
    exact goes_of_eq hcopy (copyOp_moves hs h hecc hn hready hst hdst hbell hsink hcan hsrc)
      ⟨fun i hi => (hin i hi).trans (tget_memSlice hi s), hrest⟩
  · obtain ⟨hin, hrest⟩ := endCmd_memStore_spec (q := q.toNat) (idx := c.idx) (detail := BitVec.ofNat 32 n)
      (.refl hw) (fun _ => rfl) (marksIn_of_ecc_nil hecc dst n) (rising_fillTbl (le32 b 0x2C) n) rfl
    exact goes_of_eq hfill (fillOp_fills hs h hn hready hst hdst hbell hsink hcan)
      ⟨fun i hi => (hin i hi).trans (tget_fillTbl (len_of_moveStatus hn hst (cmdOp_of_waiting h)) hi), hrest⟩

end Sys2Proof.Machine
end

section
/-! SUPPORT. Instances, their launch entries and the cores that they run on (R95, R119 to R121). -/

namespace Sys2Proof.Machine

/-! Instances. -/

theorem quiet_insts : Quiet State.insts := ⟨fun _ _ => rfl, fun _ _ => rfl, fun _ _ => rfl, fun _ _ => rfl,
  fun _ _ => rfl, fun _ _ => rfl, fun _ _ => rfl⟩

theorem id_of_getInst {id : Nat} {i : Inst} {s : State} (h : getInst id s = some i) : i.id = id :=
  beq_iff_eq.1 (List.find?_some (p := fun i : Inst => i.id == id) h)

/-- The instance of a number, after a change of that instance. -/
theorem getInst_modInst {id : Nat} {f : Inst → Inst} (hf : ∀ i, (f i).id = i.id) (s : State) :
    getInst id (modInst id f s) = (getInst id s).map f := by
  have hfind : ∀ l : List Inst, ((l.map fun i => if i.id = id then f i else i).find? fun i => i.id == id) =
      (l.find? fun i => i.id == id).map f := by
    intro l
    induction l with
    | nil => rfl
    | cons i l ih =>
      rw [List.map_cons]
      by_cases hi : i.id = id
      · rw [if_pos hi, List.find?_cons_of_pos (by simp [hf, hi]), List.find?_cons_of_pos (by simp [hi]), Option.map_some]
      · rw [if_neg hi, List.find?_cons_of_neg (by simp [hi]), List.find?_cons_of_neg (by simp [hi]), ih]
  exact hfind s.insts

/-- An instance that goes takes with it what had changed in it alone. -/
theorem filter_modInst {id : Nat} {f : Inst → Inst} (hf : ∀ i, (f i).id = i.id) (l : List Inst) :
    (l.map fun i => if i.id = id then f i else i).filter (fun i => i.id != id) = l.filter fun i => i.id != id := by
  induction l with
  | nil => rfl
  | cons i l ih =>
    rw [List.map_cons]
    by_cases hi : i.id = id
    · rw [if_pos hi, List.filter_cons_of_neg (by simp [hf, hi]), List.filter_cons_of_neg (by simp [hi]), ih]
    · rw [if_neg hi, List.filter_cons_of_pos (by simp [hi]), List.filter_cons_of_pos (by simp [hi]), ih]

/-- The second state differs from the first in its instances, cores, queues and hand-offs alone. -/
def InstsOnly (s t : State) : Prop :=
  t = { s with insts := t.insts, cores := t.cores, queues := t.queues, handoffs := t.handoffs }

theorem InstsOnly.trans {s t u : State} (h : InstsOnly s t) (k : InstsOnly t u) : InstsOnly s u := by
  unfold InstsOnly at *
  rw [k, h]

theorem QueuesOnly.instsOnly {s t : State} (h : QueuesOnly s t) : InstsOnly s t := by
  unfold QueuesOnly at h
  unfold InstsOnly
  rw [h]

theorem QueuesOnly.insts {s t : State} (h : QueuesOnly s t) : t.insts = s.insts := by
  unfold QueuesOnly at h
  rw [h]

theorem instsOnly_modCore (c : Nat) (f : Core → Core) (s : State) : InstsOnly s (modCore c f s) := rfl
theorem instsOnly_setEntry (c i : Nat) (e : Option LaunchEntry) (s : State) : InstsOnly s (setEntry c i e s) := rfl
theorem instsOnly_modInst (id : Nat) (f : Inst → Inst) (s : State) : InstsOnly s (modInst id f s) := rfl
theorem instsOnly_dropInst (id : Nat) (s : State) : InstsOnly s (dropInst id s) := rfl

theorem getCore_of_cores_eq {s t : State} (h : t.cores = s.cores) (c : Nat) : getCore c t = getCore c s := by rw [getCore, getCore, h]

/-- An instance that is over ends its command and goes (R121). -/
theorem finishInst_spec (i : Inst) (s : State) : let t := finishInst i s
    t.insts = (s.insts.filter fun x => x.id != i.id) ∧ t.cores = s.cores ∧
    PhaseSet i.qid (BitVec.ofNat 32 i.idx) (.ended i.status i.detail) s t ∧ InstsOnly s t := by
  intro t
  obtain ⟨hphase, honly⟩ := endCmd_spec i.qid (BitVec.ofNat 32 i.idx) i.status i.detail (dropInst i.id s)
  exact ⟨honly.insts, honly.cores, hphase.congr rfl, (instsOnly_dropInst i.id s).trans honly.instsOnly⟩

/-! Launch entries. -/

/-- The entry of a core in a slot of its launch table. -/
def entryAt (c i : Nat) (s : State) : Option LaunchEntry := tget (fun _ => none) (getCore c s).launch i

theorem entryAt_setEntry_same (c i : Nat) (e : Option LaunchEntry) (s : State) : entryAt c i (setEntry c i e s) = e := by
  rw [entryAt, setEntry, getCore_modCore_same]
  exact tget_tset_same _ _ _ _

theorem getCore_setEntry_ne {c d : Nat} (h : d ≠ c) (i : Nat) (e : Option LaunchEntry) (s : State) :
    getCore d (setEntry c i e s) = getCore d s := getCore_modCore_ne h _ s

theorem getCore_modInst (d id : Nat) (f : Inst → Inst) (s : State) : getCore d (modInst id f s) = getCore d s := rfl

theorem entryAt_none_setEntry {k i : Nat} (c : Nat) {s : State} (h : entryAt k i s = none) : entryAt k i (setEntry c i none s) = none := by
  by_cases hk : k = c
  · rw [hk, entryAt_setEntry_same]
  · rw [entryAt, getCore_setEntry_ne hk]
    exact h

/-- The entries of the cores of a list go. -/
theorem entryAt_forAll_setEntry {k : Nat} (i : Nat) {l : List Nat} (hk : k ∈ l) (s : State) :
    entryAt k i (forAll l (fun c s => setEntry c i none s) s) = none := by
  induction l generalizing s with
  | nil => exact absurd hk List.not_mem_nil
  | cons c l ih =>
    rw [forAll_cons]
    obtain rfl | hk := List.mem_cons.1 hk
    · exact forAll_keeps (fun u => entryAt k i u = none) _ (fun c _ hu => entryAt_none_setEntry c hu) l _ (entryAt_setEntry_same k i none s)
    · exact ih hk _

/-- The entries of an instance leave the tables of the cores that wait for it; none waits any more. -/
theorem dropEntries_spec {id : Nat} {i : Inst} {s : State} (h : getInst id s = some i) : let t := dropEntries id s
    t.insts = (s.insts.map fun x => if x.id = id then { x with waiting := [] } else x) ∧
    getInst id t = some { i with waiting := [] } ∧ (∀ k ∈ i.waiting, entryAt k i.tslot t = none) ∧
    t.queues = s.queues ∧ InstsOnly s t := by
  intro t
  have ht : t = modInst id (fun x => { x with waiting := [] }) (forAll i.waiting (fun c s => setEntry c i.tslot none s) s) := by
    show dropEntries id s = _
    rw [dropEntries, h]
  have hentries := fun k (hk : k ∈ i.waiting) => entryAt_forAll_setEntry i.tslot hk s
  have honly : InstsOnly s (forAll i.waiting (fun c s => setEntry c i.tslot none s) s) :=
    forAll_keeps (InstsOnly s) _ (fun _ _ hu => hu.trans (instsOnly_setEntry _ _ _ _)) _ s rfl
  have hinsts : (forAll i.waiting (fun c s => setEntry c i.tslot none s) s).insts = s.insts :=
    forAll_view State.insts _ (fun c u => modCore_insts c _ u) _ s
  have hqueues : (forAll i.waiting (fun c s => setEntry c i.tslot none s) s).queues = s.queues :=
    forAll_view State.queues _ (fun c u => modCore_queues c _ u) _ s
  revert ht hentries honly hinsts hqueues
  generalize forAll i.waiting _ s = u
  intro ht hentries honly hinsts hqueues
  rw [ht]
  refine ⟨congrArg (List.map _) hinsts, ?_, hentries, hqueues, honly.trans (instsOnly_modInst _ _ u)⟩
  have hget : getInst id u = some i := by rw [getInst, hinsts]; exact h
  refine (getInst_modInst (f := fun x => { x with waiting := [] }) (fun _ => rfl) u).trans ?_
  rw [hget, Option.map_some]

/-- An armed instance that runs nowhere goes, and its command ends with the status (log entry 84). -/
theorem cancelInst_spec {id : Nat} {i : Inst} {st : BitVec 8} {s : State} (h : getInst id s = some i) (hr : i.running = []) :
    let t := cancelInst id st s
    t.insts = (s.insts.filter fun x => x.id != id) ∧ (∀ k ∈ i.waiting, entryAt k i.tslot t = none) ∧
    PhaseSet i.qid (BitVec.ofNat 32 i.idx) (.ended st i.detail) s t ∧ InstsOnly s t := by
  intro t
  obtain ⟨hinsts, hget, hentries, hqueues, honly⟩ := dropEntries_spec h
  have hid := id_of_getInst h
  have ht : t = finishInst { i with waiting := [], status := st } (modInst id (fun x => { x with status := st }) (dropEntries id s)) := by
    show cancelInst id st s = _
    have hmod : getInst id (modInst id (fun x => { x with status := st }) (dropEntries id s)) =
        some { i with waiting := [], status := st } :=
      (getInst_modInst (f := fun x => { x with status := st }) (fun _ => rfl) _).trans (by rw [hget, Option.map_some])
    rw [cancelInst, hmod]
    exact if_pos (by simp [hr])
  obtain ⟨hleft, hcores, hphase, hfin⟩ := finishInst_spec { i with waiting := [], status := st }
    (modInst id (fun x => { x with status := st }) (dropEntries id s))
  rw [ht]
  refine ⟨hleft.trans ?_, fun k hk => ?_, hphase.congr hqueues, (honly.trans (instsOnly_modInst _ _ _)).trans hfin⟩
  · rw [hid]
    refine (filter_modInst (f := fun x => { x with status := st }) (fun _ => rfl) _).trans ?_
    rw [hinsts]
    exact filter_modInst (f := fun x => { x with waiting := [] }) (fun _ => rfl) _
  · rw [entryAt, getCore_of_cores_eq hcores]
    exact hentries k hk

/-! The start of a core. -/

/-- The arguments of an instance in ODT entry 0 of a core (R95). -/
def argsWritten (i : Inst) (e : ProgCore) (c : Nat) (s : State) : State :=
  if e.nOdt = 0 then s else memWrite (coreStore c + e.odtOff) i.args s

/-- A core takes the program of an instance, from its own launch time where it has one (R95, R119). -/
def runTaken (i : Inst) (e : ProgCore) (c : Nat) (s : State) : State :=
  let s := modCore c (fun k => { k with
    run := some ⟨i.slot, i.id, s.clk.p, e.bundOff, e.odtOff, e.nBund, e.nOdt, false, false, false⟩,
    lec := List.replicate 16 0 })
    { s with waiters := s.waiters.filter fun w => !(w.isCore && w.id == c) }
  match i.t with
  | none => s
  | some t => modCore c (fun k => { k with run := k.run.map fun r => { r with t0 := t } }) s

/-- The program registers of a core at the start of an instance. -/
def startRegs (i : Inst) (e : ProgCore) (c : Nat) (s : State) : State :=
  regSet (coreB c + oCORE_PROG_ODT) (BitVec.ofNat 32 (coreStore c - sramB + e.odtOff))
    (setPc c (e.entries.getD i.entry 0).toNat (setProgState c 1 (fset (coreB c) fCORE_PROG_STATUS_SLOT i.slot s)))

theorem startOn_stages {i : Inst} {c : Nat} {p : Program} {e : ProgCore} {s : State} (hp : (getSlot i.slot s).prog = some p)
    (he : (p.cores.find? fun e => e.core == c) = some e) :
    startOn i c s = startAsks c (startRegs i e c (runTaken i e c (argsWritten i e c s))) := by
  rw [startOn, hp]
  dsimp only
  rw [he]
  rfl

theorem startAsks_view {β : Type} {φ : State → β} (hs : ∀ s v, φ { s with stool := v } = φ s) {c : Nat}
    (hc : ∀ x s, φ (modCore c (fun k => { k with lastUse := x }) s) = φ s) (s : State) : φ (startAsks c s) = φ s := by
  have htouch : φ (touchCore c s) = φ s := (hc _ _).trans (hs _ _)
  unfold startAsks
  refine ite_view ?_ htouch
  unfold askAdmit
  exact ite_view htouch ((hs _ _).trans htouch)

/-- What of a core's start is seen in the core: it runs the instance, and its launch table is as before. -/
theorem getCore_runTaken (i : Inst) (e : ProgCore) (c : Nat) (s : State) : let k := getCore c (runTaken i e c s)
    k.run = some ⟨i.slot, i.id, i.t.getD s.clk.p, e.bundOff, e.odtOff, e.nBund, e.nOdt, false, false, false⟩ ∧
    k.launch = (getCore c s).launch := by
  have hget : ∀ v, getCore c { s with waiters := v } = getCore c s := fun _ => rfl
  unfold runTaken
  cases i.t with
  | none => simp only [getCore_modCore_same, hget, Option.getD_none, and_self]
  | some t => simp only [getCore_modCore_same, hget, Option.getD_some, Option.map_some, and_self]

theorem otherCores_runTaken (i : Inst) (e : ProgCore) (c : Nat) (s : State) : OtherCores c s (runTaken i e c s) := by
  intro d hd
  have hget : ∀ v, getCore d { s with waiters := v } = getCore d s := fun _ => rfl
  unfold runTaken
  cases i.t with
  | none => rw [getCore_modCore_ne hd, hget]
  | some t => simp only [getCore_modCore_ne hd, hget]

theorem runTaken_view {β : Type} {φ : State → β} (hw : ∀ s v, φ { s with waiters := v } = φ s)
    (hc : ∀ f c s, φ (modCore c f s) = φ s) (i : Inst) (e : ProgCore) (c : Nat) (s : State) : φ (runTaken i e c s) = φ s := by
  unfold runTaken
  split
  · exact (hc _ _ _).trans (hw _ _)
  · exact (hc _ _ _).trans ((hc _ _ _).trans (hw _ _))

theorem quiet_startRegs {β : Type} {φ : State → β} (q : Quiet φ) (i : Inst) (e : ProgCore) (c : Nat) (s : State) :
    φ (startRegs i e c s) = φ s :=
  (q.regSet _ _ _).trans ((q.fset _ _ _ _).trans ((q.fset _ _ _ _).trans (q.fset _ _ _ s)))

theorem argsWritten_view {β : Type} {φ : State → β} (q : Quiet φ) (hm : ∀ s v, φ { s with mem := v } = φ s)
    (ha : ∀ s v, φ { s with armed := v } = φ s) (i : Inst) (e : ProgCore) (c : Nat) (s : State) : φ (argsWritten i e c s) = φ s :=
  ite_view rfl (memStore_view q hm ha _ _ _ s)

theorem getCore_argsWritten (i : Inst) (e : ProgCore) (c d : Nat) (s : State) : getCore d (argsWritten i e c s) = getCore d s :=
  argsWritten_view (quiet_getCore d) (fun _ _ => rfl) (fun _ _ => rfl) i e c s

theorem regs_startAsks (c : Nat) (s : State) : (startAsks c s).regs = s.regs :=
  startAsks_view (φ := State.regs) (fun _ _ => rfl) (fun _ _ => modCore_regs _ _ _) s

theorem startRegs_state (i : Inst) (e : ProgCore) (c : Nat) (s : State) :
    fget (coreB c) fCORE_PROG_STATUS_STATE (startRegs i e c s) = 1 := by
  rw [startRegs, fget_regSet_ne (by simp), setPc, fget_fset_apart _ (by decide) (by decide)]
  exact fget_fset_same _ (by decide) 1 _

theorem regGet_startRegs_ne (i : Inst) (e : ProgCore) {c o : Nat} (h : o ∉ [oCORE_PROG_STATUS, oCORE_PROG_ODT]) (s : State) :
    regGet (coreB c + o) (startRegs i e c s) = regGet (coreB c + o) s := by
  simp only [List.mem_cons, List.not_mem_nil, or_false, not_or] at h
  obtain ⟨hst, hodt⟩ := h
  have hne : ∀ f : Fld, f.off = oCORE_PROG_STATUS → coreB c + o ≠ coreB c + f.off := fun f hf => by omega
  rw [startRegs, regGet_regSet_ne (by omega), setPc, regGet_fset_ne (hne _ rfl), setProgState, regGet_fset_ne (hne _ rfl),
    regGet_fset_ne (hne _ rfl)]

/-- A core starts an instance: it runs from the instance's launch time, in RUN, with its launch table and its launch counters as
before; no other core and no instance changes (R95). -/
theorem startOn_spec {i : Inst} {c : Nat} (hc : c < 256) {p : Program} {e : ProgCore} {s : State}
    (hp : (getSlot i.slot s).prog = some p) (he : (p.cores.find? fun e => e.core == c) = some e) : let t := startOn i c s
    (getCore c t).run = some ⟨i.slot, i.id, i.t.getD s.clk.p, e.bundOff, e.odtOff, e.nBund, e.nOdt, false, false, false⟩ ∧
    (getCore c t).launch = (getCore c s).launch ∧ fget (coreB c) fCORE_PROG_STATUS_STATE t = 1 ∧ OtherCores c s t ∧
    t.insts = s.insts ∧ ∀ o ∈ [oCORE_LAUNCH_STAT, oCORE_LAUNCH_CNT], regGet (coreB c + o) t = regGet (coreB c + o) s := by
  intro t
  have ht : t = _ := startOn_stages hp he
  have hregs : t.regs = _ := (congrArg State.regs ht).trans (regs_startAsks c _)
  obtain ⟨hrun, hlaunch⟩ := getCore_runTaken i e c (argsWritten i e c s)
  have hclk : (argsWritten i e c s).clk = s.clk := argsWritten_view quiet_clk (fun _ _ => rfl) (fun _ _ => rfl) i e c s
  rw [hclk] at hrun
  rw [getCore_argsWritten] at hlaunch
  refine ⟨?_, ?_, ?_, fun d hd => ?_, ?_, fun o ho => ?_⟩
  · rw [ht, startAsks_view (φ := fun u => (getCore c u).run) (fun _ _ => rfl) (fun x u => by rw [getCore_modCore_same]),
      quiet_startRegs (quiet_getCore c)]
    exact hrun
  · rw [ht, startAsks_view (φ := fun u => (getCore c u).launch) (fun _ _ => rfl) (fun x u => by rw [getCore_modCore_same]),
      quiet_startRegs (quiet_getCore c)]
    exact hlaunch
  · rw [fget_congr hregs]
    exact startRegs_state i e c _
  · rw [ht, startAsks_view (φ := getCore d) (fun _ _ => rfl) (fun x u => getCore_modCore_ne hd _ u), quiet_startRegs (quiet_getCore d),
      otherCores_runTaken i e c _ d hd, getCore_argsWritten]
  · rw [ht, startAsks_view (φ := State.insts) (fun _ _ => rfl) (fun x u => modCore_insts c _ u), quiet_startRegs quiet_insts,
      runTaken_view (φ := State.insts) (fun _ _ => rfl) (fun f c u => modCore_insts c f u)]
    exact argsWritten_view quiet_insts (fun _ _ => rfl) (fun _ _ => rfl) i e c s
  · have ho' : o ∉ [oCORE_PROG_STATUS, oCORE_PROG_ODT] ∧ o < 0x200 := by
      revert o
      decide
    rw [regGet, hregs, ← regGet, regGet_startRegs_ne i e ho'.1, runTaken_view (φ := regGet (coreB c + o)) (fun _ _ => rfl)
      (fun f c u => by rw [regGet, modCore_regs, ← regGet])]
    refine ite_view rfl (regGet_memStore (eccApart_core hc ho'.2) (coreReg_not_mem_granRegs hc (by omega)) ?_ _ _ _ s)
    have hlt := coreB_lt hc
    show coreB c + o < 0x04000000
    omega

/-- The start of an entry's instance on its core: the entry leaves the table, and the instance counts the core as running. -/
def entryTaken (c slot : Nat) (i : Inst) (s : State) : State :=
  modInst i.id (fun x => { x with waiting := x.waiting.erase c, running := x.running ++ [c] }) (setEntry c slot none s)

theorem fireOn_spec {i : Inst} {c slot : Nat} (hc : c < 256) {p : Program} {e : ProgCore} {s : State}
    (hp : (getSlot i.slot s).prog = some p) (he : (p.cores.find? fun e => e.core == c) = some e) : let t := fireOn c slot i s
    entryAt c slot t = none ∧
    (getCore c t).run = some ⟨i.slot, i.id, i.t.getD s.clk.p, e.bundOff, e.odtOff, e.nBund, e.nOdt, false, false, false⟩ ∧
    fget (coreB c) fCORE_PROG_STATUS_STATE t = 1 ∧ OtherCores c s t ∧
    t.insts = (s.insts.map fun x =>
      if x.id = i.id then { x with waiting := x.waiting.erase c, running := x.running ++ [c] } else x) ∧
    ∀ o ∈ [oCORE_LAUNCH_STAT, oCORE_LAUNCH_CNT], regGet (coreB c + o) t = regGet (coreB c + o) s := by
  intro t
  have ht : t = startOn i c (entryTaken c slot i s) := rfl
  have honly : InstsOnly s (entryTaken c slot i s) := (instsOnly_setEntry c slot none s).trans (instsOnly_modInst _ _ _)
  have hinsts : (entryTaken c slot i s).insts = (s.insts.map fun x =>
      if x.id = i.id then { x with waiting := x.waiting.erase c, running := x.running ++ [c] } else x) := rfl
  have hnone : entryAt c slot (entryTaken c slot i s) = none := entryAt_setEntry_same c slot none s
  have hothers : OtherCores c s (entryTaken c slot i s) := fun d hd =>
    (getCore_modInst d _ _ _).trans (getCore_setEntry_ne hd _ _ s)
  revert ht honly hinsts hnone hothers
  generalize entryTaken c slot i s = u
  intro ht honly hinsts hnone hothers
  unfold InstsOnly at honly
  have hprogs : u.progs = s.progs := by rw [honly]
  have hclk : u.clk = s.clk := by rw [honly]
  have hregs : u.regs = s.regs := by rw [honly]
  obtain ⟨hrun, hlaunch, hstate, hoth, hkept, hreg⟩ := startOn_spec hc (s := u) (by rw [getSlot, hprogs]; exact hp) he
  rw [hclk] at hrun
  rw [ht]
  refine ⟨?_, hrun, hstate, fun d hd => (hoth d hd).trans (hothers d hd), hkept.trans hinsts, fun o ho => ?_⟩
  · rw [entryAt, hlaunch]
    exact hnone
  · rw [hreg o ho, regGet, regGet, hregs]

end Sys2Proof.Machine
end

section
/-! Settles O32: launch entries that fire, late cores that start and instances that end (R120, R121). -/

namespace Sys2Proof.Machine

/-! A launch entry that is due (R120). -/

section
variable {c : Fin 256} {slot : Fin 64} {e : LaunchEntry} {s : State} (hdue : dueEntry c.val slot.val s = some e)
include hdue

/-- With no rung change and no Cabinet edge due by its time, the entry comes first (R208). -/
theorem exec_launchEntryFire (hrung : ∀ a, s.drp.prop = some a → reaches48 e.t a.t = false)
    (hedge : ∀ x, s.cab.edge = some x → reaches48 e.t x.t = false) :
    exec (.launchEntryFire c slot) s = .next (entryFire c.val slot.val s) := by
  have hfirst : rungFirst e.t s = s := by
    rw [rungFirst]
    split
    · rfl
    next a ha => exact if_neg (by simp [hrung a ha])
  have hdueFirst : dueFirst e.t s = s := by
    rw [dueFirst, hfirst]
    split
    · rfl
    next x hx => exact if_neg (by simp [hedge x hx])
  have hexec : exec (.launchEntryFire c slot) s = .next (match dueEntry c.val slot.val s with
    | none => s
    | some e => entryFire c.val slot.val (dueFirst e.t s)) := rfl
  rw [hexec, hdue]
  exact congrArg (fun u => Host.Outcome.next (entryFire c.val slot.val u)) hdueFirst

theorem entryFire_held (h : (dueBefore c.val slot.val e s || isSafe s) = true) : entryFire c.val slot.val s = s := by
  rw [entryFire, hdue]
  exact if_pos (by simpa using h)

variable (hb : dueBefore c.val slot.val e s = false) (hs : isSafe s = false)
include hb hs

theorem entryFire_drift (hd : inDrift s = true) : entryFire c.val slot.val s = cancelInst e.inst stLATE s := by
  rw [entryFire, hdue]
  exact (if_neg (by simp [hb, hs])).trans (if_pos hd)

variable {i : Inst} (hd : inDrift s = false) (hi : getInst e.inst s = some i)
include hd hi

theorem entryFire_of_inst : entryFire c.val slot.val s =
    if !coreTaken c.val s ∧ (lateEntry c.val s).isNone then (if coreFree c.val s then fireOn c.val slot.val i s else s)
    else if e.policy = 0 then setEntry c.val slot.val (some { e with fired := true }) s
    else cancelInst e.inst stLATE (evt (coreB c.val) eCORE_LAUNCH_STAT_SKIP s) := by
  rw [entryFire, hdue]
  refine (if_neg (by simp [hb, hs])).trans ((if_neg (by simp [hd])).trans ?_)
  rw [hi]

theorem entryFire_starts (hfree : coreFree c.val s = true) (hlate : lateEntry c.val s = none) :
    entryFire c.val slot.val s = fireOn c.val slot.val i s := by
  have htaken : coreTaken c.val s = false := by
    simp only [coreFree, Bool.and_eq_true, Bool.not_eq_true'] at hfree
    exact hfree.1.1
  rw [entryFire_of_inst hdue hb hs hd hi, if_pos (by simp [htaken, hlate]), if_pos hfree]

theorem entryFire_late (hbusy : (coreTaken c.val s || (lateEntry c.val s).isSome) = true) (hp : e.policy = 0) :
    entryFire c.val slot.val s = setEntry c.val slot.val (some { e with fired := true }) s := by
  rw [entryFire_of_inst hdue hb hs hd hi, if_neg ?_, if_pos hp]
  rintro ⟨htaken, hnone⟩
  rw [Option.isNone_iff_eq_none.1 hnone, Option.isSome_none, Bool.or_false] at hbusy
  simp [hbusy] at htaken

end

/-! A late core (R120). -/

/-- An instance with a core that has started late by d: DETAIL is at least d. -/
def latenessNoted (d : Word) (x : Inst) : Inst := { x with detail := if x.detail.toNat < d.toNat then d else x.detail }

theorem lateStart_starts {c slot : Nat} {e : LaunchEntry} {i : Inst} {s : State} (hl : lateEntry c s = some (slot, e))
    (hfree : coreFree c s = true) (hi : getInst e.inst s = some i) : lateStart c s =
      modInst i.id (latenessNoted (lateness c e.t s)) (evt (coreB c) eCORE_LAUNCH_STAT_LATE (fireOn c slot i s)) := by
  rw [lateStart, hl]
  refine (if_neg (by simp [hfree])).trans ?_
  rw [hi]
  rfl

theorem detail_latenessNoted (d : Word) (x : Inst) : d.toNat ≤ (latenessNoted d x).detail.toNat := by
  rw [latenessNoted]
  dsimp only
  split <;> omega

theorem regs_modInst (id : Nat) (f : Inst → Inst) (s : State) : (modInst id f s).regs = s.regs := rfl

theorem goes_lateCoreStart {c : Fin 256} {slot : Nat} {e : LaunchEntry} {i : Inst} {p : Program} {k : ProgCore} {s : State}
    (hl : lateEntry c.val s = some (slot, e)) (hfree : coreFree c.val s = true) (hi : getInst e.inst s = some i)
    (hp : (getSlot i.slot s).prog = some p) (hk : (p.cores.find? fun e => e.core == c.val) = some k) :
    Goes (.lateCoreStart c) s fun t =>
      tget (fun _ => none) (getCore c.val t).launch slot = none ∧ (getCore c.val t).run.isSome = true ∧
      fget (coreB c.val) fCORE_LAUNCH_STAT_LATE t = 1 ∧
      fget (coreB c.val) eCORE_LAUNCH_STAT_LATE.cnt t = Nat.min (fget (coreB c.val) eCORE_LAUNCH_STAT_LATE.cnt s + 1) 0xFFFF ∧
      OtherCores c.val s t ∧ ∀ x ∈ t.insts, x.id = i.id → (lateness c.val e.t s).toNat ≤ x.detail.toNat := by
  obtain ⟨hnone, hrun, -, hothers, -, hreg⟩ := fireOn_spec (slot := slot) c.isLt hp hk
  have hrow := lateStart_starts hl hfree hi
  revert hrow hnone hrun hothers hreg
  generalize fireOn c.val slot i s = u
  generalize lateness c.val e.t s = d
  intro hnone hrun hothers hreg hrow
  have hcores : ∀ j, getCore j (evt (coreB c.val) eCORE_LAUNCH_STAT_LATE u) = getCore j u := fun j => (quiet_getCore j).evt _ _ _
  have hbit := fget_evt_bit (coreB c.val) (e := eCORE_LAUNCH_STAT_LATE) (by decide) (by decide) (by decide) u
  have hcnt : fget (coreB c.val) eCORE_LAUNCH_STAT_LATE.cnt (evt (coreB c.val) eCORE_LAUNCH_STAT_LATE u) =
      Nat.min (fget (coreB c.val) eCORE_LAUNCH_STAT_LATE.cnt u + 1) 0xFFFF :=
    fget_evt_cnt (coreB c.val) (e := eCORE_LAUNCH_STAT_LATE) (by decide) (by decide) (by decide) u
  have hold : fget (coreB c.val) eCORE_LAUNCH_STAT_LATE.cnt u = fget (coreB c.val) eCORE_LAUNCH_STAT_LATE.cnt s := by
    rw [fget, fget, hreg oCORE_LAUNCH_CNT (by decide)]
  revert hrow hcores hbit hcnt
  generalize evt (coreB c.val) eCORE_LAUNCH_STAT_LATE u = v
  intro hrow hcores hbit hcnt
  have hregs := regs_modInst i.id (latenessNoted d) v
  refine goes_of_eq rfl hrow ⟨?_, ?_, (fget_congr hregs _ _).trans hbit, (fget_congr hregs _ _).trans ?_, fun j hj => ?_, fun x hx hid => ?_⟩
  · rw [getCore_modInst, hcores]
    exact hnone
  · rw [getCore_modInst, hcores, hrun]
    rfl
  · rw [hcnt, hold]
  · rw [getCore_modInst, hcores, hothers j hj]
  · obtain ⟨y, -, hy⟩ := List.mem_map.1 hx
    by_cases hyi : y.id = i.id
    · rw [if_pos hyi] at hy
      rw [← hy]
      exact detail_latenessNoted d y
    · rw [if_neg hyi] at hy
      exact absurd (hy ▸ hid) hyi

/-! The end of an instance (R115). -/

/-- A change that does nothing the second time is done once on each core of a list. -/
theorem getCore_forAll_modCore {f : Core → Core} (hf : ∀ k, f (f k) = f k) (c : Nat) : ∀ (l : List Nat) (s : State),
    getCore c (forAll l (fun c s => modCore c f s) s) = if c ∈ l then f (getCore c s) else getCore c s := by
  intro l
  induction l with
  | nil => exact fun s => (if_neg List.not_mem_nil).symm
  | cons d l ih =>
    intro s
    rw [forAll_cons, ih]
    by_cases hd : c = d
    · rw [hd, getCore_modCore_same, hf, ite_self, if_pos (List.mem_cons_self)]
    · rw [getCore_modCore_ne hd]
      simp [hd]

/-- A core that runs an instance is free of it. -/
def freedOf (id : Nat) (k : Core) : Core := { k with run := k.run.filter fun r => r.inst != id }

theorem freedOf_freedOf (id : Nat) (k : Core) : freedOf id (freedOf id k) = freedOf id k := by
  simp [freedOf, Option.filter_filter]

theorem goes_programInstanceEnd {id : Nat} {i : Inst} {s : State} (hi : getInst id s = some i) (hw : i.waiting = [])
    (hs : isSafe s = false) (hr : i.running.all (fun c => coreStopped id c s) = true) : Goes (.programInstanceEnd id) s fun t =>
      t.insts = (s.insts.filter fun x => x.id != i.id) ∧
      (∀ c ∈ i.running, getCore c t = { getCore c s with run := (getCore c s).run.filter fun r => r.inst != id }) ∧
      (∀ c, c ∉ i.running → getCore c t = getCore c s) ∧
      PhaseSet i.qid (BitVec.ofNat 32 i.idx) (.ended i.status i.detail) s t ∧
      t = { s with insts := t.insts, cores := t.cores, queues := t.queues, handoffs := t.handoffs } := by
  have hrow : instanceEnd id s = finishInst i (forAll i.running (fun c s => modCore c (freedOf id) s) s) := by
    rw [instanceEnd, hi]
    exact if_pos (by simp [hw, hs, hr])
  have hcores := fun c => getCore_forAll_modCore (freedOf_freedOf id) c i.running s
  have hinsts : (forAll i.running (fun c s => modCore c (freedOf id) s) s).insts = s.insts :=
    forAll_view State.insts _ (fun c u => modCore_insts c _ u) _ s
  have hqueues : (forAll i.running (fun c s => modCore c (freedOf id) s) s).queues = s.queues :=
    forAll_view State.queues _ (fun c u => modCore_queues c _ u) _ s
  have honly : InstsOnly s (forAll i.running (fun c s => modCore c (freedOf id) s) s) :=
    forAll_keeps (InstsOnly s) _ (fun c u hu => hu.trans (instsOnly_modCore c _ u)) _ s rfl
  revert hrow hcores hinsts hqueues honly
  generalize forAll i.running _ s = u
  intro hrow hcores hinsts hqueues honly
  obtain ⟨hleft, hkept, hphase, hfin⟩ := finishInst_spec i u
  refine goes_of_eq rfl hrow ⟨by rw [hleft, hinsts], fun c hc => ?_, fun c hc => ?_, hphase.congr hqueues, honly.trans hfin⟩
  · rw [getCore_of_cores_eq hkept, hcores, if_pos hc]
    rfl
  · rw [getCore_of_cores_eq hkept, hcores, if_neg hc]

/-- Settles O32: what an entry that fires does by the state of its core, and the start of a late core and the end of an instance. -/
theorem timedStarts : Obligations.TimedStarts := by
  refine ⟨fun c slot e i s hdue hrung hedge => ?_, fun c slot e i p k s hl hfree hi hp hk => goes_lateCoreStart hl hfree hi hp hk,
    fun id i s hi hw hs hr => goes_programInstanceEnd hi hw hs hr⟩
  have hexec := exec_launchEntryFire hdue hrung hedge
  refine ⟨fun h => goes_of_eq hexec (entryFire_held hdue (by simpa using h)) rfl, fun hb hs hi => ⟨fun p k hd hfree hlate hp hk => ?_,
    fun hd hbusy hpol => ?_, fun hd hrun => ?_⟩⟩
  · obtain ⟨hnone, hruns, hstate, hothers, hinsts, -⟩ := fireOn_spec (slot := slot.val) c.isLt hp hk
    exact goes_of_eq hexec (entryFire_starts hdue hb hs hd hi hfree hlate) ⟨hnone, hruns, hstate, hothers, hinsts⟩
  · exact goes_of_eq hexec (entryFire_late hdue hb hs hd hi (by simpa using hbusy) hpol)
      ⟨entryAt_setEntry_same c.val slot.val _ s, fun d hdc => getCore_setEntry_ne hdc _ _ s, rfl⟩
  · exact goes_of_eq hexec (entryFire_drift hdue hb hs hd) (cancelInst_spec hi hrun)

end Sys2Proof.Machine
end

section
/-! Settles O28: the control of a queue through QM_QCTL, and its end of draining (R105, R109, R123, R124). -/

namespace Sys2Proof.Machine

/-! QM_QCTL. -/

theorem RegsOnly.eq {s t : State} (h : RegsOnly s t) : t = { s with regs := t.regs } := by
  obtain ⟨r, rfl⟩ := h
  rfl

theorem regsOnly_qctlEnd (cmd q : Nat) (st : BitVec 8) (s : State) : RegsOnly s (qctlEnd cmd q st s) :=
  (((regsOnly_fset qmB fQM_QCTL_STATUS _ s).trans (regsOnly_fset qmB fQM_QCTL_BUSY _ _)).trans
    (regsOnly_fset qmB fQM_QCTL_QID _ _)).trans (regsOnly_fset qmB fQM_QCTL_CMD _ _)

/-- The end of a command shows in QM_QCTL, and no other register changes (R124). -/
theorem qctlEnd_shows {cmd q : Nat} (hc : cmd < 4) (hq : q < 2 ^ 20) (st : BitVec 8) (s : State) :
    QctlShows cmd q st s (qctlEnd cmd q st s) := by
  have hkept : RegsKept [qmB + oQM_QCTL] s (qctlEnd cmd q st s) :=
    (((regsKept_fset (f := fQM_QCTL_STATUS) (.head _) _ s).trans (regsKept_fset (f := fQM_QCTL_BUSY) (.head _) _ _)).trans
      (regsKept_fset (f := fQM_QCTL_QID) (.head _) _ _)).trans (regsKept_fset (f := fQM_QCTL_CMD) (.head _) _ _)
  refine ⟨⟨?_, ?_, ?_, ?_⟩, hkept⟩
  · exact (fget_fset_same _ (by decide) _ _).trans (Nat.mod_eq_of_lt hc)
  · rw [qctlEnd, fget_fset_apart _ (by decide) (by decide)]
    exact (fget_fset_same _ (by decide) _ _).trans (Nat.mod_eq_of_lt hq)
  · rw [qctlEnd, fget_fset_apart _ (by decide) (by decide), fget_fset_apart _ (by decide) (by decide)]
    exact fget_fset_same _ (by decide) _ _
  · rw [qctlEnd, fget_fset_apart _ (by decide) (by decide), fget_fset_apart _ (by decide) (by decide),
      fget_fset_apart _ (by decide) (by decide)]
    exact (fget_fset_same _ (by decide) _ _).trans (Nat.mod_eq_of_lt st.isLt)

/-- The second state differs from the first in its registers and queues alone. -/
def RegsQueues (s t : State) : Prop := t = { s with regs := t.regs, queues := t.queues }

theorem RegsQueues.trans {s t u : State} (h : RegsQueues s t) (k : RegsQueues t u) : RegsQueues s u := by
  unfold RegsQueues at *
  rw [k, h]

theorem RegsOnly.regsQueues {s t : State} (h : RegsOnly s t) : RegsQueues s t := by
  obtain ⟨r, rfl⟩ := h
  rfl

theorem getQueue_qctlEnd (j cmd q : Nat) (st : BitVec 8) (s : State) : getQueue j (qctlEnd cmd q st s) = getQueue j s := by
  rw [qctlEnd, (quiet_getQueue j).fset, (quiet_getQueue j).fset, (quiet_getQueue j).fset, (quiet_getQueue j).fset]

theorem mem_qctlEnd (cmd q : Nat) (st : BitVec 8) (s : State) : (qctlEnd cmd q st s).mem = s.mem := by
  rw [qctlEnd, fset_mem, fset_mem, fset_mem, fset_mem]

theorem qctlGate_opens {r : Requester} {s : State} (hr : mayCommand r s = true) (hb : fget qmB fQM_QCTL_BUSY s = 0)
    (f : State → State) : qctlGate r f s = f s := by
  rw [qctlGate, if_neg (by simp [hr]), if_neg (by rw [hb]; decide)]

/-! The descriptor of a queue in memory (R109). -/

/-- Four bytes of memory that are those of a number. -/
theorem memW_of_bytes {a v : Nat} {t : State} (h : ∀ i < 4, memGet (a + i) t = (leBytes 4 v).getD i 0) : memW a t = BitVec.ofNat 32 v := by
  have hbytes : memBytes a 4 t = leBytes 4 v := by
    refine List.ext_getElem (by rw [length_memBytes, length_leBytes]) fun i hi hl => ?_
    rw [length_memBytes] at hi
    rw [← List.getD_eq_getElem _ 0, getD_memBytes a hi, h i hi, List.getD_eq_getElem _ 0]
  rw [memW, hbytes, leNat_leBytes]
  exact BitVec.eq_of_toNat_eq (by rw [BitVec.toNat_ofNat, BitVec.toNat_ofNat]; omega)

theorem memW_of_word {a : Nat} {v : Word} {t : State} (h : ∀ i < 4, memGet (a + i) t = (leBytes 4 v.toNat).getD i 0) : memW a t = v := by
  rw [memW_of_bytes h, BitVec.ofNat_toNat, BitVec.setWidth_eq]

/-- A write-back sets the state and the indices in the descriptor of a queue and changes no byte outside it. -/
theorem writeBack_spec {q : Nat} {s : State} (hw : Memory.wf s.mem = true) (hecc : s.ecc = [])
    (hf : fenceStatus (descAddr q s) 64 s = stOK) : let t := writeBack q s; let a := descAddr q s; let x := getQueue q s
      (bitsOf (memW a t).toNat 27 26 = stateCode x.st ∧ memW (a + 0x10) t = x.pi ∧ memW (a + 0x14) t = x.ci ∧ MemOutside a 64 s t) ∧
      ∀ j, getQueue j t = getQueue j s := by
  intro t a x
  let w := setBits (le32 (descBytes q s) 0) 27 26 (stateCode x.st)
  let ix := leBytes 4 x.pi.toNat ++ leBytes 4 x.ci.toNat
  have hix : ix.length = 8 := by rw [List.length_append, length_leBytes, length_leBytes]
  have ht : t = memWrite (a + 0x10) ix (memWrite a (leBytes 4 w) s) := if_neg (not_not.2 hf)
  obtain ⟨hframe, hstate⟩ := writes_memWrite (l := leBytes 4 w) (marksIn_of_ecc_nil hecc a _) s (.refl hw)
  obtain ⟨-, hindex⟩ := writes_memWrite (l := ix) (marksIn_of_ecc_nil hecc (a + 0x10) _) _ hframe
  rw [length_leBytes] at hstate
  rw [hix, ← ht] at hindex
  beta_reduce at hstate hindex
  refine ⟨⟨?_, memW_of_word fun i hi => ?_, memW_of_word fun i hi => ?_, fun y hy => ?_⟩, fun j => ?_⟩
  · have hword : memW a t = BitVec.ofNat 32 w := memW_of_bytes fun i hi => by
      rw [hindex, if_neg (by omega), hstate, if_pos (by omega), Nat.add_sub_cancel_left]
    have hcode : stateCode x.st < 4 := by cases x.st <;> decide
    have hbits : bitsOf (w % 2 ^ 32) 27 26 = bitsOf w 27 26 := by
      unfold bitsOf
      omega
    rw [hword, BitVec.toNat_ofNat, hbits, bitsOf_setBits_same _ _ _ _ (by decide)]
    exact Nat.mod_eq_of_lt hcode
  · rw [hindex, if_pos (by omega), Nat.add_sub_cancel_left, List.getD_append _ _ _ _ (by rw [length_leBytes]; exact hi)]
  · rw [hindex, if_pos (by omega), show a + 0x14 + i - (a + 0x10) = 4 + i by omega,
      List.getD_append_right _ _ _ _ (by rw [length_leBytes]; omega), length_leBytes, Nat.add_sub_cancel_left]
  · rw [hindex, if_neg (by omega), hstate, if_neg (by omega)]
  · rw [ht]
    exact (memStore_view (quiet_getQueue j) (fun _ _ => rfl) (fun _ _ => rfl) _ _ _ _).trans
      (memStore_view (quiet_getQueue j) (fun _ _ => rfl) (fun _ _ => rfl) _ _ _ s)

theorem descAddr_of_cab {s t : State} (h : t.cab = s.cab) (q : Nat) : descAddr q t = descAddr q s := by rw [descAddr, descAddr, h]

/-- What a DISABLED queue leaves in its descriptor. -/
structure WrittenBack (q : Nat) (s t : State) : Prop where
  state   : bitsOf (memW (descAddr q s) t).toNat 27 26 = 0
  pi      : memW (descAddr q s + 0x10) t = (getQueue q s).pi
  ci      : memW (descAddr q s + 0x14) t = (getQueue q s).ci
  outside : MemOutside (descAddr q s) 64 s t

/-- A queue that becomes DISABLED, its commands aside, is written back. -/
theorem writeBack_disabled {q : Nat} {l : List QCmd} {s u : State} (hw : Memory.wf s.mem = true) (hecc : u.ecc = [])
    (hmem : u.mem = s.mem) (hr : SameRanges s u) (hf : fenceStatus (descAddr q s) 64 s = stOK)
    (hq : getQueue q u = { getQueue q s with st := .disabled, cmds := l }) :
    WrittenBack q s (writeBack q u) ∧ ∀ j, getQueue j (writeBack q u) = getQueue j u := by
  have haddr := descAddr_of_cab hr.cab q
  obtain ⟨⟨hstate, hpi, hci, hout⟩, hqueues⟩ := writeBack_spec (q := q) (s := u) (by rw [hmem]; exact hw) hecc
    (by rw [haddr, hr.fenceStatus]; exact hf)
  rw [haddr, hq] at hstate hpi hci
  rw [haddr] at hout
  exact ⟨⟨hstate, hpi, hci, fun y hy => (hout y hy).trans (memGet_of_mem hmem y)⟩, hqueues⟩

/-! The commands that have not started (R109). -/

theorem unfetched_congr {s t : State} (h : SameRanges s t) (hm : t.mem = s.mem) (x : Queue) (st : BitVec 8) (d : Word) :
    unfetched x st d t = unfetched x st d s := by
  have hidx : unfetchedIdx x t = unfetchedIdx x s := by
    simp only [unfetchedIdx, h.fenceStatus, ownersIn_congr h.cab, h.scrub]
  rw [unfetched, unfetched, hidx]
  simp only [memBytes_of_mem hm]

theorem unstarted_of_kind {q rank : Nat} {s : State} (h : (getQueue q s).kind ≠ 3) : unstarted q rank s = 0 := if_neg h

/-- The commands of a queue after a flush: those that had not started have ended, and those not fetched are among them. -/
def flushedCmds (x : Queue) (st : BitVec 8) (s : State) : List QCmd :=
  (x.cmds.map fun c => if c.phase = .dispatched then { c with phase := .ended st 0 } else c) ++
    if x.st = .active ∨ x.st = .draining then unfetched x st 0 s else []

theorem getQueue_flushCmds (q : Nat) (st : BitVec 8) (rank : Nat) (s : State) :
    ∃ l, getQueue q (flushCmds q st rank s) = { getQueue q s with cmds := l } ∧
      ((getQueue q s).kind = 1 → l = flushedCmds (getQueue q s) st s) := by
  have hget : ∀ v, getQueue q { s with waiters := v } = getQueue q s := fun _ => rfl
  have hsame : ∀ v, SameRanges s { s with waiters := v } := fun _ => sameRanges_of_regs rfl rfl rfl rfl
  unfold flushCmds
  dsimp only
  split
  · refine ⟨_, getQueue_setQueue_same _ _ _, fun hk => ?_⟩
    have hk3 : (getQueue q s).kind ≠ 3 := by rw [hk]; decide
    have hread : getQueue q (if ((getQueue q s).st == .active || (getQueue q s).st == .draining) = true then
        forAll (unfetchedIdx (getQueue q s) { s with waiters := s.waiters.filter fun w => w.isCore || !(w.id == q) })
          (fun i u => (readAll (ringAddr (getQueue q s) i) 64 u).1)
          { s with waiters := s.waiters.filter fun w => w.isCore || !(w.id == q) }
        else { s with waiters := s.waiters.filter fun w => w.isCore || !(w.id == q) }) = getQueue q s :=
      ite_view (forAll_view (getQueue q) _ (fun i u => (quiet_getQueue q).readAll _ _ u) _ _) (hget _)
    rw [unstarted_of_kind (by rw [hread]; exact hk3), unstarted_of_kind (by rw [hget]; exact hk3),
      unfetched_congr (hsame (s.waiters.filter fun w => w.isCore || !(w.id == q))) rfl]
    simp only [flushedCmds, Bool.or_eq_true, beq_iff_eq]
  next hk => exact ⟨_, hget _, fun h1 => absurd (.inl h1) hk⟩

theorem quiet_resets : Quiet fun s => (s.busyParts, s.computeReset) := ⟨fun _ _ => rfl, fun _ _ => rfl, fun _ _ => rfl,
  fun _ _ => rfl, fun _ _ => rfl, fun _ _ => rfl, fun _ _ => rfl⟩

/-- The flush of a queue without error marks keeps memory, what is in service, and every other queue. -/
theorem flushCmds_frame {s : State} (hecc : s.ecc = []) (q : Nat) (st : BitVec 8) (rank : Nat) : let u := flushCmds q st rank s
    u.ecc = [] ∧ u.mem = s.mem ∧ SameRanges s u ∧ ∀ j, j ≠ q → getQueue j u = getQueue j s := by
  intro u
  obtain ⟨hu, hkept⟩ := cleanGran_flushCmds hecc q st rank
  have hcab : u.cab = s.cab := flushCmds_view (φ := State.cab) (fun a n v => quiet_cab.readAll a n v) (fun _ _ => rfl) (fun _ _ => rfl)
    (fun x v => setQueue_cab q x v) _ _ s
  have hresets : (u.busyParts, u.computeReset) = (s.busyParts, s.computeReset) :=
    flushCmds_view (φ := fun v => (v.busyParts, v.computeReset)) (fun a n v => quiet_resets.readAll a n v) (fun _ _ => rfl)
      (fun _ _ => rfl) (fun x v => by rw [setQueue_busyParts, setQueue_computeReset]) _ _ s
  obtain ⟨hbusy, hcompute⟩ := Prod.mk.inj hresets
  refine ⟨hu, ?_, sameRanges_of_kept hcab hbusy hcompute hkept offService_granRegs, fun j hj => ?_⟩
  · exact flushCmds_view (φ := State.mem) (fun a n v => quiet_mem.readAll a n v) (fun _ _ => rfl) (fun _ _ => rfl)
      (fun x v => setQueue_mem q x v) _ _ s
  · exact flushCmds_view (φ := getQueue j) (fun a n v => (quiet_getQueue j).readAll a n v) (fun _ _ => rfl) (fun _ _ => rfl)
      (fun x v => getQueue_setQueue_ne hj x v) _ _ s

/-- A queue that becomes DISABLED keeps its indices and is written back; its commands that have not started end (R109). -/
theorem disableQueue_spec {q : Nat} {s : State} (st : BitVec 8) (hw : Memory.wf s.mem = true) (hecc : s.ecc = [])
    (hd : (getQueue q s).st ≠ .disabled) (hf : fenceStatus (descAddr q s) 64 s = stOK) : let t := disableQueue st q s
      (∃ l, getQueue q t = { getQueue q s with st := .disabled, cmds := l } ∧
        ((getQueue q s).kind = 1 → l = flushedCmds (getQueue q s) st s)) ∧
      (∀ j, j ≠ q → getQueue j t = getQueue j s) ∧ WrittenBack q s t := by
  intro t
  have ht : t = writeBack q (modQueue q (fun x => { x with st := .disabled }) (flushCmds q st (commRank q s) s)) := if_neg hd
  obtain ⟨l, hl, hkind⟩ := getQueue_flushCmds q st (commRank q s) s
  obtain ⟨huecc, humem, husame, hothers⟩ := flushCmds_frame hecc q st (commRank q s)
  revert ht hl huecc humem husame hothers
  generalize flushCmds q st (commRank q s) s = u
  intro ht hl huecc humem husame hothers
  have hq : getQueue q (modQueue q (fun x => { x with st := .disabled }) u) = { getQueue q s with st := .disabled, cmds := l } := by
    rw [getQueue_modQueue_same, hl]
  have hsame : SameRanges u (modQueue q (fun x => { x with st := .disabled }) u) := sameRanges_of_regs rfl rfl rfl rfl
  obtain ⟨hback, hqueues⟩ := writeBack_disabled (u := modQueue q (fun x => { x with st := .disabled }) u) hw huecc humem
    (husame.trans hsame) hf hq
  rw [ht]
  exact ⟨⟨l, (hqueues q).trans hq, hkind⟩, fun j hj => (hqueues j).trans ((getQueue_setQueue_ne hj _ u).trans (hothers j hj)), hback⟩

/-! The rows. -/

section
variable {r : Requester} {q : BitVec 20} {s : State} (hr : mayCommand r s = true) (hb : fget qmB fQM_QCTL_BUSY s = 0)
  (hreach : qctlReach r q.toNat s = true)
include hr hb hreach

theorem exec_invalidate : exec (.invalidate r q) s = .next
    (if (getQueue q.toNat s).st ≠ .disabled then qctlEnd 1 q.toNat stDENIED s
    else if fenceStatus (descAddr q.toNat s) 64 s ≠ stOK then qctlEnd 1 q.toNat stFENCED s
    else if bitsOf (le32 (descBytes q.toNat s) 0) 27 26 = 0 then
      qctlEnd 1 q.toNat stOK (setQueue q.toNat { Queue.off with
        cmds := (getQueue q.toNat s).cmds, cplQid := (getQueue q.toNat s).cplQid, part := (getQueue q.toNat s).part }
        (readAll (descAddr q.toNat s) 64 s).1)
    else qctlEnd 1 q.toNat (invalidateStatus q.toNat (descBytes q.toNat s) s)
      (if invalidateStatus q.toNat (descBytes q.toNat s) s = stOK then
        setQueue q.toNat (descQueue (descBytes q.toNat s) (getQueue q.toNat s).cmds) (readAll (descAddr q.toNat s) 64 s).1
      else (readAll (descAddr q.toNat s) 64 s).1)) := by
  have hexec : exec (.invalidate r q) s = .next (qctlGate r (invalidateOp r q.toNat) s) := rfl
  rw [hexec, qctlGate_opens hr hb, invalidateOp]
  exact congrArg _ (if_neg (by simp [hreach]))

omit hr hb hreach in
/-- A descriptor that is read shows in QM_QCTL, and changes no register but that and the counts of granules. -/
theorem qctlRead_of_read (hecc : s.ecc = []) (st : BitVec 8) {u : State} (hu : u.regs = (readAll (descAddr q.toNat s) 64 s).1.regs) :
    QctlRead 1 q.toNat st s (qctlEnd 1 q.toNat st u) := by
  obtain ⟨hsays, hkept⟩ := qctlEnd_shows (cmd := 1) (by decide) q.isLt st u
  rw [readAll_of_ecc_nil hecc] at hu
  refine ⟨hsays, .trans (.trans ((regsKept_noteAccess false _ 64 s).mono fun o ho => .tail _ ho) (.of_regs hu)) (hkept.mono ?_)⟩
  simp

theorem goes_invalidate_empty (hecc : s.ecc = []) (hd : (getQueue q.toNat s).st = .disabled)
    (hf : fenceStatus (descAddr q.toNat s) 64 s = stOK) (h0 : bitsOf (le32 (descBytes q.toNat s) 0) 27 26 = 0) :
    Goes (.invalidate r q) s fun t => QctlRead 1 q.toNat stOK s t ∧ (getQueue q.toNat t).st = .disabled ∧
      (∀ j, j ≠ q.toNat → getQueue j t = getQueue j s) ∧ t.mem = s.mem := by
  refine goes_of_eq (exec_invalidate hr hb hreach) ((if_neg (not_not.2 hd)).trans ((if_neg (not_not.2 hf)).trans (if_pos h0)))
    ⟨qctlRead_of_read hecc stOK (setQueue_regs _ _ _), ?_, fun j hj => ?_, ?_⟩
  · rw [getQueue_qctlEnd, getQueue_setQueue_same]
    rfl
  · rw [getQueue_qctlEnd, getQueue_setQueue_ne hj, (quiet_getQueue j).readAll]
  · rw [mem_qctlEnd, setQueue_mem, quiet_mem.readAll]

theorem goes_invalidate_checked (hecc : s.ecc = []) (hd : (getQueue q.toNat s).st = .disabled)
    (hf : fenceStatus (descAddr q.toNat s) 64 s = stOK) (h0 : bitsOf (le32 (descBytes q.toNat s) 0) 27 26 ≠ 0) :
    Goes (.invalidate r q) s fun t =>
      QctlRead 1 q.toNat (invalidateStatus q.toNat (descBytes q.toNat s) s) s t ∧
      (∀ j, j ≠ q.toNat → getQueue j t = getQueue j s) ∧ t.mem = s.mem ∧
      getQueue q.toNat t = (if invalidateStatus q.toNat (descBytes q.toNat s) s = stOK then
        descQueue (descBytes q.toNat s) (getQueue q.toNat s).cmds else getQueue q.toNat s) := by
  have hrow := exec_invalidate hr hb hreach
  rw [if_neg (not_not.2 hd), if_neg (not_not.2 hf), if_neg h0] at hrow
  by_cases hst : invalidateStatus q.toNat (descBytes q.toNat s) s = stOK
  · rw [if_pos hst] at hrow
    refine ⟨_, hrow, qctlRead_of_read hecc _ (setQueue_regs _ _ _), fun j hj => ?_, ?_, ?_⟩
    · rw [getQueue_qctlEnd, getQueue_setQueue_ne hj, (quiet_getQueue j).readAll]
    · rw [mem_qctlEnd, setQueue_mem, quiet_mem.readAll]
    · rw [getQueue_qctlEnd, getQueue_setQueue_same, if_pos hst]
  · rw [if_neg hst] at hrow
    refine ⟨_, hrow, qctlRead_of_read hecc _ rfl, fun j hj => ?_, ?_, ?_⟩
    · rw [getQueue_qctlEnd, (quiet_getQueue j).readAll]
    · rw [mem_qctlEnd, quiet_mem.readAll]
    · rw [getQueue_qctlEnd, (quiet_getQueue _).readAll, if_neg hst]

theorem goes_queueDrain (ha : (getQueue q.toNat s).st = .active) : Goes (.queueDrain r q) s fun t =>
    QctlShows 2 q.toNat stOK s t ∧ getQueue q.toNat t = { getQueue q.toNat s with st := .draining } ∧
    (∀ j, j ≠ q.toNat → getQueue j t = getQueue j s) ∧ t = { s with regs := t.regs, queues := t.queues } := by
  have hexec : exec (.queueDrain r q) s = .next (qctlGate r (drainOp r q.toNat) s) := rfl
  have hrow : qctlGate r (drainOp r q.toNat) s = qctlEnd 2 q.toNat stOK (modQueue q.toNat (fun x => { x with st := .draining }) s) := by
    rw [qctlGate_opens hr hb, drainOp, if_neg (by simp [hreach]), ha]
  obtain ⟨hsays, hkept⟩ := qctlEnd_shows (cmd := 2) (by decide) q.isLt stOK (modQueue q.toNat (fun x => { x with st := .draining }) s)
  have hmod : RegsQueues s (modQueue q.toNat (fun x => { x with st := .draining }) s) := rfl
  refine goes_of_eq hexec hrow ⟨⟨hsays, .trans (.of_regs (setQueue_regs _ _ s)) hkept⟩, ?_, fun j hj => ?_,
    hmod.trans (regsOnly_qctlEnd _ _ _ _).regsQueues⟩
  · rw [getQueue_qctlEnd, getQueue_modQueue_same]
  · rw [getQueue_qctlEnd]
    exact getQueue_setQueue_ne hj _ s

theorem goes_queueReset (hw : Memory.wf s.mem = true) (hecc : s.ecc = []) (hd : (getQueue q.toNat s).st ≠ .disabled)
    (hf : fenceStatus (descAddr q.toNat s) 64 s = stOK) : Goes (.queueReset r q) s fun t =>
      (∃ l, getQueue q.toNat t = { getQueue q.toNat s with st := .disabled, cmds := l } ∧
        ((getQueue q.toNat s).kind = 1 → l = flushedCmds (getQueue q.toNat s) stSTALLED s)) ∧
      (∀ j, j ≠ q.toNat → getQueue j t = getQueue j s) ∧ WrittenBack q.toNat s t ∧ QctlSays 3 q.toNat stOK t := by
  have hexec : exec (.queueReset r q) s = .next (qctlGate r (resetQueueOp r q.toNat) s) := rfl
  have hrow : qctlGate r (resetQueueOp r q.toNat) s = qctlEnd 3 q.toNat stOK (disableQueue stSTALLED q.toNat s) := by
    rw [qctlGate_opens hr hb, resetQueueOp, if_neg (by simp [hreach])]
  obtain ⟨⟨l, hl, hkind⟩, hothers, ⟨hstate, hpi, hci, hout⟩⟩ := disableQueue_spec stSTALLED hw hecc hd hf
  have hbyte : ∀ y, memGet y (qctlEnd 3 q.toNat stOK (disableQueue stSTALLED q.toNat s)) = memGet y (disableQueue stSTALLED q.toNat s) :=
    memGet_of_mem (mem_qctlEnd _ _ _ _)
  refine goes_of_eq hexec hrow ⟨⟨l, (getQueue_qctlEnd _ _ _ _ _).trans hl, hkind⟩,
    fun j hj => (getQueue_qctlEnd _ _ _ _ _).trans (hothers j hj), ⟨?_, ?_, ?_, fun y hy => (hbyte y).trans (hout y hy)⟩,
    (qctlEnd_shows (by decide) q.isLt stOK _).1⟩
  · rw [memW_congr hbyte, hstate]
  · rw [memW_congr hbyte, hpi]
  · rw [memW_congr hbyte, hci]

end

theorem goes_queueDrainDone {q : BitVec 20} {s : State} (hw : Memory.wf s.mem = true) (hecc : s.ecc = [])
    (hd : (getQueue q.toNat s).st = .draining) (hc : (getQueue q.toNat s).cmds = []) (hs : isSafe s = false)
    (hf : fenceStatus (descAddr q.toNat s) 64 s = stOK) : Goes (.queueDrainDone q) s fun t =>
      getQueue q.toNat t = { getQueue q.toNat s with st := .disabled } ∧ (∀ j, j ≠ q.toNat → getQueue j t = getQueue j s) ∧
      WrittenBack q.toNat s t := by
  have hexec : exec (.queueDrainDone q) s = .next
      (if (getQueue q.toNat s).st = .draining ∧ (getQueue q.toNat s).cmds.isEmpty ∧ !isSafe s then
        writeBack q.toNat (modQueue q.toNat (fun x => { x with st := .disabled }) s) else s) := rfl
  have hq := getQueue_modQueue_same q.toNat (fun x => { x with st := .disabled }) s
  have hsame : SameRanges s (modQueue q.toNat (fun x => { x with st := .disabled }) s) := sameRanges_of_regs rfl rfl rfl rfl
  obtain ⟨hback, hqueues⟩ := writeBack_disabled (l := (getQueue q.toNat s).cmds)
    (u := modQueue q.toNat (fun x => { x with st := .disabled }) s) hw hecc (setQueue_mem _ _ s) hsame hf hq
  exact goes_of_eq hexec (if_pos ⟨hd, by simp [hc], by simp [hs]⟩) ⟨(hqueues _).trans hq,
    fun j hj => (hqueues j).trans (getQueue_setQueue_ne hj _ s), hback⟩

/-- Settles O28: each command of QM_QCTL on a queue in its state, and the end of draining. -/
theorem queueControl : Obligations.QueueControl := by
  intro r q s hw hecc x a b Others Back
  have hback : ∀ t, WrittenBack q.toNat s t → Back t := fun t ⟨hstate, hpi, hci, hout⟩ => ⟨hstate, hpi, hci, hout⟩
  refine ⟨fun hr hb hreach => ⟨fun hd => ?_, fun hd hf => ?_, fun hd hf h0 => goes_invalidate_empty hr hb hreach hecc hd hf h0,
    fun hd hf h0 => goes_invalidate_checked hr hb hreach hecc hd hf h0, fun ha => goes_queueDrain hr hb hreach ha, fun hd hf => ?_⟩,
    fun hd hc hs hf => ?_⟩
  · exact goes_of_eq (exec_invalidate hr hb hreach) (if_pos hd) ⟨qctlEnd_shows (by decide) q.isLt stDENIED s, (regsOnly_qctlEnd _ _ _ s).eq⟩
  · exact goes_of_eq (exec_invalidate hr hb hreach) ((if_neg (not_not.2 hd)).trans (if_pos hf))
      ⟨qctlEnd_shows (by decide) q.isLt stFENCED s, (regsOnly_qctlEnd _ _ _ s).eq⟩
  · refine goes_mono (goes_queueReset hr hb hreach hw hecc hd hf) fun t ⟨⟨l, hl, hkind⟩, hothers, hwritten, hsays⟩ => ?_
    rw [hl]
    exact ⟨rfl, rfl, rfl, hothers, hback t hwritten, hsays, fun hk => hkind hk⟩
  · exact goes_mono (goes_queueDrainDone hw hecc hd hc hs hf) fun t ⟨hq, hothers, hwritten⟩ => ⟨hq, hothers, hback t hwritten⟩

end Sys2Proof.Machine
end

section
/-! Settles O27: the dispatch of a command, and its completion (R109, R111, R114, R115). -/

namespace Sys2Proof.Machine

/-! Dispatch (R111). -/

theorem handoffsOnly_hoSend (k : Nat) (b : List Byte) (s : State) : HandoffsOnly s (hoSend k b s) := by
  unfold hoSend
  dsimp only
  split
  · exact rfl
  · exact rfl

theorem HandoffsOnly.trans {s t u : State} (h : HandoffsOnly s t) (k : HandoffsOnly t u) : HandoffsOnly s u := by
  unfold HandoffsOnly at *
  rw [k, h]

/-- The command has gone to its cores, and its ring entry has been read (R111). -/
def fetched (x : Queue) (b : List Byte) (s : State) : State :=
  countEvt ctrQm 0x61 1 (readAll (ringAddr x x.ci) 64
    (if cmdCheck x b s = stOK then forAll (intakeCores x b s) (fun k => hoSend k b) s else s)).1

/-- A fetch from memory without error marks changes hand-offs, counters, channels and the counts of granules alone. -/
structure Fetched (s u : State) : Prop where
  mem    : u.mem = s.mem
  ecc    : u.ecc = []
  queue  : ∀ j, getQueue j u = getQueue j s
  ranges : SameRanges s u

theorem fetched_spec {s : State} (hecc : s.ecc = []) (x : Queue) (b : List Byte) : Fetched s (fetched x b s) := by
  have hsent : HandoffsOnly s (if cmdCheck x b s = stOK then forAll (intakeCores x b s) (fun k => hoSend k b) s else s) := by
    split
    · exact forAll_keeps (HandoffsOnly s) _ (fun k _ hu => hu.trans (handoffsOnly_hoSend k b _)) _ s rfl
    · exact rfl
  have hfetched : fetched x b s = countEvt ctrQm 0x61 1 (readAll (ringAddr x x.ci) 64
    (if cmdCheck x b s = stOK then forAll (intakeCores x b s) (fun k => hoSend k b) s else s)).1 := rfl
  revert hsent hfetched
  generalize (if cmdCheck x b s = stOK then forAll (intakeCores x b s) (fun k => hoSend k b) s else s) = v
  intro hsent hfetched
  unfold HandoffsOnly at hsent
  have hvecc : v.ecc = [] := by rw [hsent]; exact hecc
  rw [readAll_of_ecc_nil hvecc] at hfetched
  have honly : AccessOnly v (fetched x b s) := by
    rw [hfetched]
    exact (accessOnly_noteAccess _ _ _ v).trans (perfOnly_countEvt _ _ _ _).regsPerf.accessOnly
  have hkept : RegsKept granRegs s (fetched x b s) := by
    rw [hfetched]
    exact .trans (.of_regs (by rw [hsent])) ((regsKept_noteAccess _ _ _ v).trans (regsKept_countEvt _ _ _ _ _))
  unfold AccessOnly at honly
  refine ⟨by rw [honly, hsent], by rw [honly]; exact hvecc, fun j => ?_,
    sameRanges_of_kept (by rw [honly, hsent]) (by rw [honly, hsent]) (by rw [honly, hsent]) hkept offService_granRegs⟩
  have hqueues : (fetched x b s).queues = s.queues := by rw [honly, hsent]
  rw [getQueue, getQueue, hqueues]

/-- No byte takes the index of a queue: it has no CI word, or its CI word lies in no memory that its partition reaches. -/
def ciClosed (x : Queue) (s : State) : Prop :=
  x.ciAddr.toNat = 0 ∨ regionOf x.ciAddr.toNat = some .reg ∨ rangeStatus (.part x.part) x.ciAddr.toNat 4 s ≠ stOK ∨
    inSink x.ciAddr.toNat 4 s = true

theorem ciClosed_congr {s t : State} (h : SameRanges s t) (x : Queue) : ciClosed x t ↔ ciClosed x s := by
  rw [ciClosed, ciClosed, h.rangeStatus, inSink_of_cab h.cab]

theorem writeCi_closed {x : Queue} {s : State} (h : ciClosed x s) : writeCi x s = s := if_pos h

theorem writeCi_open {x : Queue} {s : State} (h : ¬ciClosed x s) :
    writeCi x s = memWrite x.ciAddr.toNat (leBytes 4 (x.ci + 1).toNat) s := if_neg h

theorem getQueue_writeCi (j : Nat) (x : Queue) (s : State) : getQueue j (writeCi x s) = getQueue j s :=
  ite_view rfl (memStore_view (quiet_getQueue j) (fun _ _ => rfl) (fun _ _ => rfl) _ _ _ s)

/-- The command that a fetch adds to its queue: dispatched, or ended with the status of the check that failed (R111, R115). -/
def fetchedCmd (x : Queue) (b : List Byte) (s : State) : QCmd :=
  ⟨x.ci, x.gen, b, if cmdCheck x b s = stOK then .dispatched else .ended (cmdCheck x b s) 0⟩

section
variable {q : Nat} {s : State}

theorem dispatchCmd_waits (h : mayDispatch (getQueue q s) (memBytes (ringAddr (getQueue q s) (getQueue q s).ci) 64 s) s = false) :
    dispatchCmd q s = s := if_neg (by simp [h])

theorem dispatchCmd_fetches (h : mayDispatch (getQueue q s) (memBytes (ringAddr (getQueue q s) (getQueue q s).ci) 64 s) s = true) :
    let x := getQueue q s
    let b := memBytes (ringAddr x x.ci) 64 s
    dispatchCmd q s = writeCi x (setQueue q { x with ci := x.ci + 1, cmds := x.cmds ++ [fetchedCmd x b s] } (fetched x b s)) := if_pos h

end

/-- A queue that takes a command and moves its index: no other queue changes, and memory takes the index where it may (R111). -/
theorem writeCi_setQueue_spec {q : Nat} {x y : Queue} {s u : State} (hw : Memory.wf s.mem = true) (hu : Fetched s u) :
    let t := writeCi x (setQueue q y u)
    getQueue q t = y ∧ (∀ j, j ≠ q → getQueue j t = getQueue j s) ∧ (ciClosed x s → t.mem = s.mem) ∧
      (¬ciClosed x s → memW x.ciAddr.toNat t = x.ci + 1 ∧ MemOutside x.ciAddr.toNat 4 s t) := by
  intro t
  have hmem : (setQueue q y u).mem = s.mem := (setQueue_mem q y u).trans hu.mem
  have hset : SameRanges u (setQueue q y u) := sameRanges_of_regs rfl rfl rfl rfl
  have hclosed := ciClosed_congr (hu.ranges.trans hset) x
  refine ⟨(getQueue_writeCi q x _).trans (getQueue_setQueue_same q y u), fun j hj => ?_, fun h => ?_, fun h => ?_⟩
  · exact (getQueue_writeCi j x _).trans ((getQueue_setQueue_ne hj y u).trans (hu.queue j))
  · exact (congrArg State.mem (writeCi_closed (hclosed.2 h))).trans hmem
  · have ht : t = _ := writeCi_open fun hc => h (hclosed.1 hc)
    have hclean : ∀ n, marksIn x.ciAddr.toNat n (setQueue q y u) = [] := fun n =>
      marksIn_of_ecc_nil ((setQueue_ecc q y u).trans hu.ecc) _ _
    rw [ht]
    refine ⟨memW_memWrite (hclean 4), fun a ha => ?_⟩
    rw [memGet_memWrite_outside (by rw [hmem]; exact hw) (by rwa [length_leBytes]), memGet_of_mem hmem]

/-! Completion (R114, R115). -/

theorem length_completionBytes (kind qid : Nat) (c : QCmd) (cq : Queue) (st : BitVec 8) (detail : Word) (s : State) :
    (completionBytes kind qid c cq st detail s).length = 16 := by
  simp only [completionBytes, List.length_append, length_leBytes]

theorem memPut_of_clean {a n : Nat} {s : State} (hn : n ≠ 0) (h : marksIn a n s = []) (sl : Tbl Byte) :
    memPut a n sl s = memSet a n sl (noteAccess true a n s) := by
  rw [memPut, if_neg hn, h, forAll_nil]

theorem getQueue_memPut (j a n : Nat) (sl : Tbl Byte) (s : State) : getQueue j (memPut a n sl s) = getQueue j s := by
  unfold memPut
  refine ite_view rfl ((forAll_view (getQueue j) _ (fun c u => writeMark_view (quiet_getQueue j) (fun _ _ => rfl) a n s.mem c u) _ _).trans ?_)
  exact (quiet_getQueue j).noteAccess true a n s

/-- The entry of a completion queue at PI takes bytes. -/
def cplOpen (x : Queue) (s : State) : Bool := memOpen (ringAddr x x.pi) 16 s && !inSink (ringAddr x x.pi) 16 s

/-- The bytes of a completion stand in the ring, where its entry is open (R114; log entry 82). -/
def cplPut (x : Queue) (l : List Byte) (s : State) : State :=
  if cplOpen x s then memPut (ringAddr x x.pi) l.length (sparse 0 l) s else s

theorem getQueue_cplPut (j : Nat) (x : Queue) (l : List Byte) (s : State) : getQueue j (cplPut x l s) = getQueue j s :=
  ite_view (getQueue_memPut j _ _ _ s) rfl

theorem cplPut_closed {x : Queue} {s : State} (h : cplOpen x s = false) (l : List Byte) : cplPut x l s = s := if_neg (by simp [h])

theorem memGet_cplPut {x : Queue} {l : List Byte} {s : State} (hecc : s.ecc = []) (hl : l.length = 16) (h : cplOpen x s = true) :
    (∀ i < 16, memGet (ringAddr x x.pi + i) (cplPut x l s) = l.getD i 0) ∧ MemOutside (ringAddr x x.pi) 16 s (cplPut x l s) := by
  have hput : cplPut x l s = memSet (ringAddr x x.pi) l.length (sparse 0 l) (noteAccess true (ringAddr x x.pi) l.length s) :=
    (if_pos h).trans (memPut_of_clean (by omega) (marksIn_of_ecc_nil hecc _ _) _)
  rw [hput]
  refine ⟨fun i hi => ?_, fun a ha => ?_⟩
  · rw [memGet_memSet_bytes l (by omega) (by omega), Nat.add_sub_cancel_left]
  · rw [memGet_memSet_outside (by omega), memGet_noteAccess]

/-- A live completion queue takes its completion at PI, and PI rises; no other queue changes. -/
theorem writeCompletion_spec {k : Nat} {l : List Byte} {s : State} (hd : (getQueue k s).st ≠ .disabled) (hk : (getQueue k s).kind = 2) :
    let x := getQueue k s
    let t := writeCompletion k l s
    t.mem = (cplPut x l s).mem ∧ getQueue k t = { x with pi := x.pi + 1 } ∧ ∀ j, j ≠ k → getQueue j t = getQueue j s := by
  intro x t
  let u := setQueue k { x with pi := x.pi + 1 } (countEvt ctrQm 0x62 1 (cplPut x l s))
  have ht : t = if x.irqEn then raiseVec (x.part + 1) x.vec.toNat u else u := if_pos ⟨hd, hk⟩
  have hview : ∀ {β : Type} {φ : State → β}, Quiet φ → φ t = φ u := fun {β φ} hq => by
    rw [ht]
    exact ite_view (hq.raiseVec _ _ u) rfl
  refine ⟨(hview quiet_mem).trans ?_, (hview (quiet_getQueue k)).trans (getQueue_setQueue_same _ _ _),
    fun j hj => (hview (quiet_getQueue j)).trans ?_⟩
  · rw [setQueue_mem, quiet_mem.countEvt]
  · rw [getQueue_setQueue_ne hj, (quiet_getQueue j).countEvt, getQueue_cplPut]

section
variable {q : Nat} {idx : BitVec 32} {c : QCmd} {st : BitVec 8} {detail : Word} {s : State}
  (hc : ((getQueue q s).cmds.find? fun y => y.idx == idx && cmdEnded y) = some c) (hp : c.phase = .ended st detail)
include hc hp

theorem completeCmd_waits (h : (isSafe s || cplFull q c.bytes s || cplWaits q c.bytes s) = true) : completeCmd q idx s = s := by
  rw [completeCmd]
  dsimp only
  rw [hc]
  dsimp only
  rw [hp]
  exact if_pos h

theorem completeCmd_writes {k : Nat} (h : (isSafe s || cplFull q c.bytes s || cplWaits q c.bytes s) = false) (hk : cplOf q s = some k)
    (hsync : cplSync (getQueue q s).kind.toNat c.bytes = none) (hcpl : cplWanted (getQueue q s).kind.toNat c.bytes = true) :
    completeCmd q idx s = modQueue q (fun x => { x with cmds := x.cmds.erase c })
      (writeCompletion k (completionBytes (getQueue q s).kind.toNat q c (getQueue k s) st detail s) s) := by
  rw [completeCmd]
  dsimp only
  rw [hc]
  dsimp only
  rw [hp]
  refine (if_neg (by simp [h])).trans ?_
  rw [hsync]
  dsimp only
  rw [hk]
  dsimp only
  rw [if_pos hcpl]

end

/-- Settles O27: a fetch adds the command and moves CI; a completion is written into its ring, and its command goes. -/
theorem dispatchAndCompletion : Obligations.DispatchAndCompletion := by
  intro q s hw hecc x b ci
  refine ⟨fun h => ?_, fun h => goes_of_eq rfl (dispatchCmd_waits h) rfl, fun idx c st detail k hc hp hk =>
    ⟨fun h => goes_of_eq rfl (completeCmd_waits hc hp h) rfl, fun hs hfull hwait hsync hcpl hkq hd hkind => ?_⟩⟩
  · obtain ⟨hq, hothers, hclosed, hopen⟩ := writeCi_setQueue_spec (q := q.toNat) (x := x)
      (y := { x with ci := x.ci + 1, cmds := x.cmds ++ [fetchedCmd x b s] }) hw (fetched_spec hecc x b)
    refine goes_of_eq rfl (dispatchCmd_fetches h) ⟨hq, hothers, hclosed, fun h0 hreg hrange hsink => hopen ?_⟩
    rintro (h | h | h | h)
    · exact h0 h
    · exact hreg h
    · exact h hrange
    · exact absurd (h.symm.trans hsink) (by decide)
  · intro cq y opened
    obtain ⟨hmem, hcq, hothers⟩ := writeCompletion_spec (l := y) hd hkind
    have hrow := completeCmd_writes hc hp (by rw [hs, hfull, hwait]; rfl) hk hsync hcpl
    have hlen : y.length = 16 := length_completionBytes _ _ _ _ _ _ _
    have hbyte : ∀ a, memGet a (modQueue q.toNat (fun x => { x with cmds := x.cmds.erase c }) (writeCompletion k y s)) =
        memGet a (cplPut cq y s) := fun a => memGet_of_mem ((setQueue_mem _ _ _).trans hmem) a
    refine goes_of_eq rfl hrow ⟨fun ho => ?_, fun ho => ?_, ?_, ?_, fun j hj hjk => ?_⟩
    · obtain ⟨hin, hout⟩ := memGet_cplPut hecc hlen ho
      exact ⟨fun i hi => (hbyte _).trans (hin i hi), fun a ha => (hbyte a).trans (hout a ha)⟩
    · exact ((setQueue_mem _ _ _).trans hmem).trans (congrArg State.mem (cplPut_closed ho y))
    · exact (getQueue_setQueue_ne hkq _ _).trans hcq
    · rw [getQueue_modQueue_same, hothers _ (Ne.symm hkq)]
    · exact (getQueue_setQueue_ne hj _ _).trans (hothers j hjk)

end Sys2Proof.Machine
end

section
/-! SUPPORT. The statements on sync objects, on LOAD and UNLOAD, and on LAUNCH and ARM fail where two dispatched commands of one
queue share a ring index (R31, R112): the command that ends is found by its index, so the first of the two leaves the intake of
its core in place of the one that the row names, and a hand-off changes, which the frames of these statements rule out. A queue
dispatches no command while one that it has dispatched has not started (R111); the statements speak of every state. -/

namespace Sys2Proof.Machine

/-- A COPY of 4 bytes. -/
def copyBytes : List Byte := [0, 0, 0, 6] ++ List.replicate 36 0 ++ [4]

/-- The command word of an opcode, and the handle of program slot 0 in its first generation. -/
def slotCmdBytes (op : Byte) : List Byte := [0, 0, 0, op] ++ List.replicate 19 0 ++ [1]

/-- A command that shares the index of the COPY. -/
def sharedCmd (b : List Byte) : QCmd := ⟨0, 0, b, .dispatched⟩

/-- Queue 0 holds two dispatched commands of one index, a COPY, whose entry stands in the intake of core 0, and a second one;
slot 0 holds a program without cores. -/
def sharedIndex (b : List Byte) : State :=
  { State.reset with
    queues := [(0, { Queue.off with cmds := [sharedCmd copyBytes, sharedCmd b] })]
    progs := [(0, ⟨1, some ⟨0, [], [], []⟩⟩)]
    handoffs := [(0, ⟨15, [copyBytes], false⟩)] }

/-- The end of the second command takes the COPY out of the intake of its core. -/
theorem endCmd_sharedIndex (b : List Byte) :
    (endCmd 0 0 stOK 0 (sharedIndex b)).handoffs ≠ (sharedIndex b).handoffs := by
  have hleave : (endCmd 0 0 stOK 0 (sharedIndex b)).handoffs = (hoLeave 0 copyBytes (sharedIndex [])).handoffs := rfl
  rw [hleave]
  show (hoLeave 0 copyBytes (sharedIndex [])).handoffs ≠ (sharedIndex []).handoffs
  decide +kernel

/-- Refutes O29: the end of a NOP that shares its index with a COPY takes the COPY out of the intake of its core, and the frame of
NOP has no change of a hand-off. -/
theorem not_syncObjects : ¬ Obligations.SyncObjects := by
  unfold Obligations.SyncObjects
  rintro ⟨-, -, hcmd⟩
  have hsafe : isSafe (sharedIndex []) = false := by decide +kernel
  have hwait : waitingCmd 0 0 (sharedIndex []) = some (sharedCmd []) := by decide +kernel
  obtain ⟨hnop, -⟩ := hcmd 0 (sharedCmd []) (sharedIndex []) hsafe
  obtain ⟨t, ht, -, hframe⟩ := hnop hwait
  have hexec : exec (.nop 0) (sharedIndex []) = .next (endCmd 0 0 stOK 0 (sharedIndex [])) :=
    congrArg Host.Outcome.next (withCmd_of_waiting hwait hsafe _)
  obtain rfl := Host.Outcome.next.inj (hexec.symm.trans ht)
  have hkept := congrArg State.handoffs hframe
  exact endCmd_sharedIndex [] hkept

/-- Refutes O30: the end of an UNLOAD that shares its index with a COPY takes the COPY out of the intake of its core, and the
frame of UNLOAD has no change of a hand-off. -/
theorem not_loadAndUnload : ¬ Obligations.LoadAndUnload := by
  unfold Obligations.LoadAndUnload
  intro h
  let b := slotCmdBytes 2
  have hsafe : isSafe (sharedIndex b) = false := by decide +kernel
  have hwait : waitingCmd 0 2 (sharedIndex b) = some (sharedCmd b) := by decide +kernel
  obtain ⟨-, -, hunload⟩ := h (sharedIndex b) rfl rfl hsafe
  obtain ⟨hfree, -⟩ := hunload 0 (sharedCmd b) hwait (by decide +kernel)
  obtain ⟨t, ht, -, -, -, hframe⟩ := hfree rfl
  have hexec : exec (.unload 0) (sharedIndex b) = .next (endCmd 0 0 stOK 0 (freeProg 0 (sharedIndex b))) := by
    refine congrArg Host.Outcome.next ((withCmd_of_waiting hwait hsafe _).trans ?_)
    decide +kernel
  obtain rfl := Host.Outcome.next.inj (hexec.symm.trans ht)
  have hkept := congrArg State.handoffs hframe
  exact endCmd_sharedIndex b hkept

/-- Refutes O31: the end of a DISARM that shares its index with a COPY takes the COPY out of the intake of its core, and the
frame of DISARM without an armed instance has no change of a hand-off. -/
theorem not_launchAndArm : ¬ Obligations.LaunchAndArm := by
  unfold Obligations.LaunchAndArm
  intro h
  let b := slotCmdBytes 5
  have hsafe : isSafe (sharedIndex b) = false := by decide +kernel
  have hwait : waitingCmd 0 5 (sharedIndex b) = some (sharedCmd b) := by decide +kernel
  obtain ⟨-, -, hdisarm⟩ := h 0 (sharedCmd b) (sharedIndex b) rfl hsafe (by decide +kernel) (by decide +kernel)
  obtain ⟨hnone, -⟩ := hdisarm hwait
  obtain ⟨t, ht, -, hframe⟩ := hnone rfl
  have hexec : exec (.disarm 0) (sharedIndex b) = .next (endCmd 0 0 stOK 0 (sharedIndex b)) := by
    refine congrArg Host.Outcome.next ((withCmd_of_waiting hwait hsafe _).trans ?_)
    decide +kernel
  obtain rfl := Host.Outcome.next.inj (hexec.symm.trans ht)
  have hkept := congrArg State.handoffs hframe
  exact endCmd_sharedIndex b hkept

end Sys2Proof.Machine
end

section
/-! SUPPORT. What a fault record changes besides its registers (R384 to R388): the log, counters and interrupts. The marks of
errors stay, and so does every register of a unit outside the hub. -/

namespace Sys2Proof.Machine

/-- The second state differs from the first in what a fault record can change alone. -/
def LogOnly (s t : State) : Prop :=
  t = { s with regs := t.regs, bur := t.bur, perf := t.perf, host := t.host, mgmt := t.mgmt }

theorem LogOnly.trans {s t u : State} (h : LogOnly s t) (k : LogOnly t u) : LogOnly s u := by
  unfold LogOnly at *
  rw [k, h]

theorem LogOnly.ite {s t u : State} {c : Prop} [Decidable c] (ht : LogOnly s t) (hu : LogOnly s u) :
    LogOnly s (if c then t else u) := by
  split
  · exact ht
  · exact hu

theorem LogOnly.ecc {s t : State} (h : LogOnly s t) : t.ecc = s.ecc := by rw [h]

theorem IrqOnly.logOnly {s t : State} (h : IrqOnly s t) : LogOnly s t := by
  unfold IrqOnly at h
  unfold LogOnly
  rw [h]

theorem PerfOnly.logOnly {s t : State} (h : PerfOnly s t) : LogOnly s t := by
  unfold PerfOnly at h
  unfold LogOnly
  rw [h]

theorem logOnly_fset (b : Nat) (f : Fld) (v : Nat) (s : State) : LogOnly s (fset b f v s) := rfl

theorem logOnly_evtQuiet (b : Nat) (e : Evt) (s : State) : LogOnly s (evtQuiet b e s) := rfl

theorem logOnly_evt (b : Nat) (e : Evt) (s : State) : LogOnly s (evt b e s) := by
  unfold evt
  dsimp only
  split
  · rfl
  · exact (logOnly_evtQuiet b e s).trans (irqOnly_raiseMsix _ _ _).logOnly

theorem logOnly_sortRec (n : Nat) (q : Word) (s : State) : LogOnly s (sortRec n q s) := by
  have hswap : ∀ a b q u, LogOnly u (swapRec a b q u) := fun a b q u => by
    unfold LogOnly
    rw [swapRec_frame]
  obtain ⟨_, h⟩ := sortRec_keeps (fun _ u => LogOnly s u) (fun q a b u _ _ hu => hu.trans (hswap a b q u)) n q s rfl
  exact h

theorem logOnly_takeRec (tm : BitVec 48 × BitVec 16) (cls react code source parts info0 info1 : Nat) (s : State) :
    LogOnly s (takeRec tm cls react code source parts info0 info1 s) := by
  unfold takeRec
  dsimp only
  split
  · unfold repeatRec
    split
    · rfl
    · split <;> rfl
  · refine .trans ?_ (logOnly_sortRec _ _ _)
    exact LogOnly.ite rfl rfl

/-- A fault record changes the log, its registers, counters and interrupts alone. -/
theorem logOnly_logFaultAt (tm : BitVec 48 × BitVec 16) (code source parts info0 info1 : Nat) (s : State) :
    LogOnly s (logFaultAt tm code source parts info0 info1 s) := by
  rw [logFaultAt_stages]
  dsimp only
  have hev := (logOnly_takeRec tm (faultClass code source) (faultReact (faultClass code source) code source s) code source
    parts info0 info1 s).trans (logOnly_evtQuiet burB (classEvt (faultClass code source)) _)
  have hcount := (hev.ite (c := ¬code = 0x16) (hev.trans (logOnly_evtQuiet burB eBUR_EVENT_WIRE _))).trans
    (perfOnly_countRec source _).logOnly
  rw [ite_not] at hcount
  have hirq := LogOnly.ite (c := faultReact (faultClass code source) code source s = 0 ∨
      faultReact (faultClass code source) code source s = 4) hcount (hcount.trans (irqOnly_burIrq parts _).logOnly)
  exact LogOnly.ite (hirq.trans rfl) hirq

theorem logOnly_softFault (code source info0 info1 : Nat) (s : State) : LogOnly s (softFault code source info0 info1 s) := by
  unfold softFault collected
  split
  · exact logOnly_logFaultAt _ _ _ _ _ _ s
  · exact LogOnly.ite (logOnly_logFaultAt _ _ _ _ _ _ s) rfl

theorem regsKept_softFault (code source info0 info1 : Nat) (s : State) :
    RegsKept logRegs s (softFault code source info0 info1 s) := by
  unfold softFault collected
  split
  · exact regsKept_logFaultAt _ _ _ _ _ _ s
  · exact .ite (.of_regs rfl) (regsKept_logFaultAt _ _ _ _ _ _ s)

theorem not_mem_logRegs {o : Nat} (h : 0x01000000 ≤ o) : o ∉ logRegs := by
  have hlog : ∀ o ∈ logRegs, o < 0x01000000 := by decide
  exact fun hm => absurd (hlog o hm) (by omega)

/-- A fault record leaves the registers of the units outside the hub alone. -/
theorem fget_softFault {b : Nat} (h : 0x01000000 ≤ b) (f : Fld) (code source info0 info1 : Nat) (s : State) :
    fget b f (softFault code source info0 info1 s) = fget b f s :=
  (regsKept_softFault code source info0 info1 s).fget (not_mem_logRegs (by omega))

end Sys2Proof.Machine
end

section
/-! SUPPORT. Patrol of SRAM and of the stacks (R132, R138, R145): errors that are found raise the event of their store or of their
stack, and no byte changes. -/

namespace Sys2Proof.Machine

/-! Marks of SRAM words. -/

theorem forAll_one {α : Type} (x : α) (f : α → State → State) (s : State) : forAll [x] f s = f x s := rfl

theorem sramB_le_of_patrolRuns {a : Nat} {s : State} (h : patrolRuns a s = true) : sramB ≤ a := by
  simp only [patrolRuns, Bool.and_eq_true, beq_iff_eq] at h
  have hr := h.1.1.1
  unfold regionOf at hr
  split at hr
  · cases hr
  · split at hr
    · next ha => exact ha.1
    · split at hr <;> cases hr

/-- A mark that an SRAM line meets is one of SRAM. -/
theorem stackEnd_le_of_mem_marksIn {a n : Nat} {c : Nat × Nat} {s : State} (ha : sramB ≤ a) (h : c ∈ marksIn a n s) :
    stackEnd ≤ c.1 := by
  have hm : a < c.1 + eccUnit c.1 ∧ c.1 < a + n := of_decide_eq_true (List.mem_filter.1 h).2
  have hu : eccUnit c.1 ≤ 64 := by
    unfold eccUnit
    split <;> decide
  simp only [stackEnd, sramB] at ha ⊢
  omega

theorem noteMarks_sram {x v : Nat} (h : stackEnd ≤ x) (s : State) :
    noteMarks [(x, v)] s = if v = 2 then noteUE x s else noteCE x s := by
  rw [noteMarks, forAll_one, if_neg (Nat.not_lt.2 h)]
  split <;> rfl

/-! Events of a store. -/

/-- After its event a W1C bit of the event tables is set. -/
theorem fget_evt_of_ok (b : Nat) {e : Evt} (h : e.Ok) (s : State) : fget b e.bit (evt b e s) = 1 := by
  obtain ⟨hbit, hcnt, -, hne, -⟩ := h
  exact fget_evt_bit b hbit hcnt (.inl hne) s

theorem storeRegs_fields (a : Nat) :
    (storeRegs a).2.1.1.Ok ∧ (storeRegs a).2.1.2.1.Ok ∧ (storeRegs a).2.1.2.2.2.Ok ∧
    (storeRegs a).2.1.2.1.bit.Apart (storeRegs a).2.1.2.2.2 := by
  unfold storeRegs
  split <;> (dsimp only; decide)

/-- After a corrected SRAM word the CE event of its store stands, and the marks are as before. -/
theorem noteCE_sram {x : Nat} (h : stackEnd ≤ x) (s : State) :
    fget (storeRegs x).1 (storeRegs x).2.1.1.bit (noteCE x s) = 1 ∧ (noteCE x s).ecc = s.ecc := by
  obtain ⟨hok, -⟩ := storeRegs_fields x
  have hce : noteCE x s = softFault 0x02 (storeRegs x).2.2.1 (storeRegs x).2.2.2 0 (evt (storeRegs x).1 (storeRegs x).2.1.1 s) :=
    if_neg (Nat.not_lt.2 h)
  rw [hce]
  refine ⟨?_, (logOnly_softFault _ _ _ _ _).ecc.trans (logOnly_evt _ _ s).ecc⟩
  rw [fget_softFault (storeRegs_ge x), fget_evt_of_ok _ hok]

/-- After an uncorrectable SRAM word the UE event of its store stands, and the marks are as before. -/
theorem noteUE_sram {x : Nat} (h : stackEnd ≤ x) (s : State) :
    fget (storeRegs x).1 (storeRegs x).2.1.2.1.bit (noteUE x s) = 1 ∧ (noteUE x s).ecc = s.ecc := by
  obtain ⟨-, hok, hfld, hadr⟩ := storeRegs_fields x
  have hue : noteUE x s = softFault 0x03 (storeRegs x).2.2.1 (storeRegs x).2.2.2 0
      (fset (storeRegs x).1 (storeRegs x).2.1.2.2.2 (storeRegs x).2.2.2 (evt (storeRegs x).1 (storeRegs x).2.1.2.1 s)) :=
    if_neg (Nat.not_lt.2 h)
  rw [hue]
  refine ⟨?_, (logOnly_softFault _ _ _ _ _).ecc.trans (logOnly_evt _ _ s).ecc⟩
  rw [fget_softFault (storeRegs_ge x), fget_fset_apart _ hfld hadr, fget_evt_of_ok _ hok]

/-! SRAM_PATROL_READ. -/

section
variable {a : Nat} {s : State} (hrun : patrolRuns (a / lineBytes * lineBytes) s = true)
include hrun

theorem sramPatrol_runs (written : Bool) : sramPatrol a written s =
    if written then noteMarks (marksIn (a / lineBytes * lineBytes) lineBytes s) s
    else patrolWriteBack (a / lineBytes * lineBytes) (noteMarks (marksIn (a / lineBytes * lineBytes) lineBytes s) s) :=
  if_pos hrun

theorem sramPatrol_clean (written : Bool) (h : marksIn (a / lineBytes * lineBytes) lineBytes s = []) :
    sramPatrol a written s = s := by
  rw [sramPatrol_runs hrun, h, noteMarks_nil, patrolWriteBack, h]
  exact ite_self s

theorem stackEnd_le_of_marked {x v : Nat} (h : marksIn (a / lineBytes * lineBytes) lineBytes s = [(x, v)]) : stackEnd ≤ x :=
  stackEnd_le_of_mem_marksIn (c := (x, v)) (n := lineBytes) (sramB_le_of_patrolRuns hrun) (by rw [h]; exact .head _)

theorem sramPatrol_marked (written : Bool) {x v : Nat} (h : marksIn (a / lineBytes * lineBytes) lineBytes s = [(x, v)]) :
    sramPatrol a written s = if written then (if v = 2 then noteUE x s else noteCE x s)
      else patrolWriteBack (a / lineBytes * lineBytes) (if v = 2 then noteUE x s else noteCE x s) := by
  have hx : stackEnd ≤ x := stackEnd_le_of_marked hrun h
  rw [sramPatrol_runs hrun, h, noteMarks_sram hx]

/-- A line with one single-bit error: the event stands, and the mark goes unless a port has written the line (R132). -/
theorem sramPatrol_corrected (written : Bool) {x : Nat} (h : marksIn (a / lineBytes * lineBytes) lineBytes s = [(x, 1)]) :
    let t := sramPatrol a written s
    fget (storeRegs x).1 (storeRegs x).2.1.1.bit t = 1 ∧ t.mem = s.mem ∧ t.cores = s.cores ∧
    (written = false → tget (fun _ => 0) t.ecc x = 0) ∧ (written = true → t.ecc = s.ecc) := by
  have hx : stackEnd ≤ x := stackEnd_le_of_marked hrun h
  obtain ⟨hev, hecc⟩ := noteCE_sram hx s
  have hback : patrolWriteBack (a / lineBytes * lineBytes) (noteCE x s) = setMark x 0 (noteCE x s) := by
    rw [patrolWriteBack, marksIn_of_ecc hecc, h]
    rfl
  have ht := sramPatrol_marked hrun written h
  simp only [show ¬(1 : Nat) = 2 by decide, if_false, hback] at ht
  dsimp only
  rw [ht]
  cases written with
  | true => exact ⟨hev, quiet_mem.noteCE x s, quiet_cores.noteCE x s, nofun, fun _ => hecc⟩
  | false => exact ⟨hev, quiet_mem.noteCE x s, quiet_cores.noteCE x s, fun _ => tget_tset_same (fun _ => 0) x 0 _, nofun⟩

/-- A line with one uncorrectable word: the event stands, and so does the mark (R132). -/
theorem sramPatrol_uncorrectable (written : Bool) {x : Nat} (h : marksIn (a / lineBytes * lineBytes) lineBytes s = [(x, 2)]) :
    let t := sramPatrol a written s
    fget (storeRegs x).1 (storeRegs x).2.1.2.1.bit t = 1 ∧ t.mem = s.mem ∧ t.cores = s.cores ∧ t.ecc = s.ecc := by
  have hx : stackEnd ≤ x := stackEnd_le_of_marked hrun h
  obtain ⟨hev, hecc⟩ := noteUE_sram hx s
  have hback : patrolWriteBack (a / lineBytes * lineBytes) (noteUE x s) = noteUE x s := by
    rw [patrolWriteBack, marksIn_of_ecc hecc, h]
    rfl
  have ht := sramPatrol_marked hrun written h
  simp only [if_true, hback, ite_self] at ht
  dsimp only
  rw [ht]
  exact ⟨hev, quiet_mem.noteUE x s, quiet_cores.noteUE x s, hecc⟩

end

/-! MEM_PATROL. -/

/-- What the read of a granule without a mark of an uncorrectable or parity error does (R138). -/
def patrolResult (st a : Nat) (res : GranuleRead) (s : State) : State :=
  match res with
  | .clean => s
  | .corrected => softFault 0x05 (0x5000 + st) (a % 2 ^ 32) (a / 2 ^ 32) (evt (memB st) eMEM_ECC_CE s)
  | .uncorrected => patrolUE a s
  | .parityOnce => noteParity a s
  | .parityTwice => patrolUE a (noteParity a s)

/-- MEM_PATROL of a granule of a stack in service, with patrol on: the read is counted, and its result noted. -/
theorem memPatrolOp_reads {st addr : Nat} {s : State} (ha : addr / 64 * 64 < stackEnd) (hst : stackOf (addr / 64 * 64) = st)
    (hok : stackOk st s = true) (hsafe : isSafe s = false) (hper : fget (memB st) fMEM_PATROL_PERIOD_H s ≠ 0)
    (hscrub : fget (memB st) fMEM_STATUS_SCRUBBING s = 0) (hmark : tget (fun _ => 0) s.ecc (addr / 64 * 64) < 2)
    (res : GranuleRead) :
    memPatrolOp st addr res s = patrolResult st (addr / 64 * 64) res (noteAccess false (addr / 64 * 64) 64 s) := by
  have hopen : ¬(stackEnd ≤ addr / 64 * 64 ∨ stackOf (addr / 64 * 64) ≠ st ∨ (!stackOk st s) = true ∨ isSafe s = true ∨
      fget (memB st) fMEM_STATUS_SCRUBBING s = 1 ∨ fget (memB st) fMEM_PATROL_PERIOD_H s = 0) := by
    simp only [hst, hok, hsafe, hper, hscrub]
    simp only [stackEnd] at ha ⊢
    simpa using ha
  unfold memPatrolOp
  dsimp only
  rw [if_neg hopen, ecc_noteAccess, if_neg (by omega)]
  rfl

theorem patrolResult_view {β : Type} {φ : State → β} (q : Quiet φ) (st a : Nat) (res : GranuleRead) (s : State) :
    φ (patrolResult st a res s) = φ s := by
  have hue : ∀ u, φ (patrolUE a u) = φ u := fun u => (q.noteUE a _).trans (q.setMark a 2 u)
  cases res with
  | clean => rfl
  | corrected => exact (q.softFault _ _ _ _ _).trans (q.evt _ _ s)
  | uncorrected => exact hue s
  | parityOnce => exact q.noteParity a s
  | parityTwice => exact (hue _).trans (q.noteParity a s)

section
variable {a : Nat}

theorem noteParity_stack (s : State) :
    fget (memB (stackOf a)) fMEM_ECC_PARITY (noteParity a s) = 1 ∧ (noteParity a s).ecc = s.ecc := by
  refine ⟨?_, (logOnly_softFault _ _ _ _ _).ecc.trans (logOnly_evt _ _ s).ecc⟩
  rw [noteParity, fget_softFault (memB_ge _)]
  exact fget_evt_of_ok _ (e := eMEM_ECC_PARITY) (by decide) s

theorem noteUE_stack (ha : a < stackEnd) (s : State) : noteUE a s =
    softFault 0x07 (0x5000 + stackOf a) (a % 2 ^ 32) (a / 2 ^ 32)
      (fset (memB (stackOf a)) fMEM_UE_ADDR_LO_ADDR_LO (a % 2 ^ 32)
        (fset (memB (stackOf a)) fMEM_UE_ADDR_HI_ADDR_HI (a / 2 ^ 32) (evt (memB (stackOf a)) eMEM_ECC_UE s))) := if_pos ha

/-- After a granule of a stack is found uncorrectable it reads so, the UE event stands with the low half of the address, and
PARITY is as before (R138). -/
theorem patrolUE_stack (ha : a < stackEnd) (h64 : a % 64 = 0) (s : State) :
    let b := memB (stackOf a)
    let t := patrolUE a s
    isUE a t = true ∧ fget b fMEM_ECC_UE t = 1 ∧ fget b fMEM_UE_ADDR_LO_ADDR_LO t = a % 2 ^ 32 ∧
    fget b fMEM_ECC_PARITY t = fget b fMEM_ECC_PARITY s := by
  intro b t
  have ht : t = _ := noteUE_stack ha (setMark a 2 s)
  have hb : 0x01000000 ≤ b := memB_ge _
  have hecc : t.ecc = (setMark a 2 s).ecc := by
    rw [ht, (logOnly_softFault _ _ _ _ _).ecc, fset_ecc, fset_ecc, (logOnly_evt _ _ _).ecc]
  have hunit : a / eccUnit a * eccUnit a = a := by
    rw [eccUnit, if_pos ha]
    omega
  refine ⟨?_, ?_, ?_, ?_⟩
  · rw [isUE, hecc, hunit, setMark, tget_tset_same]
    rfl
  · rw [ht, fget_softFault hb, fget_fset_apart _ (by decide) (by decide), fget_fset_apart _ (by decide) (by decide)]
    exact fget_evt_of_ok _ (e := eMEM_ECC_UE) (by decide) _
  · rw [ht, fget_softFault hb, fget_fset_same _ (by decide)]
    exact Nat.mod_eq_of_lt (Nat.mod_lt _ (by decide))
  · rw [ht, fget_softFault hb, fget_fset_apart _ (by decide) (by decide), fget_fset_apart _ (by decide) (by decide),
      fget_evt_apart _ (by decide) (by decide) (by decide)]
    exact fget_congr (setMark_regs a 2 s) _ _

/-- What the read of a granule of a stack leaves in the registers of the stack and in the marks, by its result (R138). -/
theorem patrolResult_stack {st : Nat} (ha : a < stackEnd) (h64 : a % 64 = 0) (hst : stackOf a = st) (res : GranuleRead) (s : State) :
    let t := patrolResult st a res s
    (res = .clean ∨ res = .corrected ∨ res = .parityOnce → t.ecc = s.ecc) ∧
    (res = .corrected → fget (memB st) fMEM_ECC_CE t = 1) ∧
    (res = .parityOnce ∨ res = .parityTwice → fget (memB st) fMEM_ECC_PARITY t = 1) ∧
    (res = .uncorrected ∨ res = .parityTwice → isUE a t = true ∧ fget (memB st) fMEM_ECC_UE t = 1 ∧
      fget (memB st) fMEM_UE_ADDR_LO_ADDR_LO t = a % 2 ^ 32) := by
  subst hst
  cases res with
  | clean => simp [patrolResult]
  | corrected =>
    refine ⟨fun _ => (logOnly_softFault _ _ _ _ _).ecc.trans (logOnly_evt _ _ s).ecc, fun _ => ?_, by simp, by simp⟩
    rw [patrolResult, fget_softFault (memB_ge _)]
    exact fget_evt_of_ok _ (e := eMEM_ECC_CE) (by decide) s
  | uncorrected =>
    obtain ⟨hue, hev, hlo, -⟩ := patrolUE_stack ha h64 s
    exact ⟨by simp, by simp, by simp, fun _ => ⟨hue, hev, hlo⟩⟩
  | parityOnce =>
    obtain ⟨hpar, hecc⟩ := noteParity_stack (a := a) s
    exact ⟨fun _ => hecc, by simp, fun _ => hpar, by simp⟩
  | parityTwice =>
    obtain ⟨hpar, -⟩ := noteParity_stack (a := a) s
    obtain ⟨hue, hev, hlo, hkeep⟩ := patrolUE_stack ha h64 (noteParity a s)
    exact ⟨by simp, by simp, fun _ => hkeep.trans hpar, fun _ => ⟨hue, hev, hlo⟩⟩

end

end Sys2Proof.Machine
end

section
/-! SUPPORT. Scrubs (R139 to R142): their marks in the flash and in the registers, the memory that they zero, and the stacks
whose read-back failed. -/

namespace Sys2Proof.Machine

/-! The partition reset that a scrub is part of. -/

theorem partInReset_of_partRun {p ph : Nat} {s : State} (h : partRun p ph s = true) : partInReset p s = true := by
  simp only [partRun, partInReset, List.any_eq_true, Bool.and_eq_true] at h ⊢
  obtain ⟨r, hr, hrun, -⟩ := h
  exact ⟨r, hr, hrun⟩

theorem partRun_setPartPhase {p : Nat} {s : State} (h : partInReset p s = true) (ph : Nat) :
    partRun p ph (setPartPhase p ph s) = true := by
  simp only [partRun, partInReset, setPartPhase, List.any_eq_true, Bool.and_eq_true, beq_iff_eq] at h ⊢
  obtain ⟨r, hr, hrun⟩ := h
  exact ⟨_, List.mem_map_of_mem hr, by rw [if_pos hrun]; exact ⟨hrun, rfl⟩⟩

/-! The marks of a scrub. -/

theorem bitOf_setBit (v i : Nat) (b : Bool) : bitOf (setBit v i b) i = b := by
  rw [bitOf_eq_testBit, setBit, testBit_setBits _ _ _ _ _ (by omega), if_pos ⟨le_refl i, le_refl i⟩, Nat.sub_self]
  cases b <;> rfl

/-- A field of n bits that takes a number with bit i written shows that bit. -/
theorem bitOf_setBit_mod {i n : Nat} (h : i < n) (v : Nat) (b : Bool) : bitOf (setBit v i b % 2 ^ n) i = b := by
  rw [bitOf_eq_testBit, Nat.testBit_mod_two_pow, ← bitOf_eq_testBit, bitOf_setBit]
  simp [h]

/-- The registers in which a scrub shows: HUB_SCRUB and the status of each stack. -/
def scrubRegs : List Nat := (hubB + oHUB_SCRUB) :: (List.range 20).map fun st => memB st + oMEM_STATUS

theorem memStatus_mem_scrubRegs {st : Nat} (h : st < 20) : memB st + oMEM_STATUS ∈ scrubRegs :=
  .tail _ (List.mem_map.2 ⟨st, List.mem_range.2 h, rfl⟩)

theorem hubScrub_ne_memStatus (st : Nat) : hubB + oHUB_SCRUB ≠ memB st + oMEM_STATUS := by
  simp only [hubB, oHUB_SCRUB, memB, oMEM_STATUS]
  omega

/-- The scrub of the stacks of a partition begins or ends in the registers. -/
def markStacks (dies : List Nat) (b : Bool) (s : State) : State :=
  forAll ((List.range 20).filter fun st => dies.contains (st / 5) && (stackOk st s || !b))
    (fun st => fset (memB st) fMEM_STATUS_SCRUBBING b.toNat) s

theorem setScrubActive_eq (dies : List Nat) (p : Nat) (b : Bool) (s : State) : setScrubActive dies p b s =
    markStacks dies b (fset hubB fHUB_SCRUB_ACTIVE (setBit (fget hubB fHUB_SCRUB_ACTIVE s) p b) s) := rfl

theorem fget_markStacks {b : Nat} {f : Fld} (h : ∀ st, b + f.off ≠ memB st + oMEM_STATUS) (dies : List Nat) (on : Bool)
    (s : State) : fget b f (markStacks dies on s) = fget b f s :=
  forAll_view (Machine.fget b f) _ (fun st u => fget_fset_ne (h st) _ u) _ s

theorem memB_inj {i j : Nat} (h : memB i + oMEM_STATUS = memB j + oMEM_STATUS) : i = j := by
  unfold memB at h
  omega

/-- The marks of a scrub leave what is in service. -/
theorem stackOk_markStacks (i : Nat) (dies : List Nat) (on : Bool) (s : State) :
    stackOk i (markStacks dies on s) = stackOk i s := by
  refine forAll_view (stackOk i) _ (fun st u => ?_) _ s
  unfold stackOk
  by_cases h : i = st
  · rw [h, fget_fset_apart _ (by decide) (by decide)]
  · rw [fget_fset_ne fun he => h (memB_inj he)]

theorem regsPerf_setScrubActive (dies : List Nat) (p : Nat) (b : Bool) (s : State) : RegsPerf s (setScrubActive dies p b s) :=
  forAll_keeps (RegsPerf s) _ (fun _ _ h => h.trans (regsPerf_fset _ _ _ _)) _ _ (regsPerf_fset _ _ _ s)

theorem scrubbing_setScrubActive {p : Nat} (h : p < 4) (dies : List Nat) (b : Bool) (s : State) :
    scrubbing p (setScrubActive dies p b s) = b := by
  rw [setScrubActive_eq, scrubbing, fget_markStacks hubScrub_ne_memStatus, fget_fset_same _ (by decide)]
  exact bitOf_setBit_mod h _ b

theorem stackOk_fset_hub (i : Nat) {f : Fld} (h : f.off < 0x00100000) (v : Nat) (s : State) :
    stackOk i (fset hubB f v s) = stackOk i s := by
  have hne : memB i + fMEM_STATUS_STATE.off ≠ hubB + f.off := by
    simp only [memB, hubB]
    omega
  rw [stackOk, stackOk, fget_fset_ne hne]

theorem stackOk_setScrubActive (i : Nat) (dies : List Nat) (p : Nat) (b : Bool) (s : State) :
    stackOk i (setScrubActive dies p b s) = stackOk i s := by
  rw [setScrubActive_eq, stackOk_markStacks, stackOk_fset_hub i (by decide)]

/-- The flash mark of a partition's scrub, and its dies. -/
theorem setScrubPending_spec (p : Nat) (b : Bool) (s : State) :
    let t := setScrubPending p b s
    bitOf t.nv.scrubs p = b ∧
    t.nv.scrubDies = modAt p (fun _ => if b then ((diesOfPart p s).map fun d => 2 ^ d).sum else 0) s.nv.scrubDies ∧
    (∀ i, scrubbing i t = scrubbing i s) ∧ (∀ i, stackOk i t = stackOk i s) ∧
    t = { s with regs := t.regs, nv := { s.nv with scrubs := t.nv.scrubs, scrubDies := t.nv.scrubDies } } := by
  refine ⟨bitOf_setBit _ _ _, rfl, fun i => ?_, fun i => stackOk_fset_hub i (by decide) _ _, rfl⟩
  rw [scrubbing, setScrubPending, fget_fset_apart _ (by decide) (by decide)]
  rfl

/-! A pass over the stacks. -/

theorem accessOnly_scrubPass (w : Bool) (dies : List Nat) (p : Nat) (s : State) : AccessOnly s (scrubPass w dies p s) :=
  forAll_keeps (AccessOnly s) _ (fun _ _ h => h.trans (accessOnly_noteAccess _ _ _ _)) _ s rfl

theorem regsKept_scrubPass (w : Bool) (dies : List Nat) (p : Nat) (s : State) : RegsKept granRegs s (scrubPass w dies p s) :=
  .forAll (fun _ _ => regsKept_noteAccess _ _ _ _) _ s

theorem sameRanges_scrubPass (w : Bool) (dies : List Nat) (p : Nat) (s : State) : SameRanges s (scrubPass w dies p s) := by
  have h := accessOnly_scrubPass w dies p s
  unfold AccessOnly at h
  exact sameRanges_of_kept (by rw [h]) (by rw [h]) (by rw [h]) (regsKept_scrubPass w dies p s) offService_granRegs

/-- SCRUB_START in a partition reset whose engines are idle (R140). -/
theorem scrubStart_spec {p : Nat} {s : State} (hp : p < 4) (hsafe : isSafe s = false) (hrun : partRun p 1 s = true)
    (hidle : partIdle p s = true) :
    let t := scrubStart p s
    scrubbing p t = true ∧ bitOf t.nv.scrubs p = true ∧ partRun p 2 t = true ∧
    t.nv.scrubDies = modAt p (fun _ => ((diesOfPart p s).map fun d => 2 ^ d).sum) s.nv.scrubDies ∧
    t = { s with
      regs := t.regs, nv := { s.nv with scrubs := t.nv.scrubs, scrubDies := t.nv.scrubDies }, rst := t.rst, chans := t.chans,
      perf := t.perf } := by
  intro t
  let u := setScrubPending p true s
  let v := setScrubActive (diesOfPart p s) p true u
  have ht : t = scrubPass true (diesOfPart p s) p (setPartPhase p 2 v) := if_pos (by simp [hrun, hidle, hsafe])
  have hpass := accessOnly_scrubPass true (diesOfPart p s) p (setPartPhase p 2 v)
  have hsame := sameRanges_scrubPass true (diesOfPart p s) p (setPartPhase p 2 v)
  rw [← ht] at hpass hsame
  have hv : RegsPerf u v := regsPerf_setScrubActive _ _ _ _
  obtain ⟨hbit, hdies, -, -, hu⟩ := setScrubPending_spec p true s
  unfold AccessOnly at hpass
  unfold RegsPerf at hv
  have hnv : t.nv = u.nv := by rw [hpass]; show v.nv = _; rw [hv]
  have hrst : t.rst = (setPartPhase p 2 v).rst := by rw [hpass]
  have hin : partInReset p v = true := by rw [partInReset, hv]; exact partInReset_of_partRun hrun
  refine ⟨?_, ?_, ?_, ?_, ?_⟩
  · rw [hsame.scrub]
    exact scrubbing_setScrubActive hp _ true u
  · rw [hnv]
    exact hbit
  · rw [partRun, hrst]
    exact partRun_setPartPhase hin 2
  · rw [hnv]
    exact hdies
  · have hsp : setPartPhase p 2 v = { v with rst := (setPartPhase p 2 v).rst } := rfl
    rw [hnv, hrst, hpass, hsp, hv]
    rfl

/-! A stack whose read-back failed (R142). -/

/-- What a scrub fails to read back leaves alone. -/
theorem quiet_scrubRest : Quiet fun s => (s.mem, s.cores, s.queues, s.nv, s.rst) := ⟨fun _ _ => rfl, fun _ _ => rfl,
  fun _ _ => rfl, fun _ _ => rfl, fun _ _ => rfl, fun _ _ => rfl, fun _ _ => rfl⟩

/-- The registers that the fault of a stack that a scrub finds changes. -/
def stackFaultRegs (st : Nat) : List Nat :=
  [memB st + oMEM_STATUS, hubB + oHUB_TOPOLOGY] ++ logRegs

theorem regsKept_fenceStack (st : Nat) (s : State) : RegsKept (stackFaultRegs st) s (fenceStack st s) := by
  have hstate : memB st + fMEM_STATUS_STATE.off ∈ stackFaultRegs st := .head _
  have hstacks : hubB + fHUB_TOPOLOGY_STACKS.off ∈ stackFaultRegs st := .tail _ (.head _)
  have hclusters : hubB + fHUB_TOPOLOGY_CLUSTERS.off ∈ stackFaultRegs st := .tail _ (.head _)
  unfold fenceStack noteTopology
  exact (regsKept_fset hstate _ _).trans ((regsKept_fset hstacks _ _).trans (regsKept_fset hclusters _ _))

theorem stackOk_congr {i : Nat} {s t : State} (h : t.regs = s.regs) : stackOk i t = stackOk i s := by
  rw [stackOk, stackOk, fget_congr h]

theorem Quiet.fenceStack {β : Type} {φ : State → β} (q : Quiet φ) (st : Nat) (s : State) : φ (fenceStack st s) = φ s :=
  (q.fset _ _ _ _).trans ((q.fset _ _ _ _).trans (q.fset _ _ _ s))

theorem stackOk_fenceStack (st : Nat) (s : State) : stackOk st (fenceStack st s) = false := by
  rw [fenceStack, noteTopology, stackOk_fset_hub st (by decide), stackOk_fset_hub st (by decide), stackOk,
    fget_fset_same _ (by decide)]
  rfl

theorem isSafe_of_regsKept {l : List Nat} {s t : State} (h : RegsKept l s t) (hl : burB + oBUR_STATUS ∉ l) :
    isSafe t = isSafe s := by
  rw [isSafe, isSafe, h.fget hl]

/-- SCRUB_FAIL of a stack is recorded or waits at its collector, and fences the stack (R388). -/
theorem unitFault_stack {st : Nat} (h : st < 20) (s : State) :
    (∃ v, unitFault 0x08 (0x5000 + st) s = { s with bur := v }) ∨
    ∃ parts, unitFault 0x08 (0x5000 + st) s = logFault 0x08 (0x5000 + st) parts 0 0 s ∨
      unitFault 0x08 (0x5000 + st) s = fenceStack st (logFault 0x08 (0x5000 + st) parts 0 0 s) := by
  have hsrc : (0x5000 + st) / 0x1000 = 5 := by omega
  have hcls : faultClass 0x08 (0x5000 + st) = 2 := by simp [faultClass]
  have hunit : fenceUnit (0x5000 + st) = fenceStack st := by
    funext u
    rw [fenceUnit, hsrc, show (0x5000 + st) % 32 = st by omega]
    rfl
  have hdie : ∃ d, collectorDie (0x5000 + st) = some d := by
    rw [collectorDie, sourceDie, hsrc]
    exact ⟨_, if_neg (by decide)⟩
  obtain ⟨d, hd⟩ := hdie
  unfold unitFault collected
  rw [hd]
  dsimp only
  by_cases hfree : collectorFree (d % 4) s = true
  · rw [if_pos hfree]
    refine .inr ⟨sourceParts (0x5000 + st) s, ?_⟩
    generalize sourceParts (0x5000 + st) s = parts
    have hkept := regsKept_logFaultAt (s.clk.w, s.clk.epoch) 0x08 (0x5000 + st) parts 0 0 s
    have hreact : faultReact 2 0x08 (0x5000 + st) s = 2 := rfl
    rw [raiseFault, raiseFaultAt, hcls, hreact, hunit]
    by_cases hr : reacted (s.clk.w, s.clk.epoch) (0x5000 + st) s = true
    · have hs : isSafe s = true := by
        rw [reacted, Bool.and_eq_true] at hr
        exact hr.1
      rw [if_pos hr]
      exact .inl (if_pos ((isSafe_of_regsKept hkept (by decide)).trans hs))
    · rw [if_neg hr]
      exact .inr rfl
  · rw [if_neg hfree]
    exact .inl ⟨_, rfl⟩

/-- A stack whose read-back failed is fenced, and its fault recorded. -/
def failStack (st : Nat) (s : State) : State := unitFault 0x08 (0x5000 + st) (fenceStack st s)

theorem regsKept_logFault_stack (st parts : Nat) (s : State) :
    RegsKept (stackFaultRegs st) s (logFault 0x08 (0x5000 + st) parts 0 0 s) :=
  (regsKept_logFaultAt _ _ _ _ _ _ s).mono fun _ h => List.mem_append_right _ h

theorem regsKept_failStack {st : Nat} (h : st < 20) (s : State) : RegsKept (stackFaultRegs st) s (failStack st s) := by
  refine (regsKept_fenceStack st s).trans ?_
  unfold failStack
  obtain ⟨v, hv⟩ | ⟨parts, hl | hl⟩ := unitFault_stack h (fenceStack st s)
  · rw [hv]
    exact .of_regs rfl
  · rw [hl]
    exact regsKept_logFault_stack st parts _
  · rw [hl]
    exact (regsKept_logFault_stack st parts _).trans (regsKept_fenceStack st _)

theorem failStack_view {β : Type} {φ : State → β} (q : Quiet φ) {st : Nat} (h : st < 20) (s : State) :
    φ (failStack st s) = φ s := by
  refine Eq.trans ?_ (q.fenceStack st s)
  unfold failStack
  obtain ⟨v, hv⟩ | ⟨parts, hl | hl⟩ := unitFault_stack h (fenceStack st s)
  · rw [hv]
    exact q.bur _ v
  · rw [hl]
    exact q.logFault _ _ _ _ _ _
  · rw [hl]
    exact (q.fenceStack st _).trans (q.logFault _ _ _ _ _ _)

/-- The record of a fault leaves what is in service. -/
theorem stackOk_logFault (i ec src parts : Nat) (s : State) : stackOk i (logFault ec src parts 0 0 s) = stackOk i s := by
  have hnot : memB i + fMEM_STATUS_STATE.off ∉ logRegs := not_mem_logRegs (by unfold memB; omega)
  rw [stackOk, stackOk, logFault, (regsKept_logFaultAt (s.clk.w, s.clk.epoch) ec src parts 0 0 s).fget hnot]

theorem stackOk_unitFault {st : Nat} (h : st < 20) {u : State} (hout : stackOk st u = false) :
    stackOk st (unitFault 0x08 (0x5000 + st) u) = false := by
  obtain ⟨v, hv⟩ | ⟨parts, hl | hl⟩ := unitFault_stack h u
  · rw [hv]
    exact (stackOk_congr rfl).trans hout
  · rw [hl, stackOk_logFault]
    exact hout
  · rw [hl]
    exact stackOk_fenceStack st _

theorem memStatus_not_mem_stackFaultRegs {st i : Nat} (h : i ≠ st) : memB i + fMEM_STATUS_STATE.off ∉ stackFaultRegs st := by
  intro hm
  rcases List.mem_append.1 hm with hm | hm
  · simp only [List.mem_cons, List.not_mem_nil, or_false] at hm
    rcases hm with hm | hm
    · exact h (memB_inj hm)
    · simp only [memB, hubB, oHUB_TOPOLOGY] at hm
      omega
  · exact not_mem_logRegs (by unfold memB; omega) hm

/-- The fault of a stack takes it out of service, and brings no stack back. -/
theorem stackOk_failStack {st i : Nat} (h : st < 20) (s : State) (hi : i = st ∨ stackOk i s = false) :
    stackOk i (failStack st s) = false := by
  by_cases he : i = st
  · rw [he]
    exact stackOk_unitFault h (stackOk_fenceStack st s)
  · rw [stackOk, (regsKept_failStack h s).fget (memStatus_not_mem_stackFaultRegs he)]
    exact hi.resolve_left he

/-- The faults of a list of stacks take each of them out of service. -/
theorem stackOk_failStacks {i : Nat} : ∀ {l : List Nat} {s : State}, (∀ st ∈ l, st < 20) → (i ∈ l ∨ stackOk i s = false) →
    stackOk i (forAll l failStack s) = false
  | [], _, _, h => h.resolve_left nofun
  | st :: l, s, hl, h => by
    rw [forAll_cons]
    refine stackOk_failStacks (fun x hx => hl x (.tail _ hx)) ?_
    rcases h with h | h
    · rcases List.mem_cons.1 h with h | h
      · exact .inr (stackOk_failStack (hl st (.head _)) s (.inl h))
      · exact .inl h
    · exact .inr (stackOk_failStack (hl st (.head _)) s (.inr h))

/-! SCRUB_DONE. -/

/-- The stacks of a set of dies whose read-back failed. -/
def failedStacks (dies : List Nat) (bad : BitVec 20) (s : State) : List Nat :=
  (List.range 20).filter fun st => dies.contains (st / 5) && bad.getLsbD st && stackOk st s

theorem lt_of_mem_failedStacks {dies : List Nat} {bad : BitVec 20} {s : State} {st : Nat} (h : st ∈ failedStacks dies bad s) :
    st < 20 := List.mem_range.1 (List.mem_of_mem_filter h)

/-- Without a failed cluster, the end of a scrub fences the stacks that failed. -/
theorem scrubFails_stacks (dies : List Nat) (p : Nat) (bad : BitVec 20) (s : State) :
    let u := forAll (failedStacks dies bad s) failStack s
    scrubFails dies p bad 0 s = { u with rst := { u.rst with runs := u.rst.runs.map fun r =>
      if r.unit = 3 ∧ r.target = p then { r with failed := 0 } else r } } := by
  have hnone : ((List.range 32).filter fun k => dies.contains (k / 8) && (0 : BitVec 32).getLsbD k) = [] := by
    simp
  unfold scrubFails
  dsimp only
  rw [hnone]
  rfl

theorem partInReset_failed {p : Nat} {s : State} (h : partInReset p s = true) :
    partInReset p { s with rst := { s.rst with runs := s.rst.runs.map fun r =>
      if r.unit = 3 ∧ r.target = p then { r with failed := 0 } else r } } = true := by
  simp only [partInReset, List.any_eq_true, Bool.and_eq_true, beq_iff_eq] at h ⊢
  obtain ⟨r, hr, hrun⟩ := h
  exact ⟨_, List.mem_map_of_mem hr, by rw [if_pos hrun]; exact hrun⟩

/-- The end of a scrub without a failed cluster: the failed stacks are out of service, and memory, cores, queues and the flash
are as before. -/
theorem scrubFails_spec (dies : List Nat) (p : Nat) (bad : BitVec 20) {s : State} (hin : partInReset p s = true) :
    let t := scrubFails dies p bad 0 s
    (t.mem = s.mem ∧ t.cores = s.cores ∧ t.queues = s.queues ∧ t.nv = s.nv) ∧ (∀ i, scrubbing i t = scrubbing i s) ∧
    partInReset p t = true ∧ ∀ st ∈ failedStacks dies bad s, stackOk st t = false := by
  intro t
  let u := forAll (failedStacks dies bad s) failStack s
  have ht : t = _ := scrubFails_stacks dies p bad s
  have hrest : (u.mem, u.cores, u.queues, u.nv, u.rst) = (s.mem, s.cores, s.queues, s.nv, s.rst) :=
    forAll_keeps_mem (fun v => (v.mem, v.cores, v.queues, v.nv, v.rst) = _) _ _ s
      (fun st hst v hv => (failStack_view quiet_scrubRest (lt_of_mem_failedStacks hst) v).trans hv) rfl
  simp only [Prod.mk.injEq] at hrest
  obtain ⟨hmem, hcores, hqueues, hnv, hrst⟩ := hrest
  have hscrub : ∀ i, scrubbing i u = scrubbing i s := fun i =>
    forAll_keeps_mem (fun v => scrubbing i v = scrubbing i s) _ _ s (fun st hst v hv => by
      have hnot : hubB + oHUB_SCRUB ∉ stackFaultRegs st := by
        intro hm
        rcases List.mem_append.1 hm with hm | hm
        · rcases List.mem_cons.1 hm with hm | hm
          · exact hubScrub_ne_memStatus st hm
          · exact absurd hm (by decide)
        · exact absurd hm (by decide)
      rw [scrubbing, (regsKept_failStack (lt_of_mem_failedStacks hst) v).fget hnot]
      exact hv) rfl
  refine ⟨?_, fun i => ?_, ?_, fun st hst => ?_⟩
  · rw [ht]
    exact ⟨hmem, hcores, hqueues, hnv⟩
  · rw [ht]
    exact hscrub i
  · rw [ht]
    refine partInReset_failed ?_
    rw [partInReset, hrst]
    exact hin
  · rw [ht]
    exact stackOk_failStacks (fun x hx => lt_of_mem_failedStacks hx) (.inl hst)

/-- SCRUB_DONE of a running scrub with no failed cluster (R140 to R142). -/
theorem scrubDone_spec {p : Nat} {s : State} (hp : p < 4) (hsafe : isSafe s = false) (hrun : partRun p 2 s = true)
    (bad : BitVec 20) :
    let t := scrubDone p bad 0 s
    (∀ a, memGet a t = if scrubCovers p a s then 0 else memGet a s) ∧ scrubbing p t = false ∧
    bitOf t.nv.scrubs p = false ∧ partRun p 3 t = true ∧ t.cores = s.cores ∧ t.queues = s.queues ∧
    ∀ st ∈ stacksOfPart p s, bad.getLsbD st = true → stackOk st s = true → stackOk st t = false := by
  intro t
  let dies := diesOfPart p s
  let z := scrubZero dies p s
  let a := scrubPass false dies p z
  let u := setScrubActive dies p false a
  let v := setScrubPending p false u
  let w := scrubFails dies p bad 0 v
  have ht : t = setPartPhase p 3 w := if_pos (by simp [hrun, hsafe])
  have ha : AccessOnly z a := accessOnly_scrubPass false dies p z
  have hu : RegsPerf a u := regsPerf_setScrubActive dies p false a
  obtain ⟨hbit, -, hscrub, hstack, hv⟩ := setScrubPending_spec p false u
  unfold AccessOnly at ha
  unfold RegsPerf at hu
  have hrst : v.rst = s.rst := by show (setScrubPending p false u).rst = _; rw [hv, hu, ha]; rfl
  have hvmem : v.mem = z.mem := by show (setScrubPending p false u).mem = _; rw [hv, hu, ha]
  have hvcores : v.cores = s.cores := by show (setScrubPending p false u).cores = _; rw [hv, hu, ha]; rfl
  have hvqueues : v.queues = s.queues := by show (setScrubPending p false u).queues = _; rw [hv, hu, ha]; rfl
  have hin : partInReset p v = true := by
    rw [partInReset, hrst]
    exact partInReset_of_partRun hrun
  obtain ⟨⟨hmem, hcores, hqueues, hnv⟩, hscrub', hin', hout⟩ := scrubFails_spec dies p bad hin
  rw [ht]
  refine ⟨fun x => ?_, ?_, ?_, partRun_setPartPhase hin' 3, hcores.trans hvcores, hqueues.trans hvqueues, fun st hst hb hok => ?_⟩
  · have hz : memGet x (setPartPhase p 3 w) = memGet x z := memGet_of_mem (hmem.trans hvmem) x
    have hcover : scrubCovers p x s = scrubCoversOn dies p x s := rfl
    rw [hz, memGet, hcover]
    show tget _ (s.mem.filter fun c => !scrubCoversOn dies p c.1 s) x = _
    rw [tget_filter _ fun y => !scrubCoversOn dies p y s]
    cases scrubCoversOn dies p x s <;> rfl
  · exact (hscrub' p).trans ((hscrub p).trans (scrubbing_setScrubActive hp dies false a))
  · show bitOf w.nv.scrubs p = false
    rw [hnv]
    exact hbit
  · have hmemb := List.mem_filter.1 hst
    have hlt : st < 20 := List.mem_range.1 hmemb.1
    have hdie : st / 5 ∈ dies := List.mem_filter.2 ⟨List.mem_range.2 (by omega), hmemb.2⟩
    have hokv : stackOk st v = true := by
      rw [hstack, stackOk_setScrubActive, (sameRanges_scrubPass false dies p z).stack]
      exact hok
    exact hout st (List.mem_filter.2 ⟨List.mem_range.2 hlt, by
      rw [Bool.and_eq_true, Bool.and_eq_true, List.contains_iff_mem]
      exact ⟨⟨hdie, hb⟩, hokv⟩⟩)

end Sys2Proof.Machine
end

section
/-! Settles O34: patrols, channel power-down and scrubs (R131 to R133, R138, R140 to R142, R145). -/

namespace Sys2Proof.Machine

/-- Settles O34: each command by what its operation does to the state, patrol by the marks of its line or by the result of its
granule, a scrub along the stages of its start and of its end. -/
theorem patrolsAndScrubs : Obligations.PatrolsAndScrubs := by
  unfold Obligations.PatrolsAndScrubs
  refine ⟨⟨?_, ?_, ?_⟩, fun p s hsafe => ⟨fun hrun hidle => ?_, fun bad hrun => ?_⟩⟩
  · intro addr written s a hrun
    exact ⟨fun hm => ⟨_, rfl, sramPatrol_clean hrun written hm⟩, fun x hm => ⟨_, rfl, sramPatrol_corrected hrun written hm⟩,
      fun x hm => ⟨_, rfl, sramPatrol_uncorrectable hrun written hm⟩⟩
  · intro st addr res s a ha hst hok hsafe hper hscrub hmark
    obtain ⟨hecc, hregs⟩ := patrolResult_stack ha (Nat.mul_mod_left _ 64) hst res (noteAccess false a 64 s)
    refine ⟨_, rfl, ?_⟩
    rw [memPatrolOp_reads ha hst hok hsafe hper hscrub hmark]
    refine ⟨?_, ?_, ?_, fun h => (hecc h).trans (ecc_noteAccess false a 64 s), hregs⟩
    · exact (patrolResult_view quiet_mem _ _ _ _).trans (quiet_mem.noteAccess false a 64 s)
    · exact (patrolResult_view quiet_cores _ _ _ _).trans (quiet_cores.noteAccess false a 64 s)
    · exact (patrolResult_view quiet_queues _ _ _ _).trans (quiet_queues.noteAccess false a 64 s)
  · intro st ch s x hok hidle hscrub
    have hdown : channelDown st.val ch.val s =
        { s with chans := tset (fun _ => (0, false)) (32 * st.val + ch.val) (x.1, true) s.chans } := if_pos ⟨hok, hidle, hscrub⟩
    refine ⟨_, rfl, ?_⟩
    rw [hdown]
    exact ⟨tget_tset_same _ _ _ _, rfl⟩
  · exact ⟨_, rfl, scrubStart_spec p.isLt hsafe hrun hidle⟩
  · exact ⟨_, rfl, scrubDone_spec p.isLt hsafe hrun bad⟩

end Sys2Proof.Machine
end

section
/-! SUPPORT. The ports of the fabric: a port after a change of one, and what the control items that it queues leave alone
(R227, R245). -/

namespace Sys2Proof.Machine

theorem getPort_modPort (i p : Nat) (f : Port → Port) (s : State) :
    getPort i (modPort p f s) = if i = p ∧ p < s.fab.ports.length then f (getPort p s) else getPort i s := by
  unfold getPort modPort
  by_cases hi : i = p
  · subst hi
    by_cases hl : i < s.fab.ports.length
    · rw [if_pos ⟨rfl, hl⟩]
      exact getD_modAt f _ _ _ hl
    · rw [if_neg fun h => hl h.2, List.getD_eq_default _ _ (by rw [length_modAt]; omega), List.getD_eq_default _ _ (by omega)]
  · rw [if_neg fun h => hi h.1]
    exact getD_modAt_ne f _ _ hi

theorem getPort_congr {s t : State} (h : t.fab.ports = s.fab.ports) (i : Nat) : getPort i t = getPort i s := by
  rw [getPort, getPort, h]

theorem getElem?_modPort_same {p : Nat} {y : Port} {s : State} (h : s.fab.ports[p]? = some y) (f : Port → Port) :
    (modPort p f s).fab.ports[p]? = some (f (getPort p s)) := by
  obtain ⟨hl, -⟩ := List.getElem?_eq_some_iff.1 h
  have hm : p < (modAt p f s.fab.ports).length := by rwa [length_modAt]
  have hget := getD_modAt f Port.down s.fab.ports p hl
  rw [List.getD_eq_getElem?_getD, List.getElem?_eq_getElem hm, Option.getD_some] at hget
  show (modAt p f s.fab.ports)[p]? = _
  rw [List.getElem?_eq_getElem hm, hget, getPort]

/-- The second port differs from the first in its control items and in the probes that it holds alone. -/
def SameButItems (x y : Port) : Prop := y = { x with items := y.items, probes := y.probes }

theorem SameButItems.trans {x y z : Port} (h : SameButItems x y) (k : SameButItems y z) : SameButItems x z := by
  unfold SameButItems at *
  rw [k, h]

/-- Nothing changes but the control items and the probes of ports. -/
structure ItemsOnly (s t : State) : Prop where
  rest   : t = { s with fab := { s.fab with ports := t.fab.ports } }
  length : t.fab.ports.length = s.fab.ports.length
  port   : ∀ i, SameButItems (getPort i s) (getPort i t)

theorem ItemsOnly.refl (s : State) : ItemsOnly s s := ⟨rfl, rfl, fun _ => rfl⟩

theorem ItemsOnly.trans {s t u : State} (h : ItemsOnly s t) (k : ItemsOnly t u) : ItemsOnly s u :=
  ⟨by rw [k.rest, h.rest], k.length.trans h.length, fun i => (h.port i).trans (k.port i)⟩

theorem itemsOnly_modPort {f : Port → Port} (h : ∀ x, SameButItems x (f x)) (p : Nat) (s : State) : ItemsOnly s (modPort p f s) := by
  refine ⟨rfl, length_modAt f _ p, fun i => ?_⟩
  rw [getPort_modPort]
  split
  · next hi => exact hi.1 ▸ h _
  · rfl

theorem itemsOnly_routeItem (i : CtlItem) (s : State) : ItemsOnly s (routeItem i s) := by
  unfold routeItem
  split
  · exact .refl s
  · refine itemsOnly_modPort (fun _ => ?_) _ s
    rfl

theorem itemsOnly_probesGo (p v n : Nat) (s : State) : ItemsOnly s (probesGo p v n s) := by
  unfold probesGo
  refine forAll_keeps (ItemsOnly s) _ (fun y _ h => h.trans (itemsOnly_routeItem _ _)) _ _
    (itemsOnly_modPort (fun _ => ?_) p s)
  rfl

section
variable {s t : State} (h : ItemsOnly s t)
include h

theorem ItemsOnly.regs : t.regs = s.regs := by rw [h.rest]
theorem ItemsOnly.mem : t.mem = s.mem := by rw [h.rest]
theorem ItemsOnly.cores : t.cores = s.cores := by rw [h.rest]
theorem ItemsOnly.remote : t.fab.remote = s.fab.remote := by rw [h.rest]

theorem ItemsOnly.fget (b : Nat) (f : Fld) : fget b f t = fget b f s := fget_congr h.regs b f

end

/-- The item waits on the lowest-numbered port that is up. -/
theorem itemOn_routeItem {q : Nat} {y : Port} {s : State} (ha : anyPort s = some q) (hy : s.fab.ports[q]? = some y) (i : CtlItem) :
    ItemOn q i (routeItem i s) := by
  unfold routeItem
  rw [ha]
  exact ⟨_, getElem?_modPort_same hy _, List.mem_append_right _ (.head _)⟩

/-! The links. -/

/-- The states of the links are as before. -/
def SameLinks (s t : State) : Prop := ∀ i < 32, portState i t = portState i s

theorem SameLinks.trans {s t u : State} (h : SameLinks s t) (k : SameLinks t u) : SameLinks s u :=
  fun i hi => (k i hi).trans (h i hi)

theorem sameLinks_of_regs {s t : State} (h : t.regs = s.regs) : SameLinks s t := fun i _ => fget_congr h (fabB i) _

theorem sameLinks_of_kept {l : List Nat} {s t : State} (h : RegsKept l s t) (hl : ∀ i < 32, fabB i ∉ l) : SameLinks s t :=
  fun i hi => h.fget (hl i hi)

theorem SameLinks.portUp {s t : State} (h : SameLinks s t) {i : Nat} (hi : i < 32) : portUp i t = portUp i s := by
  rw [Machine.portUp, Machine.portUp, h i hi]

theorem SameLinks.anyPort {s t : State} (h : SameLinks s t) : anyPort t = anyPort s :=
  List.find?_congr fun _ hi => h.portUp (List.mem_range.1 hi)

theorem SameLinks.portFor {s t : State} (h : SameLinks s t) {d q : Nat} (hq : q < 8) : portFor d q t = portFor d q s := by
  refine List.find?_congr fun i hi => h.portUp ?_
  obtain ⟨j, -, rfl⟩ := List.mem_map.1 hi
  omega

theorem SameLinks.spreadRound {s t : State} (h : SameLinks s t) (core : Nat) (w : BitVec 64) :
    spreadRound core w t = spreadRound core w s := by
  refine List.flatMap_congr fun i _ => ?_
  dsimp only
  rw [h.portFor (Nat.mod_lt _ (by decide))]

/-- A port of a round is up. -/
theorem portUp_of_mem_spreadRound {core r : Nat} {w : BitVec 64} {s : State} (h : r ∈ spreadRound core w s) :
    portUp r s = true := by
  obtain ⟨i, -, hi⟩ := List.mem_flatMap.1 h
  dsimp only at hi
  split at hi
  · cases hi
  · next hp =>
    rw [(List.mem_replicate.1 hi).2]
    exact List.find?_some (p := fun i => Machine.portUp i s) hp

end Sys2Proof.Machine
end

section
/-! SUPPORT. Cells that leave the Sump (R235): what they leave alone. -/

namespace Sys2Proof.Machine

/-- The occupancy registers of a pair, of its port's headroom and of the Sump. -/
def sumpRegList (p v : Nat) : List Nat :=
  [fabB p + (oFAB_DEPTH_VL0 + 4 * v), fabB p + oFAB_HEADROOM, fabB 0 + oFAB_SUMP]

theorem fabB_not_mem_sumpRegList {p v i : Nat} (hv : v < 8) : fabB i ∉ sumpRegList p v := by
  simp only [sumpRegList, fabB, oFAB_DEPTH_VL0, oFAB_HEADROOM, oFAB_SUMP, List.mem_cons, List.not_mem_nil, or_false]
  omega

theorem offService_sumpRegList {p v : Nat} (hp : p < 32) (hv : v < 8) : OffService (sumpRegList p v) := by
  intro o ho
  simp only [sumpRegList, fabB, oFAB_DEPTH_VL0, oFAB_HEADROOM, oFAB_SUMP, List.mem_cons, List.not_mem_nil, or_false] at ho
  refine ⟨by omega, fun st => ?_⟩
  simp only [memB, oMEM_STATUS]
  omega

/-- A register before those of the ports is none of theirs. -/
theorem not_mem_sumpRegList {p v o : Nat} (h : o < 0x02000000) : o ∉ sumpRegList p v := by
  simp only [sumpRegList, fabB, List.mem_cons, List.not_mem_nil, or_false]
  omega

theorem regsKept_noteDepth {l : List Nat} {b : Nat} {cur peak : Fld} (hc : b + cur.off ∈ l) (hp : b + peak.off ∈ l) (n : Nat)
    (s : State) : RegsKept l s (noteDepth b cur peak n s) := (regsKept_fset hp _ _).trans (regsKept_fset hc _ _)

theorem regsKept_sumpRegs (p v : Nat) (s : State) : RegsKept (sumpRegList p v) s (sumpRegs p v s) := by
  have hcur : fabB p + (fDepthCur v).off ∈ sumpRegList p v := .head _
  have hpeak : fabB p + (fDepthPeak v).off ∈ sumpRegList p v := .head _
  have hhead : fabB p + fFAB_HEADROOM_CUR_KIB.off ∈ sumpRegList p v := .tail _ (.head _)
  have hheadPeak : fabB p + fFAB_HEADROOM_PEAK_KIB.off ∈ sumpRegList p v := .tail _ (.head _)
  have hfree : fabB 0 + fFAB_SUMP_FREE_KIB.off ∈ sumpRegList p v := .tail _ (.tail _ (.head _))
  have hused : fabB 0 + fFAB_SUMP_USED_PEAK_KIB.off ∈ sumpRegList p v := .tail _ (.tail _ (.head _))
  unfold sumpRegs
  exact (regsKept_noteDepth hcur hpeak _ s).trans ((regsKept_noteDepth hhead hheadPeak _ _).trans
    ((regsKept_fset hused _ _).trans (regsKept_fset hfree _ _)))

theorem regsOnly_sumpRegs (p v : Nat) (s : State) : RegsOnly s (sumpRegs p v s) := by
  have hdepth : ∀ b cur peak n u, RegsOnly u (noteDepth b cur peak n u) := fun b cur peak n u =>
    (regsOnly_fset _ _ _ u).trans (regsOnly_fset _ _ _ _)
  exact (hdepth _ _ _ _ s).trans ((hdepth _ _ _ _ _).trans ((regsOnly_fset _ _ _ _).trans (regsOnly_fset _ _ _ _)))

theorem modAt_id {α : Type} (l : List α) (i : Nat) : modAt i (fun x => x) l = l := by
  induction l generalizing i with
  | nil => unfold modAt; rfl
  | cons x l ih => cases i with
    | zero => rfl
    | succ i => exact congrArg (x :: ·) (ih i)

/-- A port loses n cells of a pair as a port x holds them: from its headroom, from shared space, from the reserve. -/
def takeCells (v n : Nat) (x y : Port) : Port :=
  let h := Nat.min n (x.inHead.getD v 0)
  let g := Nat.min (n - h) (x.inShared.getD v 0)
  let r := Nat.min (n - h - g) (x.inRes.getD v 0)
  { y with
    headroom := y.headroom - h, inHead := modAt v (· - h) y.inHead, inShared := modAt v (· - g) y.inShared,
    inRes := modAt v (· - r) y.inRes }

theorem takeCells_down (v n : Nat) : takeCells v n Port.down Port.down = Port.down := by
  have hzero : (List.replicate 8 0).getD v 0 = 0 := by
    rw [List.getD_eq_getElem?_getD, List.getElem?_replicate]
    split <;> rfl
  simp only [takeCells, Port.down, hzero, Nat.min_zero, Nat.sub_zero, modAt_id]

/-- The cells leave their port; then the registers follow, and the probes behind them go. -/
theorem freeCells_eq (p v n : Nat) (s : State) :
    freeCells p v n s = probesGo p v n (sumpRegs p v (modPort p (takeCells v n (getPort p s)) s)) := rfl

/-- The egress queues of the second port, and the cells that wait for them, are those of the first. -/
def SameEgress (x y : Port) : Prop := y.egress = x.egress ∧ y.backlog = x.backlog

/-- What the arrival of a packet leaves: its cells are gone from the Sump, and the second state differs from the first in ports,
occupancy registers and the receiving counters of sessions alone. -/
structure CellsOut (p : Nat) (k : Packet) (s u : State) : Prop where
  rest     : u = { s with regs := u.regs, fab := { s.fab with ports := u.fab.ports, sessions := u.fab.sessions } }
  regs     : RegsKept (sumpRegList p k.vl.val) s u
  length   : u.fab.ports.length = s.fab.ports.length
  freed    : PktFreed p k s u
  egress   : ∀ i, SameEgress (getPort i s) (getPort i u)
  sessions : ∀ e, (getSession e u).map (fun x => { x with ivRx := 0 }) = (getSession e s).map fun x => { x with ivRx := 0 }

theorem pktFreed_of_takeCells {p : Nat} {k : Packet} {s t : State}
    (h : SameButItems (takeCells k.vl.val (cellsOf k.data.length) (getPort p s) (getPort p s)) (getPort p t)) : PktFreed p k s t := by
  unfold SameButItems at h
  unfold PktFreed
  rw [h]
  exact ⟨rfl, rfl, rfl, rfl⟩

theorem cellsOut_freeCells (p : Nat) (k : Packet) (s : State) :
    CellsOut p k s (freeCells p k.vl.val (cellsOf k.data.length) s) := by
  have heq := freeCells_eq p k.vl.val (cellsOf k.data.length) s
  generalize hf : takeCells k.vl.val (cellsOf k.data.length) (getPort p s) = f at heq
  obtain ⟨r, hr⟩ := regsOnly_sumpRegs p k.vl.val (modPort p f s)
  have hi := itemsOnly_probesGo p k.vl.val (cellsOf k.data.length) (sumpRegs p k.vl.val (modPort p f s))
  rw [← heq] at hi
  generalize freeCells p k.vl.val (cellsOf k.data.length) s = u at hi
  have hport : ∀ i, getPort i (sumpRegs p k.vl.val (modPort p f s)) = getPort i (modPort p f s) := fun i => by rw [hr]; rfl
  have hown : SameButItems (takeCells k.vl.val (cellsOf k.data.length) (getPort p s) (getPort p s)) (getPort p u) := by
    have h := hi.port p
    rw [hport, getPort_modPort] at h
    split at h
    · rwa [← hf] at h
    · next hout =>
      rw [not_and, Nat.not_lt] at hout
      have hdown : getPort p s = Port.down := List.getD_eq_default _ _ (hout rfl)
      rwa [hdown, takeCells_down, ← hdown]
  refine ⟨?_, ?_, ?_, pktFreed_of_takeCells hown, fun i => ?_, fun e => ?_⟩
  · rw [hi.rest, hr]
    rfl
  · have hmod : RegsKept (sumpRegList p k.vl.val) s (modPort p f s) := .of_regs rfl
    exact (hmod.trans (regsKept_sumpRegs p _ _)).trans (.of_regs hi.regs)
  · rw [hi.length, hr]
    exact length_modAt _ _ _
  · have h := hi.port i
    rw [hport, getPort_modPort] at h
    unfold SameButItems at h
    unfold SameEgress
    rw [h]
    split
    · next hip => rw [← hf, hip.1]; exact ⟨rfl, rfl⟩
    · exact ⟨rfl, rfl⟩
  · rw [getSession, hi.rest, hr]
    rfl

/-- The receiving counter of a session follows a packet, and nothing else of a session changes. -/
theorem cellsOut_noteIv {p : Nat} {k : Packet} {s u : State} (h : CellsOut p k s u) : CellsOut p k s (noteIv k u) := by
  unfold noteIv
  split
  · exact h
  · next x hx =>
    split
    · refine ⟨?_, ?_, h.length, h.freed, h.egress, fun e => ?_⟩
      · rw [h.rest]
        rfl
      · exact h.regs.trans (.of_regs rfl)
      · rw [← h.sessions e]
        unfold getSession setSession at *
        rw [tget_tset]
        split
        · next he => rw [he, hx]; rfl
        · rfl
    · exact h

end Sys2Proof.Machine
end

section
/-! SUPPORT. Checks of a packet (R239, R241, R427): they come out the same once its cells have left the Sump. -/

namespace Sys2Proof.Machine

section
variable {p : Nat} {k : Packet} {s u : State} (h : CellsOut p k s u)
include h

theorem CellsOut.mem : u.mem = s.mem := by rw [h.rest]
theorem CellsOut.ecc : u.ecc = s.ecc := by rw [h.rest]
theorem CellsOut.cores : u.cores = s.cores := by rw [h.rest]
theorem CellsOut.clk : u.clk = s.clk := by rw [h.rest]
theorem CellsOut.cab : u.cab = s.cab := by rw [h.rest]
theorem CellsOut.gzl : u.gzl = s.gzl := by rw [h.rest]
theorem CellsOut.sec : u.sec = s.sec := by rw [h.rest]
theorem CellsOut.table : u.fab.table = s.fab.table := by rw [h.rest]
theorem CellsOut.remote : u.fab.remote = s.fab.remote := by rw [h.rest]

/-- The registers of the units before the ports are as before. -/
theorem CellsOut.fget {b : Nat} {f : Fld} (hb : b + f.off < 0x02000000) : fget b f u = fget b f s :=
  h.regs.fget (not_mem_sumpRegList hb)

theorem CellsOut.links : SameLinks s u := sameLinks_of_kept h.regs fun _ _ => fabB_not_mem_sumpRegList k.vl.isLt

theorem CellsOut.ranges (hp : p < 32) : SameRanges s u :=
  sameRanges_of_kept h.cab (by rw [h.rest]) (by rw [h.rest]) h.regs (offService_sumpRegList hp k.vl.isLt)

theorem CellsOut.entryOf (e : BitVec 19) : entryOf e u = entryOf e s := by
  rw [Machine.entryOf, Machine.entryOf, h.table]

theorem CellsOut.findRemote (t : InstrTag) : findRemote t u = findRemote t s := by
  rw [Machine.findRemote, Machine.findRemote, h.remote]

theorem CellsOut.staleTag (t : InstrTag) : staleTag t u = staleTag t s := by
  have hlt := coreB_lt t.core.isLt
  rw [Machine.staleTag, Machine.staleTag, h.fget (by simp only [oCORE_RESET_GEN]; omega)]

theorem CellsOut.ownEid : ownEid u = ownEid s := by
  simp only [Machine.ownEid, h.fget (b := gzlB) (f := fGZL_SELF_RACK) (by decide),
    h.fget (b := gzlB) (f := fGZL_SELF_TRAY) (by decide), h.fget (b := gzlB) (f := fGZL_SELF_SOCKET) (by decide)]

theorem CellsOut.partStopped (i : Nat) : partStopped i u = partStopped i s := by
  rw [Machine.partStopped, Machine.partStopped, h.fget (by decide)]

theorem CellsOut.rowOfPart (i : Nat) : rowOfPart i u = rowOfPart i s := by
  rw [Machine.rowOfPart, Machine.rowOfPart, h.gzl, h.cab]

theorem CellsOut.pkgOfEid (i : Nat) (e : BitVec 19) : pkgOfEid i e u = pkgOfEid i e s := by
  rw [Machine.pkgOfEid, Machine.pkgOfEid, h.rowOfPart]

theorem CellsOut.shelfRefuses (pkg core a n : Nat) : shelfRefuses pkg core a n u = shelfRefuses pkg core a n s := by
  rw [Machine.shelfRefuses, Machine.shelfRefuses, h.cab]

theorem CellsOut.pktPart (a : Nat) : pktPart a u = pktPart a s := by
  rw [Machine.pktPart, Machine.pktPart, ownersIn_congr h.cab]

/-- A session is as before but for its receiving counter. -/
theorem CellsOut.session {e : BitVec 19} {x : Session} (hx : getSession e s = some x) :
    ∃ i, getSession e u = some { x with ivRx := i } := by
  have hmap := h.sessions e
  rw [hx] at hmap
  obtain ⟨y, hy, heq⟩ := Option.map_eq_some_iff.1 hmap
  refine ⟨y.ivRx, hy.trans (congrArg some ?_)⟩
  cases x
  cases y
  simp only [Session.mk.injEq] at heq ⊢
  tauto

theorem CellsOut.session_none {e : BitVec 19} (hx : getSession e s = none) : getSession e u = none := by
  have hmap := h.sessions e
  rw [hx] at hmap
  exact Option.map_eq_none_iff.1 hmap

theorem CellsOut.boundOk (i : Nat) (e : BitVec 19) (die : Nat) : boundOk i e die u = boundOk i e die s := by
  unfold Machine.boundOk loadedSlots
  rw [h.sec, h.cab]
  cases hx : getSession e s with
  | none => rw [h.session_none hx]
  | some x =>
    obtain ⟨j, hj⟩ := h.session hx
    rw [hj]

/-- Check 1 of R241 comes out the same. -/
theorem CellsOut.pktOpened (c : Packet) : pktOpened c u = pktOpened c s := by
  unfold Machine.pktOpened
  cases hx : getSession c.src s with
  | none => rw [h.session_none hx]
  | some x =>
    obtain ⟨j, hj⟩ := h.session hx
    have hkey : rxKey { x with ivRx := j } c.keyIdx u = rxKey x c.keyIdx s := by
      rw [rxKey, rxKey, h.clk]
    rw [hj]
    dsimp only
    rw [hkey]

/-- Checks 3 to 5 of R241 come out the same. -/
theorem CellsOut.pktRange (hp : p < 32) (c : Packet) (a n : Nat) : pktRange c a n u = pktRange c a n s := by
  simp only [Machine.pktRange, sliceHolds, ownersIn_congr h.cab, (h.ranges hp).fenceStatus, (h.ranges hp).drainStatus,
    h.rowOfPart, h.partStopped, h.boundOk]

end

/-! The packet in clear. -/

/-- A packet that is taken reads in clear as itself but for its data. -/
theorem pktOpened_some {k c : Packet} {s : State} (h : pktOpened k s = some c) : ∃ l, c = { k with data := l } := by
  unfold pktOpened at h
  split at h
  · cases h
  · split at h
    · cases h
    · split at h
      · cases h
        exact ⟨_, rfl⟩
      · cases h

/-- The state in which a packet that reads in clear is taken by its kind. -/
def pktTaken (p : Nat) (k : Packet) (s : State) : State := noteIv k (freeCells p k.vl.val (cellsOf k.data.length) s)

theorem cellsOut_pktTaken (p : Nat) (k : Packet) (s : State) : CellsOut p k s (pktTaken p k s) :=
  cellsOut_noteIv (cellsOut_freeCells p k s)

/-- A packet whose cells are not there, or in the safe state, is not taken. -/
theorem pktIn_away {p : Nat} {k : Packet} {s : State} (h : pktHere p k s = false) (early : Nat) : pktIn p k early s = s := by
  unfold pktIn
  refine if_pos ?_
  unfold pktHere at h
  revert h
  cases portUp p s <;> cases isSafe s <;> simp

theorem pktIn_gate {p : Nat} {k : Packet} {s : State} (h : pktHere p k s = true) :
    ¬(((!portUp p s && decide (pairCells (getPort p s) k.vl.val < cellsOf k.data.length)) || isSafe s) = true) := by
  unfold pktHere at h
  revert h
  cases portUp p s <;> cases isSafe s <;> simp

/-- A packet that fails check 1 is dropped with TAG_FAIL. -/
theorem pktIn_tagFail {p : Nat} {k : Packet} {s : State} (h : pktHere p k s = true) (hopen : pktOpened k s = none) (early : Nat) :
    pktIn p k early s = portFault 0x0E p p (evt (fabB p) eFAB_EVENT_TAG_FAIL
      (writeEarly k early (freeCells p k.vl.val (cellsOf k.data.length) s))) := by
  unfold pktIn
  rw [if_neg (pktIn_gate h)]
  dsimp only
  rw [(cellsOut_freeCells p k s).pktOpened, hopen]

/-- A packet that passes check 1 goes on by its kind. -/
theorem pktIn_opened {p : Nat} {k c : Packet} {s : State} (h : pktHere p k s = true) (hopen : pktOpened k s = some c) (early : Nat) :
    pktIn p k early s = pktKind p c (pktTaken p k s) := by
  unfold pktIn pktTaken
  rw [if_neg (pktIn_gate h)]
  dsimp only
  rw [(cellsOut_freeCells p k s).pktOpened, hopen]

end Sys2Proof.Machine
end

section
/-! SUPPORT. The answer to a packet (R241 to R243): where it is given, it waits on the lowest-numbered port that is up, and the cells
of the packet stay out of the Sump. -/

namespace Sys2Proof.Machine

theorem quiet_fab : Quiet State.fab := ⟨fun _ _ => rfl, fun _ _ => rfl, fun _ _ => rfl, fun _ _ => rfl,
  fun _ _ => rfl, fun _ _ => rfl, fun _ _ => rfl⟩

theorem pktFreed_of_ports {p : Nat} {k : Packet} {s u v : State} (hv : v.fab.ports = u.fab.ports) (h : PktFreed p k s u) :
    PktFreed p k s v := by
  unfold PktFreed at *
  rwa [getPort_congr hv]

theorem pktFreed_of_itemsOnly {p : Nat} {k : Packet} {s u v : State} (hv : ItemsOnly u v) (h : PktFreed p k s u) :
    PktFreed p k s v := by
  have hp := hv.port p
  unfold SameButItems at hp
  unfold PktFreed at *
  rw [hp]
  exact h

/-- A state from which a packet is answered: the links are up as they were, and its cells have left the Sump. -/
structure Answerable (p : Nat) (k : Packet) (s v : State) : Prop where
  links  : SameLinks s v
  length : v.fab.ports.length = s.fab.ports.length
  freed  : PktFreed p k s v

theorem CellsOut.answerable {p : Nat} {k : Packet} {s u : State} (h : CellsOut p k s u) : Answerable p k s u :=
  ⟨h.links, h.length, h.freed⟩

theorem Answerable.of_fab {p : Nat} {k : Packet} {s u v : State} (h : Answerable p k s u) (hf : v.fab = u.fab) (hl : SameLinks u v) :
    Answerable p k s v :=
  ⟨h.links.trans hl, by rw [hf]; exact h.length, pktFreed_of_ports (by rw [hf]) h.freed⟩

theorem Answerable.item {p q : Nat} {k : Packet} {y : Port} {s v : State} (h : Answerable p k s v) (ha : anyPort s = some q)
    (hy : s.fab.ports[q]? = some y) (i : CtlItem) : ItemOn q i (routeItem i v) ∧ PktFreed p k s (routeItem i v) := by
  obtain ⟨hq, -⟩ := List.getElem?_eq_some_iff.1 hy
  have hv : v.fab.ports[q]? = some _ := List.getElem?_eq_getElem (by rw [h.length]; exact hq)
  exact ⟨itemOn_routeItem (h.links.anyPort.trans ha) hv i, pktFreed_of_itemsOnly (itemsOnly_routeItem i v) h.freed⟩

/-! Events of a port. -/

theorem sameLinks_evt {p : Nat} {e : Evt} (hb : 0 < e.bit.off ∧ e.bit.off < 0x10000) (hc : 0 < e.cnt.off ∧ e.cnt.off < 0x10000)
    (s : State) : SameLinks s (evt (fabB p) e s) := by
  intro i _
  refine fget_evt_ne ?_ ?_ s <;> simp only [fabB, oFAB_STATUS] <;> omega

/-- A packet refused with a status: the NAK waits, UNKNOWN_SRC is set, and memory, cores and instructions are as before. -/
theorem refusePkt_spec {p q : Nat} {k c : Packet} {y : Port} {s u : State} (h : CellsOut p k s u) (ha : anyPort s = some q)
    (hy : s.fab.ports[q]? = some y) (st : BitVec 8) :
    let t := refusePkt p c st u
    ((ItemOn q (.nak c.src ⟨c.core, c.seqno⟩ st 0) t ∧ PktFreed p k s t ∧ t.mem = s.mem ∧ t.cores = s.cores) ∧
      fget (fabB p) eFAB_EVENT_UNKNOWN_SRC.bit t = 1) ∧ t.fab.remote = s.fab.remote := by
  intro t
  have hv : Answerable p k s (evt (fabB p) eFAB_EVENT_UNKNOWN_SRC u) :=
    h.answerable.of_fab (quiet_fab.evt _ _ u) (sameLinks_evt (by decide) (by decide) u)
  have hi : ItemsOnly (evt (fabB p) eFAB_EVENT_UNKNOWN_SRC u) t := itemsOnly_routeItem _ _
  obtain ⟨hon, hfreed⟩ := hv.item ha hy (.nak c.src ⟨c.core, c.seqno⟩ st 0)
  refine ⟨⟨⟨hon, hfreed, ?_, ?_⟩, ?_⟩, ?_⟩
  · rw [hi.mem, quiet_mem.evt, h.mem]
  · rw [hi.cores, quiet_cores.evt, h.cores]
  · rw [hi.fget, fget_evt_bit _ (by decide) (by decide) (by decide)]
  · rw [hi.remote, quiet_fab.evt, h.remote]

/-- A packet refused at a sink window. -/
theorem nakPkt_spec {p q : Nat} {k c : Packet} {y : Port} {s u : State} (h : CellsOut p k s u) (ha : anyPort s = some q)
    (hy : s.fab.ports[q]? = some y) (st : BitVec 8) :
    let t := nakPkt c st 0 u
    ItemOn q (.nak c.src ⟨c.core, c.seqno⟩ st 0) t ∧ PktFreed p k s t ∧ t.mem = s.mem ∧ t.cores = s.cores := by
  intro t
  have hi : ItemsOnly u t := itemsOnly_routeItem _ _
  obtain ⟨hon, hfreed⟩ := h.answerable.item ha hy (.nak c.src ⟨c.core, c.seqno⟩ st 0)
  exact ⟨hon, hfreed, hi.mem.trans h.mem, hi.cores.trans h.cores⟩

/-- A packet that is acknowledged once its effect on memory is done. -/
theorem ackPkt_spec {p q : Nat} {k c : Packet} {y : Port} {s v : State} (h : Answerable p k s v) (hc : v.cores = s.cores)
    (ha : anyPort s = some q) (hy : s.fab.ports[q]? = some y) :
    let t := ackPkt c v
    (ItemOn q (.ack c.src [(⟨c.core, c.seqno⟩, 1)]) t ∧ PktFreed p k s t ∧ t.cores = s.cores) ∧ t.mem = v.mem := by
  intro t
  have hi : ItemsOnly v t := itemsOnly_routeItem _ _
  obtain ⟨hon, hfreed⟩ := h.item ha hy (.ack c.src [(⟨c.core, c.seqno⟩, 1)])
  exact ⟨⟨hon, hfreed, hi.cores.trans hc⟩, hi.mem⟩

end Sys2Proof.Machine
end

section
/-! SUPPORT. Writes of memory without error marks (R116, R131), as the fabric makes them: they change no register of a link. -/

namespace Sys2Proof.Machine

theorem isUE_of_ecc_nil {s : State} (h : s.ecc = []) (a : Nat) : isUE a s = false := by
  rw [isUE, h]
  rfl

theorem regGet_memStore_of_clean {o a n : Nat} {s : State} (hg : o ∉ granRegs) (ho : o < hostB) (h : marksIn a n s = [])
    (sl : Tbl Byte) : regGet o (memStore a n sl s) = regGet o s := by
  have hput : regGet o (memPut a n sl s) = regGet o s := by
    unfold memPut
    rw [h, forAll_nil]
    refine ite_view rfl ?_
    exact regsKept_noteAccess true a n s o hg
  unfold memStore
  exact (forAll_view (regGet o) _ (fun b u => regGet_syncArm ho b u) _ _).trans hput

theorem regGet_syncAddAt {o a : Nat} {s : State} (hg : o ∉ granRegs) (ho : o < hostB) (h : s.ecc = []) (v : Word) :
    regGet o (syncAddAt a v s) = regGet o s := by
  have hstore : regGet o (memWrite a (leBytes 4 (memW a s + v).toNat) s) = regGet o s :=
    regGet_memStore_of_clean hg ho (marksIn_of_ecc_nil h a _) _
  rw [syncAddAt, if_neg (by rw [isUE_of_ecc_nil h]; decide)]
  exact ite_view hstore (ite_view ((regGet_raiseVec ho _ _ _).trans hstore) hstore)

theorem link_not_mem_granRegs (i : Nat) : fabB i + fFAB_STATUS_STATE.off ∉ granRegs := by
  intro h
  obtain ⟨k, -, hk⟩ := List.mem_map.1 h
  simp only [memB, oMEM_GRANULES, fabB, oFAB_STATUS] at hk
  omega

theorem link_lt_hostB {i : Nat} (hi : i < 32) : fabB i + fFAB_STATUS_STATE.off < hostB := by
  simp only [hostB, fabB, oFAB_STATUS]
  omega

theorem sameLinks_memStore {a n : Nat} {s : State} (h : s.ecc = []) (sl : Tbl Byte) : SameLinks s (memStore a n sl s) := by
  intro i hi
  rw [portState, portState, fget, fget,
    regGet_memStore_of_clean (link_not_mem_granRegs i) (link_lt_hostB hi) (marksIn_of_ecc_nil h a n)]

theorem sameLinks_syncAddAt {a : Nat} {s : State} (h : s.ecc = []) (v : Word) : SameLinks s (syncAddAt a v s) := by
  intro i hi
  rw [portState, portState, fget, fget, regGet_syncAddAt (link_not_mem_granRegs i) (link_lt_hostB hi) h]

theorem fab_memStore (a n : Nat) (sl : Tbl Byte) (s : State) : (memStore a n sl s).fab = s.fab :=
  memStore_view quiet_fab (fun _ _ => rfl) (fun _ _ => rfl) a n sl s

theorem cores_memStore (a n : Nat) (sl : Tbl Byte) (s : State) : (memStore a n sl s).cores = s.cores :=
  memStore_view quiet_cores (fun _ _ => rfl) (fun _ _ => rfl) a n sl s

end Sys2Proof.Machine
end

section
/-! SUPPORT. A packet at its destination (R235, R241, R242): what each of its ends leaves. -/

namespace Sys2Proof.Machine

/-! The packet is dropped. -/

/-- A packet that is dropped with an event and a fault record of its port. -/
theorem dropPkt_spec {p : Nat} {k : Packet} {s v : State} {e : Evt} (h : PktFreed p k s v) (hok : e.bit.Ok) (hcnt : e.cnt.Ok)
    (ha : e.bit.Apart e.cnt) (code : Nat) :
    let t := portFault code p p (evt (fabB p) e v)
    fget (fabB p) e.bit t = 1 ∧ PktFreed p k s t ∧ t.mem = v.mem ∧ t.cores = v.cores := by
  intro t
  have hfab : t.fab = v.fab := (quiet_fab.softFault _ _ _ _ _).trans (quiet_fab.evt _ _ v)
  have hbase : 0x01000000 ≤ fabB p := by
    unfold fabB
    omega
  refine ⟨?_, pktFreed_of_ports (by rw [hfab]) h, ?_, ?_⟩
  · exact (fget_softFault hbase _ _ _ _ _ _).trans (fget_evt_bit _ hok hcnt ha v)
  · exact (quiet_mem.softFault _ _ _ _ _).trans (quiet_mem.evt _ _ v)
  · exact (quiet_cores.softFault _ _ _ _ _).trans (quiet_cores.evt _ _ v)

theorem pktKind_unknown {p : Nat} {c : Packet} {u : State} (h : entState (entryOf c.src u) = 0 ∨ c.kind = 0 ∨ 5 < c.kind.toNat) :
    pktKind p c u = portFault 0x10 p p (evt (fabB p) eFAB_EVENT_UNKNOWN_SRC u) := by
  unfold pktKind
  by_cases he : entState (entryOf c.src u) = 0
  · exact if_pos he
  · have hk : c.kind.toNat = 0 ∨ 5 < c.kind.toNat := (h.resolve_left he).imp_left fun hz => by rw [hz]; rfl
    rw [if_neg he]
    split
    case h_6 => rfl
    all_goals omega

/-! The first bytes of a packet that fails its check. -/

theorem mem_memWrite_nil (a : Nat) (s : State) : (memWrite a [] s).mem = s.mem := by
  have hdis : (disarmIn a 0 (memPut a 0 (sparse 0 []) s)).mem = s.mem := by
    rw [memPut, if_pos rfl]
    rfl
  exact (forAll_view State.mem _ (fun b u => syncArm_view quiet_mem (fun _ _ => rfl) b u) _ _).trans hdis

/-- Bytes that were written early were written at the packet's offset, where its data would land. -/
theorem writeEarly_cases (k : Packet) (n : Nat) (s : State) : writeEarly k n s = s ∨
    ∃ (x : Session) (l : List Byte), getSession k.src s = some x ∧ (k.kind = 1 ∨ k.kind = 3) ∧
      writeEarly k n s = memWrite k.addr.toNat (l.take n) s := by
  unfold writeEarly
  cases hx : getSession k.src s with
  | none => exact .inl rfl
  | some x =>
    dsimp only [Option.bind_some]
    split
    · exact .inl rfl
    · next key _ =>
      split
      · next hland =>
        refine .inr ⟨x, _, rfl, ?_, rfl⟩
        simp only [dataLands, Bool.and_eq_true, Bool.or_eq_true, beq_iff_eq] at hland
        exact hland.2.imp And.left And.left
      · exact .inl rfl

theorem fab_writeEarly (k : Packet) (n : Nat) (s : State) : (writeEarly k n s).fab = s.fab := by
  obtain h | ⟨-, l, -, -, h⟩ := writeEarly_cases k n s <;> rw [h]
  exact fab_memStore _ _ _ s

theorem cores_writeEarly (k : Packet) (n : Nat) (s : State) : (writeEarly k n s).cores = s.cores := by
  obtain h | ⟨-, l, -, -, h⟩ := writeEarly_cases k n s <;> rw [h]
  exact cores_memStore _ _ _ s

theorem mem_writeEarly {k : Packet} {n : Nat} {s : State}
    (h : n = 0 ∨ getSession k.src s = none ∨ (k.kind ≠ 1 ∧ k.kind ≠ 3)) : (writeEarly k n s).mem = s.mem := by
  obtain hw | ⟨x, l, hx, hk, hw⟩ := writeEarly_cases k n s
  · rw [hw]
  · obtain hn | hnone | hkind := h
    · rw [hw, hn]
      exact mem_memWrite_nil _ s
    · rw [hx] at hnone
      cases hnone
    · exact absurd hk (not_or.2 hkind)

theorem memOutside_writeEarly {k : Packet} {n : Nat} {s : State} (hwf : Memory.wf s.mem = true) :
    MemOutside k.addr.toNat n s (writeEarly k n s) := by
  intro x hx
  obtain hw | ⟨-, l, -, -, hw⟩ := writeEarly_cases k n s <;> rw [hw]
  have hl : (l.take n).length ≤ n := List.length_take_le n l
  exact memGet_memWrite_outside hwf (by omega)

/-- A packet that fails check 1 (R241). -/
theorem tagFail_spec {p : Nat} {k : Packet} {s : State} (hhere : pktHere p k s = true) (hopen : pktOpened k s = none) (early : Nat) :
    let t := pktIn p k early s
    fget (fabB p) eFAB_EVENT_TAG_FAIL.bit t = 1 ∧ PktFreed p k s t ∧ t.cores = s.cores ∧
    (early = 0 ∨ getSession k.src s = none ∨ (k.kind ≠ 1 ∧ k.kind ≠ 3) → t.mem = s.mem) ∧
    (Memory.wf s.mem = true → MemOutside k.addr.toNat early s t) := by
  intro t
  have hu := cellsOut_freeCells p k s
  have ht : t = _ := pktIn_tagFail hhere hopen early
  generalize freeCells p k.vl.val (cellsOf k.data.length) s = u at hu ht
  have hfreed : PktFreed p k s (writeEarly k early u) := pktFreed_of_ports (by rw [fab_writeEarly]) hu.freed
  obtain ⟨hbit, hfree, hmem, hcores⟩ := dropPkt_spec hfreed (e := eFAB_EVENT_TAG_FAIL) (by decide) (by decide) (by decide) 0x0E
  rw [ht]
  refine ⟨hbit, hfree, hcores.trans ((cores_writeEarly k early u).trans hu.cores), fun h => ?_, fun hwf x hx => ?_⟩
  · refine hmem.trans ((mem_writeEarly (h.imp_right (.imp_left hu.session_none))).trans hu.mem)
  · rw [memGet_of_mem hmem, memOutside_writeEarly (hu.mem.symm ▸ hwf) x hx, memGet_of_mem hu.mem]

/-- A packet of an INVALID source or of an unknown kind (R226, R241). -/
theorem unknownSrc_spec {p : Nat} {k c : Packet} {s : State} (hhere : pktHere p k s = true) (hopen : pktOpened k s = some c)
    (h : entState (entryOf k.src s) = 0 ∨ k.kind = 0 ∨ 5 < k.kind.toNat) (early : Nat) :
    let t := pktIn p k early s
    fget (fabB p) eFAB_EVENT_UNKNOWN_SRC.bit t = 1 ∧ PktFreed p k s t ∧ t.mem = s.mem ∧ t.cores = s.cores := by
  intro t
  have hu := cellsOut_pktTaken p k s
  obtain ⟨l, hc⟩ := pktOpened_some hopen
  have hsrc : c.src = k.src := by rw [hc]
  have hkind : c.kind = k.kind := by rw [hc]
  have ht : t = _ := pktIn_opened hhere hopen early
  rw [← hu.entryOf, ← hsrc, ← hkind] at h
  rw [pktKind_unknown h] at ht
  obtain ⟨hbit, hfree, hmem, hcores⟩ :=
    dropPkt_spec hu.freed (e := eFAB_EVENT_UNKNOWN_SRC) (by decide) (by decide) (by decide) 0x10
  rw [ht]
  exact ⟨hbit, hfree, hmem.trans hu.mem, hcores.trans hu.cores⟩

end Sys2Proof.Machine
end

section
/-! SUPPORT. PUT and NOTIFY_ADD at their destination (R235, R242). -/

namespace Sys2Proof.Machine

/-- Bytes stored where no unit is marked read back, and every other byte is as before. -/
theorem memStore_bytes {a : Nat} {l : List Byte} {s u : State} (hm : u.mem = s.mem) (hwf : Memory.wf s.mem = true)
    (hecc : u.ecc = []) : (∀ j < l.length, memGet (a + j) (memWrite a l u) = l.getD j 0) ∧ MemOutside a l.length s (memWrite a l u) := by
  refine ⟨fun j hj => ?_, fun x hx => ?_⟩
  · rw [memGet_memWrite_inside (marksIn_of_ecc_nil hecc _ _) (Nat.le_add_right a j) (by omega), Nat.add_sub_cancel_left]
  · rw [memGet_memWrite_outside (hm.symm ▸ hwf) hx, memGet_of_mem hm]

/-- A packet that passes check 1 goes to the operation of its kind. -/
theorem pktIn_taken {p : Nat} {k c : Packet} {s : State} (h : PktIn p k c s) (early : Nat) :
    pktIn p k early s = pktKind p c (pktTaken p k s) := by
  obtain ⟨hhere, hopen, -⟩ := h
  exact pktIn_opened hhere hopen early

/-- What an arrived packet is: that of the wire but for its data, of a source that is known. -/
structure Arrived (p : Nat) (k c : Packet) (s u : State) : Prop where
  out   : CellsOut p k s u
  clear : ∃ l, c = { k with data := l }
  known : entState (entryOf c.src u) ≠ 0

theorem PktIn.arrived {p : Nat} {k c : Packet} {s : State} (h : PktIn p k c s) : Arrived p k c s (pktTaken p k s) := by
  obtain ⟨-, hopen, hknown⟩ := h
  have hu := cellsOut_pktTaken p k s
  obtain ⟨l, hc⟩ := pktOpened_some hopen
  refine ⟨hu, ⟨l, hc⟩, ?_⟩
  rw [hu.entryOf, hc]
  exact hknown

section
variable {p q : Nat} {k c : Packet} {y : Port} {s u : State} (h : Arrived p k c s u)
include h

theorem Arrived.kind : c.kind = k.kind := by obtain ⟨-, ⟨l, rfl⟩, -⟩ := h; rfl
theorem Arrived.src : c.src = k.src := by obtain ⟨-, ⟨l, rfl⟩, -⟩ := h; rfl
theorem Arrived.core : c.core = k.core := by obtain ⟨-, ⟨l, rfl⟩, -⟩ := h; rfl
theorem Arrived.seqno : c.seqno = k.seqno := by obtain ⟨-, ⟨l, rfl⟩, -⟩ := h; rfl
theorem Arrived.addr : c.addr = k.addr := by obtain ⟨-, ⟨l, rfl⟩, -⟩ := h; rfl
theorem Arrived.notify : c.notify = k.notify := by obtain ⟨-, ⟨l, rfl⟩, -⟩ := h; rfl
theorem Arrived.kspec : c.kspec = k.kspec := by obtain ⟨-, ⟨l, rfl⟩, -⟩ := h; rfl

theorem Arrived.put (hk : k.kind = 1) : pktKind p c u = rxPut p c u := by
  rw [pktKind, if_neg h.known, h.kind, hk]
  rfl

theorem Arrived.getReq (hk : k.kind = 2) : pktKind p c u = rxGetReq p c u := by
  rw [pktKind, if_neg h.known, h.kind, hk]
  rfl

theorem Arrived.getResp (hk : k.kind = 3) : pktKind p c u = rxGetResp p c u := by
  rw [pktKind, if_neg h.known, h.kind, hk]
  rfl

theorem Arrived.notifyAdd (hk : k.kind = 5) : pktKind p c u = rxNotify p c u := by
  rw [pktKind, if_neg h.known, h.kind, hk]
  rfl

/-- PUT by its checks, as they come out on arrival. -/
theorem Arrived.rxPut_eq (hp : p < 32) : rxPut p c u =
    if pktRange c k.addr.toNat c.data.length s ≠ stOK then refusePkt p c (pktRange c k.addr.toNat c.data.length s) u
    else if shelfRefuses (pkgOfEid (pktPart k.addr.toNat s) k.src s) k.core.val k.addr.toNat c.data.length s then
      nakPkt c stDENIED 0 u
    else ackPkt c (memWrite k.addr.toNat c.data u) := by
  unfold rxPut
  rw [h.addr, h.src, h.core]
  dsimp only
  rw [h.out.pktRange hp, h.out.pktPart, h.out.pkgOfEid, h.out.shelfRefuses]

/-- NOTIFY_ADD by its checks, as they come out on arrival. -/
theorem Arrived.rxNotify_eq (hp : p < 32) : rxNotify p c u =
    if syncPlaceOk k.notify.toNat = false then refusePkt p c stDENIED u
    else if pktRange c k.notify.toNat 16 s ≠ stOK then refusePkt p c (pktRange c k.notify.toNat 16 s) u
    else ackPkt c (syncAddAt k.notify.toNat 1 u) := by
  unfold rxNotify
  rw [h.notify]
  dsimp only
  rw [h.out.pktRange hp]
  cases syncPlaceOk k.notify.toNat with
  | false => rfl
  | true =>
    have hfirst : firstFail [failIf (!true) stDENIED, pktRange c k.notify.toNat 16 s] = pktRange c k.notify.toNat 16 s := by
      show (if pktRange c k.notify.toNat 16 s = stOK then stOK else pktRange c k.notify.toNat 16 s) = _
      split
      · next hst => exact hst.symm
      · rfl
    rw [hfirst, ite_not]
    rfl

variable (ha : anyPort s = some q) (hy : s.fab.ports[q]? = some y)
include ha hy

/-- The packet is refused with a status: a NAK to its source, with UNKNOWN_SRC. -/
theorem Arrived.refused (st : BitVec 8) : let t := refusePkt p c st u
    ((ItemOn q (.nak k.src ⟨k.core, k.seqno⟩ st 0) t ∧ PktFreed p k s t ∧ t.mem = s.mem ∧ t.cores = s.cores) ∧
      fget (fabB p) eFAB_EVENT_UNKNOWN_SRC.bit t = 1) ∧ t.fab.remote = s.fab.remote := by
  have hspec := refusePkt_spec (c := c) h.out ha hy st
  rwa [h.src, h.core, h.seqno] at hspec

/-- The packet is refused at a sink window: a NAK with DENIED. -/
theorem Arrived.nak_denied : let t := nakPkt c stDENIED 0 u
    ItemOn q (.nak k.src ⟨k.core, k.seqno⟩ stDENIED 0) t ∧ PktFreed p k s t ∧ t.mem = s.mem ∧ t.cores = s.cores := by
  have hspec := nakPkt_spec (c := c) h.out ha hy stDENIED
  rwa [h.src, h.core, h.seqno] at hspec

/-- PUT that passes its checks. -/
theorem Arrived.put_writes (hwf : Memory.wf s.mem = true) (hecc : s.ecc = []) : let t := ackPkt c (memWrite k.addr.toNat c.data u)
    (ItemOn q (.ack k.src [(⟨k.core, k.seqno⟩, 1)]) t ∧ PktFreed p k s t ∧ t.cores = s.cores) ∧
    (∀ j < c.data.length, memGet (k.addr.toNat + j) t = c.data.getD j 0) ∧ MemOutside k.addr.toNat c.data.length s t := by
  intro t
  have hans : Answerable p k s (memWrite k.addr.toNat c.data u) :=
    h.out.answerable.of_fab (fab_memStore _ _ _ u) (sameLinks_memStore (h.out.ecc.trans hecc) _)
  obtain ⟨hack, hmem⟩ := ackPkt_spec (c := c) hans ((cores_memStore _ _ _ u).trans h.out.cores) ha hy
  obtain ⟨hin, hout⟩ := memStore_bytes (a := k.addr.toNat) (l := c.data) h.out.mem hwf (h.out.ecc.trans hecc)
  rw [h.src, h.core, h.seqno] at hack
  exact ⟨hack, fun j hj => (memGet_of_mem hmem _).trans (hin j hj), fun x hx => (memGet_of_mem hmem x).trans (hout x hx)⟩

/-- NOTIFY_ADD that passes its checks. -/
theorem Arrived.notify_adds (hwf : Memory.wf s.mem = true) (hecc : s.ecc = []) : let t := ackPkt c (syncAddAt k.notify.toNat 1 u)
    (ItemOn q (.ack k.src [(⟨k.core, k.seqno⟩, 1)]) t ∧ PktFreed p k s t ∧ t.cores = s.cores) ∧
    memW k.notify.toNat t = memW k.notify.toNat s + 1 ∧ MemOutside k.notify.toNat 4 s t := by
  intro t
  have hnil := h.out.ecc.trans hecc
  have hans : Answerable p k s (syncAddAt k.notify.toNat 1 u) := h.out.answerable.of_fab
    (syncAddAt_view quiet_fab (fun _ _ => rfl) (fun _ _ => rfl) (fun _ _ => rfl) _ 1 u) (sameLinks_syncAddAt hnil 1)
  have hcores : (syncAddAt k.notify.toNat 1 u).cores = s.cores :=
    (syncAddAt_view quiet_cores (fun _ _ => rfl) (fun _ _ => rfl) (fun _ _ => rfl) _ 1 u).trans h.out.cores
  obtain ⟨hack, hmem⟩ := ackPkt_spec (c := c) hans hcores ha hy
  obtain ⟨hw, hout, -⟩ := syncAddAt_spec (a := k.notify.toNat) (h.out.mem.symm ▸ hwf) (isUE_of_ecc_nil hnil _)
    (marksIn_of_ecc_nil hnil _ 4) 1
  rw [h.src, h.core, h.seqno] at hack
  refine ⟨hack, ?_, fun x hx => ?_⟩
  · rw [memW_congr (memGet_of_mem hmem), hw, memW_congr (memGet_of_mem h.out.mem)]
  · rw [memGet_of_mem hmem, hout x hx, memGet_of_mem h.out.mem]

end

end Sys2Proof.Machine
end

section
/-! SUPPORT. GET_REQ at its destination (R242): one packet of data waits on the first port of the round, behind the cells that wait
there. -/

namespace Sys2Proof.Machine

/-- The cells of a VL that wait in a port, those in its egress queue first. -/
def waitingCells (v : Nat) (x : Port) : List EgCell := x.egress.getD v [] ++ x.backlog.getD v []

/-- The second port differs from the first in its egress queues alone, and no queue is added or lost. -/
structure EgressMoved (x y : Port) : Prop where
  rest    : y = { x with egress := y.egress, backlog := y.backlog }
  egress  : y.egress.length = x.egress.length
  backlog : y.backlog.length = x.backlog.length

theorem EgressMoved.trans {x y z : Port} (h : EgressMoved x y) (k : EgressMoved y z) : EgressMoved x z :=
  ⟨by rw [k.rest, h.rest], k.egress.trans h.egress, k.backlog.trans h.backlog⟩

/-- Nothing changes but egress queues and their credits. -/
structure QueuesMoved (s t : State) : Prop where
  rest   : t = { s with fab := { s.fab with ports := t.fab.ports }, handoffs := t.handoffs }
  length : t.fab.ports.length = s.fab.ports.length
  port   : ∀ i, EgressMoved (getPort i s) (getPort i t)

theorem QueuesMoved.refl (s : State) : QueuesMoved s s := ⟨rfl, rfl, fun _ => ⟨rfl, rfl, rfl⟩⟩

theorem QueuesMoved.trans {s t u : State} (h : QueuesMoved s t) (k : QueuesMoved t u) : QueuesMoved s u :=
  ⟨by rw [k.rest, h.rest], k.length.trans h.length, fun i => (h.port i).trans (k.port i)⟩

theorem queuesMoved_modPort {f : Port → Port} (h : ∀ x, EgressMoved x (f x)) (p : Nat) (s : State) : QueuesMoved s (modPort p f s) := by
  refine ⟨rfl, length_modAt f _ p, fun i => ?_⟩
  rw [getPort_modPort]
  split
  · next hi => exact hi.1 ▸ h _
  · exact ⟨rfl, rfl, rfl⟩

/-- Cells go to the back of what waits for a VL. -/
def cellsBehind (v : Nat) (l : List EgCell) (x : Port) : Port := { x with backlog := modAt v (· ++ l) x.backlog }

/-- The first n cells that wait for a VL enter its egress queue. -/
def cellsEnter (v n : Nat) (l : List EgCell) (x : Port) : Port :=
  { x with egress := modAt v (· ++ l.take n) x.egress, backlog := modAt v (List.drop n) x.backlog }

theorem egressMoved_cellsBehind (v : Nat) (l : List EgCell) (x : Port) : EgressMoved x (cellsBehind v l x) :=
  ⟨rfl, rfl, length_modAt _ _ _⟩

theorem egressMoved_cellsEnter (v n : Nat) (l : List EgCell) (x : Port) : EgressMoved x (cellsEnter v n l x) :=
  ⟨rfl, length_modAt _ _ _, length_modAt _ _ _⟩

theorem waitingCells_cellsBehind {v : Nat} {x : Port} (h : v < x.backlog.length) (l : List EgCell) :
    waitingCells v (cellsBehind v l x) = waitingCells v x ++ l := by
  rw [waitingCells, cellsBehind, getD_modAt _ _ _ _ h, waitingCells, List.append_assoc]

theorem waitingCells_cellsEnter {v : Nat} {x : Port} (he : v < x.egress.length) (hb : v < x.backlog.length) (n : Nat) :
    waitingCells v (cellsEnter v n (x.backlog.getD v []) x) = waitingCells v x := by
  rw [waitingCells, cellsEnter, getD_modAt _ _ _ _ he, getD_modAt _ _ _ _ hb, List.append_assoc, List.take_append_drop, waitingCells]

theorem fillEgress_eq (p v : Nat) (s : State) : fillEgress p v s = s ∨ ∃ x n,
    fillEgress p v s = setHo (netHo p v) x (modPort p (cellsEnter v n ((getPort p s).backlog.getD v [])) s) := by
  unfold fillEgress
  dsimp only
  split
  · exact .inl rfl
  · exact .inr ⟨_, _, rfl⟩

theorem queuesMoved_setHo (j : Nat) (x : Handoff) (s : State) : QueuesMoved s (setHo j x s) :=
  ⟨rfl, rfl, fun _ => ⟨rfl, rfl, rfl⟩⟩

theorem queuesMoved_fillEgress (p v : Nat) (s : State) : QueuesMoved s (fillEgress p v s) := by
  obtain h | ⟨x, n, h⟩ := fillEgress_eq p v s <;> rw [h]
  · exact .refl s
  · exact (queuesMoved_modPort (egressMoved_cellsEnter v n _) p s).trans (queuesMoved_setHo _ _ _)

theorem waitingCells_fillEgress {p v : Nat} {s : State} (he : v < (getPort p s).egress.length)
    (hb : v < (getPort p s).backlog.length) : waitingCells v (getPort p (fillEgress p v s)) = waitingCells v (getPort p s) := by
  obtain h | ⟨x, n, h⟩ := fillEgress_eq p v s <;> rw [h]
  show waitingCells v (getPort p (modPort p (cellsEnter v n ((getPort p s).backlog.getD v [])) s)) = _
  rw [getPort_modPort]
  split
  · exact waitingCells_cellsEnter he hb n
  · rfl

theorem queueCells_up {p : Nat} {s : State} (h : portUp p s = true) (v : Nat) (l : List EgCell) :
    queueCells p v l s = fillEgress p v (modPort p (cellsBehind v l) s) := by
  unfold portUp at h
  refine if_neg fun hdark => ?_
  rcases hdark with hd | hd <;> rw [hd] at h <;> exact absurd h (by decide)

theorem queuesMoved_queueCells (p v : Nat) (l : List EgCell) (s : State) : QueuesMoved s (queueCells p v l s) := by
  unfold queueCells
  split
  · exact .refl s
  · exact (queuesMoved_modPort (egressMoved_cellsBehind v l) p s).trans (queuesMoved_fillEgress p v _)

/-- Cells queued on a port that is up wait behind those before them. -/
theorem waitingCells_queueCells {p v : Nat} {s : State} (hup : portUp p s = true) (hp : p < s.fab.ports.length)
    (he : v < (getPort p s).egress.length) (hb : v < (getPort p s).backlog.length) (l : List EgCell) :
    waitingCells v (getPort p (queueCells p v l s)) = waitingCells v (getPort p s) ++ l := by
  have hbehind : getPort p (modPort p (cellsBehind v l) s) = cellsBehind v l (getPort p s) := by
    rw [getPort_modPort, if_pos ⟨rfl, hp⟩]
  have hm := egressMoved_cellsBehind v l (getPort p s)
  rw [queueCells_up hup, waitingCells_fillEgress, hbehind, waitingCells_cellsBehind hb]
  · rw [hbehind, hm.egress]
    exact he
  · rw [hbehind, hm.backlog]
    exact hb

theorem pktFreed_of_queuesMoved {p : Nat} {k : Packet} {s u v : State} (hv : QueuesMoved u v) (h : PktFreed p k s u) :
    PktFreed p k s v := by
  have hp := (hv.port p).rest
  unfold PktFreed at *
  rw [hp]
  exact h

/-! One packet of data. -/

theorem chunksOf_one {l : List Byte} (h0 : 0 < l.length) (h1 : l.length ≤ 8128) : chunksOf l = [(0, l)] := by
  have hn : (l.length + 8127) / 8128 = 1 := by omega
  rw [chunksOf, hn]
  show [(8128 * 0, (l.drop (8128 * 0)).take 8128)] = _
  rw [Nat.mul_zero, List.drop_zero, List.take_of_length_le h1]

/-- Data of one packet goes to the first port of the round. -/
theorem sendData_one {core vl addr notify kspec r : Nat} {kind : BitVec 4} {e : BitVec 19} {w : BitVec 64} {tag : InstrTag}
    {l : List Byte} {rs : List Nat} {s : State} (h0 : 0 < l.length) (h1 : l.length ≤ 8128) (hr : spreadRound core w s = r :: rs) :
    sendData none core vl kind e w addr tag notify kspec l s = sendPkt r vl kind e w addr tag notify kspec l s := by
  unfold sendData
  rw [chunksOf_one h0 h1]
  dsimp only [List.zipIdx_cons, List.zipIdx_nil, List.foldl_cons, List.foldl_nil]
  rw [hr, Nat.zero_mod]
  rfl

theorem sendPkt_session {port vl addr notify kspec : Nat} {kind : BitVec 4} {e : BitVec 19} {w : BitVec 64} {tag : InstrTag}
    {data : List Byte} {x : Session} {s : State} (h : getSession e s = some x) :
    sendPkt port vl kind e w addr tag notify kspec data s =
      queueCells port vl (pktCells (sealPkt x.keyTx (mkPkt kind e (entTier2 w) addr tag notify kspec data x vl s)))
        (setSession e (some { x with ivCtr := x.ivCtr + 1 }) s) := by
  rw [sendPkt, h]
  rfl

end Sys2Proof.Machine
end

section
/-! SUPPORT. GET_REQ that passes its checks (R131, R242). -/

namespace Sys2Proof.Machine

theorem not_mem_granRegs {o : Nat} (h : o < 0x03000000) : o ∉ granRegs := by
  intro hm
  obtain ⟨i, -, hi⟩ := List.mem_map.1 hm
  simp only [memB, oMEM_GRANULES] at hi
  omega

theorem ownEid_of_kept {l : List Nat} {s t : State} (h : RegsKept l s t) (hl : ∀ o < 0x01000000, o ∉ l) : ownEid t = ownEid s := by
  have hreg : ∀ {f : Fld}, gzlB + f.off < 0x01000000 → fget gzlB f t = fget gzlB f s := fun hf => h.fget (hl _ hf)
  rw [ownEid, ownEid, hreg (by decide), hreg (by decide), hreg (by decide)]

/-- A packet is filled from a session without its receiving counter. -/
theorem mkPkt_congr {s t : State} (h : ownEid t = ownEid s) (kind : BitVec 4) (e : BitVec 19) (tier2 : Bool) (addr : Nat)
    (tag : InstrTag) (notify kspec : Nat) (data : List Byte) (x : Session) (i : BitVec 64) (vl : Nat) :
    mkPkt kind e tier2 addr tag notify kspec data { x with ivRx := i } vl t = mkPkt kind e tier2 addr tag notify kspec data x vl s := by
  rw [mkPkt, mkPkt, h]

theorem getPort_of_getElem? {i : Nat} {z : Port} {s : State} (h : s.fab.ports[i]? = some z) : getPort i s = z := by
  rw [getPort, List.getD_eq_getElem?_getD, h]
  rfl

/-- What a GET_REQ that passes its checks meets: its source's session, and the first port of the round with what waits there. -/
structure GetReqReady (k : Packet) (s : State) (x : Session) (r : Nat) (z : Port) : Prop where
  session : getSession k.src s = some x
  round   : ∃ rs, spreadRound k.core.val (entryOf k.src s) s = r :: rs
  port    : s.fab.ports[r]? = some z
  egress  : 0 < z.egress.length
  backlog : 0 < z.backlog.length

section
variable {p r : Nat} {k c : Packet} {x : Session} {z : Port} {s u : State} (h : Arrived p k c s u)
include h

theorem Arrived.readReq_eq (hecc : s.ecc = []) (hst : pktRange c k.addr.toNat (k.kspec.toNat % 2 ^ 32) u = stOK) :
    let a := k.addr.toNat
    let m := k.kspec.toNat % 2 ^ 32
    rxGetReq p c u = sendData none k.core.val 0 3 k.src (entryOf k.src u) k.notify.toNat ⟨k.core, k.seqno⟩ 0 0 (memBytes a m u)
      (noteAccess false a m u) := by
  intro a m
  have hread : readUpTo a m u = (noteAccess false a m u, m) :=
    readUpTo_of_clean (marksIn_of_ecc_nil (h.out.ecc.trans hecc) a m)
  unfold rxGetReq
  rw [h.addr, h.kspec, h.core, h.src, h.notify, h.seqno]
  dsimp only
  rw [if_neg (not_not_intro hst), hread]
  exact if_pos rfl

theorem Arrived.getReq_refused (hp : p < 32) (hst : pktRange c k.addr.toNat (k.kspec.toNat % 2 ^ 32) s ≠ stOK) :
    rxGetReq p c u = refusePkt p c (pktRange c k.addr.toNat (k.kspec.toNat % 2 ^ 32) s) u := by
  unfold rxGetReq
  rw [h.addr, h.kspec]
  dsimp only
  rw [h.out.pktRange hp]
  exact if_pos hst

/-- The bytes go back as one packet under the source's session, behind the cells that wait on the first port of the round. -/
theorem Arrived.getReq_answers (hready : GetReqReady k s x r z) (hecc : s.ecc = [])
    (hst : pktRange c k.addr.toNat (k.kspec.toNat % 2 ^ 32) u = stOK)
    (h0 : 0 < k.kspec.toNat % 2 ^ 32) (h1 : k.kspec.toNat % 2 ^ 32 ≤ 8128) :
    let t := rxGetReq p c u
    let l := memBytes k.addr.toNat (k.kspec.toNat % 2 ^ 32) s
    let resp := sealPkt x.keyTx (mkPkt 3 k.src (entTier2 (entryOf k.src s)) k.notify.toNat ⟨k.core, k.seqno⟩ 0 0 l x 0 s)
    PktFreed p k s t ∧ t.mem = s.mem ∧ t.cores = s.cores ∧ waitingCells 0 (getPort r t) = waitingCells 0 z ++ pktCells resp := by
  intro t l resp
  obtain ⟨rs, hround⟩ := hready.round
  obtain ⟨i, hsess⟩ := h.out.session hready.session
  let v := noteAccess false k.addr.toNat (k.kspec.toNat % 2 ^ 32) u
  let w := setSession k.src (some { x with ivRx := i, ivCtr := x.ivCtr + 1 }) v
  have hfab : v.fab = u.fab := quiet_fab.noteAccess _ _ _ u
  have hports : w.fab.ports = u.fab.ports := show v.fab.ports = _ by rw [hfab]
  have hkept : RegsKept granRegs u v := regsKept_noteAccess _ _ _ u
  have hlinks : SameLinks s v := h.out.links.trans (sameLinks_of_kept hkept fun j _ => link_not_mem_granRegs j)
  have hround' : spreadRound k.core.val (entryOf k.src u) v = r :: rs := by
    rw [hlinks.spreadRound, h.out.entryOf, hround]
  have heid : ownEid v = ownEid s := (ownEid_of_kept hkept fun o ho => not_mem_granRegs (by omega)).trans h.out.ownEid
  have hsess' : getSession k.src v = some { x with ivRx := i } := by
    rw [getSession, hfab]
    exact hsess
  have hl : memBytes k.addr.toNat (k.kspec.toNat % 2 ^ 32) u = l := memBytes_of_mem h.out.mem _ _
  have hlen : l.length = k.kspec.toNat % 2 ^ 32 := length_memBytes _ _ s
  have ht : t = queueCells r 0 (pktCells resp) w := by
    show rxGetReq p c u = _
    rw [h.readReq_eq hecc hst, hl, sendData_one (by omega) (by omega) hround', sendPkt_session hsess', mkPkt_congr heid, h.out.entryOf]
  have hup : portUp r w = true := portUp_of_mem_spreadRound (s := v) (by rw [hround']; exact .head _)
  have hport : SameEgress z (getPort r w) := by
    have he := h.out.egress r
    rw [getPort_of_getElem? hready.port, ← getPort_congr hports] at he
    exact he
  have hlt : r < w.fab.ports.length := by
    obtain ⟨hr, -⟩ := List.getElem?_eq_some_iff.1 hready.port
    rw [hports, h.out.length]
    exact hr
  have hmoved := queuesMoved_queueCells r 0 (pktCells resp) w
  rw [← ht] at hmoved
  refine ⟨pktFreed_of_queuesMoved hmoved (pktFreed_of_ports hports h.out.freed), ?_, ?_, ?_⟩
  · rw [hmoved.rest]
    exact (quiet_mem.noteAccess _ _ _ u).trans h.out.mem
  · rw [hmoved.rest]
    exact (quiet_cores.noteAccess _ _ _ u).trans h.out.cores
  · rw [ht, waitingCells_queueCells hup hlt (hport.1 ▸ hready.egress) (hport.2 ▸ hready.backlog), waitingCells, hport.1, hport.2,
      waitingCells]

end

end Sys2Proof.Machine
end

section
/-! SUPPORT. The source's side of remote operations (R242, R243): the table of outstanding instructions, and how one of them goes on
or ends. -/

namespace Sys2Proof.Machine

/-! The table of outstanding instructions. -/

theorem tag_of_findRemote {t : InstrTag} {r : RemoteInstr} {s : State} (h : findRemote t s = some r) : r.tag = t :=
  beq_iff_eq.1 (List.find?_some (p := fun r : RemoteInstr => r.tag == t) h)

theorem findRemote_congr {s v : State} (h : v.fab.remote = s.fab.remote) (t : InstrTag) : findRemote t v = findRemote t s := by
  rw [findRemote, findRemote, h]

theorem findRemote_setRemote {t : InstrTag} {r r' : RemoteInstr} {s : State} (h : findRemote t s = some r) (ht : r'.tag = t) :
    findRemote t (setRemote r' s) = some r' := by
  have hp : ((fun x : RemoteInstr => x.tag == t) ∘ fun x => if x.tag = r'.tag then r' else x) = fun x => x.tag == t := by
    funext x
    show ((if x.tag = r'.tag then r' else x).tag == t) = _
    split
    · next hx => rw [hx]
    · rfl
  have hr := tag_of_findRemote h
  unfold findRemote at h
  unfold findRemote setRemote
  rw [List.find?_map, hp, h, Option.map_some, if_pos (hr.trans ht.symm)]

theorem findRemote_dropRemote (t : InstrTag) (s : State) : findRemote t (dropRemote t s) = none := by
  refine List.find?_eq_none.2 fun x hx => ?_
  simpa using (List.mem_filter.1 hx).2

/-! Drains that start (R245) leave memory, cores and instructions alone. -/

theorem sendView_queueCells (p v : Nat) (l : List EgCell) (s : State) : sendView (queueCells p v l s) = sendView s :=
  ite_view rfl (ite_view rfl rfl)

theorem sendView_endDrain (eid : BitVec 19) (st : BitVec 8) (s : State) : sendView (endDrain eid st s) = sendView s := rfl

theorem sendView_startProbes (eid : BitVec 19) (s : State) : sendView (startProbes eid s) = sendView s := by
  have hsend : ∀ (l : List ((Nat × Nat) × Nat)) (n : BitVec 32) u,
      sendView (forAll l (fun x => queueCells x.1.1 x.1.2 [.probe eid (n + BitVec.ofNat 32 x.2)]) u) = sendView u :=
    fun l _ u => forAll_view sendView _ (fun x w => sendView_queueCells _ _ _ w) l u
  unfold startProbes
  exact ite_view ((sendView_endDrain _ _ _).trans (hsend _ _ _)) (hsend _ _ _)

theorem sendView_drainsGo (s : State) : sendView (drainsGo s) = sendView s := by
  refine forAll_view sendView _ (fun d u => ?_) _ s
  split
  · rfl
  · exact sendView_startProbes d.eid u

/-! An instruction that ends. -/

section
variable {t : InstrTag} {r : RemoteInstr} {x : EngInstr} {s v : State}

theorem endTagged_head (hx : headOf t.core.val 3 s = some x) (hseq : x.seqno = t.seqno) (hd : x.done = none) (st : BitVec 8) :
    endTagged t st s = sxEnd t.core.val x st s := by
  rw [endTagged, hx]
  exact if_pos ⟨hseq, by rw [hd]; rfl⟩

theorem fab_sxEnd (c : Nat) (x : EngInstr) (st : BitVec 8) (s : State) : (sxEnd c x st s).fab = s.fab := by
  rw [sxEnd_eq, engEnd_frame]

theorem headOf_congr (h : v.cores = s.cores) (c e : Nat) : headOf c e v = headOf c e s := by
  rw [headOf, headOf, getCore_of_cores h]

/-- An instruction that settles at its end has ended, in a state with the cores of s. -/
theorem settle_ends {st : BitVec 8} (hend : settleKind r st v = endTagged t st (dropRemote t v)) (hc : v.cores = s.cores)
    (hx : headOf t.core.val 3 s = some x) (hseq : x.seqno = t.seqno) (hd : x.done = none) :
    RemoteEnds t x st s (settle r st v) ∧ (settle r st v).mem = v.mem := by
  have hcd : (dropRemote t v).cores = s.cores := hc
  rw [endTagged_head ((headOf_congr hcd _ _).trans hx) hseq hd] at hend
  have hview := sendView_drainsGo (settleKind r st v)
  rw [hend] at hview
  simp only [sendView, Prod.mk.injEq] at hview
  obtain ⟨hmem, hcores, -, hremote⟩ := hview
  obtain ⟨hended, hothers⟩ := ends_of_cores x st hcd
  unfold settle
  rw [hend]
  refine ⟨⟨?_, ?_, fun k hk => ?_⟩, hmem.trans (mem_sxEnd x st)⟩
  · rw [findRemote_congr hremote, findRemote_congr (congrArg Fab.remote (fab_sxEnd _ x st _))]
    exact findRemote_dropRemote t v
  · rw [Ended, getCore_of_cores hcores]
    exact hended
  · rw [getCore_of_cores hcores]
    exact hothers k hk

/-- An answered instruction that waits for more stays as it is. -/
theorem settleIf_open (h : findRemote t v = some r) (ho : stillOpen r = true) : settleIf t v = v := by
  rw [settleIf, h]
  exact if_pos ho

theorem settleIf_settles (h : findRemote t v = some r) (ho : stillOpen r = false) :
    settleIf t v = settle r ((r.nak.map Prod.fst).getD stOK) v := by
  rw [settleIf, h]
  exact if_neg (by rw [ho]; decide)

theorem settleKind_get {d m : Nat} (hk : r.kind = .get d m) (ht : r.tag = t) (st : BitVec 8) :
    settleKind r st v = endTagged t st (dropRemote t v) := by
  unfold settleKind
  rw [hk, ht]

theorem settleKind_put (hk : r.kind = .put) (ht : r.tag = t) {st : BitVec 8} (hn : ¬(st = stOK ∧ r.notify ≠ 0)) :
    settleKind r st v = endTagged t st (dropRemote t v) := by
  unfold settleKind
  rw [hk, ht]
  exact if_neg hn

/-- A PUT of which every packet is acknowledged sends its NOTIFY_ADD first. -/
theorem settle_notifies (hk : r.kind = .put) (hf : findRemote t v = some r) (hn : r.notify ≠ 0) :
    let w := settle r stOK v
    findRemote t w = some { r with kind := .notify, left := 1, tLast := v.clk.now } ∧ w.cores = v.cores ∧ w.mem = v.mem := by
  intro w
  have ht := tag_of_findRemote hf
  let u := sendOne r.tag.core.val 0 5 r.eid r.snap 0 r.tag r.notify.toNat 0 v
  let r' : RemoteInstr := { r with kind := .notify, left := 1, tLast := v.clk.now }
  have hkind : settleKind r stOK v = setRemote r' u := by
    unfold settleKind
    rw [hk]
    exact if_pos ⟨rfl, hn⟩
  have hview : sendView w = sendView (setRemote r' u) := by
    rw [← hkind]
    exact sendView_drainsGo _
  have hsent : sendView u = sendView v := sendView_sendOne _ _ _ _ _ _ _ _ _ v
  simp only [sendView, Prod.mk.injEq] at hview hsent
  obtain ⟨hmem, hcores, -, hremote⟩ := hview
  obtain ⟨hmem', hcores', -, hremote'⟩ := hsent
  refine ⟨?_, hcores.trans hcores', hmem.trans hmem'⟩
  rw [findRemote_congr hremote]
  exact findRemote_setRemote ((findRemote_congr hremote' t).trans hf) ht

end

end Sys2Proof.Machine
end

section
/-! SUPPORT. Replies at the source (R155, R242, R243, R365): what each reply and the time limit of an instruction leave. -/

namespace Sys2Proof.Machine

/-! Replies of an old generation. -/

theorem countStale_spec (t : InstrTag) (s : State) :
    fget (coreB t.core.val) fCORE_RESET_GEN_STALE_CNT (countStale t s) =
      Nat.min (fget (coreB t.core.val) fCORE_RESET_GEN_STALE_CNT s + 1)
        (2 ^ (fCORE_RESET_GEN_STALE_CNT.hi + 1 - fCORE_RESET_GEN_STALE_CNT.lo) - 1) ∧
    RegsKept [coreB t.core.val + oCORE_RESET_GEN] s (countStale t s) ∧ countStale t s = { s with regs := (countStale t s).regs } := by
  have hoff : coreB t.core.val + fCORE_RESET_GEN_STALE_CNT.off ∈ [coreB t.core.val + oCORE_RESET_GEN] := .head _
  exact ⟨fget_faddSat_same _ (by decide) 1 s, regsKept_fset hoff _ s, (regsOnly_fset _ _ _ s).eq⟩

/-! ACK, NAK and time of a PUT. -/

section
variable {t : InstrTag} {r : RemoteInstr} {x : EngInstr} {s : State}

theorem ackOne_stale (h : staleTag t s = true) (n : Nat) : ackOne t n s = countStale t s := if_pos h

theorem nakOne_stale (h : staleTag t s = true) (code : BitVec 8) (detail : Word) : nakOne t code detail s = countStale t s := if_pos h

theorem ackOne_unknown (hs : staleTag t s = false) (h : findRemote t s = none) (n : Nat) : ackOne t n s = s := by
  rw [ackOne, if_neg (by rw [hs]; decide), h]

theorem nakOne_unknown (hs : staleTag t s = false) (h : findRemote t s = none) (code : BitVec 8) (detail : Word) :
    nakOne t code detail s = s := by
  unfold nakOne
  rw [if_neg (by rw [hs]; decide), h]

theorem timeout_unknown (h : findRemote t s = none) : execRemoteInstrTimeout t s = .next s := by
  rw [execRemoteInstrTimeout, h]

theorem timeout_early (h : isSafe s = true ∨ stillQueued t s = true ∨ (findRemote t s = some r ∧ elapsed r.tLast ticksMs s = false)) :
    execRemoteInstrTimeout t s = .next s := by
  unfold execRemoteInstrTimeout
  cases hf : findRemote t s with
  | none => rfl
  | some r' =>
    refine congrArg _ (if_neg ?_)
    rintro ⟨hel, hq, hsafe⟩
    rcases h with h | h | ⟨h, hr⟩
    · rw [h] at hsafe
      cases hsafe
    · rw [h] at hq
      cases hq
    · rw [hf] at h
      cases h
      rw [hr] at hel
      cases hel

theorem timeout_settles (hsafe : isSafe s = false) (h : findRemote t s = some r) (hel : elapsed r.tLast ticksMs s = true)
    (hq : stillQueued t s = false) : execRemoteInstrTimeout t s = .next (settle r stTIMEOUT s) := by
  rw [execRemoteInstrTimeout, h]
  exact congrArg _ (if_pos ⟨hel, by rw [hq]; rfl, by rw [hsafe]; rfl⟩)

theorem stillOpen_of_left (h : 0 < r.left) : stillOpen r = true := by
  rw [stillOpen, decide_eq_true h, Bool.true_or]

theorem stillOpen_put (hk : r.kind = .put) (h : r.left = 0) : stillOpen r = false := by
  rw [stillOpen, hk, h]
  exact Bool.and_false _

variable (hs : staleTag t s = false) (hf : findRemote t s = some r) (hk : r.kind = .put)
include hs hf hk

theorem ackOne_put (n : Nat) : ackOne t n s = settleIf t (setRemote { r with left := r.left - n } s) := by
  rw [ackOne, if_neg (by rw [hs]; decide), hf]
  dsimp only
  rw [hk]

theorem nakOne_put (code : BitVec 8) (detail : Word) : nakOne t code detail s =
    settleIf t (setRemote { r with left := r.left - 1, nak := some (r.nak.getD (nakStatus code, detail)) } s) := by
  unfold nakOne
  rw [if_neg (by rw [hs]; decide), hf]
  dsimp only
  rw [hk]

/-- An ACK that leaves packets outstanding. -/
theorem ackOne_lowers {n : Nat} (hn : n < r.left) : findRemote t (ackOne t n s) = some { r with left := r.left - n } ∧
    ackOne t n s = { s with fab := { s.fab with remote := (ackOne t n s).fab.remote } } := by
  have ht := tag_of_findRemote hf
  let r' : RemoteInstr := { r with left := r.left - n }
  have hfind := findRemote_setRemote (r' := r') hf ht
  rw [ackOne_put hs hf hk, settleIf_open hfind (stillOpen_of_left (r := r') (Nat.sub_pos_of_lt hn))]
  exact ⟨hfind, rfl⟩

/-- A NAK that leaves packets outstanding keeps the first status. -/
theorem nakOne_lowers (hn : 1 < r.left) (code : BitVec 8) (detail : Word) :
    findRemote t (nakOne t code detail s) = some { r with left := r.left - 1, nak := some (r.nak.getD (nakStatus code, detail)) } ∧
    nakOne t code detail s = { s with fab := { s.fab with remote := (nakOne t code detail s).fab.remote } } := by
  have ht := tag_of_findRemote hf
  let r' : RemoteInstr := { r with left := r.left - 1, nak := some (r.nak.getD (nakStatus code, detail)) }
  have hfind := findRemote_setRemote (r' := r') hf ht
  rw [nakOne_put hs hf hk, settleIf_open hfind (stillOpen_of_left (r := r') (Nat.sub_pos_of_lt hn))]
  exact ⟨hfind, rfl⟩

/-- The last ACK settles the PUT with the status of its first NAK. -/
theorem ackOne_last {n : Nat} (hn : r.left ≤ n) : let r' : RemoteInstr := { r with left := r.left - n }
    ackOne t n s = settle r' ((r.nak.map Prod.fst).getD stOK) (setRemote r' s) := by
  intro r'
  have ht := tag_of_findRemote hf
  have hfind := findRemote_setRemote (r' := r') hf ht
  rw [ackOne_put hs hf hk, settleIf_settles hfind (stillOpen_put hk (Nat.sub_eq_zero_of_le hn))]

theorem nakOne_last (hn : r.left ≤ 1) (hnak : r.nak = none) (code : BitVec 8) (detail : Word) :
    let r' : RemoteInstr := { r with left := r.left - 1, nak := some (nakStatus code, detail) }
    nakOne t code detail s = settle r' (nakStatus code) (setRemote r' s) := by
  intro r'
  have ht := tag_of_findRemote hf
  have hfind := findRemote_setRemote (r' := r') hf ht
  rw [nakOne_put hs hf hk, hnak, Option.getD_none, settleIf_settles hfind (stillOpen_put hk (Nat.sub_eq_zero_of_le hn))]
  rfl

/-- A PUT without failure that is wholly acknowledged goes on to its NOTIFY_ADD. -/
theorem ackOne_notifies {n : Nat} (hn : r.left ≤ n) (hnak : r.nak = none) (hne : r.notify ≠ 0) :
    findRemote t (ackOne t n s) = some { r with kind := .notify, left := 1, tLast := s.clk.now } ∧
    (ackOne t n s).cores = s.cores ∧ (ackOne t n s).mem = s.mem := by
  have ht := tag_of_findRemote hf
  let r' : RemoteInstr := { r with left := r.left - n }
  have hfind := findRemote_setRemote (r' := r') hf ht
  have hdone : (r.nak.map Prod.fst).getD stOK = stOK := by
    rw [hnak]
    rfl
  rw [ackOne_last hs hf hk hn, hdone]
  exact settle_notifies (r := r') hk hfind hne

variable (hx : headOf t.core.val 3 s = some x) (hseq : x.seqno = t.seqno) (hd : x.done = none)
include hx hseq hd

theorem ackOne_ends {n : Nat} (hn : r.left ≤ n) (h : (∃ y, r.nak = some y ∧ y.1 ≠ stOK) ∨ r.notify = 0) :
    RemoteEnds t x ((r.nak.map Prod.fst).getD stOK) s (ackOne t n s) := by
  have ht := tag_of_findRemote hf
  let r' : RemoteInstr := { r with left := r.left - n }
  have hno : ¬((r.nak.map Prod.fst).getD stOK = stOK ∧ r.notify ≠ 0) := by
    rintro ⟨hst, hne⟩
    rcases h with ⟨y, hy, hbad⟩ | h0
    · rw [hy] at hst
      exact hbad hst
    · exact hne h0
  rw [ackOne_last hs hf hk hn]
  exact (settle_ends (v := setRemote r' s) (settleKind_put (r := r') hk ht hno) rfl hx hseq hd).1

theorem nakOne_ends (hn : r.left ≤ 1) {code : BitVec 8} (hst : nakStatus code ≠ stOK) (hnak : r.nak = none) (detail : Word) :
    RemoteEnds t x (nakStatus code) s (nakOne t code detail s) := by
  have ht := tag_of_findRemote hf
  let r' : RemoteInstr := { r with left := r.left - 1, nak := some (nakStatus code, detail) }
  rw [nakOne_last hs hf hk hn hnak]
  exact (settle_ends (v := setRemote r' s) (settleKind_put (r := r') hk ht fun h => hst h.1) rfl hx hseq hd).1

omit hs in
theorem timeout_ends : RemoteEnds t x stTIMEOUT s (settle r stTIMEOUT s) :=
  (settle_ends (settleKind_put hk (tag_of_findRemote hf) fun h => absurd h.1 (by decide)) rfl hx hseq hd).1

end

end Sys2Proof.Machine
end

section
/-! SUPPORT. GET_RESP at the source (R155, R242). -/

namespace Sys2Proof.Machine

/-- A range that passes the checks of a packet is memory: no doorbell page. -/
theorem inBellPages_of_pktRange {c : Packet} {a n : Nat} {s : State} (h : pktRange c a n s = stOK) : inBellPages a n = false := by
  have hreg : regionOf a ≠ some .reg := by
    intro hr
    unfold pktRange at h
    dsimp only at h
    rw [hr, show (some Region.reg == some .reg) = true from rfl, Bool.or_true, Bool.true_or, Bool.true_or, firstFail,
      if_neg (show ¬failIf true stDENIED = stOK by decide)] at h
    exact absurd h (by decide)
  by_contra hb
  simp only [inBellPages, within, Bool.not_eq_false, decide_eq_true_eq, regB, qmB] at hb
  refine hreg ?_
  have hstack : ¬a < stackEnd := by
    simp only [stackEnd]
    omega
  have hsram : ¬(sramB ≤ a ∧ a < sramEnd) := by
    simp only [sramB, sramEnd]
    omega
  have hin : regB ≤ a ∧ a < regEnd := by
    simp only [regB, regEnd]
    omega
  rw [regionOf, if_neg hstack, if_neg hsram, if_pos hin]

section
variable {p d m : Nat} {k c : Packet} {r : RemoteInstr} {x : EngInstr} {s u : State} (h : Arrived p k c s u)
include h

/-- A GET_RESP of an old generation is only counted. -/
theorem Arrived.getResp_stale (hs : staleTag ⟨k.core, k.seqno⟩ s = true) : let t := rxGetResp p c u
    fget (coreB k.core.val) fCORE_RESET_GEN_STALE_CNT t =
      Nat.min (fget (coreB k.core.val) fCORE_RESET_GEN_STALE_CNT s + 1)
        (2 ^ (fCORE_RESET_GEN_STALE_CNT.hi + 1 - fCORE_RESET_GEN_STALE_CNT.lo) - 1) ∧
    t.mem = s.mem ∧ t.cores = s.cores ∧ t.fab.remote = s.fab.remote := by
  intro t
  have ht : t = countStale ⟨k.core, k.seqno⟩ u := by
    show rxGetResp p c u = _
    unfold rxGetResp
    rw [h.core, h.seqno]
    exact if_pos ((h.out.staleTag _).trans hs)
  obtain ⟨hcnt, -, hrest⟩ := countStale_spec ⟨k.core, k.seqno⟩ u
  have hlt := coreB_lt k.core.isLt
  have hbefore : fget (coreB k.core.val) fCORE_RESET_GEN_STALE_CNT u = fget (coreB k.core.val) fCORE_RESET_GEN_STALE_CNT s :=
    h.out.fget (by simp only [oCORE_RESET_GEN]; omega)
  rw [← ht] at hcnt hrest
  refine ⟨?_, ?_, ?_, ?_⟩
  · rw [hcnt, hbefore]
  · rw [hrest]
    exact h.out.mem
  · rw [hrest]
    exact h.out.cores
  · rw [hrest]
    exact h.out.remote

variable (hs : staleTag ⟨k.core, k.seqno⟩ s = false) (hf : findRemote ⟨k.core, k.seqno⟩ s = some r) (hk : r.kind = .get d m)
include hs hf hk

theorem Arrived.getResp_eq : rxGetResp p c u =
    if pktRange c k.addr.toNat c.data.length u ≠ stOK then refusePkt p c (pktRange c k.addr.toNat c.data.length u) u
    else landResp ⟨k.core, k.seqno⟩ r (.get d (m - c.data.length)) k.addr.toNat c.data u := by
  unfold rxGetResp
  rw [h.core, h.seqno, h.addr]
  dsimp only
  rw [if_neg (by rw [h.out.staleTag, hs]; decide), h.out.findRemote, hf]
  dsimp only
  rw [hk]

variable (hst : pktRange c k.addr.toNat c.data.length u = stOK) (hnak : r.nak = none)
include hst hnak

/-- Bytes for a sink window of another end the GET with DENIED. -/
theorem Arrived.getResp_denied (href : ownWriteRefused k.core.val k.addr.toNat c.data.length s = true)
    (hx : headOf k.core.val 3 s = some x) (hseq : x.seqno = k.seqno) (hd : x.done = none) :
    RemoteEnds ⟨k.core, k.seqno⟩ x stDENIED s (rxGetResp p c u) ∧ (rxGetResp p c u).mem = s.mem := by
  let r' : RemoteInstr := { r with kind := .get d (m - c.data.length), left := 0, nak := some (stDENIED, 0) }
  have hwrite : localWrite k.core.val k.addr.toNat c.data.length (sparse 0 c.data) u = (u, stDENIED) := by
    rw [localWrite, inBellPages_of_pktRange hst, ownWriteRefused_of_cab h.out.cab, href]
    rfl
  have ht := tag_of_findRemote hf
  have hfind := findRemote_setRemote (r' := r') ((h.out.findRemote _).trans hf) ht
  have heq : rxGetResp p c u = settle r' stDENIED (setRemote r' u) := by
    rw [h.getResp_eq hs hf hk, if_neg (not_not_intro hst), landResp, hwrite, hnak]
    exact settleIf_settles hfind rfl
  have hends := settle_ends (st := stDENIED) (v := setRemote r' u) (settleKind_get (r := r') rfl ht _)
    h.out.cores hx hseq hd
  rw [heq]
  exact ⟨hends.1, hends.2.trans h.out.mem⟩

omit hnak in
/-- The instruction after bytes of it have landed. -/
theorem Arrived.getResp_lands (href : ownWriteRefused k.core.val k.addr.toNat c.data.length s = false) :
    rxGetResp p c u = settleIf ⟨k.core, k.seqno⟩
      (setRemote { r with kind := .get d (m - c.data.length), left := 0 } (memWrite k.addr.toNat c.data u)) := by
  have hwrite : localWrite k.core.val k.addr.toNat c.data.length (sparse 0 c.data) u =
      (memWrite k.addr.toNat c.data u, stOK) := by
    rw [localWrite, inBellPages_of_pktRange hst, ownWriteRefused_of_cab h.out.cab, href]
    rfl
  rw [h.getResp_eq hs hf hk, if_neg (not_not_intro hst), landResp, hwrite]
  rfl

omit hst hs hnak hk in
theorem Arrived.findRemote_landed : findRemote ⟨k.core, k.seqno⟩
    (setRemote { r with kind := .get d (m - c.data.length), left := 0 } (memWrite k.addr.toNat c.data u)) =
      some { r with kind := .get d (m - c.data.length), left := 0 } := by
  have ht := tag_of_findRemote hf
  refine findRemote_setRemote (r := r) ?_ ht
  have hremote : (memWrite k.addr.toNat c.data u).fab.remote = u.fab.remote := congrArg Fab.remote (fab_memStore _ _ _ u)
  rw [findRemote_congr hremote, h.out.findRemote, hf]

/-- Bytes that land and are not the last of the GET. -/
theorem Arrived.getResp_more (href : ownWriteRefused k.core.val k.addr.toNat c.data.length s = false) (hn : c.data.length < m) :
    let t := rxGetResp p c u
    t.mem = (memWrite k.addr.toNat c.data u).mem ∧
    findRemote ⟨k.core, k.seqno⟩ t = some { r with kind := .get d (m - c.data.length), left := 0 } ∧ t.cores = s.cores := by
  intro t
  have hfind := h.findRemote_landed (d := d) (m := m) hf
  have hopen : stillOpen { r with kind := .get d (m - c.data.length), left := 0 } = true := by
    simp only [stillOpen, hnak, Option.isNone_none, Bool.true_and, Bool.or_eq_true, decide_eq_true_eq]
    omega
  have ht : t = _ := (h.getResp_lands hs hf hk hst href).trans (settleIf_open hfind hopen)
  rw [ht]
  exact ⟨rfl, hfind, (cores_memStore _ _ _ u).trans h.out.cores⟩

/-- The last bytes of the GET end it. -/
theorem Arrived.getResp_last (href : ownWriteRefused k.core.val k.addr.toNat c.data.length s = false) (hn : m ≤ c.data.length)
    (hx : headOf k.core.val 3 s = some x) (hseq : x.seqno = k.seqno) (hd : x.done = none) :
    let t := rxGetResp p c u
    RemoteEnds ⟨k.core, k.seqno⟩ x stOK s t ∧ t.mem = (memWrite k.addr.toNat c.data u).mem := by
  intro t
  let r' : RemoteInstr := { r with kind := .get d (m - c.data.length), left := 0 }
  have ht' := tag_of_findRemote hf
  have hfind := h.findRemote_landed (d := d) (m := m) hf
  have hclosed : stillOpen r' = false := by
    simp only [r', stillOpen, Bool.or_eq_false_iff, Bool.and_eq_false_iff, decide_eq_false_iff_not]
    omega
  have ht : t = settle r' stOK (setRemote r' (memWrite k.addr.toNat c.data u)) := by
    have hdone : (r.nak.map Prod.fst).getD stOK = stOK := by
      rw [hnak]
      rfl
    refine (h.getResp_lands hs hf hk hst href).trans ((settleIf_settles hfind hclosed).trans ?_)
    rw [hdone]
  rw [ht]
  exact settle_ends (settleKind_get (r := r') rfl ht' _) ((cores_memStore _ _ _ u).trans h.out.cores) hx hseq hd

/-- Bytes of a GET that may land are written; the last of them end it. -/
theorem Arrived.getResp_writes (href : ownWriteRefused k.core.val k.addr.toNat c.data.length s = false)
    (hwf : Memory.wf s.mem = true) (hecc : s.ecc = [])
    (hmine : m ≤ c.data.length → headOf k.core.val 3 s = some x ∧ x.seqno = k.seqno ∧ x.done = none) :
    let t := rxGetResp p c u
    (∀ j < c.data.length, memGet (k.addr.toNat + j) t = c.data.getD j 0) ∧ MemOutside k.addr.toNat c.data.length s t ∧
    (c.data.length < m → findRemote ⟨k.core, k.seqno⟩ t = some { r with kind := .get d (m - c.data.length), left := 0 } ∧
      t.cores = s.cores) ∧
    (m ≤ c.data.length → RemoteEnds ⟨k.core, k.seqno⟩ x stOK s t) := by
  intro t
  obtain ⟨hbytes, hout⟩ := memStore_bytes (a := k.addr.toNat) (l := c.data) h.out.mem hwf (h.out.ecc.trans hecc)
  have hland : t.mem = (memWrite k.addr.toNat c.data u).mem → (∀ j < c.data.length, memGet (k.addr.toNat + j) t = c.data.getD j 0) ∧
      MemOutside k.addr.toNat c.data.length s t := fun hmem =>
    ⟨fun j hj => (memGet_of_mem hmem _).trans (hbytes j hj), fun i hi => (memGet_of_mem hmem i).trans (hout i hi)⟩
  by_cases hlast : m ≤ c.data.length
  · obtain ⟨hx, hseq, hd⟩ := hmine hlast
    obtain ⟨hends, hmem⟩ := h.getResp_last hs hf hk hst hnak href hlast hx hseq hd
    exact ⟨(hland hmem).1, (hland hmem).2, fun hmore => absurd hlast (Nat.not_le_of_lt hmore), fun _ => hends⟩
  · obtain ⟨hmem, hmore, hcores⟩ := h.getResp_more hs hf hk hst hnak href (Nat.lt_of_not_le hlast)
    exact ⟨(hland hmem).1, (hland hmem).2, fun _ => ⟨hmore, hcores⟩, fun hle => absurd hle hlast⟩

end

end Sys2Proof.Machine
end

section
/-! Settles O53: arriving packets, replies and the time limit of a remote instruction (R131, R155, R235, R239, R241 to R243, R365). -/

namespace Sys2Proof.Machine

/-! The commands that take a packet. -/

theorem pktOfKind_true (p : Nat) (k : Packet) (s : State) : pktOfKind p k true s = pktIn p k 0 s := rfl

theorem pktOfKind_false (p : Nat) (k : Packet) (s : State) : pktOfKind p k false s = s := rfl

theorem pktOfKind_away {p : Nat} {k : Packet} {s : State} (h : pktHere p k s = false) (ok : Bool) : pktOfKind p k ok s = s := by
  unfold pktOfKind
  split
  · exact pktIn_away h 0
  · rfl

section
variable {p : Fin 32} {k c : Packet} {s : State}

/-- A packet that is not there, or in the safe state, changes nothing. -/
theorem goes_away (h : pktHere p.val k s = false) (early : Nat) : ∀ i ∈ [Instr.packetRx p k early, .getReq p k, .getResp p k,
    .notifyAdd p k, .chamberChunkRx p k, .stallNotice p k, .doneToken p k], Goes i s fun t => t = s := by
  simp only [List.forall_mem_cons, List.not_mem_nil, false_imp_iff, implies_true, and_true]
  exact ⟨⟨_, rfl, pktIn_away h early⟩, ⟨_, rfl, pktOfKind_away h _⟩, ⟨_, rfl, pktOfKind_away h _⟩, ⟨_, rfl, pktOfKind_away h _⟩,
    ⟨_, rfl, pktOfKind_away h _⟩, ⟨_, rfl, pktOfKind_away h _⟩, _, rfl, pktOfKind_away h _⟩

/-- A PUT that is taken leaves what its operation leaves. -/
theorem goes_put (h : PktIn p.val k c s) (hk : k.kind = 1) (early : Nat) {P : State → Prop}
    (ht : P (rxPut p.val c (pktTaken p.val k s))) : Goes (.packetRx p k early) s P :=
  ⟨_, rfl, by rw [pktIn_taken h, h.arrived.put hk]; exact ht⟩

theorem goes_getReq (h : PktIn p.val k c s) (hk : k.kind = 2) (early : Nat) {P : State → Prop}
    (ht : P (rxGetReq p.val c (pktTaken p.val k s))) : ∀ i ∈ [Instr.packetRx p k early, .getReq p k], Goes i s P := by
  simp only [List.forall_mem_cons, List.not_mem_nil, false_imp_iff, implies_true, and_true]
  exact ⟨⟨_, rfl, by rw [pktIn_taken h, h.arrived.getReq hk]; exact ht⟩,
    _, rfl, by rw [beq_iff_eq.2 hk, pktOfKind_true, pktIn_taken h, h.arrived.getReq hk]; exact ht⟩

theorem goes_notifyAdd (h : PktIn p.val k c s) (hk : k.kind = 5) (early : Nat) {P : State → Prop}
    (ht : P (rxNotify p.val c (pktTaken p.val k s))) : ∀ i ∈ [Instr.packetRx p k early, .notifyAdd p k], Goes i s P := by
  simp only [List.forall_mem_cons, List.not_mem_nil, false_imp_iff, implies_true, and_true]
  exact ⟨⟨_, rfl, by rw [pktIn_taken h, h.arrived.notifyAdd hk]; exact ht⟩,
    _, rfl, by rw [beq_iff_eq.2 hk, pktOfKind_true, pktIn_taken h, h.arrived.notifyAdd hk]; exact ht⟩

theorem goes_getResp (h : PktIn p.val k c s) (hk : k.kind = 3) {P : State → Prop}
    (ht : P (rxGetResp p.val c (pktTaken p.val k s))) : Goes (.getResp p k) s P :=
  ⟨_, rfl, by rw [beq_iff_eq.2 hk, pktOfKind_true, pktIn_taken h, h.arrived.getResp hk]; exact ht⟩

theorem goes_otherKind {kind : BitVec 4} (h : k.kind ≠ kind) : ∃ t, Host.Outcome.next (pktOfKind p.val k (k.kind == kind) s) =
    (.next t : Host.Outcome State Fault Refusal) ∧ t = s :=
  ⟨_, rfl, by rw [beq_eq_false_iff_ne.2 h, pktOfKind_false]⟩

end

theorem goes_ack {t : InstrTag} {n : Nat} {s : State} (hs : isSafe s = false) {P : State → Prop} (h : P (ackOne t n s)) :
    Goes (.ack [(t, n)]) s P :=
  ⟨_, rfl, by rw [if_neg (by rw [hs]; decide), forAll_one]; exact h⟩

theorem goes_nak {t : InstrTag} {code : BitVec 8} {detail : Word} {s : State} (hs : isSafe s = false) {P : State → Prop}
    (h : P (nakOne t code detail s)) : Goes (.nak t code detail) s P :=
  ⟨_, rfl, by rw [if_neg (by rw [hs]; decide)]; exact h⟩

/-- Settles O53: a packet by the checks it passes and by its kind, at the destination and at the source; ACK, NAK and time by what
they leave outstanding. -/
theorem remoteOperations : Obligations.RemoteOperations := by
  unfold Obligations.RemoteOperations
  refine ⟨?_, ?_, ?_, ?_⟩
  · intro p k early s
    refine ⟨fun h => goes_away h early, goes_otherKind, goes_otherKind, goes_otherKind,
      fun hhere => ⟨fun hopen => ?_, fun hopen h => ?_⟩⟩
    · obtain ⟨hbit, hfree, hcores, hmem, hout⟩ := tagFail_spec hhere hopen early
      exact ⟨_, rfl, hbit, hfree, hcores, hmem, fun hwf _ => hout hwf⟩
    · obtain ⟨c, hc⟩ := Option.ne_none_iff_exists'.1 hopen
      exact ⟨_, rfl, unknownSrc_spec hhere hc h early⟩
  · intro p k c early q y s hin ha hy a o n tag Acked Naked Refused
    have h := hin.arrived
    refine ⟨fun hk => ?_, fun hk i hi => ?_, fun hk i hi => ?_⟩
    · have heq := h.rxPut_eq p.isLt
      refine ⟨fun hst hshelf hwf hecc => ?_, fun hst hshelf => ?_, fun hst => ?_⟩ <;> refine goes_put hin hk early ?_
      · rw [heq, if_neg (not_not_intro hst), if_neg (by rw [hshelf]; decide)]
        exact h.put_writes ha hy hwf hecc
      · rw [heq, if_neg (not_not_intro hst), if_pos hshelf]
        exact h.nak_denied ha hy
      · rw [heq, if_pos hst]
        exact (h.refused ha hy _).1
    · intro m
      refine ⟨fun hst => goes_getReq hin hk early ?_ i hi, fun r0 l z e es b bs x hst h0 h1 hecc hr hz he hb hx => ?_⟩
      · rw [h.getReq_refused p.isLt hst]
        exact (h.refused ha hy _).1
      · have hready : GetReqReady k s x r0 z := ⟨hx, ⟨l, hr⟩, hz, by rw [he]; exact Nat.succ_pos _, by rw [hb]; exact Nat.succ_pos _⟩
        obtain ⟨hfree, hmem, hcores, hcells⟩ := h.getReq_answers hready hecc ((h.out.pktRange p.isLt c _ _).trans hst) h0 h1
        refine goes_getReq hin hk early ⟨hfree, hmem, hcores, hcells.trans ?_⟩ i hi
        rw [waitingCells, he, hb]
        rfl
    · have heq := h.rxNotify_eq p.isLt
      refine ⟨fun hplace => ?_, fun hplace hst => ?_, fun hplace hst hwf hecc => ?_⟩ <;> refine goes_notifyAdd hin hk early ?_ i hi
      · rw [heq, if_pos hplace]
        exact (h.refused ha hy stDENIED).1
      · rw [heq, if_neg (by rw [hplace]; decide), if_pos hst]
        exact (h.refused ha hy _).1
      · rw [heq, if_neg (by rw [hplace]; decide), if_neg (not_not_intro hst)]
        exact h.notify_adds ha hy hwf hecc
  · intro p k c r d m q y x s hin hk tag a n mine
    have h := hin.arrived
    have hrange := h.out.pktRange p.isLt c
    refine ⟨fun hs => goes_getResp hin hk ?_, fun hs hf hget hnak => ⟨fun hst ha hy => goes_getResp hin hk ?_,
      fun hst href hmine => goes_getResp hin hk ?_, fun hst href hwf hecc hmine => goes_getResp hin hk ?_⟩⟩
    · exact h.getResp_stale hs
    · rw [h.getResp_eq hs hf hget, hrange, if_pos hst]
      obtain ⟨⟨⟨hon, -, hmem, hcores⟩, -⟩, hremote⟩ := h.refused ha hy (pktRange c a n s)
      exact ⟨hon, hmem, hcores, hremote⟩
    · obtain ⟨hx, hseq, hd⟩ := hmine
      exact h.getResp_denied hs hf hget ((hrange a n).trans hst) hnak href hx hseq hd
    · exact h.getResp_writes hs hf hget ((hrange a n).trans hst) hnak href hwf hecc hmine
  · intro tag n code detail r x s st
    refine ⟨fun hsafe => ⟨⟨_, rfl, if_pos hsafe⟩, _, rfl, if_pos hsafe⟩, fun hsafe hs => ?_, fun hsafe hs hf => ?_,
      fun hsafe hs hf hk hx hseq hd => ⟨fun hn => ?_, fun hn h => ?_, fun hn hnak hne => ?_, fun hn => ?_, fun hn hst hnak => ?_,
        fun hel hq => ?_⟩, fun h => ?_⟩
    · simp only [List.forall_mem_cons, List.not_mem_nil, false_imp_iff, implies_true, and_true]
      exact ⟨goes_ack hsafe (by rw [ackOne_stale hs]; exact countStale_spec tag s),
        goes_nak hsafe (by rw [nakOne_stale hs]; exact countStale_spec tag s)⟩
    · simp only [List.forall_mem_cons, List.not_mem_nil, false_imp_iff, implies_true, and_true]
      exact ⟨goes_ack hsafe (ackOne_unknown hs hf n), goes_nak hsafe (nakOne_unknown hs hf code detail)⟩
    · exact goes_ack hsafe (ackOne_lowers hs hf hk hn)
    · exact goes_ack hsafe (ackOne_ends hs hf hk hx hseq hd hn h)
    · exact goes_ack hsafe (ackOne_notifies hs hf hk hn hnak hne)
    · exact goes_nak hsafe (nakOne_lowers hs hf hk hn code detail)
    · exact goes_nak hsafe (nakOne_ends hs hf hk hx hseq hd hn hst hnak detail)
    · exact ⟨_, timeout_settles hsafe hf hel hq, timeout_ends hf hk hx hseq hd⟩
    · rcases h with hf | hearly
      · exact ⟨s, timeout_unknown hf, rfl⟩
      · refine ⟨s, timeout_early (r := r) ?_, rfl⟩
        exact hearly

end Sys2Proof.Machine
end

section
/-! Settles O3: the state after reset. -/

namespace Sys2Proof.Machine

/-- Settles O3: after reset the register table is empty, so a register reads its reset value and an item that is not in its table
has its default; what is said of concrete registers and of the 32 ports is evaluated. -/
theorem resetValues : Obligations.ResetValues := by
  have hregs : ∀ off, regGet off State.reset = regReset off := fun _ => rfl
  have hports : ∀ p < 32, portState p State.reset = 0 ∧ fget (fabB p) fFAB_STATUS_PLANE State.reset = p % 8 := by decide +kernel
  have hmsix : ∀ f, State.reset.host.msixEn.getD f false = false := fun f => by
    simp only [State.reset, List.getD_eq_getElem?_getD, List.getElem?_replicate]
    split <;> rfl
  have hent : ∀ e, entState (entryOf e State.reset) = 0 := fun e => by
    have hrow : entryOf e State.reset = 0 := by simp [entryOf, State.reset, tget]
    rw [hrow]; rfl
  have hregNow : regGet (hubB + oHUB_PART_ID) State.reset = 0x6400B000 ∧ regGet (hubB + oHUB_RESET_GEN) State.reset = 0x01010101 ∧
      ctrlPlane State.reset = 0 ∧ dataPlane State.reset = 0 ∧ mgmtPlane State.reset = 0 := by decide +kernel
  obtain ⟨hpart, hgen, hctrl, hdata, hmgmt⟩ := hregNow
  exact ⟨hregs, hpart, hgen, hctrl, hdata, hmgmt, rfl, rfl, rfl, rfl, rfl, hports, hent, fun _ => rfl, hmsix, fun _ => rfl, rfl⟩

end Sys2Proof.Machine
end

section
/-! SUPPORT. The statement on chamber steps fails where a chamber under RING has one member (R262 refuses such a descriptor with
LENGTH_RANGE; the statement speaks of every state). The peer to which such a member sends is itself, the entry of the own rank
stands for the part within a home core, and so a step after the first copies the own data into DST. -/

namespace Sys2Proof.Machine

/-- A request for ALL_GATHER of one element of one byte from offset 0 to offset 64, in credited mode; its step 1 has not started. -/
def loneReq : ChReq := ⟨[0, 0, 0, 3, 0, 0, 0, 0, 0, 0, 0, 0, 64, 0, 0, 0, 1], 0, 0, 1, false, 0, 0, [], [], 0, []⟩

/-- A CREDITED chamber under RING whose descriptor spans no axis, with core 0 as its home, and that request. -/
def loneCh : Chamber := { Chamber.off with st := 3, desc := [0, 0, 0, 2], req := some loneReq }

/-- DATA runs, core 0 is admitted, chamber 0 is this one, and the first byte of the store of core 0 is 1. -/
def loneRing : State :=
  fset hubB fHUB_PLANE_STATUS_DATA 1 { State.reset with
    stool := { State.reset.stool with admitted := [0] }
    col := ⟨[(0, loneCh)], none⟩
    mem := [(sramB, 1)] }

/-- Refutes O56: step 1 of the request copies the byte to offset 64 of the store, and no step after the first may change memory. -/
theorem not_chamberSteps : ¬ Obligations.ChamberSteps := by
  unfold Obligations.ChamberSteps
  intro h
  have hsafe : isSafe loneRing = false := by decide +kernel
  have hfree : homesFree 0 loneReq loneRing = true := by decide +kernel
  obtain ⟨-, -, -, -, hreq⟩ := h 0 loneRing (by decide +kernel) rfl
  obtain ⟨-, hstart, -⟩ := hreq loneReq rfl hsafe
  obtain ⟨t, ht, -, -, hmem, -⟩ := hstart ⟨rfl, hfree, .inr ⟨rfl, .inl rfl⟩⟩ (by rintro ⟨h0, -⟩; exact absurd h0 (by decide))
  have hkept : t.mem = loneRing.mem := hmem (.inl (by decide))
  have hexec : exec (.chamberStepStart 0) loneRing = .next (stepStartOp 0 loneRing) := rfl
  obtain rfl := Host.Outcome.next.inj (hexec.symm.trans ht)
  have hcopied : memGet (sramB + 64) (stepStartOp 0 loneRing) = 1 := by decide +kernel
  have hblank : memGet (sramB + 64) loneRing = 0 := by decide +kernel
  have hsame : memGet (sramB + 64) (stepStartOp 0 loneRing) = memGet (sramB + 64) loneRing :=
    congrArg (fun m => tget (fun _ => 0) m (sramB + 64)) hkept
  exact absurd (hcopied.symm.trans (hsame.trans hblank)) (by decide)

end Sys2Proof.Machine
end

section
/-! SUPPORT. What stays where the Cabinet itself does not act: its structures and registers, the nonvolatile state, memory, the cores
and the clocks. One lemma for each operation that follows an edge or a command (R309) or that a read of memory is made of. -/

namespace Sys2Proof.Machine

/-- A register of the CAB block. -/
abbrev InCab (o : Nat) : Prop := 0x00300000 ≤ o ∧ o < 0x00310000

/-- The registers of the CAB block. -/
def cabWords (s : State) : Nat → Word := fun o => if InCab o then regGet o s else 0

/-- The Cabinet: its structures, the nonvolatile state with the high-water mark, and its registers. -/
def cabView (s : State) : Cab × Nv × (Nat → Word) := (s.cab, s.nv, cabWords s)

/-- The Cabinet with memory, the cores and the clocks. -/
def edgeView (s : State) : (Cab × Nv × (Nat → Word)) × List Host.Cell × Tbl Core × Clk := (cabView s, s.mem, s.cores, s.clk)

/-- The part of it that is not in registers. -/
def edgeSide (s : State) : (Cab × Nv) × List Host.Cell × Tbl Core × Clk := ((s.cab, s.nv), s.mem, s.cores, s.clk)

theorem quiet_edgeSide : Quiet edgeSide := ⟨fun _ _ => rfl, fun _ _ => rfl, fun _ _ => rfl, fun _ _ => rfl, fun _ _ => rfl,
  fun _ _ => rfl, fun _ _ => rfl⟩

theorem cabWords_eq_iff {s t : State} : cabWords t = cabWords s ↔ RegsKeptIn cabB s t := by
  refine ⟨fun h o hlo hhi => ?_, fun h => funext fun o => ?_⟩
  · have ho := congrFun h o
    simpa only [cabWords, if_pos (show InCab o from ⟨hlo, hhi⟩)] using ho
  · unfold cabWords
    split
    next ho => exact h o ho.1 ho.2
    next => rfl

theorem cabView_eq_iff {s t : State} : cabView t = cabView s ↔ t.cab = s.cab ∧ t.nv = s.nv ∧ RegsKeptIn cabB s t := by
  rw [← cabWords_eq_iff]
  simp only [cabView, Prod.mk.injEq]

theorem edgeView_eq_iff {s t : State} : edgeView t = edgeView s ↔
    cabView t = cabView s ∧ t.mem = s.mem ∧ t.cores = s.cores ∧ t.clk = s.clk := by
  simp only [edgeView, Prod.mk.injEq]

theorem cabView_of_edgeView {s t : State} (h : edgeView t = edgeView s) : cabView t = cabView s := congrArg Prod.fst h

theorem edgeView_of_words {s t : State} (h : edgeSide t = edgeSide s) (hr : RegsKeptIn cabB s t) :
    edgeView t = edgeView s := by
  obtain ⟨hcab, hnv, hmem, hcores, hclk⟩ : t.cab = s.cab ∧ t.nv = s.nv ∧ t.mem = s.mem ∧ t.cores = s.cores ∧ t.clk = s.clk := by
    simpa [edgeSide, and_assoc] using h
  exact edgeView_eq_iff.2 ⟨cabView_eq_iff.2 ⟨hcab, hnv, hr⟩, hmem, hcores, hclk⟩

theorem edgeView_of_kept {l : List Nat} {s t : State} (h : edgeSide t = edgeSide s) (hr : RegsKept l s t)
    (hl : ∀ o ∈ l, ¬ InCab o) : edgeView t = edgeView s :=
  edgeView_of_words h fun o hlo hhi => hr o fun hm => hl o hm ⟨hlo, hhi⟩

theorem edgeView_of_regs {s t : State} (h : edgeSide t = edgeSide s) (hr : t.regs = s.regs) : edgeView t = edgeView s :=
  edgeView_of_kept h (.of_regs (l := []) hr) (by decide)

/-! Registers, events and counters. -/

theorem not_inCab_of_ge {o : Nat} (h : 0x01000000 ≤ o) : ¬ InCab o := fun ho => by have := ho.2; omega

theorem cabWords_regSet {o : Nat} (h : ¬ InCab o) (v : Word) (s : State) : cabWords (regSet o v s) = cabWords s :=
  cabWords_eq_iff.2 fun a hlo hhi => regGet_regSet_ne (by rintro rfl; exact h ⟨hlo, hhi⟩) v s

theorem edgeView_regSet {o : Nat} (h : ¬ InCab o) (v : Word) (s : State) : edgeView (regSet o v s) = edgeView s :=
  edgeView_of_words rfl (cabWords_eq_iff.1 (cabWords_regSet h v s))

theorem edgeView_fset {b : Nat} {f : Fld} (h : ¬ InCab (b + f.off)) (v : Nat) (s : State) :
    edgeView (fset b f v s) = edgeView s := edgeView_regSet h _ s

theorem edgeView_fset_unit {b : Nat} (h : 0x01000000 ≤ b) (f : Fld) (v : Nat) (s : State) :
    edgeView (fset b f v s) = edgeView s := edgeView_fset (not_inCab_of_ge (h.trans (Nat.le_add_right _ _))) v s

theorem edgeView_raiseMsix (f v : Nat) (s : State) : edgeView (raiseMsix f v s) = edgeView s :=
  edgeView_of_regs (quiet_edgeSide.raiseMsix f v s) (regs_raiseMsix f v s)

theorem edgeView_evt {b : Nat} {e : Evt} (hb : ¬ InCab (b + e.bit.off)) (hc : ¬ InCab (b + e.cnt.off)) (s : State) :
    edgeView (evt b e s) = edgeView s :=
  edgeView_of_words (quiet_edgeSide.evt b e s) fun _ hlo hhi =>
    regGet_evt_ne (by rintro rfl; exact hb ⟨hlo, hhi⟩) (by rintro rfl; exact hc ⟨hlo, hhi⟩) s

theorem edgeView_evt_unit {b : Nat} (h : 0x01000000 ≤ b) (e : Evt) (s : State) : edgeView (evt b e s) = edgeView s :=
  edgeView_evt (not_inCab_of_ge (h.trans (Nat.le_add_right _ _))) (not_inCab_of_ge (h.trans (Nat.le_add_right _ _))) s

theorem edgeView_countEvt (b : CtrBlk) (code n : Nat) (s : State) : edgeView (countEvt b code n s) = edgeView s :=
  edgeView_of_kept (quiet_edgeSide.countEvt b code n s) (regsKept_countEvt [] b code n s) (by decide)

theorem not_inCab_logRegs : ∀ o ∈ logRegs, ¬ InCab o := by decide

theorem edgeView_logFault (code source parts info0 info1 : Nat) (s : State) :
    edgeView (logFault code source parts info0 info1 s) = edgeView s :=
  edgeView_of_kept (quiet_edgeSide.logFault code source parts info0 info1 s) (regsKept_logFaultAt _ _ _ _ _ _ s) not_inCab_logRegs

theorem edgeView_softFault (code source info0 info1 : Nat) (s : State) :
    edgeView (softFault code source info0 info1 s) = edgeView s := by
  unfold softFault collected
  split
  · exact edgeView_logFault _ _ _ _ _ s
  · exact ite_view (edgeView_logFault _ _ _ _ _ s) rfl

/-! Reads of memory, with the error marks that they meet. -/

theorem not_mem_granRegs_of_low {o : Nat} (h : o < 0x01000000) : o ∉ granRegs := by
  have hhigh : ∀ x ∈ granRegs, 0x01000000 ≤ x := by decide
  exact fun hm => absurd (hhigh o hm) (Nat.not_le.2 h)

/-- A register before the windows of the units, outside the fault log. -/
theorem eccApart_of_low {o : Nat} (h : o < 0x01000000) (hl : o ∉ logRegs) : EccApart o := by
  refine ⟨hl, fun a p _ => ?_, fun st p _ => ?_⟩
  · have := storeRegs_ge a
    omega
  · have := memB_ge st
    omega

theorem eccApart_of_inCab {o : Nat} (h : InCab o) : EccApart o :=
  eccApart_of_low (h.2.trans (by decide)) fun hm => not_inCab_logRegs o hm h

theorem not_mem_granRegs_of_inCab {o : Nat} (h : InCab o) : o ∉ granRegs := not_mem_granRegs_of_low (h.2.trans (by decide))

theorem edgeView_readAll (a n : Nat) (s : State) : edgeView (readAll a n s).1 = edgeView s :=
  edgeView_of_words (quiet_edgeSide.readAll a n s) fun _ hlo hhi =>
    regGet_readAll (eccApart_of_inCab ⟨hlo, hhi⟩) (not_mem_granRegs_of_inCab ⟨hlo, hhi⟩) a n s

/-! Link sessions, drains and routes. -/

theorem edgeView_routeItem (i : CtlItem) (s : State) : edgeView (routeItem i s) = edgeView s := by
  unfold routeItem
  split
  · rfl
  · rfl

theorem edgeView_goShake (h : Handshake) (s : State) : edgeView (goShake h s) = edgeView s :=
  ite_view (edgeView_routeItem _ _) rfl

theorem edgeView_startShake (eid : BitVec 19) (s : State) : edgeView (startShake eid s) = edgeView s := by
  have hfault : edgeView (sessFault eFAB_SESS_EVENT_HANDSHAKE_FAIL s) = edgeView s :=
    (edgeView_softFault _ _ _ _ _).trans (edgeView_evt_unit (fabB_ge 0) _ s)
  exact ite_view rfl (ite_view hfault (edgeView_goShake _ _))

theorem edgeView_queueCells (p v : Nat) (l : List EgCell) (s : State) : edgeView (queueCells p v l s) = edgeView s :=
  ite_view rfl (ite_view rfl rfl)

theorem edgeView_startProbes (eid : BitVec 19) (s : State) : edgeView (startProbes eid s) = edgeView s := by
  have hsend : ∀ (l : List ((Nat × Nat) × Nat)) (n : BitVec 32) u,
      edgeView (forAll l (fun x => queueCells x.1.1 x.1.2 [.probe eid (n + BitVec.ofNat 32 x.2)]) u) = edgeView u :=
    fun l _ u => forAll_view edgeView _ (fun x w => edgeView_queueCells _ _ _ w) l u
  unfold startProbes
  dsimp only
  exact ite_view ((hsend _ _ _).trans rfl) ((hsend _ _ _).trans rfl)

theorem edgeView_entrySetOp (eid : BitVec 19) (w : BitVec 64) (s : State) : edgeView (entrySetOp eid w s).1 = edgeView s := by
  have hend : ∀ u, edgeView (endDrain eid stFENCED u) = edgeView u := fun _ => rfl
  unfold entrySetOp
  rw [apply_ite Prod.fst]
  refine ite_view rfl ?_
  dsimp only
  exact ite_view ((edgeView_startShake _ _).trans (ite_view (hend _) rfl)) (ite_view (hend _) rfl)

theorem edgeView_drainReqOp (eid : BitVec 19) (s : State) : edgeView (drainReqOp eid s).1 = edgeView s := by
  unfold drainReqOp
  split
  · rfl
  · split
    · rfl
    · exact ite_view rfl (edgeView_startProbes _ _)

theorem edgeView_routeOwn (y : BitVec 19) (v : BitVec 64) (s : State) : edgeView (routeOwn y v s) = edgeView s := by
  have hset : ∀ w, edgeView (noteEntry (entrySetOp y w s).1) = edgeView s := fun w => edgeView_entrySetOp y w s
  have hclear : ∀ w, edgeView (clearFails y (noteEntry (entrySetOp y w s).1)) = edgeView s := hset
  have hdrain : ∀ w, edgeView (drainReqOp y (noteEntry (entrySetOp y w s).1)).1 = edgeView s := fun w =>
    (edgeView_drainReqOp y _).trans (hset w)
  unfold routeOwn
  exact ite_view rfl (ite_view (hclear _) (ite_view rfl (ite_view (hset _) (ite_view (hdrain _)
    (ite_view rfl (ite_view (hset _) (ite_view (hclear _) (ite_view (edgeView_drainReqOp y s) rfl))))))))

/-! Gorzel messages. -/

theorem edgeView_gzl (s : State) (g : Gzl) : edgeView { s with gzl := g } = edgeView s := rfl

theorem edgeView_gzSend (dest : Option (BitVec 19)) (body : GzlBody) (s : State) :
    edgeView (gzSend dest body s) = edgeView s := by
  have hsets : ∀ u, edgeView (noteSets body u) = edgeView u := fun u => by
    unfold noteSets
    split
    · exact ite_view rfl rfl
    · rfl
  exact ite_view rfl ((hsets _).trans rfl)

theorem edgeView_gzWrite {x : BitVec 19} {s : State} (h : x ≠ ownEid s) (ops : List GzlOp) :
    edgeView (gzWrite x ops s) = edgeView s := by
  have hops : ∀ (l : List GzlOp) u, edgeView (sendOps x l u) = edgeView u := fun l u =>
    (edgeView_gzSend _ _ _).trans rfl
  rw [gzWrite_of_other h]
  exact ite_view (hops _ s) ((hops _ _).trans (hops _ s))

theorem edgeView_routeTo (y x : BitVec 19) (s : State) : edgeView (routeTo y x s) = edgeView s := by
  unfold routeTo
  split
  · exact edgeView_routeOwn _ _ s
  next hx =>
    have hother : ∀ g : Gzl, x ≠ ownEid { s with gzl := g } := fun _ => hx
    exact ite_view rfl ((edgeView_gzWrite (hother _) _).trans (edgeView_gzl s _))

theorem edgeView_routesOf (x : BitVec 19) (s : State) : edgeView (routesOf x s) = edgeView s :=
  (forAll_view edgeView _ (fun y u => edgeView_routeTo y x u) _ _).trans
    (forAll_view edgeView _ (fun z u => edgeView_routeTo x z u) _ s)

theorem edgeView_sumpRoutes (back : Bool) (s : State) : edgeView (sumpRoutes back s) = edgeView s :=
  ite_view (edgeView_routesOf _ s) (forAll_view edgeView _ (fun y u => edgeView_routeOwn y _ u) _ s)

/-- What the entries of R309 need leaves the Cabinet, memory, the cores and the clocks alone. -/
theorem edgeView_sumpStep (s : State) : edgeView (sumpStep s) = edgeView s := by
  have hready : ∀ u, edgeView (sumpReady u) = edgeView u := fun u => ite_view rfl rfl
  unfold sumpStep
  refine ite_view rfl (ite_view ?_ (ite_view rfl ?_))
  · exact (hready _).trans ((edgeView_sumpRoutes _ _).trans (ite_view rfl rfl))
  · exact ite_view (edgeView_sumpRoutes _ _) (edgeView_sumpRoutes _ _)

theorem sumpStep_of_idle {s : State} (h : sumpIdle s = true) : sumpStep s = s := by
  unfold sumpStep
  rw [sumpIdle, Bool.or_eq_true, Bool.and_eq_true] at h
  split
  · rfl
  next hup =>
    obtain hup' | ⟨hhold, hsump⟩ := h
    · exact absurd hup' hup
    · rw [if_neg (by simpa using hhold), if_pos (by simpa using hsump)]

end Sys2Proof.Machine
end

section
/-! SUPPORT. How a Cabinet command is taken and how it ends (R163, R173): CAB_RESULT, CAB_CMD and CAB_EVENT, and what stays. -/

namespace Sys2Proof.Machine

/-! Fields of the CAB block. -/

theorem fget_of_cabView {s t : State} (h : cabView t = cabView s) {f : Fld} (hf : f.off < 0x10000) :
    fget cabB f t = fget cabB f s := by
  obtain ⟨-, -, hregs⟩ := cabView_eq_iff.1 h
  rw [fget, fget, hregs _ (Nat.le_add_right _ _) (Nat.add_lt_add_left hf _)]

theorem txnState_of_cabView {s t : State} (h : cabView t = cabView s) : txnState t = txnState s :=
  fget_of_cabView h (by decide)

theorem txnState_fset {f : Fld} (h : cabB + oCAB_TXN ≠ cabB + f.off) (v : Nat) (s : State) :
    txnState (fset cabB f v s) = txnState s := fget_fset_ne h v s

theorem txnState_fset_reverting (v : Nat) (s : State) : txnState (fset cabB fCAB_TXN_REVERTING v s) = txnState s :=
  fget_fset_apart cabB (by decide) (by decide) v s

theorem txnState_setTxn (v : Nat) (s : State) : txnState (setTxn v s) = v % 4 := fget_fset_same cabB (by decide) v s

theorem CabShows.of_cabView {cmd : Nat} {st : BitVec 8} {s t u : State} (h : CabShows cmd st s t) (hu : cabView u = cabView t) :
    CabShows cmd st s u := by
  unfold CabShows at *
  rwa [fget_of_cabView hu (by decide), fget_of_cabView hu (by decide), fget_of_cabView hu (by decide),
    fget_of_cabView hu (by decide), fget_of_cabView hu (by decide)]

/-! A command is taken. -/

/-- A Cabinet command of PF0 or a management port is taken at once: CAB_CMD is not BUSY, MGMT runs, the part is not RETIRED. -/
structure CabTaken (r : Requester) (s : State) : Prop where
  pf0  : isPf0 r = true
  may  : mayCommand r s = true
  free : fget cabB fCAB_CMD_BUSY s = 0
  runs : mgmtPlane s ≠ 2
  live : s.nv.lc ≠ 3

theorem edgeSide_of_regsOnly {s t : State} (h : RegsOnly s t) : edgeSide t = edgeSide s := by
  obtain ⟨r, rfl⟩ := h
  rfl

theorem edgeSide_evt (b : Nat) (e : Evt) (s : State) : edgeSide (evt b e s) = edgeSide s := quiet_edgeSide.evt b e s

theorem edgeSide_of_edgeView {s t : State} (h : edgeView t = edgeView s) : edgeSide t = edgeSide s := by
  obtain ⟨hcab, hmem, hcores, hclk⟩ := edgeView_eq_iff.1 h
  obtain ⟨hc, hnv, -⟩ := cabView_eq_iff.1 hcab
  simp only [edgeSide, hc, hnv, hmem, hcores, hclk]

theorem regsOnly_cabWritten (cmd : Nat) (timed : Bool) (s : State) : RegsOnly s (cabWritten cmd timed s) :=
  (regsOnly_fset _ _ _ _).trans (regsOnly_fset _ _ _ _)

theorem edgeSide_cabWritten (cmd : Nat) (timed : Bool) (s : State) : edgeSide (cabWritten cmd timed s) = edgeSide s :=
  edgeSide_of_regsOnly (regsOnly_cabWritten cmd timed s)

theorem nv_cabWritten (cmd : Nat) (timed : Bool) (s : State) : (cabWritten cmd timed s).nv = s.nv := by
  obtain ⟨r, h⟩ := regsOnly_cabWritten cmd timed s
  rw [h]

theorem txnState_cabWritten (cmd : Nat) (timed : Bool) (s : State) : txnState (cabWritten cmd timed s) = txnState s :=
  (txnState_fset (by decide) _ _).trans (txnState_fset (by decide) _ _)

theorem cabSeq_cabWritten (cmd : Nat) (timed : Bool) (s : State) :
    fget cabB fCAB_RESULT_SEQ (cabWritten cmd timed s) = fget cabB fCAB_RESULT_SEQ s :=
  (fget_fset_ne (by decide) _ _).trans (fget_fset_ne (by decide) _ _)

theorem CabTaken.cabWrite_eq {r : Requester} {s : State} (h : CabTaken r s) (cmd : Nat) (timed : Bool) :
    cabWrite r cmd timed s = cabRun cmd timed (cabWritten cmd timed s) := by
  have hplane : mgmtPlane (cabWritten cmd timed s) = mgmtPlane s :=
    (fget_fset_ne (by decide) _ _).trans (fget_fset_ne (by decide) _ _)
  have hruns : mgmtPlane (cabWritten cmd timed s) ≠ 2 := hplane ▸ h.runs
  unfold cabWrite
  rw [h.pf0, h.may, if_neg (by decide), if_neg (by rw [h.free]; decide)]
  exact if_neg hruns

/-- Outside RETIRED a command runs (R407). -/
theorem cabRun_of_live {s : State} (h : s.nv.lc ≠ 3) (timed : Bool) : cabRun 1 timed s = cabBegin s ∧
    cabRun 2 timed s = cabStage s ∧ cabRun 3 timed s = cabCommit timed s ∧ cabRun 4 timed s = cabRollback s ∧
    cabRun 5 timed s = cabRevert timed s := by
  have hlive : ∀ cmd, ¬ (s.nv.lc = 3 ∧ inRange cmd 1 5 = true) := fun _ h3 => h h3.1
  exact ⟨if_neg (hlive 1), if_neg (hlive 2), if_neg (hlive 3), if_neg (hlive 4), if_neg (hlive 5)⟩

theorem CabTaken.live_written {r : Requester} {s : State} (h : CabTaken r s) (cmd : Nat) (timed : Bool) :
    (cabWritten cmd timed s).nv.lc ≠ 3 := by
  rw [nv_cabWritten]
  exact h.live

section
variable {r : Requester} {s : State} (h : CabTaken r s)
include h

theorem CabTaken.exec_begin : exec (.beginTxn r) s = .next (cabBegin (cabWritten 1 false s)) := by
  have hexec : exec (.beginTxn r) s = .next (cabWrite r 1 false s) := rfl
  obtain ⟨hrun, -⟩ := cabRun_of_live (h.live_written 1 false) false
  rw [hexec, h.cabWrite_eq 1 false, hrun]

theorem CabTaken.exec_stage : exec (.stage r) s = .next (sumpStep (cabStage (cabWritten 2 false s))) := by
  have hexec : exec (.stage r) s = .next (sumpStep (cabWrite r 2 false s)) := rfl
  obtain ⟨-, hrun, -⟩ := cabRun_of_live (h.live_written 2 false) false
  rw [hexec, h.cabWrite_eq 2 false, hrun]

theorem CabTaken.exec_commit (timed : Bool) :
    exec (.commit r timed) s = .next (sumpStep (cabCommit timed (cabWritten 3 timed s))) := by
  have hexec : exec (.commit r timed) s = .next (sumpStep (cabWrite r 3 timed s)) := rfl
  obtain ⟨-, -, hrun, -⟩ := cabRun_of_live (h.live_written 3 timed) timed
  rw [hexec, h.cabWrite_eq 3 timed, hrun]

theorem CabTaken.exec_rollback : exec (.rollback r) s = .next (sumpStep (cabRollback (cabWritten 4 false s))) := by
  have hexec : exec (.rollback r) s = .next (sumpStep (cabWrite r 4 false s)) := rfl
  obtain ⟨-, -, -, hrun, -⟩ := cabRun_of_live (h.live_written 4 false) false
  rw [hexec, h.cabWrite_eq 4 false, hrun]

theorem CabTaken.exec_revert (timed : Bool) :
    exec (.revert r timed) s = .next (sumpStep (cabRevert timed (cabWritten 5 timed s))) := by
  have hexec : exec (.revert r timed) s = .next (sumpStep (cabWrite r 5 timed s)) := rfl
  obtain ⟨-, -, -, -, hrun⟩ := cabRun_of_live (h.live_written 5 timed) timed
  rw [hexec, h.cabWrite_eq 5 timed, hrun]

end

/-! A command ends. -/

/-- The registers that the end of a command writes. -/
theorem regsKept_cabResult (cmd : Nat) (e : Option CabErr) (s : State) :
    RegsKept [cabB + oCAB_RESULT, cabB + oCAB_ERR] s (cabResult cmd e s) := by
  unfold cabResult fadd
  exact ((((regsKept_fset (by decide) _ _).trans (regsKept_fset (by decide) _ _)).trans (regsKept_fset (by decide) _ _)).trans
    (regsKept_fset (by decide) _ _)).trans (regsKept_regSet (by decide) _ _)

theorem regsOnly_cabResult (cmd : Nat) (e : Option CabErr) (s : State) : RegsOnly s (cabResult cmd e s) := by
  unfold cabResult fadd
  exact ((((regsOnly_fset _ _ _ _).trans (regsOnly_fset _ _ _ _)).trans (regsOnly_fset _ _ _ _)).trans
    (regsOnly_fset _ _ _ _)).trans (regsOnly_regSet _ _ _)

theorem txnState_cabResult (cmd : Nat) (e : Option CabErr) (s : State) : txnState (cabResult cmd e s) = txnState s :=
  (regsKept_cabResult cmd e s).fget (by decide)

theorem cabResult_cmd {cmd : Nat} (h : cmd < 16) (e : Option CabErr) (s : State) :
    fget cabB fCAB_RESULT_CMD (cabResult cmd e s) = cmd := by
  rw [cabResult, fget_regSet_ne (by decide), fget_fset_same cabB (by decide)]
  exact Nat.mod_eq_of_lt h

theorem cabResult_status (cmd : Nat) (e : Option CabErr) (s : State) :
    fget cabB fCAB_RESULT_STATUS (cabResult cmd e s) = (e.getD (stOK, 0, 0)).1.toNat := by
  rw [cabResult, fget_regSet_ne (by decide), fget_fset_apart cabB (by decide) (by decide), fget_fset_same cabB (by decide)]
  exact Nat.mod_eq_of_lt (BitVec.isLt _)

theorem cabResult_seq (cmd : Nat) (e : Option CabErr) (s : State) :
    fget cabB fCAB_RESULT_SEQ (cabResult cmd e s) = (fget cabB fCAB_RESULT_SEQ s + 1) % 16 := by
  rw [cabResult, fget_regSet_ne (by decide), fget_fset_apart cabB (by decide) (by decide),
    fget_fset_apart cabB (by decide) (by decide), fget_fset_apart cabB (by decide) (by decide), fadd,
    fget_fset_same cabB (by decide)]
  rfl

/-- An event of the Cabinet leaves the fields of the registers before CAB_EVENT alone. -/
theorem fget_cabEvt {f : Fld} {e : Evt} (h : f.off < 0x40) (hb : 0x40 ≤ e.bit.off) (hc : 0x40 ≤ e.cnt.off) (s : State) :
    fget cabB f (evt cabB e s) = fget cabB f s := fget_evt_ne (by omega) (by omega) s

/-- A command of the Cabinet has ended after the state v: its status is shown, and nothing else but the records changes. -/
structure CabEnded (cmd : Nat) (st : BitVec 8) (s v t : State) : Prop where
  shows : CabShows cmd st s t
  txn   : txnState t = txnState v
  side  : edgeSide t = edgeSide v

theorem CabEnded.sump {cmd : Nat} {st : BitVec 8} {s v t : State} (h : CabEnded cmd st s v t) :
    CabEnded cmd st s v (sumpStep t) := by
  have hview := edgeView_sumpStep t
  have hcab := cabView_of_edgeView hview
  exact ⟨h.shows.of_cabView hcab, (txnState_of_cabView hcab).trans h.txn, (edgeSide_of_edgeView hview).trans h.side⟩

/-- The command is no longer BUSY, before the event. -/
def cabClosed (cmd : Nat) (e : Option CabErr) (s : State) : State := fset cabB fCAB_CMD_BUSY 0 (cabResult cmd e s)

theorem cabEnd_eq (cmd : Nat) (e : Option CabErr) (s : State) : cabEnd cmd e s = evt cabB eCAB_EVENT_CMD_DONE (cabClosed cmd e s) :=
  rfl

theorem fget_cabClosed {f : Fld} (h : f.Apart fCAB_CMD_BUSY) (cmd : Nat) (e : Option CabErr) (s : State) :
    fget cabB f (cabClosed cmd e s) = fget cabB f (cabResult cmd e s) := fget_fset_apart cabB (by decide) h 0 _

theorem cabClosed_busy (cmd : Nat) (e : Option CabErr) (s : State) : fget cabB fCAB_CMD_BUSY (cabClosed cmd e s) = 0 :=
  (fget_fset_same cabB (by decide) 0 _).trans rfl

theorem cabEnd_ended {cmd : Nat} (hcmd : cmd < 16) (e : Option CabErr) {s v : State}
    (hseq : fget cabB fCAB_RESULT_SEQ v = fget cabB fCAB_RESULT_SEQ s) :
    CabEnded cmd (e.getD (stOK, 0, 0)).1 s v (cabEnd cmd e v) := by
  have hclosed : RegsOnly v (cabClosed cmd e v) := (regsOnly_cabResult cmd e v).trans (regsOnly_fset _ _ _ _)
  rw [cabEnd_eq]
  refine ⟨⟨?_, ?_, ?_, ?_, ?_⟩, ?_, (edgeSide_evt _ _ _).trans (edgeSide_of_regsOnly hclosed)⟩
  · rw [fget_cabEvt (by decide) (by decide) (by decide), fget_cabClosed (by decide), cabResult_cmd hcmd]
  · rw [fget_cabEvt (by decide) (by decide) (by decide), fget_cabClosed (by decide), cabResult_status]
  · rw [fget_cabEvt (by decide) (by decide) (by decide), fget_cabClosed (by decide), cabResult_seq, hseq]
    rfl
  · rw [fget_cabEvt (by decide) (by decide) (by decide), cabClosed_busy]
  · exact fget_evt_bit cabB (by decide) (by decide) (by decide) _
  · rw [txnState, fget_cabEvt (by decide) (by decide) (by decide), fget_cabClosed (by decide)]
    exact txnState_cabResult cmd e v

end Sys2Proof.Machine
end

section
/-! Settles O35: BEGIN, STAGE and ROLLBACK (R163, R164, R171). -/

namespace Sys2Proof.Machine

theorem cabSeq_noteCab (s : State) : fget cabB fCAB_RESULT_SEQ (noteCab s) = fget cabB fCAB_RESULT_SEQ s :=
  (regsKept_noteCab s).fget (by decide)

/-- The structure in force, the previous one, the nonvolatile state, memory and the cores are as before. -/
def StructsStay (s t : State) : Prop :=
  t.cab.cur = s.cab.cur ∧ t.cab.prev = s.cab.prev ∧ t.nv = s.nv ∧ t.mem = s.mem ∧ t.cores = s.cores

section
variable {s t : State} (h : edgeSide t = edgeSide s)
include h

theorem cab_of_edgeSide : t.cab = s.cab := congrArg (fun x => x.1.1) h
theorem nv_of_edgeSide : t.nv = s.nv := congrArg (fun x => x.1.2) h
theorem mem_of_edgeSide : t.mem = s.mem := congrArg (fun x => x.2.1) h
theorem cores_of_edgeSide : t.cores = s.cores := congrArg (fun x => x.2.2.1) h
theorem clk_of_edgeSide : t.clk = s.clk := congrArg (fun x => x.2.2.2) h

end

theorem edgeSide_withCab {s t : State} (h : edgeSide t = edgeSide s) (f : Cab → Cab) :
    edgeSide { t with cab := f t.cab } = edgeSide { s with cab := f s.cab } := by
  simp only [edgeSide, Prod.mk.injEq] at h ⊢
  obtain ⟨⟨hcab, hnv⟩, hrest⟩ := h
  exact ⟨⟨by rw [hcab], hnv⟩, hrest⟩

theorem structsStay_of_side {f : Cab → Cab} {s t : State} (h : edgeSide t = edgeSide { s with cab := f s.cab })
    (hcur : (f s.cab).cur = s.cab.cur) (hprev : (f s.cab).prev = s.cab.prev) : StructsStay s t := by
  have hcab : t.cab = f s.cab := cab_of_edgeSide h
  exact ⟨hcab ▸ hcur, hcab ▸ hprev, (nv_of_edgeSide h :), (mem_of_edgeSide h :), (cores_of_edgeSide h :)⟩

/-! The changes of the three commands. -/

/-- The current structure becomes the shadow. -/
def Cab.opened (c : Cab) : Cab := { c with shadow := some c.cur, staged := none }
/-- A shadow structure is staged. -/
def Cab.filled (new : CabStruct) (c : Cab) : Cab := { c with shadow := some new, staged := some new.gen }
/-- Shadow and edge are gone. -/
def Cab.discarded (c : Cab) : Cab := { c with shadow := none, staged := none, edge := none }

/-- BEGIN outside a transaction. -/
def begunTxn (s : State) : State := noteCab (setTxn 1 { s with cab := s.cab.opened })

theorem cabBegin_eq (s : State) : cabBegin s =
    if txnState s ≠ 0 then cabEnd 1 (some (stDENIED, 0, 0)) s else cabEnd 1 none (begunTxn s) := rfl

theorem begunTxn_spec (s : State) : txnState (begunTxn s) = 1 ∧
    fget cabB fCAB_RESULT_SEQ (begunTxn s) = fget cabB fCAB_RESULT_SEQ s ∧
    edgeSide (begunTxn s) = edgeSide { s with cab := s.cab.opened } := by
  refine ⟨(txnState_noteCab _).trans (txnState_setTxn 1 _), (cabSeq_noteCab _).trans ?_, ?_⟩
  · exact fget_fset_ne (by decide) 1 _
  · exact edgeSide_of_regsOnly ((regsOnly_fset _ _ _ _).trans (regsOnly_noteCab _))

/-- STAGE reads its source where it may be read. -/
def stageRead (s : State) : State :=
  let len := fget cabB fCAB_ARG_LEN_LEN s
  if cabSrc s % 64 = 0 ∧ len ≤ 0x1000000 ∧ stageRange (cabSrc s) len s = stOK then (readAll (cabSrc s) len s).1 else s

/-- The bytes that STAGE takes as the image. -/
def stageImage (s : State) : List Byte :=
  memBytes (cabSrc s) (Nat.max 0x240 (Nat.min (fget cabB fCAB_ARG_LEN_LEN s) 0x1000000)) s

/-- The first failed check of STAGE. -/
def stageFault (s : State) : Option CabErr := stageErr (cabSrc s) (fget cabB fCAB_ARG_LEN_LEN s) (stageImage s) s

/-- The structure that STAGE makes. -/
def stageStruct (s : State) : CabStruct := mergeImage (stageImage s) (s.cab.shadow.getD s.cab.cur)

/-- STAGE in an OPEN transaction. -/
def stagedTxn (new : CabStruct) (s : State) : State := noteCab { s with cab := s.cab.filled new }

theorem edgeView_stageRead (s : State) : edgeView (stageRead s) = edgeView s := ite_view (edgeView_readAll _ _ s) rfl

theorem cabStage_open {s : State} (h : txnState s = 1) : cabStage s = match stageFault s with
    | some e => cabEnd 2 (some e) (stageRead s)
    | none => cabEnd 2 none (stagedTxn (stageStruct s) (stageRead s)) := by
  have hcab : (stageRead s).cab = s.cab := cab_of_edgeSide (edgeSide_of_edgeView (edgeView_stageRead s))
  unfold cabStage stageStruct
  rw [if_neg (not_not_intro h), ← hcab]
  rfl

theorem stagedTxn_spec (new : CabStruct) (s : State) :
    fget cabB fCAB_RESULT_SEQ (stagedTxn new (stageRead s)) = fget cabB fCAB_RESULT_SEQ s ∧
    edgeSide (stagedTxn new (stageRead s)) = edgeSide { s with cab := s.cab.filled new } := by
  have hread := edgeView_stageRead s
  refine ⟨(cabSeq_noteCab _).trans (fget_of_cabView (cabView_of_edgeView hread) (by decide)), ?_⟩
  exact (edgeSide_of_regsOnly (regsOnly_noteCab _)).trans (edgeSide_withCab (edgeSide_of_edgeView hread) _)

theorem cabRollback_early {s : State} (h : ∀ x, s.cab.edge = some x → reaches48 s.clk.p x.t = false) :
    cabRollback s = cabEnd 4 none (cabDiscard s) := by
  unfold cabRollback
  split
  next => rfl
  next x hx => rw [h x hx]; rfl

theorem cabDiscard_spec (s : State) : txnState (cabDiscard s) = 0 ∧
    fget cabB fCAB_RESULT_SEQ (cabDiscard s) = fget cabB fCAB_RESULT_SEQ s ∧
    edgeSide (cabDiscard s) = edgeSide { s with cab := s.cab.discarded } := by
  rw [cabDiscard_stages]
  refine ⟨(txnState_noteCab _).trans (txnState_txnDropped s), (cabSeq_noteCab _).trans ((regsKept_txnDropped s).fget (by decide)), ?_⟩
  exact (edgeSide_of_regsOnly (regsOnly_noteCab _)).trans
    (edgeSide_of_regsOnly ((regsOnly_fset _ _ _ _).trans (regsOnly_fset _ _ _ _)))

/-! The commands. -/

section
variable {r : Requester} {s : State} (h : CabTaken r s)
include h

theorem begin_opens (htxn : txnState s = 0) : Goes (.beginTxn r) s fun t =>
    CabShows 1 stOK s t ∧ txnState t = 1 ∧ t.cab.shadow = some s.cab.cur ∧ t.cab.staged = none ∧ StructsStay s t := by
  have hexec := h.exec_begin
  have hu := (txnState_cabWritten 1 false s).trans htxn
  have hseq := cabSeq_cabWritten 1 false s
  have hside := edgeSide_cabWritten 1 false s
  generalize cabWritten 1 false s = u at hexec hu hseq hside
  obtain ⟨hopen, hseq', hside'⟩ := begunTxn_spec u
  have hend := cabEnd_ended (cmd := 1) (by decide) none (hseq'.trans hseq)
  have hall := hend.side.trans (hside'.trans (edgeSide_withCab hside Cab.opened))
  have hcab := cab_of_edgeSide hall
  refine ⟨_, hexec, ?_⟩
  rw [cabBegin_eq, if_neg (not_not_intro hu)]
  exact ⟨hend.shows, hend.txn.trans hopen, congrArg Cab.shadow hcab, congrArg Cab.staged hcab, structsStay_of_side hall rfl rfl⟩

theorem begin_denied (htxn : txnState s ≠ 0) : Goes (.beginTxn r) s fun t =>
    CabShows 1 stDENIED s t ∧ t.cab = s.cab ∧ StructsStay s t := by
  have hexec := h.exec_begin
  have hu := (txnState_cabWritten 1 false s).trans_ne htxn
  have hseq := cabSeq_cabWritten 1 false s
  have hside := edgeSide_cabWritten 1 false s
  generalize cabWritten 1 false s = u at hexec hu hseq hside
  have hend := cabEnd_ended (cmd := 1) (by decide) (some (stDENIED, 0, 0)) hseq
  have hall := hend.side.trans hside
  refine ⟨_, hexec, ?_⟩
  rw [cabBegin_eq, if_pos hu]
  exact ⟨hend.shows, cab_of_edgeSide hall, structsStay_of_side (f := id) hall rfl rfl⟩

theorem stage_fails {e : CabErr} (hu : txnState (cabWritten 2 false s) = 1) (herr : stageFault (cabWritten 2 false s) = some e) :
    Goes (.stage r) s fun t => CabShows 2 e.1 s t ∧ t.cab = s.cab ∧ StructsStay s t := by
  have hexec := h.exec_stage
  have hseq := cabSeq_cabWritten 2 false s
  have hside := edgeSide_cabWritten 2 false s
  generalize cabWritten 2 false s = u at hexec hu herr hseq hside
  have hread := edgeView_stageRead u
  have hseq' := fget_of_cabView (cabView_of_edgeView hread) (f := fCAB_RESULT_SEQ) (by decide)
  have hend := (cabEnd_ended (cmd := 2) (by decide) (some e) (hseq'.trans hseq)).sump
  have hall := hend.side.trans ((edgeSide_of_edgeView hread).trans hside)
  refine ⟨_, hexec, ?_⟩
  rw [cabStage_open hu, herr]
  exact ⟨hend.shows, cab_of_edgeSide hall, structsStay_of_side (f := id) hall rfl rfl⟩

theorem stage_fills (hu : txnState (cabWritten 2 false s) = 1) (herr : stageFault (cabWritten 2 false s) = none) :
    Goes (.stage r) s fun t => CabShows 2 stOK s t ∧ t.cab.shadow = some (stageStruct (cabWritten 2 false s)) ∧
      t.cab.staged = some (stageStruct (cabWritten 2 false s)).gen ∧ StructsStay s t := by
  have hexec := h.exec_stage
  have hseq := cabSeq_cabWritten 2 false s
  have hside := edgeSide_cabWritten 2 false s
  generalize cabWritten 2 false s = u at *
  obtain ⟨hseq', hside'⟩ := stagedTxn_spec (stageStruct u) u
  have hend := (cabEnd_ended (cmd := 2) (by decide) none (hseq'.trans hseq)).sump
  have hall := hend.side.trans (hside'.trans (edgeSide_withCab hside _))
  have hcab := cab_of_edgeSide hall
  refine ⟨_, hexec, ?_⟩
  rw [cabStage_open hu, herr]
  exact ⟨hend.shows, congrArg Cab.shadow hcab, congrArg Cab.staged hcab, structsStay_of_side hall rfl rfl⟩

theorem rollback_discards (hdue : ∀ x, s.cab.edge = some x → reaches48 s.clk.p x.t = false) : Goes (.rollback r) s fun t =>
    CabShows 4 stOK s t ∧ txnState t = 0 ∧ t.cab.shadow = none ∧ t.cab.staged = none ∧ t.cab.edge = none ∧ StructsStay s t := by
  have hexec := h.exec_rollback
  have hseq := cabSeq_cabWritten 4 false s
  have hside := edgeSide_cabWritten 4 false s
  generalize cabWritten 4 false s = u at *
  have hclk : u.clk = s.clk := clk_of_edgeSide hside
  have hdue' : ∀ x, u.cab.edge = some x → reaches48 u.clk.p x.t = false := by
    rw [cab_of_edgeSide hside, hclk]
    exact hdue
  obtain ⟨htxn, hseq', hside'⟩ := cabDiscard_spec u
  have hend := (cabEnd_ended (cmd := 4) (by decide) none (hseq'.trans hseq)).sump
  have hall := hend.side.trans (hside'.trans (edgeSide_withCab hside Cab.discarded))
  have hcab := cab_of_edgeSide hall
  refine ⟨_, hexec, ?_⟩
  rw [cabRollback_early hdue']
  exact ⟨hend.shows, hend.txn.trans htxn, congrArg Cab.shadow hcab, congrArg Cab.staged hcab, congrArg Cab.edge hcab,
    structsStay_of_side hall rfl rfl⟩

end

/-- The shadow structure that STAGE makes is that of its image and the shadow before, and its generation is the image's. -/
theorem stageStruct_cabWritten (s : State) : stageStruct (cabWritten 2 false s) =
    mergeImage (stageImage (cabWritten 2 false s)) (s.cab.shadow.getD s.cab.cur) := by
  rw [stageStruct, cab_of_edgeSide (edgeSide_cabWritten 2 false s)]

/-- Settles O35: each command is taken at once, makes its one change of the Cabinet and ends; the entries of R309 that follow
change neither the Cabinet nor memory nor a core. -/
theorem cabinetTransaction : Obligations.CabinetTransaction := by
  unfold Obligations.CabinetTransaction
  intro r s hpf hmay hfree hruns hlive Same
  have h : CabTaken r s := ⟨hpf, hmay, hfree, hruns, hlive⟩
  refine ⟨begin_opens h, begin_denied h, fun htxn => ⟨fun herr => ?_, fun e herr => stage_fails h htxn herr⟩, rollback_discards h⟩
  have hfill := stage_fills h htxn herr
  rw [stageStruct_cabWritten] at hfill
  exact hfill

end Sys2Proof.Machine
end

section
/-! SUPPORT. What an edge does beside the Cabinet itself (R166, R167): teardowns, the pace domain, counters, limits, sessions and
resets leave the structures, the nonvolatile state and the CAB registers alone. -/

namespace Sys2Proof.Machine

/-- The part of the Cabinet that is not in registers. -/
def cabSide (s : State) : Cab × Nv := (s.cab, s.nv)

theorem quiet_cabSide : Quiet cabSide := ⟨fun _ _ => rfl, fun _ _ => rfl, fun _ _ => rfl, fun _ _ => rfl, fun _ _ => rfl,
  fun _ _ => rfl, fun _ _ => rfl⟩

theorem cabView_of_words {s t : State} (h : cabSide t = cabSide s) (hr : RegsKeptIn cabB s t) : cabView t = cabView s := by
  obtain ⟨hcab, hnv⟩ : t.cab = s.cab ∧ t.nv = s.nv := by simpa [cabSide] using h
  exact cabView_eq_iff.2 ⟨hcab, hnv, hr⟩

/-! Registers and events. -/

theorem cabView_fset {b : Nat} {f : Fld} (h : ¬ InCab (b + f.off)) (v : Nat) (s : State) : cabView (fset b f v s) = cabView s :=
  cabView_of_edgeView (edgeView_fset h v s)

theorem cabView_fset_unit {b : Nat} (h : 0x01000000 ≤ b) (f : Fld) (v : Nat) (s : State) :
    cabView (fset b f v s) = cabView s := cabView_of_edgeView (edgeView_fset_unit h f v s)

theorem cabView_evt {b : Nat} {e : Evt} (hb : ¬ InCab (b + e.bit.off)) (hc : ¬ InCab (b + e.cnt.off)) (s : State) :
    cabView (evt b e s) = cabView s := cabView_of_edgeView (edgeView_evt hb hc s)

theorem cabView_raiseMsix (f v : Nat) (s : State) : cabView (raiseMsix f v s) = cabView s :=
  cabView_of_edgeView (edgeView_raiseMsix f v s)

theorem cabView_colEvt {e : Evt} (hb : ¬ InCab (colB + e.bit.off)) (hc : ¬ InCab (colB + e.cnt.off)) (p : Nat) (s : State) :
    cabView (colEvt e p s) = cabView s := (cabView_raiseMsix _ _ _).trans (cabView_evt hb hc s)

theorem cabView_ctrClear (b : CtrBlk) (s : State) : cabView (ctrClear b s) = cabView s :=
  forAll_view cabView _ (fun i u => (rfl : cabView (ctrSet b i ⟨0, 0⟩ u) = cabView u)) _ s

theorem cabView_clearRegs {b : Nat} (h : 0x01000000 ≤ b) (l : List Nat) (s : State) :
    cabView (clearRegs b l s) = cabView s :=
  forAll_view cabView _ (fun _ u => cabView_of_edgeView
    (edgeView_regSet (not_inCab_of_ge (h.trans (Nat.le_add_right _ _))) _ u)) l s

theorem cabView_clearUnits {b : Nat → Nat} (hb : ∀ k, 0x01000000 ≤ b k) (ctr : Nat → CtrBlk) (l xs : List Nat)
    (s : State) : cabView (forAll xs (fun k u => ctrClear (ctr k) (clearRegs (b k) l u)) s) = cabView s :=
  forAll_view cabView _ (fun k u => (cabView_ctrClear _ _).trans (cabView_clearRegs (hb k) l u)) xs s

/-! Memory and queues. -/

theorem cabView_readAll (a n : Nat) (s : State) : cabView (readAll a n s).1 = cabView s :=
  cabView_of_edgeView (edgeView_readAll a n s)

theorem cabView_memWrite (a : Nat) (l : List Byte) (s : State) : cabView (memWrite a l s) = cabView s :=
  cabView_of_words (memStore_view quiet_cabSide (fun _ _ => rfl) (fun _ _ => rfl) _ _ _ s) fun o hlo hhi =>
    regGet_memStore (eccApart_of_inCab ⟨hlo, hhi⟩) (not_mem_granRegs_of_inCab ⟨hlo, hhi⟩)
      (hhi.trans (by decide)) _ _ _ s

theorem cabView_endCmd (qid : Nat) (idx : BitVec 32) (st : BitVec 8) (detail : Word) (s : State) :
    cabView (endCmd qid idx st detail s) = cabView s := by
  unfold endCmd setPhase
  dsimp only
  refine (rfl : cabView (setQueue _ _ _) = cabView _).trans ?_
  split
  · rfl
  · exact ite_view (leaveIntake_view (φ := cabView) (fun _ _ => rfl) _ _ s) rfl

theorem cabView_flushCmds (qid : Nat) (st : BitVec 8) (rank : Nat) (s : State) :
    cabView (flushCmds qid st rank s) = cabView s :=
  flushCmds_view cabView_readAll (fun _ _ => rfl) (fun _ _ => rfl) (fun _ _ => rfl) st rank s

theorem cabView_disableQueue (st : BitVec 8) (qid : Nat) (s : State) : cabView (disableQueue st qid s) = cabView s := by
  have hback : ∀ u, cabView (writeBack qid u) = cabView u := fun u =>
    ite_view rfl ((cabView_memWrite _ _ _).trans (cabView_memWrite _ _ u))
  exact ite_view rfl ((hback _).trans (cabView_flushCmds qid st (commRank qid s) s))

/-! Instances, launch entries, moves and keys. -/

theorem cabView_cancelInst (id : Nat) (st : BitVec 8) (s : State) : cabView (cancelInst id st s) = cabView s := by
  have hdrop : cabView (modInst id (fun x => { x with status := st }) (dropEntries id s)) = cabView s :=
    dropEntries_view (φ := cabView) (fun _ _ => rfl) (fun _ _ => rfl) id s
  rw [← hdrop]
  unfold cancelInst
  dsimp only
  split
  · rfl
  · refine ite_view (cabView_endCmd _ _ _ _ _) (forAll_view cabView _ (fun c u => ?_) _ _)
    exact (cabView_fset_unit (coreB_ge c) _ _ _).trans rfl

theorem cabView_cancelAll (st : BitVec 8) (l : List Inst) (s : State) :
    cabView (forAll l (fun i => cancelInst i.id st) s) = cabView s :=
  forAll_view cabView _ (fun (i : Inst) u => cabView_cancelInst i.id st u) l s

theorem cabView_drainsGo (s : State) : cabView (drainsGo s) = cabView s := by
  refine forAll_view cabView _ (fun d u => ?_) _ s
  split
  · rfl
  · exact cabView_of_edgeView (edgeView_startProbes d.eid u)

theorem cabView_endMoves (cores : List Nat) (st : BitVec 8) (s : State) : cabView (endMoves cores st s) = cabView s := by
  refine (cabView_drainsGo _).trans (forAll_view cabView _ (fun r u => ?_) _ s)
  dsimp only
  split
  · exact cabView_endCmd _ _ _ _ _
  · exact cabView_endCmd _ _ _ _ _
  · exact cabView_endCmd _ _ _ _ _
  · rfl

theorem cabView_secEnd (r : Requester) (cmd : Nat) (x : SecRes) (s : State) : cabView (secEnd r cmd x s) = cabView s := by
  have hset : ∀ f v u, cabView (secSet r f v u) = cabView u := fun _ _ _ => rfl
  unfold secEnd
  lift_lets
  intro u v
  have hv : cabView v = cabView s := by rw [hset, hset, hset, hset, hset, hset]
  split
  · exact ite_view ((cabView_raiseMsix _ _ v).trans hv) ((cabView_raiseMsix _ _ v).trans hv)
  · exact hv

theorem cabView_eraseKeysOf (p : Nat) (s : State) : cabView (eraseKeysOf p s) = cabView s := by
  have hkey : ∀ i u, cabView (eraseKey i u) = cabView u := fun i u =>
    ite_view rfl ((cabView_evt (by decide) (by decide) _).trans rfl)
  unfold eraseKeysOf
  lift_lets
  intro u
  have hu : cabView u = cabView s := forAll_view cabView _ (fun i w => hkey _ w) _ s
  clear_value u
  refine (forAll_view cabView _ (fun (x : Requester × Word) w => ?_) _ _).trans hu
  exact cabView_secEnd _ _ _ w

theorem cabView_unloadParts (parts : List Nat) (s : State) : cabView (unloadParts parts s) = cabView s := by
  unfold unloadParts
  dsimp only
  rw [forAll_view cabView _ fun i u => (rfl : cabView (freeProg i u) = cabView u)]
  split
  · rfl
  · exact ite_view (cabView_endCmd _ _ _ _ _) rfl

/-! Chambers. -/

theorem cabView_endReq (id : Nat) (st : BitVec 8) (detail : Word) (s : State) :
    cabView (endReq id st detail s) = cabView s := by
  have hmod : ∀ f u, cabView (modCh id f u) = cabView u := fun _ _ => rfl
  unfold endReq
  dsimp only
  split
  · rfl
  · rw [hmod, cabView_endCmd]

theorem cabView_chInactive (id : Nat) (s : State) : cabView (chInactive id s) = cabView s := by
  unfold chInactive noteActive
  dsimp only
  rw [cabView_fset (by decide), cabView_fset (by decide)]
  rfl

theorem cabView_chPartReset (p : Nat) (s : State) : cabView (chPartReset p s) = cabView s :=
  forAll_view cabView _ (fun id u => (cabView_chInactive id _).trans (cabView_endReq id _ _ u)) _ s

/-! The teardown of a partition and its reset (R139, R361). -/

theorem cabView_tearOld (p : Nat) (s : State) : cabView (tearOld p s) = cabView s := by
  have hzero : ∀ q n u, cabView (zeroDescs q n u) = cabView u := fun _ _ _ => rfl
  unfold tearOld
  refine ite_view rfl ?_
  dsimp only
  rw [hzero, cabView_unloadParts, cabView_chPartReset, forAll_view cabView _ fun q u => cabView_disableQueue _ q u, cabView_cancelAll,
    cabView_eraseKeysOf]

theorem cabView_coreToReset (c : Nat) (s : State) : cabView (coreToReset c s) = cabView s := by
  have hout : ∀ u, cabView (coreWithdrawn c u) = cabView u := fun _ => rfl
  have hmod : ∀ f u, cabView (modCore c f u) = cabView u := fun _ _ => rfl
  rw [coreToReset_stages, hout, coreCleared, cabView_fset_unit (coreB_ge c), cabView_ctrClear, cabView_clearRegs (coreB_ge c), hmod,
    advanceCore, cabView_fset_unit (coreB_ge c), hmod]

theorem cabView_coresToReset (cores : List Nat) (s : State) : cabView (coresToReset cores s) = cabView s := by
  have hflush : ∀ sel u, cabView (hoFlush sel u) = cabView u := fun _ _ => rfl
  have hend : cabView (endInsts cores s) = cabView s := by
    unfold endInsts
    exact (cabView_cancelAll _ _ _).trans (cabView_cancelAll _ _ s)
  have hadmit : ¬ InCab (pwrB + oPWR_STEP_ADMIT) := by decide
  unfold coresToReset noteAdmit
  dsimp only
  rw [forAll_view cabView _ fun d u => cabView_fset hadmit _ u, hflush, forAll_view cabView _ cabView_coreToReset,
    cabView_endMoves, hend]

theorem cabView_advancePart (p : Nat) (s : State) : cabView (advancePart p s) = cabView s :=
  (cabView_fset (by exact (by decide : ¬ InCab (hubB + oHUB_RESET_GEN))) _ _).trans rfl

theorem cabView_partToReset (p : Nat) (s : State) : cabView (partToReset p s) = cabView s := by
  unfold partToReset
  dsimp only
  rw [cabView_advancePart]
  refine .trans (b := cabView (forAll _ _ _)) rfl ?_
  rw [forAll_view cabView _ fun st u => cabView_fset_unit (memB_ge st) _ _ u, cabView_clearUnits memB_ge,
    cabView_clearUnits cluB_ge, forAll_view cabView _ fun c u => cabView_clearRegs (coreB_ge c) _ u, cabView_chPartReset,
    forAll_view cabView _ fun q u => cabView_disableQueue _ q u, cabView_coresToReset, cabView_cancelAll, cabView_eraseKeysOf,
    cabView_fset (by decide)]

theorem cabView_tearNew (p : Nat) (s : State) : cabView (tearNew p s) = cabView s := by
  have hbegin : cabView (beginReset 3 p none s) = cabView s :=
    (cabView_fset (by decide) _ _).trans (ite_view (cabView_partToReset p _) rfl)
  exact ite_view rfl (ite_view rfl hbegin)

/-! Power, the pace domain and the ceiling (R205, R213). -/

/-- The power registers that an edge writes before the limits follow. -/
def powerNoted (old new : CabStruct) (s : State) : State :=
  fset pwrB fPWR_URGENT_BUDGET (urgentBudget new)
    (if capW old ≠ capW new ∧ !s.pwr.capSent then fset pwrB fPWR_CAP_RACK_W (capW new) s else s)

theorem cabView_powerNoted (old new : CabStruct) (s : State) : cabView (powerNoted old new s) = cabView s :=
  (cabView_fset (by decide) _ _).trans (ite_view (cabView_fset (by decide) _ s) rfl)

theorem cabView_powerEdge (old new : CabStruct) (s : State) : cabView (powerEdge old new s) = cabView s := by
  have hcap : ∀ u, cabView (noteCap u) = cabView u := fun u =>
    (cabView_fset (by decide) _ _).trans (cabView_fset (by decide) _ u)
  have hfollow : ∀ u, cabView (followCap u) = cabView u := fun u => (hcap _).trans rfl
  have hnoted := cabView_powerNoted old new s
  unfold powerEdge
  exact ite_view ((hfollow _).trans hnoted) ((hcap _).trans hnoted)

theorem cabView_dripAll (f : DripFrame) (s : State) : cabView (dripAll f s) = cabView s :=
  forAll_view cabView _ (fun q u => by unfold dripOn; split <;> rfl) _ s

theorem cabView_dropProp (seq : BitVec 16) (s : State) : cabView (dropProp seq s) = cabView s := by
  have hdrp : ∀ d, cabView { s with drp := d } = cabView s := fun _ => rfl
  have hlater : ∀ k u, cabView (laterVcore k u) = cabView u := fun _ _ => rfl
  unfold dropProp
  split
  · rfl
  · refine ite_view rfl ?_
    dsimp only
    rw [cabView_evt (by decide) (by decide)]
    refine ite_view ?_ ?_
    · rw [hlater, cabView_fset (by decide), hdrp]
    · rw [cabView_fset (by decide), hdrp]

theorem cabView_toCredited (id : Nat) (s : State) : cabView (toCredited id s) = cabView s :=
  (cabView_colEvt (by decide) (by decide) _ _).trans rfl

theorem cabView_goPace (v : Nat) (s : State) : cabView (goPace v s) = cabView s := by
  have hset : cabView (setPace v s) = cabView s := by
    unfold setPace
    dsimp only
    rw [cabView_fset (by decide), cabView_fset (by decide)]
  exact ite_view ((forAll_view cabView _ cabView_toCredited _ _).trans hset) hset

theorem cabView_noteAdmit (s : State) : cabView (noteAdmit s) = cabView s := by
  have hadmit : ¬ InCab (pwrB + oPWR_STEP_ADMIT) := by decide
  exact forAll_view cabView _ (fun d u => cabView_fset hadmit _ u) _ s

theorem cabView_switchDie (r k d : Nat) (s : State) : cabView (switchDie r k d s) = cabView s := by
  have hadmit : ∀ c u, cabView (admitCore c u) = cabView u := fun _ _ => (cabView_noteAdmit _).trans rfl
  have hrelease : ∀ c u, cabView (release c u) = cabView u := fun _ _ => (cabView_noteAdmit _).trans rfl
  have hstool : ∀ x (u : State), cabView { u with stool := x } = cabView u := fun _ _ => rfl
  have hhold : ∀ c u, cabView (holdCore c u) = cabView u := fun c u =>
    ite_view ((hstool _ _).trans (hrelease c u)) (hrelease c u)
  refine ite_view (forAll_view cabView _ hhold _ s) (forAll_view cabView _ (fun _ u => ?_) _ s)
  split
  · exact hadmit _ u
  · split
    · exact hadmit _ u
    · rfl

theorem cabView_eclkInPace (k : Nat) (s : State) : cabView (eclkInPace k s) = cabView s := by
  have hrung : cabView (fset drpB fDRP_RUNG_CUR k s) = cabView s := cabView_fset (by decide) k s
  have hvcore : ∀ r u, cabView (switchVcore r k u) = cabView u := fun _ _ => ite_view rfl (ite_view rfl rfl)
  have hstool : ∀ r u, cabView (stoolSwitch r k u) = cabView u := fun r u =>
    ite_view rfl (forAll_view cabView _ (cabView_switchDie r k) _ u)
  have halign : ∀ u, cabView (eclkAlign u) = cabView u := fun _ => rfl
  rw [eclkInPace, halign, eclkSwitch, hstool, hvcore, hrung]

theorem cabView_joinDomain (s : State) : cabView (joinDomain s) = cabView s := by
  have hnote : cabView (noteDomain s) = cabView s := by
    unfold noteDomain
    dsimp only
    rw [cabView_fset (by decide), cabView_fset (by decide), cabView_fset (by decide), cabView_fset (by decide)]
  have hpair : ∀ u, cabView (notePair u) = cabView u := fun _ => rfl
  unfold joinDomain rejoin
  lift_lets
  intro u v
  have hu : cabView u = cabView s := (cabView_goPace 0 _).trans hnote
  have hv : cabView v = cabView s := (cabView_goPace _ _).trans ((hpair _).trans hu)
  clear_value u v
  exact ite_view (ite_view hv ((cabView_eclkInPace _ v).trans hv)) ((cabView_dripAll _ u).trans hu)

theorem cabView_domainEdge (old new : CabStruct) (s : State) : cabView (domainEdge old new s) = cabView s := by
  have hclear : ∀ u : State, cabView { u with drp := { u.drp with change := none, ceilings := [] } } = cabView u := fun _ => rfl
  unfold domainEdge
  refine ite_view (cabView_fset (by decide) _ s) ?_
  dsimp only
  rw [cabView_joinDomain, hclear]
  split
  · rfl
  · exact cabView_dropProp _ s

theorem cabView_countersEdge (old new : CabStruct) (s : State) : cabView (countersEdge old new s) = cabView s :=
  forAll_view cabView _ (fun i u => forAll_view cabView _ (fun b w =>
    (rfl : cabView (ctrSet b (i - b.evts) ⟨0, 0⟩ w) = cabView w)) _ u) _ s

theorem cabView_noteCeiling (s : State) : cabView (noteCeiling s) = cabView s := by
  have hsend : ∀ u, cabView (sendCeiling u) = cabView u := fun u => ite_view rfl ((cabView_dripAll _ _).trans rfl)
  exact ite_view rfl ((hsend _).trans (cabView_fset (by decide) _ s))

theorem cabView_noteLimits (s : State) : cabView (noteLimits s) = cabView s :=
  (cabView_fset (by decide) _ _).trans (cabView_fset (by decide) _ s)

/-! The Sump division, the descriptor cache and the sessions (R28, R236, R427). -/

theorem cabView_sumpRegs (p v : Nat) (s : State) : cabView (sumpRegs p v s) = cabView s := by
  have hdepth : ∀ cur peak n u, cabView (noteDepth (fabB p) cur peak n u) = cabView u := fun cur peak n u =>
    (cabView_fset_unit (fabB_ge p) _ _ _).trans (cabView_fset_unit (fabB_ge p) _ _ u)
  unfold sumpRegs
  dsimp only
  rw [cabView_fset_unit (fabB_ge 0), cabView_fset_unit (fabB_ge 0), hdepth, hdepth]

theorem cabView_updateXoff (p v : Nat) (s : State) : cabView (updateXoff p v s) = cabView s := by
  have hset : ∀ m u, cabView (setXoff p m u) = cabView u := fun _ _ => ite_view rfl rfl
  exact ite_view rfl ((cabView_of_edgeView (edgeView_countEvt _ _ _ _)).trans (hset _ s))

theorem cabView_sumpEdge (s : State) : cabView (sumpEdge s) = cabView s :=
  forAll_view cabView _ (fun p u => forAll_view cabView _ (fun v w =>
    (cabView_updateXoff p v _).trans (cabView_sumpRegs p v w)) _ u) _ s

theorem cabView_cacheEdge (old new : CabStruct) (s : State) : cabView (cacheEdge old new s) = cabView s :=
  ite_view (cabView_fset (by decide) 2 s) rfl

theorem cabView_sessionsEdge (old new : CabStruct) (s : State) : cabView (sessionsEdge old new s) = cabView s :=
  ite_view rfl (forAll_view cabView _ (fun e u => cabView_of_edgeView (edgeView_startShake e u)) _ s)

end Sys2Proof.Machine
end

section
/-! Settles O36: COMMIT and REVERT, the armed edge, and the end of the pause of CTRL (R28, R162 to R169). -/

namespace Sys2Proof.Machine

/-! The checks before an edge look at nothing that a command of the Cabinet has changed by then. -/

/-- The second state differs from the first in registers, the Cabinet and the nonvolatile state alone. -/
def CabOnly (s t : State) : Prop := t = { s with regs := t.regs, cab := t.cab, nv := t.nv }

theorem CabOnly.refl (s : State) : CabOnly s s := rfl

theorem CabOnly.trans {s t u : State} (h : CabOnly s t) (k : CabOnly t u) : CabOnly s u := by
  unfold CabOnly at *
  rw [k, h]

theorem CabOnly.of_regsOnly {s t : State} (h : RegsOnly s t) : CabOnly s t := by
  obtain ⟨r, rfl⟩ := h
  rfl

theorem cabOnly_cab (s : State) (c : Cab) : CabOnly s { s with cab := c } := rfl

theorem CabOnly.quietErr_eq {s t : State} (h : CabOnly s t) (hcur : t.cab.cur = s.cab.cur) (new : CabStruct) :
    quietErr new t = quietErr new s := by
  rw [h]
  unfold quietErr
  dsimp only
  rw [hcur]
  rfl

theorem CabOnly.side {s t : State} (h : CabOnly s t) (hcab : t.cab = s.cab) (hnv : t.nv = s.nv) : edgeSide t = edgeSide s := by
  rw [h, edgeSide, hcab, hnv]
  rfl

theorem inDrift_fset_cab {f : Fld} (h : f.off < 0x10000) (v : Nat) (s : State) : inDrift (fset cabB f v s) = inDrift s := by
  have hne : drpB + fDRP_STATUS_DRIFT.off ≠ cabB + f.off := by
    have : drpB + fDRP_STATUS_DRIFT.off < cabB := by decide
    omega
  unfold inDrift
  rw [fget_fset_ne hne]

/-! A structure is applied. -/

/-- The structure in force changes, before the registers show it. -/
def withCur (new : CabStruct) (prev : Option CabStruct) (s : State) : State := { s with cab := { s.cab with cur := new, prev := prev } }

theorem cabView_applyStruct (new : CabStruct) (prev : Option CabStruct) (s : State) : cabView (applyStruct new prev s) =
    cabView (noteCab (withCur new prev (forAll (tornParts s.cab.cur new) tearOld s))) := by
  unfold applyStruct
  dsimp only
  rw [forAll_view cabView _ cabView_tearNew, cabView_sessionsEdge, cabView_cacheEdge, cabView_noteCeiling, cabView_noteLimits,
    cabView_sumpEdge, cabView_countersEdge, cabView_domainEdge, cabView_powerEdge]
  rfl

/-- What a structure that is applied leaves of the Cabinet: it is in force, and no register changes but those that show it. -/
theorem applyStruct_spec (new : CabStruct) (prev : Option CabStruct) (s : State) : let t := applyStruct new prev s
    t.cab = { s.cab with cur := new, prev := prev } ∧ t.nv = s.nv ∧
    ∀ {f : Fld}, f.off < 0x10000 → cabB + f.off ∉ cabRegs → fget cabB f t = fget cabB f s := by
  intro t
  have ht : cabView t = _ := cabView_applyStruct new prev s
  have hold : cabView (forAll (tornParts s.cab.cur new) tearOld s) = cabView s := forAll_view cabView _ cabView_tearOld _ s
  generalize forAll (tornParts s.cab.cur new) tearOld s = u at ht hold
  obtain ⟨hucab, hunv, -⟩ := cabView_eq_iff.1 hold
  obtain ⟨htcab, htnv, -⟩ := cabView_eq_iff.1 ht
  obtain ⟨r, hr⟩ := regsOnly_noteCab (withCur new prev u)
  refine ⟨?_, ?_, fun hf hn => ?_⟩
  · rw [htcab, hr, ← hucab]
    rfl
  · rw [htnv, hr, ← hunv]
    rfl
  · rw [fget_of_cabView ht hf, (regsKept_noteCab _).fget hn, ← fget_of_cabView hold hf]
    rfl

/-! The edge of a COMMIT or REVERT (R167 to R169). -/

/-- The edge is no longer armed. -/
def edgeTaken (s : State) : State := fset cabB fCAB_TXN_REVERTING 0 { s with cab := { s.cab with edge := none } }

/-- The structure that an edge makes the previous one. -/
def edgePrev (isRevert : Bool) (s : State) : Option CabStruct :=
  if isRevert ∨ s.cab.cur.gen = 0 then none else some s.cab.cur

/-- An edge that commits takes the shadow structure away. -/
def shadowTaken (isRevert : Bool) (s : State) : State :=
  if isRevert then s else { s with cab := { s.cab with shadow := none, staged := none } }

/-- An edge that applies. -/
def edgeApplied (isRevert : Bool) (new : CabStruct) (s : State) : State :=
  evt cabB eCAB_EVENT_APPLIED (setTxn 0 (applyStruct new (edgePrev isRevert s) (shadowTaken isRevert s)))

/-- An edge that does not apply. -/
def edgeRefused (isRevert : Bool) (s : State) : State :=
  evt cabB eCAB_EVENT_NOT_APPLIED (setTxn (if isRevert then 0 else 1) s)

theorem edgeTaken_cab (s : State) : (edgeTaken s).cab = { s.cab with edge := none } := fset_cab _ _ _ _

theorem regsOnly_edgeTaken (s : State) : RegsOnly { s with cab := { s.cab with edge := none } } (edgeTaken s) :=
  regsOnly_fset _ _ _ _

theorem cabOnly_edgeTaken (s : State) : CabOnly s (edgeTaken s) :=
  (cabOnly_cab s _).trans (.of_regsOnly (regsOnly_edgeTaken s))

theorem edgeSide_edgeTaken (s : State) : edgeSide (edgeTaken s) = edgeSide { s with cab := { s.cab with edge := none } } :=
  edgeSide_of_regsOnly (regsOnly_edgeTaken s)

theorem inDrift_edgeTaken (s : State) : inDrift (edgeTaken s) = inDrift s :=
  (inDrift_fset_cab (by decide) 0 _).trans rfl

theorem quietErr_edgeTaken (new : CabStruct) (s : State) : quietErr new (edgeTaken s) = quietErr new s :=
  (cabOnly_edgeTaken s).quietErr_eq (by rw [edgeTaken_cab]) new

theorem edgeStruct_edgeTaken (isRevert : Bool) (s : State) : edgeStruct isRevert (edgeTaken s) = edgeStruct isRevert s := by
  unfold edgeStruct
  rw [edgeTaken_cab]

theorem edgeApply_eq {isRevert timed : Bool} {new : CabStruct} {s : State} (h : edgeStruct isRevert s = some new) :
    edgeApply isRevert timed s = match firstErr [quietErr new s, errIf (timed && inDrift s) stLATE 0 0] with
      | some e => (some e, edgeRefused isRevert (edgeTaken s))
      | none => (none, edgeApplied isRevert new (edgeTaken s)) := by
  have hnew : edgeStruct isRevert (edgeTaken s) = some new := (edgeStruct_edgeTaken isRevert s).trans h
  have heq : edgeApply isRevert timed s = match edgeStruct isRevert (edgeTaken s) with
      | none => (none, setTxn 0 (edgeTaken s))
      | some x => match firstErr [quietErr x (edgeTaken s), errIf (timed && inDrift (edgeTaken s)) stLATE 0 0] with
        | some e => (some e, edgeRefused isRevert (edgeTaken s))
        | none => (none, edgeApplied isRevert x (edgeTaken s)) := rfl
  rw [heq, hnew]
  dsimp only
  rw [quietErr_edgeTaken, inDrift_edgeTaken]

/-- An edge that applies: the structure is in force, APPLIED is set, and no transaction is open. -/
theorem edgeApplied_spec (isRevert : Bool) (new : CabStruct) (s : State) : let t := edgeApplied isRevert new s
    t.cab = { (shadowTaken isRevert s).cab with cur := new, prev := edgePrev isRevert s } ∧ t.nv = s.nv ∧ txnState t = 0 ∧
    fget cabB fCAB_EVENT_APPLIED t = 1 ∧ fget cabB fCAB_RESULT_SEQ t = fget cabB fCAB_RESULT_SEQ s := by
  intro t
  have hnv : (shadowTaken isRevert s).nv = s.nv := by cases isRevert <;> rfl
  have hseq : fget cabB fCAB_RESULT_SEQ (shadowTaken isRevert s) = fget cabB fCAB_RESULT_SEQ s := by cases isRevert <;> rfl
  obtain ⟨hcab, hnv', hregs⟩ := applyStruct_spec new (edgePrev isRevert s) (shadowTaken isRevert s)
  have hside : edgeSide t = edgeSide (applyStruct new (edgePrev isRevert s) (shadowTaken isRevert s)) :=
    (edgeSide_evt _ _ _).trans (edgeSide_of_regsOnly (regsOnly_fset _ _ _ _))
  refine ⟨?_, ?_, ?_, fget_evt_bit cabB (by decide) (by decide) (by decide) _, ?_⟩
  · exact (cab_of_edgeSide hside).trans hcab
  · exact (nv_of_edgeSide hside).trans (hnv'.trans hnv)
  · exact (fget_cabEvt (by decide) (by decide) (by decide) _).trans (txnState_setTxn 0 _)
  · exact ((fget_cabEvt (by decide) (by decide) (by decide) _).trans (fget_fset_ne (by decide) 0 _)).trans
      ((hregs (by decide) (by decide)).trans hseq)

/-- An edge that does not apply: NOT_APPLIED is set, the structures stay. -/
theorem edgeRefused_spec (isRevert : Bool) (s : State) : edgeSide (edgeRefused isRevert s) = edgeSide s ∧
    fget cabB fCAB_EVENT_NOT_APPLIED (edgeRefused isRevert s) = 1 :=
  ⟨(edgeSide_evt _ _ _).trans (edgeSide_of_regsOnly (regsOnly_fset _ _ _ _)),
    fget_evt_bit cabB (by decide) (by decide) (by decide) _⟩

theorem edgePrev_edgeTaken (isRevert : Bool) (s : State) : edgePrev isRevert (edgeTaken s) = edgePrev isRevert s := by
  unfold edgePrev
  rw [edgeTaken_cab]

theorem shadowTaken_cab (isRevert : Bool) (s : State) : (shadowTaken isRevert s).cab =
    { s.cab with shadow := if isRevert then s.cab.shadow else none, staged := if isRevert then s.cab.staged else none } := by
  cases isRevert <;> rfl

/-- The structures after an edge that has applied. -/
def Cab.moved (isRevert : Bool) (new : CabStruct) (c : Cab) : Cab :=
  { c with
    cur := new, edge := none
    prev := if isRevert ∨ c.cur.gen = 0 then none else some c.cur
    shadow := if isRevert then c.shadow else none
    staged := if isRevert then c.staged else none }

theorem edgeApplied_cab (isRevert : Bool) (new : CabStruct) (s : State) :
    (edgeApplied isRevert new (edgeTaken s)).cab = s.cab.moved isRevert new := by
  obtain ⟨hcab, -⟩ := edgeApplied_spec isRevert new (edgeTaken s)
  rw [hcab, shadowTaken_cab, edgePrev_edgeTaken, edgeTaken_cab]
  rfl

/-! Validation (R165). -/

theorem firstErr_eq_none {l : List (Option CabErr)} (h : firstErr l = none) {x : Option CabErr} (hx : x ∈ l) : x = none :=
  List.findSome?_eq_none_iff.1 h x hx

theorem quietErr_of_validate {new : CabStruct} {timed : Bool} {t : BitVec 48} {s : State} (h : validate new timed t s = none) :
    quietErr new s = none := firstErr_eq_none h (by simp)

/-! A command that has passed validation. -/

/-- An edge is armed. -/
def edgeArmed (isRevert : Bool) (s : State) : State :=
  let u := { s with cab := { s.cab with edge := some ⟨isRevert, cabT s, true⟩ } }
  fset cabB fCAB_ARMED_P_LO_P_LO ((cabT u).toNat % 2 ^ 32) (fset cabB fCAB_ARMED_P_HI_P_HI ((cabT u).toNat / 2 ^ 32)
    (fset cabB fCAB_TXN_REVERTING isRevert.toNat (setTxn 2 u)))

theorem cabGo_timed (isRevert : Bool) (s : State) : cabGo isRevert true s = cabEnd (edgeCmd isRevert) none (edgeArmed isRevert s) :=
  rfl

theorem edgeArmed_spec (isRevert : Bool) (s : State) : txnState (edgeArmed isRevert s) = 2 ∧
    fget cabB fCAB_RESULT_SEQ (edgeArmed isRevert s) = fget cabB fCAB_RESULT_SEQ s ∧
    edgeSide (edgeArmed isRevert s) = edgeSide { s with cab := { s.cab with edge := some ⟨isRevert, cabT s, true⟩ } } := by
  unfold edgeArmed
  refine ⟨?_, ?_, ?_⟩
  · rw [txnState_fset (by decide), txnState_fset (by decide), txnState_fset_reverting, txnState_setTxn]
  · rw [fget_fset_ne (by decide), fget_fset_ne (by decide), fget_fset_ne (by decide), setTxn, fget_fset_ne (by decide)]
    rfl
  · exact edgeSide_of_regsOnly ((((regsOnly_fset _ _ _ _).trans (regsOnly_fset _ _ _ _)).trans (regsOnly_fset _ _ _ _)).trans
      (regsOnly_fset _ _ _ _))

theorem edgeCmd_lt (isRevert : Bool) : edgeCmd isRevert < 16 := by cases isRevert <;> decide

theorem cabGo_now {isRevert : Bool} {new : CabStruct} {s : State} (h : edgeStruct isRevert s = some new)
    (hq : quietErr new s = none) :
    cabGo isRevert false s = cabEnd (edgeCmd isRevert) none (edgeApplied isRevert new (edgeTaken s)) := by
  have hgo : cabGo isRevert false s =
      cabEnd (edgeCmd isRevert) (edgeApply isRevert false s).1 (edgeApply isRevert false s).2 := rfl
  rw [hgo, edgeApply_eq h, hq]
  rfl

/-- The transaction is armed at the time of CAB_ARG_P (R163). -/
structure CabArmed (isRevert : Bool) (s w t : State) : Prop where
  shows : CabShows (edgeCmd isRevert) stOK s t
  cab   : t.cab = { w.cab with edge := some ⟨isRevert, cabT w, true⟩ }
  txn   : txnState t = 2
  nv    : t.nv = w.nv

/-- A structure is applied at once (R162). -/
structure CabMoved (isRevert : Bool) (new : CabStruct) (s w t : State) : Prop where
  shows : CabShows (edgeCmd isRevert) stOK s t
  cab   : t.cab = w.cab.moved isRevert new
  txn   : txnState t = 0
  nv    : t.nv = w.nv

theorem cabGo_arms (isRevert : Bool) {s w : State} (hseq : fget cabB fCAB_RESULT_SEQ w = fget cabB fCAB_RESULT_SEQ s) :
    CabArmed isRevert s w (sumpStep (cabGo isRevert true w)) := by
  obtain ⟨htxn, hseq', hside⟩ := edgeArmed_spec isRevert w
  have hend := (cabEnd_ended (edgeCmd_lt isRevert) none (hseq'.trans hseq)).sump
  have hall := hend.side.trans hside
  rw [cabGo_timed]
  exact ⟨hend.shows, cab_of_edgeSide hall, hend.txn.trans htxn, (nv_of_edgeSide hall :)⟩

theorem cabSeq_edgeTaken (s : State) : fget cabB fCAB_RESULT_SEQ (edgeTaken s) = fget cabB fCAB_RESULT_SEQ s :=
  (fget_fset_ne (by decide) 0 _).trans rfl

theorem cabGo_moves {isRevert : Bool} {new : CabStruct} {s w : State} (h : edgeStruct isRevert w = some new)
    (hq : quietErr new w = none) (hseq : fget cabB fCAB_RESULT_SEQ w = fget cabB fCAB_RESULT_SEQ s) :
    CabMoved isRevert new s w (sumpStep (cabGo isRevert false w)) := by
  obtain ⟨-, hnv, htxn, -, hseq'⟩ := edgeApplied_spec isRevert new (edgeTaken w)
  have hend := (cabEnd_ended (edgeCmd_lt isRevert) none (hseq'.trans ((cabSeq_edgeTaken w).trans hseq))).sump
  rw [cabGo_now h hq]
  exact ⟨hend.shows, (cab_of_edgeSide hend.side).trans (edgeApplied_cab isRevert new w), hend.txn.trans htxn,
    (nv_of_edgeSide hend.side).trans (hnv.trans (fset_nv _ _ _ _))⟩

/-! COMMIT and REVERT (R165). -/

/-- The high-water mark rises to the generation of a commit (R161). -/
def hwmRaised (new : CabStruct) (s : State) : State := noteCab { s with nv := { s.nv with hwm := new.gen } }

theorem hwmRaised_spec (new : CabStruct) (s : State) : CabOnly s (hwmRaised new s) ∧ (hwmRaised new s).cab = s.cab ∧
    (hwmRaised new s).nv = { s.nv with hwm := new.gen } ∧ cabT (hwmRaised new s) = cabT s ∧
    fget cabB fCAB_RESULT_SEQ (hwmRaised new s) = fget cabB fCAB_RESULT_SEQ s := by
  obtain ⟨r, hr⟩ := regsOnly_noteCab { s with nv := { s.nv with hwm := new.gen } }
  have hfld : ∀ {f : Fld}, cabB + f.off ∉ cabRegs → fget cabB f (hwmRaised new s) = fget cabB f s := fun h =>
    ((regsKept_noteCab _).fget h).trans rfl
  refine ⟨?_, ?_, ?_, ?_, hfld (by decide)⟩
  · rw [hwmRaised, hr]
    rfl
  · rw [hwmRaised, hr]
  · rw [hwmRaised, hr]
  · rw [cabT, cabT, hfld (by decide), hfld (by decide)]

section
variable {timed : Bool} {new : CabStruct} {s : State}

theorem cabCommit_eq (hsh : s.cab.shadow = some new) (hst : s.cab.staged.isSome = true) (htxn : txnState s = 1) :
    cabCommit timed s = match validate new timed (cabT s) s with
      | some e => cabEnd 3 (some e) s
      | none => cabGo false timed (hwmRaised new s) := by
  have hopen : ¬ (txnState s ≠ 1 ∨ s.cab.staged.isNone = true) := by
    rintro (h | h)
    · exact h htxn
    · rw [Option.isNone_iff_eq_none.1 h] at hst
      exact absurd hst (by decide)
  unfold cabCommit
  rw [hsh]
  exact if_neg hopen

theorem cabRevert_eq (hp : s.cab.prev = some new) (htxn : txnState s = 0) :
    cabRevert timed s = match validate new timed (cabT s) s with
      | some e => cabEnd 5 (some e) s
      | none => cabGo true timed s := by
  unfold cabRevert
  rw [hp]
  exact if_neg (not_not_intro htxn)

end

/-- A command that validation refuses: its status is shown, and the Cabinet stays. -/
theorem cabRefused {cmd : Nat} (hcmd : cmd < 16) (e : CabErr) {s u : State} (hside : edgeSide u = edgeSide s)
    (hseq : fget cabB fCAB_RESULT_SEQ u = fget cabB fCAB_RESULT_SEQ s) : let t := sumpStep (cabEnd cmd (some e) u)
    CabShows cmd e.1 s t ∧ t.cab = s.cab ∧ t.nv = s.nv := by
  have hend := (cabEnd_ended hcmd (some e) hseq).sump
  have hall := hend.side.trans hside
  exact ⟨hend.shows, cab_of_edgeSide hall, nv_of_edgeSide hall⟩

/-- What the statement says of COMMIT. -/
theorem commit_spec {r : Requester} {s : State} (h : CabTaken r s) (timed : Bool) {new : CabStruct}
    (hsh : s.cab.shadow = some new) (hst : s.cab.staged.isSome = true) (htxn : txnState (cabWritten 3 timed s) = 1) :
    let u := cabWritten 3 timed s
    (∀ e, validate new timed (cabT u) u = some e → Goes (.commit r timed) s fun t =>
      CabShows 3 e.1 s t ∧ t.cab = s.cab ∧ t.nv = s.nv) ∧
    (validate new timed (cabT u) u = none → Goes (.commit r timed) s fun t =>
      (timed = false → CabMoved false new s (hwmRaised new u) t) ∧
      (timed = true → CabArmed false s (hwmRaised new u) t)) := by
  have hexec := h.exec_commit timed
  have hseq := cabSeq_cabWritten 3 timed s
  have hside := edgeSide_cabWritten 3 timed s
  generalize cabWritten 3 timed s = u at *
  have hucab := cab_of_edgeSide hside
  rw [← hucab] at hsh hst
  have hcommit := cabCommit_eq (timed := timed) hsh hst htxn
  obtain ⟨honly, hcab, -, -, hseq'⟩ := hwmRaised_spec new u
  refine ⟨fun e he => ⟨_, hexec, ?_⟩, fun hv => ⟨_, hexec, fun ht => ?_, fun ht => ?_⟩⟩
  · rw [hcommit, he]
    exact cabRefused (by decide) e hside hseq
  · subst ht
    have hq := (honly.quietErr_eq (by rw [hcab]) new).trans (quietErr_of_validate hv)
    rw [hcommit, hv]
    exact cabGo_moves ((congrArg Cab.shadow hcab).trans hsh) hq (hseq'.trans hseq)
  · subst ht
    rw [hcommit, hv]
    exact cabGo_arms false (hseq'.trans hseq)

/-- What the statement says of REVERT. -/
theorem revert_spec {r : Requester} {s : State} (h : CabTaken r s) (timed : Bool) {new : CabStruct}
    (hp : s.cab.prev = some new) (htxn : txnState (cabWritten 5 timed s) = 0) : let u := cabWritten 5 timed s
    (∀ e, validate new timed (cabT u) u = some e → Goes (.revert r timed) s fun t =>
      CabShows 5 e.1 s t ∧ t.cab = s.cab ∧ t.nv = s.nv) ∧
    (validate new timed (cabT u) u = none → Goes (.revert r timed) s fun t =>
      (timed = false → CabMoved true new s u t) ∧ (timed = true → CabArmed true s u t)) := by
  have hexec := h.exec_revert timed
  have hseq := cabSeq_cabWritten 5 timed s
  have hside := edgeSide_cabWritten 5 timed s
  generalize cabWritten 5 timed s = u at *
  rw [← cab_of_edgeSide hside] at hp
  have hrevert := cabRevert_eq (timed := timed) hp htxn
  refine ⟨fun e he => ⟨_, hexec, ?_⟩, fun hv => ⟨_, hexec, fun ht => ?_, fun ht => ?_⟩⟩
  · rw [hrevert, he]
    exact cabRefused (by decide) e hside hseq
  · subst ht
    rw [hrevert, hv]
    exact cabGo_moves hp (quietErr_of_validate hv) hseq
  · subst ht
    rw [hrevert, hv]
    exact cabGo_arms true hseq

/-! CABINET_EDGE (R169). -/

theorem rungFirst_early {t : BitVec 48} {s : State} (h : ∀ a, s.drp.prop = some a → reaches48 t a.t = false) :
    rungFirst t s = s := by
  unfold rungFirst
  split
  · rfl
  next a ha => rw [h a ha]; rfl

section
variable {x : CabEdge} {s : State} (hx : s.cab.edge = some x)
include hx

theorem timedEdge_early (h : reaches48 s.clk.p x.t = false ∨ isSafe s = true) : timedEdge s = s := by
  unfold timedEdge
  rw [hx]
  refine if_neg fun hdue => ?_
  rcases h with h | h <;> simp [h] at hdue

theorem timedEdge_due {new : CabStruct} (hnew : edgeStruct x.revert s = some new) (hdue : reaches48 s.clk.p x.t = true)
    (hsafe : isSafe s = false) (hrung : ∀ a, s.drp.prop = some a → reaches48 x.t a.t = false) :
    timedEdge s = match firstErr [quietErr new s, errIf (inDrift s) stLATE 0 0] with
      | some e => cabResult (edgeCmd x.revert) (some e) (edgeRefused x.revert (edgeTaken s))
      | none => cabResult (edgeCmd x.revert) none (edgeApplied x.revert new (edgeTaken s)) := by
  have heq : timedEdge s =
      cabResult (edgeCmd x.revert) (edgeApply x.revert true (rungFirst x.t s)).1 (edgeApply x.revert true (rungFirst x.t s)).2 := by
    unfold timedEdge
    rw [hx]
    exact if_pos ⟨hdue, by simp [hsafe]⟩
  rw [heq, rungFirst_early hrung, edgeApply_eq hnew, Bool.true_and]
  split <;> rfl

end

theorem fget_cabResult {f : Fld} (hr : f.off ≠ oCAB_RESULT) (he : f.off ≠ oCAB_ERR) (cmd : Nat) (e : Option CabErr) (s : State) :
    fget cabB f (cabResult cmd e s) = fget cabB f s :=
  (regsKept_cabResult cmd e s).fget (by simp only [List.mem_cons, List.not_mem_nil, or_false]; omega)

/-- The second report of R163, and the entries of R309 after it. -/
def edgeReport (isRevert : Bool) (e : Option CabErr) (s : State) : State := sumpStep (cabResult (edgeCmd isRevert) e s)

theorem edgeReport_spec (isRevert : Bool) (e : Option CabErr) (s : State) :
    edgeSide (edgeReport isRevert e s) = edgeSide s ∧ txnState (edgeReport isRevert e s) = txnState s ∧
    fget cabB fCAB_EVENT_APPLIED (edgeReport isRevert e s) = fget cabB fCAB_EVENT_APPLIED s ∧
    fget cabB fCAB_EVENT_NOT_APPLIED (edgeReport isRevert e s) = fget cabB fCAB_EVENT_NOT_APPLIED s ∧
    fget cabB fCAB_RESULT_STATUS (edgeReport isRevert e s) = (e.getD (stOK, 0, 0)).1.toNat ∧
    fget cabB fCAB_RESULT_CMD (edgeReport isRevert e s) = edgeCmd isRevert := by
  have hview : edgeView (edgeReport isRevert e s) = edgeView (cabResult (edgeCmd isRevert) e s) := edgeView_sumpStep _
  have hcab := cabView_of_edgeView hview
  refine ⟨?_, ?_, ?_, ?_, ?_, ?_⟩
  · exact (edgeSide_of_edgeView hview).trans (edgeSide_of_regsOnly (regsOnly_cabResult _ e s))
  · rw [txnState_of_cabView hcab, txnState_cabResult]
  · rw [fget_of_cabView hcab (by decide), fget_cabResult (by decide) (by decide)]
  · rw [fget_of_cabView hcab (by decide), fget_cabResult (by decide) (by decide)]
  · rw [fget_of_cabView hcab (by decide), cabResult_status]
  · rw [fget_of_cabView hcab (by decide), cabResult_cmd (edgeCmd_lt isRevert)]

/-- The edge has applied: CAB_RESULT and APPLIED show it (R169). -/
theorem edge_applies (isRevert : Bool) (new : CabStruct) (s : State) :
    let t := edgeReport isRevert none (edgeApplied isRevert new (edgeTaken s))
    t.cab = s.cab.moved isRevert new ∧ txnState t = 0 ∧ fget cabB fCAB_EVENT_APPLIED t = 1 ∧
    fget cabB fCAB_RESULT_STATUS t = 0 ∧ fget cabB fCAB_RESULT_CMD t = edgeCmd isRevert := by
  obtain ⟨-, -, htxn, hevt, -⟩ := edgeApplied_spec isRevert new (edgeTaken s)
  obtain ⟨hside, htxn', hevt', -, hst, hcmd⟩ := edgeReport_spec isRevert none (edgeApplied isRevert new (edgeTaken s))
  exact ⟨(cab_of_edgeSide hside).trans (edgeApplied_cab isRevert new s), htxn'.trans htxn, hevt'.trans hevt, hst, hcmd⟩

/-- The edge has not applied: nothing but its end and its report changes (R169). -/
theorem edge_refused (isRevert : Bool) (e : CabErr) (s : State) :
    let t := edgeReport isRevert (some e) (edgeRefused isRevert (edgeTaken s))
    t.cab = { s.cab with edge := none } ∧ t.nv = s.nv ∧ t.mem = s.mem ∧ t.cores = s.cores ∧
    fget cabB fCAB_EVENT_NOT_APPLIED t = 1 ∧ fget cabB fCAB_RESULT_STATUS t = e.1.toNat := by
  obtain ⟨hrefused, hevt⟩ := edgeRefused_spec isRevert (edgeTaken s)
  obtain ⟨hside, -, -, hevt', hst, -⟩ := edgeReport_spec isRevert (some e) (edgeRefused isRevert (edgeTaken s))
  have hall := (hside.trans hrefused).trans (edgeSide_edgeTaken s)
  exact ⟨(cab_of_edgeSide hall :), (nv_of_edgeSide hall :), (mem_of_edgeSide hall :), (cores_of_edgeSide hall :),
    hevt'.trans hevt, hst⟩

theorem exec_cabinetEdge_due {x : CabEdge} {s : State} (hx : s.cab.edge = some x) {new : CabStruct}
    (hnew : edgeStruct x.revert s = some new) (hdue : reaches48 s.clk.p x.t = true) (hsafe : isSafe s = false)
    (hrung : ∀ a, s.drp.prop = some a → reaches48 x.t a.t = false) :
    exec .cabinetEdge s = .next (match firstErr [quietErr new s, errIf (inDrift s) stLATE 0 0] with
      | some e => edgeReport x.revert (some e) (edgeRefused x.revert (edgeTaken s))
      | none => edgeReport x.revert none (edgeApplied x.revert new (edgeTaken s))) := by
  have hexec : exec .cabinetEdge s = .next (sumpStep (timedEdge s)) := rfl
  rw [hexec, timedEdge_due hx hnew hdue hsafe hrung]
  split <;> rfl

/-! DESCRIPTOR_CACHE_EMPTY (R28). -/

/-- What a doorbell leaves alone: the state of CTRL, the held doorbells, memory, the cores and the Cabinet. -/
def bellView (s : State) : (Word × List HeldBell) × List Host.Cell × Tbl Core × Cab :=
  ((regGet (hubB + oHUB_PLANE_STATUS) s, s.bells), s.mem, s.cores, s.cab)

theorem bellView_fset {b : Nat} {f : Fld} (h : hubB + oHUB_PLANE_STATUS ≠ b + f.off) (v : Nat) (s : State) :
    bellView (fset b f v s) = bellView s := by
  unfold bellView
  rw [regGet_fset_ne h, fset_bells, fset_mem, fset_cores, fset_cab]

theorem quiet_bellSide : Quiet fun s => (s.bells, s.mem, s.cores, s.cab) := ⟨fun _ _ => rfl, fun _ _ => rfl, fun _ _ => rfl,
  fun _ _ => rfl, fun _ _ => rfl, fun _ _ => rfl, fun _ _ => rfl⟩

theorem bellView_of_side {s t : State} (hr : regGet (hubB + oHUB_PLANE_STATUS) t = regGet (hubB + oHUB_PLANE_STATUS) s)
    (h : (t.bells, t.mem, t.cores, t.cab) = (s.bells, s.mem, s.cores, s.cab)) : bellView t = bellView s := by
  simp only [Prod.mk.injEq] at h
  obtain ⟨hb, hm, hc, hcab⟩ := h
  simp only [bellView, hr, hb, hm, hc, hcab]

theorem bellView_readAll (a n : Nat) (s : State) : bellView (readAll a n s).1 = bellView s :=
  bellView_of_side (regGet_readAll (eccApart_of_low (by decide) (by decide)) (not_mem_granRegs_of_low (by decide)) a n s)
    (quiet_bellSide.readAll a n s)

theorem bellView_stallQueue (qid : Nat) (s : State) : bellView (stallQueue qid s) = bellView s := by
  have hflush : ∀ st rank, bellView (flushCmds qid st rank s) = bellView s := fun st rank =>
    flushCmds_view bellView_readAll (fun _ _ => rfl) (fun _ _ => rfl) (fun _ _ => rfl) st rank s
  have hmod : ∀ f u, bellView (modQueue qid f u) = bellView u := fun _ _ => rfl
  have hevt : ∀ u, bellView (evt qmB eQM_STALL_STALL u) = bellView u := fun u =>
    bellView_of_side (regGet_evt_ne (by decide) (by decide) u) (quiet_bellSide.evt _ _ u)
  unfold stallQueue stallQueueBy
  dsimp only
  rw [bellView_fset (by decide), hevt, hmod, hflush]

theorem bellView_ringBell (w : Nat) (word : Word) (s : State) : bellView (ringBell w word s) = bellView s := by
  have hdrop : ∀ f v, hubB + oHUB_PLANE_STATUS ≠ qmB + f.off → bellView (faddSat qmB f v s) = bellView s := fun f v h =>
    bellView_fset h _ s
  unfold ringBell
  exact ite_view (hdrop _ _ (by decide)) (ite_view (hdrop _ _ (by decide)) (ite_view (ite_view (hdrop _ _ (by decide)) rfl)
    (ite_view rfl (ite_view (bellView_stallQueue _ s) rfl))))

/-- The doorbells that CTRL held take effect, and CTRL is back in RUN. -/
theorem cacheEmpty_spec {s : State} (h : ctrlPlane s = 2) : let t := cacheEmpty s
    ctrlPlane t = 1 ∧ t.bells = [] ∧ t.mem = s.mem ∧ t.cores = s.cores ∧ t.cab = s.cab := by
  intro t
  let u := fset hubB fHUB_PLANE_STATUS_CTRL 1 { s with bells := [] }
  have hcount : ∀ v, bellView (countEvt ctrQm 0x60 1 v) = bellView v := fun v =>
    bellView_of_side (regsKept_countEvt [] _ _ _ v _ (List.not_mem_nil)) (quiet_bellSide.countEvt _ _ _ v)
  have ht : bellView t = bellView u := by
    have heq : t = forAll s.bells (fun b v => ringBell b.window.val b.word (countEvt ctrQm 0x60 1 v)) u :=
      if_neg (not_not_intro h)
    rw [heq]
    exact forAll_view bellView _ (fun b v => (bellView_ringBell _ _ _).trans (hcount v)) _ u
  simp only [bellView, Prod.mk.injEq] at ht
  obtain ⟨⟨hreg, hbells⟩, hmem, hcores, hcab⟩ := ht
  have hrun : ctrlPlane u = 1 := fget_fset_same hubB (by decide) 1 _
  refine ⟨?_, hbells.trans (fset_bells _ _ _ _), hmem.trans (fset_mem _ _ _ _), hcores.trans (fset_cores _ _ _ _),
    hcab.trans (fset_cab _ _ _ _)⟩
  rw [← hrun]
  unfold ctrlPlane fget
  rw [hreg]

/-- Settles O36: a COMMIT or REVERT that passes validation is armed or applied by the one edge of R167, which CABINET_EDGE handles
too; a structure that is applied comes in force with its effects, none of which touches the Cabinet again. -/
theorem cabinetCommitAndEdge : Obligations.CabinetCommitAndEdge := by
  unfold Obligations.CabinetCommitAndEdge
  refine ⟨fun r timed new s hpf hmay hfree hruns hlive => ?_, ⟨fun x s hx => ⟨fun h => ?_, fun new hnew hdue hsafe hrung => ?_⟩,
    fun s h => ⟨_, rfl, cacheEmpty_spec h⟩⟩⟩
  · have h : CabTaken r s := ⟨hpf, hmay, hfree, hruns, hlive⟩
    refine ⟨fun hsh hst htxn => ?_, fun hp htxn => ?_⟩
    · obtain ⟨hfails, hpasses⟩ := commit_spec h timed hsh hst htxn
      have hucab := cab_of_edgeSide (edgeSide_cabWritten 3 timed s)
      have hunv := nv_cabWritten 3 timed s
      obtain ⟨-, hcab, hnv, hT, -⟩ := hwmRaised_spec new (cabWritten 3 timed s)
      refine ⟨hfails, fun hv ht => ?_, fun hv ht => ?_⟩
      · obtain ⟨t, hexec, hmoves, -⟩ := hpasses hv
        have hm := hmoves ht
        have hc := hm.cab
        rw [hcab, hucab] at hc
        refine ⟨t, hexec, congrArg Cab.cur hc, (congrArg Cab.prev hc).trans ?_, congrArg Cab.shadow hc, congrArg Cab.staged hc, hm.txn,
          ?_, hm.shows⟩
        · simp [Cab.moved]
        · rw [hm.nv, hnv]
      · obtain ⟨t, hexec, -, harms⟩ := hpasses hv
        have ha := harms ht
        refine ⟨t, hexec, ?_, ha.txn, ?_, ha.shows⟩
        · rw [ha.cab, hcab, hucab, hT]
        · rw [ha.nv, hnv, hunv]
    · obtain ⟨hfails, hpasses⟩ := revert_spec h timed hp htxn
      have hucab := cab_of_edgeSide (edgeSide_cabWritten 5 timed s)
      have hunv := nv_cabWritten 5 timed s
      refine ⟨hfails, fun hv ht => ?_, fun hv ht => ?_⟩
      · obtain ⟨t, hexec, hmoves, -⟩ := hpasses hv
        have hm := hmoves ht
        have hc := hm.cab
        rw [hucab] at hc
        exact ⟨t, hexec, congrArg Cab.cur hc, congrArg Cab.prev hc, by rw [hc]; rfl, hm.txn, by rw [hm.nv, hunv], hm.shows⟩
      · obtain ⟨t, hexec, -, harms⟩ := hpasses hv
        have ha := harms ht
        exact ⟨t, hexec, by rw [ha.cab, hucab], ha.txn, ha.nv.trans hunv, ha.shows⟩
  · have hstay : timedEdge s = s := timedEdge_early hx h
    have hexec : exec .cabinetEdge s = .next (sumpStep (timedEdge s)) := rfl
    rw [hstay] at hexec
    obtain ⟨hcab, hmem, hcores, hclk⟩ := edgeView_eq_iff.1 (edgeView_sumpStep s)
    obtain ⟨hc, hnv, hregs⟩ := cabView_eq_iff.1 hcab
    exact ⟨_, hexec, hc, hnv, hmem, hcores, hclk, hregs, sumpStep_of_idle⟩
  · have hexec := exec_cabinetEdge_due hx hnew hdue hsafe hrung
    refine ⟨fun hq hd => ?_, fun e hq => ?_, fun hq hd => ?_⟩
    · rw [hq, hd] at hexec
      obtain ⟨hcab, htxn, happ, hst, hcmd⟩ := edge_applies x.revert new s
      refine ⟨_, hexec, congrArg Cab.cur hcab, congrArg Cab.edge hcab, htxn, happ, hst, hcmd, fun hr => ⟨?_, ?_⟩, fun hr => ?_⟩
      · exact (congrArg Cab.prev hcab).trans (by simp [Cab.moved, hr])
      · exact (congrArg Cab.shadow hcab).trans (by simp [Cab.moved, hr])
      · exact (congrArg Cab.prev hcab).trans (by simp [Cab.moved, hr])
    · rw [hq] at hexec
      exact ⟨_, hexec, edge_refused x.revert e s⟩
    · rw [hq, hd] at hexec
      exact ⟨_, hexec, edge_refused x.revert (stLATE, 0, 0) s⟩

end Sys2Proof.Machine
end

section
/-! SUPPORT. What sending, the end of a request and a stall of a chamber leave alone (R239, R274, R283, R285): one lemma for each
operation, for every view of the state that does not look at what it changes. -/

namespace Sys2Proof.Machine

/-- A view that does not look at what sending changes: sequence numbers, hand-offs, sessions, outstanding instructions, and of ports
all but their control items. -/
structure SendBlind {β : Type} (φ : State → β) : Prop where
  cores    : ∀ (s : State) v, φ { s with cores := v } = φ s
  handoffs : ∀ (s : State) v, φ { s with handoffs := v } = φ s
  sessions : ∀ (s : State) v, φ { s with fab := { s.fab with sessions := v } } = φ s
  remote   : ∀ (s : State) v, φ { s with fab := { s.fab with remote := v } } = φ s
  ports    : ∀ p f (s : State), (∀ x : Port, (f x).items = x.items) → φ (modPort p f s) = φ s

/-- A view that does not look at what the end of a request or a stall changes outside the chamber. -/
structure StallBlind {β : Type} (φ : State → β) : Prop where
  quiet   : Quiet φ
  send    : SendBlind φ
  queues  : ∀ (s : State) v, φ { s with queues := v } = φ s
  waiters : ∀ (s : State) v, φ { s with waiters := v } = φ s

/-- A view that does not look at what the reduction of a step changes either. -/
structure StepBlind {β : Type} (φ : State → β) : Prop where
  stall : StallBlind φ
  mem   : ∀ (s : State) v, φ { s with mem := v } = φ s
  armed : ∀ (s : State) v, φ { s with armed := v } = φ s
  stool : ∀ (s : State) v, φ { s with stool := v } = φ s

section
variable {β : Type} {φ : State → β}

/-! Sending. -/

theorem SendBlind.queueCells (b : SendBlind φ) (p v : Nat) (l : List EgCell) (s : State) : φ (queueCells p v l s) = φ s := by
  have hput : ∀ f, (∀ x : Port, (f x).items = x.items) → φ (modPort p f s) = φ s := fun f hf => b.ports p f s hf
  have hfill : ∀ u, φ (fillEgress p v u) = φ u := fun u =>
    ite_view rfl ((b.handoffs _ _).trans (b.ports p _ u fun _ => rfl))
  exact ite_view rfl ((hfill _).trans (hput _ fun _ => rfl))

theorem SendBlind.sendPkt (b : SendBlind φ) (port vl : Nat) (kind : BitVec 4) (e : BitVec 19) (w : BitVec 64) (addr : Nat)
    (tag : InstrTag) (notify kspec : Nat) (data : List Byte) (s : State) :
    φ (sendPkt port vl kind e w addr tag notify kspec data s) = φ s := by
  unfold Machine.sendPkt
  split
  · rfl
  · exact (b.queueCells _ _ _ _).trans (b.sessions s _)

theorem SendBlind.chSend (b : SendBlind φ) (id i peer step : Nat) (cseq : BitVec 16) (l : List Byte) (s : State) :
    φ (chSend id i peer step cseq l s).2 = φ s := by
  unfold Machine.chSend
  dsimp only
  split
  · rfl
  · rw [apply_ite Prod.snd]
    refine ite_view rfl ((b.remote _ _).trans ?_)
    rw [foldl_view φ _ fun c u => b.sendPkt _ _ _ _ _ _ _ _ _ _ u]
    exact b.cores s _

theorem SendBlind.stallNotices (b : SendBlind φ) (id : Nat) (s : State) : φ (stallNotices id s) = φ s :=
  forAll_view φ _ (fun _ u => b.chSend id 0 _ _ _ [] u) _ s

/-! The end of a command, the stop of a queue, the end of a request. -/

theorem endCmd_view (hh : ∀ (s : State) v, φ { s with handoffs := v } = φ s) (hq : ∀ (s : State) v, φ { s with queues := v } = φ s)
    (qid : Nat) (idx : BitVec 32) (st : BitVec 8) (detail : Word) (s : State) : φ (endCmd qid idx st detail s) = φ s := by
  unfold endCmd setPhase
  dsimp only
  refine (hq _ _).trans ?_
  split
  · rfl
  · exact ite_view (leaveIntake_view hh _ _ s) rfl

theorem StallBlind.stallQueueBy (b : StallBlind φ) (qid rank : Nat) (s : State) : φ (stallQueueBy qid rank s) = φ s := by
  have hflush : φ (flushCmds qid stSTALLED rank s) = φ s :=
    flushCmds_view (fun a n u => b.quiet.readAll a n u) b.send.handoffs b.waiters (fun x u => b.queues u _) _ _ s
  unfold Machine.stallQueueBy
  rw [b.quiet.fset, b.quiet.evt]
  exact (b.queues _ _).trans hflush

theorem Quiet.colEvt (q : Quiet φ) (e : Evt) (p : Nat) (s : State) : φ (colEvt e p s) = φ s :=
  (q.raiseMsix _ _ _).trans (q.evt _ _ s)

section
variable (b : StallBlind φ) {id : Nat} (hid : ∀ f s, φ (modCh id f s) = φ s)
include b hid

theorem endReq_view (st : BitVec 8) (detail : Word) (s : State) : φ (endReq id st detail s) = φ s := by
  unfold endReq
  dsimp only
  split
  · rfl
  · exact (hid _ _).trans (endCmd_view b.send.handoffs b.queues _ _ _ _ s)

/-- A stall leaves alone what looks neither at its chamber nor at queues, fabric and records. -/
theorem chStall_view (st : BitVec 8) (detail : Word) (raiser : Nat) (notice : Bool) (s : State) :
    φ (chStall id st detail raiser notice s) = φ s := by
  have hend := endReq_view b hid st detail s
  have hnotice : φ (if notice = true then stallNotices id (endReq id st detail s) else endReq id st detail s) = φ s :=
    ite_view ((b.send.stallNotices id _).trans hend) hend
  unfold chStall
  dsimp only
  generalize (if notice = true then stallNotices id (endReq id st detail s) else endReq id st detail s) = u at hnotice
  have hnote : φ (fset colB fCOL_LAST_STALL_STATUS st.toNat (fset colB fCOL_LAST_STALL_ID id
      (fset colB fCOL_LAST_STALL_RANK raiser
        (colEvt eCOL_EVENT_STALL (getCh id s).part (modCh id (fun y => { y with st := 4 }) u))))) = φ s := by
    rw [b.quiet.fset, b.quiet.fset, b.quiet.fset, b.quiet.colEvt, hid, hnotice]
  exact ite_view ((b.stallQueueBy _ _ _).trans hnote) hnote

theorem chFail_view (st : BitVec 8) (s : State) : φ (chFail id st s) = φ s := chStall_view b hid st _ _ true s

theorem finishReq_view (r : ChReq) (s : State) : φ (finishReq id r s) = φ s := by
  unfold finishReq
  dsimp only
  rw [forAll_view φ _ fun p u => b.send.chSend id 0 p 0x7FF _ [] u, hid]
  exact ite_view (endReq_view b hid _ _ s) ((b.quiet.colEvt _ _ _).trans (endReq_view b hid _ _ s))

end

/-! The reduction of a step (R269 to R271). -/

theorem Quiet.homeRead (q : Quiet φ) (core off n : Nat) (s : State) : φ (homeRead core off n s).2 = φ s := q.readAll _ _ s

theorem Quiet.gotVals (q : Quiet φ) (id i : Nat) (r : ChReq) (pl : ChPlan) (rank n : Nat) (s : State) :
    φ (gotVals id i r pl rank n s).2 = φ s := (q.raiseFlags _ _ _).trans (q.homeRead _ _ _ s)

theorem Quiet.ringOn (q : Quiet φ) (id i : Nat) (r : ChReq) (pl : ChPlan) (s : State) : φ (ringOn id i r pl s).2 = φ s :=
  (q.raiseFlags _ _ _).trans ((q.homeRead _ _ _ _).trans (q.gotVals _ _ _ _ _ _ s))

/-- A state carried along a list, with what has been gathered, keeps what each element keeps. -/
theorem foldl_snd_view {α γ : Type} (f : γ × State → α → γ × State) (h : ∀ a x, φ (f a x).2 = φ a.2) (l : List α)
    (a : γ × State) : φ (l.foldl f a).2 = φ a.2 := by
  induction l generalizing a with
  | nil => rfl
  | cons x l ih => rw [List.foldl_cons, ih, h]

theorem Quiet.reduceOn (q : Quiet φ) (id i : Nat) (r : ChReq) (pl : ChPlan) (s : State) : φ (reduceOn id i r pl s).2 = φ s := by
  unfold Machine.reduceOn
  dsimp only
  rw [q.raiseFlags]
  refine (foldl_snd_view _ (fun a k => ?_) _ _).trans (q.raiseFlags _ _ s)
  split
  · rfl
  · exact q.gotVals _ _ _ _ _ _ _

section
variable (b : StepBlind φ) {id : Nat} (hid : ∀ f s, φ (modCh id f s) = φ s)
include b hid

theorem keepResult_view (i : Nat) (r : ChReq) (pl : ChPlan) (final : Bool) (v : List Val) (s : State) :
    φ (keepResult id i r pl final v s) = φ s := by
  unfold keepResult
  refine ite_view ?_ (hid _ s)
  exact (memStore_view b.stall.quiet b.mem b.armed _ _ _ _).trans (b.stall.quiet.raiseFlags _ _ s)

theorem finishReduce_view (r : ChReq) (pl : ChPlan) (final : Bool) (s : State) : φ (finishReduce id r pl final s) = φ s := by
  have htouch : ∀ c u, φ (touchCore c u) = φ u := fun c u => (b.stall.send.cores _ _).trans (b.stool u _)
  unfold finishReduce
  refine (forAll_view φ _ (fun i u => ?_) _ _).trans (hid _ s)
  dsimp only
  rw [keepResult_view b hid, apply_ite Prod.snd]
  exact ite_view ((b.stall.quiet.ringOn _ _ _ _ _).trans (htouch _ u)) ((b.stall.quiet.reduceOn _ _ _ _ _).trans (htouch _ u))

end

end

end Sys2Proof.Machine
end

section
/-! SUPPORT. A chamber packet by its checks (R241, R275): they come out as on the wire once its cells have left the Sump. -/

namespace Sys2Proof.Machine

section
variable {p : Nat} {k : Packet} {s u : State} (h : CellsOut p k s u)
include h

theorem CellsOut.col : u.col = s.col := by rw [h.rest]
theorem CellsOut.queues : u.queues = s.queues := by rw [h.rest]
theorem CellsOut.handoffs : u.handoffs = s.handoffs := by rw [h.rest]
theorem CellsOut.getCh (id : Nat) : getCh id u = getCh id s := by rw [Machine.getCh, Machine.getCh, h.col]

theorem CellsOut.cluOk (i : Nat) : cluOk i u = cluOk i s := by
  rw [Machine.cluOk, Machine.cluOk, h.fget (by decide)]

theorem CellsOut.scrubbing (i : Nat) : scrubbing i u = scrubbing i s := by
  rw [Machine.scrubbing, Machine.scrubbing, h.fget (by decide)]

theorem CellsOut.chPktStatus (c : Packet) : chPktStatus c u = chPktStatus c s := by
  have hbusy : u.busyParts = s.busyParts := by rw [h.rest]
  have hreset : u.computeReset = s.computeReset := by rw [h.rest]
  simp only [Machine.chPktStatus, h.cab, h.getCh, Machine.sliceHolds, h.rowOfPart, h.partStopped, h.cluOk, h.scrubbing, hbusy, hreset,
    h.boundOk]

end

/-! The plan of a step and the place of a chunk look at the Cabinet and at the chamber alone. -/

section
variable {id : Nat} {s u : State} (hcab : u.cab = s.cab) (hch : getCh id u = getCh id s)
include hcab hch

theorem curPlan_congr (r : ChReq) (step : Nat) : curPlan id r step u = curPlan id r step s := by
  rw [curPlan, curPlan, hcab, hch, ownCoords, ownCoords, hcab]

theorem hasSlot_congr (r : ChReq) (step rank : Nat) : hasSlot id r step rank u = hasSlot id r step rank s := by
  rw [hasSlot, hasSlot, hcab, hch, curPlan_congr hcab hch]

theorem landAt_congr (r : ChReq) (pl : ChPlan) (rx : ChRx) : landAt id r pl rx u = landAt id r pl rx s := by
  rw [landAt, landAt, hcab, hch, ownCoords, ownCoords, hcab]

end

theorem CellsOut.chunkSunk {p : Nat} {k : Packet} {s u : State} (h : CellsOut p k s u) (id : Nat) (c : Packet) :
    chunkSunk id c u = chunkSunk id c s := by
  simp only [Machine.chunkSunk, h.getCh, h.pkgOfEid, landAt_congr h.cab (h.getCh id), curPlan_congr h.cab (h.getCh id),
    h.shelfRefuses]

/-! The packet by its checks. -/

/-- A chamber that does not take messages: INACTIVE, RETIRING or of another generation (R275). -/
def chMoved (k : Packet) (s : State) : Prop :=
  (getCh (kId k) s).st = 0 ∨ (getCh (kId k) s).st = 5 ∨ kCgen k ≠ dCgen (getCh (kId k) s).desc

/-- How far a packet's sequence number lies ahead of its chamber's. -/
def chAhead (k : Packet) (s : State) : Nat := (kSeq k - (getCh (kId k) s).cseq.setWidth 8).toNat

/-- A packet of an old request (R275, R277). -/
def chOld (k : Packet) (s : State) : Prop :=
  1 < chAhead k s ∧ ¬(kStep k = 0x7FE ∧ chAhead k s = 0xFF) ∧ ¬(kStep k = 0x7FF ∧ 0xFE ≤ chAhead k s)

/-- A chunk that no step expects, or that no other member sends. -/
def chNoSlot (k : Packet) (s : State) : Prop :=
  (∃ r, (getCh (kId k) s).req = some r ∧ chAhead k s = 0 ∧ hasSlot (kId k) r (kStep k) (kRank k) s = false) ∨
    kRank k = (getCh (kId k) s).rank ∨ memberCount (getCh (kId k) s).desc ≤ kRank k

/-- The same as the model computes it. -/
def chNoSlotB (k : Packet) (s : State) : Bool :=
  let noSlot : Bool := match (getCh (kId k) s).req with
    | none => false
    | some r => decide (chAhead k s = 0) && !hasSlot (kId k) r (kStep k) (kRank k) s
  noSlot || kRank k == (getCh (kId k) s).rank || decide (memberCount (getCh (kId k) s).desc ≤ kRank k)

theorem chNoSlotB_iff (k : Packet) (s : State) : chNoSlotB k s = true ↔ chNoSlot k s := by
  unfold chNoSlotB chNoSlot
  cases (getCh (kId k) s).req <;> simp [or_assoc]

section
variable {p : Nat} {k c : Packet} {s u : State} (h : Arrived p k c s u)
include h

theorem Arrived.chamber (hk : k.kind = 4) : pktKind p c u = rxChamber p c u := by
  rw [pktKind, if_neg h.known, h.kind, hk]
  rfl

theorem Arrived.chamber_refused (hst : chPktStatus c s ≠ stOK) : rxChamber p c u = refusePkt p c (chPktStatus c s) u := by
  unfold rxChamber
  dsimp only
  rw [h.out.chPktStatus, if_pos hst]

theorem Arrived.fields : kId c = kId k ∧ kCgen c = kCgen k ∧ kStep c = kStep k ∧ kRank c = kRank k ∧ kSeq c = kSeq k ∧
    kLast c = kLast k ∧ c.addr = k.addr := by
  obtain ⟨l, rfl⟩ := h.clear
  exact ⟨rfl, rfl, rfl, rfl, rfl, rfl, rfl⟩

theorem Arrived.chamber_moved (hst : chPktStatus c s = stOK) (hm : chMoved k s) :
    let w := colEvt eCOL_EVENT_ROLE_MOVED ((partOfCh s.cab.cur (kId k)).getD 0) u
    rxChamber p c u = if 0x7FE ≤ kStep k then w else nakPkt c stROLE (BitVec.ofNat 32 (if (getCh (kId k) s).st = 0 then 0
      else dCgen (getCh (kId k) s).desc * 2 ^ 16 + (getCh (kId k) s).rank)) w := by
  obtain ⟨hid, hgen, hstep, -⟩ := h.fields
  unfold chMoved at hm
  unfold rxChamber
  simp only [h.out.chPktStatus, h.out.getCh, h.out.cab, hid, hgen, hstep, hst, ne_eq, not_true_eq_false, if_false, if_pos hm,
    decide_eq_true_eq]
  by_cases h0 : (getCh (kId k) s).st = 0 <;> simp [h0]

theorem Arrived.chamber_stale (hst : chPktStatus c s = stOK) (hm : ¬chMoved k s) (ho : chOld k s) :
    rxChamber p c u = colEvt eCOL_EVENT_STALE_MSG ((partOfCh s.cab.cur (kId k)).getD 0) u := by
  obtain ⟨hid, hgen, hstep, -, hseq, -⟩ := h.fields
  unfold chMoved at hm
  unfold chOld chAhead at ho
  unfold rxChamber
  simp only [h.out.chPktStatus, h.out.getCh, h.out.cab, hid, hgen, hstep, hseq, hst, ne_eq, not_true_eq_false, if_false, if_neg hm]
  refine if_pos ?_
  simpa only [Bool.not_eq_true', decide_eq_false_iff_not] using ho

/-- A packet of a chamber that takes it goes on by its step. -/
theorem Arrived.chamber_taken (hst : chPktStatus c s = stOK) (hm : ¬chMoved k s) (ho : ¬chOld k s) :
    (kStep k = 0x7FE → rxChamber p c u = noticeIn (kId k) c u) ∧ (kStep k = 0x7FF → rxChamber p c u = tokenIn (kId k) c u) ∧
    (kStep k < 0x7FE →
      (chNoSlot k s ∨ dCap (getCh (kId k) s).desc < k.addr.toNat + c.data.length → rxChamber p c u = nakPkt c stLENGTH 0 u) ∧
      (¬chNoSlot k s → k.addr.toNat + c.data.length ≤ dCap (getCh (kId k) s).desc →
        rxChamber p c u = if chunkSunk (kId k) c s then nakPkt c stDENIED 0 u else chunkIn (kId k) c u)) := by
  obtain ⟨hid, hgen, hstep, hrank, hseq, -, haddr⟩ := h.fields
  unfold chMoved at hm
  unfold chOld chAhead at ho
  have hnew : ¬(1 < (kSeq k - BitVec.setWidth 8 (getCh (kId k) s).cseq).toNat ∧
      (!decide (kStep k = 0x7FE ∧ (kSeq k - BitVec.setWidth 8 (getCh (kId k) s).cseq).toNat = 0xFF)) = true ∧
      (!decide (kStep k = 0x7FF ∧ 0xFE ≤ (kSeq k - BitVec.setWidth 8 (getCh (kId k) s).cseq).toNat)) = true) := by
    simpa only [Bool.not_eq_true', decide_eq_false_iff_not] using ho
  have hgo : rxChamber p c u = if kStep k = 0x7FE then noticeIn (kId k) c u else if kStep k = 0x7FF then tokenIn (kId k) c u
      else if chNoSlotB k s = true ∨ dCap (getCh (kId k) s).desc < k.addr.toNat + c.data.length then nakPkt c stLENGTH 0 u
      else if chunkSunk (kId k) c s then nakPkt c stDENIED 0 u else chunkIn (kId k) c u := by
    unfold rxChamber chNoSlotB chAhead
    simp only [h.out.chPktStatus, h.out.getCh, h.out.cab, hid, hgen, hstep, hrank, hseq, haddr, hst, ne_eq, not_true_eq_false,
      if_false, if_neg hm, if_neg hnew, hasSlot_congr h.out.cab (h.out.getCh _), h.out.chunkSunk] <;> rfl
  rw [hgo]
  refine ⟨fun h1 => if_pos h1, fun h1 => by rw [if_neg (by omega), if_pos h1], fun h1 => ?_⟩
  rw [if_neg (by omega), if_neg (by omega), ← chNoSlotB_iff]
  exact ⟨fun h2 => if_pos h2, fun h2 h3 => if_neg (not_or.2 ⟨h2, Nat.not_lt.2 h3⟩)⟩

end

end Sys2Proof.Machine
end

section
/-! SUPPORT. The answer to a chamber packet (R241, R275), and the packets that end there: refused, of another generation, stale. -/

namespace Sys2Proof.Machine

/-- What a packet that is refused leaves alone. -/
def chSideView (s : State) : Col × List Host.Cell × Tbl Core × Tbl Queue := (s.col, s.mem, s.cores, s.queues)

theorem quiet_chSideView : Quiet chSideView := ⟨fun _ _ => rfl, fun _ _ => rfl, fun _ _ => rfl, fun _ _ => rfl,
  fun _ _ => rfl, fun _ _ => rfl, fun _ _ => rfl⟩

theorem chSideView_eq_iff {s t : State} : chSideView t = chSideView s ↔
    t.col = s.col ∧ t.mem = s.mem ∧ t.cores = s.cores ∧ t.queues = s.queues := by
  simp only [chSideView, Prod.mk.injEq]

theorem CellsOut.chSide {p : Nat} {k : Packet} {s u : State} (h : CellsOut p k s u) : chSideView u = chSideView s :=
  (congrArg chSideView h.rest).trans rfl

theorem ItemsOnly.chSide {s t : State} (h : ItemsOnly s t) : chSideView t = chSideView s :=
  (congrArg chSideView h.rest).trans rfl

theorem fget_colEvt {e : Evt} (hok : e.Ok) (i : Nat) (s : State) : fget colB e.bit (colEvt e i s) = 1 := by
  obtain ⟨hbit, hcnt, -, hne, -⟩ := hok
  rw [colEvt, fget_raiseMsix, fget_evt_bit _ hbit hcnt (.inl hne)]

theorem sameLinks_colEvt {e : Evt} (hb : e.bit.off < 0x10000) (hc : e.cnt.off < 0x10000) (i : Nat) (s : State) :
    SameLinks s (colEvt e i s) := by
  intro j _
  rw [portState, portState, colEvt, fget_raiseMsix]
  refine fget_evt_ne ?_ ?_ s <;> simp only [fabB, colB, oFAB_STATUS] <;> omega

theorem Answerable.colEvt {p : Nat} {k : Packet} {s v : State} (h : Answerable p k s v) {e : Evt} (hb : e.bit.off < 0x10000)
    (hc : e.cnt.off < 0x10000) (i : Nat) : Answerable p k s (colEvt e i v) :=
  h.of_fab (quiet_fab.colEvt e i v) (sameLinks_colEvt hb hc i v)

section
variable {p q : Nat} {k c : Packet} {y : Port} {s u v : State} (h : Arrived p k c s u) (hv : Answerable p k s v)
  (ha : anyPort s = some q) (hy : s.fab.ports[q]? = some y)
include h hv ha hy

theorem Arrived.naked (st : BitVec 8) (detail : Word) : let t := nakPkt c st detail v
    ItemOn q (.nak k.src ⟨k.core, k.seqno⟩ st detail) t ∧ PktFreed p k s t ∧ ItemsOnly v t := by
  obtain ⟨hon, hfreed⟩ := hv.item ha hy (.nak c.src ⟨c.core, c.seqno⟩ st detail)
  rw [h.src, h.core, h.seqno] at hon hfreed
  unfold nakPkt
  rw [h.src, h.core, h.seqno]
  exact ⟨hon, hfreed, itemsOnly_routeItem _ _⟩

theorem Arrived.acked : let t := ackPkt c v
    ItemOn q (.ack k.src [(⟨k.core, k.seqno⟩, 1)]) t ∧ PktFreed p k s t ∧ ItemsOnly v t := by
  obtain ⟨hon, hfreed⟩ := hv.item ha hy (.ack c.src [(⟨c.core, c.seqno⟩, 1)])
  rw [h.src, h.core, h.seqno] at hon hfreed
  unfold ackPkt
  rw [h.src, h.core, h.seqno]
  exact ⟨hon, hfreed, itemsOnly_routeItem _ _⟩

end

section
variable {p q : Nat} {k c : Packet} {y : Port} {s u : State} (h : Arrived p k c s u)
include h

/-- A packet of an old request (R275). -/
theorem Arrived.stale_spec (hst : chPktStatus c s = stOK) (hm : ¬chMoved k s) (ho : chOld k s) : let t := rxChamber p c u
    fget colB eCOL_EVENT_STALE_MSG.bit t = 1 ∧ chSideView t = chSideView s ∧ PktFreed p k s t := by
  rw [h.chamber_stale hst hm ho]
  exact ⟨fget_colEvt (by decide) _ _, (quiet_chSideView.colEvt _ _ _).trans h.out.chSide,
    (h.out.answerable.colEvt (by decide) (by decide) _).freed⟩

variable (ha : anyPort s = some q) (hy : s.fab.ports[q]? = some y)
include ha hy

/-- A packet that fails checks 3 to 5 (R241). -/
theorem Arrived.refused_spec (hst : chPktStatus c s ≠ stOK) : let t := rxChamber p c u
    ItemOn q (.nak k.src ⟨k.core, k.seqno⟩ (chPktStatus c s) 0) t ∧ fget (fabB p) eFAB_EVENT_UNKNOWN_SRC.bit t = 1 ∧
    chSideView t = chSideView s ∧ PktFreed p k s t := by
  rw [h.chamber_refused hst]
  obtain ⟨⟨⟨hon, hfreed, -, -⟩, hbit⟩, -⟩ := h.refused ha hy (chPktStatus c s)
  have hi : ItemsOnly (evt (fabB p) eFAB_EVENT_UNKNOWN_SRC u) (refusePkt p c (chPktStatus c s) u) := itemsOnly_routeItem _ _
  exact ⟨hon, hbit, hi.chSide.trans ((quiet_chSideView.evt _ _ u).trans h.out.chSide), hfreed⟩

/-- A packet of a chamber that is not here, or of another generation (R275). -/
theorem Arrived.moved_spec (hst : chPktStatus c s = stOK) (hm : chMoved k s) : let t := rxChamber p c u
    (kStep k < 0x7FE → ItemOn q (.nak k.src ⟨k.core, k.seqno⟩ stROLE (BitVec.ofNat 32 (if (getCh (kId k) s).st = 0 then 0
      else dCgen (getCh (kId k) s).desc * 2 ^ 16 + (getCh (kId k) s).rank))) t) ∧
    fget colB eCOL_EVENT_ROLE_MOVED.bit t = 1 ∧ chSideView t = chSideView s ∧ PktFreed p k s t := by
  have heq := h.chamber_moved hst hm
  dsimp only at heq ⊢
  generalize (partOfCh s.cab.cur (kId k)).getD 0 = i at heq
  have hbit : fget colB eCOL_EVENT_ROLE_MOVED.bit (colEvt eCOL_EVENT_ROLE_MOVED i u) = 1 := fget_colEvt (by decide) i u
  have hside : chSideView (colEvt eCOL_EVENT_ROLE_MOVED i u) = chSideView s := (quiet_chSideView.colEvt _ _ _).trans h.out.chSide
  have hv : Answerable p k s (colEvt eCOL_EVENT_ROLE_MOVED i u) := h.out.answerable.colEvt (by decide) (by decide) i
  generalize BitVec.ofNat 32 (if (getCh (kId k) s).st = 0 then 0
    else dCgen (getCh (kId k) s).desc * 2 ^ 16 + (getCh (kId k) s).rank) = d at heq ⊢
  rw [heq]
  split
  · next hctl => exact ⟨fun hlt => absurd hctl (Nat.not_le.2 hlt), hbit, hside, hv.freed⟩
  · obtain ⟨hon, hfreed, hi⟩ := h.naked hv ha hy stROLE d
    exact ⟨fun _ => hon, (hi.fget _ _).trans hbit, hi.chSide.trans hside, hfreed⟩

/-- A chunk refused before its bytes are written. -/
theorem Arrived.naked_spec (st : BitVec 8) : let t := nakPkt c st 0 u
    ItemOn q (.nak k.src ⟨k.core, k.seqno⟩ st 0) t ∧ chSideView t = chSideView s := by
  obtain ⟨hon, -, hi⟩ := h.naked h.out.answerable ha hy st 0
  exact ⟨hon, hi.chSide.trans h.out.chSide⟩

end

end Sys2Proof.Machine
end

section
/-! SUPPORT. A chunk's packet (R275, R279): the record of its chunk, and its bytes in the home core's store. -/

namespace Sys2Proof.Machine

/-- The entries of a table in a range that has just been put are those that were put there. -/
theorem tslice_tput {α : Type} {a n : Nat} {sl : Tbl α} (h : ∀ x ∈ sl, x.1 < n) (t : Tbl α) : tslice a n (tput a n sl t) = sl := by
  have hlow : (t.filter fun x => decide (x.1 < a)).filter (fun x => decide (a ≤ x.1 ∧ x.1 < a + n)) = [] := by
    rw [List.filter_filter, List.filter_eq_nil_iff]
    intro x _
    simp only [Bool.and_eq_true, decide_eq_true_eq]
    omega
  have hhigh : (t.filter fun x => decide (a + n ≤ x.1)).filter (fun x => decide (a ≤ x.1 ∧ x.1 < a + n)) = [] := by
    rw [List.filter_filter, List.filter_eq_nil_iff]
    intro x _
    simp only [Bool.and_eq_true, decide_eq_true_eq]
    omega
  have hput : (sl.map fun x => (x.1 + a, x.2)).filter (fun x => decide (a ≤ x.1 ∧ x.1 < a + n)) =
      sl.map fun x => (x.1 + a, x.2) := by
    rw [List.filter_eq_self]
    intro x hx
    obtain ⟨z, hz, rfl⟩ := List.mem_map.1 hx
    have := h z hz
    exact decide_eq_true ⟨Nat.le_add_left _ _, by dsimp only; omega⟩
  rw [tslice, tput, List.filter_append, List.filter_append, hlow, hhigh, hput, List.nil_append, List.append_nil, List.map_map]
  refine (List.map_congr_left fun x _ => ?_).trans (List.map_id sl)
  exact Prod.ext (Nat.add_sub_cancel x.1 a) rfl

theorem getCh_modCh_ne {i j : Nat} (h : j ≠ i) (f : Chamber → Chamber) (s : State) : getCh j (modCh i f s) = getCh j s :=
  getCh_setCh_ne h _ s

theorem getCh_congr {s t : State} (h : t.col = s.col) (id : Nat) : getCh id t = getCh id s := by rw [getCh, getCh, h]

/-! The record. -/

/-- The record of a chunk with the bytes of a packet. -/
def chRecord (x : Chamber) (k : Packet) : ChRx :=
  { rxOf x k with
    got := (rxOf x k).got + k.data.length
    data := tput k.addr.toNat k.data.length (sparse 0 k.data) (rxOf x k).data
    total := if kLast k then some (k.addr.toNat + k.data.length) else (rxOf x k).total }

/-- Every byte of the chunk has arrived; its check matches. -/
def chWhole (x : Chamber) (k : Packet) : Bool := (chRecord x k).total == some (chRecord x k).got
def chRight (x : Chamber) (k : Packet) : Bool :=
  crc32c ((List.range (chRecord x k).got).map (tget (fun _ => 0) (chRecord x k).data)) == (chRecord x k).crc

/-- The record as it is kept. -/
def chKept (x : Chamber) (k : Packet) : ChRx := { chRecord x k with arrived := chWhole x k && chRight x k }

/-- The record is in place, and the bytes are where the request that runs wants them. -/
def chunkPlaced (id : Nat) (k : Packet) (s : State) : State :=
  let x := getCh id s
  let w := modCh id (fun y => { y with rx := putRx y.rx (chKept x k) }) s
  match x.req with
  | none => w
  | some r => if x.req.isSome && kSeq k == x.cseq.setWidth 8 then placeChunk id r (chKept x k) k.addr.toNat k.data.length w else w

theorem chunkIn_eq (id : Nat) (k : Packet) (s : State) : let x := getCh id s
    let good := chWhole x k && chRight x k
    let w := chunkPlaced id k s
    chunkIn id k s = if (chWhole x k && !good) = true then chunkBad id k (chKept x k) w
      else ackPkt k (if good = true then
        countEvt ctrCol 0x73 (((chRecord x k).got + 255) / 256) (countEvt ctrCol 0x72 1 w) else w) := rfl

/-! The place. -/

theorem placeChunk_eq {id : Nat} {r : ChReq} {rx : ChRx} {s : State} (h : (curPlan id r rx.step s).op ≠ .segments) (off n : Nat) :
    placeChunk id r rx off n s =
      memStore (coreStore (homeOf (getCh id s).desc rx.home) + landAt id r (curPlan id r rx.step s) rx s + off) n
        (tslice off n rx.data) s := by
  unfold placeChunk
  exact if_neg fun hs => h hs.1

section
variable {β : Type} {φ : State → β} (q : Quiet φ) (hm : ∀ (s : State) v, φ { s with mem := v } = φ s)
  (ha : ∀ (s : State) v, φ { s with armed := v } = φ s)
include q hm ha

theorem placeChunk_view (id : Nat) (r : ChReq) (rx : ChRx) (off n : Nat) (s : State) : φ (placeChunk id r rx off n s) = φ s := by
  have hstore := fun a m sl u => memStore_view q hm ha a m sl u
  unfold placeChunk
  exact ite_view ((hstore _ _ _ _).trans (hstore _ _ _ s)) (hstore _ _ _ s)

/-- Bytes of a chunk leave alone what looks at neither its record nor memory. -/
theorem chunkPlaced_record (id : Nat) (k : Packet) (s : State) :
    φ (chunkPlaced id k s) = φ (modCh id (fun y => { y with rx := putRx y.rx (chKept (getCh id s) k) }) s) := by
  unfold chunkPlaced
  dsimp only
  split
  · rfl
  · exact ite_view (placeChunk_view q hm ha _ _ _ _ _ _) rfl

end

theorem quiet_col : Quiet State.col := ⟨fun _ _ => rfl, fun _ _ => rfl, fun _ _ => rfl, fun _ _ => rfl,
  fun _ _ => rfl, fun _ _ => rfl, fun _ _ => rfl⟩

section
variable (id : Nat) (k : Packet) (s : State)

theorem cores_chunkPlaced : (chunkPlaced id k s).cores = s.cores :=
  chunkPlaced_record quiet_cores (fun _ _ => rfl) (fun _ _ => rfl) id k s

theorem queues_chunkPlaced : (chunkPlaced id k s).queues = s.queues :=
  chunkPlaced_record quiet_queues (fun _ _ => rfl) (fun _ _ => rfl) id k s

theorem fab_chunkPlaced : (chunkPlaced id k s).fab = s.fab :=
  chunkPlaced_record quiet_fab (fun _ _ => rfl) (fun _ _ => rfl) id k s

theorem getCh_chunkPlaced : getCh id (chunkPlaced id k s) =
    { getCh id s with rx := putRx (getCh id s).rx (chKept (getCh id s) k) } := by
  rw [getCh_congr (chunkPlaced_record quiet_col (fun _ _ => rfl) (fun _ _ => rfl) id k s), getCh_modCh_same]

theorem otherChs_chunkPlaced : OtherChs id s (chunkPlaced id k s) := fun j hj => by
  rw [getCh_congr (chunkPlaced_record quiet_col (fun _ _ => rfl) (fun _ _ => rfl) id k s), getCh_modCh_ne hj]

end

section
variable {id : Nat} {k : Packet} {s : State}

theorem mem_chunkPlaced (h : (getCh id s).req = none ∨ kSeq k ≠ (getCh id s).cseq.setWidth 8) :
    (chunkPlaced id k s).mem = s.mem := by
  unfold chunkPlaced
  dsimp only
  split
  · rfl
  · next r hr =>
    have hseq := h.resolve_left (by rw [hr]; exact Option.some_ne_none r)
    rw [beq_eq_false_iff_ne.2 hseq, Bool.and_false]
    rfl

theorem sameLinks_placeChunk (hecc : s.ecc = []) (id : Nat) (r : ChReq) (rx : ChRx) (off n : Nat) :
    SameLinks s (placeChunk id r rx off n s) := by
  unfold placeChunk
  dsimp only
  split
  · exact (sameLinks_memStore hecc _).trans (sameLinks_memStore ((ecc_memStore (marksIn_of_ecc_nil hecc _ _) _).trans hecc) _)
  · exact sameLinks_memStore hecc _

theorem sameLinks_modCh (id : Nat) (f : Chamber → Chamber) (s : State) : SameLinks s (modCh id f s) := sameLinks_of_regs rfl

theorem sameLinks_chunkPlaced (hecc : s.ecc = []) (id : Nat) (k : Packet) : SameLinks s (chunkPlaced id k s) := by
  have hlinks := sameLinks_modCh id (fun y => { y with rx := putRx y.rx (chKept (getCh id s) k) }) s
  have hnil : (modCh id (fun y => { y with rx := putRx y.rx (chKept (getCh id s) k) }) s).ecc = [] := hecc
  unfold chunkPlaced
  dsimp only
  generalize modCh id (fun y => { y with rx := putRx y.rx (chKept (getCh id s) k) }) s = u at hlinks hnil ⊢
  split
  · exact hlinks
  · split
    · exact hlinks.trans (sameLinks_placeChunk hnil id _ _ _ _)
    · exact hlinks

theorem rxOf_step (x : Chamber) (k : Packet) : (rxOf x k).step = kStep k := by
  unfold rxOf
  dsimp only
  cases h : x.rx.find? _ with
  | none => rfl
  | some c =>
    have hc := List.find?_some h
    simp only [Bool.and_eq_true, beq_iff_eq] at hc
    exact hc.1.2

/-- The plan and the place of a chunk do not depend on the records of chunks. -/
theorem curPlan_rx (id : Nat) (r : ChReq) (step : Nat) (f : List ChRx → List ChRx) (s : State) :
    curPlan id r step (modCh id (fun y => { y with rx := f y.rx }) s) = curPlan id r step s := by
  unfold curPlan
  rw [getCh_modCh_same]
  rfl

theorem landAt_rx (id : Nat) (r : ChReq) (pl : ChPlan) (rx : ChRx) (f : List ChRx → List ChRx) (s : State) :
    landAt id r pl rx (modCh id (fun y => { y with rx := f y.rx }) s) = landAt id r pl rx s := by
  unfold landAt
  rw [getCh_modCh_same]
  rfl

/-- The bytes of a packet for the request that runs stand at their place in the home core's store, and nowhere else. -/
theorem bytes_chunkPlaced (hwf : Memory.wf s.mem = true) (hecc : s.ecc = []) {r : ChReq} (hr : (getCh id s).req = some r)
    (hseq : kSeq k = (getCh id s).cseq.setWidth 8) (hop : (curPlan id r (kStep k) s).op ≠ .segments) :
    let x := getCh id s
    let w := coreStore (homeOf x.desc (rxOf x k).home) + landAt id r (curPlan id r (kStep k) s) (chKept x k) s + k.addr.toNat
    (∀ j < k.data.length, memGet (w + j) (chunkPlaced id k s) = k.data.getD j 0) ∧ MemOutside w k.data.length s (chunkPlaced id k s) := by
  intro x w
  have hplaced : (chunkPlaced id k s) = memWrite w k.data (modCh id (fun y => { y with rx := putRx y.rx (chKept x k) }) s) := by
    have hplan := curPlan_rx id r (kStep k) (fun l => putRx l (chKept x k)) s
    have hland := landAt_rx id r (curPlan id r (kStep k) s) (chKept x k) (fun l => putRx l (chKept x k)) s
    have hstep : (chKept x k).step = kStep k := rxOf_step x k
    have hdata : tslice k.addr.toNat k.data.length (chKept x k).data = sparse 0 k.data :=
      tslice_tput (fun z hz => by have := mem_sparse_lt hz; omega) _
    have hdesc : (getCh id (modCh id (fun y => { y with rx := putRx y.rx (chKept x k) }) s)).desc = x.desc := by
      rw [getCh_modCh_same]
    unfold chunkPlaced
    dsimp only
    rw [hr]
    dsimp only
    rw [beq_iff_eq.2 hseq, if_pos (by rfl)]
    change placeChunk id r (chKept x k) _ _ _ = _
    rw [placeChunk_eq (by rw [hstep, hplan]; exact hop), hstep, hplan, hland, hdata, hdesc]
    rfl
  rw [hplaced]
  exact memStore_bytes rfl hwf hecc

end

end Sys2Proof.Machine
end

section
/-! SUPPORT. What the stall of a chamber leaves (R283, R285): its entry, its request's command, its queue, and COL_LAST_STALL. -/

namespace Sys2Proof.Machine

theorem sendBlind_col : SendBlind State.col := ⟨fun _ _ => rfl, fun _ _ => rfl, fun _ _ => rfl, fun _ _ => rfl, fun _ _ _ _ => rfl⟩

theorem sendBlind_queues : SendBlind State.queues :=
  ⟨fun _ _ => rfl, fun _ _ => rfl, fun _ _ => rfl, fun _ _ => rfl, fun _ _ _ _ => rfl⟩

theorem sendBlind_mem : SendBlind State.mem := ⟨fun _ _ => rfl, fun _ _ => rfl, fun _ _ => rfl, fun _ _ => rfl, fun _ _ _ _ => rfl⟩

theorem stallBlind_col : StallBlind State.col := ⟨quiet_col, sendBlind_col, fun _ _ => rfl, fun _ _ => rfl⟩

theorem stallBlind_mem : StallBlind State.mem := ⟨quiet_mem, sendBlind_mem, fun _ _ => rfl, fun _ _ => rfl⟩

theorem getQueue_congr {s t : State} (h : t.queues = s.queues) (q : Nat) : getQueue q t = getQueue q s := by
  rw [getQueue, getQueue, h]

/-! The request. -/

theorem cmdEnded_of_started {c : QCmd} (h : c.phase = .started) : cmdEnded c = false := by rw [cmdEnded, h]

/-- A command that has started ends. -/
theorem mem_endCmd {qid : Nat} {idx : BitVec 32} {s : State} {c : QCmd} (hc : c ∈ (getQueue qid s).cmds) (hi : c.idx = idx)
    (hp : c.phase = .started) (st : BitVec 8) (detail : Word) :
    { c with phase := .ended st detail } ∈ (getQueue qid (endCmd qid idx st detail s)).cmds := by
  unfold endCmd setPhase
  dsimp only
  rw [getQueue_setQueue_same]
  refine List.mem_map.2 ⟨c, hc, ?_⟩
  rw [if_pos ⟨hi, by rw [cmdEnded_of_started hp]; rfl⟩]

/-- The chamber without a request. -/
def chEnded (x : Chamber) : Chamber := { x with req := none, last := chStep x }

theorem chEnded_of_none {x : Chamber} (h : x.req = none) : chEnded x = x := by
  unfold chEnded chStep
  rw [h]
  cases x
  cases h
  rfl

section
variable (id : Nat) (st : BitVec 8) (detail : Word) (s : State)

theorem getCh_endReq : getCh id (endReq id st detail s) = chEnded (getCh id s) := by
  unfold endReq
  dsimp only
  cases hr : (getCh id s).req with
  | none => exact (chEnded_of_none hr).symm
  | some r =>
    dsimp only
    rw [getCh_modCh_same, getCh_congr (endCmd_view (φ := State.col) (fun _ _ => rfl) (fun _ _ => rfl) _ _ _ _ s), chEnded, chStep, hr]

theorem otherChs_endReq : OtherChs id s (endReq id st detail s) := fun j hj => by
  unfold endReq
  dsimp only
  split
  · rfl
  · rw [getCh_modCh_ne hj, getCh_congr (endCmd_view (φ := State.col) (fun _ _ => rfl) (fun _ _ => rfl) _ _ _ _ s)]

theorem reqEnds_endReq : ReqEnds id st detail s (endReq id st detail s) := fun r hr c hc hi hp => by
  unfold endReq
  dsimp only
  rw [hr]
  exact mem_endCmd hc hi hp st detail

end

/-! The queue. -/

/-- A flush keeps the commands that are not waiting for their start. -/
theorem mem_flushCmds {qid : Nat} {s : State} {c : QCmd} (hc : c ∈ (getQueue qid s).cmds) (hp : c.phase ≠ .dispatched)
    (st : BitVec 8) (rank : Nat) : c ∈ (getQueue qid (flushCmds qid st rank s)).cmds := by
  unfold flushCmds
  dsimp only
  split
  · rw [getQueue_setQueue_same]
    refine List.mem_append_left _ (List.mem_map.2 ⟨c, hc, ?_⟩)
    rw [if_neg hp]
  · exact hc

theorem getQueue_stallQueueBy (qid rank : Nat) (s : State) : getQueue qid (stallQueueBy qid rank s) =
    { getQueue qid (flushCmds qid stSTALLED rank s) with st := .stalled } := by
  have hq := fun u => getQueue_congr (quiet_queues.evt qmB eQM_STALL_STALL u) qid
  unfold stallQueueBy
  dsimp only
  rw [getQueue_congr (quiet_queues.fset _ _ _ _), hq, modQueue, getQueue_setQueue_same]

/-- A register of the COL block. -/
abbrev InCol (o : Nat) : Prop := colB ≤ o ∧ o < colB + 0x10000

theorem not_inCol_logRegs : ∀ o ∈ logRegs, ¬ InCol o := by decide

theorem regGet_stallQueueBy {o : Nat} (h : InCol o) (qid rank : Nat) (s : State) :
    regGet o (stallQueueBy qid rank s) = regGet o s := by
  have hlow : o < 0x01000000 := h.2.trans (by decide)
  have hflush : regGet o (flushCmds qid stSTALLED rank s) = regGet o s :=
    flushCmds_view (fun a n u => regGet_readAll (eccApart_of_low hlow fun hm => not_inCol_logRegs o hm h)
      (not_mem_granRegs_of_low hlow) a n u) (fun _ _ => rfl) (fun _ _ => rfl) (fun _ _ => rfl) _ _ s
  have hqm : ∀ x < 0x10000, o ≠ qmB + x := fun x hx he => by
    have := h.1
    unfold colB at this
    unfold qmB at he
    omega
  unfold stallQueueBy fset
  dsimp only
  rw [regGet_regSet_ne (hqm _ (by decide)), regGet_evt_ne (hqm _ (by decide)) (hqm _ (by decide))]
  exact hflush

theorem fget_stallQueueBy {f : Fld} (h : f.off < 0x10000) (qid rank : Nat) (s : State) :
    fget colB f (stallQueueBy qid rank s) = fget colB f s := by
  rw [fget, fget, regGet_stallQueueBy ⟨Nat.le_add_right _ _, Nat.add_lt_add_left h _⟩]

/-! The stall. -/

section
variable (id : Nat) (st : BitVec 8) (detail : Word) (raiser : Nat) (notice : Bool) (s : State)

/-- The request has ended, and the notice is on its way. -/
def chNoticed : State := if notice then stallNotices id (endReq id st detail s) else endReq id st detail s

/-- The chamber is STALLED, and COL_LAST_STALL says so. -/
def chNoted : State :=
  fset colB fCOL_LAST_STALL_STATUS st.toNat (fset colB fCOL_LAST_STALL_ID id (fset colB fCOL_LAST_STALL_RANK raiser
    (colEvt eCOL_EVENT_STALL (getCh id s).part (modCh id (fun y => { y with st := 4 }) (chNoticed id st detail notice s)))))

theorem chStall_eq : let u := chNoted id st detail raiser notice s
    chStall id st detail raiser notice s = if (getQueue (chComm (getCh id s)) u).st = .active ∨
      (getQueue (chComm (getCh id s)) u).st = .draining then stallQueueBy (chComm (getCh id s)) raiser u else u := rfl

theorem chNoticed_view {β : Type} {φ : State → β} (b : SendBlind φ) :
    φ (chNoticed id st detail notice s) = φ (endReq id st detail s) := ite_view (b.stallNotices id _) rfl

theorem chNoted_view {β : Type} {φ : State → β} (q : Quiet φ) :
    φ (chNoted id st detail raiser notice s) = φ (modCh id (fun y => { y with st := 4 }) (chNoticed id st detail notice s)) := by
  unfold chNoted
  rw [q.fset, q.fset, q.fset, q.colEvt]

theorem regs_chNoticed : (chNoticed id st detail notice s).regs = s.regs := by
  have hsend : SendBlind State.regs := ⟨fun _ _ => rfl, fun _ _ => rfl, fun _ _ => rfl, fun _ _ => rfl, fun _ _ _ _ => rfl⟩
  refine (chNoticed_view id st detail notice s hsend).trans ?_
  unfold endReq
  dsimp only
  split
  · rfl
  · next r _ => exact endCmd_view (φ := State.regs) (fun _ _ => rfl) (fun _ _ => rfl) (chComm (getCh id s)) r.idx st detail s

theorem col_chStall : (chStall id st detail raiser notice s).col =
    (modCh id (fun y => { y with st := 4 }) (chNoticed id st detail notice s)).col := by
  have hnoted := chNoted_view id st detail raiser notice s quiet_col
  rw [chStall_eq]
  exact ite_view ((stallBlind_col.stallQueueBy _ _ _).trans hnoted) hnoted

theorem getCh_chStall : getCh id (chStall id st detail raiser notice s) = { chEnded (getCh id s) with st := 4 } := by
  rw [getCh_congr (col_chStall id st detail raiser notice s), getCh_modCh_same,
    getCh_congr (chNoticed_view id st detail notice s sendBlind_col), getCh_endReq]

theorem otherChs_chStall : OtherChs id s (chStall id st detail raiser notice s) := fun j hj => by
  rw [getCh_congr (col_chStall id st detail raiser notice s), getCh_modCh_ne hj,
    getCh_congr (chNoticed_view id st detail notice s sendBlind_col), otherChs_endReq id st detail s j hj]

theorem mem_chStall : (chStall id st detail raiser notice s).mem = s.mem :=
  chStall_view stallBlind_mem (fun _ _ => rfl) st detail raiser notice s

/-- The command of the request has ended in the queue. -/
theorem reqEnds_chStall : ReqEnds id st detail s (chStall id st detail raiser notice s) := fun r hr c hc hi hp => by
  have hended := reqEnds_endReq id st detail s r hr c hc hi hp
  rw [← getQueue_congr (chNoticed_view id st detail notice s sendBlind_queues)] at hended
  have hnoted : { c with phase := .ended st detail } ∈
      (getQueue (chComm (getCh id s)) (chNoted id st detail raiser notice s)).cmds := by
    rw [getQueue_congr (chNoted_view id st detail raiser notice s quiet_queues)]
    exact hended
  rw [chStall_eq]
  split
  · rw [getQueue_stallQueueBy]
    exact mem_flushCmds hnoted (by simp) _ _
  · exact hnoted

/-- The queue of the chamber does not stay ACTIVE. -/
theorem not_active_chStall : (getQueue (chComm (getCh id s)) (chStall id st detail raiser notice s)).st ≠ .active := by
  rw [chStall_eq]
  split
  · rw [getQueue_stallQueueBy]
    simp
  · next h => exact fun ha => h (.inl ha)

/-- A field of the COL block shows what was noted. -/
theorem fget_chStall {f : Fld} (h : f.off < 0x10000) : fget colB f (chStall id st detail raiser notice s) =
    fget colB f (chNoted id st detail raiser notice s) := by
  rw [chStall_eq]
  exact ite_view (fget_stallQueueBy h _ _ _) rfl

theorem fget_chStall_event : fget colB fCOL_EVENT_STALL (chStall id st detail raiser notice s) = 1 := by
  rw [fget_chStall _ _ _ _ _ _ (by decide), chNoted, fget_fset_apart _ (by decide) (by decide),
    fget_fset_apart _ (by decide) (by decide), fget_fset_apart _ (by decide) (by decide)]
  exact fget_colEvt (e := eCOL_EVENT_STALL) (by decide) _ _

theorem fget_chStall_status : fget colB fCOL_LAST_STALL_STATUS (chStall id st detail raiser notice s) = st.toNat := by
  rw [fget_chStall _ _ _ _ _ _ (by decide), chNoted, fget_fset_same _ (by decide)]
  exact Nat.mod_eq_of_lt st.isLt

theorem fget_chStall_id (hid : id < 4096) : fget colB fCOL_LAST_STALL_ID (chStall id st detail raiser notice s) = id := by
  rw [fget_chStall _ _ _ _ _ _ (by decide), chNoted, fget_fset_apart _ (by decide) (by decide), fget_fset_same _ (by decide)]
  exact Nat.mod_eq_of_lt hid

theorem fget_chStall_rank : fget colB fCOL_LAST_STALL_RANK (chStall id st detail raiser notice s) = raiser % 1024 := by
  rw [fget_chStall _ _ _ _ _ _ (by decide), chNoted, fget_fset_apart _ (by decide) (by decide),
    fget_fset_apart _ (by decide) (by decide), fget_fset_same _ (by decide)]
  rfl

/-- An event of the COL block that was set stays set. -/
theorem fget_chStall_crc : fget colB fCOL_EVENT_CRC (chStall id st detail raiser notice s) = fget colB fCOL_EVENT_CRC s := by
  rw [fget_chStall _ _ _ _ _ _ (by decide), chNoted, fget_fset_apart _ (by decide) (by decide),
    fget_fset_apart _ (by decide) (by decide), fget_fset_apart _ (by decide) (by decide), colEvt, fget_raiseMsix,
    fget_evt_apart colB (e := eCOL_EVENT_STALL) (by decide) (by decide) (by decide)]
  exact fget_congr (regs_chNoticed id st detail notice s) _ _

/-- A chamber that stalls has stopped. -/
theorem chStall_spec (hid : id < 4096) : ChStalled id st detail raiser s (chStall id st detail raiser notice s) := by
  have hch := getCh_chStall id st detail raiser notice s
  exact ⟨by rw [hch], by rw [hch]; rfl, by rw [hch]; rfl, by rw [hch]; rfl, otherChs_chStall id st detail raiser notice s,
    reqEnds_chStall id st detail raiser notice s, not_active_chStall id st detail raiser notice s,
    fget_chStall_event id st detail raiser notice s, fget_chStall_status id st detail raiser notice s,
    fget_chStall_id id st detail raiser notice s hid, fget_chStall_rank id st detail raiser notice s,
    mem_chStall id st detail raiser notice s⟩

end

end Sys2Proof.Machine
end

section
/-! SUPPORT. How a chunk's packet ends (R275, R279): with its ACK, or with the check of the chunk not matching. -/

namespace Sys2Proof.Machine

/-! Control items stay where nothing but cells is sent. -/

/-- The control items of the ports. -/
def portItems (s : State) : List (List CtlItem) := s.fab.ports.map Port.items

theorem map_items_modAt {f : Port → Port} (hf : ∀ x : Port, (f x).items = x.items) (p : Nat) (l : List Port) :
    (modAt p f l).map Port.items = l.map Port.items := by
  induction l generalizing p with
  | nil => cases p <;> rfl
  | cons x l ih => cases p with
    | zero => exact congrArg (· :: _) (hf x)
    | succ p => exact congrArg (_ :: ·) (ih p)

theorem stallBlind_portItems : StallBlind portItems where
  quiet := ⟨fun _ _ => rfl, fun _ _ => rfl, fun _ _ => rfl, fun _ _ => rfl, fun _ _ => rfl, fun _ _ => rfl, fun _ _ => rfl⟩
  send := ⟨fun _ _ => rfl, fun _ _ => rfl, fun _ _ => rfl, fun _ _ => rfl, fun p _ s hf => map_items_modAt hf p s.fab.ports⟩
  queues := fun _ _ => rfl
  waiters := fun _ _ => rfl

theorem itemOn_of_portItems {q : Nat} {i : CtlItem} {s t : State} (h : portItems t = portItems s) (hi : ItemOn q i s) : ItemOn q i t := by
  obtain ⟨x, hx, hmem⟩ := hi
  have hq : (portItems t)[q]? = some x.items := by
    rw [h, portItems, List.getElem?_map, hx]
    rfl
  rw [portItems, List.getElem?_map, Option.map_eq_some_iff] at hq
  obtain ⟨y, hy, hitems⟩ := hq
  exact ⟨y, hy, hitems ▸ hmem⟩

/-! The registers. -/

theorem fget_softFault_col {f : Fld} (h : f.off < 0x10000) (code source info0 info1 : Nat) (s : State) :
    fget colB f (softFault code source info0 info1 s) = fget colB f s :=
  (regsKept_softFault code source info0 info1 s).fget fun hm =>
    not_inCol_logRegs _ hm ⟨Nat.le_add_right _ _, Nat.add_lt_add_left h _⟩

theorem kSeq_eq_iff (k : Packet) (s : State) : kSeq k = (getCh (kId k) s).cseq.setWidth 8 ↔ chAhead k s = 0 := by
  unfold chAhead
  generalize (getCh (kId k) s).cseq.setWidth 8 = b
  generalize kSeq k = a
  bv_omega

section
variable {p q : Nat} {k c : Packet} {y : Port} {s u : State} (h : Arrived p k c s u) (hecc : s.ecc = [])
include h hecc

/-- What the placing of a chunk's bytes leaves, whatever its end. -/
theorem Arrived.chunk_placed : let v := chunkPlaced (kId k) c u
    Answerable p k s v ∧ OtherChs (kId k) s v ∧ v.cores = s.cores ∧ v.queues = s.queues ∧
    getCh (kId k) v = { getCh (kId k) s with rx := putRx (getCh (kId k) s).rx (chKept (getCh (kId k) s) c) } := by
  refine ⟨h.out.answerable.of_fab (fab_chunkPlaced _ _ _) (sameLinks_chunkPlaced (h.out.ecc.trans hecc) _ _),
    fun j hj => ?_, (cores_chunkPlaced _ _ _).trans h.out.cores, (queues_chunkPlaced _ _ _).trans h.out.queues, ?_⟩
  · rw [otherChs_chunkPlaced _ _ _ j hj, h.out.getCh]
  · rw [getCh_chunkPlaced, h.out.getCh]

omit hecc in
/-- Bytes of a request not fetched yet change no memory. -/
theorem Arrived.chunk_early (hn : (getCh (kId k) s).req = none ∨ chAhead k s ≠ 0) : (chunkPlaced (kId k) c u).mem = s.mem := by
  obtain ⟨-, -, -, -, hseq, -, -⟩ := h.fields
  refine (mem_chunkPlaced ?_).trans h.out.mem
  rw [h.out.getCh, hseq]
  exact hn.imp_right fun ha => mt (kSeq_eq_iff k s).1 ha

/-- Bytes of the request that runs are at their place. -/
theorem Arrived.chunk_bytes (hwf : Memory.wf s.mem = true) {r : ChReq} (hr : (getCh (kId k) s).req = some r) (ha : chAhead k s = 0)
    (hop : (curPlan (kId k) r (kStep k) s).op ≠ .segments) : let x := getCh (kId k) s
    let w := coreStore (homeOf x.desc (rxOf x c).home) + landAt (kId k) r (curPlan (kId k) r (kStep k) s) (chKept x c) s + k.addr.toNat
    (∀ j < c.data.length, memGet (w + j) (chunkPlaced (kId k) c u) = c.data.getD j 0) ∧
      MemOutside w c.data.length s (chunkPlaced (kId k) c u) := by
  obtain ⟨-, -, hstep, -, hseq, -, haddr⟩ := h.fields
  have hplan := fun n => curPlan_congr h.out.cab (h.out.getCh (kId k)) r n
  have hland := fun pl rx => landAt_congr h.out.cab (h.out.getCh (kId k)) r pl rx
  have hbytes := bytes_chunkPlaced (id := kId k) (k := c) (s := u) (h.out.mem.symm ▸ hwf) (h.out.ecc.trans hecc)
    (by rw [h.out.getCh]; exact hr) (by rw [h.out.getCh, hseq]; exact (kSeq_eq_iff k s).2 ha) (by rw [hplan, hstep]; exact hop)
  dsimp only at hbytes
  rw [h.out.getCh, hstep, hplan, hland, haddr] at hbytes
  exact ⟨hbytes.1, fun z hz => (hbytes.2 z hz).trans (memGet_of_mem h.out.mem z)⟩

variable (ha : anyPort s = some q) (hy : s.fab.ports[q]? = some y)
include ha hy

/-- A chunk's packet is acknowledged, unless it completes a chunk whose check does not match. -/
theorem Arrived.chunk_acked (hgood : ¬(chWhole (getCh (kId k) s) c = true ∧ chRight (getCh (kId k) s) c = false)) :
    let t := chunkIn (kId k) c u
    ItemOn q (.ack k.src [(⟨k.core, k.seqno⟩, 1)]) t ∧ OtherChs (kId k) s t ∧ t.cores = s.cores ∧ t.queues = s.queues ∧
    getCh (kId k) t = { getCh (kId k) s with rx := putRx (getCh (kId k) s).rx (chKept (getCh (kId k) s) c) } ∧
    t.mem = (chunkPlaced (kId k) c u).mem := by
  obtain ⟨hans, hothers, hcores, hqueues, hch⟩ := h.chunk_placed hecc
  have heq := chunkIn_eq (kId k) c u
  dsimp only at heq
  rw [h.out.getCh, if_neg (by revert hgood; cases chWhole _ c <;> cases chRight _ c <;> simp)] at heq
  generalize chunkPlaced (kId k) c u = w at *
  generalize hv : (if (chWhole (getCh (kId k) s) c && chRight (getCh (kId k) s) c) = true then
    countEvt ctrCol 0x73 (((chRecord (getCh (kId k) s) c).got + 255) / 256) (countEvt ctrCol 0x72 1 w) else w) = v at heq
  have hview : ∀ {β : Type} {φ : State → β}, Quiet φ → φ v = φ w := fun qt => by
    rw [← hv]
    exact ite_view ((qt.countEvt _ _ _ _).trans (qt.countEvt _ _ _ w)) rfl
  have hregs : RegsKept [] w v := by
    rw [← hv]
    exact .ite (.refl [] w) ((regsKept_countEvt [] _ _ _ w).trans (regsKept_countEvt [] _ _ _ _))
  obtain ⟨hon, -, hi⟩ := h.acked (hans.of_fab (hview quiet_fab) (sameLinks_of_kept hregs (by simp))) ha hy
  have hside : chSideView (chunkIn (kId k) c u) = chSideView w := by
    rw [heq]
    exact hi.chSide.trans (hview quiet_chSideView)
  obtain ⟨hcol, hmem, hcores', hqueues'⟩ := chSideView_eq_iff.1 hside
  intro t
  refine ⟨by rw [← heq] at hon; exact hon, fun j hj => (getCh_congr hcol j).trans (hothers j hj), hcores'.trans hcores,
    hqueues'.trans hqueues, (getCh_congr hcol _).trans hch, hmem⟩

end

/-! The check does not match. -/

theorem ReqEnds.of_queues {id : Nat} {st : BitVec 8} {d : Word} {s v t : State} (h : ReqEnds id st d v t)
    (hreq : (getCh id v).req = (getCh id s).req) (hdesc : (getCh id v).desc = (getCh id s).desc) (hq : v.queues = s.queues) :
    ReqEnds id st d s t := by
  unfold ReqEnds at *
  rwa [hreq, chComm, hdesc, getQueue_congr hq] at h

theorem OtherChs.trans {id : Nat} {s v t : State} (h : OtherChs id s v) (h' : OtherChs id v t) : OtherChs id s t :=
  fun j hj => (h' j hj).trans (h j hj)

/-- The record of a chunk whose check does not match is dropped, with its NAK, its event and its fault. -/
def chunkDropped (id : Nat) (k : Packet) (c : ChRx) (s : State) : State :=
  modCh id (fun y => { y with rx := y.rx.filter fun z => z != c })
    (softFault 0x12 (0x1000 + homeOf (getCh id s).desc c.home) 0 0
      (nakPkt k stCHECK 0 (colEvt eCOL_EVENT_CRC (getCh id s).part s)))

theorem chunkBad_eq (id : Nat) (k : Packet) (c : ChRx) (s : State) : chunkBad id k c s =
    if (getCh id s).req.isSome ∧ chRuns (getCh id s) then chFail id stCHECK (chunkDropped id k c s) else chunkDropped id k c s := rfl

section
variable {p q : Nat} {k c : Packet} {y : Port} {s u v : State} (h : Arrived p k c s u) (hv : Answerable p k s v)
  (ha : anyPort s = some q) (hy : s.fab.ports[q]? = some y)
include h hv ha hy

theorem Arrived.dropped (r : ChRx) : let t := chunkDropped (kId k) c r v
    ItemOn q (.nak k.src ⟨k.core, k.seqno⟩ stCHECK 0) t ∧ fget colB fCOL_EVENT_CRC t = 1 ∧ OtherChs (kId k) v t ∧
    t.queues = v.queues ∧ t.mem = v.mem ∧
    getCh (kId k) t = { getCh (kId k) v with rx := (getCh (kId k) v).rx.filter fun z => z != r } := by
  have hlink : Answerable p k s (colEvt eCOL_EVENT_CRC (getCh (kId k) v).part v) := hv.colEvt (by decide) (by decide) _
  obtain ⟨hon, -, hi⟩ := h.naked hlink ha hy stCHECK 0
  have hbit := (hi.fget colB fCOL_EVENT_CRC).trans (fget_colEvt (e := eCOL_EVENT_CRC) (by decide) _ v)
  have hside := hi.chSide.trans (quiet_chSideView.colEvt eCOL_EVENT_CRC (getCh (kId k) v).part v)
  unfold chunkDropped
  generalize nakPkt c stCHECK 0 (colEvt eCOL_EVENT_CRC (getCh (kId k) v).part v) = w at hon hbit hside ⊢
  obtain ⟨hcol, hmem, -, hqueues⟩ := chSideView_eq_iff.1
    ((quiet_chSideView.softFault 0x12 (0x1000 + homeOf (getCh (kId k) v).desc r.home) 0 0 w).trans hside)
  have hfab := quiet_fab.softFault 0x12 (0x1000 + homeOf (getCh (kId k) v).desc r.home) 0 0 w
  rw [← fget_softFault_col (by decide) 0x12 (0x1000 + homeOf (getCh (kId k) v).desc r.home) 0 0] at hbit
  generalize softFault 0x12 (0x1000 + homeOf (getCh (kId k) v).desc r.home) 0 0 w = z at hcol hmem hqueues hfab hbit ⊢
  refine ⟨?_, hbit, fun j hj => ?_, hqueues, hmem, ?_⟩
  · exact itemOn_of_portItems (congrArg (fun f : Fab => f.ports.map Port.items) hfab) hon
  · rw [getCh_modCh_ne hj, getCh_congr hcol]
  · rw [getCh_modCh_same, getCh_congr hcol]

end

section
variable {p q : Nat} {k c : Packet} {y : Port} {s u : State} (h : Arrived p k c s u) (hecc : s.ecc = [])
  (ha : anyPort s = some q) (hy : s.fab.ports[q]? = some y)
include h hecc ha hy

/-- A packet that completes a chunk whose check does not match (R279, R285). -/
theorem Arrived.chunk_mismatch (hw : chWhole (getCh (kId k) s) c = true) (hr : chRight (getCh (kId k) s) c = false) :
    let x := getCh (kId k) s
    let t := chunkIn (kId k) c u
    ItemOn q (.nak k.src ⟨k.core, k.seqno⟩ stCHECK 0) t ∧ fget colB fCOL_EVENT_CRC t = 1 ∧ OtherChs (kId k) s t ∧
    (∀ r, x.req = some r → chRuns x = true → (getCh (kId k) t).st = 4 ∧ (getCh (kId k) t).req = none ∧
      fget colB fCOL_LAST_STALL_STATUS t = stCHECK.toNat ∧ ReqEnds (kId k) stCHECK (failDetail r.step x.rank) s t) ∧
    t.mem = (chunkPlaced (kId k) c u).mem ∧
    (x.req = none ∨ chRuns x = false → (getCh (kId k) t).st = x.st ∧ (getCh (kId k) t).req = x.req) := by
  obtain ⟨hans, hothers, -, hqueues, hch⟩ := h.chunk_placed hecc
  intro x t
  have heq : t = if x.req.isSome ∧ chRuns x then chFail (kId k) stCHECK (chunkDropped (kId k) c (chKept x c) (chunkPlaced (kId k) c u))
      else chunkDropped (kId k) c (chKept x c) (chunkPlaced (kId k) c u) := by
    refine (chunkIn_eq (kId k) c u).trans ?_
    rw [h.out.getCh, if_pos (by rw [hw, hr]; rfl), chunkBad_eq, hch]
    rfl
  obtain ⟨hon, hbit, hothers', hqueues', hmem, hch'⟩ := h.dropped hans ha hy (chKept x c)
  rw [hch] at hch'
  generalize chunkDropped (kId k) c (chKept x c) (chunkPlaced (kId k) c u) = v at *
  have hst : (getCh (kId k) v).st = x.st := by rw [hch']
  have hreq : (getCh (kId k) v).req = x.req := by rw [hch']
  have hdesc : (getCh (kId k) v).desc = x.desc := by rw [hch']
  have hrank : (getCh (kId k) v).rank = x.rank := by rw [hch']
  have hstep : ∀ r, x.req = some r → chStep (getCh (kId k) v) = r.step := fun r hx => by rw [chStep, hreq, hx]
  clear_value t
  by_cases hrun : x.req.isSome ∧ chRuns x
  · rw [if_pos hrun, chFail] at heq
    obtain rfl := heq
    have hother := otherChs_chStall (kId k) stCHECK (failDetail (chStep (getCh (kId k) v)) (getCh (kId k) v).rank)
      (getCh (kId k) v).rank true v
    have hends := reqEnds_chStall (kId k) stCHECK (failDetail (chStep (getCh (kId k) v)) (getCh (kId k) v).rank)
      (getCh (kId k) v).rank true v
    refine ⟨itemOn_of_portItems (chStall_view stallBlind_portItems (fun _ _ => rfl) _ _ _ _ _) hon,
      by rw [fget_chStall_crc]; exact hbit, (hothers.trans hothers').trans hother, fun r hx _ => ⟨?_, ?_, fget_chStall_status .., ?_⟩,
      ?_, fun hno => ?_⟩
    · rw [getCh_chStall]
    · rw [getCh_chStall]
      rfl
    · have hdetail : failDetail r.step x.rank = failDetail (chStep (getCh (kId k) v)) (getCh (kId k) v).rank := by
        rw [hstep r hx, hrank]
      rw [hdetail]
      exact hends.of_queues hreq hdesc (hqueues'.trans hqueues)
    · rw [mem_chStall]
      exact hmem
    · obtain ⟨hsome, hruns⟩ := hrun
      rcases hno with hno | hno
      · rw [hno] at hsome
        cases hsome
      · rw [hno] at hruns
        cases hruns
  · rw [if_neg hrun] at heq
    obtain rfl := heq
    refine ⟨hon, hbit, hothers.trans hothers', fun r hx hc => absurd ⟨by rw [hx]; rfl, hc⟩ hrun, hmem, fun _ => ⟨hst, hreq⟩⟩

end

end Sys2Proof.Machine
end

section
/-! SUPPORT. A STALL notice at its chamber (R285): what the end of a complete request leaves before the stall. -/

namespace Sys2Proof.Machine

/-! The end of a step, by what it does not look at. -/

/-- Every chamber but one. -/
def otherChs (id : Nat) (s : State) : Nat → Chamber := fun j => if j = id then Chamber.off else getCh j s

theorem otherChs_eq_iff {id : Nat} {s t : State} : otherChs id t = otherChs id s ↔ OtherChs id s t := by
  refine ⟨fun h j hj => ?_, fun h => funext fun j => ?_⟩
  · simpa only [otherChs, if_neg hj] using congrFun h j
  · unfold otherChs
    split
    · rfl
    · next hj => exact h j hj

theorem otherChs_modCh (id : Nat) (f : Chamber → Chamber) (s : State) : otherChs id (modCh id f s) = otherChs id s :=
  otherChs_eq_iff.2 fun _ hj => getCh_modCh_ne hj f s

theorem stepBlind_otherChs (id : Nat) : StepBlind (otherChs id) where
  stall := {
    quiet := ⟨fun _ _ => rfl, fun _ _ => rfl, fun _ _ => rfl, fun _ _ => rfl, fun _ _ => rfl, fun _ _ => rfl, fun _ _ => rfl⟩
    send := ⟨fun _ _ => rfl, fun _ _ => rfl, fun _ _ => rfl, fun _ _ => rfl, fun _ _ _ _ => rfl⟩
    queues := fun _ _ => rfl
    waiters := fun _ _ => rfl }
  mem := fun _ _ => rfl
  armed := fun _ _ => rfl
  stool := fun _ _ => rfl

theorem stepBlind_portItems : StepBlind portItems := ⟨stallBlind_portItems, fun _ _ => rfl, fun _ _ => rfl, fun _ _ => rfl⟩

section
variable {β : Type} {φ : State → β} (b : StepBlind φ) {id : Nat} (hid : ∀ f s, φ (modCh id f s) = φ s)
include b hid

theorem retireReq_view (s : State) : φ (retireReq id s) = φ s :=
  (b.stall.send.stallNotices id _).trans (endReq_view b.stall hid _ _ s)

theorem nextStep_view (r : ChReq) (s : State) : φ (nextStep id r s) = φ s := by
  unfold nextStep toCredited
  exact ite_view ((b.stall.quiet.colEvt _ _ _).trans ((hid _ _).trans (hid _ s))) (hid _ s)

theorem stepDone_view (r : ChReq) (pl : ChPlan) (s : State) : φ (stepDone id r pl s) = φ s := by
  have hreduce : φ (if isReduce pl.op = true then finishReduce id r pl
      (decide (stepCount s.cab.cur (getCh id s) r.bytes ≤ r.step + 1) || !isReduce (curPlan id r (r.step + 1) s).op) s else s) = φ s :=
    ite_view (finishReduce_view b hid _ _ _ s) rfl
  unfold stepDone
  dsimp only
  refine ite_view (chFail_view b.stall hid _ s) (ite_view ?_ (ite_view ?_ (ite_view ?_ ?_)))
  · exact (chFail_view b.stall hid _ _).trans hreduce
  · exact (retireReq_view b hid _).trans hreduce
  · exact (finishReq_view b.stall hid r _).trans hreduce
  · exact (nextStep_view b hid r _).trans hreduce

end

/-! The chamber at the end of its request. -/

theorem getCh_chFail (id : Nat) (st : BitVec 8) (s : State) : getCh id (chFail id st s) = { chEnded (getCh id s) with st := 4 } :=
  getCh_chStall ..

theorem getCh_finishReq (id : Nat) (r : ChReq) (s : State) :
    (getCh id (finishReq id r s)).req = none ∧ (getCh id (finishReq id r s)).st = 1 := by
  have hended : ∀ st d, (getCh id (endReq id st d s)).req = none := fun st d => by
    rw [getCh_endReq]
    rfl
  unfold finishReq
  dsimp only
  rw [getCh_congr (forAll_view State.col _ (fun p u => sendBlind_col.chSend id 0 p 0x7FF _ [] u) _ _), getCh_modCh_same]
  refine ⟨?_, rfl⟩
  split
  · exact hended _ _
  · rw [getCh_congr (quiet_col.colEvt _ _ _)]
    exact hended _ _

/-- What holds of both branches holds of a choice. -/
theorem ite_pred {α : Type} {P : α → Prop} {c : Prop} [Decidable c] {x y : α} (hx : P x) (hy : P y) : P (if c then x else y) := by
  split
  · exact hx
  · exact hy

/-- The request of a chamber is over: the chamber is READY, or it has stopped. -/
def ReqOver (id : Nat) (s : State) : Prop := (getCh id s).req = none ∧ ((getCh id s).st = 1 ∨ (getCh id s).st = 4)

theorem reqOver_chFail (id : Nat) (st : BitVec 8) (s : State) : ReqOver id (chFail id st s) := by
  rw [ReqOver, getCh_chFail]
  exact ⟨rfl, .inr rfl⟩

theorem reqOver_finishReq (id : Nat) (r : ChReq) (s : State) : ReqOver id (finishReq id r s) :=
  ⟨(getCh_finishReq id r s).1, .inl (getCh_finishReq id r s).2⟩

/-- The last step of a request that is not retiring ends it, or stops the chamber. -/
theorem reqOver_stepDone {id : Nat} {r : ChReq} {s : State} (pl : ChPlan) (h5 : (getCh id s).st ≠ 5)
    (hlast : stepCount s.cab.cur (getCh id s) r.bytes ≤ r.step + 1) : ReqOver id (stepDone id r pl s) := by
  unfold stepDone
  dsimp only
  rw [if_neg h5, if_pos (decide_eq_true hlast)]
  exact ite_pred (reqOver_chFail id _ _) (ite_pred (reqOver_chFail id _ _) (reqOver_finishReq id r _))

/-- With nothing to send, nothing is sent. -/
theorem sendStep_idle {id : Nat} {s : State} (h : ∀ r, (getCh id s).req = some r → r.going = false ∨ r.unsent = []) :
    sendStep id s = s := by
  unfold sendStep
  split
  · rfl
  · next r hr =>
    rcases h r hr with hg | hu
    · rw [hg]
      rfl
    · rw [hu]
      exact ite_view (φ := fun u : State => u) rfl rfl

theorem lastReady_some {id : Nat} {s : State} (h : lastReady id s = true) : ∃ r, (getCh id s).req = some r ∧
    stepCount s.cab.cur (getCh id s) r.bytes ≤ r.step + 1 ∧ stepReady id r s = true ∧ r.unsent = [] := by
  unfold lastReady at h
  split at h
  · cases h
  · next r hr =>
    rw [Bool.and_eq_true, decide_eq_true_eq] at h
    refine ⟨r, hr, h.1, h.2, ?_⟩
    have hready := h.2
    unfold stepReady at hready
    simp only [Bool.and_eq_true, List.isEmpty_iff] at hready
    exact hready.1.1.1.2

/-- A request whose last step is complete ends by it, but in the safe state. -/
theorem finishLast_ready {id : Nat} {s : State} (h : lastReady id s = true) (hr : chRuns (getCh id s) = true) :
    finishLast id s = s ∨ ∃ r, (getCh id s).req = some r ∧ stepCount s.cab.cur (getCh id s) r.bytes ≤ r.step + 1 ∧
      finishLast id s = stepDone id r (curPlan id r r.step s) s := by
  obtain ⟨r, hreq, hlast, hready, hunsent⟩ := lastReady_some h
  have hidle : sendStep id s = s := sendStep_idle fun v hv => by
    rw [hreq] at hv
    cases hv
    exact .inr hunsent
  unfold finishLast stepCompleteOp
  rw [if_pos ⟨h, hr⟩]
  split
  · exact .inl rfl
  · refine .inr ⟨r, hreq, hlast, ?_⟩
    dsimp only
    rw [hidle, hreq]
    exact if_pos hready

theorem chRuns_ne_retiring {x : Chamber} (h : chRuns x = true) : x.st ≠ 5 := by
  rintro h5
  rw [chRuns, h5] at h
  exact absurd h (by decide)

/-- What the end of a complete request leaves. -/
theorem finishLast_view {β : Type} {φ : State → β} (b : StepBlind φ) {id : Nat} (hid : ∀ f s, φ (modCh id f s) = φ s) {s : State}
    (h : lastReady id s = true) (hr : chRuns (getCh id s) = true) : φ (finishLast id s) = φ s := by
  obtain heq | ⟨r, -, -, heq⟩ := finishLast_ready h hr
  · rw [heq]
  · rw [heq]
    exact stepDone_view b hid r _ s

theorem finishLast_not_ready {id : Nat} {s : State} (h : lastReady id s = false ∨ chRuns (getCh id s) = false) :
    finishLast id s = s := by
  refine if_neg fun hn => ?_
  obtain ⟨h1, h2⟩ := hn
  rcases h with h | h
  · rw [h1] at h; cases h
  · rw [h2] at h; cases h

end Sys2Proof.Machine
end

section
/-! SUPPORT. STALL notices and DONE tokens at their chamber (R277, R285). -/

namespace Sys2Proof.Machine

/-! Whether a step is complete looks at the chamber, the home cores and the cells that wait for room. -/

/-- The cells that wait for room in the egress queues. -/
def portBacklogs (s : State) : List (List (List EgCell)) := s.fab.ports.map Port.backlog

theorem portBacklogs_of_ports {s t : State} (hl : t.fab.ports.length = s.fab.ports.length)
    (h : ∀ i, (getPort i t).backlog = (getPort i s).backlog) : portBacklogs t = portBacklogs s := by
  refine List.ext_getElem (by simp only [portBacklogs, List.length_map, hl]) fun i hi hi' => ?_
  have hp := h i
  simp only [portBacklogs, List.length_map] at hi hi'
  simp only [portBacklogs, List.getElem_map]
  rw [getPort, getPort, List.getD_eq_getElem _ _ hi, List.getD_eq_getElem _ _ hi'] at hp
  exact hp

theorem CellsOut.backlogs {p : Nat} {k : Packet} {s u : State} (h : CellsOut p k s u) : portBacklogs u = portBacklogs s :=
  portBacklogs_of_ports h.length fun i => (h.egress i).2

theorem ItemsOnly.backlogs {s t : State} (h : ItemsOnly s t) : portBacklogs t = portBacklogs s :=
  portBacklogs_of_ports h.length fun i => by
    have hp := h.port i
    unfold SameButItems at hp
    rw [hp]

theorem chBacklog_eq (id step : Nat) (s : State) : chBacklog id step s = (portBacklogs s).any fun b => b.any fun l => l.any fun
    | .payload _ _ k => k.kind == 4 && bitsOf k.kspec.toNat 63 52 == id && bitsOf k.kspec.toNat 25 15 == step
    | .probe _ _ => false := by
  rw [portBacklogs, List.any_map]
  rfl

theorem lastReady_congr {id : Nat} {s t : State} (hcab : t.cab = s.cab) (hch : getCh id t = getCh id s) (hcores : t.cores = s.cores)
    (hhand : t.handoffs = s.handoffs) (hmgmt : mgmtPlane t = mgmtPlane s) (hback : portBacklogs t = portBacklogs s) :
    lastReady id t = lastReady id s := by
  have hcore : ∀ n, getCore n t = getCore n s := fun n => by rw [getCore, getCore, hcores]
  have hcan : ∀ n, hoCan n t = hoCan n s := fun n => by
    unfold hoCan getHo hoInReset
    simp only [hcore, hhand, hmgmt]
  have hready : ∀ r, stepReady id r t = stepReady id r s := fun r => by
    simp only [stepReady, hch, curPlan_congr hcab hch, chBacklog_eq, hback, vxFree, hcore, hcan]
  simp only [lastReady, hch, hcab, hready]

theorem kId_lt (k : Packet) : kId k < 4096 := Nat.mod_lt _ (by decide)

theorem ChStalled.of_side {id : Nat} {st : BitVec 8} {d : Word} {raiser : Nat} {s v t : State} (h : ChStalled id st d raiser v t)
    (hcol : v.col = s.col) (hmem : v.mem = s.mem) (hq : v.queues = s.queues) : ChStalled id st d raiser s t := by
  have hch := getCh_congr hcol
  unfold ChStalled ReqEnds OtherChs at *
  simpa only [hch, hmem, getQueue_congr hq] using h

section
variable {p q : Nat} {k c : Packet} {y : Port} {s u : State} (h : Arrived p k c s u)
  (ha : anyPort s = some q) (hy : s.fab.ports[q]? = some y)
include h ha hy

/-- The answer to a packet that changes nothing of a chamber at once. -/
theorem Arrived.ack_side : let t := ackPkt c u
    ItemOn q (.ack k.src [(⟨k.core, k.seqno⟩, 1)]) t ∧ chSideView t = chSideView s ∧
    lastReady (kId k) t = lastReady (kId k) s := by
  obtain ⟨hon, -, hi⟩ := h.acked h.out.answerable ha hy
  have hside := hi.chSide.trans h.out.chSide
  obtain ⟨hcol, -, hcores, -⟩ := chSideView_eq_iff.1 hside
  have hcab : (ackPkt c u).cab = s.cab := by rw [hi.rest]; exact h.out.cab
  have hhand : (ackPkt c u).handoffs = s.handoffs := by rw [hi.rest]; exact h.out.handoffs
  have hmgmt : mgmtPlane (ackPkt c u) = mgmtPlane s := (hi.fget _ _).trans (h.out.fget (by decide))
  exact ⟨hon, hside, lastReady_congr hcab (getCh_congr hcol _) hcores hhand hmgmt (hi.backlogs.trans h.out.backlogs)⟩

/-- A STALL notice at a chamber that has stopped. -/
theorem Arrived.notice_stopped (hr : chRuns (getCh (kId k) s) = false) : let t := noticeIn (kId k) c u
    ItemOn q (.ack k.src [(⟨k.core, k.seqno⟩, 1)]) t ∧ chSideView t = chSideView s := by
  obtain ⟨hon, hside, -⟩ := h.ack_side ha hy
  obtain ⟨hcol, -, -, -⟩ := chSideView_eq_iff.1 hside
  unfold noticeIn
  generalize ackPkt c u = w at hon hside hcol ⊢
  have hr' : chRuns (getCh (kId k) w) = false := by rw [getCh_congr hcol]; exact hr
  dsimp only
  rw [finishLast_not_ready (.inr hr'), hr']
  exact ⟨hon, hside⟩

/-- A STALL notice stops a chamber whose request goes on (R285). -/
theorem Arrived.notice_stops (hr : chRuns (getCh (kId k) s) = true) (hl : lastReady (kId k) s = false) :
    let t := noticeIn (kId k) c u
    ItemOn q (.ack k.src [(⟨k.core, k.seqno⟩, 1)]) t ∧
    ChStalled (kId k) stSTALLED (failDetail (chStep (getCh (kId k) s)) (kRank k)) (kRank k) s t := by
  obtain ⟨-, -, -, hrank, -, -, -⟩ := h.fields
  obtain ⟨hon, hside, hready⟩ := h.ack_side ha hy
  obtain ⟨hcol, hmem, -, hqueues⟩ := chSideView_eq_iff.1 hside
  unfold noticeIn
  generalize ackPkt c u = w at hon hside hready hcol hmem hqueues ⊢
  have hch := getCh_congr hcol (kId k)
  dsimp only
  rw [finishLast_not_ready (.inl (hready.trans hl)), hch, hr, if_pos rfl, hrank]
  exact ⟨itemOn_of_portItems (chStall_view stallBlind_portItems (fun _ _ => rfl) _ _ _ _ w) hon,
    (chStall_spec _ _ _ _ _ w (kId_lt k)).of_side hcol hmem hqueues⟩

/-- A STALL notice comes after a request whose last step is complete has ended (R285). -/
theorem Arrived.notice_ends (hr : chRuns (getCh (kId k) s) = true) (hl : lastReady (kId k) s = true) :
    let t := noticeIn (kId k) c u
    ItemOn q (.ack k.src [(⟨k.core, k.seqno⟩, 1)]) t ∧ OtherChs (kId k) s t ∧ ReqOver (kId k) t := by
  obtain ⟨hon, hside, hready⟩ := h.ack_side ha hy
  obtain ⟨hcol, -, -, -⟩ := chSideView_eq_iff.1 hside
  have hothers : OtherChs (kId k) s (ackPkt c u) := fun j _ => getCh_congr hcol j
  unfold noticeIn
  generalize ackPkt c u = w at hon hready hcol hothers ⊢
  have hr' : chRuns (getCh (kId k) w) = true := by rw [getCh_congr hcol]; exact hr
  have hl' : lastReady (kId k) w = true := hready.trans hl
  have hitems : portItems (finishLast (kId k) w) = portItems w := finishLast_view stepBlind_portItems (fun _ _ => rfl) hl' hr'
  have hother : otherChs (kId k) (finishLast (kId k) w) = otherChs (kId k) w :=
    finishLast_view (stepBlind_otherChs _) (otherChs_modCh _) hl' hr'
  have hover : chRuns (getCh (kId k) (finishLast (kId k) w)) = false → ReqOver (kId k) (finishLast (kId k) w) := fun hno => by
    obtain heq | ⟨r, -, hlast, heq⟩ := finishLast_ready hl' hr'
    · rw [heq, hr'] at hno
      cases hno
    · rw [heq]
      exact reqOver_stepDone _ (chRuns_ne_retiring hr') hlast
  generalize finishLast (kId k) w = v at hitems hother hover ⊢
  have hon' := itemOn_of_portItems hitems hon
  have hothers' := hothers.trans (otherChs_eq_iff.1 hother)
  dsimp only
  split
  · exact ⟨itemOn_of_portItems (chStall_view stallBlind_portItems (fun _ _ => rfl) _ _ _ _ v) hon',
      hothers'.trans (otherChs_chStall _ _ _ _ _ v), by rw [ReqOver, getCh_chStall]; exact ⟨rfl, .inr rfl⟩⟩
  · next hno => exact ⟨hon', hothers', hover (by simpa using hno)⟩

/-- A DONE token gives a credit back (R277). -/
theorem Arrived.token (hidle : ∀ r, (getCh (kId k) s).req = some r → r.going = false ∨ r.unsent = []) :
    let t := tokenIn (kId k) c u
    ItemOn q (.ack k.src [(⟨k.core, k.seqno⟩, 1)]) t ∧ OtherChs (kId k) s t ∧ t.mem = s.mem ∧ t.cores = s.cores ∧ t.queues = s.queues ∧
    getCh (kId k) t = { getCh (kId k) s with
      spent := (getCh (kId k) s).spent.filter fun v => v != 2 * kRank k + (kSeq k).toNat % 2 } := by
  obtain ⟨-, -, -, hrank, hseq, -, -⟩ := h.fields
  have hch := h.out.getCh
  obtain ⟨-, hmem, hcores, hqueues⟩ := chSideView_eq_iff.1 h.out.chSide
  unfold tokenIn
  rw [hrank, hseq, sendStep_idle (by rw [getCh_modCh_same, hch]; exact hidle)]
  have hlinks := sameLinks_modCh (kId k) (fun y => { y with
    spent := y.spent.filter fun v => v != 2 * kRank k + (kSeq k).toNat % 2 }) u
  obtain ⟨hon, -, hi⟩ := h.acked (h.out.answerable.of_fab (v := modCh (kId k) (fun y => { y with
    spent := y.spent.filter fun v => v != 2 * kRank k + (kSeq k).toNat % 2 }) u) rfl hlinks) ha hy
  obtain ⟨hcol', hmem', hcores', hqueues'⟩ := chSideView_eq_iff.1 hi.chSide
  refine ⟨hon, fun j hj => ?_, hmem'.trans hmem, hcores'.trans hcores, hqueues'.trans hqueues, ?_⟩
  · rw [getCh_congr hcol', getCh_modCh_ne hj, hch]
  · rw [getCh_congr hcol', getCh_modCh_same, hch]

end

end Sys2Proof.Machine
end

section
/-! PROOFS. Chamber packets (R155, R274 to R279, R285). -/

namespace Sys2Proof.Machine

/-- The command that takes a chamber packet by its step. -/
def chPktInstr (p : Fin 32) (k : Packet) : Instr :=
  if kStep k = 0x7FE then .stallNotice p k else if kStep k = 0x7FF then .doneToken p k else .chamberChunkRx p k

theorem kStep_lt (k : Packet) : kStep k < 0x800 := Nat.mod_lt _ (by decide)

theorem exec_chPktInstr (p : Fin 32) {k : Packet} (hk : k.kind = 4) (s : State) :
    exec (chPktInstr p k) s = .next (pktIn p.val k 0 s) := by
  have hkind : (k.kind == 4) = true := beq_iff_eq.2 hk
  unfold chPktInstr
  split
  · next h =>
    show Host.Outcome.next (pktOfKind p.val k (k.kind == 4 && kStep k == 0x7FE) s) = _
    rw [hkind, h]
    rfl
  · split
    · next h =>
      show Host.Outcome.next (pktOfKind p.val k (k.kind == 4 && kStep k == 0x7FF) s) = _
      rw [hkind, h]
      rfl
    · next h1 h2 =>
      have hlt := kStep_lt k
      show Host.Outcome.next (pktOfKind p.val k (k.kind == 4 && decide (kStep k < 0x7FE)) s) = _
      rw [hkind, decide_eq_true (by omega)]
      rfl

/-- A chamber packet that is taken leaves what its operation leaves. -/
theorem goes_chamber {p : Fin 32} {k c : Packet} {s : State} (h : PktIn p.val k c s) (hk : k.kind = 4) (early : Nat)
    {P : State → Prop} (ht : P (rxChamber p.val c (pktTaken p.val k s))) :
    ∀ i ∈ [Instr.packetRx p k early, chPktInstr p k], Goes i s P := by
  simp only [List.forall_mem_cons, List.not_mem_nil, false_imp_iff, implies_true, and_true]
  exact ⟨⟨_, rfl, by rw [pktIn_taken h, h.arrived.chamber hk]; exact ht⟩,
    _, exec_chPktInstr p hk s, by rw [pktIn_taken h, h.arrived.chamber hk]; exact ht⟩

theorem Arrived.rxOf_eq {p : Nat} {k c : Packet} {s u : State} (h : Arrived p k c s u) (x : Chamber) : rxOf x c = rxOf x k := by
  obtain ⟨l, rfl⟩ := h.clear
  rfl

/-- Settles O57: a chamber packet by the checks that it passes, then by its step. -/
theorem chamberMessages : Obligations.ChamberMessages := by
  unfold Obligations.ChamberMessages
  intro p k c early q y s hin ha hy hk hwf hecc id x st m a tag ahead other old Naked Acked Same own i hi
  have h := hin.arrived
  have hgo : ∀ {P : State → Prop}, P (rxChamber p.val c (pktTaken p.val k s)) → Goes i s P := fun ht =>
    goes_chamber hin hk early ht i hi
  have hsame : ∀ {t}, chSideView t = chSideView s → Same t := fun ht => chSideView_eq_iff.1 ht
  refine ⟨fun hst => ?_, fun hst ho => ?_, fun hst ho hold => ?_, fun hst ho hold hstep => ?_, fun hst ho hold hstep => ?_,
    fun hst ho hold hstep hidle => ?_⟩
  · obtain ⟨hon, hbit, hside, hfreed⟩ := h.refused_spec ha hy hst
    exact hgo ⟨hon, hbit, hsame hside, hfreed⟩
  · obtain ⟨hon, hbit, hside, hfreed⟩ := h.moved_spec ha hy hst ho
    exact hgo ⟨hon, hbit, hsame hside, hfreed⟩
  · obtain ⟨hbit, hside, hfreed⟩ := h.stale_spec hst ho hold
    exact hgo ⟨hbit, hsame hside, hfreed⟩
  · obtain ⟨-, -, hchunk⟩ := h.chamber_taken hst ho hold
    obtain ⟨hnone, hsome⟩ := hchunk hstep
    obtain ⟨-, -, -, -, -, hlast, haddr⟩ := h.fields
    intro noSlot o got data total whole right rec'
    have hwhole : chWhole x c = true ↔ whole := by
      unfold chWhole chRecord
      rw [beq_iff_eq, h.rxOf_eq, hlast, haddr]
    have hright : chRight x c = true ↔ right := by
      unfold chRight chRecord
      rw [beq_iff_eq, h.rxOf_eq, haddr]
    have hrec : chKept x c = rec' := by
      have harrived : (chWhole x c && chRight x c) = decide (whole ∧ right) := by
        rw [Bool.eq_iff_iff, Bool.and_eq_true, decide_eq_true_iff, hwhole, hright]
      unfold chKept chRecord
      rw [harrived, h.rxOf_eq, hlast, haddr]
    refine ⟨fun hno => hgo ?_, fun hslot hcap hsunk => hgo ?_, fun hslot hcap hsunk => ?_⟩
    · obtain ⟨hon, hside⟩ := h.naked_spec ha hy stLENGTH
      rw [hnone hno]
      exact ⟨hon, hsame hside⟩
    · obtain ⟨hon, hside⟩ := h.naked_spec ha hy stDENIED
      rw [hsome hslot hcap, if_pos hsunk]
      exact ⟨hon, hsame hside⟩
    · rw [hsunk] at hsome
      have hin' : rxChamber p.val c (pktTaken p.val k s) = chunkIn id c (pktTaken p.val k s) := hsome hslot hcap
      refine ⟨fun hgood => hgo ?_, fun hw hr => hgo ?_⟩ <;> rw [hin']
      · have hgood' : ¬(chWhole x c = true ∧ chRight x c = false) := by
          rw [hwhole, ← Bool.not_eq_true, hright]
          exact hgood
        obtain ⟨hon, hothers, hcores, hqueues, hch, hmem⟩ := h.chunk_acked hecc ha hy hgood'
        rw [hrec] at hch
        refine ⟨hon, hothers, hcores, hqueues, hch, fun hn => hmem.trans (h.chunk_early hn), fun r hreq hahead hop => ?_⟩
        obtain ⟨hin, hout⟩ := h.chunk_bytes hecc hwf hreq hahead hop
        rw [hrec, h.rxOf_eq] at hin hout
        exact ⟨fun j hj => (memGet_of_mem hmem _).trans (hin j hj), fun z hz => (memGet_of_mem hmem z).trans (hout z hz)⟩
      · have hr' : chRight x c = false := by
          rw [← Bool.not_eq_true, hright]
          exact hr
        obtain ⟨hon, hbit, hothers, hstop, hmem, hkeep⟩ := h.chunk_mismatch hecc ha hy (hwhole.2 hw) hr'
        exact ⟨hon, hbit, hothers, hstop, fun hn => hmem.trans (h.chunk_early hn), hkeep⟩
  · obtain ⟨hnotice, -, -⟩ := h.chamber_taken hst ho hold
    refine ⟨fun hr hl => hgo ?_, fun hr hl => hgo ?_, fun hr => hgo ?_⟩ <;> rw [hnotice hstep]
    · exact h.notice_ends ha hy hr hl
    · exact h.notice_stops ha hy hr hl
    · obtain ⟨hon, hside⟩ := h.notice_stopped ha hy hr
      exact ⟨hon, hsame hside⟩
  · obtain ⟨-, htoken, -⟩ := h.chamber_taken hst ho hold
    refine hgo ?_
    rw [htoken hstep]
    exact h.token ha hy hidle

end Sys2Proof.Machine
end
